-- ==== Sys2Proof/Word.lean ====
section
/-!
DEFINITION. Word.lean: the word types of the part. Registers are 32 bits wide (spec/02_control_plane.md), pair
registers 64, control-space addresses 28 (R42: a 256 MiB space).
-/
namespace Sys2Proof

abbrev Byte := BitVec 8
abbrev Word := BitVec 32
abbrev Dword := BitVec 64
abbrev Addr := BitVec 28

end Sys2Proof
end

