-- ==== Sys2Proof/Syntax.lean ====
section
/-!
DEFINITION. Syntax.lean: the commands of the block, one constructor of `Instr` for each row of spec/opcode_table.json.
A host command carries the initiator tag of R56 and the values that host software writes; an event command carries the
number of the unit concerned and what the part observes on its pins, lanes and analogue circuits.
-/
namespace Sys2Proof

/-- Initiator tags of the control bus matrix, R56: a partition Pn, the management complex, the debug port. -/
inductive Tag where
  | p (n : Fin 16)
  | m
  | d
  deriving DecidableEq, Repr

/-- Page number: address bits 27:16 of the control space, R42. -/
abbrev PageNo := Fin 4096

/-- Shape of a register-page or HBM-window access, R49 and R51: one access of 8, 16, 32 or 64 bits, or a burst of
32-bit words. -/
inductive Shape where
  | one (bits : Nat) (data : Dword)
  | burst (words : List Word)
  deriving DecidableEq, Repr

/-- Shape of a read of a register page, R49 and R51: one read of 8, 16, 32 or 64 bits, or a burst of n words. -/
inductive ReadShape where
  | one (bits : Nat)
  | burst (n : Nat)
  deriving DecidableEq, Repr

/-- What host software writes outside the control space when delivery of a message becomes possible (R65, R73): MSI-X Enable of the
function, a word of a vector of its MSI-X table in BAR2, or VF Enable of PF0's SR-IOV capability. -/
inductive PcieWrite where
  | msixEnable (on : Bool)
  | vector (v : Fin 64) (w : Fin 4) (d : Word)
  | vfEnable
  deriving DecidableEq, Repr

/-- How an endpoint ends a descriptor (R71). SEQ and FLUSH are no endpoint's: the queue itself gives them. -/
inductive EndStatus where
  | ok | trunc | late | drop | addr | policed
  deriving DecidableEq, Repr

/-- What the part reports when it completes a descriptor, R71. The stamp is the capture instant on the queue's time base, in units of
2^-16 ns since its epoch. -/
structure WriteBack where
  status : EndStatus
  xlen : BitVec 16
  stamp : BitVec 96
  source : BitVec 16
  sop : Bool
  eop : Bool
  deriving DecidableEq, Repr

/-- An Epvozel frame as received on a lane (R121 to R125): whether every codeword was corrected, the codewords and symbols
corrected, the header words H0 to H15, and the payload words that are not fill, as runs of a first word and the words from it. -/
structure EpvFrame where
  fecOk : Bool
  codewords : Nat
  symbols : Nat
  hdr : List Dword
  payload : List (Nat × List Dword)
  deriving DecidableEq, Repr

/-- The MACsec part of a received frame: receive SC, association number, packet number, and whether its integrity check
holds (R117). -/
structure MacsecIn where
  sc : Fin 16
  an : Fin 4
  pn : Dword
  icvOk : Bool
  deriving DecidableEq, Repr

/-- A PTP message as it arrives (R382, R386): port block and port, transport (0 layer 2, 1 UDPv4, 2 UDPv6), domain, sdoId,
whether it is an event message, its correctionField, the residence time that relaying it takes, in 2^-16 ns, the bytes of its
frame, and its MACsec part. -/
structure PtpMsg where
  block : Fin 48
  port : Fin 8
  transport : Fin 3
  domain : BitVec 8
  sdoId : BitVec 12
  event : Bool
  correction : Dword
  residence : Dword
  bytes : BitVec 16
  macsec : Option MacsecIn
  deriving DecidableEq, Repr

/-- A sample row of an ST 2110-20 packet (R149): second field or segment, row, offset in pixels, and its samples in the order of the
packing, each right-justified as the packet carries it: 8, 10 or 12 bits. -/
structure RasterRow where
  second : Bool
  row : Nat
  off : Nat
  samples : List (BitVec 12)
  deriving DecidableEq, Repr

/-- An ancillary packet, R26. -/
structure AncPacket where
  line : BitVec 11
  hoff : BitVec 12
  c : Bool
  stream : BitVec 7
  did : BitVec 10
  sdid : BitVec 10
  dc : BitVec 10
  udw : List (BitVec 10)
  deriving DecidableEq, Repr

/-- What a packet carries for its parser (R148): rows of a raster, sample periods of a PCM bundle with the bits of a sample (each
right-justified), sample periods of an AES3 bundle, ancillary packets, opaque bytes, or a ST 2022-6 payload, whose SDI words arrive
as SDI_EAV events. -/
inductive Payload where
  | raster (rows : List RasterRow)
  | pcm (bits : Nat) (periods : List (List (BitVec 24)))
  | aes3 (periods : List (List (Word × Word)))
  | anc (packets : List AncPacket)
  | opaque (data : List Byte)
  | sdi
  deriving DecidableEq, Repr

/-- An arriving IP packet, as far as R143 to R169 look at it. `readable` says whether the flow's parser can read it (R148),
`errored` whether it overlaps an errored allotment (R153). -/
structure Packet where
  block : Fin 48
  port : Fin 8
  v6 : Bool
  src : BitVec 128
  dst : BitVec 128
  dport : BitVec 16
  vlan : Option (BitVec 12)
  pt : BitVec 7
  ssrc : Word
  seq : BitVec 16
  extSeq : BitVec 16
  rtp : Word
  marker : Bool
  bytes : BitVec 16
  readable : Bool
  errored : Bool
  ptp : Option PtpMsg
  macsec : Option MacsecIn
  body : Payload
  deriving DecidableEq, Repr

/-- A fabric slice, as the island whose clock, supply and temperature R194 and R503 speak of: by group and number. -/
structure Island where
  group : Fin 32
  number : Fin 256
  deriving DecidableEq, Repr

/-- An SDI word as it arrives: when, in 1/512 beat after the start of the beat in which its line's EAV begins to arrive, and its
bits. -/
structure SdiWord where
  t : Nat
  w : BitVec 10
  deriving DecidableEq, Repr

/-- A 48 kHz PCM sample embedded in an SDI line (R154): its channel from 0, the sample left-justified, and whether it overlaps an
errored allotment (R153). -/
structure SdiAudio where
  ch : Fin 32
  sample : BitVec 24
  errored : Bool
  deriving DecidableEq, Repr

/-- An EAV of an SDI source with the line that it begins (R151 to R155): line number, the F bit (second field or segment), whether
its timing reference words overlap an errored allotment, whether the line's CRC words hold, the payload identifier if the line
carries one, the SDI words from the EAV up to the next, the embedded samples, and the ancillary packets, each with whether it
overlaps an errored allotment. -/
structure Eav where
  line : BitVec 16
  second : Bool
  trsErr : Bool
  crcOk : Bool
  pid : Option Word
  words : List SdiWord
  audio : List SdiAudio
  anc : List (AncPacket × Bool)
  deriving DecidableEq, Repr

/-- A route through the fabric (R176): fabric input, layer, egress channel of the output's slice. -/
structure Path where
  src : Nat
  layer : Nat
  chan : Nat
  deriving DecidableEq, Repr

/-- One input's share of a move (R184, R187): the old and the target path, and the outputs that shift. -/
structure MovePart where
  old : Path
  new : Path
  outs : List Nat
  deriving DecidableEq, Repr

/-- The start of a duplicate-then-drop move: one that is scheduled (R210), or a chain of moves that the take engine makes to
evacuate a middle slice, each but the first needing channels that the one before it releases (R190). -/
inductive MoveReq where
  | scheduled (id : Nat)
  | evacuate (chain : List (List MovePart))
  deriving DecidableEq, Repr

/-- A placement found by the route solver (R209, R210): for each member the path of each port of its group, and the moves
with their swap beats. -/
structure Plan where
  members : List (List Path)
  moves : List (Nat × List MovePart)
  deriving DecidableEq, Repr

/-- Who a transaction of the take engine is: a tag of a partition (R201), or the forced removal of partition p's grant on a
source (R220). -/
inductive TxId where
  | cmd (p : Fin 16) (tag : Word)
  | forced (src : Nat) (p : Fin 16)
  deriving DecidableEq, Repr

/-- A user of the reel store's HBM port, R249. -/
inductive ReelUser where
  | fs (n : Fin 1024)
  | head (n : Fin 64)
  | record (n : Fin 128)
  | playout (n : Fin 128)
  | window
  deriving DecidableEq, Repr

/-- Samples that a TDM port delivers to an audio input channel in a block (R293): the port, the channel, and one sample for each period.
The other sources are within the part or in host memory. -/
structure AudIn where
  port : Fin 8
  ch : BitVec 16
  samples : List (BitVec 24)
  deriving DecidableEq, Repr

/-- What host memory holds in a buffer of a transmit queue of BIND 2 (R294): the queue, the descriptor's TAG, and the bytes read. -/
structure AudBuf where
  q : Fin 64
  tag : Word
  bytes : List (BitVec 8)
  deriving DecidableEq, Repr

/-- The active video of one picture of an SDI source, as the compositor takes it from the bitstream (R351): its lines of 4:2:2 samples in
the order of R21. A raster source's picture is taken from the words that leave the fabric. -/
structure Picture where
  lines : List (List (BitVec 12))
  deriving DecidableEq, Repr

/-- A beacon of the Garpen bus whose CRC holds (R406): EPOCH, CYCLE, FLAGS.LPI, WAKE_US and the 240 map bytes. -/
structure Beacon where
  epoch : BitVec 8
  cycle : BitVec 24
  lpi : Bool
  wakeUs : BitVec 16
  map : List Byte
  deriving DecidableEq, Repr

/-- What the boot ROM finds when it verifies the active slot (R448, R449): whether the image verifies, and the reason of R453 when it
does not. -/
structure BootCheck where
  ok : Bool
  reason : BitVec 8
  deriving DecidableEq, Repr

/-- The part of R448 that needs the fuses and cryptography: the key is trusted (R447), the signature is correct, and every block
matches its DIGEST. -/
structure ImageCheck where
  ok : Bool
  deriving DecidableEq, Repr

/-- An entry of the collector's tables (R482, R492): of the source configuration, of the severity reactions, of a partition's source
status or fault log. -/
inductive FltEntry where
  | config (src : Fin 640)
  | severity (e : Fin 4)
  | status (part : Fin 16) (src : Fin 640)
  | log (part : Fin 16) (n : Fin 64)
  deriving DecidableEq, Repr

/-- An occurrence of a hardware source (R469), or of a memory error that reports through a FOL page. -/
structure HwOcc where
  src : Fin 640
  inst : BitVec 16
  deriving DecidableEq, Repr

/-- The commands of the block, in the order of the table. -/
inductive Instr where
  /-- RESET_N, R11 -/
  | resetN
  /-- PERST_N, R11 -/
  | perstN
  /-- POWER_LOSS, R11 -/
  | powerLoss
  /-- MANAGEMENT_WARM_RESET, R11 -/
  | managementWarmReset
  /-- REGISTER_WRITE, R16 -/
  | registerWrite (t : Tag) (a : Addr) (sh : Shape)
  /-- PAIR_LOWER_READ, R50 -/
  | pairLowerRead (t : Tag) (a : Addr) (sh : ReadShape)
  /-- PAIR_LOWER_WRITE, R50 -/
  | pairLowerWrite (t : Tag) (a : Addr) (d : Word)
  /-- PAIR_UPPER_WRITE, R50 -/
  | pairUpperWrite (t : Tag) (a : Addr) (d : Word)
  /-- BUS_TIMEOUT, R53 -/
  | busTimeout (t : Tag) (a : Addr) (wr : Bool) (sh : Shape) (lands : Bool)
  /-- PAGE_OWNER_WRITE, R46 -/
  | pageOwnerWrite (t : Tag) (pg : PageNo) (owner : Fin 16)
  /-- PAGE_LOCK, R517 -/
  | pageLock (t : Tag) (pg : PageNo)
  /-- PAGE_UNLOCK, R517 -/
  | pageUnlock (t : Tag) (pg : PageNo)
  /-- TABLE_READ, R54 -/
  | tableRead (t : Tag) (pg : PageNo) (ainc : Bool)
  /-- TABLE_WRITE, R54 -/
  | tableWrite (t : Tag) (pg : PageNo) (ainc : Bool)
  /-- TABLE_OP_DONE, R54 -/
  | tableOpDone (pg : PageNo) (bank : Fin 16)
  /-- RESULT_REQUEST, R74 -/
  | resultRequest (t : Tag) (pg : PageNo)
  /-- RESULT_COMPLETE, R74 -/
  | resultComplete (pg : PageNo) (bank : Fin 16) (meas : BitVec 128)
  /-- SNAPSHOT, R75 -/
  | snapshot (t : Tag) (pg : PageNo)
  /-- FLR_VF, R66 -/
  | flrVf (n : Fin 16)
  /-- FLR_PF, R66 -/
  | flrPf
  /-- VF_ENABLE_CLEAR, R66 -/
  | vfEnableClear
  /-- QUEUE_ENABLE, R67 -/
  | queueEnable (t : Tag) (q : Fin 64) (rx : Bool)
  /-- QUEUE_DISABLE, R67 -/
  | queueDisable (t : Tag) (q : Fin 64) (rx : Bool)
  /-- QUEUE_DRAIN_DONE, R67 -/
  | queueDrainDone (q : Fin 64) (rx : Bool)
  /-- Q_TAIL_WRITE, R68 -/
  | qTailWrite (t : Tag) (q : Fin 64) (rx : Bool) (tail : BitVec 12)
  /-- DESCRIPTOR_FETCH, R68 -/
  | descriptorFetch (q : Fin 64) (rx : Bool) (d : BitVec 256) (hdr : BitVec 128)
  /-- DESCRIPTOR_COMPLETE, R71 -/
  | descriptorComplete (q : Fin 64) (rx : Bool) (r : WriteBack)
  /-- MSIX_DELIVER, R73 -/
  | msixDeliver (p : Fin 16) (cause : Fin 256) (w : Option PcieWrite)
  /-- INTERRUPT_HOLDOFF_EXPIRE, R67 -/
  | interruptHoldoffExpire (q : Fin 64) (rx : Bool)
  /-- LANE_START, R91 -/
  | laneStart (t : Tag) (b : Fin 48)
  /-- LANE_STOP, R91 -/
  | laneStop (t : Tag) (b : Fin 48)
  /-- LANE_RETRAIN, R100 -/
  | laneRetrain (t : Tag) (b : Fin 48) (mask : BitVec 8)
  /-- LANE_SHED, R100 -/
  | laneShed (t : Tag) (b : Fin 48) (mask : BitVec 8)
  /-- LANE_BLK_CFG_WRITE, R107 -/
  | laneBlkCfgWrite (t : Tag) (b : Fin 48) (d : Word)
  /-- LANE_DISABLE, R101 -/
  | laneDisable (t : Tag) (l : Fin 384)
  /-- SIGNAL_DETECT, R91 -/
  | signalDetect (l : Fin 384)
  /-- TRAINING_FRAME, R85 -/
  | trainingFrame (l : Fin 384) (ctl sts : BitVec 48) (clean : Bool) (snr : BitVec 16)
  /-- TAP_TIMEOUT, R88 -/
  | tapTimeout (l : Fin 384)
  /-- STEP_UP_LOCK, R91 -/
  | stepUpLock (l : Fin 384)
  /-- TRAIN_TIMEOUT, R94 -/
  | trainTimeout (l : Fin 384)
  /-- LANE_HOLD_EXPIRE, R91 -/
  | laneHoldExpire (l : Fin 384)
  /-- LOSS_OF_LOCK, R97 -/
  | lossOfLock (l : Fin 384)
  /-- SNR_LOW, R108 -/
  | snrLow (l : Fin 384) (snr : BitVec 16)
  /-- SEQ_LOADED, R96 -/
  | seqLoaded (b : Fin 48)
  /-- SEQ_FAULT, R96 -/
  | seqFault (b : Fin 48)
  /-- PRBS_GEN_WRITE, R103 -/
  | prbsGenWrite (t : Tag) (l : Fin 384) (d : Word)
  /-- CHECKER_LOCK, R104 -/
  | checkerLock (l : Fin 384)
  /-- CHECKER_UNLOCK, R104 -/
  | checkerUnlock (l : Fin 384)
  /-- INJECT_GO, R105 -/
  | injectGo (t : Tag) (l : Fin 384) (d : Word)
  /-- INJECT_RATE_ERROR, R105 -/
  | injectRateError (l : Fin 384)
  /-- EYE_REQUEST, R106 -/
  | eyeRequest (t : Tag) (b : Fin 48)
  /-- TX_COEF_WRITE, R109 -/
  | txCoefWrite (t : Tag) (l : Fin 384) (d : BitVec 64)
  /-- TX_COEF_APPLY, R109 -/
  | txCoefApply (l : Fin 384)
  /-- PORT_BLK_CFG_WRITE, R112 -/
  | portBlkCfgWrite (t : Tag) (b : Fin 48) (d : Word)
  /-- PORT_ETH_CFG_WRITE, R116 -/
  | portEthCfgWrite (t : Tag) (b : Fin 48) (d : Word)
  /-- ETH_LINK_UP, R114 -/
  | ethLinkUp (b : Fin 48) (p : Fin 8) (ability : Bool)
  /-- ETH_LINK_DOWN, R99 -/
  | ethLinkDown (b : Fin 48) (p : Fin 8)
  /-- LPI_ENTER, R115 -/
  | lpiEnter (b : Fin 48) (p : Fin 8)
  /-- LPI_EXIT, R115 -/
  | lpiExit (b : Fin 48) (p : Fin 8)
  /-- MACSEC_TX_FRAME, R119 -/
  | macsecTxFrame (b : Fin 48) (p : Fin 8) (etype : BitVec 16)
  /-- EPV_FRAME_RECEIVE, R124 -/
  | epvFrameReceive (b : Fin 48) (l : Fin 8) (f : EpvFrame)
  /-- EPV_FRAME_SEND, R128 -/
  | epvFrameSend (b : Fin 48)
  /-- MAP_SWAP, R128 -/
  | mapSwap (t : Tag) (b : Fin 48)
  /-- REJOIN, R133 -/
  | rejoin (t : Tag) (b : Fin 48)
  /-- PACKET_ARRIVE, R143 -/
  | packetArrive (k : Packet)
  /-- SDI_EAV, R151 -/
  | sdiEav (ei : Fin 4096) (e : Eav)
  /-- TRS_TIMEOUT, R151 -/
  | trsTimeout (ei : Fin 4096)
  /-- UNIT_PRESENT, R159 -/
  | unitPresent (ei : Fin 4096)
  /-- HOST_UNIT_LAUNCH, R142 -/
  | hostUnitLaunch (q : Fin 64) (body : Payload)
  /-- MERGE_PLANE_DOWN, R166 -/
  | mergePlaneDown (ei : Fin 4096) (slot : Fin 16) (planeB : Bool)
  /-- ING_CUT, R170 -/
  | ingCut (t : Tag) (sl : Fin 16) (k : Fin 8) (d : Word)
  /-- ING_CUT_CLR, R170 -/
  | ingCutClr (t : Tag) (sl : Fin 16) (k : Fin 8) (d : Word)
  /-- PAD_D_WRITE, R164 -/
  | padDWrite (t : Tag) (sl : Fin 16) (n : Fin 8) (d : Word)
  /-- FABRIC_SWAP, R181 -/
  | fabricSwap
  /-- MOVE_START, R184 -/
  | moveStart (m : MoveReq)
  /-- MOVE_COMPARE, R184 -/
  | moveCompare (id : Nat) (same : Bool)
  /-- CREDIT_MISS, R188 -/
  | creditMiss (fs : Fin 56) (lag : BitVec 8)
  /-- SLOW_CLEAR, R188 -/
  | slowClear (fs : Fin 56)
  /-- SLICE_STALL, R189 -/
  | sliceStall (fs : Fin 56)
  /-- MID_OUT_WRITE, R191 -/
  | midOutWrite (t : Tag) (d : Word)
  /-- MID_RETURN, R191 -/
  | midReturn (t : Tag) (d : Word)
  /-- ISLAND_DEGRADED, R194 -/
  | islandDegraded (isl : Island) (dv dt : BitVec 8) (nb : BitVec 8)
  /-- DEGRADED_CLEAR, R194 -/
  | degradedClear (isl : Island)
  /-- COMMIT, R203 -/
  | commit (t : Tag) (timing : BitVec 2) (count : BitVec 13)
  /-- STRIKE, R216 -/
  | strike (t : Tag)
  /-- STRIKE_FROM, R216 -/
  | strikeFrom (t : Tag)
  /-- STOP, R219 -/
  | stop (t : Tag) (timing : BitVec 2) (count : BitVec 13)
  /-- STOP_PART, R219 -/
  | stopPart (t : Tag) (timing : BitVec 2)
  /-- CLEAR, R202 -/
  | clear (t : Tag)
  /-- REHEARSAL_WINDOW, R208 -/
  | rehearsalWindow (x : TxId)
  /-- REHEARSAL_DONE, R209 -/
  | rehearsalDone (x : TxId) (plan : Option Plan)
  /-- ARM_GRANT, R211 -/
  | armGrant (x : TxId)
  /-- MEMBER_COMMIT, R212 -/
  | memberCommit (x : TxId) (mi : Nat)
  /-- ANYFMT_SWAP, R213 -/
  | anyfmtSwap (x : TxId) (mi : Nat)
  /-- NO_SWP, R213 -/
  | noSwp (x : TxId) (mi : Nat)
  /-- TAKE_QUERY_ROUTE, R226 -/
  | takeQueryRoute (t : Tag) (out : BitVec 13)
  /-- TAKE_QUERY_TAG, R226 -/
  | takeQueryTag (t : Tag) (tag : Word)
  /-- FIRMWARE_READY, R221 -/
  | firmwareReady
  /-- FS_FRAME_COMPLETE, R238 -/
  | fsFrameComplete (f : Fin 1024)
  /-- FS_DECISION, R239 -/
  | fsDecision (f : Fin 1024)
  /-- REC_START, R247 -/
  | recStart (t : Tag) (port : BitVec 7)
  /-- REC_STOP, R247 -/
  | recStop (t : Tag) (port : BitVec 7)
  /-- PLAY, R247 -/
  | play (t : Tag) (port : BitVec 7)
  /-- PAUSE, R247 -/
  | pause (t : Tag) (port : BitVec 7)
  /-- PLAYOUT_STOP, R247 -/
  | playoutStop (t : Tag) (port : BitVec 7)
  /-- REEL_CMD_EFFECT, R247 -/
  | reelCmdEffect (isPlay : Bool) (port : Fin 128)
  /-- RECORD_FRAME, R245 -/
  | recordFrame (port : Fin 128)
  /-- PLAYOUT_FRAME, R246 -/
  | playoutFrame (port : Fin 128)
  /-- HBM_LINE_COMPLETE, R249 -/
  | hbmLineComplete (u : ReelUser) (late : Bool) (ecc : Fin 3)
  /-- HBM_WINDOW_ACCESS, R251 -/
  | hbmWindowAccess (t : Tag) (a : BitVec 24) (wr : Bool) (sh : Shape)
  /-- HBM_TRAINED, R253 -/
  | hbmTrained (h : Fin 4) (ok : Bool)
  /-- HBM_FAIL, R254 -/
  | hbmFail (h : Fin 4) (throttled : Bool)
  /-- PACKET_DEPART, R267 -/
  | packetDepart (eo : Fin 4096) (slot : Fin 16)
  /-- EGRESS_FAILOVER, R274 -/
  | egressFailover (b : Fin 48) (p : Fin 8) (remote : Bool)
  /-- EGRESS_REVERT, R275 -/
  | egressRevert (b : Fin 48) (p : Fin 8)
  /-- AUDIO_BLOCK, R286 -/
  | audioBlock (tb : Fin 8) (hi96 : Bool) (ins : List AudIn) (bufs : List AudBuf)
  /-- AUD_COMMIT, R299 -/
  | audCommit (t : Tag) (timing : BitVec 2) (count : BitVec 13)
  /-- AUD_STRIKE, R301 -/
  | audStrike (t : Tag)
  /-- AUD_STOP, R299 -/
  | audStop (t : Tag) (timing : BitVec 2) (count : BitVec 13)
  /-- AUD_CLEAR, R298 -/
  | audClear (t : Tag)
  /-- AUD_ARM_GRANT, R300 -/
  | audArmGrant (x : TxId)
  /-- AUD_MEMBER_COMMIT, R302 -/
  | audMemberCommit (x : TxId) (mi : Nat)
  /-- AUD_QUERY_ROUTE, R307 -/
  | audQueryRoute (t : Tag) (ch : BitVec 16)
  /-- AUD_QUERY_PEAK, R307 -/
  | audQueryPeak (t : Tag) (ch : BitVec 16)
  /-- AUD_QUERY_TAG, R307 -/
  | audQueryTag (t : Tag) (tag : Word)
  /-- TDM_STOP, R292 -/
  | tdmStop (p : Fin 8)
  /-- FOLEY_EXCHANGE_IN, R333 -/
  | foleyExchangeIn (c : Fin 64)
  /-- FOLEY_EXCHANGE_OUT, R333 -/
  | foleyExchangeOut (c : Fin 64)
  /-- FOLEY_DEADLINE, R334 -/
  | foleyDeadline (c : Fin 64)
  /-- FOLEY_OVERRUN, R335 -/
  | foleyOverrun (c : Fin 64)
  /-- FOL_START, R340 -/
  | folStart (t : Tag) (c : Fin 64)
  /-- FOL_STOP, R340 -/
  | folStop (t : Tag) (c : Fin 64)
  /-- FOL_SPARE, R340 -/
  | folSpare (t : Tag) (c : Fin 64)
  /-- FOL_RELEASE, R340 -/
  | folRelease (t : Tag) (c : Fin 64)
  /-- FOL_MOVE, R338 -/
  | folMove (t : Tag) (c : Fin 64)
  /-- CORE_MOVE_HALT, R339 -/
  | coreMoveHalt (c : Fin 64)
  /-- CORE_MOVE_RESUME, R339 -/
  | coreMoveResume (c : Fin 64)
  /-- MPY, R317 -/
  | foMpy (c : Fin 64)
  /-- MAC, R317 -/
  | foMac (c : Fin 64)
  /-- MSU, R317 -/
  | foMsu (c : Fin 64)
  /-- CLR, R318 -/
  | foClr (c : Fin 64)
  /-- ADD, R318 -/
  | foAdd (c : Fin 64)
  /-- SUB, R318 -/
  | foSub (c : Fin 64)
  /-- NEG, R318 -/
  | foNeg (c : Fin 64)
  /-- ABS, R318 -/
  | foAbs (c : Fin 64)
  /-- MAX, R318 -/
  | foMax (c : Fin 64)
  /-- MIN, R318 -/
  | foMin (c : Fin 64)
  /-- ASL, R318 -/
  | foAsl (c : Fin 64)
  /-- ASR, R318 -/
  | foAsr (c : Fin 64)
  /-- AND, R318 -/
  | foAnd (c : Fin 64)
  /-- OR, R318 -/
  | foOr (c : Fin 64)
  /-- XOR, R318 -/
  | foXor (c : Fin 64)
  /-- MOVA, R318 -/
  | foMova (c : Fin 64)
  /-- ADDD, R318 -/
  | foAddd (c : Fin 64)
  /-- MOVD, R318 -/
  | foMovd (c : Fin 64)
  /-- MOVDA, R318 -/
  | foMovda (c : Fin 64)
  /-- SETLO, R318 -/
  | foSetlo (c : Fin 64)
  /-- SETHI, R318 -/
  | foSethi (c : Fin 64)
  /-- FIR, R319 -/
  | foFir (c : Fin 64)
  /-- FIRD, R319 -/
  | foFird (c : Fin 64)
  /-- SMAX, R320 -/
  | foSmax (c : Fin 64)
  /-- SMIN, R320 -/
  | foSmin (c : Fin 64)
  /-- SMAXA, R320 -/
  | foSmaxa (c : Fin 64)
  /-- SMINA, R320 -/
  | foSmina (c : Fin 64)
  /-- LD, R321 -/
  | foLd (c : Fin 64)
  /-- ST, R321 -/
  | foSt (c : Fin 64)
  /-- LDA, R321 -/
  | foLda (c : Fin 64)
  /-- STA, R321 -/
  | foSta (c : Fin 64)
  /-- STAH, R321 -/
  | foStah (c : Fin 64)
  /-- LDI, R321 -/
  | foLdi (c : Fin 64)
  /-- LDP, R321 -/
  | foLdp (c : Fin 64)
  /-- NOP, R322 -/
  | foNop (c : Fin 64)
  /-- BRA, R325 -/
  | foBra (c : Fin 64)
  /-- BCC, R325 -/
  | foBcc (c : Fin 64)
  /-- CALL, R322 -/
  | foCall (c : Fin 64)
  /-- RET, R322 -/
  | foRet (c : Fin 64)
  /-- LOOP, R326 -/
  | foLoop (c : Fin 64)
  /-- LOOPD, R326 -/
  | foLoopd (c : Fin 64)
  /-- LEAVE, R326 -/
  | foLeave (c : Fin 64)
  /-- WAITBLK, R333 -/
  | foWaitblk (c : Fin 64)
  /-- DONE, R334 -/
  | foDone (c : Fin 64)
  /-- RTE, R331 -/
  | foRte (c : Fin 64)
  /-- HALT, R340 -/
  | foHalt (c : Fin 64)
  /-- TRAP, R328 -/
  | foTrap (c : Fin 64)
  /-- MOVM, R323 -/
  | foMovm (c : Fin 64)
  /-- MOVMD, R323 -/
  | foMovmd (c : Fin 64)
  /-- RDM, R323 -/
  | foRdm (c : Fin 64)
  /-- RDS, R323 -/
  | foRds (c : Fin 64)
  /-- WRS, R323 -/
  | foWrs (c : Fin 64)
  /-- EXT, R324 -/
  | foExt (c : Fin 64) (timeout : Option Bool)
  /-- HEAD_DECISION, R356 -/
  | headDecision (h : Fin 64)
  /-- LAYER_PICTURE_COMPLETE, R357 -/
  | layerPictureComplete (l : Fin 384) (pic : Picture)
  /-- SET_RATE, R374 -/
  | setRate (t : Tag) (tb : Fin 8)
  /-- SLEW, R374 -/
  | slew (t : Tag) (tb : Fin 8)
  /-- STEP, R374 -/
  | stepTime (t : Tag) (tb : Fin 8)
  /-- SET_TIME, R374 -/
  | setTime (t : Tag) (tb : Fin 8)
  /-- PTP_MESSAGE_RECEIVE, R382 -/
  | ptpMessageReceive (m : PtpMsg)
  /-- PTP_SYNC, R376 -/
  | ptpSync (tb : Fin 8) (offset : BitVec 64) (mpd : Word) (gm : BitVec 64) (utc : BitVec 16) (rate : Word)
  /-- PTP_ANNOUNCE_TIMEOUT, R376 -/
  | ptpAnnounceTimeout (tb : Fin 8)
  /-- COMPARATOR_FIRE, R379 -/
  | comparatorFire (k : Fin 512)
  /-- TIME_CAPTURE, R397 -/
  | timeCapture (t : Tag)
  /-- CAND_MISSING_EDGE, R388 -/
  | candMissingEdge (c : Fin 8)
  /-- CAND_FREQ_WINDOW, R388 -/
  | candFreqWindow (c : Fin 8) (ppb : Word)
  /-- CAND_QUALIFIED, R388 -/
  | candQualified (c : Fin 8)
  /-- CAND_WTR_EXPIRE, R388 -/
  | candWtrExpire (c : Fin 8)
  /-- DPLL_LOCK, R392 -/
  | dpllLock (d : Fin 4)
  /-- DPLL_LOCK_LOST, R392 -/
  | dpllLockLost (d : Fin 4)
  /-- HOLDOVER_HISTORY, R392 -/
  | holdoverHistory (d : Fin 4)
  /-- CLK_MAP_WRITE, R394 -/
  | clkMapWrite (t : Tag) (d : Word)
  /-- BEACON, R406 -/
  | beacon (b : Beacon)
  /-- BEACON_MISSING, R407 -/
  | beaconMissing
  /-- JOIN_ACK, R408 -/
  | joinAck (uid : BitVec 48) (node : BitVec 8)
  /-- JOIN_TIMEOUT, R408 -/
  | joinTimeout
  /-- REJECT_WAIT_EXPIRE, R408 -/
  | rejectWaitExpire
  /-- GBUS_TRANSMIT, R410 -/
  | gbusTransmit (slot : Fin 240) (fw : Option (Fin 1005)) (collide : Bool)
  /-- GBUS_DATA_RECEIVE, R413 -/
  | gbusDataReceive (src dst : BitVec 8) (len : BitVec 16) (crcOk : Bool)
  /-- GBUS_PAUSE, R415 -/
  | gbusPause (m : Fin 64) (us : BitVec 16)
  /-- GBUS_RESUME, R415 -/
  | gbusResume (m : Fin 64)
  /-- PAUSE_EXPIRE, R415 -/
  | pauseExpire (m : Fin 64)
  /-- PAUSE_WATCHDOG, R415 -/
  | pauseWatchdog (m : Fin 64)
  /-- PAUSE_IGNORE_EXPIRE, R415 -/
  | pauseIgnoreExpire (m : Fin 64)
  /-- LPI_REQ, R417 -/
  | lpiReq
  /-- GBUS_WAKE_TONE, R417 -/
  | gbusWakeTone
  /-- GBUS_WAKE_TIMEOUT, R417 -/
  | gbusWakeTimeout
  /-- DERIVE, R431 -/
  | derive (t : Tag)
  /-- LOAD_KEK, R428 -/
  | loadKek (t : Tag)
  /-- IMPORT, R427 -/
  | importKey (t : Tag)
  /-- SIGN, R440 -/
  | sign (t : Tag)
  /-- CHECK, R440 -/
  | check (t : Tag)
  /-- INVALIDATE, R432 -/
  | invalidate (t : Tag)
  /-- NEW_EPOCH, R432 -/
  | newEpoch (t : Tag)
  /-- SEAL_DEBUG, R436 -/
  | sealDebug (t : Tag)
  /-- RMA, R437 -/
  | rma (t : Tag)
  /-- KEY_CONFIRM, R438 -/
  | keyConfirm (t : Tag) (code : BitVec 16)
  /-- ZEROING_DONE, R432 -/
  | zeroingDone
  /-- MASK_REFRESH, R434 -/
  | maskRefresh
  /-- ENTROPY_FAIL, R434 -/
  | entropyFail
  /-- TAMPER, R435 -/
  | tamper
  /-- MEAS_SEAL, R425 -/
  | measSeal (keyDig manDig : BitVec 384) (rev : Word)
  /-- DEBUG_ACCESS, R436 -/
  | debugAccess (a : Addr)
  /-- START, R449 -/
  | start (v : BootCheck)
  /-- MGT_READY, R449 -/
  | mgtReady
  /-- START_FAIL, R450 -/
  | startFail (reason : BitVec 8) (stepNo : BitVec 4)
  /-- MANAGEMENT_WATCHDOG, R451 -/
  | managementWatchdog
  /-- WARM, R465 -/
  | warm (t : Tag)
  /-- LOAD_BEGIN, R454 -/
  | loadBegin (t : Tag) (slot : Fin 2)
  /-- LOAD_END, R454 -/
  | loadEnd (t : Tag) (slot : Fin 2)
  /-- LOAD_ABORT, R454 -/
  | loadAbort (t : Tag) (slot : Fin 2)
  /-- ACTIVATE, R456 -/
  | activate (t : Tag) (slot : Fin 2)
  /-- ACCEPT, R457 -/
  | accept (t : Tag)
  /-- REVERT, R458 -/
  | revert (t : Tag)
  /-- RECOVER, R453 -/
  | recover (t : Tag) (slot : Fin 2)
  /-- ACCEPT_WINDOW_END, R458 -/
  | acceptWindowEnd
  /-- SETTINGS_READ, R464 -/
  | settingsRead (t : Tag) (pg : BitVec 11)
  /-- SETTINGS_WRITE, R464 -/
  | settingsWrite (t : Tag) (pg : BitVec 11)
  /-- FAULT_OCCURRENCE, R473 -/
  | faultOccurrence (hw : List HwOcc) (self : Option (Fin 4))
  /-- BLOCK_RESTORED, R475 -/
  | blockRestored (pg : PageNo) (inst : BitVec 16)
  /-- FAULT_ACK, R479 -/
  | faultAck (t : Tag) (d : Word)
  /-- SELFTEST, R484 -/
  | selftest (t : Tag)
  /-- SELFTEST_DONE, R484 -/
  | selftestDone (bad : List FltEntry) (agree : Bool)
  /-- RELEASE, R484 -/
  | release (t : Tag)
  /-- FARRIER_MEASURE, R488 -/
  | farrierMeasure (l : Fin 384) (bits errs : Word) (snr : BitVec 16) (vlow vmid vup hmin : BitVec 8) (locked : Bool)
  /-- HEALTH_REPORT, R489 -/
  | healthReport
  /-- LATENCY_BUDGET_WRITE, R495 -/
  | latencyBudgetWrite (t : Tag) (d : Word)
  /-- POWER_EVALUATE, R495 -/
  | powerEvaluate
  /-- HOLD_EXPIRE, R495 -/
  | holdExpire
  /-- STATE_ENTRY_COMPLETE, R497 -/
  | stateEntryComplete
  /-- WAKE, R498 -/
  | wake (code : Fin 8) (b : Fin 48) (lastCycles : Bool)
  /-- WAKE_EXIT_DONE, R500 -/
  | wakeExitDone (inTime : Bool)
  /-- CLAP_GO, R499 -/
  | clapGo (t : Tag) (d : Word)
  /-- GATE_WRITE, R502 -/
  | gateWrite (t : Tag) (reg : Fin 3) (d : BitVec 64)
  /-- THROTTLE_STEP, R503 -/
  | throttleStep (isl : Island) (temp : BitVec 8)
  /-- THERMAL_TRIP, R503 -/
  | thermalTrip (sensor : Fin 64)
  /-- FABRIC_BEAT, R180 -/
  | fabricBeat
  /-- CANDIDATE_EDGE, R388 -/
  | candidateEdge (c : Fin 8)
  /-- RECEIVER_LOCK, R95 -/
  | receiverLock (l : Fin 384) (snr : BitVec 16)
  /-- RELOCK_TIMEOUT, R500 -/
  | relockTimeout (l : Fin 384)
  /-- PERST_N_RELEASE, R11 -/
  | perstNRelease
  /-- PCIE_LINK_CHANGE, R469 -/
  | pcieLinkChange (up : Bool)
  /-- CONDITION_END, R470 -/
  | conditionEnd (src : Fin 640)
  /-- AUTO_PAUSE_LIMIT, R416 -/
  | autoPauseLimit
  /-- ENTROPY_RESTORED, R434 -/
  | entropyRestored
  /-- TRIAL_HEALTH_TIMEOUT, R458 -/
  | trialHealthTimeout
  /-- UPDATE_COMMAND_DONE, R454 -/
  | updateCommandDone (v : ImageCheck)
  /-- CLAP_END, R499 -/
  | clapEnd
  deriving DecidableEq, Repr

end Sys2Proof
end

