-- ==== Sys2Proof/Machine/Tab.lean ====
section
/-!
DEFINITION. Machine/Tab.lean: a sparse store, kept as a list of (number, value) pairs with numbers strictly rising and no
entry equal to what an unlisted number reads as, so that equal stores are equal data. Registers, table entries and the
hidden state of the part's units are held in it.
-/
namespace Sys2Proof.Machine

/-- A sparse store of values by number. -/
abbrev Tab (α : Type) := List (Nat × α)

/-- What number k holds: its entry, or the default. -/
def Tab.get {α : Type} (d : Nat → α) : Tab α → Nat → α
  | [], k => d k
  | (j, v) :: r, k => if k = j then v else Tab.get d r k

/-- Insert or replace an entry, keeping the order. -/
def Tab.ins {α : Type} : Tab α → Nat → α → Tab α
  | [], k, v => [(k, v)]
  | (j, w) :: r, k, v =>
    if k < j then (k, v) :: (j, w) :: r
    else if k = j then (k, v) :: r
    else (j, w) :: Tab.ins r k v

/-- Remove every entry of a number. -/
def Tab.del {α : Type} : Tab α → Nat → Tab α
  | [], _ => []
  | (j, w) :: r, k => if k = j then Tab.del r k else (j, w) :: Tab.del r k

/-- Write a value: the entry goes when it equals the default. -/
def Tab.put {α : Type} [DecidableEq α] (d : Nat → α) (t : Tab α) (k : Nat) (v : α) : Tab α :=
  match t with
  | [] => if v = d k then [] else [(k, v)]
  | e :: r => if v = d k then Tab.del (e :: r) k else Tab.ins (e :: r) k v

/-- Numbers strictly rising from a bound. -/
def Tab.sortedFrom {α : Type} : Nat → Tab α → Bool
  | _, [] => true
  | b, (j, _) :: r => decide (b ≤ j) && Tab.sortedFrom (j + 1) r

/-- No entry equal to its default. -/
def Tab.noDefault {α : Type} [DecidableEq α] (d : Nat → α) : Tab α → Bool
  | [] => true
  | (j, v) :: r => decide (v ≠ d j) && Tab.noDefault d r

/-- The canonical form. -/
def Tab.wf {α : Type} [DecidableEq α] (d : Nat → α) (t : Tab α) : Bool :=
  Tab.sortedFrom 0 t && Tab.noDefault d t

/-- Keep the entries whose number passes a test. -/
def Tab.keep {α : Type} (f : Nat → Bool) : Tab α → Tab α
  | [] => []
  | (j, v) :: r => if f j then (j, v) :: Tab.keep f r else Tab.keep f r

end Sys2Proof.Machine
end

