-- ==== Sys2Proof/Machine/State.lean ====
section
/-!
DEFINITION. Machine/State.lean: the state of the part, as plain data. Registers and table entries are held by number in
sparse stores whose unlisted entries read as their reset values (Machine/Reset.lean); hidden state that the spec gives
the units, and that no register shows, is held in records below. INVENTORY.md lists every piece with its rule.
-/
namespace Sys2Proof.Machine

/-- A half of a pair register, latched or held for a master (R50): master, address of the lower half, value. -/
structure PairHold where
  master : Nat
  addr : Nat
  val : Word
  deriving DecidableEq, Repr

/-- A table operation in progress (R54): its page, its copy of the window, and the outcome it will report. -/
structure TblOp where
  page : Nat
  bank : Nat
  ecode : Nat
  deriving DecidableEq, Repr

/-- A result request in progress (R74): page, bank, number of the requesting tag, request tag, and either the outcome that
its checks gave at the request or, for a page that serves its requests later, the request registers as it read them. -/
structure ResOp where
  page : Nat
  bank : Nat
  who : Nat
  tag : Word
  ecode : Nat
  data : List Word
  deriving DecidableEq, Repr

/-- A response of the bus matrix (R52): an error, or read data. -/
structure Resp where
  err : Bool
  data : Dword
  deriving DecidableEq, Repr

/-- A word of a write that has timed out and may still take effect in its target (R53): who wrote it, where, the lower half that an
upper half applies with it, and the word. -/
structure LateWrite where
  tag : Tag
  addr : Nat
  held : Option Word
  data : Word
  deriving DecidableEq, Repr

/-- State of the bus matrix: halves latched and held, operations and requests in progress, writes that have timed out and may still
land, and the responses of the latest access that has any, one for each word of a read burst. -/
structure BusSt where
  pairRd : List PairHold
  pairWr : List PairHold
  ops : List TblOp
  res : List ResOp
  late : List LateWrite
  resp : List Resp
  deriving DecidableEq, Repr

/-- What an endpoint has made of a descriptor (R71): STATUS, XLEN, SOURCE, SOP and EOP, and the instant of its timestamp where the
part has taken one, in 2^-16 ns since the epoch. -/
structure Done where
  status : Nat
  xlen : Nat
  source : Nat
  sop : Bool
  eop : Bool
  stamp : Option (BitVec 96)
  deriving DecidableEq, Repr

/-- Where a transmit buffer of BIND 2 may be played (R295): the first period that begins at or after its fetch, the period of its
LAUNCH_TIME, and the period where it starts as the first buffer after EN. -/
structure PlayAt where
  ready : Int
  launch : Option Int
  first : Int
  deriving DecidableEq, Repr

/-- A descriptor in flight (R68, R70): its TAG, whether the tag broke R69, its words as fetched, the first 16 bytes of a transmit
buffer, whether it has been handed to its port's transmit queue (R270), where an audio buffer may be played (R295), and what its
endpoint has made of it. -/
structure Flight where
  tag : Word
  bad : Bool
  desc : BitVec 256
  hdr : BitVec 128
  given : Bool
  play : Option PlayAt
  fin : Option Done
  deriving DecidableEq, Repr

/-- Hidden state of a DMA queue: the next TAG expected (R69), where fetching stands, the descriptors in flight, and the
completions since the last completion interrupt (R67); of an audio queue (R294, R295) the periods of its buffer in progress that have
been played or filled, whether a buffer has been played since EN, whether no buffer was ready for the latest period, and the instant of
the filling buffer's first period. -/
structure QRec where
  nextTag : Option Word
  fetch : Nat
  flight : List Flight
  since : Nat
  used : Nat
  begun : Bool
  gap : Bool
  stamp : BitVec 96
  deriving DecidableEq, Repr

/-- A queue that is disabled. -/
def QRec.idle : QRec := ⟨none, 0, [], 0, 0, false, false, 0⟩

/-- The PCIe side of the host interface (R65, R66, R72): the PERST_N pin, the link, VF Enable, MSI-X Enable of each
function, and the MSI-X tables of BAR2 (function × 256 + vector × 4 + word). -/
structure HostSt where
  perstN : Bool
  linkUp : Bool
  vfEnable : Bool
  msixEnable : BitVec 16
  msix : Tab Word
  queues : Tab QRec
  deriving DecidableEq, Repr

/-- The fuses: LC (R421, thermometer code as its number), the four DBG_SEAL fuses (R436), and the revocation fuses of the
four signing keys (R447). -/
structure FuseSt where
  lc : BitVec 2
  dbgSeal : BitVec 4
  signRevoked : BitVec 4
  deriving DecidableEq, Repr

/-- A key cell: the two shares of R434. The key is their exclusive or. -/
structure KeyCell where
  a : BitVec 256
  b : BitVec 256
  deriving DecidableEq, Repr

/-- A KEEP record of the settings store (R430): image slot, handle, the node's words, its key, and the measurement under
which it was wrapped. -/
structure KeepRec where
  slot : Nat
  handle : Nat
  words : List Word
  key : BitVec 256
  meas : BitVec 384
  deriving DecidableEq, Repr

/-- The key store: cells of the live nodes, the code armed by KEY.CONFIRM with its beat (R438), whether a tamper event
has emptied the store (R435), and in the settings store GEN_p, EPOCH_p (R431) and the KEEP records (R430). -/
structure KeySt where
  cells : Tab KeyCell
  confirm : Option (BitVec 16 × Nat)
  tampered : Bool
  gen : Tab Word
  epoch : Tab Word
  keep : List KeepRec
  deriving DecidableEq, Repr

/-- A tap request of this end's receiver (R87): TAP, ACTION, PRESET, and whether its answer has come. -/
structure TapReq where
  tap : Nat
  action : Nat
  preset : Nat
  answered : Bool
  deriving DecidableEq, Repr

/-- Hidden state of a lane's bring-up (R87 to R95): the agreed step, whether this is the first bring-up, consecutive clean
frames at step 0, the STEPCMD sent and for how many frames the final one was sent and received, the tap request in
progress, the answer that this end's transmitter stands by (ECHO, RESULT), the beat at which the attempt began, a
coefficient write that waits for its boundary (R109), whether rate injection runs (R105), whether the lane was READY
when SLEEP was entered (R500), RXDONE (R92), the 10 µs window in which SNR_EST was last reported (R84), the beat of the latest SHED
(R100), the beat in which the injected error in progress ends (R105), and whether the checker is locked (R104). -/
structure LaneRec where
  agreed : Nat
  first : Bool
  clean : Nat
  cmd : Nat
  sentFinal : Nat
  recvFinal : Nat
  req : Option TapReq
  echo : Nat
  result : Nat
  start : Nat
  pendCoef : Option Dword
  rateInj : Bool
  kept : Bool
  rxDone : Bool
  snrAt : Nat
  shedAt : Option Nat
  injUntil : Nat
  checking : Bool
  deriving DecidableEq, Repr

/-- A lane that has not begun. -/
def LaneRec.idle : LaneRec := ⟨3, true, 0, 0, 0, 0, none, 0, 0, 0, none, false, false, false, 0, none, 0, false⟩

/-- Hidden state of an Epvozel group (R122 to R134): the frame count, the partner's RX_OK and RX_READY, the receive bank
its headers name, its EPOCH and TX_LANES, consecutive bad frames per lane, the lane number that each lane's headers carry,
the lanes shed and not yet rejoined, the requests that wait for the next frame boundary, and whether the link has gone down since the
latest one (R98, R134). -/
structure EpvRec where
  frame : Word
  peerOk : BitVec 8
  peerReady : BitVec 8
  rxBank : Nat
  peerEpoch : Nat
  peerLanes : BitVec 8
  bad : List Nat
  filed : List Nat
  shed : BitVec 8
  swap : Bool
  rejoin : Bool
  down : Bool
  deriving DecidableEq, Repr

/-- A group before its first frame. -/
def EpvRec.idle : EpvRec :=
  ⟨0, 0, 0, 0, 0, 0, [0, 0, 0, 0, 0, 0, 0, 0], [0, 1, 2, 3, 4, 5, 6, 7], 0, false, false, false⟩

/-- One occurrence of a fault source (R470): source, INSTANCE, attributed partition. -/
structure Occ where
  src : Nat
  inst : Nat
  part : Nat
  deriving DecidableEq, Repr

/-- An instant on a time base: num / den nanoseconds since the epoch (R37, R369). -/
structure At where
  tb : Nat
  num : Int
  den : Nat
  deriving DecidableEq, Repr

/-- An adjustment accepted for the next beat (R374, R519): a rate, a slew or step of 2^-16 ns units, a new time in 2^-48 ns. -/
inductive Adj where
  | rate (r : Word)
  | slew (n : Int)
  | step (n : Int)
  | set (t : Nat)
  deriving DecidableEq, Repr

/-- Hidden state of a time base (R371 to R376): its time in units of 2^-48 ns, the part of a slew not yet absorbed in the
same unit, adjustments for the next beat, and the PTP servo: its state, consecutive good and bad Sync intervals, the RATE
of its latest Sync intervals, whether it has had a qualified master, and the beat of its latest step. -/
structure TbRec where
  t : Nat
  slew : Int
  adj : List Adj
  servo : Nat
  good : Nat
  bad : Nat
  rates : List Int
  hadMaster : Bool
  stepAt : Option Nat
  deriving DecidableEq, Repr

/-- A time base after reset. -/
def TbRec.off : TbRec := ⟨0, 0, [], 2, 0, 0, [], false, none⟩

/-- Hidden state of a comparator (R379, R380): the number k of its next target, whether that target had passed when the entry was
written, the beat of the write, and DATA0 to DATA5, k and lateness as they stood before it. -/
structure CmpRec where
  k : Nat
  late : Bool
  wrote : Option Nat
  old : List Word
  oldK : Nat
  oldLate : Bool
  deriving DecidableEq, Repr

/-- A comparator whose entry nothing has written. -/
def CmpRec.idle : CmpRec := ⟨0, false, none, [], 0, false⟩

/-- Hidden state of a reference candidate (R388): missing edges since the last edge, whether it has ever been ELIGIBLE, whether its
latest frequency window was out of tolerance, and the beat in which it entered WAIT. -/
structure CandRec where
  missing : Nat
  ever : Bool
  out : Bool
  waitAt : Nat
  deriving DecidableEq, Repr

/-- A candidate before its first edge. -/
def CandRec.idle : CandRec := ⟨0, false, false, 0⟩

/-- A fabric word with its sideband. -/
structure FWord where
  data : BitVec 72
  side : BitVec 8
  deriving DecidableEq, Repr

/-- When a loaded swap is made: at its destination's mark, in a beat, or at the source's SWP word (R213). -/
inductive SwapDue where
  | mark (a : At)
  | beat (n : Nat)
  | swp
  deriving DecidableEq, Repr

/-- A swap loaded into the fabric's shadow (R181): the member it belongs to, the paths its outputs take, when it is made, the stages that
have swapped (0 none, 1 ingress, 2 middle, 3 egress), the swap beat and the linear count at its start. -/
structure Swap where
  id : TxId
  member : Nat
  paths : List (Nat × Option Path)
  due : SwapDue
  stage : Nat
  beat : Nat
  lin : Dword
  deriving DecidableEq, Repr

/-- A move (R184): its parts, swap beat, the transaction whose rehearsal asked for it or none for an evacuation, the retries
left, whether its target was connected, the beat in which its compare was made, and whether it matched. -/
structure MoveRec where
  id : Nat
  parts : List MovePart
  b0 : Nat
  tx : Option TxId
  tries : Nat
  started : Bool
  joined : Bool
  compared : Option Nat
  matched : Bool
  deriving DecidableEq, Repr

/-- The fabric (R174 to R194). Paths in force by output in each stage, and those of the egress stage in the latest beats (latest
first); shadow swaps; moves; the words in flight by age in beats, keyed by input, ingress channel, egress channel or output; the
words that wait for their beat at each input; credit misses and stalls of each slice by beat; slices flagged degraded and SLOW;
slices under evacuation; the paths of the ingress stage before the swaps of the latest beat that made one, and the latest beat whose
swap was refused (R182); the differences of the pairs whose island is flagged, by slice x 256 + neighbour (R194). -/
structure FabSt where
  ing : Tab (Option Path)
  mid : Tab (Option Path)
  egr : Tab (Option Path)
  past : List (Tab (Option Path))
  swaps : List Swap
  moves : List MoveRec
  moveId : Nat
  flight : List (List (Nat × FWord))
  due : Tab (List (Nat × FWord))
  misses : Tab (List Nat)
  stall : Tab Nat
  degraded : List Nat
  slow : List Nat
  evac : List Nat
  base : Tab (Option Path)
  clash : Option Nat
  xing : Tab (Nat × Nat)
  deriving DecidableEq, Repr

/-- A member of a transaction (R200, R204, R206): destination, source or silence, ports of its group, mark (none where the
destination has none of its own) and arm point, whether it is superseded, put off to its next mark, or committed, and the
paths reserved. -/
structure Member where
  dst : Nat
  src : Option Nat
  n : Nat
  mark : Option At
  arm : At
  superseded : Bool
  nextMark : Bool
  fin : Bool
  paths : List Path
  deriving DecidableEq, Repr

/-- A transaction of the take engine (R200, R207): who, whether it is a silence of P0, its order of acceptance, its STATE, the
instant its rehearsal window opens, its arm point, the beat in which the window opened, whether its latest completed rehearsal found
no placement and whether the solver tries again since, the moves still to complete, its members, the linear counts at the mark of
entry 0 and at its arm grant, and the beat of the grant. -/
structure Tx where
  id : TxId
  silence : Bool
  order : Nat
  state : Nat
  win : At
  arm : At
  opened : Option Nat
  noPlace : Bool
  retry : Bool
  moves : List Nat
  members : List Member
  mark0 : Dword
  grant : Dword
  grantBeat : Nat
  deriving DecidableEq, Repr

/-- What is kept of a finished transaction (R226). -/
structure TxEnd where
  part : Nat
  tag : Word
  state : Nat
  count : Nat
  mark0 : Dword
  grant : Dword
  superseded : Nat
  nextMark : Nat
  deriving DecidableEq, Repr

/-- The take engine: unfinished transactions, finished ones (latest first), the count that orders acceptance, the grants whose
forced removal is in progress (source, partition), and whether management firmware runs the route solver (R221). -/
structure TakeSt where
  txs : List Tx
  ends : List TxEnd
  order : Nat
  removing : List (Nat × Nat)
  solver : Bool
  clearing : List (Nat × Nat × Nat)
  solving : Option TxId
  deriving DecidableEq, Repr

/-- A word of a unit in a paddock buffer: the beat in which it follows the first, its payload, and SOL. -/
structure PadWord where
  beat : Nat
  data : BitVec 72
  sol : Bool
  deriving DecidableEq, Repr

/-- A unit in a paddock buffer, or a part of one (R157, R159): its slot, its number on its grid (line, sample period or frame
since the epoch), for a raster line the number of its first sample and its samples, for any other kind its words, when it is
shown, whether it is the first unit of an opaque media frame (R28), and of an SDI line the embedded samples by channel (R154). -/
structure PadUnit where
  slot : Nat
  unit : Int
  off : Nat
  samples : List (BitVec 12)
  words : List PadWord
  shown : At
  first : Bool
  audio : List (Nat × BitVec 24)
  deriving DecidableEq, Repr

/-- Hidden state of a merge pair (R165 to R167): the highest number taken and the numbers taken behind it, the numbers taken from
plane B with the beat of the latest, the beat of the latest packet of each plane, arrivals of numbers seen on one plane so far
(number, plane B, linear count), and the sum and count of the arrival differences. -/
structure MergeRec where
  high : Option Nat
  taken : List Nat
  fromB : List Nat
  fromBAt : Nat
  lastA : Option Nat
  lastB : Option Nat
  seen : List (Nat × Bool × Nat)
  sum : Int
  count : Nat
  deriving DecidableEq, Repr

/-- A merge pair before its first packet. -/
def MergeRec.idle : MergeRec := ⟨none, [], [], 0, none, none, [], 0, 0⟩

/-- A frame of an SDI source being counted (R151): lines so far, whether all of them matched, and whether one had its F bit set. -/
structure TrsFrame where
  lines : Nat
  ok : Bool
  second : Bool
  deriving DecidableEq, Repr

/-- The structure count of an SDI source (R151): whether a valid EAV has been seen, the frame being counted, consecutive matching
and other frames, the line of the latest EAV and its beat; whether an ancillary packet of the frame has been copied (R155), and the
latest sample of each embedded channel (R153). -/
structure TrsRec where
  seen : Bool
  frame : Option TrsFrame
  good : Nat
  bad : Nat
  line : Nat
  beat : Nat
  copied : Bool
  prev : List (Nat × BitVec 24)
  deriving DecidableEq, Repr

/-- An SDI source not yet seen. -/
def TrsRec.idle : TrsRec := ⟨false, none, 0, 0, 0, 0, false, []⟩

/-- A packet of a leading plane in the long buffer (R168): the beat in which its delay ends, the flow entry that it was classified
by, that entry's DATA0 at its arrival (R147), and the packet. -/
structure LongPacket where
  beat : Nat
  sl : Nat
  idx : Nat
  w0 : Word
  pkt : Packet
  deriving DecidableEq, Repr

/-- Hidden state of an external input port: the units in its paddock, the latest unit presented of each slot, the unit that each
slot discarded when it acquired the grid (R161), the units whose first word has arrived, latest first (slot and number, R157), the
slots whose media frame has begun and not ended (R28), whether LAT_MIN and LAT_MAX hold a value, when ING.LATE and ING.EARLY last
rose, the policer's tokens of each slot (in 1/65,536 word, with the beat of the latest count), its SDI structure count, and packets
of a leading plane in the long buffer. -/
structure PadRec where
  units : List PadUnit
  last : Tab (Option Int)
  skip : Tab (Option Int)
  firsts : List (Nat × Int)
  frameOpen : List Nat
  latSeen : Bool
  lateAt : Option Nat
  earlyAt : Option Nat
  tokens : Tab (Option (Nat × Nat))
  trs : TrsRec
  long : List LongPacket
  deriving DecidableEq, Repr

/-- A port that has taken nothing. -/
def PadRec.idle : PadRec := ⟨[], [], [], [], [], false, none, none, [], TrsRec.idle, []⟩

/-- A source frame of a frame synchroniser (R238, R243): its number, the time base's time at its completion, the instant of its
RTP timestamp, and its units. -/
structure FsFrame where
  num : Nat
  done : Option Nat
  start : Option At
  units : List PadUnit
  deriving DecidableEq, Repr

/-- What a frame synchroniser shows in an output frame (R242): VALID = 0 words, black, or a source frame. -/
inductive FsPick where
  | none
  | black
  | frame (n : Nat)
  deriving DecidableEq, Repr

/-- Hidden state of a frame synchroniser (R238 to R242): its latest frames, oldest first, the number of the frame being
written, the frame taken last, the newest complete frame of the latest decision, decisions in a row without a new complete
frame, and for the latest output frames what was chosen. -/
structure FsRec where
  frames : List FsFrame
  writing : Nat
  last : Option Nat
  newest : Option Nat
  missed : Nat
  chosen : List (Int × FsPick)
  deriving DecidableEq, Repr

/-- A frame synchroniser that has taken nothing. -/
def FsRec.idle : FsRec := ⟨[], 0, none, none, 0, []⟩

/-- A pending command of a record or playout port (R247): OP, START, COUNT and the frame start at which it takes effect. -/
structure ReelCmd where
  op : Nat
  start : Nat
  count : Nat
  effect : At
  deriving DecidableEq, Repr

/-- Hidden state of a record port (R244, R245, R247): pending command; whether it records, and whether it stops after the frame
in progress; the next index entry, line and frame number; the frame in progress (linear count of its SOF beat, words); and
complete frames still to be written. -/
structure RecRec where
  pending : Option ReelCmd
  on : Bool
  stopping : Bool
  full : Bool
  entry : Nat
  line : Nat
  seq : Nat
  cur : Option (Nat × List FWord)
  done : List (Nat × List FWord)
  deriving DecidableEq, Repr

/-- A record port at rest. -/
def RecRec.idle : RecRec := ⟨none, false, false, false, 0, 0, 0, none, []⟩

/-- Hidden state of a playout port (R246, R247): pending command; what it presents (its STATE but for CUED); START and COUNT in
force; the next index entry; frames passed since START; the SEQ it expects; the words of the frame shown last with their beats
after its start; the output frame presented last; and the decision made for a coming output frame (frame, entry, whether the
entry was VALID, its SEQ). -/
structure PlayRec where
  pending : Option ReelCmd
  mode : Nat
  start : Nat
  count : Nat
  entry : Nat
  shown : Nat
  expect : Option Nat
  frame : List (Nat × FWord)
  last : Option Int
  decided : Option (Int × Nat × Bool × Nat)
  deriving DecidableEq, Repr

/-- A playout port at rest. -/
def PlayRec.idle : PlayRec := ⟨none, 0, 0, 0, 0, 0, none, [], none, none⟩

/-- The reel store (R230 to R257): frame synchronisers, record ports, playout ports, the demand and the stream rate charged to each
user, and the beat in which each user last raised REEL.LATE. Users are numbered by class × 4096 + index: 0 frame synchronisers, 1
record, 2 playout, 3 graphic planes. -/
structure ReelSt where
  fs : Tab FsRec
  recs : Tab RecRec
  plays : Tab PlayRec
  demand : Tab Nat
  rate : Tab Nat
  lateAt : Tab Nat
  deriving DecidableEq, Repr

/-- A unit that has left the fabric at an output slot, and waits to be sent (R266): its number on the source's grid, the RTP
timestamp, whether it begins a frame, the words of the descriptor that formats it (R260), and its words; of an SDI unit, its SDI
words one to an entry. -/
structure EgrUnit where
  unit : Int
  ts : Nat
  sof : Bool
  fmt : List Word
  words : List (BitVec 72)
  deriving DecidableEq, Repr

/-- Hidden state of an output slot (R262, R265, R274, R277): next RTP sequence number, whether an ALT flow is on path 1, the number
of the field or period to be sent next and the packets sent of it, the timestamp of the latest frame, units that wait; of an SDI
output the line in progress, its SDI words so far, the words of the line before it and whether its CRC is recomputed, the SDI words
that wait for an allotment by block, each with the time in 1/512 beat from which it is there, the allotment sequence by block, the
beat of the latest EGR.GAP, and the unit that is being gathered for a receive queue: the instant of its first word, and its words
(R279); of an ALT flow whether it returns at its next frame or packet boundary, and the beat since which the path-0 port has been up
while the flow is on path 1 (R275); of the SDI line in progress the time of its first word in 1/512 beat and the words missing so far
(R262). -/
structure EgrRec where
  seq : Nat
  alt : Bool
  next : Option Int
  sent : Nat
  ts : Nat
  units : List EgrUnit
  lineNo : Option Int
  line : List Nat
  prev : List Nat
  gap : Bool
  sdi : List (Nat × List SdiWord)
  sdiSeq : List (Nat × Nat)
  gapAt : Option Nat
  host : Option (BitVec 96 × List (BitVec 72))
  back : Bool
  upSince : Option Nat
  lineAt : Nat
  lost : Nat
  deriving DecidableEq, Repr

/-- A slot that has sent nothing. -/
def EgrRec.idle : EgrRec := ⟨0, false, none, 0, 0, [], none, [], [], false, [], [], none, none, false, none, 0, 0⟩

/-- An RTP packet of a flow at its port (R264, R265): block, port, packet allotment's stream, path, payload type, sequence number,
timestamp, SSRC, marker and payload. -/
structure FlowPacket where
  block : Nat
  port : Nat
  stream : Nat
  path : Nat
  pt : Nat
  seq : Nat
  ts : Word
  ssrc : Word
  marker : Bool
  body : Payload
  deriving DecidableEq, Repr

/-- What a frame in a transmit queue is (R270): a PTP message that is relayed, with the number of its ingress port and its
correctionField; a frame of a BIND 1 transmit queue, with the TAG of its descriptors; a packet of an output slot's flow, with the octets
that it counts; or another frame, by number. -/
inductive TxWhat where
  | relay (ingress correction : Nat)
  | host (q : Nat) (tags : List Word)
  | flow (eo slot bytes : Nat) (k : FlowPacket)
  | other (n : Nat)
  deriving DecidableEq, Repr

/-- A frame in a transmit queue (R270): its EtherType, its octets on the wire with preamble and gap, its octets as an IP packet, and the
instant that its queue orders it by: LAUNCH_TIME of a control frame as a linear count, the ideal departure of paced essence. -/
structure TxFrame where
  etype : Nat
  wire : Nat
  len : Nat
  launch : Option (Nat × Nat)
  depart : At
  what : TxWhat
  deriving DecidableEq, Repr

/-- The transmit queues of an Ethernet port or of an Epvozel packet allotment (R270): Q0 to Q3; when the wire is free and when the
shaper lets the next frame of Q0 or Q1 start, in 1/1024 beat; of a packet allotment its SEQ (R125), and the frame that goes on in the
next one with the octets of it that have gone. -/
structure TxPort where
  q0 : List TxFrame
  q1 : List TxFrame
  q2 : List TxFrame
  q3 : List TxFrame
  wireAt : Nat
  ctlAt : Nat
  seq : Nat
  cur : Option (TxFrame × Nat)
  deriving DecidableEq, Repr

/-- A port with nothing to send. -/
def TxPort.idle : TxPort := ⟨[], [], [], [], 0, 0, 0, none⟩

/-- A block of results of a foley core on its way to the audio crosspoint (R287, R337): the input block that it becomes, its
samples and their settling flags by channel, and whether it repeats the block before it. -/
structure FolBlk where
  block : Int
  samples : List (List (BitVec 24))
  settle : List (List Bool)
  rep : Bool
  deriving DecidableEq, Repr

/-- Hidden state of an audio output channel (R303, R304, R307): options in force, the periods of dips in progress, whether a
settling flag mutes it and the period from which it ramps up, the samples of the latest output block and of the one before it, and
the peak held. -/
structure AudOut where
  opts : Nat
  dips : List Int
  muted : Bool
  rampAt : Option Int
  block : List (BitVec 24)
  prev : List (BitVec 24)
  peak : Nat
  clip : Bool
  deriving DecidableEq, Repr

/-- An output channel at rest. -/
def AudOut.idle : AudOut := ⟨0, [], false, none, [], [], 0, false⟩

/-- A member of an audio transaction (R300, R302): destination, source or silence, whether it dips, its period, arm point, and
whether it has committed. -/
structure AudMem where
  dst : Nat
  src : Option Nat
  dip : Bool
  period : Int
  arm : At
  fin : Bool
  deriving DecidableEq, Repr

/-- An audio transaction: who, whether it is a silence of P0, its order of acceptance, whether it is ARMED, its arm point, its
members, and the linear counts of the period of entry 0 and of its arm grant. -/
structure AudTx where
  id : TxId
  silence : Bool
  order : Nat
  armed : Bool
  arm : At
  members : List AudMem
  mark0 : Dword
  grant : Dword
  deriving DecidableEq, Repr

/-- What is kept of a finished audio transaction (R307). -/
structure AudEnd where
  part : Nat
  tag : Word
  state : Nat
  mark0 : Dword
  grant : Dword
  deriving DecidableEq, Repr

/-- The audio crosspoint (R284 to R309): output channels, unfinished transactions, finished ones (latest first), the count that
orders acceptance, grants being removed (input block, partition), discontinuities by input channel (R290), results of foley
cores, the latest audio block of each grid (time base × 2 + rate), the first frame of each TDM port that runs, and by input channel
the latest samples of network flows and SDI sources with their periods (R288). -/
structure AudSt where
  outs : Tab AudOut
  txs : List AudTx
  ends : List AudEnd
  order : Nat
  removing : List (Nat × Nat)
  disc : Tab (List Int)
  fol : Tab (List FolBlk)
  blk : Tab (Option Int)
  tdm : Tab (Option Int)
  ins : Tab (List (Int × BitVec 24))
  deriving DecidableEq, Repr

/-- Hidden state of a compositor layer (R351 to R359): the total-raster line that leaves the fabric, whether a picture is being taken,
of which field, its lines of words, the coefficient bank as it stood at the picture's start, the newest complete slot, whether it is
still to be shown, the slot that the head reads, and the decisions in a row without a new picture. -/
structure LayRec where
  line : Nat
  run : Bool
  second : Bool
  lines : List (List (BitVec 72))
  coef : List Word
  newest : Option Nat
  unseen : Bool
  shown : Option Nat
  missed : Nat
  deriving DecidableEq, Repr

/-- A layer that has taken nothing. -/
def LayRec.idle : LayRec := ⟨0, false, false, [], [], none, false, none, 0⟩

/-- Hidden state of a compositor head (R349, R356): the beat of the enabling write, the frame decided last, and the layers shown in it
with their slots (none where a layer shows BG). -/
structure HeadRec where
  enAt : Nat
  last : Option Int
  picks : List (Nat × Option Nat)
  deriving DecidableEq, Repr

/-- A head that has decided nothing. -/
def HeadRec.idle : HeadRec := ⟨0, none, []⟩

/-- A write of a layout entry that is not yet in force (R361): the beat of its acceptance, or of its release where a hold staged it,
whether a hold stages it, and the words written. -/
structure LayoutWrite where
  beat : Nat
  staged : Bool
  words : List Word
  deriving DecidableEq, Repr

/-- The montage compositor (R346 to R368): layers, heads, the layout in force by the numbers of its table words (R361), and the writes of
each entry that are not yet in force, oldest first, by TBL_SEL × 2^24 + TBL_INDEX. -/
structure MonSt where
  lays : Tab LayRec
  heads : Tab HeadRec
  applied : Tab Word
  pend : Tab (List LayoutWrite)
  deriving DecidableEq, Repr

/-- An entry of a foley core's loop stack (R326). -/
structure LoopEnt where
  start : Nat
  stop : Nat
  count : Nat
  deriving DecidableEq, Repr

/-- A branch whose delay slots are executing (R325): its address, the slot next (1 or 2), its decision and its target. -/
structure Slots where
  addr : Nat
  next : Nat
  taken : Bool
  target : Nat
  deriving DecidableEq, Repr

/-- A foley core (R310, R323, R327 to R337): program counter, registers, accumulators with their OV bits, search indices,
pointers, modifiers and lengths, link and mode registers, loop stack, handler state and saved registers, the mode writes that
wait (new value, instructions left), the delay slots in progress, what RTE resumes (the branch decision to reuse, whether slot
1 is skipped, whether a loop-end check follows), cycles since WAITBLK returned, the block last exchanged, the block whose WAITBLK
returned, whether that block's DONE came and whether its results were returned and taken, whether its deadline has passed, the
settle counters, whether no DONE has come since the latest synchronising reset, the blocks missed of the last 64, and the block
in which a move was triggered. -/
structure FolRec where
  pc : Nat
  d : List (BitVec 36)
  a : List (BitVec 72)
  ov : List Bool
  n : List Nat
  xp : List Nat
  yp : List Nat
  xm : List Int
  ym : List Int
  xl : List Nat
  yl : List Nat
  lr : Nat
  mr : Nat
  loops : List LoopEnt
  em : Bool
  epc : Nat
  estat : Nat
  emr : Nat
  shadow : List (Nat × Nat)
  slots : Option Slots
  reuse : Option Bool
  skip1 : Bool
  last : Bool
  cyc : Nat
  got : Option Int
  cur : Option Int
  doneAt : Option Int
  ready : Option Int
  taken : Option Int
  passed : Option Int
  settle : Tab Nat
  fresh : Bool
  missed : List Int
  move : Option Int
  moving : Bool
  deriving DecidableEq, Repr

/-- A core as RESET_N leaves it (log entry 5). -/
def FolRec.idle : FolRec where
  pc := 0
  d := List.replicate 8 0
  a := List.replicate 4 0
  ov := List.replicate 4 false
  n := List.replicate 4 0
  xp := List.replicate 4 0
  yp := List.replicate 4 0
  xm := List.replicate 4 0
  ym := List.replicate 4 0
  xl := List.replicate 4 0
  yl := List.replicate 4 0
  lr := 0
  mr := 1
  loops := []
  em := false
  epc := 0
  estat := 0
  emr := 0
  shadow := []
  slots := none
  reuse := none
  skip1 := false
  last := false
  cyc := 0
  got := none
  cur := none
  doneAt := none
  ready := none
  taken := none
  passed := none
  settle := []
  fresh := true
  missed := []
  move := none
  moving := false

/-- A hold of the part's DATA frames by a node (R415): the beat of its first PAUSE, and the beat in which TIME_US ends, none until
RESUME. -/
structure HoldRec where
  first : Nat
  stop : Option Nat
  deriving DecidableEq, Repr

/-- Hidden state of the Garpen MAC (R405 to R417): control frames that wait (type, payload word), the count of frames sent, the first
slot of this cycle that is still free, whether slots of this cycle are open to the part and the beat of its start, consecutive missing
beacons; of joining:
the tries a, the cycles still to wait, whether a JOIN_REQ awaits its answer; the STATE that low-power idle resumes; holds and nodes
whose PAUSE is ignored; whether a pause of the part's own has run into its limit; whether LPI_REQ has been sent; the beat of the
latest GBUS.CRC; and whether the MAC waits for the first beacon after sleep. -/
structure GbusSt where
  ctl : List (Nat × Nat)
  seq : Nat
  next : Nat
  isOpen : Bool
  cycleAt : Nat
  missed : Nat
  tries : Nat
  wait : Nat
  asked : Bool
  resume : Nat
  holds : Tab (Option HoldRec)
  ignored : List Nat
  barred : Bool
  lpiAsked : Bool
  crcAt : Option Nat
  stopped : Bool
  deriving DecidableEq, Repr

/-- The MAC with EN = 0. -/
def GbusSt.off : GbusSt := ⟨[], 0, 0, false, 0, 0, 0, 0, false, 0, [], [], false, false, none, false⟩

/-- A failure record (R453, R465): reason, slot, step, image revision and number of the start. -/
structure FailRec where
  reason : Nat
  slot : Nat
  stepNo : Nat
  rev : Word
  num : Nat
  deriving DecidableEq, Repr

/-- The image of a slot as its header gives it: IMAGE_REV, SETTINGS_FMT and IMAGE_LEN. -/
structure ImgInfo where
  rev : Word
  fmt : Nat
  len : Nat
  deriving DecidableEq, Repr

/-- A commit word that passes ECC: CUR and WCOUNT (R462). -/
structure Commit where
  cur : Nat
  wcount : Nat
  deriving DecidableEq, Repr

/-- A page of host settings: its two frames of 128 words and its two commit words, none for one that fails ECC (R460, R462). -/
structure SetPage where
  frame0 : List Word
  frame1 : List Word
  commit0 : Option Commit
  commit1 : Option Commit
  deriving DecidableEq, Repr

/-- A page that nothing has written: both frames read as zeros (log entry 7). -/
def SetPage.blank : SetPage := ⟨[], [], some ⟨0, 0⟩, some ⟨0, 0⟩⟩

/-- The management complex. In the settings store and in flash (R444, R445, R460): the running slot, the trial flag, START_FAILS, the
slot states, failure records (newest first), the number of starts, what the slots' images say of themselves, the image units written
by slot × 2^19 + unit, the host settings pages by slot × 2000 + page, and the slots whose settings still have to be set up (R461). In
registers and working state: whether the attempt has verified its image, the update command in progress (OP, slot), the beat in
which the acceptance window ends, whether a thermal trip has reset the part. -/
structure MgtSt where
  running : Nat
  trial : Bool
  fails : Nat
  slots : List Nat
  records : List FailRec
  starts : Nat
  imgs : List ImgInfo
  flash : Tab (List Word)
  pages : Tab SetPage
  unset : List Nat
  booted : Bool
  cmd : Option (Nat × Nat)
  deadline : Option Nat
  tripped : Bool
  deriving DecidableEq, Repr

/-- A part as it first starts: slot 0 RUNNING, slot 1 EMPTY, no failure recorded (log entry 7). -/
def MgtSt.first : MgtSt := ⟨0, false, 0, [4, 0], [], 0, [⟨0, 0, 0⟩, ⟨0, 0, 0⟩], [], [], [], false, none, none, false⟩

/-- What the farrier test has measured of a lane in the present interval (R488, R489). -/
structure FarRec where
  bits : Word
  errs : Word
  snr : Nat
  eye : List Nat
  locked : Bool
  deriving DecidableEq, Repr

/-- Hidden state of the fault collector (R474 to R484): blocks in reset (page, instance), sources whose latest occurrence for P0 took
ERR, traps that wait, whether a RELEASE ends hold-all at the next beat, for each partition × 640 + source the beat of the latest
occurrence and the occurrences of that beat, and the farrier test's measurements of this interval by lane. -/
structure FltSt where
  resetting : List (Nat × Nat)
  errTook : List Nat
  traps : List Nat
  release : Bool
  occAt : Tab (Nat × Nat)
  farrier : Tab (Option FarRec)
  deriving DecidableEq, Repr

/-- Hidden state of the power manager (R495 to R503): the state being entered, the code of a level wake that came in the last cycles of
the entry, whether an exit is in progress, whether HOLD_MS runs, the page and target of the latest evaluation if it was refused, the
clap being sent (block and lanes), the throttle steps of each island in 1/16 by group × 256 + number, the islands flagged degraded,
whether a PERST_N waits for the exit from SLEEP or DEEP, and the reactions (effective severity and set) that wait for it (R501). -/
structure PwrSt where
  entry : Nat
  level : Option Nat
  waking : Bool
  hold : Bool
  refused : Option (Nat × Nat)
  clap : Option (Nat × Nat)
  throttle : Tab Nat
  degraded : List Nat
  perst : Bool
  later : List (Occ × Nat × Nat)
  deriving DecidableEq, Repr

/-- The power manager in RUN. -/
def PwrSt.run : PwrSt := ⟨0, none, false, false, none, none, [], [], false, []⟩

/-- What left the part: interrupt messages, descriptor write-backs, frames, packets, pin pulses (log entry 2). -/
inductive Out where
  | msix (function vector cause : Nat)
  | writeBack (q : Nat) (rx : Bool) (addr : Nat) (words : List Word)
  | hostAudio (q : Nat) (addr : Nat) (bytes : List (BitVec 8))
  | trainFrame (lane step : Nat) (ctl sts : BitVec 48)
  | pattern (lane pat : Nat) (levels : List Nat)
  | errors (lane target count : Nat)
  | epvFrame (block lane : Nat) (hdr : List Dword) (payload : List (Nat × List Dword))
  | allotment (block stream ep : Nat) (errored : Bool) (words : List Dword)
  | toQueue (q : Nat) (rx : Bool)
  | ptpStack (tb : Nat)
  | ptpHost (tb block port : Nat)
  | ptpRelay (ingress egress correction : Nat)
  | hostFrame (block port q : Nat) (tags : List Word)
  | otherFrame (block port n : Nat)
  | ethFrame (block port : Nat) (pn : Option Nat)
  | packet (k : FlowPacket)
  | tdm (port : Nat) (frame : List Word)
  | garpen (slot type : Nat) (dst : Option Nat) (src seq len : Nat) (payload : List (BitVec 8))
  | wakeTone (us : Nat)
  | clap (block lanes : Nat)
  deriving DecidableEq, Repr

/-- Why the machine stops. No meaning of this model stops: every rule of the spec gives its command an effect. -/
inductive Fault where
  /-- Never raised. Safe: a stop is a behaviour that no proof can use. -/
  | stuck
  deriving DecidableEq, Repr

/-- Why a command has no meaning. -/
inductive Refusal where
  /-- Raised by Dispatch.lean for a row that is not modelled yet. Safe. -/
  | notModelled (mnemonic : String)
  deriving DecidableEq, Repr

/-- The state of the part. -/
structure State where
  regs : Tab Word
  tbl : Tab Word
  mem : List Host.Cell
  beat : Nat
  free : Nat
  bus : BusSt
  host : HostSt
  fuse : FuseSt
  key : KeySt
  lanes : Tab LaneRec
  epv : Tab EpvRec
  saSent : List Nat
  tbs : Tab TbRec
  cmp : Tab CmpRec
  cand : Tab CandRec
  gbus : GbusSt
  mgt : MgtSt
  flt : FltSt
  pwr : PwrSt
  fab : FabSt
  take : TakeSt
  pad : Tab PadRec
  merge : Tab MergeRec
  flowHigh : Tab (Option Nat)
  reel : ReelSt
  egr : Tab EgrRec
  remote : List Nat
  ports : Tab TxPort
  aud : AudSt
  fol : Tab FolRec
  mon : MonSt
  occ : List Occ
  out : List Out
  pending : List Instr
  deriving DecidableEq, Repr

/-- The part right after RESET_N. -/
def State.reset : State where
  regs := []
  tbl := []
  mem := []
  beat := 0
  free := 0
  bus := ⟨[], [], [], [], [], []⟩
  host := ⟨true, false, false, 0, [], []⟩
  fuse := ⟨1, 0, 0⟩
  key := ⟨[], none, false, [], [], []⟩
  lanes := []
  epv := []
  saSent := []
  tbs := []
  cmp := []
  cand := []
  gbus := GbusSt.off
  mgt := MgtSt.first
  flt := ⟨[], [], [], false, [], []⟩
  pwr := PwrSt.run
  fab := ⟨[], [], [], [], [], [], 0, [], [], [], [], [], [], [], [], none, []⟩
  take := ⟨[], [], 0, [], false, [], none⟩
  pad := []
  merge := []
  flowHigh := []
  reel := ⟨[], [], [], [], [], []⟩
  egr := []
  remote := []
  ports := []
  aud := ⟨[], [], [], 0, [], [], [], [], [], []⟩
  fol := []
  mon := ⟨[], [], [], []⟩
  occ := []
  out := []
  pending := []

end Sys2Proof.Machine
end

