-- ==== Sys2Proof/Config.lean ====
section
/-!
DEFINITION. Config.lean: what the spec leaves to the part that is built, and the free values. Every constant here has no
body: nothing can be proved about its value, and a statement holds whatever it is (log entries 1, 8 and 10).
-/
namespace Sys2Proof

/-- A value that the spec does not state, drawn with the counter `State.free` (log entry 1). -/
opaque Config.free : Nat → Nat

/-- CHIP.DIE_ID of the part, R48: "per part" (log entry 8). -/
opaque Config.dieId : Dword

/-- GBUS.UID of the part, R419: "per part" (log entry 8). -/
opaque Config.gbusUid : BitVec 48

/-- SHA-384 of a byte string, the measurement hash of R424 (log entry 10). -/
opaque Config.sha384 : List Byte → BitVec 384

/-- HMAC-SHA-384 of a key and a message, R423 and R440 (log entry 10). -/
opaque Config.hmac384 : List Byte → List Byte → BitVec 384

/-- AES key unwrap of R427: a KEK and the wrapped bytes give the key, or nothing when the integrity check fails. -/
opaque Config.unwrap : BitVec 256 → List Byte → Option (BitVec 256)

/-- The secret of the part's root node, R422 (log entry 8). -/
opaque Config.rootKey : BitVec 256

/-- How the nominal beat period, which is no whole number of 2^-48 ns, is rounded at a beat of a time base, R371:
true adds one unit (log entry 11). -/
opaque Config.beatCarry : Nat → Nat → Bool

/-- ROOT_TEST, "a fixed value published by Lyelaso" that the spec does not give, R421. -/
opaque Config.rootTest : BitVec 256

/-- STATE of a time base in REF mode, which R398 does not state (log entry 12). -/
opaque Config.refModeState : Nat → Nat

/-- The rate that a REF time base takes from a DPLL other than the one behind the beat, R372: a measured frequency. -/
opaque Config.refRate : Nat → Nat → Int

/-- The worst pair of fabric islands as measured at a beat while no island is flagged, R194 (log entry 176). -/
opaque Config.quietPair : Nat → Word

/-- SNR_EST of a lane as measured in a 10 µs window, R84, and its CTLE code in a beat, R83: measured values. -/
opaque Config.snrEst : Nat → Nat → BitVec 16
opaque Config.ctle : Nat → Nat → BitVec 5

/-- The taps that the training protocol of the IEEE 802.3 PMD clause of a line mode names, and whether a coefficient set is within the
clause, R82 (log entry 159). -/
opaque Config.clauseTaps : Nat → BitVec 6
opaque Config.clauseCoefOk : Nat → BitVec 48 → Bool

/-- Bit n of patterns 0 to 8, which R102 names by their standards (log entry 161). -/
opaque Config.testPattern : Nat → Nat → Bool

/-- Errors that a checker finds in n bits of a lane, R104, by lane and beat: a measured value. -/
opaque Config.bitErrors : Nat → Nat → Nat → Nat

/-- Whether the partner of an Ethernet port signals LPI in a beat, R115: observed on the lanes. -/
opaque Config.peerLpi : Nat → Nat → Bool

/-- The wake time of the clause of an ECONF, R115, in 1/1024 beat. -/
opaque Config.wakeTime : Nat → Nat

/-- What the FEC decoder of an Ethernet port finds in a codeword, by port and number of the codeword, R136: the symbols corrected, none
where it cannot be corrected. -/
opaque Config.fecSymbols : Nat → Nat → Option Nat

/-- Parity symbols of an RS(544,514) codeword over GF(2^16), R121: the spec gives neither the field's nor the generator polynomial (log
entry 194). -/
opaque Config.rsParity : List (BitVec 16) → List (BitVec 16)

/-- The fill of payload words outside every allotment, R125: a generator of R102's kind, by block, lane and word. -/
opaque Config.prbsFill : Nat → Nat → Nat → Dword

/-- Octet i of the IP packet of a frame in a transmit queue, whose headers and payload the RFCs and standards of R264 lay out (log entry
174). -/
opaque Config.octet : Machine.TxWhat → Nat → Byte

/-- Colour conversion of a fabric word of an active line, R263: COLOUR × 2 + FULL of the source and of the output, SAMPLING, and the
word. The recommendations that it names give the arithmetic (log entry 46). -/
opaque Config.convert : Nat → Nat → Nat → BitVec 72 → BitVec 72

/-- The SDI word of the black generator, R261: DATA1 of the output descriptor, line number and word of the line from its EAV
(log entry 46). -/
opaque Config.blackSdi : Word → Nat → Nat → BitVec 10

/-- A word of the line after one whose missing words were replaced, with the line CRC recomputed, R262: DATA1 of the output
descriptor, the words of the line before, the word's place and the word (log entry 46). -/
opaque Config.recrc : Word → List Nat → Nat → Nat → BitVec 10

/-- SDI embedding, R278 and R296: DATA1 of the output descriptor, line, place, the samples of each channel to embed, and the source's
word (log entry 46). -/
opaque Config.embed : Word → Nat → Nat → List (List (BitVec 24)) → Nat → BitVec 10

/-- The AES3 subframes of an idle period, R261: zero audio and validity 0; the other bits are not stated (log entry 46). -/
opaque Config.idleAes : Int → Nat → Word × Word

end Sys2Proof
end

