-- ==== Sys2Proof/Machine/Bits.lean ====
section
/-!
DEFINITION. Machine/Bits.lean: fields of a 32-bit register, signed values and the byte orders the spec uses.
-/
namespace Sys2Proof.Machine

/-- The n bits of a word from bit lo up, as a number. -/
def fld (w : Word) (lo n : Nat) : Nat := w.toNat / 2 ^ lo % 2 ^ n

/-- The word with its n bits from bit lo up set to v modulo 2^n. -/
def setFld (w : Word) (lo n v : Nat) : Word :=
  BitVec.ofNat 32 (w.toNat % 2 ^ lo + v % 2 ^ n * 2 ^ lo + w.toNat / 2 ^ (lo + n) * 2 ^ (lo + n))

/-- Bit i of a word. -/
def bitOf (w : Word) (i : Nat) : Bool := w.toNat / 2 ^ i % 2 == 1

/-- The word with bit i set to b. -/
def setBit (w : Word) (i : Nat) (b : Bool) : Word := setFld w i 1 (if b then 1 else 0)

/-- A word from a number. -/
def wd (n : Nat) : Word := BitVec.ofNat 32 n

/-- A 64-bit value from its lower and upper halves (R49). -/
def pairOf (lo hi : Word) : Nat := 2 ^ 32 * hi.toNat + lo.toNat

/-- The lower and the upper half of a 64-bit value. -/
def loHalf (v : Nat) : Word := BitVec.ofNat 32 v
def hiHalf (v : Nat) : Word := BitVec.ofNat 32 (v / 2 ^ 32)

/-- A number of n bits read as two's complement. -/
def sext (n v : Nat) : Int := if v % 2 ^ n < 2 ^ (n - 1) then (v % 2 ^ n : Nat) else (v % 2 ^ n : Nat) - (2 ^ n : Nat)

/-- An integer as n bits of two's complement. -/
def toBits (n : Nat) (v : Int) : Nat := (v % (2 ^ n : Nat)).toNat

/-- Smallest whole number not below a / b. -/
def cdiv (a b : Nat) : Nat := (a + b - 1) / b

/-- A counter of n bits that saturates. -/
def satAdd (n a b : Nat) : Nat := min (a + b) (2 ^ n - 1)

/-- The bytes of a number, most significant first, k of them. -/
def beBytes : Nat → Nat → List Byte
  | 0, _ => []
  | k + 1, v => BitVec.ofNat 8 (v / 2 ^ (8 * k)) :: beBytes k v

/-- Indices below n for which a test holds, rising. -/
def idxs (n : Nat) (f : Nat → Bool) : List Nat := (List.range n).filter f

end Sys2Proof.Machine
end

