-- ==== Sys2Proof/Machine/RegMap.lean ====
section
/-!
DEFINITION. Machine/RegMap.lean: the registers of every page, as the register lists of spec/02 to spec/18 give them
(R42, R45, R48, R54, R74 and the register-list rule of each chapter). One row is one entry of a list: its offset in
the page, how many words it covers, its access type (R16), whether it is banked (R43), a pair (R49) or a rein
register (R63), its reset value (R15) and the bits that a plain write may set. Bits outside the mask are RSV or RO.
-/
namespace Sys2Proof.Machine

/-- Access types of R16. -/
inductive Acc where
  | ro | rw | wo | w1c | w1s | rwl | rsv
  deriving DecidableEq, Repr

/-- One entry of a register list. -/
structure Reg where
  off : Nat
  words : Nat
  acc : Acc
  banked : Bool
  pair : Bool
  rein : Bool
  reset : Nat
  mask : Nat
  deriving DecidableEq, Repr

/-- The page kinds of R42. -/
inductive PageKind where
  | chip
  | bmx
  | part
  | host
  | mgt
  | key
  | flt
  | pwr
  | time
  | refsel
  | gbus
  | xpt
  | take
  | reel
  | mon
  | aud
  | sens
  | lane
  | port
  | ing
  | egr
  | fol
  | hbm
  deriving DecidableEq, Repr

/-- The page header, R45. -/
def headerRegs : List Reg := [
  ⟨0x000, 1, .ro, false, false, false, 0, 0⟩,  -- PAGE_ID, see pageId
  ⟨0x004, 1, .ro, false, false, false, 0x00000100, 0⟩,  -- PAGE_VER
  ⟨0x008, 1, .ro, false, false, false, 0, 0⟩,  -- PAGE_CAP, see pageCap
  ⟨0x00C, 1, .rw, false, false, false, 0, 0xF⟩,  -- PAGE_OWNER
  ⟨0x010, 1, .w1s, false, false, false, 0, 1⟩,  -- PAGE_LOCK
  ⟨0x014, 1, .ro, false, false, false, 0, 0⟩,  -- PAGE_STATUS
  ⟨0x018, 1, .w1c, false, false, false, 0, 0xFFFFFFFF⟩,  -- PAGE_FAULT
  ⟨0x01C, 1, .rw, false, false, false, 0, 0xFFFFFFFF⟩,  -- PAGE_FAULT_MASK
  ⟨0x020, 1, .ro, false, false, false, 0, 0⟩,  -- PAGE_SEQ
  ⟨0x024, 7, .rsv, false, false, false, 0, 0⟩]

/-- The table window, R54; banked in shared pages (R55). -/
def windowRegs : List Reg := [
  ⟨0x1000, 1, .rw, true, false, false, 0, 0xFFFF⟩,  -- TBL_SEL
  ⟨0x1004, 1, .rw, true, false, false, 0, 0xFFFFFF⟩,  -- TBL_INDEX
  ⟨0x1008, 1, .rw, true, false, false, 0, 0x6⟩,  -- TBL_CTRL
  ⟨0x100C, 1, .ro, true, false, false, 0, 0⟩,  -- TBL_TAG
  ⟨0x1010, 16, .rw, true, false, false, 0, 0xFFFFFFFF⟩]  -- TBL_DATA0 to TBL_DATA15

/-- Block registers of the CHIP page. -/
def chipRegs : List Reg := [
  ⟨0x040, 1, .ro, false, false, false, 0x4D474096, 0x00000000⟩,  -- CHIP.PART
  ⟨0x044, 1, .ro, false, false, false, 0x000000B1, 0x00000000⟩,  -- CHIP.REV
  ⟨0x048, 1, .ro, false, true, false, 0x00000000, 0x00000000⟩,  -- CHIP.DIE_ID lower
  ⟨0x04C, 1, .ro, false, true, false, 0x00000000, 0x00000000⟩,  -- CHIP.DIE_ID upper
  ⟨0x050, 1, .ro, false, false, false, 0x04404030, 0x00000000⟩,  -- CHIP.CAPS
  ⟨0x054, 1, .rw, false, false, false, 0x00000000, 0xFFFFFFFF⟩,  -- CHIP.SCRATCH
  ⟨0x058, 42, .rsv, false, false, false, 0x00000000, 0x00000000⟩]  -- reserved

/-- Block registers of the BMX page. -/
def bmxRegs : List Reg := [
  ⟨0x040, 1, .rw, false, false, false, 0x00000002, 0x000000FF⟩,  -- BMX.CTRL
  ⟨0x044, 1, .ro, false, false, false, 0x00000000, 0x00000000⟩,  -- BMX.ERR_COUNT
  ⟨0x048, 1, .ro, false, false, false, 0x00000000, 0x00000000⟩,  -- BMX.ERR_ADDR
  ⟨0x04C, 1, .ro, false, false, false, 0x00000000, 0x00000000⟩,  -- BMX.ERR_INFO
  ⟨0x050, 1, .ro, false, false, false, 0x00000000, 0x00000000⟩,  -- BMX.REIN_COUNT
  ⟨0x054, 1, .ro, false, false, false, 0x00000000, 0x00000000⟩,  -- BMX.REIN_MAXLAT
  ⟨0x058, 1, .wo, false, false, false, 0x00000000, 0xFFFFFFFF⟩,  -- BMX.SNAP
  ⟨0x05C, 1, .ro, false, false, false, 0x00000000, 0x00000000⟩,  -- BMX.ERR_COUNT_S
  ⟨0x060, 1, .ro, false, false, false, 0x00000000, 0x00000000⟩,  -- BMX.REIN_COUNT_S
  ⟨0x064, 1, .ro, false, false, false, 0x00000000, 0x00000000⟩]  -- BMX.REIN_MAXLAT_S

/-- Block registers of the PART page. -/
def partRegs : List Reg := [
  ⟨0x040, 1, .ro, true, false, false, 0x00000000, 0x00000000⟩,  -- PART.STATUS
  ⟨0x044, 1, .ro, false, false, false, 0x00000000, 0x00000000⟩,  -- PART.OVER
  ⟨0x048, 1, .ro, true, false, false, 0x00000000, 0x00000000⟩]  -- PART.SELF

/-- Registers of the HOST page that repeat (per queue), offsets within one copy. -/
def hostSubRegs : List Reg := [
  ⟨0x000, 1, .rw, false, true, false, 0x00000000, 0xFFFFFFE0⟩,  -- Q_BASE lower
  ⟨0x004, 1, .rw, false, true, false, 0x00000000, 0xFFFFFFFF⟩,  -- Q_BASE upper
  ⟨0x008, 1, .rw, false, false, false, 0x00000000, 0xFFFFFFF1⟩,  -- Q_CFG
  ⟨0x00C, 1, .rw, false, false, false, 0x00000000, 0x00000FFF⟩,  -- Q_TAIL
  ⟨0x010, 1, .ro, false, false, false, 0x00000000, 0x00000000⟩,  -- Q_HEAD
  ⟨0x014, 1, .ro, false, false, false, 0x00000000, 0x00000000⟩,  -- Q_DONE_TAG
  ⟨0x018, 1, .ro, false, false, false, 0x00000000, 0x00000000⟩,  -- Q_STATUS
  ⟨0x01C, 1, .rw, false, false, false, 0x00000000, 0x00FFFFFF⟩]  -- Q_MOD

/-- Block registers of the MGT page. -/
def mgtRegs : List Reg := [
  ⟨0x040, 1, .ro, false, false, false, 0x00000000, 0x00000000⟩,  -- MGT.STATUS
  ⟨0x044, 1, .w1c, false, false, false, 0x00000000, 0xFFFFFFFF⟩,  -- MGT.EVENT
  ⟨0x048, 1, .wo, false, false, false, 0x00000000, 0x00000001⟩,  -- MGT.CTRL
  ⟨0x04C, 1, .rw, false, false, false, 0x00000000, 0x00000001⟩,  -- MGT.ONAIR
  ⟨0x050, 1, .wo, false, false, false, 0x00000000, 0x0000010F⟩,  -- MGT.UPD_CMD
  ⟨0x054, 1, .ro, false, false, false, 0x00000000, 0x00000000⟩,  -- MGT.UPD_RESULT
  ⟨0x058, 1, .ro, false, false, false, 0x00000000, 0x00000000⟩,  -- MGT.UPD_INFO
  ⟨0x05C, 1, .rw, false, false, false, 0x00000258, 0x0000FFFF⟩,  -- MGT.ACCEPT_S
  ⟨0x060, 1, .ro, false, false, false, 0x00000000, 0x00000000⟩,  -- MGT.ACCEPT_LEFT
  ⟨0x064, 1, .rw, false, false, false, 0x0000000F, 0x000000FF⟩,  -- MGT.UPD_MARGIN
  ⟨0x068, 1, .ro, false, false, false, 0x00000000, 0x00000000⟩,  -- MGT.START_FAILS
  ⟨0x06C, 1, .ro, false, false, false, 0x00000000, 0x00000000⟩,  -- MGT.SETTINGS_FMT
  ⟨0x070, 4, .rsv, false, false, false, 0x00000000, 0x00000000⟩,  -- reserved
  ⟨0x080, 1, .wo, false, false, false, 0x00000000, 0xFFFFFFFF⟩,  -- RES_REQ
  ⟨0x084, 1, .ro, false, false, false, 0x00000000, 0x00000000⟩,  -- RES_REQ_TAG
  ⟨0x088, 1, .ro, false, true, false, 0x00000000, 0x00000000⟩,  -- RES_STAT
  ⟨0x08C, 1, .ro, false, true, false, 0x00000000, 0x00000000⟩,  -- RES_TAG
  ⟨0x090, 2, .ro, false, false, false, 0x00000000, 0x00000000⟩,  -- RES_DATA0–RES_DATA1
  ⟨0x098, 6, .rsv, false, false, false, 0x00000000, 0x00000000⟩,  -- reserved
  ⟨0x0B0, 1, .rw, false, false, false, 0x00000000, 0x07FF0003⟩,  -- MGT.SET_REQ
  ⟨0x0B4, 19, .rsv, false, false, false, 0x00000000, 0x00000000⟩]  -- reserved

/-- Block registers of the KEY page. -/
def keyRegs : List Reg := [
  ⟨0x040, 1, .ro, false, false, false, 0x00000000, 0x00000000⟩,  -- KEY.STATUS
  ⟨0x044, 1, .w1c, true, false, false, 0x00000000, 0xFFFFFFFF⟩,  -- KEY.EVENT
  ⟨0x048, 1, .wo, true, false, false, 0x00000000, 0xFFFFFFFF⟩,  -- KEY.SNAP
  ⟨0x04C, 1, .ro, true, false, false, 0x00000000, 0x00000000⟩,  -- KEY.USAGE
  ⟨0x050, 1, .rw, true, false, false, 0x00000000, 0x03FF11FF⟩,  -- KEY.REQ
  ⟨0x054, 1, .rw, true, false, false, 0x00000000, 0xFFFFFFFF⟩,  -- KEY.REQ_GEN
  ⟨0x058, 1, .rw, true, true, false, 0x00000000, 0xFFFFFFFF⟩,  -- KEY.REQ_LABEL lower
  ⟨0x05C, 1, .rw, true, true, false, 0x00000000, 0xFFFFFFFF⟩,  -- KEY.REQ_LABEL upper
  ⟨0x060, 1, .rw, true, false, false, 0x00000000, 0x0F7FFFFF⟩,  -- KEY.REQ_OPT
  ⟨0x064, 1, .wo, true, false, false, 0x00000000, 0x0000FFFF⟩,  -- KEY.CONFIRM
  ⟨0x068, 1, .ro, true, false, false, 0x00000000, 0x00000000⟩,  -- KEY.N_REQ
  ⟨0x06C, 1, .ro, true, false, false, 0x00000000, 0x00000000⟩,  -- KEY.N_REFUSED
  ⟨0x070, 2, .ro, true, false, false, 0x00000000, 0x00000000⟩,  -- Snapshots of 0x068, 0x06C
  ⟨0x078, 2, .rsv, false, false, false, 0x00000000, 0x00000000⟩,  -- reserved
  ⟨0x080, 1, .wo, true, false, false, 0x00000000, 0xFFFFFFFF⟩,  -- RES_REQ
  ⟨0x084, 1, .ro, true, false, false, 0x00000000, 0x00000000⟩,  -- RES_REQ_TAG
  ⟨0x088, 1, .ro, true, true, false, 0x00000000, 0x00000000⟩,  -- RES_STAT
  ⟨0x08C, 1, .ro, true, true, false, 0x00000000, 0x00000000⟩,  -- RES_TAG
  ⟨0x090, 16, .ro, true, false, false, 0x00000000, 0x00000000⟩,  -- RES_DATA0–RES_DATA15
  ⟨0x0D0, 12, .rsv, false, false, false, 0x00000000, 0x00000000⟩,  -- reserved
  ⟨0x100, 8, .wo, true, false, false, 0x00000000, 0xFFFFFFFF⟩,  -- KEY_IN0–KEY_IN7
  ⟨0x120, 10, .wo, true, false, false, 0x00000000, 0xFFFFFFFF⟩,  -- WRAP_IN0–WRAP_IN9
  ⟨0x148, 14, .rsv, false, false, false, 0x00000000, 0x00000000⟩,  -- reserved
  ⟨0x180, 16, .rw, true, false, false, 0x00000000, 0xFFFFFFFF⟩,  -- MSG0–MSG15
  ⟨0x1C0, 12, .ro, false, false, false, 0x00000000, 0x00000000⟩,  -- MEAS0–MEAS11
  ⟨0x1F0, 4, .rsv, false, false, false, 0x00000000, 0x00000000⟩]  -- reserved

/-- Block registers of the FLT page. -/
def fltRegs : List Reg := [
  ⟨0x040, 1, .ro, false, false, false, 0x00000000, 0x00000000⟩,  -- FLT.STATUS
  ⟨0x044, 1, .w1c, true, false, false, 0x00000000, 0xFFFFFFFF⟩,  -- FLT.EVENT
  ⟨0x048, 1, .wo, true, false, false, 0x00000000, 0xFFFFFFFF⟩,  -- FLT.SNAP
  ⟨0x04C, 1, .wo, false, false, true, 0x00000000, 0x0000000F⟩,  -- FLT.CMD
  ⟨0x050, 1, .ro, false, false, false, 0x00000000, 0x00000000⟩,  -- FLT.CMD_RESULT
  ⟨0x054, 1, .wo, true, false, true, 0x00000000, 0x800003FF⟩,  -- FLT.ACK
  ⟨0x058, 1, .rw, true, false, false, 0x0000000F, 0x0000000F⟩,  -- FLT.ROUTE
  ⟨0x05C, 1, .ro, true, false, false, 0x00000000, 0x00000000⟩,  -- FLT.LOG_COUNT
  ⟨0x060, 1, .rw, false, false, false, 0x00000000, 0x00000007⟩,  -- FLT.CFG
  ⟨0x064, 1, .ro, true, false, false, 0x00000000, 0x00000000⟩,  -- FLT.STRIPPED
  ⟨0x068, 1, .ro, true, false, false, 0x00000000, 0x00000000⟩,  -- FLT.STRIPPED_S
  ⟨0x06C, 1, .ro, false, false, false, 0x00000000, 0x00000000⟩,  -- FLT.LAST_RESET
  ⟨0x070, 1, .rw, false, false, false, 0x00000050, 0x000000F1⟩,  -- FLT.FARRIER_CFG
  ⟨0x074, 1, .rw, false, false, false, 0x200400D2, 0xFF0FFFFF⟩,  -- FLT.HEALTH_LIMIT
  ⟨0x078, 1, .rw, false, true, false, 0x00000000, 0xFFFFFFFF⟩,  -- FLT.FARRIER_MASK lower
  ⟨0x07C, 1, .rw, false, true, false, 0x00000000, 0x0000FFFF⟩,  -- FLT.FARRIER_MASK upper
  ⟨0x080, 1, .ro, false, true, false, 0x00000000, 0x00000000⟩,  -- FLT.HEALTH_TIME lower
  ⟨0x084, 1, .ro, false, true, false, 0x00000000, 0x00000000⟩,  -- FLT.HEALTH_TIME upper
  ⟨0x088, 1, .ro, false, false, false, 0x00000000, 0x00000000⟩,  -- FLT.HEALTH_SEQ
  ⟨0x08C, 29, .rsv, false, false, false, 0x00000000, 0x00000000⟩]  -- reserved

/-- Block registers of the PWR page. -/
def pwrRegs : List Reg := [
  ⟨0x040, 1, .rwl, false, false, false, 0x03E8640F, 0xFFFFFF0F⟩,  -- PWR.CFG
  ⟨0x044, 1, .rw, false, false, false, 0x00000000, 0xFFFFFFFF⟩,  -- PWR.LATENCY_BUDGET
  ⟨0x048, 1, .ro, false, false, false, 0x00000000, 0x00000000⟩,  -- PWR.STATUS
  ⟨0x04C, 1, .w1c, false, false, false, 0x00000000, 0xFFFFFFFF⟩,  -- PWR.EVENT
  ⟨0x050, 1, .ro, false, false, false, 0x00000000, 0x00000000⟩,  -- PWR.REFUSE_COUNT
  ⟨0x054, 1, .ro, false, false, false, 0x00000000, 0x00000000⟩,  -- PWR.REFUSE_LAST
  ⟨0x058, 1, .wo, false, false, false, 0x00000000, 0xFFFFFFFF⟩,  -- PWR.SNAP
  ⟨0x05C, 1, .ro, false, false, false, 0x00000000, 0x00000000⟩,  -- PWR.REFUSE_COUNT_S
  ⟨0x060, 1, .rw, false, false, false, 0x00000016, 0x01FF003E⟩,  -- PWR.WAKE_CFG
  ⟨0x064, 1, .rw, false, false, false, 0x00000000, 0x7FFFFF3F⟩,  -- PWR.CLAP
  ⟨0x068, 1, .rw, false, true, false, 0xFFFFFFFF, 0xFFFFFFFF⟩,  -- PWR.WAKE_PB lower
  ⟨0x06C, 1, .rw, false, true, false, 0x0000FFFF, 0x0000FFFF⟩,  -- PWR.WAKE_PB upper
  ⟨0x070, 1, .rw, false, true, false, 0x00000000, 0xFFFFFFFF⟩,  -- PWR.GATE_PB lower
  ⟨0x074, 1, .rw, false, true, false, 0x00000000, 0x0000FFFF⟩,  -- PWR.GATE_PB upper
  ⟨0x078, 2, .rw, false, true, false, 0x00000000, 0xFFFFFFFF⟩,  -- PWR.GATE_FOL lower, upper
  ⟨0x080, 2, .rw, false, true, false, 0x00000000, 0xFFFFFFFF⟩,  -- PWR.GATE_HEAD lower, upper
  ⟨0x088, 30, .rsv, false, false, false, 0x00000000, 0x00000000⟩]  -- reserved

/-- Block registers of the TIME page. -/
def timeRegs : List Reg := [
  ⟨0x040, 1, .ro, true, false, false, 0x00000000, 0x00000000⟩,  -- TIME.STATUS
  ⟨0x044, 1, .w1c, true, false, false, 0x00000000, 0xFFFFFFFF⟩,  -- TIME.EVENT
  ⟨0x048, 1, .wo, true, false, false, 0x00000000, 0xFFFFFFFF⟩,  -- TIME.SNAP
  ⟨0x04C, 1, .w1c, true, false, false, 0x00000000, 0xFFFFFFFF⟩,  -- TIME.CMP_PEND
  ⟨0x050, 1, .wo, true, false, false, 0x00000000, 0x00000077⟩,  -- TIME.ADJ_CTRL
  ⟨0x054, 1, .ro, true, false, false, 0x00000000, 0x00000000⟩,  -- TIME.ADJ_RESULT
  ⟨0x058, 1, .rw, true, true, false, 0x00000000, 0xFFFFFFFF⟩,  -- TIME.ADJ_VAL lower
  ⟨0x05C, 1, .rw, true, true, false, 0x00000000, 0xFFFFFFFF⟩,  -- TIME.ADJ_VAL upper
  ⟨0x060, 1, .rw, true, true, false, 0x00000000, 0xFFFFFFFF⟩,  -- TIME.ADJ_SEC lower
  ⟨0x064, 1, .rw, true, true, false, 0x00000000, 0x0000FFFF⟩,  -- TIME.ADJ_SEC upper
  ⟨0x068, 1, .ro, false, false, false, 0x00000000, 0x00000000⟩,  -- TIME.PTP_UNMATCHED
  ⟨0x06C, 1, .ro, false, false, false, 0x00000000, 0x00000000⟩,  -- TIME.PTP_UNMATCHED_S
  ⟨0x070, 1, .rw, true, false, false, 0x00000000, 0x00000077⟩,  -- TIME.CAP_TB
  ⟨0x074, 3, .rsv, false, false, false, 0x00000000, 0x00000000⟩,  -- reserved
  ⟨0x080, 1, .wo, true, false, false, 0x00000000, 0xFFFFFFFF⟩,  -- RES_REQ
  ⟨0x084, 1, .ro, true, false, false, 0x00000000, 0x00000000⟩,  -- RES_REQ_TAG
  ⟨0x088, 1, .ro, true, true, false, 0x00000000, 0x00000000⟩,  -- RES_STAT
  ⟨0x08C, 1, .ro, true, true, false, 0x00000000, 0x00000000⟩,  -- RES_TAG
  ⟨0x090, 8, .ro, true, false, false, 0x00000000, 0x00000000⟩,  -- RES_DATA0–RES_DATA7
  ⟨0x0B0, 20, .rsv, false, false, false, 0x00000000, 0x00000000⟩]  -- reserved

/-- Block registers of the REFSEL page. -/
def refselRegs : List Reg := [
  ⟨0x040, 1, .rwl, false, false, false, 0x00000000, 0x00000033⟩,  -- REFSEL.CLK_MAP
  ⟨0x044, 1, .ro, false, false, false, 0x00000000, 0x00000000⟩,  -- REFSEL.CAND
  ⟨0x048, 1, .ro, false, false, false, 0x88880000, 0x00000000⟩,  -- REFSEL.DPLL_STATE
  ⟨0x04C, 1, .w1c, false, false, false, 0x00000000, 0xFFFFFFFF⟩,  -- REFSEL.EVENT
  ⟨0x050, 1, .w1c, false, false, false, 0x00000000, 0x00FFFFFF⟩,  -- REFSEL.HIST_CAND
  ⟨0x054, 1, .w1c, false, false, false, 0x00000000, 0xFFFFFFFF⟩,  -- REFSEL.HIST_DPLL
  ⟨0x058, 1, .rwl, false, false, false, 0x00000000, 0x0000FFFF⟩,  -- REFSEL.FORCE
  ⟨0x05C, 1, .ro, false, false, false, 0x00000000, 0x00000000⟩,  -- REFSEL.STATUS
  ⟨0x060, 4, .rwl, false, false, false, 0x00000000, 0xFFFFFFFF⟩,  -- REFSEL.PRIO0–PRIO3
  ⟨0x070, 1, .wo, false, false, false, 0x00000000, 0xFFFFFFFF⟩,  -- REFSEL.SNAP
  ⟨0x074, 35, .rsv, false, false, false, 0x00000000, 0x00000000⟩]  -- reserved

/-- Block registers of the GBUS page. -/
def gbusRegs : List Reg := [
  ⟨0x040, 1, .rwl, false, false, false, 0x00000004, 0x0F0F3F0F⟩,  -- GBUS.CFG
  ⟨0x044, 1, .ro, false, false, false, 0x00000000, 0x00000000⟩,  -- GBUS.STATUS
  ⟨0x048, 1, .w1c, false, false, false, 0x00000000, 0xFFFFFFFF⟩,  -- GBUS.EVENT
  ⟨0x04C, 1, .rw, false, false, false, 0x000007D0, 0x0000FFFF⟩,  -- GBUS.PAUSE_WD
  ⟨0x050, 1, .rw, false, false, false, 0x00000008, 0x00000FFF⟩,  -- GBUS.RX_LOW
  ⟨0x054, 1, .rwl, false, false, false, 0x00000014, 0x0000FFFF⟩,  -- GBUS.WAKE_OWN
  ⟨0x058, 1, .ro, false, false, false, 0x00000000, 0x00000000⟩,  -- GBUS.WAKE_BUS
  ⟨0x05C, 1, .ro, false, false, false, 0x00000000, 0x00000000⟩,  -- GBUS.CYCLE
  ⟨0x060, 1, .ro, false, true, false, 0x00000000, 0x00000000⟩,  -- GBUS.UID lower
  ⟨0x064, 1, .ro, false, true, false, 0x00000000, 0x00000000⟩,  -- GBUS.UID upper
  ⟨0x068, 1, .wo, false, false, false, 0x00000000, 0xFFFFFFFF⟩,  -- GBUS.SNAP
  ⟨0x06C, 7, .ro, false, false, false, 0x00000000, 0x00000000⟩,  -- TX_FRAMES, RX_FRAMES, CRC_ERR, COLLISIONS, BEACON_MISSES, PAUSE_WD_COUNT, RX_NODESC
  ⟨0x088, 7, .ro, false, false, false, 0x00000000, 0x00000000⟩,  -- Snapshots of 0x06C–0x084, in order
  ⟨0x0A4, 23, .rsv, false, false, false, 0x00000000, 0x00000000⟩]  -- reserved

/-- Block registers of the XPT page. -/
def xptRegs : List Reg := [
  ⟨0x040, 1, .rw, false, false, false, 0x03E80101, 0xFFFF0FF1⟩,  -- XPT.CFG
  ⟨0x044, 1, .ro, false, false, false, 0x00000000, 0x00000000⟩,  -- XPT.MID_SLOW
  ⟨0x048, 1, .ro, true, false, false, 0x00000000, 0x00000000⟩,  -- XPT.DESC_STATUS
  ⟨0x04C, 1, .w1c, false, false, false, 0x00000000, 0xFFFFFFFF⟩,  -- XPT.EVENT
  ⟨0x050, 1, .ro, false, false, false, 0x00000000, 0x00000000⟩,  -- XPT.MID_STALL
  ⟨0x054, 1, .w1s, false, false, false, 0x00000000, 0x00FFFFFF⟩,  -- XPT.MID_OUT
  ⟨0x058, 1, .wo, false, false, false, 0x00000000, 0xFFFFFFFF⟩,  -- XPT.MID_RETURN
  ⟨0x05C, 1, .ro, false, false, false, 0x00000000, 0x00000000⟩,  -- XPT.EDGE_SLOW
  ⟨0x060, 1, .ro, false, false, false, 0x00000000, 0x00000000⟩,  -- XPT.EDGE_STALL
  ⟨0x064, 1, .ro, false, false, false, 0x00000000, 0x00000000⟩,  -- XPT.MOVES
  ⟨0x068, 1, .ro, false, false, false, 0x00000000, 0x00000000⟩,  -- XPT.MOVE_FAILS
  ⟨0x06C, 1, .wo, false, false, false, 0x00000000, 0xFFFFFFFF⟩,  -- XPT.SNAP
  ⟨0x070, 1, .ro, false, false, false, 0x00000000, 0x00000000⟩,  -- XPT.MOVES_S
  ⟨0x074, 1, .ro, false, false, false, 0x00000000, 0x00000000⟩,  -- XPT.MOVE_FAILS_S
  ⟨0x078, 1, .ro, false, false, false, 0x00000000, 0x00000000⟩,  -- XPT.XING_WORST
  ⟨0x07C, 1, .ro, false, false, false, 0x00001E3C, 0x00000000⟩,  -- XPT.XING_LIMIT
  ⟨0x080, 1, .ro, false, false, false, 0x00000018, 0x00000000⟩,  -- XPT.LATENCY
  ⟨0x084, 31, .rsv, false, false, false, 0x00000000, 0x00000000⟩]  -- reserved

/-- Block registers of the TAKE page. -/
def takeRegs : List Reg := [
  ⟨0x040, 1, .rw, false, false, false, 0x00003282, 0x000FFFFF⟩,  -- TAKE.CFG
  ⟨0x044, 1, .ro, true, false, false, 0x00000000, 0x00000000⟩,  -- TAKE.STATUS
  ⟨0x048, 1, .w1c, true, false, false, 0x00000000, 0xFFFFFFFF⟩,  -- TAKE.EVENT
  ⟨0x04C, 1, .wo, true, false, false, 0x00000000, 0xFFFFFFFF⟩,  -- TAKE.SNAP
  ⟨0x050, 1, .rw, true, true, false, 0x00000000, 0xFFFFFFFF⟩,  -- TAKE.CMD_TIME lower
  ⟨0x054, 1, .rw, true, true, false, 0x00000000, 0xFFFFFFFF⟩,  -- TAKE.CMD_TIME upper
  ⟨0x058, 1, .rw, true, false, false, 0x00000000, 0xFFFFFFFF⟩,  -- TAKE.CMD_TAG
  ⟨0x05C, 1, .rw, true, false, false, 0x00000000, 0xFFFFFFFF⟩,  -- TAKE.CMD_ARG
  ⟨0x060, 1, .wo, true, false, true, 0x00000000, 0x1FFF003F⟩,  -- TAKE.CMD
  ⟨0x064, 1, .ro, true, false, false, 0x00000000, 0x00000000⟩,  -- TAKE.NEXT_TAG
  ⟨0x068, 1, .ro, true, true, false, 0x00000000, 0x00000000⟩,  -- TAKE.CMD_RESULT
  ⟨0x06C, 1, .ro, true, true, false, 0x00000000, 0x00000000⟩,  -- TAKE.CMD_RES_TAG
  ⟨0x070, 1, .ro, true, true, false, 0x00000000, 0x00000000⟩,  -- TAKE.CMD_MARK lower
  ⟨0x074, 1, .ro, true, true, false, 0x00000000, 0x00000000⟩,  -- TAKE.CMD_MARK upper
  ⟨0x078, 1, .ro, true, false, false, 0x00000000, 0x00000000⟩,  -- TAKE.NOTE_COUNT
  ⟨0x07C, 1, .ro, false, false, false, 0x00000000, 0x00000000⟩,  -- TAKE.QUEUE_USED
  ⟨0x080, 1, .wo, true, false, false, 0x00000000, 0xFFFFFFFF⟩,  -- RES_REQ
  ⟨0x084, 1, .ro, true, false, false, 0x00000000, 0x00000000⟩,  -- RES_REQ_TAG
  ⟨0x088, 1, .ro, true, true, false, 0x00000000, 0x00000000⟩,  -- RES_STAT
  ⟨0x08C, 1, .ro, true, true, false, 0x00000000, 0x00000000⟩,  -- RES_TAG
  ⟨0x090, 8, .ro, true, false, false, 0x00000000, 0x00000000⟩,  -- RES_DATA0–RES_DATA7
  ⟨0x0B0, 1, .rw, true, false, false, 0x00000000, 0x00000001⟩,  -- TAKE.QRY
  ⟨0x0B4, 1, .rw, true, false, false, 0x00000000, 0xFFFFFFFF⟩,  -- TAKE.QRY_ARG
  ⟨0x0B8, 6, .ro, true, false, false, 0x00000000, 0x00000000⟩,  -- TAKE.N_DONE, N_STRUCK, N_LATE, N_EXPIRED, N_FAILED, N_SUPERSEDED
  ⟨0x0D0, 6, .ro, true, false, false, 0x00000000, 0x00000000⟩,  -- Snapshots of 0x0B8–0x0CC, in order
  ⟨0x0E8, 6, .rsv, false, false, false, 0x00000000, 0x00000000⟩]  -- reserved

/-- Block registers of the REEL page. -/
def reelRegs : List Reg := [
  ⟨0x040, 1, .ro, true, false, false, 0x00000000, 0x00000000⟩,  -- REEL.STATUS
  ⟨0x044, 1, .w1c, true, false, false, 0x00000000, 0xFFFFFFFF⟩,  -- REEL.EVENT
  ⟨0x048, 1, .wo, true, false, false, 0x00000000, 0xFFFFFFFF⟩,  -- REEL.SNAP
  ⟨0x04C, 1, .ro, false, false, false, 0x00000000, 0x00000000⟩,  -- REEL.BUDGET_USED
  ⟨0x050, 1, .ro, false, false, false, 0x01B88F54, 0x00000000⟩,  -- REEL.BUDGET_LIMIT
  ⟨0x054, 1, .ro, false, false, false, 0x00000000, 0x00000000⟩,  -- REEL.HBM_STATUS
  ⟨0x058, 1, .rw, true, true, false, 0x00000000, 0xFF000000⟩,  -- REEL.WIN_BASE lower
  ⟨0x05C, 1, .rw, true, true, false, 0x00000000, 0x0000003F⟩,  -- REEL.WIN_BASE upper
  ⟨0x060, 1, .wo, true, false, false, 0x00000000, 0x00007F0F⟩,  -- REEL.CMD
  ⟨0x064, 1, .rw, true, false, false, 0x00000000, 0xFFFFFFFF⟩,  -- REEL.CMD_ARG
  ⟨0x068, 1, .rw, true, true, false, 0x00000000, 0xFFFFFFFF⟩,  -- REEL.CMD_TIME lower
  ⟨0x06C, 1, .rw, true, true, false, 0x00000000, 0xFFFFFFFF⟩,  -- REEL.CMD_TIME upper
  ⟨0x070, 1, .ro, true, false, false, 0x00000000, 0x00000000⟩,  -- REEL.CMD_RESULT
  ⟨0x074, 1, .ro, false, false, false, 0x00000000, 0x00000000⟩,  -- REEL.TAGS_USED
  ⟨0x078, 1, .ro, false, false, false, 0x00000000, 0x00000000⟩,  -- REEL.ECC_CE
  ⟨0x07C, 1, .ro, false, false, false, 0x00000000, 0x00000000⟩,  -- REEL.ECC_CE_S
  ⟨0x080, 1, .ro, false, false, false, 0x00000000, 0x00000000⟩,  -- REEL.ECC_UE
  ⟨0x084, 1, .ro, false, false, false, 0x00000000, 0x00000000⟩,  -- REEL.ECC_UE_S
  ⟨0x088, 30, .rsv, false, false, false, 0x00000000, 0x00000000⟩]  -- reserved

/-- Block registers of the MON page. -/
def monRegs : List Reg := [
  ⟨0x040, 1, .ro, true, false, false, 0x00000000, 0x00000000⟩,  -- MON.STATUS
  ⟨0x044, 1, .w1c, true, false, false, 0x00000000, 0xFFFFFFFF⟩,  -- MON.EVENT
  ⟨0x048, 1, .wo, true, false, false, 0x00000000, 0xFFFFFFFF⟩,  -- MON.SNAP
  ⟨0x04C, 1, .ro, false, false, false, 0x00000000, 0x00000000⟩,  -- MON.HEAD_ON_LO
  ⟨0x050, 1, .ro, false, false, false, 0x00000000, 0x00000000⟩,  -- MON.HEAD_ON_HI
  ⟨0x054, 1, .ro, false, false, false, 0x00000000, 0x00000000⟩,  -- MON.LAYERS_VALID
  ⟨0x058, 42, .rsv, false, false, false, 0x00000000, 0x00000000⟩]  -- reserved

/-- Block registers of the AUD page. -/
def audRegs : List Reg := [
  ⟨0x040, 1, .ro, true, false, false, 0x00000000, 0x00000000⟩,  -- AUD.STATUS
  ⟨0x044, 1, .w1c, true, false, false, 0x00000000, 0xFFFFFFFF⟩,  -- AUD.EVENT
  ⟨0x048, 1, .wo, true, false, false, 0x00000000, 0xFFFFFFFF⟩,  -- AUD.SNAP
  ⟨0x04C, 1, .rw, true, false, false, 0x00000000, 0xFFFFFFFF⟩,  -- AUD.CMD_TAG
  ⟨0x050, 1, .rw, true, true, false, 0x00000000, 0xFFFFFFFF⟩,  -- AUD.CMD_TIME lower
  ⟨0x054, 1, .rw, true, true, false, 0x00000000, 0xFFFFFFFF⟩,  -- AUD.CMD_TIME upper
  ⟨0x058, 1, .rw, true, false, false, 0x00000000, 0xFFFFFFFF⟩,  -- AUD.CMD_ARG
  ⟨0x05C, 1, .wo, true, false, false, 0x00000000, 0x1FFF003F⟩,  -- AUD.CMD
  ⟨0x060, 1, .ro, true, true, false, 0x00000000, 0x00000000⟩,  -- AUD.CMD_RESULT
  ⟨0x064, 1, .ro, true, true, false, 0x00000000, 0x00000000⟩,  -- AUD.CMD_RES_TAG
  ⟨0x068, 1, .ro, true, false, false, 0x00000000, 0x00000000⟩,  -- AUD.NEXT_TAG
  ⟨0x06C, 1, .ro, true, false, false, 0x00000000, 0x00000000⟩,  -- AUD.PENDING
  ⟨0x070, 1, .rw, false, false, false, 0x00000000, 0x000001FF⟩,  -- AUD.TDM_COMP
  ⟨0x074, 1, .ro, false, false, false, 0x00000000, 0x00000000⟩,  -- AUD.TDM_STATE
  ⟨0x078, 2, .rsv, false, false, false, 0x00000000, 0x00000000⟩,  -- reserved
  ⟨0x080, 1, .wo, true, false, false, 0x00000000, 0xFFFFFFFF⟩,  -- RES_REQ
  ⟨0x084, 1, .ro, true, false, false, 0x00000000, 0x00000000⟩,  -- RES_REQ_TAG
  ⟨0x088, 1, .ro, true, true, false, 0x00000000, 0x00000000⟩,  -- RES_STAT
  ⟨0x08C, 1, .ro, true, true, false, 0x00000000, 0x00000000⟩,  -- RES_TAG
  ⟨0x090, 16, .ro, true, false, false, 0x00000000, 0x00000000⟩,  -- RES_DATA0–RES_DATA15
  ⟨0x0D0, 1, .rw, true, false, false, 0x00000000, 0x00000003⟩,  -- AUD.QRY
  ⟨0x0D4, 1, .rw, true, false, false, 0x00000000, 0xFFFFFFFF⟩,  -- AUD.QRY_ARG
  ⟨0x0D8, 10, .rsv, false, false, false, 0x00000000, 0x00000000⟩]  -- reserved

/-- Block registers of the SENS page. -/
def sensRegs : List Reg := [
  ⟨0x040, 1, .ro, false, false, false, 0x00000000, 0x00000000⟩,  -- SENS.MARGIN
  ⟨0x044, 1, .ro, false, false, false, 0x00000000, 0x00000000⟩,  -- SENS.TEMP_MAX
  ⟨0x048, 1, .ro, false, false, false, 0x00000000, 0x00000000⟩,  -- SENS.XING_WORST
  ⟨0x04C, 1, .rw, false, false, false, 0x00000064, 0x000000FF⟩,  -- SENS.WARN_C
  ⟨0x050, 44, .rsv, false, false, false, 0x00000000, 0x00000000⟩]  -- reserved

/-- Block registers of the LANE page. -/
def laneRegs : List Reg := [
  ⟨0x040, 1, .rwl, false, false, false, 0x00000530, 0x00000F37⟩,  -- LANE.BLK_CFG
  ⟨0x044, 1, .wo, false, false, false, 0x00000000, 0x00FFFF03⟩,  -- LANE.BLK_CTRL
  ⟨0x048, 1, .ro, false, false, false, 0x00000000, 0x00000000⟩,  -- LANE.BLK_STATUS
  ⟨0x04C, 1, .w1c, false, false, false, 0x00000000, 0x01FFFFFF⟩,  -- LANE.EVENT
  ⟨0x050, 1, .rw, false, false, false, 0x000000C8, 0x0000FFFF⟩,  -- LANE.SNR_WARN
  ⟨0x054, 1, .rw, false, false, false, 0x000003E8, 0x0000FFFF⟩,  -- LANE.HOLD
  ⟨0x058, 1, .wo, false, false, false, 0x00000000, 0xFFFFFFFF⟩,  -- LANE.SNAP
  ⟨0x05C, 1, .rw, false, false, false, 0x00000000, 0x00000007⟩,  -- LANE.EYE_REQ
  ⟨0x060, 8, .rsv, false, false, false, 0x00000000, 0x00000000⟩,  -- reserved
  ⟨0x080, 1, .wo, false, false, false, 0x00000000, 0xFFFFFFFF⟩,  -- RES_REQ
  ⟨0x084, 1, .ro, false, false, false, 0x00000000, 0x00000000⟩,  -- RES_REQ_TAG
  ⟨0x088, 1, .ro, false, true, false, 0x00000000, 0x00000000⟩,  -- RES_STAT
  ⟨0x08C, 1, .ro, false, true, false, 0x00000000, 0x00000000⟩,  -- RES_TAG
  ⟨0x090, 4, .ro, false, false, false, 0x00000000, 0x00000000⟩,  -- RES_DATA0–RES_DATA3
  ⟨0x0A0, 24, .rsv, false, false, false, 0x00000000, 0x00000000⟩]  -- reserved

/-- Registers of the LANE page that repeat (per lane), offsets within one copy. -/
def laneSubRegs : List Reg := [
  ⟨0x000, 1, .rwl, false, false, false, 0x00000000, 0x00000037⟩,  -- LN_CFG
  ⟨0x004, 1, .ro, false, false, false, 0x00000000, 0x00000000⟩,  -- LN_STATUS
  ⟨0x008, 1, .rw, false, true, false, 0x3F000000, 0xFFFFFFFF⟩,  -- LN_TX_COEF lower
  ⟨0x00C, 1, .rw, false, true, false, 0x00000000, 0x0000FFFF⟩,  -- LN_TX_COEF upper
  ⟨0x010, 1, .ro, false, false, false, 0x00000000, 0x00000000⟩,  -- LN_RX_STAT
  ⟨0x014, 1, .rw, false, false, false, 0x00000000, 0x000001F1⟩,  -- LN_PRBS_GEN
  ⟨0x018, 1, .rw, false, false, false, 0x00000000, 0x000003F1⟩,  -- LN_PRBS_CHK
  ⟨0x01C, 1, .rw, false, false, false, 0x00000000, 0x00FF3F07⟩,  -- LN_INJ
  ⟨0x020, 1, .rw, false, true, false, 0x00000000, 0xFFFFFFFF⟩,  -- LN_USER lower
  ⟨0x024, 1, .rw, false, true, false, 0x00000000, 0xFFFFFFFF⟩,  -- LN_USER upper
  ⟨0x028, 2, .ro, false, true, false, 0x00000000, 0x00000000⟩,  -- LN_BITS
  ⟨0x030, 2, .ro, false, true, false, 0x00000000, 0x00000000⟩,  -- LN_ERRS
  ⟨0x038, 2, .ro, false, true, false, 0x00000000, 0x00000000⟩,  -- LN_BITS_S
  ⟨0x040, 2, .ro, false, true, false, 0x00000000, 0x00000000⟩,  -- LN_ERRS_S
  ⟨0x048, 1, .ro, false, false, false, 0x00000000, 0x00000000⟩,  -- LN_LOL_COUNT
  ⟨0x04C, 1, .ro, false, false, false, 0x00000000, 0x00000000⟩,  -- LN_LOL_COUNT_S
  ⟨0x050, 1, .ro, false, false, false, 0x00000000, 0x00000000⟩,  -- LN_TRAIN_LOG
  ⟨0x054, 1, .ro, false, false, false, 0x00000000, 0x00000000⟩,  -- LN_TAPREQ
  ⟨0x058, 10, .rsv, false, false, false, 0x00000000, 0x00000000⟩]  -- reserved

/-- Block registers of the PORT page. -/
def portRegs : List Reg := [
  ⟨0x040, 1, .rwl, false, false, false, 0x00000000, 0x00000073⟩,  -- PORT.BLK_CFG
  ⟨0x044, 1, .ro, false, false, false, 0x00000000, 0x00000000⟩,  -- PORT.STATUS
  ⟨0x048, 1, .w1c, false, false, false, 0x00000000, 0xFFFFFFFF⟩,  -- PORT.EVENT
  ⟨0x04C, 1, .wo, false, false, false, 0x00000000, 0xFFFFFFFF⟩,  -- PORT.SNAP
  ⟨0x050, 1, .rwl, false, false, false, 0x00000000, 0x0000FFFF⟩,  -- PORT.PLANE
  ⟨0x054, 1, .rwl, false, false, false, 0x00000000, 0xFFFFFF1F⟩,  -- PORT.ETH_CFG
  ⟨0x058, 1, .ro, false, false, false, 0x00000000, 0x00000000⟩,  -- PORT.ETH_STATUS
  ⟨0x05C, 1, .rwl, false, false, false, 0x00000301, 0x0000FF0F⟩,  -- PORT.EPV_CFG
  ⟨0x060, 1, .wo, false, false, false, 0x00000000, 0x00000003⟩,  -- PORT.EPV_CTRL
  ⟨0x064, 1, .ro, false, false, false, 0x00000000, 0x00000000⟩,  -- PORT.EPV_STATUS
  ⟨0x068, 1, .rsv, false, false, false, 0x00000000, 0x00000000⟩,  -- reserved
  ⟨0x06C, 1, .ro, false, false, false, 0x00000000, 0x00000000⟩,  -- PORT.EPV_NDROP
  ⟨0x070, 36, .rsv, false, false, false, 0x00000000, 0x00000000⟩]  -- reserved

/-- Registers of the PORT page that repeat (per port), offsets within one copy. -/
def portSubRegs : List Reg := [
  ⟨0x000, 2, .ro, false, true, false, 0x00000000, 0x00000000⟩,  -- CW_CORR
  ⟨0x008, 2, .ro, false, true, false, 0x00000000, 0x00000000⟩,  -- CW_UNCORR
  ⟨0x010, 2, .ro, false, true, false, 0x00000000, 0x00000000⟩,  -- CW_CORR_S
  ⟨0x018, 2, .ro, false, true, false, 0x00000000, 0x00000000⟩,  -- CW_UNCORR_S
  ⟨0x020, 1, .ro, false, false, false, 0x00000000, 0x00000000⟩,  -- SYM_CORR
  ⟨0x024, 1, .ro, false, false, false, 0x00000000, 0x00000000⟩,  -- SYM_CORR_S
  ⟨0x028, 1, .ro, false, false, false, 0x00000000, 0x00000000⟩,  -- LINK_DOWN
  ⟨0x02C, 1, .ro, false, false, false, 0x00000000, 0x00000000⟩,  -- LINK_DOWN_S
  ⟨0x030, 4, .rsv, false, false, false, 0x00000000, 0x00000000⟩]  -- reserved

/-- Block registers of the ING page. -/
def ingRegs : List Reg := [
  ⟨0x040, 1, .rw, false, false, false, 0x00000010, 0x000000F1⟩,  -- ING.CFG
  ⟨0x044, 1, .ro, true, false, false, 0x00000000, 0x00000000⟩,  -- ING.STATUS
  ⟨0x048, 1, .w1c, true, false, false, 0x00000000, 0xFFFFFFFF⟩,  -- ING.EVENT
  ⟨0x04C, 1, .wo, false, false, false, 0x00000000, 0xFFFFFFFF⟩,  -- ING.SNAP
  ⟨0x050, 8, .rw, false, false, false, 0x00000000, 0x007FFFFF⟩,  -- ING.PAD_D0–PAD_D7
  ⟨0x070, 1, .ro, false, false, false, 0x00000000, 0x00000000⟩,  -- ING.LONG_LOAD
  ⟨0x074, 1, .ro, true, false, false, 0x00000000, 0x00000000⟩,  -- ING.POOL
  ⟨0x078, 2, .rsv, false, false, false, 0x00000000, 0x00000000⟩,  -- reserved
  ⟨0x080, 8, .w1s, true, false, true, 0x00000000, 0xFFFFFFFF⟩,  -- ING.CUT0–CUT7
  ⟨0x0A0, 8, .w1c, true, false, true, 0x00000000, 0xFFFFFFFF⟩,  -- ING.CUT_CLR0–CUT_CLR7
  ⟨0x0C0, 16, .rsv, false, false, false, 0x00000000, 0x00000000⟩]  -- reserved

/-- Block registers of the EGR page. -/
def egrRegs : List Reg := [
  ⟨0x040, 1, .ro, true, false, false, 0x00000000, 0x00000000⟩,  -- EGR.STATUS
  ⟨0x044, 1, .w1c, true, false, false, 0x00000000, 0xFFFFFFFF⟩,  -- EGR.EVENT
  ⟨0x048, 1, .wo, true, false, false, 0x00000000, 0xFFFFFFFF⟩,  -- EGR.SNAP
  ⟨0x04C, 1, .ro, false, false, false, 0x00000000, 0x00000000⟩,  -- EGR.SCHED_SEQ
  ⟨0x050, 44, .rsv, false, false, false, 0x00000000, 0x00000000⟩]  -- reserved

/-- Block registers of the FOL page. -/
def folRegs : List Reg := [
  ⟨0x040, 1, .rwl, false, false, false, 0x00200000, 0x3FF11FFF⟩,  -- FOL.CFG
  ⟨0x044, 1, .wo, false, false, false, 0x00000000, 0x0000001F⟩,  -- FOL.CTRL
  ⟨0x048, 1, .ro, false, false, false, 0x00000000, 0x00000000⟩,  -- FOL.STATUS
  ⟨0x04C, 1, .w1c, false, false, false, 0x00000000, 0xFFFFFFFF⟩,  -- FOL.EVENT
  ⟨0x050, 1, .rwl, false, false, false, 0x00000000, 0x3FFF3FFF⟩,  -- FOL.IO
  ⟨0x054, 1, .rwl, false, false, false, 0x00000000, 0x7FFF3FFF⟩,  -- FOL.DLX
  ⟨0x058, 1, .rwl, false, false, false, 0x00000000, 0x7FFF3FFF⟩,  -- FOL.DLY
  ⟨0x05C, 1, .ro, false, false, false, 0x00000000, 0x00000000⟩,  -- FOL.BLK
  ⟨0x060, 1, .ro, false, false, false, 0x00000000, 0x00000000⟩,  -- FOL.PC
  ⟨0x064, 1, .ro, false, false, false, 0x00000000, 0x00000000⟩,  -- FOL.EPC
  ⟨0x068, 1, .ro, false, false, false, 0x00000000, 0x00000000⟩,  -- FOL.ESTAT
  ⟨0x06C, 1, .ro, false, false, false, 0x00000000, 0x00000000⟩,  -- FOL.CYC_LAST
  ⟨0x070, 1, .ro, false, false, false, 0x00000000, 0x00000000⟩,  -- FOL.CYC_MAX
  ⟨0x074, 1, .ro, false, false, false, 0x00000000, 0x00000000⟩,  -- FOL.MISSES
  ⟨0x078, 1, .ro, false, false, false, 0x00000000, 0x00000000⟩,  -- FOL.OVERRUNS
  ⟨0x07C, 1, .ro, false, false, false, 0x00000000, 0x00000000⟩,  -- FOL.EXCS
  ⟨0x080, 1, .ro, false, false, false, 0x00000000, 0x00000000⟩,  -- FOL.ECC_CE
  ⟨0x084, 1, .wo, false, false, false, 0x00000000, 0xFFFFFFFF⟩,  -- FOL.SNAP
  ⟨0x088, 5, .ro, false, false, false, 0x00000000, 0x00000000⟩,  -- Snapshots of 0x070–0x080, in order
  ⟨0x09C, 25, .rsv, false, false, false, 0x00000000, 0x00000000⟩]  -- reserved

/-- The block registers of a page kind. -/
def PageKind.regs : PageKind → List Reg
  | .chip => chipRegs
  | .bmx => bmxRegs
  | .part => partRegs
  | .host => []
  | .mgt => mgtRegs
  | .key => keyRegs
  | .flt => fltRegs
  | .pwr => pwrRegs
  | .time => timeRegs
  | .refsel => refselRegs
  | .gbus => gbusRegs
  | .xpt => xptRegs
  | .take => takeRegs
  | .reel => reelRegs
  | .mon => monRegs
  | .aud => audRegs
  | .sens => sensRegs
  | .lane => laneRegs
  | .port => portRegs
  | .ing => ingRegs
  | .egr => egrRegs
  | .fol => folRegs
  | .hbm => []

/-- Capability bits of the page header (R45), as the chapters give them: SHARED, TABLE, PAIR, RESULT, REIN. -/
def PageKind.cap : PageKind → Nat
  | .chip => 4
  | .bmx => 0
  | .part => 3
  | .host => 7
  | .mgt => 14
  | .key => 15
  | .flt => 23
  | .pwr => 4
  | .time => 15
  | .refsel => 2
  | .gbus => 6
  | .xpt => 3
  | .take => 31
  | .reel => 7
  | .mon => 3
  | .aud => 15
  | .sens => 2
  | .lane => 12
  | .port => 6
  | .ing => 19
  | .egr => 3
  | .fol => 2
  | .hbm => 1

/-- BLOCK codes of PAGE_ID, R45. -/
def PageKind.block : PageKind → Nat
  | .chip => 0x0001
  | .bmx => 0x0002
  | .part => 0x0003
  | .host => 0x0004
  | .mgt => 0x0005
  | .key => 0x0006
  | .flt => 0x0007
  | .pwr => 0x0008
  | .time => 0x0009
  | .refsel => 0x000A
  | .gbus => 0x000B
  | .xpt => 0x000C
  | .take => 0x000D
  | .reel => 0x000E
  | .mon => 0x000F
  | .aud => 0x0010
  | .sens => 0x0011
  | .lane => 0x0020
  | .port => 0x0021
  | .ing => 0x0022
  | .egr => 0x0023
  | .fol => 0x0024
  | .hbm => 0

/-- Offset of the EVENT register of a page kind, where it has one. -/
def PageKind.eventOff : PageKind → Option Nat
  | .chip => none
  | .bmx => none
  | .part => none
  | .host => none
  | .mgt => some 0x044
  | .key => some 0x044
  | .flt => some 0x044
  | .pwr => some 0x04C
  | .time => some 0x044
  | .refsel => some 0x04C
  | .gbus => some 0x048
  | .xpt => some 0x04C
  | .take => some 0x048
  | .reel => some 0x044
  | .mon => some 0x044
  | .aud => some 0x044
  | .sens => none
  | .lane => some 0x04C
  | .port => some 0x048
  | .ing => some 0x048
  | .egr => some 0x044
  | .fol => some 0x04C
  | .hbm => none

/-- The page of R42 that a page number (address bits 27:16) decodes to, with its instance number. -/
def pageOf (pg : Nat) : Option (PageKind × Nat) :=
  if pg < 0x11 then
    match pg with
    | 0x00 => some (.chip, 0) | 0x01 => some (.bmx, 0) | 0x02 => some (.part, 0) | 0x03 => some (.host, 0)
    | 0x04 => some (.mgt, 0) | 0x05 => some (.key, 0) | 0x06 => some (.flt, 0) | 0x07 => some (.pwr, 0)
    | 0x08 => some (.time, 0) | 0x09 => some (.refsel, 0) | 0x0A => some (.gbus, 0) | 0x0B => some (.xpt, 0)
    | 0x0C => some (.take, 0) | 0x0D => some (.reel, 0) | 0x0E => some (.mon, 0) | 0x0F => some (.aud, 0)
    | _ => some (.sens, 0)
  else if 0x100 ≤ pg ∧ pg < 0x130 then some (.lane, pg - 0x100)
  else if 0x140 ≤ pg ∧ pg < 0x170 then some (.port, pg - 0x140)
  else if 0x180 ≤ pg ∧ pg < 0x190 then some (.ing, pg - 0x180)
  else if 0x1C0 ≤ pg ∧ pg < 0x1D0 then some (.egr, pg - 0x1C0)
  else if 0x200 ≤ pg ∧ pg < 0x240 then some (.fol, pg - 0x200)
  else if 0x300 ≤ pg ∧ pg < 0x400 then some (.hbm, pg - 0x300)
  else none

/-- The first row of a register list that covers an offset. -/
def findReg : List Reg → Nat → Option Reg
  | [], _ => none
  | r :: rs, off => if r.off ≤ off ∧ off < r.off + 4 * r.words then some r else findReg rs off

/-- The register that an offset of a page reaches (R42, R45, R54; R67, R108 and R138 for the repeated ones). -/
def regAt (k : PageKind) (off : Nat) : Option Reg :=
  if k = .hbm then none
  else if off < 0x40 then findReg headerRegs off
  else if 0x1000 ≤ off ∧ off < 0x1050 then
    if k.cap / 2 % 2 = 1 then
      (findReg windowRegs off).map fun r => if k.cap % 2 = 1 then r else ⟨r.off, r.words, r.acc, false, r.pair, r.rein, r.reset, r.mask⟩
    else none
  else
    match k with
    | .lane => if 0x100 ≤ off ∧ off < 0x500 then findReg laneSubRegs ((off - 0x100) % 0x80) else findReg laneRegs off
    | .port => if 0x100 ≤ off ∧ off < 0x300 then findReg portSubRegs ((off - 0x100) % 0x40) else findReg portRegs off
    | .host => if 0x2000 ≤ off ∧ off < 0x3000 then findReg hostSubRegs ((off - 0x2000) % 0x20) else none
    | k => findReg k.regs off

end Sys2Proof.Machine
end

