-- ==== Sys2Proof/Machine/Ops.lean ====
section
/-!
DEFINITION. Machine/Ops.lean: the named operations over registers, table entries and the model's own fields. A register is
numbered by its bank (0 where it has one copy) and its address in the control space; a word of a table entry by its page,
bank, TBL_SEL, TBL_INDEX and word.
-/
namespace Sys2Proof.Machine

/-! ### Page numbers, R42 -/

def pChip : Nat := 0x00
def pBmx : Nat := 0x01
def pPart : Nat := 0x02
def pHost : Nat := 0x03
def pMgt : Nat := 0x04
def pKey : Nat := 0x05
def pFlt : Nat := 0x06
def pPwr : Nat := 0x07
def pTime : Nat := 0x08
def pRefsel : Nat := 0x09
def pGbus : Nat := 0x0A
def pXpt : Nat := 0x0B
def pTake : Nat := 0x0C
def pReel : Nat := 0x0D
def pMon : Nat := 0x0E
def pAud : Nat := 0x0F
def pSens : Nat := 0x10
def pLane (n : Nat) : Nat := 0x100 + n
def pPort (n : Nat) : Nat := 0x140 + n
def pIng (n : Nat) : Nat := 0x180 + n
def pEgr (n : Nat) : Nat := 0x1C0 + n
def pFol (n : Nat) : Nat := 0x200 + n

/-- Every page number that R42 gives a register page. -/
def allPages : List Nat :=
  List.range 0x11 ++ (List.range 48).map pLane ++ (List.range 48).map pPort ++ (List.range 16).map pIng ++
    (List.range 16).map pEgr ++ (List.range 64).map pFol

/-- The address of an offset in a page. -/
def regA (pg off : Nat) : Nat := 65536 * pg + off

/-- Number of a register in the store. -/
def regKey (bank a : Nat) : Nat := 2 ^ 28 * bank + a

/-- Reset value of a register (R15): the Reset column of its list, and "per page" and "per part" values. -/
def regReset (key : Nat) : Word :=
  let a := key % 2 ^ 28
  let off := a % 65536
  match pageOf (a / 65536) with
  | none => 0
  | some (k, inst) =>
    if off = 0x000 then wd (k.block * 65536 + inst)
    else if off = 0x008 then wd k.cap
    else if k = .chip ∧ off = 0x048 then loHalf Config.dieId.toNat
    else if k = .chip ∧ off = 0x04C then hiHalf Config.dieId.toNat
    else if k = .gbus ∧ off = 0x060 then loHalf Config.gbusUid.toNat
    else if k = .gbus ∧ off = 0x064 then hiHalf Config.gbusUid.toNat
    else
      match regAt k off with
      | some r => wd r.reset
      | none => 0

/-- Read a register of a bank. -/
def State.rd (s : State) (bank a : Nat) : Word := Tab.get regReset s.regs (regKey bank a)

/-- Set a register of a bank. -/
def State.wr (s : State) (bank a : Nat) (v : Word) : State :=
  { s with regs := Tab.put regReset s.regs (regKey bank a) v }

/-- A field of a register. -/
def State.rdF (s : State) (bank a lo n : Nat) : Nat := fld (s.rd bank a) lo n

/-- Set a field of a register. -/
def State.wrF (s : State) (bank a lo n v : Nat) : State := s.wr bank a (setFld (s.rd bank a) lo n v)

/-- A 64-bit pair register. -/
def State.rd64 (s : State) (bank a : Nat) : Nat := pairOf (s.rd bank a) (s.rd bank (a + 4))

/-- Set a 64-bit pair register, lower half first (R49). -/
def State.wr64 (s : State) (bank a v : Nat) : State := (s.wr bank a (loHalf v)).wr bank (a + 4) (hiHalf v)

/-- Add one to a 32-bit counter that wraps. -/
def State.inc (s : State) (bank a : Nat) : State := s.wr bank a (s.rd bank a + 1)

/-- Add to a 32-bit counter that saturates. -/
def State.incSat (s : State) (bank a n : Nat) : State := s.wr bank a (wd (satAdd 32 (s.rd bank a).toNat n))

/-- Number of a table word in the store. -/
def tblKey (pg bank sel idx w : Nat) : Nat := 16 * (2 ^ 24 * (65536 * (16 * pg + bank) + sel) + idx) + w

/-- SEV and REACT after reset of a fault source (R469), with TYPE and FIXED (R492), as DATA0 of the configuration table. -/
def fltConfigReset (src : Nat) : Nat :=
  let escCap := 2 * 65536
  if src < 352 then 0x10 + escCap
  else if src < 576 then 1 + 0x10 + escCap + 2 ^ 24
  else if src < 608 then 2 + 0x10 + escCap
  else if src = 608 ∨ src = 609 then 1 + 0x10 + escCap
  else if src = 610 then 0x10 + escCap
  else if src = 616 then 2 + 0x10 + 0x40 + escCap
  else if src = 617 then 1 + 0x10 + escCap
  else if 624 ≤ src ∧ src ≤ 627 then escCap + 2 ^ 25
  else 0x10 + escCap

/-- Reaction set of a severity after reset, R492. -/
def sevReactReset (sev : Nat) : Nat :=
  if sev < 2 then 0x010 else if sev = 2 then 0x130 else 0x1B0

/-- A word of the scaler's bank 0, R354: linear interpolation between taps 3 and 4 of a row of H, and taps 2 and 3 of V. -/
def coefReset (phase w : Nat) : Nat :=
  if w = 1 then 64 * (64 - phase) * 65536
  else if w = 2 then 64 * phase
  else if w = 5 then 64 * (64 - phase) + 64 * phase * 65536
  else 0

/-- Default switch lines and other reset values of table words that are not 0, as each chapter's entry tables give them. -/
def tblReset (key : Nat) : Word :=
  let w := key % 16
  let idx := key / 16 % 2 ^ 24
  let sel := key / 2 ^ 28 % 65536
  let bank := key / 2 ^ 44 % 16
  let pg := key / 2 ^ 48
  if pg = pPart ∧ sel = 8 ∧ idx = 0 ∧ w < 3 then 0xFFFFFFFF
  else if pg = pFlt ∧ sel = 1 ∧ idx < 640 ∧ w = 0 ∧ bank = 0 then wd (fltConfigReset idx)
  else if pg = pFlt ∧ sel = 2 ∧ idx < 4 ∧ w = 0 ∧ bank = 0 then wd (sevReactReset idx)
  else if pg = pTake ∧ sel = 3 ∧ idx = 0 ∧ w = 0 ∧ bank = 0 then 65536
  else if pg = pKey ∧ sel = 2 ∧ idx = 0 ∧ w = 0 then 1007
  else if pg = pMon ∧ sel = 6 ∧ idx < 64 then wd (coefReset idx w)
  else if pg = pEgr 0 ∧ sel = 4 ∧ idx < 384 ∧ w = 0 then wd (95 + 10 * 256)
  else if pg = pEgr 0 ∧ sel = 4 ∧ idx < 384 ∧ w = 2 then 1000
  else if pg = pRefsel ∧ sel = 4 ∧ idx < 4 ∧ w = 0 then 0x80
  else 0

/-- Read a word of a table entry. -/
def State.ent (s : State) (pg bank sel idx w : Nat) : Word := Tab.get tblReset s.tbl (tblKey pg bank sel idx w)

/-- Set a word of a table entry. -/
def State.setEnt (s : State) (pg bank sel idx w : Nat) (v : Word) : State :=
  { s with tbl := Tab.put tblReset s.tbl (tblKey pg bank sel idx w) v }

/-- A field of a table word. -/
def State.entF (s : State) (pg bank sel idx w lo n : Nat) : Nat := fld (s.ent pg bank sel idx w) lo n

/-- Set a field of a table word. -/
def State.setEntF (s : State) (pg bank sel idx w lo n v : Nat) : State :=
  s.setEnt pg bank sel idx w (setFld (s.ent pg bank sel idx w) lo n v)

/-- The first n words of a table entry. -/
def State.entWords (s : State) (pg bank sel idx n : Nat) : List Word :=
  (List.range n).map fun w => s.ent pg bank sel idx w

/-- Write words to a table entry from word w up. -/
def State.setEntWords (s : State) (pg bank sel idx : Nat) : Nat → List Word → State
  | _, [] => s
  | w, v :: r => State.setEntWords (s.setEnt pg bank sel idx w v) pg bank sel idx (w + 1) r

/-- Indices of a table whose stored word w passes a test. The test must fail on the reset value. -/
def State.entIdxs (s : State) (pg bank sel w : Nat) (f : Word → Bool) : List Nat :=
  (s.tbl.filter fun e => decide (e.1 % 16 = w) && decide (e.1 / 2 ^ 28 = (pg * 16 + bank) * 65536 + sel) && f e.2).map
    fun e => e.1 / 16 % 2 ^ 24

/-- Indices of a table of which some word is listed, in rising order. -/
def State.tblIdxs (s : State) (pg bank sel : Nat) : List Nat :=
  ((s.tbl.filter fun e => decide (e.1 / 2 ^ 28 = (pg * 16 + bank) * 65536 + sel)).map fun e => e.1 / 16 % 2 ^ 24).eraseDups

/-- A free value below 2^n (log entry 1), and the state with the counter advanced. -/
def State.fresh (s : State) (n : Nat) : Nat × State := (Config.free s.free % 2 ^ n, { s with free := s.free + 1 })

/-- One second, in fabric beats of 345.6 MHz. -/
def beatsPerSecond : Nat := 345600000

/-- Something leaves the part (log entry 2). -/
def State.emit (s : State) (o : Out) : State := { s with out := s.out ++ [o] }

/-- Write words at consecutive register addresses of a bank. -/
def State.wrWords (s : State) (bank : Nat) : Nat → List Word → State
  | _, [] => s
  | a, v :: r => State.wrWords (s.wr bank a v) bank (a + 4) r

/-- Snapshot and clear one counter (R75): copy to the snapshot register, then 0. -/
def State.snap (s : State) (bank a copy : Nat) : State := (s.wr bank copy (s.rd bank a)).wr bank a 0

/-- Snapshot and clear one counter word of a table entry (R75). -/
def State.snapEnt (s : State) (pg bank sel idx w copy : Nat) : State :=
  (s.setEnt pg bank sel idx copy (s.ent pg bank sel idx w)).setEnt pg bank sel idx w 0

/-- Snapshot and clear counter words of every entry of a table: pairs of a counter word and the word of its copy. -/
def State.snapTable (s : State) (pg bank sel : Nat) (ws : List (Nat × Nat)) : State :=
  (s.tblIdxs pg bank sel).foldl (fun s i => ws.foldl (fun s w => s.snapEnt pg bank sel i w.1 w.2) s) s

/-- Apply an effect for each element of a list, in order. -/
def forEach {α : Type} (l : List α) (f : α → State → State) (s : State) : State := l.foldl (fun s x => f x s) s

/-! ### Tags and owners, R56 and R515 -/

/-- The bank that a tag uses: its partition, or P0's for tags M and D (R515). -/
def tagBank : Tag → Nat
  | .p n => n.val
  | .m => 0
  | .d => 0

/-- The number of a tag in ERR_INFO.TAG. -/
def tagNum : Tag → Nat
  | .p n => n.val
  | .m => 16
  | .d => 17

/-- Whether a tag is subject to ownership and grant checks (R515: they pass for M and D). -/
def tagChecked : Tag → Bool
  | .p _ => true
  | .m => false
  | .d => false

/-- Whether a tag has the rights of P0 where a rule asks for P0 (R515). -/
def tagIsP0 (t : Tag) : Bool := tagBank t == 0

/-- Whether a tag passes an ownership check for a resource of partition owner. -/
def tagOwns (t : Tag) (owner : Nat) : Bool := !tagChecked t || tagBank t == owner

/-- PAGE_OWNER of a page (0 in shared pages). -/
def State.pageOwner (s : State) (pg : Nat) : Nat := s.rdF 0 (regA pg 0x00C) 0 4

/-- PAGE_LOCK.LOCK of a page. -/
def State.pageLocked (s : State) (pg : Nat) : Bool := bitOf (s.rd 0 (regA pg 0x010)) 0

/-- PART table owner fields (R58): TBL_SEL 1 inputs, 2 outputs, 3 heads, 4 time bases, 5 and 6 audio blocks, 7 queues. -/
def State.partOwner (s : State) (sel idx : Nat) : Nat := s.entF pPart 0 sel idx 0 0 4

/-- GRANT bit p of a source (R58): PART tables 1 and 6. -/
def State.granted (s : State) (sel idx p : Nat) : Bool := bitOf (s.ent pPart 0 sel idx 0) (16 + p)

/-- FLT.STATUS.HOLD, R483. -/
def State.held (s : State) : Bool := bitOf (s.rd 0 (regA pFlt 0x040)) 0

/-- PAGE_STATUS.GATED as stored. -/
def State.gated (s : State) (pg : Nat) : Bool := bitOf (s.rd 0 (regA pg 0x014)) 4

/-- Whether a block is in reset (R475), by its page and instance; of the fabric, by slice. -/
def State.inReset (s : State) (pg inst : Nat) : Bool := s.flt.resetting.contains (pg, inst)

/-- MGT.STATUS.MODE reads HALTER (R452). -/
def State.halter (s : State) : Bool := s.rdF 0 (regA pMgt 0x040) 1 2 == 2

/-- PAGE_STATUS.READY. -/
def State.ready (s : State) (pg : Nat) : Bool := bitOf (s.rd 0 (regA pg 0x014)) 0

end Sys2Proof.Machine
end

