-- ==== Sys2Proof/Machine/Flags.lean ====
section
/-!
DEFINITION. Machine/Flags.lean: sticky event bits, PAGE_FAULT bits, fault occurrences (R468, R470) and interrupt causes
(R72, R73), written once for every block.
-/
namespace Sys2Proof.Machine

/-- Number k of a page kind in R468. -/
def sourceK (k : PageKind) : Nat := if k.block < 0x20 then k.block - 1 else k.block - 0x0F

/-- Source number of PAGE_FAULT bit b of a page, R468. -/
def pageSource (pg b : Nat) : Nat :=
  match pageOf pg with
  | some (k, _) => 16 * sourceK k + b
  | none => 0

/-- The INSTANCE field of a page. -/
def pageInst (pg : Nat) : Nat :=
  match pageOf pg with
  | some (_, i) => i
  | none => 0

/-- An occurrence joins those that wait for the collector's next batch (R470, R473). -/
def State.occur (s : State) (src inst part : Nat) : State := { s with occ := s.occ ++ [⟨src, inst, part⟩] }

/-- Set PAGE_FAULT bit b of a page; unless PAGE_FAULT_MASK masks it, the source makes an occurrence with the INSTANCE
and partition given (R45, R468, R470). -/
def State.faultAt (s : State) (pg b inst part : Nat) : State :=
  let s1 := s.wrF 0 (regA pg 0x018) b 1 1
  if bitOf (s.rd 0 (regA pg 0x01C)) b then s1 else s1.occur (pageSource pg b) inst part

/-- Bank of a page's EVENT register for a partition. -/
def eventBank (pg part : Nat) : Nat :=
  match pageOf pg with
  | some (k, _) =>
    match k.eventOff with
    | some off =>
      match regAt k off with
      | some r => if r.banked then part else 0
      | none => 0
    | none => 0
  | none => 0

/-- Set bit b of a page's EVENT register, in the bank of the partition where EVENT is banked. -/
def State.event (s : State) (pg b part : Nat) : State :=
  match pageOf pg with
  | some (k, _) =>
    match k.eventOff with
    | some off => s.wrF (eventBank pg part) (regA pg off) b 1 1
    | none => s
  | none => s

/-- A block event whose EVENT and PAGE_FAULT use one bit order: both bits, and the occurrence with INSTANCE given. -/
def State.raiseAt (s : State) (pg b inst part : Nat) : State := (s.event pg b part).faultAt pg b inst part

/-- The same with the page's own INSTANCE. -/
def State.raise (s : State) (pg b part : Nat) : State := s.raiseAt pg b (pageInst pg) part

/-- The same for a page that one partition owns: the occurrence is attributed to the owner of the page. -/
def State.raiseOwned (s : State) (pg b : Nat) : State := s.raise pg b (s.pageOwner pg)

/-- PAGE_FAULT alone, attributed to the owner of an owned page (LANE, whose EVENT has its own order, R108). -/
def State.faultOwned (s : State) (pg b : Nat) : State := s.faultAt pg b (pageInst pg) (s.pageOwner pg)

/-! ### Interrupt causes, R72 and R73 -/

/-- Whether a function is on the link: PF0, or a virtual function while VF Enable is 1 (R65, R66). -/
def State.onLink (s : State) (p : Nat) : Bool := p == 0 || s.host.vfEnable

/-- Whether function p can send the message of a vector: PERST_N high, the function present, MSI-X enabled and the
vector not masked. -/
def State.canSend (s : State) (p vector : Nat) : Bool :=
  s.host.perstN && s.onLink p && s.host.msixEnable.getLsbD p &&
    !(Tab.get (fun _ => (0 : Word)) s.host.msix (p * 256 + vector * 4 + 3)).getLsbD 0

/-- A cause occurs for partition p: its message is sent, or PEND is set. One that pends already stands for every occurrence until its
message is sent (R73). -/
def State.cause (s : State) (p cause : Nat) : State :=
  let e := s.ent pHost p 1 cause 0
  let v := fld e 0 6
  if bitOf e 30 then s
  else if bitOf e 31 && s.canSend p v then s.emit (.msix p v cause)
  else s.setEntF pHost p 1 cause 0 30 1 1

/-- A pending cause is delivered where delivery is possible: one message, and PEND clears (R73). -/
def State.deliver (s : State) (p cause : Nat) : State :=
  let e := s.ent pHost p 1 cause 0
  if bitOf e 30 && bitOf e 31 && s.canSend p (fld e 0 6) then
    (s.setEntF pHost p 1 cause 0 30 1 0).emit (.msix p (fld e 0 6) cause)
  else s

end Sys2Proof.Machine
end

