-- ==== Sys2Proof/Machine/Bus.lean ====
section
/-!
DEFINITION. Machine/Bus.lean: the control bus matrix of spec/02_control_plane.md. Every host command reaches its register
through `busWrite`, which makes the checks of R57 in their order, logs a refusal (R52) and counts an accepted write (R47).
-/
namespace Sys2Proof.Machine

/-- Causes of a bus error, in the order of BMX.ERR_INFO.CAUSE. -/
inductive Cause where
  | decode | firewall | access | busy | gated | timeout | held
  deriving DecidableEq, Repr

/-- Codes of ERR_INFO.CAUSE. -/
def Cause.code : Cause → Nat
  | .decode => 1
  | .firewall => 2
  | .access => 3
  | .busy => 4
  | .gated => 5
  | .timeout => 6
  | .held => 7

/-- One access at the bus matrix: initiator tag, master, address, width (0 to 3 for 8 to 64 bits), whether it is a word
of a burst, whether it writes, and the data written. -/
structure Access where
  tag : Tag
  master : Nat
  addr : Nat
  size : Nat
  burst : Bool
  wr : Bool
  data : Nat
  deriving DecidableEq, Repr

/-- A 32-bit write by the host master of a tag. -/
def Access.w32 (t : Tag) (a : Nat) (d : Word) : Access := ⟨t, tagNum t, a, 2, false, true, d.toNat⟩

/-- A 32-bit read by the host master of a tag. -/
def Access.r32 (t : Tag) (a : Nat) : Access := ⟨t, tagNum t, a, 2, false, false, 0⟩

/-- Page number and offset of an access. -/
def Access.page (x : Access) : Nat := x.addr / 65536
def Access.off (x : Access) : Nat := x.addr % 65536

/-- Whether the debug seal is blown (R436: any of the four fuses). -/
def State.sealBlown (s : State) : Bool := decide (s.fuse.dbgSeal ≠ 0)

/-- The register that an access reaches: the word that holds its address. -/
def Access.reg (x : Access) : Option Reg :=
  match pageOf x.page with
  | some (k, _) => regAt k (x.off / 4 * 4)
  | none => none

/-- Whether a page kind is shared (R42, PAGE_CAP.SHARED). -/
def PageKind.shared (k : PageKind) : Bool := k.cap % 2 == 1

/-- The queue pair that a HOST offset belongs to, R67. -/
def queueOf (off : Nat) : Nat := (off - 0x2000) / 0x40

/-- Firewall steps 2 and 3 of R57, with R44 and, for queue registers, R67: true when the access is refused. A write by P1 to P15 at
an offset 0x040 to 0xFFF of a shared page that holds no register is refused here, as one to a page-global register is: DESIGN CHOICE,
log entry 141. -/
def State.firewalled (s : State) (x : Access) : Bool :=
  if !tagChecked x.tag then false
  else
    match pageOf x.page with
    | none => false
    | some (k, _) =>
      let p := tagBank x.tag
      if k.shared then
        if k = .host ∧ 0x2000 ≤ x.off ∧ x.off < 0x3000 then decide (s.partOwner 7 (queueOf x.off) ≠ p)
        else
          let banked := match regAt k x.off with
            | some r => r.banked
            | none => false
          x.wr && p != 0 && decide (0x40 ≤ x.off ∧ x.off < 0x1000) && !banked
      else !(s.pageOwner x.page == p || (p == 0 && decide (x.off < 0x40)))

/-- Whether the shape of an access is refused (R49). -/
def Access.badShape (x : Access) : Bool :=
  if x.addr % 2 ^ x.size ≠ 0 then true
  else if x.size < 2 then x.wr
  else if x.size = 2 then false
  else
    match x.reg with
    | some r => !r.pair
    | none => true

/-- The window copy or result block that a write would disturb is busy (R55, R74). -/
def State.busyFor (s : State) (x : Access) : Bool :=
  match pageOf x.page with
  | none => false
  | some (k, _) =>
    let b := if k.shared then tagBank x.tag else 0
    if 0x1000 ≤ x.off ∧ x.off < 0x1050 then s.bus.ops.any fun o => o.page == x.page && o.bank == b
    else if x.off = 0x080 ∧ k.cap / 8 % 2 = 1 then
      s.bus.res.any fun o => o.page == x.page && o.bank == b
    else false

/-- The writes that are accepted in hold-all, R483. -/
def heldAccepts (x : Access) : Bool :=
  match pageOf x.page with
  | none => false
  | some (k, _) =>
    if x.off < 0x40 then true
    else
      match k with
      | .flt => true
      | .host => true
      | .take => x.off == 0x060 && decide (2 ≤ x.data % 16 ∧ x.data % 16 ≤ 6)
      | .aud => x.off == 0x05C && decide (2 ≤ x.data % 16 ∧ x.data % 16 ≤ 4)
      | .ing => decide (0x080 ≤ x.off ∧ x.off < 0x0C0)
      | _ => false

/-- In halter mode every page but CHIP, BMX, MGT, KEY and SENS behaves as a gated page (R452). -/
def State.deaf (s : State) (pg : Nat) : Bool :=
  s.halter && !(pg == pChip || pg == pBmx || pg == pMgt || pg == pKey || pg == pSens)

/-- The first check of R57 that an access fails, steps DECODE to HELD. -/
def State.refusal (s : State) (x : Access) : Option Cause :=
  if (pageOf x.page).isNone then some .decode
  else if s.firewalled x then some .firewall
  else if x.badShape then some .access
  else if x.reg.isNone then some .decode
  else if decide (0x40 ≤ x.off) && (s.gated x.page || s.deaf x.page) then some .gated
  else if x.wr && s.busyFor x then some .busy
  else if x.wr && s.held && !heldAccepts x then some .held
  else none

/-- Log an error (R52): BMX.ERR_COUNT, ERR_ADDR, ERR_INFO, and the fault source of the cause, attributed to the
initiator's partition or to P0 for tags M and D. -/
def State.logErr (s : State) (x : Access) (c : Cause) : State :=
  let info := c.code + (if x.wr then 16 else 0) + (if x.burst then 4 else x.size) * 32 + tagNum x.tag * 256
  (((s.inc 0 (regA pBmx 0x044)).wr 0 (regA pBmx 0x048) (wd x.addr)).wr 0 (regA pBmx 0x04C) (wd info)).faultAt pBmx
    (c.code - 1) 0 (tagBank x.tag)

/-- The access drops the halves that R50 holds for its master in the page. -/
def State.dropHolds (s : State) (master pg : Nat) : State :=
  { s with bus := { s.bus with
      pairRd := s.bus.pairRd.filter fun h => !(h.master == master && h.addr / 65536 == pg)
      pairWr := s.bus.pairWr.filter fun h => !(h.master == master && h.addr / 65536 == pg) } }

/-- The response of the access. A write posted by a PCIe function has none (R52). -/
def State.respond (s : State) (x : Access) (err : Bool) (d : Nat) : State :=
  if x.wr && tagChecked x.tag && x.master < 16 then s
  else { s with bus := { s.bus with resp := [⟨err, BitVec.ofNat 64 d⟩] } }

/-- Whether an access travels on the rein channel (R63): a write by P0 or M to a rein register, by itself or in a burst. -/
def Access.rein (x : Access) : Bool :=
  x.wr && (x.tag == .p 0 || x.tag == .m) &&
    match x.reg with
    | some r => r.rein
    | none => false

/-- BMX.REIN_COUNT and REIN_MAXLAT of a rein write. Its latency is a measured time: a free value (log entry 1). -/
def State.countRein (s : State) (x : Access) : State :=
  if x.rein then
    let (lat, s1) := s.fresh 32
    (s1.inc 0 (regA pBmx 0x050)).wr 0 (regA pBmx 0x054) (wd (max (s1.rd 0 (regA pBmx 0x054)).toNat lat))
  else s

/-- Whether an access is the write of PAGE_OWNER that R46 speaks of: by P0, to a page that is not shared. -/
def Access.ownerWrite (x : Access) : Bool :=
  x.wr && x.off == 0x00C && tagIsP0 x.tag &&
    match pageOf x.page with
    | some (k, _) => !k.shared
    | none => false

/-- PAGE_SEQ of a page counts a write that completes without an error response (R47), but for a PAGE_OWNER write, which leaves it
unchanged (R46). -/
def State.countWrite (s : State) (x : Access) : State := if x.ownerWrite then s else s.inc 0 (regA x.page 0x020)

/-- Whether tag D is absent (R56, R436). -/
def State.absent (s : State) (t : Tag) : Bool := t == .d && s.sealBlown

/-- The first access by tag D after a chip reset sets KEY.STATUS.DEBUGGED (R436). -/
def State.noteDebug (s : State) (t : Tag) : State :=
  if t = .d then s.wrF 0 (regA pKey 0x040) 9 1 1 else s

/-- A request that never reaches the bus matrix: of a host function while PERST_N is low (R222) or that is not on the link (R65), or
of tag D once it is absent. -/
def State.lost (s : State) (t : Tag) (master : Nat) : Bool :=
  s.absent t || (tagChecked t && decide (master < 16) && !(s.host.perstN && s.onLink (tagBank t)))

/-- A write that has passed or failed the checks: its effect, or the log entry. -/
def busWrite (x : Access) (eff : State → State) (s : State) : State :=
  if s.lost x.tag x.master then s
  else
    let s1 := (s.noteDebug x.tag).dropHolds x.master x.page
    match s1.refusal x with
    | some c => (s1.logErr x c).respond x true 0
    | none => (eff ((s1.countRein x).countWrite x)).respond x false 0

/-- A host command that writes one 32-bit register: the register's effect after the bus matrix. -/
def hostWrite (t : Tag) (a : Nat) (d : Word) (eff : State → State) (s : State) : State :=
  busWrite (.w32 t a d) eff s

/-- The bank of a register for a tag: its own copy where the register is banked (R43), else 0. -/
def bankFor (t : Tag) (a : Nat) : Nat :=
  match pageOf (a / 65536) with
  | some (k, _) =>
    match regAt k (a % 65536) with
    | some r => if r.banked then tagBank t else 0
    | none => 0
  | none => 0

/-- Record a refused table or register write: REASON and the refused TBL_INDEX (R516). -/
def State.setReason (s : State) (pg off bank reason idx : Nat) : State :=
  s.wr bank (regA pg off) (setFld (setFld (s.rd bank (regA pg off)) 0 4 reason) 16 16 idx)

/-- An accepted write sets REASON to 0 and leaves the other bits (R516). -/
def State.clearReason (s : State) (pg off bank : Nat) : State := s.wrF bank (regA pg off) 0 4 0

/-- Word w of a table entry's data. -/
def dat (d : List Word) (w : Nat) : Word := d.getD w 0

/-- Whether words a to b of the data are 0 outside a mask. -/
def outside (w : Word) (mask : Nat) : Bool := decide (Nat.land w.toNat (2 ^ 32 - 1 - mask) ≠ 0)

end Sys2Proof.Machine
end

