-- ==== Sys2Proof/Machine/Essence.lean ====
section
/-!
DEFINITION. Machine/Essence.lean: essence descriptors of spec/01_essence_model.md (R29 to R41): their fields, the checks of
a descriptor write in the order of R30, the match of R32 and R35, and the marks and arm points of R37, R38 and R206.
-/
namespace Sys2Proof.Machine

/-- The words of a descriptor entry that are written, R29. -/
structure Desc where
  w0 : Word
  w1 : Word
  w2 : Word
  deriving DecidableEq, Repr

/-! ### Fields, R29 -/

def Desc.valid (d : Desc) : Bool := bitOf d.w0 31
def Desc.kind (d : Desc) : Nat := fld d.w0 28 3
def Desc.mode (d : Desc) : Nat := fld d.w0 26 2
def Desc.bond (d : Desc) : Nat := fld d.w0 24 2
def Desc.tb (d : Desc) : Nat := fld d.w0 21 3
def Desc.swrule (d : Desc) : Nat := fld d.w0 18 3
def Desc.anyfmt (d : Desc) : Bool := bitOf d.w0 17
def Desc.rateField (d : Desc) : Nat := fld d.w0 0 16
def Desc.raster (d : Desc) : Nat := fld d.w1 28 4
def Desc.frate (d : Desc) : Nat := fld d.w1 24 4
def Desc.scan (d : Desc) : Nat := fld d.w1 22 2
def Desc.sampling (d : Desc) : Nat := fld d.w1 20 2
def Desc.depth (d : Desc) : Nat := fld d.w1 18 2
def Desc.colour (d : Desc) : Nat := fld d.w1 15 3
def Desc.sdiclass (d : Desc) : Nat := fld d.w1 18 4
def Desc.channelsField (d : Desc) : Nat := fld d.w1 16 6
def Desc.srate (d : Desc) : Nat := fld d.w1 15 1
def Desc.swline2 (d : Desc) : Nat := fld d.w2 16 13
def Desc.swline (d : Desc) : Nat := fld d.w2 0 13

/-- Ports of the group. -/
def Desc.group (d : Desc) : Nat := 2 ^ d.bond

/-- RATE: 0 encodes 65,536. -/
def Desc.rate (d : Desc) : Nat := if d.rateField = 0 then 65536 else d.rateField

/-- Audio channels of a PCM bundle (0 encodes 64), and pairs of an AES3 bundle. -/
def Desc.channels (d : Desc) : Nat := if d.kind = 1 ∧ d.channelsField = 0 then 64 else d.channelsField

/-! ### Raster and frame-rate codes -/

/-- Active width, active lines, total lines, default switch lines, and a mask of the SCAN codes allowed. -/
structure Raster where
  width : Nat
  height : Nat
  total : Nat
  line1 : Nat
  line2 : Nat
  scans : Nat
  deriving DecidableEq, Repr

/-- The raster code table. -/
def rasterOf (code : Nat) : Option Raster :=
  match code with
  | 0 => some ⟨720, 576, 625, 6, 319, 2⟩
  | 1 => some ⟨720, 486, 525, 10, 273, 2⟩
  | 2 => some ⟨1280, 720, 750, 7, 0, 1⟩
  | 3 => some ⟨1920, 1080, 1125, 7, 569, 7⟩
  | 4 => some ⟨2048, 1080, 1125, 7, 569, 7⟩
  | 5 => some ⟨3840, 2160, 2250, 7, 0, 5⟩
  | 6 => some ⟨4096, 2160, 2250, 7, 0, 5⟩
  | 7 => some ⟨7680, 4320, 4500, 7, 0, 5⟩
  | 8 => some ⟨8192, 4320, 4500, 7, 0, 5⟩
  | _ => none

/-- The frame-rate code table: frames per second as a numerator and a denominator. -/
def frateOf (code : Nat) : Option (Nat × Nat) :=
  match code with
  | 0 => some (24000, 1001)
  | 1 => some (24, 1)
  | 2 => some (25, 1)
  | 3 => some (30000, 1001)
  | 4 => some (30, 1)
  | 5 => some (48000, 1001)
  | 6 => some (48, 1)
  | 7 => some (50, 1)
  | 8 => some (60000, 1001)
  | 9 => some (60, 1)
  | 10 => some (100, 1)
  | 11 => some (120000, 1001)
  | 12 => some (120, 1)
  | _ => none

/-- Frames per second of a descriptor. A reserved code is refused at the write (R30), so the other value is never used. -/
def Desc.frameRate (d : Desc) : Nat × Nat := (frateOf d.frate).getD (1, 1)

/-- Samples per second of an audio descriptor. -/
def Desc.sampleRate (d : Desc) : Nat := if d.srate = 1 then 96000 else 48000

/-- Whether the kind is one of the two audio kinds. -/
def Desc.audio (d : Desc) : Bool := d.kind == 1 || d.kind == 2

/-- Whether the kind and rule use RASTER and SCAN. -/
def Desc.usesRaster (d : Desc) : Bool :=
  d.kind == 0 || d.kind == 4 || d.kind == 3 || (d.audio && d.swrule == 3)

/-- Mask of the DATA1 bits that the kind uses. All kinds use FRATE; a reserved kind uses nothing else. -/
def Desc.used1 (d : Desc) : Nat :=
  let r := if d.usesRaster then 0xF0C00000 else 0
  match d.kind with
  | 0 => 0x0F000000 + r + 0x003FC000
  | 1 => 0x0F000000 + r + 0x003F8000
  | 2 => 0x0F000000 + r + 0x003F8000
  | 3 => 0x0F000000 + r
  | 4 => 0x0F000000 + r + 0x003C0000
  | _ => 0x0F000000

/-- Words per active line, R22. -/
def wplOf (r : Raster) (sampling : Nat) : Nat := if sampling = 1 then r.width / 2 else cdiv r.width 3

/-- 12-bit fields that the samples of an active line fill; the rest of its last word is padding of 0 (R22). -/
def Desc.lineFields (d : Desc) : Nat :=
  match rasterOf d.raster with
  | some r => if d.sampling = 1 then 3 * r.width else 2 * r.width
  | none => 0

/-- Bits of a raster sample by DEPTH. -/
def Desc.sampleBits (d : Desc) : Nat := 8 + 2 * d.depth

/-- A sample of `bits` bits left-justified in a field of n bits, low bits 0 (R21, R23), and a field's sample as a packet carries it. -/
def justify {n : Nat} (bits : Nat) (x : BitVec n) : BitVec n := x <<< (n - bits)
def unjustify {n : Nat} (bits : Nat) (x : BitVec n) : BitVec n := x >>> (n - bits)

/-- TOTAL as DATA3 reports it. -/
def Desc.total (d : Desc) : Nat :=
  if d.usesRaster then
    match rasterOf d.raster with
    | some r => r.total
    | none => 0
  else 0

/-- WPL as DATA3 reports it. -/
def Desc.wpl (d : Desc) : Nat :=
  if d.kind = 0 then
    match rasterOf d.raster with
    | some r => wplOf r d.sampling
    | none => 0
  else 0

/-- DATA3 of a stored entry. -/
def Desc.data3 (d : Desc) : Word := if d.valid then wd (d.wpl * 65536 + d.total) else 0

/-- The switch lines of the raster in DATA1: the default lines or SWLINE and SWLINE2, one a frame unless interlaced. -/
def Desc.switchLines (d : Desc) : List Nat :=
  match rasterOf d.raster with
  | none => []
  | some r =>
    let l1 := if (d.swrule = 1 ∨ d.swrule = 3) ∧ d.swline ≠ 0 then d.swline else r.line1
    let l2 := if d.swrule = 1 ∧ d.swline2 ≠ 0 then d.swline2 else r.line2
    if d.scan = 1 then [l1, l2] else [l1]

/-- Minimum RATE per member of a raster essence, R40. -/
def Desc.rateMin (d : Desc) : Nat :=
  match rasterOf d.raster with
  | none => 0
  | some r =>
    let b := r.height * cdiv (wplOf r d.sampling) d.group + (r.total - r.height)
    cdiv (65536 * b * d.frameRate.1) (345600000 * d.frameRate.2)

/-! ### Checks of a write that look at the entry alone, R30 -/

/-- A non-zero reserved bit, or a non-zero bit that the kind does not use. -/
def Desc.badBits (d : Desc) : Bool :=
  bitOf d.w0 16 || outside d.w2 0x1FFF1FFF || outside d.w1 d.used1

/-- BAD_FORMAT of a valid descriptor. -/
def Desc.badFormat (d : Desc) : Bool :=
  d.badBits || decide (5 < d.kind) || decide (4 < d.swrule) ||
    ((d.mode == 0 || d.mode == 3) && d.bond != 0) ||
    (frateOf d.frate).isNone ||
    (d.usesRaster &&
      match rasterOf d.raster with
      | none => true
      | some r => r.scans / 2 ^ d.scan % 2 == 0 || (d.raster == 0 && d.frate != 2) || (d.raster == 1 && d.frate != 3)) ||
    (d.kind == 0 && (decide (1 < d.sampling) || decide (2 < d.depth) || decide (3 < d.colour))) ||
    (d.kind == 4 && decide (5 < d.sdiclass)) ||
    (d.kind == 2 && (d.channelsField == 0 || decide (32 < d.channelsField))) ||
    (d.swline != 0 && ((d.swrule != 1 && d.swrule != 3) || decide (d.total < d.swline))) ||
    (d.swline2 != 0 && (d.swrule != 1 || d.scan != 1 || decide (d.total < d.swline2)))

/-- BAD_RULE: SWRULE not allowed for KIND. -/
def Desc.badRule (d : Desc) : Bool :=
  match d.swrule with
  | 0 => !(d.kind == 0 || d.kind == 4)
  | 1 => !(d.kind == 0 || d.kind == 4)
  | 2 => !d.audio
  | 3 => !d.audio
  | 4 => !(d.kind == 3 || d.kind == 5)
  | _ => true

/-! ### Descriptors held -/

/-- XPT.TBL_SEL of input and of output descriptors. -/
def selIn : Nat := 1
def selOut : Nat := 2

/-- A descriptor entry. -/
def State.desc (s : State) (sel idx : Nat) : Desc := ⟨s.ent pXpt 0 sel idx 0, s.ent pXpt 0 sel idx 1, s.ent pXpt 0 sel idx 2⟩

/-- The input descriptor of a slot, and the output descriptor of a port. -/
def State.inDesc (s : State) (x slot : Nat) : Desc := s.desc selIn (x * 16 + slot)
def State.outDesc (s : State) (y : Nat) : Desc := s.desc selOut y

/-- Valid slot descriptors of a fabric input, by slot. -/
def State.slotsOf (s : State) (x : Nat) : List Nat := idxs 16 fun k => (s.inDesc x k).valid

/-- Index of a port's first descriptor entry in its table, and the port of an entry. -/
def descIdx (sel port : Nat) : Nat := if sel = selIn then port * 16 else port
def descPort (sel idx : Nat) : Nat := if sel = selIn then idx / 16 else idx

/-- Owner of a fabric port. PART tables 1 and 2 hold the owners of inputs and outputs, R58. -/
def State.portOwner (s : State) (sel port : Nat) : Nat := s.partOwner sel port

/-- R41: the load of a partition in one direction, over its valid descriptors. -/
def State.load (s : State) (sel p : Nat) : Nat :=
  (s.entIdxs pXpt 0 sel 0 fun w => bitOf w 31).foldl
    (fun n i => if s.portOwner sel (descPort sel i) = p then n + (s.desc sel i).rate else n) 0

/-- Cap of a partition in one direction: DATA0 and DATA1 of PART table 8. -/
def State.fabCap (s : State) (sel p : Nat) : Nat := (s.ent pPart 0 8 p (sel - 1)).toNat

/-- R33: the port is a member of a group whose leader is VALID. -/
def State.inGroup (s : State) (sel port : Nat) : Bool :=
  [2, 4, 8].any fun n =>
    let start := port - port % n
    let l := s.desc sel (descIdx sel start)
    start != port && l.valid && l.mode == 1 && l.group == n

/-- BOND_ALIGN: the group rules of R33. -/
def State.bondBad (s : State) (sel port slot : Nat) (d : Desc) : Bool :=
  if d.mode = 1 ∨ d.mode = 2 then
    let n := d.group
    if n = 1 ∨ slot ≠ 0 then true
    else if d.mode = 2 then port % n == 0
    else
      port % n != 0 ||
        (idxs n fun m => m != 0).any fun m =>
          let e := s.desc sel (descIdx sel (port + m))
          !(e.valid && e.mode == 2 && s.portOwner sel (port + m) == s.portOwner sel port && e.kind == d.kind &&
            e.bond == d.bond && e.tb == d.tb && e.swrule == d.swrule && e.rateField == d.rateField && e.w1 == d.w1)
  else false

/-- SLOT_SUM: the shared-port rule of R35, and slot 0 alone on any other port (R20). -/
def State.slotBad (s : State) (port slot : Nat) (d : Desc) : Bool :=
  let others := (s.slotsOf port).filter fun k => k != slot
  if d.mode ≠ 3 then slot != 0 || !others.isEmpty
  else
    !(d.kind == 1 || d.kind == 2 || d.kind == 3 || d.kind == 5) ||
      others.any (fun k => (s.inDesc port k).mode != 3 || (s.inDesc port k).tb != d.tb) ||
      decide (65536 < others.foldl (fun n k => n + (s.inDesc port k).rate) d.rate)

/-- R30: the REASON with which a descriptor write is refused, first in its order, or 0. An output descriptor with MODE 3 is accepted
with any KIND: R35 limits the kinds of the slots that share a port, and a destination's KIND is not compared (DESIGN CHOICE, log
entry 145). -/
def State.descReason (s : State) (t : Tag) (sel idx : Nat) (inUse : Bool) (d : Desc) : Nat :=
  let port := descPort sel idx
  let slot := if sel = selIn then idx % 16 else 0
  let owner := s.portOwner sel port
  let old := s.desc sel idx
  let load := s.load sel owner
  let new := load - (if old.valid then old.rate else 0) + d.rate
  if sel = selIn ∧ 4096 ≤ port ∧ t ≠ .m then 9
  else if !tagOwns t owner then 10
  else if inUse || s.inGroup sel port then 1
  else if !d.valid then (if d.badBits then 2 else 0)
  else if d.badFormat then 2
  else if d.badRule then 3
  else if s.bondBad sel port slot d then 4
  else if d.kind = 0 ∧ 65536 < d.rateMin then 6
  else if d.kind = 0 ∧ d.rate < d.rateMin then 5
  else if sel = selIn ∧ s.slotBad port slot d then 7
  else if load < new ∧ s.fabCap sel owner < new then 8
  else 0

/-! ### Match, R32 and R35 -/

/-- Whether two descriptors of a kind agree in the DATA1 fields of R32. -/
def Desc.agree1 (src dst : Desc) : Bool :=
  match src.kind with
  | 0 => src.raster == dst.raster && src.frate == dst.frate && src.scan == dst.scan && src.sampling == dst.sampling &&
      src.depth == dst.depth
  | 3 => src.raster == dst.raster && src.frate == dst.frate && src.scan == dst.scan
  | 4 => src.raster == dst.raster && src.frate == dst.frate && src.scan == dst.scan && src.sdiclass == dst.sdiclass
  | 5 => src.frate == dst.frate
  | _ => src.channelsField == dst.channelsField && src.srate == dst.srate && src.frate == dst.frate &&
      (if src.swrule = 3 then dst.swrule == 3 && src.raster == dst.raster && src.scan == dst.scan && src.swline == dst.swline
       else true)

/-- Whether a source port matches a destination. Of a source port with several valid slots, taken to a destination with ANYFMT = 1
or none that is not MODE 3, the lowest valid slot's descriptor is compared (DESIGN CHOICE, log entry 146). -/
def State.matches (s : State) (x y : Nat) : Bool :=
  let dst := s.outDesc y
  let slots := s.slotsOf x
  match slots with
  | [] => false
  | k :: _ =>
    let src := s.inDesc x k
    if dst.mode = 3 then slots.all fun k => (s.inDesc x k).mode == 3 && (s.inDesc x k).tb == dst.tb
    else if dst.anyfmt then src.kind == dst.kind
    else src.kind == dst.kind && src.mode == dst.mode && src.bond == dst.bond && src.tb == dst.tb && src.agree1 dst

/-! ### Instants and marks, R37, R38 and R206 -/

/-- Number that stands for the beat clock itself where an instant belongs to no time base. -/
def beatBase : Nat := 8

/-- Time of a time base, in units of 2^-48 ns since the epoch; for the beat clock itself, since the start of its count. -/
def State.tbTime (s : State) (n : Nat) : Nat :=
  if n = beatBase then s.beat * (625 * 2 ^ 48) / 216 else (Tab.get (fun _ => TbRec.off) s.tbs n).t

/-- MODE of a time base, R372. -/
def State.tbMode (s : State) (n : Nat) : Nat := s.entF pTime 0 1 n 0 0 3

/-- R370: the linear count of a time base. A time base that is OFF reads 0 (R372). -/
def State.linear (s : State) (n : Nat) : Nat := if s.tbMode n = 0 then 0 else s.tbTime n / 2 ^ 32 % 2 ^ 64

/-- The signed difference of two linear counts, R370. -/
def linDiff (a b : Nat) : Int := sext 64 (a % 2 ^ 64 + (2 ^ 64 - b % 2 ^ 64))

/-- Whether an instant has come: the time base reads it or a later time at the start of this beat. -/
def State.reached (s : State) (a : At) : Bool := decide (a.num * (2 ^ 48 : Nat) ≤ (s.tbTime a.tb : Int) * a.den)

/-- The present instant of a time base. -/
def State.nowAt (s : State) (tb : Nat) : At := ⟨tb, s.tbTime tb, 2 ^ 48⟩

/-- The instant at which a time base reads a linear count (R370). -/
def State.atCount (s : State) (tb count : Nat) : At :=
  ⟨tb, ((s.tbTime tb / 2 ^ 32 : Nat) : Int) + linDiff count (s.linear tb), 65536⟩

/-- An instant of time base `tb`, its fraction of ns in lowest terms. -/
def At.lowest (tb : Nat) (num : Int) (den : Nat) : At := let g := max 1 (Nat.gcd num.natAbs den); ⟨tb, num / g, den / g⟩

/-- An instant moved by a number of ns, given as a fraction. -/
def At.add (a : At) (num : Int) (den : Nat) : At := .lowest a.tb (a.num * den + num * a.den) (a.den * den)

/-- Order of two instants of one time base. -/
def At.le (a b : At) : Bool := decide (a.num * b.den ≤ b.num * a.den)

/-- ns from now to an instant, in units of 2^-16 ns, rounded down. -/
def State.until (s : State) (a : At) : Int := (a.num * (2 ^ 16 : Nat)) / (a.den : Int) - (s.tbTime a.tb : Int) / (2 ^ 32 : Nat)

/-- The instant of time base `tb` that is as far from now as `a` is on its own time base (R204). -/
def State.sameInstant (s : State) (a : At) (tb : Nat) : At :=
  .lowest tb ((a.num * (2 ^ 48 : Nat) - (s.tbTime a.tb : Int) * a.den) + (s.tbTime tb : Int) * a.den) (a.den * 2 ^ 48)

/-- The linear count at the first beat that starts at or after an instant, at the rate in force (log entry 31). -/
def State.linearAt (s : State) (a : At) : Nat :=
  let left := a.num * (2 ^ 48 : Nat) - (s.tbTime a.tb : Int) * a.den
  let rate : Int := 2 ^ 42 + (s.ent pTime 0 2 a.tb 1).toInt
  let num : Int := 625 * (2 ^ 48 : Nat) * rate
  let den : Int := 216 * (2 ^ 42 : Nat)
  let n : Int := if left ≤ 0 then 0 else -((-(left * den)) / ((a.den : Int) * num))
  toBits 64 (((s.tbTime a.tb : Int) + n * num / den) / (2 ^ 32 : Nat))

/-- Alignment delay of a time base in ns: ING0.PAD_Dn, R164. -/
def State.padD (s : State) (tb : Nat) : Nat := s.rdF 0 (regA (pIng 0) (0x050 + tb * 4)) 0 23

/-- The smallest k for which (k * tot + add) * fd * 10^9 / (fn * tot) ns is at or after an instant of num / den ns. -/
def firstK (fn fd tot add : Nat) (num : Int) (den : Nat) : Int :=
  let c : Int := (fd * 1000000000 * den : Nat)
  Int.neg (((add : Int) * c - num * (fn * tot : Nat)) / ((tot : Int) * c))

/-- Start of line L of the first frame for which it is at or after an instant (without D), R37. -/
def firstLine (d : Desc) (line : Nat) (a : At) : At :=
  let (fn, fd) := d.frameRate
  let tot := max d.total 1
  let k := firstK fn fd tot (line - 1) a.num a.den
  ⟨a.tb, (k * tot + ((line - 1 : Nat) : Int)) * ((fd * 1000000000 : Nat) : Int), fn * tot⟩

/-- The earlier of two instants of one time base. -/
def At.min (a b : At) : At := if a.le b then a else b

/-- The first video mark of a raster at or after an instant (without D). -/
def firstVideo (d : Desc) (a : At) : At :=
  match d.switchLines with
  | [] => firstLine d 1 a
  | l :: rest => rest.foldl (fun m l => m.min (firstLine d l a)) (firstLine d l a)

/-- The first sample period at or after an instant (without D), R159. -/
def firstSample (rate : Nat) (a : At) : At :=
  let k := -(-(a.num * (rate : Int)) / ((a.den * 1000000000 : Nat) : Int))
  ⟨a.tb, k * 1000000000, rate⟩

/-- ARM_LINES and ARM_US of TAKE.CFG, R206: 0 is treated as 1. -/
def State.armLines (s : State) : Nat := max 1 (s.rdF 0 (regA pTake 0x040) 0 4)
def State.armUs (s : State) : Nat := max 1 (s.rdF 0 (regA pTake 0x040) 8 12)

/-- The first mark of a destination at or after an instant, with its arm point, R38 and R206; none for a destination with
ANYFMT or without a valid descriptor, which has no mark of its own. -/
def State.firstMark (s : State) (y : Nat) (start : At) : Option (At × At) :=
  let d := s.outDesc y
  if !d.valid || d.anyfmt then none
  else
    let dly : Int := s.padD d.tb
    let a := start.add (-dly) 1
    let (fn, fd) := d.frameRate
    let tot := max d.total 1
    let lines : Int := (s.armLines * fd * 1000000000 : Nat)
    match d.swrule with
    | 2 =>
      let m := firstSample d.sampleRate a
      let mk := m.add dly 1
      some (mk, mk.add (-1000000000) d.sampleRate)
    | 3 =>
      let (fn', fd') := d.frameRate
      let back := a.add (-(fd' * 1000000000 : Nat)) fn'
      let v0 := firstVideo d back
      let next (v : At) : At := firstVideo d (v.add 1 1000000)
      let c0 := firstSample d.sampleRate v0
      let v1 := next v0
      let c1 := firstSample d.sampleRate v1
      let v2 := next v1
      let c2 := firstSample d.sampleRate v2
      let v3 := next v2
      let c3 := firstSample d.sampleRate v3
      let (v, c) := if a.le c0 then (v0, c0) else if a.le c1 then (v1, c1) else if a.le c2 then (v2, c2) else (v3, c3)
      some (c.add dly 1, (v.add dly 1).add (-lines) (fn * tot))
    | 4 =>
      let k := firstK fn fd 1 0 a.num a.den
      let m : At := ⟨a.tb, k * (fd * 1000000000 : Nat), fn⟩
      let mk := m.add dly 1
      some (mk, mk.add (-(1000 * s.armUs : Nat)) 1)
    | _ =>
      let mk := (firstVideo d a).add dly 1
      some (mk, mk.add (-lines) (fn * tot))

/-- The first mark strictly after an instant that is itself a mark. -/
def State.markAfter (s : State) (y : Nat) (m : At) : Option (At × At) := s.firstMark y (m.add 1 1000000)

/-- A frame period of a descriptor, in ns as a fraction. -/
def Desc.framePeriod (d : Desc) : Nat × Nat := (d.frameRate.2 * 1000000000, d.frameRate.1)

end Sys2Proof.Machine
end

