-- ==== Sys2Proof/Machine/Fabric.lean ====
section
/-!
DEFINITION. Machine/Fabric.lean: the crosspoint fabric of spec/06_fabric.md (R174 to R199): slices and channels, the words
in flight, swaps, duplicate-then-drop moves, beat credits, stalls and evacuation.
-/
namespace Sys2Proof.Machine

/-! ### Numbering, R174 and R175 -/

/-- Egress-stage slice of a fabric output, and the output's number within it. -/
def outSlice (y : Nat) : Nat := if y < 4096 then y / 256 else (y - 4096) / 32
def outInSlice (y : Nat) : Nat := if y < 4096 then y % 256 else 256 + (y - 4096) % 32

/-- Ingress-stage slice of a fabric input. -/
def inSlice (x : Nat) : Nat := if x < 4096 then x / 256 else (x - 4096) / 16

/-- Number of an ingress channel (g, l), and of an egress channel (e, l, c). -/
def ingChan (x layer : Nat) : Nat := x / 2 * 3 + layer
def egrChan (e layer chan : Nat) : Nat := (e * 3 + layer) * 144 + chan

/-- Middle slice of layer l that serves egress-stage slice e. -/
def midSlice (layer e : Nat) : Nat := 8 * layer + e / 2

/-- Egress channel and middle slice of a path to an output. -/
def pathEgr (p : Path) (y : Nat) : Nat := egrChan (outSlice y) p.layer p.chan
def pathIng (p : Path) : Nat := ingChan p.src p.layer
def pathMid (p : Path) (y : Nat) : Nat := midSlice p.layer (outSlice y)

/-- Number of a slice in the slice status table, for its bit in the EDGE registers: IS s is bit s and ES s bit 16 + s. -/
def edgeBit (fs : Nat) : Nat := if fs < 16 then fs else fs - 24

/-- Whether a slice number is that of a middle slice. -/
def isMid (fs : Nat) : Bool := decide (16 ≤ fs ∧ fs < 40)

/-! ### Paths in force -/

/-- Paths in force in a stage, with their outputs. -/
def pathsOf (t : Tab (Option Path)) : List (Nat × Path) :=
  t.filterMap fun e => e.2.map fun p => (e.1, p)

/-- The path of an output in a stage. -/
def pathAt (t : Tab (Option Path)) (y : Nat) : Option Path := Tab.get (fun _ => none) t y

/-- Set the path of an output in a stage. -/
def setPath (t : Tab (Option Path)) (y : Nat) (p : Option Path) : Tab (Option Path) := Tab.put (fun _ => none) t y p


/-- R176: two paths to two outputs would put two inputs on one channel. -/
def pathClash (y : Nat) (p : Path) (y' : Nat) (p' : Path) : Bool :=
  p.src != p'.src && (pathIng p == pathIng p' || pathEgr p y == pathEgr p' y')

/-- Whether a path to an output fits beside a list of paths. -/
def pathFits (y : Nat) (p : Path) (l : List (Nat × Path)) : Bool := l.all fun e => !pathClash y p e.1 e.2

/-- The target paths of a move, with one output of their slice each. -/
def MoveRec.targets (m : MoveRec) : List (Nat × Path) := m.parts.filterMap fun p => p.outs.head?.map fun y => (y, p.new)

/-- The target paths that the moves in progress hold: at the ingress stage from b0, and at the middle stage from b0 + 10 (R184). -/
def FabSt.targets (f : FabSt) : List (Nat × Path) := (f.moves.filter fun m => m.joined).flatMap MoveRec.targets
def FabSt.targetsMid (f : FabSt) (b : Nat) : List (Nat × Path) :=
  (f.moves.filter fun m => m.joined && decide (m.b0 + 10 ≤ b)).flatMap MoveRec.targets

/-- The old paths that moves give up for the words that enter in a beat: from b0 + 2, unless the compare has failed (R184, R185). -/
def FabSt.freed (f : FabSt) (b : Nat) : List (Nat × Path) :=
  (f.moves.filter fun m => m.joined && decide (m.b0 + 2 ≤ b) && (m.compared.isNone || m.matched)).flatMap fun m =>
    m.parts.flatMap fun p => p.outs.map fun y => (y, p.old)

/-- Paths of a stage beside which a new path must fit: those in force and not given up, and the targets of moves. -/
def busyPaths (t : Tab (Option Path)) (freed targets : List (Nat × Path)) : List (Nat × Path) :=
  ((pathsOf t).filter fun e => !freed.contains e) ++ targets

/-- Paths that hold channels in a stage: also a path given up, until another input takes its channel (DESIGN CHOICE, log entry 175). -/
def heldPaths (t : Tab (Option Path)) (freed targets : List (Nat × Path)) : List (Nat × Path) :=
  let busy := busyPaths t freed targets
  busy ++ (pathsOf t).filter fun e => freed.contains e && pathFits e.1 e.2 busy

/-- The paths that hold channels in beat b: at the ingress stage, and at the middle stage. -/
def FabSt.holdIng (f : FabSt) (b : Nat) : List (Nat × Path) := heldPaths f.ing (f.freed b) f.targets
def FabSt.holdMid (f : FabSt) (b : Nat) : List (Nat × Path) := heldPaths f.mid (f.freed (b - 10)) (f.targetsMid b)

/-- The paths beside which a move that starts in beat b must fit. -/
def FabSt.holdMove (f : FabSt) (b : Nat) : List (Nat × Path) :=
  busyPaths f.ing (f.freed b) f.targets ++ busyPaths f.mid [] (f.targetsMid b)

/-- Whether a path names a layer and a channel that exist. -/
def pathExists (p : Path) : Bool := decide (p.src < 4352 ∧ p.layer < 3 ∧ p.chan < 144)

/-! ### Words, R180 and R189 -/

/-- The idle word: VALID = 0 and every other sideband bit 0 (R19). -/
def FWord.idle : FWord := ⟨0, 0⟩

/-- VALID, SOF, SOL, SWP and SLOT of a word. -/
def FWord.valid (w : FWord) : Bool := w.side.getLsbD 7
def FWord.sol (w : FWord) : Bool := w.side.getLsbD 5
def FWord.swp (w : FWord) : Bool := w.side.getLsbD 4
def FWord.slot (w : FWord) : Nat := w.side.toNat % 16

/-- A word with a sideband: SOF implies SOL, and SWP implies SOL (R19). -/
def fword (data : BitVec 72) (sof sol swp : Bool) (slot : Nat) : FWord :=
  let b (x : Bool) (n : Nat) : Nat := if x then n else 0
  ⟨data, BitVec.ofNat 8 (128 + b sof 64 + b (sol || sof || swp) 32 + b swp 16 + slot % 16)⟩

/-- A word with another SLOT. -/
def FWord.withSlot (w : FWord) (slot : Nat) : FWord := ⟨w.data, BitVec.ofNat 8 (w.side.toNat / 16 * 16 + slot % 16)⟩

/-- The words that enter the ingress stage in a beat: the first due at each input. -/
def State.entering (s : State) : List (Nat × FWord) :=
  s.fab.due.filterMap fun e => match e.2 with
    | (b, w) :: _ => if b ≤ s.beat then some (e.1, w) else none
    | [] => none

/-- The words left to wait after a beat. -/
def State.waiting (s : State) : Tab (List (Nat × FWord)) :=
  s.fab.due.filterMap fun e => match e.2 with
    | (b, w) :: r => if b ≤ s.beat then (if r.isEmpty then none else some (e.1, r)) else some (e.1, (b, w) :: r)
    | [] => none

/-- Words put on ingress channels: either input of a group on any channel that its paths use. -/
def onIngress (f : FabSt) (b : Nat) (ws : List (Nat × FWord)) : List (Nat × FWord) :=
  ws.flatMap fun (x, w) => (((f.holdIng b).filter fun e => e.2.src == x).map fun e => pathIng e.2).eraseDups.map fun c => (c, w)

/-- Words copied from ingress to egress channels by the middle stage (R177). -/
def onEgress (f : FabSt) (b : Nat) (ws : List (Nat × FWord)) : List (Nat × FWord) :=
  ws.flatMap fun (c, w) => (((f.holdMid b).filter fun e => pathIng e.2 == c).map fun e => pathEgr e.2 e.1).eraseDups.map fun k => (k, w)

/-- Words copied from egress channels to outputs by the egress stage. -/
def onOutputs (f : FabSt) (ws : List (Nat × FWord)) : List (Nat × FWord) :=
  ws.flatMap fun (c, w) => ((pathsOf f.egr).filter fun e => pathEgr e.2 e.1 == c).map fun e => (e.1, w)

/-- The words of an age, in beats. -/
def FabSt.aged (f : FabSt) (a : Nat) : List (Nat × FWord) := (f.flight.drop a).headD []

/-- The words in flight when the beat after b begins: the ingress stage has handled the words of age 0, the middle stage those
of age 10 and the egress stage those of age 20; words of age 24 leave (R180). -/
def FabSt.advance (f : FabSt) (b : Nat) (ws : List (Nat × FWord)) : FabSt :=
  let step (a : Nat) : List (Nat × FWord) :=
    if a = 0 then ws
    else if a = 1 then onIngress f b (f.aged 0)
    else if a = 11 then onEgress f b (f.aged 10)
    else if a = 21 then onOutputs f (f.aged 20)
    else f.aged (a - 1)
  { f with flight := (List.range 25).map step, past := f.egr :: f.past.take 3 }

/-- The words that leave the egress stage in this beat. -/
def FabSt.leaving (f : FabSt) : List (Nat × FWord) := f.aged 24

/-- The path by which the words that leave an output in this beat came. -/
def FabSt.leftBy (f : FabSt) (y : Nat) : Option Path := pathAt (f.past.getD 3 []) y

/-- The output and slot that a word leaving at output y belongs to: the leader of a group. None where its SLOT does not match a valid
descriptor (R20): the member index in a group, a valid slot of the source on a shared port, 0 on any other. -/
def State.wordSlot (s : State) (y : Nat) (w : FWord) : Option (Nat × Nat) :=
  let d := s.outDesc y
  if !d.valid then none
  else if d.mode = 3 then
    (if (s.fab.leftBy y).all fun p => (s.inDesc p.src w.slot).valid then some (y, w.slot) else none)
  else if d.mode = 1 ∨ d.mode = 2 then (if w.slot = y % d.group then some (y - y % d.group, 0) else none)
  else if w.slot = 0 then some (y, 0) else none

/-- Clear the "stalled in the last 256 beats" bits that have run out. -/
def State.ageStalls (s : State) : State :=
  forEach (s.fab.stall.filter fun e => e.2 + 256 ≤ s.beat)
    (fun e s =>
      let s1 := if isMid e.1 then s.wrF 0 (regA pXpt 0x050) (e.1 - 16) 1 0 else s.wrF 0 (regA pXpt 0x060) (edgeBit e.1) 1 0
      { s1 with fab := { s1.fab with stall := Tab.del s1.fab.stall e.1 } }) s

/-- The words of a slice's channels that its downstream stage handles next. -/
def sliceOfKey (age key fs : Nat) : Bool :=
  if age = 10 then decide (fs < 16) && inSlice (key / 3 * 2) == fs
  else if age = 20 then isMid fs && midSlice (key / 144 % 3) (key / 432) == fs - 16
  else if age = 24 then decide (40 ≤ fs) && outSlice key == fs - 40
  else false

/-- Whether the block that presents words at an input is in reset (R475). -/
def State.inputReset (s : State) (x : Nat) : Bool :=
  if x < 4096 then s.inReset (pIng (x / 256)) (x / 256)
  else if x < 4160 then s.inReset pMon 0
  else if x < 4288 then s.inReset pReel 0
  else s.inReset pAud 0

/-- VALID = 0 in place of every word that comes out of a block in reset: ingress slices and internal sources at the inputs, fabric
slices at their channels, egress slices at their outputs (R475). -/
def State.resetWords (s : State) (f : FabSt) : FabSt :=
  if s.flt.resetting.isEmpty then f
  else
    let dead (age key : Nat) : Bool :=
      (s.flt.resetting.any fun r => r.1 == pXpt && sliceOfKey age key r.2) || (age == 0 && s.inputReset key) ||
        (age == 24 && decide (key < 4096) && s.inReset (pEgr (key / 256)) (key / 256))
    { f with flight := f.flight.zipIdx.map fun (ws, age) => ws.filter fun e => !dead age e.1 }

/-- Put words on the queue of an input, each with the beat in which it is presented. -/
def State.present (s : State) (x : Nat) (ws : List (Nat × FWord)) : State :=
  { s with fab := { s.fab with due := Tab.put (fun _ => []) s.fab.due x (Tab.get (fun _ => []) s.fab.due x ++ ws) } }

/-- Drop the words that an input still has to present. -/
def State.dropDue (s : State) (x : Nat) : State :=
  { s with fab := { s.fab with due := Tab.del s.fab.due x } }

/-! ### Slice state, R188 to R194 -/

/-- MID_OUT bit of a middle slice. -/
def State.midOut (s : State) (m : Nat) : Bool := bitOf (s.rd 0 (regA pXpt 0x054)) m

/-- Whether rehearsal and evacuation may use a middle slice (R209): not one in block reset either (R224). -/
def State.midUsable (s : State) (m : Nat) : Bool :=
  !s.midOut m && !s.fab.slow.contains (16 + m) && !s.fab.degraded.contains (16 + m) && !s.fab.evac.contains m &&
    !s.inReset pXpt (16 + m)

/-- Outputs whose route uses a middle slice. -/
def State.midRoutes (s : State) (m : Nat) : List (Nat × Path) := (pathsOf s.fab.egr).filter fun e => pathMid e.2 e.1 == m

/-- A path on another layer for one route, beside the paths held by others: an ingress channel of its group and an egress
channel of its slice, each free or carrying the same input (R184). -/
def State.shiftTo (s : State) (y : Nat) (p : Path) (held : List (Nat × Path)) : Option Path :=
  ((List.range 3).filter fun l => l != p.layer && s.midUsable (midSlice l (outSlice y))).findSome? fun l =>
    ((List.range 144).find? fun c => pathFits y ⟨p.src, l, c⟩ held).map fun c => ⟨p.src, l, c⟩

/-- Shift each route that can be shifted: the routes left, and the paths held then. -/
def State.shiftRound (s : State) (routes held : List (Nat × Path)) : List (Nat × Path) × List (Nat × Path) :=
  routes.foldl (fun acc e =>
    let others := acc.2.filter fun h => h != e
    match s.shiftTo e.1 e.2 others with
    | some q => (acc.1, others ++ [(e.1, q)])
    | none => (acc.1 ++ [e], acc.2)) ([], held)

/-- The routes of a list that find no other place, when each may take channels that the moves of the others release (R190; DESIGN
CHOICE: in the order of their outputs, log entry 32). -/
def State.stuck (s : State) (routes : List (Nat × Path)) : List (Nat × Path) :=
  ((List.range routes.length).foldl (fun acc _ => s.shiftRound acc.1 acc.2)
    (routes, s.fab.holdIng s.beat ++ s.fab.holdMid s.beat)).1

/-- XPT event of a slice (R198): attributed to P0, with the slice's number as INSTANCE. -/
def State.xptEvent (s : State) (b fs : Nat) : State := s.raiseAt pXpt b fs 0

/-- When an evacuated slice carries no route, its MID_OUT bit is set (R190). -/
def State.evacDone (s : State) : State :=
  forEach (s.fab.evac.filter fun m => (s.midRoutes m).isEmpty)
    (fun m s => { s.wrF 0 (regA pXpt 0x054) m 1 1 with fab := { s.fab with evac := s.fab.evac.filter fun k => k != m } }) s

/-- Begin the evacuation of a middle slice: its moves follow as MOVE_START commands; a route that cannot be placed elsewhere
stays and is counted in EVAC_FAIL (R190; log entry 32). -/
def State.evacuate (s : State) (m : Nat) : State :=
  if s.fab.evac.contains m then s
  else
    let s0 := { s with fab := { s.fab with evac := s.fab.evac ++ [m] } }
    let stuck : Nat := (s0.stuck (s0.midRoutes m)).length
    let s1 : State := if stuck = 0 then s0
      else (s0.setEntF pXpt 0 6 (16 + m) 3 16 16 (satAdd 16 (s0.entF pXpt 0 6 (16 + m) 3 16 16) stuck)).xptEvent 4 (16 + m)
    s1.evacDone

/-- Evacuation of a slice that became SLOW, stalled or was flagged degraded, when CFG.EVAC_AUTO = 1 (R190, R192). -/
def State.autoEvac (s : State) (fs : Nat) : State :=
  if isMid fs && bitOf (s.rd 0 (regA pXpt 0x040)) 0 && !s.midOut (fs - 16) then s.evacuate (fs - 16) else s

/-- SLOW_N and CLEAR_MS of XPT.CFG: 0 is treated as 1. -/
def State.slowN (s : State) : Nat := max 1 (s.rdF 0 (regA pXpt 0x040) 4 8)
def State.clearMs (s : State) : Nat := max 1 (s.rdF 0 (regA pXpt 0x040) 16 16)

/-- Set or clear the SLOW bit of a slice. -/
def State.setSlow (s : State) (fs : Nat) (v : Bool) : State :=
  let n := if v then 1 else 0
  let s1 := if isMid fs then s.wrF 0 (regA pXpt 0x044) (fs - 16) 1 n else s.wrF 0 (regA pXpt 0x05C) (edgeBit fs) 1 n
  { s1 with fab := { s1.fab with slow := (s1.fab.slow.filter fun k => k != fs) ++ (if v then [fs] else []) } }

/-- CREDIT_MISS: a late beat credit is counted; more than SLOW_N in 256 beats make the slice SLOW (R188). -/
def execCreditMiss (fs : Fin 56) (lag : BitVec 8) (s : State) : Host.Outcome State Fault Refusal :=
  let ms := (s.beat :: Tab.get (fun _ => []) s.fab.misses fs).filter fun b => decide (s.beat < b + 256)
  let s1 := s.setEnt pXpt 0 6 fs 1 (s.ent pXpt 0 6 fs 1 + 1)
  let s2 := s1.setEntF pXpt 0 6 fs 0 8 8 (max (s1.entF pXpt 0 6 fs 0 8 8) lag.toNat)
  let s3 := { s2 with fab := { s2.fab with misses := Tab.put (fun _ => []) s2.fab.misses fs ms } }
  .next (if s.slowN < ms.length ∧ !s.fab.slow.contains fs.val then ((s3.setSlow fs true).xptEvent 0 fs).autoEvac fs else s3)

/-- SLOW_CLEAR: CLEAR_MS milliseconds with no credit miss (R188). -/
def execSlowClear (fs : Fin 56) (s : State) : Host.Outcome State Fault Refusal :=
  let last := (Tab.get (fun _ => []) s.fab.misses fs.val).head?.getD 0
  .next (if s.fab.slow.contains fs.val ∧ last + s.clearMs * 345600 ≤ s.beat then s.setSlow fs false else s)

/-- The words that a stall of a slice takes: those that its downstream stage would take in the next beat. -/
def stalledKey (age key fs : Nat) : Bool := if age = 23 then sliceOfKey 24 key fs else age != 24 && sliceOfKey age key fs

/-- SLICE_STALL: every word of the beat on the slice's channels is replaced by a VALID = 0 word (R189). -/
def execSliceStall (fs : Fin 56) (s : State) : Host.Outcome State Fault Refusal :=
  let fl := (s.fab.flight.zipIdx).map fun (ws, age) => ws.filter fun e => !stalledKey age e.1 fs
  let run := (s.fab.stall.any fun e => e.1 == fs.val && s.beat ≤ e.2 + 1)
  let s1 := { s.setEnt pXpt 0 6 fs 2 (s.ent pXpt 0 6 fs 2 + 1) with
    fab := { s.fab with flight := fl, stall := Tab.ins s.fab.stall fs s.beat } }
  let s2 := if isMid fs then s1.wrF 0 (regA pXpt 0x050) (fs - 16) 1 1 else s1.wrF 0 (regA pXpt 0x060) (edgeBit fs) 1 1
  .next (if run then s2 else (s2.xptEvent 1 fs).autoEvac fs)

/-- A pair of islands and its differences in mV and °C: ISL_A the lower of two slices (R194). -/
structure XingPair where
  a : Nat
  b : Nat
  dv : Nat
  dt : Nat
  deriving DecidableEq, Repr

/-- The measure of R194 times 1800, and whether a pair is reported before another: the larger measure, then the lowest ISL_A, then
the lowest ISL_B. -/
def XingPair.measure (p : XingPair) : Nat := max (p.dv * 30) (p.dt * 60)
def XingPair.before (p q : XingPair) : Bool :=
  decide (q.measure < p.measure ∨ p.measure = q.measure ∧ (p.a < q.a ∨ p.a = q.a ∧ p.b < q.b))

/-- The pairs whose island is flagged, with the differences last reported. -/
def State.xingPairs (s : State) : List XingPair :=
  s.fab.xing.map fun e =>
    let a := e.1 / 256
    let b := e.1 % 256
    ⟨min a b, max a b, e.2.1, e.2.2⟩

/-- XING_WORST as it reads (R194): the worst pair whose island is flagged. While none is, the differences of the worst pair are those
of no command: free values within the limits, once the first beat has passed (log entry 176). -/
def State.xingWorst (s : State) : Word :=
  match s.xingPairs with
  | p :: r =>
    let w := r.foldl (fun w q => if q.before w then q else w) p
    wd (w.dv % 256 + w.dt % 256 * 256 + w.a * 65536 + w.b * 2 ^ 24)
  | [] =>
    if s.beat = 0 then 0
    else
      let v := (Config.quietPair s.beat).toNat
      wd (v % 61 + v / 2 ^ 8 % 31 * 256 + v / 2 ^ 16 % 56 * 65536 + (if v / 2 ^ 31 % 2 = 1 then 255 else v / 2 ^ 24 % 56) * 2 ^ 24)

/-- A fabric slice is flagged degraded: event, fault source and evacuation; its pair counts for XING_WORST (R194). -/
def State.fabDegraded (s : State) (fs dv dt nb : Nat) : State :=
  let s1 := { s with fab := { s.fab with xing := Tab.ins s.fab.xing (fs * 256 + nb) (dv, dt) } }
  if s1.fab.degraded.contains fs then s1
  else (({ s1 with fab := { s1.fab with degraded := s1.fab.degraded ++ [fs] } }).xptEvent 2 fs).autoEvac fs

/-- The degraded flag of a fabric slice clears (R194). -/
def State.fabDegradedClear (s : State) (fs : Nat) : State :=
  { s with fab := { s.fab with
      degraded := s.fab.degraded.filter fun k => k != fs
      xing := Tab.keep (fun k => k / 256 != fs) s.fab.xing } }

/-- A write of XPT.MID_OUT (R191). -/
def writeMidOut (d : Word) (s : State) : State :=
  forEach (idxs 24 fun m => bitOf d m) (fun m s => (s.wrF 0 (regA pXpt 0x054) m 1 1).evacuate m) s

/-- The solver tries again what found no placement: each time a transaction is armed, struck or finished, and each time a middle
slice returns to service (R209). -/
def State.tryAgain (s : State) : State :=
  { s with take := { s.take with txs := s.take.txs.map fun (u : Tx) => { u with retry := true } } }

/-- A write of XPT.MID_RETURN (R191), judged bit by bit (log entry 33). -/
def writeMidReturn (d : Word) (s : State) : State :=
  let ms := idxs 24 fun m => bitOf d m && s.midOut m
  let bad := ms.filter fun m => s.fab.slow.contains (16 + m) || s.fab.degraded.contains (16 + m)
  let back := ms.filter fun m => !bad.contains m
  let s1 := forEach back
    (fun m s => { s.wrF 0 (regA pXpt 0x054) m 1 0 with fab := { s.fab with evac := s.fab.evac.filter fun k => k != m } }) s
  let s1 := if back.isEmpty then s1 else s1.tryAgain
  match bad with
  | [] => s1
  | m :: _ => s1.xptEvent 6 (16 + m)

/-- MID_OUT_WRITE: P0 takes middle slices out of service. -/
def execMidOutWrite (t : Tag) (d : Word) (s : State) : Host.Outcome State Fault Refusal :=
  .next (hostWrite t (regA pXpt 0x054) d (writeMidOut d) s)

/-- MID_RETURN. -/
def execMidReturn (t : Tag) (d : Word) (s : State) : Host.Outcome State Fault Refusal :=
  .next (hostWrite t (regA pXpt 0x058) d (writeMidReturn d) s)

/-! ### Moves, R184 to R187 -/

/-- Whether the target channels of a part carry no other input. -/
def State.partFree (s : State) (p : MovePart) : Bool :=
  p.outs.all fun y => pathFits y p.new (s.fab.holdMove s.beat)

/-- The outputs of a part lie in one egress-stage slice. -/
def partOneSlice (p : MovePart) : Bool := p.outs.all fun y => outSlice y == outSlice (p.outs.headD 0)

/-- The targets of a move's parts put no two inputs on one channel. -/
def partsFit (ps : List MovePart) : Bool :=
  ps.all fun p => ps.all fun q => p.outs.all fun y => q.outs.all fun y' => !pathClash y p.new y' q.new

/-- Whether a move's parts are well formed: one input on one layer in one slice each, shifted to another layer. -/
def State.partOk (s : State) (p : MovePart) : Bool :=
  p.old.src == p.new.src && pathExists p.new && p.old.layer != p.new.layer && !p.outs.isEmpty &&
    partOneSlice p && p.outs.all fun y => pathAt s.fab.egr y == some p.old

/-- Moves in progress, and moves that start in this beat. -/
def FabSt.moving (f : FabSt) : Nat := (f.moves.filter fun m => m.started).length
def FabSt.startingIn (f : FabSt) (b : Nat) : Nat := (f.moves.filter fun m => m.started && m.b0 == b).length

/-- Start a move: its targets take the input, unless one carries another input (R184). -/
def State.startMove (s : State) (m : MoveRec) : MoveRec :=
  let ok := partsFit m.parts && m.parts.all fun p => s.partFree p
  { m with b0 := s.beat, started := true, joined := ok }

/-- Routes after the moves of some parts. -/
def shiftAll (parts : List MovePart) (l : List (Nat × Path)) : List (Nat × Path) :=
  l.map fun e =>
    match parts.find? fun q => q.outs.contains e.1 && q.old == e.2 with
    | some q => (e.1, q.new)
    | none => e

/-- The outputs of the bonded group of an output (R33). -/
def State.bondOuts (s : State) (y : Nat) : List Nat :=
  let d := s.outDesc y
  if d.valid && (d.mode == 1 || d.mode == 2) then (List.range d.group).map fun k => y - y % d.group + k else [y]

/-- Outputs of a list of parts. -/
def partOuts (ps : List MovePart) : List Nat := ps.flatMap fun p => p.outs

/-- R187: a move of one member's routes is a move of all members of the group that have a route. -/
def State.bondWhole (s : State) (ps : List MovePart) : Bool :=
  (partOuts ps).all fun y => (s.bondOuts y).all fun k => (pathAt s.fab.egr k).isNone || (partOuts ps).contains k

/-- A part of an evacuation: it leads off a slice under evacuation, or is a member of a group that does, or only makes room. -/
def State.leavesSlice (s : State) (ps : List MovePart) : Bool :=
  let off (y : Nat) : Bool := ps.any fun p => p.outs.contains y && s.fab.evac.contains (pathMid p.old y)
  (partOuts ps).all fun y => (s.bondOuts y).any off

/-- The time left to an output's next mark, 2^-16 ns; none without a mark of its own (R190). -/
def State.nextMarkLeft (s : State) (y : Nat) : Option Int :=
  if s.tbMode (s.outDesc y).tb = 0 then none
  else (s.firstMark y ((s.nowAt (s.outDesc y).tb).add 1 1000000)).map fun m => s.until m.1

/-- One beat in 2^-16 ns, rounded up. -/
def beatUp : Int := 189630

/-- R190: the switch beat of the first move is that of a mark, so its swap beat is the beat before the mark beat: the next mark of
each of its outputs, and of a chain the earliest among the outputs of all its moves. Outputs without a mark of their own ask nothing. -/
def State.markRule (s : State) (chain : List (List MovePart)) : Bool :=
  let left := (chain.flatMap partOuts).filterMap s.nextMarkLeft
  match chain with
  | [_] => left.all fun n => decide (n ≤ beatUp)
  | _ => left.isEmpty || left.any fun n => decide (n ≤ beatUp)

/-- The moves of a chain fit one after the other, and each needs channels that the one before it releases: `prev` are the paths held
before the latest move, `cur` those after it. -/
def State.chainFits (s : State) : List (List MovePart) → List (Nat × Path) → List (Nat × Path) → Bool
  | [], _, _ => true
  | ps :: rest, prev, cur =>
    let shape := !ps.isEmpty && partsFit ps && ps.all fun p =>
      p.old.src == p.new.src && pathExists p.new && p.old.layer != p.new.layer && !p.outs.isEmpty && partOneSlice p &&
        p.outs.all fun y => cur.contains (y, p.old) && s.midUsable (pathMid p.new y)
    let fits (held : List (Nat × Path)) : Bool := ps.all fun p => p.outs.all fun y => pathFits y p.new held
    shape && fits cur && !fits prev && State.chainFits s rest cur (shiftAll ps cur)

/-- Whether the take engine may make a chain of moves to evacuate a slice now (R190). -/
def State.chainOk (s : State) (chain : List (List MovePart)) : Bool :=
  match chain with
  | [] => false
  | ps :: rest =>
    !ps.isEmpty && partsFit ps && s.markRule chain && (chain.all fun qs => s.bondWhole qs) && s.leavesSlice (chain.getLastD []) &&
      (ps.all fun p => s.partOk p && s.partFree p && p.outs.all fun y => s.midUsable (pathMid p.new y)) &&
      s.chainFits rest (s.fab.holdMove s.beat) (shiftAll ps (s.fab.holdMove s.beat))

/-- The records of an evacuation's moves: the first starts now, each later one 22 beats after the one before it. -/
def State.chainMoves (s : State) (chain : List (List MovePart)) : List MoveRec :=
  chain.zipIdx.map fun (ps, i) => ⟨s.fab.moveId + i, ps, s.beat + 22 * i, none, 0, i == 0, i == 0, none, false⟩

/-- MOVE_START: a scheduled move reaches its swap beat, or the take engine starts the moves of routes off a slice under evacuation. At
most 512 moves are in progress and 64 start in one beat (R186). -/
def execMoveStart (m : MoveReq) (s : State) : Host.Outcome State Fault Refusal :=
  .next (if 512 ≤ s.fab.moving ∨ 64 ≤ s.fab.startingIn s.beat then s
    else
      match m with
      | .scheduled id =>
        match s.fab.moves.find? fun r => r.id == id && !r.started && decide (r.b0 ≤ s.beat) with
        | some r =>
          let r' := s.startMove r
          { s with fab := { s.fab with moves := s.fab.moves.map fun q => if q.id = id then r' else q } }
        | none => s
      | .evacuate chain =>
        if s.chainOk chain then
          { s with fab := { s.fab with
              moves := s.fab.moves ++ s.chainMoves chain, moveId := s.fab.moveId + chain.length } }
        else s)

/-- An output's path in a stage shifts from the old to the new path of a part, if it still is the old one. -/
def shiftPath (p : MovePart) (t : Tab (Option Path)) : Tab (Option Path) :=
  p.outs.foldl (fun t y => if pathAt t y = some p.old then setPath t y (some p.new) else t) t

/-- The route table entries of the outputs that a move shifted: LAYER, CHAN, and MOVES which saturates (R196). -/
def State.noteMoved (s : State) (p : MovePart) : State :=
  forEach (p.outs.filter fun y => pathAt s.fab.egr y == some p.new)
    (fun y s =>
      let s1 := if s.entF pXpt 0 3 y 0 0 13 = p.new.src ∧ bitOf (s.ent pXpt 0 3 y 0) 31
        then (s.setEntF pXpt 0 3 y 0 26 2 p.new.layer).setEntF pXpt 0 3 y 0 16 8 p.new.chan else s
      s1.setEntF pXpt 0 3 y 4 0 16 (satAdd 16 (s1.entF pXpt 0 3 y 4 0 16) 1)) s

/-- The outputs of a move whose compare matched switch to the target channel in the beat after the compare, b0 + 21 (R184). -/
def State.moveSwitch (s : State) (m : MoveRec) : State :=
  { s with fab := { s.fab with egr := m.parts.foldl (fun t p => shiftPath p t) s.fab.egr } }

/-- A move is over: it leaves the moves in progress and the moves that its transaction still waits for. -/
def State.moveOver (s : State) (m : MoveRec) : State :=
  { s with
    fab := { s.fab with moves := s.fab.moves.filter fun r => r.id != m.id }
    take := { s.take with txs := s.take.txs.map fun (u : Tx) => { u with moves := u.moves.filter fun i => i != m.id } } }

/-- Two beats after the compare, in beat b0 + 22, a move that matched releases its old channels and middle connection, and is counted
for the outputs that did switch (R184, R186). -/
def State.moveDone (s : State) (m : MoveRec) : State :=
  let f := m.parts.foldl (fun f p => { f with ing := shiftPath p f.ing, mid := shiftPath p f.mid }) s.fab
  (forEach m.parts (fun p s => s.noteMoved p) ({ s with fab := f }.moveOver m)).inc 0 (regA pXpt 0x064) |>.evacDone

/-- In beat b0 + 22 a move that failed releases its targets; the old routes stay whole (R185). A move that a rehearsal asked for is
retried up to three times, while its transaction is not armed (R210). -/
def State.moveUndone (s : State) (m : MoveRec) : State :=
  let again := decide (0 < m.tries) && s.take.txs.any fun t => some t.id == m.tx && decide (t.state ≤ 1)
  if again then
    { s with fab := { s.fab with moves := s.fab.moves.map fun r =>
        if r.id = m.id then { r with b0 := s.beat, tries := r.tries - 1, started := false, joined := false, compared := none } else r } }
  else s.moveOver m

/-- What a beat does to a move whose compare is made. -/
def State.moveNext (s : State) (m : MoveRec) : State :=
  match m.compared with
  | none => s
  | some c =>
    if s.beat = c + 1 then (if m.matched then s.moveSwitch m else s)
    else if c + 2 ≤ s.beat then (if m.matched then s.moveDone m else s.moveUndone m)
    else s

/-- The compare of a move has failed: counted and reported (R185). -/
def State.moveFail (s : State) (m : MoveRec) : State :=
  let fs := match m.parts with
    | p :: _ => 16 + midSlice p.old.layer (outSlice (p.outs.headD 0))
    | [] => 0
  (s.inc 0 (regA pXpt 0x068)).xptEvent 3 fs

/-- One fabric beat of the fabric: every word moves one stage on, then the moves whose compare is made go on. -/
def State.fabricBeat (s : State) : State :=
  let s1 := ({ s with fab := s.resetWords { s.fab.advance (s.beat - 1) s.entering with due := s.waiting } }).ageStalls
  forEach (s1.fab.moves.filter fun m => m.compared.isSome) (fun m s => s.moveNext m) s1

/-! ### Swaps, R181 and R182 -/

/-- Whether a loaded swap is due at the ingress stage in this beat. -/
def State.swapDue (s : State) (w : Swap) : Bool :=
  w.stage == 0 &&
    match w.due with
    | .mark a => s.reached a
    | .beat n => decide (n ≤ s.beat)
    | .swp => false

/-- Apply paths to a stage. -/
def applyPaths (ps : List (Nat × Option Path)) (t : Tab (Option Path)) : Tab (Option Path) :=
  ps.foldl (fun t e => setPath t e.1 e.2) t

/-- The swaps made at the ingress stage in this beat, and the paths that stood before them. -/
def State.swapsMade (s : State) : List Swap := s.fab.swaps.filter fun w => w.stage == 1 && w.beat == s.beat
def State.swapBase (s : State) : Tab (Option Path) := if s.swapsMade.isEmpty then s.fab.ing else s.fab.base

/-- R182: over the paths that stood before them, the swaps of one beat would give a channel two inputs, or an output two egress
channels. A channel that a move gives up for the words of this beat is free. -/
def State.swapConflict (s : State) (base : Tab (Option Path)) (due : List Swap) : Bool :=
  let ps := due.flatMap fun w => w.paths
  let twice := ps.any fun e => ps.any fun e' => e.1 == e'.1 && e.2 != e'.2
  let after := busyPaths (applyPaths ps base) (s.fab.freed s.beat) s.fab.targets
  let new := ps.filterMap fun e => e.2.map fun p => (e.1, p)
  twice || new.any fun e => !pathFits e.1 e.2 after

/-- Loaded swaps that have passed their ingress stage move on: the middle stage 10 and the egress stage 20 beats later. -/
def State.swapStages (s : State) : State :=
  let mids := s.fab.swaps.filter fun w => w.stage == 1 && decide (w.beat + 10 ≤ s.beat)
  let f1 := mids.foldl (fun f w => { f with mid := applyPaths w.paths f.mid }) s.fab
  let f1 := { f1 with swaps := f1.swaps.map fun (w : Swap) => if w.stage = 1 ∧ w.beat + 10 ≤ s.beat then { w with stage := 2 } else w }
  let egrs := f1.swaps.filter fun w => w.stage == 2 && decide (w.beat + 20 ≤ s.beat)
  let f2 := egrs.foldl (fun f w => { f with egr := applyPaths w.paths f.egr }) f1
  let f2 := { f2 with swaps := f2.swaps.map fun (w : Swap) => if w.stage = 2 ∧ w.beat + 20 ≤ s.beat then { w with stage := 3 } else w }
  { s with fab := f2 }

/-- Mark a swap as made at the ingress stage in this beat, with the linear count of its output's time base. -/
def State.stampSwap (s : State) (w : Swap) : Swap :=
  let y := match w.paths with
    | (y, _) :: _ => y
    | [] => 0
  { w with stage := 1, beat := s.beat, lin := BitVec.ofNat 64 (s.linear (s.outDesc y).tb) }

/-! ### Tables of the XPT page, R196 and R197 -/

/-- Slice numbers that a route passes. -/
def routeSlices (y : Nat) (p : Path) : List Nat := [inSlice p.src, 16 + pathMid p y, 40 + outSlice y]

/-- STATE of a route table entry, R196. -/
def State.routeState (s : State) (y : Nat) (p : Path) : Nat :=
  if s.midOut (pathMid p y) || (routeSlices y p).any (fun fs => s.fab.stall.any fun e => e.1 == fs) then 3
  else if s.fab.moves.any (fun m => m.started && m.parts.any fun q => q.outs.contains y) then 1
  else if s.fab.evac.contains (pathMid p y) then 2
  else 0

/-- Words of a route table entry. -/
def State.routeWords (s : State) (y : Nat) : List Word :=
  let w := s.ent pXpt 0 3 y 0
  let w := match pathAt s.fab.egr y with
    | some p => if bitOf w 31 then setFld w 28 2 (s.routeState y p) else w
    | none => w
  w :: (List.range 4).map fun i => s.ent pXpt 0 3 y (i + 1)

/-- Words of an ingress channel entry. -/
def State.ingWords (s : State) (g l : Nat) : List Word :=
  let hold := (s.fab.holdIng s.beat).filter fun e => pathIng e.2 == g * 3 + l
  let mids := (s.fab.holdMid s.beat).filter fun e => pathIng e.2 == g * 3 + l
  match hold with
  | [] => [0, 0]
  | (_, p) :: _ =>
    [wd (2 ^ 31 + p.src % 2 + ((mids.map fun e => pathEgr e.2 e.1).eraseDups.length) * 16),
     wd (((mids.map fun e => outSlice e.1).eraseDups).foldl (fun n e => n + 2 ^ e) 0)]

/-- Words of an egress channel entry. -/
def State.egrWords (s : State) (k : Nat) : List Word :=
  let hold := (s.fab.holdMid s.beat).filter fun e => pathEgr e.2 e.1 == k
  let outs := ((pathsOf s.fab.egr).filter fun e => pathEgr e.2 e.1 == k).map fun e => outInSlice e.1
  let mask := outs.foldl (fun n i => n + 2 ^ i) 0
  let d0 := match hold with
    | [] => 0
    | (_, p) :: _ => wd (2 ^ 31 + p.src + outs.length * 65536)
  d0 :: (List.range 9).map fun i => wd (mask / 2 ^ (32 * i))

/-- STATE of a slice status entry, R197. -/
def State.sliceState (s : State) (fs : Nat) : Nat :=
  if isMid fs && s.midOut (fs - 16) then 3
  else if s.fab.degraded.contains fs then 2
  else if s.fab.slow.contains fs then 1
  else 0

/-- CHANNELS of a slice status entry, R197. -/
def State.sliceChannels (s : State) (fs : Nat) : Nat :=
  if fs < 16 then
    (((s.fab.holdIng s.beat).filter fun e => inSlice e.2.src == fs).map fun e => pathIng e.2).eraseDups.length
  else if fs < 40 then
    (((s.fab.holdMid s.beat).filter fun e => pathMid e.2 e.1 == fs - 16).map fun e => pathEgr e.2 e.1).eraseDups.length
  else
    (((s.fab.holdMid s.beat).filter fun e => outSlice e.1 == fs - 40).map fun e => pathEgr e.2 e.1).eraseDups.length

/-- Words of a slice status entry. -/
def State.sliceWords (s : State) (fs : Nat) : List Word :=
  let st := if fs < 16 then 0 else if fs < 40 then 1 else 2
  let w (i : Nat) := s.ent pXpt 0 6 fs i
  [setFld (setFld (w 0) 0 2 st) 4 3 (s.sliceState fs), w 1, w 2, setFld (w 3) 0 16 (s.sliceChannels fs), 0, 0, 0, 0, w 8, w 9]

/-- A write of XPT.SNAP with bit 0 set (R195). -/
def State.xptSnap (s : State) : State :=
  let s1 := (s.snap 0 (regA pXpt 0x064) (regA pXpt 0x070)).snap 0 (regA pXpt 0x068) (regA pXpt 0x074)
  forEach (List.range 56) (fun fs s => (s.snapEnt pXpt 0 6 fs 1 8).snapEnt pXpt 0 6 fs 2 9) s1

/-- Record a refused descriptor or table write in XPT.DESC_STATUS: REASON, HI, TBL and INDEX. -/
def State.descStatus (s : State) (t : Tag) (sel reason idx : Nat) : State :=
  let a := regA pXpt 0x048
  let w := setFld (setFld (setFld (s.rd (tagBank t) a) 0 4 reason) 4 1 (idx / 65536)) 5 1 (if sel = selOut then 1 else 0)
  s.wr (tagBank t) a (setFld w 16 16 idx)

/-- Reads of the XPT tables (R57 step 4, R195). -/
def xptTableRead (t : Tag) (sel idx : Nat) (s : State) : Nat × List Word :=
  let p := tagBank t
  match sel with
  | 1 =>
    if 69632 ≤ idx then (2, [])
    else if !tagOwns t (s.portOwner 1 (idx / 16)) && !s.granted 1 (idx / 16) p then (4, [])
    else (0, s.entWords pXpt 0 1 idx 4)
  | 2 =>
    if 4608 ≤ idx then (2, []) else if !tagOwns t (s.portOwner 2 idx) then (4, []) else (0, s.entWords pXpt 0 2 idx 4)
  | 3 => if 4608 ≤ idx then (2, []) else if !tagOwns t (s.portOwner 2 idx) then (4, []) else (0, s.routeWords idx)
  | 4 => if 8704 ≤ idx ∨ idx % 4 = 3 then (2, []) else if p ≠ 0 then (4, []) else (0, s.ingWords (idx / 4) (idx % 4))
  | 5 => if 6912 ≤ idx then (2, []) else if p ≠ 0 then (4, []) else (0, s.egrWords idx)
  | 6 => if 56 ≤ idx then (2, []) else if p ≠ 0 then (4, []) else (0, s.sliceWords idx)
  | _ => (1, [])

/-- A write of a descriptor, R29 and R30: whole or not at all. `inUse` says whether the port is IN_USE (R31), `overLong` whether a
new RATE would take a LONG = 1 port past a limit of R168: refused with CAP (DESIGN CHOICE, log entry 147). A write by a partition that
does not own the port is refused with ECODE 4
(R57) and records its REASON like every refusal of R30. -/
def writeDesc (t : Tag) (sel idx : Nat) (d : List Word) (inUse : Bool) (overLong : Desc → Bool) (s : State) : Nat × State :=
  let w0 := if sel = selIn then setBit (dat d 0) 17 false else dat d 0
  let e : Desc := ⟨w0, dat d 1, dat d 2⟩
  let r := s.descReason t sel idx inUse e
  if r ≠ 0 then (if tagOwns t (s.portOwner sel (descPort sel idx)) then 3 else 4, s.descStatus t sel r idx)
  else if overLong e then (3, s.descStatus t sel 8 idx)
  else (0, (s.setEntWords pXpt 0 sel idx 0 [e.w0, e.w1, e.w2, e.data3]).wrF (tagBank t) (regA pXpt 0x048) 0 4 0)

end Sys2Proof.Machine
end

