-- ==== Sys2Proof/Machine/HostIf.lean ====
section
/-!
DEFINITION. Machine/HostIf.lean: the host interface of spec/02_control_plane.md (R65 to R73): DMA queues, descriptors,
function-level resets and interrupt delivery.
-/
namespace Sys2Proof.Machine

/-- Address of the first register of a queue, R67. -/
def qA (q : Nat) (rx : Bool) : Nat := regA pHost (0x2000 + q * 0x40 + (if rx then 0x20 else 0))

/-- Number of a queue in the store of hidden queue state. -/
def qIx (q : Nat) (rx : Bool) : Nat := q * 2 + (if rx then 1 else 0)

/-- Hidden state of a queue. -/
def State.qrec (s : State) (q : Nat) (rx : Bool) : QRec := Tab.get (fun _ => QRec.idle) s.host.queues (qIx q rx)

/-- Set the hidden state of a queue. -/
def State.setQrec (s : State) (q : Nat) (rx : Bool) (r : QRec) : State :=
  { s with host := { s.host with queues := Tab.put (fun _ => QRec.idle) s.host.queues (qIx q rx) r } }

/-- Q_CFG fields. -/
def State.qCfg (s : State) (q : Nat) (rx : Bool) : Word := s.rd 0 (qA q rx + 0x08)
def State.qEn (s : State) (q : Nat) (rx : Bool) : Bool := bitOf (s.qCfg q rx) 0
def State.qBind (s : State) (q : Nat) (rx : Bool) : Nat := fld (s.qCfg q rx) 8 4
def State.qTarget (s : State) (q : Nat) (rx : Bool) : Nat := fld (s.qCfg q rx) 16 16

/-- Q_STATUS.STATE: 0 disabled, 1 running, 2 halted, 3 draining. -/
def State.qState (s : State) (q : Nat) (rx : Bool) : Nat := s.rdF 0 (qA q rx + 0x18) 0 2

/-- Set Q_STATUS.STATE. -/
def State.setQState (s : State) (q : Nat) (rx : Bool) (v : Nat) : State := s.wrF 0 (qA q rx + 0x18) 0 2 v

/-- Ring entries, R67. -/
def State.ringSize (s : State) (q : Nat) (rx : Bool) : Nat := 2 ^ fld (s.qCfg q rx) 4 4

/-- Host memory address of a ring entry, R67: 32 bytes each from Q_BASE, whose bits 4:0 are ignored. -/
def State.ringAddr (s : State) (q : Nat) (rx : Bool) (i : Nat) : Nat := s.rd64 0 (qA q rx) / 32 * 32 + 32 * i

/-- A write of Q_CFG (R67). The fields above EN are stored while EN = 0 and the page is unlocked; a LOG2SIZE outside 4 to
12 refuses EN; clearing EN starts a drain. EN is set only in a disabled queue (log entry 21). Setting EN clears
Q_STATUS.ERRCODE and leaves Q_HEAD and Q_DONE_TAG: DESIGN CHOICE, log entry 142. -/
def writeQCfg (q : Nat) (rx : Bool) (d : Word) (s : State) : State :=
  let cur := s.qCfg q rx
  let en := bitOf cur 0
  let cfg := if en || s.pageLocked pHost then cur else setBit (setFld d 1 3 0) 0 false
  let want := bitOf d 0
  if en && !want then (s.wr 0 (qA q rx + 0x08) (setBit cur 0 false)).setQState q rx 3
  else if !en && want && decide (s.qState q rx = 0 ∧ 4 ≤ fld cfg 4 4 ∧ fld cfg 4 4 ≤ 12) then
    ((s.wr 0 (qA q rx + 0x08) (setBit cfg 0 true)).wr 0 (qA q rx + 0x18) 1).setQrec q rx
      { QRec.idle with fetch := s.rdF 0 (qA q rx + 0x10) 0 12 }
  else s.wr 0 (qA q rx + 0x08) (setBit cfg 0 en)

/-- A write of Q_TAIL (R67, R68). -/
def writeQTail (q : Nat) (rx : Bool) (d : Word) (s : State) : State := s.wr 0 (qA q rx + 0x0C) (wd (fld d 0 12))

/-- QUEUE_ENABLE: a write of Q_CFG that sets EN and leaves the other fields as they read. -/
def execQueueEnable (t : Tag) (q : Fin 64) (rx : Bool) (s : State) : Host.Outcome State Fault Refusal :=
  let d := setBit (s.qCfg q rx) 0 true
  .next (hostWrite t (qA q rx + 0x08) d (writeQCfg q rx d) s)

/-- QUEUE_DISABLE: a write of Q_CFG that clears EN and leaves the other fields as they read. -/
def execQueueDisable (t : Tag) (q : Fin 64) (rx : Bool) (s : State) : Host.Outcome State Fault Refusal :=
  let d := setBit (s.qCfg q rx) 0 false
  .next (hostWrite t (qA q rx + 0x08) d (writeQCfg q rx d) s)

/-- QUEUE_DRAIN_DONE: with no descriptor left in flight, a draining queue becomes disabled (R67). -/
def execQueueDrainDone (q : Fin 64) (rx : Bool) (s : State) : Host.Outcome State Fault Refusal :=
  .next (if s.qState q rx = 3 ∧ (s.qrec q rx).flight = [] then s.setQState q rx 0 else s)

/-- Word i of a descriptor, R70. -/
def descWord (d : BitVec 256) (i : Nat) : Word := BitVec.ofNat 32 (d.toNat / 2 ^ (32 * i))

/-- The part fetches the next descriptor between Q_HEAD and Q_TAIL, at most 512 in flight (R68), and checks its TAG (R69). -/
def State.fetchDesc (q : Nat) (rx : Bool) (d : BitVec 256) (hdr : BitVec 128) (play : Option PlayAt) (fin : Option Done)
    (s : State) : State :=
  let r := s.qrec q rx
  let size := s.ringSize q rx
  let tag := descWord d 3
  let bad := match r.nextTag with
    | some e => decide (tag ≠ e)
    | none => false
  if s.host.perstN ∧ s.qState q rx = 1 ∧ r.flight.length < 512 ∧ r.fetch % size ≠ s.rdF 0 (qA q rx + 0x0C) 0 12 % size then
    s.setQrec q rx { r with
      nextTag := some (tag + 1), fetch := (r.fetch + 1) % size, flight := r.flight ++ [⟨tag, bad, d, hdr, false, play, fin⟩] }
  else s

/-- STATUS codes of an endpoint, R71. -/
def endCode : EndStatus → Nat
  | .ok => 0
  | .trunc => 1
  | .late => 2
  | .drop => 3
  | .addr => 5
  | .policed => 6

/-- The STATUS a descriptor completes with: SEQ for a broken tag (R69), what an endpoint within the part has made of it, FLUSH in a
draining queue (R67, R411), else as the endpoint reports it. -/
def completionStatus (draining : Bool) (f : Flight) (r : WriteBack) : Nat :=
  if f.bad && !draining then 4
  else
    match f.fin with
    | some d => d.status
    | none => if draining then 7 else endCode r.status

/-- The report of a descriptor's endpoint, with what an endpoint within the part has made of it. -/
def reported (f : Flight) (r : WriteBack) : WriteBack :=
  match f.fin with
  | some d =>
    { r with
      xlen := BitVec.ofNat 16 d.xlen
      source := BitVec.ofNat 16 d.source
      sop := d.sop
      eop := d.eop
      stamp := d.stamp.getD r.stamp }
  | none => r

/-- Whether a write-back holds a timestamp (R71, R385). -/
def stamped (bind : Nat) (rx : Bool) (f : Flight) (status : Nat) (r : WriteBack) : Bool :=
  if rx then r.sop else bitOf (descWord f.desc 2) 26 && status == 0 && (bind == 1 || bind == 4)

/-- The words written back, R71. SEC, NS, FRAC and LINEAR are one instant: LINEAR counts 2^-16 ns modulo 2^64 (R370). -/
def writeBackWords (bind tb : Nat) (rx : Bool) (f : Flight) (status : Nat) (r : WriteBack) : List Word :=
  let tsv := stamped bind rx f status r
  let t := if tsv then r.stamp.toNat else 0
  let lin := t % 2 ^ 64
  let sec := t / 2 ^ 16 / 1000000000
  let ns := t / 2 ^ 16 % 1000000000
  let frac := t % 2 ^ 16
  let b (x : Bool) (n : Nat) : Nat := if x then n else 0
  [wd sec, wd (sec / 2 ^ 32 % 2 ^ 16 + frac * 65536), wd ns, f.tag, wd lin, wd (lin / 2 ^ 32),
   wd (status + tb * 256 + b tsv 2048 + (if rx then r.source.toNat * 65536 else 0)),
   wd (r.xlen.toNat + b (rx && r.sop) 65536 + b (rx && r.eop) 131072 + 2 ^ 31)]

/-- The completion interrupt of a queue under Q_MOD (R67, R72). The IRQ flag of a descriptor has no part in it: DESIGN CHOICE, log
entry 143. -/
def State.countCompletion (s : State) (q : Nat) (rx : Bool) : State :=
  let m := s.rd 0 (qA q rx + 0x1C)
  let r := s.qrec q rx
  let n := r.since + 1
  let fire := (fld m 0 16 == 0 && fld m 16 8 == 0) || (fld m 16 8 != 0 && decide (fld m 16 8 ≤ n))
  if fire then (s.setQrec q rx { r with since := 0 }).cause (s.partOwner 7 q) (if rx then 64 + q else q)
  else s.setQrec q rx { r with since := n }

/-- Fill receive descriptors in ring order with the n bytes that are left of a frame or unit: what they become, and the bytes that found
none. A descriptor that breaks R69 is not processed, nor is what follows it. -/
def fillDescs (src : Nat) (stamp : Option (BitVec 96)) : Nat → Bool → List Flight → List Flight × Nat
  | n, _, [] => ([], n)
  | n, sop, f :: r =>
    if n = 0 ∨ f.bad then (f :: r, n)
    else if f.fin.isSome then
      let (l, m) := fillDescs src stamp n sop r
      (f :: l, m)
    else
      let cap := fld (descWord f.desc 2) 0 16
      let k := min cap n
      let (l, m) := fillDescs src stamp (n - k) false r
      ({ f with fin := some ⟨if n ≤ cap then 0 else 1, k, src, sop, decide (n ≤ cap), if sop then stamp else none⟩ } :: l, m)

/-- Whether the endpoint of a queue is one that the model holds. -/
def within (bind : Nat) (rx : Bool) : Bool := bind == 2 || bind == 3 || bind == 4 || bind == 5 || (bind == 1 && !rx)

/-- DESCRIPTOR_COMPLETE: the oldest descriptor in flight is written back, Q_HEAD advances, and Q_DONE_TAG takes its TAG
(R68, R71). SEQ and ADDR halt the queue and raise its cause 128 + q. A descriptor whose endpoint is within the part completes once
that endpoint is done with it: the Garpen MAC (R410 to R414), a port's transmit queue (R270), an ingress slice (R142), an egress
slice (R279), the audio crosspoint (R294). -/
def execDescriptorComplete (q : Fin 64) (rx : Bool) (r : WriteBack) (s : State) : Host.Outcome State Fault Refusal :=
  let rec' := s.qrec q rx
  .next (match rec'.flight with
    | [] => s
    | f :: rest =>
      let waits := within (s.qBind q rx) rx && f.fin.isNone && !f.bad && s.qState q rx == 1
      if s.host.perstN && !waits && (s.qState q rx == 1 || s.qState q rx == 3) then
        let st := completionStatus (s.qState q rx == 3) f r
        let ws := writeBackWords (s.qBind q rx) (fld (s.qCfg q rx) 13 3) rx f st (reported f r)
        let head := (s.rdF 0 (qA q rx + 0x10) 0 12 + 1) % s.ringSize q rx
        let s1 := (((s.emit (.writeBack q rx (s.ringAddr q rx (s.rdF 0 (qA q rx + 0x10) 0 12)) ws)).setQrec q rx { rec' with flight := rest }).wr 0 (qA q rx + 0x10)
          (wd head)).wr 0 (qA q rx + 0x14) f.tag
        let s2 := s1.countCompletion q rx
        if st = 4 ∨ st = 5 then ((s2.setQState q rx 2).wrF 0 (qA q rx + 0x18) 4 8 st).cause (s.partOwner 7 q) (128 + q)
        else s2
      else s)

/-- What host software writes to a function's PCIe configuration or MSI-X table (R65). No row of the table is such a write: it comes
with the message that it makes possible (log entry 18). A function that is not on the link takes none. -/
def State.pcieWrite (s : State) (p : Nat) (w : Option PcieWrite) : State :=
  if !(s.host.perstN && s.onLink p) then s
  else
    match w with
    | none => s
    | some (.msixEnable on) =>
      let m := BitVec.ofNat 16 (2 ^ p)
      { s with host := { s.host with msixEnable := if on then s.host.msixEnable ||| m else s.host.msixEnable &&& ~~~m } }
    | some (.vector v k d) =>
      { s with host := { s.host with msix := Tab.put (fun _ => (0 : Word)) s.host.msix (p * 256 + v * 4 + k) d } }
    | some .vfEnable => if p = 0 then { s with host := { s.host with vfEnable := true } } else s

/-- MSIX_DELIVER: a pending cause is sent if delivery is possible, after what host software has written to make it so (R73). -/
def execMsixDeliver (p : Fin 16) (cause : Fin 256) (w : Option PcieWrite) (s : State) : Host.Outcome State Fault Refusal :=
  .next ((s.pcieWrite p w).deliver p cause)

/-- INTERRUPT_HOLDOFF_EXPIRE: completions that wait for Q_MOD.HOLDOFF raise the completion interrupt (R67). -/
def execInterruptHoldoffExpire (q : Fin 64) (rx : Bool) (s : State) : Host.Outcome State Fault Refusal :=
  .next (if s.rdF 0 (qA q rx + 0x1C) 0 16 ≠ 0 ∧ (s.qrec q rx).since ≠ 0 then
      (s.setQrec q rx { s.qrec q rx with since := 0 }).cause (s.partOwner 7 q) (if rx then 64 + q.val else q.val)
    else s)

/-! ### Function-level resets, R66 -/

/-- Disable a queue and discard its descriptors in flight without write-back. -/
def State.killQueue (s : State) (q : Nat) (rx : Bool) : State :=
  ((s.wrF 0 (qA q rx + 0x08) 0 1 0).setQState q rx 0).setQrec q rx QRec.idle

/-- The function-level reset of the function of partition p: its queues, its MSI-X table and its bank of HOST registers. -/
def State.flr (s : State) (p : Nat) : State :=
  let s1 := forEach ((List.range 64).filter fun q => s.partOwner 7 q == p)
    (fun q s => (s.killQueue q false).killQueue q true) s
  { s1 with
    regs := Tab.keep (fun k => !(decide (regKey p (regA pHost 0x1000) ≤ k) && decide (k < regKey p (regA pHost 0x1050)))) s1.regs
    tbl := Tab.keep (fun k => !(k / 2 ^ 28 == (pHost * 16 + p) * 65536 + 1)) s1.tbl
    bus := { s1.bus with ops := s1.bus.ops.filter fun o => !(o.page == pHost && o.bank == p) }
    host := { s1.host with
      msixEnable := s1.host.msixEnable &&& ~~~(BitVec.ofNat 16 (2 ^ p))
      msix := Tab.keep (fun k => !(k / 256 == p)) s1.host.msix } }

/-- The removal of every virtual function: VF Enable clears, and each VF is handled as a function-level reset of it. With VF Enable
0 there is none to remove. -/
def State.removeVfs (s : State) : State :=
  if s.host.vfEnable then
    let s1 := forEach (List.range 15) (fun n s => s.flr (n + 1)) s
    { s1 with host := { s1.host with vfEnable := false } }
  else s

/-- FLR_VF: function-level reset of VFn, n = 1 to 15; a function that is not on the link has none. -/
def execFlrVf (n : Fin 16) (s : State) : Host.Outcome State Fault Refusal :=
  .next (if n.val = 0 || !s.host.vfEnable then s else s.flr n)

/-- FLR_PF: function-level reset of PF0, which also removes VF1 to VF15. -/
def execFlrPf (s : State) : Host.Outcome State Fault Refusal := .next (s.flr 0).removeVfs

/-- VF_ENABLE_CLEAR: a write that clears VF Enable removes each VF. -/
def execVfEnableClear (s : State) : Host.Outcome State Fault Refusal := .next s.removeVfs

/-- The host interface reset of PERST_N and of a HOST block reset (R15, R76, R475): queues, tables, windows, MSI-X tables
and PCIe configuration take their reset values; the page header and queue ownership stay. -/
def State.hostReset (s : State) : State :=
  let s1 := forEach (List.range 64) (fun q s => (s.killQueue q false).killQueue q true) s
  { s1 with
    regs := Tab.keep (fun k => !(k % 2 ^ 28 / 65536 == pHost && decide (0x40 ≤ k % 65536))) s1.regs
    tbl := Tab.keep (fun k => !(k / 2 ^ 48 == pHost)) s1.tbl
    bus := { s1.bus with ops := s1.bus.ops.filter fun o => !(o.page == pHost) }
    host := { s1.host with linkUp := false, vfEnable := false, msixEnable := 0, msix := [] } }

/-! ### The HOST and PART tables' windows of this chapter -/

/-- Read of HOST table 0x0001, R72: the cause entry of the partition's own bank. -/
def hostTableRead (t : Tag) (sel idx : Nat) (s : State) : Nat × List Word :=
  let p := tagBank t
  if sel ≠ 1 then (1, [])
  else if 197 ≤ idx then (2, [])
  else if idx < 192 ∧ !tagOwns t (s.partOwner 7 (idx % 64)) then (4, [])
  else if idx = 196 ∧ p ≠ 0 then (4, [])
  else (0, [s.ent pHost p 1 idx 0])

/-- Write of HOST table 0x0001, R72: VECTOR and EN; PEND is RO. A pending cause whose delivery the write makes possible
sends its message (R73). -/
def hostTableWrite (t : Tag) (sel idx : Nat) (d : List Word) (s : State) : Nat × State :=
  let p := tagBank t
  if sel ≠ 1 then (1, s)
  else if 197 ≤ idx then (2, s)
  else if idx < 192 ∧ !tagOwns t (s.partOwner 7 (idx % 64)) then (4, s)
  else if idx = 196 ∧ p ≠ 0 then (4, s)
  else
    let pend := s.entF pHost p 1 idx 0 30 1
    let w := setFld (setFld (wd (fld (dat d 0) 0 6)) 31 1 (fld (dat d 0) 31 1)) 30 1 pend
    let s1 := s.setEnt pHost p 1 idx 0 w
    (0, s1.deliver p idx)

end Sys2Proof.Machine
end

