-- ==== Sys2Proof/Machine/AudTab.lean ====
section
/-!
DEFINITION. Machine/AudTab.lean: channels, blocks, claims and input samples of the audio crosspoint (R284 to R290), as the ingress
slices and the frame synchronisers use them.
-/
namespace Sys2Proof.Machine

/-! ### Flow entries, R145 -/

/-- A flow entry's number in the part. -/
def flowIx (sl idx : Nat) : Nat := sl * 8192 + idx

/-- Valid flow entries of the part. -/
def State.flows (s : State) : List (Nat × Nat) :=
  (List.range 16).flatMap fun sl => (s.entIdxs (pIng sl) 0 1 0 fun w => bitOf w 31).map fun i => (sl, i)

/-! ### Blocks and grids, R285 and R286 -/

/-- TB and SRATE of an input block (TBL_SEL 1) or output block (TBL_SEL 2), R285. -/
def State.audBlkTb (s : State) (sel blk : Nat) : Nat := s.entF pAud 0 sel blk 0 0 3
def State.audBlkHi (s : State) (sel blk : Nat) : Nat := s.entF pAud 0 sel blk 0 3 1

/-- Owner of an input block and of an output block (PART tables 6 and 5, R58). -/
def State.ownIn (s : State) (blk : Nat) : Nat := s.partOwner 6 blk
def State.ownOut (s : State) (blk : Nat) : Nat := s.partOwner 5 blk

/-- Blocks that n channels from a base lie in. -/
def blocksOf (base n : Nat) : List Nat := ((List.range n).map fun i => (base + i) / 256).eraseDups

/-- Number of a grid: time base × 2 + rate; the grid of an input and of an output channel. -/
def gridOf (tb hi : Nat) : Nat := tb * 2 + hi
def State.gridIn (s : State) (x : Nat) : Nat := gridOf (s.audBlkTb 1 (x / 256)) (s.audBlkHi 1 (x / 256))
def State.gridOut (s : State) (y : Nat) : Nat := gridOf (s.audBlkTb 2 (y / 256)) (s.audBlkHi 2 (y / 256))

/-- Sample rate of a grid, and its sample periods per audio block (R286). -/
def gridRate (g : Nat) : Nat := if g % 2 = 1 then 96000 else 48000
def gridB (g : Nat) : Nat := if g % 2 = 1 then 16 else 8

/-- Presentation instant of period n of a grid. -/
def State.periodAt (s : State) (g : Nat) (n : Int) : At := (At.mk (g / 2) (n * 1000000000) (gridRate g)).add (s.padD (g / 2)) 1

/-- The latest period of a grid that has started by an instant, and the first that starts at or after it. -/
def State.periodBy (s : State) (g : Nat) (a : At) : Int :=
  let b := a.add (-(s.padD (g / 2) : Int)) 1
  b.num * (gridRate g : Int) / ((b.den * 1000000000 : Nat) : Int)
def State.periodFrom (s : State) (g : Nat) (a : At) : Int :=
  let b := a.add (-(s.padD (g / 2) : Int)) 1
  0 - (0 - b.num * (gridRate g : Int)) / ((b.den * 1000000000 : Nat) : Int)

/-- The audio block that runs on a grid, and the start of block k. -/
def State.blockNow (s : State) (g : Nat) : Int := s.periodBy g (s.nowAt (g / 2)) / (gridB g : Int)
def State.blockAt (s : State) (g : Nat) (k : Int) : At := s.periodAt g (k * (gridB g : Int))

/-- The first block boundary at or after a period. -/
def boundary (g : Nat) (n : Int) : Int := -(-n / (gridB g : Int)) * (gridB g : Int)

/-! ### Queues of BIND 2, R294 and R295 -/

/-- The audio block of a queue, its grid, and whether its DMA binding entry is valid. -/
def State.qGrid (s : State) (q : Nat) (rx : Bool) : Nat :=
  let sel := if rx then 2 else 1
  gridOf (s.audBlkTb sel (s.qTarget q rx)) (s.audBlkHi sel (s.qTarget q rx))
def State.qBound (s : State) (q : Nat) : Bool := bitOf (s.ent pAud 0 8 q 0) 31

/-- Where a transmit buffer fetched now may be played: with LAUNCH = 1 in the first period that begins at or after LAUNCH_TIME, as the
first after EN at the first block boundary at least 50 µs from now. -/
def State.playAt (s : State) (q : Nat) (d : BitVec 256) : PlayAt :=
  let g := s.qGrid q false
  ⟨s.periodFrom g (s.nowAt (g / 2)),
    if bitOf (descWord d 2) 28 then some (s.periodFrom g (s.atCount (g / 2) (pairOf (descWord d 4) (descWord d 5)))) else none,
    boundary g (s.periodFrom g ((s.nowAt (g / 2)).add 50000 1))⟩

/-- What the crosspoint makes of a descriptor that it gets: DROP where no binding entry is valid, LATE where the block of a launch
period has started (R295; log entry 182). -/
def State.playFetch (s : State) (q : Nat) (rx : Bool) (d : BitVec 256) : Option Done :=
  let g := s.qGrid q false
  if !s.qBound q then some ⟨3, 0, 0, false, false, none⟩
  else if !rx && (s.playAt q d).launch.any fun n => decide (n / (gridB g : Int) ≤ s.blockNow g) then some ⟨2, 0, 0, false, false, none⟩
  else none

/-! ### Claims, R288 and R289 -/

/-- Raise an AUD event, attributed to a partition (R309). -/
def State.audEvent (s : State) (b p : Nat) : State := s.raise pAud b p

/-- Count in a word of the block counters of an input block. -/
def State.audCount (s : State) (blk w n : Nat) : State := s.setEnt pAud 0 10 blk w (wd (satAdd 32 (s.ent pAud 0 10 blk w).toNat n))

/-- CLAIM and ID of an input channel (R288). A flow's ID is wider than the 16-bit field of the entry; word 1, which no read
returns, holds it whole (log entry 45). -/
def State.claimOf (s : State) (x : Nat) : Nat := s.entF pAud 0 5 x 0 0 3
def State.claimId (s : State) (x : Nat) : Nat := (s.ent pAud 0 5 x 1).toNat

/-- Claim n channels from a base for a source: channels already claimed keep their claim (R289). -/
def State.claim (s : State) (code ident base n : Nat) : State :=
  forEach ((List.range n).filter fun i => s.claimOf (base + i) == 0)
    (fun i s => s.setEntWords pAud 0 5 (base + i) 0 [wd (code + ident % 65536 * 65536), wd ident]) s

/-- Channels that a source claims. -/
def State.claimed (s : State) (code ident : Nat) : List Nat :=
  (s.entIdxs pAud 0 5 0 fun w => fld w 0 3 == code).filter fun x => s.ent pAud 0 5 x 1 == wd ident

/-- Release the claims of a source (R289). -/
def State.unclaim (s : State) (code ident : Nat) : State :=
  forEach (s.claimed code ident) (fun x s => s.setEntWords pAud 0 5 x 0 [0, 0]) s

/-- Flow entries with AUD_EN of an input slot: its audio sources, with the number of each and its first channel. -/
def State.slotFlows (s : State) (ei slot : Nat) : List (Nat × Nat) :=
  (s.flows.filter fun f =>
    let w := s.ent (pIng f.1) 0 1 f.2 0
    f.1 * 256 + fld w 12 8 == ei && fld w 20 4 == slot && bitOf w 1 && fld w 28 3 == 1).map fun f =>
      (flowIx f.1 f.2, s.entF (pIng f.1) 0 1 f.2 11 16 16)

/-- Channels that the sources of an input slot claim: its flows, and the de-embedder of its port (R288). -/
def State.slotChannels (s : State) (ei slot : Nat) : List Nat :=
  ((s.slotFlows ei slot).flatMap fun f => s.claimed 1 f.1) ++ (if slot = 0 then s.claimed 2 ei else [])

/-! ### Samples of network flows and SDI sources, R288 to R290 -/

/-- A sample that one of the sources `idents` of a CLAIM code gives input channel x in period q of grid g. It is kept where the source
holds the channel's claim on the channel's own grid; else it is discarded and counted, with AUD.MISMATCH or AUD.CLAIM (R289). -/
def State.audSample (s : State) (code : Nat) (idents : List Nat) (g x : Nat) (q : Int) (v : BitVec 24) : State :=
  let blk := x / 256
  if s.gridIn x ≠ g then (s.audCount blk 0 1).audEvent 3 (s.ownIn blk)
  else if s.claimOf x = code ∧ idents.contains (s.claimId x) then
    let old := Tab.get (fun _ => []) s.aud.ins x
    { s with aud := { s.aud with ins := Tab.put (fun _ => []) s.aud.ins x (((q, v) :: old.filter fun e => e.1 != q).take 64) } }
  else (s.audCount blk 0 1).audEvent 2 (s.ownIn blk)

/-- The samples of a network flow's sample period, from its first channel on. -/
def State.audGive (s : State) (idents : List Nat) (g base : Nat) (q : Int) (vs : List (BitVec 24)) : State :=
  forEach vs.zipIdx (fun e s => s.audSample 1 idents g (base + e.2) q e.1) s

/-- The samples that an SDI port's de-embedder takes from a line: each channel's in turn from period q on (R154). -/
def State.audLine (s : State) (ei base nch : Nat) (g : Nat) (q : Int) (vs : List (Nat × BitVec 24)) : State :=
  forEach ((List.range nch).flatMap fun c => ((vs.filter fun v => v.1 == c).zipIdx.map fun v => (c, v.2, v.1.2)))
    (fun (e : Nat × Nat × BitVec 24) s => s.audSample 2 [ei] g (base + e.1) (q + (e.2.1 : Int)) e.2.2) s

/-- Samples that an input channel has from such a source in the periods of an audio block; 0 where none came. -/
def State.audHeld (s : State) (x : Nat) (first : Int) (n : Nat) : List (BitVec 24) :=
  (List.range n).map fun (i : Nat) =>
    (((Tab.get (fun _ => []) s.aud.ins x).find? fun e => e.1 == first + (i : Int)).map fun e => e.2).getD 0

/-- Mark a discontinuity of the channels of an input slot at the first sample of output frame k (R290). -/
def State.markDisc (s : State) (ei slot : Nat) (d : Desc) (k : Int) : State :=
  forEach (s.slotChannels ei slot) (fun x s =>
    let rate := gridRate (s.gridIn x)
    let n : Int := -(-(k * ((d.frameRate.2 * rate : Nat) : Int)) / ((d.frameRate.1 : Nat) : Int))
    let old := Tab.get (fun _ => []) s.aud.disc x
    { s with aud := { s.aud with disc := Tab.put (fun _ => []) s.aud.disc x ((n :: old).take 4) } }) s

end Sys2Proof.Machine
end

