-- ==== Sys2Proof/Machine/Key.lean ====
section
/-!
DEFINITION. Machine/Key.lean: the key store of spec/15_security.md. A request is accepted at its RES_REQ write, which reads
the request registers (R439), and is served whole when it finishes (R433).
-/
namespace Sys2Proof.Machine

/-! ### Derivation, R423 and R424 -/

/-- The bytes of a label. -/
def asciiBytes (l : List Char) : List Byte := l.map fun c => BitVec.ofNat 8 c.toNat

/-- KDF of R423: NIST SP 800-108 in counter mode, one iteration, 256 bits. -/
def kdf (parent : BitVec 256) (label : List Char) (context : List Byte) : BitVec 256 :=
  let h := Config.hmac384 (beBytes 32 parent.toNat)
    (beBytes 4 1 ++ asciiBytes label ++ [0] ++ context ++ beBytes 4 256)
  BitVec.ofNat 256 (h.toNat / 2 ^ 128)

/-- CHECK value of a key, R440. -/
def checkValue (k : BitVec 256) : Word :=
  BitVec.ofNat 32 ((Config.hmac384 (beBytes 32 k.toNat) (asciiBytes ['M', 'G', '-', 'K', 'C', 'V'])).toNat / 2 ^ 352)

/-- MEAS of R424: the hash chain over the state byte, the key digest, the manifest digest and the image revision. -/
def measChain (stateByte : Nat) (keyDig manDig : BitVec 384) (rev : Word) : BitVec 384 :=
  let step (m : BitVec 384) (item : List Byte) : BitVec 384 := Config.sha384 (beBytes 48 m.toNat ++ item)
  step (step (step (step 0 (beBytes 1 stateByte)) (beBytes 48 keyDig.toNat)) (beBytes 48 manDig.toNat))
    (beBytes 4 rev.toNat)

/-- The label of a node kind, R427. -/
def kindLabel (k : Nat) : List Char :=
  match k with
  | 2 => ['M', 'G', '-', 'N', 'O', 'D', 'E']
  | 3 => ['M', 'G', '-', 'K', 'E', 'K']
  | 5 => ['M', 'G', '-', 'H', 'M', 'A', 'C']
  | _ => ['M', 'G', '-', 'P', 'A', 'R', 'T']

/-- The device root of the lifecycle state, R421: none in RMA. -/
def State.deviceRoot (s : State) : Option (BitVec 256) :=
  if s.fuse.lc = 0 then some Config.rootTest
  else if s.fuse.lc = 1 then some Config.rootKey
  else none

/-! ### Nodes and cells -/

/-- Word w of a node entry (KEY table 1). -/
def State.node (s : State) (h w : Nat) : Word := s.ent pKey 0 1 h w
def State.nodeState (s : State) (h : Nat) : Nat := fld (s.node h 0) 28 3
def State.nodeKind (s : State) (h : Nat) : Nat := fld (s.node h 0) 24 4
def State.nodePart (s : State) (h : Nat) : Nat := fld (s.node h 0) 20 4
def State.nodeDepth (s : State) (h : Nat) : Nat := fld (s.node h 0) 16 4
def State.nodeParent (s : State) (h : Nat) : Nat := fld (s.node h 0) 0 10
def State.nodeKeep (s : State) (h : Nat) : Bool := bitOf (s.node h 3) 0

/-- An empty cell. -/
def KeyCell.zero : KeyCell := ⟨0, 0⟩

/-- The key of a cell. -/
def KeyCell.key (c : KeyCell) : BitVec 256 := c.a ^^^ c.b

/-- A cell that holds a key under a mask. -/
def KeyCell.masked (k r : BitVec 256) : KeyCell := ⟨k ^^^ r, r⟩

/-- The cell of a node. -/
def State.cell (s : State) (h : Nat) : KeyCell := Tab.get (fun _ => KeyCell.zero) s.key.cells h

/-- The key of a node. -/
def State.nodeKey (s : State) (h : Nat) : BitVec 256 := (s.cell h).key

/-- Set a node's cell. -/
def State.setCell (s : State) (h : Nat) (c : KeyCell) : State :=
  { s with key := { s.key with cells := Tab.put (fun _ => KeyCell.zero) s.key.cells h c } }

/-- Put a key into a node's cell under a fresh mask (R434). -/
def State.putKey (s : State) (h : Nat) (k : BitVec 256) : State :=
  let (r, s1) := s.fresh 256
  s1.setCell h (KeyCell.masked k (BitVec.ofNat 256 r))

/-- The nodes in use. -/
def State.nodes (s : State) : List Nat := s.entIdxs pKey 0 1 0 fun w => bitOf w 31

/-- Whether a node is usable (R441: STATE 1). -/
def State.usable (s : State) (h : Nat) : Bool := bitOf (s.node h 0) 31 && s.nodeState h == 1

/-- USED of a partition: its nodes from 17 up. -/
def State.keysUsed (s : State) (p : Nat) : Nat :=
  (s.nodes.filter fun h => decide (17 ≤ h) && s.nodePart h == p).length

/-- The lowest-numbered free node from 17 up, R426. -/
def State.freeNode (s : State) : Option Nat :=
  (List.range 1007).map (· + 17) |>.find? fun h => s.node h 0 == 0

/-- The node words of R441. -/
def nodeWords (kind part depth parent : Nat) (gen : Word) (limit : Nat) (keep : Bool) (origin : Nat) (label : Nat)
    (check : Word) : List Word :=
  [wd (2 ^ 31 + 2 ^ 28 + kind * 2 ^ 24 + part * 2 ^ 20 + depth * 2 ^ 16 + parent), gen,
   wd (limit + limit * 65536), wd ((if keep then 1 else 0) + origin * 4), loHalf label, hiHalf label, check]

/-- Whether one node descends from another: its parents, within the 8 levels of R426. -/
def State.descends (s : State) (anc : Nat) : Nat → Nat → Bool
  | 0, _ => false
  | n + 1, h => if h = 0 then false else if s.nodeParent h == anc then true else State.descends s anc n (s.nodeParent h)

/-- MEAS as sealed. -/
def State.meas (s : State) : BitVec 384 :=
  BitVec.ofNat 384 ((List.range 12).foldl (fun v i => v * 2 ^ 32 + (s.rd 0 (regA pKey (0x1C0 + 4 * i))).toNat) 0)

/-- GEN_p and EPOCH_p, R431. -/
def State.gen (s : State) (p : Nat) : Word := Tab.get (fun _ => 0) s.key.gen p
def State.epoch (s : State) (p : Nat) : Word := Tab.get (fun _ => 0) s.key.epoch p
def State.setGen (s : State) (p : Nat) (v : Word) : State :=
  { s with key := { s.key with gen := Tab.put (fun _ => 0) s.key.gen p v } }
def State.setEpoch (s : State) (p : Nat) (v : Word) : State :=
  { s with key := { s.key with epoch := Tab.put (fun _ => 0) s.key.epoch p v } }

/-- KEY.STATUS.STAGE: 0 BOOT, 1 SERVICE, 2 RECOVERY. -/
def State.stage (s : State) : Nat := s.rdF 0 (regA pKey 0x040) 4 2
def State.entropyOk (s : State) : Bool := bitOf (s.rd 0 (regA pKey 0x040)) 10

/-- The image slot in force: the running slot of MGT.STATUS (R465), which the KEEP records of R430 go with. -/
def State.slotInForce (s : State) : Nat := s.rdF 0 (regA pMgt 0x040) 4 1

/-- Destroy nodes: no longer usable, STATE 3, cells zeroed, and their KEEP records deleted from the slot in force (R432).
The entries are freed when zeroing is done. -/
def State.destroy (s : State) (hs : List Nat) : State :=
  let slot := s.slotInForce
  let s1 := forEach hs (fun h s => (s.setEntF pKey 0 1 h 0 28 3 3).setCell h KeyCell.zero) s
  { s1 with key := { s1.key with keep := s1.key.keep.filter fun r => !(r.slot == slot && hs.contains r.handle) } }

/-- The records of a KEEP node take its words as they stand: its use count is in the settings store before the use starts (R430). -/
def State.commitUses (s : State) (h : Nat) : State :=
  let k := s.nodeKey h
  let ws := s.entWords pKey 0 1 h 7
  let keep := s.key.keep.map fun r => if r.handle = h ∧ r.key = k then { r with words := ws } else r
  if s.nodeKeep h then { s with key := { s.key with keep := keep } } else s

/-- One use of a node (R429): the count of a limited node goes down, and at 0 the node becomes EXHAUSTED. -/
def State.useNode (s : State) (h : Nat) : State :=
  let w := s.node h 2
  if fld w 16 16 = 0 then s
  else
    let left := fld w 0 16 - 1
    let s1 := s.setEnt pKey 0 1 h 2 (setFld w 0 16 left)
    (if left = 0 then (s1.setEntF pKey 0 1 h 0 28 3 2).raise pKey 1 (s.nodePart h) else s1).commitUses h

/-- Bind a SAK to a transmit SA: a use, and CONSUMED (R118, R429). -/
def State.bindNode (s : State) (h : Nat) : State := (s.useNode h).setEntF pKey 0 1 h 3 1 1 1

/-- Derive the partition roots from node 0 (R426). -/
def State.deriveRoots (s : State) : State :=
  forEach (List.range 16) (fun p s =>
    let k := kdf (s.nodeKey 0) (kindLabel 1) (beBytes 1 p ++ beBytes 4 (s.epoch p).toNat)
    (s.setEntWords pKey 0 1 (1 + p) 0 (nodeWords 1 p 0 0 0 0 false 0 0 (checkValue k))).putKey (1 + p) k) s

/-- Enter a stage: node 0 takes the key that its root, label and context give (R422). -/
def State.enterStage (s : State) (stage : Nat) (label : List Char) (context : List Byte) : State :=
  let s1 := s.wrF 0 (regA pKey 0x040) 4 2 stage
  match s.deviceRoot with
  | none => s1
  | some r =>
    let k := kdf r label context
    (s1.setEntWords pKey 0 1 0 0 (nodeWords 0 0 0 0 0 0 false 0 0 (checkValue k))).putKey 0 k

/-- Restore to the same handles every KEEP record of the slot in force that unwraps (R430). -/
def State.restoreKeep (s : State) : State :=
  let slot := s.slotInForce
  let m := s.meas
  forEach (s.key.keep.filter fun r => r.slot == slot && r.meas == m)
    (fun r s => (s.setEntWords pKey 0 1 r.handle 0 r.words).putKey r.handle r.key) s

/-! ### Requests, R427 to R440 -/

/-- A request as it read the request registers: partition, whether tag M made it, and the registers. -/
structure KeyReq where
  part : Nat
  byM : Bool
  req : Word
  gen : Word
  label : Nat
  opt : Word
  keyIn : List Word
  wrapIn : List Word
  msg : List Word
  armed : Option (BitVec 16)
  deriving DecidableEq, Repr

/-- A list of words as one number, first word most significant. -/
def wordsBe (l : List Word) : Nat := l.foldl (fun v w => v * 2 ^ 32 + w.toNat) 0

/-- Words of a number, most significant first. -/
def beWords (n v : Nat) : List Word := (List.range n).map fun i => BitVec.ofNat 32 (v / 2 ^ (32 * (n - 1 - i)))

def KeyReq.op (r : KeyReq) : Nat := fld r.req 0 4
def KeyReq.kind (r : KeyReq) : Nat := fld r.req 4 4
def KeyReq.keep (r : KeyReq) : Bool := bitOf r.req 8
def KeyReq.fresh (r : KeyReq) : Bool := bitOf r.req 12
def KeyReq.handle (r : KeyReq) : Nat := fld r.req 16 10
def KeyReq.limit (r : KeyReq) : Nat := fld r.opt 0 16
def KeyReq.msgLen (r : KeyReq) : Nat := fld r.opt 16 7
def KeyReq.target (r : KeyReq) : Nat := fld r.opt 24 4

/-- The outcome of a request: ECODE, result words, and the state after it. -/
abbrev KeyDone := Nat × List Word × State

/-- Checks that a handle names a live node of the requester: OWNER, NO_NODE, or none (R440). -/
def handleError (r : KeyReq) (s : State) : Option Nat :=
  let h := r.handle
  if !bitOf (s.node h 0) 31 || s.nodeState h == 3 || s.nodeState h == 0 then some 2
  else if !r.byM && (s.nodePart h != r.part || h == 0) then some 1
  else none

/-- KEEP against R430. -/
def keepError (r : KeyReq) (s : State) : Bool :=
  r.keep && (r.kind == 4 || !(s.nodeKeep r.handle || s.nodeKind r.handle == 1 || s.nodeKind r.handle == 0))

/-- Whether no node can be created under a request's parent: depth, quota or free nodes (R426, R440). -/
def noRoom (r : KeyReq) (s : State) : Bool :=
  let part := s.nodePart r.handle
  decide (8 < s.nodeDepth r.handle + 1 ∨ s.entF pKey 0 2 part 0 0 10 ≤ s.keysUsed part) || s.freeNode.isNone

/-- Create the node of a request under its parent with a key, or FULL (R426, R440). -/
def createNode (r : KeyReq) (gen : Word) (origin : Nat) (k : BitVec 256) (s : State) : KeyDone :=
  let part := s.nodePart r.handle
  let depth := s.nodeDepth r.handle + 1
  if noRoom r s then (4, [], s)
  else
    match s.freeNode with
    | none => (4, [], s)
    | some h =>
      let ws := nodeWords r.kind part depth r.handle gen r.limit r.keep origin r.label (checkValue k)
      let s1 := (s.setEntWords pKey 0 1 h 0 ws).putKey h k
      let s2 := if r.keep then { s1 with key := { s1.key with keep := s1.key.keep ++ [⟨s.slotInForce, h, ws, k, s.meas⟩] } } else s1
      (0, [wd h, gen, checkValue k], s2)

/-- The handle that a creating request will get, for the KDF context: the parent's (R427). -/
def deriveContext (r : KeyReq) (part : Nat) (gen : Word) : List Byte :=
  beBytes 2 r.handle ++ beBytes 1 part ++ beBytes 4 gen.toNat ++ beBytes 8 r.label

/-- DERIVE, R427 to R431. -/
def keyDerive (r : KeyReq) (s : State) : KeyDone :=
  match handleError r s with
  | some e => (e, [], s)
  | none =>
    let pk := s.nodeKind r.handle
    let part := s.nodePart r.handle
    if !((pk == 1 || pk == 2) && (r.kind == 2 || r.kind == 3 || r.kind == 5)) || keepError r s then (3, [], s)
    else if s.nodeState r.handle = 2 then (6, [], s)
    else if r.fresh && !s.entropyOk then (10, [], s)
    else if r.fresh && s.gen part == 0xFFFFFFFF then (5, [], s)
    else if !r.fresh && decide ((s.gen part).toNat < r.gen.toNat) then (9, [], s)
    else if noRoom r s then (4, [], s)
    else
      let gen := if r.fresh then s.gen part + 1 else r.gen
      let s1 := (if r.fresh then s.setGen part gen else s).useNode r.handle
      createNode r gen 0 (kdf (s.nodeKey r.handle) (kindLabel r.kind) (deriveContext r part gen)) s1

/-- LOAD_KEK, R428. -/
def keyLoad (r : KeyReq) (s : State) : KeyDone :=
  match handleError r s with
  | some e => (e, [], s)
  | none =>
    let pk := s.nodeKind r.handle
    if !((pk == 1 || pk == 2) && r.kind == 3) || keepError r s then (3, [], s)
    else if s.nodeState r.handle = 2 then (6, [], s)
    else if noRoom r s then (4, [], s)
    else createNode r 0 1 (BitVec.ofNat 256 (wordsBe r.keyIn)) (s.useNode r.handle)

/-- IMPORT, R427. -/
def keyImport (r : KeyReq) (s : State) : KeyDone :=
  match handleError r s with
  | some e => (e, [], s)
  | none =>
    if !(s.nodeKind r.handle == 3 && (r.kind == 3 || r.kind == 4 || r.kind == 5)) || keepError r s then (3, [], s)
    else if s.nodeState r.handle = 2 then (6, [], s)
    else if noRoom r s then (4, [], s)
    else
      let s1 := s.useNode r.handle
      match Config.unwrap (s.nodeKey r.handle) (beBytes 40 (wordsBe r.wrapIn)) with
      | none => (7, [], s1)
      | some k => createNode r 0 2 k s1

/-- SIGN, R440. -/
def keySign (r : KeyReq) (s : State) : KeyDone :=
  match handleError r s with
  | some e => (e, [], s)
  | none =>
    if s.nodeKind r.handle ≠ 5 then (3, [], s)
    else if s.nodeState r.handle = 2 then (6, [], s)
    else if 64 < r.msgLen then (9, [], s)
    else
      let m := (beBytes 64 (wordsBe r.msg)).take r.msgLen
      (0, beWords 12 (Config.hmac384 (beBytes 32 (s.nodeKey r.handle).toNat) m).toNat, s.useNode r.handle)

/-- CHECK, R440. -/
def keyCheck (r : KeyReq) (s : State) : KeyDone :=
  match handleError r s with
  | some e => (e, [], s)
  | none => (0, [wd r.handle, 0, checkValue (s.nodeKey r.handle)], s)

/-- A node and its descendants. -/
def State.subtree (s : State) (h : Nat) : List Nat := s.nodes.filter fun n => s.descends h 8 n

/-- INVALIDATE, R432. A root is no node that INVALIDATE may name: KIND (log entry 22). -/
def keyInvalidate (r : KeyReq) (s : State) : KeyDone :=
  match handleError r s with
  | some e => (e, [], s)
  | none =>
    if s.nodeKind r.handle ≤ 1 then (3, [], s)
    else
      let hs := r.handle :: s.subtree r.handle
      (0, [wd r.handle, s.epoch (s.nodePart r.handle), 0, wd hs.length],
        (s.destroy hs).raise pKey 2 (s.nodePart r.handle))

/-- NEW_EPOCH, R431 and R432. -/
def keyNewEpoch (r : KeyReq) (s : State) : KeyDone :=
  let p := r.target
  if s.epoch p = 0xFFFFFFFF then (5, [], s)
  else
    let hs := s.subtree (1 + p)
    let s1 := (s.destroy hs).setEpoch p (s.epoch p + 1)
    let k := kdf (s.nodeKey 0) (kindLabel 1) (beBytes 1 p ++ beBytes 4 (s1.epoch p).toNat)
    let s2 := (s1.setEntWords pKey 0 1 (1 + p) 0 (nodeWords 1 p 0 0 0 0 false 0 0 (checkValue k))).putKey (1 + p) k
    (0, [wd (1 + p), s1.epoch p, 0, wd (hs.length + 1)], s2.raise pKey 2 p)

/-- KEY.STATUS as it reads: the stored fields with LC and DBG_SEAL of the fuses (R439). -/
def State.keyStatus (s : State) : Word :=
  setFld (setFld (s.rd 0 (regA pKey 0x040)) 0 2 s.fuse.lc.toNat) 8 1 (if s.sealBlown then 1 else 0)

/-- SEAL_DEBUG, R436: the four fuses are burnt. -/
def keySeal (r : KeyReq) (s : State) : KeyDone :=
  if r.armed ≠ some 0xD5EA then (11, [], s)
  else
    let s1 := { s with fuse := { s.fuse with dbgSeal := 0xF } }
    (0, [s1.keyStatus], s1)

/-- RMA, R437: LC burns to RMA, every node becomes unusable, every KEEP record of every slot is deleted, and the stage is
RECOVERY. -/
def keyRma (r : KeyReq) (s : State) : KeyDone :=
  if s.fuse.lc ≠ 1 then (9, [], s)
  else if r.armed ≠ some 0x0A3A then (11, [], s)
  else
    let s1 := s.destroy s.nodes
    let s2 := ({ s1 with fuse := { s1.fuse with lc := 2 }, key := { s1.key with keep := [] } }).wrF 0 (regA pKey 0x040) 4 2 2
    (0, [s2.keyStatus], s2)

/-- Serve a request. The spec gives the error codes of R440 no order; this one is the model's (log entry 22): reserved OP,
STAGE, OWNER of an OP reserved to P0, then the checks of the OP. In RMA there is no device root: what needs one is refused with STAGE
(R421). -/
def keyServe (r : KeyReq) (s : State) : KeyDone :=
  if r.op = 0 ∨ 9 < r.op then (9, [], s)
  else if s.stage ≠ 1 ∧ !r.byM ∧ r.op ≠ 5 then (8, [], s)
  else if 7 ≤ r.op ∧ r.part ≠ 0 then (1, [], s)
  else if s.fuse.lc = 2 ∧ (r.op ≤ 3 ∨ r.op = 7) then (8, [], s)
  else if s.key.tampered && decide (r.op ≤ 7) then (2, [], s)
  else
    match r.op with
    | 1 => keyDerive r s
    | 2 => keyLoad r s
    | 3 => keyImport r s
    | 4 => keySign r s
    | 5 => keyCheck r s
    | 6 => keyInvalidate r s
    | 7 => keyNewEpoch r s
    | 8 => keySeal r s
    | _ => keyRma r s

/-- The request registers as a list of words, read at the RES_REQ write (R439), with the armed code (R438: written by P0
within the previous 1 s). -/
def keyArgs (bank : Nat) (s : State) : List Word :=
  let armed : List Word := match s.key.confirm with
    | some (c, b) => if s.beat - b ≤ beatsPerSecond then [wd (65536 + c.toNat)] else [0]
    | none => [0]
  [s.rd bank (regA pKey 0x050), s.rd bank (regA pKey 0x054), s.rd bank (regA pKey 0x058), s.rd bank (regA pKey 0x05C),
    s.rd bank (regA pKey 0x060)] ++ armed ++
    (List.range 8).map (fun i => s.rd bank (regA pKey (0x100 + 4 * i))) ++
    (List.range 10).map (fun i => s.rd bank (regA pKey (0x120 + 4 * i))) ++
    (List.range 16).map (fun i => s.rd bank (regA pKey (0x180 + 4 * i)))

/-- The request that the captured words spell. -/
def keyReqOf (o : ResOp) : KeyReq :=
  let d := o.data
  { part := o.bank, byM := o.who == 16, req := dat d 0, gen := dat d 1, label := pairOf (dat d 2) (dat d 3), opt := dat d 4,
    keyIn := (d.drop 6).take 8, wrapIn := (d.drop 14).take 10, msg := (d.drop 24).take 16,
    armed := if (dat d 5).toNat = 0 then none else some (BitVec.ofNat 16 (dat d 5).toNat) }

/-- The end of a request: KEY_IN and WRAP_IN are cleared (R428), the request is counted, and a refusal raises
KEY.REFUSED (R442). -/
def keyFinish (o : ResOp) (s : State) : KeyDone :=
  let (e, ws, s1) := keyServe (keyReqOf o) s
  let p := o.bank
  let s2 := forEach (List.range 18) (fun i s =>
    s.wr p (regA pKey (if i < 8 then 0x100 + 4 * i else 0x120 + 4 * (i - 8))) 0) s1
  let s3 := s2.inc p (regA pKey 0x068)
  (e, ws, if e = 0 then s3 else (s3.inc p (regA pKey 0x06C)).raise pKey 0 p)

/-! ### Events -/

/-- A write of KEY.CONFIRM (R438): only P0's arms anything. -/
def writeConfirm (t : Tag) (d : Word) (s : State) : State :=
  if tagIsP0 t then { s with key := { s.key with confirm := some (BitVec.ofNat 16 d.toNat, s.beat) } } else s

/-- KEY_CONFIRM. -/
def execKeyConfirm (t : Tag) (code : BitVec 16) (s : State) : Host.Outcome State Fault Refusal :=
  .next (hostWrite t (regA pKey 0x064) (wd code.toNat) (writeConfirm t (wd code.toNat)) s)

/-- MASK_REFRESH: every live key takes a new mask while the entropy source is good (R434). -/
def execMaskRefresh (s : State) : Host.Outcome State Fault Refusal :=
  .next (if s.entropyOk then forEach (s.key.cells.map (·.1)) (fun h s => s.putKey h (s.nodeKey h)) s else s)

/-- ENTROPY_FAIL, R434. -/
def execEntropyFail (s : State) : Host.Outcome State Fault Refusal :=
  .next ((s.wrF 0 (regA pKey 0x040) 10 1 0).raise pKey 3 0)

/-- ENTROPY_RESTORED, R434. -/
def execEntropyRestored (s : State) : Host.Outcome State Fault Refusal := .next (s.wrF 0 (regA pKey 0x040) 10 1 1)

/-- TAMPER, R435: every cell is zeroed and every node unusable; KEEP records stay. -/
def execTamper (s : State) : Host.Outcome State Fault Refusal :=
  let s1 := forEach s.nodes (fun h s => s.setEntF pKey 0 1 h 0 28 3 3) s
  .next (({ s1 with key := { s1.key with cells := [], tampered := true } }).raise pKey 4 0)

/-- MEAS_SEAL: the measurement is sealed, node 0 and the partition roots are derived from it; the first seal of a start
enters SERVICE and restores the KEEP records (R422, R424, R425, R430). -/
def execMeasSeal (keyDig manDig : BitVec 384) (rev : Word) (s : State) : Host.Outcome State Fault Refusal :=
  .next (if s.stage = 2 ∨ s.fuse.lc = 2 ∨ s.key.tampered then s
    else
      let sb := s.fuse.lc.toNat + (if s.sealBlown then 4 else 0) + (s.rdF 0 (regA pKey 0x040) 9 1) * 8
      let m := measChain sb keyDig manDig rev
      let first := s.stage == 0
      let s1 := s.wrWords 0 (regA pKey 0x1C0) (beWords 12 m.toNat)
      let s2 := (s1.enterStage 1 ['M', 'G', '-', 'S', 'V', 'C'] (beBytes 48 m.toNat)).deriveRoots
      if first then s2.restoreKeep else s2)

/-- DEBUG_ACCESS: an access by tag D sets DEBUGGED until the next chip reset (R436); with the seal blown tag D is absent. -/
def execDebugAccess (a : Addr) (s : State) : Host.Outcome State Fault Refusal :=
  .next (if s.sealBlown then s else (s.noteDebug .d).dropHolds (tagNum .d) (a.toNat / 65536))

/-! ### Tables, R441 -/

/-- Read of a KEY table. -/
def keyTableRead (t : Tag) (sel idx : Nat) (s : State) : Nat × List Word :=
  match sel with
  | 1 =>
    if 1024 ≤ idx then (2, [])
    else if !(tagOwns t (s.nodePart idx) || (tagBank t == 0 && decide (1 ≤ idx ∧ idx ≤ 16))) || (tagChecked t && idx == 0) then (4, [])
    else (0, s.entWords pKey 0 1 idx 7)
  | 2 => if 16 ≤ idx then (2, []) else (0, [s.ent pKey 0 2 idx 0])
  | 3 =>
    if 16 ≤ idx then (2, [])
    else if !(tagOwns t idx || tagBank t == 0) then (4, [])
    else (0, [s.gen idx, s.epoch idx])
  | _ => (1, [])

/-- Write of a KEY table: only the quota table is writable, by P0. -/
def keyTableWrite (t : Tag) (sel idx : Nat) (d : List Word) (s : State) : Nat × State :=
  match sel with
  | 1 => if 1024 ≤ idx then (2, s) else (3, s)
  | 2 =>
    if 16 ≤ idx then (2, s)
    else if !tagIsP0 t then (4, s)
    else if 1007 < fld (dat d 0) 0 10 then (3, s)
    else (0, s.setEnt pKey 0 2 idx 0 (wd (fld (dat d 0) 0 10)))
  | 3 => if 16 ≤ idx then (2, s) else (3, s)
  | _ => (1, s)

end Sys2Proof.Machine
end

