-- ==== Sys2Proof/Machine/Lane.lean ====
section
/-!
DEFINITION. Machine/Lane.lean: lanes and port blocks, spec/03_lanes.md. Block b is the LANE page b; lane l is the global
lane number b × 8 + L. A lane's state stands in LN_STATUS and the other registers of its page; what no register shows
is in `LaneRec`.
-/
namespace Sys2Proof.Machine

/-! ### Registers -/

/-- A block register of the LANE page. -/
def laneA (b off : Nat) : Nat := regA (pLane b) off

/-- A per-lane register, R108. -/
def lnA (l off : Nat) : Nat := regA (pLane (l / 8)) (0x100 + l % 8 * 0x80 + off)

/-- A register of the PORT page of a block. -/
def portA (b off : Nat) : Nat := regA (pPort b) off

def State.lane (s : State) (l : Nat) : LaneRec := Tab.get (fun _ => LaneRec.idle) s.lanes l
def State.setLane (s : State) (l : Nat) (r : LaneRec) : State :=
  { s with lanes := Tab.put (fun _ => LaneRec.idle) s.lanes l r }
def State.epvRec (s : State) (b : Nat) : EpvRec := Tab.get (fun _ => EpvRec.idle) s.epv b
def State.setEpv (s : State) (b : Nat) (r : EpvRec) : State :=
  { s with epv := Tab.put (fun _ => EpvRec.idle) s.epv b r }

/-- BLK_CFG fields, R77 and R107. -/
def State.blkMode (s : State) (b : Nat) : Nat := s.rdF 0 (laneA b 0x040) 0 3
def State.maxStep (s : State) (b : Nat) : Nat := s.rdF 0 (laneA b 0x040) 4 2
def State.autoRetrain (s : State) (b : Nat) : Bool := bitOf (s.rd 0 (laneA b 0x040)) 8
def State.trainMan (s : State) (b : Nat) : Bool := bitOf (s.rd 0 (laneA b 0x040)) 9
def State.shedEn (s : State) (b : Nat) : Bool := bitOf (s.rd 0 (laneA b 0x040)) 10
def State.injArm (s : State) (b : Nat) : Bool := bitOf (s.rd 0 (laneA b 0x040)) 11

/-- BLK_STATUS.SEQ_STATE: 0 NOT_LOADED, 1 IDLE, 2 BRINGUP, 3 RUNNING, 4 FAULT. -/
def State.seqState (s : State) (b : Nat) : Nat := s.rdF 0 (laneA b 0x048) 0 4

/-- LN_STATUS fields. -/
def State.lnState (s : State) (l : Nat) : Nat := s.rdF 0 (lnA l 0x04) 0 4
def State.lnStep (s : State) (l : Nat) : Nat := s.rdF 0 (lnA l 0x04) 4 2
def State.mission (s : State) (l : Nat) : Bool := bitOf (s.rd 0 (lnA l 0x04)) 11
def State.attempt (s : State) (l : Nat) : Nat := s.rdF 0 (lnA l 0x04) 12 2
def State.farrierHeld (s : State) (l : Nat) : Bool := bitOf (s.rd 0 (lnA l 0x04)) 14
def State.lnEn (s : State) (l : Nat) : Bool := bitOf (s.rd 0 (lnA l 0x00)) 0

/-- The lanes of a block. -/
def blockLanes (b : Nat) : List Nat := (List.range 8).map fun i => b * 8 + i

/-- SEQ_STATE and the READY, SHED (lanes shed and not yet READY) and FAILED masks of BLK_STATUS follow the lanes. BRINGUP while a
lane waits, trains, steps up or holds; RUNNING while another lane is not OFF; IDLE with every lane OFF (log entry 23). -/
def State.syncBlk (s : State) (b : Nat) : State :=
  let st := s.rd 0 (laneA b 0x048)
  let ls := blockLanes b
  let mask (f : Nat → Bool) : Nat := ls.foldl (fun m l => if f l then m + 2 ^ (l % 8) else m) 0
  let seq := fld st 0 4
  let busy := ls.any fun l => decide (1 ≤ s.lnState l ∧ s.lnState l ≤ 4)
  let off := ls.all fun l => s.lnState l == 0
  let seq' := if seq = 0 ∨ seq = 4 then seq else if off then 1 else if busy then 2 else 3
  s.wr 0 (laneA b 0x048) (setFld (setFld (setFld (setFld st 0 4 seq') 8 8 (mask fun l => s.lnState l == 5)) 16 8
    (mask fun l => bitOf st (16 + l % 8) && s.lnState l != 5)) 24 8 (mask fun l => s.lnState l == 7))

/-- Move a lane to a state of R91. A lane that leaves READY leaves MISSION and the farrier test (R487). -/
def State.setLnState (s : State) (l st : Nat) : State :=
  let w := setFld (s.rd 0 (lnA l 0x04)) 0 4 st
  let w' := if st = 5 then w else setFld (setFld w 11 1 0) 14 1 0
  (s.wr 0 (lnA l 0x04) w').syncBlk (l / 8)

/-- Set a bit of LANE.EVENT and the matching PAGE_FAULT bit (R108). -/
def State.laneEvent (s : State) (b ev fault : Nat) : State :=
  (s.wrF 0 (laneA b 0x04C) ev 1 1).faultOwned (pLane b) fault

/-- A refused write of the LANE page: PAGE_FAULT.CFG (R108). -/
def State.laneCfg (s : State) (b : Nat) : State := s.faultOwned (pLane b) 4

/-! ### Transmitter coefficients, R80, R81, R109 -/

/-- Six coefficients: pre3, pre2, pre1, main, post1, post2. -/
abbrev Coefs := List Int

/-- The coefficients that LN_TX_COEF holds. -/
def coefsOf (v : Nat) : Coefs :=
  [sext 8 v, sext 8 (v / 2 ^ 8), sext 8 (v / 2 ^ 16), sext 8 (v / 2 ^ 24), sext 8 (v / 2 ^ 32), sext 8 (v / 2 ^ 40)]

/-- LN_TX_COEF of six coefficients. -/
def coefBits (c : Coefs) : Nat :=
  (List.range 6).foldl (fun v i => v + toBits 8 (c.getD i 0) * 2 ^ (8 * i)) 0

/-- Ranges of R80. -/
def tapMin (i : Nat) : Int := [-6, -12, -24, 24, -24, -12].getD i 0
def tapMax (i : Nat) : Int := [6, 12, 0, 63, 0, 12].getD i 0

/-- Sum and eye constraints of R80. -/
def coefSums (c : Coefs) : Bool :=
  let others := ((List.range 6).filter (· ≠ 3)).foldl (fun v i => v + (c.getD i 0).natAbs) 0
  decide (others + (c.getD 3 0).natAbs ≤ 63 ∧ others + 16 ≤ (c.getD 3 0).natAbs)

/-- The whole of R80. -/
def coefsOk (c : Coefs) : Bool :=
  (List.range 6).all (fun i => decide (tapMin i ≤ c.getD i 0 ∧ c.getD i 0 ≤ tapMax i)) && coefSums c

/-- Presets of R81. -/
def presetCoefs (n : Nat) : Coefs :=
  match n with
  | 2 => [0, 0, -8, 55, 0, 0]
  | 3 => [0, 0, -8, 47, -8, 0]
  | 4 => [0, 2, -12, 41, -6, 2]
  | _ => [0, 0, 0, 63, 0, 0]

/-- Coefficients in use. -/
def State.coefs (s : State) (l : Nat) : Coefs := coefsOf (s.rd64 0 (lnA l 0x08))
def State.setCoefs (s : State) (l : Nat) (c : Coefs) : State := s.wr64 0 (lnA l 0x08) (coefBits c)

/-! ### Training frames, R85 -/

/-- CRC-16 of polynomial 0x1021, initial value 0xFFFF, over the top n bits still to come of a 32-bit word. -/
def crc16Bits (w : Nat) : Nat → Nat → Nat
  | 0, crc => crc
  | n + 1, crc =>
    let top := (crc / 2 ^ 15 + w / 2 ^ n) % 2
    let sh := crc * 2 % 65536
    crc16Bits w n (if top = 1 then Nat.xor sh 0x1021 else sh)

/-- The 48-bit field that carries a word: the word, then its CRC. -/
def fieldOf (w : Word) : BitVec 48 := BitVec.ofNat 48 (w.toNat * 65536 + crc16Bits w.toNat 32 0xFFFF)

/-- The word of a field whose CRC holds. -/
def fieldWord (f : BitVec 48) : Option Word :=
  let w : Word := BitVec.ofNat 32 (f.toNat / 65536)
  if fieldOf w = f then some w else none

/-- The transmitter's answer to a tap request, R88 and R89: RESULT, and the coefficients after it. -/
def answerTap (c : Coefs) (tap action preset : Nat) : Nat × Coefs :=
  if tap = 8 then (5, presetCoefs preset)
  else
    let i := tap - 1
    let v := c.getD i 0 + (if action = 1 then 1 else -1)
    let c' := c.set i v
    if v < tapMin i then (2, c)
    else if tapMax i < v then (3, c)
    else if coefSums c' then (1, c')
    else (4, c)

/-- Whether a control word carries a request that R85 defines. -/
def isTapRequest (tap action preset : Nat) : Bool :=
  (decide (1 ≤ tap ∧ tap ≤ 6) && (action == 1 || action == 2)) || (tap == 8 && decide (1 ≤ preset ∧ preset ≤ 4))

/-- A control word and a status word of this end (R85). -/
def ctlWord (tap action preset cmd maxStep lane block : Nat) : Word :=
  wd (tap + action * 16 + preset * 64 + cmd * 512 + maxStep * 2048 + lane * 8192 + block * 65536)
def stsWord (echo result step : Nat) (done : Bool) : Word :=
  wd (echo + result * 16 + step * 128 + (if done then 512 else 0))

/-- The answering side of R87 for a control word received: a request is counted and answered once, its RESULT stands until
the request returns to ACTION 0 with TAP 0. -/
def answerSide (l : Nat) (w : Word) (s : State) : State :=
  let tap := fld w 0 4
  let action := fld w 4 2
  let preset := fld w 6 3
  let r := s.lane l
  if tap = 0 ∧ action = 0 then s.setLane l { r with echo := 0, result := 0 }
  else if isTapRequest tap action preset ∧ r.result = 0 then
    let (res, c) := answerTap (s.coefs l) tap action preset
    let s1 := s.wrF 0 (lnA l 0x54) 16 16 (satAdd 16 (s.rdF 0 (lnA l 0x54) 16 16) 1)
    ((if res = 1 ∨ res = 5 then s1.setCoefs l c else s1)).setLane l { r with echo := tap, result := res }
  else s

/-- The requesting side of R87 for a status word received. -/
def requestSide (l : Nat) (w : Word) (s : State) : State :=
  let echo := fld w 0 4
  let res := fld w 4 3
  let r := s.lane l
  match r.req with
  | some q =>
    if q.answered then if res = 0 then s.setLane l { r with req := none } else s
    else if echo = q.tap ∧ res ≠ 0 then s.setLane l { r with req := some { q with answered := true } }
    else s
  | none => s

/-- Whether the receiver's current step is ready, R92. -/
def stepReady (step clean snr : Nat) : Bool :=
  if step = 0 then decide (1024 ≤ clean) else if step = 3 then decide (191 ≤ snr) else decide (221 ≤ snr)

/-- The receiver may begin a tap request while its step is not ready. Which one it makes is its own choice: a free value
(log entry 1). LN_TAPREQ.SENT counts it. -/
def newRequest (l : Nat) (s : State) : State :=
  let (v, s1) := s.fresh 9
  let tap := v % 16
  let action := v / 16 % 4
  let preset := v / 64 % 8
  if isTapRequest tap action preset then
    (s1.wrF 0 (lnA l 0x54) 0 16 (satAdd 16 (s1.rdF 0 (lnA l 0x54) 0 16) 1)).setLane l
      { s1.lane l with req := some ⟨tap, action, preset, false⟩ }
  else s1

/-- Whether the lane's pattern generator replaces its data (R103). -/
def State.genOn (s : State) (l : Nat) : Bool := bitOf (s.rd 0 (lnA l 0x14)) 0

/-- The training frame that this end sends (R85): its request until that is answered, its STEPCMD, and its answer. Frames are counted
one for each that arrives: DESIGN CHOICE, log entry 155. -/
def State.sendTraining (s : State) (l : Nat) : State :=
  let r := s.lane l
  let (tap, action, preset) := match r.req with
    | some q => if q.answered then (0, 0, 0) else (q.tap, q.action, q.preset)
    | none => (0, 0, 0)
  if s.genOn l then s
  else s.emit (.trainFrame l (s.lnStep l)
    (fieldOf (ctlWord tap action preset r.cmd (s.maxStep (l / 8)) (l % 8) (l / 8 % 64)))
    (fieldOf (stsWord r.echo r.result (s.lnStep l) r.rxDone)))

/-- The record of an attempt, LN_TRAIN_LOG: RESULT, step reached and duration. -/
def State.logAttempt (s : State) (l res : Nat) : State :=
  let w := s.rd 0 (lnA l 0x50)
  let ms := min ((s.beat - (s.lane l).start) * 1000 / beatsPerSecond) 65535
  s.wr 0 (lnA l 0x50) (setFld (setFld (setFld w 0 4 res) 4 2 (s.lnStep l)) 16 16 ms)

/-- What a lane keeps when its bring-up starts anew: what is no part of an attempt. -/
def LaneRec.again (r : LaneRec) : LaneRec :=
  { LaneRec.idle with
    pendCoef := r.pendCoef, rateInj := r.rateInj, snrAt := r.snrAt, shedAt := r.shedAt, injUntil := r.injUntil, checking := r.checking }

/-- Whether a lane trains with the frames of R85. -/
def State.framesTrain (s : State) (b : Nat) : Bool := s.blkMode b == 1 && !s.trainMan b

/-- The coefficients at the start of a step: preset 1 where training frames are used (R89). -/
def State.startCoefs (s : State) (l : Nat) : State :=
  if s.framesTrain (l / 8) then s.setCoefs l (presetCoefs 1) else s

/-- A new attempt: WAIT_SIGNAL with the attempt's number, sending at step 0 or, under TRAIN_MAN in Epvozel link mode, at MAXSTEP (R91,
R95). -/
def State.beginAttempt (s : State) (l n : Nat) (first : Bool) : State :=
  let b := l / 8
  let step := if s.blkMode b = 1 ∧ s.trainMan b then s.maxStep b else 0
  let s1 := (s.wr 0 (lnA l 0x54) 0).wrF 0 (lnA l 0x04) 12 2 n
  ((((s1.wrF 0 (lnA l 0x04) 4 2 step).wrF 0 (lnA l 0x04) 8 2 0).setLane l
    { (s.lane l).again with first := first, agreed := s.maxStep b }).startCoefs l).setLnState l 1

/-- An attempt fails (R91): the next attempt, or FAILED after the third. -/
def State.failAttempt (s : State) (l res : Nat) : State :=
  let b := l / 8
  let n := s.attempt l
  let s1 := (s.logAttempt l res).laneEvent b (8 + l % 8) 1
  if n < 3 then s1.beginAttempt l (n + 1) (s.lane l).first else s1.setLnState l 7

/-- Training is done at the agreed step: READY at a first bring-up, else HOLD (R91). -/
def State.trained (s : State) (l : Nat) : State :=
  let s1 := s.logAttempt l 1
  s1.setLnState l (if (s.lane l).first then 5 else 4)

/-- The step handshake of R93 for the STEPCMD received, at a lane whose step is ready or not. -/
def stepSide (l : Nat) (recv : Nat) (snr : Nat) (s : State) : State :=
  let r := s.lane l
  let step := s.lnStep l
  let ready := stepReady step r.clean snr && r.req.isNone
  let final := if step = r.agreed then 3 else 2
  let cmd :=
    if !ready then 0
    else if step = r.agreed then 3
    else if r.cmd ≠ 0 ∧ (recv = 1 ∨ recv = 2) then 2
    else 1
  let sent := if cmd = final then r.sentFinal + 1 else 0
  let got := if recv = final then r.recvFinal + 1 else 0
  let s1 := (s.setLane l { r with
    cmd := cmd, sentFinal := sent, recvFinal := got, rxDone := r.rxDone || stepReady step r.clean snr }).sendTraining l
  if 16 ≤ sent ∧ 16 ≤ got then
    if step < r.agreed then (s1.startCoefs l).setLnState l 3 else s1.trained l
  else s1

/-- The 10 µs window of a beat: SNR_EST is updated in each (R84). -/
def State.snrWindow (s : State) : Nat := s.beat / 3456

/-- SNR_EST takes a reported value. -/
def State.noteSnr (s : State) (l snr : Nat) : State :=
  (s.wrF 0 (lnA l 0x10) 0 16 snr).setLane l { s.lane l with snrAt := s.snrWindow }

/-- LN_RX_STAT as it reads (R83, R84): while the receiver adapts, ADAPT reads 1, CTLE is measured, and so is SNR_EST in a window in which
nothing has reported it; otherwise it holds the latest values (log entry 156). -/
def State.rxStat (s : State) (l : Nat) : Word :=
  let w := s.rd 0 (lnA l 0x10)
  let st := s.lnState l
  if st = 2 ∨ st = 4 ∨ st = 5 then
    let w1 := if (s.lane l).snrAt = s.snrWindow then w else setFld w 0 16 (Config.snrEst l s.snrWindow).toNat
    setFld (setFld w1 16 5 (Config.ctle l s.beat).toNat) 24 1 1
  else w

/-- The agreed step (R94): the lower of the two MAXSTEP. A MAXSTEP of 0 or 1 names no step that carries payload (R79, R107), and is
ignored: DESIGN CHOICE, log entry 157. -/
def agreedStep (own recv old : Nat) : Nat := if recv < 2 then old else min own recv

/-- TRAINING_FRAME: a frame arrives on an Epvozel lane in TRAIN (R85 to R93). A field whose CRC fails is ignored, and
STEPCMD is ignored beside a request (R90). A control field that is ignored brings no STEPCMD, so it breaks a run of 16 frames of R93:
DESIGN CHOICE, log entry 158. -/
def execTrainingFrame (l : Fin 384) (ctl sts : BitVec 48) (clean : Bool) (snr : BitVec 16) (s : State) :
    Host.Outcome State Fault Refusal :=
  let b := l.val / 8
  .next (if s.lnState l ≠ 2 ∨ s.blkMode b ≠ 1 ∨ s.trainMan b then s
    else
      let s0 := s.noteSnr l snr.toNat
      let r := s0.lane l
      let s1 := s0.setLane l { r with clean := if clean then r.clean + 1 else 0 }
      let (s2, recv) := match fieldWord ctl with
        | none => (s1, 0)
        | some w =>
          let lg := setFld (setFld (s1.rd 0 (lnA l 0x50)) 6 3 (fld w 13 3)) 9 6 (fld w 16 6)
          let s2 := s1.wr 0 (lnA l 0x50) lg
          let s3 := if s2.lnStep l = 0 then s2.setLane l { s2.lane l with agreed := agreedStep (s.maxStep b) (fld w 11 2) (s2.lane l).agreed } else s2
          (answerSide l w s3, if fld w 0 6 = 0 then fld w 9 2 else 0)
      let s3 := match fieldWord sts with
        | none => s2
        | some w => requestSide l w s2
      let s4 := if (s3.lane l).req.isNone && !stepReady (s3.lnStep l) (s3.lane l).clean snr.toNat then newRequest l s3 else s3
      stepSide l recv snr.toNat s4)

/-- Coefficients of an Ethernet lane with every tap that its clause's training protocol does not name at 0 (R82). -/
def heldTaps (mode : Nat) (c : Coefs) : Coefs :=
  (List.range 6).map fun i => if i = 3 ∨ (Config.clauseTaps mode).getLsbD i then c.getD i 0 else 0

/-- The coefficients that the clause's training gives an Ethernet lane: a free value within the clause and R80; taps that the clause
does not name are held at 0 (R82; log entry 159). -/
def State.clauseCoefs (s : State) (l : Nat) : State :=
  let mode := s.blkMode (l / 8)
  let (v, s1) := s.fresh 48
  let c := heldTaps mode (coefsOf v)
  s1.setCoefs l (if coefsOk c && Config.clauseCoefOk mode (BitVec.ofNat 48 (coefBits c)) then c else heldTaps mode (s.coefs l))

/-- SIGNAL_DETECT: signal held for 10 µs moves a lane from WAIT_SIGNAL to TRAIN (R91); with TRAIN_MAN no frame is sent
and the lane waits for its receiver (R95). -/
def execSignalDetect (l : Fin 384) (s : State) : Host.Outcome State Fault Refusal :=
  .next (if s.lnState l = 1 then
      let s1 := (s.wrF 0 (lnA l 0x04) 9 1 1).setLane l { s.lane l with start := s.beat }
      let s2 := if s.trainMan (l / 8) then s1 else if s.blkMode (l / 8) = 1 then s1.setCoefs l (presetCoefs 1) else s1.clauseCoefs l
      s2.setLnState l 2
    else s)

/-- TAP_TIMEOUT: a request has had no answer for 1 ms (R88). -/
def execTapTimeout (l : Fin 384) (s : State) : Host.Outcome State Fault Refusal :=
  .next (match (s.lane l).req with
    | some q => if s.lnState l = 2 ∧ !q.answered then s.failAttempt l 3 else s
    | none => s)

/-- STEP_UP_LOCK: the partner is locked at the new step (R91); every step starts with preset 1 (R89). -/
def execStepUpLock (l : Fin 384) (s : State) : Host.Outcome State Fault Refusal :=
  .next (if s.lnState l = 3 then
      let r := s.lane l
      let s1 := (s.wrF 0 (lnA l 0x04) 4 2 (s.lnStep l + 1)).wrF 0 (lnA l 0x04) 8 1 1
      ((s1.setCoefs l (presetCoefs 1)).setLane l
        { r with clean := 0, cmd := 0, sentFinal := 0, recvFinal := 0, req := none, echo := 0, result := 0, rxDone := false }).setLnState l 2
    else s)

/-- 70 ms in beats: the limit of a whole attempt (R94). -/
def attemptLimit : Nat := 24192000

/-- TRAIN_TIMEOUT: a phase of R94 took too long. A STEP_UP over 100 µs, within the limit of the whole attempt, is RELOCK as
LN_TRAIN_LOG's table has it; R94's own text has TIMEOUT (DESIGN CHOICE, log entry 160). -/
def execTrainTimeout (l : Fin 384) (s : State) : Host.Outcome State Fault Refusal :=
  .next (if s.lnState l = 2 then s.failAttempt l 4
    else if s.lnState l = 3 then s.failAttempt l (if attemptLimit < s.beat - (s.lane l).start then 4 else 7)
    else s)

/-- LANE_HOLD_EXPIRE: the clean hold after a retrain is over (R91). -/
def execLaneHoldExpire (l : Fin 384) (s : State) : Host.Outcome State Fault Refusal :=
  .next (if s.lnState l = 4 then s.setLnState l 5 else s)

/-! ### Loss of lock and shedding, R97 to R101 -/

/-- PORT.BLK_CFG.TYPE and ECONF. -/
def State.portType (s : State) (b : Nat) : Nat := s.rdF 0 (portA b 0x040) 0 2
def State.econf (s : State) (b : Nat) : Nat := s.rdF 0 (portA b 0x040) 4 3

/-- Lanes per Ethernet port, R113. -/
def lanesPerPort (econf : Nat) : Nat := if econf = 0 then 8 else if econf = 1 then 4 else if econf = 2 then 2 else 1

/-- The Ethernet port of a lane, and the lanes of a port. -/
def State.portOfLane (s : State) (l : Nat) : Nat := l % 8 / lanesPerPort (s.econf (l / 8))
def State.portLanes (s : State) (b p : Nat) : List Nat :=
  let k := lanesPerPort (s.econf b)
  ((List.range k).map fun i => b * 8 + p * k + i).filter fun l => decide (l < b * 8 + 8)

/-- ETH_STATUS.LINK of a port. -/
def State.ethUp (s : State) (b p : Nat) : Bool := bitOf (s.rd 0 (portA b 0x058)) p

/-- A counter of the PORT page, per port or per Epvozel lane (R136). -/
def portCtr (b i off : Nat) : Nat := portA b (0x100 + i * 0x40 + off)

/-- An Ethernet port's link goes down (R99): LINK and the LPI bits clear, its lanes leave MISSION, PORT.LINK. -/
def State.ethDown (s : State) (b p : Nat) : State :=
  if s.ethUp b p then
    let w := s.rd 0 (portA b 0x058)
    let s1 := s.wr 0 (portA b 0x058) (setFld (setFld (setFld w p 1 0) (16 + p) 1 0) (24 + p) 1 0)
    let s2 := forEach (s.portLanes b p) (fun l s => s.wrF 0 (lnA l 0x04) 11 1 0) s1
    (s2.incSat 0 (portCtr b p 0x28) 1).raiseOwned (pPort b) 0
  else s

/-- A lane's receive direction leaves service (R98, R130, R136): RX_LANES, the SHED mask, PORT.SHED and the counter of
lane-shed events. The transmit direction follows at the next frame. -/
def State.epvShed (s : State) (l : Nat) : State :=
  let b := l / 8
  let r := s.epvRec b
  let s1 := (((s.wrF 0 (portA b 0x064) (8 + l % 8) 1 0).wrF 0 (laneA b 0x048) (16 + l % 8) 1 1).wrF 0 (lnA l 0x04) 11 1 0).setEpv b
    { r with shed := r.shed ||| BitVec.ofNat 8 (2 ^ (l % 8)) }
  (s1.incSat 0 (portCtr b (l % 8) 0x28) 1).raiseOwned (pPort b) 1

/-- The whole Epvozel link goes down: every lane leaves MISSION and service, LINK clears with PORT.LINK, and the next frame drops every
stream at one EPOCH (R132, R134). -/
def State.epvLinkDown (s : State) (b : Nat) : State :=
  let w := s.rd 0 (portA b 0x064)
  let s1 := (s.wr 0 (portA b 0x064) (setFld (setFld (setFld w 0 8 0) 8 8 0) 17 1 0)).setEpv b { s.epvRec b with down := true }
  let s2 := forEach (blockLanes b) (fun l s => s.wrF 0 (lnA l 0x04) 11 1 0) s1
  if bitOf w 17 then s2.raiseOwned (pPort b) 0 else s2

/-- With SHED_EN = 0 a lost lane takes the whole Epvozel link down (R98): the lane leaves service as a shed lane does (R136), and the
link stays down until the lane has rejoined. -/
def State.epvDown (s : State) (l : Nat) : State := (s.epvShed l).epvLinkDown (l / 8)

/-- Port framing learns that a lane in service is gone (R97 to R100). -/
def State.framingLost (s : State) (l : Nat) : State :=
  let b := l / 8
  if s.portType b = 1 then if s.shedEn b then s.epvShed l else s.epvDown l
  else if s.portType b = 2 then s.ethDown b (s.portOfLane l)
  else s

/-- The lanes that retrain with a lane: those of its Ethernet port that are not OFF, all together (R99), or the lane alone. -/
def State.trainsWith (s : State) (l : Nat) : List Nat :=
  if s.portType (l / 8) = 2 then (s.portLanes (l / 8) (s.portOfLane l)).filter fun m => s.lnState m != 0 else [l]

/-- A retrain begins (R91, R99). -/
def State.beginRetrain (s : State) (l : Nat) : State :=
  forEach (s.trainsWith l) (fun m s => s.beginAttempt m 1 false) s

/-- A lane in READY is lost: LOST, and with AUTO_RETRAIN the first attempt of a retrain (R91). -/
def State.laneLost (s : State) (l : Nat) : State :=
  let s1 := (s.framingLost l).setLnState l 6
  let s2 := s1.wrF 0 (lnA l 0x04) 8 1 0
  if s.autoRetrain (l / 8) then s2.beginRetrain l else s2

/-- The loss-of-lock report of R97. -/
def State.reportLol (s : State) (l : Nat) : State :=
  (s.incSat 0 (lnA l 0x48) 1).laneEvent (l / 8) (l % 8) 0

/-- LOSS_OF_LOCK, R97: a lane in READY is lost; in HOLD the attempt fails (R91); in TRAIN and STEP_UP the loss is reported and the
attempt goes on within its limits (DEDUCED, log entry 162). A lane that a SHED of the same beat has taken out of service is one shed,
with LANE.LOL (R100). -/
def State.lossOfLock (s : State) (l : Nat) : State :=
  let st := s.lnState l
  if st = 5 then (s.reportLol l).laneLost l
  else if st = 4 then (s.reportLol l).failAttempt l 5
  else if st = 2 ∨ st = 3 then (s.reportLol l).wrF 0 (lnA l 0x04) 8 1 0
  else if (s.lane l).shedAt = some s.beat then s.reportLol l
  else s

def execLossOfLock (l : Fin 384) (s : State) : Host.Outcome State Fault Refusal := .next (s.lossOfLock l)

/-- SNR_LOW: SNR_EST has been below LANE.SNR_WARN for 1 ms (R108). -/
def execSnrLow (l : Fin 384) (snr : BitVec 16) (s : State) : Host.Outcome State Fault Refusal :=
  .next (if (s.lnState l = 2 ∨ s.lnState l = 4 ∨ s.lnState l = 5) ∧ snr.toNat < s.rdF 0 (laneA (l / 8) 0x050) 0 16 then
      (s.noteSnr l snr.toNat).laneEvent (l / 8) (16 + l % 8) 2
    else s)

/-- RECEIVER_LOCK: a lane's clock recovery gains lock. A TRAIN_MAN lane goes to READY when its SNR meets the threshold
(R95: the step-3 value in Epvozel mode; in Ethernet modes the event reports the clause's requirement as met); a lane kept
from before SLEEP is READY again (R500). -/
def execReceiverLock (l : Fin 384) (snr : BitVec 16) (s : State) : Host.Outcome State Fault Refusal :=
  let b := l.val / 8
  let s1 := (s.wrF 0 (lnA l 0x04) 8 1 1).noteSnr l snr.toNat
  .next (if s.lnState l = 0 ∨ s.lnState l = 7 then s
    else if (s.lane l).kept then (s1.setLane l { s.lane l with kept := false }).setLnState l 5
    else if s.trainMan b ∧ (s.lnState l = 1 ∨ s.lnState l = 2) ∧ (s.blkMode b ≠ 1 ∨ 191 ≤ snr.toNat) then
      (s1.logAttempt l 1).setLnState l 5
    else s1)

/-- RELOCK_TIMEOUT: a lane that was READY before SLEEP has not relocked and retrains (R500). -/
def execRelockTimeout (l : Fin 384) (s : State) : Host.Outcome State Fault Refusal :=
  .next (if (s.lane l).kept then (s.setLane l { s.lane l with kept := false }).beginAttempt l 1 false else s)

/-! ### Block control, R91, R96, R100, R107 -/

/-- STOP: every lane of the block goes to OFF. -/
def State.laneOff (s : State) (l : Nat) : State :=
  let s1 := if s.mission l then s.framingLost l else s
  let s2 := if decide (1 ≤ s.lnState l ∧ s.lnState l ≤ 4) then s1.logAttempt l 6 else s1
  let s3 := (s2.wrF 0 (lnA l 0x04) 4 2 0).wrF 0 (lnA l 0x04) 8 2 0
  (s3.setLane l (s.lane l).again).setLnState l 0

/-- A shed on request (R100): as a loss of lock under R98, without LANE.LOL. -/
def State.shedLane (s : State) (l : Nat) : State :=
  if s.blkMode (l / 8) = 1 ∧ s.lnState l = 5 then (s.setLane l { s.lane l with shedAt := some s.beat }).laneLost l else s

/-- A retrain on request (R100): an Epvozel lane in MISSION is shed first, in the way of R98; an Ethernet lane in MISSION takes its
whole port; other READY or FAILED lanes start a new attempt. -/
def State.retrainLane (s : State) (l : Nat) : State :=
  if s.lnState l = 5 ∨ s.lnState l = 7 then
    if s.mission l then
      let s1 := s.framingLost l
      (if s.portType (l / 8) = 2 then s1 else s1.setLnState l 6).beginRetrain l
    else s.beginAttempt l 1 false
  else s

/-- START on one lane. A FAILED lane that START brings up again is a first bring-up, and goes to READY: DESIGN CHOICE, log entry 163. -/
def State.startLane (s : State) (l : Nat) : State :=
  if s.lnEn l ∧ (s.lnState l = 0 ∨ s.lnState l = 7) ∧ s.blkMode (l / 8) ≠ 0 then s.beginAttempt l 1 true else s

/-- A write of LANE.BLK_CTRL. STOP wins over START; START while the micro-sequencer is not loaded has no effect and sets
PAGE_FAULT.CFG (R96). START while SEQ_STATE is FAULT, and RETRAIN while it is NOT_LOADED or FAULT, are carried out: DESIGN CHOICE, log
entry 164. -/
def writeBlkCtrl (b : Nat) (d : Word) (s : State) : State :=
  let ls := blockLanes b
  let s1 := forEach (ls.filter fun l => bitOf d (16 + l % 8)) (fun l s => s.shedLane l) s
  let s2 := forEach (ls.filter fun l => bitOf d (8 + l % 8)) (fun l s => s.retrainLane l) s1
  if bitOf d 1 then forEach ls (fun l s => s.laneOff l) s2
  else if bitOf d 0 then if s.seqState b = 0 then s2.laneCfg b else forEach ls (fun l s => s.startLane l) s2
  else s2

/-- LANE_START. -/
def execLaneStart (t : Tag) (b : Fin 48) (s : State) : Host.Outcome State Fault Refusal :=
  .next (hostWrite t (laneA b 0x044) 1 (writeBlkCtrl b 1) s)

/-- LANE_STOP. -/
def execLaneStop (t : Tag) (b : Fin 48) (s : State) : Host.Outcome State Fault Refusal :=
  .next (hostWrite t (laneA b 0x044) 2 (writeBlkCtrl b 2) s)

/-- LANE_RETRAIN. -/
def execLaneRetrain (t : Tag) (b : Fin 48) (mask : BitVec 8) (s : State) : Host.Outcome State Fault Refusal :=
  let d := wd (mask.toNat * 256)
  .next (hostWrite t (laneA b 0x044) d (writeBlkCtrl b d) s)

/-- LANE_SHED. -/
def execLaneShed (t : Tag) (b : Fin 48) (mask : BitVec 8) (s : State) : Host.Outcome State Fault Refusal :=
  let d := wd (mask.toNat * 65536)
  .next (hostWrite t (laneA b 0x044) d (writeBlkCtrl b d) s)

/-- A write of LANE.BLK_CFG (R107). MODE, MAXSTEP, TRAIN_MAN and SHED_EN change only while the micro-sequencer is IDLE or
NOT_LOADED; a write that would change one at another time, or that holds a reserved value, has no effect. AUTO_RETRAIN = 1 retrains the
lanes that are LOST (R91). -/
def writeBlkCfg (b : Nat) (d : Word) (s : State) : State :=
  let a := laneA b 0x040
  let cur := s.rd 0 a
  let guarded (w : Word) : Nat × Nat × Nat × Nat := (fld w 0 3, fld w 4 2, fld w 9 1, fld w 10 1)
  if s.pageLocked (pLane b) then s
  else if 5 ≤ fld d 0 3 ∨ fld d 4 2 < 2 then s.laneCfg b
  else if guarded d ≠ guarded cur ∧ s.seqState b ≠ 0 ∧ s.seqState b ≠ 1 then s.laneCfg b
  else
    let s1 := s.wr 0 a (wd (Nat.land d.toNat 0xF37))
    if fld d 0 3 ≠ fld cur 0 3 then forEach (blockLanes b) (fun l s => s.laneOff l) s1
    else if bitOf d 8 then forEach (blockLanes b) (fun l s => if s.lnState l = 6 then s.beginRetrain l else s) s1
    else s1

/-- PORT.BLK_CFG and LANE.BLK_CFG agree (R112). -/
def modesAgree (type econf mode : Nat) : Bool :=
  match type with
  | 1 => mode == 1
  | 2 => if econf ≤ 3 then mode == 2 else if econf = 4 then mode == 3 else mode == 4
  | _ => true

/-- While the two disagree, PORT.EVENT.CFG is set (R112). -/
def State.checkAgree (s : State) (b : Nat) : State :=
  if modesAgree (s.portType b) (s.econf b) (s.blkMode b) then s else s.raiseOwned (pPort b) 8

/-- LANE_BLK_CFG_WRITE. -/
def execLaneBlkCfgWrite (t : Tag) (b : Fin 48) (d : Word) (s : State) : Host.Outcome State Fault Refusal :=
  .next (hostWrite t (laneA b 0x040) d (fun s => (writeBlkCfg b d s).checkAgree b) s)

/-- A write of LN_CFG (R101, R110). EN = 0 sends the lane to OFF, shedding it or taking its link down first; TXPOL, RXPOL
and LOOP change only while the lane is not in MISSION. -/
def writeLnCfg (l : Nat) (d : Word) (s : State) : State :=
  let a := lnA l 0x00
  let cur := s.rd 0 a
  let b := l / 8
  if s.pageLocked (pLane b) then s
  else if fld d 4 2 = 3 then s.laneCfg b
  else if s.mission l ∧ (fld d 1 2 ≠ fld cur 1 2 ∨ fld d 4 2 ≠ fld cur 4 2) then s.laneCfg b
  else
    let s1 := s.wr 0 a (wd (Nat.land d.toNat 0x37))
    if bitOf cur 0 && !bitOf d 0 then s1.laneOff l else s1

/-- LANE_DISABLE: LN_CFG.EN is cleared, the other fields as they read. -/
def execLaneDisable (t : Tag) (l : Fin 384) (s : State) : Host.Outcome State Fault Refusal :=
  let d := setBit (s.rd 0 (lnA l 0x00)) 0 false
  .next (hostWrite t (lnA l 0x00) d (writeLnCfg l d) s)

/-- SEQ_LOADED: the load, or reload after a fault, of a block's micro-sequencer completes (R96). -/
def execSeqLoaded (b : Fin 48) (s : State) : Host.Outcome State Fault Refusal :=
  .next (if s.seqState b = 0 ∨ s.seqState b = 4 then
      ((s.wrF 0 (laneA b 0x048) 0 4 1).wrF 0 (laneA b 0x014) 0 1 1).syncBlk b
    else s)

/-- SEQ_FAULT: SEQ_STATE FAULT, LANE.SEQ, and every lane that is not READY goes to FAILED (R96). -/
def execSeqFault (b : Fin 48) (s : State) : Host.Outcome State Fault Refusal :=
  let s1 := (s.wrF 0 (laneA b 0x048) 0 4 4).laneEvent b 24 3
  .next (forEach ((blockLanes b).filter fun l => s.lnState l != 5) (fun l s => s.setLnState l 7) s1)

/-! ### Test patterns, R102 to R106 -/

/-- Whether a mode supports a pattern, R102. -/
def patternOk (mode pat : Nat) : Bool := decide (pat ≤ 10) && !(mode == 4 && decide (6 ≤ pat ∧ pat ≤ 8))

/-- Whether a lane sends PAM4, by line mode and Epvozel step (R77, R79). -/
def pam4 (mode step : Nat) : Bool := mode == 2 || mode == 3 || (mode == 1 && step != 0)

/-- Bit n of a pattern: the user pattern repeats LN_USER, bit 63 first (R102). -/
def patternBit (pat user n : Nat) : Bool := if pat = 10 then user / 2 ^ (63 - n % 64) % 2 == 1 else Config.testPattern pat n

/-- Level of two bits under Gray coding (R77). -/
def grayLevel (hi lo : Bool) : Nat := if hi then (if lo then 2 else 3) else (if lo then 1 else 0)

/-- Symbol n of a pattern: a level of 0 to 3, or 0 and 1 in NRZ. The square wave is 16 symbols at the highest level, then 16 at the
lowest (R102); INV inverts every bit. -/
def patternLevel (isPam inv : Bool) (pat user n : Nat) : Nat :=
  let top := if isPam then 3 else 1
  let v :=
    if pat = 9 then (if n % 32 < 16 then top else 0)
    else if isPam then grayLevel (patternBit pat user (2 * n)) (patternBit pat user (2 * n + 1))
    else if patternBit pat user n then 1 else 0
  if inv then top - v else v

/-- The generator's first 64 symbols, as they replace the lane's data from the next symbol (R103). TXPOL inverts the signal. -/
def State.genLevels (s : State) (l : Nat) : List Nat :=
  let g := s.rd 0 (lnA l 0x14)
  let isPam := pam4 (s.blkMode (l / 8)) (s.lnStep l)
  (List.range 64).map fun n =>
    patternLevel isPam (bitOf g 8 != bitOf (s.rd 0 (lnA l 0x00)) 1) (fld g 4 4) (s.rd64 0 (lnA l 0x20)) n

/-- A write of LN_PRBS_GEN (R102, R103, R110). -/
def writePrbsGen (l : Nat) (d : Word) (s : State) : State :=
  let b := l / 8
  if s.farrierHeld l || (bitOf d 0 && s.mission l) || !patternOk (s.blkMode b) (fld d 4 4) then s.laneCfg b
  else
    let s1 := s.wr 0 (lnA l 0x14) (wd (Nat.land d.toNat 0x1F1))
    if bitOf d 0 then s1.emit (.pattern l (fld d 4 4) (s1.genLevels l)) else s1

/-- PRBS_GEN_WRITE. -/
def execPrbsGenWrite (t : Tag) (l : Fin 384) (d : Word) (s : State) : Host.Outcome State Fault Refusal :=
  .next (hostWrite t (lnA l 0x14) d (writePrbsGen l d) s)

/-- CHK_LOCK of a lane. -/
def State.setChk (s : State) (l : Nat) (on : Bool) : State :=
  (s.wrF 0 (lnA l 0x04) 10 1 (if on then 1 else 0)).setLane l { s.lane l with checking := on }

/-- A write of LN_PRBS_CHK (R102, R110). The checker seeds itself anew after every write that is accepted, without an error event:
DESIGN CHOICE, log entry 165. -/
def writePrbsChk (l : Nat) (d : Word) (s : State) : State :=
  let b := l / 8
  if s.farrierHeld l || !patternOk (s.blkMode b) (fld d 4 4) then s.laneCfg b
  else (s.wr 0 (lnA l 0x18) (wd (Nat.land d.toNat 0x3F1))).setChk l false

/-- CHECKER_LOCK: 64 consecutive correct bits (R104). -/
def execCheckerLock (l : Fin 384) (s : State) : Host.Outcome State Fault Refusal :=
  .next (if bitOf (s.rd 0 (lnA l 0x18)) 0 then s.setChk l true else s)

/-- CHECKER_UNLOCK: the checker loses lock, one error event in LN_ERRS (R104). -/
def execCheckerUnlock (l : Fin 384) (s : State) : Host.Outcome State Fault Refusal :=
  .next (if bitOf (s.rd 0 (lnA l 0x04)) 10 then
      (s.setChk l false).wr64 0 (lnA l 0x30) (satAdd 64 (s.rd64 0 (lnA l 0x30)) 1)
    else s)

/-- n bits compared by a lane's checker, if it is locked: LN_BITS counts them and LN_ERRS the errors among them, a measured value
(R104). -/
def State.checkBits (s : State) (l n : Nat) : State :=
  if (s.lane l).checking then
    let e := Config.bitErrors l s.beat n % (n + 1)
    (s.wr64 0 (lnA l 0x28) (satAdd 64 (s.rd64 0 (lnA l 0x28)) n)).wr64 0 (lnA l 0x30) (satAdd 64 (s.rd64 0 (lnA l 0x30)) e)
  else s

/-- Line rate of a lane in kbit/s (R77, R79). -/
def State.lineRate (s : State) (l : Nat) : Nat :=
  match s.blkMode (l / 8) with
  | 1 => [17531250, 70125000, 140250000, 280500000].getD (s.lnStep l) 0
  | 2 => 212500000
  | 3 => 106250000
  | 4 => 25781250
  | _ => 0

/-- Bits that a lane's line carries in a beat. -/
def State.beatBits (s : State) (l : Nat) : Nat :=
  s.lineRate l * (s.beat + 1) / 345600 - s.lineRate l * s.beat / 345600

/-- One beat of the checkers with GATE = 0, which compare every bit that a running receiver takes (R103, R104). -/
def State.checkBeat (s : State) : State :=
  forEach ((s.lanes.filter fun e => e.2.checking).map fun e => e.1) (fun l s =>
    if !bitOf (s.rd 0 (lnA l 0x18)) 9 && (s.lnState l == 2 || s.lnState l == 4 || s.lnState l == 5) then s.checkBits l (s.beatBits l)
    else s) s

/-- Beats that n symbols of a lane take. -/
def State.symbolBeats (s : State) (l n : Nat) : Nat :=
  let bits := if pam4 (s.blkMode (l / 8)) (s.lnStep l) then 2 * n else n
  cdiv (bits * 345600) (max 1 (s.lineRate l))

/-- n consecutive symbols are moved to an adjacent level, on the generator output (TARGET 0) or the mission data (TARGET 1). -/
def State.inject (s : State) (l target n : Nat) : State :=
  (s.emit (.errors l target n)).setLane l { s.lane l with injUntil := s.beat + s.symbolBeats l n }

/-- A write of LN_INJ (R105, R110). MODE 1 single, 2 rate, 3 burst (log entry 24). A RATE_LOG2 outside 10 to 40 refuses the write in
every mode, and a GO while an error is in progress has no effect (log entry 166). -/
def writeInj (l : Nat) (d : Word) (s : State) : State :=
  let b := l / 8
  let mode := fld d 0 2
  let target := fld d 2 1
  if s.farrierHeld l || (bitOf d 2 && !s.injArm b) || !decide (10 ≤ fld d 8 6 ∧ fld d 8 6 ≤ 40) then s.laneCfg b
  else if bitOf d 31 && decide (s.beat < (s.lane l).injUntil) then s
  else
    let s1 := s.wr 0 (lnA l 0x1C) (wd (Nat.land d.toNat 0x00FF3F07))
    let r := s.lane l
    if mode = 0 then s1.setLane l { r with rateInj := false }
    else if !bitOf d 31 then s1
    else if mode = 1 then s1.inject l target 1
    else if mode = 2 then s1.setLane l { r with rateInj := true }
    else if fld d 16 8 = 0 then s1
    else s1.inject l target (fld d 16 8)

/-- INJECT_GO: a write of LN_INJ with GO = 1. -/
def execInjectGo (t : Tag) (l : Fin 384) (d : Word) (s : State) : Host.Outcome State Fault Refusal :=
  let d' := setBit d 31 true
  .next (hostWrite t (lnA l 0x1C) d' (writeInj l d') s)

/-- INJECT_RATE_ERROR: one error of rate mode (R105). -/
def execInjectRateError (l : Fin 384) (s : State) : Host.Outcome State Fault Refusal :=
  .next (if (s.lane l).rateInj then s.emit (.errors l (s.rdF 0 (lnA l 0x1C) 2 1) 1) else s)

/-- The outcome that an eye request gets from its lane's state at the request (R106). -/
def eyeArgs (b : Nat) (s : State) : Nat × List Word :=
  let n := s.rdF 0 (laneA b 0x05C) 0 3
  let st := s.lnState (b * 8 + n)
  if st = 4 ∨ st = 5 then (0, [wd n]) else (1, [wd n])

/-- The result words of an eye measurement (R106): SNR in bits 15:0 of the measurement, the eye openings in 63:32, MANT
and EXP in 79:64. The middle and upper eyes read 0 in NRZ mode. -/
def eyeWords (s : State) (b n : Nat) (meas : BitVec 128) : List Word :=
  let m := meas.toNat
  let eye := wd (m / 2 ^ 32)
  [wd (m % 65536 + n * 65536), if s.blkMode b = 4 then setFld eye 8 16 0 else eye, wd (m / 2 ^ 64 % 65536), 0]

/-- Whether a line mode takes a coefficient set: R80, and in Ethernet modes the clause as well (R82). -/
def coefsFit (mode v : Nat) : Bool :=
  coefsOk (coefsOf v) && (decide (mode < 2) || Config.clauseCoefOk mode (BitVec.ofNat 48 v))

/-- A write of LN_TX_COEF (R109): accepted while TRAIN_MAN = 1 and within R80 and R82; it waits for the next boundary. -/
def writeTxCoef (l : Nat) (v : Nat) (s : State) : State :=
  if s.trainMan (l / 8) && coefsFit (s.blkMode (l / 8)) v then
    s.setLane l { s.lane l with pendCoef := some (BitVec.ofNat 64 (v % 2 ^ 48)) }
  else s.laneCfg (l / 8)

/-- TX_COEF_WRITE: a 64-bit write of the pair. -/
def execTxCoefWrite (t : Tag) (l : Fin 384) (d : BitVec 64) (s : State) : Host.Outcome State Fault Refusal :=
  .next (busWrite ⟨t, tagNum t, lnA l 0x08, 3, false, true, d.toNat⟩ (writeTxCoef l d.toNat) s)

/-- TX_COEF_APPLY: the 8192-symbol boundary (R109). In Ethernet modes taps that the clause does not name stay at 0 (R82). -/
def execTxCoefApply (l : Fin 384) (s : State) : Host.Outcome State Fault Refusal :=
  .next (match (s.lane l).pendCoef with
    | some v =>
      let mode := s.blkMode (l / 8)
      let c := coefsOf v.toNat
      (s.setCoefs l (if mode < 2 then c else heldTaps mode c)).setLane l { s.lane l with pendCoef := none }
    | none => s)

/-- LANE.SNAP: LN_BITS, LN_ERRS and LN_LOL_COUNT of all eight lanes in one cycle (R75). -/
def laneSnap (b : Nat) (s : State) : State :=
  forEach (blockLanes b) (fun l s =>
    ((((s.snap 0 (lnA l 0x28) (lnA l 0x38)).snap 0 (lnA l 0x2C) (lnA l 0x3C)).snap 0 (lnA l 0x30) (lnA l 0x40)).snap 0
      (lnA l 0x34) (lnA l 0x44)).snap 0 (lnA l 0x48) (lnA l 0x4C)) s

end Sys2Proof.Machine
end

