-- ==== Sys2Proof/Machine/Port.lean ====
section
/-!
DEFINITION. Machine/Port.lean: port framing, spec/04_ports.md: Ethernet ports with their MACsec engines, and the Epvozel
link with its stream maps, placement, shedding and rejoining.
-/
namespace Sys2Proof.Machine

/-! ### Stream maps and placement, R125 to R132 -/

/-- A stream of a map bank, R137. -/
structure Stream where
  num : Nat
  packet : Bool
  cls : Nat
  prio : Nat
  lane : Nat
  first : Nat
  words : Nat
  ep : Nat
  deriving DecidableEq, Repr

/-- The stream of a map entry. -/
def streamOf (num : Nat) (d0 d1 : Word) : Stream :=
  { num := num, packet := fld d0 28 3 == 1, cls := fld d0 24 4, prio := fld d0 21 3, lane := fld d0 16 3,
    first := fld d0 0 12, words := fld d1 0 13, ep := fld d1 16 16 }

/-- The valid streams of a map bank: TBL_SEL 1 and 2 transmit, 3 and 4 receive. -/
def State.streams (s : State) (b sel : Nat) : List Stream :=
  (List.range 256).filterMap fun i =>
    let d0 := s.ent (pPort b) 0 sel i 0
    if bitOf d0 31 then some (streamOf i d0 (s.ent (pPort b) 0 sel i 1)) else none

/-- Where a stream stands: its lane and first word, or dropped. -/
structure Placed where
  stream : Nat
  prio : Nat
  words : Nat
  at' : Option (Nat × Nat)
  deriving DecidableEq, Repr

/-- The lowest run of n free words of a lane, given as a list of free runs (first word, length) in rising order. -/
def takeRun (n : Nat) : List (Nat × Nat) → Option (Nat × List (Nat × Nat))
  | [] => none
  | (a, len) :: r =>
    if n ≤ len then some (a, if len = n then r else (a + n, len - n) :: r)
    else (takeRun n r).map fun q => (q.1, (a, len) :: q.2)

/-- Place n words on the first lane, in rising order, that has a run for them. -/
def placeOne (n : Nat) : List (Nat × List (Nat × Nat)) → Option ((Nat × Nat) × List (Nat × List (Nat × Nat)))
  | [] => none
  | (lane, runs) :: r =>
    match takeRun n runs with
    | some (a, runs') => some ((lane, a), (lane, runs') :: r)
    | none => (placeOne n r).map fun q => (q.1, (lane, runs) :: q.2)

/-- The placement loop of R129 over streams in order. -/
def placeAll : List Stream → List (Nat × List (Nat × Nat)) → List Placed
  | [], _ => []
  | st :: r, free =>
    match placeOne st.words free with
    | some (p, free') => ⟨st.num, st.prio, st.words, some p⟩ :: placeAll r free'
    | none => ⟨st.num, st.prio, st.words, none⟩ :: placeAll r free

/-- Insert a stream by PRIO descending, then stream number ascending. -/
def insertStream (x : Stream) : List Stream → List Stream
  | [] => [x]
  | y :: r => if y.prio < x.prio ∨ (y.prio = x.prio ∧ x.num < y.num) then x :: y :: r else y :: insertStream x r

/-- The order of R129. -/
def orderStreams (l : List Stream) : List Stream := l.foldr insertStream []

/-- The placement in force on a set of lanes (R129, R134): the bank's own when the lanes are exactly those the bank uses,
computed otherwise, and every stream dropped when the link is down. -/
def placement (sts : List Stream) (lanes : List Nat) (up : Bool) : List Placed :=
  let used := (List.range 8).filter fun l => sts.any fun st => st.lane == l
  if !up then sts.map fun st => ⟨st.num, st.prio, st.words, none⟩
  else if lanes = used then sts.map fun st => ⟨st.num, st.prio, st.words, some (st.lane, st.first)⟩
  else placeAll (orderStreams sts) (lanes.map fun l => (l, [(0, 4096)]))

/-- Whether the bank's own placement applies. -/
def ownPlacement (sts : List Stream) (lanes : List Nat) : Bool :=
  lanes == (List.range 8).filter fun l => sts.any fun st => st.lane == l

/-- Lanes of a mask, rising. -/
def maskLanes (m : Nat) : List Nat := (List.range 8).filter fun i => m / 2 ^ i % 2 = 1

/-- Mask of lanes. -/
def lanesMask (l : List Nat) : Nat := l.foldl (fun m i => m + 2 ^ i) 0

/-- Write an effective placement table (R137): 5 transmit, 6 receive. STATE 0 configured, 1 moved, 2 dropped. -/
def State.writePlacement (s : State) (b sel : Nat) (sts : List Stream) (ps : List Placed) : State :=
  let clear := forEach (s.entIdxs (pPort b) 0 sel 0 fun w => bitOf w 31)
    (fun i s => s.setEntWords (pPort b) 0 sel i 0 [0, 0]) s
  forEach sts (fun st s =>
    match ps.find? fun p => p.stream == st.num with
    | some ⟨_, _, _, some (lane, first)⟩ =>
      let moved := if lane = st.lane ∧ first = st.first then 0 else 1
      s.setEntWords (pPort b) 0 sel st.num 0
        [wd (2 ^ 31 + (if st.packet then 2 ^ 28 else 0) + st.cls * 2 ^ 24 + st.prio * 2 ^ 21 + moved * 2 ^ 19 + lane * 2 ^ 16 + first),
         wd (st.words + st.ep * 65536)]
    | _ =>
      s.setEntWords (pPort b) 0 sel st.num 0
        [wd (2 ^ 31 + (if st.packet then 2 ^ 28 else 0) + st.cls * 2 ^ 24 + st.prio * 2 ^ 21 + 2 * 2 ^ 19),
         wd (st.words + st.ep * 65536)]) clear

/-- The lanes in service in the transmit direction, R129: READY here at a payload step (R79), not shed, and the partner's RX_OK. -/
def State.txInService (s : State) (b : Nat) : List Nat :=
  let r := s.epvRec b
  (List.range 8).filter fun i =>
    s.lnState (b * 8 + i) == 5 && decide (2 ≤ s.lnStep (b * 8 + i)) && !r.shed.getLsbD i && r.peerOk.getLsbD i &&
      modesAgree (s.portType b) (s.econf b) (s.blkMode b)

/-- MIN_LANES of EPV_CFG; 0 is treated as 1. -/
def State.minLanes (s : State) (b : Nat) : Nat := max 1 (s.rdF 0 (portA b 0x05C) 0 4)

/-- Shed lanes that rejoin at this boundary, R133: READY at both ends, with REJOIN_AUTO or a REJOIN write. -/
def State.rejoining (s : State) (b : Nat) : Nat :=
  let r := s.epvRec b
  if bitOf (s.rd 0 (portA b 0x05C)) 9 || r.rejoin then
    lanesMask ((List.range 8).filter fun i => r.shed.getLsbD i && s.lnState (b * 8 + i) == 5 && r.peerReady.getLsbD i)
  else 0

/-- Whether a block sends Epvozel frames. -/
def State.epvRuns (s : State) (b : Nat) : Bool := s.portType b == 1 && s.blkMode b == 1

/-- Whether the link may carry payload: at least MIN_LANES lanes in service (R134), and with SHED_EN = 0 no lane lost (R98). -/
def State.epvUp (s : State) (b : Nat) : Bool :=
  decide (s.minLanes b ≤ (s.txInService b).length) && (s.shedEn b || (s.epvRec b).shed == 0)

/-- A frame boundary of the transmitter. Losses, rejoins and a MAP_SWAP that fall on it are applied together at one EPOCH (R128 to
R134). -/
def State.epvSend (s : State) (b : Nat) : State :=
  let r0 := s.epvRec b
  let s1 := s.setEpv b { r0 with
    shed := r0.shed &&& ~~~(BitVec.ofNat 8 (s.rejoining b)), rejoin := false, swap := false, frame := r0.frame + 1, down := false }
  let st := s1.rd 0 (portA b 0x064)
  let bank := if r0.swap then 1 - fld st 16 1 else fld st 16 1
  let lanes := s1.txInService b
  let up := s1.epvUp b
  let sent := if up then lanes else []
  let sts := s1.streams b (1 + bank)
  if r0.swap || r0.down || fld st 0 8 != lanesMask sent || bitOf st 17 != up then
    let ps := placement sts lanes up
    let drops := (ps.filter fun p => p.at'.isNone).length
    let st' := setFld (setFld (setFld (setFld st 0 8 (lanesMask sent)) 16 1 bank) 17 1 (if up then 1 else 0)) 24 8
      (fld st 24 8 + 1)
    let s2 := ((s1.wr 0 (portA b 0x064) st').wr 0 (portA b 0x06C)
      (wd (if up && ownPlacement sts lanes then 0 else drops))).writePlacement b 5 sts ps
    let s3 := if up || !bitOf st 17 then s2 else s2.raiseOwned (pPort b) 0
    if drops ≠ 0 then s3.raiseOwned (pPort b) 2 else s3
  else s1

/-! ### Frames, R121 to R125 -/

/-- CRC-32C (Castagnoli), reflected, over bytes. -/
def crc32cByte (crc b : Nat) : Nat :=
  (List.range 8).foldl (fun c _ => if c % 2 = 1 then Nat.xor (c / 2) 0x82F63B78 else c / 2) (Nat.xor crc b)

/-- CRC-32C of words, each from its highest byte on (DESIGN CHOICE, log entry 167). -/
def crc32c (ws : List Dword) : Nat :=
  Nat.xor ((ws.flatMap fun w => (List.range 8).map fun i => w.toNat / 2 ^ (56 - 8 * i) % 256).foldl crc32cByte 0xFFFFFFFF) 0xFFFFFFFF

/-- MARKER, H0. -/
def epvMarker : Dword := 0xE31D5A0C7B6294F8

/-- A header word of a frame. -/
def hword (hdr : List Dword) (i : Nat) : Nat := (hdr.getD i 0).toNat

/-- HCRC holds, R122. -/
def hcrcOk (hdr : List Dword) : Bool := hword hdr 15 % 2 ^ 32 == crc32c ((hdr.drop 1).take 14)

/-- The header of the frame that a lane sends, R122. -/
def State.epvHeader (s : State) (b lane : Nat) : List Dword :=
  let st := s.rd 0 (portA b 0x064)
  let ready := lanesMask ((List.range 8).filter fun i => s.lnState (b * 8 + i) == 5)
  let h1 := (s.epvRec b).frame.toNat + fld st 24 8 * 2 ^ 32 + fld st 16 1 * 2 ^ 40 + lane * 2 ^ 41 + b % 64 * 2 ^ 44
  let h2 := fld st 0 8 + fld st 8 8 * 256 + ready * 65536
  let mid := BitVec.ofNat 64 h1 :: BitVec.ofNat 64 h2 :: List.replicate 12 0
  epvMarker :: mid ++ [BitVec.ofNat 64 (crc32c mid)]

/-- The lanes that send frames: READY, with no pattern generator in the place of their data (R103). Only those in TX_LANES carry
payload. -/
def State.frameLanes (s : State) (b : Nat) : List Nat :=
  (List.range 8).filter fun i => s.lnState (b * 8 + i) == 5 && !s.genOn (b * 8 + i)

/-- Lane and first word of a stream in an effective placement table; none when it is dropped or absent. -/
def State.placedAt (s : State) (b sel num : Nat) : Option (Nat × Nat) :=
  let w := s.ent (pPort b) 0 sel num 0
  if bitOf w 31 && fld w 19 2 != 2 then some (fld w 16 3, fld w 0 12) else none

/-- A frame leaves on every lane that sends, with the allotments placed on it (R122, R125): streams and their words. -/
def State.epvEmit (s : State) (b : Nat) (allots : List (Nat × List Dword)) : State :=
  forEach (s.frameLanes b) (fun lane z =>
    z.emit (.epvFrame b lane (s.epvHeader b lane) (allots.filterMap fun a =>
      match s.placedAt b 5 a.1 with
      | some (l, first) => if l = lane then some (first, a.2) else none
      | none => none))) s

/-- Word i of a frame's payload: of an allotment, or fill (R125). -/
def payloadWord (runs : List (Nat × List Dword)) (fill : Nat → Dword) (i : Nat) : Dword :=
  match runs.find? fun a => decide (a.1 ≤ i ∧ i < a.1 + a.2.length) with
  | some a => a.2.getD (i - a.1) 0
  | none => fill i

/-- The 16-bit symbols of a word, highest first. -/
def symbolsOf (w : Dword) : List (BitVec 16) := (List.range 4).map fun i => BitVec.ofNat 16 (w.toNat / 2 ^ (48 - 16 * i))

/-- The symbols of a frame as the line carries them (R121): header and payload, dealt round-robin to 32 codewords of 514 symbols, then
the codewords' 30 parity symbols each, dealt the same way. -/
def lineSymbols (hdr : List Dword) (runs : List (Nat × List Dword)) (fill : Nat → Dword) : List (BitVec 16) :=
  let data := (hdr ++ (List.range 4096).map (payloadWord runs fill)).flatMap symbolsOf
  let parity := (List.range 32).map fun c => Config.rsParity ((List.range 514).map fun k => data.getD (32 * k + c) 0)
  data ++ (List.range 30).flatMap fun k => (List.range 32).map fun c => (parity.getD c []).getD k 0

/-- Payload bits of a frame outside the data of its allotments, which a checker with GATE = 1 compares (R103, R125). FILL counts bits in
an SDI allotment, bytes in a packet allotment. -/
def State.fillBits (s : State) (b : Nat) (runs : List (Nat × List Dword)) : Nat :=
  let used := (runs.map fun a =>
    let h := (a.2.getD 0 0).toNat
    let n := h / 2 ^ 38 % 2 ^ 18
    32 + (if fld (s.ent (pPort b) 0 6 (h / 2 ^ 56) 0) 28 3 = 1 then 8 * n else n)).sum
  4096 * 64 - used

/-- An errored SDI allotment counts its SDI words in ERR_WORDS of its input port and raises ING.ERRDATA (R153). FILL of the
head word is its number of data bits. -/
def State.errData (s : State) (ei : Nat) (ws : List Dword) : State :=
  let fill := match ws with
    | h :: _ => h.toNat / 2 ^ 38 % 2 ^ 18
    | [] => 0
  let pg := pIng (ei / 256)
  let n := satAdd 32 (s.ent pg 0 6 (ei % 256) 6).toNat (cdiv fill 10)
  (s.setEnt pg 0 6 (ei % 256) 6 (wd n)).raise pg 6 (s.partOwner 1 ei)

/-- An allotment that a receiver passes to ingress, from its first word on a lane: discarded with EVENT.MAP when its head word names
another stream than the map places there (R125). The receiver files by the effective receive placement. An errored allotment is passed
whatever its head word says (R124). -/
def State.passAllotment (s : State) (b lane : Nat) (errored : Bool) (a : Nat × List Dword) : State :=
  let at' := (s.entIdxs (pPort b) 0 6 0 fun w => bitOf w 31 && fld w 19 2 != 2 && fld w 16 3 == lane && fld w 0 12 == a.1).head?
  match at' with
  | none => s
  | some num =>
    let w1 := s.ent (pPort b) 0 6 num 1
    let ws := a.2.take (fld w1 0 13)
    if !errored && (ws.getD 0 0).toNat / 2 ^ 56 != num then s.raiseOwned (pPort b) 4
    else
      let s1 := s.emit (.allotment b num (fld w1 16 16) errored ws)
      if errored && s.entF (pPort b) 0 6 num 0 28 3 == 0 then s1.errData (fld w1 16 16) ws else s1

/-- A good header (R122, R123, R130): the partner's masks, its bank and EPOCH, and the receive placement that they give. The lane is in
receive service unless it is shed, or SHED_EN = 0 holds the link down (R98). -/
def State.takeHeader (s : State) (b l : Nat) (hdr : List Dword) : State :=
  let h1 := hword hdr 1
  let h2 := hword hdr 2
  let epoch := h1 / 2 ^ 32 % 256
  let bank := h1 / 2 ^ 40 % 2
  let tx := h2 % 256
  let r := s.epvRec b
  let s1 := s.setEpv b { r with
    peerOk := BitVec.ofNat 8 (h2 / 2 ^ 8), peerReady := BitVec.ofNat 8 (h2 / 2 ^ 16), rxBank := bank, peerEpoch := epoch,
    peerLanes := BitVec.ofNat 8 tx, filed := r.filed.set (l % 8) (h1 / 2 ^ 41 % 8), bad := r.bad.set (l % 8) 0 }
  let s2 := if r.shed.getLsbD (l % 8) || (!s.shedEn b && r.shed != 0) then s1
    else (s1.wrF 0 (portA b 0x064) (8 + l % 8) 1 1).wrF 0 (lnA l 0x04) 11 1 1
  if epoch ≠ r.peerEpoch ∨ bank ≠ r.rxBank ∨ tx ≠ r.peerLanes.toNat then
    let sts := s2.streams b (3 + bank)
    let lanes := maskLanes tx
    s2.writePlacement b 6 sts (placement sts lanes (decide (s.minLanes b ≤ lanes.length)))
  else s2

/-- Whether a lane is in receive service. -/
def State.rxLane (s : State) (l : Nat) : Bool := bitOf (s.rd 0 (portA (l / 8) 0x064)) (8 + l % 8)

/-- The allotments of a frame go to ingress while its lane is in receive service (R130), and a checker with GATE = 1 compares its fill
(R103). -/
def State.passFrame (s : State) (l lane : Nat) (errored : Bool) (f : EpvFrame) : State :=
  let s1 := if bitOf (s.rd 0 (lnA l 0x18)) 9 && !errored then s.checkBits l (s.fillBits (l / 8) f.payload) else s
  if s1.rxLane l then forEach f.payload (fun a s => s.passAllotment (l / 8) lane errored a) s1 else s1

/-- EPV_FRAME_RECEIVE: a frame arrives on lane L of a group (R123, R124). -/
def execEpvFrameReceive (b : Fin 48) (i : Fin 8) (f : EpvFrame) (s : State) : Host.Outcome State Fault Refusal :=
  let l := b.val * 8 + i.val
  .next (if s.portType b ≠ 1 ∨ s.blkMode b ≠ 1 ∨ s.lnState l ≠ 5 then s
    else
      let r := s.epvRec b
      if !f.fecOk || !hcrcOk f.hdr then
        let n := r.bad.getD i 0 + 1
        let s1 := (s.wr64 0 (portCtr b i 0x08) ((s.rd64 0 (portCtr b i 0x08) + 1) % 2 ^ 64)).setEpv b
          { r with bad := r.bad.set i (if n = 16 then 0 else n) }
        let s2 := s1.passFrame l (r.filed.getD i 0) true f
        if n = 16 then (s2.lossOfLock l).raiseOwned (pPort b) 3 else s2
      else
        let s1 := (s.wr64 0 (portCtr b i 0x00) ((s.rd64 0 (portCtr b i 0x00) + f.codewords) % 2 ^ 64)).incSat 0
          (portCtr b i 0x20) f.symbols
        let cfg := s.rd 0 (portA b 0x05C)
        if bitOf cfg 8 && decide (hword f.hdr 1 / 2 ^ 44 % 64 ≠ fld cfg 10 6) then
          (((s1.setEpv b { r with bad := r.bad.set i 0 }).wrF 0 (portA b 0x064) (8 + i) 1 0).wrF 0 (lnA l 0x04) 11 1 0).raiseOwned
            (pPort b) 5
        else (s1.takeHeader b l f.hdr).passFrame l (hword f.hdr 1 / 2 ^ 41 % 8) false f)

/-- A write of PORT.EPV_CTRL (R128, R133): both wait for the next frame boundary. -/
def writeEpvCtrl (b : Nat) (d : Word) (s : State) : State :=
  let r := s.epvRec b
  s.setEpv b { r with swap := r.swap || bitOf d 0, rejoin := r.rejoin || bitOf d 1 }

/-- MAP_SWAP. -/
def execMapSwap (t : Tag) (b : Fin 48) (s : State) : Host.Outcome State Fault Refusal :=
  .next (hostWrite t (portA b 0x060) 1 (writeEpvCtrl b 1) s)

/-- REJOIN. -/
def execRejoin (t : Tag) (b : Fin 48) (s : State) : Host.Outcome State Fault Refusal :=
  .next (hostWrite t (portA b 0x060) 2 (writeEpvCtrl b 2) s)

/-- Highest nominal rate of an SDI class in kbit/s, R126. -/
def sdiRate (cls : Nat) : Nat :=
  match cls with
  | 0 => 1485000
  | 1 => 2970000
  | 2 => 2970000
  | 3 => 5940000
  | 4 => 11880000
  | _ => 23760000

/-- Line rate of a payload step in kbit/s, R79. -/
def stepRate (step : Nat) : Nat := if step = 2 then 140250000 else 280500000

/-- W_min of R126: 1 + ⌈(R × T_f × 1.00021 − 32) / 64⌉, a frame being 278,528 bits of the line. -/
def wMin (cls step : Nat) : Nat :=
  let den := stepRate step * 100000
  let num := sdiRate cls * 278528 * 100021
  1 + cdiv (num - 32 * den) (64 * den)

/-- The group's step: that of a READY lane, else MAXSTEP. -/
def State.groupStep (s : State) (b : Nat) : Nat :=
  match (blockLanes b).find? fun l => s.lnState l == 5 with
  | some l => s.lnStep l
  | none => s.maxStep b

/-- Write of a map entry, R127, R137, R139. A bank is in use while the link is up and its sender names it
(log entry 25). A receive entry of an SDI stream is refused for an input port that another source feeds (R141): `fed`, with REASON
BAD_VALUE (DESIGN CHOICE, log entry 168). A packet entry uses no essence port. -/
def mapWrite (b sel idx : Nat) (d : List Word) (fed : Nat → Bool) (s : State) : Nat × State :=
  let d0 := wd (Nat.land (dat d 0).toNat 0xFFE70FFF)
  let d1 := wd (Nat.land (dat d 1).toNat 0xFFFF1FFF)
  let st := streamOf idx d0 d1
  let valid := bitOf d0 31
  let refuse (n : Nat) : Nat × State := (3, s.setReason (pPort b) 0x044 0 n idx)
  let up := bitOf (s.rd 0 (portA b 0x064)) 17
  let active := if sel ≤ 2 then s.rdF 0 (portA b 0x064) 16 1 else (s.epvRec b).rxBank
  let owner := s.partOwner (if sel ≤ 2 then 2 else 1) st.ep
  let sdi := valid && fld d0 28 3 == 0
  if sdi && decide (st.ep < 4096) && owner != s.pageOwner (pPort b) then (4, s)
  else if 1 < fld d0 28 3 ∨ 5 < st.cls then refuse 2
  else if (valid && decide (st.words < 2 ∨ 4096 < st.words)) || (sdi && decide (4096 ≤ st.ep)) || (sdi && decide (2 < sel) && fed st.ep) then
    refuse 2
  else if up && (sel - 1) % 2 == active then refuse 3
  else if valid && (decide (4096 < st.first + st.words) ||
      (s.streams b sel).any fun o => o.num != idx && o.lane == st.lane && decide (o.first < st.first + st.words) && decide (st.first < o.first + o.words)) then
    refuse 4
  else if valid && !st.packet && decide (st.words < wMin st.cls (s.groupStep b)) then refuse 5
  else (0, (s.setEntWords (pPort b) 0 sel idx 0 [d0, d1]).clearReason (pPort b) 0x044 0)

/-! ### Ethernet ports, R112 to R116 -/

/-- A write of PORT.BLK_CFG (R112, R113). -/
def writePortBlkCfg (b : Nat) (d : Word) (s : State) : State :=
  if s.pageLocked (pPort b) then s
  else if (s.seqState b ≠ 0 ∧ s.seqState b ≠ 1) ∨ fld d 0 2 = 3 ∨ 6 ≤ fld d 4 3 then s.raiseOwned (pPort b) 8
  else (s.wr 0 (portA b 0x040) (wd (Nat.land d.toNat 0x73))).checkAgree b

/-- PORT_BLK_CFG_WRITE. -/
def execPortBlkCfgWrite (t : Tag) (b : Fin 48) (d : Word) (s : State) : Host.Outcome State Fault Refusal :=
  .next (hostWrite t (portA b 0x040) d (writePortBlkCfg b d) s)

/-- A port's SPARE bit. -/
def State.sparing (s : State) (b p : Nat) : Bool := bitOf (s.rd 0 (portA b 0x054)) (16 + p)

/-- Ports of a configuration, R113. -/
def portCount (econf : Nat) : Nat := if econf = 0 then 1 else if econf = 1 then 2 else if econf = 2 then 4 else 8

/-- A write of PORT.ETH_CFG (R113 to R116). Setting a SPARE bit takes the port down; clearing one releases the port's lanes
from the farrier test, and the port comes up again as Ethernet. -/
def writeEthCfg (b : Nat) (d : Word) (s : State) : State :=
  if s.pageLocked (pPort b) then s
  else if fld d 0 2 = 3 ∨ fld d 3 2 = 3 then s.raiseOwned (pPort b) 8
  else
    let old := s.rd 0 (portA b 0x054)
    let s1 := s.wr 0 (portA b 0x054) (wd (Nat.land d.toNat 0xFFFFFF1F))
    forEach (List.range 8) (fun p s =>
      if bitOf d (16 + p) && !bitOf old (16 + p) then s.ethDown b p
      else if !bitOf d (16 + p) && bitOf old (16 + p) then
        forEach (s.portLanes b p) (fun l s => s.wrF 0 (lnA l 0x04) 14 1 0) s
      else s) s1

/-- PORT_ETH_CFG_WRITE. -/
def execPortEthCfgWrite (t : Tag) (b : Fin 48) (d : Word) (s : State) : Host.Outcome State Fault Refusal :=
  .next (hostWrite t (portA b 0x054) d (writeEthCfg b d) s)

/-- Whether Clause 73 runs on the block's ports (R114): AN_EN and PMD KR or CR. -/
def State.negotiates (s : State) (b : Nat) : Bool :=
  let w := s.rd 0 (portA b 0x054)
  bitOf w 2 && (fld w 0 2 == 1 || fld w 0 2 == 2)

/-- The PMD control function has trained the lanes of an Ethernet port that are in TRAIN (R82, R91): their coefficients are those of the
clause's training, their receivers are locked, and they go to READY or HOLD. -/
def State.portTrained (s : State) (b p : Nat) : State :=
  forEach (s.portLanes b p) (fun l s =>
    if s.lnState l = 2 ∧ !s.trainMan b then ((s.wrF 0 (lnA l 0x04) 8 1 1).clauseCoefs l).trained l else s) s

/-- ETH_LINK_UP: training of the port's lanes is complete (log entry 159) and, where auto-negotiation runs, the partner has advertised
the ability or not (R114). The link comes up when every lane is READY. -/
def execEthLinkUp (b : Fin 48) (p : Fin 8) (ability : Bool) (s : State) : Host.Outcome State Fault Refusal :=
  .next (if s.portType b = 2 ∧ modesAgree 2 (s.econf b) (s.blkMode b) ∧ p.val < portCount (s.econf b) ∧ !s.sparing b p then
      if s.negotiates b && !ability then s.wrF 0 (portA b 0x058) (8 + p) 1 1
      else
        let s1 := s.portTrained b p
        if (s1.portLanes b p).all (fun l => s1.lnState l == 5) then
          forEach (s1.portLanes b p) (fun l s => s.wrF 0 (lnA l 0x04) 11 1 1)
            (({ s1 with remote := s1.remote.filter fun r => r != b.val * 8 + p.val }.wrF 0 (portA b 0x058) p 1 1).wrF 0
              (portA b 0x058) (8 + p) 1 0)
        else s1
    else s)

/-- ETH_LINK_DOWN, R99. -/
def execEthLinkDown (b : Fin 48) (p : Fin 8) (s : State) : Host.Outcome State Fault Refusal := .next (s.ethDown b p)

/-- Whether a port may use LPI: its link up, 100 Gb/s or more, its EEE bit, and not in sparing mode (R115, R116). -/
def State.lpiAble (s : State) (b p : Nat) : Bool :=
  s.portType b == 2 && s.ethUp b p && decide (s.econf b ≤ 4) && bitOf (s.rd 0 (portA b 0x054)) (8 + p) && !s.sparing b p

/-- ETH_STATUS.LPI_TX of a port. -/
def State.inLpi (s : State) (b p : Nat) : Bool := bitOf (s.rd 0 (portA b 0x058)) (16 + p)

/-- LPI ends. -/
def State.lpiEnd (s : State) (b p : Nat) : State := s.wrF 0 (portA b 0x058) (16 + p) 1 0

/-- LPI_ENTER: LPI_DELAY µs with nothing to send (R115, R116). -/
def execLpiEnter (b : Fin 48) (p : Fin 8) (s : State) : Host.Outcome State Fault Refusal :=
  .next (if s.lpiAble b p then s.wrF 0 (portA b 0x058) (16 + p) 1 1 else s)

/-- LPI_EXIT: a frame queued for the port ends LPI (R115). -/
def execLpiExit (b : Fin 48) (p : Fin 8) (s : State) : Host.Outcome State Fault Refusal := .next (s.lpiEnd b p)

/-- ETH_STATUS as it reads: LPI_RX of a port that may use LPI shows what the partner signals, a free value (log entry 169). -/
def State.ethStatus (s : State) (b : Nat) : Word :=
  (List.range 8).foldl (fun w p => setFld w (24 + p) 1 (if s.lpiAble b p && Config.peerLpi (b * 8 + p) s.beat then 1 else 0))
    (s.rd 0 (portA b 0x058))

/-- Bits of an FEC codeword of a port on the line, R113; 0 where it has no FEC. -/
def State.fecBits (s : State) (b : Nat) : Nat :=
  if s.econf b < 5 then 5440 else (match s.rdF 0 (portA b 0x054) 3 2 with | 0 => 5280 | 1 => 2112 | _ => 0)

/-- One beat of the FEC decoders of the Ethernet ports that are up: the codewords that end in the beat are clean, corrected or
uncorrectable, as the decoder finds (R136; free values, log entry 170). -/
def State.fecBeat (s : State) : State :=
  forEach ((List.range 48).filter fun b => s.portType b == 2 && s.fecBits b != 0) (fun b s =>
    forEach ((List.range 8).filter fun p => s.ethUp b p) (fun p s =>
      let rate := ((s.portLanes b p).map fun l => s.lineRate l).sum
      let upto (n : Nat) : Nat := rate * n / (345600 * s.fecBits b)
      forEach (List.range (upto (s.beat + 1) - upto s.beat)) (fun i s =>
        match Config.fecSymbols (b * 8 + p) (upto s.beat + i) with
        | none => s.wr64 0 (portCtr b p 0x08) ((s.rd64 0 (portCtr b p 0x08) + 1) % 2 ^ 64)
        | some 0 => s
        | some n => (s.wr64 0 (portCtr b p 0x00) ((s.rd64 0 (portCtr b p 0x00) + 1) % 2 ^ 64)).incSat 0 (portCtr b p 0x20) n) s) s) s

/-! ### MACsec, R117 to R120 -/

/-- A word of a transmit SA (PORT table 0x11). -/
def State.sa (s : State) (b p an w : Nat) : Word := s.ent (pPort b) 0 0x11 (p * 4 + an) w
def State.saState (s : State) (b p an : Nat) : Nat := fld (s.sa b p an 0) 0 2
def State.setSaState (s : State) (b p an st : Nat) : State := s.setEntF (pPort b) 0 0x11 (p * 4 + an) 0 0 2 st
def State.saPn (s : State) (b p an : Nat) : Nat := pairOf (s.sa b p an 1) (s.sa b p an 2)
def State.setSaPn (s : State) (b p an v : Nat) : State :=
  s.setEntWords (pPort b) 0 0x11 (p * 4 + an) 1 [loHalf v, hiHalf v]

/-- Whether an SA has sent a frame, R120. -/
def saIx (b p an : Nat) : Nat := (b * 8 + p) * 4 + an
def State.saHasSent (s : State) (b p an : Nat) : Bool := s.saSent.contains (saIx b p an)

/-- A SAK that still lives: its node is not destroyed (R432). -/
def State.sakAlive (s : State) (h : Nat) : Bool :=
  bitOf (s.node h 0) 31 && s.nodeKind h == 4 && s.nodeState h != 3

/-- An SA that can send: VALID, not EXHAUSTED, its key not destroyed. -/
def State.saUsable (s : State) (b p an : Nat) : Bool :=
  bitOf (s.sa b p an 0) 31 && s.saState b p an != 3 && s.sakAlive (fld (s.sa b p an 0) 16 10)

/-- SECY entry (PORT table 0x10). -/
def State.secy (s : State) (b p : Nat) : Word := s.ent (pPort b) 0 0x10 p 0
def State.txAn (s : State) (b p : Nat) : Nat := fld (s.secy b p) 8 2

/-- Make an SA the one in use; the one before goes idle unless it is REKEY_DUE or EXHAUSTED (R119). -/
def State.useSa (s : State) (b p an : Nat) : State :=
  let old := s.txAn b p
  let s1 := if old ≠ an ∧ s.saState b p old = 1 then s.setSaState b p old 0 else s
  let s2 := s1.setEntF (pPort b) 0 0x10 p 0 8 2 an
  if s2.saState b p an = 0 then s2.setSaState b p an 1 else s2

/-- A 64-bit counter in two words of a table entry. -/
def State.incEnt64 (s : State) (pg sel idx w n : Nat) : State :=
  let v := (pairOf (s.ent pg 0 sel idx w) (s.ent pg 0 sel idx (w + 1)) + n) % 2 ^ 64
  s.setEntWords pg 0 sel idx w [loHalf v, hiHalf v]

/-- Move to the next SA at exhaustion when AUTO_NEXT allows it (R120). -/
def State.autoNext (s : State) (b p : Nat) : State :=
  let an := (s.txAn b p + 1) % 4
  if bitOf (s.secy b p) 5 && s.saUsable b p an && !s.saHasSent b p an then s.useSa b p an else s

/-- The packet number from which an SA is REKEY_DUE, R119. -/
def rekeyPn : Nat := 2 ^ 64 - 2 ^ 32

/-- One frame goes under the SA in use, R119. -/
def State.saSend (s : State) (b p : Nat) : State :=
  let an := s.txAn b p
  let pn := s.saPn b p an
  let s1 := s.incEnt64 (pPort b) 0x15 p 0 1
  let s2 := { s1 with saSent := if s.saHasSent b p an then s1.saSent else s1.saSent ++ [saIx b p an] }
  if pn = 2 ^ 64 - 1 then (s2.setSaState b p an 3).raiseOwned (pPort b) 7 |>.autoNext b p
  else
    let s3 := s2.setSaPn b p an (pn + 1)
    if pn + 1 = rekeyPn then (s3.setSaState b p an 2).raiseOwned (pPort b) 6 else s3

/-- Whether an EtherType is in the port's bypass table, R117. -/
def State.bypassed (s : State) (b p etype : Nat) : Bool :=
  (List.range 4).any fun k =>
    let w := s.ent (pPort b) 0 0x14 (p * 4 + k) 0
    bitOf w 31 && fld w 0 16 == etype

/-- The transmit half of the SecY that every frame of an Ethernet port passes (R117 to R120): the packet number that the frame goes
under, `some none` for one that goes unprotected; none for one that is not sent, which TX_DROP counts. -/
def State.secyOut (s : State) (b p etype : Nat) : Option (Option Nat) × State :=
  if !bitOf (s.secy b p) 0 || s.bypassed b p etype then (some none, s)
  else
    let an := s.txAn b p
    let dead := bitOf (s.sa b p an 0) 31 && s.saState b p an != 3 && !s.sakAlive (fld (s.sa b p an 0) 16 10)
    let s1 := if dead then (s.setSaState b p an 3).raiseOwned (pPort b) 7 |>.autoNext b p else s
    let cur := s1.txAn b p
    if s1.saUsable b p cur then (some (some (s1.saPn b p cur)), s1.saSend b p) else (none, s1.incEnt64 (pPort b) 0x15 p 2 1)

/-- MACSEC_TX_FRAME: a frame at the SecY of a port whose link is up. It ends LPI (R115). -/
def execMacsecTxFrame (b : Fin 48) (p : Fin 8) (etype : BitVec 16) (s : State) : Host.Outcome State Fault Refusal :=
  .next (if s.portType b ≠ 2 ∨ !s.ethUp b p then s
    else
      match (if s.inLpi b p then s.lpiEnd b p else s).secyOut b p etype.toNat with
      | (some pn, s1) => s1.emit (.ethFrame b p pn)
      | (none, s1) => s1)

/-- A received MACsec frame at a SecY that is enabled (R117, R432): RX_OK or RX_BAD, replay protection, and whether the
frame goes on. What VALIDATE 1 does with a bad frame is that of IEEE 802.1AE: it goes on (PRESUMED, log entry 26). -/
def State.macsecRx (s : State) (b p : Nat) (m : MacsecIn) : Bool × State :=
  let w := s.secy b p
  let scOk := bitOf (s.ent (pPort b) 0 0x12 (p * 16 + m.sc.val) 0) 31
  let ix := (p * 16 + m.sc.val) * 4 + m.an.val
  let sa0 := s.ent (pPort b) 0 0x13 ix 0
  let lowest := pairOf (s.ent (pPort b) 0 0x13 ix 1) (s.ent (pPort b) 0 0x13 ix 2)
  let win := (s.ent (pPort b) 0 0x10 p 3).toNat
  let good := scOk && bitOf sa0 31 && s.ent (pPort b) 0 0x13 ix 7 == 0 && s.sakAlive (fld sa0 16 10) && m.icvOk && (!bitOf w 4 || decide (lowest ≤ m.pn.toNat))
  if fld w 2 2 = 0 then (true, s)
  else if good then
    let low := max lowest (m.pn.toNat + 1 - win)
    (true, (s.incEnt64 (pPort b) 0x15 p 4 1).setEntWords (pPort b) 0 0x13 ix 1 [loHalf low, hiHalf low])
  else (fld w 2 2 == 1, s.incEnt64 (pPort b) 0x15 p 6 1)

/-- Whether a handle is a usable SAK of the page owner (R433). -/
def State.bindable (s : State) (b h : Nat) : Bool :=
  s.usable h && s.nodeKind h == 4 && s.nodePart h == s.pageOwner (pPort b)

/-- The receive half of a SecY (R117; log entry 26): whether a frame goes on, by its EtherType and its MACsec part. -/
def State.secyIn (s : State) (b p etype : Nat) (m : Option MacsecIn) : Bool × State :=
  if s.portType b = 2 ∧ bitOf (s.secy b p) 0 then
    match m with
    | some m => s.macsecRx b p m
    | none => (s.bypassed b p etype || fld (s.secy b p) 2 2 != 2, s)
  else (true, s)

/-- Write of a SecY entry, R120, R138, R139. While its SA is in use, only EN, AUTO_NEXT and TX_AN change. A TX_AN that names an SA that
cannot be used is refused whatever EN says. -/
def secyWrite (b p : Nat) (d : List Word) (s : State) : Nat × State :=
  let cur := s.secy b p
  let d0 := wd (Nat.land (dat d 0).toNat 0x73F)
  let refuse (n : Nat) : Nat × State := (3, s.setReason (pPort b) 0x044 0 n p)
  let an := fld d0 8 2
  let keep (w : Word) : Nat := Nat.land w.toNat 0x41E
  let inUse := s.saState b p (s.txAn b p) == 1 || s.saState b p (s.txAn b p) == 2
  let other := keep d0 != keep cur || (List.range 3).any fun i => dat d (i + 1) != s.ent (pPort b) 0 0x10 p (i + 1)
  if inUse && bitOf cur 0 && other then refuse 1
  else if fld d0 2 2 = 3 then refuse 2
  else if !s.saUsable b p an then refuse 8
  else
    let s1 := s.setEntWords (pPort b) 0 0x10 p 0 [setFld d0 8 2 (s.txAn b p), dat d 1, dat d 2, dat d 3]
    let s2 := if bitOf d0 0 then s1.useSa b p an
      else
        let s2 := if s.saState b p (s.txAn b p) = 1 then s1.setSaState b p (s.txAn b p) 0 else s1
        s2.setEntF (pPort b) 0 0x10 p 0 8 2 an
    (0, s2.clearReason (pPort b) 0x044 0)

/-- Write of a transmit SA, R118, R119, R138, R139, R433. Binding a handle begins a new SA, whose NEXT_PN is raised only, as ever (log
entry 27). -/
def txSaWrite (b ix : Nat) (d : List Word) (s : State) : Nat × State :=
  let p := ix / 4
  let an := ix % 4
  let cur := s.sa b p an 0
  let d0 := dat d 0
  let h := fld d0 16 10
  let pn := pairOf (dat d 1) (dat d 2)
  let refuse (n : Nat) : Nat × State := (3, s.setReason (pPort b) 0x044 0 n ix)
  let binds := bitOf d0 31 && !(bitOf cur 31 && fld cur 16 10 == h)
  if (s.saState b p an = 1 ∨ s.saState b p an = 2) ∧ bitOf (s.secy b p) 0 ∧ s.txAn b p = an then refuse 1
  else if binds && bitOf (s.node h 3) 1 && s.nodeKind h == 4 && s.nodePart h == s.pageOwner (pPort b) then refuse 6
  else if binds && !s.bindable b h then (4, s)
  else if pn < s.saPn b p an then refuse 7
  else
    let kept := if binds || !bitOf d0 31 then 0 else fld cur 0 2
    let due := bitOf d0 31 && kept != 3 && decide (rekeyPn ≤ pn)
    let st := if due then 2 else kept
    let w := wd (Nat.land d0.toNat 0x83FF0000 + st)
    let s1 := s.setEntWords (pPort b) 0 0x11 ix 0 (w :: (List.range 6).map fun i => dat d (i + 1))
    let s2 := if binds then { s1.bindNode h with saSent := s.saSent.filter fun i => i != saIx b p an } else s1
    let s3 := if due && kept != 2 then s2.raiseOwned (pPort b) 6 else s2
    (0, s3.clearReason (pPort b) 0x044 0)

/-- Write of a receive SA, R118, R139, R433. A valid SA of a valid SC of an enabled SecY is in use (DEDUCED, log entry 171): a write that
changes one of its fields is refused. -/
def rxSaWrite (b ix : Nat) (d : List Word) (s : State) : Nat × State :=
  let d0 := wd (Nat.land (dat d 0).toNat 0x83FF0000)
  let e (w : Nat) : Word := s.ent (pPort b) 0 0x13 ix w
  let inUse := bitOf (e 0) 31 && bitOf (s.ent (pPort b) 0 0x12 (ix / 4) 0) 31 && bitOf (s.secy b (ix / 64)) 0
  if inUse && (d0 != e 0 || [3, 4, 5, 6].any fun w => dat d w != e w) then (3, s.setReason (pPort b) 0x044 0 1 ix)
  else if bitOf d0 31 && !(s.sakAlive (fld d0 16 10) && s.nodePart (fld d0 16 10) == s.pageOwner (pPort b)) then (4, s)
  else
    let s1 := (s.setEnt (pPort b) 0 0x13 ix 0 d0).setEnt (pPort b) 0 0x13 ix 7 0
    (0, (s1.setEntWords (pPort b) 0 0x13 ix 3 [dat d 3, dat d 4, dat d 5, dat d 6]).clearReason (pPort b) 0x044 0)

/-- A transmit SA whose SAK is destroyed behaves as EXHAUSTED (R119, R120, R432). -/
def State.saDead (s : State) (b ix : Nat) : State :=
  let p := ix / 4
  let s1 := (s.setSaState b p (ix % 4) 3).raiseOwned (pPort b) 7
  if bitOf (s.secy b p) 0 && s.txAn b p == ix % 4 then s1.autoNext b p else s1

/-- Every SA bound to one of some destroyed nodes is marked for good, before the handles are free for other keys (R432). Word 7 of a
receive SA, which no read returns, marks one whose frames count in RX_BAD. -/
def State.buryNodes (s : State) (hs : List Nat) : State :=
  let bound (b sel ix : Nat) (s : State) : Bool :=
    bitOf (s.ent (pPort b) 0 sel ix 0) 31 && hs.contains (s.entF (pPort b) 0 sel ix 0 16 10)
  forEach (List.range 48) (fun b s =>
    let s1 := forEach ((List.range 32).filter fun ix => bound b 0x11 ix s && s.saState b (ix / 4) (ix % 4) != 3)
      (fun ix s => s.saDead b ix) s
    forEach ((List.range 512).filter fun ix => bound b 0x13 ix s1) (fun ix s => s.setEnt (pPort b) 0 0x13 ix 7 1) s1) s

/-- ZEROING_DONE: the nodes that are destroyed and zeroed are freed (R432). -/
def execZeroingDone (s : State) : Host.Outcome State Fault Refusal :=
  let hs := s.nodes.filter fun h => s.nodeState h == 3
  .next (forEach hs (fun h s => s.setEntWords pKey 0 1 h 0 (List.replicate 7 0)) (s.buryNodes hs))

/-! ### Table window and snapshot of the PORT page -/

/-- Entries of a PORT table, and the block type it is of (R137, R138): 1 Epvozel, 2 Ethernet. -/
def portTable (sel : Nat) : Option (Nat × Nat × Nat) :=
  match sel with
  | 1 => some (256, 1, 2) | 2 => some (256, 1, 2) | 3 => some (256, 1, 2) | 4 => some (256, 1, 2)
  | 5 => some (256, 1, 2) | 6 => some (256, 1, 2)
  | 0x10 => some (8, 2, 4) | 0x11 => some (32, 2, 7) | 0x12 => some (128, 2, 3) | 0x13 => some (512, 2, 7)
  | 0x14 => some (32, 2, 1) | 0x15 => some (8, 2, 16)
  | _ => none

/-- The STATE that a transmit SA reads: EXHAUSTED once its SAK is destroyed (R432). -/
def State.saWord0 (s : State) (b ix : Nat) : Word :=
  let w := s.sa b (ix / 4) (ix % 4) 0
  if bitOf w 31 && !s.sakAlive (fld w 16 10) then setFld w 0 2 3 else w

/-- Read of a PORT table. A table of the other block type returns ECODE 1. -/
def portTableRead (b sel idx : Nat) (s : State) : Nat × List Word :=
  match portTable sel with
  | none => (1, [])
  | some (n, ty, words) =>
    if s.portType b ≠ ty then (1, [])
    else if n ≤ idx then (2, [])
    else
      let ws := s.entWords (pPort b) 0 sel idx words
      (0, if sel = 0x11 then s.saWord0 b idx :: ws.drop 1 else ws)

/-- Write of a PORT table (R127, R137 to R139, R141). A write to an RO table is refused with BAD_VALUE (log entry 28). -/
def portTableWrite (b sel idx : Nat) (d : List Word) (fed : Nat → Bool) (s : State) : Nat × State :=
  match portTable sel with
  | none => (1, s)
  | some (n, ty, _) =>
    if s.portType b ≠ ty then (1, s)
    else if n ≤ idx then (2, s)
    else
      match sel with
      | 0x10 => secyWrite b idx d s
      | 0x11 => txSaWrite b idx d s
      | 0x12 =>
        (0, (s.setEntWords (pPort b) 0 0x12 idx 0 [wd (Nat.land (dat d 0).toNat 0x80000000), dat d 1, dat d 2]).clearReason
          (pPort b) 0x044 0)
      | 0x13 => rxSaWrite b idx d s
      | 0x14 =>
        (0, (s.setEnt (pPort b) 0 0x14 idx 0 (wd (Nat.land (dat d 0).toNat 0x8000FFFF))).clearReason (pPort b) 0x044 0)
      | 5 => (3, s.setReason (pPort b) 0x044 0 2 idx)
      | 6 => (3, s.setReason (pPort b) 0x044 0 2 idx)
      | 0x15 => (3, s.setReason (pPort b) 0x044 0 2 idx)
      | _ => mapWrite b sel idx d fed s

/-- PORT.SNAP: every per-port counter and the MACsec counters in one cycle (R75, R136, R138). -/
def portSnap (b : Nat) (s : State) : State :=
  forEach (List.range 8) (fun i s =>
    let c (o : Nat) : Nat := portCtr b i o
    let s1 := (((s.snap 0 (c 0x00) (c 0x10)).snap 0 (c 0x04) (c 0x14)).snap 0 (c 0x08) (c 0x18)).snap 0 (c 0x0C) (c 0x1C)
    let s2 := (s1.snap 0 (c 0x20) (c 0x24)).snap 0 (c 0x28) (c 0x2C)
    forEach (List.range 8) (fun w s => s.snapEnt (pPort b) 0 0x15 i w (w + 8)) s2) s

end Sys2Proof.Machine
end

