-- ==== Sys2Proof/Machine/TxQ.lean ====
section
/-!
DEFINITION. Machine/TxQ.lean: the transmit queues of the Ethernet ports and of the Epvozel packet allotments (R270), what is offered to
them, and how they are served.
-/
namespace Sys2Proof.Machine

/-! ### Ports, R270 and R274 -/

/-- Scheduler entry of a port. -/
def State.sched (s : State) (b p w : Nat) : Word := s.ent (pEgr 0) 0 4 (b * 8 + p) w

/-- Whether a port counts as up (R274). -/
def State.egrUp (s : State) (b p : Nat) : Bool :=
  !bitOf (s.sched b p 0) 16 && !s.remote.contains (b * 8 + p) &&
    (if s.portType b = 1 then bitOf (s.rd 0 (portA b 0x064)) 17 else s.portType b == 2 && s.ethUp b p && !s.sparing b p)

/-- The rate of a port in bit/s: of an Ethernet port by ECONF (R113), of a packet allotment by its words in a frame. -/
def State.portRate (s : State) (b stream : Nat) : Nat :=
  if s.portType b = 1 then
    let bank := s.rdF 0 (portA b 0x064) 16 1
    let words := s.entF (pPort b) 0 (1 + bank) stream 1 0 13
    (32 + 64 * (words - 1)) * (stepRate (s.groupStep b) * 1000) / 278528
  else
    match s.econf b with
    | 0 => 1600000000000
    | 1 => 800000000000
    | 2 => 400000000000
    | 3 => 200000000000
    | 4 => 100000000000
    | _ => 25000000000

/-- Whether a port takes frames: the link of an Ethernet port is up; a packet stream is placed (R132). -/
def State.wireUp (s : State) (b p stream : Nat) : Bool :=
  if s.portType b = 1 then bitOf (s.rd 0 (portA b 0x064)) 17 && (s.placedAt b 5 stream).isSome
  else s.portType b == 2 && s.ethUp b p && !s.sparing b p

/-- Number of a port in the store of transmit queues: 384 and up are packet allotments. -/
def State.txIx (s : State) (b p stream : Nat) : Nat := if s.portType b = 1 then 384 + b * 256 + stream else b * 8 + p

def State.txPort (s : State) (k : Nat) : TxPort := Tab.get (fun _ => TxPort.idle) s.ports k
def State.setPort (s : State) (k : Nat) (t : TxPort) : State := { s with ports := Tab.put (fun _ => TxPort.idle) s.ports k t }

/-! ### Descriptors of BIND 1 transmit queues -/

/-- The TAGs of the oldest buffer chain of a queue that has not been handed to its port: up to the first with EOP; none while the chain
is not whole, or breaks R69. -/
def nextChain : List Flight → Option (List Flight)
  | [] => none
  | f :: r =>
    if f.given || f.fin.isSome then nextChain r
    else if f.bad then none
    else if bitOf (descWord f.desc 2) 25 then some [f]
    else (nextChain r).map fun l => f :: l

/-- Change the descriptors with given TAGs. -/
def State.mapFlight (s : State) (q : Nat) (tags : List Word) (f : Flight → Flight) : State :=
  s.setQrec q false { s.qrec q false with
    flight := (s.qrec q false).flight.map fun x => if tags.contains x.tag && x.fin.isNone then f x else x }

/-- What becomes of the descriptors of a frame: STATUS, as XLEN their LEN where the frame has gone, and the instant of its timestamp. -/
def State.endHost (s : State) (q : Nat) (tags : List Word) (status : Nat) (stamp : Option (BitVec 96)) : State :=
  s.mapFlight q tags fun x =>
    { x with fin := some ⟨status, if status = 0 then fld (descWord x.desc 2) 0 16 else 0, 0, false, false, stamp⟩ }

/-- Whether a frame of host software is still to be sent: its queue runs, and its descriptors are in flight. -/
def State.hostAlive (s : State) (q : Nat) (tags : List Word) : Bool :=
  s.qState q false == 1 && tags.all fun t => (s.qrec q false).flight.any fun x => x.tag == t && x.fin.isNone

/-! ### Offering a frame, R115 and R270 -/

/-- How long until an instant, or since, in ns as a fraction. -/
def State.untilAt (s : State) (a : At) : At := a.add (-(s.nowAt a.tb).num) (s.nowAt a.tb).den

/-- Q2 in the order of ideal departure. -/
def State.insertPaced (s : State) (f : TxFrame) : List TxFrame → List TxFrame
  | [] => [f]
  | g :: r => if (s.untilAt g.depart).le (s.untilAt f.depart) then g :: State.insertPaced s f r else f :: g :: r

/-- Put a frame into a queue: false where Q0 or Q1 already holds 64 frames. -/
def State.enqueue (s : State) (k cls : Nat) (f : TxFrame) : Bool × State :=
  let t := s.txPort k
  match cls with
  | 0 => if 64 ≤ t.q0.length then (false, s) else (true, s.setPort k { t with q0 := t.q0 ++ [f] })
  | 1 => if 64 ≤ t.q1.length then (false, s) else (true, s.setPort k { t with q1 := t.q1 ++ [f] })
  | 2 => (true, s.setPort k { t with q2 := s.insertPaced f t.q2 })
  | _ => (true, s.setPort k { t with q3 := t.q3 ++ [f] })

/-- A frame ends LPI, and waits out the wake time of the clause (R115). -/
def State.wakePort (s : State) (b p : Nat) : State :=
  if s.portType b = 2 ∧ s.inLpi b p then
    let k := b * 8 + p
    let t := s.txPort k
    (s.lpiEnd b p).setPort k { t with wireAt := max t.wireAt (s.beat * 1024) + Config.wakeTime (s.econf b) }
  else s

/-! ### Serving a port -/

/-- Whether LAUNCH_TIME of a control frame has come. -/
def State.launched (s : State) (f : TxFrame) : Bool :=
  match f.launch with
  | some (tb, time) => decide (0 ≤ linDiff (s.linear tb) time)
  | none => true

/-- The host queue of a frame. -/
def TxFrame.hostQ (f : TxFrame) : Option Nat :=
  match f.what with
  | .host q _ => some q
  | _ => none

/-- The first frame of Q1 that may go: its LAUNCH_TIME has come, and no frame of its own host queue stands before it. -/
def State.firstDue (s : State) : List Nat → List TxFrame → Option (TxFrame × List TxFrame)
  | _, [] => none
  | held, f :: r =>
    let wait := (f.hostQ.map fun q => held.contains q).getD false || !s.launched f
    if wait then (State.firstDue s ((f.hostQ.toList) ++ held) r).map fun e => (e.1, f :: e.2)
    else some (f, r)

/-- The frame that a port sends next, whether it is of Q0 or Q1, and the queues without it: strict priority, with Q0 and Q1 shaped. -/
def State.txPick (s : State) (t : TxPort) : Option (TxFrame × Bool × TxPort) :=
  let ctl := decide (t.ctlAt < (s.beat + 1) * 1024)
  match (if ctl then t.q0 else []), (if ctl then s.firstDue [] t.q1 else none), t.q2, t.q3 with
  | f :: r, _, _, _ => some (f, true, { t with q0 := r })
  | [], some (f, r), _, _ => some (f, true, { t with q1 := r })
  | [], none, f :: r, _ => some (f, false, { t with q2 := r })
  | [], none, [], f :: r => some (f, false, { t with q3 := r })
  | [], none, [], [] => none

/-- Add to a 64-bit flow counter of an output slot. -/
def State.flowCount64 (s : State) (eo slot k w n : Nat) : State :=
  s.incEnt64 (pEgr (eo / 256)) 5 ((eo % 256 * 16 + slot) * 2 + k) w n

/-- A frame leaves its queue for the port: what leaves the part, and what is counted or completed with it. -/
def State.txGo (s : State) (b p : Nat) (stamp : Option (BitVec 96)) (f : TxFrame) : State :=
  match f.what with
  | .relay ingress corr => s.emit (.ptpRelay ingress (b * 8 + p) corr)
  | .host q tags => (s.endHost q tags 0 stamp).emit (.hostFrame b p q tags)
  | .flow eo slot bytes k => ((s.emit (.packet k)).flowCount64 eo slot k.path 0 1).flowCount64 eo slot k.path 2 bytes
  | .other n => s.emit (.otherFrame b p n)

/-- A frame that its SecY does not send. -/
def State.txLost (s : State) (f : TxFrame) : State :=
  match f.what with
  | .host q tags => s.endHost q tags 3 none
  | _ => s

/-- Whether a frame that leaves its queue is withdrawn: its host queue has been disabled. -/
def State.txStale (s : State) (f : TxFrame) : Bool :=
  match f.what with
  | .host q tags => !s.hostAlive q tags
  | _ => false

/-- A number of octets of a port in 1/1024 beat. -/
def octetTime (rate n : Nat) : Nat := cdiv (n * 8 * 345600000 * 1024) (max 1 rate)

/-- When the shaper of CTRL_PM lets the next frame of Q0 or Q1 start (R270; log entry 172). -/
def State.ctlNext (s : State) (b p rate start n : Nat) : Nat :=
  start + cdiv (n * 8 * 345600000 * 1024 * 1000) (max 1 (rate * fld (s.sched b p 0) 8 8))

/-- Serve an Ethernet port until its wire is busy past this beat or nothing may go. -/
def State.txServe (s : State) (b p : Nat) : Nat → State
  | 0 => s
  | fuel + 1 =>
    let s := State.txServe s b p fuel
    let k := b * 8 + p
    let t := s.txPort k
    if (s.beat + 1) * 1024 ≤ t.wireAt ∨ !s.wireUp b p 0 then s
    else
      match s.txPick t with
      | none => s
      | some (f, ctl, t1) =>
        if s.txStale f then s.setPort k t1
        else
          let start := max (s.beat * 1024) (max t.wireAt (if ctl then t.ctlAt else 0))
          let rate := s.portRate b 0
          let s1 := s.setPort k { t1 with
            wireAt := start + octetTime rate f.wire
            ctlAt := if ctl then s.ctlNext b p rate start f.wire else t1.ctlAt }
          match s1.secyOut b p f.etype with
          | (some pn, s2) => (s2.emit (.ethFrame b p pn)).txGo b p none f
          | (none, s2) => s2.txLost f

/-- Frames that wait at a port. -/
def TxPort.size (t : TxPort) : Nat := t.q0.length + t.q1.length + t.q2.length + t.q3.length

/-- Serve an Ethernet port. A packet allotment is served by its frames. -/
def State.txRun (s : State) (b p : Nat) : State :=
  if s.portType b = 2 then s.txServe b p (s.txPort (b * 8 + p)).size else s

/-- A frame is offered to a queue of a port, which sends it at once where it may: whether the queue took it. -/
def State.txOffer (s : State) (b p stream cls : Nat) (f : TxFrame) : Bool × State :=
  let (ok, s1) := (s.wakePort b p).enqueue (s.txIx b p stream) cls f
  (ok, if ok then s1.txRun b p else s1)

/-! ### Control frames of host software, R70, R71 and R270 -/

/-- Byte i of a transmit buffer, of its first 16. -/
def bufByte (h : BitVec 128) (i : Nat) : Nat := h.toNat / 2 ^ (8 * i) % 256

/-- The packet stream that carries the control frames of an Epvozel block: the lowest of the active bank (DESIGN CHOICE, log entry
173). -/
def State.ctlStream (s : State) (b : Nat) : Nat :=
  (((s.streams b (1 + s.rdF 0 (portA b 0x064) 16 1)).find? fun st => st.packet).map fun st => st.num).getD 0

/-- A whole buffer chain of a BIND 1 transmit queue reaches its port: DROP where the port is down or Q1 is full, LATE where LAUNCH_TIME
has passed, else it waits in Q1. -/
def State.giveChain (s : State) (q : Nat) (chain : List Flight) : State :=
  match chain with
  | [] => s
  | f :: _ =>
    let b := s.qTarget q false / 8
    let p := s.qTarget q false % 8
    let tags := chain.map fun x => x.tag
    let n := (chain.map fun x => fld (descWord x.desc 2) 0 16).sum
    let tb := fld (s.qCfg q false) 13 3
    let time := pairOf (descWord f.desc 4) (descWord f.desc 5)
    let launch := bitOf (descWord f.desc 2) 28
    if !s.wireUp b p (s.ctlStream b) then s.endHost q tags 3 none
    else if launch && decide (0 < linDiff (s.linear tb) time) then s.endHost q tags 2 none
    else
      let fr : TxFrame := ⟨bufByte f.hdr 12 * 256 + bufByte f.hdr 13, max 60 n + 24, n - 14, if launch then some (tb, time) else none,
        s.nowAt tb, .host q tags⟩
      let s1 := s.mapFlight q tags fun x => { x with given := true }
      match s1.txOffer b p (s.ctlStream b) 1 fr with
      | (true, s2) => s2
      | (false, s2) => s2.endHost q tags 3 none

/-- Hand the whole chains of a BIND 1 transmit queue to its port. -/
def State.giveQueue (s : State) (q : Nat) : State :=
  if s.qBind q false = 1 ∧ s.qState q false = 1 ∧ s.qTarget q false < 384 then
    forEach (List.range (s.qrec q false).flight.length) (fun _ s =>
      match nextChain (s.qrec q false).flight with
      | some chain => s.giveChain q chain
      | none => s) s
  else s

/-! ### Packet allotments, R125 -/

/-- The octets of a frame in a packet allotment: its length in 16 bits, then the packet. -/
def TxFrame.octet (f : TxFrame) (i : Nat) : Nat :=
  if i = 0 then f.len / 256 % 256 else if i = 1 then f.len % 256 else (Config.octet f.what (i - 2)).toNat

/-- Fill n octets of a packet stream's allotment: the frame that goes on from the one before, then frames in strict priority. -/
def State.fillAllot (s : State) (b stream : Nat) : Nat → Nat → List Nat → List Nat × State
  | 0, _, acc => (acc, s)
  | _, 0, acc => (acc, s)
  | fuel + 1, n + 1, acc =>
    let k := s.txIx b 0 stream
    let t := s.txPort k
    match t.cur with
    | some (f, off) =>
      let take := min (n + 1) (f.len + 2 - off)
      let s1 := s.setPort k { t with cur := if off + take < f.len + 2 then some (f, off + take) else none }
      State.fillAllot s1 b stream fuel (n + 1 - take) (acc ++ (List.range take).map fun i => f.octet (off + i))
    | none =>
      match s.txPick t with
      | none => (acc, s)
      | some (f, ctl, t1) =>
        if s.txStale f then State.fillAllot (s.setPort k t1) b stream fuel (n + 1) acc
        else
          let start := max (s.beat * 1024) (if ctl then t.ctlAt else 0)
          let s1 := s.setPort k { t1 with
            cur := some (f, 0)
            ctlAt := if ctl then s.ctlNext b 0 (s.portRate b stream) start f.len else t1.ctlAt }
          let tb := match f.what with
            | .host q _ => fld (s.qCfg q false) 13 3
            | _ => 0
          let now := s.nowAt tb
          State.fillAllot (s1.txGo b 0 (some (BitVec.ofInt 96 (now.num * 65536 / (now.den : Int)))) f) b stream fuel (n + 1) acc

/-- Words of octets, highest first, the last word filled up with zeros. -/
def octetWords : Nat → List Nat → List Dword
  | 0, _ => []
  | _, [] => []
  | fuel + 1, l => BitVec.ofNat 64 ((List.range 8).foldl (fun n i => n * 256 + l.getD i 0) 0) :: octetWords fuel (l.drop 8)

/-- The allotment of a packet stream in a frame: head word with FILL in octets, and the octets (R125). -/
def State.packetAllot (s : State) (b : Nat) (st : Stream) : List Dword × State :=
  let k := s.txIx b 0 st.num
  let cap := 4 + 8 * (st.words - 1)
  let (os, s1) := s.fillAllot b st.num (2 * (s.txPort k).size + 3) cap []
  let t := s1.txPort k
  let head := st.num * 2 ^ 56 + os.length * 2 ^ 38 + t.seq * 2 ^ 32 + (List.range 4).foldl (fun n i => n * 256 + os.getD i 0) 0
  (BitVec.ofNat 64 head :: octetWords st.words (os.drop 4), s1.setPort k { t with seq := (t.seq + 1) % 64 })

/-! ### Beats and failover -/

/-- One beat of the transmit queues of the Ethernet ports. -/
def State.txBeat (s : State) : State :=
  forEach ((s.ports.filter fun e => decide (e.1 < 384 ∧ 0 < e.2.size)).map fun e => e.1) (fun k s => s.txRun (k / 8) (k % 8)) s

/-- The stores of transmit queues of a port: an Epvozel group has one for each packet allotment. -/
def State.txOf (s : State) (b p : Nat) : List Nat :=
  if s.portType b = 1 then (s.ports.filter fun e => decide (384 + b * 256 ≤ e.1 ∧ e.1 < 640 + b * 256)).map fun e => e.1 else [b * 8 + p]

/-- Take away what Q2 holds for a port (R274). -/
def State.takeQ2 (s : State) (b p : Nat) : List TxFrame × State :=
  ((s.txOf b p).flatMap fun k => (s.txPort k).q2, forEach (s.txOf b p) (fun k s => s.setPort k { s.txPort k with q2 := [] }) s)

end Sys2Proof.Machine
end

