-- ==== Sys2Proof/Machine/Ptp.lean ====
section
/-!
DEFINITION. Machine/Ptp.lean: steering and relay of PTP messages, R382 and R386.
-/
namespace Sys2Proof.Machine

/-- Number of a port in the PTP port and relay tables. -/
def ptpPort (m : PtpMsg) : Nat := m.block * 8 + m.port

/-- Whether a time base's PTP configuration has a message's domain and sdoId, with its stack enabled. -/
def State.ptpDomain (s : State) (tb : Nat) (m : PtpMsg) : Bool :=
  bitOf (s.ent pTime 0 3 tb 0) 0 && s.entF pTime 0 3 tb 0 16 8 == m.domain.toNat && s.entF pTime 0 3 tb 1 0 12 == m.sdoId.toNat

/-- The time base of the port's mask that a message matches (R382). -/
def State.ptpMatch (s : State) (m : PtpMsg) : Option Nat :=
  if bitOf (s.ent pTime 0 4 (ptpPort m) 0) (8 + m.transport.val) then
    (List.range 8).find? fun tb => bitOf (s.ent pTime 0 4 (ptpPort m) 0) tb && s.ptpDomain tb m
  else none

/-- A message that no time base takes is counted and raises TIME's event (R382). -/
def State.ptpUnmatched (s : State) : State := (s.inc 0 (regA pTime 0x068)).raise pTime 4 0

/-- EtherType of a message's transport. -/
def ptpEtype (m : PtpMsg) : Nat := match m.transport.val with | 0 => 0x88F7 | 1 => 0x0800 | _ => 0x86DD

/-- A relayed message is offered to Q0 of an egress port whose link is up (R270, R386). -/
def State.ptpForward (s : State) (ingress corr : Nat) (m : PtpMsg) (e : Nat) : State :=
  if s.portType (e / 8) = 2 ∧ s.wireUp (e / 8) (e % 8) 0 then
    (s.txOffer (e / 8) (e % 8) 0 0 ⟨(ptpEtype m), max 60 m.bytes.toNat + 24, m.bytes.toNat - 14, none, ⟨0, 0, 1⟩, .relay ingress corr⟩).2
  else s

/-- Steer a message: relayed to the egress ports of the relay entry, with the residence time of an event message added to its
correctionField (R386), and given to the stack of the time base that it matches, or counted as unmatched (R382). -/
def State.ptpSteer (s : State) (m : PtpMsg) : State :=
  let p := ptpPort m
  let r := s.ent pTime 0 6 p 0
  let relayed := bitOf r 31 && s.ptpDomain (fld r 0 3) m
  let mask := (List.range 12).foldl (fun n i => n + (s.ent pTime 0 6 p (i + 1)).toNat * 2 ^ (32 * i)) 0
  let corr := if m.event then (m.correction + m.residence).toNat else m.correction.toNat
  let s1 := if relayed then forEach ((List.range 384).filter fun e => mask / 2 ^ e % 2 = 1) (fun e s => s.ptpForward p corr m e) s else s
  match s.ptpMatch m with
  | some tb =>
    if bitOf (s.ent pTime 0 3 tb 0) 8 then s1.emit (.ptpHost tb m.block m.port) else s1.emit (.ptpStack tb)
  | none => if relayed then s1 else s1.ptpUnmatched

/-- PTP_MESSAGE_RECEIVE: a PTP message arrives on an Ethernet port whose link is up, through the port's SecY (R117). -/
def execPtpMessageReceive (m : PtpMsg) (s : State) : Host.Outcome State Fault Refusal :=
  .next (if s.portType m.block = 2 ∧ bitOf (s.rd 0 (portA m.block 0x058)) m.port then
      let (ok, s1) := s.secyIn m.block m.port (ptpEtype m) m.macsec
      if ok then s1.ptpSteer m else s1
    else s)

end Sys2Proof.Machine
end

