-- ==== Sys2Proof/Machine/Ingress.lean ====
section
/-!
DEFINITION. Machine/Ingress.lean: the ingress slices of spec/05_ingress.md (R140 to R173): flow classification, tandem merge,
the policer, SDI structure, the paddock buffers and their grid, and the cut.
-/
namespace Sys2Proof.Machine

/-! ### Ports and entries -/

/-- Page and index of an external input port. -/
def ingPg (ei : Nat) : Nat := pIng (ei / 256)
def ingIx (ei : Nat) : Nat := ei % 256

/-- Owner of an external input port. -/
def State.eiOwner (s : State) (ei : Nat) : Nat := s.partOwner 1 ei

/-- Word w of a port's configuration entry, and of its status entry. -/
def State.ingCfg (s : State) (ei w : Nat) : Word := s.ent (ingPg ei) 0 2 (ingIx ei) w
def State.ingSt (s : State) (ei w : Nat) : Word := s.ent (ingPg ei) 0 6 (ingIx ei) w
def State.setIngSt (s : State) (ei w : Nat) (v : Word) : State := s.setEnt (ingPg ei) 0 6 (ingIx ei) w v

/-- Add to a counter word of a port's status entry, which saturates. -/
def State.countIng (s : State) (ei w n : Nat) : State := s.setIngSt ei w (wd (satAdd 32 (s.ingSt ei w).toNat n))

/-- STATE of a port: 0 IDLE, 1 ACQUIRE, 2 ALIGNED, 3 PASS, 4 CUT; and TRS_LOCK. -/
def State.padState (s : State) (ei : Nat) : Nat := fld (s.ingSt ei 0) 0 3
def State.setPadState (s : State) (ei v : Nat) : State := s.setIngSt ei 0 (setFld (s.ingSt ei 0) 0 3 v)
def State.trsLock (s : State) (ei : Nat) : Bool := bitOf (s.ingSt ei 0) 3

/-- Hidden state of a port. -/
def State.padRec (s : State) (ei : Nat) : PadRec := Tab.get (fun _ => PadRec.idle) s.pad ei
def State.setPad (s : State) (ei : Nat) (r : PadRec) : State := { s with pad := Tab.put (fun _ => PadRec.idle) s.pad ei r }

/-- Raise an ING event of a port, attributed to its owner (R171). -/
def State.ingEvent (s : State) (ei b : Nat) : State := s.raise (ingPg ei) b (s.eiOwner ei)

/-- ALIGN and TS_MODE of a port. -/
def State.align (s : State) (ei : Nat) : Nat := fld (s.ingCfg ei 0) 0 2

/-- Whether a port is cut: its bit in the P0 bank, or in the bank of its owner (R170). -/
def State.cutBit (s : State) (p ei : Nat) : Bool := bitOf (s.rd p (regA (ingPg ei) (0x080 + ingIx ei / 32 * 4))) (ei % 32)
def State.isCut (s : State) (ei : Nat) : Bool := s.cutBit 0 ei || s.cutBit (s.eiOwner ei) ei

/-- Ports of the group that a port leads, itself alone where it leads none (R33). -/
def State.groupAt (s : State) (x : Nat) : List Nat :=
  let d := s.inDesc x 0
  (List.range (if d.valid && d.mode == 1 then d.group else 1)).map fun m => x + m

/-- The words that the ports of a group still have to present are dropped. -/
def State.dropGroup (s : State) (x : Nat) : State := forEach (s.groupAt x) (fun y s => s.dropDue y) s

/-- Everything that a paddock holds is dropped, with the words that its port still has to present. -/
def State.dropPad (s : State) (ei : Nat) : State :=
  (s.setPad ei { s.padRec ei with units := [], last := [], skip := [], frameOpen := [] }).dropGroup ei

/-- The STATE that a port takes after a change of its descriptors, its configuration or its cut: an aligned port stays aligned
while it remains a grid port. A port that leaves its grid drops what its paddock holds (R161, R170). -/
def State.refreshPad (s : State) (ei : Nat) : State :=
  let cur := s.padState ei
  let want :=
    if s.isCut ei then 4
    else if (s.slotsOf ei).isEmpty || s.align ei == 0 then 0
    else if s.align ei = 2 then 3
    else if cur = 2 then 2
    else 1
  if want = cur then s
  else
    let s1 := (s.setPadState ei want).dropPad ei
    if want = 4 ∨ want = 0 then s1.setPad ei { s1.padRec ei with long := [] } else s1

/-- A slot's descriptor has been written: what the paddock holds of the slot is dropped. A port that carries no other essence acquires
its grid again with the descriptor (R161). -/
def State.newDesc (s : State) (ei slot : Nat) : State :=
  let r := s.padRec ei
  let others := (s.slotsOf ei).any fun k => k != slot
  let q := (Tab.get (fun _ => []) s.fab.due ei).filter fun e => e.2.slot != slot
  let s1 := s.setPad ei { r with
    units := r.units.filter fun u => u.slot != slot
    last := Tab.del r.last slot
    skip := Tab.del r.skip slot
    firsts := r.firsts.filter fun e => e.1 != slot
    frameOpen := r.frameOpen.filter fun k => k != slot }
  let s2 := if others then { s1 with fab := { s1.fab with due := Tab.put (fun _ => []) s1.fab.due ei q } } else s1.dropGroup ei
  (if s2.padState ei = 2 ∧ !others then s2.setPadState ei 1 else s2).refreshPad ei

/-- Every grid port of a time base goes back to ACQUIRE (R164). -/
def State.reacquire (s : State) (tb : Nat) : State :=
  forEach (idxs 4096 fun ei => s.padState ei == 2 && ((s.slotsOf ei).any fun k => (s.inDesc ei k).tb == tb))
    (fun ei s => (s.setPadState ei 1).dropPad ei) s

/-! ### The grid, R157 to R160 -/

/-- Units per second of a descriptor: lines, sample periods or frames. -/
def Desc.unitRate (d : Desc) : Nat × Nat :=
  if d.kind = 0 ∨ d.kind = 4 then (d.frameRate.1 * max 1 d.total, d.frameRate.2)
  else if d.audio then (d.sampleRate, 1)
  else d.frameRate

/-- Nominal instant of unit u (R159). -/
def Desc.unitAt (d : Desc) (u : Int) : At := ⟨d.tb, u * (d.unitRate.2 * 1000000000 : Nat), d.unitRate.1⟩

/-- The latest unit whose nominal instant is at or before an instant. -/
def Desc.unitBy (d : Desc) (a : At) : Int := (a.num * (d.unitRate.1 : Int)) / ((a.den * d.unitRate.2 * 1000000000 : Nat) : Int)

/-- When a unit of a grid port is shown: its nominal instant and the alignment delay (R159). -/
def State.shownAt (s : State) (d : Desc) (u : Int) : At := (d.unitAt u).add (s.padD d.tb) 1

/-- The latest unit of a grid port whose presentation instant has come. -/
def State.unitDue (s : State) (d : Desc) : Int := d.unitBy ((s.nowAt d.tb).add (-(s.padD d.tb : Int)) 1)

/-- A port's latency of a unit: arrival less nominal instant, in ns (R157). -/
def State.latency (s : State) (d : Desc) (u : Int) : Int := -(s.until (d.unitAt u)) / 65536

/-- Keep LAT_MIN and LAT_MAX of a port. -/
def State.noteLatency (s : State) (ei : Nat) (l : Int) : State :=
  let r := s.padRec ei
  let lo := if r.latSeen then min l (sext 32 (s.ingSt ei 1).toNat) else l
  let hi := if r.latSeen then max l (sext 32 (s.ingSt ei 2).toNat) else l
  ((s.setIngSt ei 1 (wd (toBits 32 lo))).setIngSt ei 2 (wd (toBits 32 hi))).setPad ei { r with latSeen := true }

/-- Ticks of an RTP clock at an instant, before they wrap. -/
def ticksAt (clk : Nat) (a : At) : Int := (a.num * (clk : Int)) / ((a.den * 1000000000 : Nat) : Int)

/-- The RTP timestamp of a packet as ticks near the present. -/
def State.rtpTicks (s : State) (clk tb : Nat) (rtp : Word) : Int :=
  let now := ticksAt clk (s.nowAt tb)
  now - sext 32 (toBits 32 (now - (rtp.toNat : Int)))

/-- The frame whose aligned timestamp equals the packet's within TS_TOL ticks (R160). -/
def State.frameByRtp (s : State) (d : Desc) (rtp : Word) : Option Int :=
  let (fn, fd) := d.frameRate
  let x := s.rtpTicks 90000 d.tb rtp
  let tol : Int := s.rdF 0 (regA (pIng 0) 0x040) 4 4
  let k0 := (x * (fn : Int)) / ((90000 * fd : Nat) : Int)
  let near (k : Int) : Bool :=
    let t := ticksAt 90000 ⟨d.tb, k * (fd * 1000000000 : Nat), fn⟩
    decide (t - x ≤ tol ∧ x - t ≤ tol)
  if near k0 then some k0 else if near (k0 + 1) then some (k0 + 1) else none

/-- The frame of a packet: by its timestamp with TS_MODE 0, else by arrival; and whether the timestamp failed to match. -/
def State.frameOf (s : State) (d : Desc) (byArrival : Bool) (rtp : Word) : Int × Bool :=
  let (fn, fd) := d.frameRate
  let now := s.nowAt d.tb
  let arr := (now.num * (fn : Int)) / ((now.den * fd * 1000000000 : Nat) : Int)
  if byArrival then (arr, false)
  else
    match s.frameByRtp d rtp with
    | some k => (k, false)
    | none => (arr, true)

/-! ### Packings, R21 to R28 -/

/-- Six 12-bit samples as a word, first sample highest. -/
def word6 (l : List (BitVec 12)) : BitVec 72 := (List.range 6).foldl (fun w i => w * 4096#72 + (l.getD i 0).setWidth 72) 0

/-- Fields of b bits from the top of a word, with `low` bits left 0 below them. -/
def wordOf (b low : Nat) (l : List Nat) : BitVec 72 := BitVec.ofNat 72 (l.foldl (fun w v => w * 2 ^ b + v % 2 ^ b) 0 * 2 ^ low)

/-- Cut a list into runs of n. -/
def chunks {α : Type} (n : Nat) : Nat → List α → List (List α)
  | 0, _ => []
  | _, [] => []
  | fuel + 1, l => l.take n :: chunks n fuel (l.drop n)

/-- A list padded to n entries. -/
def padTo (n : Nat) (l : List Nat) : List Nat := l ++ List.replicate (n - l.length) 0

/-- A PCM sample period of C channels, left-justified samples, R23. -/
def packPcm (c : Nat) (l : List (BitVec 24)) : List (BitVec 72) :=
  let v := padTo (cdiv c 3 * 3) ((l.take c).map fun x => x.toNat)
  (chunks 3 v.length v).map fun w => wordOf 24 0 w

/-- An AES3 sample period of P pairs, R24. -/
def packAes (p : Nat) (l : List (Word × Word)) : List (BitVec 72) :=
  (List.range p).map fun i =>
    let (a, b) := l.getD i (0, 0)
    wordOf 32 8 [a.toNat, b.toNat]

/-- An ancillary packet: header word and user data, R26. -/
def packAnc (a : AncPacket) : List (BitVec 72) :=
  let h := ((((((a.line.toNat * 2 ^ 12 + a.hoff.toNat) * 2 + (if a.c then 1 else 0)) * 2 ^ 7 + a.stream.toNat) * 2 ^ 10 +
    a.did.toNat) * 2 ^ 10 + a.sdid.toNat) * 2 ^ 10 + a.dc.toNat) * 2 ^ 11
  BitVec.ofNat 72 h :: ((chunks 7 a.udw.length (a.udw.map fun x => x.toNat)).map fun w => wordOf 10 2 (padTo 7 w))

/-- Words of one packet, period or unit of a packing, in consecutive beats from beat b on: SOL on the first. -/
def solWords (b : Nat) (ws : List (BitVec 72)) : List PadWord := ws.zipIdx.map fun (w, i) => ⟨b + i, w, i == 0⟩

/-- The ancillary words of some packets: every header word has SOL. Without packets, one header word with DC = 0 (R26). -/
def packAncs : List AncPacket → List PadWord
  | [] => [⟨0, 0, true⟩]
  | l => l.flatMap fun a => solWords 0 (packAnc a)

/-- An opaque unit: its length, then its bytes, R28. -/
def packOpaque (l : List Byte) : List (BitVec 72) :=
  let v := [l.length / 256 % 256, l.length % 256] ++ l.map fun x => x.toNat
  (chunks 9 v.length v).map fun w => wordOf 8 0 (padTo 9 w)

/-- SDI words as bitstream words (R27): six to a word from W[71:62] down, their count in W[11:9], and in W[8:0] the arrival phase of the
first in 1/512 beat. The first word, which begins the EAV, has SOL. -/
def packSdi (l : List SdiWord) : List PadWord :=
  (chunks 6 l.length l).zipIdx.map fun (c, i) =>
    let t := (c.head?.map fun x => x.t).getD 0
    ⟨t / 512, wordOf 10 12 (padTo 6 (c.map fun x => x.w.toNat)) ||| BitVec.ofNat 72 (c.length * 512 + t % 512), i == 0⟩

/-! ### Raster lines, R149 -/

/-- Active lines of the first and of the second field or segment: first line and number of lines. -/
def activeLines (raster scan : Nat) : (Nat × Nat) × (Nat × Nat) :=
  match raster with
  | 0 => ((23, 288), (336, 288))
  | 1 => ((21, 243), (283, 243))
  | 2 => ((26, 720), (0, 0))
  | 3 => if scan = 0 then ((42, 1080), (0, 0)) else ((21, 540), (584, 540))
  | 4 => if scan = 0 then ((42, 1080), (0, 0)) else ((21, 540), (584, 540))
  | 5 => if scan = 0 then ((83, 2160), (0, 0)) else ((42, 1080), (1167, 1080))
  | 6 => if scan = 0 then ((83, 2160), (0, 0)) else ((42, 1080), (1167, 1080))
  | _ => if scan = 0 then ((165, 4320), (0, 0)) else ((83, 2160), (2333, 2160))

/-- Whether a line of the total raster is active. -/
def Desc.active (d : Desc) (line : Nat) : Bool :=
  let ((a, n), (b, m)) := activeLines d.raster d.scan
  decide ((a ≤ line ∧ line < a + n) ∨ (b ≤ line ∧ line < b + m))

/-- The line on which a row lands, if the raster has it. -/
def Desc.rowLine (d : Desc) (second : Bool) (row : Nat) : Option Nat :=
  let ((a, n), (b, m)) := activeLines d.raster d.scan
  if second then (if row < m then some (b + row) else none) else if row < n then some (a + row) else none

/-- Line number of a line unit, from 1. -/
def Desc.lineOf (d : Desc) (u : Int) : Nat := (u % (max 1 d.total : Nat)).toNat + 1

/-- The line marker word of R21. The second field is that of the second half of the frame (log entry 37). -/
def Desc.marker (d : Desc) (line : Nat) : BitVec 72 :=
  let second := d.scan != 0 && decide (d.total ≤ 2 * (line - 1))
  BitVec.ofNat 72 (line % 65536 + if second then 65536 else 0)

/-- Words of an active line from the samples that have come; the others are 0. -/
def lineWords (w : Nat) (us : List PadUnit) : List (BitVec 72) :=
  let at' (i : Nat) : BitVec 12 :=
    match us.find? fun u => decide (u.off ≤ i ∧ i < u.off + u.samples.length) with
    | some u => u.samples.getD (i - u.off) 0
    | none => 0
  (List.range w).map fun j => word6 ((List.range 6).map fun i => at' (6 * j + i))

/-- Line period in beats, rounded down. -/
def Desc.lineBeats (d : Desc) : Nat := 345600000 * d.frameRate.2 / (d.frameRate.1 * max 1 d.total)

/-- Whether a sample period is the first at or after a frame start (R25), and whether it is one at which the descriptor's switch
rule places SWP. -/
def Desc.periodSof (d : Desc) (n : Int) : Bool :=
  let (fn, fd) := d.frameRate
  let sr : Int := d.sampleRate
  let k := n * (fn : Int) / (sr * (fd : Int))
  let first := -(-(k * (fd : Int) * sr) / (fn : Int))
  first == n
def Desc.periodSwp (d : Desc) (n : Int) : Bool :=
  if d.swrule = 2 then true
  else
    let (fn, fd) := d.frameRate
    let at' : At := ⟨d.tb, n * 1000000000, d.sampleRate⟩
    let back := at'.add (-(2 * fd * 1000000000 : Nat)) fn
    let rec go : Nat → At → Bool
      | 0, _ => false
      | fuel + 1, v =>
        if !v.le at' then false
        else if (let f := firstSample d.sampleRate v; f.le at' && at'.le f) then true
        else go fuel (firstVideo d (v.add 1 1000000))
    go 6 (firstVideo d back)

/-! ### Frame synchronisers at a port, R237 to R243 -/

/-- The valid frame synchroniser of a slot: a primary serves slot 0 of its port. -/
def State.fsOf (s : State) (ei slot : Nat) : Option Nat :=
  (s.entIdxs pReel 0 3 0 fun w => bitOf w 31).find? fun f =>
    let w := s.ent pReel 0 3 f 0
    fld w 0 12 == ei && (if bitOf w 30 then fld w 16 4 else 0) == slot

/-- Hidden state of a frame synchroniser. -/
def State.fsRec (s : State) (f : Nat) : FsRec := Tab.get (fun _ => FsRec.idle) s.reel.fs f
def State.setFs (s : State) (f : Nat) (r : FsRec) : State :=
  { s with reel := { s.reel with fs := Tab.put (fun _ => FsRec.idle) s.reel.fs f r } }

/-- Whether an entry is linked, and its primary. -/
def State.fsLinked (s : State) (f : Nat) : Bool := bitOf (s.ent pReel 0 3 f 0) 30
def State.fsPrimary (s : State) (f : Nat) : Nat := if s.fsLinked f then s.entF pReel 0 3 f 1 0 10 else f

/-- The black sample of a raster at its COLOUR and FULL, for sample i of a line (R242; log entry 40). -/
def Desc.blackSample (d : Desc) (i : Nat) : BitVec 12 :=
  let luma : BitVec 12 := if bitOf d.w1 14 then 0 else 256
  if 2 ≤ d.colour then luma
  else if d.sampling = 1 then (if i % 3 = 0 then luma else 2048)
  else if i % 2 = 0 then 2048 else luma

/-- The output frame that a unit belongs to. -/
def Desc.frameOfUnit (d : Desc) (u : Int) : Int :=
  if d.kind = 0 ∨ d.kind = 4 then u / ((max 1 d.total : Nat) : Int)
  else if d.audio then u * ((d.frameRate.1 : Nat) : Int) / ((d.sampleRate * d.frameRate.2 : Nat) : Int)
  else u

/-- First sample period or only unit of an output frame. -/
def Desc.firstOfFrame (d : Desc) (k : Int) : Int :=
  if d.kind = 0 ∨ d.kind = 4 then k * ((max 1 d.total : Nat) : Int)
  else if d.audio then -(-(k * ((d.frameRate.2 * d.sampleRate : Nat) : Int)) / ((d.frameRate.1 : Nat) : Int))
  else k

/-- What a frame synchroniser gives for unit u of its port: nothing where the port shows VALID = 0 words (R242), else the parts
of the unit in the frame chosen for its output frame. -/
def State.fsParts (s : State) (f : Nat) (d : Desc) (u : Int) : Option (List PadUnit) :=
  let p := s.fsPrimary f
  let k := d.frameOfUnit u
  match (((s.fsRec p).chosen.find? fun e => e.1 == k).map fun e => e.2 : Option FsPick) with
  | none => none
  | some .none => none
  | some .black =>
    some (if d.kind = 0 ∧ d.active (d.lineOf u) then
      [⟨0, u, 0, (List.range d.lineFields).map d.blackSample, [], s.shownAt d u, false, []⟩] else [])
  | some (.frame n) =>
    match (s.fsRec f).frames.find? fun fr => fr.num == n with
    | none => some []
    | some fr =>
      if d.kind = 0 ∨ d.kind = 4 then some (fr.units.filter fun x => d.lineOf x.unit == d.lineOf u)
      else
        match fr.start with
        | some a =>
          let base := if d.audio then (firstSample d.sampleRate a).num / 1000000000 else (fr.units.head?.map fun x => x.unit).getD 0
          some (fr.units.filter fun x => x.unit - base == u - d.firstOfFrame k)
        | none => some fr.units

/-- Put units into the frame of a frame synchroniser being written. -/
def FsRec.store (r : FsRec) (num : Nat) (start : Option At) (us : List PadUnit) : FsRec :=
  if r.frames.any fun fr => fr.num == num then
    { r with frames := r.frames.map fun fr => if fr.num = num then { fr with units := fr.units ++ us } else fr }
  else { r with frames := r.frames ++ [⟨num, none, start, us⟩] }

/-- The primary's source frame whose interval holds an instant (R243). -/
def FsRec.frameAt (r : FsRec) (a : At) : Nat :=
  (r.frames.foldl (fun n fr => match fr.start with
    | some b => if b.le a then fr.num else n
    | none => n) (r.frames.head?.map (fun fr => fr.num) |>.getD r.writing))

/-- Units arrive at a slot that a frame synchroniser serves. -/
def State.fsTake (s : State) (f : Nat) (d : Desc) (us : List PadUnit) : State :=
  match us with
  | [] => s
  | u0 :: _ =>
    let k := d.firstOfFrame (d.frameOfUnit u0.unit)
    if s.fsLinked f then
      let pr := s.fsRec (s.fsPrimary f)
      us.foldl (fun s u =>
        let n := pr.frameAt (d.unitAt u.unit)
        s.setFs f ((s.fsRec f).store n ((pr.frames.find? fun fr => fr.num == n).bind fun fr => fr.start) [u])) s
    else s.setFs f ((s.fsRec f).store (s.fsRec f).writing (some (d.unitAt k)) us)

/-! ### Presenting a unit, R159 -/

/-- Words laid on a group of n ports, with their rows and members: n to a row, each word with SOL on member 0 of a new row (R34). Each
word takes the beat of its row's first. -/
def layRows (n : Nat) : Nat → Nat → Nat → List (Nat × FWord) → List (Nat × Nat × Nat × FWord)
  | _, _, _, [] => []
  | row, m, b, (b', w) :: l =>
    if m = 0 ∨ n ≤ m ∨ w.sol then
      let row' := if m = 0 then row else row + 1
      (row', 0, b', w) :: layRows n row' 1 b' l
    else (row, m, b, w) :: layRows n row (m + 1) b l

/-- Put the words of a group on its ports (R34): the ports of members that are cut stay idle (R170). -/
def State.presentGroup (s : State) (x n slot start : Nat) (rows : List (Nat × Nat × FWord)) : State :=
  forEach ((List.range n).filter fun m => !s.isCut (x + m)) (fun m s =>
    s.present (x + m) ((rows.filter fun e => e.1 == m).map fun e => (start + e.2.1, e.2.2.withSlot (if n = 1 then slot else m)))) s

/-- Words of a slot that its ports still have to present are dropped, and their unit is counted as late (R159). -/
def State.dropUnsent (s : State) (ei slot : Nat) : State :=
  let group := s.groupAt ei
  let mine (x : Nat) (w : FWord) : Bool := x != ei || group.length != 1 || w.slot == slot
  let left := group.any fun x => (Tab.get (fun _ => []) s.fab.due x).any fun e => mine x e.2
  if left then
    (forEach group (fun x s =>
      { s with fab := { s.fab with
          due := Tab.put (fun _ => []) s.fab.due x ((Tab.get (fun _ => []) s.fab.due x).filter fun e => !mine x e.2) } }) s).countIng
      ei 4 1
  else s

/-- The words of unit u of a slot, each with its beat after the first, where the kind sets it, and its flags. `us` are the unit's
parts in the paddock; `begins` says that they begin the unit. -/
def Desc.unitWords (d : Desc) (u : Int) (us : List PadUnit) (begins : Bool) : List (Nat × FWord) :=
  let line := d.lineOf u
  let plain (sof swp : Bool) (ws : List (BitVec 72)) : List (Nat × FWord) :=
    ws.zipIdx.map fun (w, i) => (0, fword w (sof && i == 0) (i == 0) (swp && i == 0) 0)
  match d.kind with
  | 0 =>
    if d.active line then
      let n := d.group
      (plain (line == 1) false (lineWords d.wpl us)).zipIdx.map fun (e, j) => (j / n * d.lineBeats / cdiv d.wpl n, e.2)
    else plain (line == 1) (d.switchLines.contains line) [d.marker line]
  | 1 =>
    let ws := us.flatMap fun x => x.words.map fun e => e.data
    plain (d.periodSof u) (d.periodSwp u) (if ws.isEmpty then List.replicate (cdiv d.channels 3) 0 else ws.take (cdiv d.channels 3))
  | 2 =>
    let ws := us.flatMap fun x => x.words.map fun e => e.data
    plain (d.periodSof u) (d.periodSwp u) (if ws.isEmpty then List.replicate d.channels 0 else ws.take d.channels)
  | 3 =>
    (us.flatMap fun x => x.words).zipIdx.map fun (w, i) =>
      (0, fword w.data (begins && i == 0) w.sol (begins && i == 0) 0)
  | 4 =>
    us.flatMap fun x => x.words.map fun w => (w.beat, fword w.data (w.sol && line == 1) w.sol (w.sol && d.switchLines.contains line) 0)
  | _ => us.flatMap fun x => x.words.map fun w => (0, fword w.data (x.first && w.sol) w.sol (x.first && w.sol) 0)

/-- The instant at which unit u of a port that is shown now enters the audio crosspoint: in pass mode PASS_US after its own (R163). -/
def State.audShift (s : State) (ei : Nat) (d : Desc) : Int :=
  if s.padState ei = 3 then
    ((1000 * fld (s.ingCfg ei 1) 16 16 : Nat) - (s.padD d.tb : Nat) : Int) * (d.sampleRate : Int) / 1000000000
  else 0

/-- The samples of a PCM period that is presented go to the crosspoint inputs of the slot's flows with AUD_EN (R145), and those of an
SDI line to the inputs of the port's de-embedder, in the first sample periods whose presentation instants follow the line (R154). -/
def State.presentAudio (s : State) (ei slot : Nat) (d : Desc) (u : Int) (us : List PadUnit) : State :=
  if d.kind = 1 then
    let fs := s.slotFlows ei slot
    if fs.isEmpty then s
    else
      let ws := ((d.unitWords u us true).map fun e => e.2.data)
      let vs := (ws.flatMap fun w => [BitVec.ofNat 24 (w.toNat / 2 ^ 48), BitVec.ofNat 24 (w.toNat / 2 ^ 24), BitVec.ofNat 24 w.toNat]).take
        d.channels
      forEach ((fs.map fun f => f.2).eraseDups)
        (fun base s => s.audGive (fs.map fun f => f.1) (gridOf d.tb d.srate) base (u + s.audShift ei d) vs) s
  else
    let x := s.ent (ingPg ei) 0 3 (ingIx ei) 0
    if d.kind = 4 ∧ bitOf x 0 ∧ slot = 0 then
      let most := if d.sdiclass = 0 then 16 else 32
      let nch := fld x 8 6
      let at' := if s.padState ei = 3 then s.nowAt d.tb else s.shownAt d u
      s.audLine ei (fld x 16 16) (if nch = 0 then most else min nch most) (gridOf d.tb 0) (s.periodFrom (gridOf d.tb 0) at')
        (us.flatMap fun y => y.audio)
    else s

/-- Present unit u of a slot from the beat `start` on. An ancillary or opaque frame of which nothing came has no words; an SDI
port presents nothing without TRS_LOCK (R150, R151). Answers the state and the number of beats taken. -/
def State.presentUnit (s : State) (ei slot : Nat) (u : Int) (us : List PadUnit) (begins : Bool) (start : Nat) : State × Nat :=
  let d := s.inDesc ei slot
  if d.kind = 4 ∧ !s.trsLock ei then (s, 0)
  else
    let n := if d.mode = 1 then d.group else 1
    let rows := (layRows n 0 0 0 (d.unitWords u us begins)).map fun e =>
      (e.2.1, (if d.kind = 0 ∨ d.kind = 4 then e.2.2.1 else e.1), e.2.2.2)
    let beats := if rows.isEmpty then 0 else rows.foldl (fun m e => max m e.2.1) 0 + 1
    ((s.presentGroup ei n slot start rows).presentAudio ei slot d u us, beats)

/-- The SDI port of the slice whose extraction feeds a slot with ancillary packets (R155), other than `but`. -/
def State.ancSource (s : State) (ei slot : Nat) (but : Option Nat) : Option Nat :=
  ((s.entIdxs (ingPg ei) 0 3 0 fun w => bitOf w 1).find? fun i =>
    let w := s.ent (ingPg ei) 0 3 i 1
    some i != but && fld w 0 8 == ingIx ei && fld w 8 4 == slot).map fun i => ei / 256 * 256 + i

/-- The parts of a unit that is due. A frame of a slot fed by extraction from a locked SDI port, without a packet, is one header word
with DC = 0 (R26; log entry 148). -/
def State.dueParts (s : State) (ei slot : Nat) (d : Desc) (u : Int) : Option (List PadUnit) :=
  match s.fsOf ei slot with
  | some f => s.fsParts f d u
  | none =>
    let us := (s.padRec ei).units.filter fun x => x.slot == slot && x.unit == u
    some (if d.kind = 3 && us.isEmpty && (s.ancSource ei slot none).any (fun x => s.trsLock x) then
        [⟨slot, u, 0, [], packAncs [], s.shownAt d u, true, []⟩]
      else us)

/-- Present what is due at a grid port: for each slot, in ascending slot order, the latest unit whose instant has come. Units due
in one beat follow one another (R159). -/
def State.presentGrid (s : State) (ei : Nat) : State :=
  ((s.slotsOf ei).foldl (fun (acc : State × Nat) k =>
    let s := acc.1
    let d := s.inDesc ei k
    let u := s.unitDue d
    let r := s.padRec ei
    let due := match Tab.get (fun _ => none) r.last k with
      | some l => decide (l < u)
      | none => true
    if !due then acc
    else
      let parts := s.dueParts ei k d u
      let s1 := (s.dropUnsent ei k).setPad ei { r with
        units := r.units.filter fun x => !(x.slot == k && decide (x.unit ≤ u))
        last := Tab.ins r.last k (some u) }
      let (s2, n) := match parts with
        | some us => s1.presentUnit ei k u us true acc.2
        | none => (s1, 0)
      (s2, if d.mode = 3 then acc.2 + n else acc.2)) (s, s.beat)).1

/-- Line markers that a pass-mode raster owes before the line it presents (log entry 38). -/
def State.passMarkers (s : State) (ei slot : Nat) (u : Int) : State :=
  let d := s.inDesc ei slot
  match d.kind, Tab.get (fun _ => none) (s.padRec ei).last slot with
  | 0, some l =>
    let k := min (u - l - 1).toNat (2 * max 1 d.total)
    forEach ((List.range k).filter fun (i : Nat) => !d.active (d.lineOf (u - (k : Int) + (i : Int))))
      (fun i s => (s.presentUnit ei slot (u - (k : Int) + (i : Int)) [] true s.beat).1) s
  | _, _ => s

/-- Present what is due at a pass port: each unit PASS_US after its first word's arrival (R163), with the parts that have come by then.
Packets of an ancillary or opaque frame are presented one by one, each PASS_US after its own arrival (log entry 149). -/
def State.presentPass (s : State) (ei : Nat) : State :=
  match (s.padRec ei).units.find? fun x => s.reached x.shown with
  | none => s
  | some x =>
    let r := s.padRec ei
    let d := s.inDesc ei x.slot
    let whole := !(d.kind == 3 || d.kind == 5)
    let us := if whole then r.units.filter fun y => y.slot == x.slot && y.unit == x.unit else [x]
    let begins := Tab.get (fun _ => none) r.last x.slot != some x.unit
    let s1 := s.passMarkers ei x.slot x.unit
    let s2 := s1.setPad ei { r with
      units := if whole then r.units.filter fun y => !(y.slot == x.slot && y.unit == x.unit) else r.units.erase x
      last := Tab.ins r.last x.slot (some x.unit) }
    (s2.presentUnit ei x.slot x.unit us begins s.beat).1

/-- UNIT_PRESENT: the presentation beat of a unit of a port. -/
def execUnitPresent (ei : Fin 4096) (s : State) : Host.Outcome State Fault Refusal :=
  .next (if s.padState ei = 2 then s.presentGrid ei
    else if s.padState ei = 3 then s.presentPass ei
    else s)

/-! ### Taking units into the paddock -/

/-- Words that a part of a unit occupies. -/
def PadUnit.size (u : PadUnit) : Nat := if u.samples.isEmpty then u.words.length else cdiv u.samples.length 6

/-- The part of a unit that fits in n words. -/
def PadUnit.fit (u : PadUnit) (n : Nat) : PadUnit := { u with samples := u.samples.take (6 * n), words := u.words.take n }

/-- Words in a port's paddock; whether a port's base pages are lent: with LEND = 1 while it has no valid descriptor; and the pages that
it holds (R158). -/
def PadRec.fill (r : PadRec) : Nat := r.units.foldl (fun n u => n + u.size) 0
def State.lends (s : State) (ei : Nat) : Bool := bitOf (s.ingCfg ei 0) 3 && (s.slotsOf ei).isEmpty
def State.pages (s : State) (ei : Nat) : Nat := (if s.lends ei then 0 else 16) + fld (s.ingCfg ei 0) 4 9

/-- A frame period of the port's descriptor has passed since a beat (R162). -/
def State.framePassed (s : State) (d : Desc) (since : Option Nat) : Bool :=
  match since with
  | none => true
  | some b => decide (345600000 * d.frameRate.2 ≤ (s.beat - b) * d.frameRate.1)

/-- A late unit: dropped and counted; ING.LATE rises at most once per frame period (R162). -/
def State.lateUnit (s : State) (ei : Nat) (d : Desc) : State :=
  let s1 := s.countIng ei 4 1
  if s1.framePassed d (s1.padRec ei).lateAt then
    (s1.setPad ei { s1.padRec ei with lateAt := some s1.beat }).ingEvent ei 0
  else s1

/-- Words that find the pages full: dropped and counted; ING.EARLY likewise. -/
def State.earlyWords (s : State) (ei n : Nat) (d : Desc) : State :=
  let s1 := s.countIng ei 5 n
  if s1.framePassed d (s1.padRec ei).earlyAt then
    (s1.setPad ei { s1.padRec ei with earlyAt := some s1.beat }).ingEvent ei 1
  else s1

/-- The policer's verdict on n words of a slot: a bucket of depth BURST filled at RATE words per 65,536 beats (R169). -/
def State.police (s : State) (ei slot n : Nat) : Bool × State :=
  let d := s.inDesc ei slot
  let depth := (let b := fld (s.ingCfg ei 2) 0 16; if b = 0 then 4096 else b) * 65536
  let r := s.padRec ei
  let (lvl, since) := (Tab.get (fun _ => none) r.tokens slot).getD (depth, s.beat)
  let have' := min depth (lvl + d.rate * (s.beat - since))
  let ok := decide (n * 65536 ≤ have')
  (ok, s.setPad ei { r with tokens := Tab.ins r.tokens slot (some (if ok then have' - n * 65536 else have', s.beat)) })

/-- Whether part of a unit of a slot has arrived before (R157). -/
def PadRec.begun (r : PadRec) (slot : Nat) (u : Int) : Bool := r.firsts.contains (slot, u)

/-- Store one unit, or a part of one, at a port that runs (R162): the words that find the pages full are dropped, and what comes after
the unit's presentation beat is dropped; the unit is late where its first word comes then. What is left of the unit that the slot
discarded when it acquired its grid is not late (R161), and at a pass port nothing is (R163). -/
def State.storeUnit (s : State) (ei : Nat) (starts : Bool) (u : PadUnit) : State :=
  let d := s.inDesc ei u.slot
  let r := s.padRec ei
  let passed : Bool := match Tab.get (fun _ => none) r.last u.slot with
    | some l => decide (u.unit ≤ l)
    | none => false
  let skipped := Tab.get (fun _ => none) r.skip u.slot == some u.unit
  if s.padState ei = 2 ∧ passed then (if starts && !skipped then s.lateUnit ei d else s)
  else if s.padState ei = 3 ∧ !starts ∧ d.kind ≠ 3 ∧ d.kind ≠ 5 ∧ !r.units.any (fun y => y.slot == u.slot && y.unit == u.unit) then s
  else
    let free := s.pages ei * 455 - r.fill
    let s1 := if free < u.size then s.earlyWords ei (u.size - free) d else s
    let v := u.fit free
    if v.size = 0 then s1
    else
      let r1 := s1.padRec ei
      let first := v.first || (d.kind == 5 && !r1.frameOpen.contains u.slot)
      let r2 := { r1 with
        units := r1.units ++ [{ v with first := first }]
        frameOpen := if d.kind = 5 then u.slot :: r1.frameOpen.filter (fun k => k != u.slot) else r1.frameOpen }
      let s2 := s1.setPad ei r2
      s2.setIngSt ei 3 (wd (max (s2.ingSt ei 3).toNat r2.fill))

/-- Acquire the grid with the arriving unit, where the port is in ACQUIRE (R161): the first unit presented is the arriving one if
its presentation beat is still to come, else the next, and the arriving unit is discarded. -/
def State.acquire (s : State) (ei slot : Nat) (u : Int) : State :=
  if s.padState ei ≠ 1 then s
  else
    let d := s.inDesc ei slot
    let ahead := decide (0 ≤ s.until (s.shownAt d u))
    let base := (s.slotsOf ei).foldl (fun l k =>
      let dk := s.inDesc ei k
      Tab.ins l k (some (if k = slot then (if ahead then u - 1 else max u (s.unitDue dk)) else s.unitDue dk))) []
    let r := s.padRec ei
    (s.setPadState ei 2).setPad ei { r with last := base, skip := if ahead then r.skip else Tab.ins r.skip slot (some u) }

/-- A unit, or a part of one, arrives at a slot: with the unit's first word, its latency is kept (R157) and a timestamp that matched
nothing is counted (R160); the port acquires its grid; and the part goes to the frame synchroniser of the slot or to the paddock. -/
def State.takeUnit (s : State) (ei slot : Nat) (bad : Bool) (u : PadUnit) : State :=
  if s.padState ei = 0 ∨ s.padState ei = 4 then s
  else
    let d := s.inDesc ei slot
    let r := s.padRec ei
    let starts := !r.begun slot u.unit
    let s1 := if starts then
        let s1 := (s.setPad ei { r with firsts := ((slot, u.unit) :: r.firsts).take 4096 }).noteLatency ei (s.latency d u.unit)
        if bad then s1.countIng ei 7 1 else s1
      else s
    let s2 := s1.acquire ei slot u.unit
    match s2.fsOf ei slot with
    | some f =>
      if d.kind = 5 then
        let r2 := s2.padRec ei
        (s2.setPad ei { r2 with frameOpen := slot :: r2.frameOpen.filter fun k => k != slot }).fsTake f d
          [{ u with first := u.first || !r2.frameOpen.contains slot }]
      else s2.fsTake f d [u]
    | none =>
      let pass := (s2.nowAt d.tb).add (1000 * fld (s2.ingCfg ei 1) 16 16 : Nat) 1
      let shown := match (s2.padRec ei).units.find? fun y => y.slot == slot && y.unit == u.unit with
        | some y => if d.kind = 3 ∨ d.kind = 5 then pass else y.shown
        | none => pass
      s2.storeUnit ei starts (if s2.padState ei = 3 then { u with shown := shown } else u)

/-- The parts of units that a payload makes for a slot, and whether its timestamp failed to match (R148 to R150, R160). `whole` says
that an opaque payload is a media frame of its own. -/
def State.unitsOf (s : State) (ei slot : Nat) (byArrival whole : Bool) (rtp : Word) (body : Payload) : List PadUnit × Bool :=
  let d := s.inDesc ei slot
  let mk (u : Int) (off : Nat) (sm : List (BitVec 12)) (ws : List PadWord) : PadUnit :=
    ⟨slot, u, off, sm, ws, s.shownAt d u, whole, []⟩
  let now := s.nowAt d.tb
  match body with
  | .raster rows =>
    let (k, bad) := s.frameOf d byArrival rtp
    let tot : Int := (max 1 d.total : Nat)
    let per := if d.sampling = 1 then 3 else 2
    (rows.filterMap fun r =>
      match d.rowLine r.second r.row with
      | none => none
      | some line =>
        let u := if byArrival || bad then
            let u0 := d.unitBy now
            u0 - (u0 - ((line - 1 : Nat) : Int)) % tot
          else k * tot + ((line - 1 : Nat) : Int)
        let sm := (r.samples.take (d.lineFields - r.off * per)).map (justify d.sampleBits)
        if sm.isEmpty then none else some (mk u (r.off * per) sm [], line).1, bad)
  | .pcm bits ps =>
    let n0 := if byArrival then d.unitBy now - ((ps.length - 1 : Nat) : Int) else s.rtpTicks d.sampleRate d.tb rtp
    (ps.zipIdx.map fun (p, i) => mk (n0 + i) 0 [] (solWords 0 (packPcm d.channels (p.map (justify bits)))), false)
  | .aes3 ps =>
    let n0 := if byArrival then d.unitBy now - ((ps.length - 1 : Nat) : Int) else s.rtpTicks d.sampleRate d.tb rtp
    (ps.zipIdx.map fun (p, i) => mk (n0 + i) 0 [] (solWords 0 (packAes d.channels p)), false)
  | .anc l =>
    let (k, bad) := s.frameOf d byArrival rtp
    ([mk k 0 [] (packAncs l)], bad)
  | .opaque l =>
    let (k, bad) := s.frameOf d byArrival rtp
    ([mk k 0 [] (solWords 0 (packOpaque l))], bad)
  | .sdi => ([], false)

/-- Whether a parser can read a payload for a descriptor: the payload of its KIND, within the limits of R148 and the descriptor's
format. -/
def Desc.reads (d : Desc) : Payload → Bool
  | .raster rows =>
    let per := if d.sampling = 1 then 3 else 2
    d.kind == 0 && decide (rows.length ≤ 3) &&
      rows.all fun r => (d.rowLine r.second r.row).isSome && decide (r.off * per + r.samples.length ≤ d.lineFields)
  | .pcm bits ps =>
    d.kind == 1 && (bits == 16 || bits == 24) && decide (1 ≤ ps.length ∧ ps.length ≤ 192) && ps.all fun p => p.length == d.channels
  | .aes3 ps => d.kind == 2 && !ps.isEmpty && ps.all fun p => p.length == d.channels
  | .anc _ => d.kind == 3
  | .opaque l => d.kind == 5 && decide (1 ≤ l.length ∧ l.length ≤ 65535)
  | .sdi => d.kind == 4

/-- Deliver a payload to a slot: each unit passes the policer, then goes to the paddock; a unit that the policer drops raises ING.POLICE
(R169). `ends` says that the payload ends an opaque media frame. Answers the number of units that the policer dropped. -/
def State.deliverBody (s : State) (ei slot : Nat) (byArrival whole ends : Bool) (rtp : Word) (body : Payload) : Nat × State :=
  let d := s.inDesc ei slot
  let (us, bad) := s.unitsOf ei slot byArrival whole rtp body
  let policed := d.audio || d.kind == 3 || d.kind == 5
  let (n, s1) := us.foldl (fun (acc : Nat × State) u =>
    let (ok, s1) := if policed then acc.2.police ei slot u.size else (true, acc.2)
    if ok then (acc.1, s1.takeUnit ei slot bad u) else (acc.1 + 1, s1.ingEvent ei 5)) (0, s)
  (n, if ends then s1.setPad ei { s1.padRec ei with frameOpen := (s1.padRec ei).frameOpen.filter fun k => k != slot } else s1)

/-! ### Flows, R143 to R148 -/

/-- 128 bits of a flow entry from word w. -/
def State.flow128 (s : State) (sl idx w : Nat) : Nat :=
  (List.range 4).foldl (fun n i => n + (s.ent (pIng sl) 0 1 idx (w + i)).toNat * 2 ^ (32 * i)) 0

/-- Whether a valid flow entry matches a packet (R143, R145). -/
def State.flowMatches (s : State) (sl idx : Nat) (k : Packet) : Bool :=
  let d0 := s.ent (pIng sl) 0 1 idx 0
  let d1 := s.ent (pIng sl) 0 1 idx 1
  let d11 := s.ent (pIng sl) 0 1 idx 11
  bitOf d0 31 && fld d0 6 6 == k.block.val && fld d0 3 3 == k.port.val && bitOf d0 2 == k.v6 &&
    fld d1 0 16 == k.dport.toNat && s.flow128 sl idx 2 == k.dst.toNat &&
    (!bitOf d0 24 || k.vlan == some (BitVec.ofNat 12 (fld d1 16 12))) &&
    (!bitOf d0 25 || s.flow128 sl idx 6 == k.src.toNat) &&
    (!bitOf d0 26 || s.ent (pIng sl) 0 1 idx 10 == k.ssrc) &&
    (!bitOf d11 7 || fld d11 0 7 == k.pt.toNat)

/-- Weight of an entry's optional fields (R143). -/
def State.flowWeight (s : State) (sl idx : Nat) : Nat :=
  let d0 := s.ent (pIng sl) 0 1 idx 0
  let b (x : Bool) (n : Nat) : Nat := if x then n else 0
  b (bitOf d0 25) 8 + b (bitOf d0 26) 4 + b (bitOf d0 24) 2 + b (bitOf (s.ent (pIng sl) 0 1 idx 11) 7) 1

/-- The entry that a packet goes to: of those that match, the one that weighs most. -/
def State.classify (s : State) (k : Packet) : Option (Nat × Nat) :=
  match s.flows.filter fun e => s.flowMatches e.1 e.2 k with
  | [] => none
  | a :: r => some (r.foldl (fun b c => if s.flowWeight b.1 b.2 < s.flowWeight c.1 c.2 then c else b) a)

/-- Add to a 64-bit counter of a flow entry, or to a 32-bit one. -/
def State.flowAdd64 (s : State) (sl idx w n : Nat) : State :=
  let v := (pairOf (s.ent (pIng sl) 0 5 idx w) (s.ent (pIng sl) 0 5 idx (w + 1)) + n) % 2 ^ 64
  s.setEntWords (pIng sl) 0 5 idx w [loHalf v, hiHalf v]
def State.flowAdd (s : State) (sl idx w n : Nat) : State :=
  s.setEnt (pIng sl) 0 5 idx w (wd (satAdd 32 (s.ent (pIng sl) 0 5 idx w).toNat n))

/-- The extended sequence number of a packet, given the highest number so far (R150, R165). -/
def extSeq (parse : Nat) (k : Packet) (high : Option Nat) : Nat :=
  if parse = 0 then k.extSeq.toNat * 65536 + k.seq.toNat
  else
    match high with
    | none => k.seq.toNat
    | some h => toBits 32 ((h : Int) + sext 16 (k.seq.toNat + 65536 - h % 65536))

/-- Count the numbers that a flow's packet skips in GAP (R150). PARSE 6 and 7 carry no number that the part follows. -/
def State.flowGap (s : State) (sl idx parse : Nat) (k : Packet) : State :=
  if 5 < parse then s
  else
    let h := Tab.get (fun _ => none) s.flowHigh (flowIx sl idx)
    let n := extSeq parse k h
    match h with
    | none => { s with flowHigh := Tab.put (fun _ => none) s.flowHigh (flowIx sl idx) (some n) }
    | some h =>
      let ahead := sext 32 (n + 2 ^ 32 - h)
      if ahead ≤ 0 then s
      else { s.flowAdd sl idx 4 (ahead.toNat - 1) with
        flowHigh := Tab.put (fun _ => none) s.flowHigh (flowIx sl idx) (some n) }

/-! ### Tandem merge, R165 to R168 -/

/-- Number of a slot's merge pair. -/
def mergeIx (ei slot : Nat) : Nat := ei * 16 + slot
def State.mergeRec (s : State) (ei slot : Nat) : MergeRec := Tab.get (fun _ => MergeRec.idle) s.merge (mergeIx ei slot)
def State.setMerge (s : State) (ei slot : Nat) (r : MergeRec) : State :=
  { s with merge := Tab.put (fun _ => MergeRec.idle) s.merge (mergeIx ei slot) r }
def State.mergeEnt (s : State) (ei slot w : Nat) : Word := s.ent (ingPg ei) 0 7 (ingIx ei * 16 + slot) w
def State.setMergeEnt (s : State) (ei slot w : Nat) (v : Word) : State := s.setEnt (ingPg ei) 0 7 (ingIx ei * 16 + slot) w v
def State.mergeCount (s : State) (ei slot w : Nat) : State := s.setMergeEnt ei slot w (wd (satAdd 32 (s.mergeEnt ei slot w).toNat 1))

/-- LOS_US of a port in beats, rounded up: 0 is treated as 2000. -/
def State.losBeats (s : State) (ei : Nat) : Nat :=
  let us := fld (s.ingCfg ei 0) 16 16
  cdiv ((if us = 0 then 2000 else us) * 3456) 10

/-- Whether plane B of a port's block and port is the packet's plane: PORT.PLANE 2 (R146). -/
def State.planeOf (s : State) (b p : Nat) : Nat := s.rdF 0 (regA (pPort b) 0x050) (2 * p) 2

/-- The residual skew in ns under LONG (R168): SKEW_NS is taken at arrival, and the delay is on the leading plane. -/
def State.residual (s : State) (ei : Nat) (skew : Int) : Int :=
  if bitOf (s.ingCfg ei 0) 13 then
    let d : Int := (1000 * fld (s.ingCfg ei 1) 0 14 : Nat)
    if bitOf (s.ingCfg ei 0) 14 then skew + d else skew - d
  else skew

/-- Keep SKEW_NS when a number has been seen on both planes; ING.SKEW rises when the residual passes 200,000 ns (R167). -/
def State.noteSkew (s : State) (ei slot n : Nat) (planeB : Bool) (lin : Nat) : State :=
  let r := s.mergeRec ei slot
  match r.seen.find? fun e => e.1 == n && e.2.1 != planeB with
  | none => s.setMerge ei slot { r with seen := ((n, planeB, lin) :: r.seen).take 4096 }
  | some (_, _, other) =>
    let diff := if planeB then linDiff lin other else linDiff other lin
    let sum := r.sum + diff
    let cnt := r.count + 1
    let ns := sum / (cnt : Int) / 65536
    let big (x : Int) : Bool := decide (200000 < (s.residual ei x).natAbs)
    let was := sext 32 (s.mergeEnt ei slot 1).toNat
    let s1 := (s.setMerge ei slot { r with seen := r.seen.filter (fun e => e.1 != n), sum := sum, count := cnt }).setMergeEnt ei slot 1
      (wd (toBits 32 ns))
    if big ns && !big was then s1.ingEvent ei 4 else s1

/-- A plane of a pair is UP at its packet; when both are DOWN the pair restarts (R166). -/
def State.planeUp (s : State) (ei slot : Nat) (planeB : Bool) : State :=
  let d0 := s.mergeEnt ei slot 0
  let r := s.mergeRec ei slot
  let restart := fld d0 0 2 == 2 && fld d0 2 2 == 2
  let r1 := if restart then { MergeRec.idle with lastA := r.lastA, lastB := r.lastB } else r
  let s1 := s.setMerge ei slot (if planeB then { r1 with lastB := some s.beat } else { r1 with lastA := some s.beat })
  let s2 := s1.setMergeEnt ei slot 0 (if planeB then setFld d0 2 2 1 else setFld d0 0 2 1)
  if restart then s2.mergeCount ei slot 6 else s2

/-- The merge's verdict on a packet of one plane (R165): taken, or discarded as DUP or STALE. A plane A copy in the beat in which plane
B's copy of its number was taken is counted as the one taken, and plane B's as DUP: the two are the same packet (log entry 150). -/
def State.mergeTake (s : State) (ei slot parse : Nat) (planeB : Bool) (k : Packet) : Bool × State :=
  let r := s.mergeRec ei slot
  let n := extSeq parse k r.high
  let h := r.high.getD n
  let off := sext 32 (n + 2 ^ 32 - h)
  if off ≤ -4096 then (false, s.mergeCount ei slot 5)
  else if r.taken.contains n then
    if !planeB ∧ r.fromBAt = s.beat ∧ r.fromB.contains n then
      let s1 := (s.mergeCount ei slot 2).mergeCount ei slot 4
      (false, (s1.setMergeEnt ei slot 3 (wd ((s1.mergeEnt ei slot 3).toNat - 1))).setMerge ei slot
        { r with fromB := r.fromB.filter fun m => m != n })
    else (false, s.mergeCount ei slot 4)
  else
    let h' := if 0 < off then n else h
    let taken := (n :: r.taken).filter fun m => decide (-4096 < sext 32 (m + 2 ^ 32 - h'))
    (true, (s.setMerge ei slot { r with
      high := some h'
      taken := taken
      fromB := if !planeB then r.fromB else if r.fromBAt = s.beat then n :: r.fromB else [n]
      fromBAt := if planeB then s.beat else r.fromBAt }).mergeCount ei slot (if planeB then 3 else 2))

/-- MERGE_PLANE_DOWN: LOS_US microseconds without a packet on a plane of a pair, since the latest or since its entry was written
(R166). -/
def execMergePlaneDown (ei : Fin 4096) (slot : Fin 16) (planeB : Bool) (s : State) : Host.Outcome State Fault Refusal :=
  let r := s.mergeRec ei slot
  let last := if planeB then r.lastB else r.lastA
  let d0 := s.mergeEnt ei slot 0
  .next (match last with
    | some b =>
      if b + s.losBeats ei ≤ s.beat ∧ fld d0 (if planeB then 2 else 0) 2 ≠ 2 then
        (s.setMergeEnt ei slot 0 (setFld d0 (if planeB then 2 else 0) 2 2)).ingEvent ei 3
      else s
    | none => s)

/-! ### Arrival of a packet -/

/-- A packet at its flow, after any delay of the long buffer: `w0` is DATA0 of the entry that classified it (R147). -/
def State.flowTake (s : State) (sl idx : Nat) (w0 : Word) (k : Packet) : State :=
  let parse := fld w0 28 3
  let ei := sl * 256 + fld w0 12 8
  let slot := fld w0 20 4
  let planeB := s.planeOf k.block k.port == 2
  let (take, s1) := if bitOf w0 27 then (s.planeUp ei slot planeB).mergeTake ei slot parse planeB k else (true, s)
  if !take then s1
  else
    let byArr := bitOf (s1.ingCfg ei 0) 2 || parse == 7
    let (n, s2) := s1.deliverBody ei slot byArr (parse == 7) (k.marker || parse == 7) k.rtp k.body
    if n = 0 then s2 else s2.flowAdd sl idx 5 n

/-- A packet arrives at the flow that it matches: counters, GAP, SKEW_NS, and the long buffer for a leading plane (R145, R148, R167,
R168). -/
def State.flowArrive (s : State) (sl idx : Nat) (k : Packet) : State :=
  let w0 := s.ent (pIng sl) 0 1 idx 0
  let parse := fld w0 28 3
  let ei := sl * 256 + fld w0 12 8
  let slot := fld w0 20 4
  let planeB := s.planeOf k.block k.port == 2
  let lin := s.linear (s.inDesc ei slot).tb
  let s1 := ((s.flowAdd64 sl idx 0 1).flowAdd64 sl idx 2 k.bytes.toNat).setEntWords (pIng sl) 0 5 idx 6 [loHalf lin, hiHalf lin]
  if k.errored then s1.ingEvent ei 6
  else if !k.readable || !(s1.inDesc ei slot).reads k.body then s1.flowAdd sl idx 4 1
  else
    let s2 := s1.flowGap sl idx parse k
    let cfg := s2.ingCfg ei 0
    let lead := if bitOf cfg 14 then 2 else 1
    if s2.padState ei = 4 then s2
    else
      let s3 := if bitOf w0 27 then s2.noteSkew ei slot (extSeq parse k (s2.mergeRec ei slot).high) planeB lin else s2
      if bitOf cfg 13 && bitOf w0 27 && s3.planeOf k.block k.port == lead then
        s3.setPad ei { s3.padRec ei with
          long := (s3.padRec ei).long ++ [⟨s3.beat + cdiv (fld (s3.ingCfg ei 1) 0 14 * 3456) 10, sl, idx, w0, k⟩] }
      else s3.flowTake sl idx w0 k

/-- Packets that have served their delay in the long buffer go to the merge (R168). -/
def State.longBeat (s : State) : State :=
  forEach (s.pad.filter fun e => !e.2.long.isEmpty) (fun e s =>
    let r := s.padRec e.1
    let due := r.long.filter fun x => x.beat ≤ s.beat
    let s1 := s.setPad e.1 { r with long := r.long.filter fun x => s.beat < x.beat }
    forEach due (fun x s => s.flowTake x.sl x.idx x.w0 x.pkt) s1) s

/-- The receive queue bound to a port block's port with BIND 1. -/
def State.portQueue (s : State) (b p : Nat) : Option Nat :=
  (List.range 64).find? fun q => s.qEn q true && s.qBind q true == 1 && s.qTarget q true == b * 8 + p

/-- A packet that matches no entry (R144). A PTP message, by EtherType or by UDP port 319 or 320, goes to the time-base hardware; one
that no PTP message can be read from matches no time base (R382). -/
def State.unmatched (s : State) (k : Packet) : State :=
  match k.ptp with
  | some m => s.ptpSteer m
  | none =>
    if k.dport = 319 ∨ k.dport = 320 then s.ptpUnmatched
    else
    match s.portQueue k.block k.port with
    | some q => if bitOf (s.rd 0 (regA (pIng 0) 0x040)) 0 then s.emit (.toQueue q true) else s.raise (pIng 0) 7 0
    | none => s.raise (pIng 0) 7 0

/-- Whether a port block's port is up, so that packets arrive on it. -/
def State.portUp (s : State) (b p : Nat) : Bool :=
  if s.portType b = 2 then bitOf (s.rd 0 (portA b 0x058)) p && !s.sparing b p
  else s.portType b == 1 && bitOf (s.rd 0 (portA b 0x064)) 17

/-- EtherType of an IP packet's frame: that of its VLAN tag where it has one (log entry 26). -/
def pktEtype (k : Packet) : Nat := if k.vlan.isSome then 0x8100 else if k.v6 then 0x86DD else 0x0800

/-- PACKET_ARRIVE. -/
def execPacketArrive (k : Packet) (s : State) : Host.Outcome State Fault Refusal :=
  .next (if !s.portUp k.block k.port then s
    else
      let (ok, s1) := s.secyIn k.block k.port (pktEtype k) k.macsec
      if !ok then s1
      else
        match s1.classify k with
        | some (sl, idx) => s1.flowArrive sl idx k
        | none => s1.unmatched k)

/-! ### Host units, R142 -/

/-- The descriptors of the oldest buffer chain of a transmit queue that is not done: up to the first with EOP. -/
def chainOf : List Flight → List Flight
  | [] => []
  | f :: r => if f.fin.isSome then chainOf r else if bitOf (descWord f.desc 2) 25 then [f] else f :: chainOf r

/-- Give the oldest n descriptors that are not done what their endpoint has made of them: STATUS, and as XLEN their LEN where `moved`. -/
def finish (status : Nat) (moved : Bool) : Nat → List Flight → List Flight
  | 0, l => l
  | _, [] => []
  | n + 1, f :: r =>
    if f.fin.isSome then f :: finish status moved (n + 1) r
    else { f with fin := some ⟨status, if moved then fld (descWord f.desc 2) 0 16 else 0, 0, false, false, none⟩ } :: finish status moved n r

/-- Whether a unit of host memory has a slot to go to: its bit in HOST_SLOTS, a queue whose owner owns the port, and a length and
format that fit the slot's descriptor. -/
def State.hostUnitOk (s : State) (q ei slot bind len : Nat) (body : Payload) : Bool :=
  decide (ei < 4096) && bitOf (s.ingCfg ei 2) (16 + slot) && s.partOwner 7 q == s.eiOwner ei && (s.inDesc ei slot).valid &&
    (s.inDesc ei slot).kind == bind && (s.inDesc ei slot).reads body && decide (1 ≤ len ∧ len ≤ 65535)

/-- HOST_UNIT_LAUNCH: the unit of the oldest whole buffer chain of a BIND 3 or 5 queue reaches its slice; with LAUNCH = 1, at
LAUNCH_TIME: one whose time has passed by more than a beat was fetched late (log entry 151). Its descriptors take OK, POLICED or LATE
and complete with it. -/
def execHostUnitLaunch (q : Fin 64) (body : Payload) (s : State) : Host.Outcome State Fault Refusal :=
  let bind := s.qBind q false
  let r := s.qrec q false
  let chain := chainOf r.flight
  .next (match chain with
    | [] => s
    | f :: _ =>
      let ei := s.qTarget q false
      let slot := fld (descWord f.desc 6) 0 4
      let tb := fld (s.qCfg q false) 13 3
      let launch := bitOf (descWord f.desc 2) 28
      let time := pairOf (descWord f.desc 4) (descWord f.desc 5)
      let whole := (chain.getLast?.any fun g => bitOf (descWord g.desc 2) 25) && chain.all fun g => !g.bad
      let diff := linDiff (s.linear tb) time
      let len := (chain.map fun g => fld (descWord g.desc 2) 0 16).sum
      if !(bind == 3 || bind == 5) || s.qState q false != 1 || !whole || (launch && decide (diff < 0)) then s
      else
        let ends (status : Nat) (moved : Bool) (s : State) : State :=
          s.setQrec q false { s.qrec q false with flight := finish status moved chain.length (s.qrec q false).flight }
        if launch && decide (189630 < diff) then ends 2 false s
        else if !s.hostUnitOk q ei slot bind len body then ends 6 false s
        else
          let (n, s1) := s.deliverBody ei slot true true true 0 body
          ends (if n = 0 then 0 else 6) (n == 0) s1)

/-! ### SDI structure, R151 and R152 -/

/-- SDI words of a line, by the class's rate, frame rate and total lines (log entry 39). -/
def Desc.sdiLine (d : Desc) : Nat :=
  let base := match d.sdiclass with
    | 0 => 148500000
    | 1 => 297000000
    | 2 => 297000000
    | 3 => 594000000
    | 4 => 1188000000
    | _ => 2376000000
  let (fn, fd) := d.frameRate
  base * (if fd = 1001 then 1000 else 1) / (fn * max 1 d.total)

/-- A loss of TRS_LOCK: the port presents VALID = 0 words only, and ING.TRS rises (R151). -/
def State.trsLost (s : State) (ei : Nat) : State :=
  let s1 := (s.setIngSt ei 0 (setBit (s.ingSt ei 0) 3 false)).dropGroup ei
  (s1.setPad ei { s1.padRec ei with units := [] }).ingEvent ei 2

/-- The end of a counted frame: two matching frames in a row set TRS_LOCK, two others clear it. -/
def State.trsFrame (s : State) (ei : Nat) (ok : Bool) : State :=
  let r := s.padRec ei
  let t := r.trs
  let t1 := if ok then { t with good := t.good + 1, bad := 0 } else { t with bad := t.bad + 1, good := 0 }
  let s1 := s.setPad ei { r with trs := t1 }
  if ok && decide (2 ≤ t1.good) then s1.setIngSt ei 0 (setBit (s1.ingSt ei 0) 3 true)
  else if !ok && decide (2 ≤ t1.bad) && s1.trsLock ei then s1.trsLost ei
  else s1

/-- Whether a frame has the structure of a descriptor: its lines, and both values of F where it has two fields or segments (R151;
log entry 152). -/
def Desc.frameOk (d : Desc) (f : TrsFrame) : Bool := f.ok && f.lines == d.total && f.second == (d.scan != 0)

/-- Copy the ancillary packets of an SDI line that match a valid entry of the port's filter to the target slot (R155). -/
def State.extractAnc (s : State) (ei : Nat) (l : List AncPacket) : State :=
  let x := s.ent (ingPg ei) 0 3 (ingIx ei) 0
  let x1 := s.ent (ingPg ei) 0 3 (ingIx ei) 1
  let hit (a : AncPacket) : Bool := (List.range 8).any fun k =>
    let e := s.ent (ingPg ei) 0 4 (ingIx ei * 8 + k) 0
    bitOf e 31 && fld e 16 10 == a.did.toNat && (bitOf e 30 || fld e 0 10 == a.sdid.toNat)
  let hits := l.filter hit
  if bitOf x 1 && !hits.isEmpty then
    let s1 := s.setPad ei { s.padRec ei with trs := { (s.padRec ei).trs with copied := true } }
    (s1.deliverBody (ei / 256 * 256 + fld x1 0 8) (fld x1 8 4) true false false 0 (.anc hits)).2
  else s

/-- At the end of a frame without a copied packet, a target slot in pass mode takes one header word with DC = 0 (R26; a grid port
presents it by itself, log entry 148). -/
def State.extractNone (s : State) (ei : Nat) : State :=
  let x := s.ent (ingPg ei) 0 3 (ingIx ei) 0
  let x1 := s.ent (ingPg ei) 0 3 (ingIx ei) 1
  let tgt := ei / 256 * 256 + fld x1 0 8
  if bitOf x 1 && s.trsLock ei && !(s.padRec ei).trs.copied && s.padState tgt == 3 then
    (s.deliverBody tgt (fld x1 8 4) true false false 0 (.anc [])).2
  else s

/-- The embedded samples of a line: one that overlaps an errored allotment is replaced by its channel's previous sample (R153). -/
def TrsRec.audio (t : TrsRec) (l : List SdiAudio) : List (Nat × BitVec 24) × TrsRec :=
  l.foldl (fun (acc : List (Nat × BitVec 24) × TrsRec) a =>
    let old := ((acc.2.prev.find? fun e => e.1 == a.ch.val).map fun e => e.2).getD 0
    let v := if a.errored then old else a.sample
    (acc.1 ++ [(a.ch.val, v)], { acc.2 with prev := (a.ch.val, v) :: acc.2.prev.filter fun e => e.1 != a.ch.val })) ([], t)

/-- SDI_EAV: arrival of an EAV and of the line that it begins: the structure count, the line as a unit of the grid, its samples and its
ancillary packets. An EAV within an errored allotment is no EAV, and its line's words lie beyond the line before it (R153, R169). -/
def execSdiEav (ei : Fin 4096) (e : Eav) (s : State) : Host.Outcome State Fault Refusal :=
  let d := s.inDesc ei 0
  .next (if !d.valid || d.kind != 4 || s.padState ei == 4 || s.padState ei == 0 then s
    else
      let line := e.line.toNat
      let t := (s.padRec ei).trs
      if e.trsErr then
        s.setPad ei { s.padRec ei with trs := { t with frame := t.frame.map fun f => { f with ok := false } } }
      else
        let lineOk := e.words.length == d.sdiLine
        let first := line == 1
        let ended := if first then t.frame.map d.frameOk else none
        let s0 := if first && t.frame.isSome then s.extractNone ei else s
        let frame : Option TrsFrame :=
          if first then (if t.seen then some ⟨1, lineOk, e.second⟩ else none)
          else t.frame.map fun f => ⟨f.lines + 1, f.ok && lineOk && line == t.line + 1, f.second || e.second⟩
        let (audio, t1) := t.audio e.audio
        let s1 := s0.setPad ei { s0.padRec ei with
          trs := { t1 with seen := true, frame := frame, line := line, beat := s.beat, copied := !first && t.copied } }
        let s2 := match ended with
          | some ok => s1.trsFrame ei ok
          | none => s1
        let s3 := if e.crcOk then s2 else s2.countIng ei 7 1
        let s4 := match e.pid with
          | some p => s3.setIngSt ei 8 p
          | none => s3
        let s5 := if s4.trsLock ei then
            let u0 := d.unitBy (s4.nowAt d.tb)
            let u := u0 - (u0 - ((line - 1 : Nat) : Int)) % ((max 1 d.total : Nat) : Int)
            s4.takeUnit ei 0 false ⟨0, u, 0, [], packSdi (e.words.take d.sdiLine), s4.shownAt d u, true, audio⟩
          else s4
        s5.extractAnc ei ((e.anc.filter fun a => !a.2).map fun a => a.1))

/-- TRS_TIMEOUT: 2 ms without a valid EAV clear TRS_LOCK; ING.TRS rises once at each loss (R151). -/
def execTrsTimeout (ei : Fin 4096) (s : State) : Host.Outcome State Fault Refusal :=
  let t := (s.padRec ei).trs
  .next (if t.beat + 691200 ≤ s.beat ∧ t.seen then
      let s1 := s.setPad ei { s.padRec ei with trs := TrsRec.idle }
      if s1.trsLock ei then s1.trsLost ei else s1
    else s)

/-! ### Cut and alignment delay, R164 and R170 -/

/-- The ports of a CUT register that a partition may act on: P0 on all, another on those it owns. -/
def State.cutMask (s : State) (p sl k : Nat) (d : Word) : Word :=
  wd ((idxs 32 fun i => bitOf d i && (p == 0 || s.eiOwner (sl * 256 + k * 32 + i) == p)).foldl (fun n i => n + 2 ^ i) 0)

/-- After a change of cut bits, the ports of a CUT register take the STATE that follows. -/
def State.recut (s : State) (sl k : Nat) : State :=
  forEach (List.range 32) (fun i s => s.refreshPad (sl * 256 + k * 32 + i)) s

/-- A write of ING.CUTk and of ING.CUT_CLRk in a partition's bank. -/
def writeCut (p sl k : Nat) (d : Word) (s : State) : State :=
  let a := regA (pIng sl) (0x080 + 4 * k)
  (s.wr p a (s.rd p a ||| s.cutMask p sl k d)).recut sl k
def writeCutClr (p sl k : Nat) (d : Word) (s : State) : State :=
  let a := regA (pIng sl) (0x080 + 4 * k)
  (s.wr p a (s.rd p a &&& ~~~ s.cutMask p sl k d)).recut sl k

/-- ING_CUT. -/
def execIngCut (t : Tag) (sl : Fin 16) (k : Fin 8) (d : Word) (s : State) : Host.Outcome State Fault Refusal :=
  .next (hostWrite t (regA (pIng sl) (0x080 + 4 * k.val)) d (writeCut (tagBank t) sl k d) s)

/-- ING_CUT_CLR. -/
def execIngCutClr (t : Tag) (sl : Fin 16) (k : Fin 8) (d : Word) (s : State) : Host.Outcome State Fault Refusal :=
  .next (hostWrite t (regA (pIng sl) (0x0A0 + 4 * k.val)) d (writeCutClr (tagBank t) sl k d) s)

/-- When a port's owner changes, its cut bit in the old owner's bank is cleared, and its bit in the new owner's bank starts at
0 (R170). The P0 bit is unchanged. -/
def State.cutOwner (s : State) (ei old new : Nat) : State :=
  let a := regA (ingPg ei) (0x080 + ingIx ei / 32 * 4)
  let s1 := if old = 0 then s else s.wrF old a (ei % 32) 1 0
  (if new = 0 then s1 else s1.wrF new a (ei % 32) 1 0).refreshPad ei

/-- Whether a grid port on a time base is IN_USE (R164); `inUse` tells of a port. -/
def State.gridInUse (s : State) (tb : Nat) (inUse : Nat → Bool) : Bool :=
  (idxs 4096 fun ei => s.align ei == 1).any fun ei =>
    ((s.slotsOf ei).any fun k => (s.inDesc ei k).tb == tb) && inUse ei

/-- A write of ING.PAD_Dn (R164): ING1 to ING15 hold read-only mirrors. -/
def writePadD (bank sl n : Nat) (d : Word) (inUse : Nat → Bool) (s : State) : State :=
  let ref (r : Nat) : State := s.setReason (pIng 0) 0x044 bank r n
  if sl ≠ 0 then s
  else if s.gridInUse n inUse then ref 1
  else if 4000000 < d.toNat then ref 2
  else ((s.wr 0 (regA (pIng 0) (0x050 + 4 * n)) d).clearReason (pIng 0) 0x044 bank).reacquire n

/-- A write of ING0.CFG. -/
def writeIngCfg (sl : Nat) (d : Word) (s : State) : State :=
  if sl = 0 then s.wr 0 (regA (pIng 0) 0x040) (d &&& 0xF1) else s

/-- A write of ING.SNAP with bit 0 set: the named counters of the slice. -/
def State.ingSnap (s : State) (sl : Nat) : State :=
  let pg := pIng sl
  let s1 := s.snapTable pg 0 5 [(0, 8), (1, 9), (2, 10), (3, 11), (4, 12), (5, 13)]
  let s2 := s1.snapTable pg 0 6 [(1, 10), (2, 11), (3, 12), (4, 13), (5, 14), (7, 15)]
  let s3 := s2.snapTable pg 0 7 [(2, 10), (3, 11), (4, 12), (5, 13), (6, 14)]
  { s3 with pad := s3.pad.filterMap fun e =>
      let r := if e.1 / 256 = sl then { e.2 with latSeen := false } else e.2
      if r = PadRec.idle then none else some (e.1, r) }

end Sys2Proof.Machine
end

