-- ==== Sys2Proof/Machine/Mem.lean ====
section
/-!
DEFINITION. Machine/Mem.lean: the reel store's memory (R230), 144 GiB of bytes kept in canonical form: a byte that nothing has
written, or that holds 0, is not listed (R253; log entry 3). Wider values lie with their least significant byte at the lowest
address (log entry 9).
-/
namespace Sys2Proof.Machine

/-- What an unlisted byte reads as. -/
def memZero (_ : Nat) : Byte := 0

/-- Size of the store in bytes. -/
def memSize : Nat := 144 * 2 ^ 30

/-- Canonical form of the memory: addresses strictly rising, no entry equal to what an unlisted address reads as. -/
abbrev Memory.wf (m : List Host.Cell) : Bool := Tab.wf memZero m

/-- One byte. -/
def State.memByte (s : State) (a : Nat) : Byte := Tab.get memZero s.mem a
def State.setByte (s : State) (a : Nat) (b : Byte) : State := { s with mem := Tab.put memZero s.mem a b }

/-- n bytes from an address as a number. -/
def State.memGet (s : State) (a : Nat) : Nat → Nat
  | 0 => 0
  | n + 1 => (s.memByte a).toNat + 256 * State.memGet s (a + 1) n

/-- Store a number in n bytes from an address. -/
def State.memPut (s : State) (a : Nat) : Nat → Nat → State
  | 0, _ => s
  | n + 1, v => State.memPut (s.setByte a (BitVec.ofNat 8 v)) (a + 1) n (v / 256)

/-- Zero segments 64 to 2303, which partitions may hold (R231, R253). -/
def State.memClear (s : State) : State := { s with mem := Tab.keep (fun a => decide (a < 64 * 2 ^ 26)) s.mem }

end Sys2Proof.Machine
end

