-- ==== Sys2Proof/Machine/Take.lean ====
section
/-!
DEFINITION. Machine/Take.lean: the take engine of spec/07_take_engine.md (R200 to R229): commands and their checks, marks and
feasibility, rehearsal, the arm grant, commits, strikes, silences, notices and queries.
-/
namespace Sys2Proof.Machine

/-! ### Transactions -/

/-- The partition whose sequence a transaction belongs to, and its tag in notices: 0 for a forced removal (R225). -/
def txPart : TxId → Nat
  | .cmd p _ => p.val
  | .forced _ _ => 0
def txTag : TxId → Word
  | .cmd _ t => t
  | .forced _ _ => 0
def txCmd : TxId → Bool
  | .cmd _ _ => true
  | .forced _ _ => false

/-- The unfinished transaction of a name. -/
def State.tx (s : State) (x : TxId) : Option Tx := s.take.txs.find? fun t => t.id == x

/-- Replace an unfinished transaction. -/
def State.setTx (s : State) (t : Tx) : State :=
  { s with take := { s.take with txs := s.take.txs.map fun u => if u.id = t.id then t else u } }

/-- Whether a transaction is all silence. -/
def Tx.allSilent (t : Tx) : Bool := t.members.all fun m => m.src.isNone

/-- The ports that a member names, as outputs and as inputs. -/
def Member.outs (m : Member) : List Nat := (List.range m.n).map fun k => m.dst + k
def Member.ins (m : Member) : List Nat :=
  match m.src with
  | some x => (List.range m.n).map fun k => x + k
  | none => []

/-- R31: a port is the source or destination of a route, or is named by an unfinished transaction. sel is 1 for inputs, 2 for
outputs. -/
def State.portInUse (s : State) (sel port : Nat) : Bool :=
  (if sel = selIn then !(s.entIdxs pXpt 0 3 0 fun w => bitOf w 31 && fld w 0 13 == port).isEmpty
   else bitOf (s.ent pXpt 0 3 port 0) 31) ||
    s.take.txs.any fun t => t.members.any fun m => if sel = selIn then m.ins.contains port else m.outs.contains port

/-- Whether partition p uses a source: by a route of one of its destinations, or by an unfinished transaction (R59). -/
def State.usesSource (s : State) (x p : Nat) : Bool :=
  ((s.entIdxs pXpt 0 3 0 fun w => bitOf w 31 && fld w 0 13 == x).any fun y => s.portOwner 2 y == p) ||
    s.take.txs.any fun t => txCmd t.id && txPart t.id == p && t.members.any fun m => m.ins.contains x

/-- TAKE.STATUS.ACCEPT: 0 without management firmware, and in hold-all (R221, R483). -/
def State.accepting (s : State) : Bool := s.take.solver && !s.held

/-! ### Notices, R225 -/

/-- TAKE events: the bit of R228, attributed to partition p. -/
def State.takeEvent (s : State) (b p : Nat) : State := s.raise pTake b p

/-- Write a notice of partition p. -/
def State.notice (s : State) (p code count : Nat) (tag : Word) (mark : Dword) (dest byPart : Nat) (byTag : Word) : State :=
  let n := (s.rd p (regA pTake 0x078)).toNat
  let s1 := if 256 ≤ n then s.takeEvent 5 p else s
  let s2 := s1.setEntWords pTake p 2 (n % 256) 0
    [wd (code + count * 65536), tag, loHalf mark.toNat, hiHalf mark.toNat, wd (dest + byPart * 65536), byTag]
  (s2.inc p (regA pTake 0x078)).cause p 193

/-- A notice about a whole transaction. -/
def State.txNotice (s : State) (t : Tx) (code : Nat) (mark : Dword) : State :=
  s.notice (txPart t.id) code t.members.length (txTag t.id) mark ((t.members.head?.map fun m => m.dst).getD 0) 0 0

/-- Count an outcome of a partition: registers 0x0B8 to 0x0CC. -/
def State.outcome (s : State) (p i : Nat) : State := s.inc p (regA pTake (0x0B8 + 4 * i))

/-! ### Queue, R200 and R229 -/

/-- Entries in use: of a partition, and in the whole queue. -/
def State.queueUsed (s : State) (p : Nat) : Nat := (s.ent pTake 0 3 p 1).toNat
def State.queueTotal (s : State) : Nat := (s.rd 0 (regA pTake 0x07C)).toNat

/-- Set the entries in use of a partition. -/
def State.setUsed (s : State) (p n : Nat) : State :=
  let old := s.queueUsed p
  (s.setEnt pTake 0 3 p 1 (wd n)).wr 0 (regA pTake 0x07C) (wd (s.queueTotal - old + n))

/-- QUOTA of a partition. -/
def State.quota (s : State) (p : Nat) : Nat := (s.ent pTake 0 3 p 0).toNat % 2 ^ 17

/-- Keep the final state of a transaction, the latest 1024 of its partition (R226). -/
def keepEnds (e : TxEnd) (l : List TxEnd) : List TxEnd :=
  e :: ((l.filter fun f => f.part == e.part).take 1023 ++ l.filter fun f => f.part != e.part)

/-- The swap of entry 0 of a transaction, once it is made at the ingress stage. -/
def State.swap0 (s : State) (t : Tx) : Option Swap :=
  s.fab.swaps.find? fun w => w.id == t.id && w.member == 0 && decide (1 ≤ w.stage)

/-- The count at the mark of entry 0: that of its mark beat once the swap is made, and before that the one foreseen (log entry 31). -/
def State.txMark (s : State) (t : Tx) : Dword :=
  match t.members with
  | m :: _ =>
    match m.mark, s.swap0 t with
    | some a, none => if m.fin then t.mark0 else BitVec.ofNat 64 (s.linearAt a)
    | some _, some w => w.lin
    | none, _ => t.mark0
  | [] => t.mark0

/-- The count at the arm grant: the one that stood there, and before it the one foreseen (log entry 31). -/
def State.txGrant (s : State) (t : Tx) : Dword :=
  if t.state = 2 ∨ t.arm.tb = beatBase then t.grant else BitVec.ofNat 64 (s.linearAt t.arm)

/-- A transaction reaches a final state: its entries are freed, and its ports leave IN_USE (R200, R217). Swaps and pending
moves of it that have not started are withdrawn. -/
def State.finish (s : State) (t : Tx) (state : Nat) : State :=
  let p := txPart t.id
  let sup := (t.members.filter fun m => m.superseded).length
  let nm := (t.members.filter fun m => m.nextMark).length
  let e : TxEnd := ⟨p, txTag t.id, state, t.members.length, s.txMark t, s.txGrant t, sup, nm⟩
  let s1 := { s with
    take := { s.take with
      txs := s.take.txs.filter fun u => u.id != t.id
      ends := if txCmd t.id then keepEnds e s.take.ends else s.take.ends }
    fab := { s.fab with
      swaps := s.fab.swaps.filter fun (w : Swap) => w.id != t.id
      moves := s.fab.moves.filter fun m => m.started || m.tx != some t.id } }
  let s2 := if txCmd t.id then s1.setUsed p (s1.queueUsed p - t.members.length) else s1
  s2.tryAgain

/-- The grant bit of a forced removal clears in the beat after the last of its commits (R220). -/
def State.endRemoval (s : State) (t : Tx) : State :=
  match t.id with
  | .cmd _ _ => s
  | .forced x p => { s with take := { s.take with clearing := s.take.clearing ++ [(x, p.val, s.beat)] } }

/-- The grant bits whose last commit was made in an earlier beat clear. -/
def State.clearGrants (s : State) : State :=
  forEach (s.take.clearing.filter fun e => decide (e.2.2 < s.beat))
    (fun e s =>
      { s.setEntF pPart 0 1 e.1 0 (16 + e.2.1) 1 0 with
        take := { s.take with
          removing := s.take.removing.filter fun r => r != (e.1, e.2.1)
          clearing := s.take.clearing.filter fun c => c != e } }) s

/-- DONE in the beat of the last member (R212), with its notice and count. -/
def State.checkDone (s : State) (x : TxId) : State :=
  match s.tx x with
  | some t =>
    if t.state = 2 ∧ (t.members.all fun m => m.fin) then
      let s1 := (s.finish t 3).endRemoval t
      if txCmd t.id then (s1.outcome (txPart t.id) 0).txNotice t 1 t.mark0 else s1
    else s
  | none => s

/-- A transaction ends before its arm grant: STRUCK, EXPIRED or FAILED, with its notice, count and event. -/
def State.endEarly (s : State) (t : Tx) (state code : Nat) : State :=
  let s1 := s.finish t state
  if !txCmd t.id then s1.endRemoval t
  else
    let p := txPart t.id
    let s2 := s1.outcome p (match state with
      | 4 => 1
      | 5 => 3
      | _ => 4)
    let s3 := match code with
      | 4 => s2.takeEvent 2 p
      | 5 => s2.takeEvent 3 p
      | 6 => s2.takeEvent 4 p
      | _ => s2
    s3.txNotice t code (if code = 10 then s.txMark t else s.txGrant t)

/-! ### Choosing the mark, R204 to R206 and R219 -/

/-- What a mark choice gives for one member: its mark if it has one, and its arm point. -/
abbrev Chosen := Option At × At

/-- The mark that a destination takes for a start time of its own time base: the first mark at or after it, whose arm point must be at
least `lead` (2^-16 ns) from now; with `skip` the first mark whose arm point is (R204, R219). A destination with ANYFMT and a source arms
at the start time (R206); one without a mark of its own arms at the later of the start and the lead, on the beat clock (log entry 34). A
time base that is OFF reaches no mark. -/
def State.chooseMark (s : State) (y : Nat) (src : Option Nat) (start : At) (lead : Int) (skip : Bool) : Option Chosen :=
  let d := s.outDesc y
  let early (a : At) : At := if s.until a < lead then (s.nowAt a.tb).add lead 65536 else a
  if !d.valid then some (none, early (s.sameInstant start beatBase))
  else if s.tbMode d.tb = 0 then none
  else if d.anyfmt then some (none, if src.isSome && lead ≤ 0 then start else early start)
  else
    match s.firstMark y start with
    | none => none
    | some (m, a) =>
      if lead ≤ s.until a then some (some m, a)
      else if !skip then none
      else
        -- the first mark whose arm point is late enough
        match s.firstMark y ((s.nowAt d.tb).add (lead + (s.until m - s.until a)) 65536) with
        | none => none
        | some (m2, a2) =>
          if lead ≤ s.until a2 then some (some m2, a2)
          else
            match s.markAfter y m2 with
            | some (m3, a3) => some (some m3, a3)
            | none => none

/-- Work of a rehearsal of n destinations, in 2^-16 ns: 20 µs and 1 µs for each (R205). -/
def rehearsalWork (n : Nat) : Int := (20 + n) * 1000 * 65536

/-- A rehearsal still to do: arm point, release and work relative to now, and order of acceptance. -/
structure Job where
  arm : Int
  release : Int
  work : Int
  order : Nat
  deriving DecidableEq, Repr

/-- Insert a job in ascending order of arm point. -/
def insertJob (j : Job) : List Job → List Job
  | [] => [j]
  | k :: r => if j.arm < k.arm ∨ (j.arm = k.arm ∧ j.order < k.order) then j :: k :: r else k :: insertJob j r

/-- The beat period in 2^-16 ns, rounded down, times a number of beats. -/
def beatsAgo (n : Nat) : Int := -((n * 625 * 65536 / 216 : Nat) : Int)

/-- The rehearsals that are unfinished (R205): one that found no placement only once it is tried again. -/
def State.jobs (s : State) : List Job :=
  (s.take.txs.filter fun t => t.state == 0 && !t.allSilent && (!t.noPlace || t.retry)).foldl (fun l t =>
    let rel := match t.opened with
      | some b => beatsAgo (s.beat - b)
      | none => s.until t.win
    insertJob ⟨s.until t.arm, rel, rehearsalWork t.members.length, t.order⟩ l) []

/-- R205: every job, one at a time in ascending order of arm point, finishes before its own arm point. -/
def feasible (l : List Job) : Bool :=
  (l.foldl (fun (acc : Option Int) j =>
    match acc with
    | none => none
    | some c =>
      let e := max c j.release + j.work
      if e ≤ j.arm then some e else none) (some (-(2 ^ 80 : Int)))).isSome

/-- Ports of a destination's group. -/
def State.outGroup (s : State) (y : Nat) : Nat := if (s.outDesc y).valid && (s.outDesc y).mode == 1 then (s.outDesc y).group else 1

/-- The instant in ns by which a member's mark is later than the start time: its own mark, or for an ANYFMT member one frame
period of its source (R215). In 2^-16 ns. -/
def State.spread (s : State) (src : Option Nat) (c : Chosen) (startLeft : Int) : Int :=
  match c.1 with
  | some m => s.until m - startLeft
  | none =>
    match src with
    | some x =>
      let (n, d) := (s.inDesc x ((s.slotsOf x).headD 0)).framePeriod
      (n * 65536 / d : Nat)
    | none => 0

/-- The earliest of arm points or marks, by the time left to them. -/
def State.earliest (s : State) : List At → Option At
  | [] => none
  | a :: r => some (r.foldl (fun b c => if s.until c < s.until b then c else b) a)

/-- The earliest arm points at which a job could be done before its own: after the jobs up to each place in their order. -/
def finishes (j : Job) : List Job → Int → Int → List Int
  | [], c, prev => [max (max c j.release + j.work) prev]
  | k :: r, c, prev => max (max c j.release + j.work) prev :: finishes j r (max c k.release + k.work) k.arm

/-- Marks of all members for a start time of entry 0: entry 0's own choice, then each other member's first mark at or after the same
instant on its own time base (R204); with `stop` its first mark whose arm point is at least 4 µs from now (R219). -/
def State.chooseAll (s : State) (entries : List (Nat × Option Nat)) (start : At) (c0 : Chosen) (stop : Bool) :
    Option (List Chosen) :=
  match entries with
  | [] => none
  | _ :: rest =>
    (rest.foldl (fun (acc : Option (List Chosen)) e =>
      match acc with
      | none => none
      | some l =>
        match s.chooseMark e.1 e.2 (s.sameInstant start (s.outDesc e.1).tb) (if stop then 4000 * 65536 else 0) stop with
        | some c => some (l ++ [c])
        | none => none) (some [c0]))

/-- The rehearsal window opens REH_DEPTH frame periods before the earliest member mark (R208). -/
def State.windowAt (s : State) (ms : List (Nat × Chosen)) : At :=
  let marks := ms.filterMap fun e => e.2.1.map fun m => (e.1, m)
  match marks with
  | [] => s.nowAt 0
  | m0 :: r =>
    let (y, m) := r.foldl (fun b c => if s.until c.2 < s.until b.2 then c else b) m0
    let (n, d) := (s.outDesc y).framePeriod
    m.add (-(s.rdF 0 (regA pTake 0x040) 4 4 * n : Nat)) d

/-- What entry 0's choice gives for the whole command: the start time and the choices where it is feasible (R205), else by how much
later a start without a mark is tried next, 2^-16 ns. -/
def State.tryStart (s : State) (entries : List (Nat × Option Nat)) (stop : Bool) (c0 : Chosen) :
    (At × List Chosen) ⊕ Int :=
  let silent := entries.all fun e => e.2.isNone
  let st := c0.1.getD c0.2
  match s.chooseAll entries st c0 stop with
  | none => .inr 0
  | some cs =>
    let arm := (s.earliest (cs.map fun c => c.2)).getD c0.2
    let left := s.until arm
    let win := s.windowAt ((entries.map fun e => e.1).zip cs)
    let job : Job := ⟨left, max 0 (s.until win), rehearsalWork entries.length, s.take.order⟩
    if (if silent then 4000 * 65536 ≤ left else decide (0 < left) && feasible (insertJob job s.jobs)) then .inl (st, cs)
    else .inr (((finishes job s.jobs 0 0).filter fun d => decide (left < d)).foldl (fun n d => if n = 0 then d - left else min n (d - left)) 0)

/-- Search of R204 and R205: NEXT and AT_OR_AFTER try each later mark of entry 0's destination in turn; a destination without a mark of
its own the next instant at which a rehearsal could be done, and else the next beat (log entry 34). EXACT tries the first mark alone. -/
def State.search (s : State) (entries : List (Nat × Option Nat)) (exact : Bool) (stop : Bool) :
    Nat → At → Option (At × List Chosen)
  | 0, _ => none
  | fuel + 1, start =>
    let silent := entries.all fun e => e.2.isNone
    let lead0 : Int := if silent && !exact then 4000 * 65536 else 0
    match s.chooseMark (entries.headD (0, none)).1 (entries.headD (0, none)).2 start lead0 (!exact) with
    | none => none
    | some c0 =>
      match s.tryStart entries stop c0 with
      | .inl r => some r
      | .inr later =>
        if exact then none
        else
          match c0.1 with
          | some m => s.search entries exact stop fuel (m.add 1 1000000)
          | none => s.search entries exact stop fuel (start.add (max later beatUp) 65536)

/-- Rounds of the search: more than the rehearsals that the queue can hold, and more than ten minutes of the shortest frame period (log
entry 35). -/
def searchFuel : Nat := 100000

/-- Whether no start time at all gives every entry a mark: its time base is OFF. -/
def State.noMark (s : State) (entries : List (Nat × Option Nat)) : Bool :=
  entries.any fun e => (s.outDesc e.1).valid && s.tbMode (s.outDesc e.1).tb == 0

/-! ### Acceptance, R203 -/

/-- Staging entry i of a partition. -/
def State.staged (s : State) (p i : Nat) : Word := s.ent pTake p 1 i 0

/-- First index of a list at which a test fails. -/
def firstBad {α : Type} (f : α → Bool) : List α → Nat → Option Nat
  | [], _ => none
  | a :: r, i => if f a then some i else firstBad f r (i + 1)

/-- Whether the ports' first descriptor is a bonded member. -/
def State.bondMember (s : State) (e : Nat × Option Nat) : Bool :=
  ((s.outDesc e.1).valid && (s.outDesc e.1).mode == 2) ||
    match e.2 with
    | some x => (s.inDesc x 0).valid && (s.inDesc x 0).mode == 2
    | none => false

/-- A test on entries that have a source. -/
def onSource (f : Nat → Nat → Bool) (e : Nat × Option Nat) : Bool :=
  match e.2 with
  | some x => f x e.1
  | none => false

/-- Whether a partition may route a source (R58), which a removal in progress forbids (R220). -/
def State.mayRoute (s : State) (t : Tag) (x : Nat) : Bool :=
  tagOwns t (s.portOwner 1 x) || (s.granted 1 x (tagBank t) && !s.take.removing.contains (x, tagBank t))

/-- ALIGN of an external input port, ING port configuration (R163). -/
def State.alignOf (s : State) (x : Nat) : Nat := s.entF (pIng (x / 256)) 0 2 (x % 256) 0 0 2

/-- Checks 4 to 10 of R203 in order, each over all entries (log entry 36): the CODE and the failing entry. -/
def State.entryCheck (s : State) (t : Tag) (stop : Bool) (es : List (Nat × Option Nat)) : Option (Nat × Nat) :=
  let first (code : Nat) (f : Nat × Option Nat → Bool) : Option (Nat × Nat) := (firstBad f es 0).map fun i => (code, i)
  let seen := es.zipIdx
  let dup := seen.find? fun e => seen.any fun f => f.2 < e.2 && f.1.1 == e.1.1
  (if stop then none else first 4 fun e => !tagOwns t (s.portOwner 2 e.1)).or <|
  (first 9 fun e => s.bondMember e).or <|
  (dup.map fun e => (10, e.2)).or <|
  (first 6 (onSource fun x y => (s.slotsOf x).isEmpty || !(s.outDesc y).valid)).or <|
  (first 5 (onSource fun x _ => !s.mayRoute t x)).or <|
  (first 7 (onSource fun x y => !s.matches x y)).or <|
  (first 8 (onSource fun x y => x < 4096 && s.alignOf x == 2 && !(s.outDesc y).anyfmt))

/-- A new transaction, with the choices made for it. One that is all silence needs no solver, so it is REHEARSED as soon as it is in
its rehearsal window (R205, R207; log entry 177). -/
def State.newTx (s : State) (id : TxId) (silence : Bool) (es : List (Nat × Option Nat)) (cs : List Chosen) : Tx :=
  let ms : List Member := (es.zip cs).map fun (e, c) =>
    ⟨e.1, e.2, s.outGroup e.1, c.1, c.2, false, false, false, []⟩
  let arm := (s.earliest (cs.map fun c => c.2)).getD (s.nowAt 0)
  let win := s.windowAt ((es.map fun e => e.1).zip cs)
  let opened := if s.until win ≤ 0 then some s.beat else none
  let silent := es.all fun e => e.2.isNone
  let mark0 := match cs with
    | c :: _ => s.linearAt (c.1.getD c.2)
    | [] => 0
  ⟨id, silence, s.take.order, if silent ∧ opened.isSome then 1 else 0, win, arm, opened, false, false, [], ms,
    BitVec.ofNat 64 mark0, BitVec.ofNat 64 (s.linearAt arm), 0⟩

/-- The mark of entry 0, and the arm grant, as counts where the spec states none: free values (log entry 34). -/
def State.openCounts (s : State) (t : Tx) : Tx × State :=
  match t.members with
  | [] => (t, s)
  | m :: _ =>
    if m.mark.isNone then
      let (v, s1) := s.fresh 64
      let (g, s2) := s1.fresh 64
      ({ t with mark0 := BitVec.ofNat 64 v, grant := if t.arm.tb = beatBase then BitVec.ofNat 64 g else t.grant }, s2)
    else (t, s)

/-- The linear count of a member's mark to come; a free value where the member has no mark of its own (log entry 34). -/
def State.memberMark (s : State) (m : Member) : Dword × State :=
  match m.mark with
  | some a => (BitVec.ofNat 64 (s.linearAt a), s)
  | none => let (v, s1) := s.fresh 64; (BitVec.ofNat 64 v, s1)

/-- Queue a transaction. -/
def State.enlist (s : State) (t : Tx) : State :=
  let s1 := { s with take := { s.take with txs := s.take.txs ++ [t], order := s.take.order + 1 } }
  if txCmd t.id then s1.setUsed (txPart t.id) (s1.queueUsed (txPart t.id) + t.members.length) else s1

/-- CMD_RESULT, CMD_RES_TAG and, for an accepted transaction, CMD_MARK change in one step; a refusal sets STATUS.REASON and
EVENT.REFUSED (R203, R227). -/
def State.cmdResult (s : State) (p op code entry : Nat) (tag : Word) (mark : Option Dword) : State :=
  let s1 := (s.wr p (regA pTake 0x068) (wd (code + op * 256 + entry % 4096 * 65536))).wr p (regA pTake 0x06C) tag
  let s2 := match mark with
    | some m => s1.wr64 p (regA pTake 0x070) m.toNat
    | none => s1
  if 1 ≤ code ∧ code ≤ 14 then (s2.wrF p (regA pTake 0x044) 0 8 code).takeEvent 0 p else s2

/-- The entries of a COMMIT or STOP, or the failing index of check 1. -/
def State.stagedEntries (s : State) (p count : Nat) (stop : Bool) : List (Nat × Option Nat) ⊕ Nat :=
  if count = 0 ∨ 4096 < count then .inr 0
  else
    match firstBad (fun i => !bitOf (s.staged p i) 31) (List.range count) 0 with
    | some i => .inr i
    | none => .inl ((List.range count).map fun i =>
        let w := s.staged p i
        (fld w 0 13, if stop || fld w 16 13 == 0x1FFF then none else some (fld w 16 13)))

/-- The entries of a STOP_PART: every destination that the partition in CMD_ARG owns, a group by its leader (R219). -/
def State.partEntries (s : State) (q : Nat) : List (Nat × Option Nat) :=
  (idxs 4608 fun y => s.portOwner 2 y == q && !((s.outDesc y).valid && (s.outDesc y).mode == 2)).map fun y => (y, none)

/-- 3600 s in 2^-16 ns (R203). -/
def hourUnits : Int := 3600 * 1000000000 * 65536

/-- The entries that a command of op and timing submits, or the index of one that is not valid. -/
def State.submitted (s : State) (p op timing count : Nat) : List (Nat × Option Nat) ⊕ Nat :=
  if timing = 3 ∨ ¬(op = 1 ∨ op = 4 ∨ op = 5) then .inr 0
  else if op = 5 then
    match s.partEntries (s.rdF p (regA pTake 0x05C) 0 4) with
    | [] => .inr 0
    | l => .inl l
  else s.stagedEntries p count (op == 4)

/-- Nanoseconds / 65536 from now to CMD_TIME on a time base, for a timing that reads it. -/
def State.cmdOffset (s : State) (p tb : Nat) : Int := linDiff (s.rd64 p (regA pTake 0x050)) (s.linear tb)

/-- The instant from which the start is searched (R204): CMD_TIME for EXACT and for AT_OR_AFTER to come, else the next beat. -/
def State.searchFrom (s : State) (p timing tb : Nat) (hasTb : Bool) : At :=
  let later := hasTb && (timing == 2 || (timing == 1 && decide (0 < s.cmdOffset p tb)))
  let start := if later then s.atCount tb (s.rd64 p (regA pTake 0x050)) else s.nowAt tb
  if timing = 2 ∧ hasTb then start else if s.until start ≤ 0 then (s.nowAt tb).add 1 1000000 else start

/-- Whether a timed command's time, or the first mark at or after it, is more than an hour ahead (check 12). -/
def State.timeFar (s : State) (p timing y tb : Nat) (start : At) : Bool :=
  let first := match s.firstMark y start with
    | some (m, _) => s.until m
    | none => s.until start
  (timing == 1 || timing == 2) && decide (hourUnits < max (s.cmdOffset p tb) first)

/-- Checks 11 to 14 of R203 for entries that have passed the others: the code of the first that fails, or the marks. -/
def State.schedule (s : State) (p op timing : Nat) (es : List (Nat × Option Nat)) : Nat ⊕ List Chosen :=
  let n := es.length
  let y := (es.headD (0, none)).1
  let tb := (s.outDesc y).tb
  let hasTb := (s.outDesc y).valid
  let start := s.searchFrom p timing tb hasTb
  if s.quota p < s.queueUsed p + n ∨ 65536 < s.queueTotal + n then .inl 11
  else if hasTb && s.timeFar p timing y tb start then .inl 13
  else
    match if s.noMark es then none else s.search es (timing == 2 && hasTb) (op != 1) searchFuel start with
    | none => .inl 12
    | some (st, cs) =>
      let left := s.until st
      let wide := (es.zip cs).any fun (e, c) => decide ((100 * 1000000 * 65536 : Int) < s.spread e.2 c left)
      if hourUnits < left then .inl 13
      else if op ≠ 5 ∧ wide then .inl 14
      else .inr cs

/-- A command that has passed every check is accepted. -/
def State.acceptTx (s : State) (p op : Nat) (tag : Word) (es : List (Nat × Option Nat)) (cs : List Chosen) : State :=
  let r := s.openCounts (s.newTx (.cmd (Fin.ofNat 16 p) tag) (op != 1) es cs)
  (r.2.enlist r.1).cmdResult p op 0 0 tag (some r.1.mark0)

/-- COMMIT (1), STOP (4) or STOP_PART (5), checked in the order of R203. -/
def takeSubmit (t : Tag) (op timing count : Nat) (s : State) : State :=
  let p := tagBank t
  let tag := s.rd p (regA pTake 0x058)
  match s.submitted p op timing count with
  | .inr i => s.cmdResult p op 3 i tag none
  | .inl es =>
    if tag ≠ s.rd p (regA pTake 0x064) then s.cmdResult p op 2 0 tag none
    else
      let s := s.inc p (regA pTake 0x064)
      if !s.accepting && es.any fun e => e.2.isSome then s.cmdResult p op 1 0 tag none
      else if op != 1 && p != 0 then s.cmdResult p op 4 0 tag none
      else
        match s.entryCheck t (op != 1) es with
        | some (code, i) => s.cmdResult p op code i tag none
        | none =>
          match s.schedule p op timing es with
          | .inl code => s.cmdResult p op code 0 tag none
          | .inr cs => s.acceptTx p op tag es cs

/-! ### Strikes, R216 and R217 -/

/-- Whether a strike comes too late: armed, or in the beat of the arm grant. -/
def State.tooLate (s : State) (t : Tx) : Bool := t.state == 2 || s.reached t.arm

/-- Strike one transaction. -/
def State.strike1 (s : State) (t : Tx) : State :=
  let p := txPart t.id
  if s.tooLate t then ((s.takeEvent 1 p).outcome p 2).txNotice t 3 (s.txMark t)
  else s.endEarly t 4 2

/-- STRIKE (2) and STRIKE_FROM (3). -/
def takeStrike (t : Tag) (op : Nat) (s : State) : State :=
  let p := tagBank t
  let arg := s.rd p (regA pTake 0x05C)
  let ts := s.take.txs.filter fun x => txCmd x.id && txPart x.id == p &&
    (if op = 3 then decide ((txTag x.id - arg).toNat < 2 ^ 31) else txTag x.id == arg)
  let code := if ts.isEmpty then 18 else if ts.any fun x => !s.tooLate x then 16 else 17
  (forEach ts (fun x s => s.strike1 x) s).cmdResult p op code 0 arg none

/-- Clear staging lists: of one partition, or of all (R202). -/
def State.clearStaging (s : State) (p : Option Nat) : State :=
  { s with tbl := Tab.keep (fun k => !(k / 2 ^ 48 == pTake && k / 2 ^ 28 % 65536 == 1 &&
      (match p with
      | some q => k / 2 ^ 44 % 16 == q
      | none => true))) s.tbl }

/-- A write of TAKE.CMD. -/
def writeTakeCmd (t : Tag) (d : Word) (s : State) : State :=
  let op := fld d 0 4
  if op = 2 ∨ op = 3 then takeStrike t op s
  else if op = 6 then
    (s.clearStaging (some (tagBank t))).cmdResult (tagBank t) 6 0 0 (s.rd (tagBank t) (regA pTake 0x058)) none
  else takeSubmit t op (fld d 4 2) (fld d 16 13) s

/-- A command word. -/
def takeWord (op timing count : Nat) : Word := wd (op + timing * 16 + count * 65536)

/-- A host write of TAKE.CMD. -/
def takeCmd (t : Tag) (d : Word) (s : State) : State := hostWrite t (regA pTake 0x060) d (writeTakeCmd t d) s

/-- COMMIT. -/
def execCommit (t : Tag) (timing : BitVec 2) (count : BitVec 13) (s : State) : Host.Outcome State Fault Refusal :=
  .next (takeCmd t (takeWord 1 timing.toNat count.toNat) s)

/-- STRIKE. -/
def execStrike (t : Tag) (s : State) : Host.Outcome State Fault Refusal := .next (takeCmd t (takeWord 2 0 0) s)

/-- STRIKE_FROM. -/
def execStrikeFrom (t : Tag) (s : State) : Host.Outcome State Fault Refusal := .next (takeCmd t (takeWord 3 0 0) s)

/-- STOP. -/
def execStop (t : Tag) (timing : BitVec 2) (count : BitVec 13) (s : State) : Host.Outcome State Fault Refusal :=
  .next (takeCmd t (takeWord 4 timing.toNat count.toNat) s)

/-- STOP_PART. -/
def execStopPart (t : Tag) (timing : BitVec 2) (s : State) : Host.Outcome State Fault Refusal :=
  .next (takeCmd t (takeWord 5 timing.toNat 0) s)

/-- CLEAR. -/
def execClear (t : Tag) (s : State) : Host.Outcome State Fault Refusal := .next (takeCmd t (takeWord 6 0 0) s)

/-! ### Rehearsal, R208 to R210 -/

/-- REHEARSAL_WINDOW: the transaction enters its rehearsal window. -/
def execRehearsalWindow (x : TxId) (s : State) : Host.Outcome State Fault Refusal :=
  .next (match s.tx x with
    | some t =>
      if t.opened.isNone && s.reached t.win then
        s.setTx { t with opened := some s.beat, state := if t.state = 0 ∧ t.allSilent then 1 else t.state }
      else s
    | none => s)

/-- Transactions that the solver has to rehearse: in their windows, and not found without a placement since the last reason to try
again (R208, R209). -/
def State.awaiting (s : State) : List Tx :=
  s.take.txs.filter fun t => t.state == 0 && t.opened.isSome && !t.allSilent && (!t.noPlace || t.retry)

/-- The transaction that the solver rehearses: the one it is at, else the one of earliest arm point, and of these the one accepted
first (R205). -/
def State.rehearsing (s : State) : Option TxId :=
  let l := s.awaiting
  match l.find? fun t => some t.id == s.take.solving with
  | some t => some t.id
  | none =>
    match l with
    | [] => none
    | a :: r => some (r.foldl (fun (b c : Tx) => if s.until c.arm < s.until b.arm then c else b) a).id

/-- Time left to a mark, where there is one. -/
def State.markLeft (s : State) (m : Member) : Option Int := m.mark.map fun a => s.until a

/-- Whether a channel that member b releases may carry member a: a's mark beat is at or after b's (R209). -/
def State.after (s : State) (a b : Member) : Bool :=
  match s.markLeft a, s.markLeft b with
  | some x, some y => decide (y ≤ x)
  | _, _ => false

/-- R209: a path of member m to output y keeps clear of the present path p' of output y': unless the two share no channel for two
inputs, a member of the same transaction must release p' by m's mark, or an ARMED one of another, and every unfinished member of another
transaction that names y' must be ARMED and release it by m's mark. -/
def State.clearOf (s : State) (t : Tx) (m : Member) (y : Nat) (p : Path) (y' : Nat) (p' : Path) : Bool :=
  if !pathClash y p y' p' then true
  else
    let own := t.members.any fun b => b.outs.contains y' && (b.dst == m.dst || s.after m b)
    let others := (s.take.txs.filter fun u => u.id != t.id).flatMap fun u =>
      (u.members.filter fun b => b.outs.contains y' && !b.fin).map fun b => u.state == 2 && s.after m b
    (own || others.contains true) && others.all id

/-- Paths that a plan's moves and the members of other transactions hold. -/
def State.reserved (s : State) (t : Tx) : List (Nat × Path) :=
  (s.take.txs.filter fun u => u.id != t.id).flatMap fun u => u.members.flatMap fun m =>
    if m.fin || m.superseded then [] else m.outs.zip m.paths

/-- R209, R210: a placement is one that the rules allow. -/
def State.planOk (s : State) (t : Tx) (pl : Plan) : Bool :=
  let now := busyPaths s.fab.ing (s.fab.freed s.beat) s.fab.targets
  let moved := shiftAll (pl.moves.flatMap fun q => q.2) now
  let paths := (t.members.zip pl.members)
  let all := paths.flatMap fun (m, ps) => (m.outs.zip ps).map fun e => (m, e)
  pl.members.length == t.members.length &&
    paths.all (fun (m, ps) =>
      match m.src with
      | none => ps.isEmpty
      | some x => ps.length == m.n && (ps.zipIdx).all fun (q, k) =>
          pathExists q && q.src == x + k && s.midUsable (pathMid q (m.dst + k))) &&
    all.all (fun (m, y, q) =>
      moved.all (fun e => s.clearOf t m y q e.1 e.2) && (s.reserved t).all (fun e => !pathClash y q e.1 e.2) &&
        all.all fun (_, y', q') => !pathClash y q y' q') &&
    pl.moves.all (fun (b, parts) =>
      let before := shiftAll ((pl.moves.filter fun q => q.1 + 22 ≤ b).flatMap fun q => q.2) now
      decide (s.beat + 64 ≤ b) && decide (((b - s.beat : Nat) : Int) * beatUp < s.until t.arm) && !parts.isEmpty && partsFit parts &&
        s.bondWhole parts &&
        parts.all fun q => partOneSlice q && q.old.src == q.new.src && pathExists q.new && q.old.layer != q.new.layer && !q.outs.isEmpty &&
          (q.outs.all fun y => before.contains (y, q.old) && pathFits y q.new before && s.midUsable (pathMid q.new y)))

/-- REHEARSAL_DONE: the solver completes the rehearsal it is at, with a placement or without one (R205, R208, R209). It runs only
under management firmware (R221). -/
def execRehearsalDone (x : TxId) (plan : Option Plan) (s : State) : Host.Outcome State Fault Refusal :=
  .next (match s.tx x with
    | none => s
    | some t =>
      if s.rehearsing ≠ some x ∨ !s.accepting then s
      else
        match plan with
        | none => s.setTx { t with noPlace := true, retry := false }
        | some pl =>
          if s.planOk t pl then
            let ids := (List.range pl.moves.length).map fun i => s.fab.moveId + i
            let recs : List MoveRec := (pl.moves.zip ids).map fun (q, i) => ⟨i, q.2, q.1, some t.id, 3, false, false, none, false⟩
            let ms := (t.members.zip pl.members).map fun (m, ps) => { m with paths := ps }
            { s.setTx { t with state := 1, noPlace := false, retry := false, moves := ids, members := ms } with
              fab := { s.fab with moves := s.fab.moves ++ recs, moveId := s.fab.moveId + pl.moves.length } }
          else s)

/-- A transaction goes back to QUEUED and is rehearsed again (R210). -/
def State.rehearseAgain (s : State) (t : Tx) : State :=
  { s.setTx { t with state := 0, noPlace := false, retry := false, moves := [], members := t.members.map fun m => { m with paths := [] } } with
    fab := { s.fab with moves := s.fab.moves.filter fun m => m.started || m.tx != some t.id } }

/-- MOVE_COMPARE: in beat b0 + 20 the old and target channels are compared (R184). `same` is what the comparison finds where
the words in flight agree; a fault can make it differ. The outputs switch one beat later and the old channels are released two beats
later. When the last retry fails, the transaction is rehearsed again (R210). -/
def execMoveCompare (id : Nat) (same : Bool) (s : State) : Host.Outcome State Fault Refusal :=
  .next (match s.fab.moves.find? fun m => m.id == id && m.started && m.compared.isNone with
    | none => s
    | some m =>
      if s.beat < m.b0 + 20 then s
      else
        let word (k : Nat) : List FWord := ((s.fab.aged 20).filter fun e => e.1 == k).map fun e => e.2
        let agree := m.parts.all fun q => q.outs.all fun y => word (pathEgr q.old y) == word (pathEgr q.new y)
        let ok := m.joined && agree && same
        let s1 := { s with fab := { s.fab with moves := s.fab.moves.map fun r =>
          if r.id = id then { r with compared := some s.beat, matched := ok } else r } }
        let owner := match m.tx with
          | some x => s.tx x
          | none => none
        if ok then s1
        else
          match owner with
          | some t => if m.tries = 0 ∧ t.state ≤ 1 then (s1.moveFail m).rehearseAgain t else s1.moveFail m
          | none => s1.moveFail m)

/-! ### Arm grant, R211 and R218 -/

/-- R218: whether a transaction wins over another at one mark of one destination. -/
def txWins (t u : Tx) : Bool := (t.silence && !u.silence) || (t.silence == u.silence && decide (u.order < t.order))

/-- Whether two swaps are made at one instant. -/
def sameDue : SwapDue → SwapDue → Bool
  | .mark a, .mark b => a.tb == b.tb && a.le b && b.le a
  | .beat a, .beat b => a == b
  | _, _ => false

/-- When a member's swap is made: at its mark, at the source's SWP word, or in the beat after the grant (R213; log entry 34). -/
def State.memberDue (s : State) (m : Member) : SwapDue :=
  match m.mark with
  | some a => .mark a
  | none => if m.src.isSome then .swp else .beat (s.beat + 1)

/-- The swap of a member. -/
def State.memberSwap (s : State) (t : Tx) (i : Nat) (m : Member) : Swap :=
  let ps := match m.src with
    | some _ => (m.outs.zip m.paths).map fun e => (e.1, some e.2)
    | none => m.outs.map fun y => (y, none)
  ⟨t.id, i, ps, s.memberDue m, 0, 0, 0⟩

/-- Time left to a swap, 2^-16 ns. One that waits for an SWP word may come at once. -/
def State.dueLeft (s : State) (w : Swap) : Int :=
  match w.due with
  | .mark a => s.until a
  | .beat n => ((n - s.beat : Nat) : Int) * 189629
  | .swp => 0

/-- The beat from now in which a swap is made. -/
def State.dueBeat (s : State) (w : Swap) : Int :=
  match w.due with
  | .mark a => max 0 (-((-(s.until a) * 216) / (625 * 65536)))
  | .beat n => ((n - s.beat : Nat) : Int)
  | .swp => 0

/-- Insert a number into a rising list without repeats. -/
def insertBeat (b : Int) : List Int → List Int
  | [] => [b]
  | c :: r => if b < c then b :: c :: r else if b = c then c :: r else c :: insertBeat b r

/-- R211: the swaps of each beat, judged together, apply one beat after the other without a conflict, from the first beat of a new
swap on. -/
def State.shadowOk (s : State) (new : List Swap) (loaded : List Swap) : Bool :=
  let l := new ++ loaded
  let beats := l.foldl (fun bs w => insertBeat (s.dueBeat w) bs) []
  let first := new.foldl (fun n w => min n (s.dueBeat w)) (2 ^ 80)
  ((beats.foldl (fun (acc : Tab (Option Path) × Bool) b =>
    let ps := (l.filter fun w => s.dueBeat w == b).flatMap fun w => w.paths
    let t := applyPaths ps acc.1
    let paths := pathsOf t ++ s.fab.targets
    let ok := ps.all fun e => match e.2 with
      | some p => pathAt t e.1 != some p || pathFits e.1 p paths
      | none => true
    (t, acc.2 && (ok || decide (b < first)))) (s.fab.ing, true))).2

/-- A member is superseded: it counts as committed, and its notice names the winner (R218). -/
def State.supersede (s : State) (loser : TxId) (i : Nat) (winner : Tx) : State :=
  match s.tx loser with
  | none => s
  | some t =>
    match t.members[i]? with
    | none => s
    | some m =>
      let p := txPart t.id
      let ms := t.members.set i { m with superseded := true, fin := true }
      let s1 := { s.setTx { t with members := ms } with
        fab := { s.fab with swaps := s.fab.swaps.filter fun w => !(w.id == loser && w.member == i) } }
      let (mark, s1) := s1.memberMark m
      (((s1.takeEvent 6 p).outcome p 5).notice p 7 1 (txTag t.id) mark m.dst (txPart winner.id) (txTag winner.id)).checkDone
        loser

/-- The member whose swap a loaded swap is. -/
def State.swapMember (s : State) (v : Swap) : Option (Tx × Member) :=
  match s.tx v.id with
  | none => none
  | some u => (u.members[v.member]?).map fun m => (u, m)

/-- Whether a silence of a forced removal takes off an armed member that still waits for a word of that source (R220; log entry 178). -/
def removes (t : Tx) (m : Member) (v : Swap) : Bool :=
  match t.id with
  | .forced x _ => v.due == .swp && m.ins.contains x
  | .cmd _ _ => false

/-- The loaded swaps of other transactions that name an output of swap w of t at the same mark (R218). -/
def State.rivalsOf (s : State) (w : Swap) (t : Tx) : List (Swap × Tx) :=
  s.fab.swaps.filterMap fun v =>
    if v.stage != 0 || v.id == t.id || !v.paths.any fun e => w.paths.any fun f => f.1 == e.1 then none
    else
      match s.swapMember v with
      | some (u, m) => if sameDue v.due w.due || removes t m v then some (v, u) else none
      | none => none

/-- ARM_GRANT: the arm point of a transaction is reached (R207, R211). -/
def execArmGrant (x : TxId) (s : State) : Host.Outcome State Fault Refusal :=
  .next (match s.tx x with
    | none => s
    | some t =>
      if 2 ≤ t.state ∨ !s.reached t.arm then s
      else
        let lin := BitVec.ofNat 64 (s.linear t.arm.tb)
        let t := { t with grant := if t.arm.tb = beatBase then t.grant else lin, grantBeat := s.beat }
        if t.state = 0 ∧ !t.allSilent then
          (if t.noPlace && s.accepting then s.endEarly t 6 5 else s.endEarly t 5 4)
        else
          let swaps := t.members.zipIdx.map fun (m, i) => s.memberSwap t i m
          let rivals := swaps.flatMap fun w => (s.rivalsOf w t).map fun e => (w, e)
          let lose := (rivals.filter fun (_, _, u) => !txWins t u).map fun (w, _, u) => (w.member, u)
          let win := (rivals.filter fun (_, _, u) => txWins t u).map fun (_, v, _) => v
          let new := swaps.filter fun w => !lose.any fun e => e.1 == w.member
          let kept := s.fab.swaps.filter fun v => !win.contains v
          let late := kept.filter fun v => v.stage == 0
          if s.shadowOk new late then
            let s1 := { s.setTx { t with state := 2 } with fab := { s.fab with swaps := kept ++ new } }
            let s2 := forEach win (fun v s => s.supersede v.id v.member t) s1
            let s3 := forEach lose (fun e s => s.supersede x e.1 e.2) s2
            s3.tryAgain.checkDone x
          else s.endEarly t 6 6)

/-! ### Commits, R212 to R214 -/

/-- R218 between two swaps of two transactions at one mark of one destination: the loser is superseded. -/
def State.settle (s : State) (v w : Swap) : State :=
  match s.tx v.id, s.tx w.id with
  | some t, some u => if txWins t u then s.supersede w.id w.member t else s.supersede v.id v.member u
  | _, _ => s

/-- A member is put off to its destination's next mark, with its notice (R214); where another transaction is armed for that mark, R218
decides between them. -/
def State.nextMark (s : State) (w : Swap) : State :=
  match s.tx w.id with
  | none => s
  | some t =>
    match t.members[w.member]? with
    | none => s
    | some m =>
      let now := s.nowAt (s.outDesc m.dst).tb
      let from' := match m.mark with
        | some a => if a.le now then now else a
        | none => now
      let mk := (s.markAfter m.dst from').map fun e => e.1
      let m' := { m with mark := if m.mark.isSome then mk else none, nextMark := true }
      let w' := { w with due := s.memberDue m', stage := 0 }
      let (lin, s0) := s.memberMark m'
      let t' := { t with members := t.members.set w.member m', mark0 := if w.member = 0 then lin else t.mark0 }
      let s1 := { s0.setTx t' with
        fab := { s0.fab with swaps := s0.fab.swaps.map fun (v : Swap) => if v.id == w.id && v.member == w.member then w' else v } }
      let p := txPart t.id
      let s2 := (s1.takeEvent 4 p).notice p 8 1 (txTag t.id) lin m.dst 0 0
      forEach ((s1.rivalsOf w' t').map fun e => e.1) (fun v s => s.settle w' v) s2

/-- Pairs of a list of swaps of two transactions that name one output. -/
def swapRivals (l : List Swap) : List (Swap × Swap) :=
  l.zipIdx.flatMap fun (v, i) => (l.drop (i + 1)).filterMap fun w =>
    if v.id != w.id && v.paths.any fun e => w.paths.any fun f => f.1 == e.1 then some (v, w) else none

/-- The swaps of a list that are still loaded. -/
def State.stillLoaded (s : State) (l : List Swap) : List Swap :=
  s.fab.swaps.filter fun v => l.any fun w => w.id == v.id && w.member == v.member

/-- Make swaps in this beat at the ingress stage, together with those already made in it (R182): R218 decides between two of one
destination; where the whole would give a channel or an output two inputs, none of the beat's swaps is applied and each is put off
(R214). -/
def State.swapBeat (s : State) (due : List Swap) : State :=
  let base := s.swapBase
  let s1 := forEach (swapRivals (s.swapsMade ++ due)) (fun e s => s.settle e.1 e.2) s
  let all := s1.stillLoaded (s.swapsMade ++ due)
  if s1.fab.clash = some s.beat then forEach (s1.stillLoaded due) (fun w s => s.nextMark w) s1
  else if s1.swapConflict base all then
    forEach all (fun w s => s.nextMark w)
      (({ s1 with fab := { s1.fab with ing := base, clash := some s.beat } }).xptEvent 5 0)
  else
    { s1 with fab := { s1.fab with
        ing := applyPaths (all.flatMap fun w => w.paths) base
        base := base
        swaps := s1.fab.swaps.map fun (w : Swap) => if all.contains w && w.stage == 0 then s1.stampSwap w else w } }

/-- FABRIC_SWAP: the swaps due in this beat replace the active settings, the middle and egress stages 10 and 20 beats after
the ingress stage (R181). A swap that would give a channel or an output two inputs is not applied (R182). -/
def execFabricSwap (s : State) : Host.Outcome State Fault Refusal :=
  let due : List Swap := s.fab.swaps.filter s.swapDue
  .next (if due.isEmpty then s.swapStages else (s.swapBeat due).swapStages)

/-- The swap of member i that waits for an SWP word. -/
def State.waitingSwap (s : State) (x : TxId) (i : Nat) : Option (Tx × Member × Swap) :=
  match s.tx x, s.fab.swaps.find? fun w => w.id == x && w.member == i && w.stage == 0 && w.due == .swp with
  | some t, some w =>
    match t.members[i]? with
    | some m => some (t, m, w)
    | none => none
  | _, _ => none

/-- Whether an SWP word of a member's source enters in this beat, one of g + 1 to g + 345,600,000. -/
def State.swpEnters (s : State) (t : Tx) (m : Member) : Bool :=
  ((s.fab.aged 0).any fun e => some e.1 == m.src && e.2.valid && e.2.swp) &&
    decide (t.grantBeat < s.beat ∧ s.beat ≤ t.grantBeat + 345600000)

/-- The swaps of other transactions on the same destination whose SWP word enters in this beat too: at one mark (R218). -/
def State.sameSwp (s : State) (w : Swap) : List Swap :=
  s.fab.swaps.filter fun v => v.stage == 0 && v.due == .swp && v.id != w.id &&
    (v.paths.any fun e => w.paths.any fun f => f.1 == e.1) &&
      match s.swapMember v with
      | some (u, m) => s.swpEnters u m
      | none => false

/-- ANYFMT_SWAP: an SWP word of the source enters the ingress stage in one of the beats g + 1 to g + 345,600,000 (R213). -/
def execAnyfmtSwap (x : TxId) (i : Nat) (s : State) : Host.Outcome State Fault Refusal :=
  .next (match s.waitingSwap x i with
    | some (t, m, w) =>
      if s.swpEnters t m then s.swapBeat (w :: s.sameSwp w) else s
    | none => s)

/-- NO_SWP: no SWP word entered, and the swap is made in beat g + 345,600,001, with its notice (R213). -/
def execNoSwp (x : TxId) (i : Nat) (s : State) : Host.Outcome State Fault Refusal :=
  .next (match s.waitingSwap x i with
    | some (t, m, w) =>
      if t.grantBeat + 345600001 ≤ s.beat then
        let p := txPart t.id
        (s.swapBeat [w]).notice p 11 1 (txTag t.id) (BitVec.ofNat 64 (s.linear (s.outDesc m.dst).tb)) m.dst 0 0
      else s
    | none => s)

/-- A route table entry as a commit writes it (R196, R212). -/
def State.writeRoute (s : State) (y : Nat) (p : Option Path) (tag : Word) (lin : Dword) : State :=
  let old := s.ent pXpt 0 3 y 0
  let d0 := match p with
    | some q => wd (2 ^ 31 + q.layer * 2 ^ 26 + q.chan * 65536 + q.src)
    | none => 0
  let same := match p with
    | some q => bitOf old 31 && fld old 0 13 == q.src
    | none => false
  let moves := if same then s.ent pXpt 0 3 y 4 else 0
  s.setEntWords pXpt 0 3 y 0 [d0, tag, loHalf lin.toNat, hiHalf lin.toNat, moves]

/-- The linear count at the start of a member's mark beat; for a destination without a mark of its own or a valid descriptor,
whose time base nothing states, a free value (log entry 34). -/
def State.commitCount (s : State) (m : Member) (w : Swap) : Dword × State :=
  if m.mark.isNone && m.arm.tb == beatBase then
    let (v, s1) := s.fresh 64
    (BitVec.ofNat 64 v, s1)
  else (w.lin, s)

/-- MEMBER_COMMIT: in beat M + 20 the member's route table entries are written (R212). -/
def execMemberCommit (x : TxId) (i : Nat) (s : State) : Host.Outcome State Fault Refusal :=
  .next (match s.tx x, s.fab.swaps.find? fun w => w.id == x && w.member == i && w.stage == 3 with
    | some t, some w =>
      match t.members[i]? with
      | none => s
      | some m =>
        let (lin, s0) := s.commitCount m w
        let s1 := forEach w.paths (fun e s => s.writeRoute e.1 e.2 (txTag x) lin) s0
        let t1 := { t with members := t.members.set i { m with fin := true }, mark0 := if i = 0 then lin else t.mark0 }
        let s2 := { s1.setTx t1 with
          fab := { s1.fab with swaps := s1.fab.swaps.filter fun v => !(v.id == x && v.member == i) } }
        let s3 := if t.silence then s2.notice (s.portOwner 2 m.dst) 9 1 (txTag x) lin m.dst 0 0 else s2
        (s3.checkDone x).evacDone
    | _, _ => s)

/-! ### Forced grant removal, R220 -/

/-- Whether a destination of p, after its next mark, would carry the source: its route has it and no armed member takes it off,
or an armed member brings it. -/
def State.wouldCarry (s : State) (x p y : Nat) : Bool :=
  let armed := s.take.txs.flatMap fun t => if t.state = 2 ∧ txPart t.id = p then
    t.members.filter (fun m => m.outs.contains y && !m.fin) else []
  let routed := bitOf (s.ent pXpt 0 3 y 0) 31 && s.entF pXpt 0 3 y 0 0 13 == x
  armed.any (fun m => m.ins.contains x) || (routed && !armed.any fun m => !m.ins.contains x)

/-- Take partition p's grant on source x away by force: its unarmed transactions from the source are struck with REVOKED, and a
silence is queued for each of its destinations that would carry it. -/
def State.forceRemoval (s : State) (x p : Nat) : State :=
  let ts := s.take.txs.filter fun t => txCmd t.id && txPart t.id == p && t.state < 2 && t.members.any fun m => m.ins.contains x
  let s1 := forEach ts (fun t s => s.endEarly t 4 10) s
  let ys := (idxs 4608 fun y => s1.portOwner 2 y == p && s1.wouldCarry x p y && (s1.outDesc y).mode != 2)
  let cs := ys.filterMap fun y =>
    (s1.chooseMark y none (s1.nowAt (s1.outDesc y).tb) (4000 * 65536) true).map fun c => ((y, (none : Option Nat)), c)
  let id : TxId := .forced x (Fin.ofNat 16 p)
  if cs.isEmpty then s1.setEntF pPart 0 1 x 0 (16 + p) 1 0
  else
    let s2 := { s1 with take := { s1.take with removing := s1.take.removing ++ [(x, p)] } }
    s2.enlist (s2.newTx id true (cs.map fun e => e.1) (cs.map fun e => e.2))

/-! ### Resets, R221 to R224 -/

/-- RESET_N, chip reset and power loss (R223). -/
def State.takeChipReset (s : State) : State :=
  { s with take := ⟨[], [], 0, [], false, [], none⟩ }

/-- A management warm reset begins: staging lists are cleared and the solver stops (R202, R221). -/
def State.takeWarm (s : State) : State :=
  { s.clearStaging none with take := { s.take with solver := false } }

/-- Management firmware is ready again: ACCEPT returns to 1 and cause 196 is raised to P0 (R221). -/
def State.takeReady (s : State) : State :=
  { s with take := { s.take with solver := true } }.cause 0 196

/-- A block reset of the take engine: transactions not armed are restored and rehearsed again (R224). -/
def State.takeBlockReset (s : State) : State :=
  forEach (s.take.txs.filter fun t => t.state ≤ 1 && !t.allSilent) (fun t s => s.rehearseAgain t) s

/-- Whether a loaded swap sets a channel of a slice. -/
def swapUses (w : Swap) (fs : Nat) : Bool :=
  w.paths.any fun e => match e.2 with
    | some p => (routeSlices e.1 p).contains fs
    | none => 40 + outSlice e.1 == fs

/-- A member of a mark that is 64 beats away commits at its next mark where a slice of its settings is in block reset and so is not
reloaded by then (R224). -/
def State.reloadBeat (s : State) : State :=
  if s.flt.resetting.isEmpty then s
  else
    forEach (s.fab.swaps.filter fun w => w.stage == 0 &&
        (match w.due with
        | .mark a => decide (s.until a < 64 * beatUp)
        | _ => false) && s.flt.resetting.any fun r => r.1 == pXpt && swapUses w r.2)
      (fun w s => s.nextMark w) s

/-- A block reset of a fabric slice begins (R224): rehearsals are made again without the slice, and an armed member whose mark is too
near to reload the slice commits at its next mark. -/
def State.sliceReset (s : State) (_fs : Nat) : State :=
  (forEach (s.take.txs.filter fun t => t.state == 1 && !t.allSilent) (fun t s => s.rehearseAgain t) s).reloadBeat

/-- What a beat does to the take engine: the grant bits of removals that are over clear, the solver goes to its next rehearsal, and
members of a slice in reset are put off. -/
def State.takeBeat (s : State) : State :=
  let s1 := s.clearGrants
  ({ s1 with take := { s1.take with solving := s1.rehearsing } }).reloadBeat

/-! ### Registers, tables and queries -/

/-- A write of TAKE.CFG: a REH_DEPTH outside 1 to 8 is refused (R227). -/
def writeTakeCfg (d : Word) (s : State) : State :=
  if 1 ≤ fld d 4 4 ∧ fld d 4 4 ≤ 8 then s.wr 0 (regA pTake 0x040) (wd (fld d 0 20)) else s.takeEvent 7 0

/-- TAKE.STATUS as it reads: REASON, ACCEPT and FULL. -/
def State.takeStatus (s : State) (p : Nat) : Word :=
  let full := decide (s.quota p ≤ s.queueUsed p ∨ 65536 ≤ s.queueTotal)
  setBit (setBit (s.rd p (regA pTake 0x044)) 8 s.accepting) 9 full

/-- A write of TAKE.SNAP with bit 0 set. -/
def State.takeSnap (s : State) (p : Nat) : State :=
  forEach (List.range 6) (fun i s => s.snap p (regA pTake (0x0B8 + 4 * i)) (regA pTake (0x0D0 + 4 * i))) s

/-- Reads of the TAKE tables, R229. -/
def takeTableRead (t : Tag) (sel idx : Nat) (s : State) : Nat × List Word :=
  let p := tagBank t
  match sel with
  | 1 => if 4096 ≤ idx then (2, []) else (0, [s.staged p idx])
  | 2 => if 256 ≤ idx then (2, []) else (0, s.entWords pTake p 2 idx 6)
  | 3 => if 16 ≤ idx then (2, []) else if p ≠ 0 ∧ idx ≠ p then (4, []) else (0, s.entWords pTake 0 3 idx 2)
  | _ => (1, [])

/-- Writes of the TAKE tables, R202 and R229. -/
def takeTableWrite (t : Tag) (sel idx : Nat) (d : List Word) (s : State) : Nat × State :=
  let p := tagBank t
  match sel with
  | 1 =>
    let w := dat d 0
    if 4096 ≤ idx then (2, s)
    else if 4607 < fld w 0 13 ∨ (4351 < fld w 16 13 ∧ fld w 16 13 ≠ 0x1FFF) then (3, s.wrF p (regA pTake 0x044) 0 8 3)
    else (0, s.setEnt pTake p 1 idx 0 (w &&& 0x9FFF1FFF))
  | 2 => if p ≠ 0 then (4, s) else if 256 ≤ idx then (2, s) else (3, s)
  | 3 =>
    if p ≠ 0 then (4, s) else if 16 ≤ idx then (2, s)
    else if 65536 < (dat d 0).toNat then (3, s)
    else (0, s.setEnt pTake 0 3 idx 0 (dat d 0))
  | _ => (1, s)

/-- Query of an output's route, R226. -/
def State.queryRoute (s : State) (t : Tag) (y : Nat) : Nat × List Word :=
  if 4608 ≤ y ∨ !tagOwns t (s.portOwner 2 y) then (1, [])
  else
    let e := s.ent pXpt 0 3 y 0
    let pend := s.take.txs.filterMap fun u => (u.members.find? fun m => m.outs.contains y).map fun m => (u, m)
    let best := match pend with
      | [] => none
      | a :: r => some (r.foldl (fun (b c : Tx × Member) => if s.until (c.2.mark.getD c.2.arm) < s.until (b.2.mark.getD b.2.arm) then c else b) a)
    let (tag, mark) := match best with
      | some (u, m) => (txTag u.id, s.linearAt (m.mark.getD m.arm))
      | none => (0, 0)
    (0, [wd (fld e 31 1 * 2 ^ 31 + fld e 0 13), s.ent pXpt 0 3 y 1, s.ent pXpt 0 3 y 2, s.ent pXpt 0 3 y 3, wd pend.length,
      tag, loHalf mark, hiHalf mark])

/-- Query of a tag, R226: among the unfinished transactions and the finished ones that are kept. -/
def State.queryTag (s : State) (p : Nat) (tag : Word) : Nat × List Word :=
  let words (st n : Nat) (m g : Dword) (sup nm : Nat) : List Word :=
    [wd (st + n * 65536), tag, loHalf m.toNat, hiHalf m.toNat, loHalf g.toNat, hiHalf g.toNat, wd (sup + nm * 65536)]
  match s.take.txs.find? fun t => txCmd t.id && txPart t.id == p && txTag t.id == tag with
  | some t => (0, words t.state t.members.length (s.txMark t) (s.txGrant t) (t.members.filter fun m => m.superseded).length
      (t.members.filter fun m => m.nextMark).length)
  | none =>
    match s.take.ends.find? fun e => e.part == p && e.tag == tag with
    | some e => (0, words e.state e.count e.mark0 e.grant e.superseded e.nextMark)
    | none => (2, [])

/-- A take query: TYPE and argument as TAKE.QRY and QRY_ARG hold them. -/
def State.takeQuery (s : State) (t : Tag) : Nat × List Word :=
  let p := tagBank t
  let arg := s.rd p (regA pTake 0x0B4)
  if bitOf (s.rd p (regA pTake 0x0B0)) 0 then s.queryTag p arg else s.queryRoute t (fld arg 0 13)

end Sys2Proof.Machine
end

