-- ==== Sys2Proof/Machine/Reel.lean ====
section
/-!
DEFINITION. Machine/Reel.lean: the reel store of spec/08_reel_store.md (R230 to R257): segments and regions, the budget, frame
synchronisers, record and playout ports, line transactions, the HBM window and the controllers.
-/
namespace Sys2Proof.Machine

/-! ### Users, owners and the budget, R231 to R236 -/

/-- Number of a user: class (0 frame synchronisers, 1 record, 2 playout, 3 graphic planes) and index. Of class 3, indices 0 to 63
are heads, 64 to 447 layers and 448 to 703 planes (R365). -/
def userNo (cls i : Nat) : Nat := cls * 4096 + i

/-- Fabric output of a record port and fabric input of a playout port (R244). -/
def recOut (r : Nat) : Nat := 4096 + 384 + r
def playIn (p : Nat) : Nat := 4096 + 64 + p

/-- Partition of a user. -/
def State.userPart (s : State) (u : Nat) : Nat :=
  let i := u % 4096
  match u / 4096 with
  | 0 => s.eiOwner (s.entF pReel 0 3 i 0 0 12)
  | 1 => s.partOwner 2 (recOut i)
  | 2 => s.partOwner 1 (playIn i)
  | _ => if i < 64 then s.partOwner 3 i else if i < 448 then s.partOwner 2 (4096 + (i - 64)) else s.partOwner 3 ((i - 448) / 4)

/-- Demand charged to a user, and its stream rate. -/
def State.demandOf (s : State) (u : Nat) : Nat := Tab.get (fun _ => 0) s.reel.demand u
def State.rateOf (s : State) (u : Nat) : Nat := Tab.get (fun _ => 0) s.reel.rate u

/-- Demand of a class, and of all classes: REEL.BUDGET_USED (R235). -/
def State.classDemand (s : State) (cls : Nat) : Nat :=
  s.reel.demand.foldl (fun n e => if e.1 / 4096 = cls then n + e.2 else n) 0
def State.budgetUsed (s : State) : Nat := s.reel.demand.foldl (fun n e => n + e.2) 0

/-- REEL.BUDGET_LIMIT, and the permanent reserve of the long buffer, in Mbit/s (R235). -/
def budgetLimit : Nat := 28872532
def longReserve : Nat := 2 * cdiv (27 * 5267456) 70

/-- Charge a user (R234, R236). -/
def State.charge (s : State) (u demand rate : Nat) : State :=
  let s1 := { s with reel := { s.reel with
    demand := Tab.put (fun _ => 0) s.reel.demand u demand, rate := Tab.put (fun _ => 0) s.reel.rate u rate } }
  s1.wr 0 (regA pReel 0x04C) (wd s1.budgetUsed)

/-- Per-direction rate of an essence (R234), and its stream rate (R236), in Mbit/s. -/
def Desc.perDir (d : Desc) : Nat :=
  if d.kind = 4 then cdiv (sdiRate d.sdiclass * 512) (510 * 1000) else cdiv (27 * d.rate) 70
def Desc.streamRate (d : Desc) : Nat := cdiv (243 * d.rate) 640

/-- Demand of a graphic plane of w × h at the frame rate fn / fd. -/
def planeDemand (w h fn fd : Nat) : Nat := cdiv (w * h * fn * 32) (fd * 1000000)

/-- Ports with LONG = 1 (R168). -/
def State.longPorts (s : State) : List Nat :=
  (List.range 16).flatMap fun sl => (s.entIdxs (pIng sl) 0 2 0 fun w => bitOf w 13).map fun i => sl * 256 + i

/-- Reel load of the long-buffer slots of a partition, and the sum of their RATE over the part, ING0.LONG_LOAD. -/
def State.longReel (s : State) (p : Nat) : Nat :=
  ((s.longPorts.filter fun ei => s.eiOwner ei == p).flatMap fun ei => (s.slotsOf ei).map fun k => (s.inDesc ei k).streamRate).sum
def State.longLoad (s : State) : Nat :=
  (s.longPorts.flatMap fun ei => (s.slotsOf ei).map fun k => (s.inDesc ei k).rate).sum

/-- Reel load of a partition (R236), and its cap. -/
def State.reelLoad (s : State) (p : Nat) : Nat :=
  s.reel.rate.foldl (fun n e => if s.userPart e.1 = p then n + e.2 else n) 0 + s.longReel p
def State.reelCap (s : State) (p : Nat) : Nat := 1000 * s.entF pPart 0 8 p 2 0 16

/-- Whether a new descriptor of a slot of a LONG = 1 port would take the sum of RATE, or its partition's load, past its limit (R168). -/
def State.overLong (s : State) (port slot : Nat) (e : Desc) : Bool :=
  let old := s.inDesc port slot
  let was (n : Nat) : Nat := if old.valid then n else 0
  let p := s.eiOwner port
  decide (port < 4096) && bitOf (s.ingCfg port 0) 13 && e.valid && decide (was old.rate < e.rate) &&
    (decide (5267456 < s.longLoad - was old.rate + e.rate) ||
      decide (s.reelCap p < s.reelLoad p - was old.streamRate + e.streamRate))

/-- Whether a user's new demand passes the budget, and whether its partition's load passes the cap. Neither is checked unless the
configuration raises it. -/
def State.overBudget (s : State) (u demand : Nat) : Bool :=
  decide (s.demandOf u < demand ∧ budgetLimit < s.budgetUsed - s.demandOf u + demand)
def State.overReelCap (s : State) (u p rate : Nat) : Bool :=
  let old := if s.userPart u = p then s.rateOf u else 0
  decide (old < rate ∧ s.reelCap p < s.reelLoad p - old + rate)

/-! ### Segments and regions, R231 and R232 -/

/-- SEG and NSEG of a word that names a region. -/
def segOf (w : Word) : Nat := fld w 0 12
def nsegOf (w : Word) : Nat := fld w 16 8

/-- Regions of valid users other than u: frame synchronisers, record ports, and playout ports that do not chase. -/
def State.regions (s : State) (u : Nat) : List (Nat × Nat) :=
  let of (cls sel w : Nat) (f : Nat → Bool) : List (Nat × Nat) :=
    ((s.entIdxs pReel 0 sel 0 fun w => bitOf w 31).filter fun i => userNo cls i != u && f i).map fun i =>
      (segOf (s.ent pReel 0 sel i w), nsegOf (s.ent pReel 0 sel i w))
  of 0 3 2 (fun _ => true) ++ of 1 5 1 (fun _ => true) ++ of 2 6 1 (fun i => !bitOf (s.ent pReel 0 6 i 0) 27)

/-- Regions of the compositor heads other than h (R364). -/
def State.headRegions (s : State) (h : Nat) : List (Nat × Nat) :=
  ((idxs 64 fun i => i != h).map fun i => (segOf (s.ent pMon 0 1 i 1), nsegOf (s.ent pMon 0 1 i 1))).filter fun r => r.2 != 0

/-- Whether two regions overlap. -/
def overlap (a b : Nat × Nat) : Bool := decide (a.1 < b.1 + b.2 ∧ b.1 < a.1 + a.2)

/-- Whether a region lies in segments that partitions may hold. -/
def regionOk (seg nseg : Nat) : Bool := decide (64 ≤ seg ∧ 1 ≤ nseg ∧ seg + nseg ≤ 2304)

/-- Owner of a segment. -/
def State.segOwner (s : State) (n : Nat) : Nat := s.entF pReel 0 1 n 0 0 4

/-- SEG_OWNER: whether some segment of a region is not the partition's. -/
def State.segBad (s : State) (p seg nseg : Nat) : Bool := (List.range nseg).any fun i => s.segOwner (seg + i) != p

/-- USED of a segment. -/
def State.segUsed (s : State) (n : Nat) : Bool :=
  (s.regions 0xFFFF ++ s.headRegions 64).any fun r => decide (r.1 ≤ n ∧ n < r.1 + r.2)

/-! ### Storage format, R233 -/

/-- The value of a 64-byte line of up to seven words: the tag (COUNT, and SOF and SWP of word 0), and the words from bit 503 down. -/
def packLine (ws : List FWord) : Nat :=
  let b (x : Bool) (n : Nat) : Nat := if x then n else 0
  let tag := match ws with
    | [] => 0
    | w :: _ => ws.length + b (w.side.getLsbD 6) 8 + b (w.side.getLsbD 4) 16
  (List.range 7).foldl (fun v i => v * 2 ^ 72 + ((ws.map fun w => w.data.toNat).getD i 0)) tag

/-- Words of a stored line: tag, and the words that COUNT tells of. -/
def lineTag (v : Nat) : Nat := v / 2 ^ 504
def lineCount (v : Nat) : Nat := lineTag v % 8
def unpackLine (v : Nat) : List (BitVec 72) := (List.range (lineCount v)).map fun i => BitVec.ofNat 72 (v / 2 ^ (432 - 72 * i))

/-- SDI words of the fabric words of an SDI bitstream (R27): W[71:62] down, as many as W[11:9] tells. -/
def sdiWords (ws : List FWord) : List Nat :=
  ws.flatMap fun w => (List.range (w.data.toNat / 2 ^ 9 % 8)).map fun i => w.data.toNat / 2 ^ (62 - 10 * i) % 2 ^ 10

/-- Runs of words that start a new stored line: at each word with SOL. -/
def solRuns : List FWord → List (List FWord)
  | [] => []
  | w :: r =>
    match solRuns r with
    | [] => [[w]]
    | l :: ls => match l with
      | [] => [w] :: ls
      | x :: _ => if x.side.getLsbD 5 then [w] :: l :: ls else (w :: l) :: ls

/-- The lines of a frame of the given KIND. -/
def packFrame (kind : Nat) (ws : List FWord) : List Nat :=
  if kind = 4 then
    let v := sdiWords ws
    (chunks 51 v.length v).map fun l => (padTo 51 l).foldl (fun n w => n * 1024 + w) 0 * 4
  else if kind = 1 ∨ kind = 2 then (chunks 7 ws.length ws).map packLine
  else (solRuns ws).flatMap fun l => (chunks 7 l.length l).map packLine

/-- Sample periods of a frame: fewest and most. -/
def Desc.periodsMin (d : Desc) : Nat := d.sampleRate * d.frameRate.2 / d.frameRate.1
def Desc.periodsMax (d : Desc) : Nat := cdiv (d.sampleRate * d.frameRate.2) d.frameRate.1

/-- Words of a sample period. -/
def Desc.periodWords (d : Desc) : Nat := if d.kind = 1 then cdiv d.channels 3 else d.channels

/-- Active and other lines of a frame. -/
def Desc.activeCount (d : Desc) : Nat :=
  let ((_, n), (_, m)) := activeLines d.raster d.scan
  n + m

/-- Lines of the largest frame that a descriptor allows (R233, R241). Ancillary and opaque frames are bounded by RATE, a line for
each word (log entry 43). -/
def Desc.frameLines (d : Desc) : Nat :=
  match d.kind with
  | 0 => d.activeCount * cdiv d.wpl 7 + (d.total - d.activeCount)
  | 4 => cdiv (cdiv (sdiRate d.sdiclass * 1001 * d.frameRate.2) (10 * d.frameRate.1)) 51
  | 3 => cdiv (d.rate * 345600000 * d.frameRate.2) (65536 * d.frameRate.1)
  | 5 => cdiv (d.rate * 345600000 * d.frameRate.2) (65536 * d.frameRate.1)
  | _ => cdiv (d.periodsMax * d.periodWords) 7

/-- Lines of an index of n entries, rounded up to 4 KiB. -/
def indexLines (n : Nat) : Nat := cdiv (n * 16) 4096 * 64

/-- Lines of a region. -/
def regionLines (nseg : Nat) : Nat := nseg * 2 ^ 20

/-! ### Configuration, R237 to R247, R256 and R257 -/

/-- Whether the reel store takes configuration writes (R253). -/
def State.reelReady (s : State) : Bool := s.ready pReel

/-- A refused write of a REEL table records its REASON and changes nothing else (R257). -/
def State.reelRefuse (s : State) (t : Tag) (reason idx : Nat) : Nat × State :=
  (3, s.setReason pReel 0x040 (tagBank t) reason idx)

/-- An accepted write. -/
def State.reelAccept (s : State) (t : Tag) : Nat × State := (0, s.clearReason pReel 0x040 (tagBank t))

/-- Frames per second that are whole numbers: codes 1, 2, 4, 6, 7, 9, 10 and 12 (R243). -/
def integerRate (code : Nat) : Bool := [1, 2, 4, 6, 7, 9, 10, 12].contains code

/-- Whether an SDI or other source of a port comes as packets: some valid flow targets the slot (R243). -/
def State.packetFlow (s : State) (ei slot : Nat) : Bool :=
  s.flows.any fun f =>
    let w := s.ent (pIng f.1) 0 1 f.2 0
    f.1 * 256 + fld w 12 8 == ei && fld w 20 4 == slot

/-- LINK: the cases of R243. -/
def State.linkBad (s : State) (ei slot link : Nat) : Bool :=
  let w := s.ent pReel 0 3 link 0
  let pe := fld w 0 12
  !(bitOf w 31) || bitOf w 30 || pe / 256 != ei / 256 || s.eiOwner pe != s.eiOwner ei ||
    !(s.packetFlow pe 0) || !(s.packetFlow ei slot) || !integerRate (s.inDesc ei slot).frate

/-- The first check that the region and the charges of an entry fail, or 0 (order: log entry 42). -/
def State.regionReason (s : State) (p u seg nseg lines demand rate : Nat) (overlapToo : Bool) : Nat :=
  if s.segBad p seg nseg then 3
  else if overlapToo && (s.regions u).any fun r => overlap r (seg, nseg) then 4
  else if regionLines nseg < lines then 9
  else if s.overBudget u demand then 5
  else if s.overReelCap u p rate then 6
  else 0

/-- GUARD_US: 0 is treated as 50. -/
def guardUs (w : Word) : Nat := let g := fld w 0 16; if g = 0 then 50 else g

/-- The REASON that refuses an entry of table 3 with VALID = 1 (R238 to R243), or 0. -/
def fsReason (f : Nat) (d : List Word) (s : State) : Nat :=
  let w0 := dat d 0 &&& 0xFF7F0FFF
  let w1 := dat d 1 &&& 0x00FF03FF
  let w2 := dat d 2 &&& 0x00FF0FFF
  let w3 := dat d 3
  let ei := fld w0 0 12
  let linked := bitOf w0 30
  let slot := if linked then fld w0 16 4 else 0
  let dsc := s.inDesc ei slot
  let prim := s.ent pReel 0 3 (fld w1 0 10) 0
  let nbuf := if linked then fld prim 24 4 else fld w0 24 4
  let hyst := fld w3 16 16
  let fn := dsc.frameRate.1
  let fd := dsc.frameRate.2
  let badValue := !regionOk (segOf w2) (nsegOf w2) || (!linked &&
    (decide (nbuf < 4 ∨ 8 < nbuf ∨ nbuf - 4 < fld w0 20 3 ∨ 2 < fld w0 28 2) || (fld w0 28 2 == 1 && dsc.kind == 4 && dsc.valid) ||
      (dsc.valid && decide (fd * 1000000 ≤ (hyst + guardUs w3) * fn))))
  if badValue then 2
  else if !dsc.valid then 7
  else if linked && !(dsc.kind == 1 || dsc.kind == 2 || dsc.kind == 3) then 8
  else if !linked && (!(dsc.kind == 0 || dsc.kind == 4) || decide (1 < dsc.mode) || s.align ei != 1) then 8
  else if linked && s.linkBad ei slot (fld w1 0 10) then 10
  else s.regionReason (s.eiOwner ei) (userNo 0 f) (segOf w2) (nsegOf w2) (nbuf * dsc.frameLines) (2 * dsc.perDir) dsc.streamRate true

/-- Words of a slot that a port, or the ports of its group, still have to present are dropped. -/
def State.dropSlot (s : State) (ei slot : Nat) : State :=
  let group := s.groupAt ei
  forEach group (fun x s =>
    let left := (Tab.get (fun _ => []) s.fab.due x).filter fun e => group.length == 1 && e.2.slot != slot
    { s with fab := { s.fab with due := Tab.put (fun _ => []) s.fab.due x left } }) s

/-- A write of a frame synchroniser entry. -/
def fsWrite (t : Tag) (f : Nat) (d : List Word) (s : State) : Nat × State :=
  let w0 := dat d 0 &&& 0xFF7F0FFF
  let w1 := dat d 1 &&& 0x00FF03FF
  let w2 := dat d 2 &&& 0x00FF0FFF
  let w3 := dat d 3
  let old := s.ent pReel 0 3 f 0
  let valid := bitOf old 31
  let ei := fld w0 0 12
  let p := s.eiOwner ei
  let u := userNo 0 f
  let store (s : State) : State := s.setEntWords pReel 0 3 f 0 [w0, w1, w2, w3]
  if !tagOwns t p || (valid && !tagOwns t (s.userPart u)) then (4, s)
  else if !s.reelReady then s.reelRefuse t 11 f
  else if !bitOf w0 31 then
    if valid && s.portInUse selIn (fld old 0 12) then s.reelRefuse t 1 f
    else if valid then
      ((((store s).charge u 0 0).setFs f FsRec.idle |>.setEntF pReel 0 4 f 0 0 2 0).dropSlot (fld old 0 12)
        (if bitOf old 30 then fld old 16 4 else 0)).reelAccept t
    else (store s).reelAccept t
  else if valid then s.reelRefuse t 1 f
  else
    let r := fsReason f d s
    let dsc := s.inDesc ei (if bitOf w0 30 then fld w0 16 4 else 0)
    if r ≠ 0 then s.reelRefuse t r f
    else ((((store s).charge u (2 * dsc.perDir) dsc.streamRate).setFs f FsRec.idle).setEntF pReel 0 4 f 0 0 2 1).reelAccept t

/-- Hidden state of a record and of a playout port. -/
def State.recRec (s : State) (r : Nat) : RecRec := Tab.get (fun _ => RecRec.idle) s.reel.recs r
def State.setRec (s : State) (r : Nat) (x : RecRec) : State :=
  let st := if x.on then 2 else if x.pending.any (fun c => c.op == 1) then 1 else if x.full then 3 else 0
  { s.setEntF pReel 0 7 r 0 0 3 st with reel := { s.reel with recs := Tab.put (fun _ => RecRec.idle) s.reel.recs r x } }
def State.playRec (s : State) (p : Nat) : PlayRec := Tab.get (fun _ => PlayRec.idle) s.reel.plays p
def State.setPlay (s : State) (p : Nat) (x : PlayRec) : State :=
  let st := if x.pending.any (fun c => c.op == 3) then 1 else x.mode
  { s.setEntF pReel 0 7 (128 + p) 0 0 3 st with reel := { s.reel with plays := Tab.put (fun _ => PlayRec.idle) s.reel.plays p x } }

/-- A write of a record port entry. -/
def recWrite (t : Tag) (r : Nat) (d : List Word) (s : State) : Nat × State :=
  let w0 := dat d 0 &&& 0xC000FFFF
  let w1 := dat d 1 &&& 0x00FF0FFF
  let valid := bitOf (s.ent pReel 0 5 r 0) 31
  let p := s.partOwner 2 (recOut r)
  let u := userNo 1 r
  let dsc := s.outDesc (recOut r)
  let store (s : State) : State := s.setEntWords pReel 0 5 r 0 [w0, w1]
  if !tagOwns t p then (4, s)
  else if !s.reelReady then s.reelRefuse t 11 r
  else if !bitOf w0 31 then
    if valid && s.portInUse selOut (recOut r) then s.reelRefuse t 1 r
    else (((store s).charge u 0 0).setRec r RecRec.idle).reelAccept t
  else if valid then s.reelRefuse t 1 r
  else if fld w0 0 16 = 0 ∨ !regionOk (segOf w1) (nsegOf w1) then s.reelRefuse t 2 r
  else if !dsc.valid then s.reelRefuse t 7 r
  else if dsc.mode ≠ 0 then s.reelRefuse t 8 r
  else
    let x := s.regionReason p u (segOf w1) (nsegOf w1) (indexLines (fld w0 0 16) + dsc.frameLines) dsc.perDir dsc.streamRate true
    if x ≠ 0 then s.reelRefuse t x r
    else (((store s).charge u dsc.perDir dsc.streamRate).setRec r RecRec.idle).reelAccept t

/-- A write of a playout entry, which also writes the input descriptor of II(64 + p) (R36, R246). -/
def playWrite (t : Tag) (p : Nat) (d : List Word) (s : State) : Nat × State :=
  let w0 := dat d 0 &&& 0xF87FFFFF
  let w1 := dat d 1 &&& 0x00FF0FFF
  let valid := bitOf (s.ent pReel 0 6 p 0) 31
  let x := playIn p
  let own := s.partOwner 1 x
  let u := userNo 2 p
  let chase := bitOf w0 27
  let inUse := s.portInUse selIn x
  let dsc : Desc := ⟨setBit (dat d 2) 17 false, dat d 3, dat d 4⟩
  let store (s : State) : State := s.setEntWords pReel 0 6 p 0 [w0, w1, dat d 2, dat d 3, dat d 4]
  let i := x * 16
  if !tagOwns t own then (4, s)
  else if !s.reelReady then s.reelRefuse t 11 p
  else if !bitOf w0 31 then
    if valid && inUse then s.reelRefuse t 1 p
    else
      let s1 := ((store s).charge u 0 0).setEntWords pXpt 0 1 i 0 [0, 0, 0, 0]
      (((s1.setPlay p PlayRec.idle).dropDue x)).reelAccept t
  else if valid then s.reelRefuse t 1 p
  else if 2 < fld w0 28 3 ∨ (!chase && (fld w0 0 16 == 0 || !regionOk (segOf w1) (nsegOf w1))) then s.reelRefuse t 2 p
  else if !dsc.valid then s.reelRefuse t 7 p
  else if dsc.mode ≠ 0 then s.reelRefuse t 8 p
  else
    let dr := s.descReason .m selIn i inUse dsc
    if dr ≠ 0 then (s.descStatus t selIn dr i).reelRefuse t (if dr = 1 then 1 else 2) p
    else
      let rc := s.ent pReel 0 5 (fld w0 16 7) 0
      let r := if chase then
          if s.partOwner 2 (recOut (fld w0 16 7)) ≠ own ∨ !bitOf rc 31 then 3
          else if s.overBudget u dsc.perDir then 5
          else if s.overReelCap u own dsc.streamRate then 6
          else 0
        else s.regionReason own u (segOf w1) (nsegOf w1) (indexLines (fld w0 0 16) + dsc.frameLines) dsc.perDir dsc.streamRate true
      if r ≠ 0 then s.reelRefuse t r p
      else
        let s1 := ((store s).charge u dsc.perDir dsc.streamRate).setEntWords pXpt 0 1 i 0 [dsc.w0, dsc.w1, dsc.w2, dsc.data3]
        ((s1.wrF (tagBank t) (regA pXpt 0x048) 0 4 0).setPlay p PlayRec.idle).reelAccept t

/-- Writes of the REEL tables. -/
def reelTableWrite (t : Tag) (sel idx : Nat) (d : List Word) (s : State) : Nat × State :=
  match sel with
  | 1 =>
    if !tagIsP0 t then (4, s) else if 2304 ≤ idx then (2, s)
    else if !s.reelReady then s.reelRefuse t 11 idx
    else if s.segUsed idx then s.reelRefuse t 1 idx
    else if idx < 64 then s.reelRefuse t 2 idx
    else (s.setEnt pReel 0 1 idx 0 (wd (fld (dat d 0) 0 4))).reelAccept t
  | 2 => if 5 ≤ idx then (2, s) else s.reelRefuse t 2 idx
  | 3 => if 1024 ≤ idx then (2, s) else fsWrite t idx d s
  | 4 => if 1024 ≤ idx then (2, s) else if !tagOwns t (s.userPart idx) then (4, s) else s.reelRefuse t 2 idx
  | 5 => if 128 ≤ idx then (2, s) else recWrite t idx d s
  | 6 => if 128 ≤ idx then (2, s) else playWrite t idx d s
  | 7 =>
    if 256 ≤ idx then (2, s)
    else if !tagOwns t (s.userPart (if idx < 128 then userNo 1 idx else userNo 2 (idx - 128))) then (4, s) else s.reelRefuse t 2 idx
  | 8 => if 16 ≤ idx then (2, s) else if !tagOwns t idx && !tagIsP0 t then (4, s) else s.reelRefuse t 2 idx
  | _ => (1, s)

/-- Reads of the REEL tables. -/
def reelTableRead (t : Tag) (sel idx : Nat) (s : State) : Nat × List Word :=
  match sel with
  | 1 =>
    if 2304 ≤ idx then (2, [])
    else if !tagIsP0 t && !tagOwns t (s.segOwner idx) then (4, [])
    else (0, [setBit (s.ent pReel 0 1 idx 0) 31 (s.segUsed idx)])
  | 2 => if 5 ≤ idx then (2, []) else (0, [wd (if idx = 4 then longReserve else s.classDemand idx)])
  | 3 => if 1024 ≤ idx then (2, []) else if !tagOwns t (s.userPart idx) then (4, []) else (0, s.entWords pReel 0 3 idx 4)
  | 4 => if 1024 ≤ idx then (2, []) else if !tagOwns t (s.userPart idx) then (4, []) else (0, s.entWords pReel 0 4 idx 12)
  | 5 => if 128 ≤ idx then (2, []) else if !tagOwns t (s.userPart (userNo 1 idx)) then (4, []) else (0, s.entWords pReel 0 5 idx 2)
  | 6 => if 128 ≤ idx then (2, []) else if !tagOwns t (s.userPart (userNo 2 idx)) then (4, []) else (0, s.entWords pReel 0 6 idx 5)
  | 7 =>
    if 256 ≤ idx then (2, [])
    else if !tagOwns t (s.userPart (if idx < 128 then userNo 1 idx else userNo 2 (idx - 128))) then (4, [])
    else
      let cur := if idx < 128 then (s.recRec idx).entry else (s.playRec (idx - 128)).entry
      (0, s.ent pReel 0 7 idx 0 :: wd cur :: (s.entWords pReel 0 7 idx 12).drop 2)
  | 8 =>
    if 16 ≤ idx then (2, []) else if !tagIsP0 t && !tagOwns t idx then (4, [])
    else (0, [wd (s.reelLoad idx), wd (s.reelCap idx)])
  | _ => (1, [])

/-! ### Frame synchronisers, R238 to R243 -/

/-- Raise a REEL event of a user, attributed to its partition (R257). -/
def State.reelEvent (s : State) (b u : Nat) : State := s.raise pReel b (s.userPart u)

/-- Count in a word of the status entry of a frame synchroniser. -/
def State.fsCount (s : State) (f w n : Nat) : State := s.setEnt pReel 0 4 f w (wd (satAdd 32 (s.ent pReel 0 4 f w).toNat n))

/-- NBUF of a primary. -/
def State.nbuf (s : State) (f : Nat) : Nat := s.entF pReel 0 3 f 0 24 4

/-- Entries linked to a primary. -/
def State.linkedTo (s : State) (f : Nat) : List Nat :=
  (s.entIdxs pReel 0 3 0 fun w => bitOf w 31 && bitOf w 30).filter fun g => s.entF pReel 0 3 g 1 0 10 == f

/-- Keep only the frames that NBUF buffers hold, the newest being n. -/
def FsRec.trim (r : FsRec) (n nbuf : Nat) : FsRec := { r with frames := r.frames.filter fun fr => decide (n < fr.num + nbuf) }

/-- FS_FRAME_COMPLETE: the frame being written is whole, and the next takes the next number (R238). A frame whose buffer is the one
being read is discarded whole (R240). -/
def execFsFrameComplete (f : Fin 1024) (s : State) : Host.Outcome State Fault Refusal :=
  let w0 := s.ent pReel 0 3 f 0
  let r := s.fsRec f
  let n := r.writing
  let u := userNo 0 f
  .next (if !bitOf w0 31 || bitOf w0 30 || !(r.frames.any fun fr => fr.num == n) then s
    else if r.last.any (fun l => decide (l + s.nbuf f ≤ n)) then
      ((s.setFs f { r with frames := r.frames.filter fun fr => fr.num != n }).fsCount f 3 1).reelEvent 3 u
    else
      let done := s.tbTime (s.inDesc (fld w0 0 12) 0).tb
      let r1 := { r with
        frames := r.frames.map fun (fr : FsFrame) => if fr.num = n then { fr with done := some done } else fr
        writing := n + 1 }
      let s1 := s.setFs f (r1.trim (n + 1) (s.nbuf f))
      forEach (s1.linkedTo f) (fun g s => s.setFs g ((s.fsRec g).trim (n + 1) (s.nbuf f))) s1)

/-- The newest frame complete at least `us` before the decision instant a. -/
def FsRec.newestAt (r : FsRec) (a : At) (us : Nat) : Option Nat :=
  (r.frames.filter fun fr => match fr.done with
    | some t => decide (((t : Int) + (us * 1000 * 2 ^ 48 : Nat)) * a.den ≤ a.num * (2 ^ 48 : Nat))
    | none => false).foldl (fun n fr => some (max fr.num (n.getD 0))) none

/-- The frame taken at a decision, with the drops and repeats counted: R239. -/
def fsChoose (c h : Option Nat) (delay : Nat) (last : Option Nat) : Option (Nat × Nat × Nat) :=
  match c with
  | none => last.map fun l => (l, 0, 1)
  | some c =>
    match last with
    | none => if delay ≤ c then some (c - delay, 0, 0) else none
    | some l =>
      if h.any fun h => decide (l + 1 + delay < h) then
        let x := h.getD 0 - delay
        some (x, x - l - 1, 0)
      else if l + 1 + delay ≤ c then some (l + 1, 0, 0)
      else some (l, 0, 1)

/-- FS_DECISION: 100 µs before the presentation instant of an output frame's first unit (R239, R242). -/
def execFsDecision (f : Fin 1024) (s : State) : Host.Outcome State Fault Refusal :=
  let w0 := s.ent pReel 0 3 f 0
  let w3 := s.ent pReel 0 3 f 3
  let d := s.inDesc (fld w0 0 12) 0
  let (fn, fd) := d.frameRate
  let r := s.fsRec f
  let now := s.nowAt d.tb
  let due := now.add (100000 - (s.padD d.tb : Int)) 1
  let k := due.num * (fn : Int) / ((due.den * fd * 1000000000 : Nat) : Int)
  let inst : At := (At.mk d.tb (k * (fd * 1000000000 : Nat)) fn).add ((s.padD d.tb : Int) - 100000) 1
  let fresh := r.chosen.all fun e => decide (e.1 < k)
  .next (if !bitOf w0 31 || bitOf w0 30 || !fresh then s
    else
      let c := r.newestAt inst (guardUs w3)
      let h := r.newestAt inst (guardUs w3 + fld w3 16 16)
      let delay := fld w0 20 3
      let st := s.entF pReel 0 4 f 0 0 2
      let new := c.isSome && c != r.newest
      let missed := if new then 0 else r.missed + 1
      let n := let v := s.entF pReel 0 3 f 1 16 8; if v = 0 then 4 else v
      let keep (p : FsPick) (r : FsRec) : FsRec := { r with chosen := ((k, p) :: r.chosen).take 4, newest := c, missed := missed }
      let lostPick : FsPick := match fld w0 28 2 with
        | 0 => match r.last with
          | some l => .frame l
          | none => .none
        | 1 => .black
        | _ => .none
      if (st = 3 ∧ !new) ∨ (st = 2 ∧ !new ∧ n ≤ missed) then
        let s1 := s.setFs f (keep lostPick r)
        if st = 2 then (s1.setEntF pReel 0 4 f 0 0 2 3).reelEvent 2 (userNo 0 f) else s1
      else
        match fsChoose c h delay (if st = 2 then r.last else none) with
        | none => s.setFs f (keep .none r)
        | some (x, drops, reps) =>
          let age : Nat := match (r.frames.find? fun fr => fr.num == x).bind fun fr => fr.done with
            | some t => ((inst.num * (2 ^ 48 : Nat) / (inst.den : Int) - (t : Int)) / (1000 * 2 ^ 48 : Nat)).toNat
            | none => (s.ent pReel 0 4 f 4).toNat
          let s0 := s.setFs f { keep (.frame x) r with last := some x }
          let s1 := if drops + reps = 0 then s0
            else
              let slots := (fld w0 0 12, 0) :: (s.linkedTo f).map fun g => (s.entF pReel 0 3 g 0 0 12, s.entF pReel 0 3 g 0 16 4)
              forEach slots (fun e s => s.markDisc e.1 e.2 (s.inDesc e.1 e.2) k) s0
          (((s1.fsCount f 1 drops).fsCount f 2 reps).setEnt pReel 0 4 f 4 (wd age)).setEntF pReel 0 4 f 0 0 2 2)

/-! ### Index entries, R244 -/

/-- Address of line l of a region. -/
def lineAddr (seg l : Nat) : Nat := seg * 2 ^ 26 + l * 64

/-- LINEAR, OFFSET, LINES and FLAGS of an index entry. -/
def State.ixLinear (s : State) (seg i : Nat) : Nat := s.memGet (seg * 2 ^ 26 + i * 16) 8
def State.ixOffset (s : State) (seg i : Nat) : Nat := s.memGet (seg * 2 ^ 26 + i * 16 + 8) 4
def State.ixLines (s : State) (seg i : Nat) : Nat := s.memGet (seg * 2 ^ 26 + i * 16 + 12) 3
def State.ixFlags (s : State) (seg i : Nat) : Nat := s.memGet (seg * 2 ^ 26 + i * 16 + 15) 1
def State.ixValid (s : State) (seg i : Nat) : Bool := decide (128 ≤ s.ixFlags seg i)
def State.ixSeq (s : State) (seg i : Nat) : Nat := s.ixFlags seg i % 128

/-- Clear VALID of an index entry. -/
def State.ixClear (s : State) (seg i : Nat) : State := s.memPut (seg * 2 ^ 26 + i * 16 + 15) 1 (s.ixSeq seg i)

/-- Write an index entry. -/
def State.ixWrite (s : State) (seg i lin off lines flags : Nat) : State :=
  s.memPut (seg * 2 ^ 26 + i * 16) 16 (lin + off * 2 ^ 64 + lines * 2 ^ 96 + flags * 2 ^ 120)

/-! ### Commands, R247 -/

/-- The first frame start of a grid at or after an instant (R37): presentation instants of first units, D included. -/
def State.frameStart (s : State) (d : Desc) (a : At) : At :=
  let (fn, fd) := d.frameRate
  let b := a.add (-(s.padD d.tb : Int)) 1
  (At.mk d.tb (firstK fn fd 1 0 b.num b.den * (fd * 1000000000 : Nat)) fn).add (s.padD d.tb) 1

/-- When a command accepted now takes effect at a port: at or after CMD_TIME, and at least 100 µs from now. -/
def State.cmdEffect (s : State) (d : Desc) (time : Nat) : At :=
  let now := s.nowAt d.tb
  let soon := now.add 100000 1
  let want := s.atCount d.tb time
  s.frameStart d (if time = 0 || want.le soon then soon else want)

/-- Descriptor that governs a record port's grid and a playout port's grid. -/
def State.recDesc (s : State) (r : Nat) : Desc := s.outDesc (recOut r)
def State.playDesc (s : State) (p : Nat) : Desc := s.inDesc (playIn p) 0

/-- SEG, NSEG and INDEX_FRAMES that a playout port reads: its own, or with CHASE those of its record port (R246). -/
def State.playRegion (s : State) (p : Nat) : Nat × Nat × Nat :=
  let w0 := s.ent pReel 0 6 p 0
  let r := fld w0 16 7
  let (e0, e1) := if bitOf w0 27 then (s.ent pReel 0 5 r 0, s.ent pReel 0 5 r 1) else (w0, s.ent pReel 0 6 p 1)
  (segOf e1, nsegOf e1, fld e0 0 16)
def State.chase (s : State) (p : Nat) : Bool := bitOf (s.ent pReel 0 6 p 0) 27

/-- The CODE with which a command is answered. -/
def State.reelCode (s : State) (t : Tag) (op port : Nat) : Nat :=
  let isRec := op == 1 || op == 2
  if !s.reelReady then 1
  else if op = 0 ∨ 5 < op then 2
  else if !tagOwns t (if isRec then s.partOwner 2 (recOut port) else s.partOwner 1 (playIn port)) then 3
  else if !bitOf (s.ent pReel 0 (if isRec then 5 else 6) port 0) 31 then 4
  else if op = 3 then
    let (seg, _, n) := s.playRegion port
    let st := fld (s.rd (tagBank t) (regA pReel 0x064)) 0 16
    if st < n && s.ixValid seg st then 0 else 5
  else 0

/-- A write of REEL.CMD. -/
def writeReelCmd (t : Tag) (d : Word) (s : State) : State :=
  let b := tagBank t
  let op := fld d 0 4
  let port := fld d 8 7
  let arg := s.rd b (regA pReel 0x064)
  let code := s.reelCode t op port
  let s1 := s.wr b (regA pReel 0x070) (wd (code + op * 256))
  if code ≠ 0 then s1
  else
    let dsc := if op ≤ 2 then s1.recDesc port else s1.playDesc port
    let c : ReelCmd := ⟨op, fld arg 0 16, fld arg 16 16, s1.cmdEffect dsc (s1.rd64 b (regA pReel 0x068))⟩
    if op ≤ 2 then s1.setRec port { s1.recRec port with pending := some c }
    else s1.setPlay port { s1.playRec port with pending := some c }

/-- The word of a reel command. -/
def reelCmd (t : Tag) (op port : Nat) (s : State) : State :=
  let d := wd (op + port * 256)
  hostWrite t (regA pReel 0x060) d (writeReelCmd t d) s

/-- REC_START. -/
def execRecStart (t : Tag) (port : BitVec 7) (s : State) : Host.Outcome State Fault Refusal := .next (reelCmd t 1 port.toNat s)

/-- REC_STOP. -/
def execRecStop (t : Tag) (port : BitVec 7) (s : State) : Host.Outcome State Fault Refusal := .next (reelCmd t 2 port.toNat s)

/-- PLAY. -/
def execPlay (t : Tag) (port : BitVec 7) (s : State) : Host.Outcome State Fault Refusal := .next (reelCmd t 3 port.toNat s)

/-- PAUSE. -/
def execPause (t : Tag) (port : BitVec 7) (s : State) : Host.Outcome State Fault Refusal := .next (reelCmd t 4 port.toNat s)

/-- PLAYOUT_STOP. -/
def execPlayoutStop (t : Tag) (port : BitVec 7) (s : State) : Host.Outcome State Fault Refusal := .next (reelCmd t 5 port.toNat s)

/-- A pending command of a record port takes effect, if its frame start has come (R245, R247). -/
def State.recEffect (s : State) (r : Nat) : State :=
  let x := s.recRec r
  match x.pending with
  | none => s
  | some c =>
    if !s.reached c.effect then s
    else if c.op = 1 then
      let w0 := s.ent pReel 0 5 r 0
      let seg := segOf (s.ent pReel 0 5 r 1)
      let s1 := forEach ((List.range (fld w0 0 16)).filter fun i => s.ixValid seg i) (fun i s => s.ixClear seg i) s
      s1.setRec r { RecRec.idle with on := true, line := indexLines (fld w0 0 16) }
    else s.setRec r { x with pending := none, stopping := x.on }

/-- A pending command of a playout port takes effect, if its frame start has come (R247). -/
def State.playEffect (s : State) (p : Nat) : State :=
  let x := s.playRec p
  match x.pending with
  | none => s
  | some c =>
    if !s.reached c.effect then s
    else if c.op = 3 then
      s.setPlay p { x with
        pending := none, mode := 2, start := c.start, count := c.count, entry := c.start, shown := 0, expect := none }
    else if c.op = 4 then s.setPlay p { x with pending := none, mode := if x.mode = 2 then 3 else x.mode }
    else s.setPlay p { x with pending := none, mode := 0, frame := [] }

/-- REEL_CMD_EFFECT. -/
def execReelCmdEffect (isPlay : Bool) (port : Fin 128) (s : State) : Host.Outcome State Fault Refusal :=
  .next (if isPlay then s.playEffect port else s.recEffect port)

/-! ### Record ports, R244 and R245 -/

/-- A valid word reaches a record port: SOF ends the frame in progress and starts the next, unless recording stops there. -/
def State.recordWord (s : State) (r : Nat) (w : FWord) : State :=
  let x := s.recRec r
  if !x.on || !w.valid then s
  else if w.side.getLsbD 6 then
    let done := match x.cur with
      | some f => x.done ++ [f]
      | none => x.done
    if x.stopping then s.setRec r { x with on := false, stopping := false, cur := none, done := done }
    else s.setRec r { x with cur := some (s.linear (s.recDesc r).tb, [w]), done := done }
  else
    match x.cur with
    | some (lin, ws) => s.setRec r { x with cur := some (lin, ws ++ [w]) }
    | none => s

/-- The words that leave the fabric in this beat at record ports. One whose SLOT matches no valid descriptor is discarded and counted in
REEL.CFG (R20; log entry 154). -/
def State.recordBeat (s : State) : State :=
  forEach (s.fab.leaving.filter fun e => decide (recOut 0 ≤ e.1 ∧ e.1 < recOut 128) && e.2.valid)
    (fun e s => match s.wordSlot e.1 e.2 with
      | some _ => s.recordWord (e.1 - recOut 0) e.2
      | none => s.raise pReel 5 0) s

/-- Write lines of a frame from line l on; with RING = 1 they wrap at the region's end to the first line after the index. -/
def State.writeLines (s : State) (seg base total : Nat) : Nat → List Nat → State
  | _, [] => s
  | l, v :: r =>
    let l' := if total ≤ l then base + (l - total) % (total - base) else l
    State.writeLines (s.memPut (lineAddr seg l') 64 v) seg base total (l + 1) r

/-- Whether two runs of lines on a ring meet: n lines from a, and m lines from b. -/
def ringMeets (base total a n b m : Nat) : Bool :=
  let size := total - base
  decide ((b + size - a) % size < n ∨ (a + size - b) % size < m)

/-- RECORD_FRAME: a record port writes a complete frame's lines and then its index entry (R244, R245). -/
def execRecordFrame (port : Fin 128) (s : State) : Host.Outcome State Fault Refusal :=
  let r := port.val
  let x := s.recRec r
  let w0 := s.ent pReel 0 5 r 0
  let w1 := s.ent pReel 0 5 r 1
  let n := fld w0 0 16
  let ring := bitOf w0 30
  let seg := segOf w1
  let base := indexLines n
  let total := regionLines (nsegOf w1)
  .next (match x.done with
    | [] => s
    | (lin, ws) :: rest =>
      let lines := packFrame (s.recDesc r).kind ws
      let len := lines.length
      let full := !ring && (decide (n ≤ x.entry) || decide (total < x.line + len))
      if full || total - base < len then s.setRec r { x with on := false, full := true, cur := none, done := [] }
      else
        let entry := x.entry % n
        let line := if total ≤ x.line then base else x.line
        let hit := (List.range n).filter fun i =>
          s.ixValid seg i && (i == entry || ringMeets base total line len (s.ixOffset seg i) (s.ixLines seg i))
        let s1 := forEach hit (fun i s => s.ixClear seg i) s
        let s2 := s1.writeLines seg base total line lines
        let s3 := s2.ixWrite seg entry lin line len (128 + x.seq % 128)
        let next := if total ≤ line + len then base + (line + len - total) else line + len
        let s4 := s3.setEnt pReel 0 7 r 2 (wd (satAdd 32 (s3.ent pReel 0 7 r 2).toNat 1))
        s4.setRec r { x with
          done := rest, entry := if ring then (entry + 1) % n else x.entry + 1, line := if ring then next else line + len, seq := x.seq + 1 })

/-! ### Playout ports, R246 to R248 -/

/-- The lines of a stored frame. -/
def State.readLines (s : State) (seg nseg base off : Nat) (n : Nat) : List Nat :=
  let total := regionLines nseg
  (List.range n).map fun i =>
    let l := off + i
    s.memGet (lineAddr seg (if total ≤ l then base + (l - total) % max 1 (total - base) else l)) 64

/-- Take the stored lines of one unit of n words, if their COUNT fields fit. -/
def takeUnit : Nat → Nat → List Nat → Option (List (BitVec 72) × List Nat)
  | 0, _, ls => some ([], ls)
  | _, 0, ls => some ([], ls)
  | _ + 1, _, [] => none
  | fuel + 1, n, v :: ls =>
    if lineCount v ≠ min n 7 ∨ 32 ≤ lineTag v then none
    else
      match takeUnit fuel (n - min n 7) ls with
      | some (ws, rest) => some (unpackLine v ++ ws, rest)
      | none => none

/-- A stored unit: SOF and SWP of its first line's tag, where its kind keeps them so, and its words. -/
abbrev StoredUnit := Option (Bool × Bool) × List (BitVec 72)

/-- SOF and SWP of a line's tag (R233). -/
def lineMarks (v : Nat) : Bool × Bool := (decide (lineTag v / 8 % 2 = 1), decide (lineTag v / 16 % 2 = 1))

/-- The units of a raster frame, line by line. -/
def rasterUnits (d : Desc) : List Nat → List Nat → Option (List StoredUnit)
  | [], [] => some []
  | [], _ :: _ => none
  | line :: r, ls =>
    match takeUnit 2048 (if d.active line then d.wpl else 1) ls with
    | some (ws, rest) => (rasterUnits d r rest).map fun us => (ls.head?.map lineMarks, ws) :: us
    | none => none

/-- The units of an ancillary or opaque frame: each starts a line, and its first word tells its length. -/
def freeUnits (kind : Nat) : Nat → List Nat → Option (List StoredUnit)
  | _, [] => some []
  | 0, _ :: _ => none
  | fuel + 1, v :: ls =>
    let h := ((unpackLine v).headD 0).toNat
    let n := if kind = 3 then 1 + cdiv (h / 2 ^ 11 % 2 ^ 10) 7 else cdiv (2 + h / 2 ^ 56) 9
    match takeUnit 8192 n (v :: ls) with
    | some (ws, rest) => (freeUnits kind fuel rest).map fun us => (some (lineMarks v), ws) :: us
    | none => none

/-- The units of a stored frame, or nothing where its LINES or tags do not fit the descriptor's structure (R246). -/
def frameUnits (d : Desc) (ls : List Nat) : Option (List StoredUnit) :=
  match d.kind with
  | 0 => if ls.any (fun v => decide (32 ≤ lineTag v)) then none else rasterUnits d ((List.range d.total).map fun i => i + 1) ls
  | 4 =>
    let n := d.sdiLine * d.total
    if ls.length ≠ cdiv n 51 then none
    else
      let v := (ls.flatMap fun x => (List.range 51).map fun i => x / 2 ^ (502 - 10 * i) % 1024).take n
      some ((chunks d.sdiLine v.length v).map fun l =>
        (none, (packSdi (l.zipIdx.map fun (w, i) => ⟨i * d.lineBeats * 512 / max 1 d.sdiLine, BitVec.ofNat 10 w⟩)).map fun w => w.data))
  | 3 => freeUnits 3 ls.length ls
  | 5 => freeUnits 5 ls.length ls
  | _ =>
    let n := (ls.map lineCount).sum
    if ls.any (fun v => decide (32 ≤ lineTag v)) || d.periodWords == 0 || n % d.periodWords != 0 ||
        decide (n < d.periodsMin * d.periodWords ∨ d.periodsMax * d.periodWords < n) || (ls.dropLast.any fun v => lineCount v != 7) then none
    else
      let ws := ls.flatMap unpackLine
      some ((chunks d.periodWords ws.length ws).map fun u => (none, u))

/-- Beats from the frame's start to unit i of a frame of a kind, at nominal rates (log entry 44). -/
def Desc.unitBeat (d : Desc) (i : Nat) : Nat :=
  if d.kind = 0 ∨ d.kind = 4 then i * 345600000 * d.frameRate.2 / (d.frameRate.1 * max 1 d.total)
  else if d.audio then i * 345600000 / d.sampleRate
  else 0

/-- Beats of word j of n words of a unit: spread over the line in a raster line, at its first SDI word in an SDI line, else one a
beat. -/
def Desc.wordBeat (d : Desc) (j n : Nat) : Nat :=
  if d.kind = 0 then j * d.lineBeats / max 1 n
  else if d.kind = 4 then 6 * j * d.lineBeats / max 1 d.sdiLine
  else j

/-- The words of a frame shown as output frame k, with their beats after its start (R233, R246): VALID is set, SOL on the first
word of each unit, SOF and SWP as the unit's tag has them; of SDI and audio units, whose switch points lie within stored lines, as the
grid places them (log entry 44). -/
def Desc.markedWords (d : Desc) (k : Int) (us : List StoredUnit) : List (Nat × FWord) :=
  let step (i : Nat) (prev : Nat) (unit : StoredUnit) : List (Nat × FWord) :=
    let u := unit.2
    let line := i + 1
    let n := d.firstOfFrame k + (i : Int)
    let (sof, swp) := unit.1.getD (
      if d.kind = 0 ∨ d.kind = 4 then (line == 1, d.switchLines.contains line)
      else if d.audio then (i == 0, d.periodSwp n)
      else (i == 0, i == 0))
    let at0 := if d.kind = 3 ∨ d.kind = 5 then prev else d.unitBeat i
    u.zipIdx.map fun (w, j) => (at0 + d.wordBeat j u.length, if j = 0 then fword w sof true swp 0 else fword w false false false 0)
  (us.zipIdx.foldl (fun (acc : List (Nat × FWord) × Nat) e => (acc.1 ++ step e.2 acc.2 e.1, acc.2 + e.1.2.length)) ([], 0)).1

/-- The words of a frame whose marks are those of its grid. -/
def Desc.frameWords (d : Desc) (k : Int) (us : List (List (BitVec 72))) : List (Nat × FWord) :=
  d.markedWords k (us.map fun u => (none, u))

/-- The output frame of a playout port whose first unit is shown by now. -/
def State.playFrameBy (s : State) (d : Desc) (a : At) : Int :=
  let (fn, fd) := d.frameRate
  let b := a.add (-(s.padD d.tb : Int)) 1
  b.num * (fn : Int) / ((b.den * fd * 1000000000 : Nat) : Int)

/-- The index entry that a playing port would show next, by the command that takes effect at the start of that frame, if any. -/
def State.nextEntry (s : State) (p : Nat) (start : At) : Option Nat :=
  let x := s.playRec p
  let n := (s.playRegion p).2.2
  match x.pending with
  | some c => if c.effect.le start then (if c.op = 3 then some c.start else none)
      else if x.mode = 2 then some (x.entry % max 1 n) else none
  | none => if x.mode = 2 then some (x.entry % max 1 n) else none

/-- The decision of R246 for the frames whose decision instant, 100 µs before presentation, has come: whether the next entry is
VALID, and its SEQ. -/
def State.playDecide (s : State) (p : Nat) : State :=
  let d := s.playDesc p
  let x := s.playRec p
  let k := s.playFrameBy d ((s.nowAt d.tb).add 100000 1)
  if x.decided.any (fun e => decide (k ≤ e.1)) || x.last.any (fun l => decide (k ≤ l)) then s
  else
    let start := (At.mk d.tb (k * (d.framePeriod.1 : Nat)) d.framePeriod.2).add (s.padD d.tb) 1
    match s.nextEntry p start with
    | none => s
    | some i =>
      let seg := (s.playRegion p).1
      s.setPlay p { x with decided := some (k, i, s.ixValid seg i, s.ixSeq seg i) }

/-- The decisions that fall due in a beat. -/
def State.playBeat (s : State) : State := forEach (s.reel.plays.map fun e => e.1) (fun p s => s.playDecide p) s

/-- The oldest VALID entry of a record port's ring: the first at or after the next entry to be written. -/
def State.oldest (s : State) (p : Nat) : Option Nat :=
  let (seg, _, n) := s.playRegion p
  let r := fld (s.ent pReel 0 6 p 0) 16 7
  let e := (s.recRec r).entry
  ((List.range n).map fun i => (e + i) % max 1 n).find? fun i => s.ixValid seg i

/-- Count in a word of a playout port's status entry. -/
def State.playCount (s : State) (p w : Nat) : State :=
  s.setEnt pReel 0 7 (128 + p) w (wd (satAdd 32 (s.ent pReel 0 7 (128 + p) w).toNat 1))

/-- Put the port's frame on its input, starting in this beat. -/
def State.playShow (s : State) (p : Nat) : State :=
  s.present (playIn p) ((s.playRec p).frame.map fun e => (s.beat + e.1, e.2))

/-- Present the frame of entry i as output frame k; a frame that does not fit is replaced by the previous one (R246). -/
def State.playEntry (s : State) (p i : Nat) (k : Int) : State :=
  let (seg, nseg, n) := s.playRegion p
  let d := s.playDesc p
  let x := s.playRec p
  let ls := s.readLines seg nseg (indexLines n) (s.ixOffset seg i) (s.ixLines seg i)
  let x1 := { x with entry := (i + 1) % max 1 n, shown := x.shown + 1, expect := some ((s.ixSeq seg i + 1) % 128) }
  match frameUnits d ls with
  | some us => ((s.setPlay p { x1 with frame := d.markedWords k us }).playCount p 2).playShow p
  | none => ((s.setPlay p x1).playCount p 4).playShow p

/-- The end of a sequence (R247): HOLD_LAST, SILENT or LOOP. -/
def State.playEnd (s : State) (p : Nat) (k : Int) : State :=
  let x := s.playRec p
  match s.entF pReel 0 6 p 0 28 3 with
  | 0 => (s.setPlay p { x with mode := 4 }).playShow p
  | 1 => s.setPlay p { x with mode := 4, frame := [] }
  | _ =>
    let s1 := s.setPlay p { x with entry := x.start, shown := 0, expect := none }
    if s1.ixValid (s1.playRegion p).1 x.start then s1.playEntry p x.start k else s1.playShow p

/-- PLAYOUT_FRAME: the frame start of a playout port's grid (R246, R247). A command whose frame start this is takes effect first. -/
def execPlayoutFrame (port : Fin 128) (s : State) : Host.Outcome State Fault Refusal :=
  let p := port.val
  let d := s.playDesc p
  let k := s.playFrameBy d (s.nowAt d.tb)
  .next (if !bitOf (s.ent pReel 0 6 p 0) 31 || (s.playRec p).last.any (fun l => decide (k ≤ l)) then s
    else
      let s1 := (s.playDecide p).playEffect p
      let x := s1.playRec p
      let s2 := s1.setPlay p { x with last := some k }
      if x.mode = 3 ∨ x.mode = 4 then s2.playShow p
      else if x.mode ≠ 2 then s2
      else if x.count ≠ 0 ∧ x.count ≤ x.shown then s2.playEnd p k
      else
        let (seg, _, n) := s2.playRegion p
        let i := x.entry % max 1 n
        let (valid, seq) := match x.decided with
          | some (k', i', v, q) => if k' = k ∧ i' = i then (v, q) else (s2.ixValid seg i, s2.ixSeq seg i)
          | none => (s2.ixValid seg i, s2.ixSeq seg i)
        if !valid then (if s2.chase p then s2.playShow p else s2.playEnd p k)
        else if s2.chase p && x.expect.any (fun e => e != seq) then
          match s2.oldest p with
          | some j => (s2.playCount p 5).playEntry p j k
          | none => s2.playShow p
        else s2.playEntry p i k)

/-! ### Line transactions, R249 and R250 -/

/-- The user number of a user, and the frame rate and time base of its port. -/
def reelUserNo : ReelUser → Option Nat
  | .fs n => some (userNo 0 n)
  | .record n => some (userNo 1 n)
  | .playout n => some (userNo 2 n)
  | .head n => some (userNo 3 n)
  | .window => none

/-- The page, table, entry and word that hold a user's LATE_LINES. -/
def lateWord : ReelUser → Option (Nat × Nat × Nat × Nat)
  | .fs n => some (pReel, 4, n, 5)
  | .record n => some (pReel, 7, n, 3)
  | .playout n => some (pReel, 7, 128 + n, 3)
  | .head n => some (pMon, 8, n, 2)
  | .window => none

/-- Frame rate of a user's port. -/
def State.userFrame (s : State) (u : ReelUser) : Nat × Nat :=
  match u with
  | .fs n => (s.inDesc (s.entF pReel 0 3 n 0 0 12) 0).frameRate
  | .record n => (s.recDesc n).frameRate
  | .playout n => (s.playDesc n).frameRate
  | .head n => (frateOf (s.entF pMon 0 1 n 0 19 4)).getD (1, 1)
  | .window => (1, 1)

/-- A line counts as late, and REEL.LATE rises once per frame of the port's time base at most (R250). -/
def State.lateLine (s : State) (u : ReelUser) : State :=
  match reelUserNo u, lateWord u with
  | some n, some (pg, sel, i, w) =>
    let s1 := s.setEnt pg 0 sel i w (wd (satAdd 32 (s.ent pg 0 sel i w).toNat 1))
    let (fn, fd) := s1.userFrame u
    let quiet := match Tab.get (fun _ => none) (s1.reel.lateAt.map fun e => (e.1, some e.2)) n with
      | some b => decide ((s1.beat - b) * fn < 345600000 * fd)
      | none => false
    if quiet then s1
    else ({ s1 with reel := { s1.reel with lateAt := Tab.ins s1.reel.lateAt n s1.beat } }).reelEvent 0 n
  | _, _ => s

/-- Put a word back into a queue in the order of its beats. -/
def insertDue (e : Nat × FWord) : List (Nat × FWord) → List (Nat × FWord)
  | [] => [e]
  | f :: r => if f.1 ≤ e.1 then f :: insertDue e r else e :: f :: r

/-- Up to n words of a queue that belong to a KIND's next stored line, presented as missing data (R250): audio and raster words as zero
samples, SDI words not at all, an ancillary or opaque unit left out (R149, R150, R162). -/
def missWords (kind n : Nat) (q : List (Nat × FWord)) : List (Nat × FWord) :=
  let unit (l : List (Nat × FWord)) : Nat := 1 + ((l.drop 1).takeWhile fun e => !e.2.sol).length
  match kind with
  | 4 => q.drop n
  | 3 => q.drop (unit q)
  | 5 => q.drop (unit q)
  | 0 => (q.take (min n (unit q))).map (fun e => (e.1, { e.2 with data := 0 })) ++ q.drop (min n (unit q))
  | _ => (q.take n).map (fun e => (e.1, { e.2 with data := 0 })) ++ q.drop n

/-- The input ports and the slot at which a user's data is presented. -/
def State.userPorts (s : State) : ReelUser → List Nat × Nat
  | .fs n => (s.groupAt (s.entF pReel 0 3 n 0 0 12), if bitOf (s.ent pReel 0 3 n 0) 30 then s.entF pReel 0 3 n 0 16 4 else 0)
  | .playout n => ([playIn n], 0)
  | _ => ([], 0)

/-- Background of a head as in force, as word i of a line of its essence (R348, R360): samples past the line's width are 0. -/
def State.bgWord (s : State) (h : Nat) (d : Desc) (width i : Nat) : BitVec 72 :=
  let w (n : Nat) : Word := Tab.get (fun _ => 0) s.mon.applied (tblKey pMon 0 1 h n)
  let cut (v : Nat) : BitVec 12 := BitVec.ofNat 12 (if d.depth = 1 then v / 4 * 4 else v)
  let c (k : Nat) : BitVec 12 := cut (match k with
    | 0 => fld (w 2) 0 12
    | 1 => fld (w 2) 16 12
    | _ => fld (w 3) 0 12)
  let smp (n : Nat) : BitVec 12 :=
    if d.sampling = 1 then c (n % 3) else if n % 2 = 1 then c 0 else c (1 + n / 2 % 2)
  word6 ((List.range (min 6 (width * (if d.sampling = 1 then 3 else 2) - 6 * i))).map fun n => smp (6 * i + n))

/-- Marker words at the head of a head's queue: words with SOL before another. -/
def markersAhead : List (Nat × FWord) → Nat
  | a :: b :: r => if a.2.sol && b.2.sol then 1 + markersAhead (b :: r) else 0
  | _ => 0

/-- A 64-byte line that a head reads is missing: the next 16 pixels of its essence show BG, with nothing of the planes (R365; log entry
179). -/
def State.headLate (s : State) (h : Nat) : State :=
  let x := 4096 + h
  let d := s.inDesc x 0
  let width := match rasterOf d.raster with
    | some r => r.width
    | none => 0
  let q := Tab.get (fun _ => []) s.fab.due x
  let k := markersAhead q
  let seg := 1 + ((q.drop (k + 1)).takeWhile fun e => !e.2.sol).length
  let n := min seg (if d.sampling = 1 then 8 else 6)
  let bg (e : (Nat × FWord) × Nat) : Nat × FWord :=
    if k ≤ e.2 ∧ e.2 < k + n then (e.1.1, { e.1.2 with data := s.bgWord h d width (d.wpl - seg + (e.2 - k)) }) else e.1
  { s with fab := { s.fab with due := Tab.put (fun _ => []) s.fab.due x (q.zipIdx.map bg) } }

/-- The line that a user's port would present next is missing (R250): its words are those at the head of the port's queue, a line of
seven words, or of 51 SDI words, over the members of a group (DESIGN CHOICE: no operand names the line, log entry 179). -/
def State.lateData (s : State) (u : ReelUser) : State :=
  let (xs, slot) := s.userPorts u
  let kind := (s.inDesc (xs.headD 0) slot).kind
  let words := if kind = 4 then 9 else 7
  forEach xs.zipIdx (fun (x, m) s =>
    let q := Tab.get (fun _ => []) s.fab.due x
    let mine (e : Nat × FWord) : Bool := decide (1 < xs.length) || e.2.slot == slot
    let hit := missWords kind (cdiv (words - m) xs.length) (q.filter mine)
    let beats := (q.filter fun e => !mine e).foldl (fun l e => insertDue e l) hit
    { s with fab := { s.fab with due := Tab.put (fun _ => []) s.fab.due x beats } }) s

/-- HBM_LINE_COMPLETE: a line comes back, in time or late, without error (0), corrected (1) or uncorrectable (2). -/
def execHbmLineComplete (u : ReelUser) (late : Bool) (ecc : Fin 3) (s : State) : Host.Outcome State Fault Refusal :=
  let s1 := if late || ecc == 2 then (match u with
    | .head h => s.headLate h
    | _ => s.lateData u).lateLine u
    else s
  let s2 := if ecc = 1 then s1.inc 0 (regA pReel 0x078) else s1
  .next (if ecc = 2 then
      let part := match reelUserNo u with
        | some n => s2.userPart n
        | none => 0
      (s2.inc 0 (regA pReel 0x080)).raise pReel 1 part
    else s2)

/-! ### The HBM window, R251 and R252 -/

/-- Page and offset of an address of the window. -/
def hbmBase : Nat := 0x03000000

/-- The offset in the window of an address in it: the window is 16 MiB, at a multiple of its size. -/
def hbmOff (a : Nat) : Nat := a % 2 ^ 24

/-- The store address that an access of a tag reaches: WIN_BASE of its bank plus the window offset. -/
def State.winAddr (s : State) (t : Tag) (a : Nat) : Nat := s.rd64 (tagBank t) (regA pReel 0x058) + a

/-- The check that an access through the window fails: the segment's owner, the shape, hold-all. An address past the store goes to
the default target. -/
def State.winRefusal (s : State) (t : Tag) (a bytes : Nat) (wr narrowOk : Bool) : Option Cause :=
  let h := s.winAddr t a
  let seg := h / 2 ^ 26
  if memSize ≤ h then some .decode
  else if t ≠ .m && (decide (seg < 64) || !tagOwns t (s.segOwner seg)) then some .firewall
  else if h % bytes ≠ 0 || (wr && !narrowOk) then some .access
  else if wr && s.held then some .held
  else none

/-- One aligned access through the window. -/
def State.winOne (s : State) (t : Tag) (a bytes : Nat) (wr burst : Bool) (d : Nat) : State :=
  let size := if bytes = 1 then 0 else if bytes = 2 then 1 else if bytes = 4 then 2 else 3
  let x : Access := ⟨t, tagNum t, hbmBase + a, size, burst, wr, d⟩
  match s.winRefusal t a bytes wr (decide (4 ≤ bytes)) with
  | some c => (s.logErr x c).respond x true 0
  | none =>
    let h := s.winAddr t a
    if wr then (s.memPut h bytes d).respond x false 0 else s.respond x false (s.memGet h bytes)

/-- The words of a burst, each checked by itself. -/
def State.winBurst (s : State) (t : Tag) (wr : Bool) : Nat → List Word → State
  | _, [] => s
  | a, w :: r => State.winBurst (s.winOne t a 4 wr true w.toNat) t wr (a + 4) r

/-- HBM_WINDOW_ACCESS. -/
def hbmAccess (t : Tag) (a : Nat) (wr : Bool) (sh : Shape) (s : State) : State :=
  if s.lost t (tagNum t) then s
  else
    let s0 := s.noteDebug t
    match sh with
    | .one bits d =>
      if bits = 8 ∨ bits = 16 ∨ bits = 32 ∨ bits = 64 then s0.winOne t a (bits / 8) wr false (d.toNat % 2 ^ bits)
      else s0
    | .burst ws =>
      let x : Access := ⟨t, tagNum t, hbmBase + a, 2, true, wr, 0⟩
      if 64 < ws.length ∨ a % 4 ≠ 0 ∨ 2 ^ 24 < a + 4 * ws.length then (s0.logErr x .access).respond x true 0
      else s0.winBurst t wr a ws

/-- HBM_WINDOW_ACCESS: an access through the HBM window. -/
def execHbmWindowAccess (t : Tag) (a : BitVec 24) (wr : Bool) (sh : Shape) (s : State) : Host.Outcome State Fault Refusal :=
  .next (hbmAccess t a.toNat wr sh s)

/-! ### Start and controllers, R253 and R254 -/

/-- State of an HBM controller. -/
def State.hbmState (s : State) (h : Nat) : Nat := s.rdF 0 (regA pReel 0x054) (4 * h) 4
def State.setHbm (s : State) (h v : Nat) : State := s.wrF 0 (regA pReel 0x054) (4 * h) 4 v

/-- HBM_TRAINED: training of a controller ends. When all four are ready, segments 64 to 2303 are zeroed and READY is set. -/
def execHbmTrained (h : Fin 4) (ok : Bool) (s : State) : Host.Outcome State Fault Refusal :=
  .next (if s.hbmState h ≠ 0 then s
    else if !ok then (s.setHbm h 3).raise pReel 4 0
    else
      let s1 := s.setHbm h 1
      if (List.range 4).all fun i => s1.hbmState i == 1 then s1.memClear.wrF 0 (regA pReel 0x014) 0 1 1 else s1)

/-- HBM_FAIL: a controller is throttled, or fails and raises REEL.HBM. -/
def execHbmFail (h : Fin 4) (throttled : Bool) (s : State) : Host.Outcome State Fault Refusal :=
  .next (if throttled then s.setHbm h 2 else (s.setHbm h 3).raise pReel 4 0)

/-! ### Counters -/

/-- A write of REEL.SNAP with bit 0 set, by partition p: its users' status counters, and the ECC counters when p is P0. -/
def State.reelSnap (s : State) (p : Nat) : State :=
  let mine (u : Nat) : Bool := s.userPart u == p
  let ents (sel : Nat) (user : Nat → Nat) (ws : List (Nat × Nat)) (s : State) : State :=
    forEach ((s.tblIdxs pReel 0 sel).filter fun i => mine (user i))
      (fun i s => ws.foldl (fun s w => s.snapEnt pReel 0 sel i w.1 w.2) s) s
  let s1 := ents 4 (userNo 0) [(1, 8), (2, 9), (3, 10), (5, 11)] s
  let s2 := ents 7 (fun i => if i < 128 then userNo 1 i else userNo 2 (i - 128)) [(2, 8), (3, 9), (4, 10), (5, 11)] s1
  if p = 0 then (s2.snap 0 (regA pReel 0x078) (regA pReel 0x07C)).snap 0 (regA pReel 0x080) (regA pReel 0x084) else s2

end Sys2Proof.Machine
end

