-- ==== Sys2Proof/Machine/IngTbl.lean ====
section
/-!
DEFINITION. Machine/IngTbl.lean: the tables of the ING pages (R141, R142, R145, R146, R155, R158, R168, R172): what a write is
refused for, and what a read returns.
-/
namespace Sys2Proof.Machine

/-! ### Sources of a slot, R141 -/

/-- Flow entries, other than entry (sl, idx), that feed a slot. -/
def State.flowsOf (s : State) (ei slot : Nat) (but : Option (Nat × Nat)) : List (Nat × Nat) :=
  s.flows.filter fun f =>
    let w := s.ent (pIng f.1) 0 1 f.2 0
    some f != but && f.1 * 256 + fld w 12 8 == ei && fld w 20 4 == slot

/-- Whether the slot is fed from host memory, by an extraction of another port, and by an Epvozel SDI stream. -/
def State.hostFed (s : State) (ei slot : Nat) : Bool := bitOf (s.ingCfg ei 2) (16 + slot)
def State.ancFed (s : State) (ei slot : Nat) (but : Option Nat) : Bool := (s.ancSource ei slot but).isSome
def State.sdiFed (s : State) (ei slot : Nat) : Bool :=
  slot == 0 && (List.range 48).any fun b => [3, 4].any fun sel =>
    (s.entIdxs (pPort b) 0 sel 0 fun w => bitOf w 31 && fld w 28 3 == 0).any fun i => fld (s.ent (pPort b) 0 sel i 1) 16 16 == ei

/-! ### Refusals, R172 -/

/-- A refused write records its REASON and changes nothing else (R172). -/
def State.ingRefuse (s : State) (t : Tag) (sl reason idx : Nat) : Nat × State :=
  (3, s.setReason (pIng sl) 0x044 (tagBank t) reason idx)

/-- An accepted write. -/
def State.ingAccept (s : State) (t : Tag) (sl : Nat) : Nat × State := (0, s.clearReason (pIng sl) 0x044 (tagBank t))

/-- Whether a partition owns the audio input blocks of n channels from a base. -/
def State.ownsAudIn (s : State) (p base n : Nat) : Bool :=
  (List.range n).all fun i => s.partOwner 6 ((base + i) / 256) == p

/-- Words of a flow entry's key: source, addresses and the optional fields that it enables (R146). -/
def flowKey (d : List Word) : List Nat :=
  let w0 := dat d 0
  let wide (w : Nat) : Nat := (List.range 4).foldl (fun n i => n + (dat d (w + i)).toNat * 2 ^ (32 * i)) 0
  [fld w0 3 9, fld w0 2 1, fld w0 24 3, fld (dat d 11) 7 1, fld (dat d 1) 0 16, wide 2,
    if bitOf w0 24 then fld (dat d 1) 16 12 else 0, if bitOf w0 25 then wide 6 else 0,
    if bitOf w0 26 then (dat d 10).toNat else 0, if bitOf (dat d 11) 7 then fld (dat d 11) 0 7 else 0]

/-- Whether a parser fits a descriptor (R148). -/
def parseFits (parse : Nat) (d : Desc) : Bool :=
  match parse with
  | 0 => d.kind == 0 || d.kind == 5
  | 1 => d.kind == 1
  | 2 => d.kind == 2
  | 3 => d.kind == 3
  | 5 => d.kind == 4 && decide (d.sdiclass ≤ 2)
  | _ => d.kind == 5

/-- The first check of R146 that a valid flow entry fails, or 0. -/
def State.flowReason (s : State) (sl idx : Nat) (d : List Word) : Nat :=
  let w0 := dat d 0
  let ei := sl * 256 + fld w0 12 8
  let slot := fld w0 20 4
  let dsc := s.inDesc ei slot
  let merge := bitOf w0 27
  let others := s.flowsOf ei slot (some (sl, idx))
  let aud := bitOf w0 1 && fld w0 28 3 == 1
  let base := fld (dat d 11) 16 16
  if 47 < fld w0 6 6 then 2
  else if s.flows.any fun f => f != (sl, idx) && flowKey (s.entWords (pIng f.1) 0 1 f.2 12) == flowKey d then 3
  else if !dsc.valid then 5
  else if !parseFits (fld w0 28 3) dsc then 4
  else if s.hostFed ei slot || s.ancFed ei slot none || s.sdiFed ei slot then 11
  else if 1 < others.length ∨ (others.length = 1 ∧ !(merge && others.all fun f => bitOf (s.ent (pIng f.1) 0 1 f.2 0) 27)) then 11
  else if aud && (decide (65536 < base + dsc.channels) || !s.ownsAudIn (s.eiOwner ei) base dsc.channels) then 10
  else
    match others with
    | f :: _ =>
      let w := s.ent (pIng f.1) 0 1 f.2 0
      let a := s.planeOf (fld w0 6 6) (fld w0 3 3)
      let b := s.planeOf (fld w 6 6) (fld w 3 3)
      if (a = 1 ∧ b = 2) ∨ (a = 2 ∧ b = 1) then 0 else 6
    | [] => 0

/-- A half of a merge pair that is written: its plane's LOS_US run from the write (R166). -/
def State.mergeNew (s : State) (ei slot : Nat) (w0 : Word) : State :=
  if bitOf w0 31 && bitOf w0 27 then
    let r := s.mergeRec ei slot
    s.setMerge ei slot (if s.planeOf (fld w0 6 6) (fld w0 3 3) = 2 then { r with lastB := some s.beat } else { r with lastA := some s.beat })
  else s

/-- The merge record of a slot that has lost a half starts again: the plane of the removed entry reads unused. -/
def State.mergeGone (s : State) (sl : Nat) (w0 : Word) : State :=
  if bitOf w0 31 && bitOf w0 27 then
    let ei := sl * 256 + fld w0 12 8
    let slot := fld w0 20 4
    let lo := if s.planeOf (fld w0 6 6) (fld w0 3 3) = 2 then 2 else 0
    (s.setMergeEnt ei slot 0 (setFld (s.mergeEnt ei slot 0) lo 2 0)).setMerge ei slot MergeRec.idle
  else s

/-- A write of a flow entry (R145 to R147). -/
def flowWrite (t : Tag) (sl idx : Nat) (d : List Word) (s : State) : Nat × State :=
  let w0 := dat d 0 &&& 0xFFFFFFFE
  let old := s.ent (pIng sl) 0 1 idx 0
  let ei := sl * 256 + fld w0 12 8
  let e := [w0, dat d 1 &&& 0x0FFFFFFF, dat d 2, dat d 3, dat d 4, dat d 5, dat d 6, dat d 7, dat d 8, dat d 9, dat d 10,
    dat d 11 &&& 0xFFFF00FF]
  if !tagOwns t (s.eiOwner ei) || (bitOf old 31 && !tagOwns t (s.eiOwner (sl * 256 + fld old 12 8))) then (4, s)
  else
    let r := if bitOf w0 31 then s.flowReason sl idx e else 0
    if r ≠ 0 then s.ingRefuse t sl r idx
    else
      let s0 := (((s.mergeGone sl old).mergeNew ei (fld w0 20 4) w0).unclaim 1 (flowIx sl idx)).setEntWords (pIng sl) 0 1 idx 0 e
      let aud := bitOf w0 31 && bitOf w0 1 && fld w0 28 3 == 1
      let s1 := if aud then s0.claim 1 (flowIx sl idx) (fld (dat d 11) 16 16) (s.inDesc ei (fld w0 20 4)).channels else s0
      ({ s1 with flowHigh := Tab.put (fun _ => none) s1.flowHigh (flowIx sl idx) none }).ingAccept t sl

/-! ### Port configuration, R158, R164, R168 and R142 -/

/-- Pages that a partition has lent, by ports without a valid descriptor, and borrowed. -/
def State.lentPages (s : State) (p : Nat) : Nat :=
  ((List.range 16).map fun sl =>
    16 * ((s.entIdxs (pIng sl) 0 2 0 fun w => bitOf w 3).filter fun i =>
      s.eiOwner (sl * 256 + i) == p && (s.slotsOf (sl * 256 + i)).isEmpty).length).sum
def State.borrowedPages (s : State) (p : Nat) : Nat :=
  ((List.range 16).flatMap fun sl =>
    ((s.entIdxs (pIng sl) 0 2 0 fun w => fld w 4 9 != 0).filter fun i => s.eiOwner (sl * 256 + i) == p).map fun i =>
      fld (s.ent (pIng sl) 0 2 i 0) 4 9).sum

/-- ING.POOL of a partition: FREE and LENT. -/
def State.poolWord (s : State) (p : Nat) : Word :=
  wd ((s.lentPages p - s.borrowedPages p) % 65536 + s.lentPages p % 65536 * 65536)

/-- BIND of the transmit queue that feeds a port from host memory (R142). -/
def State.hostBind (s : State) (ei : Nat) : Option Nat :=
  ((List.range 64).find? fun q => s.qEn q false && (s.qBind q false == 3 || s.qBind q false == 5) && s.qTarget q false == ei).map
    fun q => s.qBind q false

/-- Whether a slot's descriptor fits units from host memory. -/
def State.hostKindOk (s : State) (ei slot : Nat) : Bool :=
  let d := s.inDesc ei slot
  d.valid && match s.hostBind ei with
    | some b => d.kind == b
    | none => d.kind == 3 || d.kind == 5

/-- The first check that a port configuration fails, or 0. -/
def State.portCfgReason (s : State) (ei : Nat) (w0 w1 w2 : Word) : Nat :=
  let old := s.ingCfg ei 0
  let p := s.eiOwner ei
  let slots := idxs 16 fun k => bitOf w2 (16 + k)
  let moved := fld w0 0 3 != fld old 0 3 || fld w0 13 2 != fld old 13 2 || fld w0 4 9 != fld old 4 9
  let bare := (s.slotsOf ei).isEmpty
  let lent := s.lentPages p + (if bitOf w0 3 ∧ bare then 16 else 0) - (if bitOf old 3 ∧ bare then 16 else 0)
  let taken := s.borrowedPages p + fld w0 4 9 - fld old 4 9
  let newLong := bitOf w0 13 && !bitOf old 13
  if moved && s.portInUse selIn ei then 1
  else if fld w0 0 2 = 3 ∨ 256 < fld w0 4 9 ∨ 10000 < fld w1 0 14 then 2
  else if lent < taken ∧ (fld old 4 9 < fld w0 4 9 ∨ bitOf old 3 ∧ !bitOf w0 3) then 7
  else if newLong && decide (5267456 < s.longLoad + ((s.slotsOf ei).map fun k => (s.inDesc ei k).rate).sum) then 8
  else if newLong && decide (s.reelCap p < s.reelLoad p + ((s.slotsOf ei).map fun k => (s.inDesc ei k).streamRate).sum) then 9
  else if slots.any fun k => !(s.flowsOf ei k none).isEmpty || s.ancFed ei k none || s.sdiFed ei k then 11
  else if slots.any fun k => !s.hostFed ei k && !s.hostKindOk ei k then 4
  else 0

/-- A write of a port configuration entry. -/
def portCfgWrite (t : Tag) (sl idx : Nat) (d : List Word) (s : State) : Nat × State :=
  let ei := sl * 256 + idx
  let w0 := dat d 0 &&& 0xFFFF7FFF
  let w1 := dat d 1 &&& 0xFFFF3FFF
  let w2 := dat d 2
  if !tagOwns t (s.eiOwner ei) then (4, s)
  else
    let r := s.portCfgReason ei w0 w1 w2
    if r ≠ 0 then s.ingRefuse t sl r idx
    else ((s.setEntWords (pIng sl) 0 2 idx 0 [w0, w1, w2]).refreshPad ei).ingAccept t sl

/-! ### SDI extraction, R154 and R155 -/

/-- Channels that are de-embedded from an SDI class (R154). -/
def deembChannels (cls : Nat) : Nat := if cls = 0 then 16 else 32

/-- The first check that an extraction entry fails, or 0. -/
def State.extractReason (s : State) (ei : Nat) (w0 w1 : Word) : Nat :=
  let sl := ei / 256
  let nch := fld w0 8 6
  let n := if nch = 0 then deembChannels (s.inDesc ei 0).sdiclass else nch
  let base := fld w0 16 16
  let tgt := sl * 256 + fld w1 0 8
  let slot := fld w1 8 4
  let td := s.inDesc tgt slot
  if 32 < nch ∨ (bitOf w0 0 ∧ 65536 < base + n) then 2
  else if bitOf w0 1 && (!td.valid || td.kind != 3 || s.eiOwner tgt != s.eiOwner ei) then 4
  else if bitOf w0 0 && !s.ownsAudIn (s.eiOwner ei) base n then 10
  else if bitOf w0 1 && (!(s.flowsOf tgt slot none).isEmpty || s.hostFed tgt slot || s.ancFed tgt slot (some (ingIx ei)) ||
      s.sdiFed tgt slot) then 11
  else 0

/-- A write of an SDI extraction entry. -/
def extractWrite (t : Tag) (sl idx : Nat) (d : List Word) (s : State) : Nat × State :=
  let ei := sl * 256 + idx
  let w0 := dat d 0 &&& 0xFFFF3F03
  let w1 := dat d 1 &&& 0xFFF
  if !tagOwns t (s.eiOwner ei) then (4, s)
  else
    let r := s.extractReason ei w0 w1
    let nch := let n := fld w0 8 6; if n = 0 then deembChannels (s.inDesc ei 0).sdiclass else n
    if r ≠ 0 then s.ingRefuse t sl r idx
    else
      let s1 := (s.unclaim 2 ei).setEntWords (pIng sl) 0 3 idx 0 [w0, w1]
      (if bitOf w0 0 then s1.claim 2 ei (fld w0 16 16) nch else s1).ingAccept t sl

/-! ### Table operations -/

/-- Entries of a table, entries per port (0: the entry's PORT field names it), and whether it is RO. -/
def ingTable (sel : Nat) : Option (Nat × Nat × Bool) :=
  match sel with
  | 1 => some (8192, 0, false)
  | 2 => some (256, 1, false)
  | 3 => some (256, 1, false)
  | 4 => some (2048, 8, false)
  | 5 => some (8192, 0, true)
  | 6 => some (256, 1, true)
  | 7 => some (4096, 16, true)
  | _ => none

/-- Owner of an entry of an ING table. -/
def State.ingOwner (s : State) (sl per idx : Nat) : Nat :=
  s.eiOwner (sl * 256 + (if per = 0 then fld (s.ent (pIng sl) 0 1 idx 0) 12 8 else idx / per))

/-- Reads of the ING tables. -/
def ingTableRead (t : Tag) (sl sel idx : Nat) (s : State) : Nat × List Word :=
  match ingTable sel with
  | none => (1, [])
  | some (n, per, _) =>
    if n ≤ idx then (2, [])
    else if !tagOwns t (s.ingOwner sl per idx) then (4, [])
    else
      let ws := s.entWords (pIng sl) 0 sel idx 16
      (0, if sel = 6 then ws.set 0 (setFld (ws.headD 0) 16 9 (s.pages (sl * 256 + idx))) else ws)

/-- Writes of the ING tables. -/
def ingTableWrite (t : Tag) (sl sel idx : Nat) (d : List Word) (s : State) : Nat × State :=
  match ingTable sel with
  | none => (1, s)
  | some (n, per, ro) =>
    if n ≤ idx then (2, s)
    else if ro then (if !tagOwns t (s.ingOwner sl per idx) then (4, s) else s.ingRefuse t sl 2 idx)
    else
      match sel with
      | 1 => flowWrite t sl idx d s
      | 2 => portCfgWrite t sl idx d s
      | 3 => extractWrite t sl idx d s
      | _ =>
        if !tagOwns t (s.ingOwner sl per idx) then (4, s)
        else (s.setEnt (pIng sl) 0 4 idx 0 (dat d 0 &&& 0xC3FF03FF)).ingAccept t sl

/-- PAD_D_WRITE: host software writes the alignment delay of a time base. -/
def execPadDWrite (t : Tag) (sl : Fin 16) (n : Fin 8) (d : Word) (s : State) : Host.Outcome State Fault Refusal :=
  .next (hostWrite t (regA (pIng sl) (0x050 + 4 * n.val)) d
    (fun s => writePadD (tagBank t) sl n d (fun ei => s.portInUse selIn ei) s) s)

end Sys2Proof.Machine
end

