-- ==== Sys2Proof/Machine/Audio.lean ====
section
/-!
DEFINITION. Machine/Audio.lean: the audio crosspoint of spec/10_audio.md (R284 to R309): audio blocks, tables and bindings, TDM
ports, commits, strikes, ramps and queries.
-/
namespace Sys2Proof.Machine

/-! ### Hidden state -/

def State.audOut (s : State) (y : Nat) : AudOut := Tab.get (fun _ => AudOut.idle) s.aud.outs y
def State.setAudOut (s : State) (y : Nat) (o : AudOut) : State :=
  { s with aud := { s.aud with outs := Tab.put (fun _ => AudOut.idle) s.aud.outs y o } }
def State.audTx (s : State) (x : TxId) : Option AudTx := s.aud.txs.find? fun t => t.id == x
def State.setAudTx (s : State) (t : AudTx) : State :=
  { s with aud := { s.aud with txs := s.aud.txs.map fun u => if u.id = t.id then t else u } }
def State.folBlks (s : State) (c : Nat) : List FolBlk := Tab.get (fun _ => []) s.aud.fol c
def State.setFolBlks (s : State) (c : Nat) (l : List FolBlk) : State :=
  { s with aud := { s.aud with fol := Tab.put (fun _ => []) s.aud.fol c l } }

/-- AUD.PENDING of a partition: its unfinished transactions. -/
def State.audPending (s : State) (p : Nat) : Nat := (s.aud.txs.filter fun t => txCmd t.id && txPart t.id == p).length
def State.syncPending (s : State) (p : Nat) : State := s.wr p (regA pAud 0x06C) (wd (s.audPending p % 32))

/-- Route of an output channel: the source, or none (R284). -/
def State.audRoute (s : State) (y : Nat) : Option Nat :=
  let w := s.ent pAud 0 4 y 1
  if bitOf w 31 then some (fld w 0 16) else none

/-! ### Periods and instants, R286 -/

/-- Linear count at an instant: its time in 2^-16 ns (R370). -/
def linOf (a : At) : Dword := BitVec.ofNat 64 (toBits 64 (a.num * 65536 / (a.den : Int)))

/-! ### Refusals, R309 -/

/-- A refused write of an AUD table records its REASON and changes nothing else (R309). -/
def State.audRefuse (s : State) (t : Tag) (reason idx : Nat) : Nat × State :=
  (3, s.setReason pAud 0x040 (tagBank t) reason idx)
def State.audAccept (s : State) (t : Tag) : Nat × State := (0, s.clearReason pAud 0x040 (tagBank t))

/-- Entries of the TDM, return port, DMA and foley binding tables that are in use, with the channels they name: first and number. -/
def tdmSlots (w : Word) : Nat := 8 * 2 ^ fld w 1 2
def State.returnPorts (s : State) : List (Nat × Nat × Nat) :=
  (s.entIdxs pAud 0 6 0 fun w => bitOf w 31).map fun j =>
    let c := s.entF pAud 0 6 j 0 0 6
    (j, s.entF pAud 0 6 j 1 0 16, if c = 0 then 64 else c)
def State.folBound (s : State) (c : Nat) : Bool := bitOf (s.ent pAud 0 9 c 0) 31
def State.folNin (s : State) (c : Nat) : Nat := s.entF pAud 0 9 c 0 0 11
def State.folNout (s : State) (c : Nat) : Nat := s.entF pAud 0 9 c 0 16 11
def State.folIn (s : State) (c : Nat) : Nat := s.entF pAud 0 9 c 1 0 16
def State.folOut (s : State) (c : Nat) : Nat := s.entF pAud 0 9 c 1 16 16

/-- Output channels bound to a sink: return ports, TDM outputs, receive queues, foley inputs and SDI embedding (R285). -/
def State.sinkRanges (s : State) : List (Nat × Nat) :=
  (s.returnPorts.map fun e => e.2) ++
    ((s.entIdxs pAud 0 7 0 fun w => bitOf w 0 && bitOf w 9).map fun p => (s.entF pAud 0 7 p 1 0 16, tdmSlots (s.ent pAud 0 7 p 0))) ++
    ((s.entIdxs pAud 0 8 0 fun w => bitOf w 31).map fun q =>
      (s.qTarget q true * 256 + s.entF pAud 0 8 q 0 0 8, s.entF pAud 0 8 q 0 8 9)) ++
    ((s.entIdxs pAud 0 9 0 fun w => bitOf w 31).map fun c => (s.folIn c, s.folNin c)) ++
    ((List.range 16).flatMap fun sl => (s.entIdxs (pEgr sl) 0 3 0 fun w => bitOf w 3).map fun i =>
      (s.entF (pEgr sl) 0 3 i 0 16 16, s.entF (pEgr sl) 0 3 i 0 8 6))

/-- Whether a range of channels meets a block. -/
def meetsBlock (blk : Nat) (r : Nat × Nat) : Bool := decide (r.1 < blk * 256 + 256 ∧ blk * 256 < r.1 + r.2)

/-- IN_USE of an input block and of an output block (R285). -/
def State.inBlockUsed (s : State) (blk : Nat) : Bool :=
  !(s.entIdxs pAud 0 5 0 fun w => fld w 0 3 != 0).all (fun x => x / 256 != blk) ||
    !(s.entIdxs pAud 0 4 1 fun w => bitOf w 31 && fld w 8 8 == blk).isEmpty ||
    s.aud.txs.any fun t => t.members.any fun m => !m.fin && m.src.any fun x => x / 256 == blk
def State.outBlockUsed (s : State) (blk : Nat) : Bool :=
  !(s.entIdxs pAud 0 4 1 fun w => bitOf w 31).all (fun y => y / 256 != blk) ||
    (s.aud.txs.any fun t => t.members.any fun m => !m.fin && m.dst / 256 == blk) || s.sinkRanges.any (meetsBlock blk)

/-- A write of an input block (sel 1) or output block entry. -/
def audBlockWrite (t : Tag) (sel blk : Nat) (d : List Word) (s : State) : Nat × State :=
  if !tagOwns t (if sel = 1 then s.ownIn blk else s.ownOut blk) then (4, s)
  else if (if sel = 1 then s.inBlockUsed blk else s.outBlockUsed blk) then s.audRefuse t 1 blk
  else (s.setEnt pAud 0 sel blk 0 (dat d 0 &&& 0xF)).audAccept t

/-- Whether a run of channels lies in the crosspoint. -/
def chansOk (base n : Nat) : Bool := decide (base + n ≤ 65536)

/-- Whether all blocks of a run of channels share one grid with the first. -/
def State.oneGridOut (s : State) (base n : Nat) : Bool := (blocksOf base n).all fun b => s.gridOut (b * 256) == s.gridOut base
def State.oneGridIn (s : State) (base n : Nat) : Bool := (blocksOf base n).all fun b => s.gridIn (b * 256) == s.gridIn base

/-- The descriptor that a return port entry sets (R297). -/
def State.returnDesc (s : State) (w0 w1 : Word) : Desc :=
  let base := fld w1 0 16
  let c := fld w0 0 6
  let n := if c = 0 then 64 else c
  let g := s.gridOut base
  let rule := fld w0 28 3
  let rate := cdiv (65536 * cdiv n 3 * gridRate g) 345600000
  let w1' := fld w0 24 4 * 2 ^ 24 + c * 65536 + g % 2 * 32768 + (if rule = 3 then fld w0 20 4 * 2 ^ 28 + fld w0 18 2 * 2 ^ 22 else 0)
  ⟨wd (2 ^ 31 + 2 ^ 28 + g / 2 * 2 ^ 21 + rule * 2 ^ 18 + rate % 65536), wd w1', 0⟩

/-- A write of a return port entry. -/
def returnWrite (t : Tag) (j : Nat) (d : List Word) (s : State) : Nat × State :=
  let x := 4096 + 192 + j
  let own := s.partOwner 1 x
  let w0 := dat d 0 &&& 0xFFFC003F
  let w1 := dat d 1 &&& 0xFFFF
  let valid := bitOf (s.ent pAud 0 6 j 0) 31
  let inUse := s.portInUse selIn x
  let base := fld w1 0 16
  let n := let c := fld w0 0 6; if c = 0 then 64 else c
  let i := x * 16
  if !tagOwns t own then (4, s)
  else if !bitOf w0 31 then
    if valid && inUse then s.audRefuse t 1 j
    else
      let s1 := s.setEntWords pAud 0 6 j 0 [w0, w1]
      (if valid then (s1.setEntWords pXpt 0 1 i 0 [0, 0, 0, 0]).dropDue x else s1).audAccept t
  else if valid then s.audRefuse t 1 j
  else if (fld w0 28 3 ≠ 2 ∧ fld w0 28 3 ≠ 3) ∨ !chansOk base n then s.audRefuse t 2 j
  else if (blocksOf base n).any fun b => s.ownOut b != own then s.audRefuse t 3 j
  else if !s.oneGridOut base n then s.audRefuse t 4 j
  else
    let dsc := s.returnDesc w0 w1
    let r := s.descReason .m selIn i inUse dsc
    if r ≠ 0 then (s.descStatus t selIn r i).audRefuse t 6 j
    else
      let s1 := (s.setEntWords pAud 0 6 j 0 [w0, w1]).setEntWords pXpt 0 1 i 0 [dsc.w0, dsc.w1, dsc.w2, dsc.data3]
      (s1.wrF (tagBank t) (regA pXpt 0x048) 0 4 0).audAccept t

/-- STATE of a TDM port: 0 OFF, 1 ARMED, 2 RUNNING. -/
def State.tdmState (s : State) (p : Nat) : Nat := s.rdF 0 (regA pAud 0x074) (2 * p) 2
def State.setTdm (s : State) (p v : Nat) : State := s.wrF 0 (regA pAud 0x074) (2 * p) 2 v

/-- A write of a TDM entry (R291 to R293). Clearing EN lets a running port finish its frame; its claim is then released. -/
def tdmWrite (t : Tag) (p : Nat) (d : List Word) (s : State) : Nat × State :=
  let w0 := dat d 0 &&& 0xFFFF03FF
  let w1 := dat d 1 &&& 0xFFFF
  let en := bitOf (s.ent pAud 0 7 p 0) 0
  let n := tdmSlots w0
  let hi := fld w0 7 1
  let inB := fld w0 16 16
  let outB := fld w1 0 16
  let g := gridOf (fld w0 4 3) hi
  let store (s : State) : State := s.setEntWords pAud 0 7 p 0 [w0, w1]
  if !tagIsP0 t then (4, s)
  else if !bitOf w0 0 then
    let s1 := (store s).unclaim 3 p
    (if s.tdmState p = 1 then s1.setTdm p 0 else s1).audAccept t
  else if en || s.tdmState p == 2 then s.audRefuse t 1 p
  else if 98304000 < gridRate g * n * 32 ∨ (bitOf w0 8 ∧ !chansOk inB n) ∨ (bitOf w0 9 ∧ !chansOk outB n) then s.audRefuse t 2 p
  else if (bitOf w0 8 && (blocksOf inB n).any fun b => s.ownIn b != 0) || (bitOf w0 9 && (blocksOf outB n).any fun b => s.ownOut b != 0) then
    s.audRefuse t 3 p
  else if (bitOf w0 8 && (blocksOf inB n).any fun b => s.gridIn (b * 256) != g) ||
      (bitOf w0 9 && (blocksOf outB n).any fun b => s.gridOut (b * 256) != g) then s.audRefuse t 4 p
  else if bitOf w0 8 && (List.range n).any (fun i => s.claimOf (inB + i) != 0) then s.audRefuse t 5 p
  else
    let s1 := (store s).setTdm p 1
    (if bitOf w0 8 then s1.claim 3 p inB n else s1).audAccept t

/-- A write of a DMA binding (R294). -/
def dmaBindWrite (t : Tag) (q : Nat) (d : List Word) (s : State) : Nat × State :=
  let w0 := dat d 0 &&& 0x8001FFFF
  let own := s.partOwner 7 q
  let valid := bitOf (s.ent pAud 0 8 q 0) 31
  let first := fld w0 0 8
  let n := fld w0 8 9
  let ti := s.qTarget q false
  let tOut := s.qTarget q true
  let tbOf (rx : Bool) : Nat := fld (s.qCfg q rx) 13 3
  if !tagOwns t own then (4, s)
  else if s.qEn q false || s.qEn q true then s.audRefuse t 1 q
  else if !bitOf w0 31 then ((s.setEnt pAud 0 8 q 0 w0).unclaim 5 q).audAccept t
  else if valid then s.audRefuse t 1 q
  else if n = 0 ∨ 256 < first + n ∨ 255 < ti ∨ 255 < tOut then s.audRefuse t 2 q
  else if s.ownIn ti ≠ own ∨ s.ownOut tOut ≠ own then s.audRefuse t 3 q
  else if s.audBlkTb 1 ti ≠ tbOf false ∨ s.audBlkTb 2 tOut ≠ tbOf true then s.audRefuse t 4 q
  else if (List.range n).any fun i => s.claimOf (ti * 256 + first + i) != 0 then s.audRefuse t 5 q
  else ((s.setEnt pAud 0 8 q 0 w0).claim 5 q (ti * 256 + first) n).audAccept t

/-- STATE of a foley core: FOL.STATUS (R340). -/
def State.folState (s : State) (c : Nat) : Nat := s.rdF 0 (regA (pFol c) 0x048) 0 3

/-- A write of a foley binding (R287, R332). -/
def folBindWrite (t : Tag) (c : Nat) (d : List Word) (s : State) : Nat × State :=
  let w0 := dat d 0 &&& 0x87FF07FF
  let w1 := dat d 1
  let own := s.pageOwner (pFol c)
  let valid := s.folBound c
  let nin := fld w0 0 11
  let nout := fld w0 16 11
  let inB := fld w1 0 16
  let outB := fld w1 16 16
  let store (s : State) : State := s.setEntWords pAud 0 9 c 0 [w0, w1]
  if !tagOwns t own then (4, s)
  else if !bitOf w0 31 then
    if valid && s.folState c == 2 then s.audRefuse t 1 c
    else ((((store s).unclaim 4 c).setFolBlks c [])).audAccept t
  else if valid then s.audRefuse t 1 c
  else if nin = 0 ∨ 1024 < nin ∨ nout = 0 ∨ 1024 < nout ∨ !chansOk inB nin ∨ !chansOk outB nout ∨
      8192 < nin * gridB (s.gridOut inB) ∨ 8192 < nout * gridB (s.gridIn outB) then s.audRefuse t 2 c
  else if ((blocksOf inB nin).any fun b => s.ownOut b != own) || (blocksOf outB nout).any fun b => s.ownIn b != own then s.audRefuse t 3 c
  else if !s.oneGridOut inB nin || !s.oneGridIn outB nout then s.audRefuse t 4 c
  else if (List.range nout).any fun i => s.claimOf (outB + i) != 0 then s.audRefuse t 5 c
  else ((store s).claim 4 c outB nout).audAccept t

/-- Entries of each AUD table. -/
def audEntries (sel : Nat) : Nat :=
  match sel with
  | 3 => 4096
  | 4 => 65536
  | 5 => 65536
  | 6 => 64
  | 7 => 8
  | 8 => 64
  | 9 => 64
  | _ => 256

/-- Writes of the AUD tables (R307, R308). Writes to RO words are ignored. -/
def audTableWrite (t : Tag) (sel idx : Nat) (d : List Word) (s : State) : Nat × State :=
  if sel = 0 ∨ 10 < sel then (1, s)
  else if audEntries sel ≤ idx then (2, s)
  else
    match sel with
    | 3 =>
      let b := tagBank t
      (s.setEntWords pAud b 3 idx 0 [dat d 0 &&& 0xC000FFFF, dat d 1 &&& 0xFFFF]).audAccept t
    | 4 => if !tagOwns t (s.ownOut (idx / 256)) then (4, s) else (s.setEnt pAud 0 4 idx 0 (dat d 0 &&& 7)).audAccept t
    | 5 => if !tagOwns t (s.ownIn (idx / 256)) && !s.granted 6 (idx / 256) (tagBank t) then (4, s) else s.audAccept t
    | 6 => returnWrite t idx d s
    | 7 => tdmWrite t idx d s
    | 8 => dmaBindWrite t idx d s
    | 9 => folBindWrite t idx d s
    | 10 => if !tagOwns t (s.ownIn idx) then (4, s) else s.audAccept t
    | _ => audBlockWrite t sel idx d s

/-- Reads of the AUD tables. -/
def audTableRead (t : Tag) (sel idx : Nat) (s : State) : Nat × List Word :=
  let see (b : Nat) : Bool := tagOwns t (s.ownIn b) || s.granted 6 b (tagBank t)
  if sel = 0 ∨ 10 < sel then (1, [])
  else if audEntries sel ≤ idx then (2, [])
  else
    match sel with
    | 1 => if !see idx then (4, []) else (0, s.entWords pAud 0 1 idx 1)
    | 2 => if !tagOwns t (s.ownOut idx) then (4, []) else (0, s.entWords pAud 0 2 idx 1)
    | 3 => (0, s.entWords pAud (tagBank t) 3 idx 2)
    | 4 => if !tagOwns t (s.ownOut (idx / 256)) then (4, []) else (0, s.entWords pAud 0 4 idx 5)
    | 5 => if !see (idx / 256) then (4, []) else (0, s.entWords pAud 0 5 idx 1)
    | 6 => if !tagOwns t (s.partOwner 1 (4096 + 192 + idx)) then (4, []) else (0, s.entWords pAud 0 6 idx 2)
    | 7 => (0, s.entWords pAud 0 7 idx 2)
    | 8 => if !tagOwns t (s.partOwner 7 idx) then (4, []) else (0, s.entWords pAud 0 8 idx 1)
    | 9 => if !tagOwns t (s.pageOwner (pFol idx)) then (4, []) else (0, s.entWords pAud 0 9 idx 2)
    | _ => if !tagOwns t (s.ownIn idx) then (4, []) else (0, s.entWords pAud 0 10 idx 11)

/-! ### Commits, R298 to R302 -/

/-- Transaction u wins over t at one period of one output (R302 by R218): a silence of P0 first, else the one accepted last. -/
def audWins (t u : AudTx) : Bool := (t.silence && !u.silence) || (t.silence == u.silence && decide (u.order < t.order))

/-- The result of a command: CMD_RESULT, CMD_RES_TAG; a refusal raises AUD.REFUSED. -/
def State.audResult (s : State) (p op code entry : Nat) (tag : Word) : State :=
  let s1 := (s.wr p (regA pAud 0x060) (wd (code + op * 256 + entry % 4096 * 65536))).wr p (regA pAud 0x064) tag
  if 1 ≤ code ∧ code ≤ 8 then s1.audEvent 0 p else s1

/-- Arm point of a period of a destination: 10 µs before the start of the audio block that holds it, or with a dip of the block
before (R300). -/
def State.audArm (s : State) (g : Nat) (dip : Bool) (n : Int) : At :=
  let k := n / (gridB g : Int) - (if dip then 1 else 0)
  (s.blockAt g k).add (-10000) 1

/-- The period at which a destination commits for a start instant: at or after S, and its arm point at least 4 µs from now. -/
def State.audPeriod (s : State) (y : Nat) (dip : Bool) (start : At) : Int :=
  let g := s.gridOut y
  let b : Int := gridB g
  let n0 := s.periodFrom g (s.sameInstant start (g / 2))
  let soon := (s.nowAt (g / 2)).add 14000 1
  let k := -(-(s.periodFrom g soon) / b)
  max n0 ((k + (if dip then 1 else 0)) * b)

/-- A staging entry: destination and source, or none where it is not VALID. -/
def State.audStaged (s : State) (p i : Nat) (stop : Bool) : Option (Nat × Option Nat) :=
  let w := s.ent pAud p 3 i 0
  if !bitOf w 31 then none
  else some (fld w 0 16, if bitOf w 30 || stop then none else some (s.entF pAud p 3 i 1 0 16))

/-- The staged entries, or the number of the first that is not VALID. -/
def State.audEntriesOf (s : State) (p : Nat) (stop : Bool) : Nat → Nat → List (Nat × Option Nat) ⊕ Nat
  | _, 0 => .inl []
  | i, n + 1 =>
    match s.audStaged p i stop with
    | none => .inr i
    | some e =>
      match State.audEntriesOf s p stop (i + 1) n with
      | .inl l => .inl (e :: l)
      | .inr j => .inr j

/-- Checks 3 to 6 of R299, each over all entries before the next: the code and the entry that fails. -/
def State.audCheck (s : State) (t : Tag) (stop : Bool) (es : List (Nat × Option Nat)) : Option (Nat × Nat) :=
  let p := tagBank t
  let bad (f : Nat → Nat × Option Nat → Bool) : Option Nat := (es.zipIdx.find? fun e => f e.2 e.1).map fun e => e.2
  let grant (x : Nat) : Bool := tagOwns t (s.ownIn (x / 256)) ||
    (s.granted 6 (x / 256) p && !s.aud.removing.contains (x / 256, p))
  match bad fun _ e => !stop && !tagOwns t (s.ownOut (e.1 / 256)) with
  | some i => some (3, i)
  | none =>
  match bad fun i e => (es.take i).any fun f => f.1 == e.1 with
  | some i => some (4, i)
  | none =>
  match bad fun _ e => e.2.any fun x => !grant x with
  | some i => some (5, i)
  | none => (bad fun _ e => e.2.any fun x => s.gridIn x != s.gridOut e.1).map fun i => (6, i)

/-- A new transaction from its entries and start instant. -/
def State.newAudTx (s : State) (id : TxId) (silence : Bool) (start : At) (es : List (Nat × Option Nat)) : AudTx :=
  let ms := es.map fun (y, src) =>
    let dip := bitOf (s.ent pAud 0 4 y 0) 0
    let n := s.audPeriod y dip start
    AudMem.mk y src dip n (s.audArm (s.gridOut y) dip n) false
  let arm := ms.foldl (fun a m => if s.until m.arm < s.until a then m.arm else a) ((ms.head?.map fun m => m.arm).getD start)
  let mark0 := match ms with
    | m :: _ => linOf (s.periodAt (s.gridOut m.dst) m.period)
    | [] => 0
  ⟨id, silence, s.aud.order, false, arm, ms, mark0, 0⟩

/-- Add a transaction. -/
def State.audEnlist (s : State) (t : AudTx) : State :=
  { s with aud := { s.aud with txs := s.aud.txs ++ [t], order := s.aud.order + 1 } }

/-- Keep the latest 256 finished transactions of a partition. -/
def keepAudEnds (e : AudEnd) (l : List AudEnd) : List AudEnd :=
  e :: ((l.filter fun f => f.part == e.part).take 255 ++ l.filter fun f => f.part != e.part)

/-- Clear the grant bit of a forced removal whose last silence has landed (R302). -/
def State.audEndRemoval (s : State) (t : AudTx) : State :=
  match t.id with
  | .forced blk p =>
    let s1 := { s with aud := { s.aud with removing := s.aud.removing.filter fun e => e != (blk, p.val) } }
    s1.setEntF pPart 0 6 blk 0 (16 + p.val) 1 0
  | .cmd _ _ => s

/-- The count at the arm grant: the one that stood there, and before it the one foreseen (log entry 31). -/
def State.audGrant (s : State) (t : AudTx) : Dword := if t.armed then t.grant else BitVec.ofNat 64 (s.linearAt t.arm)

/-- A transaction ends: DONE 2, STRUCK 3 or EXPIRED 4. -/
def State.audFinish (s : State) (t : AudTx) (st : Nat) : State :=
  let s1 := { s with aud := { s.aud with txs := s.aud.txs.filter fun u => u.id != t.id } }
  if txCmd t.id then
    (({ s1 with aud := { s1.aud with ends := keepAudEnds ⟨txPart t.id, txTag t.id, st, t.mark0, s.audGrant t⟩ s1.aud.ends } }).syncPending
      (txPart t.id))
  else s1.audEndRemoval t

/-- A COMMIT or STOP, by the checks of R299 in their order. -/
def audSubmit (t : Tag) (op timing count : Nat) (s : State) : State :=
  let p := tagBank t
  let tag := s.rd p (regA pAud 0x04C)
  let stop := op == 3
  if timing ≥ 2 ∨ count = 0 ∨ 4096 < count then s.audResult p op 1 0 tag
  else
    match s.audEntriesOf p stop 0 count with
    | .inr i => s.audResult p op 1 i tag
    | .inl es =>
      if tag ≠ s.rd p (regA pAud 0x068) then s.audResult p op 2 0 tag
      else
        let s := s.inc p (regA pAud 0x068)
        if stop && p != 0 then s.audResult p op 3 0 tag
        else
          match s.audCheck t stop es with
          | some (code, i) => s.audResult p op code i tag
          | none =>
            let tb := s.gridOut (es.headD (0, none)).1 / 2
            let off := linDiff (s.rd64 p (regA pAud 0x050)) (s.linear tb)
            if 16 ≤ s.audPending p then s.audResult p op 7 0 tag
            else if timing = 1 ∧ 3600 * 1000000000 * 65536 < off then s.audResult p op 8 0 tag
            else
              let now := s.nowAt tb
              let start := if timing = 1 ∧ 0 < off then s.atCount tb (s.rd64 p (regA pAud 0x050)) else now
              ((s.audEnlist (s.newAudTx (.cmd (Fin.ofNat 16 p) tag) stop start es)).syncPending p).audResult p op 0 0 tag

/-- A STRIKE of the transaction named in CMD_ARG (R301). -/
def audStrike (t : Tag) (s : State) : State :=
  let p := tagBank t
  let tag := s.rd p (regA pAud 0x058)
  match s.aud.txs.find? fun u => txCmd u.id && txPart u.id == p && txTag u.id == tag with
  | none => s.audResult p 2 18 0 tag
  | some u =>
    if u.armed || s.reached u.arm then (s.audResult p 2 17 0 tag).audEvent 1 p
    else (s.audFinish u 3).audResult p 2 16 0 tag

/-- Clear the staging list of a partition, or of all (R298). -/
def State.audClearStaging (s : State) (p : Option Nat) : State :=
  let hit (k : Nat) : Bool := k / 2 ^ 48 == pAud && k / 2 ^ 28 % 65536 == 3 &&
    match p with
    | some b => k / 2 ^ 44 % 16 == b
    | none => true
  { s with tbl := Tab.keep (fun k => !hit k) s.tbl }

/-- A write of AUD.CMD. -/
def writeAudCmd (t : Tag) (d : Word) (s : State) : State :=
  match fld d 0 4 with
  | 1 => audSubmit t 1 (fld d 4 2) (fld d 16 13) s
  | 2 => audStrike t s
  | 3 => audSubmit t 3 (fld d 4 2) (fld d 16 13) s
  | 4 => (s.audClearStaging (some (tagBank t))).audResult (tagBank t) 4 0 0 (s.rd (tagBank t) (regA pAud 0x04C))
  | op => s.audResult (tagBank t) op 1 0 (s.rd (tagBank t) (regA pAud 0x04C))

/-- A command as a register write. -/
def audCmd (t : Tag) (op timing count : Nat) (s : State) : State :=
  let d := wd (op + timing * 16 + count * 65536)
  hostWrite t (regA pAud 0x05C) d (writeAudCmd t d) s

/-- AUD_COMMIT. -/
def execAudCommit (t : Tag) (timing : BitVec 2) (count : BitVec 13) (s : State) : Host.Outcome State Fault Refusal :=
  .next (audCmd t 1 timing.toNat count.toNat s)

/-- AUD_STRIKE. -/
def execAudStrike (t : Tag) (s : State) : Host.Outcome State Fault Refusal := .next (audCmd t 2 0 0 s)

/-- AUD_STOP. -/
def execAudStop (t : Tag) (timing : BitVec 2) (count : BitVec 13) (s : State) : Host.Outcome State Fault Refusal :=
  .next (audCmd t 3 timing.toNat count.toNat s)

/-- AUD_CLEAR. -/
def execAudClear (t : Tag) (s : State) : Host.Outcome State Fault Refusal := .next (audCmd t 4 0 0 s)

/-- AUD_ARM_GRANT: the earliest arm point of a transaction's members (R300, R302). -/
def execAudArmGrant (x : TxId) (s : State) : Host.Outcome State Fault Refusal :=
  .next (match s.audTx x with
    | none => s
    | some t =>
      if t.armed || !s.reached t.arm then s
      else s.setAudTx { t with armed := true, grant := BitVec.ofNat 64 (s.linear t.arm.tb) })

/-- The members of armed transactions that still have to commit at an output. -/
def State.audArmed (s : State) (y : Nat) : List (AudTx × AudMem) :=
  (s.aud.txs.filter fun t => t.armed).flatMap fun t => (t.members.filter fun m => m.dst == y && !m.fin).map fun m => (t, m)

/-- AUD_MEMBER_COMMIT: a member's period has come: its output takes the source, unless another transaction wins it at the same
period; members of one output commit in period order (R302). -/
def execAudMemberCommit (x : TxId) (i : Nat) (s : State) : Host.Outcome State Fault Refusal :=
  .next (match s.audTx x with
    | none => s
    | some t =>
      match t.members[i]? with
      | none => s
      | some m =>
        let g := s.gridOut m.dst
        let at' := s.periodAt g m.period
        let rivals := (s.audArmed m.dst).filter fun e => e.1.id != x
        if !t.armed || m.fin || !s.reached at' || rivals.any fun e => decide (e.2.period < m.period) then s
        else
          let lost := rivals.any fun e => e.2.period == m.period && audWins e.1 t
          let t' := { t with members := t.members.set i { m with fin := true } }
          let s1 := s.setAudTx t'
          let s2 := if lost then s1
            else
              let w1 := match m.src with
                | some x => wd (2 ^ 31 + x)
                | none => 0
              let lin := linOf at'
              let o := s1.audOut m.dst
              (s1.setEntWords pAud 0 4 m.dst 1 [w1, txTag t.id, loHalf lin.toNat, hiHalf lin.toNat]).setAudOut m.dst
                { o with dips := if m.dip then (m.period :: o.dips).take 4 else o.dips }
          if t'.members.all fun m => m.fin then s2.audFinish t' 2 else s2)

/-- Forced removal of partition p's grant on an input block (R302): silences of p's outputs, unarmed transactions STRUCK. -/
def State.audForce (s : State) (blk p : Nat) : State :=
  let fromBlk (m : AudMem) : Bool := m.src.any fun x => x / 256 == blk
  let mine (t : AudTx) : Bool := txCmd t.id && txPart t.id == p
  let struck := s.aud.txs.filter fun t => mine t && !(t.armed || s.reached t.arm) && t.members.any fromBlk
  let s1 := forEach struck (fun t s => s.audFinish t 3) s
  let routed := (s1.entIdxs pAud 0 4 1 fun w => bitOf w 31 && fld w 8 8 == blk).filter fun y => s1.ownOut (y / 256) == p
  let coming := (s1.aud.txs.filter mine).flatMap fun t => t.members.filter fun m => fromBlk m && !m.fin
  let outs := (routed ++ coming.map fun m => m.dst).eraseDups
  let tx0 := s1.newAudTx (.forced blk (Fin.ofNat 16 p)) true (s1.nowAt (s1.gridOut (outs.headD 0) / 2)) (outs.map fun y => (y, none))
  let later (m : AudMem) : AudMem :=
    let n := coming.foldl (fun n c => if c.dst = m.dst then max n c.period else n) m.period
    { m with period := n, arm := s1.audArm (s1.gridOut m.dst) m.dip n }
  let tx := { tx0 with members := tx0.members.map later }
  let s2 := { s1 with aud := { s1.aud with removing := s1.aud.removing ++ [(blk, p)] } }
  if outs.isEmpty then s2.audEndRemoval tx else s2.audEnlist tx

/-! ### Input blocks, R288, R289 -/

/-- Whether a TDM port's samples are for a channel that the port claims. -/
def State.deliveryOk (s : State) (a : AudIn) : Bool := s.claimOf a.ch.toNat == 3 && s.claimId a.ch.toNat == a.port.val

/-- Samples of a TDM port that the crosspoint discards: counted, with AUD.CLAIM (R289). -/
def State.discard (s : State) (a : AudIn) : State :=
  let blk := a.ch.toNat / 256
  if s.deliveryOk a then s else (s.audCount blk 0 a.samples.length).audEvent 2 (s.ownIn blk)

/-- Samples of an input channel in an input block, their settling flags, and whether the block repeats (R287 to R289, R292). -/
def State.inputBlock (s : State) (ins : List AudIn) (x : Nat) (k : Int) : List (BitVec 24) × List Bool × Bool :=
  let b := gridB (s.gridIn x)
  let zero := (List.replicate b (0 : BitVec 24), List.replicate b false, false)
  match s.claimOf x with
  | 0 => zero
  | 4 =>
    let c := s.claimId x
    match (s.folBlks c).find? fun f => f.block == k with
    | some f => (f.samples.getD (x - s.folOut c) zero.1, f.settle.getD (x - s.folOut c) zero.2.1, f.rep)
    | none => zero
  | 3 =>
    if s.tdmState (s.claimId x) ≠ 2 then zero
    else
      match ins.find? fun a => a.ch.toNat == x && s.deliveryOk a with
      | some a => ((a.samples ++ zero.1).take b, zero.2.1, false)
      | none => zero
  | _ => (s.audHeld x (k * (b : Int)) b, zero.2)

/-! ### Host memory, R294 and R295 -/

/-- Channels of a queue's DMA binding entry, FIRST and COUNT, the bytes that its APACK gives a sample, and those of a period. -/
def State.qFirst (s : State) (q : Nat) : Nat := s.entF pAud 0 8 q 0 0 8
def State.qCount (s : State) (q : Nat) : Nat := s.entF pAud 0 8 q 0 8 9
def State.qSample (s : State) (q : Nat) (rx : Bool) : Nat := if bitOf (s.qCfg q rx) 12 then 4 else 3
def State.qPeriod (s : State) (q : Nat) (rx : Bool) : Nat := max 1 (s.qCount q * s.qSample q rx)

/-- Audio queues that run on a grid in a direction. -/
def State.audQueues (s : State) (g : Nat) (rx : Bool) : List Nat :=
  idxs 64 fun q => s.qState q rx == 1 && s.qBind q rx == 2 && s.qBound q && s.qGrid q rx == g

/-- The sample of n bytes, least significant byte first, and the bytes of one (R294): of four bytes the first is 0 or ignored. -/
def unpackSample (n : Nat) (l : List (BitVec 8)) : BitVec 24 :=
  let b (i : Nat) : Nat := (l.getD (n - 3 + i) 0).toNat
  BitVec.ofNat 24 (b 0 + b 1 * 256 + b 2 * 65536)
def packSample (n : Nat) (v : BitVec 24) : List (BitVec 8) :=
  List.replicate (n - 3) 0 ++ (List.range 3).map fun i => BitVec.ofNat 8 (v.toNat / 256 ^ i)

/-- Periods of a buffer of len bytes, and what an endpoint reports of them. -/
def wholePeriods (len per : Nat) : Nat := len / max 1 per
def playedDone (len per : Nat) : Done := ⟨0, wholePeriods len per * per, 0, false, false, none⟩
def filledDone (len per first : Nat) (stamp : BitVec 96) : Done :=
  ⟨0, wholePeriods len per * per, first, true, true, if wholePeriods len per = 0 then none else some stamp⟩

/-- Whether a buffer not yet begun may start in period n of a grid: at its launch period, as the first after EN at its boundary, after a
gap at a block boundary, else in the period after the previous buffer (R295; log entry 182). -/
def mayPlay (g : Nat) (begun gap : Bool) (n : Int) (p : PlayAt) : Bool :=
  decide (p.ready ≤ n) &&
    match p.launch with
    | some l => decide (l ≤ n)
    | none => if begun then !gap || n % (gridB g : Int) == 0 else decide (p.first ≤ n)

/-- The buffer in use for period n of a transmit queue, after those that the endpoint is done with; a buffer shorter than a period is
done at once. Answers the descriptors, and the TAG and the period of the buffer to play. -/
def playFrom (g per : Nat) (have' : Word → Nat) (r : QRec) (n : Int) : List Flight → List Flight × Option (Word × Nat)
  | [] => ([], none)
  | f :: l =>
    let len := fld (descWord f.desc 2) 0 16
    let whole := wholePeriods len per
    if f.bad then (f :: l, none)
    else if f.fin.isSome || whole == 0 then
      let (m, o) := playFrom g per have' r n l
      ((if f.fin.isSome then f else { f with fin := some (playedDone len per) }) :: m, o)
    else if (r.used != 0 || f.play.any (mayPlay g r.begun r.gap n)) && decide (whole * per ≤ have' f.tag) then
      ((if r.used + 1 = whole then { f with fin := some (playedDone len per) } else f) :: l, some (f.tag, r.used))
    else (f :: l, none)

/-- Period n of a transmit queue: its buffer gives the bound channels a sample each, else they carry zero (R294, R295). -/
def State.playPeriod (s : State) (bufs : List AudBuf) (g q : Nat) (n : Int) : State :=
  let r := s.qrec q false
  let per := s.qPeriod q false
  let sz := s.qSample q false
  let bytes (t : Word) : List (BitVec 8) := ((bufs.find? fun b => b.q.val == q && b.tag == t).map fun b => b.bytes).getD []
  let (l, o) := playFrom g per (fun t => (bytes t).length) r n r.flight
  match o with
  | none => s.setQrec q false { r with flight := l, gap := true }
  | some (t, i) =>
    let done := l.any fun f => f.tag == t && f.fin.isSome
    let s1 := s.setQrec q false { r with flight := l, used := if done then 0 else i + 1, begun := true, gap := false }
    forEach (List.range (s.qCount q)) (fun c s =>
      s.audSample 5 [q] g (s.qTarget q false * 256 + s.qFirst q + c) n (unpackSample sz ((bytes t).drop (i * per + c * sz)))) s1

/-- Input block k of a grid's transmit queues. UNDERRUN counts once for a block in which a period had no buffer (R295). -/
def State.playBlock (s : State) (bufs : List AudBuf) (g : Nat) (k : Int) : State :=
  let b := gridB g
  forEach (s.audQueues g false) (fun q s =>
    let (s1, short) := (List.range b).foldl (fun (e : State × Bool) (i : Nat) =>
      let s2 := e.1.playPeriod bufs g q (k * (b : Int) + (i : Int))
      (s2, e.2 || (s2.qrec q false).gap)) (s, false)
    let blk := s.qTarget q false
    if short then (s1.audCount blk 2 1).audEvent 4 (s1.ownIn blk) else s1) s

/-- The descriptor that takes the next period of a receive queue, as `playFrom`. Answers its buffer's address and place of the period. -/
def fillFrom (per first used : Nat) (stamp : BitVec 96) : List Flight → List Flight × Option (Nat × Bool)
  | [] => ([], none)
  | f :: l =>
    let len := fld (descWord f.desc 2) 0 16
    let whole := wholePeriods len per
    if f.bad then (f :: l, none)
    else if f.fin.isSome || whole == 0 then
      let (m, o) := fillFrom per first used stamp l
      ((if f.fin.isSome then f else { f with fin := some (filledDone len per first stamp) }) :: m, o)
    else
      let last := used + 1 == whole
      ((if last then { f with fin := some (filledDone len per first stamp) } else f) :: l,
        some (pairOf (descWord f.desc 0) (descWord f.desc 1) + used * per, last))

/-- Period n of the output channels of a receive queue, the i-th of the block just computed, goes to its buffer in host memory. The
stamp is the nominal instant of the buffer's first period, D not included (R295). -/
def State.fillPeriod (s : State) (g q : Nat) (n : Int) (i : Nat) : State :=
  let r := s.qrec q true
  let per := s.qPeriod q true
  let stamp := if r.used = 0 then BitVec.ofInt 96 (n * 65536000000000 / (gridRate g : Int)) else r.stamp
  let (l, o) := fillFrom per (s.qFirst q) r.used stamp r.flight
  match o with
  | none => s.setQrec q true { r with flight := l }
  | some (addr, last) =>
    let bytes := (List.range (s.qCount q)).flatMap fun c =>
      packSample (s.qSample q true) ((s.audOut (s.qTarget q true * 256 + s.qFirst q + c)).block.getD i 0)
    (s.setQrec q true { r with flight := l, used := if last then 0 else r.used + 1, stamp := stamp }).emit (.hostAudio q addr bytes)

/-- Output block k of a grid's receive queues. -/
def State.fillBlock (s : State) (g : Nat) (k : Int) : State :=
  let b := gridB g
  forEach (s.audQueues g true) (fun q s =>
    forEach (List.range b) (fun (i : Nat) s => s.fillPeriod g q (k * (b : Int) + (i : Int)) i) s) s

/-! ### Ramps, R303 and R304 -/

/-- Gain of a dip about period P at period q, as a fraction of B: 1 away from it. -/
def dipGain (b : Nat) (p q : Int) : Nat :=
  if p - (b : Int) ≤ q ∧ q < p then (p - 1 - q).toNat
  else if p ≤ q ∧ q < p + (b : Int) then (q - p).toNat
  else b

/-- The source of an output at period q: the route, as changed by armed members whose period has come (R302). -/
def State.srcAt (s : State) (y : Nat) (q : Int) : Option Nat :=
  let best := ((s.audArmed y).filter fun e => decide (e.2.period ≤ q)).foldl (fun (b : Option (AudTx × AudMem)) e =>
    match b with
    | none => some e
    | some f => if f.2.period < e.2.period ∨ (f.2.period = e.2.period ∧ audWins e.1 f.1) then some e else some f) none
  match best with
  | some e => e.2.src
  | none => s.audRoute y

/-- Product of a sample with gains n / d, truncated. -/
def rampMul (x : BitVec 24) (n d : Nat) : BitVec 24 := BitVec.ofInt 24 (x.toInt * (n : Int) / ((max 1 d : Nat) : Int))

/-- One period of an output channel: the sample, and the channel's mute and ramp after it. `inp` gives the input block k - 1 of a
channel, `prevRep` whether the block before that one repeated. -/
def State.outSample (s : State) (y : Nat) (o : AudOut) (inp : Nat → List (BitVec 24) × List Bool × Bool)
    (prevRep : Nat → Bool) (b : Nat) (q : Int) : BitVec 24 × AudOut :=
  let i := (q % (b : Int)).toNat
  match s.srcAt y q with
  | none =>
    (0, { o with muted := false, rampAt := none })
  | some x =>
    let (sm, fl, rep) := inp x
    let flag := fl.getD i false
    let settleOn := bitOf (wd o.opts) 1
    let discOn := bitOf (wd o.opts) 2
    let o1 : AudOut := if settleOn && flag then { o with muted := true, rampAt := none }
      else if o.muted then { o with muted := false, rampAt := some q }
      else o
    let len := 6 * b
    let gainMute : Nat × Nat := if o1.muted then (0, 1)
      else match o1.rampAt with
        | some a => if q - a < (len : Int) then ((q - a).toNat, len) else (1, 1)
        | none => (1, 1)
    let dips := ((s.audArmed y).filter fun e => e.2.dip).map (fun e => e.2.period) ++ o.dips
    let discs := if discOn then (Tab.get (fun _ => []) s.aud.disc x).map fun n => n + (b : Int) else []
    let g1 := (dips ++ discs).foldl (fun (g : Nat × Nat) p => let d := dipGain b p q; if d = b then g else (g.1 * d, g.2 * b)) (1, 1)
    let g2 : Nat × Nat := if discOn && rep then (b - 1 - i, b) else if discOn && prevRep x then (i, b) else (1, 1)
    (rampMul (sm.getD i 0) (gainMute.1 * g1.1 * g2.1) (gainMute.2 * g1.2 * g2.2),
      match o1.rampAt with
      | some a => if (len : Int) ≤ q - a then { o1 with rampAt := none } else o1
      | none => o1)

/-- Periods of a block in order, threading the channel's state. -/
def State.outPeriods (s : State) (y : Nat) (inp : Nat → List (BitVec 24) × List Bool × Bool) (prevRep : Nat → Bool) (b : Nat) :
    Nat → Int → AudOut → List (BitVec 24) × AudOut
  | 0, _, o => ([], o)
  | n + 1, q, o =>
    let (x, o1) := State.outSample s y o inp prevRep b q
    let (r, o2) := State.outPeriods s y inp prevRep b n (q + 1) o1
    (x :: r, o2)

/-- Output channels of a grid that need computing: routed, about to be routed, or with state. -/
def State.liveOuts (s : State) (g : Nat) : List Nat :=
  ((s.entIdxs pAud 0 4 1 fun w => bitOf w 31) ++ s.aud.outs.map (fun e => e.1) ++
    s.aud.txs.flatMap fun t => if t.armed then t.members.map fun m => m.dst else []).eraseDups.filter fun y => s.gridOut y == g

/-- Largest magnitude of a block, saturating at 0x7F_FFFF, and whether it holds a full-scale sample (R307). -/
def peakOf (l : List (BitVec 24)) : Nat := l.foldl (fun n x => max n (min x.toInt.natAbs 0x7FFFFF)) 0
def clipOf (l : List (BitVec 24)) : Bool := l.any fun x => x == 0x7FFFFF || x == 0x800000

/-- Output block k of a channel. -/
def State.outBlock (s : State) (ins : List AudIn) (g : Nat) (k : Int) (y : Nat) : State :=
  let b := gridB g
  let o := { s.audOut y with opts := s.entF pAud 0 4 y 0 0 3 }
  let (ws, o1) := s.outPeriods y (fun x => s.inputBlock ins x (k - 1))
    (fun x => s.claimOf x == 4 && (s.folBlks (s.claimId x)).any fun f => f.block == k - 2 && f.rep) b b (k * (b : Int)) o
  let dips := o1.dips.filter fun p => decide ((k + 1) * (b : Int) < p + (b : Int))
  s.setAudOut y { o1 with block := ws, prev := o.block, dips := dips, peak := max o1.peak (peakOf ws), clip := o1.clip || clipOf ws }

/-! ### Sinks: return ports and TDM outputs, R293 and R297 -/

/-- Beats of a sample period, times i. -/
def periodBeat (g i : Nat) : Nat := i * 345600000 / gridRate g

/-- Present the periods of output block k at a return port. -/
def State.returnBlock (s : State) (g : Nat) (k : Int) (e : Nat × Nat × Nat) : State :=
  let (j, base, n) := e
  let x := 4096 + 192 + j
  let d := s.inDesc x 0
  let b := gridB g
  s.present x ((List.range b).flatMap fun (i : Nat) =>
    let q := k * (b : Int) + (i : Int)
    let ws := packPcm n ((List.range n).map fun c => (s.audOut (base + c)).block.getD i 0)
    ws.zipIdx.map fun (w, m) =>
      (s.beat + periodBeat g i + m, if m = 0 then fword w (d.periodSof q) true (d.periodSwp q) 0 else fword w false false false 0))

/-- The frames of a TDM port that runs, in output block k: slot c carries output channel OUT_BASE + c in bits 31:8 (R291). -/
def State.tdmBlock (s : State) (g : Nat) (k : Int) (p : Nat) : State :=
  let w0 := s.ent pAud 0 7 p 0
  let n := tdmSlots w0
  let outB := s.entF pAud 0 7 p 1 0 16
  let b := gridB g
  if s.tdmState p ≠ 2 ∨ gridOf (fld w0 4 3) (fld w0 7 1) ≠ g then s
  else
    forEach (List.range b) (fun i s =>
      let started := match Tab.get (fun _ => none) s.aud.tdm p with
        | some q0 => decide (q0 ≤ k * (b : Int) + (i : Int))
        | none => false
      if started then
        s.emit (.tdm p ((List.range n).map fun c =>
          if bitOf w0 9 then wd (((s.audOut (outB + c)).block.getD i 0).toNat * 256) else 0))
      else s) s

/-- AUDIO_BLOCK: at the start of audio block k of a grid, output block k is computed from input block k - 1 (R286). -/
def execAudioBlock (tb : Fin 8) (hi96 : Bool) (ins : List AudIn) (bufs : List AudBuf) (s : State) : Host.Outcome State Fault Refusal :=
  let g := gridOf tb (if hi96 then 1 else 0)
  let k := s.blockNow g
  .next (if (Tab.get (fun _ => none) s.aud.blk g).any (fun l => decide (k ≤ l)) || s.tbMode tb == 0 then s
    else
      let mine := ins.filter fun a => s.gridIn a.ch.toNat == g
      let s1 := forEach mine (fun a s => s.discard a) (s.playBlock bufs g (k - 1))
      let s2 := forEach (s1.liveOuts g) (fun y s => s.outBlock mine g k y) s1
      let s3 := forEach (s2.returnPorts.filter fun e => s2.gridOut e.2.1 == g) (fun e s => s.returnBlock g k e) s2
      let s4 := (forEach (List.range 8) (fun p s => s.tdmBlock g k p) s3).fillBlock g k
      let fol : Tab (List FolBlk) := s4.aud.fol.filterMap fun e =>
        let l := if s4.gridIn (s4.folOut e.1) = g then e.2.filter fun f => decide (k - 2 ≤ f.block) else e.2
        if l.isEmpty then none else some (e.1, l)
      { s4 with aud := { s4.aud with blk := Tab.ins s4.aud.blk g (some k), fol := fol } })

/-! ### TDM ports, R292 -/

/-- The firing of AUD.TDM_COMP at an instant: every ARMED port starts at the first period of its grid at or after it. -/
def State.tdmStart (s : State) (a : At) : State :=
  forEach ((List.range 8).filter fun p => s.tdmState p == 1) (fun p s =>
    let w0 := s.ent pAud 0 7 p 0
    let g := gridOf (fld w0 4 3) (fld w0 7 1)
    let q := s.periodFrom g (s.sameInstant a (g / 2))
    { s.setTdm p 2 with aud := { s.aud with tdm := Tab.put (fun _ => none) s.aud.tdm p (some q) } }) s

/-- TDM_STOP: the end of the current frame of a port whose EN is clear. -/
def execTdmStop (p : Fin 8) (s : State) : Host.Outcome State Fault Refusal :=
  .next (if s.tdmState p = 2 ∧ !bitOf (s.ent pAud 0 7 p 0) 0 then
      { s.setTdm p 0 with aud := { s.aud with tdm := Tab.del s.aud.tdm p } }
    else s)

/-! ### Queries, counters and resets, R305 to R307 -/

/-- A query as its request found it: error code and result words; a type 1 query restarts peak holding. -/
def State.audQuery (s : State) (t : Tag) : (Nat × List Word) × State :=
  let p := tagBank t
  let arg := s.rd p (regA pAud 0x0D4)
  let y := fld arg 0 16
  match s.rdF p (regA pAud 0x0D0) 0 2 with
  | 0 =>
    if !tagOwns t (s.ownOut (y / 256)) then ((1, []), s)
    else
      let n := (s.aud.txs.filter fun u => u.members.any fun m => m.dst == y && !m.fin).length
      ((0, s.ent pAud 0 4 y 1 :: s.ent pAud 0 4 y 2 :: s.ent pAud 0 4 y 3 :: s.ent pAud 0 4 y 4 :: [wd n]), s)
  | 1 =>
    if !tagOwns t (s.ownOut (y / 256)) then ((1, []), s)
    else
      let chs := (List.range 16).map fun i => y / 16 * 16 + i
      ((0, chs.map fun c => wd ((s.audOut c).peak + if (s.audOut c).clip then 2 ^ 31 else 0)),
        forEach chs (fun c s => s.setAudOut c { s.audOut c with peak := 0, clip := false }) s)
  | 2 =>
    let ws (st : Nat) (m g : Dword) : List Word := [wd st, arg, loHalf m.toNat, hiHalf m.toNat, loHalf g.toNat, hiHalf g.toNat]
    match s.aud.txs.find? fun u => txCmd u.id && txPart u.id == p && txTag u.id == arg with
    | some u => ((0, ws (if u.armed then 1 else 0) u.mark0 (s.audGrant u)), s)
    | none =>
      match s.aud.ends.find? fun e => e.part == p && e.tag == arg with
      | some e => ((0, ws e.state e.mark0 e.grant), s)
      | none => ((2, []), s)
  | _ => ((2, []), s)

/-- A write of AUD.SNAP with bit 0 set. -/
def State.audSnap (s : State) (p : Nat) : State :=
  forEach ((s.tblIdxs pAud 0 10).filter fun b => s.ownIn b == p)
    (fun b s => ((s.snapEnt pAud 0 10 b 0 8).snapEnt pAud 0 10 b 1 9).snapEnt pAud 0 10 b 2 10) s

/-- A block reset of the crosspoint (R305): QUEUED transactions whose arm point has passed become EXPIRED. -/
def State.audRestore (s : State) : State :=
  forEach (s.aud.txs.filter fun t => !t.armed && s.reached t.arm) (fun t s => s.audFinish t 4) s

end Sys2Proof.Machine
end

