-- ==== Sys2Proof/Machine/EgrTab.lean ====
section
/-!
DEFINITION. Machine/EgrTab.lean: the tables of the EGR pages (spec/09_egress.md, R264 to R282): ports, planes and their state, the load
of a port, what a write is refused for, and what a read returns.
-/
namespace Sys2Proof.Machine

/-! ### Entries -/

/-- Page and index of an external output, and number of a slot and of a path. -/
def egrPg (eo : Nat) : Nat := pEgr (eo / 256)
def egrSlot (eo slot : Nat) : Nat := eo % 256 * 16 + slot
def State.eoOwner (s : State) (eo : Nat) : Nat := s.partOwner 2 eo

/-- Words of a flow entry, a path entry and a port configuration entry. -/
def State.egrFlow (s : State) (eo slot w : Nat) : Word := s.ent (egrPg eo) 0 1 (egrSlot eo slot) w
def State.egrPath (s : State) (eo slot path w : Nat) : Word := s.ent (egrPg eo) 0 2 (egrSlot eo slot * 2 + path) w
def State.egrCfg (s : State) (eo : Nat) : Word := s.ent (egrPg eo) 0 3 (eo % 256) 0

/-- Hidden state of a slot. -/
def State.egrRec (s : State) (eo slot : Nat) : EgrRec := Tab.get (fun _ => EgrRec.idle) s.egr (eo * 16 + slot)
def State.setEgr (s : State) (eo slot : Nat) (r : EgrRec) : State :=
  { s with egr := Tab.put (fun _ => EgrRec.idle) s.egr (eo * 16 + slot) r }

/-- An EGR event of an output, attributed to its owner (R282). -/
def State.egrEvent (s : State) (eo b : Nat) : State := s.raise (egrPg eo) b (s.eoOwner eo)

/-- A flow entry's fields. -/
def flowFmt (w : Word) : Nat := fld w 28 3
def flowProt (w : Word) : Bool := bitOf w 27
def flowAlt (w : Word) : Bool := bitOf w 26
def maxPay (w2 : Word) : Nat := let m := fld w2 0 14; if m = 0 then 1200 else m

/-- Block and Ethernet port that a path names. -/
def pathPort (w : Word) : Nat × Nat := (fld w 16 6, fld w 8 3)

/-- Valid flows of the part, as output and slot. -/
def State.egrFlows (s : State) : List (Nat × Nat) :=
  (List.range 16).flatMap fun sl => (s.entIdxs (pEgr sl) 0 1 0 fun w => bitOf w 31).map fun i => (sl * 256 + i / 16, i % 16)

/-! ### Load of a port, R271 -/

/-- pgroup of ST 2110-20: bytes and pixels. -/
def Desc.pgroup (d : Desc) : Nat × Nat :=
  if d.sampling = 1 then (match d.depth with | 0 => (3, 1) | 1 => (15, 4) | _ => (9, 2))
  else match d.depth with | 0 => (4, 2) | 1 => (5, 2) | _ => (6, 2)

/-- Active width of a raster. -/
def Desc.width (d : Desc) : Nat := match rasterOf d.raster with | some r => r.width | none => 0

/-- pgroups and packets of an active line (R264). -/
def Desc.lineGroups (d : Desc) : Nat := d.width / d.pgroup.2
def Desc.linePackets (d : Desc) (maxpay : Nat) : Nat := max 1 (cdiv (d.lineGroups * d.pgroup.1) maxpay)

/-- Payload bits and packets per second of a flow, as a numerator and a denominator each. Ancillary and opaque flows are counted at
the RATE of their descriptor (log entry 47). -/
def Desc.flowLoad (d : Desc) (ptime maxpay : Nat) (l16 : Bool) : (Nat × Nat) × (Nat × Nat) :=
  let (fn, fd) := d.frameRate
  let n := max 1 ptime
  match d.kind with
  | 0 =>
    let lines := d.activeCount * fn
    ((lines * (d.lineGroups * d.pgroup.1 + 8 * d.linePackets maxpay) * 8, fd), (lines * d.linePackets maxpay, fd))
  | 1 => ((d.sampleRate * d.channels * (if l16 then 2 else 3) * 8, 1), (d.sampleRate, n))
  | 2 => ((d.sampleRate * d.channels * 8 * 8, 1), (d.sampleRate, n))
  | 4 => ((sdiRate d.sdiclass * 1000 + cdiv (sdiRate d.sdiclass * 1000) 11008 * 64, 1), (sdiRate d.sdiclass * 1000, 11008))
  | _ =>
    let bits := cdiv (d.rate * 345600000 * 72) 65536
    ((bits, 1), (cdiv bits (8 * maxpay), 1))

/-- Bytes of headers around an RTP payload on the wire, R271. -/
def wireHeaders (fmt : Nat) (pathW0 : Word) : Nat :=
  (if fmt = 7 then 0 else 12) + 8 + (if bitOf pathW0 30 then 40 else 20) + 38 + (if bitOf pathW0 29 then 4 else 0)

/-- Load of a flow on a port in bit/s, R271. -/
def State.flowBits (s : State) (eo slot : Nat) (pathW0 : Word) : Nat :=
  let f := s.egrFlow eo slot 0
  let ((bn, bd), (pn, pd)) := (s.outDesc eo).flowLoad (fld f 0 8) (maxPay (s.egrFlow eo slot 2)) (bitOf f 15)
  (bn * pd + pn * bd * wireHeaders (flowFmt f) pathW0 * 8) / (bd * pd)

/-- Load of a port: every valid path of a valid flow that names it counts (R271). -/
def State.portBits (s : State) (b p : Nat) (stream : Option Nat) : Nat :=
  (s.egrFlows.flatMap fun f => (List.range 2).map fun k =>
    let w := s.egrPath f.1 f.2 k 0
    if bitOf w 31 && pathPort w == (b, p) && stream.all (fun n => fld w 0 8 == n) then s.flowBits f.1 f.2 w else 0).sum

/-- The load that a port may take, R271: PACE_LIMIT percent of its rate less the share of Q0 and Q1. -/
def State.portLimit (s : State) (b p stream : Nat) : Nat :=
  let w := s.sched b p 0
  s.portRate b stream * fld w 0 8 / 100 - s.portRate b stream * fld w 8 8 / 1000

/-- Whether a port of a path is over its limit. -/
def State.paceFull (s : State) (w : Word) : Bool :=
  let (b, p) := pathPort w
  bitOf w 31 &&
    (if s.portType b = 1 then decide (s.portLimit b p (fld w 0 8) < s.portBits b p (some (fld w 0 8)))
     else decide (s.portLimit b p 0 < s.portBits b p none))

/-! ### Timing of FMT 0, R267 and R268 -/

/-- Fields of a frame: one, or two where the frame has two fields or segments. -/
def Desc.fields (d : Desc) : Nat := if d.scan = 0 then 1 else 2

/-- First active line of a field, and its number of lines. -/
def Desc.fieldLines (d : Desc) (f : Int) : Nat × Nat :=
  let (a, b) := activeLines d.raster d.scan
  if d.scan = 0 ∨ f % 2 = 0 then a else b

/-- Packets per field or frame. -/
def Desc.fieldPackets (d : Desc) (maxpay : Nat) (f : Int) : Nat := (d.fieldLines f).2 * d.linePackets maxpay

/-- TRS in ns, as a fraction (R267). -/
def Desc.trs (d : Desc) (pace maxpay : Nat) (f : Int) : Nat × Nat :=
  let (fn, fd) := d.frameRate
  let np := max 1 (d.fieldPackets maxpay f)
  if pace = 0 then (fd * 1000000000 * d.activeCount, fn * d.fields * np * max 1 d.total) else (fd * 1000000000, fn * d.fields * np)

/-- TROFF_LOW: TROFF < D + (A - 1) × T_line + TRS + 1 µs (R268). -/
def State.troffLow (s : State) (d : Desc) (pace maxpay troff : Nat) : Bool :=
  let (fn, fd) := d.frameRate
  let (tn, td) := d.trs pace maxpay 0
  let a := (d.fieldLines 0).1
  let bound : At := (At.mk 0 (s.padD d.tb + 1000 : Nat) 1).add ((a - 1) * fd * 1000000000 : Nat) (fn * max 1 d.total) |>.add tn td
  !bound.le ⟨0, troff, 1⟩

/-! ### Refusals, R272 and R281, R282 -/

/-- A refused write records its REASON and changes nothing else (R282). -/
def State.egrRefuse (s : State) (t : Tag) (sl reason idx : Nat) : Nat × State :=
  (3, s.setReason (pEgr sl) 0x040 (tagBank t) reason idx)
def State.egrAccept (s : State) (t : Tag) (sl : Nat) : Nat × State := (0, s.clearReason (pEgr sl) 0x040 (tagBank t))

/-- PLANE: the planes of a slot's paths break R272. -/
def State.planeBad (s : State) (flow path0 path1 : Word) : Bool :=
  let plane (w : Word) : Nat := s.planeOf (fld w 16 6) (fld w 8 3)
  let prot := flowProt flow
  let alt := flowAlt flow
  (bitOf path1 31 && !(prot != alt && bitOf path0 31 && plane path0 == 1 && plane path1 == 2)) ||
    ((prot || alt) && ((bitOf path0 31 && plane path0 == 0) || (bitOf path1 31 && plane path1 == 0)))

/-- The first check that a valid flow entry fails, or 0. The checks that look at the whole table look at `s`, which holds the new
entry. -/
def State.egrFlowReason (s : State) (eo slot : Nat) : Nat :=
  let w0 := s.egrFlow eo slot 0
  let w2 := s.egrFlow eo slot 2
  let d := s.outDesc eo
  let p0 := s.egrPath eo slot 0 0
  let p1 := s.egrPath eo slot 1 0
  let pay := fld w2 0 14
  let fmt := flowFmt w0
  if fld w0 24 2 = 3 ∨ ((fmt = 1 ∨ fmt = 2) ∧ (fld w0 0 8 = 0 ∨ 192 < fld w0 0 8)) ∨ (pay ≠ 0 ∧ (pay < 256 ∨ 8960 < pay)) then 2
  else if !d.valid then 3
  else if !(parseFits fmt d || (fmt == 5 && d.kind == 4)) then 4
  else if s.planeBad w0 p0 p1 then 5
  else if s.paceFull p0 || s.paceFull p1 then 7
  else if fmt = 0 ∧ d.kind = 0 ∧ s.troffLow d (fld w0 24 2) (maxPay w2) (s.egrFlow eo slot 3).toNat then 8
  else if fmt = 5 ∧ 2 < d.sdiclass then 11
  else 0

/-- A write of a flow entry. -/
def egrFlowWrite (t : Tag) (sl idx : Nat) (d : List Word) (s : State) : Nat × State :=
  let eo := sl * 256 + idx / 16
  let slot := idx % 16
  let e := [dat d 0 &&& 0xFF7F80FF, dat d 1, dat d 2 &&& 0x3FFF, dat d 3]
  let old := s.egrFlow eo slot 0
  let new := dat e 0
  let moved := (fld old 24 7 != fld new 24 7) || bitOf old 15 != bitOf new 15 || fld old 0 8 != fld new 0 8 ||
    s.egrFlow eo slot 2 != dat e 2 || s.egrFlow eo slot 3 != dat e 3
  if !tagOwns t (s.eoOwner eo) then (4, s)
  else if s.portInUse selOut eo && moved then s.egrRefuse t sl 1 idx
  else
    let s1 := s.setEntWords (pEgr sl) 0 1 idx 0 e
    let r := if bitOf new 31 then s1.egrFlowReason eo slot else 0
    if r ≠ 0 then s.egrRefuse t sl r idx else s1.egrAccept t sl

/-- The destination address of a path entry, and whether it is a multicast address. -/
def pathMulticast (d : List Word) : Bool := if bitOf (dat d 0) 30 then fld (dat d 8) 24 8 == 0xFF else fld (dat d 5) 28 4 == 0xE

/-- Whether a block exists for a path: its type, and the port in it. -/
def State.pathPortOk (s : State) (w : Word) : Bool :=
  let (b, p) := pathPort w
  if s.portType b = 1 then p == 0 else s.portType b == 2 && decide (p < portCount (s.econf b))

/-- Whether the flow's partition may send on a path's port (R281). -/
def State.pathAllowed (s : State) (part : Nat) (w : Word) : Bool :=
  let (b, p) := pathPort w
  s.pageOwner (pPort b) == part || bitOf (s.sched b p 1) part

/-- STREAM: an Epvozel path that names no packet stream of the group's active transmit bank. -/
def State.streamBad (s : State) (w : Word) : Bool :=
  let (b, _) := pathPort w
  let e := s.ent (pPort b) 0 (1 + s.rdF 0 (portA b 0x064) 16 1) (fld w 0 8) 0
  s.portType b == 1 && !(bitOf e 31 && fld e 28 3 == 1)

/-- A write of a path entry. -/
def egrPathWrite (t : Tag) (sl idx : Nat) (d : List Word) (s : State) : Nat × State :=
  let eo := sl * 256 + idx / 32
  let slot := idx / 2 % 16
  let e := [dat d 0 &&& 0xE03F07FF, dat d 1, dat d 2 &&& 0xFF3F7FFF, dat d 3, dat d 4 &&& 0xFFFF] ++
    (List.range 8).map fun i => dat d (5 + i)
  let w := dat e 0
  let s1 := s.setEntWords (pEgr sl) 0 2 idx 0 e
  let dmac0 := dat e 3 == 0 && dat e 4 == 0
  let r :=
    if !bitOf w 31 then (if s1.planeBad (s1.egrFlow eo slot 0) (s1.egrPath eo slot 0 0) (s1.egrPath eo slot 1 0) then 5 else 0)
    else if 47 < fld w 16 6 ∨ !s.pathPortOk w ∨ (dmac0 ∧ !pathMulticast e) then 2
    else if s1.planeBad (s1.egrFlow eo slot 0) (s1.egrPath eo slot 0 0) (s1.egrPath eo slot 1 0) then 5
    else if !s.pathAllowed (s.eoOwner eo) w then 6
    else if s1.paceFull w then 7
    else if s.streamBad w then 9
    else 0
  if !tagOwns t (s.eoOwner eo) then (4, s)
  else if r ≠ 0 then s.egrRefuse t sl r idx
  else s1.egrAccept t sl

/-- A write of a port configuration entry (R261, R263, R278). -/
def egrCfgWrite (t : Tag) (sl idx : Nat) (d : List Word) (s : State) : Nat × State :=
  let eo := sl * 256 + idx
  let w := dat d 0 &&& 0xFFFF3F0F
  let nch := fld w 8 6
  let base := fld w 16 16
  if !tagOwns t (s.eoOwner eo) then (4, s)
  else if 1 < fld w 0 2 ∨ 32 < nch ∨ (bitOf w 3 ∧ (nch = 0 ∨ 65536 < base + nch)) then s.egrRefuse t sl 2 idx
  else if bitOf w 3 && (blocksOf base nch).any fun b => s.ownOut b != s.eoOwner eo then s.egrRefuse t sl 10 idx
  else (s.setEnt (pEgr sl) 0 3 idx 0 w).egrAccept t sl

/-- A write of a port scheduler entry: P0 in EGR0 (R280). -/
def egrSchedWrite (t : Tag) (sl idx : Nat) (d : List Word) (s : State) : Nat × State :=
  let w := dat d 0 &&& 0x3FFFF
  if !tagIsP0 t then (4, s)
  else if sl ≠ 0 ∨ fld w 0 8 < 50 ∨ 98 < fld w 0 8 ∨ fld w 8 8 = 0 ∨ 100 < fld w 8 8 then s.egrRefuse t sl 2 idx
  else
    let s1 := (s.setEntWords (pEgr 0) 0 4 idx 0 [w, dat d 1 &&& 0xFFFF, dat d 2 &&& 0xFFFF]).setEntWords (pEgr 0) 0 4 idx 4
      [dat d 4, dat d 5 &&& 0xFFFF]
    (s1.inc 0 (regA (pEgr 0) 0x04C)).egrAccept t 0

/-- Entries of an EGR table, entries per output (0: the scheduler), and whether it is RO. -/
def egrTable (sel : Nat) : Option (Nat × Nat × Bool) :=
  match sel with
  | 1 => some (4096, 16, false)
  | 2 => some (8192, 32, false)
  | 3 => some (256, 1, false)
  | 4 => some (384, 0, false)
  | 5 => some (8192, 32, true)
  | 6 => some (256, 1, true)
  | _ => none

/-- Whether a slot has a source, or fills (R261). -/
def State.egrSends (s : State) (eo : Nat) : Bool := (pathAt s.fab.egr eo).isSome || fld (s.egrCfg eo) 0 2 == 1

/-- STATE of a port status entry: 0 idle, 1 sending, 2 some flow on path 1. -/
def State.egrState (s : State) (eo : Nat) : Nat :=
  let fs := s.egrFlows.filter fun f => f.1 == eo
  if fs.any fun f => flowAlt (s.egrFlow f.1 f.2 0) && (s.egrRec f.1 f.2).alt then 2
  else if !fs.isEmpty && s.egrSends eo then 1
  else 0

/-- Reads of the EGR tables. -/
def egrTableRead (t : Tag) (sl sel idx : Nat) (s : State) : Nat × List Word :=
  match egrTable sel with
  | none => (1, [])
  | some (n, per, _) =>
    if n ≤ idx then (2, [])
    else if sel = 4 then
      (0, (s.entWords (pEgr 0) 0 4 idx 6).set 3 (wd (s.portBits (idx / 8) (idx % 8) none / 1000000)))
    else if !tagOwns t (s.eoOwner (sl * 256 + idx / per)) then (4, [])
    else
      let ws := s.entWords (pEgr sl) 0 sel idx 15
      (0, if sel = 6 then ws.set 0 (wd (s.egrState (sl * 256 + idx))) else ws)

/-- Writes of the EGR tables. -/
def egrTableWrite (t : Tag) (sl sel idx : Nat) (d : List Word) (s : State) : Nat × State :=
  match egrTable sel with
  | none => (1, s)
  | some (n, per, ro) =>
    if n ≤ idx then (2, s)
    else if ro then (if !tagOwns t (s.eoOwner (sl * 256 + idx / per)) then (4, s) else s.egrRefuse t sl 2 idx)
    else
      match sel with
      | 1 => egrFlowWrite t sl idx d s
      | 2 => egrPathWrite t sl idx d s
      | 3 => egrCfgWrite t sl idx d s
      | _ => egrSchedWrite t sl idx d s

/-- A write of EGR.SNAP with bit 0 set: the partition's counters in the slice (R75, R280). -/
def State.egrSnap (s : State) (sl p : Nat) : State :=
  let s1 := forEach ((s.tblIdxs (pEgr sl) 0 5).filter fun i => s.eoOwner (sl * 256 + i / 32) == p)
    (fun i s => forEach [(0, 8), (1, 9), (2, 10), (3, 11), (4, 12), (5, 13), (6, 14)]
      (fun (e : Nat × Nat) s => s.snapEnt (pEgr sl) 0 5 i e.1 e.2) s) s
  forEach ((s1.tblIdxs (pEgr sl) 0 6).filter fun i => s1.eoOwner (sl * 256 + i) == p)
    (fun i s => (s.snapEnt (pEgr sl) 0 6 i 1 8).snapEnt (pEgr sl) 0 6 i 2 9) s1

end Sys2Proof.Machine
end

