-- ==== Sys2Proof/Machine/Egress.lean ====
section
/-!
DEFINITION. Machine/Egress.lean: the egress slices of spec/09_egress.md (R258 to R283): words that leave the fabric, colour
conversion, SDI streams, packet flows, and the move of ALT flows between planes.
-/
namespace Sys2Proof.Machine

/-! ### Timestamps, R266 -/

/-- Media clock of a descriptor in Hz. -/
def Desc.mediaClock (d : Desc) : Nat := if d.audio then d.sampleRate else 90000

/-- RTP timestamp of an instant. -/
def Desc.rtpAt (d : Desc) (a : At) : Nat := toBits 32 (ticksAt d.mediaClock a)

/-- The instant, without D, of the word that leaves in this beat: half a beat after the start of the beat in which it entered the
fabric, less D or, from a source in pass mode, less PASS_US (R163, R180). -/
def State.enteredAt (s : State) (d : Desc) (src : Option Nat) : At :=
  let a := (s.nowAt d.tb).add (-29375) 432
  match src with
  | some x =>
    if x < 4096 ∧ s.padState x = 3 then a.add (-(1000 * fld (s.ingCfg x 1) 16 16 : Nat)) 1 else a.add (-(s.padD d.tb : Int)) 1
  | none => a.add (-(s.padD d.tb : Int)) 1

/-! ### Epvozel SDI allotments of an output, R259 -/

/-- SDI entries of the active transmit banks that name an output: block and stream, rising. -/
def State.egrMaps (s : State) (eo : Nat) : List (Nat × Nat) :=
  (List.range 48).flatMap fun b =>
    if s.epvRuns b then
      let sel := 1 + s.rdF 0 (portA b 0x064) 16 1
      ((s.entIdxs (pPort b) 0 sel 0 fun w => bitOf w 31 && fld w 28 3 == 0).filter fun i =>
        s.entF (pPort b) 0 sel i 1 16 16 == eo).map fun i => (b, i)
    else []

/-- The entries that carry data: the first, and the first after it in a group on another plane (log entry 48). -/
def State.egrCarriers (s : State) (eo : Nat) : List (Nat × Nat) :=
  match s.egrMaps eo with
  | [] => []
  | e :: r => e :: ((r.find? fun f => s.planeOf f.1 0 != s.planeOf e.1 0).map fun f => [f]).getD []

/-- Add SDI words to what waits for the allotments of some blocks. -/
def EgrRec.addSdi (r : EgrRec) (blocks : List Nat) (ws : List SdiWord) : EgrRec :=
  { r with sdi := blocks.map fun b => (b, (((r.sdi.find? fun e => e.1 == b).map fun e => e.2).getD []) ++ ws) }

/-- Append SDI words of line u to the units that wait for a flow. -/
def EgrRec.addUnit (r : EgrRec) (u : Int) (ts : Nat) (sof : Bool) (fmt : List Word) (ws : List (BitVec 72)) : EgrRec :=
  match r.units.getLast? with
  | some l =>
    if l.unit = u then { r with units := r.units.dropLast ++ [{ l with words := l.words ++ ws }] }
    else { r with units := r.units ++ [⟨u, ts, sof, fmt, ws⟩] }
  | none => { r with units := [⟨u, ts, sof, fmt, ws⟩] }

/-! ### Words that leave the fabric -/

/-- Samples to embed in line u: of each channel, the output periods that start after the line before it and by its own start (R296). -/
def State.embedPeriods (s : State) (d : Desc) (base nch : Nat) (u : Int) : List (List (BitVec 24)) :=
  let g := s.gridOut base
  let b : Int := gridB g
  let k := (Tab.get (fun _ => none) s.aud.blk g).getD 0
  let last := s.periodBy g (s.shownAt d u)
  let first := s.periodBy g (s.shownAt d (u - 1)) + 1
  (List.range nch).map fun c =>
    let o := s.audOut (base + c)
    (List.range (last + 1 - first).toNat).map fun (i : Nat) =>
      let q := first + (i : Int) - k * b
      if 0 ≤ q then o.block.getD q.toNat 0 else o.prev.getD (q + b).toNat 0

/-- Whether embedding runs on an output: its channels' blocks at 48 kHz on the time base of the output descriptor (R296). -/
def State.embedOk (s : State) (eo : Nat) : Bool :=
  let w := s.egrCfg eo
  (blocksOf (fld w 16 16) (fld w 8 6)).all fun b => s.gridOut (b * 256) == gridOf (s.outDesc eo).tb 0

/-- The time from which SDI word i of n that leave now is there, in 1/512 beat, from a word with an arrival phase (R27, R277). -/
def Desc.sdiTime (d : Desc) (beat phase i : Nat) : Nat := beat * 512 + phase + i * d.lineBeats * 512 / max 1 d.sdiLine

/-- SDI words of the line in progress as they are sent: embedded, and with the line CRC recomputed after a line with missing words. -/
def State.sdiSend (s : State) (eo : Nat) (r : EgrRec) (u : Int) (ws : List Nat) : List Nat :=
  let d := s.outDesc eo
  let cfg := s.egrCfg eo
  let emb := bitOf cfg 3 && s.embedOk eo
  let smp := if emb then s.embedPeriods d (fld cfg 16 16) (fld cfg 8 6) u else []
  ws.zipIdx.map fun (w, i) =>
    let pos := r.line.length + i
    let w1 := if emb then (Config.embed d.w1 (d.lineOf u) pos smp w).toNat else w
    if r.gap then (Config.recrc d.w1 r.prev pos w1).toNat else w1

/-- Store SDI words of line u for the sinks of an output, the first with an arrival phase. -/
def State.sdiStore (s : State) (eo : Nat) (u : Int) (ts phase : Nat) (ws : List Nat) : State :=
  let r := s.egrRec eo 0
  let out := s.sdiSend eo r u ws
  let d := s.outDesc eo
  let timed := out.zipIdx.map fun (w, i) => ⟨d.sdiTime s.beat phase i, BitVec.ofNat 10 w⟩
  let r1 := { (r.addSdi ((s.egrCarriers eo).map fun e => e.1) timed) with line := r.line ++ ws }
  let f := s.egrFlow eo 0 0
  s.setEgr eo 0 (if bitOf f 31 then r1.addUnit u ts (d.lineOf u == 1) [d.w0, d.w1, d.w2] (out.map fun w => BitVec.ofNat 72 w) else r1)

/-- The words of the black generator from a place of line u to its end (R261, R262). -/
def State.blackWords (s : State) (eo : Nat) (u : Int) (pos : Nat) : List Nat :=
  let d := s.outDesc eo
  (List.range (d.sdiLine - pos)).map fun i => (Config.blackSdi d.w1 (d.lineOf u) (pos + i)).toNat

/-- The line in progress ends: missing words are replaced and counted, and EGR.GAP is raised at most once per frame (R262). -/
def State.sdiEnd (s : State) (eo : Nat) : State :=
  let r := s.egrRec eo 0
  match r.lineNo with
  | none => s
  | some u =>
    let d := s.outDesc eo
    let fill := s.blackWords eo u r.line.length
    let n := fill.length + r.lost
    let s1 := if fill.isEmpty then s else s.sdiStore eo u r.ts 0 fill
    let r1 := s1.egrRec eo 0
    let s2 := s1.setEgr eo 0 { r1 with prev := r1.line, gap := n != 0, line := [], lineNo := none, lost := 0 }
    if n = 0 then s2
    else
      let s3 := s2.setEnt (egrPg eo) 0 6 (eo % 256) 1 (wd (satAdd 32 (s2.ent (egrPg eo) 0 6 (eo % 256) 1).toNat n))
      if s3.framePassed d r1.gapAt then
        (s3.setEgr eo 0 { s3.egrRec eo 0 with gapAt := some s3.beat }).egrEvent eo 1
      else s3

/-- A whole black line of an SDI output that fills (R261). -/
def State.sdiBlack (s : State) (eo : Nat) (u : Int) : State :=
  let d := s.outDesc eo
  let s1 := s.sdiStore eo u (d.rtpAt (d.unitAt u)) 0 (s.blackWords eo u 0)
  let r := s1.egrRec eo 0
  s1.setEgr eo 0 { r with prev := r.line, gap := false, line := [], next := some (u + 1) }

/-- Black lines that an SDI output owes before line u (R261). -/
def State.sdiFill (s : State) (eo : Nat) (u : Int) : State :=
  if fld (s.egrCfg eo) 0 2 ≠ 1 then s
  else
    match (s.egrRec eo 0).next with
    | some v => forEach (List.range (min (u - v).toNat (2 * max 1 (s.outDesc eo).total))) (fun (i : Nat) s => s.sdiBlack eo (v + (i : Int))) s
    | none => s

/-- SDI words missing before one that leaves with an arrival phase, counted from the latest EAV at the rate of the class: none while the
word is less than half a fabric word, three SDI words, from its place (R27, R262; DESIGN CHOICE, log entry 180). -/
def State.sdiMissing (s : State) (eo phase : Nat) : Nat :=
  let d := s.outDesc eo
  let r := s.egrRec eo 0
  let place := (2 * (s.beat * 512 + phase - r.lineAt) * d.sdiLine + d.lineBeats * 512) / max 1 (2 * d.lineBeats * 512)
  if r.line.length + 3 ≤ place then min place d.sdiLine - r.line.length else 0

/-- Replace SDI words missing within a line by those of the black generator (R262). -/
def State.sdiPatch (s : State) (eo : Nat) (u : Int) (ts phase : Nat) : State :=
  let n := s.sdiMissing eo phase
  if n = 0 then s
  else
    let s1 := s.sdiStore eo u ts 0 ((s.blackWords eo u (s.egrRec eo 0).line.length).take n)
    s1.setEgr eo 0 { s1.egrRec eo 0 with lost := (s1.egrRec eo 0).lost + n }

/-- A word of an SDI bitstream leaves (R262, R277). -/
def State.egrSdi (s : State) (eo : Nat) (d : Desc) (u : Int) (ts : Nat) (w : FWord) : State :=
  let s1 :=
    if w.side.getLsbD 5 then
      let s1 := (s.sdiEnd eo).sdiFill eo u
      s1.setEgr eo 0 { s1.egrRec eo 0 with
        lineNo := some u, line := [], next := some (u + 1), ts := ts, lineAt := s.beat * 512 + w.data.toNat % 512, lost := 0 }
    else if (s.egrRec eo 0).lineNo.isSome then s.sdiPatch eo u ts (w.data.toNat % 512)
    else s
  let e := s1.egrCfg eo
  let s2 := if w.side.getLsbD 6 && bitOf e 3 && !s1.embedOk eo then s1.audEvent 3 (s1.eoOwner eo) else s1
  if d.kind = 4 ∧ (s2.egrRec eo 0).lineNo.isSome then s2.sdiStore eo u ts (w.data.toNat % 512) (sdiWords [w]) else s2

/-- Colour conversion of a word of an active line, R263. -/
def State.egrConvert (s : State) (eo : Nat) (d : Desc) (w : FWord) : BitVec 72 :=
  let o := s.outDesc eo
  let code (x : Desc) : Nat := x.colour * 2 + fld x.w1 14 1
  if d.kind = 0 && o.kind == 0 && code d != code o && bitOf (s.egrCfg eo) 2 && d.colour % 2 == o.colour % 2 &&
      (d.colour == o.colour || d.sampling == 1) then Config.convert (code d) (code o) d.sampling w.data
  else w.data

/-- COLOUR_MISMATCH at the start of a frame (R263). -/
def State.egrColour (s : State) (eo : Nat) (d : Desc) (w : FWord) : State :=
  let o := s.outDesc eo
  if w.side.getLsbD 6 && d.kind == 0 && o.kind == 0 && (d.colour != o.colour || fld d.w1 14 1 != fld o.w1 14 1) &&
      (!bitOf (s.egrCfg eo) 2 || d.colour % 2 != o.colour % 2) then
    (s.setEnt (egrPg eo) 0 6 (eo % 256) 2 (wd (satAdd 32 (s.ent (egrPg eo) 0 6 (eo % 256) 2).toNat 1))).egrEvent eo 4
  else s

/-- The bytes of an opaque unit (R28), and whether all of them have left. -/
def opaqueBytes (ws : List (BitVec 72)) : List Byte × Bool :=
  let bs := ws.flatMap fun w => (List.range 9).map fun i => BitVec.ofNat 8 (w.toNat / 2 ^ (64 - 8 * i))
  let n := match ws with
    | [] => 0
    | w :: _ => w.toNat / 2 ^ 56
  ((bs.drop 2).take n, decide (n + 2 ≤ bs.length))

/-- The ancillary packet of words from a header word on; none for the header word of a frame without packets (R26). -/
def ancOf (ws : List (BitVec 72)) : Option AncPacket :=
  match ws with
  | [] => none
  | h :: r =>
    let f (lo n : Nat) : Nat := h.toNat / 2 ^ lo % 2 ^ n
    let dc := f 11 10 % 256
    if h = 0 then none
    else
      some ⟨BitVec.ofNat 11 (f 61 11), BitVec.ofNat 12 (f 49 12), f 48 1 == 1, BitVec.ofNat 7 (f 41 7), BitVec.ofNat 10 (f 31 10),
        BitVec.ofNat 10 (f 21 10), BitVec.ofNat 10 (f 11 10),
        (r.flatMap fun w => (List.range 7).map fun i => BitVec.ofNat 10 (w.toNat / 2 ^ (62 - 10 * i))).take dc⟩

/-- Words of an ancillary packet from its header word on. -/
def ancWords (h : BitVec 72) : Nat := 1 + cdiv (h.toNat / 2 ^ 11 % 2 ^ 8) 7

/-- Bytes of an ancillary packet in an RFC 8331 payload (log entry 50). -/
def ancBytes (a : AncPacket) : Nat := 4 + 4 * cdiv (40 + 10 * a.udw.length) 32

/-- Bytes of the RFC 8331 payload of a frame's ancillary words. -/
def frameAncBytes : Nat → List (BitVec 72) → Nat
  | 0, _ => 8
  | _, [] => 8
  | fuel + 1, h :: r =>
    let n := ancWords h
    frameAncBytes fuel (r.drop (n - 1)) + ((ancOf (h :: r)).map ancBytes).getD 0

/-- The receive queue bound to an output: BIND 3 or 5 by the KIND of the slot, TARGET the output's number, running (R259). -/
def State.hostQueue (s : State) (eo kind : Nat) : Option Nat :=
  (List.range 64).find? fun q => s.qBind q true == kind && s.qTarget q true == eo && s.qState q true == 1

/-- A whole unit of n bytes goes to the receive queue of its slot: one buffer chain, SOP with the stamp on its first descriptor and EOP
on its last, SOURCE the slot. A unit that free descriptors cannot hold is dropped and counted in DISCARD of the slot's path 0 (R279;
log entry 153). -/
def State.hostUnit (s : State) (eo slot kind : Nat) (stamp : BitVec 96) (n : Nat) : State :=
  match s.hostQueue eo kind with
  | none => s
  | some q =>
    let (l, left) := fillDescs slot (some stamp) n true (s.qrec q true).flight
    if left = 0 then s.setQrec q true { s.qrec q true with flight := l }
    else
      let i := egrSlot eo slot * 2
      s.setEnt (egrPg eo) 0 5 i 5 (wd (satAdd 32 (s.ent (egrPg eo) 0 5 i 5).toNat 1))

/-- A word of an ancillary or opaque slot that feeds a receive queue (R279). An opaque unit is whole with its last byte, an ancillary
frame when the next frame's first word leaves (log entry 153). -/
def State.hostWord (s : State) (eo slot : Nat) (d : Desc) (w : FWord) : State :=
  if (d.kind ≠ 3 ∧ d.kind ≠ 5) ∨ (s.hostQueue eo d.kind).isNone then s
  else
    let r := s.egrRec eo slot
    let stamp := BitVec.ofInt 96 ((s.nowAt d.tb).num * 65536 / ((s.nowAt d.tb).den : Int))
    let starts := if d.kind = 5 then w.sol else w.side.getLsbD 6
    let s1 := match r.host with
      | some (t, ws) => if starts ∧ d.kind = 3 then s.hostUnit eo slot 3 t (frameAncBytes ws.length ws) else s
      | none => s
    let now := if starts then some (stamp, [w.data]) else r.host.map fun e => (e.1, e.2 ++ [w.data])
    match now with
    | some (t, ws) =>
      let (bs, whole) := opaqueBytes ws
      if d.kind = 5 ∧ whole then (s1.hostUnit eo slot 5 t bs.length).setEgr eo slot { s1.egrRec eo slot with host := none }
      else s1.setEgr eo slot { s1.egrRec eo slot with host := now }
    | none => s1

/-- Units that wait at a slot when a new unit begins: an opaque unit whose words have not all come will have no more (R39). -/
def keepWhole (kind : Nat) (l : List EgrUnit) : List EgrUnit :=
  match l.getLast? with
  | some u => if kind = 5 ∧ !(opaqueBytes u.words).2 then l.dropLast else l
  | none => l

/-- One word that leaves at an output slot. -/
def State.egrWord (s : State) (eo slot : Nat) (d : Desc) (src : Option Nat) (w : FWord) : State :=
  let a := s.enteredAt d src
  let u := d.unitBy a
  let pass := src.any fun x => decide (x < 4096) && s.padState x == 3
  let ts := if pass then d.rtpAt a
    else if d.kind = 0 then d.rtpAt (d.unitAt (d.firstOfFrame (d.frameOfUnit u))) else d.rtpAt (d.unitAt u)
  if d.kind = 4 then s.egrSdi eo d u ts w
  else
    let s1 := (s.egrColour eo d w).hostWord eo slot d w
    let r := s1.egrRec eo slot
    let sof := w.side.getLsbD 6
    let r0 := if sof || d.kind != 0 then { r with ts := ts } else r
    let data := s1.egrConvert eo d w
    let keep := bitOf (s1.egrFlow eo slot 0) 31 && !(d.kind == 0 && !d.active (d.lineOf u))
    if !keep then s1.setEgr eo slot r0
    else if w.sol then
      s1.setEgr eo slot { r0 with units := keepWhole d.kind r0.units ++ [⟨u, r0.ts, sof, [d.w0, d.w1, d.w2], [data]⟩] }
    else
      match r0.units.getLast? with
      | some l => s1.setEgr eo slot { r0 with units := r0.units.dropLast ++ [{ l with words := l.words ++ [data] }] }
      | none => s1.setEgr eo slot r0

/-- The words that leave at one output slot in a beat, formatted by the input descriptor of the route's source (R260). -/
def State.egrTake (s : State) (eo slot : Nat) (ws : List FWord) : State :=
  let src := (s.fab.leftBy eo).map fun p => p.src
  let d := match src with
    | some x => if (s.inDesc x slot).valid then s.inDesc x slot else s.outDesc eo
    | none => s.outDesc eo
  forEach ws (fun w s => s.egrWord eo slot d src w) s

/-- SDI outputs that fill: each line whose words have not begun to leave by its end is black (R261). -/
def State.egrIdle (s : State) : State :=
  forEach ((List.range 16).flatMap fun sl => (s.entIdxs (pEgr sl) 0 3 0 fun w => fld w 0 2 == 1).map fun i => sl * 256 + i)
    (fun eo s =>
      let d := s.outDesc eo
      if !d.valid || d.kind != 4 || s.tbMode d.tb == 0 then s
      else
        let u := d.unitBy (s.enteredAt d none)
        match (s.egrRec eo 0).next with
        | none => s.setEgr eo 0 { s.egrRec eo 0 with next := some u }
        | some v => if v < u then (s.sdiEnd eo).sdiFill eo u else s) s

/-- ALT flows on path 1: since when the path-0 port has been up (R275). -/
def State.altBeat (s : State) : State :=
  forEach ((s.egr.filter fun e => e.2.alt).map fun e => (e.1 / 16, e.1 % 16))
    (fun (f : Nat × Nat) s =>
      let w := s.egrPath f.1 f.2 0 0
      let r := s.egrRec f.1 f.2
      let up := bitOf w 31 && s.egrUp (fld w 16 6) (fld w 8 3)
      s.setEgr f.1 f.2 { r with back := r.back && up, upSince := if up then some (r.upSince.getD s.beat) else none }) s

/-- One beat of the egress slices. A word whose SLOT matches no valid descriptor is discarded, counted in EGR.CFG (R20; log entry 154). -/
def State.egressBeat (s : State) : State :=
  let here := s.fab.leaving.filter fun (y, w) => decide (y < 4096) && w.valid
  let ws := here.filterMap fun (y, w) => (s.wordSlot y w).map fun e => (e, y, w)
  let s := forEach ((here.filter fun (y, w) => (s.wordSlot y w).isNone).map fun e => e.1) (fun y s => s.raise (egrPg y) 6 0) s
  let slots := (ws.map fun e => e.1).eraseDups
  (forEach slots (fun (e : Nat × Nat) s =>
    let mine := (List.range (if (s.outDesc e.1).mode = 1 then (s.outDesc e.1).group else 1)).flatMap fun m =>
      (ws.filter fun f => f.1 == e && f.2.1 == e.1 + m).map fun f => f.2.2
    s.egrTake e.1 e.2 mine) s).egrIdle.altBeat

/-! ### SDI into Epvozel frames, R259 and R277 -/

/-- A number from 10-bit words, first word highest. -/
def packTen (ws : List Nat) : Nat := ws.foldl (fun n w => n * 1024 + w % 1024) 0

/-- n bits of SDI words from bit `off` on, padded with zeros. -/
def sdiBits (ws : List Nat) (off n : Nat) : Nat :=
  let mine := (ws.drop (off / 10)).take (n / 10 + 2)
  let have' := 10 * mine.length
  if off % 10 + n ≤ have' then packTen mine / 2 ^ (have' - (off % 10 + n)) % 2 ^ n
  else packTen mine % 2 ^ (have' - off % 10) * 2 ^ (off % 10 + n - have')

/-- The allotment of one SDI stream in a frame: head word and the SDI words that have come since the allotment before it, from bit 63
down (R125, R277). -/
def State.sdiAllot (s : State) (b : Nat) (st : Stream) : List Dword × State :=
  let eo := st.ep
  let r := s.egrRec eo 0
  let d := s.outDesc eo
  let ok := s.egrCarriers eo |>.contains (b, st.num)
  let fits := d.kind == 4 && d.sdiclass == st.cls
  let cap := (32 + 64 * (st.words - 1)) / 10
  let mine := if ok && fits then (((r.sdi.find? fun e => e.1 == b).map fun e => e.2).getD []) else []
  let now := (mine.takeWhile fun w => decide (w.t ≤ s.beat * 512)).take cap
  let bits := now.map fun w => w.w.toNat
  let seq := ((r.sdiSeq.find? fun e => e.1 == b * 256 + st.num).map fun e => e.2).getD 0
  let head := st.num * 2 ^ 56 + 10 * now.length * 2 ^ 38 + seq * 2 ^ 32 + sdiBits bits 0 32
  let s1 := s.setEgr eo 0 { r with
    sdi := if ok && fits then (r.sdi.map fun e => if e.1 = b then (b, e.2.drop now.length) else e) else r.sdi
    sdiSeq := (b * 256 + st.num, (seq + 1) % 64) :: r.sdiSeq.filter fun e => e.1 != b * 256 + st.num }
  (BitVec.ofNat 64 head :: (List.range (cdiv (10 * now.length - 32) 64)).map fun i => BitVec.ofNat 64 (sdiBits bits (32 + 64 * i) 64),
    if ok && fits then s1 else s1.egrEvent eo 5)

/-- The words of a stream that the placement drops are discarded (R277). -/
def State.sdiDrop (s : State) (b : Nat) (st : Stream) : State :=
  s.setEgr st.ep 0 { s.egrRec st.ep 0 with sdi := (s.egrRec st.ep 0).sdi.filter fun e => e.1 != b }

/-- The allotments of a group's streams in a frame, by stream. A dropped stream has none (R132). -/
def State.allotments (s : State) (b : Nat) : List Stream → List (Nat × List Dword) × State
  | [] => ([], s)
  | st :: r =>
    if (s.placedAt b 5 st.num).isNone then State.allotments (if st.packet then s else s.sdiDrop b st) b r
    else
      let (ws, s1) := if st.packet then s.packetAllot b st else s.sdiAllot b st
      let (l, s2) := State.allotments s1 b r
      ((st.num, ws) :: l, s2)

/-- EPV_FRAME_SEND: a frame boundary, and a frame on each lane. -/
def execEpvFrameSend (b : Fin 48) (s : State) : Host.Outcome State Fault Refusal :=
  .next (if !s.epvRuns b then s
    else
      let s1 := s.epvSend b
      let bank := s1.rdF 0 (portA b 0x064) 16 1
      let sts := (s1.streams b (1 + bank)).filter fun st => st.packet || decide (st.ep < 4096)
      let (l, s2) := s1.allotments b sts
      s2.epvEmit b l)

/-! ### Sending a packet, R265, R272 to R274 -/

/-- Whether a path can be used: valid, and its port up. -/
def State.pathUp (s : State) (eo slot k : Nat) : Bool :=
  let w := s.egrPath eo slot k 0
  bitOf w 31 && s.egrUp (fld w 16 6) (fld w 8 3)

/-- The path that an ALT flow is on: path 1 once it has been moved, while that port is up or path 0's is not. -/
def State.altPath (s : State) (eo slot : Nat) : Nat :=
  if (s.egrRec eo slot).alt ∧ (s.pathUp eo slot 1 ∨ !s.pathUp eo slot 0) then 1 else 0

/-- The paths that a packet goes on. -/
def State.flowPaths (s : State) (eo slot : Nat) : List Nat :=
  let f := s.egrFlow eo slot 0
  let l := if flowProt f then [0, 1] else if flowAlt f then [s.altPath eo slot] else [0, 1]
  l.filter fun k => bitOf (s.egrPath eo slot k 0) 31

/-- Add to a saturating flow counter. -/
def State.flowCount (s : State) (eo slot k w n : Nat) : State :=
  let i := egrSlot eo slot * 2 + k
  s.setEnt (egrPg eo) 0 5 i w (wd (satAdd 32 (s.ent (egrPg eo) 0 5 i w).toNat n))

/-- Discard packets of a path (R274). -/
def State.egrDiscard (s : State) (eo slot k n : Nat) : State :=
  if n = 0 then s else (s.flowCount eo slot k 5 n).egrEvent eo 3

/-- EtherType of the frames of a path (R264): that of the VLAN tag where VLAN_EN has one. -/
def pathEtype (w : Word) : Nat := if bitOf w 29 then 0x8100 else if bitOf w 30 then 0x86DD else 0x0800

/-- A packet of `bytes` RTP payload bytes is offered to Q2 of the ports of the flow's paths with one RTP header, in the order of its
ideal departure (R265, R270, R273); on a path whose port is down, or whose packet stream is dropped (R132), it is lost. -/
def State.sendPacket (s : State) (eo slot ts : Nat) (marker : Bool) (bytes : Nat) (depart : At) (body : Payload) : State :=
  let f := s.egrFlow eo slot 0
  let r := s.egrRec eo slot
  let s1 := forEach (s.flowPaths eo slot) (fun k s =>
    let w := s.egrPath eo slot k 0
    let b := fld w 16 6
    if s.pathUp eo slot k && s.wireUp b (fld w 8 3) (fld w 0 8) then
      let wire := bytes + wireHeaders (flowFmt f) w
      (s.txOffer b (fld w 8 3) (fld w 0 8) 2 ⟨pathEtype w, wire, wire - 38 - (if bitOf w 29 then 4 else 0), none, depart,
        .flow eo slot (wire - 38)
          ⟨b, fld w 8 3, fld w 0 8, k, fld f 16 7, r.seq, wd ts, s.egrFlow eo slot 1, marker, body⟩⟩).2
    else s.egrDiscard eo slot k 1) s
  s1.setEgr eo slot { s1.egrRec eo slot with seq := (r.seq + 1) % 2 ^ 32 }

/-! ### The next packet of a flow, R264 to R269 -/

/-- The descriptor that formats a waiting unit. -/
def EgrUnit.desc (u : EgrUnit) : Desc := ⟨dat u.fmt 0, dat u.fmt 1, dat u.fmt 2⟩

/-- Samples of the words of a line. -/
def lineSamples (ws : List (BitVec 72)) : List (BitVec 12) :=
  ws.flatMap fun w => (List.range 6).map fun i => BitVec.ofNat 12 (w.toNat / 2 ^ (60 - 12 * i))

/-- Start of a field. -/
def Desc.fieldAt (d : Desc) (f : Int) : At := ⟨d.tb, f * (d.frameRate.2 * 1000000000 : Nat), d.frameRate.1 * d.fields⟩

/-- depart(j) of a field (R267). -/
def Desc.departAt (d : Desc) (pace maxpay troff : Nat) (f : Int) (j : Nat) : At :=
  let (n, m) := d.trs pace maxpay f
  ((d.fieldAt f).add troff 1).add (j * n : Nat) m

/-- Line unit of packet j of a field, its row and its place in the line. -/
def Desc.packetLine (d : Desc) (maxpay : Nat) (f : Int) (j : Nat) : Int × Nat × Nat :=
  let n := d.linePackets maxpay
  let line := (d.fieldLines f).1 + j / n
  (f / (d.fields : Int) * (max 1 d.total : Nat) + ((line - 1 : Nat) : Int), j / n, j % n)

/-- The field and packet at which a waiting line starts. -/
def Desc.packetOf (d : Desc) (maxpay : Nat) (u : Int) : Int × Nat :=
  let line := d.lineOf u
  let k := u / ((max 1 d.total : Nat) : Int) * (d.fields : Int)
  let (a, n) := d.fieldLines k
  if a ≤ line ∧ line < a + n then (k, (line - a) * d.linePackets maxpay)
  else (k + 1, (line - (d.fieldLines (k + 1)).1) * d.linePackets maxpay)

/-- The pixels of piece i of n of a line: first pixel and number; whole pgroups, the last piece taking the remainder (R264). -/
def Desc.piece (d : Desc) (n i : Nat) : Nat × Nat :=
  let per := d.lineGroups / n
  let k := if i + 1 = n then d.lineGroups - (n - 1) * per else per
  (i * per * d.pgroup.2, k * d.pgroup.2)

/-- Black samples of a line. -/
def Desc.blackLine (d : Desc) : List (BitVec 12) := (List.range d.lineFields).map d.blackSample

/-- The next packet of an FMT 0 raster flow: the line that waits, or black where the output fills (R261, R267). -/
def State.departRaster (s : State) (eo slot : Nat) (d : Desc) : State :=
  let w0 := s.egrFlow eo slot 0
  let maxpay := maxPay (s.egrFlow eo slot 2)
  let troff := (s.egrFlow eo slot 3).toNat
  let pace := fld w0 24 2
  let fill := fld (s.egrCfg eo) 0 2 == 1
  let r := s.egrRec eo slot
  let first := r.units.head?.map fun u => d.packetOf maxpay u.unit
  let lineAt (p : Int × Nat) : Option EgrUnit := r.units.find? fun u => u.unit == (d.packetLine maxpay p.1 p.2).1
  let start : Option (Int × Nat) := match r.next with
    | some f => if fill || (lineAt (f, r.sent)).isSome then some (f, r.sent) else first
    | none =>
      match first with
      | some p => some p
      | none =>
        let now := (s.nowAt d.tb).add (-(troff : Int)) 1
        if fill then some (now.num * ((d.frameRate.1 * d.fields : Nat) : Int) / ((now.den * d.frameRate.2 * 1000000000 : Nat) : Int), 0)
        else none
  match start with
  | none => s
  | some (f, j) =>
    let at' := d.departAt pace maxpay troff f j
    let (u, row, i) := d.packetLine maxpay f j
    let data : Option (Nat × List (BitVec 12)) := match lineAt (f, j) with
      | some l => if l.words.length < d.wpl then none else some (l.ts, lineSamples l.words)
      | none => if fill then some (d.rtpAt (d.fieldAt (f / (d.fields : Int) * (d.fields : Int))), d.blackLine) else none
    match data with
    | none => s
    | some (ts, smp) =>
      if !s.reached at' then s
      else
        let n := d.linePackets maxpay
        let (off, len) := d.piece n i
        let per := if d.sampling = 1 then 3 else 2
        let last := decide (d.fieldPackets maxpay f ≤ j + 1)
        let body := Payload.raster [⟨d.fields == 2 && f % 2 == 1, row, off,
          ((smp.drop (off * per)).take (len * per)).map (unjustify d.sampleBits)⟩]
        let s1 := s.sendPacket eo slot ts last (len / d.pgroup.2 * d.pgroup.1 + 8) at' body
        let s2 := if s1.reached (at'.add 1000001 1000) then
            forEach (s1.flowPaths eo slot) (fun k s => (s.flowCount eo slot k 4 1).egrEvent eo 2) s1
          else s1
        let r1 := s2.egrRec eo slot
        s2.setEgr eo slot { r1 with
          next := some (if last then f + 1 else f)
          sent := if last then 0 else j + 1
          units := r1.units.filter fun x => decide (u < x.unit) || (x.unit == u && i + 1 != n) }

/-- PCM samples of a period's words, and AES3 subframe pairs. -/
def unpackPcm (c : Nat) (ws : List (BitVec 72)) : List (BitVec 24) :=
  (ws.flatMap fun w => [BitVec.ofNat 24 (w.toNat / 2 ^ 48), BitVec.ofNat 24 (w.toNat / 2 ^ 24), BitVec.ofNat 24 w.toNat]).take c
def unpackAes (ws : List (BitVec 72)) : List (Word × Word) := ws.map fun w => (wd (w.toNat / 2 ^ 40), wd (w.toNat / 2 ^ 8))

/-- The next packet of a PCM or AES3 flow: PTIME periods from the next on; a period that has not come by the end of the packet is
idle (R261, R264; log entry 49). -/
def State.departAudio (s : State) (eo slot : Nat) (d : Desc) : State :=
  let w0 := s.egrFlow eo slot 0
  let n := max 1 (fld w0 0 8)
  let fill := fld (s.egrCfg eo) 0 2 == 1
  let r := s.egrRec eo slot
  let first := r.units.head?.map fun u => u.unit
  let start : Option Int := match r.next, first with
    | some q, some h => some (if fill then q else max q h)
    | some q, none => if fill then some q else none
    | none, some h => some h
    | none, none => if fill then some (d.unitBy (s.enteredAt d none) - (n : Int) + 1) else none
  match start with
  | none => s
  | some q =>
    let e := q + (n : Int) - 1
    let ready := r.units.any (fun u => decide (e < u.unit) || (u.unit == e && decide (d.periodWords ≤ u.words.length))) ||
      (fill && s.reached ((s.shownAt d e).add 70 1))
    if !ready then s
    else
      let unitAt' (i : Nat) : Option EgrUnit := r.units.find? fun u => u.unit == q + (i : Int)
      let ts := match unitAt' 0 with
        | some u => u.ts
        | none => d.rtpAt (d.unitAt q)
      let body :=
        if d.kind = 1 then
          Payload.pcm (if bitOf w0 15 then 16 else 24) ((List.range n).map fun i =>
            let v := match unitAt' i with
              | some u => unpackPcm d.channels u.words
              | none => List.replicate d.channels 0
            v.map (unjustify (if bitOf w0 15 then 16 else 24)))
        else
          Payload.aes3 ((List.range n).map fun i => match unitAt' i with
            | some u => unpackAes u.words
            | none => (List.range d.channels).map (Config.idleAes (q + (i : Int))))
      let bytes := n * d.channels * (if d.kind = 2 then 8 else if bitOf w0 15 then 2 else 3)
      let s1 := s.sendPacket eo slot ts false bytes (s.nowAt d.tb) body
      let r1 := s1.egrRec eo slot
      s1.setEgr eo slot { r1 with next := some (e + 1), units := r1.units.filter fun u => decide (e < u.unit) }

/-- The units of a frame that fill one RTP payload: as many as fit in MAXPAY, at least one, none beyond the next SOF. -/
def ancRun (maxpay : Nat) : Nat → Bool → List EgrUnit → Nat
  | _, _, [] => 0
  | used, started, u :: r =>
    let n := match ancOf u.words with
      | some a => ancBytes a
      | none => 0
    if started && (u.sof || decide (maxpay < used + n)) then 0 else 1 + ancRun maxpay (used + n) true r

/-- Whether all words of an ancillary unit have left. -/
def ancWhole (ws : List (BitVec 72)) : Bool :=
  match ws with
  | [] => false
  | h :: _ => decide (ancWords h ≤ ws.length)

/-- The next packet of an ST 2110-40 flow (R264): it is complete when a unit waits that it cannot take; with none behind it, whether the
frame goes on is not known to the model, and it goes out as the frame's last or waits (log entry 51). -/
def State.departAnc (s : State) (eo slot : Nat) : State :=
  let r := s.egrRec eo slot
  match r.units with
  | [] => s
  | u :: _ =>
    let n := ancRun (maxPay (s.egrFlow eo slot 2)) 8 false r.units
    let rest := r.units.drop n
    let (ready, marker, s0) := match rest with
      | v :: _ => (true, v.sof, s)
      | [] => let (last, s1) := s.fresh 1; (last == 1, true, s1)
    if !ready || !(r.units.take n).all fun v => ancWhole v.words then s0
    else
      let ps := (r.units.take n).filterMap fun u => ancOf u.words
      let s1 := s0.sendPacket eo slot u.ts marker ((ps.map ancBytes).sum + 8) (s0.nowAt u.desc.tb) (.anc ps)
      s1.setEgr eo slot { s1.egrRec eo slot with units := rest }

/-- The next packet of a flow of opaque units: marker on the last unit before the next SOF; with no unit waiting behind it, whether
it is the last is not known to the model (log entry 51). -/
def State.departOpaque (s : State) (eo slot : Nat) : State :=
  let r := s.egrRec eo slot
  match r.units with
  | [] => s
  | u :: rest =>
    let (bs, whole) := opaqueBytes u.words
    if !whole then s
    else
      let (marker, s1) := match rest with
        | v :: _ => (v.sof, s)
        | [] => let (n, s1) := s.fresh 1; (n == 1, s1)
      let s2 := s1.sendPacket eo slot u.ts marker bs.length (s1.nowAt u.desc.tb) (.opaque bs)
      s2.setEgr eo slot { s2.egrRec eo slot with units := rest }

/-- The next packet of a ST 2022-6 flow: 1376 bytes of the SDI words of a frame, the last padded with zeros (R264). -/
def State.departSdi (s : State) (eo slot : Nat) : State :=
  let r := s.egrRec eo slot
  match r.units with
  | [] => s
  | u :: rest =>
    let frame := u :: rest.takeWhile fun v => !v.sof
    let later := rest.dropWhile fun v => !v.sof
    let ws := frame.flatMap fun v => v.words.map fun x => x.toNat
    let bits := 10 * ws.length
    let off := 11008 * r.sent
    let last := !later.isEmpty && decide (bits ≤ off + 11008)
    if bits < off + 11008 ∧ !last then s
    else
      let at' := (frame.foldl (fun (acc : Nat × Nat) v => if acc.2 ≤ off then (v.ts, acc.2 + 10 * v.words.length) else acc) (u.ts, 0)).1
      let s1 := s.sendPacket eo slot at' last 1376 (s.nowAt u.desc.tb) (.opaque (beBytes 1376 (sdiBits ws off 11008)))
      let r1 := s1.egrRec eo slot
      s1.setEgr eo slot { r1 with sent := if last then 0 else r.sent + 1, units := if last then later else r1.units }

/-- Whether the next packet of a slot starts a frame, or is one of audio (R275). -/
def EgrRec.atBoundary (r : EgrRec) (d : Desc) : Bool :=
  match d.kind with
  | 0 => r.sent == 0 && r.next.all fun f => f % (d.fields : Int) == 0
  | 4 => r.sent == 0
  | 3 => r.units.head?.all fun u => u.sof
  | 5 => r.units.head?.all fun u => u.sof
  | _ => true

/-- A flow that is to return to path 0 does so at its boundary (R275). -/
def State.flowReturn (s : State) (eo slot : Nat) (d : Desc) : State :=
  let r := s.egrRec eo slot
  if r.back && r.atBoundary d then s.setEgr eo slot { r with alt := false, back := false, upSince := none } else s

/-- PACKET_DEPART: the next packet of an output slot's flow is offered to its port (R264 to R269). -/
def execPacketDepart (eo : Fin 4096) (slot : Fin 16) (s : State) : Host.Outcome State Fault Refusal :=
  let d := match (s.egrRec eo slot).units with
    | u :: _ => u.desc
    | [] => s.outDesc eo
  .next (if !bitOf (s.egrFlow eo slot 0) 31 || !d.valid then s
    else
      let s := s.flowReturn eo slot d
      match d.kind with
      | 0 => s.departRaster eo slot d
      | 3 => s.departAnc eo slot
      | 4 => s.departSdi eo slot
      | 5 => s.departOpaque eo slot
      | _ => s.departAudio eo slot d)

/-! ### Failover and return, R274 to R276 -/

/-- ALT flows, with the path that names a port. -/
def State.altFlows (s : State) (b p : Nat) : List (Nat × Nat) :=
  s.egrFlows.filter fun f => flowAlt (s.egrFlow f.1 f.2 0)
    && (let w := s.egrPath f.1 f.2 0 0; bitOf w 31 && pathPort w == (b, p))

/-- A packet that Q2 held for a port that has gone down is discarded, and counted in DISCARD of its path (R274). -/
def State.discardFrame (s : State) (f : TxFrame) : State :=
  match f.what with
  | .flow eo slot _ k => s.egrDiscard eo slot k.path 1
  | _ => s

/-- EGRESS_FAILOVER: a port that is down moves its ALT flows to path 1 and discards what its Q2 holds; EGR.FAILOVER rises once for each
slice and partition concerned. `remote` says that remote-fault signalling has been received. -/
def execEgressFailover (b : Fin 48) (p : Fin 8) (remote : Bool) (s : State) : Host.Outcome State Fault Refusal :=
  let key := b.val * 8 + p.val
  let s0 := if remote && !s.remote.contains key then { s with remote := s.remote ++ [key] } else s
  .next (if s0.egrUp b p then s0
    else
      let moved := (s0.altFlows b p).filter fun f => !(s0.egrRec f.1 f.2).alt && s0.pathUp f.1 f.2 1
      let s1 := forEach moved (fun (f : Nat × Nat) s =>
        (s.setEgr f.1 f.2 { s.egrRec f.1 f.2 with alt := true, back := false, upSince := none }).flowCount f.1 f.2 0 6 1) s0
      let s2 := forEach ((moved.map fun f => (f.1 / 256, s1.eoOwner f.1)).eraseDups)
        (fun (e : Nat × Nat) s => s.raise (pEgr e.1) 0 e.2) s1
      let (l, s3) := s2.takeQ2 b p
      forEach l (fun f s => s.discardFrame f) s3)

/-- REVERT_MS of a port in beats: 0 is treated as 1. -/
def State.revertBeats (s : State) (b p : Nat) : Nat := max 1 (fld (s.sched b p 2) 0 16) * 345600

/-- EGRESS_REVERT: remote-fault signalling is over, and the flows whose path-0 port has been up for REVERT_MS return to path 0 at their
next frame or packet boundary (R275; log entry 181). -/
def execEgressRevert (b : Fin 48) (p : Fin 8) (s : State) : Host.Outcome State Fault Refusal :=
  let s0 := { s with remote := s.remote.filter fun r => r != b.val * 8 + p.val }
  .next (if !bitOf (s0.sched b p 0) 17 || !s0.egrUp b p then s0
    else
      forEach ((s0.altFlows b p).filter fun f => (s0.egrRec f.1 f.2).alt &&
          (s0.egrRec f.1 f.2).upSince.any fun u => decide (u + s0.revertBeats b p ≤ s0.beat))
        (fun (f : Nat × Nat) s => s.setEgr f.1 f.2 { s.egrRec f.1 f.2 with back := true }) s0)

end Sys2Proof.Machine
end

