-- ==== Sys2Proof/Machine/Gbus.lean ====
section
/-!
DEFINITION. Machine/Gbus.lean: the Garpen MAC of spec/14_garpen_bus.md (R403 to R420): beacons, registration, transmission, receive
queues, pause and low-power idle.
-/
namespace Sys2Proof.Machine

/-! ### Registers -/

def gA (off : Nat) : Nat := regA pGbus off
def State.gCfg (s : State) : Word := s.rd 0 (gA 0x040)
def State.gEn (s : State) : Bool := bitOf s.gCfg 0
def State.gStatic (s : State) : Bool := bitOf s.gCfg 3
def State.gState (s : State) : Nat := s.rdF 0 (gA 0x044) 0 3
def State.gNode (s : State) : Nat := s.rdF 0 (gA 0x044) 8 6
def State.setG (s : State) (g : GbusSt) : State := { s with gbus := g }
def State.setGState (s : State) (v : Nat) : State := s.wrF 0 (gA 0x044) 0 3 v
def State.gEvent (s : State) (b : Nat) : State := s.raiseOwned pGbus b

/-- PAUSE_WD.LIMIT_US, BEACON_MISS and JOIN_WARN with their defaults (R419). -/
def State.limitUs (s : State) : Nat := let v := s.rdF 0 (gA 0x04C) 0 16; if v = 0 then 2000 else v
def State.beaconMiss (s : State) : Nat := let v := fld s.gCfg 16 4; if v = 0 then 8 else v
def State.joinWarn (s : State) : Nat := let v := fld s.gCfg 24 4; if v = 0 then 16 else v

/-- Beats in a number of µs, rounded up. -/
def usBeats (us : Nat) : Nat := cdiv (us * 3456) 10

/-- Whether the MAC runs: EN = 1 and no power state in which it stops (R418, R494). -/
def State.gRuns (s : State) : Bool := s.gEn && decide (s.rdF 0 (regA pPwr 0x048) 0 3 < 2)

/-- STATUS.PAUSED: a hold is in force. -/
def State.gSync (s : State) : State := s.wrF 0 (gA 0x044) 16 1 (if s.gbus.holds.isEmpty then 0 else 1)

/-- A control frame of the part waits to be sent. -/
def State.gSend (s : State) (type arg : Nat) : State := s.setG { s.gbus with ctl := s.gbus.ctl ++ [(type, arg)] }

/-- The slot map of the latest good beacon. -/
def State.gMap (s : State) (slot : Nat) : Nat := s.entF pGbus 0 1 slot 0 0 8

/-! ### Beacons and registration, R406 to R408 -/

/-- Whether a beacon holds only map bytes that R406 allows. -/
def goodBeacon (b : Beacon) : Bool :=
  decide (b.map.length = 240) && b.map.all fun m => decide (m.toNat ≤ 0x40 ∨ m.toNat = 0xFF)

/-- The MAC becomes REGISTERED with a node number. -/
def State.gRegister (s : State) (node : Nat) : State := (s.wrF 0 (gA 0x044) 8 6 node).setGState 3

/-- The MAC joins, or takes its static node, at a good beacon (R407, R408). -/
def State.gJoin (s : State) : State :=
  if s.gStatic then s.gRegister (fld s.gCfg 8 6)
  else (s.setGState 2).setG { s.gbus with tries := 0, wait := 0, asked := false }

/-- A cycle begins: its slots are free again, and a backoff counts down (R408). -/
def State.gCycle (s : State) : State :=
  s.setG { s.gbus with next := 0, isOpen := true, cycleAt := s.beat, wait := s.gbus.wait - 1 }

/-- A missing or bad beacon, R407. -/
def State.gMissing (s : State) : State :=
  if !s.gRuns || s.gbus.stopped || !(s.gState == 2 || s.gState == 3 || s.gState == 6) then s
  else
    let n := s.gbus.missed + 1
    let s1 := (s.inc 0 (gA 0x07C)).gCycle
    let s2 := s1.setG { s1.gbus with missed := n }
    if s.beaconMiss ≤ n then ((s2.setG { s2.gbus with isOpen := false }).setGState 4).gEvent 1 else s2

/-- BEACON: a good beacon; one that holds a reserved map byte is treated as bad. -/
def execBeacon (b : Beacon) (s : State) : Host.Outcome State Fault Refusal :=
  .next (if !s.gRuns then s
    else if !goodBeacon b then s.gMissing
    else
      let s1 := (((s.wrF 0 (gA 0x044) 24 8 b.epoch.toNat).wr 0 (gA 0x05C) (wd b.cycle.toNat)).wr 0 (gA 0x058) (wd b.wakeUs.toNat))
      let s2 := forEach b.map.zipIdx (fun e s => s.setEnt pGbus 0 1 e.2 0 (wd e.1.toNat)) s1
      let s3 := s2.setG { s2.gbus with missed := 0, stopped := false }
      let s4 := match s3.gState with
        | 1 => s3.gCycle.gJoin
        | 4 => s3.gCycle.gJoin
        | 5 => (s3.setGState s3.gbus.resume).gCycle
        | _ => s3.gCycle
      if b.lpi then (s4.setG { s4.gbus with resume := s4.gState, lpiAsked := false }).setGState 5 else s4)

/-- BEACON_MISSING: no beacon at its expected time, or its CRC failed (R407). -/
def execBeaconMissing (s : State) : Host.Outcome State Fault Refusal := .next s.gMissing

/-- JOIN_ACK: an acknowledgement with a UID and a node number, 0xFF to reject (R408). -/
def execJoinAck (uid : BitVec 48) (node : BitVec 8) (s : State) : Host.Outcome State Fault Refusal :=
  .next (if !s.gRuns || s.gState != 2 || !s.gbus.asked || uid != Config.gbusUid then s
    else
      let s1 := s.setG { s.gbus with asked := false, tries := 0 }
      if node.toNat = 0xFF then (s1.setGState 6).gEvent 6
      else if node.toNat < 64 then s1.gRegister node.toNat
      else s)

/-- JOIN_TIMEOUT: no acknowledgement within 4 cycles. The backoff is a number of cycles that the spec leaves to chance (R408). -/
def execJoinTimeout (s : State) : Host.Outcome State Fault Refusal :=
  .next (if !s.gRuns || s.gState != 2 || !s.gbus.asked then s
    else
      let a := s.gbus.tries + 1
      let s1 := if a = s.joinWarn then s.gEvent 0 else s
      let (r, s2) := s1.fresh (min a 6)
      s2.setG { s2.gbus with tries := a, wait := r, asked := false })

/-- REJECT_WAIT_EXPIRE: 8000 cycles in REJECTED have passed. -/
def execRejectWaitExpire (s : State) : Host.Outcome State Fault Refusal :=
  .next (if s.gRuns ∧ s.gState = 6 then (s.setGState 2).setG { s.gbus with tries := 0, wait := 0, asked := false } else s)

/-! ### Queues, R413, R414 and R416 -/

/-- Queue pairs that the MAC serves in a direction: BIND 4, enabled, owned by the page's owner. -/
def State.gQueues (s : State) (rx : Bool) : List Nat :=
  idxs 64 fun q => s.qState q rx == 1 && s.qBind q rx == 4 && s.partOwner 7 q == s.pageOwner pGbus

/-- The receive queue that serves DATA frames. -/
def State.gRxQueue (s : State) : Option Nat := (s.gQueues true).head?

/-- Free descriptors of a receive queue: those in its ring, less those filled. -/
def State.freeDescs (s : State) (q : Nat) : Nat :=
  let size := s.ringSize q true
  (s.rdF 0 (qA q true + 0x0C) 0 12 + size - s.rdF 0 (qA q true + 0x10) 0 12 % size) % size -
    ((s.qrec q true).flight.filter fun f => f.fin.isSome).length

/-- The part's own pause, R416: a PAUSE while the serving queue is short, a RESUME when it is not. -/
def State.autoPause (s : State) : State :=
  match s.gRxQueue with
  | none => s
  | some q =>
    let low := decide (s.freeDescs q < s.rdF 0 (gA 0x050) 0 12)
    let pausing := bitOf (s.rd 0 (gA 0x044)) 17
    if !s.gRuns then s
    else if low && bitOf s.gCfg 2 && !pausing && !s.gbus.barred then (s.gSend 4 0).wrF 0 (gA 0x044) 17 1 1
    else if !low && (pausing || s.gbus.barred) then
      let s1 := (s.gSend 5 0).wrF 0 (gA 0x044) 17 1 0
      s1.setG { s1.gbus with barred := false }
    else s

/-- AUTO_PAUSE_LIMIT: the part's own pause has lasted LIMIT_US. -/
def execAutoPauseLimit (s : State) : Host.Outcome State Fault Refusal :=
  .next (if bitOf (s.rd 0 (gA 0x044)) 17 then
      let s1 := (s.gSend 5 0).wrF 0 (gA 0x044) 17 1 0
      s1.setG { s1.gbus with barred := true }
    else s)

/-- A byte of a transmit buffer's first 8, in the order of R405 from TYPE on. -/
def hdrByte (h : BitVec 128) (i : Nat) : Nat := h.toNat / 2 ^ (8 * i) % 256

/-- What the MAC makes of a transmit descriptor when it gets it (R414): DROP for another partition's queue or with EN = 0, POLICED for
a frame that breaks the rule, LATE for a launch time that has passed. -/
def State.gFetch (s : State) (q : Nat) (d : BitVec 256) (hdr : BitVec 128) : Option Done :=
  let w := descWord d 2
  let len := fld w 0 16
  let fail (st : Nat) : Option Done := some ⟨st, 0, 0, false, false, none⟩
  if s.partOwner 7 q ≠ s.pageOwner pGbus ∨ !s.gEn then fail 3
  else if !bitOf w 24 || !bitOf w 25 || hdrByte hdr 0 != 1 || !(decide (hdrByte hdr 1 < 64) || hdrByte hdr 1 == 255) ||
      decide (len < 8 ∨ 1012 < len ∨ hdrByte hdr 4 * 256 + hdrByte hdr 5 ≠ len - 8) then fail 6
  else if bitOf w 28 && decide (0 < linDiff (s.linear (fld (s.qCfg q false) 13 3)) (pairOf (descWord d 4) (descWord d 5))) then fail 2
  else none

/-- DESCRIPTOR_FETCH: a descriptor and, for a transmit queue, the first 16 bytes of its buffer; the Garpen MAC (R414) and the audio
crosspoint (R295) may turn it away. -/
def execDescriptorFetch (q : Fin 64) (rx : Bool) (d : BitVec 256) (hdr : BitVec 128) (s : State) : Host.Outcome State Fault Refusal :=
  let audio := s.qBind q rx == 2
  let fin : Option Done :=
    if audio then s.playFetch q rx d
    else if s.qBind q rx ≠ 4 then none
    else if rx then (if s.partOwner 7 q = s.pageOwner pGbus then none else some ⟨3, 0, 0, false, false, none⟩)
    else s.gFetch q d hdr
  .next (let s1 := s.fetchDesc q rx d hdr (if audio && !rx then some (s.playAt q d) else none) fin
    if rx then s1 else s1.giveQueue q)

/-- Q_TAIL_WRITE. -/
def execQTailWrite (t : Tag) (q : Fin 64) (rx : Bool) (tail : BitVec 12) (s : State) :
    Host.Outcome State Fault Refusal :=
  .next (hostWrite t (qA q rx + 0x0C) (wd tail.toNat) (fun s => (writeQTail q rx (wd tail.toNat) s).autoPause) s)

/-! ### Transmission, R410 to R412 -/

/-- Whether the part owns a slot in this cycle. -/
def State.gOwns (s : State) (slot : Nat) : Bool := decide (slot < 240) && s.gMap slot == s.gNode

/-- Slots of the run from a slot on, and the first slot of its run. -/
def State.gRunLeft (s : State) (slot : Nat) : Nat := ((List.range 240).drop slot |>.takeWhile fun k => s.gOwns k).length
def State.gRunStart (s : State) (slot : Nat) : Nat := slot - ((List.range slot).reverse.takeWhile fun k => s.gOwns k).length

/-- The longest run of the map. -/
def State.gLongest (s : State) : Nat := (List.range 240).foldl (fun m k => max m (s.gRunLeft k)) 0

/-- Slots of a frame, R405. -/
def frameSlots (len : Nat) : Nat := cdiv (len + 20) 64

/-- Whether the run of a slot starts at or after a descriptor's LAUNCH_TIME (R414). -/
def State.gLaunched (s : State) (q slot : Nat) (f : Flight) : Bool :=
  let l := s.linear (fld (s.qCfg q false) 13 3)
  let start := l + 2 ^ 64 - (slot - s.gRunStart slot) * 512 * 65536
  !bitOf (descWord f.desc 2) 28 || decide (0 ≤ linDiff start (pairOf (descWord f.desc 4) (descWord f.desc 5)))

/-- Give a descriptor of a queue its outcome: the first that has none. One that breaks R69 is not processed, nor is what follows it. -/
def setFin (fin : Done) : List Flight → List Flight
  | [] => []
  | f :: r => if f.bad then f :: r else if f.fin.isNone then { f with fin := some fin } :: r else f :: setFin fin r

/-- The first descriptor of a queue that its endpoint is not done with. -/
def headOf (l : List Flight) : Option Flight := (l.takeWhile fun f => !f.bad).find? fun f => f.fin.isNone

/-- Give the waiting descriptor of a queue its outcome. -/
def State.gFinish (s : State) (q : Nat) (rx : Bool) (fin : Done) : State :=
  s.setQrec q rx { s.qrec q rx with flight := setFin fin (s.qrec q rx).flight }

/-- The host frames that wait: for each served queue the head of its ring, in ascending order. -/
def State.gHeads (s : State) (slot : Nat) : List (Nat × Flight) :=
  (s.gQueues false).filterMap fun q =>
    match headOf (s.qrec q false).flight with
    | some f => if s.gLaunched q slot f then some (q, f) else none
    | none => none

/-- A frame of the part goes out: TYPE, DST, SRC, SEQ and LEN of its header (FLAGS 0), the payload of a control frame, TX_FRAMES, the
slots it fills, and a mismatch on the line (R405, R412). The payload of a DATA frame is in host memory. -/
def State.gOut (s : State) (slot type : Nat) (dst : Option Nat) (len : Nat) (payload : List (BitVec 8)) (collide : Bool) : State :=
  let s1 := (s.emit (.garpen slot type dst s.gNode s.gbus.seq len payload)).inc 0 (gA 0x06C)
  let s2 := s1.setG { s1.gbus with seq := (s1.gbus.seq + 1) % 65536, next := slot + frameSlots len }
  if collide then (s2.inc 0 (gA 0x078)).gEvent 3 else s2

/-- Bytes of a number, most significant first. -/
def bytesBE (n v : Nat) : List (BitVec 8) := (List.range n).reverse.map fun i => BitVec.ofNat 8 (v / 256 ^ i)

/-- Payload of a control frame (R409): of JOIN_REQ the UID and the wake time, of PAUSE its TIME_US. -/
def State.ctlPayload (s : State) (type arg : Nat) : List (BitVec 8) :=
  if type = 2 then bytesBE 6 Config.gbusUid.toNat ++ bytesBE 2 (s.rdF 0 (gA 0x054) 0 16)
  else if type = 4 then bytesBE 2 arg
  else []

/-- A control frame goes out. -/
def State.gCtl (s : State) (slot type arg : Nat) (dst : Option Nat) (collide : Bool) : State :=
  s.gOut slot type dst (s.ctlPayload type arg).length (s.ctlPayload type arg) collide

/-- Frames longer than the longest run of the map, when it has no run of 16 slots, complete with DROP (R410). -/
def State.gTooLong (s : State) : State :=
  let long := s.gLongest
  if 16 ≤ long then s
  else
    forEach (s.gQueues false) (fun q s =>
      match headOf (s.qrec q false).flight with
      | some f => if long < frameSlots (fld (descWord f.desc 2) 0 16 - 8) then s.gFinish q false ⟨3, 0, 0, false, false, none⟩ else s
      | none => s) s

/-- Whether a STATE may send in owned slots: REGISTERED, or the rest of the cycle of 125 µs that enters low-power idle. -/
def State.gMaySend (s : State) : Bool :=
  s.gState == 3 || (s.gState == 5 && s.gbus.resume == 3 && decide (s.beat < s.gbus.cycleAt + usBeats 125))

/-- GBUS_TRANSMIT: the part reaches slot `slot` of this cycle. `fw` is the payload length of a DATA frame that management firmware has
waiting, `collide` says whether the line differs from what the part drives. -/
def execGbusTransmit (slot : Fin 240) (fw : Option (Fin 1005)) (collide : Bool) (s : State) : Host.Outcome State Fault Refusal :=
  .next (if !s.gRuns || s.gbus.stopped || !s.gbus.isOpen || decide (slot.val < s.gbus.next) then s
    else if s.gState = 2 then
      if s.gMap slot = 0x40 ∧ !s.gbus.asked ∧ s.gbus.wait = 0 then
        let s1 := s.gCtl slot 2 0 none collide
        s1.setG { s1.gbus with asked := true }
      else s
    else if !s.gMaySend || !s.gOwns slot then s
    else
      let s := s.gTooLong
      let left := s.gRunLeft slot
      let held := !s.gbus.holds.isEmpty
      match s.gbus.ctl with
      | (type, arg) :: rest =>
        (s.setG { s.gbus with ctl := rest }).gCtl slot type arg (if type = 6 then none else some 255) collide
      | [] =>
        let sent (s : State) : State := s.setG { s.gbus with lpiAsked := false }
        match held, s.host.perstN, fw, s.gHeads slot with
        | true, _, _, _ => s
        | _, false, _, _ => s
        | _, _, some n, _ => if frameSlots n ≤ left then sent (s.gOut slot 1 none n [] collide) else s
        | _, _, none, (q, f) :: _ =>
          let len := fld (descWord f.desc 2) 0 16 - 8
          if frameSlots len ≤ left then
            sent ((s.gFinish q false ⟨if collide then 3 else 0, len + 8, 0, false, false, none⟩).gOut slot 1
              (some (hdrByte f.hdr 1)) len [] collide)
          else s
        | _, _, none, [] => s)

/-! ### Receive, R413 -/

/-- Whether the part has a node number: REGISTERED, LOST, or low-power idle (R407, R408, R417). -/
def State.gHasNode (s : State) : Bool := s.gState == 3 || s.gState == 4 || s.gState == 5

/-- A frame whose SRC is the part's own node shows that another node holds the number (R412). -/
def State.gSelf (s : State) (src : Nat) : State := if s.gHasNode && src == s.gNode then (s.inc 0 (gA 0x078)).gEvent 3 else s

/-- GBUS_DATA_RECEIVE: a DATA frame arrives. One that finds no room in free descriptors is dropped whole (log entry 66). -/
def execGbusDataReceive (src dst : BitVec 8) (len : BitVec 16) (crcOk : Bool) (s : State) : Host.Outcome State Fault Refusal :=
  .next (if !s.gRuns || s.gbus.stopped || decide (1004 < len.toNat) then s
    else if !crcOk then
      let s1 := s.inc 0 (gA 0x074)
      if s.gbus.crcAt.any fun b => decide (s.beat < b + beatsPerSecond) then s1
      else (s1.setG { s1.gbus with crcAt := some s.beat }).gEvent 2
    else if !(s.gHasNode && dst.toNat == s.gNode) && dst.toNat != 255 then s
    else
      let s2 := (s.inc 0 (gA 0x070)).gSelf src.toNat
      let drop (s : State) : State := (s.inc 0 (gA 0x084)).gEvent 5
      let s3 := match s2.gRxQueue with
        | none => drop s2
        | some q =>
          let (l, left) := fillDescs src.toNat none (len.toNat + 8) true (s2.qrec q true).flight
          if left = 0 then s2.setQrec q true { s2.qrec q true with flight := l } else drop s2
      s3.autoPause)

/-! ### Pause, R415 -/

/-- Set or end a node's hold. -/
def State.setHold (s : State) (m : Nat) (h : Option HoldRec) : State :=
  (s.setG { s.gbus with holds := Tab.put (fun _ => none) s.gbus.holds m h }).gSync
def State.hold (s : State) (m : Nat) : Option HoldRec := Tab.get (fun _ => none) s.gbus.holds m

/-- GBUS_PAUSE: a PAUSE from node m, with its TIME_US. -/
def execGbusPause (m : Fin 64) (us : BitVec 16) (s : State) : Host.Outcome State Fault Refusal :=
  let stop : Option Nat := if us.toNat = 0 then none else some (s.beat + usBeats us.toNat)
  .next (if !s.gRuns || s.gbus.stopped then s
    else if s.gbus.ignored.contains m.val then s.gSelf m
    else
      let s := s.gSelf m
      match s.hold m with
      | none => s.setHold m (some ⟨s.beat, stop⟩)
      | some h =>
        s.setHold m (some ⟨h.first, match h.stop, stop with
          | some a, some b => some (max a b)
          | _, _ => none⟩))

/-- GBUS_RESUME: a RESUME from node m. -/
def execGbusResume (m : Fin 64) (s : State) : Host.Outcome State Fault Refusal :=
  .next (if !s.gRuns || s.gbus.stopped then s
    else ((s.setG { s.gbus with ignored := s.gbus.ignored.filter fun k => k != m.val }).setHold m none).gSelf m)

/-- PAUSE_EXPIRE: TIME_US of a hold has passed. -/
def execPauseExpire (m : Fin 64) (s : State) : Host.Outcome State Fault Refusal :=
  .next (match s.hold m with
    | some ⟨_, some b⟩ => if b ≤ s.beat then s.setHold m none else s
    | _ => s)

/-- PAUSE_WATCHDOG: a hold has lasted LIMIT_US from its first PAUSE. -/
def execPauseWatchdog (m : Fin 64) (s : State) : Host.Outcome State Fault Refusal :=
  .next (match s.hold m with
    | some h =>
      if h.first + usBeats s.limitUs ≤ s.beat then
        let s1 := (s.setHold m none).inc 0 (gA 0x080)
        (s1.setG { s1.gbus with ignored := m.val :: s1.gbus.ignored.filter fun k => k != m.val }).gEvent 4
      else s
    | none => s)

/-- PAUSE_IGNORE_EXPIRE: 100 ms of ignoring a node have passed. -/
def execPauseIgnoreExpire (m : Fin 64) (s : State) : Host.Outcome State Fault Refusal :=
  .next (s.setG { s.gbus with ignored := s.gbus.ignored.filter fun k => k != m.val })

/-! ### Low-power idle, R417 -/

/-- LPI_REQ: 8000 cycles with nothing to send have passed. -/
def execLpiReq (s : State) : Host.Outcome State Fault Refusal :=
  .next (if s.gRuns && s.gState == 3 && bitOf s.gCfg 1 && !s.gbus.lpiAsked && s.gbus.ctl.isEmpty then
      let s1 := s.gSend 6 0
      s1.setG { s1.gbus with lpiAsked := true }
    else s)

/-- GBUS_WAKE_TONE: the part drives the wake tone to send during low-power idle. -/
def execGbusWakeTone (s : State) : Host.Outcome State Fault Refusal :=
  .next (if s.gRuns ∧ s.gState = 5 then
      (s.setG { s.gbus with isOpen := false }).emit (.wakeTone (s.rdF 0 (gA 0x058) 0 16))
    else s)

/-- GBUS_WAKE_TIMEOUT: no beacon within WAKE_BUS + 1 ms of the tone. -/
def execGbusWakeTimeout (s : State) : Host.Outcome State Fault Refusal :=
  .next (if s.gRuns ∧ s.gState = 5 then (s.setG { s.gbus with isOpen := false }).setGState 4 else s)

/-! ### Registers, tables and power, R411, R418 and R419 -/

/-- Clearing EN: the part stops, and the frames that wait are withdrawn. -/
def State.gStop (s : State) : State :=
  let s1 := forEach (s.gQueues false) (fun q s =>
    s.setQrec q false { s.qrec q false with flight := (s.qrec q false).flight.map fun (f : Flight) =>
      if f.fin.isNone && !f.bad then { f with fin := some ⟨3, 0, 0, false, false, none⟩ } else f }) s
  (s1.setG { GbusSt.off with seq := s1.gbus.seq, crcAt := s1.gbus.crcAt }).wrF 0 (gA 0x044) 0 24 0

/-- A write of GBUS.CFG: the fields that are written only in OFF keep their value in any other STATE (R419). -/
def writeGbusCfg (d : Word) (s : State) : State :=
  if s.pageLocked pGbus then s
  else
    let fixed := 0x0F0F3F08
    let cur := s.gCfg
    let bad := s.gState != 0 && decide (Nat.land d.toNat fixed ≠ Nat.land cur.toNat fixed)
    let v := if s.gState = 0 then Nat.land d.toNat 0x0F0F3F0F else Nat.land cur.toNat fixed + Nat.land d.toNat 7
    let s1 := s.wr 0 (gA 0x040) (wd v)
    let s2 := if bad then s1.gEvent 7 else s1
    if bitOf cur 0 && !bitOf d 0 then s2.gStop
    else if !bitOf cur 0 && bitOf d 0 then s2.setGState 1
    else s2.autoPause

/-- A write of GBUS.WAKE_OWN. -/
def writeWakeOwn (d : Word) (s : State) : State :=
  if s.pageLocked pGbus then s
  else if s.gState = 0 then s.wr 0 (gA 0x054) (wd (fld d 0 16))
  else s.gEvent 7

/-- The MAC stops on entry to sleep or a deeper state (R418). -/
def State.gSleep (s : State) : State := s.setG { s.gbus with stopped := true, isOpen := false }

/-- REMAIN_US of a hold. -/
def State.remainUs (s : State) (m : Nat) : Nat :=
  match s.hold m with
  | some ⟨_, some b⟩ => min 65535 (cdiv ((b - s.beat) * 10) 3456)
  | _ => 0

/-- Read of a GBUS table. -/
def gbusTableRead (sel idx : Nat) (s : State) : Nat × List Word :=
  match sel with
  | 1 => if 240 ≤ idx then (2, []) else (0, [s.ent pGbus 0 1 idx 0])
  | 2 =>
    if 64 ≤ idx then (2, [])
    else
      (0, [wd ((if (s.hold idx).isSome then 1 else 0) + (if s.gbus.ignored.contains idx then 2 else 0) + s.remainUs idx * 65536)])
  | _ => (1, [])

/-- A write of a GBUS table changes nothing (R419). -/
def gbusTableWrite (s : State) : Nat × State := (3, s.gEvent 7)

/-- A write of GBUS.SNAP with bit 0 set. -/
def State.gbusSnap (s : State) : State := forEach (List.range 7) (fun i s => s.snap 0 (gA (0x06C + 4 * i)) (gA (0x088 + 4 * i))) s

end Sys2Proof.Machine
end

