-- ==== Sys2Proof/Machine/Operands.lean ====
section
/-!
DEFINITION. Machine/Operands.lean: the instruction words of the foley cores (spec/11_foley_cores.md): classes and fields (R315, R317 to
R324), number formats (R311, R312) and addressing modes (R316).
-/
namespace Sys2Proof.Machine

/-- n bits of an instruction word from bit lo up. -/
def iw (w lo n : Nat) : Nat := w / 2 ^ lo % 2 ^ n

/-- Code of an instruction: class × 32 + opcode; none for a reserved class or opcode (R315). -/
def folCode (w : Nat) : Option Nat :=
  let cls := iw w 60 4
  let op5 := iw w 55 5
  let op3 := iw w 57 3
  match cls with
  | 0 => if op5 ≤ 12 then some op5 else none
  | 1 => if op3 ≤ 2 then some (32 + op3) else none
  | 2 => if op5 ≤ 17 then some (64 + op5) else none
  | 3 => if op3 ≤ 1 then some (96 + op3) else none
  | 4 => if op3 ≤ 3 then some (128 + op3) else none
  | 5 => if op3 ≤ 6 then some (160 + op3) else none
  | 6 => if op3 ≤ 4 then some (192 + op3) else none
  | 7 => some 224
  | _ => none

/-- A non-zero bit in a field marked 0 (R315). -/
def folNonZero (w : Nat) : Bool :=
  match iw w 60 4 with
  | 0 => iw w 8 9 != 0
  | 1 => iw w 0 17 != 0 || iw w 17 4 != 0 || iw w 32 4 != 0
  | 2 => iw w 0 41 != 0
  | 3 => iw w 0 47 != 0
  | 4 => iw w 0 38 != 0
  | 5 => iw w 36 11 != 0 || (iw w 57 3 == 6 && iw w 15 21 != 0)
  | 6 => iw w 16 33 != 0
  | _ => iw w 0 53 != 0

/-- A reserved code in a field that the instruction uses (R315 to R323). -/
def folReserved (w : Nat) : Bool :=
  match iw w 60 4 with
  | 0 => iw w 55 5 == 2 && decide (8 ≤ iw w 51 4)
  | 1 => decide (12 ≤ iw w 51 4) || decide (12 ≤ iw w 47 4)
  | 4 => iw w 44 2 == 3
  | 5 => iw w 57 3 == 6 && iw w 51 2 == 3
  | 6 => (iw w 57 3 == 3 || iw w 57 3 == 4) && decide (21 ≤ iw w 52 5)
  | _ => false

/-- A CTRL instruction other than NOP, and a mode write: what may not stand in a delay slot (R325). -/
def folCtrl (code : Nat) : Bool := decide (1 ≤ code ∧ code ≤ 12)
def folModeWrite (code : Nat) : Bool := code == 192 || code == 193

/-! ### Number formats, R311 and R312 -/

/-- High and low half of a data word, and the word of two halves. -/
def halfH (w : BitVec 72) : BitVec 36 := BitVec.ofNat 36 (w.toNat / 2 ^ 36)
def halfL (w : BitVec 72) : BitVec 36 := BitVec.ofNat 36 w.toNat
def halfOf (w : BitVec 72) (low : Bool) : BitVec 36 := if low then halfL w else halfH w
def wordOfHalves (h l : BitVec 36) : BitVec 72 := BitVec.ofNat 72 (h.toNat * 2 ^ 36 + l.toNat)
def setHalf (w : BitVec 72) (low : Bool) (v : BitVec 36) : BitVec 72 :=
  if low then wordOfHalves (halfH w) v else wordOfHalves v (halfL w)

/-- A 24-bit sample in a half, and the sample that the exchange takes from a half (R311, R312). -/
def sampleHalf (x : BitVec 24) : BitVec 36 := BitVec.ofNat 36 (x.toNat * 4096)
def halfSample (h : BitVec 36) : BitVec 24 := BitVec.ofNat 24 (h.toNat / 4096)

/-- The product of two halves in accumulator format: exact, then shifted right by 7 and truncated. -/
def mulAcc (a b : BitVec 36) : Int := a.toInt * b.toInt / 128

/-- A half in accumulator format. -/
def halfAcc (v : BitVec 36) : Int := v.toInt * 2 ^ 28

/-- Whether a value wraps at 72 bits, and the value that an accumulator takes. -/
def accWraps (v : Int) : Bool := decide (v < -(2 ^ 71 : Int) ∨ (2 ^ 71 : Int) ≤ v)
def accOf (v : Int) : BitVec 72 := BitVec.ofInt 72 v

/-- An accumulator as stored into a half or a D register under a mode (R312). -/
def storeAcc (mr : Nat) (a : BitVec 72) : BitVec 36 :=
  let v : Int := match mr / 4 % 4 with
    | 0 => a.toInt
    | 1 => a.toInt * 2
    | 2 => a.toInt * 4
    | _ => a.toInt / 2
  let q := v / (2 ^ 28 : Int)
  if mr % 2 = 1 ∧ (2 ^ 35 : Int) ≤ q then 0x7FFFFFFFF
  else if mr % 2 = 1 ∧ q < -(2 ^ 35 : Int) then 0x800000000
  else BitVec.ofInt 36 q

/-! ### Addressing, R316 -/

/-- The smallest k with 2^k ≥ L, at most 15. -/
def modBits (l : Nat) : Nat := ((List.range 15).find? fun k => decide (l ≤ 2 ^ k)).getD 15

/-- A pointer stepped in linear and in modulo mode. -/
def stepLinear (p : Nat) (d : Int) : Nat := toBits 14 ((p : Int) + d)
def stepModulo (p l : Nat) (d : Int) : Nat :=
  if l = 0 then stepLinear p d
  else
    let b := p / 2 ^ modBits l * 2 ^ modBits l
    (b + (((p : Int) - (b : Int) + d) % (l : Int)).toNat) % 2 ^ 14

/-- Address and new pointer of an addressing mode. -/
def addrMode (mode p : Nat) (m : Int) (l : Nat) : Nat × Nat :=
  match mode with
  | 0 => (p, p)
  | 1 => (p, stepLinear p 1)
  | 2 => (p, stepLinear p (-1))
  | 3 => (p, stepLinear p m)
  | 4 => (p, stepModulo p l m)
  | 5 => (p, stepModulo p l 1)
  | 6 => (stepLinear p m, p)
  | _ => (p, stepModulo p l (-1))

end Sys2Proof.Machine
end

