-- ==== Sys2Proof/Machine/Foley.lean ====
section
/-!
DEFINITION. Machine/Foley.lean: the foley cores of spec/11_foley_cores.md (R310 to R331): memories and registers, exceptions, the end of an
instruction, and what each instruction does. A row of the opcode table is one instruction issued by a core: it has its effect when
the word at the core's PC is that instruction and the core runs.
-/
namespace Sys2Proof.Machine

/-! ### Registers and memories, R310 -/

def State.folRec (s : State) (c : Nat) : FolRec := Tab.get (fun _ => FolRec.idle) s.fol c
def State.setFol (s : State) (c : Nat) (r : FolRec) : State := { s with fol := Tab.put (fun _ => FolRec.idle) s.fol c r }

/-- A register of a FOL page. -/
def folA (c off : Nat) : Nat := regA (pFol c) off

/-- A FOL event, attributed to the page's owner (R345). -/
def State.folEvent (s : State) (c b : Nat) : State := s.raiseOwned (pFol c) b

/-- A program word, and a word of X (sel 2) or Y (sel 3) memory (R344). -/
def State.folP (s : State) (c a : Nat) : Nat := pairOf (s.ent (pFol c) 0 1 a 0) (s.ent (pFol c) 0 1 a 1)
def State.folMem (s : State) (c sel a : Nat) : BitVec 72 :=
  BitVec.ofNat 72 (pairOf (s.ent (pFol c) 0 sel a 0) (s.ent (pFol c) 0 sel a 1) + fld (s.ent (pFol c) 0 sel a 2) 0 8 * 2 ^ 64)
def State.setFolMem (s : State) (c sel a : Nat) (v : BitVec 72) : State :=
  s.setEntWords (pFol c) 0 sel a 0 [loHalf v.toNat, hiHalf v.toNat, wd (v.toNat / 2 ^ 64)]

def FolRec.dReg (r : FolRec) (k : Nat) : BitVec 36 := r.d.getD k 0
def FolRec.acc (r : FolRec) (n : Nat) : BitVec 72 := r.a.getD n 0
def FolRec.setD (r : FolRec) (k : Nat) (v : BitVec 36) : FolRec := { r with d := r.d.set k v }
def FolRec.setA (r : FolRec) (n : Nat) (v : BitVec 72) : FolRec := { r with a := r.a.set n v }
def FolRec.setN (r : FolRec) (n v : Nat) : FolRec := { r with n := r.n.set n (v % 2 ^ 15) }

/-- Pointer, modifier and length of a memory (sel 2 X, 3 Y). -/
def FolRec.ptr (r : FolRec) (sel i : Nat) : Nat := (if sel = 2 then r.xp else r.yp).getD i 0
def FolRec.modf (r : FolRec) (sel i : Nat) : Int := (if sel = 2 then r.xm else r.ym).getD i 0
def FolRec.len (r : FolRec) (sel i : Nat) : Nat := (if sel = 2 then r.xl else r.yl).getD i 0
def FolRec.setPtr (r : FolRec) (sel i v : Nat) : FolRec :=
  if sel = 2 then { r with xp := r.xp.set i (v % 2 ^ 14) } else { r with yp := r.yp.set i (v % 2 ^ 14) }
def FolRec.setModf (r : FolRec) (sel i : Nat) (v : Int) : FolRec :=
  if sel = 2 then { r with xm := r.xm.set i v } else { r with ym := r.ym.set i v }
def FolRec.setLen (r : FolRec) (sel i v : Nat) : FolRec :=
  if sel = 2 then { r with xl := r.xl.set i v } else { r with yl := r.yl.set i v }

/-- Address of an access, and the core with its pointer stepped (R316). -/
def FolRec.access (r : FolRec) (sel i mode : Nat) : Nat × FolRec :=
  let (a, p) := addrMode mode (r.ptr sel i) (r.modf sel i) (r.len sel i)
  (a, r.setPtr sel i p)

/-- Banks of the exchange, R332: words of an input and of an output bank, and where the current banks start. -/
def State.folIsz (s : State) (c : Nat) : Nat := s.folNin c * gridB (s.gridOut (s.folIn c)) / 2
def State.folOsz (s : State) (c : Nat) : Nat := s.folNout c * gridB (s.gridIn (s.folOut c)) / 2
def State.folXio (s : State) (c : Nat) : Nat := s.rdF 0 (folA c 0x050) 0 14
def State.folYio (s : State) (c : Nat) : Nat := s.rdF 0 (folA c 0x050) 16 14
def bankOf (k : Int) : Nat := (k % 2).toNat
def State.folIbase (s : State) (c : Nat) (k : Int) : Nat := s.folXio c + bankOf k * s.folIsz c
def State.folObase (s : State) (c : Nat) (k : Int) : Nat := s.folYio c + bankOf k * s.folOsz c

/-! ### Exceptions, R328 to R330 -/

/-- Halt a core: 1 HALT instruction, 2 DOUBLE. FOL.HALT rises (R329, R340; log entry 52). -/
def State.folHalt (s : State) (c why : Nat) : State :=
  ((s.wrF 0 (folA c 0x048) 0 3 3).wrF 0 (folA c 0x048) 8 4 why).folEvent c 3

/-- ESTAT of an exception, R330. -/
def FolRec.estatOf (r : FolRec) (vector code : Nat) : Nat :=
  let b (x : Bool) (n : Nat) : Nat := if x then n else 0
  let (ds, taken) := match r.slots with
    | some q => (q.next, q.taken)
    | none => (0, false)
  let last := match r.loops with
    | e :: _ => e.stop == r.pc
    | [] => false
  vector + ds * 16 + b taken 64 + b (!r.shadow.isEmpty) 128 + b last 256 + code % 256 * 65536

/-- Take an exception: the faulting instruction has no effect, the state is saved, EM is set and the core goes on at 4 × vector; while
EM = 1 the core halts instead. -/
def State.folExc (s : State) (c vector code : Nat) : State :=
  let r := s.folRec c
  if r.em then (if vector = 5 then s.folEvent c 4 else s).folHalt c 2
  else
    let r1 := { r with
      em := true
      epc := match r.slots with
        | some q => q.addr
        | none => r.pc
      estat := r.estatOf vector code
      emr := r.mr
      mr := match r.shadow.getLast? with
        | some (v, _) => v
        | none => r.mr
      shadow := [], slots := none, reuse := none, skip1 := false, last := false, pc := 4 * vector, cyc := r.cyc + 1 }
    let s1 := (s.setFol c r1).incSat 0 (folA c 0x07C) 1
    let s2 := if vector = 5 then s1.folEvent c 4 else s1
    if vector = 5 ∨ vector = 0 ∨ vector = 2 ∨ vector = 3 then s2.folEvent c 2 else s2

/-! ### The end of an instruction, R325 to R327 -/

/-- Mode writes come nearer by one instruction; one whose shadow is over takes effect (R327). -/
def FolRec.tick (r : FolRec) : FolRec :=
  let l := r.shadow.map fun e => (e.1, e.2 - 1)
  { r with
    cyc := r.cyc + 1, reuse := none, skip1 := false
    shadow := l.filter fun e => e.2 != 0
    mr := match (l.filter fun e => e.2 == 0).getLast? with
      | some (v, _) => v
      | none => r.mr }

/-- The loop-end check of R326. -/
def FolRec.loopEnd (r : FolRec) : FolRec :=
  match r.loops with
  | [] => { r with pc := (r.pc + 1) % 8192 }
  | e :: rest =>
    if 2 ≤ e.count then { r with pc := e.start, loops := { e with count := e.count - 1 } :: rest }
    else { r with pc := (r.pc + 1) % 8192, loops := rest }

/-- An instruction that is no branch completes. -/
def FolRec.done (r : FolRec) : FolRec :=
  let r := r.tick
  match r.slots with
  | some q =>
    if q.next = 1 then { r with slots := some { q with next := 2 }, pc := (r.pc + 1) % 8192 }
    else { r with slots := none, pc := if q.taken then q.target else (q.addr + 3) % 8192 }
  | none =>
    let check := r.last || match r.loops with
      | e :: _ => e.stop == r.pc
      | [] => false
    let r := { r with last := false }
    if check then r.loopEnd else { r with pc := (r.pc + 1) % 8192 }

/-- A branch completes: its delay slots follow, the first of them left out when RTE resumes in the second (R325, R331). -/
def FolRec.branch (r : FolRec) (taken : Bool) (target : Nat) : FolRec :=
  let t := r.reuse.getD taken
  let a := r.pc
  let r1 := r.tick
  { r1 with
    slots := some ⟨a, if r.skip1 then 2 else 1, t, target % 8192⟩
    pc := (a + (if r.skip1 then 2 else 1)) % 8192
    reuse := none, skip1 := false, last := false }

/-- What an instruction does: it completes with new registers and memories, it raises an exception, or it sets the PC itself. -/
inductive FolRes where
  | done (s : State) (r : FolRec)
  | exc (vector code : Nat)
  | own (s : State)

/-- ILLEGAL with a sub-cause. -/
def FolRes.illegal (code : Nat) : FolRes := .exc 0 code

/-- Whether a core is issuing instructions: in RUN, and not halted by a move (R339, R340). -/
def State.folRuns (s : State) (c : Nat) : Bool := s.folState c == 2 && !(s.folRec c).moving

/-- Issue the instruction of a code: nothing happens unless the word at PC is that instruction. A word that no instruction has is
ILLEGAL whichever row is issued. -/
def folIssue (c code : Nat) (eff : Nat → FolRec → FolRes) (s : State) : State :=
  if !s.folRuns c then s
  else
    let r := s.folRec c
    let w := s.folP c r.pc
    let atEnd := match r.loops with
      | e :: _ => e.stop == r.pc
      | [] => false
    match folCode w with
    | none => s.folExc c 0 1
    | some k =>
      if k ≠ code then s
      else if folNonZero w || folReserved w then s.folExc c 0 1
      else if r.slots.isSome && (folCtrl k || folModeWrite k) then s.folExc c 0 2
      else if atEnd && folCtrl k then s.folExc c 0 4
      else
        match eff w r with
        | .done s' r' => s'.setFol c r'.done
        | .exc v n => s.folExc c v n
        | .own s' => s'

/-- Put a result in an accumulator: a wrap sets OV, or raises OVF with MR.ATRAP (R311, R328). -/
def folAcc (s : State) (r : FolRec) (n : Nat) (v : Int) : FolRes :=
  if accWraps v then
    if r.mr / 2 % 2 = 1 then .exc 1 0
    else .done s { r.setA n (accOf v) with ov := r.ov.set n true }
  else .done s (r.setA n (accOf v))

/-! ### MAC class, R317 -/

/-- The fields of a move. -/
def mvEn (m : Nat) : Bool := iw m 14 1 == 1
def mvLoad (m : Nat) : Nat := iw m 7 2
def mvDk (m : Nat) : Nat := iw m 4 3

/-- A move: the word read, and the core with its pointer stepped. -/
def folMove (s : State) (c : Nat) (r : FolRec) (sel m : Nat) : BitVec 72 × FolRec :=
  if mvEn m then
    let (a, r1) := r.access sel (iw m 12 2) (iw m 9 3)
    (s.folMem c sel a, r1)
  else (0, r)

/-- D registers that a move loads, with their values. -/
def mvLoads (m : Nat) (w : BitVec 72) : List (Nat × BitVec 36) :=
  if !mvEn m then []
  else match mvLoad m with
    | 0 => []
    | 1 => [(mvDk m, halfH w)]
    | 2 => [(mvDk m, halfL w)]
    | _ => [(mvDk m, halfH w), ((mvDk m + 1) % 8, halfL w)]

/-- Load D registers. A register that both moves load takes a value that the spec does not state (log entry 53). -/
def folLoads (s : State) (r : FolRec) : List (Nat × BitVec 36) → List Nat → State × FolRec
  | [], _ => (s, r)
  | (k, v) :: rest, seen =>
    if seen.contains k then
      let (f, s1) := s.fresh 36
      folLoads s1 (r.setD k (BitVec.ofNat 36 f)) rest seen
    else folLoads s (r.setD k v) rest (k :: seen)

/-- An operand: a D register or a half of the words moved. -/
def folOperand (r : FolRec) (x y : BitVec 72) (n : Nat) : BitVec 36 :=
  match n with
  | 8 => halfH x
  | 9 => halfL x
  | 10 => halfH y
  | 11 => halfL y
  | _ => r.dReg n

/-- A MAC-class instruction: `f` gives the new value of the accumulator from its old value and the product. -/
def folMac (c : Nat) (f : Int → Int → Int) (s : State) (w : Nat) (r : FolRec) : FolRes :=
  let mx := iw w 32 15
  let my := iw w 17 15
  let n := iw w 55 2
  let s1 := iw w 51 4
  let s2 := iw w 47 4
  let oddPair (m : Nat) : Bool := mvEn m && mvLoad m == 3 && mvDk m % 2 == 1
  let noHalf (k : Nat) : Bool := ((k == 8 || k == 9) && !mvEn mx) || ((k == 10 || k == 11) && !mvEn my)
  if oddPair mx || oddPair my || noHalf s1 || noHalf s2 then .illegal 8
  else
    let (x, r1) := folMove s c r 2 mx
    let (y, r2) := folMove s c r1 3 my
    let p := mulAcc (folOperand r x y s1) (folOperand r x y s2)
    let (st, r3) := folLoads s r2 (mvLoads mx x ++ mvLoads my y) []
    folAcc st r3 n (f (r.acc n).toInt p)

/-- MPY: A = S1 × S2. -/
def execFoMpy (c : Fin 64) (s : State) : Host.Outcome State Fault Refusal :=
  .next (folIssue c 32 (folMac c (fun _ p => p) s) s)

/-- MAC: A += S1 × S2. -/
def execFoMac (c : Fin 64) (s : State) : Host.Outcome State Fault Refusal :=
  .next (folIssue c 33 (folMac c (fun a p => a + p) s) s)

/-- MSU: A -= S1 × S2. -/
def execFoMsu (c : Fin 64) (s : State) : Host.Outcome State Fault Refusal :=
  .next (folIssue c 34 (folMac c (fun a p => a - p) s) s)

/-! ### ALU class, R318 -/

def aluN (w : Nat) : Nat := iw w 53 2
def aluM (w : Nat) : Nat := iw w 51 2
def aluK (w : Nat) : Nat := iw w 48 3
def aluSh (w : Nat) : Nat := iw w 41 7

/-- An ALU result that can wrap. -/
def aluArith (f : Nat → FolRec → Int) (s : State) (w : Nat) (r : FolRec) : FolRes := folAcc s r (aluN w) (f w r)

/-- An ALU result that cannot wrap. -/
def aluPut (f : Nat → FolRec → BitVec 72) (s : State) (w : Nat) (r : FolRec) : FolRes :=
  .done s (r.setA (aluN w) (f w r))

/-- A shift: SH is 0 to 71, and the other values are taken as reserved codes (R315; log entry 55). -/
def aluShift (f : FolRec → FolRes) (w : Nat) (r : FolRec) : FolRes := if 71 < aluSh w then .illegal 1 else f r

/-- CLR: An = 0, and OV of An is cleared. -/
def execFoClr (c : Fin 64) (s : State) : Host.Outcome State Fault Refusal :=
  .next (folIssue c 64 (fun w r =>
    .done s { r.setA (aluN w) 0 with ov := r.ov.set (aluN w) false }) s)

/-- ADD: An = An + Am. -/
def execFoAdd (c : Fin 64) (s : State) : Host.Outcome State Fault Refusal :=
  .next (folIssue c 65 (aluArith (fun w r => (r.acc (aluN w)).toInt + (r.acc (aluM w)).toInt) s) s)

/-- SUB: An = An - Am. -/
def execFoSub (c : Fin 64) (s : State) : Host.Outcome State Fault Refusal :=
  .next (folIssue c 66 (aluArith (fun w r => (r.acc (aluN w)).toInt - (r.acc (aluM w)).toInt) s) s)

/-- NEG: An = -An. -/
def execFoNeg (c : Fin 64) (s : State) : Host.Outcome State Fault Refusal :=
  .next (folIssue c 67 (aluArith (fun w r => -(r.acc (aluN w)).toInt) s) s)

/-- ABS: An = |An|. -/
def execFoAbs (c : Fin 64) (s : State) : Host.Outcome State Fault Refusal :=
  .next (folIssue c 68 (aluArith (fun w r => ((r.acc (aluN w)).toInt.natAbs : Int)) s) s)

/-- MAX: An = the larger of An and Am. -/
def execFoMax (c : Fin 64) (s : State) : Host.Outcome State Fault Refusal :=
  .next (folIssue c 69 (aluPut (fun w r =>
    if (r.acc (aluN w)).toInt < (r.acc (aluM w)).toInt then r.acc (aluM w) else r.acc (aluN w)) s) s)

/-- MIN: An = the smaller of An and Am. -/
def execFoMin (c : Fin 64) (s : State) : Host.Outcome State Fault Refusal :=
  .next (folIssue c 70 (aluPut (fun w r =>
    if (r.acc (aluM w)).toInt < (r.acc (aluN w)).toInt then r.acc (aluM w) else r.acc (aluN w)) s) s)

/-- ASL: An shifted left by SH. -/
def execFoAsl (c : Fin 64) (s : State) : Host.Outcome State Fault Refusal :=
  .next (folIssue c 71 (fun w r => aluShift (aluArith (fun w r => (r.acc (aluN w)).toInt * 2 ^ aluSh w) s w) w r) s)

/-- ASR: An shifted right by SH, truncated. -/
def execFoAsr (c : Fin 64) (s : State) : Host.Outcome State Fault Refusal :=
  .next (folIssue c 72 (fun w r => aluShift (aluPut (fun w r => accOf ((r.acc (aluN w)).toInt / 2 ^ aluSh w)) s w) w r) s)

/-- AND. -/
def execFoAnd (c : Fin 64) (s : State) : Host.Outcome State Fault Refusal :=
  .next (folIssue c 73 (aluPut (fun w r => r.acc (aluN w) &&& r.acc (aluM w)) s) s)

/-- OR. -/
def execFoOr (c : Fin 64) (s : State) : Host.Outcome State Fault Refusal :=
  .next (folIssue c 74 (aluPut (fun w r => r.acc (aluN w) ||| r.acc (aluM w)) s) s)

/-- XOR. -/
def execFoXor (c : Fin 64) (s : State) : Host.Outcome State Fault Refusal :=
  .next (folIssue c 75 (aluPut (fun w r => r.acc (aluN w) ^^^ r.acc (aluM w)) s) s)

/-- MOVA: An = Am. -/
def execFoMova (c : Fin 64) (s : State) : Host.Outcome State Fault Refusal :=
  .next (folIssue c 76 (aluPut (fun w r => r.acc (aluM w)) s) s)

/-- ADDD: An += Dk (R311). -/
def execFoAddd (c : Fin 64) (s : State) : Host.Outcome State Fault Refusal :=
  .next (folIssue c 77 (aluArith (fun w r => (r.acc (aluN w)).toInt + halfAcc (r.dReg (aluK w))) s) s)

/-- MOVD: An = Dk (R311). -/
def execFoMovd (c : Fin 64) (s : State) : Host.Outcome State Fault Refusal :=
  .next (folIssue c 78 (aluPut (fun w r => accOf (halfAcc (r.dReg (aluK w)))) s) s)

/-- MOVDA: Dk = An as stored under R312. -/
def execFoMovda (c : Fin 64) (s : State) : Host.Outcome State Fault Refusal :=
  .next (folIssue c 79 (fun w r =>
    .done s (r.setD (aluK w) (storeAcc r.mr (r.acc (aluN w))))) s)

/-- SETLO: An = the most negative value, Nn = 0x7FFF. -/
def execFoSetlo (c : Fin 64) (s : State) : Host.Outcome State Fault Refusal :=
  .next (folIssue c 80 (fun w r =>
    .done s ((r.setA (aluN w) (accOf (-(2 ^ 71)))).setN (aluN w) 0x7FFF)) s)

/-- SETHI: An = the most positive value, Nn = 0x7FFF. -/
def execFoSethi (c : Fin 64) (s : State) : Host.Outcome State Fault Refusal :=
  .next (folIssue c 81 (fun w r =>
    .done s ((r.setA (aluN w) (accOf (2 ^ 71 - 1))).setN (aluN w) 0x7FFF)) s)

/-! ### FIR class, R319 -/

/-- A pointer stepped in direction DIR: 0 down by 1, 1 up by 1, 2 down modulo, 3 up modulo. -/
def dirStep (r : FolRec) (sel i dir : Nat) (back : Bool) : Nat :=
  let up := (dir % 2 == 1) != back
  let d : Int := if up then 1 else -1
  if dir < 2 then stepLinear (r.ptr sel i) d else stepModulo (r.ptr sel i) (r.len sel i) d

/-- One tap: the sample moves one place along the delay line, against the direction of stepping. -/
def folFir (c : Nat) (first : Bool) (s : State) (w : Nat) (r : FolRec) : FolRes :=
  let n := iw w 55 2
  let xi := iw w 53 2
  let yj := iw w 51 2
  let dir := iw w 47 2
  let xl := iw w 50 1 == 1
  let d := halfOf (s.folMem c 2 (r.ptr 2 xi)) xl
  let k := halfOf (s.folMem c 3 (r.ptr 3 yj)) (iw w 49 1 == 1)
  let dst := dirStep r 2 xi dir true
  let s1 := s.setFolMem c 2 dst (setHalf (s.folMem c 2 dst) xl d)
  let r1 := (r.setPtr 2 xi (dirStep r 2 xi dir false)).setPtr 3 yj (dirStep r 3 yj dir false)
  folAcc s1 r1 n ((if first then 0 else (r.acc n).toInt) + mulAcc d k)

/-- FIR: A += d × c. -/
def execFoFir (c : Fin 64) (s : State) : Host.Outcome State Fault Refusal := .next (folIssue c 96 (folFir c false s) s)

/-- FIRD: the first tap, A = d × c. -/
def execFoFird (c : Fin 64) (s : State) : Host.Outcome State Fault Refusal := .next (folIssue c 97 (folFir c true s) s)

/-! ### SRCH class, R320 -/

/-- Update an accumulator with an operand that it takes: its value and the place of the operand. -/
def srchTake (better : Int → Int → Bool) (r : FolRec) (n : Nat) (v : Int) (a : Nat) (low : Bool) : FolRec :=
  if better v (r.acc n).toInt then (r.setA n (accOf v)).setN n (a * 2 + if low then 1 else 0) else r

/-- A search: `better v a` says that v is strictly better than a; `conv` converts an operand. -/
def folSrch (c : Nat) (better : Int → Int → Bool) (conv : BitVec 36 → Int) (s : State) (w : Nat) (r : FolRec) : FolRes :=
  let xen := iw w 52 1 == 1
  let yen := iw w 51 1 == 1
  let n := iw w 55 2
  let m := iw w 53 2
  if xen && yen && n == m then .illegal 7
  else
    let (xa, rx) := if xen then r.access 2 (iw w 49 2) (iw w 46 3) else (0, r)
    let (ya, ry) := if yen then rx.access 3 (iw w 42 2) (iw w 39 3) else (0, rx)
    let xw := s.folMem c 2 xa
    let yw := s.folMem c 3 ya
    let h := conv (halfH xw)
    let l := conv (halfL xw)
    let xlow := match iw w 44 2 with
      | 0 => false
      | 1 => true
      | _ => better l h
    let yl := iw w 38 1 == 1
    let r1 := if xen then srchTake better ry n (if xlow then l else h) xa xlow else ry
    .done s (if yen then srchTake better r1 m (conv (halfOf yw yl)) ya yl else r1)

/-- SMAX. -/
def execFoSmax (c : Fin 64) (s : State) : Host.Outcome State Fault Refusal :=
  .next (folIssue c 128 (folSrch c (fun v a => decide (a < v)) halfAcc s) s)

/-- SMIN. -/
def execFoSmin (c : Fin 64) (s : State) : Host.Outcome State Fault Refusal :=
  .next (folIssue c 129 (folSrch c (fun v a => decide (v < a)) halfAcc s) s)

/-- SMAXA: the same on magnitudes. -/
def execFoSmaxa (c : Fin 64) (s : State) : Host.Outcome State Fault Refusal :=
  .next (folIssue c 130 (folSrch c (fun v a => decide (a < v)) (fun h => ((halfAcc h).natAbs : Int)) s) s)

/-- SMINA. -/
def execFoSmina (c : Fin 64) (s : State) : Host.Outcome State Fault Refusal :=
  .next (folIssue c 131 (folSrch c (fun v a => decide (v < a)) (fun h => ((halfAcc h).natAbs : Int)) s) s)

/-! ### LDST class, R321 -/

def ldSel (w : Nat) : Nat := 2 + iw w 56 1
def ldLow (w : Nat) : Bool := iw w 50 1 == 1
def ldDk (w : Nat) : Nat := iw w 47 3
def ldAn (w : Nat) : Nat := iw w 47 2

/-- Address of the access, and the core with its pointer stepped. -/
def ldAccess (w : Nat) (r : FolRec) : Nat × FolRec := r.access (ldSel w) (iw w 54 2) (iw w 51 3)

/-- LD: Dk takes a half. -/
def execFoLd (c : Fin 64) (s : State) : Host.Outcome State Fault Refusal :=
  .next (folIssue c 160 (fun w r =>
    let (a, r1) := ldAccess w r
    .done s (r1.setD (ldDk w) (halfOf (s.folMem c (ldSel w) a) (ldLow w)))) s)

/-- ST: a half takes Dk. -/
def execFoSt (c : Fin 64) (s : State) : Host.Outcome State Fault Refusal :=
  .next (folIssue c 161 (fun w r =>
    let (a, r1) := ldAccess w r
    .done (s.setFolMem c (ldSel w) a (setHalf (s.folMem c (ldSel w) a) (ldLow w) (r.dReg (ldDk w)))) r1) s)

/-- LDA: An takes a word, all 72 bits. -/
def execFoLda (c : Fin 64) (s : State) : Host.Outcome State Fault Refusal :=
  .next (folIssue c 162 (fun w r =>
    let (a, r1) := ldAccess w r
    .done s (r1.setA (ldAn w) (s.folMem c (ldSel w) a))) s)

/-- STA: a word takes An, all 72 bits. -/
def execFoSta (c : Fin 64) (s : State) : Host.Outcome State Fault Refusal :=
  .next (folIssue c 163 (fun w r =>
    let (a, r1) := ldAccess w r
    .done (s.setFolMem c (ldSel w) a (r.acc (ldAn w))) r1) s)

/-- STAH: a half takes An under R312. -/
def execFoStah (c : Fin 64) (s : State) : Host.Outcome State Fault Refusal :=
  .next (folIssue c 164 (fun w r =>
    let (a, r1) := ldAccess w r
    .done (s.setFolMem c (ldSel w) a (setHalf (s.folMem c (ldSel w) a) (ldLow w) (storeAcc r.mr (r.acc (ldAn w))))) r1) s)

/-- LDI: Dk takes IMM. -/
def execFoLdi (c : Fin 64) (s : State) : Host.Outcome State Fault Refusal :=
  .next (folIssue c 165 (fun w r => .done s (r.setD (ldDk w) (BitVec.ofNat 36 w))) s)

/-- LDP: a pointer, modifier or length takes VALUE; a value outside its range is ILLEGAL. -/
def execFoLdp (c : Fin 64) (s : State) : Host.Outcome State Fault Refusal :=
  .next (folIssue c 166 (fun w r =>
    let v := iw w 0 15
    let i := iw w 54 2
    match iw w 51 2 with
    | 0 => if 16383 < v then .illegal 8 else .done s (r.setPtr (ldSel w) i v)
    | 1 => .done s (r.setModf (ldSel w) i (sext 15 v))
    | _ => if 16384 < v then .illegal 8 else .done s (r.setLen (ldSel w) i v)) s)

/-! ### CTRL class, R322, R325, R326 and R331 -/

/-- Whether a delay slot of a branch at PC is the last instruction of the innermost loop body (R325). -/
def FolRec.slotAtEnd (r : FolRec) : Bool :=
  match r.loops with
  | e :: _ => e.stop == (r.pc + 1) % 8192 || e.stop == (r.pc + 2) % 8192
  | [] => false

/-- A branch. -/
def folBranch (c : Nat) (taken : Bool) (target : Nat) (lr : Option Nat) (s : State) (r : FolRec) : FolRes :=
  if r.slotAtEnd then .illegal 3
  else .own (s.setFol c { r.branch taken target with lr := lr.getD r.lr })

/-- NOP. -/
def execFoNop (c : Fin 64) (s : State) : Host.Outcome State Fault Refusal := .next (folIssue c 0 (fun _ r => .done s r) s)

/-- BRA. -/
def execFoBra (c : Fin 64) (s : State) : Host.Outcome State Fault Refusal :=
  .next (folIssue c 1 (fun w r => folBranch c true (iw w 36 13) none s r) s)

/-- The condition of a BCC: An against 0, or its OV. -/
def folCond (cond : Nat) (a : BitVec 72) (ov : Bool) : Bool :=
  match cond with
  | 0 => a == 0
  | 1 => a != 0
  | 2 => decide (a.toInt < 0)
  | 3 => decide (0 ≤ a.toInt)
  | 4 => decide (0 < a.toInt)
  | 5 => decide (a.toInt ≤ 0)
  | 6 => ov
  | _ => !ov

/-- BCC. -/
def execFoBcc (c : Fin 64) (s : State) : Host.Outcome State Fault Refusal :=
  .next (folIssue c 2 (fun w r =>
    let n := iw w 49 2
    folBranch c (folCond (iw w 51 4) (r.acc n) (r.ov.getD n false)) (iw w 36 13) none s r) s)

/-- CALL: LR = its own address + 3. -/
def execFoCall (c : Fin 64) (s : State) : Host.Outcome State Fault Refusal :=
  .next (folIssue c 3 (fun w r => folBranch c true (iw w 36 13) (some ((r.pc + 3) % 8192)) s r) s)

/-- RET: to LR. -/
def execFoRet (c : Fin 64) (s : State) : Host.Outcome State Fault Refusal :=
  .next (folIssue c 4 (fun _ r => folBranch c true r.lr none s r) s)

/-- LOOP and LOOPD with their count. -/
def folLoop (c count : Nat) (s : State) (w : Nat) (r : FolRec) : FolRes :=
  let stop := iw w 36 13
  let next := (r.pc + 1) % 8192
  if stop < next ∨ r.loops.any (fun e => e.stop == stop) then .exc 2 0
  else if count = 0 then .own (s.setFol c { r.tick with pc := (stop + 1) % 8192, last := false })
  else if 4 ≤ r.loops.length then .exc 2 0
  else .own (s.setFol c { r.tick with pc := next, loops := ⟨next, stop, count⟩ :: r.loops, last := false })

/-- LOOP: a body of COUNT iterations. -/
def execFoLoop (c : Fin 64) (s : State) : Host.Outcome State Fault Refusal :=
  .next (folIssue c 5 (fun w r => folLoop c (iw w 20 16) s w r) s)

/-- LOOPD: the count is Dk[15:0]. -/
def execFoLoopd (c : Fin 64) (s : State) : Host.Outcome State Fault Refusal :=
  .next (folIssue c 6 (fun w r => folLoop c ((r.dReg (iw w 17 3)).toNat % 65536) s w r) s)

/-- LEAVE: pops the innermost entry; on an empty stack it raises LOOP. -/
def execFoLeave (c : Fin 64) (s : State) : Host.Outcome State Fault Refusal :=
  .next (folIssue c 7 (fun _ r =>
    match r.loops with
    | [] => .exc 2 0
    | _ :: rest => .own (s.setFol c { r.tick with pc := (r.pc + 1) % 8192, loops := rest, last := false })) s)

/-- WAITBLK: returns once a block later than the one that its latest return gave has been exchanged; until then the core waits (R333). -/
def execFoWaitblk (c : Fin 64) (s : State) : Host.Outcome State Fault Refusal :=
  .next (folIssue c 8 (fun _ r =>
    match r.got with
    | none => .own s
    | some k =>
      if r.cur.any fun q => decide (k ≤ q) then .own s
      else
        .own ((s.setFol c { r.tick with pc := (r.pc + 1) % 8192, last := false, cur := some k, cyc := 0 }).wr 0 (folA c 0x05C)
          (wd (toBits 32 k)))) s)

/-- Start of block k on the input grid of a core, and its deadline (R333). -/
def State.folBlockAt (s : State) (c : Nat) (k : Int) : At := s.blockAt (s.gridOut (s.folIn c)) k
def State.folDeadline (s : State) (c : Nat) (k : Int) : At := (s.folBlockAt c (k + 1)).add (-5000) 1

/-- Whether the deadline of block k has passed. -/
def State.folLate (s : State) (c : Nat) (k : Int) : Bool :=
  (s.folRec c).passed.any (fun q => decide (k ≤ q)) || s.reached ((s.folDeadline c k).add 1 1)

/-- DONE: returns the current block if its deadline has not passed (R334). -/
def execFoDone (c : Fin 64) (s : State) : Host.Outcome State Fault Refusal :=
  .next (folIssue c 9 (fun _ r =>
    let r1 := { r.tick with pc := (r.pc + 1) % 8192, last := false }
    match r.cur with
    | none => .own (s.setFol c r1)
    | some k =>
      if r.doneAt.any fun q => decide (k ≤ q) then .own (s.setFol c r1)
      else if s.folLate c k then .own (s.setFol c { r1 with doneAt := some k })
      else
        let n := min r1.cyc (2 ^ 32 - 1)
        let s1 := s.wr 0 (folA c 0x06C) (wd n)
        let s2 := s1.wr 0 (folA c 0x070) (wd (max (s1.rd 0 (folA c 0x070)).toNat n))
        .own (s2.setFol c { r1 with doneAt := some k, ready := some k, fresh := false })) s)

/-- RTE: resumes at EPC; in a delay slot it re-executes the branch with its decision (R331). -/
def execFoRte (c : Fin 64) (s : State) : Host.Outcome State Fault Refusal :=
  .next (folIssue c 10 (fun _ r =>
    let ds := r.estat / 16 % 4
    .own (s.setFol c { r.tick with
      pc := r.epc % 8192, em := false
      reuse := if ds ≠ 0 then some (r.estat / 64 % 2 == 1) else none
      skip1 := ds == 2
      last := r.estat / 256 % 2 == 1 })) s)

/-- HALT. -/
def execFoHalt (c : Fin 64) (s : State) : Host.Outcome State Fault Refusal :=
  .next (folIssue c 11 (fun _ r => .own ((s.setFol c r.tick).folHalt c 1)) s)

/-- TRAP. -/
def execFoTrap (c : Fin 64) (s : State) : Host.Outcome State Fault Refusal :=
  .next (folIssue c 12 (fun w _ => .exc 4 (iw w 0 8)) s)

/-! ### MODE class, R323 and R327 -/

def modeK (w : Nat) : Nat := iw w 49 3
def modeSpec (w : Nat) : Nat := iw w 52 5

/-- A mode write: it takes effect for the third instruction after it. -/
def folMode (v : Nat) (s : State) (r : FolRec) : FolRes :=
  if 16 ≤ v then .illegal 5 else .done s { r with shadow := r.shadow ++ [(v, 3)] }

/-- MOVM: MR takes IMM16. -/
def execFoMovm (c : Fin 64) (s : State) : Host.Outcome State Fault Refusal :=
  .next (folIssue c 192 (fun w r => folMode (iw w 0 16) s r) s)

/-- MOVMD: MR takes Dk[15:0]. -/
def execFoMovmd (c : Fin 64) (s : State) : Host.Outcome State Fault Refusal :=
  .next (folIssue c 193 (fun w r => folMode ((r.dReg (modeK w)).toNat % 65536) s r) s)

/-- RDM: Dk takes MR. -/
def execFoRdm (c : Fin 64) (s : State) : Host.Outcome State Fault Refusal :=
  .next (folIssue c 194 (fun w r => .done s (r.setD (modeK w) (BitVec.ofNat 36 r.mr))) s)

/-- The value of a special register. -/
def State.folSpec (s : State) (c : Nat) (r : FolRec) (n : Nat) : Nat :=
  match n with
  | 0 => (s.rd 0 (folA c 0x05C)).toNat
  | 1 => s.folIbase c (r.cur.getD 0)
  | 2 => s.folObase c (r.cur.getD 0)
  | 3 => r.epc
  | 4 => r.estat
  | 5 => r.emr
  | 6 => r.lr
  | 7 => match r.loops with
    | e :: _ => e.count
    | [] => 0
  | 20 => r.cyc
  | n => if n < 12 then r.n.getD (n - 8) 0 else if n < 16 then r.xp.getD (n - 12) 0 else r.yp.getD (n - 16) 0

/-- RDS: Dk takes a special register, right-aligned. LC with an empty loop stack is not stated: a free value (log entry 54). -/
def execFoRds (c : Fin 64) (s : State) : Host.Outcome State Fault Refusal :=
  .next (folIssue c 195 (fun w r =>
    if modeSpec w = 7 ∧ r.loops = [] then
      let (f, s1) := s.fresh 16
      .done s1 (r.setD (modeK w) (BitVec.ofNat 36 f))
    else .done s (r.setD (modeK w) (BitVec.ofNat 36 (s.folSpec c r (modeSpec w))))) s)

/-- WRS: a special register takes Dk; one marked No is ILLEGAL. -/
def execFoWrs (c : Fin 64) (s : State) : Host.Outcome State Fault Refusal :=
  .next (folIssue c 196 (fun w r =>
    let v := (r.dReg (modeK w)).toNat
    match modeSpec w with
    | 3 => .done s { r with epc := v % 2 ^ 13 }
    | 4 => .done s { r with estat := v % 2 ^ 24 }
    | 5 => .done s { r with emr := v % 2 ^ 16 }
    | 6 => .done s { r with lr := v % 2 ^ 13 }
    | n =>
      if n < 8 ∨ n = 20 then .illegal 6
      else if n < 12 then .done s (r.setN (n - 8) v)
      else if n < 16 then .done s (r.setPtr 2 (n - 12) v)
      else .done s (r.setPtr 3 (n - 16) v)) s)

end Sys2Proof.Machine
end

