-- ==== Sys2Proof/Machine/FoleyX.lean ====
section
/-!
DEFINITION. Machine/FoleyX.lean: the block exchange of the foley cores, synchronising resets, moves, states and tables
(spec/11_foley_cores.md, R332 to R345).
-/
namespace Sys2Proof.Machine

/-- The latest audio block of a core's input grid. -/
def State.folBlock (s : State) (c : Nat) : Option Int := Tab.get (fun _ => none) s.aud.blk (s.gridOut (s.folIn c))

/-- FOL.STATUS. -/
def State.setFolState (s : State) (c v : Nat) : State := s.wrF 0 (folA c 0x048) 0 3 v
def State.folPend (s : State) (c : Nat) : Bool := bitOf (s.rd 0 (folA c 0x048)) 5

/-- CFG fields. -/
def State.folEntry (s : State) (c : Nat) : Nat := s.rdF 0 (folA c 0x040) 0 13
def State.folAuto (s : State) (c : Nat) : Bool := bitOf (s.rd 0 (folA c 0x040)) 16
def State.folMissN (s : State) (c : Nat) : Nat := max 1 (s.rdF 0 (folA c 0x040) 20 4)
def State.folBackup (s : State) (c : Nat) : Nat := s.rdF 0 (folA c 0x040) 24 6

/-! ### Synchronising resets, R336 -/

/-- Zero LEN words from BASE of a memory; addresses wrap. -/
def State.folZero (s : State) (c sel : Nat) (dl : Word) : State :=
  let base := fld dl 0 14
  let len := min (fld dl 16 15) 16384
  let hit (a : Nat) : Bool := decide ((a + 16384 - base) % 16384 < len)
  { s with tbl := Tab.keep (fun k => !(decide (k / 2 ^ 28 = (pFol c * 16) * 65536 + sel) && hit (k / 16 % 2 ^ 24))) s.tbl }

/-- A synchronising reset that waits for block k (R336). -/
def State.folSync (s : State) (c : Nat) (k : Int) : State :=
  let s1 := (s.folZero c 2 (s.rd 0 (folA c 0x054))).folZero c 3 (s.rd 0 (folA c 0x058))
  let r := s1.folRec c
  let settle : Tab Nat := (s1.entIdxs (pFol c) 0 4 0 fun w => fld w 0 16 != 0).filterMap fun n =>
    if n < s1.folNout c then some (n, s1.entF (pFol c) 0 4 n 0 0 16) else none
  let r1 := { r with
    pc := s1.folEntry c
    d := FolRec.idle.d, a := FolRec.idle.a, ov := FolRec.idle.ov, n := FolRec.idle.n, lr := 0, mr := 1, loops := [], em := false
    shadow := [], slots := none, reuse := none, skip1 := false, last := false, cyc := 0
    cur := some (k - 1), doneAt := some (k - 1), ready := none, settle := settle, fresh := true }
  s1.setFol c r1

/-! ### The exchange, R332 to R337 -/

/-- Whether the banks of a binding fit in the memories (R332). -/
def State.folFits (s : State) (c : Nat) : Bool :=
  decide (s.folXio c + 2 * s.folIsz c ≤ 16384 ∧ s.folYio c + 2 * s.folOsz c ≤ 16384)

/-- FOLEY_EXCHANGE_IN: output block k of the bound channels goes into input bank k mod 2 (R332, R333). While a move is in progress the
bank is that of BACKUP (R339). -/
def execFoleyExchangeIn (c : Fin 64) (s : State) : Host.Outcome State Fault Refusal :=
  let r := s.folRec c
  .next (match s.folBlock c with
    | none => s
    | some k =>
      if !s.folBound c || (s.folState c != 2 && s.folState c != 3) || r.got.any (fun g => decide (k ≤ g)) then s
      else
        let b := gridB (s.gridOut (s.folIn c))
        let smp (i : Nat) : BitVec 36 := sampleHalf ((s.audOut (s.folIn c + i / b)).block.getD (i % b) 0)
        let t := if r.moving then s.folBackup c else c.val
        let s1 := forEach (List.range (s.folIsz c))
          (fun i s => s.setFolMem t 2 ((s.folIbase c k + i) % 16384) (wordOfHalves (smp (2 * i)) (smp (2 * i + 1)))) s
        if r.moving then s1 else s1.setFol c { r with got := some k })

/-- The input block that the results of block k become: k + 1 on the same grid, else the first block of the output grid that starts at
or after the end of block k (R333; log entry 56). -/
def State.folResultBlock (s : State) (c : Nat) (k : Int) : Int :=
  let gi := s.gridOut (s.folIn c)
  let go := s.gridIn (s.folOut c)
  if gi = go then k + 1
  else
    let a := s.sameInstant (s.folBlockAt c (k + 1)) (go / 2)
    let q := s.periodFrom go a
    0 - (0 - q) / (gridB go : Int)

/-- Give the crosspoint a block of a core's results; the latest blocks are kept. -/
def State.folDeposit (s : State) (c : Nat) (f : FolBlk) : State :=
  s.setFolBlks c (((s.folBlks c).filter fun g => decide (g.block ≠ f.block ∧ f.block ≤ g.block + 3)) ++ [f])

/-- Settling flags of n samples of a channel, and the counter after them (R337). -/
def settleFlags (n cnt : Nat) : List Bool × Nat := ((List.range n).map fun i => decide (i < cnt), cnt - n)

/-- FOLEY_EXCHANGE_OUT: after DONE, output bank k mod 2 goes to the crosspoint word by word as it stands (R333, R337). -/
def execFoleyExchangeOut (c : Fin 64) (s : State) : Host.Outcome State Fault Refusal :=
  let r := s.folRec c
  .next (match r.ready with
    | none => s
    | some k =>
      if !s.folBound c || s.folState c != 2 || r.moving then s
      else
        let b := gridB (s.gridIn (s.folOut c))
        let n := s.folNout c
        let smp (i : Nat) : BitVec 24 :=
          halfSample (halfOf (s.folMem c 3 ((s.folObase c k + i / 2) % 16384)) (i % 2 == 1))
        let cnt (j : Nat) : Nat := Tab.get (fun _ => 0) r.settle j
        let f : FolBlk := ⟨s.folResultBlock c k, (List.range n).map fun j => (List.range b).map fun q => smp (j * b + q),
          (List.range n).map fun j => (settleFlags b (cnt j)).1, false⟩
        let settle : Tab Nat := r.settle.filterMap fun e => if b < e.2 then some (e.1, e.2 - b) else none
        (s.folDeposit c f).setFol c { r with ready := none, taken := some k, settle := settle })

/-- The crosspoint repeats a core's previous block in place of block k: the block is flagged, REPEAT_BLOCKS counts and AUD.REPEAT rises
(R287, R334). Until the first DONE after a synchronising reset the channels carry zero samples with the settling flag (R337). -/
def State.folRepeat (s : State) (c : Nat) (k : Int) : State :=
  let b := gridB (s.gridIn (s.folOut c))
  let n := s.folNout c
  let m := s.folResultBlock c k
  let f : FolBlk :=
    if (s.folRec c).fresh then ⟨m, List.replicate n (List.replicate b 0), List.replicate n (List.replicate b true), true⟩
    else
      match ((s.folBlks c).filter fun g => decide (g.block < m)).getLast? with
      | some g => { g with block := m, rep := true }
      | none => ⟨m, List.replicate n (List.replicate b 0), List.replicate n (List.replicate b false), true⟩
  forEach (blocksOf (s.folOut c) n) (fun blk s => (s.audCount blk 1 1).audEvent 5 (s.ownIn blk)) (s.folDeposit c f)

/-- A move is triggered in the present block (R338). -/
def State.folTrigger (s : State) (c : Nat) : State :=
  let t := s.folBackup c
  if s.folPend c then s
  else if s.folState t = 4 ∧ s.pageOwner (pFol t) = s.pageOwner (pFol c) ∧ t ≠ c then
    (s.wrF 0 (folA c 0x048) 5 1 1).setFol c { s.folRec c with move := s.folBlock c }
  else s.folEvent c 6

/-- FOLEY_DEADLINE: the deadline of the present block. A block without DONE is missed (R334), and the MISS_N-th of the last 64 with
AUTO_MOVE triggers a move (R338). -/
def execFoleyDeadline (c : Fin 64) (s : State) : Host.Outcome State Fault Refusal :=
  let r := s.folRec c
  .next (match s.folBlock c with
    | none => s
    | some k =>
      if !s.folBound c || (s.folState c != 2 && s.folState c != 3) || r.passed.any (fun q => decide (k ≤ q)) ||
          !s.reached (s.folDeadline c k) then s
      else
        let s1 := s.setFol c { r with passed := some k }
        if r.ready = some k ∨ r.taken = some k then s1
        else
          let missed := k :: r.missed.filter fun q => decide (k < q + 64)
          let s2 := ((s1.setFol c { r with passed := some k, missed := missed }).incSat 0 (folA c 0x074) 1).folEvent c 0
          let s3 := s2.folRepeat c k
          if s3.folState c = 2 ∧ s3.folAuto c ∧ s3.folMissN c ≤ missed.length then s3.folTrigger c else s3)

/-- FOLEY_OVERRUN: block k + 2 has started and the core has not executed DONE for block k (R335). -/
def execFoleyOverrun (c : Fin 64) (s : State) : Host.Outcome State Fault Refusal :=
  let r := s.folRec c
  .next (match s.folBlock c, r.cur with
    | some m, some q =>
      let due := if r.doneAt = some q then q + 1 else q
      if !s.folBound c || !s.folRuns c || decide (m < due + 2) then s
      else ((((s.incSat 0 (folA c 0x078) 1).folEvent c 1).folSync c m).wr 0 (folA c 0x05C) (wd (toBits 32 m)))
    | _, _ => s)

/-! ### Commands, R340 -/

/-- A command that does not apply to the state. -/
def State.folCfg (s : State) (c : Nat) : State := s.folEvent c 7

/-- START: to RUN, through a synchronising reset; the first block is the next to be exchanged. -/
def State.folStart (s : State) (c : Nat) : State :=
  if (s.folState c = 1 ∨ s.folState c = 3) ∧ s.folBound c ∧ s.folFits c then
    let k := (s.folBlock c).getD (s.blockNow (s.gridOut (s.folIn c)))
    let s1 := (s.setFol c { s.folRec c with got := none, passed := some k, taken := none, move := none, moving := false }).folSync c (k + 1)
    (s1.setFolState c 2).wrF 0 (folA c 0x048) 8 4 0
  else s.folCfg c

/-- STOP: to IDLE; the outputs carry zero samples from the next block. -/
def State.folStop (s : State) (c : Nat) : State :=
  if s.folState c = 2 ∨ s.folState c = 3 then
    let k := s.folResultBlock c ((s.folBlock c).getD 0 - 1)
    let s1 := (s.setFolBlks c ((s.folBlks c).filter fun f => decide (f.block ≤ k))).setFol c
      { s.folRec c with ready := none, move := none, moving := false }
    ((s1.setFolState c 1).wrF 0 (folA c 0x048) 8 4 3).wrF 0 (folA c 0x048) 5 1 0
  else s.folCfg c

def State.folSpare (s : State) (c : Nat) : State := if s.folState c = 1 then s.setFolState c 4 else s.folCfg c
def State.folRelease (s : State) (c : Nat) : State :=
  if s.folState c = 4 ∨ s.folState c = 5 then s.setFolState c 1 else s.folCfg c
def State.folMoveCmd (s : State) (c : Nat) : State := if s.folState c = 2 then s.folTrigger c else s.folCfg c

/-- A write of FOL.CTRL: its set bits in rising order (log entry 57). -/
def writeFolCtrl (c : Nat) (d : Word) (s : State) : State :=
  let s1 := if bitOf d 0 then s.folStart c else s
  let s2 := if bitOf d 1 then s1.folStop c else s1
  let s3 := if bitOf d 2 then s2.folSpare c else s2
  let s4 := if bitOf d 3 then s3.folRelease c else s3
  if bitOf d 4 then s4.folMoveCmd c else s4

/-- FOL_START: a write of FOL.CTRL with START set. -/
def execFolStart (t : Tag) (c : Fin 64) (s : State) : Host.Outcome State Fault Refusal :=
  .next (hostWrite t (folA c 0x044) 1 (writeFolCtrl c 1) s)

/-- FOL_STOP. -/
def execFolStop (t : Tag) (c : Fin 64) (s : State) : Host.Outcome State Fault Refusal :=
  .next (hostWrite t (folA c 0x044) 2 (writeFolCtrl c 2) s)

/-- FOL_SPARE. -/
def execFolSpare (t : Tag) (c : Fin 64) (s : State) : Host.Outcome State Fault Refusal :=
  .next (hostWrite t (folA c 0x044) 4 (writeFolCtrl c 4) s)

/-- FOL_RELEASE. -/
def execFolRelease (t : Tag) (c : Fin 64) (s : State) : Host.Outcome State Fault Refusal :=
  .next (hostWrite t (folA c 0x044) 8 (writeFolCtrl c 8) s)

/-- FOL_MOVE: a host write of FOL.CTRL.MOVE (R338). -/
def execFolMove (t : Tag) (c : Fin 64) (s : State) : Host.Outcome State Fault Refusal :=
  .next (hostWrite t (folA c 0x044) 16 (writeFolCtrl c 16) s)

/-! ### Moves, R339 -/

/-- Copy P, X, Y and the settle table of a core to another. -/
def State.folCopy (s : State) (c t : Nat) : State :=
  let mine (k : Nat) (p : Nat) : Bool := decide (k / 2 ^ 48 = pFol p) && decide (1 ≤ k / 2 ^ 28 % 65536 ∧ k / 2 ^ 28 % 65536 ≤ 4)
  let from' := s.tbl.filter fun e => mine e.1 c
  let clear := Tab.keep (fun k => !mine k t) s.tbl
  { s with tbl := from'.foldl (fun b e => Tab.put tblReset b (e.1 % 2 ^ 48 + pFol t * 2 ^ 48) e.2) clear }

/-- CORE_MOVE_HALT: the start of block k + 1 of a move: the core halts, and its memories, ENTRY, IO, DLX and DLY go to BACKUP. -/
def execCoreMoveHalt (c : Fin 64) (s : State) : Host.Outcome State Fault Refusal :=
  let r := s.folRec c
  let t := s.folBackup c
  .next (match r.move, s.folBlock c with
    | some k, some m =>
      if s.folState c ≠ 2 ∨ r.moving ∨ m < k + 1 then s
      else
        let s1 := (s.setFol c { r with moving := true }).folCopy c t
        let s2 := s1.wrF 0 (folA t 0x040) 0 13 (s1.folEntry c)
        forEach [0x050, 0x054, 0x058] (fun off s => s.wr 0 (folA t off) (s.rd 0 (folA c off))) s2
    | _, _ => s)

/-- CORE_MOVE_RESUME: the start of block k + 2 of a move: the binding moves, BACKUP starts through a synchronising reset, and the core
is RETIRED. -/
def execCoreMoveResume (c : Fin 64) (s : State) : Host.Outcome State Fault Refusal :=
  let r := s.folRec c
  let t := s.folBackup c
  .next (match r.move, s.folBlock c with
    | some k, some m =>
      if !r.moving ∨ m < k + 2 then s
      else
        let w0 := s.ent pAud 0 9 c 0
        let w1 := s.ent pAud 0 9 c 1
        let outB := s.folOut c
        let n := s.folNout c
        let blks := s.folBlks c
        let s1 := ((s.unclaim 4 c).setEntWords pAud 0 9 c 0 [0, 0]).setEntWords pAud 0 9 t 0 [w0, w1]
        let s2 := ((s1.claim 4 t outB n).setFolBlks c []).setFolBlks t blks
        let r1 := { s2.folRec t with got := none, passed := r.passed, taken := none, missed := [], move := none, moving := false }
        let s3 := (s2.setFol t r1).folSync t m
        let s4 := ((s3.setFolState t 2).wr 0 (folA t 0x05C) (wd (toBits 32 m))).wrF 0 (folA t 0x048) 16 6 c
        let s5 := ((s4.setFolState c 5).wrF 0 (folA c 0x048) 16 6 t).wrF 0 (folA c 0x048) 5 1 0
        ((s5.setFol c { r with move := none, moving := false }).folEvent c 5).folEvent t 5
    | _, _ => s)

/-- The island of a core is flagged degraded (R338). -/
def State.folDegraded (s : State) (c : Nat) : State :=
  if s.folState c = 2 ∧ s.folAuto c then s.folTrigger c else s

/-- An uncorrectable error in a core's memory: the exception ECC (R328). -/
def State.folEcc (s : State) (c : Nat) : State := if s.folRuns c then s.folExc c 5 0 else s.folEvent c 4

/-! ### Registers and tables, R341, R343 and R344 -/

/-- A write of FOL.CFG. In RUN only AUTO_MOVE, MISS_N and BACKUP change; a write that would change ENTRY then has no effect. -/
def writeFolCfg (c : Nat) (d : Word) (s : State) : State :=
  let w := d &&& 0x3FF11FFF
  if s.pageLocked (pFol c) then s
  else if s.folState c = 2 ∧ fld w 0 13 ≠ s.folEntry c then s.folCfg c
  else s.wr 0 (folA c 0x040) w

/-- A write of FOL.IO, DLX or DLY. -/
def writeFolRegion (c off : Nat) (d : Word) (s : State) : State :=
  if s.pageLocked (pFol c) then s
  else if s.folState c = 2 then s.folCfg c
  else s.wr 0 (folA c off) (d &&& (if off = 0x050 then 0x3FFF3FFF else 0x7FFF3FFF))

/-- A write of FOL.SNAP. -/
def State.folSnap (s : State) (c : Nat) : State :=
  forEach (List.range 5) (fun i s => s.snap 0 (folA c (0x070 + 4 * i)) (folA c (0x088 + 4 * i))) s

/-- Entries and words of a FOL table. -/
def folTable (sel : Nat) : Option (Nat × Nat) :=
  match sel with
  | 1 => some (8192, 2)
  | 2 => some (16384, 3)
  | 3 => some (16384, 3)
  | 4 => some (1024, 1)
  | _ => none

def folTableRead (c sel idx : Nat) (s : State) : Nat × List Word :=
  match folTable sel with
  | none => (1, [])
  | some (n, words) => if n ≤ idx then (2, []) else (0, s.entWords (pFol c) 0 sel idx words)

/-- Writes: P only while the core is not in RUN; X, Y and the settle table at any time. -/
def folTableWrite (c sel idx : Nat) (d : List Word) (s : State) : Nat × State :=
  match folTable sel with
  | none => (1, s)
  | some (n, _) =>
    if n ≤ idx then (2, s)
    else
      match sel with
      | 1 => if s.folState c = 2 then (3, s.folCfg c) else (0, s.setEntWords (pFol c) 0 1 idx 0 [dat d 0, dat d 1])
      | 4 => (0, s.setEnt (pFol c) 0 4 idx 0 (dat d 0 &&& 0xFFFF))
      | _ => (0, s.setEntWords (pFol c) 0 sel idx 0 [dat d 0, dat d 1, dat d 2 &&& 0xFF])

/-- Management initialisation of every core: memories zeroed, IDLE, READY (R341). -/
def State.folInit (s : State) (c : Nat) : State :=
  let s1 := { s with tbl := Tab.keep (fun k => !(decide (k / 2 ^ 48 = pFol c) && decide (k / 2 ^ 28 % 65536 ≤ 3))) s.tbl }
  (s1.setFolState c 1).wrF 0 (regA (pFol c) 0x014) 0 1 1

/-- Gating a core clears its memories; it is NOT_LOADED (R342). -/
def State.folGate (s : State) (c : Nat) : State :=
  let s1 := { s with tbl := Tab.keep (fun k => !(decide (k / 2 ^ 48 = pFol c) && decide (k / 2 ^ 28 % 65536 ≤ 3))) s.tbl }
  (s1.setFolState c 0).setFol c FolRec.idle

end Sys2Proof.Machine
end

