-- ==== Sys2Proof/Machine/Montage.lean ====
section
/-!
DEFINITION. Machine/Montage.lean: the montage compositor of spec/12_montage.md (R346 to R368): heads, layers and their pixel path,
decisions, composition, and the MON tables.
-/
namespace Sys2Proof.Machine

/-! ### Entries -/

/-- Words of the layout as staged (what a read returns), and as in force (R361). -/
def State.monEnt (s : State) (sel idx w : Nat) : Word := s.ent pMon 0 sel idx w
def State.monApp (s : State) (sel idx w : Nat) : Word := Tab.get (fun _ => 0) s.mon.applied (tblKey pMon 0 sel idx w)

def State.layRec (s : State) (l : Nat) : LayRec := Tab.get (fun _ => LayRec.idle) s.mon.lays l
def State.setLay (s : State) (l : Nat) (r : LayRec) : State :=
  { s with mon := { s.mon with lays := Tab.put (fun _ => LayRec.idle) s.mon.lays l r } }
def State.headRec (s : State) (h : Nat) : HeadRec := Tab.get (fun _ => HeadRec.idle) s.mon.heads h
def State.setHead (s : State) (h : Nat) (r : HeadRec) : State :=
  { s with mon := { s.mon with heads := Tab.put (fun _ => HeadRec.idle) s.mon.heads h r } }

/-- Owners of a head and of a layer (R58). -/
def State.headOwner (s : State) (h : Nat) : Nat := s.partOwner 3 h
def State.layOwner (s : State) (l : Nat) : Nat := s.partOwner 2 (4096 + l)

/-- Fields of a head entry's word 0. -/
def headEn (w : Word) : Bool := bitOf w 31
def headHold (w : Word) : Bool := bitOf w 30

/-- The descriptor of a head's essence without its RATE, and with the minimum of R40 (R346). -/
def headDesc0 (w : Word) : Desc :=
  ⟨wd (2 ^ 31 + fld w 27 3 * 2 ^ 21),
    wd (fld w 23 4 * 2 ^ 28 + fld w 19 4 * 2 ^ 24 + fld w 17 2 * 2 ^ 22 + fld w 16 1 * 2 ^ 20 + fld w 14 2 * 2 ^ 18 +
      fld w 11 3 * 2 ^ 15 + fld w 10 1 * 2 ^ 14), 0⟩
def headDesc (w : Word) : Desc := let d := headDesc0 w; { d with w0 := setFld d.w0 0 16 d.rateMin }

/-- Active picture of a head: width and height. -/
def headSize (w : Word) : Nat × Nat := match rasterOf (fld w 23 4) with | some r => (r.width, r.height) | none => (0, 0)

/-- The head of a layer, as staged and as in force. -/
def State.layHead (s : State) (l : Nat) : Nat := fld (s.monEnt 2 l 0) 24 6
def State.layOn (s : State) (l : Nat) : Nat := fld (s.monApp 2 l 0) 24 6
def layDims (w2 : Word) : Nat × Nat := (fld w2 0 13, fld w2 16 13)

/-- Size of a picture slot in bytes (R357), and the bytes of a layer store and of a plane buffer from the start of the region. -/
def slotBytes (w2 : Word) : Nat := cdiv (fld w2 0 13 * fld w2 16 13 * 4) 4096 * 4096
def storeRange (w2 w5 : Word) : Nat × Nat := (fld w5 0 22 * 4096, 3 * slotBytes w2)
def bufRange (w0 w3 w4 : Word) : Nat × Nat := (fld w0 0 22 * 4096, fld w4 0 18 * fld w3 16 13)

/-- Stores and buffers of a head's valid layers and enabled planes, but for one entry (TBL_SEL, index). -/
def State.headStores (s : State) (h : Nat) (but : Nat × Nat) : List (Nat × Nat) :=
  (((s.entIdxs pMon 0 2 0 fun w => bitOf w 31 && fld w 24 6 == h).filter fun l => (2, l) != but).map fun l =>
      storeRange (s.monEnt 2 l 2) (s.monEnt 2 l 5)) ++
    ((idxs 4 fun n => bitOf (s.monEnt 4 (h * 4 + n) 0) 31 && (4, h * 4 + n) != but).flatMap fun n =>
      let i := h * 4 + n
      [bufRange (s.monEnt 4 i 0) (s.monEnt 4 i 3) (s.monEnt 4 i 4), bufRange (s.monEnt 4 i 1) (s.monEnt 4 i 3) (s.monEnt 4 i 4)])

/-! ### Charges, R365 -/

/-- User numbers of a head, a layer and a plane in the reel store's accounts. -/
def headUser (h : Nat) : Nat := userNo 3 h
def layUser (l : Nat) : Nat := userNo 3 (64 + l)
def planeUser (i : Nat) : Nat := userNo 3 (448 + i)

/-- Demand of a picture of w × h on a head. -/
def headDemand (w0 : Word) (wh : Nat × Nat) : Nat :=
  let (fn, fd) := (headDesc0 w0).frameRate
  planeDemand wh.1 wh.2 fn fd

/-- The charges of a head with entry word w0: its own read, its valid layers and its enabled planes, as the tables of `s` stand. -/
def State.headCharges (s : State) (h : Nat) (w0 : Word) : List (Nat × Nat) :=
  (headUser h, if headEn w0 then headDemand w0 (headSize w0) else 0) ::
    (((s.entIdxs pMon 0 2 0 fun w => bitOf w 31 && fld w 24 6 == h).map fun l => (layUser l, headDemand w0 (layDims (s.monEnt 2 l 2)))) ++
      (idxs 4 fun n => bitOf (s.monEnt 4 (h * 4 + n) 0) 31).map fun n =>
        (planeUser (h * 4 + n), headDemand w0 (layDims (s.monEnt 4 (h * 4 + n) 3))))

/-- Charge users, and show the head's total in its status entry. -/
def State.chargeAll (s : State) (cs : List (Nat × Nat)) : State := forEach cs (fun (e : Nat × Nat) s => s.charge e.1 e.2 e.2) s
def State.showDemand (s : State) (h : Nat) : State :=
  s.setEnt pMon 0 8 h 3 (wd ((s.headCharges h (s.monEnt 1 h 0)).map fun e => e.2).sum)

/-- BUDGET and REEL_CAP of new charges: 8, 9 or 0. -/
def State.chargeReason (s : State) (p : Nat) (cs : List (Nat × Nat)) : Nat :=
  let new := (cs.map fun e => e.2).sum
  let old := (cs.map fun e => s.demandOf e.1).sum
  let oldP := (cs.map fun e => if s.userPart e.1 = p then s.rateOf e.1 else 0).sum
  if old < new ∧ budgetLimit < s.budgetUsed - old + new then 8
  else if oldP < new ∧ s.reelCap p < s.reelLoad p - oldP + new then 9
  else 0

/-! ### Writes, R347 to R349, R361, R364, R367 and R368 -/

/-- A refused write records its REASON and changes nothing else (R368). -/
def State.monRefuse (s : State) (t : Tag) (reason idx : Nat) : Nat × State :=
  (3, s.setReason pMon 0x040 (tagBank t) reason idx)
def State.monAccept (s : State) (t : Tag) : Nat × State := (0, s.clearReason pMon 0x040 (tagBank t))

/-- Words of a layout entry. -/
def monWords (sel : Nat) : Nat :=
  match sel with
  | 1 => 4
  | 2 => 6
  | 3 => 15
  | _ => 5

/-- Head of a layout entry with word 0 given, and whether a hold stages a write of it: of that head, or of the head that a layer in force
leaves (R361). -/
def State.entryHead (s : State) (sel idx : Nat) (w0 : Word) : Nat :=
  match sel with
  | 1 => idx
  | 2 => fld w0 24 6
  | 4 => idx / 4
  | _ => s.layHead idx
def State.monHeld (s : State) (sel idx : Nat) (w0 : Word) : Bool :=
  let held (h : Nat) : Bool := headHold (s.monEnt 1 h 0)
  held (s.entryHead sel idx w0) || ((sel == 2 || sel == 3) && bitOf (s.monApp 2 idx 0) 31 && held (s.layOn idx))

/-- An entry of the layout has been written in this beat: the write waits for a decision, or for the release of a hold. -/
def State.monPend (s : State) (sel idx : Nat) : State :=
  let ws := (List.range (monWords sel)).map fun w => s.monEnt sel idx w
  let k := sel * 2 ^ 24 + idx
  let l := Tab.get (fun _ => []) s.mon.pend k ++ [⟨s.beat, s.monHeld sel idx (dat ws 0), ws⟩]
  { s with mon := { s.mon with pend := Tab.put (fun _ => []) s.mon.pend k l } }

/-- A hold has been cleared: the staged writes that no hold stages any longer are released, together, to the next decisions. -/
def State.monRelease (s : State) : State :=
  let free (k : Nat) (w : LayoutWrite) : LayoutWrite :=
    if w.staged && !s.monHeld (k / 2 ^ 24) (k % 2 ^ 24) (dat w.words 0) then { w with staged := false, beat := s.beat } else w
  { s with mon := { s.mon with pend := s.mon.pend.map fun e => (e.1, e.2.map (free e.1)) } }

/-- MON.HEAD_ON and MON.LAYERS_VALID. -/
def State.monCounts (s : State) : State :=
  let on := s.entIdxs pMon 0 1 0 fun w => bitOf w 31
  let mask := on.foldl (fun n h => n + 2 ^ h) 0
  let n := (s.entIdxs pMon 0 2 0 fun w => bitOf w 31).length
  ((s.wr 0 (regA pMon 0x04C) (wd mask)).wr 0 (regA pMon 0x050) (wd (mask / 2 ^ 32))).wr 0 (regA pMon 0x054) (wd n)

/-- The first check that a head entry fails, or 0 (order: log entry 58). -/
def State.headReason (s : State) (h : Nat) (w0 w1 : Word) : Nat :=
  let old := s.monEnt 1 h 0
  let x := 4096 + h
  let p := s.headOwner h
  let d := headDesc0 w0
  let (fn, fd) := d.frameRate
  let (w, ht) := headSize w0
  let seg := segOf w1
  let nseg := nsegOf w1
  let moved := (w0 &&& 0xBFFFFC00) != (old &&& 0xBFFFFC00) || w1 != s.monEnt 1 h 1
  if !s.ready pMon then 4
  else if s.portInUse selIn x && moved then 1
  else if (nseg ≠ 0 && !regionOk seg nseg) || (headEn w0 && (fld w0 17 2 == 1 || fld w0 17 2 == 3 || decide (fld w0 23 4 < 2) ||
      decide (6 < fld w0 23 4) && decide (8 < fld w0 23 4) || fld w0 14 2 == 0 || fld w0 14 2 == 3 || (frateOf (fld w0 19 4)).isNone)) then 2
  else if nseg ≠ 0 && s.segBad p seg nseg then 5
  else if nseg ≠ 0 && ((s.headRegions h).any (fun r => overlap r (seg, nseg)) || (s.regions 0xFFFF).any fun r => overlap r (seg, nseg)) then 6
  else if (s.headStores h (0, 0)).any fun r => decide (nseg * 2 ^ 26 < r.1 + r.2) then 7
  else
    let c := s.chargeReason p (s.headCharges h w0)
    if c ≠ 0 then c
    else if headEn w0 ∧ 497664000 * fd < w * ht * fn then 10
    else 0

/-- A write of a head entry. -/
def headWrite (t : Tag) (h : Nat) (d : List Word) (s : State) : Nat × State :=
  let w0 := dat d 0 &&& 0xFFFFFC00
  let w1 := dat d 1 &&& 0x00FF0FFF
  let w2 := dat d 2 &&& 0x0FFF0FFF
  let w3 := dat d 3 &&& 0xFFF
  let old := s.monEnt 1 h 0
  let i := (4096 + h) * 16
  let dsc := headDesc w0
  if !tagOwns t (s.headOwner h) then (4, s)
  else
    let r := s.headReason h w0 w1
    if r ≠ 0 then s.monRefuse t r h
    else
      let moved := (w0 &&& 0xBFFFFC00) != (old &&& 0xBFFFFC00)
      let dr := if headEn w0 && moved then s.descReason .m selIn i (s.portInUse selIn (4096 + h)) dsc else 0
      if dr ≠ 0 then (s.descStatus t selIn dr i).monRefuse t 11 h
      else
        let s0 := (s.setEntWords pMon 0 1 h 0 [w0, w1, w2, w3]).monPend 1 h
        let s1 := if headHold old && !headHold w0 then s0.monRelease else s0
        let s2 := if !moved then s1
          else if headEn w0 then
            ((s1.setEntWords pXpt 0 1 i 0 [dsc.w0, dsc.w1, dsc.w2, dsc.data3]).wrF (tagBank t) (regA pXpt 0x048) 0 4 0).setHead h
              { HeadRec.idle with enAt := s1.beat }
          else (((s1.setEntF pXpt 0 1 i 0 31 1 0).setEnt pXpt 0 1 i 3 0).dropDue (4096 + h)).setHead h HeadRec.idle
        let s3 := ((s2.chargeAll (s2.headCharges h w0)).showDemand h).setEntF pMon 0 8 h 0 0 2 (if headEn w0 then 1 else 0)
        s3.monCounts.monAccept t

/-- Whether a rectangle lies in a head's active picture. -/
def State.rectOk (s : State) (h x y w ht : Nat) : Bool :=
  let (hw, hh) := headSize (s.monEnt 1 h 0)
  decide (1 ≤ w ∧ w ≤ 4096 ∧ 1 ≤ ht ∧ ht ≤ 4096 ∧ x + w ≤ hw ∧ y + ht ≤ hh)

/-- SMALL and OVERLAP of stores or buffers of a head: 7, 6 or 0. -/
def State.storeReason (s : State) (h : Nat) (but : Nat × Nat) (new : List (Nat × Nat)) : Nat :=
  let size := nsegOf (s.monEnt 1 h 1) * 2 ^ 26
  if (new.any fun r => (s.headStores h but).any fun o => overlap o r) || (new.zipIdx.any fun e => new.zipIdx.any fun f =>
      decide (e.2 < f.2) && overlap e.1 f.1) then 6
  else if new.any fun r => decide (size < r.1 + r.2) then 7
  else 0

/-- A write of a layer entry. -/
def layerWrite (t : Tag) (l : Nat) (d : List Word) (s : State) : Nat × State :=
  let e := [dat d 0 &&& 0xFFFFFFFE, dat d 1 &&& 0x1FFF1FFF, dat d 2 &&& 0x1FFF1FFF, dat d 3 &&& 0x1FFF1FFF, dat d 4 &&& 0x1FFF1FFF,
    dat d 5 &&& 0xFF3FFFFF]
  let w0 := dat e 0
  let h := fld w0 24 6
  let own := s.layOwner l
  let oldHead := s.layHead l
  let (dw, dh) := layDims (dat e 2)
  let demand := if bitOf w0 31 then headDemand (s.monEnt 1 h 0) (dw, dh) else 0
  let r :=
    if !s.ready pMon then 4
    else if !bitOf w0 31 then 0
    else if !s.rectOk h (fld (dat e 1) 0 13) (fld (dat e 1) 16 13) dw dh || (bitOf w0 3 && (fld (dat e 4) 0 13 == 0 || fld (dat e 4) 16 13 == 0)) then 2
    else if s.headOwner h ≠ own then 3
    else
      let q := s.storeReason h (2, l) [storeRange (dat e 2) (dat e 5)]
      if q ≠ 0 then q else s.chargeReason own [(layUser l, demand)]
  if !tagOwns t own then (4, s)
  else if r ≠ 0 then s.monRefuse t r l
  else
    let s1 := ((s.setEntWords pMon 0 2 l 0 e).monPend 2 l).charge (layUser l) demand demand
    ((s1.showDemand oldHead).showDemand h).monCounts.monAccept t

/-- A write of a plane entry. -/
def planeWrite (t : Tag) (i : Nat) (d : List Word) (s : State) : Nat × State :=
  let h := i / 4
  let e := [dat d 0 &&& 0xC03FFFFF, dat d 1 &&& 0x3FFFFF, dat d 2 &&& 0x1FFF1FFF, dat d 3 &&& 0x1FFF1FFF, dat d 4 &&& 0x3FFFF]
  let w0 := dat e 0
  let own := s.headOwner h
  let (w, ht) := layDims (dat e 3)
  let stride := fld (dat e 4) 0 18
  let demand := if bitOf w0 31 then headDemand (s.monEnt 1 h 0) (w, ht) else 0
  let r :=
    if !s.ready pMon then 4
    else if !bitOf w0 31 then 0
    else if !s.rectOk h (fld (dat e 2) 0 13) (fld (dat e 2) 16 13) w ht || stride % 64 != 0 || decide (stride < 4 * w) then 2
    else
      let q := s.storeReason h (4, i) [bufRange w0 (dat e 3) (dat e 4), bufRange (dat e 1) (dat e 3) (dat e 4)]
      if q ≠ 0 then q else s.chargeReason own [(planeUser i, demand)]
  if !tagOwns t own then (4, s)
  else if r ≠ 0 then s.monRefuse t r i
  else
    let s1 := ((s.setEntWords pMon 0 4 i 0 e).monPend 4 i).charge (planeUser i) demand demand
    (s1.showDemand h).monAccept t

/-- A word of a colour entry: M, PRE and POST, and EN of a head plane colour. -/
def colourWord (d : List Word) (w : Nat) : Word :=
  if w < 9 then dat d w &&& 0x3FFFF else if w < 15 then dat d w &&& 0x3FFF else dat d w &&& 1

/-- Entries of a MON table, its words, and whether it is RO. -/
def monTable (sel : Nat) : Option (Nat × Nat × Bool) :=
  match sel with
  | 1 => some (64, 4, false)
  | 2 => some (384, 6, false)
  | 3 => some (384, 15, false)
  | 4 => some (256, 5, false)
  | 5 => some (64, 16, false)
  | 6 => some (1024, 7, false)
  | 7 => some (384, 11, true)
  | 8 => some (64, 10, true)
  | _ => none

/-- Owner of an entry. -/
def State.monOwner (s : State) (sel idx : Nat) : Nat :=
  match sel with
  | 1 => s.headOwner idx
  | 4 => s.headOwner (idx / 4)
  | 5 => s.headOwner idx
  | 8 => s.headOwner idx
  | _ => s.layOwner idx

/-- Reads of the MON tables: coefficients by all, the rest by the owner. -/
def monTableRead (t : Tag) (sel idx : Nat) (s : State) : Nat × List Word :=
  match monTable sel with
  | none => (1, [])
  | some (n, words, _) =>
    if n ≤ idx then (2, [])
    else if sel ≠ 6 ∧ !tagOwns t (s.monOwner sel idx) then (4, [])
    else (0, s.entWords pMon 0 sel idx words)

/-- Writes of the MON tables. -/
def monTableWrite (t : Tag) (sel idx : Nat) (d : List Word) (s : State) : Nat × State :=
  match monTable sel with
  | none => (1, s)
  | some (n, _, ro) =>
    if n ≤ idx then (2, s)
    else
      match sel with
      | 1 => headWrite t idx d s
      | 2 => layerWrite t idx d s
      | 4 => planeWrite t idx d s
      | 6 =>
        if !tagIsP0 t then (4, s)
        else if !s.ready pMon then s.monRefuse t 4 idx
        else (s.setEntWords pMon 0 6 idx 0 ((List.range 7).map fun w => dat d w &&& 0x3FFF3FFF)).monAccept t
      | _ =>
        if !tagOwns t (s.monOwner sel idx) then (4, s)
        else if ro then s.monRefuse t 2 idx
        else if !s.ready pMon then s.monRefuse t 4 idx
        else
          let s1 := s.setEntWords pMon 0 sel idx 0 ((List.range (if sel = 5 then 16 else 15)).map (colourWord d))
          (if sel = 3 then s1.monPend 3 idx else s1).monAccept t

/-- A write of MON.SNAP with bit 0 set. -/
def State.monSnap (s : State) (p : Nat) : State :=
  let s1 := forEach ((s.tblIdxs pMon 0 7).filter fun l => s.layOwner l == p)
    (fun l s => ((s.snapEnt pMon 0 7 l 1 8).snapEnt pMon 0 7 l 2 9).snapEnt pMon 0 7 l 3 10) s
  forEach ((s1.tblIdxs pMon 0 8).filter fun h => s1.headOwner h == p)
    (fun h s => (s.snapEnt pMon 0 8 h 1 8).snapEnt pMon 0 8 h 2 9) s1

/-! ### What a layer takes, R350 and R351 -/

/-- The input descriptor of the source routed to a layer, by the words that leave in this beat, and by the route in force. -/
def State.laySrc (s : State) (l : Nat) : Option Desc :=
  match pathAt s.fab.egr (4096 + l) with
  | some p => let d := s.inDesc p.src 0; if d.valid then some d else none
  | none => none

/-- A word that leaves at a layer's fabric output. -/
def State.layWord (s : State) (l : Nat) (w : FWord) : State :=
  let src := (s.fab.leftBy (4096 + l)).map fun p => s.inDesc p.src 0
  match src with
  | none => s
  | some d =>
    let r := s.layRec l
    let sof := w.side.getLsbD 6
    let sol := w.side.getLsbD 5
    let line := if sof then 1 else if sol then r.line + 1 else r.line
    let ((a, _), (b, m)) := activeLines d.raster d.scan
    let bank := fld (s.monApp 2 l 0) 4 4
    let coef (_ : Unit) : List Word := (List.range 64).flatMap fun p => s.entWords pMon 0 6 (bank * 64 + p) 7
    let second := decide (d.scan = 1 ∧ m ≠ 0 ∧ line = b)
    let starts := sol && (line == a || second)
    if d.kind = 4 then
      (if starts then s.setLay l { r with line := line, run := true, second := second, coef := coef () }
      else if sof || sol then s.setLay l { r with line := line, run := r.run && !sof }
      else s)
    else if d.kind ≠ 0 then s
    else if starts then s.setLay l { r with line := line, run := true, second := second, lines := [[w.data]], coef := coef () }
    else if sof then s.setLay l { r with line := line, run := false, lines := [] }
    else if !(r.run && d.active line) then s.setLay l { r with line := line }
    else if sol then s.setLay l { r with line := line, lines := r.lines ++ [[w.data]] }
    else
      s.setLay l { r with lines := match r.lines.getLast? with
        | some x => r.lines.dropLast ++ [x ++ [w.data]]
        | none => r.lines }

/-- One beat of the compositor's inputs. A word whose SLOT matches no valid descriptor is discarded and counted in MON.CFG (R20; log
entry 154). -/
def State.monBeat (s : State) : State :=
  forEach (s.fab.leaving.filter fun e => decide (4096 ≤ e.1 ∧ e.1 < 4480) && e.2.valid && bitOf (s.monApp 2 (e.1 - 4096) 0) 31)
    (fun (e : Nat × FWord) s => match s.wordSlot e.1 e.2 with
      | some _ => s.layWord (e.1 - 4096) e.2
      | none => s.raise pMon 4 0) s

/-- Active frame of a source: width and height. -/
def Desc.frameSize (d : Desc) : Nat × Nat := match rasterOf d.raster with | some r => (r.width, r.height) | none => (0, 0)

/-- The crop in frame coordinates: origin and size, clipped to the active picture (R351). -/
def State.layCrop (s : State) (l : Nat) (d : Desc) : (Nat × Nat) × (Nat × Nat) :=
  let (w, h) := d.frameSize
  if bitOf (s.monApp 2 l 0) 3 then
    let x := fld (s.monApp 2 l 3) 0 13
    let y := fld (s.monApp 2 l 3) 16 13
    ((x, y), (min (fld (s.monApp 2 l 4) 0 13) (w - x), min (fld (s.monApp 2 l 4) 16 13) (h - y)))
  else ((0, 0), (w, h))

/-- The STATE that R350 gives a layer: 5 FORMAT, 4 RATE, or none where it shows its source. -/
def State.layBad (s : State) (l : Nat) : Option Nat :=
  let o := s.outDesc (4096 + l)
  let bad := o.mode ≠ 0 ∨ !(o.kind == 0 || o.kind == 4)
  match s.laySrc l with
  | none => if bad then some 5 else none
  | some d =>
    let hd := headDesc0 (s.monEnt 1 (s.layOn l) 0)
    let (fn, fd) := d.frameRate
    let (hn, hd') := hd.frameRate
    let pics := if d.scan = 1 then 2 else 1
    let (_, (sw, sh)) := s.layCrop l d
    let sh1 := if d.scan = 1 then sh / 2 else sh
    let (dw, dh) := layDims (s.monApp 2 l 2)
    if bad ∨ !(d.kind == 0 || d.kind == 4) then some 5
    else if pics * fn * hd' ≠ hn * fd then some 4
    else if dw < cdiv sw 8 ∨ 16 * sw < dw ∨ dh < cdiv sh1 8 ∨ 16 * sh1 < dh ∨ sw = 0 ∨ sh1 = 0 then some 5
    else none

/-! ### The pixel path, R352 to R355 -/

/-- A pixel: its components Y or G, Cb or B, Cr or R at 12 bits. -/
abbrev Px := Int × Int × Int

/-- Pixels of a line of 4:4:4 samples, and of 4:2:2 samples with their chroma interpolated (R352, step 1). -/
def px444 (l : List (BitVec 12)) (w : Nat) : List Px :=
  (List.range w).map fun i => ((l.getD (3 * i) 0).toNat, (l.getD (3 * i + 1) 0).toNat, (l.getD (3 * i + 2) 0).toNat)
def px422 (l : List (BitVec 12)) (w : Nat) : List Px :=
  (List.range w).map fun x =>
    let g (i : Nat) : Nat := (l.getD i 0).toNat
    let c (x k : Nat) : Nat := g (4 * (x / 2) + 2 * k)
    let y := g (4 * (x / 2) + 1 + 2 * (x % 2))
    if x % 2 = 0 then (y, c x 0, c x 1)
    else if x + 1 < w then (y, ((c (x - 1) 0 + c (x + 1) 0) / 2 : Nat), ((c (x - 1) 1 + c (x + 1) 1) / 2 : Nat))
    else (y, c (x - 1) 0, c (x - 1) 1)

/-- A component clipped to 12 bits. -/
def clip12 (v : Int) : Int := if v < 0 then 0 else if 4095 < v then 4095 else v

/-- A coefficient of a bank copied as 64 phases of 7 words: tap t of H, or of V. -/
def coefOf (c : List Word) (phase t : Nat) (vert : Bool) : Int :=
  let w := c.getD (phase * 7 + (if vert then 4 else 0) + t / 2) 0
  sext 14 (fld w (16 * (t % 2)) 14)

/-- Sum of taps on one component. -/
def tapSum (n : Nat) (f : Nat → Int) (g : Nat → Int) : Int := clip12 (((List.range n).map fun t => f t * g t).sum / 4096)

/-- A filtered pixel from n taps. -/
def filterPx (n : Nat) (f : Nat → Int) (g : Nat → Px) : Px :=
  (tapSum n f fun t => (g t).1, tapSum n f fun t => (g t).2.1, tapSum n f fun t => (g t).2.2)

/-- An index held inside a range (R354). -/
def holdIn (lo hi v : Int) : Nat := (if v < lo then lo else if hi < v then hi else v).toNat

/-- Position of output i of n from origin o and size z of the crop: in 1/65,536 (R353). -/
def scalePos (o z n i : Nat) : Int :=
  let step := z * 65536 / max 1 n
  ((o * 65536 : Nat) : Int) + (((2 * i + 1) * step / 2 : Nat) : Int) - 32768

/-- One scaled line of a source line. -/
def scaleLine (c : List Word) (sx sw dw : Nat) (line : List Px) : List Px :=
  (List.range dw).map fun i =>
    let pos := scalePos sx sw dw i
    let x0 := pos / 65536
    let p := (pos / 1024 % 64).toNat
    filterPx 8 (fun t => coefOf c p t false) fun t => line.getD (holdIn sx ((sx + sw : Nat) - 1) (x0 - 3 + (t : Int))) (0, 0, 0)

/-- A scaled picture. `lines` are those of the source picture; in an interlaced source they are field lines (R353). -/
def scalePicture (c : List Word) (crop : (Nat × Nat) × (Nat × Nat)) (dw dh : Nat) (field : Option Bool) (lines : List (List Px)) :
    List (List Px) :=
  let ((sx, sy), (sw, sh)) := crop
  let hs := lines.map (scaleLine c sx sw dw)
  let f : Int := if field = some true then 1 else 0
  let (lo, hi) : Int × Int := match field with
    | none => (sy, ((sy + sh : Nat) : Int) - 1)
    | some _ => (((sy : Nat) - f + 1) / 2, (((sy + sh : Nat) : Int) - 1 - f) / 2)
  (List.range dh).map fun j =>
    let pos := scalePos sy sh dh j
    let pos := match field with
      | none => pos
      | some _ => (pos - f * 65536) / 2
    let y0 := pos / 65536
    let p := (pos / 1024 % 64).toNat
    let row (t : Nat) : List Px := hs.getD (holdIn lo hi (y0 - 2 + (t : Int))) []
    (List.range dw).map fun i => filterPx 6 (fun t => coefOf c p t true) fun t => (row t).getD i (0, 0, 0)

/-- The colour matrix of an entry (R355): `w` gives its words. -/
def matrixPx (w : Nat → Word) (v : Px) : Px :=
  let m (j k : Nat) : Int := sext 18 (fld (w (3 * j + k)) 0 18)
  let pre (k : Nat) : Int := sext 14 (fld (w (9 + k)) 0 14)
  let post (j : Nat) : Int := sext 14 (fld (w (12 + j)) 0 14)
  let out (j : Nat) : Int :=
    clip12 ((m j 0 * (v.1 + pre 0) + m j 1 * (v.2.1 + pre 1) + m j 2 * (v.2.2 + pre 2)) / 16384 + post j)
  (out 0, out 1, out 2)

/-- A pixel as stored: the upper 10 bits of each component (R352, R357), and as read back. -/
def packPx (v : Px) : Nat := (v.1.toNat / 4) * 2 ^ 20 + (v.2.1.toNat / 4) * 2 ^ 10 + v.2.2.toNat / 4
def unpackPx (n : Nat) : Px := ((n / 2 ^ 20 % 1024 * 4 : Nat), (n / 2 ^ 10 % 1024 * 4 : Nat), (n % 1024 * 4 : Nat))

/-! ### Layer stores, R357 and R358 -/

/-- Start of a head's region, and of picture slot n of a layer, in bytes. -/
def State.headBase (s : State) (h : Nat) : Nat := segOf (s.monEnt 1 h 1) * 2 ^ 26
def State.slotAddr (s : State) (l n : Nat) : Nat :=
  s.headBase (s.layOn l) + fld (s.monApp 2 l 5) 0 22 * 4096 + n * slotBytes (s.monApp 2 l 2)

/-- The slot that a layer writes next: neither the one read by the head nor the newest complete one. -/
def LayRec.freeSlot (r : LayRec) : Nat := ((List.range 3).find? fun n => r.newest != some n && r.shown != some n).getD 0

/-- Write a picture to a slot. -/
def State.storePicture (s : State) (l n : Nat) (rows : List (List Px)) : State :=
  let a := s.slotAddr l n
  let dw := fld (s.monApp 2 l 2) 0 13
  forEach rows.zipIdx (fun (e : List Px × Nat) s =>
    forEach e.1.zipIdx (fun (f : Px × Nat) s => s.memPut (a + (e.2 * dw + f.2) * 4) 4 (packPx f.1)) s) s

/-- Add to a counter word of a layer's status entry. -/
def State.layCount (s : State) (l w : Nat) : State := s.setEnt pMon 0 7 l w (wd (satAdd 32 (s.monEnt 7 l w).toNat 1))

/-- LAYER_PICTURE_COMPLETE: the last line of a picture's crop has left the fabric and the scaled picture is in its store. `pic` is the
picture of an SDI source; that of a raster source is the one taken from the fabric. -/
def execLayerPictureComplete (l : Fin 384) (pic : Picture) (s : State) : Host.Outcome State Fault Refusal :=
  let r := s.layRec l
  .next (match s.laySrc l with
    | none => s
    | some d =>
      let crop := s.layCrop l d
      let (w, _) := d.frameSize
      let lines : List (List (BitVec 12)) := if d.kind = 4 then pic.lines else r.lines.map lineSamples
      let last := if d.scan = 1 then (crop.1.2 + crop.2.2) / 2 else crop.1.2 + crop.2.2
      let whole := if d.kind = 4 then !pic.lines.isEmpty else
        decide (last ≤ r.lines.length) && (r.lines.getD (last - 1) []).length == d.wpl
      if !bitOf (s.monApp 2 l 0) 31 || (s.layBad l).isSome || !r.run || !whole then s
      else
        let px := lines.map fun x => if d.kind = 0 ∧ d.sampling = 1 then px444 x w else px422 x w
        let (dw, dh) := layDims (s.monApp 2 l 2)
        let scaled := scalePicture r.coef crop dw dh (if d.scan = 1 then some r.second else none) px
        let rows := if bitOf (s.monApp 2 l 0) 1 then scaled.map fun x => x.map (matrixPx fun i => s.monApp 3 l i) else scaled
        let n := r.freeSlot
        let s1 := (s.storePicture l n rows).layCount l 1
        let s2 := if r.unseen then s1.layCount l 2 else s1
        s2.setLay l { r with run := false, lines := [], newest := some n, unseen := true })

/-! ### Decisions, R356, R358, R359 and R361 -/

/-- Whether a waiting write of an entry takes effect at a decision of head h in this beat: accepted or released before it, no hold. -/
def State.writeDue (s : State) (h sel idx : Nat) (w : LayoutWrite) : Bool :=
  !w.staged && decide (w.beat < s.beat) && s.entryHead sel idx (dat w.words 0) == h

/-- Entries that take effect at a decision of head h, with the words of the latest write that does (R361). -/
def State.monDue (s : State) (h : Nat) : List ((Nat × Nat) × List Word) :=
  s.mon.pend.filterMap fun e =>
    let at' := (e.1 / 2 ^ 24, e.1 % 2 ^ 24)
    ((e.2.filter (s.writeDue h at'.1 at'.2)).getLast?).map fun w => (at', w.words)

/-- Put an entry of the layout into force: a layer whose crop, size or store changes discards the picture in progress (R358). -/
def State.monApply (s : State) (h : Nat) (e : (Nat × Nat) × List Word) : State :=
  let (sel, idx) := e.1
  let k := sel * 2 ^ 24 + idx
  let applied := (List.range (monWords sel)).foldl
    (fun t w => Tab.put (fun _ => 0) t (tblKey pMon 0 sel idx w) (dat e.2 w)) s.mon.applied
  let left := (Tab.get (fun _ => []) s.mon.pend k).filter fun w => !s.writeDue h sel idx w
  let changed := sel == 2 && (s.layOn idx != fld (dat e.2 0) 24 6 || bitOf (s.monApp 2 idx 0) 3 != bitOf (dat e.2 0) 3 ||
    (List.range 6).any fun i => decide (1 < i) && dat e.2 i != s.monApp 2 idx i)
  let s1 := { s with mon := { s.mon with applied := applied, pend := Tab.put (fun _ => []) s.mon.pend k left } }
  if changed then s1.setLay idx { s1.layRec idx with run := false, lines := [] } else s1

/-- Set a layer's STATE. -/
def State.setLayState (s : State) (l v : Nat) : State := s.setEntF pMon 0 7 l 0 0 3 v
def State.layState (s : State) (l : Nat) : Nat := fld (s.monEnt 7 l 0) 0 3

/-- LOSS_N: 0 encodes 4. -/
def lossN (w5 : Word) : Nat := let n := fld w5 28 4; if n = 0 then 4 else n

/-- The decision for one layer (R350, R358, R359): its STATE, its counters and the slot that the head reads. -/
def State.layDecide (s : State) (l : Nat) : State :=
  let r := s.layRec l
  let w0 := s.monApp 2 l 0
  let old := s.layState l
  if !bitOf w0 31 then (s.setLayState l 0).setLay l LayRec.idle
  else
    match s.layBad l with
    | some v =>
      let s1 := (s.setLayState l v).setLay l { r with shown := none, newest := none, unseen := false }
      if old = v then s1 else s1.raise pMon (if v = 4 then 1 else 2) (s.layOwner l)
    | none =>
      if r.unseen then (s.setLayState l 2).setLay l { r with unseen := false, shown := r.newest, missed := 0 }
      else
        let n := r.missed + 1
        let s1 := (s.layCount l 3).setLay l { r with missed := n }
        if old = 3 then s1
        else if lossN (s.monApp 2 l 5) ≤ n then (s1.setLayState l 3).raise pMon 0 (s.layOwner l)
        else if old = 2 then s1
        else s1.setLayState l 1

/-- What a head shows of a layer: a slot, or BG. -/
def State.layPick (s : State) (l : Nat) : Option Nat :=
  match s.layState l with
  | 2 => (s.layRec l).shown
  | 3 => if bitOf (s.monApp 2 l 0) 2 then none else (s.layRec l).shown
  | _ => none

/-! ### Composition, R360 and R363 -/

/-- Blend with weight a of 256. -/
def blend (a : Nat) (p q : Px) : Px :=
  let f (x y : Int) : Int := ((a : Int) * x + (256 - (a : Int)) * y) / 256
  (f p.1 q.1, f p.2.1 q.2.1, f p.2.2 q.2.2)

/-- The topmost layer that a head shows at a place. -/
def State.topLayer (s : State) (picks : List (Nat × Option Nat)) (x y : Nat) : Option (Nat × Option Nat) :=
  (picks.filter fun e =>
    let w0 := s.monApp 2 e.1 0
    let w1 := s.monApp 2 e.1 1
    let (dw, dh) := layDims (s.monApp 2 e.1 2)
    let dx := fld w1 0 13
    let dy := fld w1 16 13
    bitOf w0 30 && decide (0 < fld w0 8 8 ∧ dx ≤ x ∧ x < dx + dw ∧ dy ≤ y ∧ y < dy + dh)).foldl
    (fun (b : Option (Nat × Option Nat)) e => match b with
      | none => some e
      | some f =>
        let z (l : Nat) : Nat := fld (s.monApp 2 l 0) 16 8
        if z f.1 < z e.1 ∨ (z f.1 = z e.1 ∧ f.1 < e.1) then some e else some f) none

/-- A pixel of a plane, with its alpha (R363). -/
def State.planePx (s : State) (i x y : Nat) : Nat × Px :=
  let h := i / 4
  let w0 := s.monApp 4 i 0
  let buf := if bitOf w0 30 then fld (s.monApp 4 i 1) 0 22 else fld w0 0 22
  let a := s.headBase h + buf * 4096 + y * fld (s.monApp 4 i 4) 0 18 + 4 * x
  let b (n : Nat) : Nat := (s.memByte (a + n)).toNat
  let e (c : Nat) : Int := (c * 16 + c / 16 : Nat)
  let p : Px := (e (b 1), e (b 0), e (b 2))
  (b 3, if bitOf (s.monEnt 5 h 15) 0 then matrixPx (fun w => s.monEnt 5 h w) p else p)

/-- One active pixel of a head (R360). -/
def State.composePx (s : State) (h : Nat) (picks : List (Nat × Option Nat)) (x y : Nat) : Px :=
  let bg : Px := (fld (s.monApp 1 h 2) 0 12, fld (s.monApp 1 h 2) 16 12, fld (s.monApp 1 h 3) 0 12)
  let v := match s.topLayer picks x y with
    | none => bg
    | some (l, slot) =>
      let al := fld (s.monApp 2 l 0) 8 8
      let w1 := s.monApp 2 l 1
      let (dw, _) := layDims (s.monApp 2 l 2)
      let p : Px := match slot with
        | some n => unpackPx (s.memGet (s.slotAddr l n + ((y - fld w1 16 13) * dw + (x - fld w1 0 13)) * 4) 4)
        | none => bg
      blend (al + al / 128) p bg
  (List.range 4).foldl (fun v n =>
    let i := h * 4 + n
    let w2 := s.monApp 4 i 2
    let (w, ht) := layDims (s.monApp 4 i 3)
    let px := fld w2 0 13
    let py := fld w2 16 13
    if bitOf (s.monApp 4 i 0) 31 ∧ px ≤ x ∧ x < px + w ∧ py ≤ y ∧ y < py + ht then
      let (a, p) := s.planePx i (x - px) (y - py)
      blend (a + a / 128) p v
    else v) v

/-- Words of an active line of a head (R348): 4:2:2 keeps the chroma of even pixels; 10 bits keep the upper 10. -/
def headLine (d : Desc) (px : List Px) : List (BitVec 72) :=
  let t (v : Int) : BitVec 12 := BitVec.ofNat 12 (if d.depth = 1 then v.toNat / 4 * 4 else v.toNat)
  let smp : List (BitVec 12) :=
    if d.sampling = 1 then px.flatMap fun p => [t p.1, t p.2.1, t p.2.2]
    else px.zipIdx.flatMap fun (p, i) => if i % 2 = 0 then [t p.2.1, t p.1] else [t (px.getD (i - 1) (0, 0, 0)).2.2, t p.1]
  (chunks 6 smp.length smp).map word6

/-- Row of the active picture that a line of the total raster carries: rows of a PsF frame alternate between its segments. -/
def Desc.rowOf (d : Desc) (line : Nat) : Option Nat :=
  let ((a, n), (b, m)) := activeLines d.raster d.scan
  if a ≤ line ∧ line < a + n then some (if d.scan = 0 then line - a else 2 * (line - a))
  else if b ≤ line ∧ line < b + m ∧ d.scan ≠ 0 then some (2 * (line - b) + 1)
  else none

/-- The words of a head's output frame, by line. -/
def State.headFrame (s : State) (h : Nat) (d : Desc) (picks : List (Nat × Option Nat)) : List (List (BitVec 72)) :=
  let (w, _) := d.frameSize
  (List.range d.total).map fun i =>
    match d.rowOf (i + 1) with
    | some y => headLine d ((List.range w).map fun x => s.composePx h picks x y)
    | none => [d.marker (i + 1)]

/-- HEAD_DECISION: the decision instant of head h for the frame whose line 1 is shown 100 µs later (R356). What the head reads of the
stores and buffers is what they hold at the decision (log entry 59). -/
def execHeadDecision (h : Fin 64) (s : State) : Host.Outcome State Fault Refusal :=
  let w0 := s.monEnt 1 h 0
  let d := s.inDesc (4096 + h.val) 0
  let r := s.headRec h
  let k := s.playFrameBy d ((s.nowAt d.tb).add 100000 1)
  .next (if !headEn w0 || !d.valid || s.tbMode d.tb == 0 || decide (s.beat < r.enAt + 34560) || r.last.any (fun q => decide (k ≤ q)) then s
    else
      let frozen := s.entF pMon 0 8 h 0 0 2 == 2 && (!s.ready pMon || bitOf (s.rd 0 (regA pMgt 0x040)) 6)
      let s1 := if frozen then s
        else
          let s1 := forEach (s.monDue h) (fun e s => s.monApply h e) (s.setEntF pMon 0 8 h 0 0 2 1)
          let ls := s1.mon.applied.filterMap fun e =>
            let key := e.1 / 16
            if e.1 % 16 = 0 ∧ key / 2 ^ 24 = (pMon * 16) * 65536 + 2 ∧ fld e.2 24 6 = h.val ∧ bitOf e.2 31 then some (key % 2 ^ 24) else none
          let off := (s.monDue h).filterMap fun e =>
            if e.1.1 == 2 && !bitOf (s1.monApp 2 e.1.2 0) 31 then some e.1.2 else none
          let s2 := forEach (off ++ ls) (fun l s => s.layDecide l) s1
          s2.setHead h { r with picks := ls.map fun l => (l, s2.layPick l) }
      let r1 := s1.headRec h
      let us := s1.headFrame h d r1.picks
      let left := s1.until ((At.mk d.tb (k * (d.framePeriod.1 : Nat)) d.framePeriod.2).add (s1.padD d.tb) 1)
      let wait := if left ≤ 0 then 0 else cdiv (left.toNat * 216) (625 * 65536)
      let s2 := s1.present (4096 + h.val) ((d.frameWords k us).map fun e => (s1.beat + wait + e.1, e.2))
      (s2.setHead h { r1 with last := some k }).setEnt pMon 0 8 h 1 (wd (satAdd 32 (s2.monEnt 8 h 1).toNat 1)))

/-- A compositor sequencer is being reloaded: its head is FROZEN and MON.SEQ rises (R362). -/
def State.monFreeze (s : State) : State :=
  forEach (s.entIdxs pMon 0 1 0 fun w => bitOf w 31) (fun h s => (s.setEntF pMon 0 8 h 0 0 2 2).raise pMon 3 (s.headOwner h)) s

/-- RESET_N, a chip-reset fault reaction and power loss return every table to its reset value: II h's descriptors are those of the XPT
page and go with it (R367). -/
def State.monClear (s : State) : State := { s with mon := ⟨[], [], [], []⟩ }

end Sys2Proof.Machine
end

