-- ==== Sys2Proof/Machine/Refsel.lean ====
section
/-!
DEFINITION. Machine/Refsel.lean: reference candidates, DPLLs and derived clocks of spec/13_time_and_reference.md (R387 to R402), and
the phase alignment of time bases in REF mode (R375).
-/
namespace Sys2Proof.Machine

/-! ### Candidates, R387 and R388 -/

/-- Words of a candidate's configuration, and its fields with their defaults (R401). -/
def State.candCfg (s : State) (c w : Nat) : Word := s.ent pRefsel 0 1 c w
def State.candTb (s : State) (c : Nat) : Nat := fld (s.candCfg c 0) 4 3
def State.missN (s : State) (c : Nat) : Nat := let n := fld (s.candCfg c 0) 8 4; if n = 0 then 2 else n
def State.freqTol (s : State) (c : Nat) : Nat := let n := fld (s.candCfg c 0) 16 8; if n = 0 then 50 else n
def State.wtrS (s : State) (c : Nat) : Nat := let n := fld (s.candCfg c 3) 0 16; if n = 0 then 300 else n

/-- STATE of a candidate as held: 0 and 1 INVALID, 2 WAIT, 3 ELIGIBLE. -/
def State.candState (s : State) (c : Nat) : Nat := s.entF pRefsel 0 3 c 0 0 2
def State.candRec (s : State) (c : Nat) : CandRec := Tab.get (fun _ => CandRec.idle) s.cand c
def State.setCand (s : State) (c : Nat) (r : CandRec) : State :=
  { s with cand := Tab.put (fun _ => CandRec.idle) s.cand c r }

/-- PRIO_d[c] and FORCE_d of R390. -/
def State.prio (s : State) (d c : Nat) : Nat := s.rdF 0 (regA pRefsel (0x060 + 4 * d)) (4 * c) 4
def State.force (s : State) (d : Nat) : Nat := s.rdF 0 (regA pRefsel 0x058) (4 * d) 4

/-- Whether some DPLL may choose a candidate; one that none may choose reads as unused (log entry 60). -/
def State.candUsed (s : State) (c : Nat) : Bool := (List.range 4).any fun d => s.prio d c != 0 || s.force d == c + 1

/-- STATE of a candidate as it reads. -/
def State.candStateRead (s : State) (c : Nat) : Nat := if s.candUsed c then max 1 (s.candState c) else 0

/-- REFSEL.CAND as it reads. -/
def State.candWord (s : State) : Word :=
  wd ((List.range 8).foldl (fun n c => n + (if 2 ≤ s.candState c then 2 ^ c else 0) + if s.candState c = 3 then 2 ^ (8 + c) else 0) 0)

/-! ### DPLLs, R389 to R392 -/

/-- Fields of a DPLL's configuration. -/
def State.dpllEn (s : State) (d : Nat) : Bool := bitOf (s.ent pRefsel 0 2 d 0) 31
def State.dpllRevert (s : State) (d : Nat) : Bool := bitOf (s.ent pRefsel 0 2 d 0) 30
def State.dpllPbo (s : State) (d : Nat) : Bool := bitOf (s.ent pRefsel 0 2 d 0) 29

/-- STATE, SEL, FREEZE and HO_READY of a DPLL. -/
def State.dpllState (s : State) (d : Nat) : Nat := s.entF pRefsel 0 4 d 0 0 2
def State.dpllSel (s : State) (d : Nat) : Nat := s.entF pRefsel 0 4 d 0 4 4
def State.dpllFreeze (s : State) (d : Nat) : Bool := bitOf (s.ent pRefsel 0 4 d 0) 8
def State.dpllReady (s : State) (d : Nat) : Bool := bitOf (s.ent pRefsel 0 4 d 0) 9
def State.setDpll (s : State) (d st sel : Nat) (freeze : Bool) : State :=
  ((s.setEntF pRefsel 0 4 d 0 0 2 st).setEntF pRefsel 0 4 d 0 4 4 sel).setEntF pRefsel 0 4 d 0 8 1 (if freeze then 1 else 0)

/-- REFSEL.DPLL_STATE as it reads. -/
def State.dpllWord (s : State) : Word :=
  wd ((List.range 4).foldl (fun n d => n + s.dpllState d * 2 ^ (4 * d) + s.dpllSel d * 2 ^ (16 + 4 * d)) 0)

/-- A bit of HIST_CAND, and the event of the same name where there is one (R402). -/
def State.histCand (s : State) (bit : Nat) (ev : Option Nat) : State :=
  let s1 := s.wrF 0 (regA pRefsel 0x050) bit 1 1
  match ev with
  | some b => s1.raise pRefsel b 0
  | none => s1

/-- A bit of HIST_DPLL, and the event of the same name where there is one (R402). -/
def State.histDpll (s : State) (bit : Nat) (ev : Option Nat) : State :=
  let s1 := s.wrF 0 (regA pRefsel 0x054) bit 1 1
  match ev with
  | some b => s1.raise pRefsel b 0
  | none => s1

/-- The candidate that R390 selects for a DPLL, 8 for none. A DPLL with EN = 0 selects none (log entry 60). -/
def State.dpllPick (s : State) (d : Nat) : Nat :=
  let f := s.force d
  let sel := s.dpllSel d
  let ok (c : Nat) : Bool := s.candState c == 3 && s.prio d c != 0
  if !s.dpllEn d || f == 9 then 8
  else if 1 ≤ f ∧ f ≤ 8 then (if 2 ≤ s.candState (f - 1) then f - 1 else 8)
  else if decide (sel < 8) && ok sel && !s.dpllRevert d then sel
  else
    (List.range 8).foldl (fun b c => if ok c && (b == 8 || decide (s.prio d c < s.prio d b)) then c else b) 8

/-- A DPLL takes a candidate or none: R391 and the table of R392. -/
def State.dpllTake (s : State) (d c : Nat) : State :=
  let st := s.dpllState d
  let sel := s.dpllSel d
  let frozen := decide (c < 8) && decide (1 ≤ (s.candRec c).missing)
  if !s.dpllEn d then s.setDpll d 0 8 false
  else if c = sel then
    if c = 8 ∧ s.force d = 9 ∧ st = 0 ∧ s.dpllReady d then (s.setDpll d 3 8 false).histDpll (4 + d) (some 2) else s
  else if c = 8 then
    if s.dpllReady d then (s.setDpll d 3 8 false).histDpll (4 + d) (some 2)
    else (s.setDpll d 0 8 false).histDpll (8 + d) (some 3)
  else if sel = 8 then s.setDpll d 1 c frozen
  else
    let st' := if st = 2 ∧ !s.dpllPbo d then 1 else st
    let s1 := s.setDpll d st' c frozen
    (s1.setEnt pRefsel 0 4 d 3 (s1.ent pRefsel 0 4 d 3 + 1)).histDpll d (some 1)

/-- Every DPLL evaluates its selection (R390). -/
def State.reselect (s : State) : State := forEach (List.range 4) (fun d s => s.dpllTake d (s.dpllPick d)) s

/-- A candidate becomes INVALID. -/
def State.candFail (s : State) (c : Nat) : State := (s.setEntF pRefsel 0 3 c 0 0 2 1).reselect

/-- Whether management firmware runs; without it every PTP time base reads HOLDOVER (R376). -/
def State.tbHoldover (s : State) (n : Nat) : Bool :=
  s.tbMode n == 2 && ((Tab.get (fun _ => TbRec.off) s.tbs n).servo == 4 || !s.take.solver)

/-- Whether a time-base candidate is INVALID by rule 3 of R388. -/
def State.candTbBad (s : State) (c : Nat) : Bool :=
  decide (6 ≤ c) && (s.tbMode (s.candTb c) == 0 || s.tbHoldover (s.candTb c))

/-- Time-base candidates whose time base is OFF or in HOLDOVER become INVALID (R388). -/
def State.candTbCheck (s : State) : State :=
  forEach [6, 7] (fun c s => if s.candTbBad c && decide (2 ≤ s.candState c) then s.candFail c else s) s

/-! ### Events of candidates and DPLLs -/

/-- CAND_MISSING_EDGE: the next missing edge of a candidate (R388). -/
def execCandMissingEdge (c : Fin 8) (s : State) : Host.Outcome State Fault Refusal :=
  let n := (s.candRec c).missing + 1
  .next (if 6 ≤ c.val then s
    else
      let s1 := s.setCand c { s.candRec c with missing := n }
      let s2 := if n = 1 then
          forEach ((List.range 4).filter fun d => s1.dpllSel d == c.val) (fun d s => s.setEntF pRefsel 0 4 d 0 8 1 1) s1
        else s1
      if n = s2.missN c then
        ((s2.setEnt pRefsel 0 3 c 3 (s2.ent pRefsel 0 3 c 3 + 1)).histCand c (some 0)).candFail c
      else s2)

/-- CAND_FREQ_WINDOW: the frequency over a window of 1 s, in ppb against XO_IN, signed (R388). -/
def execCandFreqWindow (c : Fin 8) (ppb : Word) (s : State) : Host.Outcome State Fault Refusal :=
  let out := decide (1000 * s.freqTol c < ppb.toInt.natAbs)
  let s1 := (s.setEnt pRefsel 0 3 c 1 ppb).setCand c { s.candRec c with out := out }
  .next (if out then (s1.histCand (8 + c.val) none).candFail c else s1)

/-- CAND_QUALIFIED: QUAL_MS with no missing edge and an in-tolerance frequency have passed for an INVALID candidate (R388). -/
def execCandQualified (c : Fin 8) (s : State) : Host.Outcome State Fault Refusal :=
  let r := s.candRec c
  .next (if 2 ≤ s.candState c ∨ r.out ∨ (c.val < 6 ∧ r.missing ≠ 0) ∨ s.candTbBad c then s
    else if r.ever then ((s.setEntF pRefsel 0 3 c 0 0 2 2).setCand c { r with waitAt := s.beat }).reselect
    else ((s.setEntF pRefsel 0 3 c 0 0 2 3).setCand c { r with ever := true }).reselect)

/-- CAND_WTR_EXPIRE: WTR_S in WAIT have passed (R388). -/
def execCandWtrExpire (c : Fin 8) (s : State) : Host.Outcome State Fault Refusal :=
  .next (if s.candState c = 2 then ((s.setEntF pRefsel 0 3 c 0 0 2 3).histCand (16 + c.val) none).reselect else s)

/-- WTR_LEFT of a candidate: whole seconds of its wait that are left, rounded up. -/
def State.wtrLeft (s : State) (c : Nat) : Nat :=
  if s.candState c = 2 then cdiv (s.wtrS c * beatsPerSecond - (s.beat - (s.candRec c).waitAt)) beatsPerSecond else 0

/-- Time base n's advance in a beat at the nominal rate, in 2^-48 ns, without its fraction. -/
def beatUnits : Nat := 625 * 2 ^ 48 / 216

/-- NOM_NUM and NOM_DEN of the edges to which a candidate aligns: its own, or 1 Hz of PPS_IN. -/
def State.candNominal (s : State) (c : Nat) : Nat × Nat :=
  if c = 5 then (1, 1) else ((s.candCfg c 1).toNat, let d := fld (s.candCfg c 2) 0 16; if d = 0 then 1 else d)

/-- Phase alignment of one time base at an edge (R375): the residual against the nearest of the instants k × NOM_DEN / NOM_NUM, and
the slew that removes it. The place of the edge within the beat is measured: a free value (log entry 1). -/
def State.phaseAlign (s : State) (tb c : Nat) : State :=
  let (num, den) := s.candNominal c
  if num = 0 then s
  else
    let (u, s1) := s.fresh 64
    let x : Int := ((s.tbTime tb : Int) + (u % beatUnits : Nat) + (s.ent pTime 0 1 tb 2).toInt * (2 ^ 48 : Nat)) * num
    let q : Int := den * 1000000000 * (2 ^ 48 : Nat)
    let m := x % q
    let r := (if 2 * m ≤ q then m else m - q) / (num : Int)
    let rec' := Tab.get (fun _ => TbRec.off) s1.tbs tb
    ({ s1 with tbs := Tab.put (fun _ => TbRec.off) s1.tbs tb { rec' with slew := 0 - r } }).setEnt pTime 0 2 tb 2
      (wd (toBits 32 (r / (2 ^ 48 : Nat))))

/-- CANDIDATE_EDGE: an active edge. Missing-edge counting starts over, a DPLL that follows the candidate heeds its input again (log
entry 61), and time bases in REF mode with PHASE_ALIGN align to it; CLK10M_IN aligns by the edges of PPS_IN (R375, R388). -/
def execCandidateEdge (c : Fin 8) (s : State) : Host.Outcome State Fault Refusal :=
  .next (if 6 ≤ c.val then s
    else
      let s1 := s.setCand c { s.candRec c with missing := 0 }
      let s2 := forEach ((List.range 4).filter fun d => s1.dpllSel d == c.val) (fun d s => s.setEntF pRefsel 0 4 d 0 8 1 0) s1
      forEach ((List.range 8).filter fun tb =>
          let w := s2.ent pTime 0 1 tb 0
          let sel := s2.dpllSel (fld w 4 2)
          fld w 0 3 == 3 && bitOf w 6 && ((sel == c.val && sel != 4) || (sel == 4 && c.val == 5)))
        (fun tb s => s.phaseAlign tb c) s2)

/-- DPLL_LOCK: the phase error has stayed within LOCK_NS for the set time (R392). -/
def execDpllLock (d : Fin 4) (s : State) : Host.Outcome State Fault Refusal :=
  .next (if s.dpllState d = 1 ∧ !s.dpllFreeze d then (s.setEntF pRefsel 0 4 d 0 0 2 2).histDpll (16 + d.val) none else s)

/-- DPLL_LOCK_LOST: the phase error has been above 2 × LOCK_NS for 100 ms (R392). -/
def execDpllLockLost (d : Fin 4) (s : State) : Host.Outcome State Fault Refusal :=
  .next (if s.dpllState d = 2 ∧ !s.dpllFreeze d then (s.setEntF pRefsel 0 4 d 0 0 2 1).histDpll (12 + d.val) (some 4) else s)

/-- HOLDOVER_HISTORY: 10 s in LOCKED (R392). -/
def execHoldoverHistory (d : Fin 4) (s : State) : Host.Outcome State Fault Refusal :=
  .next (if s.dpllState d = 2 then s.setEntF pRefsel 0 4 d 0 9 1 1 else s)

/-! ### Register and table writes, R393 and R400 to R402 -/

/-- Whether a time base in REF mode on DPLL d would close a loop (R393). -/
def State.refLoop (s : State) (tb d : Nat) : Bool := [6, 7].any fun c => s.candTb c == tb && s.prio d c != 0

/-- Whether some time base in REF mode closes a loop. -/
def State.anyLoop (s : State) : Bool :=
  (List.range 8).any fun tb => s.tbMode tb == 3 && s.refLoop tb (s.entF pTime 0 1 tb 0 4 2)

/-- A refused register write: PAGE_FAULT.CFG (R401), with REASON for a loop (R393). -/
def State.refCfg (s : State) : State := s.raise pRefsel 5 0

/-- A write of CLK_MAP (R394). -/
def writeClkMap (d : Word) (s : State) : State :=
  if s.pageLocked pRefsel then s else s.wr 0 (regA pRefsel 0x040) (d &&& 0x33)

/-- CLK_MAP_WRITE. -/
def execClkMapWrite (t : Tag) (d : Word) (s : State) : Host.Outcome State Fault Refusal :=
  .next (hostWrite t (regA pRefsel 0x040) d (writeClkMap d) s)

/-- A write of FORCE: a field above 9 is reserved (R400). -/
def writeForce (d : Word) (s : State) : State :=
  if s.pageLocked pRefsel then s
  else if (List.range 4).any fun n => decide (9 < fld d (4 * n) 4) then s.refCfg
  else (s.wr 0 (regA pRefsel 0x058) (wd (fld d 0 16))).reselect

/-- A write of PRIOn; one that closes a loop is refused with LOOP (R393). -/
def writePrio (n : Nat) (d : Word) (s : State) : State :=
  if s.pageLocked pRefsel then s
  else
    let s1 := s.wr 0 (regA pRefsel (0x060 + 4 * n)) d
    if s1.anyLoop then s.setReason pRefsel 0x05C 0 2 n else (s1.clearReason pRefsel 0x05C 0).reselect

/-- Read of a REFSEL table. -/
def refselTableRead (sel idx : Nat) (s : State) : (Nat × List Word) × State :=
  match sel with
  | 1 => if 8 ≤ idx then ((2, []), s) else ((0, s.entWords pRefsel 0 1 idx 4), s)
  | 2 => if 4 ≤ idx then ((2, []), s) else ((0, s.entWords pRefsel 0 2 idx 2), s)
  | 3 =>
    if 8 ≤ idx then ((2, []), s)
    else
      ((0, [wd (s.candStateRead idx), s.ent pRefsel 0 3 idx 1, wd (s.wtrLeft idx), s.ent pRefsel 0 3 idx 3, 0, 0, 0, 0,
        s.ent pRefsel 0 3 idx 8]), s)
  | 4 =>
    if 4 ≤ idx then ((2, []), s)
    else
      let (a, s1) := s.fresh 32
      let (b, s2) := s1.fresh 32
      ((0, [s.ent pRefsel 0 4 idx 0, wd a, wd b, s.ent pRefsel 0 4 idx 3, 0, 0, 0, 0, s.ent pRefsel 0 4 idx 8]), s2)
  | _ => ((1, []), s)

/-- Whether a REFIN candidate's nominal frequency is out of range (R387): not 0 and not 1 Hz to 10 MHz. -/
def badNominal (c : Nat) (num : Word) (w2 : Word) : Bool :=
  let den := if fld w2 0 16 = 0 then 1 else fld w2 0 16
  decide (c ≤ 3 ∧ num.toNat ≠ 0 ∧ (num.toNat < den ∨ 10000000 * den < num.toNat))

/-- Write of a REFSEL table. -/
def refselTableWrite (sel idx : Nat) (d : List Word) (s : State) : Nat × State :=
  let ref (r : Nat) (s : State) : Nat × State := (3, s.setReason pRefsel 0x05C 0 r idx)
  match sel with
  | 1 =>
    if 8 ≤ idx then (2, s)
    else if 200 < fld (dat d 0) 16 8 ∨ badNominal idx (dat d 1) (dat d 2) then ref 1 s
    else
      let s1 := s.setEntWords pRefsel 0 1 idx 0 [dat d 0 &&& 0x00FF0F71, dat d 1, dat d 2, dat d 3 &&& 0xFFFF]
      if s1.anyLoop then ref 2 s else (0, (s1.clearReason pRefsel 0x05C 0).candTbCheck)
  | 2 =>
    if 4 ≤ idx then (2, s)
    else if 20 < fld (dat d 0) 0 5 ∨ 20 < fld (dat d 0) 8 5 ∨ 12 < fld (dat d 0) 16 4 then ref 1 s
    else (0, ((s.setEntWords pRefsel 0 2 idx 0 [dat d 0 &&& 0xE00F1F1F, dat d 1]).clearReason pRefsel 0x05C 0).reselect)
  | 3 => if 8 ≤ idx then (2, s) else ref 1 s
  | 4 => if 4 ≤ idx then (2, s) else ref 1 s
  | _ => (1, s)

/-- A write of REFSEL.SNAP with bit 0 set (R401). -/
def State.refselSnap (s : State) : State := (s.snapTable pRefsel 0 3 [(3, 8)]).snapTable pRefsel 0 4 [(3, 8)]

end Sys2Proof.Machine
end

