-- ==== Sys2Proof/Machine/Time.lean ====
section
/-!
DEFINITION. Machine/Time.lean: time bases, adjustments, the PTP servo, comparators and the TIME page of
spec/13_time_and_reference.md (R369 to R386, R396 to R399, R519).
-/
namespace Sys2Proof.Machine

/-! ### Time bases, R371 to R376 -/

def State.tbRec (s : State) (n : Nat) : TbRec := Tab.get (fun _ => TbRec.off) s.tbs n
def State.setTb (s : State) (n : Nat) (r : TbRec) : State := { s with tbs := Tab.put (fun _ => TbRec.off) s.tbs n r }
def State.tbOwner (s : State) (n : Nat) : Nat := s.partOwner 4 n

/-- RATE of a time base, signed (R374). -/
def State.tbRate (s : State) (n : Nat) : Int := (s.ent pTime 0 2 n 1).toInt
def State.setTbRate (s : State) (n : Nat) (r : Word) : State := s.setEnt pTime 0 2 n 1 r

/-- A TIME event of a time base, attributed to its owner (R399). -/
def State.tbEvent (s : State) (n b : Nat) : State := s.raise pTime b (s.tbOwner n)

/-- Whether a time base is in use, R373. -/
def State.tbInUse (s : State) (n : Nat) : Bool :=
  ((s.entIdxs pXpt 0 selIn 0 fun w => bitOf w 31 && fld w 21 3 == n).any fun i => s.portInUse selIn (i / 16)) ||
    ((s.entIdxs pXpt 0 selOut 0 fun w => bitOf w 31 && fld w 21 3 == n).any fun i => s.portInUse selOut i) ||
    ((List.range 256).any fun b => (s.audBlkTb 1 b == n && s.inBlockUsed b) || (s.audBlkTb 2 b == n && s.outBlockUsed b)) ||
    ((List.range 8).any fun p => s.tdmState p == 2 && s.entF pAud 0 7 p 0 4 3 == n) ||
    !(s.entIdxs pMon 0 1 0 fun w => headEn w && fld w 27 3 == n).isEmpty

/-- STATE of a time base as it reads (R398); REF mode has none of the codes (log entry 12). -/
def State.tbStateRead (s : State) (n : Nat) : Nat :=
  match s.tbMode n with
  | 0 => 0
  | 1 => 1
  | 2 => if s.tbHoldover n then 4 else (s.tbRec n).servo
  | 3 => Config.refModeState (s.beat * 8 + n) % 8
  | _ => 5

/-- A step of a time base happens: the event and STEPS (R376). -/
def State.tbStepped (s : State) (n : Nat) : State :=
  (s.setEnt pTime 0 2 n 7 (s.ent pTime 0 2 n 7 + 1)).tbEvent n 0

/-- Every value of a time base is below 2^48 s. -/
def tbWrap (t : Int) : Nat := (t % ((2 ^ 48 * 1000000000 * 2 ^ 48 : Nat) : Int)).toNat

/-- One accepted adjustment at its beat (R374, R519). -/
def State.tbAdjust (s : State) (n : Nat) (a : Adj) : State :=
  let r := s.tbRec n
  match a with
  | .rate v => s.setTbRate n v
  | .slew o => s.setTb n { r with slew := o * (2 ^ 32 : Nat) }
  | .step o => (s.setTb n { r with t := tbWrap (r.t + o * (2 ^ 32 : Nat)), stepAt := some s.beat }).tbStepped n
  | .set t => (s.setTb n { r with t := tbWrap t, stepAt := some s.beat }).tbStepped n

/-- SLEW_MAX in units of 0.1 ppm (R398). -/
def State.slewMax (s : State) (n : Nat) : Nat := let v := s.entF pTime 0 1 n 1 0 16; if v = 0 then 100 else v

/-- The part of a slew that one beat absorbs. -/
def State.slewPart (s : State) (n : Nat) : Int :=
  let cap : Int := (beatUnits * s.slewMax n / 10000000 : Nat)
  let left := (s.tbRec n).slew
  if left < 0 then max left (0 - cap) else min left cap

/-- A time base's advance at the start of a beat: the nominal period corrected by RATE, and its slew (R371, R374). The nominal
period is no whole number of units: a free carry of one unit (log entry 11). -/
def State.tbAdvance (s : State) (n : Nat) : State :=
  let r := s.tbRec n
  let num : Int := 625 * ((2 ^ 42 : Nat) + s.tbRate n) * (2 ^ 6 : Nat)
  let inc := num / 216 + if Config.beatCarry n s.beat then 1 else 0
  let p := s.slewPart n
  s.setTb n { r with t := tbWrap (r.t + inc + p), slew := r.slew - p }

/-- The rate that a time base in REF mode follows in this beat: none against the beat when its DPLL drives the beat (R372, R394). -/
def State.tbFollow (s : State) (n : Nat) : State :=
  let w := s.ent pTime 0 1 n 0
  if fld w 0 3 ≠ 3 then s
  else if fld w 4 2 = s.rdF 0 (regA pRefsel 0x040) 0 2 then s.setTbRate n 0
  else s.setTbRate n (wd (toBits 32 (Config.refRate n s.beat)))

/-- Every time base at the start of a beat: its advance at the rate in force, then the adjustments accepted in the beat before, so
that a new RATE or slew acts from this beat on (log entry 14). -/
def State.timeBeat (s : State) : State :=
  forEach (List.range 8) (fun n s =>
    if s.tbMode n = 0 then s
    else
      let adj := (s.tbRec n).adj
      forEach adj (fun a s => s.tbAdjust n a) (((s.setTb n { s.tbRec n with adj := [] }).tbFollow n).tbAdvance n)) s

/-- Put an adjustment on a time base for the next beat. -/
def State.tbQueue (s : State) (n : Nat) (a : Adj) : State :=
  let r := s.tbRec n
  s.setTb n { r with adj := r.adj ++ [a] }

/-! ### Adjustments, R374 and R519 -/

/-- Whether a mode allows an adjustment; management firmware may slew and step in PTP mode (R374, R515). -/
def adjAllowed (t : Tag) (op mode : Nat) : Bool :=
  match op with
  | 1 => mode == 4
  | 2 => mode == 4 || (mode == 2 && t == .m)
  | 3 => mode == 1 || mode == 3 || mode == 4 || (mode == 2 && t == .m)
  | _ => mode == 1 || mode == 3 || mode == 4

/-- The outcome CODE of an adjustment, R519. -/
def State.adjCode (s : State) (t : Tag) (op tb : Nat) : Nat :=
  let p := tagBank t
  if op = 0 ∨ 4 < op then 4
  else if !tagOwns t (s.tbOwner tb) then 1
  else if !adjAllowed t op (s.tbMode tb) then 2
  else if 3 ≤ op ∧ s.tbInUse tb then 3
  else if op = 4 ∧ 999999999 < (s.rd p (regA pTime 0x058)).toNat then 4
  else 0

/-- The adjustment that the value registers of a bank spell. -/
def State.adjOf (s : State) (p op : Nat) : Adj :=
  let v := s.rd64 p (regA pTime 0x058)
  match op with
  | 1 => .rate (loHalf v)
  | 2 => .slew (sext 64 v)
  | 3 => .step (sext 64 v)
  | _ =>
    let sec := s.rd64 p (regA pTime 0x060) % 2 ^ 48
    .set (((sec * 1000000000 + v % 2 ^ 32) * 2 ^ 16 + v / 2 ^ 32 % 2 ^ 16) * 2 ^ 32)

/-- A write of TIME.ADJ_CTRL. -/
def writeAdjCtrl (t : Tag) (d : Word) (s : State) : State :=
  let p := tagBank t
  let tb := fld d 0 3
  let op := fld d 4 3
  let code := s.adjCode t op tb
  let s1 := s.wr p (regA pTime 0x054) (wd (code + op * 16 + tb * 256))
  if code = 0 then s1.tbQueue tb (s1.adjOf p op) else s1

/-- An adjustment row: a write of ADJ_CTRL with its OP. -/
def adjRow (t : Tag) (op : Nat) (tb : Fin 8) (s : State) : State :=
  hostWrite t (regA pTime 0x050) (wd (tb.val + op * 16)) (writeAdjCtrl t (wd (tb.val + op * 16))) s

/-- SET_RATE. -/
def execSetRate (t : Tag) (tb : Fin 8) (s : State) : Host.Outcome State Fault Refusal := .next (adjRow t 1 tb s)
/-- SLEW. -/
def execSlew (t : Tag) (tb : Fin 8) (s : State) : Host.Outcome State Fault Refusal := .next (adjRow t 2 tb s)
/-- STEP. -/
def execStepTime (t : Tag) (tb : Fin 8) (s : State) : Host.Outcome State Fault Refusal := .next (adjRow t 3 tb s)
/-- SET_TIME. -/
def execSetTime (t : Tag) (tb : Fin 8) (s : State) : Host.Outcome State Fault Refusal := .next (adjRow t 4 tb s)

/-! ### The PTP servo, R376 -/

/-- Whether the servo of a time base makes adjustments: PTP mode, EN = 1, and firmware running. -/
def State.servoOn (s : State) (n : Nat) : Bool := s.tbMode n == 2 && bitOf (s.ent pTime 0 3 n 0) 0 && s.take.solver

/-- STEP_NS, with its default (R398). -/
def State.stepNs (s : State) (n : Nat) : Nat := let v := (s.ent pTime 0 3 n 3).toNat; if v = 0 then 1000000 else v

/-- The servo's state after a Sync interval with an offset: its state and the counts of consecutive intervals. -/
def servoNext (r : TbRec) (off : Int) : TbRec :=
  let good := if off.natAbs < 1000 * 65536 then r.good + 1 else 0
  let bad := if 10000 * 65536 < off.natAbs then r.bad + 1 else 0
  let st := if r.servo = 3 then (if 16 ≤ bad then 2 else 3) else (if 16 ≤ good then 3 else 2)
  if st = r.servo then { r with good := min good 16, bad := min bad 16 } else { r with servo := st, good := 0, bad := 0 }

/-- PTP_SYNC: a Sync interval has given the offset from master (signed, 2^-16 ns), the mean path delay in ns, the grandmaster's
identity, its UTC offset, and the RATE that the servo chose. The first grandmaster is no change of identity (log entry 62). -/
def execPtpSync (tb : Fin 8) (offset : BitVec 64) (mpd : Word) (gm : BitVec 64) (utc : BitVec 16) (rate : Word) (s : State) :
    Host.Outcome State Fault Refusal :=
  .next (if !s.servoOn tb then s
    else
      let r := s.tbRec tb
      let off := offset.toInt
      let oldGm := pairOf (s.ent pTime 0 2 tb 4) (s.ent pTime 0 2 tb 5)
      let s1 := s.setEntWords pTime 0 2 tb 2 [wd (toBits 32 (off / 65536)), mpd, loHalf gm.toNat, hiHalf gm.toNat, wd utc.toNat]
      let s2 := if r.hadMaster && oldGm != gm.toNat then s1.tbEvent tb 2 else s1
      let acquiring := r.servo != 3
      let s3 := s2.setTb tb { servoNext { r with hadMaster := true } off with rates := (rate.toInt :: r.rates).take 16 }
      if acquiring && decide ((s.stepNs tb : Int) * 65536 < off.natAbs) then
        s3.tbQueue tb (if s.tbInUse tb then .slew (0 - off) else .step (0 - off))
      else s3.tbQueue tb (.rate rate))

/-- The mean of the rates kept; a fraction is rounded one way or the other (log entry 1). -/
def State.meanRate (s : State) (l : List Int) : Int × State :=
  let sum := l.foldl (fun (a b : Int) => a + b) 0
  let n : Int := l.length
  if sum % n = 0 then (sum / n, s)
  else
    let (u, s1) := s.fresh 1
    (sum / n + (u : Int), s1)

/-- PTP_ANNOUNCE_TIMEOUT: no qualified master for the announce timeout (R376). -/
def execPtpAnnounceTimeout (tb : Fin 8) (s : State) : Host.Outcome State Fault Refusal :=
  let r := s.tbRec tb
  .next (if !s.servoOn tb || r.servo == 4 then s
    else
      let s1 := s.setTb tb { r with servo := 4, good := 0, bad := 0 }
      let s2 := if r.rates.isEmpty then s1
        else
          let (m, s2) := s1.meanRate r.rates
          s2.setTbRate tb (wd (toBits 32 m))
      (s2.tbEvent tb 1).candTbCheck)

/-! ### Comparators, R378 to R381 -/

def State.cmpRec (s : State) (k : Nat) : CmpRec := Tab.get (fun _ => CmpRec.idle) s.cmp k
def State.setCmp (s : State) (k : Nat) (r : CmpRec) : State := { s with cmp := Tab.put (fun _ => CmpRec.idle) s.cmp k r }

/-- The partition that a comparator belongs to; 0 to 127 belong to none and are attributed to P0. -/
def cmpOwner (k : Nat) : Nat := (k - 128) / 24

/-- Fields of a comparator entry's words. -/
def cmpEn (d : List Word) : Bool := bitOf (dat d 0) 31
def cmpPeriodic (d : List Word) : Bool := bitOf (dat d 0) 30
def cmpIrq (d : List Word) : Bool := bitOf (dat d 0) 29
def cmpTb (d : List Word) : Nat := fld (dat d 0) 0 3
def cmpNum (d : List Word) : Nat := (dat d 3).toNat + fld (dat d 4) 0 16 * 2 ^ 32
def cmpDen (d : List Word) : Nat := fld (dat d 5) 0 16

/-- Target k of an entry, R379. -/
def cmpTarget (d : List Word) (k : Nat) : Nat :=
  (pairOf (dat d 1) (dat d 2) + if cmpPeriodic d then k * cmpNum d / max 1 (cmpDen d) else 0) % 2 ^ 64

/-- The number of the first target after a count that has reached target k. -/
def cmpAfter (d : List Word) (k count : Nat) : Nat :=
  let gone := (linDiff count (cmpTarget d k)).toNat
  let den := max 1 (cmpDen d)
  max (k + 1) (cdiv ((k * cmpNum d / den + gone + 1) * den) (max 1 (cmpNum d)))

/-- A firing seen by an entry's words: LAST, COUNT, LATE, PEND and the cause, and the TDM ports that wait for it (R292, R379). -/
def State.cmpSeen (s : State) (k : Nat) (d : List Word) (late : Bool) : State :=
  let c := s.linear (cmpTb d)
  let s1 := (s.setEntWords pTime 0 5 k 8 [loHalf c, hiHalf c, s.ent pTime 0 5 k 10 + 1]).setEnt pTime 0 5 k 12 (if late then 1 else 0)
  let p := cmpOwner k
  let s2 := if late then s1.raise pTime 3 p else s1
  let s3 := if cmpIrq d && decide (128 ≤ k) then (s2.wrF p (regA pTime 0x04C) ((k - 128) % 24) 1 1).cause p 194 else s2
  if s3.rdF 0 (regA pAud 0x070) 0 9 = k then s3.tdmStart (s3.nowAt (cmpTb d)) else s3

/-- COMPARATOR_FIRE: the comparator fires in this beat if its target has come. In the beat of a write the entry as it stood before
the write is used (R380). -/
def execComparatorFire (k : Fin 512) (s : State) : Host.Outcome State Fault Refusal :=
  let r := s.cmpRec k
  let fresh := r.wrote == some s.beat
  let d := if fresh then r.old else s.entWords pTime 0 5 k 6
  let kk := if fresh then r.oldK else r.k
  let c := s.linear (cmpTb d)
  .next (if !cmpEn d || s.tbMode (cmpTb d) == 0 || decide (linDiff c (cmpTarget d kk) < 0) then s
    else
      let stepped := cmpPeriodic d && (s.tbRec (cmpTb d)).stepAt == some s.beat
      let late := (if fresh then r.oldLate else r.late) || stepped
      let s1 := s.cmpSeen k d late
      let next := cmpAfter d kk c
      if fresh then s1.setCmp k { r with old := [] }
      else if cmpPeriodic d then
        (s1.setCmp k { r with k := next, late := false }).setEnt pTime 0 5 k 11 (s1.ent pTime 0 5 k 11 + wd (next - kk - 1))
      else (s1.setCmp k { r with late := false }).setEntF pTime 0 5 k 0 31 1 0)

/-! ### TIME tables, R382 and R398 -/

/-- A refused TIME table write. -/
def State.timeRefuse (s : State) (t : Tag) (reason idx : Nat) : Nat × State :=
  (3, s.setReason pTime 0x040 (tagBank t) reason idx)
def State.timeAccept (s : State) (t : Tag) : Nat × State := (0, s.clearReason pTime 0x040 (tagBank t))

/-- Time bases of a port's mask with equal domain and sdoId, both with their stack enabled (R382; log entry 63). -/
def State.ptpDup (s : State) (port : Nat) : Bool :=
  let w := s.ent pTime 0 4 port 0
  let key (n : Nat) : Nat := s.entF pTime 0 3 n 0 16 8 * 4096 + s.entF pTime 0 3 n 1 0 12
  let l := (idxs 8 fun n => bitOf w n && bitOf (s.ent pTime 0 3 n 0) 0).map key
  fld w 8 3 != 0 && l.eraseDups.length != l.length

/-- Read of a TIME table. -/
def timeTableRead (t : Tag) (sel idx : Nat) (s : State) : Nat × List Word :=
  match sel with
  | 1 => if 8 ≤ idx then (2, []) else (0, s.entWords pTime 0 1 idx 3)
  | 2 =>
    if 8 ≤ idx then (2, [])
    else
      let slew := (s.tbRec idx).slew
      (0, wd (s.tbStateRead idx + if slew = 0 then 0 else 16) :: (List.range 7).map (fun w => s.ent pTime 0 2 idx (w + 1)) ++
        [wd (toBits 32 (slew / (2 ^ 48 : Nat))), 0, 0, 0, s.ent pTime 0 2 idx 12])
  | 3 =>
    if 8 ≤ idx then (2, []) else if !tagOwns t (s.tbOwner idx) then (4, []) else (0, s.entWords pTime 0 3 idx 4)
  | 4 =>
    if 384 ≤ idx then (2, []) else if !tagOwns t (s.pageOwner (pPort (idx / 8))) then (4, []) else (0, s.entWords pTime 0 4 idx 4)
  | 5 =>
    if 512 ≤ idx then (2, []) else if !tagOwns t (cmpOwner idx) then (4, []) else (0, s.entWords pTime 0 5 idx 13)
  | 6 => if 384 ≤ idx then (2, []) else if !tagIsP0 t then (4, []) else (0, s.entWords pTime 0 6 idx 13)
  | _ => (1, [])

/-- A new mode of a time base, R372 and R373: FREE sets RATE to 0 and drops the slew, OFF reads 0, PTP starts its servo in ACQUIRE. -/
def State.tbModeSet (s : State) (n old new : Nat) : State :=
  let r := s.tbRec n
  if new = old then s
  else if new = 0 then (s.setTb n { TbRec.off with slew := r.slew }).candTbCheck
  else if new = 1 then (s.setTb n { r with slew := 0 }).setTbRate n 0
  else if new = 2 then s.setTb n { r with servo := 2, good := 0, bad := 0, rates := [], hadMaster := false }
  else s

/-- Write of a time base's configuration entry. -/
def timeConfigWrite (t : Tag) (n : Nat) (d : List Word) (s : State) : Nat × State :=
  let mode := fld (dat d 0) 0 3
  let old := s.tbMode n
  if !tagOwns t (s.tbOwner n) then (4, s)
  else if mode = 0 ∧ old ≠ 0 ∧ s.tbInUse n then s.timeRefuse t 1 n
  else if 5 ≤ mode then s.timeRefuse t 2 n
  else if mode = 3 ∧ s.refLoop n (fld (dat d 0) 4 2) then s.timeRefuse t 4 n
  else
    ((s.setEntWords pTime 0 1 n 0 [dat d 0 &&& 0x77, dat d 1 &&& 0xFFFF, dat d 2]).tbModeSet n old mode).timeAccept t

/-- Write of a time base's PTP configuration entry. -/
def ptpConfigWrite (t : Tag) (n : Nat) (d : List Word) (s : State) : Nat × State :=
  if !tagOwns t (s.tbOwner n) then (4, s)
  else if 1 < fld (dat d 0) 1 2 ∨ fld (dat d 0) 4 2 = 3 then s.timeRefuse t 2 n
  else
    let s1 := s.setEntWords pTime 0 3 n 0 [dat d 0 &&& 0x00FF01F7, dat d 1 &&& 0xFFFF0FFF, dat d 2, dat d 3]
    if (List.range 384).any fun p => bitOf (s1.ent pTime 0 4 p 0) n && s1.ptpDup p then s.timeRefuse t 3 n
    else if bitOf (dat d 0) 0 then s1.timeAccept t
    else (s1.setTb n { s1.tbRec n with servo := 2, good := 0, bad := 0 }).timeAccept t

/-- Write of a comparator entry, R378 to R380. -/
def cmpWrite (t : Tag) (k : Nat) (d : List Word) (s : State) : Nat × State :=
  let ws := [dat d 0 &&& 0xE0000007, dat d 1, dat d 2, dat d 3, dat d 4 &&& 0xFFFF, dat d 5 &&& 0xFFFF]
  if k < 128 ∧ t ≠ .m then s.timeRefuse t 5 k
  else if !tagOwns t (cmpOwner k) then (4, s)
  else if cmpPeriodic ws && decide (cmpDen ws = 0 ∨ cmpNum ws < 65536000 * cmpDen ws) then s.timeRefuse t 2 k
  else
    let r := s.cmpRec k
    let late := decide (0 ≤ linDiff (s.linear (cmpTb ws)) (cmpTarget ws 0))
    let s1 := s.setCmp k (if r.wrote = some s.beat then { r with k := 0, late := late }
      else ⟨0, late, some s.beat, s.entWords pTime 0 5 k 6, r.k, r.late⟩)
    (s1.setEntWords pTime 0 5 k 0 ws).timeAccept t

/-- Write of a TIME table. -/
def timeTableWrite (t : Tag) (sel idx : Nat) (d : List Word) (s : State) : Nat × State :=
  match sel with
  | 1 => if 8 ≤ idx then (2, s) else timeConfigWrite t idx d s
  | 2 => if 8 ≤ idx then (2, s) else s.timeRefuse t 2 idx
  | 3 => if 8 ≤ idx then (2, s) else ptpConfigWrite t idx d s
  | 4 =>
    if 384 ≤ idx then (2, s)
    else if !tagOwns t (s.pageOwner (pPort (idx / 8))) then (4, s)
    else
      let s1 := s.setEntWords pTime 0 4 idx 0 [dat d 0 &&& 0x7FF, dat d 1, dat d 2, dat d 3]
      if s1.ptpDup idx then s.timeRefuse t 3 idx else s1.timeAccept t
  | 5 => if 512 ≤ idx then (2, s) else cmpWrite t idx d s
  | 6 =>
    if 384 ≤ idx then (2, s)
    else if !tagIsP0 t then (4, s)
    else (s.setEntWords pTime 0 6 idx 0 ((dat d 0 &&& 0x80000007) :: (List.range 12).map fun w => dat d (w + 1))).timeAccept t
  | _ => (1, s)

/-- A write of TIME.SNAP with bit 0 set. -/
def State.timeSnap (s : State) (p : Nat) : State :=
  let s1 := forEach ((List.range 8).filter fun n => s.tbOwner n == p) (fun n s => s.snapEnt pTime 0 2 n 7 12) s
  if p = 0 then s1.snap 0 (regA pTime 0x068) (regA pTime 0x06C) else s1

/-- What a time capture reads (R397), in the order of RES_DATA0 to RES_DATA7. -/
def State.timeCapture (s : State) (p : Nat) : List Word :=
  let c := s.rd p (regA pTime 0x070)
  let tb := fld c 0 3
  let u := if s.tbMode tb = 0 then 0 else s.tbTime tb / 2 ^ 32
  let l := s.linear tb
  let l2 := s.linear (fld c 4 3)
  let ns := u / 2 ^ 16
  let sec := ns / 1000000000
  [loHalf l, hiHalf l, wd (ns % 1000000000), wd sec, wd (sec / 2 ^ 32 % 2 ^ 16 + u % 2 ^ 16 * 2 ^ 16), wd (s.tbStateRead tb),
    loHalf l2, hiHalf l2]

end Sys2Proof.Machine
end

