-- ==== Sys2Proof/Machine/Reset.lean ====
section
/-!
DEFINITION. Machine/Reset.lean: the reset sources of R11 and what each clears.
-/
namespace Sys2Proof.Machine

/-- A key request in progress that advances a generation or an epoch may have committed it before the reset (R431): a free bit. -/
def State.keyPending (s : State) (o : ResOp) : State :=
  let (u, s1) := s.fresh 1
  if o.page ≠ pKey ∨ u = 0 then s1
  else
    let s2 := (keyServe (keyReqOf o) s1).2.2
    { s1 with key := { s1.key with gen := s2.key.gen, epoch := s2.key.epoch } }

/-- What every chip reset leaves (R11, R15): the reset state, with the settings store, the flash and the fuses as they were. Also kept
are what the model counts outside the part: its beats, free values, outputs and waiting commands, and the PERST_N pin. -/
def State.cleared (s : State) : State :=
  let s := forEach s.bus.res (fun o s => s.keyPending o) s
  { State.reset with
    beat := s.beat
    free := s.free
    out := s.out
    pending := s.pending
    fuse := s.fuse
    key := { State.reset.key with gen := s.key.gen, epoch := s.key.epoch, keep := s.key.keep }
    mgt := { s.mgt with booted := false, cmd := none, deadline := none }
    host := { State.reset.host with perstN := s.host.perstN } }

/-- A chip reset, with the FLT.LAST_RESET that the next start shows (R477, R490). -/
def State.chipReset (s : State) (last : Word) : State := s.cleared.wr 0 (regA pFlt 0x06C) last

/-- A chip reset that no fault takes keeps the reset record (R453, R450, R500). -/
def State.chipRestart (s : State) : State := s.chipReset (s.rd 0 (regA pFlt 0x06C))

/-- RESET_N: CAUSE 1. -/
def execResetN (s : State) : Host.Outcome State Fault Refusal := .next (s.chipReset (wd (2 ^ 30)))

/-- The newer of a page's commit words that pass ECC, by the signed difference of WCOUNT modulo 2^31, and its slot (R462). -/
def SetPage.newer (p : SetPage) : Option (Nat × Commit) :=
  match p.commit0, p.commit1 with
  | none, none => none
  | some a, none => some (0, a)
  | none, some b => some (1, b)
  | some a, some b =>
    let d := (b.wcount + 2 ^ 31 - a.wcount) % 2 ^ 31
    if 0 < d ∧ d < 2 ^ 30 then some (1, b) else some (0, a)

/-- What a page reads as: the newer commit word's frame; zeros where both fail ECC (R463). -/
def SetPage.data (p : SetPage) : List Word :=
  match p.newer with
  | none => []
  | some (_, c) => if c.cur = 0 then p.frame0 else p.frame1

/-- WCOUNT of the newer commit word. -/
def SetPage.wcount (p : SetPage) : Nat :=
  match p.newer with
  | none => 0
  | some (_, c) => c.wcount

/-- The frame write of a page write (R462): into the frame that the newer commit word does not name. -/
def SetPage.withFrame (p : SetPage) (ws : List Word) : SetPage :=
  match p.newer with
  | some (_, ⟨0, _⟩) => { p with frame1 := ws }
  | _ => { p with frame0 := ws }

/-- The commit of a page write (R462): the commit word slot that is not the newer one names the other frame, WCOUNT one higher. Power
lost during it leaves a torn word, which fails ECC (R463). -/
def SetPage.commit (p : SetPage) (torn : Bool) : SetPage :=
  let c : Commit := ⟨match p.newer with | some (_, ⟨0, _⟩) => 1 | _ => 0, (p.wcount + 1) % 2 ^ 31⟩
  let w : Option Commit := if torn then none else some c
  match p.newer with
  | some (0, _) => { p with commit1 := w }
  | _ => { p with commit0 := w }

/-- A host settings page (R460, R462). -/
def State.setPage (s : State) (slot pg : Nat) : SetPage := Tab.get (fun _ => SetPage.blank) s.mgt.pages (slot * 2000 + pg)
def State.putPage (s : State) (slot pg : Nat) (p : SetPage) : State :=
  { s with mgt := { s.mgt with pages := Tab.put (fun _ => SetPage.blank) s.mgt.pages (slot * 2000 + pg) p } }

/-- One page write (R462). -/
def State.writePage (s : State) (slot pg : Nat) (ws : List Word) : State :=
  s.putPage slot pg (((s.setPage slot pg).withFrame ws).commit false)

/-- A page write in progress when power is lost has come to its frame write, to its commit word, or to its end (R463): a free value (log
entry 1). -/
def State.tornWrite (s : State) (o : ResOp) : State :=
  let req := dat o.data 0
  let (u, s1) := s.fresh 2
  let slot := s.rdF 0 (regA pMgt 0x040) 4 1
  let pg := fld req 16 11
  let p := (s1.setPage slot pg).withFrame (o.data.drop 1)
  if o.page ≠ pMgt ∨ fld req 0 2 ≠ 2 ∨ 2000 ≤ pg ∨ u = 0 then s1
  else if u = 1 then s1.putPage slot pg p
  else s1.putPage slot pg (p.commit (u == 2))

/-- POWER_LOSS: CAUSE 0. -/
def execPowerLoss (s : State) : Host.Outcome State Fault Refusal :=
  .next ((forEach s.bus.res (fun o s => s.tornWrite o) s).chipReset 0)

/-- The effect of PERST_N on the part (R11, R12, R222, R428): the host interface, the staging lists, KEY_IN and WRAP_IN. -/
def State.perst (s : State) : State :=
  let s1 := (s.hostReset.clearStaging none).audClearStaging none
  forEach (List.range 16) (fun p s => forEach (List.range 18) (fun i s => s.wr p (regA pKey (0x100 + 4 * i)) 0) s) s1

/-- PERST_N asserts; in SLEEP and DEEP the host interface applies it on exit (R501). -/
def execPerstN (s : State) : Host.Outcome State Fault Refusal :=
  let st := s.rdF 0 (regA pPwr 0x048) 0 3
  let s1 := if st = 2 ∨ st = 3 then { s with pwr := { s.pwr with perst := true } } else s.perst
  .next { s1 with host := { s1.host with perstN := false } }

/-- PERST_N_RELEASE: the pin rises; the link may train, and messages that pend may be sent (R11, R73). -/
def execPerstNRelease (s : State) : Host.Outcome State Fault Refusal :=
  .next { s with host := { s.host with perstN := true } }

/-- A management warm reset begins (R11, R12, R221, R376): firmware stops, staging lists are cleared, MGT.STATUS.READY reads 0, and PTP
time bases read HOLDOVER. -/
def State.warmReset (s : State) : State :=
  ((s.takeWarm.audClearStaging none).wrF 0 (regA pMgt 0x040) 0 1 0).candTbCheck

/-- MANAGEMENT_WARM_RESET. Before a start has completed there is no firmware to restart. -/
def execManagementWarmReset (s : State) : Host.Outcome State Fault Refusal :=
  .next (if s.rdF 0 (regA pMgt 0x040) 1 2 = 1 then s.warmReset else s)

end Sys2Proof.Machine
end

