-- ==== Sys2Proof/Machine/Mgt.lean ====
section
/-!
DEFINITION. Machine/Mgt.lean: start-up, image slots, updates and the settings store of spec/16_firmware_and_start.md (R444 to R467).
-/
namespace Sys2Proof.Machine

def mgtA (off : Nat) : Nat := regA pMgt off
def State.setMgt (s : State) (m : MgtSt) : State := { s with mgt := m }

/-- MGT.STATUS fields. -/
def State.mgtReady (s : State) : Bool := bitOf (s.rd 0 (mgtA 0x040)) 0
def State.mgtMode (s : State) : Nat := s.rdF 0 (mgtA 0x040) 1 2
def State.mgtPause (s : State) : Bool := bitOf (s.rd 0 (mgtA 0x040)) 6
def State.setMgtStatus (s : State) (lo n v : Nat) : State := s.wrF 0 (mgtA 0x040) lo n v

/-- STATE of a slot, R445. -/
def State.slot (s : State) (i : Nat) : Nat := s.mgt.slots.getD i 0
def State.setSlot (s : State) (i v : Nat) : State := s.setMgt { s.mgt with slots := s.mgt.slots.set i v }

/-- The STANDBY slot, if there is one. -/
def State.standby (s : State) : Option Nat := [0, 1].find? fun i => s.slot i == 5

/-- Write a failure record (R450, R453); the store keeps three. -/
def State.failRecord (s : State) (reason stepNo : Nat) : State :=
  let i := s.mgt.running
  let r : FailRec := ⟨reason, i, stepNo, (s.mgt.imgs.getD i ⟨0, 0, 0⟩).rev, s.mgt.starts⟩
  s.setMgt { s.mgt with records := (r :: s.mgt.records).take 3 }

/-- A slot becomes the running one. -/
def State.runSlot (s : State) (i : Nat) : State := ((s.setMgt { s.mgt with running := i }).setSlot i 4).setMgtStatus 4 1 i

/-! ### The image in a slot, R446 and R448 -/

/-- Byte k of a slot's flash as the load table has written it; erased flash reads 0xFF. -/
def State.flashByte (s : State) (i k : Nat) : Nat :=
  match Tab.get (fun _ => ([] : List Word)) s.mgt.flash (i * 2 ^ 19 + k / 64) with
  | [] => 255
  | ws => fld (dat ws (k % 64 / 4)) (24 - 8 * (k % 4)) 8

/-- A little-endian number of n bytes. -/
def State.flashNum (s : State) (i k : Nat) : Nat → Nat
  | 0 => 0
  | n + 1 => s.flashByte i k + 256 * State.flashNum s i (k + 1) n

/-- The checks of R446 and R448 that need no key: MAGIC, FORMAT, SILICON, NBLOCKS, IMAGE_LEN, and block types and places. -/
def State.imageFits (s : State) (i : Nat) : Bool :=
  let n := s.flashNum i 14 2
  let len := s.flashNum i 16 4
  s.flashByte i 0 == 0x52 && s.flashByte i 1 == 0x48 && s.flashByte i 2 == 0x4F && s.flashByte i 3 == 0x41 &&
    s.flashNum i 4 2 == 1 && s.flashNum i 6 2 == 0xB1 && decide (1 ≤ n ∧ n ≤ 256 ∧ len ≤ 33554432) &&
    (List.range n).all fun b =>
      let e := 256 + 64 * b
      let ty := s.flashNum i e 2
      let off := s.flashNum i (e + 4) 4
      decide (1 ≤ ty ∧ ty ≤ 5 ∧ off % 64 = 0 ∧ off + s.flashNum i (e + 8) 4 ≤ len)

/-- What the bytes of a slot's image say: an image that this part was not loaded with through the table, as the one it first starts
with, has no bytes here (log entry 7), and START's operand alone tells of it. A SILICON other than the part's revision is refused (R18). -/
def State.imageBad (s : State) (i : Nat) : Bool := (s.mgt.flash.any fun e => e.1 / 2 ^ 19 == i) && !s.imageFits i
def State.otherSilicon (s : State) (i : Nat) : Bool := s.imageBad i && s.flashNum i 6 2 != 0xB1

/-! ### Start, R449 to R453 -/

/-- Halter mode, R452: no lane runs, no virtual function is enumerated, the key store is in RECOVERY. -/
def State.enterHalter (s : State) : State :=
  let s1 := { s with host := { s.host with vfEnable := false } }
  (s1.setMgtStatus 1 2 2).enterStage 2 ['M', 'G', '-', 'R', 'C', 'V', 'Y'] []

/-- The blocks that a start loads (R449): every page is ready but those whose own loading ends with an event, LANE (R96), REEL (R253)
and MGT; foley cores are zeroed and IDLE (R341). -/
def State.loadBlocks (s : State) : State :=
  let s1 := forEach (allPages.filter fun p => !(p == pReel || p == pMgt || decide (0x100 ≤ p ∧ p < 0x140) || decide (0x200 ≤ p)))
    (fun p s => s.wrF 0 (regA p 0x014) 0 1 1) s
  forEach (List.range 64) (fun c s => s.folInit c) s1

/-- A failed attempt: the record, and a part that starts again from chip reset. -/
def State.failStart (s : State) (reason stepNo : Nat) : State := ((s.failRecord reason stepNo).raise pMgt 2 0).chipRestart

/-- A chip reset during a trial boots the STANDBY image; the TRIAL_RESET record counts as a failed start (R459). The slot of the trial
is VALID again (log entry 68). -/
def State.endTrialReset (s : State) : State :=
  if s.mgt.trial then
    let s1 := s.failRecord 9 1
    let s2 := (s1.setMgt { s1.mgt with trial := false, fails := min 3 (s1.mgt.fails + 1) }).setSlot s1.mgt.running 2
    match s2.standby with
    | some i => s2.runSlot i
    | none => s2
  else s

/-- START: one attempt of the boot ROM after a chip reset. -/
def execStart (v : BootCheck) (s : State) : Host.Outcome State Fault Refusal :=
  .next (if s.mgtMode ≠ 0 ∨ s.mgt.booted then s
    else
      let s0 := s.setMgt { s.mgt with starts := s.mgt.starts + 1 }
      let s1 := (s0.enterStage 0 ['M', 'G', '-', 'B', 'O', 'O', 'T'] []).endTrialReset
      if 3 ≤ s1.mgt.fails then s1.enterHalter
      else
        let s2 := s1.setMgt { s1.mgt with fails := s1.mgt.fails + 1 }
        let i := s2.mgt.running
        if s2.slot i ≠ 4 then s2.failStart 1 2
        else if v.ok && !s2.imageBad i then (s2.setMgt { s2.mgt with booted := true }).loadBlocks.setMgtStatus 4 1 i
        else
          let s3 := ((s2.failRecord (if s2.otherSilicon i then 3 else v.reason.toNat) 2).raise pMgt 2 0).setSlot i 3
          match s3.standby with
          | some j => s3.runSlot j
          | none => s3.chipRestart)

/-- START_FAIL: a copy fails its CRC, the flash does not answer, or READY is not reached within 10 s (R450). -/
def execStartFail (reason : BitVec 8) (stepNo : BitVec 4) (s : State) : Host.Outcome State Fault Refusal :=
  .next (if s.mgtMode = 0 ∧ s.mgt.booted then s.failStart reason.toNat stepNo.toNat else s)

/-- Set up a slot's settings areas at the first READY of its image (R461): host settings are copied from the STANDBY slot. -/
def State.setUpSlot (s : State) : State :=
  let i := s.mgt.running
  if !s.mgt.unset.contains i then s
  else
    let s1 := s.setMgt { s.mgt with unset := s.mgt.unset.filter fun k => k != i }
    match s1.standby with
    | none => s1
    | some j =>
      forEach (s1.mgt.pages.filter fun e => e.1 / 2000 == j) (fun e s => s.writePage i (e.1 % 2000) e.2.data) s1

/-- MGT_READY: the start completes; a start that follows a thermal trip sets PWR.TRIP (R512). -/
def execMgtReady (s : State) : Host.Outcome State Fault Refusal :=
  .next (if s.mgtMode = 0 ∧ s.mgt.booted then
      let s1 := ((s.setMgtStatus 0 1 1).setMgtStatus 1 2 1).wrF 0 (regA pMgt 0x014) 0 1 1
      let s2 := s1.setMgt { s1.mgt with fails := 0, tripped := false }
      let s3 := { s2 with take := { s2.take with solver := true } }.setUpSlot
      if s.mgt.tripped then s3.raise pPwr 2 0 else s3
    else s)

/-! ### Activation, trial and fallback, R455 to R459 -/

/-- Set MGT.UPD_RESULT in one step (R465). -/
def State.updResult (s : State) (op slot code : Nat) (busy : Bool) : State :=
  s.wr 0 (mgtA 0x054) (wd (code % 256 + op % 16 * 256 + slot * 4096 + if busy then 2 ^ 31 else 0))

/-- Restart into the running slot's image as R456 does: a pause, the warm reset, and new programs for the lane sequencers (R96) and the
compositor sequencers (R362). -/
def State.restartImage (s : State) : State :=
  let s1 := (s.setMgtStatus 6 1 1).warmReset
  let s2 := forEach ((List.range 48).filter fun b => s1.seqState b != 0)
    (fun b s => (s.wrF 0 (laneA b 0x048) 0 4 0).wrF 0 (laneA b 0x014) 0 1 0) s1
  s2.monFreeze

/-- Revert to the STANDBY slot (R458); the slot of the trial takes a state, VALID or BAD. -/
def State.mgtRevert (s : State) (bad : Bool) : State :=
  match s.standby with
  | none => s
  | some j =>
    let i := s.mgt.running
    let s1 := if bad then s.failRecord 10 0 else s
    let s2 := (s1.setMgt { s1.mgt with trial := false, deadline := none, cmd := some (6, j) }).setSlot i (if bad then 3 else 2)
    ((s2.setMgtStatus 5 1 0).runSlot j).restartImage.raise pMgt 1 0

/-- Whether the acceptance window is open: the trial image is ready and its time has not ended. -/
def State.windowOpen (s : State) : Bool := s.mgt.trial && s.mgtReady && s.mgt.deadline.any fun b => decide (s.beat < b)

/-- MGT.ACCEPT_LEFT: whole seconds left, rounded up. -/
def State.acceptLeft (s : State) : Nat :=
  match s.mgt.deadline with
  | some b => cdiv (b - s.beat) beatsPerSecond
  | none => 0

/-- Whether an update command is in progress. -/
def State.updBusy (s : State) : Bool := s.mgt.cmd.isSome || s.mgtPause || !s.mgtReady

/-- Lowest-addressed locked page whose owner is not P0 (R455). -/
def State.lockedPage (s : State) : Option Nat := allPages.find? fun p => s.pageLocked p && s.pageOwner p != 0

/-- PAGE_ID of a page. -/
def State.pageId (s : State) (p : Nat) : Word := s.rd 0 (regA p 0x000)

/-- Check 7 to 9 of R455, and their UPD_INFO. The supply margin is measured: a free value (log entry 1). -/
def State.activateLate (s : State) : (Nat × Word) × State :=
  match s.lockedPage with
  | some p => ((4, s.pageId p), s)
  | none =>
    let (m, s1) := s.fresh 16
    if sext 16 m < (s.rdF 0 (mgtA 0x064) 0 8 : Nat) then ((2, wd m), s1)
    else if 0 < s.queueTotal ∨ (List.range 16).any (fun p => 0 < s.audPending p) then ((3, 0), s1)
    else ((0, 0), s1)

/-- ACTIVATE, R455 and R456. -/
def mgtActivate (i : Nat) (s : State) : State :=
  let ref (code : Nat) (info : Word) (s : State) : State := ((s.updResult 4 i code false).wr 0 (mgtA 0x058) info).raise pMgt 0 0
  if s.halter then ref 8 0 s
  else if s.mgt.trial then ref 6 0 s
  else if s.slot i ≠ 2 ∧ s.slot i ≠ 5 then ref 5 0 s
  else if s.updBusy then ref 7 0 s
  else if bitOf (s.rd 0 (mgtA 0x04C)) 0 then ref 1 0 s
  else
    let ((code, info), s1) := s.activateLate
    if code ≠ 0 then ref code info s1
    else
      let old := s1.mgt.running
      let s2 := (s1.setMgt { s1.mgt with trial := true, cmd := some (4, i) }).setSlot old 5
      ((s2.runSlot i).updResult 4 i 0 true).restartImage

/-- Erase a slot's flash and clear its settings areas (R454). -/
def State.eraseSlot (s : State) (i : Nat) : State :=
  let pages := (s.mgt.pages.filter fun e => e.1 / 2000 == i).map fun e => e.1 % 2000
  let s1 := forEach pages (fun p s => s.writePage i p []) s
  { s1 with
    mgt := { s1.mgt with flash := Tab.keep (fun k => !(k / 2 ^ 19 == i)) s1.mgt.flash, unset := i :: s1.mgt.unset.filter fun k => k != i }
    key := { s1.key with keep := s1.key.keep.filter fun r => r.slot != i } }

/-- One update command of MGT.UPD_CMD. Codes that R455 and R457 give no command are the nearest of R455's (log entry 69). -/
def mgtCommand (op i : Nat) (s : State) : State :=
  let ref (code : Nat) : State := (s.updResult op i code false).raise pMgt 0 0
  let ok (s : State) : State := s.updResult op i 0 false
  if op = 0 ∨ 7 < op then ref 9
  else if s.halter && !(op == 1 || op == 2 || op == 3 || op == 7) then ref 8
  else
    match op with
    | 1 =>
      if s.slot i = 4 ∨ (s.mgt.trial ∧ s.slot i = 5) then ref 5
      else if s.updBusy && !(s.halter && s.mgt.cmd.isNone) then ref 7
      else ((s.setMgt { s.mgt with cmd := some (1, i) }).eraseSlot i).updResult 1 i 0 true
    | 2 =>
      if s.slot i ≠ 1 then ref 5
      else if s.updBusy && !(s.halter && s.mgt.cmd.isNone) then ref 7
      else (s.setMgt { s.mgt with cmd := some (2, i) }).updResult 2 i 0 true
    | 3 =>
      if s.slot i ≠ 1 then ref 5
      else if s.mgt.cmd.isSome then ref 7
      else ok (s.setSlot i 0)
    | 4 => mgtActivate i s
    | 5 =>
      if s.mgt.trial && !s.mgtReady then ref 7
      else if !s.windowOpen then ref 10
      else ok ((s.setMgt { s.mgt with trial := false, deadline := none }).setMgtStatus 5 1 0)
    | 6 =>
      if s.mgt.trial && !s.mgtReady then ref 7
      else if !s.windowOpen then ref 10
      else (s.mgtRevert false).updResult 6 i 0 true
    | _ =>
      if s.slot i ≠ 2 ∧ s.slot i ≠ 5 then ref 5
      else
        let s1 := if s.slot s.mgt.running = 4 ∧ s.mgt.running ≠ i then s.setSlot s.mgt.running 5 else s
        ((s1.setMgt { s1.mgt with running := i, fails := 0, trial := false }).setSlot i 4).chipRestart

/-- A write of MGT.UPD_CMD. -/
def writeUpdCmd (d : Word) (s : State) : State := mgtCommand (fld d 0 4) (fld d 8 1) s

/-- An update row: a write of UPD_CMD with its OP and slot. -/
def updRow (t : Tag) (op slot : Nat) (s : State) : State :=
  hostWrite t (mgtA 0x050) (wd (op + slot * 256)) (writeUpdCmd (wd (op + slot * 256))) s

/-- LOAD_BEGIN. -/
def execLoadBegin (t : Tag) (slot : Fin 2) (s : State) : Host.Outcome State Fault Refusal := .next (updRow t 1 slot s)
/-- LOAD_END. -/
def execLoadEnd (t : Tag) (slot : Fin 2) (s : State) : Host.Outcome State Fault Refusal := .next (updRow t 2 slot s)
/-- LOAD_ABORT. -/
def execLoadAbort (t : Tag) (slot : Fin 2) (s : State) : Host.Outcome State Fault Refusal := .next (updRow t 3 slot s)
/-- ACTIVATE. -/
def execActivate (t : Tag) (slot : Fin 2) (s : State) : Host.Outcome State Fault Refusal := .next (updRow t 4 slot s)
/-- ACCEPT. -/
def execAccept (t : Tag) (s : State) : Host.Outcome State Fault Refusal := .next (updRow t 5 0 s)
/-- REVERT. -/
def execRevert (t : Tag) (s : State) : Host.Outcome State Fault Refusal := .next (updRow t 6 0 s)
/-- RECOVER. -/
def execRecover (t : Tag) (slot : Fin 2) (s : State) : Host.Outcome State Fault Refusal := .next (updRow t 7 slot s)

/-- FIRMWARE_READY: management firmware is ready after a warm reset (R221, R456): READY and ACCEPT return, the pause ends, cause 196
is raised, and a trial's acceptance window opens (R457). -/
def execFirmwareReady (s : State) : Host.Outcome State Fault Refusal :=
  .next (if s.mgtMode ≠ 1 ∨ s.mgtReady then s
    else
      let s1 := (((s.setMgtStatus 0 1 1).setMgtStatus 6 1 0).takeReady).setUpSlot
      let s2 := match s1.mgt.cmd with
        | some (4, i) => (s1.setMgt { s1.mgt with cmd := none }).updResult 4 i 0 false
        | some (6, i) => (s1.setMgt { s1.mgt with cmd := none }).updResult 6 i 0 false
        | _ => s1
      if s2.mgt.trial ∧ s2.mgt.deadline = none then
        (s2.setMgt { s2.mgt with deadline := some (s2.beat + max 1 (s2.rdF 0 (mgtA 0x05C) 0 16) * beatsPerSecond) }).setMgtStatus 5 1 1
      else s2)

/-- ACCEPT_WINDOW_END: the window ends without ACCEPT. -/
def execAcceptWindowEnd (s : State) : Host.Outcome State Fault Refusal :=
  .next (if s.mgt.trial && s.mgt.deadline.any (fun b => decide (b ≤ s.beat)) then s.mgtRevert false else s)

/-- TRIAL_HEALTH_TIMEOUT: a trial image is not READY 10 s after its restart. -/
def execTrialHealthTimeout (s : State) : Host.Outcome State Fault Refusal :=
  .next (if s.mgtMode = 1 ∧ s.mgt.trial ∧ !s.mgtReady then s.mgtRevert true else s)

/-- MANAGEMENT_WATCHDOG: a failed start before READY (R450), a failed health check of a trial (R458), else a warm reset (R451). -/
def execManagementWatchdog (s : State) : Host.Outcome State Fault Refusal :=
  .next (if s.mgtMode = 0 then (if s.mgt.booted then s.failStart 7 0 else s)
    else if s.mgtMode = 2 then s
    else if s.mgt.trial then (s.raise pMgt 4 0).mgtRevert true
    else s.warmReset.raise pMgt 4 0)

/-- A write of MGT.CTRL. -/
def writeMgtCtrl (d : Word) (s : State) : State := if bitOf d 0 ∧ s.mgtMode = 1 then s.warmReset else s

/-- WARM. -/
def execWarm (t : Tag) (s : State) : Host.Outcome State Fault Refusal := .next (hostWrite t (mgtA 0x048) 1 (writeMgtCtrl 1) s)

/-! ### Images, R446, R448 and R454 -/

/-- UPDATE_COMMAND_DONE: an erase or a verification ends (R454). -/
def execUpdateCommandDone (v : ImageCheck) (s : State) : Host.Outcome State Fault Refusal :=
  .next (match s.mgt.cmd with
    | some (1, i) => ((s.setMgt { s.mgt with cmd := none }).setSlot i 1).updResult 1 i 0 false
    | some (2, i) =>
      let info : ImgInfo := ⟨wd (s.flashNum i 8 4), s.flashNum i 12 2, s.flashNum i 16 4⟩
      let good := v.ok && s.imageFits i
      let s1 := s.setMgt { s.mgt with cmd := none, imgs := s.mgt.imgs.set i info }
      (s1.setSlot i (if good then 2 else 3)).updResult 2 i 0 false
    | _ => s)

/-! ### Tables and the settings requests, R464 and R465 -/

/-- A refused MGT table write. -/
def State.mgtRefuse (s : State) : Nat × State := (3, s)

/-- Read of an MGT table. -/
def mgtTableRead (sel idx : Nat) (s : State) : Nat × List Word :=
  match sel with
  | 1 =>
    if 2 ≤ idx then (2, [])
    else
      let m := s.mgt.imgs.getD idx ⟨0, 0, 0⟩
      (0, [wd (s.slot idx), m.rev, wd m.fmt, wd m.len])
  | 2 => if 524288 ≤ idx then (2, []) else (0, [])
  | 3 => if 8 ≤ idx then (2, []) else (0, s.entWords pMgt 0 3 idx 16)
  | 4 =>
    if 3 ≤ idx then (2, [])
    else
      match s.mgt.records[idx]? with
      | some r => (0, [wd (r.reason + r.slot * 256 + r.stepNo * 4096), r.rev, wd r.num])
      | none => (0, [0, 0, 0])
  | _ => (1, [])

/-- Write of an MGT table. -/
def mgtTableWrite (sel idx : Nat) (d : List Word) (s : State) : Nat × State :=
  match sel with
  | 1 => if 2 ≤ idx then (2, s) else s.mgtRefuse
  | 2 =>
    match [0, 1].find? fun i => s.slot i == 1 with
    | none => s.mgtRefuse
    | some i =>
      if 524288 ≤ idx ∨ Tab.get (fun _ => ([] : List Word)) s.mgt.flash (i * 2 ^ 19 + idx) ≠ [] ∨ s.mgt.cmd = some (2, i) then
        s.mgtRefuse
      else
        let u := (List.range 16).map fun w => dat d w
        (0, s.setMgt { s.mgt with flash := Tab.put (fun _ => []) s.mgt.flash (i * 2 ^ 19 + idx) u })
  | 3 => if 8 ≤ idx then (2, s) else (0, s.setEntWords pMgt 0 3 idx 0 ((List.range 16).map fun w => dat d w))
  | 4 => if 3 ≤ idx then (2, s) else s.mgtRefuse
  | _ => (1, s)

/-- The words of the host page buffer. -/
def State.pageBuffer (s : State) : List Word := (List.range 8).flatMap fun i => s.entWords pMgt 0 3 i 16

/-- What a settings request takes when it is made (R464): SET_REQ, and for WRITE the buffer. -/
def State.settingsArgs (s : State) : List Word := s.rd 0 (mgtA 0x0B0) :: if s.rdF 0 (mgtA 0x0B0) 0 2 = 2 then s.pageBuffer else []

/-- A settings request ends: ECODE 3 during the pause (R456), for a reserved OP or page. -/
def State.settingsDone (s : State) (data : List Word) : (Nat × List Word) × State :=
  let req := dat data 0
  let pg := fld req 16 11
  let slot := s.rdF 0 (mgtA 0x040) 4 1
  let out (s : State) : List Word := [wd pg, wd (s.setPage slot pg).wcount]
  if s.mgtPause ∨ !s.mgtReady ∨ 2000 ≤ pg then ((3, []), s)
  else
    match fld req 0 2 with
    | 1 =>
      let p := (s.setPage slot pg).data
      let s1 := forEach (List.range 8) (fun i s =>
        s.setEntWords pMgt 0 3 i 0 ((List.range 16).map fun w => dat p (16 * i + w))) s
      let s2 := if (s.setPage slot pg).newer.isNone then s1.raise pMgt 3 0 else s1
      ((0, out s2), s2)
    | 2 =>
      let s1 := s.writePage slot pg (data.drop 1)
      ((0, out s1), s1)
    | _ => ((3, []), s)

/-- MGT.START_FAILS and MGT.SETTINGS_FMT as they read. -/
def State.startFails (s : State) : Word :=
  wd (s.mgt.fails + if s.halter then (match s.mgt.records with | r :: _ => r.reason * 256 | [] => 0) else 0)
def State.settingsFmt (s : State) : Word :=
  let fmt (i : Nat) : Nat := (s.mgt.imgs.getD i ⟨0, 0, 0⟩).fmt
  wd (fmt s.mgt.running + match s.standby with | some j => fmt j * 65536 | none => 0)

end Sys2Proof.Machine
end

