-- ==== Sys2Proof/Machine/Part.lean ====
section
/-!
DEFINITION. Machine/Part.lean: the PART page of spec/02_control_plane.md: owners, grants and caps (R58 to R60).
-/
namespace Sys2Proof.Machine

/-- Entries of a PART table, R58. -/
def partEntries (sel : Nat) : Option Nat :=
  match sel with
  | 1 => some 4352
  | 2 => some 4608
  | 3 => some 64
  | 4 => some 8
  | 5 => some 256
  | 6 => some 256
  | 7 => some 64
  | 8 => some 16
  | _ => none

/-- Whether a table's entries hold FORCE and GRANT. -/
def partGrants (sel : Nat) : Bool := sel == 1 || sel == 6

/-- Whether an audio block is the source (sel 6) or the destination (sel 5) of a route, or is named by an unfinished audio
transaction. -/
def State.audBlockInUse (s : State) (sel blk : Nat) : Bool :=
  let routes := s.entIdxs pAud 0 4 1 fun w => bitOf w 31 && (sel == 5 || fld w 8 8 == blk)
  let mems := s.aud.txs.flatMap fun t => t.members
  if sel = 5 then routes.any (fun y => y / 256 == blk) || mems.any fun m => m.dst / 256 == blk
  else !routes.isEmpty || mems.any fun m => m.src.any fun x => x / 256 == blk

/-- Whether the resource of an ownership entry is in use (R59, R158, R164): its owner may not change. A time base never is. -/
def State.partInUse (s : State) (sel idx : Nat) : Bool :=
  match sel with
  | 1 => s.portInUse selIn idx ||
      (decide (idx < 4096) && (bitOf (s.ingCfg idx 0) 3 || decide (fld (s.ingCfg idx 0) 4 9 ≠ 0)))
  | 2 => s.portInUse selOut idx
  | 3 => headEn (s.monEnt 1 idx 0)
  | 5 => s.audBlockInUse 5 idx
  | 6 => s.audBlockInUse 6 idx
  | 7 => s.qEn idx false || s.qEn idx true
  | _ => false

/-- Whether partition p uses a source, or an audio input block, by a route or an unfinished transaction of its own (R59). -/
def State.partUses (s : State) (sel idx p : Nat) : Bool :=
  if sel = 1 then s.usesSource idx p
  else
    ((s.entIdxs pAud 0 4 1 fun w => bitOf w 31 && fld w 8 8 == idx).any fun y => s.ownOut (y / 256) == p) ||
      s.aud.txs.any fun t => txCmd t.id && txPart t.id == p && t.members.any fun m => m.src.any fun x => x / 256 == idx

/-- Whether a forced removal of partition p's grant is in progress. -/
def State.partRemoving (s : State) (sel idx p : Nat) : Bool :=
  if sel = 1 then s.take.removing.contains (idx, p) else s.aud.removing.contains (idx, p)

/-- Start of a forced removal. -/
def State.partForce (s : State) (sel idx p : Nat) : State :=
  if sel = 1 then s.forceRemoval idx p else s.audForce idx p

/-- Reads of the PART tables, R58: another partition sees the entries that it owns or holds a grant for, and its own caps. -/
def partTableRead (t : Tag) (sel idx : Nat) (s : State) : Nat × List Word :=
  let p := tagBank t
  match partEntries sel with
  | none => (1, [])
  | some n =>
    if n ≤ idx then (2, [])
    else if sel = 8 then
      if tagIsP0 t || p == idx then
        (0, s.entWords pPart 0 8 idx 3 ++ [wd (s.load 1 idx), wd (s.load 2 idx)])
      else (4, [])
    else if tagIsP0 t || s.partOwner sel idx == p || (partGrants sel && s.granted sel idx p) then (0, [s.ent pPart 0 sel idx 0])
    else (4, [])

/-- Bits of DATA0 that an ownership entry defines. -/
def partMask (sel : Nat) : Nat := if partGrants sel then 0xFFFF800F else 0xF

/-- The grants that a write takes away from partitions that use the source, and the grants that it sets while they are being removed. -/
def State.partTaken (s : State) (sel idx : Nat) (d : Word) : List Nat :=
  if partGrants sel then
    idxs 16 fun p => s.granted sel idx p && !bitOf d (16 + p) && !s.partRemoving sel idx p && s.partUses sel idx p
  else []
def State.partRegrants (s : State) (sel idx : Nat) (d : Word) : Bool :=
  partGrants sel && (List.range 16).any fun p => bitOf d (16 + p) && s.partRemoving sel idx p

/-- The REASON for which a write is refused, 0 for none: 1 IN_USE, 3 BAD_VALUE. Of a write that meets both, BAD_VALUE is reported:
DESIGN CHOICE, log entry 144. -/
def State.partReason (s : State) (sel idx : Nat) (d : List Word) : Nat :=
  let w := dat d 0
  if sel = 8 then (if outside (dat d 2) 0xFFFF then 3 else 0)
  else if outside w (partMask sel) then 3
  else if s.partOwner sel idx ≠ fld w 0 4 ∧ s.partInUse sel idx then 1
  else if s.partRegrants sel idx w then 1
  else if !bitOf w 15 && !(s.partTaken sel idx w).isEmpty then 1
  else 0

/-- What an accepted ownership write stores: the owner, and the grants; a grant whose removal is in progress stays until that ends. -/
def State.partStore (s : State) (sel idx : Nat) (w : Word) : State :=
  let old := s.partOwner sel idx
  let kept := if partGrants sel then idxs 16 fun p => s.partRemoving sel idx p || (s.partTaken sel idx w).contains p else []
  let v := kept.foldl (fun v p => setBit v (16 + p) true) (setBit w 15 false)
  let s1 := s.setEnt pPart 0 sel idx 0 v
  let s2 := if sel = 1 ∧ idx < 4096 ∧ old ≠ fld w 0 4 then s1.cutOwner idx old (fld w 0 4) else s1
  forEach (s.partTaken sel idx w) (fun p s => s.partForce sel idx p) s2

/-- Writes of the PART tables, R58 to R60. -/
def partTableWrite (t : Tag) (sel idx : Nat) (d : List Word) (s : State) : Nat × State :=
  match partEntries sel with
  | none => (1, s)
  | some n =>
    if !tagIsP0 t then (4, s)
    else if n ≤ idx then (2, s.setReason pPart 0x040 0 2 idx)
    else
      let r := s.partReason sel idx d
      if r ≠ 0 then (3, s.setReason pPart 0x040 0 r idx)
      else
        let s1 := if sel = 8 then s.setEntWords pPart 0 8 idx 0 [dat d 0, dat d 1, dat d 2] else s.partStore sel idx (dat d 0)
        (0, s1.clearReason pPart 0x040 0)

/-- PART.OVER: partitions whose load exceeds a cap (R60). -/
def State.partOver (s : State) : Word :=
  wd ((idxs 16 fun p => decide (s.fabCap 1 p < s.load 1 p ∨ s.fabCap 2 p < s.load 2 p ∨ s.reelCap p < s.reelLoad p)).foldl
    (fun n p => n + 2 ^ p) 0)

end Sys2Proof.Machine
end

