-- ==== Sys2Proof/Machine/Flt.lean ====
section
/-!
DEFINITION. Machine/Flt.lean: the fault collector, hold-all and the farrier test of spec/17_faults_and_redundancy.md (R468 to R493).
-/
namespace Sys2Proof.Machine

def fltA (off : Nat) : Nat := regA pFlt off
def State.setFlt (s : State) (f : FltSt) : State := { s with flt := f }

/-- FLT.CFG.LOG_TB, and the stamp of logs and reports: its linear count. -/
def State.logStamp (s : State) : Nat := s.linear (s.rdF 0 (fltA 0x060) 0 3)

/-- The page that a page source's occurrence comes from (R468), by source and INSTANCE. -/
def sourcePage (src inst : Nat) : Nat :=
  let k := src / 16
  if k < 17 then k
  else if k = 17 then pLane inst
  else if k = 18 then pPort inst
  else if k = 19 then pIng inst
  else if k = 20 then pEgr inst
  else pFol inst

/-! ### Source configuration and status, R471, R479 and R480 -/

/-- Words of a source's configuration entry. -/
def State.srcSev (s : State) (src : Nat) : Nat := s.entF pFlt 0 1 src 0 0 2
def State.srcReact (s : State) (src : Nat) : Nat := s.entF pFlt 0 1 src 0 4 5
def State.srcEscN (s : State) (src : Nat) : Nat := s.entF pFlt 0 1 src 0 12 4
def State.srcEscCap (s : State) (src : Nat) : Nat := s.entF pFlt 0 1 src 0 16 2

/-- SEV_REACT of a severity: CHIP always reads 1 for S3 (R472). -/
def State.sevReact (s : State) (e : Nat) : Nat :=
  let v := s.entF pFlt 0 2 e 0 4 5
  if e = 3 ∧ v / 8 % 2 = 0 then v + 8 else v

/-- Effective severity for a COUNT (R480). -/
def State.effSev (s : State) (src count : Nat) : Nat :=
  let sev := s.srcSev src
  let n := s.srcEscN src
  if n = 0 then sev else min (sev + count / n) (max sev (s.srcEscCap src))

/-- Status of a source for a partition. -/
def State.srcPend (s : State) (p src : Nat) : Bool := bitOf (s.ent pFlt p 3 src 0) 0
def State.srcActive (s : State) (p src : Nat) : Bool := bitOf (s.ent pFlt p 3 src 0) 1
def State.srcCount (s : State) (p src : Nat) : Nat := s.entF pFlt p 3 src 0 16 16
def State.setActive (s : State) (p src : Nat) (v : Bool) : State := s.setEntF pFlt p 3 src 0 1 1 (if v then 1 else 0)

/-- FLT.STATUS.ERR_N as it reads: 1 while the pin is driven low (R476, R483). -/
def State.errN (s : State) : Bool := s.held || s.flt.errTook.any fun k => s.srcPend 0 k

/-- The reactions of an effective severity that the collector takes for an occurrence (R471, R474), and those that it strips. Bit 0 is
INT, 1 NMI, 2 BLOCK, 3 CHIP, 4 ERR. -/
def State.reactions (s : State) (o : Occ) (e : Nat) : Nat × Nat :=
  let set := Nat.lor (s.srcReact o.src) (s.sevReact e)
  if o.part = 0 then (set, 0)
  else
    let own := match pageOf (sourcePage o.src o.inst) with
      | some (k, _) => !k.shared && s.pageOwner (sourcePage o.src o.inst) == o.part
      | none => false
    let keep := if decide (o.src < 352) && own then 5 else 1
    (Nat.land set keep, Nat.land set (31 - keep))

/-- Whether a source's BLOCK reaction resets anything (R469, R475). -/
def blockResets (src : Nat) : Bool :=
  if src < 352 then
    match pageOf (sourcePage src 0) with
    | some (k, _) => !(k == .bmx || k == .part || k == .chip || k == .key || k == .flt || k == .pwr || k == .sens)
    | none => false
  else decide (576 ≤ src ∧ src ≤ 610) || src == 616 || src == 617

/-- An entry of a partition's fault log (R478). -/
def State.logOcc (s : State) (o : Occ) (e taken : Nat) (stripped held : Bool) (count : Nat) : State :=
  let b (x : Bool) (n : Nat) : Nat := if x then n else 0
  let n := (s.rd o.part (fltA 0x05C)).toNat
  let d0 := wd (o.src + e * 2 ^ 12 + b (s.srcSev o.src < e) (2 ^ 14) + b stripped (2 ^ 15) + taken * 2 ^ 16 + b held (2 ^ 21))
  let st := s.logStamp
  (s.setEntWords pFlt o.part 4 (n % 64) 0 [d0, wd (o.inst % 65536 + o.part * 65536), loHalf st, hiHalf st, wd count]).inc o.part
    (fltA 0x05C)

/-- An occurrence in the collector: status, log, and the mark that a stripped one leaves (R474, R478, R479). The reactions to take are
returned: its effective severity and the set. -/
def State.takeOcc (s : State) (o : Occ) (quiet : Nat → Nat) (held : Bool) : (Nat × Nat) × State :=
  let p := o.part
  let count := satAdd 16 (s.srcCount p o.src) 1
  let e := s.effSev o.src count
  let (set, off) := s.reactions o e
  let st := s.logStamp
  let old := s.ent pFlt p 3 o.src 0
  let w := setFld (setFld (setFld old 0 1 1) 4 2 e) 16 16 count
  let ix := p * 640 + o.src
  let prev := Tab.get (fun _ => (0, 0)) s.flt.occAt ix
  let n := if prev.1 = s.beat then prev.2 + 1 else 1
  let s1 := s.setEntWords pFlt p 3 o.src 0 [w, wd (o.inst % 65536), loHalf st, hiHalf st]
  let s2 := s1.setFlt { s1.flt with occAt := Tab.put (fun _ => (0, 0)) s1.flt.occAt ix (s.beat, n) }
  let taken0 := quiet set
  let taken := if blockResets o.src then taken0 else Nat.land taken0 27
  let stripped := off != 0 && !held
  let s3 := s2.logOcc o e taken stripped held count
  let s4 := if stripped then (s3.incSat p (fltA 0x064) 1).raise pFlt 1 0 else s3
  let s5 :=
    if p = 0 then
      let rest := s4.flt.errTook.filter fun k => k != o.src
      s4.setFlt { s4.flt with errTook := if bitOf (wd taken0) 4 then rest ++ [o.src] else rest }
    else s4
  ((e, taken), s5)

/-! ### Reactions, R473 to R477 -/

/-- A block of an owned or whole page is reset: READY reads 0 until BLOCK_RESTORED. -/
def State.holdReset (s : State) (pg inst : Nat) : State :=
  if s.inReset pg inst then s
  else (s.setFlt { s.flt with resetting := s.flt.resetting ++ [(pg, inst)] }).wrF 0 (regA pg 0x014) 0 1 0

/-- The reset of one block, by its page and, for XPT, the slice (R475). A block already in reset joins that reset. -/
def State.blockReset (s : State) (pg inst : Nat) : State :=
  if s.inReset pg inst then s
  else if pg = pXpt then (s.holdReset pg inst).sliceReset inst
  else if pg = pTake then (s.holdReset pg 0).takeBlockReset
  else if pg = pMon then (s.holdReset pg 0).monFreeze
  else if pg = pAud then s.holdReset pg 0
  else if pg = pHost then s.perst.holdReset pg 0
  else if pg = pMgt then (if s.mgtMode = 1 then s.warmReset else s)
  else s.holdReset pg (if pg < 0x100 then 0 else inst)

/-- The blocks of an island group (R469, SENS page). -/
def groupBlocks (g : Nat) : List (Nat × Nat) :=
  let four (f : Nat → Nat) (a : Nat) : List (Nat × Nat) := (List.range 4).map fun i => (f (a + i), a + i)
  if g < 12 then four pLane (4 * g) ++ four pPort (4 * g)
  else if g < 16 then four pIng (4 * (g - 12)) ++ (List.range 4).map fun i => (pXpt, 4 * (g - 12) + i)
  else if g < 20 then four pEgr (4 * (g - 16)) ++ (List.range 4).map fun i => (pXpt, 40 + 4 * (g - 16) + i)
  else if g < 23 then (List.range 8).map fun i => (pXpt, 16 + 8 * (g - 20) + i)
  else if g < 27 then [(pReel, 0)]
  else if g < 29 then (List.range 32).map fun i => (pFol (32 * (g - 27) + i), 32 * (g - 27) + i)
  else if g = 29 then [(pMon, 0)]
  else if g = 30 then [(pTake, 0), (pAud, 0), (pTime, 0), (pRefsel, 0)]
  else [(pMgt, 0), (pHost, 0)]

/-- The BLOCK reaction of an occurrence. -/
def State.reactBlock (s : State) (o : Occ) : State :=
  if o.src < 352 then
    let pg := sourcePage o.src o.inst
    s.blockReset pg (if pg = pXpt ∨ 0x100 ≤ pg then o.inst else 0)
  else if 576 ≤ o.src ∧ o.src ≤ 607 then forEach (groupBlocks (o.src - 576)) (fun (b : Nat × Nat) s => s.blockReset b.1 b.2) s
  else if 608 ≤ o.src ∧ o.src ≤ 610 then s.blockReset pHost 0
  else s.blockReset pMgt 0

/-- A trap (R476) joins the queue; the seventeenth is dropped. Running firmware has taken a free number of the traps before it,
since no rule says how long it needs for one (log entry 13); during a warm reset they wait. -/
def State.trap (s : State) (src : Nat) : State :=
  let (k, s1) := if s.take.solver then s.fresh 5 else (0, s)
  let q := s1.flt.traps.drop k
  let s2 := s1.setFlt { s1.flt with traps := q }
  if 16 ≤ q.length then s2.occur 617 0 0 else s2.setFlt { s2.flt with traps := q ++ [src] }

/-- INT: cause 192 on the route of the attributed partition (R478). -/
def State.reactInt (s : State) (o : Occ) (e : Nat) : State :=
  if bitOf (s.rd o.part (fltA 0x058)) e then s.cause o.part 192 else s

/-- The reset record and chip reset of R477; before READY it is a failed start (R450). -/
def State.reactChip (s : State) (o : Occ) : State :=
  let s1 := if s.mgtMode = 0 ∧ s.mgt.booted then s.failRecord 8 0 else s
  s1.chipReset (wd (o.inst % 65536 + o.src * 65536 + 2 ^ 31))

/-- Whether an occurrence is a management-complex fault, R458. -/
def mgtFault (src : Nat) : Bool := decide (64 ≤ src ∧ src ≤ 79) || src == 616 || src == 617

/-- Reactions of a batch in the order of R473: interrupts, traps, block resets, or in place of the last two a chip reset. -/
def State.react (s : State) (l : List (Occ × Nat × Nat)) : State :=
  let has (n : Nat) (x : Occ × Nat × Nat) : Bool := x.2.2 / 2 ^ n % 2 == 1
  let s1 := forEach (l.filter (has 0)) (fun (x : Occ × Nat × Nat) s => s.reactInt x.1 x.2.1) s
  match l.find? (has 3) with
  | some x => s1.reactChip x.1
  | none =>
    let s2 := forEach (l.filter (has 1)) (fun (x : Occ × Nat × Nat) s => s.trap x.1.src) s1
    let s3 := forEach (l.filter (has 2)) (fun (x : Occ × Nat × Nat) s => s.reactBlock x.1) s2
    if s3.windowOpen && l.any (fun x => mgtFault x.1.src && decide (2 ≤ x.2.1)) then s3.mgtRevert true else s3

/-- The reactions of a batch in the power state of the part: in SLEEP and DEEP a CHIP reaction is taken at once, and the others wait until
the islands concerned are powered again, at the exit (R501). -/
def State.reactPowered (s : State) (l : List (Occ × Nat × Nat)) : State :=
  let st := s.rdF 0 (regA pPwr 0x048) 0 3
  if (st = 2 ∨ st = 3) ∧ l.all fun x => x.2.2 / 8 % 2 == 0 then
    { s with pwr := { s.pwr with later := s.pwr.later ++ l.filter fun x => x.2.2 != 0 } }
  else s.react l

/-- Insert an occurrence behind those of its source and of lower ones. -/
def insertOcc (o : Occ) : List Occ → List Occ
  | [] => [o]
  | x :: r => if o.src < x.src then o :: x :: r else x :: insertOcc o r

/-- Status and log of a batch in ascending source order. -/
def takeBatch (quiet : Nat → Nat) (held : Bool) : List Occ → State → List (Occ × Nat × Nat) × State
  | [], s => ([], s)
  | o :: r, s =>
    let (et, s1) := s.takeOcc o quiet held
    let (l, s2) := takeBatch quiet held r s1
    ((o, et) :: l, s2)

/-- Hold-all begins, and HOLD_SRC names its source; or a further self fault in it (R482 to R484; log entry 15). -/
def State.enterHold (s : State) (k : Nat) : State :=
  let first := !s.held
  let old := setFld (s.rd 0 (fltA 0x040)) 1 1 0
  let st := if first then setFld (setFld old 0 1 1) 16 10 (624 + k) else old
  let s1 := (s.wr 0 (fltA 0x040) st).setFlt { s.flt with release := false }
  if first then forEach (List.range 16) (fun p s => s.cause p 192) s1 else s1

/-- The occurrences that wait become the collector's batch. -/
def State.decideBatch (s : State) (self : Option Nat) : State :=
  let own : List Occ := match self with | some k => [⟨624 + k, 0, 0⟩] | none => []
  let batch := (s.occ ++ own).foldl (fun l o => insertOcc o l) []
  let s0 := { s with occ := [] }
  match self with
  | some k => (takeBatch (fun v => Nat.land v 16) true batch s0).2.enterHold k
  | none =>
    if s.held then (takeBatch (fun _ => 0) true batch s0).2
    else
      let (l, s1) := takeBatch id false batch s0
      s1.reactPowered l

/-- An occurrence of a hardware source that the part observes (R469): conditions begin, events occur; a foley core's memory error
reports through its page (R328). ISL and PCIE.LINK follow from ISLAND_DEGRADED and PCIE_LINK_CHANGE. -/
def State.hwOccur (s : State) (h : HwOcc) : State :=
  let k := h.src.val
  if k = 340 then (if h.inst.toNat < 64 then s.folEcc h.inst.toNat else s)
  else if 352 ≤ k ∧ k ≤ 543 then
    let base := if k < 448 then 352 else if k < 512 then 448 else 512
    if s.srcActive 0 k then s else (s.setActive 0 k true).occur k (k - base) 0
  else if 576 ≤ k ∧ k ≤ 607 then s.occur k (k - 576) 0
  else if k = 609 ∨ k = 610 ∨ k = 616 then s.occur k 0 0
  else s

/-- FAULT_OCCURRENCE: one batch of the collector, with the hardware occurrences of the beat, and a self fault when one meets it. -/
def execFaultOccurrence (hw : List HwOcc) (self : Option (Fin 4)) (s : State) : Host.Outcome State Fault Refusal :=
  .next ((forEach hw (fun (h : HwOcc) s => s.hwOccur h) s).decideBatch (self.map fun k => k.val))

/-- CONDITION_END: the condition of a condition source is over (R470). -/
def execConditionEnd (src : Fin 640) (s : State) : Host.Outcome State Fault Refusal :=
  .next (if 352 ≤ src.val ∧ src.val ≤ 543 then s.setActive 0 src false else s)

/-- PCIE_LINK_CHANGE: a link that goes down while PERST_N is high raises PCIE.LINK (R469). -/
def execPcieLinkChange (up : Bool) (s : State) : Host.Outcome State Fault Refusal :=
  let s1 := { s with host := { s.host with linkUp := up && s.host.perstN } }
  .next (if s.host.linkUp && !up && s.host.perstN then s1.occur 608 0 0 else s1)

/-- BLOCK_RESTORED: the block in reset is restored under its own chapter (R224, R305, R362); a foley core that was ungated is zeroed and
IDLE (R341, R342). -/
def execBlockRestored (pg : PageNo) (inst : BitVec 16) (s : State) : Host.Outcome State Fault Refusal :=
  let e := (pg.val, inst.toNat)
  .next (if !s.flt.resetting.contains e then
      (if 0x200 ≤ pg.val ∧ pg.val < 0x240 ∧ s.folState (pg.val - 0x200) = 0 ∧ !s.gated pg ∧ s.mgtMode = 1 then s.folInit (pg.val - 0x200)
       else s)
    else
      let s1 := s.setFlt { s.flt with resetting := s.flt.resetting.filter fun r => r != e }
      let s2 := if s1.flt.resetting.any (fun r => r.1 == pg.val) then s1 else s1.wrF 0 (regA pg 0x014) 0 1 1
      if pg.val = pAud then s2.audRestore else s2)

/-! ### Acknowledgement, R479 and R481 -/

/-- Acknowledge a source of a partition. An occurrence of the same beat counts as coming after it (R481). -/
def State.ackSource (s : State) (p src : Nat) : State :=
  let w := s.ent pFlt p 3 src 0
  let at' := Tab.get (fun _ => (0, 0)) s.flt.occAt (p * 640 + src)
  if at'.1 = s.beat ∧ at'.2 ≠ 0 then
    s.setEnt pFlt p 3 src 0 (setFld (setFld (setFld w 0 1 1) 4 2 (s.effSev src at'.2)) 16 16 at'.2)
  else
    let keep := bitOf w 1 && bitOf w 0
    s.setEnt pFlt p 3 src 0 (setFld (setFld w 0 1 (if keep then 1 else 0)) 16 16 0)

/-- A write of FLT.ACK. -/
def writeAck (t : Tag) (d : Word) (s : State) : State :=
  let p := tagBank t
  if bitOf d 31 then forEach (s.tblIdxs pFlt p 3) (fun k s => s.ackSource p k) s
  else if fld d 0 10 < 640 then s.ackSource p (fld d 0 10)
  else s

/-- FAULT_ACK. -/
def execFaultAck (t : Tag) (d : Word) (s : State) : Host.Outcome State Fault Refusal :=
  .next (hostWrite t (fltA 0x054) d (writeAck t d) s)

/-! ### SELFTEST and RELEASE, R484 -/

def State.fltSelfOk (s : State) : Bool := bitOf (s.rd 0 (fltA 0x040)) 1
def State.fltTesting (s : State) : Bool := bitOf (s.rd 0 (fltA 0x040)) 2
def State.fltResult (s : State) (op code : Nat) : State := s.wr 0 (fltA 0x050) (wd (code + op * 256))

/-- A write of FLT.CMD. The firewall has admitted P0 only (R43). -/
def writeFltCmd (d : Word) (s : State) : State :=
  let op := fld d 0 4
  if op ≠ 1 ∧ op ≠ 2 then s
  else if !s.held then s.fltResult op 1
  else if s.fltTesting then s.fltResult op 4
  else if op = 1 then (s.wrF 0 (fltA 0x040) 2 1 1).fltResult 1 0
  else if !s.fltSelfOk then s.fltResult 2 3
  else if (List.range 4).any fun k => s.srcPend 0 (624 + k) then s.fltResult 2 2
  else (s.setFlt { s.flt with release := true }).fltResult 2 0

/-- SELFTEST. -/
def execSelftest (t : Tag) (s : State) : Host.Outcome State Fault Refusal := .next (hostWrite t (fltA 0x04C) 1 (writeFltCmd 1) s)

/-- RELEASE. -/
def execRelease (t : Tag) (s : State) : Host.Outcome State Fault Refusal := .next (hostWrite t (fltA 0x04C) 2 (writeFltCmd 2) s)

/-- An entry that fails ECC takes its reset value (R484); REFILLED is a bit of the source configuration (R492). -/
def State.refill (s : State) (e : FltEntry) : State :=
  match e with
  | .config k => s.setEnt pFlt 0 1 k 0 (setFld (wd (fltConfigReset k)) 26 1 1)
  | .severity e => s.setEnt pFlt 0 2 e 0 (wd (sevReactReset e))
  | .status p k => s.setEntWords pFlt p 3 k 0 [0, 0, 0, 0]
  | .log p n => s.setEntWords pFlt p 4 n 0 [0, 0, 0, 0, 0]

/-- SELFTEST_DONE: entries that failed ECC have their reset value and REFILLED, and SELF_OK says whether the copies agree. -/
def execSelftestDone (bad : List FltEntry) (agree : Bool) (s : State) : Host.Outcome State Fault Refusal :=
  .next (if !s.fltTesting then s
    else
      let s1 := forEach bad (fun (e : FltEntry) s => s.refill e) s
      ((s1.wrF 0 (fltA 0x040) 2 1 0).wrF 0 (fltA 0x040) 1 1 (if agree then 1 else 0)).fltResult 1 (if agree then 0 else 3))

/-- What an accepted RELEASE does in the next beat. -/
def State.fltBeat (s : State) : State :=
  if s.flt.release then (s.wrF 0 (fltA 0x040) 0 1 0).setFlt { s.flt with release := false } else s

/-! ### The farrier test, R487 to R489 -/

def State.farrierEn (s : State) : Bool := bitOf (s.rd 0 (fltA 0x070)) 0
def State.farrierMasked (s : State) (b : Nat) : Bool := decide (s.rd64 0 (fltA 0x078) / 2 ^ b % 2 = 1)

/-- Whether the test holds a lane. -/
def State.farrierWants (s : State) (l : Nat) : Bool :=
  let b := l / 8
  s.farrierEn && s.farrierMasked b && s.lnState l == 5 &&
    ((s.portType b == 1 && s.mission l) || (s.portType b == 2 && s.sparing b (s.portOfLane l)))

/-- Lanes are held and released as R487 says. -/
def State.farrierSync (s : State) : State :=
  forEach (List.range 384) (fun l s =>
    if s.farrierWants l == s.farrierHeld l then s else s.wrF 0 (lnA l 0x04) 14 1 (if s.farrierWants l then 1 else 0)) s

/-- The same at each beat while the test is enabled. -/
def State.farrierBeat (s : State) : State := if s.farrierEn then s.farrierSync else s

/-- A write of FLT.FARRIER_CFG: PAM4 codes are refused while an enabled block is in NRZ mode. -/
def writeFarrierCfg (d : Word) (s : State) : State :=
  let pat := fld d 4 4
  if patternOk 0 pat && (List.range 48).all (fun b => !s.farrierMasked b || patternOk (s.blkMode b) pat) then
    (s.wr 0 (fltA 0x070) (wd (Nat.land d.toNat 0xF1))).farrierSync
  else s.raise pFlt 2 0

/-- FARRIER_MEASURE: the counts of a held lane, and its eye unless a host eye request displaces the measurement (R488). -/
def execFarrierMeasure (l : Fin 384) (bits errs : Word) (snr : BitVec 16) (vlow vmid vup hmin : BitVec 8) (locked : Bool) (s : State) :
    Host.Outcome State Fault Refusal :=
  let shown := s.bus.res.any fun o => o.page == pLane (l / 8)
  let prev := Tab.get (fun _ => none) s.flt.farrier l.val
  let was : List Nat := match prev with | some r => r.eye | none => []
  let wasSnr : Nat := match prev with | some r => r.snr | none => 0
  let ok : Bool := match prev with | some r => r.locked && locked | none => locked
  let r : FarRec := ⟨bits, errs, if shown then wasSnr else snr.toNat,
    if shown then was else [hmin.toNat, vlow.toNat, vmid.toNat, vup.toNat], ok⟩
  .next (if s.farrierHeld l then s.setFlt { s.flt with farrier := Tab.put (fun _ => none) s.flt.farrier l.val (some r) } else s)

/-- STATE of a held lane (R489). -/
def State.laneHealth (s : State) (r : FarRec) (snr vlow vmid vup : Nat) : Nat :=
  let lim := s.rd 0 (fltA 0x074)
  if !r.locked then 4
  else if r.bits.toNat * 1024 < r.errs.toNat * 10 ^ fld lim 16 4 then 3
  else if snr < fld lim 0 16 ∨ min vlow (min vmid vup) < fld lim 24 8 then 2
  else 1

/-- The new entry of a lane in the health report. -/
def State.healthLane (s : State) (l : Nat) : State :=
  let old := s.entWords pFlt 0 5 l 5
  let d3 := dat old 3
  let d4 := dat old 4
  let aged := if old == [0, 0, 0, 0, 0] then d4 else setFld d4 24 8 (satAdd 8 (fld d4 24 8) 1)
  let st0 := fld (dat old 0) 0 3
  if !s.farrierHeld l then
    if old == [0, 0, 0, 0, 0] then s else s.setEntWords pFlt 0 5 l 0 [0, 0, 0, d3, aged]
  else
    let mode := if s.portType (l / 8) = 1 then 1 else 2
    match Tab.get (fun _ => none) s.flt.farrier l with
    | none => s.setEntWords pFlt 0 5 l 0 [wd (st0 + mode * 16), 0, 0, d3, aged]
    | some r =>
      let e (i : Nat) : Nat := r.eye.getD i 0
      let (n3, n4) := if r.eye.isEmpty then (d3, aged)
        else (wd (r.snr + e 0 * 65536), wd (e 1 + e 2 * 256 + e 3 * 65536))
      let st := s.laneHealth r (fld n3 0 16) (fld n4 0 8) (fld n4 8 8) (fld n4 16 8)
      let s1 := s.setEntWords pFlt 0 5 l 0 [wd (st + mode * 16), r.bits, r.errs, n3, n4]
      if st0 ≤ 1 ∧ 2 ≤ st then s1.raiseAt pFlt 0 l (s1.pageOwner (pLane (l / 8))) else s1

/-- HEALTH_REPORT: every 100 ms all entries switch to the interval just ended. -/
def execHealthReport (s : State) : Host.Outcome State Fault Refusal :=
  let s1 := forEach (List.range 384) (fun l s => s.healthLane l) s
  let s2 := s1.setFlt { s1.flt with farrier := [] }
  .next ((s2.inc 0 (fltA 0x088)).wr64 0 (fltA 0x080) s2.logStamp)

/-! ### Registers and tables, R491 and R492 -/

/-- A refused FLT table write. -/
def State.fltRefuse (s : State) : Nat × State := (3, s.raise pFlt 2 0)

/-- Read of an FLT table. -/
def fltTableRead (t : Tag) (sel idx : Nat) (s : State) : Nat × List Word :=
  let p := tagBank t
  match sel with
  | 1 => if 640 ≤ idx then (2, []) else (0, [s.ent pFlt 0 1 idx 0])
  | 2 => if 4 ≤ idx then (2, []) else (0, [setFld (s.ent pFlt 0 2 idx 0) 4 5 (s.sevReact idx)])
  | 3 => if 640 ≤ idx then (2, []) else (0, s.entWords pFlt p 3 idx 4)
  | 4 => if 64 ≤ idx then (2, []) else (0, s.entWords pFlt p 4 idx 5)
  | 5 =>
    if 384 ≤ idx then (2, [])
    else if p ≠ 0 ∧ s.pageOwner (pLane (idx / 8)) ≠ p then (4, [])
    else (0, s.entWords pFlt 0 5 idx 5)
  | _ => (1, [])

/-- Write of an FLT table. A bit outside the fields is a reserved value (R492; log entry 71). -/
def fltTableWrite (t : Tag) (sel idx : Nat) (d : List Word) (s : State) : Nat × State :=
  let p := tagBank t
  match sel with
  | 1 =>
    if p ≠ 0 then (4, s)
    else if 640 ≤ idx then (2, s)
    else if (624 ≤ idx ∧ idx ≤ 627) ∨ dat d 0 &&& ~~~(0x0703F1F3 : Word) ≠ 0 then s.fltRefuse
    else
      let old := s.ent pFlt 0 1 idx 0
      (0, s.setEnt pFlt 0 1 idx 0 (wd (Nat.land (dat d 0).toNat 0x0003F1F3 + fld old 24 3 * 2 ^ 24)))
  | 2 =>
    if p ≠ 0 then (4, s)
    else if 4 ≤ idx then (2, s)
    else if dat d 0 &&& ~~~(0x1F0 : Word) ≠ 0 then s.fltRefuse
    else
      let w := wd (Nat.land (dat d 0).toNat 0x1F0)
      (0, s.setEnt pFlt 0 2 idx 0 (if idx = 3 then setFld w 7 1 1 else w))
  | 3 => if 640 ≤ idx then (2, s) else s.fltRefuse
  | 4 => if 64 ≤ idx then (2, s) else s.fltRefuse
  | 5 => if 384 ≤ idx then (2, s) else s.fltRefuse
  | _ => (1, s)

/-- FLT.SNAP. -/
def State.fltSnap (s : State) (p : Nat) : State := s.snap p (fltA 0x064) (fltA 0x068)

end Sys2Proof.Machine
end

