-- ==== Sys2Proof/Machine/Pwr.lean ====
section
/-!
DEFINITION. Machine/Pwr.lean: the power manager and the SENS page of spec/18_power_and_electrical.md (R494 to R514), and the degraded
flags of R194.
-/
namespace Sys2Proof.Machine

def pwrA (off : Nat) : Nat := regA pPwr off
def State.setPwr (s : State) (p : PwrSt) : State := { s with pwr := p }
def State.pwrState (s : State) : Nat := s.rdF 0 (pwrA 0x048) 0 3
def State.setPwrStatus (s : State) (lo n v : Nat) : State := s.wrF 0 (pwrA 0x048) lo n v

/-- STATE of R494: 0 RUN, 1 IDLE, 2 SLEEP, 3 DEEP, 4 OFF. Exit latency of a state in µs. -/
def exitLatency (st : Nat) : Nat := [0, 2, 400, 35000, 1800000].getD st 0

/-! ### Entry conditions, R496 -/

/-- Pages that refuse IDLE, in the order of their addresses. -/
def State.refuseIdle (s : State) : List Nat :=
  let valid (sel : Nat) (pg : Nat) : Bool := !(s.entIdxs pg 0 sel 0 fun w => bitOf w 31).isEmpty
  let aud := !s.aud.txs.isEmpty || !(s.entIdxs pAud 0 4 1 fun w => bitOf w 31).isEmpty ||
    !(s.entIdxs pAud 0 5 0 fun w => fld w 0 3 != 0).isEmpty || (List.range 8).any fun p => s.tdmState p != 0
  let padBusy (sl : Nat) : Bool := !(s.entIdxs (pIng sl) 0 6 0 fun w => fld w 0 3 == 2 || fld w 0 3 == 3).isEmpty
  (if valid 3 pXpt then [pXpt] else []) ++ (if s.take.txs.isEmpty then [] else [pTake]) ++
    (if valid 3 pReel || valid 5 pReel || valid 6 pReel then [pReel] else []) ++ (if valid 1 pMon then [pMon] else []) ++
    (if aud then [pAud] else []) ++ ((List.range 16).filter padBusy).map pIng ++
    ((List.range 64).filter fun c => s.folState c == 2 || s.folState c == 4 || s.folState c == 5).map pFol

/-- Pages that refuse SLEEP beyond those. -/
def State.refuseSleep (s : State) : List Nat :=
  let mgt := s.mgt.cmd.isSome || s.mgtPause || s.mgt.slots.contains 1
  let key := s.bus.res.any fun o => o.page == pKey
  (if mgt then [pMgt] else []) ++ (if key then [pKey] else []) ++ ((List.range 48).filter fun b => s.seqState b == 2).map pLane

/-- Pages that refuse a state; the conditions of the shallower states belong to it. -/
def State.refusers (s : State) (st : Nat) : List Nat :=
  (if 1 ≤ st then s.refuseIdle else []) ++ (if 2 ≤ st then s.refuseSleep else []) ++
    (if 3 ≤ st ∧ (s.gState = 1 ∨ s.gState = 2) then [pGbus] else [])

/-- The lowest of some pages. -/
def lowest (l : List Nat) : Option Nat :=
  match l with
  | [] => none
  | a :: r => some (r.foldl min a)

/-! ### Evaluation, R495 and R496 -/

/-- Count a refusal against a page. -/
def State.countRefusal (s : State) (pg : Nat) : State :=
  ((s.incSat 0 (pwrA 0x050) 1).wr 0 (pwrA 0x054) (s.rd 0 (regA pg 0x000))).raise pPwr 0 0

/-- States that ALLOW and the budget leave, deepest first. -/
def State.allowedStates (s : State) : List Nat :=
  let budget := (s.rd 0 (pwrA 0x044)).toNat
  [4, 3, 2, 1].filter fun st => s.rdF 0 (pwrA 0x040) (st - 1) 1 == 1 && decide (exitLatency st ≤ budget)

/-- One evaluation of the target. -/
def State.pwrEvaluate (s : State) : State :=
  let l := s.allowedStates
  let want := l.headD 0
  let final := (l.find? fun st => (s.refusers st).isEmpty).getD 0
  let s1 :=
    match lowest (s.refusers want) with
    | none => s.setPwr { s.pwr with refused := none }
    | some pg =>
      let s1 := s.setPwr { s.pwr with refused := some (pg, want) }
      if s.pwr.refused = some (pg, want) then s1 else s1.countRefusal pg
  let s2 := s1.setPwrStatus 4 3 final
  if s.pwrState < final ∧ s.pwr.entry < final then (s2.setPwr { s2.pwr with entry := final }).setPwrStatus 3 1 1 else s2

/-- An evaluation, unless HOLD_MS runs or an exit is in progress. -/
def State.pwrTick (s : State) : State := if s.pwr.hold || s.pwr.waking then s else s.pwrEvaluate

/-- POWER_EVALUATE: the evaluation of every 100 ms. -/
def execPowerEvaluate (s : State) : Host.Outcome State Fault Refusal := .next s.pwrTick

/-- LATENCY_BUDGET_WRITE. -/
def execLatencyBudgetWrite (t : Tag) (d : Word) (s : State) : Host.Outcome State Fault Refusal :=
  .next (hostWrite t (pwrA 0x044) d (fun s => (s.wr 0 (pwrA 0x044) d).pwrTick) s)

/-- A write of PWR.CFG: a THROTTLE_C outside 85 to 105 is refused; a locked page keeps it. -/
def writePwrCfg (d : Word) (s : State) : State :=
  if s.pageLocked pPwr then s.pwrTick
  else if 85 ≤ fld d 8 8 ∧ fld d 8 8 ≤ 105 then (s.wr 0 (pwrA 0x040) (d &&& 0xFFFFFF0F)).pwrTick
  else s.raise pPwr 3 0

/-- HOLD_EXPIRE: HOLD_MS after a wake event ends, with one evaluation. -/
def execHoldExpire (s : State) : Host.Outcome State Fault Refusal :=
  .next (if s.pwr.hold then (s.setPwr { s.pwr with hold := false }).pwrTick else s)

/-! ### Entry and exit, R497, R498 and R500 -/

/-- Lanes go to electrical idle: links go down, and a READY lane waits for the exit (R500). -/
def State.sleepLanes (s : State) : State :=
  let s1 := forEach (List.range 48) (fun b s =>
    if s.portType b = 1 then s.epvLinkDown b
    else if s.portType b = 2 then forEach (List.range 8) (fun p s => s.ethDown b p) s
    else s) s
  forEach ((List.range 384).filter fun l => s.lnState l == 5) (fun l s =>
    ((s.setLane l { s.lane l with kept := true }).wrF 0 (lnA l 0x04) 8 1 0).setLnState l 6) s1

/-- An exit begins; the wake event starts HOLD_MS. -/
def State.startExit (s : State) (code : Nat) : State :=
  (s.setPwr { s.pwr with waking := true, hold := true, level := none }).setPwrStatus 8 4 code

/-- States that a wake source acts in (R498). -/
def wakeActs (code st : Nat) : Bool :=
  match code with
  | 1 => true
  | 2 => decide (2 ≤ st)
  | 3 => st == 1 || st == 2
  | 4 => st == 2
  | 5 => st == 2 || st == 3
  | 6 => st == 2 || st == 3
  | 7 => st == 1
  | _ => false

/-- Whether a source is enabled, for the block that it is seen on. -/
def State.wakeEnabled (s : State) (code b : Nat) : Bool :=
  let bit (i : Nat) : Bool := bitOf (s.rd 0 (pwrA 0x060)) i
  let pb := decide (s.rd64 0 (pwrA 0x068) / 2 ^ b % 2 = 1)
  match code with
  | 1 => true
  | 2 => bit 1
  | 3 => bit 2
  | 4 => bit 3 && pb
  | 5 => bit 4 && pb
  | 6 => bit 5
  | 7 => true
  | _ => false

/-- The page of a wake source, for REFUSE_LAST. -/
def wakePage (code b : Nat) : Nat :=
  match code with
  | 2 => pGbus
  | 3 => pHost
  | 4 => pLane b
  | 5 => pLane b
  | 6 => pTime
  | _ => pPwr

/-- STATE_ENTRY_COMPLETE: the part is in the state that it was entering; a level wake of the last cycles starts the exit at once. -/
def execStateEntryComplete (s : State) : Host.Outcome State Fault Refusal :=
  let st := s.pwr.entry
  .next (if st = 0 then s
    else
      let s1 := ((s.setPwr { s.pwr with entry := 0 }).setPwrStatus 0 3 st).setPwrStatus 3 1 0
      let s2 := if 2 ≤ st ∧ s.pwrState < 2 then s1.sleepLanes.gSleep else s1
      match s.pwr.level with
      | some c => if wakeActs c st then s2.startExit c else s2.setPwr { s2.pwr with level := none }
      | none => s2)

/-- WAKE: a wake event of source code, on block b for the lane sources, in the last 8 always-on cycles of an entry or not. -/
def execWake (code : Fin 8) (b : Fin 48) (lastCycles : Bool) (s : State) : Host.Outcome State Fault Refusal :=
  let st := s.pwr.entry
  .next (if !s.wakeEnabled code b || s.pwr.waking then s
    else if st ≠ 0 then
      (if lastCycles ∧ 2 ≤ st then
        (if 4 ≤ code.val ∧ code.val ≤ 6 then s else s.setPwr { s.pwr with level := some code })
      else if !wakeActs code st && !wakeActs code s.pwrState then s
      else
        let s1 := ((s.setPwr { s.pwr with entry := 0, level := none, hold := true }).setPwrStatus 3 1 0).countRefusal (wakePage code b)
        if s.pwrState = 0 then s1.setPwrStatus 8 4 8 else s1.startExit 8)
    else if s.pwrState ≠ 0 ∧ wakeActs code s.pwrState then s.startExit code
    else s)

/-- Blocks that GATE_PB, GATE_FOL and GATE_HEAD hold. -/
def gateCount (reg : Nat) : Nat := if reg = 0 then 48 else 64
def gateA (reg : Nat) : Nat := pwrA (0x070 + 8 * reg)

/-- Pages of a gated block. -/
def gatePages (reg n : Nat) : List Nat := if reg = 0 then [pLane n, pPort n] else if reg = 1 then [pFol n] else []

/-- PAGE_STATUS.GATED of a block's pages; a gated page is not READY. -/
def State.showGated (s : State) (reg n : Nat) (v : Bool) : State :=
  forEach (gatePages reg n) (fun p s =>
    let s1 := s.wrF 0 (regA p 0x014) 4 1 (if v then 1 else 0)
    if v then s1.wrF 0 (regA p 0x014) 0 1 0 else s1) s

/-- A register or table word that an exit from DEEP restores or that has stayed powered (R494, R500). -/
def keptReg (key : Nat) : Bool :=
  let a := key % 2 ^ 28
  let pg := a / 65536
  let off := a % 65536
  off == 0x00C || off == 0x010 || pg == pTime || pg == pRefsel ||
    (pg == pMgt && (off == 0x040 || off == 0x04C || off == 0x05C || off == 0x064)) ||
    (pg == pPwr && decide (0x040 ≤ off ∧ off < 0x088) && !(decide (0x04C ≤ off ∧ off < 0x060))) ||
    (pg == pSens && off == 0x04C) || (pg == pFlt && off == 0x06C) || (pg == pKey && decide (0x1C0 ≤ off ∧ off < 0x1F0))
def keptEnt (key : Nat) : Bool :=
  let pg := key / 2 ^ 48
  let sel := key / 2 ^ 28 % 65536
  pg == pPart || pg == pTime || pg == pRefsel || (pg == pFlt && (sel == 1 || sel == 2))

/-- The exit from DEEP (R500): the time-base island has run, the named configuration is restored, the retained image runs again, pages that
were READY are, and everything else has its reset value. -/
def State.deepExit (s : State) : State :=
  let was := allPages.filter fun p => s.ready p
  let c := s.cleared
  let c1 : State := { c with
    regs := Tab.keep keptReg s.regs
    tbl := Tab.keep keptEnt s.tbl
    tbs := s.tbs
    cmp := s.cmp
    cand := s.cand
    mgt := { s.mgt with cmd := none }
    take := { c.take with solver := true }
    pwr := { s.pwr with entry := 0, level := none, waking := false, refused := none, clap := none } }
  let c2 := (forEach [1, 2, 3] (fun d s => s.setDpll d 0 (s.dpllSel d) false) c1).setPwrStatus 0 4 0
  let sealNow (x : State) : State :=
    ((x.enterStage 1 ['M', 'G', '-', 'S', 'V', 'C'] (beBytes 48 s.meas.toNat)).deriveRoots).restoreKeep
  let c3 := if s.stage = 1 then sealNow c2 else c2
  let c4 := forEach was (fun p s => s.wrF 0 (regA p 0x014) 0 1 1) c3
  let c5 := forEach ((List.range 48).filter fun b => s.seqState b != 0) (fun b s => s.wrF 0 (laneA b 0x048) 0 4 1) c4
  let c6 := forEach ((List.range 64).filter fun n => s.folState n != 0) (fun n s => s.folInit n) c5
  let c7 := forEach (List.range 4) (fun h x => x.setHbm h (s.hbmState h)) c6
  forEach (List.range 2) (fun reg s =>
    forEach ((List.range (gateCount reg)).filter fun n => s.rd64 0 (gateA reg) / 2 ^ n % 2 == 1) (fun n s => s.showGated reg n true) s) c7

/-- What has waited for the exit from SLEEP or DEEP (R501): a PERST_N, and the reactions of fault occurrences. -/
def State.takeWaiting (s : State) : State :=
  let l := s.pwr.later
  let s1 := if s.pwr.perst then s.perst else s
  (s1.setPwr { s1.pwr with perst := false, later := [] }).react l

/-- WAKE_EXIT_DONE: the exit ends. From DEEP it must be in time, or the part performs a chip reset; from OFF it is a start. -/
def execWakeExitDone (inTime : Bool) (s : State) : Host.Outcome State Fault Refusal :=
  let done (s : State) : State := ((s.setPwr { s.pwr with waking := false, level := none }).setPwrStatus 0 3 0).takeWaiting
  .next (if !s.pwr.waking then s
    else if s.pwrState = 4 then s.chipRestart
    else if s.pwrState = 3 then (if inTime then done s.deepExit else s.chipRestart)
    else done s)

/-! ### Clap and gating, R499 and R502 -/

/-- A write of PWR.CLAP. -/
def writeClap (d : Word) (s : State) : State :=
  let b := fld d 0 6
  let s1 := s.wr 0 (pwrA 0x064) (d &&& 0x7FFFFF3F)
  if !bitOf d 31 then s1
  else
    let ls := idxs 8 fun i => bitOf d (8 + i)
    let ok := ls.filter fun i => decide (b < 48) && !s.mission (b * 8 + i) && !s.farrierHeld (b * 8 + i)
    let s2 := if ok = ls then s1 else s1.raise pPwr 3 0
    let mask := ok.foldl (fun n i => n + 2 ^ i) 0
    (s2.setPwr { s2.pwr with clap := some (b, mask) }).emit (.clap b mask)

/-- CLAP_GO: a write of PWR.CLAP with GO = 1. -/
def execClapGo (t : Tag) (d : Word) (s : State) : Host.Outcome State Fault Refusal :=
  let d' := setBit d 31 true
  .next (hostWrite t (pwrA 0x064) d' (writeClap d') s)

/-- CLAP_END: DUR_US is over. -/
def execClapEnd (s : State) : Host.Outcome State Fault Refusal := .next (s.setPwr { s.pwr with clap := none })

/-- Whether a block consents to be gated. -/
def State.gateOk (s : State) (reg n : Nat) : Bool :=
  if reg = 0 then (blockLanes n).all fun l => s.lnState l == 0
  else if reg = 1 then !(s.folState n == 2 || s.folState n == 4 || s.folState n == 5)
  else !headEn (s.monEnt 1 n 0)

/-- The page whose PAGE_ID a refused gate bit counts against. -/
def gatePage (reg n : Nat) : Nat := if reg = 0 then pLane n else if reg = 1 then pFol n else pMon

/-- Gate or ungate one block. -/
def State.gateBlock (s : State) (reg n : Nat) (v : Bool) : State :=
  let a := gateA reg
  let old := s.rd64 0 a
  let cur := decide (old / 2 ^ n % 2 = 1)
  if v = cur then s
  else if v then
    (if s.gateOk reg n then
      let s1 := (s.wr64 0 a (old + 2 ^ n)).showGated reg n true
      if reg = 0 then s1.wrF 0 (laneA n 0x048) 0 4 0 else if reg = 1 then s1.folGate n else s1
    else s.countRefusal (gatePage reg n))
  else
    let s1 := (s.wr64 0 a (old - 2 ^ n)).showGated reg n false
    if reg = 0 then s1.wrF 0 (regA (pPort n) 0x014) 0 1 (if s.mgtMode = 1 then 1 else 0) else s1

/-- A write of a gate register pair. -/
def writeGate (reg v : Nat) (s : State) : State :=
  forEach (List.range (gateCount reg)) (fun n s => s.gateBlock reg n (decide (v / 2 ^ n % 2 = 1))) s

/-- GATE_WRITE: a 64-bit write of GATE_PB, GATE_FOL or GATE_HEAD. -/
def execGateWrite (t : Tag) (reg : Fin 3) (d : BitVec 64) (s : State) : Host.Outcome State Fault Refusal :=
  .next (busWrite ⟨t, tagNum t, gateA reg, 3, false, true, d.toNat⟩ (writeGate reg d.toNat) s)

/-! ### Throttling and thermal trip, R503 -/

/-- The fabric slice of an island, R513. -/
def islandSlice (g n : Nat) : Option Nat :=
  if 12 ≤ g ∧ g < 16 ∧ n < 4 then some (4 * (g - 12) + n)
  else if 16 ≤ g ∧ g < 20 ∧ n < 4 then some (40 + 4 * (g - 16) + n)
  else if 20 ≤ g ∧ g < 23 ∧ n < 8 then some (16 + 8 * (g - 20) + n)
  else none

/-- Steps of 1/16 down to the throttle floor of an island, R193: 13/16 for a fabric island, 1/2 for every other; lanes are never
throttled (R503). -/
def throttleFloor (g n : Nat) : Nat := if g < 12 then 0 else if (islandSlice g n).isSome then 3 else 8

/-- THROTTLE_STEP: 1 ms of an island whose sensor reads a temperature. -/
def execThrottleStep (i : Island) (temp : BitVec 8) (s : State) : Host.Outcome State Fault Refusal :=
  let k := i.group.val * 256 + i.number
  let c := s.rdF 0 (pwrA 0x040) 8 8
  let n := Tab.get (fun _ => 0) s.pwr.throttle k
  let n' := if c ≤ temp.toNat then min (n + 1) (throttleFloor i.group i.number) else if temp.toNat + 5 < c then n - 1 else n
  let s1 := s.setPwr { s.pwr with throttle := Tab.put (fun _ => 0) s.pwr.throttle k n' }
  let now := !s1.pwr.throttle.isEmpty
  let s2 := s1.setPwrStatus 16 1 (if now then 1 else 0)
  .next (if now && s.pwr.throttle.isEmpty then s2.raise pPwr 1 0 else s2)

/-- THERMAL_TRIP: a sensor has read 115 °C or more for 10 µs. -/
def execThermalTrip (sensor : Fin 64) (s : State) : Host.Outcome State Fault Refusal :=
  let s1 := s.chipReset (wd (sensor.val + (448 + sensor.val) * 65536 + 2 ^ 31))
  .next (s1.setMgt { s1.mgt with tripped := true })

/-! ### Degraded islands, R194 -/

/-- The pages of an island's block: in a group, fabric slices stand before ingress or egress slices, and the blocks of groups 30 and 31
in the order of their pages (log entry 70). -/
def islandPages (g n : Nat) : List Nat :=
  if g < 12 then if n < 4 then [pLane (4 * g + n), pPort (4 * g + n)] else []
  else if (islandSlice g n).isSome then [pXpt]
  else if g < 16 then if n < 8 then [pIng (4 * (g - 12) + n - 4)] else []
  else if g < 20 then if n < 8 then [pEgr (4 * (g - 16) + n - 4)] else []
  else if g < 23 then []
  else if g < 27 then [pReel]
  else if g < 29 then if n < 32 then [pFol (32 * (g - 27) + n)] else []
  else if g = 29 then [pMon]
  else if g = 30 then ([pTake, pAud, pTime, pRefsel].drop n).take 1
  else ([pMgt, pHost, pBmx, pKey, pFlt, pPwr, pSens].drop n).take 1

/-- PAGE_STATUS.DEGRADED of a page as it reads. -/
def State.pageDegraded (s : State) (pg : Nat) : Bool := s.pwr.degraded.any fun k => (islandPages (k / 256) (k % 256)).contains pg

/-- Whether an island of a group is flagged. -/
def State.groupDegraded (s : State) (g : Nat) : Bool := s.pwr.degraded.any fun k => k / 256 == g

/-- ISLAND_DEGRADED: an island is flagged. The group's condition source occurs when its first island is. -/
def execIslandDegraded (i : Island) (dv dt : BitVec 8) (nb : BitVec 8) (s : State) : Host.Outcome State Fault Refusal :=
  let g := i.group.val
  let n := i.number.val
  let k := g * 256 + n
  let s1 := if s.groupDegraded g then s else (s.setActive 0 (544 + g) true).occur (544 + g) g 0
  let s2 := if s.pwr.degraded.contains k then s1 else s1.setPwr { s1.pwr with degraded := s1.pwr.degraded ++ [k] }
  .next (match islandSlice g n with
    | some fs => s2.fabDegraded fs dv.toNat dt.toNat nb.toNat
    | none => if (g = 27 ∨ g = 28) ∧ n < 32 ∧ !s.pwr.degraded.contains k then s2.folDegraded (32 * (g - 27) + n) else s2)

/-- DEGRADED_CLEAR: the flag of an island clears. -/
def execDegradedClear (i : Island) (s : State) : Host.Outcome State Fault Refusal :=
  let g := i.group.val
  let k := g * 256 + i.number
  let s1 := s.setPwr { s.pwr with degraded := s.pwr.degraded.filter fun j => j != k }
  let s2 := if s1.groupDegraded g then s1 else s1.setActive 0 (544 + g) false
  .next (match islandSlice g i.number with
    | some fs => s2.fabDegradedClear fs
    | none => s2)

/-! ### The SENS page, R513 and R514 -/

/-- A write of SENS.WARN_C. -/
def writeWarn (d : Word) (s : State) : State :=
  if 60 ≤ fld d 0 8 ∧ fld d 0 8 ≤ 110 then s.wr 0 (regA pSens 0x04C) (wd (fld d 0 8)) else s.faultAt pSens 0 0 0

/-- Window of a supply monitor in mV, R504 and R513. -/
def supplyWindow (n : Nat) : Nat × Nat :=
  if n < 48 then (825, 876)
  else if n < 80 then (728, 773)
  else if n < 88 then (776, 824)
  else if n < 92 then (485, 515)
  else [(1067, 1133), (1746, 1854), (1710, 1890), (776, 824)].getD (n - 92) (0, 0)

/-- A free 32-bit value. -/
def State.freshWord (s : State) : Word × State := let (v, s1) := s.fresh 32; (wd v, s1)

/-- Read of the monitor table. What the monitors measure is free (log entry 1); the windows are those of R513. -/
def sensTableRead (sel idx : Nat) (s : State) : (Nat × List Word) × State :=
  if sel ≠ 1 then ((1, []), s)
  else if 192 ≤ idx then ((2, []), s)
  else
    let (v, s1) := s.freshWord
    let (lo, s2) := s1.freshWord
    let (mn, s3) := s2.freshWord
    let (mx, s4) := s3.freshWord
    let w : Word × Word :=
      if idx < 96 then (wd (supplyWindow idx).1, wd (supplyWindow idx).2)
      else if idx < 160 then (lo, wd (s.rdF 0 (regA pSens 0x04C) 0 8 * 10))
      else (wd (2 ^ 32 - (if 172 ≤ idx ∧ idx < 183 then 187500 else 500000)), wd 10000)
    ((0, [v, w.1, w.2, mn, mx]), s4)

/-- Write of the monitor table. -/
def sensTableWrite (sel idx : Nat) (s : State) : Nat × State :=
  if sel ≠ 1 then (1, s) else if 192 ≤ idx then (2, s) else (3, s.faultAt pSens 0 0 0)

/-- PWR.SNAP. -/
def State.pwrSnap (s : State) : State := s.snap 0 (pwrA 0x050) (pwrA 0x05C)

end Sys2Proof.Machine
end

