-- ==== Sys2Proof/Machine/TableWin.lean ====
section
/-!
DEFINITION. Machine/TableWin.lean: the indirect table windows (R54, R55) and the snapshot registers (R75).
-/
namespace Sys2Proof.Machine

/-- Writes of the XPT tables (R29, R30, R195): descriptors; the other tables are RO (R196). -/
def xptTableWrite (t : Tag) (sel idx : Nat) (d : List Word) (s : State) : Nat × State :=
  match sel with
  | 1 =>
    if 69632 ≤ idx then (2, s)
    else
      let (e, s1) := writeDesc t 1 idx d (s.portInUse selIn (idx / 16)) (s.overLong (idx / 16) (idx % 16)) s
      (e, if e = 0 ∧ idx / 16 < 4096 then s1.newDesc (idx / 16) (idx % 16) else s1)
  | 2 => if 4608 ≤ idx then (2, s) else writeDesc t 2 idx d (s.portInUse selOut idx) (fun _ => false) s
  | _ => if 3 ≤ sel ∧ sel ≤ 6 then (3, s.descStatus t sel 11 idx) else (1, s)

/-- Read of a table entry through the window of a page. -/
def tableReadAt (t : Tag) (pg sel idx : Nat) (s : State) : (Nat × List Word) × State :=
  match pageOf pg with
  | none => ((1, []), s)
  | some (k, i) =>
    match k with
    | .part => (partTableRead t sel idx s, s)
    | .host => (hostTableRead t sel idx s, s)
    | .mgt => (mgtTableRead sel idx s, s)
    | .key => (keyTableRead t sel idx s, s)
    | .flt => (fltTableRead t sel idx s, s)
    | .time => (timeTableRead t sel idx s, s)
    | .refsel => refselTableRead sel idx s
    | .gbus => (gbusTableRead sel idx s, s)
    | .xpt => (xptTableRead t sel idx s, s)
    | .take => (takeTableRead t sel idx s, s)
    | .reel => (reelTableRead t sel idx s, s)
    | .mon => (monTableRead t sel idx s, s)
    | .aud => (audTableRead t sel idx s, s)
    | .sens => sensTableRead sel idx s
    | .port => (portTableRead i sel idx s, s)
    | .ing => (ingTableRead t i sel idx s, s)
    | .egr => (egrTableRead t i sel idx s, s)
    | .fol => (folTableRead i sel idx s, s)
    | .chip => ((1, []), s)
    | .bmx => ((1, []), s)
    | .pwr => ((1, []), s)
    | .lane => ((1, []), s)
    | .hbm => ((1, []), s)

/-- Whether an input port has a source other than a receive map entry (R141): another SDI entry that is not of the group's other bank,
host memory, an extraction, or a flow. -/
def State.fedElse (s : State) (b sel idx ei : Nat) : Bool :=
  s.hostFed ei 0 || s.ancFed ei 0 none || !(s.flowsOf ei 0 none).isEmpty ||
    (List.range 48).any fun c => [3, 4].any fun e =>
      (c != b || e == sel) &&
        (s.entIdxs (pPort c) 0 e 0 fun w => bitOf w 31 && fld w 28 3 == 0).any fun i =>
          (c != b || i != idx) && fld (s.ent (pPort c) 0 e i 1) 16 16 == ei

/-- Write of a table entry through the window of a page: whole or not at all. -/
def tableWriteAt (t : Tag) (pg sel idx : Nat) (d : List Word) (s : State) : Nat × State :=
  match pageOf pg with
  | none => (1, s)
  | some (k, i) =>
    match k with
    | .part => partTableWrite t sel idx d s
    | .host => hostTableWrite t sel idx d s
    | .mgt => mgtTableWrite sel idx d s
    | .key => keyTableWrite t sel idx d s
    | .flt => fltTableWrite t sel idx d s
    | .time => timeTableWrite t sel idx d s
    | .refsel => refselTableWrite sel idx d s
    | .gbus => match gbusTableRead sel idx s with
      | (0, _) => gbusTableWrite s
      | (e, _) => (e, s)
    | .xpt => xptTableWrite t sel idx d s
    | .take => takeTableWrite t sel idx d s
    | .reel => reelTableWrite t sel idx d s
    | .mon => monTableWrite t sel idx d s
    | .aud => audTableWrite t sel idx d s
    | .sens => sensTableWrite sel idx s
    | .port => portTableWrite i sel idx d (fun ei => s.fedElse i sel idx ei) s
    | .ing => ingTableWrite t i sel idx d s
    | .egr => egrTableWrite t i sel idx d s
    | .fol => folTableWrite i sel idx d s
    | .chip => (1, s)
    | .bmx => (1, s)
    | .pwr => (1, s)
    | .lane => (1, s)
    | .hbm => (1, s)

/-- The copy of a page's window and result block that a tag uses (R55, R74, R515). -/
def winBank (t : Tag) (pg : Nat) : Nat :=
  match pageOf pg with
  | some (k, _) => if k.shared then tagBank t else 0
  | none => 0

/-- The checks and the effect of a table operation, at the beat of its GO (R54): its error code. A refused read leaves TBL_DATA as it
stands; words past the entry's read 0. -/
def State.tableOp (s : State) (t : Tag) (pg : Nat) : Nat × State :=
  let b := winBank t pg
  let sel := s.rdF b (regA pg 0x1000) 0 16
  let idx := s.rdF b (regA pg 0x1004) 0 24
  if bitOf (s.rd b (regA pg 0x1008)) 1 then
    tableWriteAt t pg sel idx ((List.range 16).map fun i => s.rd b (regA pg (0x1010 + 4 * i))) s
  else
    let ((e, ws), s1) := tableReadAt t pg sel idx s
    if e ≠ 0 then (e, s1)
    else (0, s1.wrWords b (regA pg 0x1010) ((List.range 16).map fun i => dat ws i))

/-- A write of TBL_CTRL (R54). -/
def writeTblCtrl (t : Tag) (pg : Nat) (d : Word) (s : State) : State :=
  let b := winBank t pg
  let a := regA pg 0x1008
  let s1 := s.wrF b a 1 2 (fld d 1 2)
  if bitOf d 0 then
    let s2 := (s1.wr b a (s1.rd b a &&& 6)).inc b (regA pg 0x100C)
    let (e, s3) := s2.tableOp t pg
    { s3 with bus := { s3.bus with ops := s3.bus.ops ++ [⟨pg, b, e⟩] } }
  else s1

/-- TABLE_READ: a write of TBL_CTRL with GO = 1, WRITE = 0 and AINC as given. -/
def execTableRead (t : Tag) (pg : PageNo) (ainc : Bool) (s : State) : Host.Outcome State Fault Refusal :=
  let d := wd (if ainc then 5 else 1)
  .next (hostWrite t (regA pg 0x1008) d (writeTblCtrl t pg d) s)

/-- TABLE_WRITE: a write of TBL_CTRL with GO = 1, WRITE = 1 and AINC as given. -/
def execTableWrite (t : Tag) (pg : PageNo) (ainc : Bool) (s : State) : Host.Outcome State Fault Refusal :=
  let d := wd (if ainc then 7 else 3)
  .next (hostWrite t (regA pg 0x1008) d (writeTblCtrl t pg d) s)

/-- TABLE_OP_DONE: DONE, ERR and ECODE report the operation, and TBL_INDEX moves on when AINC = 1 and it was not refused (R54). -/
def execTableOpDone (pg : PageNo) (bank : Fin 16) (s : State) : Host.Outcome State Fault Refusal :=
  .next (match s.bus.ops.find? fun o => o.page == pg.val && o.bank == bank.val with
    | none => s
    | some o =>
      let a := regA pg 0x1008
      let c := setFld (setBit (setBit (s.rd bank a) 8 true) 9 (decide (o.ecode ≠ 0))) 12 4 o.ecode
      let s1 := { s.wr bank a c with bus := { s.bus with ops := s.bus.ops.erase o } }
      if bitOf c 2 && o.ecode == 0 then
        s1.wr bank (regA pg 0x1004) (wd ((s1.rdF bank (regA pg 0x1004) 0 24 + 1) % 2 ^ 24))
      else s1)

/-! ### Snapshot and clear, R75 -/

/-- Offset of a page's snapshot register. -/
def snapOff (k : PageKind) : Option Nat :=
  match k with
  | .bmx => some 0x058
  | .key => some 0x048
  | .flt => some 0x048
  | .pwr => some 0x058
  | .time => some 0x048
  | .refsel => some 0x070
  | .gbus => some 0x068
  | .xpt => some 0x06C
  | .take => some 0x04C
  | .reel => some 0x048
  | .mon => some 0x048
  | .aud => some 0x048
  | .lane => some 0x058
  | .port => some 0x04C
  | .ing => some 0x04C
  | .egr => some 0x048
  | .fol => some 0x084
  | .chip => none
  | .part => none
  | .host => none
  | .mgt => none
  | .sens => none
  | .hbm => none

/-- The counters of a page that its snapshot register names are copied and cleared. -/
def State.snapPage (s : State) (t : Tag) (pg : Nat) : State :=
  let p := tagBank t
  match pageOf pg with
  | none => s
  | some (k, i) =>
    match k with
    | .bmx => ((s.snap 0 (regA pBmx 0x044) (regA pBmx 0x05C)).snap 0 (regA pBmx 0x050) (regA pBmx 0x060)).snap 0
        (regA pBmx 0x054) (regA pBmx 0x064)
    | .key => (s.snap p (regA pKey 0x068) (regA pKey 0x070)).snap p (regA pKey 0x06C) (regA pKey 0x074)
    | .flt => s.fltSnap p
    | .pwr => s.pwrSnap
    | .time => s.timeSnap p
    | .refsel => s.refselSnap
    | .gbus => s.gbusSnap
    | .xpt => s.xptSnap
    | .take => s.takeSnap p
    | .reel => s.reelSnap p
    | .mon => s.monSnap p
    | .aud => s.audSnap p
    | .lane => laneSnap i s
    | .port => portSnap i s
    | .ing => s.ingSnap i
    | .egr => s.egrSnap i p
    | .fol => s.folSnap i
    | .chip => s
    | .part => s
    | .host => s
    | .mgt => s
    | .sens => s
    | .hbm => s

/-- A write of a snapshot register. -/
def writeSnap (t : Tag) (pg : Nat) (d : Word) (s : State) : State := if bitOf d 0 then s.snapPage t pg else s

/-- SNAPSHOT: a write of 1 to the page's snapshot register. A page without one has no such register: its offset 0 is PAGE_ID, which
ignores the write. -/
def execSnapshot (t : Tag) (pg : PageNo) (s : State) : Host.Outcome State Fault Refusal :=
  let off := match pageOf pg with
    | some (k, _) => (snapOff k).getD 0
    | none => 0
  .next (hostWrite t (regA pg off) 1 (fun s => if off = 0 then s else writeSnap t pg 1 s) s)

end Sys2Proof.Machine
end

