-- ==== Sys2Proof/Machine/ResReq.lean ====
section
/-!
DEFINITION. Machine/ResReq.lean: result requests and result registers (R74), with the requests of each page: eye measurements (R106),
take and audio queries (R226, R307), captures (R397), key requests (R439, R440) and host settings (R464).
-/
namespace Sys2Proof.Machine

/-- Words of a page's result data. -/
def resWords (k : PageKind) : Nat :=
  match k with
  | .mgt => 2
  | .key => 16
  | .time => 8
  | .take => 8
  | .aud => 16
  | .lane => 4
  | _ => 0

/-- What a request takes when it is made: the outcome of its checks with its result, or the request registers of a page that serves it
later. -/
def State.resTake (s : State) (t : Tag) (pg : Nat) : (Nat × List Word) × State :=
  match pageOf pg with
  | some (.mgt, _) => ((0, s.settingsArgs), s)
  | some (.key, _) => ((0, keyArgs (tagBank t) s), s)
  | some (.time, _) => ((0, s.timeCapture (tagBank t)), s)
  | some (.take, _) => (s.takeQuery t, s)
  | some (.aud, _) => s.audQuery t
  | some (.lane, b) => (eyeArgs b s, s)
  | _ => ((0, []), s)

/-- A write of RES_REQ (R74). -/
def writeResReq (t : Tag) (pg : Nat) (d : Word) (s : State) : State :=
  let b := winBank t pg
  if !bitOf d 0 then s
  else
    let s1 := (s.inc b (regA pg 0x084)).wrF b (regA pg 0x088) 0 1 0
    let ((e, ws), s2) := s1.resTake t pg
    { s2 with bus := { s2.bus with res := s2.bus.res ++ [⟨pg, b, tagNum t, s2.rd b (regA pg 0x084), e, ws⟩] } }

/-- How a request ends: error code and result words. -/
def State.resServe (s : State) (o : ResOp) (meas : BitVec 128) : Nat × List Word × State :=
  match pageOf o.page with
  | some (.mgt, _) =>
    let ((e, ws), s1) := s.settingsDone o.data
    (e, ws, s1)
  | some (.key, _) => keyFinish o s
  | some (.lane, b) => (o.ecode, eyeWords s b (dat o.data 0).toNat meas, s)
  | _ => (o.ecode, o.data, s)

/-- Words of a result that the spec does not state: free values (log entry 1). -/
def State.freshWords (s : State) : Nat → List Word × State
  | 0 => ([], s)
  | n + 1 =>
    let (w, s1) := s.freshWord
    let (ws, s2) := s1.freshWords n
    (w :: ws, s2)

/-- RES_STAT, RES_TAG and every data register change in one step; a refused request leaves free values as its data. -/
def State.resPut (s : State) (o : ResOp) (e n : Nat) (ws : List Word) : State :=
  let (data, s1) := if e = 0 then ((List.range n).map fun i => dat ws i, s) else s.freshWords n
  ((s1.wr o.bank (regA o.page 0x088) (wd (1 + (if e = 0 then 0 else 2) + e * 256))).wr o.bank (regA o.page 0x08C) o.tag).wrWords
    o.bank (regA o.page 0x090) data

/-- RESULT_COMPLETE: a result request finishes, and cause 195 occurs for its partition (R72, R74). `meas` is what an eye measurement
found (R106). -/
def execResultComplete (pg : PageNo) (bank : Fin 16) (meas : BitVec 128) (s : State) : Host.Outcome State Fault Refusal :=
  .next (match s.bus.res.find? fun o => o.page == pg.val && o.bank == bank.val, pageOf pg with
    | some o, some (k, _) =>
      let s0 := { s with bus := { s.bus with res := s.bus.res.erase o } }
      let (e, ws, s1) := s0.resServe o meas
      (s1.resPut o e (resWords k) ws).cause (if k.shared then o.bank else if o.who < 16 then o.who else 0) 195
    | _, _ => s)

/-- The write of 1 to a page's RES_REQ. -/
def resRequest (t : Tag) (pg : Nat) (s : State) : State := hostWrite t (regA pg 0x080) 1 (writeResReq t pg 1) s

/-- EYE_REQUEST: the lane that LANE.EYE_REQ names. -/
def execEyeRequest (t : Tag) (b : Fin 48) (s : State) : Host.Outcome State Fault Refusal := .next (resRequest t (pLane b) s)

/-- TIME_CAPTURE: the time bases that TIME.CAP_TB names. -/
def execTimeCapture (t : Tag) (s : State) : Host.Outcome State Fault Refusal := .next (resRequest t pTime s)

end Sys2Proof.Machine
end

