-- ==== Sys2Proof/Machine/View.lean ====
section
/-!
DEFINITION. Machine/View.lean: what a register reads as (R16): the stored value, and the registers that read as something the part
computes.
-/
namespace Sys2Proof.Machine

/-- A word with the given bits, from bit 0 up. -/
def flagsWord (l : List Bool) : Word := wd (l.foldr (fun b n => (if b then 1 else 0) + 2 * n) 0)

/-- PAGE_STATUS of a page as a tag reads it, R45. BUSY shows the reader's own copy of the window and of the result block. -/
def State.pageStatus (s : State) (t : Tag) (pg : Nat) : Word :=
  let b := winBank t pg
  let busy := (s.bus.ops.any fun o => o.page == pg && o.bank == b) || s.bus.res.any fun o => o.page == pg && o.bank == b
  let fault := decide (s.rd 0 (regA pg 0x018) &&& ~~~ s.rd 0 (regA pg 0x01C) ≠ 0)
  flagsWord [s.ready pg, busy, fault, s.pageDegraded pg, s.gated pg, s.held, s.pageLocked pg]

/-- Bits of a CUT register that a partition reads: P0 all of its bank, another those of its own ports (R170). -/
def State.cutRead (s : State) (p sl k : Nat) : Word :=
  s.rd p (regA (pIng sl) (0x080 + 4 * k)) &&& s.cutMask p sl k 0xFFFFFFFF

/-- FOL.STATUS as it reads. -/
def State.folStatusRead (s : State) (c : Nat) : Word := setBit (s.rd 0 (folA c 0x048)) 4 (s.folRec c).em

/-- Registers that read as something computed; none for those that read as stored. Measured values are free (log entry 1). -/
def State.viewed (s : State) (t : Tag) (pg off : Nat) : Option (Word × State) :=
  let p := tagBank t
  let v (w : Word) : Option (Word × State) := some (w, s)
  if off = 0x014 then v (s.pageStatus t pg)
  else
    match pageOf pg with
    | none => none
    | some (k, i) =>
      match k, off with
      | .part, 0x044 => v s.partOver
      | .part, 0x048 => v (wd p)
      | .mgt, 0x060 => v (wd s.acceptLeft)
      | .mgt, 0x068 => v s.startFails
      | .mgt, 0x06C => v s.settingsFmt
      | .key, 0x040 => v s.keyStatus
      | .key, 0x04C => v (wd (s.keysUsed p))
      | .flt, 0x040 => v (setBit (s.rd 0 (fltA 0x040)) 3 s.errN)
      | .xpt, 0x078 => v s.xingWorst
      | .refsel, 0x044 => v s.candWord
      | .refsel, 0x048 => v s.dpllWord
      | .take, 0x044 => v (s.takeStatus p)
      | .reel, 0x074 => let (w, s1) := s.freshWord; some (w &&& 0x3FFFF, s1)
      | .sens, 0x040 => let (w, s1) := s.freshWord; some (setFld (w &&& 0xFFFF) 16 7 (fld w 16 7 % 96), s1)
      | .sens, 0x044 => let (w, s1) := s.freshWord; some (w &&& 0x3FFF, s1)
      | .sens, 0x048 => let (w, s1) := s.freshWord; some (w &&& 0x1F1FFFFF, s1)
      | .egr, 0x04C => v (s.rd 0 (regA (pEgr 0) 0x04C))
      | .ing, 0x040 => v (s.rd 0 (regA (pIng 0) 0x040))
      | .ing, 0x070 => v (wd s.longLoad)
      | .ing, 0x074 => v (s.poolWord p)
      | .lane, o =>
        if 0x100 ≤ o ∧ (o - 0x100) % 0x80 = 0x10 then v (s.rxStat (i * 8 + (o - 0x100) / 0x80)) else none
      | .port, 0x058 => v (s.ethStatus i)
      | .fol, 0x048 => v (s.folStatusRead i)
      | .fol, 0x060 => v (wd (s.folRec i).pc)
      | .fol, 0x064 => v (wd (s.folRec i).epc)
      | .fol, 0x068 => v (wd (s.folRec i).estat)
      | .ing, o =>
        if 0x050 ≤ o ∧ o < 0x070 then v (s.rd 0 (regA (pIng 0) o))
        else if 0x080 ≤ o ∧ o < 0x0C0 then v (s.cutRead p i (o % 32 / 4))
        else none
      | _, _ => none

/-- What an aligned 32-bit read of a register returns, with the state after a free value (R16): WO and RSV registers read 0. -/
def State.readValue (s : State) (t : Tag) (a : Nat) : Word × State :=
  let pg := a / 65536
  let off := a % 65536
  match pageOf pg with
  | none => (0, s)
  | some (k, _) =>
    match regAt k off with
    | none => (0, s)
    | some r =>
      if r.acc = .wo ∨ r.acc = .rsv then (0, s)
      else
        match s.viewed t pg off with
        | some x => x
        | none => (s.rd (bankFor t a) a, s)

end Sys2Proof.Machine
end

