-- ==== Sys2Proof/Machine/RegWrite.lean ====
section
/-!
DEFINITION. Machine/RegWrite.lean: register accesses (R16, R42 to R53, R517, R518): what a write does to each register, pairs and
their halves, bursts, and accesses that time out.
-/
namespace Sys2Proof.Machine

/-! ### The page header, R45, R46 and R517 -/

/-- Whether a tag is the owner that PAGE_LOCK asks for. -/
def State.lockOwner (s : State) (t : Tag) (k : PageKind) (pg : Nat) : Bool :=
  if k.shared then tagIsP0 t else tagOwns t (s.pageOwner pg)

/-- A write of a header register. A field that the tag has no right to keeps its value (R517). -/
def writeHeader (t : Tag) (k : PageKind) (pg off : Nat) (d : Word) (s : State) : State :=
  let a := regA pg off
  let mayFault := !k.shared || tagIsP0 t
  if off = 0x00C then
    if tagIsP0 t && !k.shared then (s.wr 0 a (wd (fld d 0 4))).wrF 0 (regA pg 0x010) 0 1 0 else s
  else if off = 0x010 then
    let s1 := if bitOf d 0 && s.lockOwner t k pg then s.wrF 0 a 0 1 1 else s
    if bitOf d 31 && tagIsP0 t then s1.wrF 0 a 0 1 0 else s1
  else if off = 0x018 then (if mayFault then s.wr 0 a (s.rd 0 a &&& ~~~d) else s)
  else if off = 0x01C then (if mayFault then s.wr 0 a d else s)
  else s

/-! ### Registers -/

/-- A write of a register by its access type alone (R16): bits outside the mask keep their value. -/
def plainWrite (r : Reg) (t : Tag) (a : Nat) (d : Word) (s : State) : State :=
  let b := bankFor t a
  let old := s.rd b a
  let m := wd r.mask
  let new := (old &&& ~~~m) ||| (d &&& m)
  match r.acc with
  | .rw => s.wr b a new
  | .rwl => if s.pageLocked (a / 65536) then s else s.wr b a new
  | .w1c => s.wr b a (old &&& ~~~(d &&& m))
  | .w1s => s.wr b a (old ||| (d &&& m))
  | .wo => s.wr b a (d &&& m)
  | .ro => s
  | .rsv => s

/-- A write of a window register, R54. -/
def writeWindow (t : Tag) (pg off : Nat) (d : Word) (s : State) : State :=
  let b := winBank t pg
  if off = 0x1000 then s.wr b (regA pg off) (wd (fld d 0 16))
  else if off = 0x1004 then s.wr b (regA pg off) (wd (fld d 0 24))
  else if off = 0x1008 then writeTblCtrl t pg d s
  else if off = 0x100C then s
  else s.wr b (regA pg off) d

/-- Whether an ingress or egress flow names a port (R135). -/
def State.flowNames (s : State) (b p : Nat) : Bool :=
  (s.flows.any fun f => let w := s.ent (pIng f.1) 0 1 f.2 0; fld w 6 6 == b && fld w 3 3 == p) ||
    s.egrFlows.any fun f => (List.range 2).any fun k => let w := s.egrPath f.1 f.2 k 0; bitOf w 31 && pathPort w == (b, p)

/-- A write of PORT.PLANE (R135): PLANE 3 is refused with BAD_VALUE, a change of a port that a flow names with IN_USE. -/
def writePlane (b : Nat) (d : Word) (s : State) : State :=
  let a := portA b 0x050
  let old := s.rd 0 a
  if s.pageLocked (pPort b) then s
  else if (List.range 8).any fun p => fld d (2 * p) 2 == 3 then s.setReason (pPort b) 0x044 0 2 0
  else if (List.range 8).any fun p => fld d (2 * p) 2 != fld old (2 * p) 2 && s.flowNames b p then
    s.setReason (pPort b) 0x044 0 1 0
  else (s.wr 0 a (wd (fld d 0 16))).clearReason (pPort b) 0x044 0

/-- A write of PORT.EPV_CFG: MIN_LANES above 8 is refused. -/
def writeEpvCfg (b : Nat) (d : Word) (s : State) : State :=
  if s.pageLocked (pPort b) then s
  else if 8 < fld d 0 4 then s.raiseOwned (pPort b) 8
  else s.wr 0 (portA b 0x05C) (wd (Nat.land d.toNat 0xFF0F))

/-- Registers of the HOST page whose writes do more than their access type says. -/
def writeHost (off : Nat) (d : Word) (s : State) : Option State :=
  let q := queueOf off
  let rx := decide (0x20 ≤ off % 0x40)
  if off < 0x2000 then none
  else if off % 0x20 = 0x08 then some (writeQCfg q rx d s)
  else if off % 0x20 = 0x0C then some (writeQTail q rx d s).autoPause
  else none

/-- Registers of the LANE page. -/
def writeLane (b off : Nat) (d : Word) (s : State) : Option State :=
  let l := b * 8 + (off - 0x100) / 0x80
  let o := (off - 0x100) % 0x80
  if off = 0x040 then some ((writeBlkCfg b d s).checkAgree b)
  else if off = 0x044 then some (writeBlkCtrl b d s)
  else if off < 0x100 then none
  else if o = 0x00 then some (writeLnCfg l d s)
  else if o = 0x14 then some (writePrbsGen l d s)
  else if o = 0x18 then some (writePrbsChk l d s)
  else if o = 0x1C then some (writeInj l d s)
  else none

/-- Registers of the PORT page. -/
def writePort (b off : Nat) (d : Word) (s : State) : Option State :=
  match off with
  | 0x040 => some (writePortBlkCfg b d s)
  | 0x050 => some (writePlane b d s)
  | 0x054 => some (writeEthCfg b d s)
  | 0x05C => some (writeEpvCfg b d s)
  | 0x060 => some (writeEpvCtrl b d s)
  | _ => none

/-- Registers of the ING page. -/
def writeIng (t : Tag) (sl off : Nat) (d : Word) (s : State) : Option State :=
  let n := off % 0x20 / 4
  if off = 0x040 then some (writeIngCfg sl d s)
  else if 0x050 ≤ off ∧ off < 0x070 then
    some (writePadD (tagBank t) sl ((off - 0x050) / 4) d (fun ei => s.portInUse selIn ei) s)
  else if 0x080 ≤ off ∧ off < 0x0A0 then some (writeCut (tagBank t) sl n d s)
  else if 0x0A0 ≤ off ∧ off < 0x0C0 then some (writeCutClr (tagBank t) sl n d s)
  else none

/-- Registers whose writes do more than their access type says, by page kind and offset. -/
def writeSpecial (t : Tag) (k : PageKind) (i off : Nat) (d : Word) (s : State) : Option State :=
  match k, off with
  | .bmx, 0x040 => some (s.wr 0 (regA pBmx 0x040) (wd (max 1 (fld d 0 8))))
  | .mgt, 0x048 => some (writeMgtCtrl d s)
  | .mgt, 0x050 => some (writeUpdCmd d s)
  | .key, 0x064 => some (writeConfirm t d s)
  | .flt, 0x04C => some (writeFltCmd d s)
  | .flt, 0x054 => some (writeAck t d s)
  | .flt, 0x070 => some (writeFarrierCfg d s)
  | .pwr, 0x040 => some (writePwrCfg d s)
  | .pwr, 0x044 => some (s.wr 0 (pwrA 0x044) d).pwrTick
  | .pwr, 0x064 => some (writeClap d s)
  | .time, 0x050 => some (writeAdjCtrl t d s)
  | .refsel, 0x040 => some (writeClkMap d s)
  | .refsel, 0x058 => some (writeForce d s)
  | .refsel, 0x060 => some (writePrio 0 d s)
  | .refsel, 0x064 => some (writePrio 1 d s)
  | .refsel, 0x068 => some (writePrio 2 d s)
  | .refsel, 0x06C => some (writePrio 3 d s)
  | .gbus, 0x040 => some (writeGbusCfg d s)
  | .gbus, 0x050 => some (s.wr 0 (gA 0x050) (wd (fld d 0 12))).autoPause
  | .gbus, 0x054 => some (writeWakeOwn d s)
  | .xpt, 0x054 => some (writeMidOut d s)
  | .xpt, 0x058 => some (writeMidReturn d s)
  | .take, 0x040 => some (writeTakeCfg d s)
  | .take, 0x060 => some (writeTakeCmd t d s)
  | .reel, 0x060 => some (writeReelCmd t d s)
  | .aud, 0x05C => some (writeAudCmd t d s)
  | .sens, 0x04C => some (writeWarn d s)
  | .fol, 0x040 => some (writeFolCfg i d s)
  | .fol, 0x044 => some (writeFolCtrl i d s)
  | .fol, 0x050 => some (writeFolRegion i off d s)
  | .fol, 0x054 => some (writeFolRegion i off d s)
  | .fol, 0x058 => some (writeFolRegion i off d s)
  | .host, o => writeHost o d s
  | .lane, o => writeLane i o d s
  | .port, o => writePort i o d s
  | .ing, o => writeIng t i o d s
  | _, _ => none

/-- What an accepted write of a 32-bit register does. -/
def writeReg (t : Tag) (a : Nat) (d : Word) (s : State) : State :=
  let pg := a / 65536
  let off := a % 65536
  match pageOf pg with
  | none => s
  | some (k, i) =>
    match regAt k off with
    | none => s
    | some r =>
      if off < 0x40 then writeHeader t k pg off d s
      else if 0x1000 ≤ off ∧ off < 0x1050 then writeWindow t pg off d s
      else if snapOff k = some off then writeSnap t pg d s
      else if off = 0x080 ∧ k.cap / 8 % 2 = 1 then writeResReq t pg d s
      else
        match writeSpecial t k i off d s with
        | some s' => s'
        | none => plainWrite r t a d s

/-- The lane whose LN_TX_COEF has its lower half at an address. -/
def coefLane (a : Nat) : Option Nat :=
  match pageOf (a / 65536) with
  | some (.lane, b) =>
    let off := a % 65536
    if off % 0x80 = 0x08 ∧ 0x100 ≤ off then some (b * 8 + (off - 0x100) / 0x80) else none
  | _ => none

/-- What an accepted write of a pair does, at the address of its lower half, lower half first (R49). -/
def writePair (t : Tag) (a v : Nat) (s : State) : State :=
  let off := a % 65536
  match pageOf (a / 65536) with
  | some (.lane, _) =>
    match coefLane a with
    | some l => writeTxCoef l v s
    | none => writeReg t (a + 4) (hiHalf v) (writeReg t a (loHalf v) s)
  | some (.pwr, _) =>
    if 0x070 ≤ off ∧ off < 0x088 then writeGate ((off - 0x070) / 8) v s
    else writeReg t (a + 4) (hiHalf v) (writeReg t a (loHalf v) s)
  | _ => writeReg t (a + 4) (hiHalf v) (writeReg t a (loHalf v) s)

/-! ### Accesses -/

/-- Whether an address is a location marked "pair". -/
def isPair (a : Nat) : Bool :=
  match pageOf (a / 65536) with
  | some (k, _) =>
    match regAt k (a % 65536) with
    | some r => r.pair
    | none => false
  | none => false

/-- The lower half that a master's write of the upper half at an address applies with it (R50). -/
def State.heldLower (s : State) (master a : Nat) : Option Word :=
  (s.bus.pairWr.find? fun h => h.master == master && h.addr + 4 == a).map fun h => h.val

/-- The effect of an accepted 32-bit write, with the lower half that it may apply. LN_TX_COEF takes no upper half alone (R109). -/
def writeWord (t : Tag) (a : Nat) (held : Option Word) (d : Word) (s : State) : State :=
  if isPair a then
    match held, coefLane (a - 4) with
    | none, some l => s.laneCfg (l / 8)
    | _, _ => writePair t (a - 4) (pairOf (held.getD (s.rd (bankFor t (a - 4)) (a - 4))) d) s
  else writeReg t a d s

/-- A 32-bit write of the lower half of a pair is held; it is not counted (R47, R50). -/
def holdLower (x : Access) (s : State) : State :=
  { s with bus := { s.bus with pairWr := s.bus.pairWr ++ [⟨x.master, x.addr, BitVec.ofNat 32 x.data⟩] } }

/-- One 32-bit write, by itself or as a word of a burst (R49 to R51). -/
def busWord (x : Access) (s : State) : State :=
  let d := BitVec.ofNat 32 x.data
  if isPair x.addr && x.addr % 8 == 0 then
    if s.lost x.tag x.master then s
    else
      let s1 := (s.noteDebug x.tag).dropHolds x.master x.page
      match s1.refusal x with
      | some c => (s1.logErr x c).respond x true 0
      | none => (holdLower x s1).respond x false 0
  else busWrite x (writeWord x.tag x.addr (s.heldLower x.master x.addr) d) s

/-- The words of a burst, each checked by itself. -/
def busBurst (t : Tag) : Nat → List Word → State → State
  | _, [], s => s
  | a, w :: r, s => busBurst t (a + 4) r (busWord ⟨t, tagNum t, a, 2, true, true, w.toNat⟩ s)

/-- Whether a burst is refused whole (R51). -/
def burstBad (a n : Nat) : Bool := decide (16 < n ∨ (a + 4 * n - 1) / 65536 ≠ a / 65536)

/-- The cause of a burst that is refused whole: page decode and the firewall are checked before the shape (R51, R57). -/
def State.burstCause (s : State) (x : Access) : Cause :=
  if (pageOf x.page).isNone then .decode else if s.firewalled x then .firewall else .access

/-- A burst that is refused whole: one entry, at its first address (R51, R518). -/
def refuseBurst (t : Tag) (a : Nat) (wr : Bool) (s : State) : State :=
  let x : Access := ⟨t, tagNum t, a, 2, true, wr, 0⟩
  (((s.noteDebug t).dropHolds (tagNum t) x.page).logErr x (s.burstCause x)).respond x true 0

/-- The width code of an access of so many bits. -/
def sizeOf (bits : Nat) : Nat := if bits = 8 then 0 else if bits = 16 then 1 else if bits = 64 then 3 else 2

/-- A page of the HBM window. -/
def isHbm (a : Nat) : Bool := match pageOf (a / 65536) with
  | some (.hbm, _) => true
  | _ => false

/-- A write of any shape to the control space. -/
def regWrite (t : Tag) (a : Nat) (sh : Shape) (s : State) : State :=
  if isHbm a then hbmAccess t (hbmOff a) true sh s
  else
    match sh with
    | .one bits d =>
      let x : Access := ⟨t, tagNum t, a, sizeOf bits, false, true, d.toNat % 2 ^ bits⟩
      if bits = 32 then busWord x s
      else if bits = 64 then busWrite x (writePair t a d.toNat) s
      else if bits = 8 ∨ bits = 16 then busWrite x (fun s => s) s
      else s
    | .burst [] => s
    | .burst ws =>
      if burstBad a ws.length then
        if s.lost t (tagNum t) then s else refuseBurst t a true s
      else busBurst t a ws s

/-- REGISTER_WRITE: a write of any shape to an address of the control space. -/
def execRegisterWrite (t : Tag) (a : Addr) (sh : Shape) (s : State) : Host.Outcome State Fault Refusal :=
  .next (regWrite t a.toNat sh s)

/-- PAIR_LOWER_WRITE: a 32-bit write of the lower half of a pair. -/
def execPairLowerWrite (t : Tag) (a : Addr) (d : Word) (s : State) : Host.Outcome State Fault Refusal :=
  .next (regWrite t a.toNat (.one 32 (d.setWidth 64)) s)

/-- PAIR_UPPER_WRITE: a 32-bit write of the upper half of a pair. -/
def execPairUpperWrite (t : Tag) (a : Addr) (d : Word) (s : State) : Host.Outcome State Fault Refusal :=
  .next (regWrite t a.toNat (.one 32 (d.setWidth 64)) s)

/-- What an access returns once it is accepted. A narrow read returns the addressed bytes of the word. A 64-bit read returns both
halves of a pair, the lower first. The read of a lower half latches the upper half, and the read of the upper half that follows it
returns the latch (R49, R50). -/
def busValue (x : Access) (latch : Option Word) (s : State) : Nat × State :=
  let a := x.addr
  if x.size < 2 then
    let (v, s1) := s.readValue x.tag (a / 4 * 4)
    (v.toNat / 2 ^ (8 * (a % 4)) % 2 ^ (8 * 2 ^ x.size), s1)
  else
    let (v, s1) := s.readValue x.tag a
    if x.size = 3 then
      let (u, s2) := s1.readValue x.tag (a + 4)
      (pairOf v u, s2)
    else if isPair a then
      if a % 8 = 0 then
        let (u, s2) := s1.readValue x.tag (a + 4)
        (v.toNat, { s2 with bus := { s2.bus with pairRd := s2.bus.pairRd ++ [⟨x.master, a, u⟩] } })
      else ((latch.getD v).toNat, s1)
    else (v.toNat, s1)

/-- A read by a master: whether it ends in error, and its value. A gated register reads 0 without error (R52). -/
def busReadOf (x : Access) (s : State) : (Bool × Nat) × State :=
  if s.lost x.tag x.master then ((true, 0), s)
  else
    let latch := (s.bus.pairRd.find? fun h => h.master == x.master && h.addr + 4 == x.addr).map fun h => h.val
    let s1 := (s.noteDebug x.tag).dropHolds x.master x.page
    match s1.refusal x with
    | some .gated => ((false, 0), s1.logErr x .gated)
    | some c => ((true, 0), s1.logErr x c)
    | none =>
      let (v, s2) := busValue x latch s1
      ((false, v), s2)

/-- An aligned 32-bit read by a master. -/
def busRead (t : Tag) (master a : Nat) (s : State) : (Bool × Word) × State :=
  let ((e, v), s1) := busReadOf ⟨t, master, a, 2, false, false, 0⟩ s
  ((e, wd v), s1)

/-- The words of a read burst, each a read by itself, with their responses. -/
def busReadBurst (t : Tag) : Nat → Nat → State → List Resp × State
  | _, 0, s => ([], s)
  | a, n + 1, s =>
    let ((e, v), s1) := busReadOf ⟨t, tagNum t, a, 2, true, false, 0⟩ s
    let (r, s2) := busReadBurst t (a + 4) n s1
    (⟨e, BitVec.ofNat 64 v⟩ :: r, s2)

/-- A read of any shape from the control space. -/
def regRead (t : Tag) (a : Nat) (sh : ReadShape) (s : State) : State :=
  if s.lost t (tagNum t) then s
  else
    match sh with
    | .one bits =>
      if isHbm a then hbmAccess t (hbmOff a) false (.one bits 0) s
      else
        let x : Access := ⟨t, tagNum t, a, sizeOf bits, false, false, 0⟩
        let ((e, v), s1) := busReadOf x s
        s1.respond x e v
    | .burst n =>
      if isHbm a then hbmAccess t (hbmOff a) false (.burst (List.replicate n 0)) s
      else if n = 0 then s
      else if burstBad a n then refuseBurst t a false s
      else
        let (r, s1) := busReadBurst t a n s
        { s1 with bus := { s1.bus with resp := r } }

/-- PAIR_LOWER_READ: a read of the control space; of the lower half of a pair, it latches the upper half. The table has no other row
for a read, so this one takes every shape of R49 and R51 (log entry 17). -/
def execPairLowerRead (t : Tag) (a : Addr) (sh : ReadShape) (s : State) : Host.Outcome State Fault Refusal :=
  .next (regRead t a.toNat sh s)

/-! ### The page header's own commands -/

/-- PAGE_OWNER_WRITE. -/
def execPageOwnerWrite (t : Tag) (pg : PageNo) (owner : Fin 16) (s : State) : Host.Outcome State Fault Refusal :=
  .next (hostWrite t (regA pg 0x00C) (wd owner) (writeReg t (regA pg 0x00C) (wd owner)) s)

/-- PAGE_LOCK: a write of LOCK = 1. -/
def execPageLock (t : Tag) (pg : PageNo) (s : State) : Host.Outcome State Fault Refusal :=
  .next (hostWrite t (regA pg 0x010) 1 (writeReg t (regA pg 0x010) 1) s)

/-- PAGE_UNLOCK: a write of UNLOCK = 1. -/
def execPageUnlock (t : Tag) (pg : PageNo) (s : State) : Host.Outcome State Fault Refusal :=
  .next (hostWrite t (regA pg 0x010) 0x80000000 (writeReg t (regA pg 0x010) 0x80000000) s)

/-- RESULT_REQUEST: a write of 1 to RES_REQ at 0x080. -/
def execResultRequest (t : Tag) (pg : PageNo) (s : State) : Host.Outcome State Fault Refusal :=
  .next (hostWrite t (regA pg 0x080) 1 (writeReg t (regA pg 0x080) 1) s)

/-! ### Requests that host software makes by writing request registers and then RES_REQ, R74 -/

/-- Write a request register of a tag's bank. -/
def reqWrite (t : Tag) (a : Nat) (d : Word) (s : State) : State := hostWrite t a d (writeReg t a d) s

/-- TAKE_QUERY_ROUTE: TYPE 0 and the output, then the request. -/
def execTakeQueryRoute (t : Tag) (out : BitVec 13) (s : State) : Host.Outcome State Fault Refusal :=
  .next (resRequest t pTake (reqWrite t (regA pTake 0x0B4) (wd out.toNat) (reqWrite t (regA pTake 0x0B0) 0 s)))

/-- TAKE_QUERY_TAG: TYPE 1 and the tag, then the request. -/
def execTakeQueryTag (t : Tag) (tag : Word) (s : State) : Host.Outcome State Fault Refusal :=
  .next (resRequest t pTake (reqWrite t (regA pTake 0x0B4) tag (reqWrite t (regA pTake 0x0B0) 1 s)))

/-- AUD_QUERY_ROUTE: TYPE 0. -/
def execAudQueryRoute (t : Tag) (ch : BitVec 16) (s : State) : Host.Outcome State Fault Refusal :=
  .next (resRequest t pAud (reqWrite t (regA pAud 0x0D4) (wd ch.toNat) (reqWrite t (regA pAud 0x0D0) 0 s)))

/-- AUD_QUERY_PEAK: TYPE 1. -/
def execAudQueryPeak (t : Tag) (ch : BitVec 16) (s : State) : Host.Outcome State Fault Refusal :=
  .next (resRequest t pAud (reqWrite t (regA pAud 0x0D4) (wd ch.toNat) (reqWrite t (regA pAud 0x0D0) 1 s)))

/-- AUD_QUERY_TAG: TYPE 2. -/
def execAudQueryTag (t : Tag) (tag : Word) (s : State) : Host.Outcome State Fault Refusal :=
  .next (resRequest t pAud (reqWrite t (regA pAud 0x0D4) tag (reqWrite t (regA pAud 0x0D0) 2 s)))

/-! ### Key requests, R439 -/

/-- A key request: OP is written to KEY.REQ, whose other fields stay as host software has set them, and RES_REQ starts it. -/
def keyRow (t : Tag) (op : Nat) (s : State) : State :=
  let a := regA pKey 0x050
  resRequest t pKey (reqWrite t a (setFld (s.rd (tagBank t) a) 0 4 op) s)

/-- DERIVE. -/
def execDerive (t : Tag) (s : State) : Host.Outcome State Fault Refusal := .next (keyRow t 1 s)
/-- LOAD_KEK. -/
def execLoadKek (t : Tag) (s : State) : Host.Outcome State Fault Refusal := .next (keyRow t 2 s)
/-- IMPORT. -/
def execImportKey (t : Tag) (s : State) : Host.Outcome State Fault Refusal := .next (keyRow t 3 s)
/-- SIGN. -/
def execSign (t : Tag) (s : State) : Host.Outcome State Fault Refusal := .next (keyRow t 4 s)
/-- CHECK. -/
def execCheck (t : Tag) (s : State) : Host.Outcome State Fault Refusal := .next (keyRow t 5 s)
/-- INVALIDATE. -/
def execInvalidate (t : Tag) (s : State) : Host.Outcome State Fault Refusal := .next (keyRow t 6 s)
/-- NEW_EPOCH. -/
def execNewEpoch (t : Tag) (s : State) : Host.Outcome State Fault Refusal := .next (keyRow t 7 s)
/-- SEAL_DEBUG. -/
def execSealDebug (t : Tag) (s : State) : Host.Outcome State Fault Refusal := .next (keyRow t 8 s)
/-- RMA. -/
def execRma (t : Tag) (s : State) : Host.Outcome State Fault Refusal := .next (keyRow t 9 s)

/-! ### Host settings, R464 -/

/-- A settings request: SET_REQ takes OP and PAGE, and RES_REQ starts it. -/
def settingsRow (t : Tag) (op : Nat) (pg : BitVec 11) (s : State) : State :=
  let d := wd (op + pg.toNat * 65536)
  resRequest t pMgt (reqWrite t (mgtA 0x0B0) d s)

/-- SETTINGS_READ. -/
def execSettingsRead (t : Tag) (pg : BitVec 11) (s : State) : Host.Outcome State Fault Refusal := .next (settingsRow t 1 pg s)
/-- SETTINGS_WRITE. -/
def execSettingsWrite (t : Tag) (pg : BitVec 11) (s : State) : Host.Outcome State Fault Refusal := .next (settingsRow t 2 pg s)

/-! ### Time-outs, R53 -/

/-- Width, whether it is a burst, and the words of an access by its shape. -/
def shapeSize (sh : Shape) : Nat :=
  match sh with
  | .one bits _ => sizeOf bits
  | .burst _ => 2
def shapeBurst (sh : Shape) : Bool :=
  match sh with
  | .one _ _ => false
  | .burst _ => true
def shapeWords (a : Nat) (sh : Shape) : List (Nat × Word) :=
  match sh with
  | .one bits d => if bits = 64 then [(a, loHalf d.toNat), (a + 4, hiHalf d.toNat)] else [(a, BitVec.ofNat 32 d.toNat)]
  | .burst ws => (List.range ws.length).map fun i => (a + 4 * i, dat ws i)

/-- The read of the same shape. -/
def readOf (sh : Shape) : ReadShape :=
  match sh with
  | .one bits _ => .one bits
  | .burst ws => .burst ws.length

/-- The words of a write with the lower half that each upper half of a pair applies: the one before it in the same write, or the one
held for the master (R50). -/
def State.lateWords (s : State) (t : Tag) (a : Nat) (sh : Shape) : List LateWrite :=
  let ws := shapeWords a sh
  ws.map fun w => ⟨t, w.1,
    match ws.find? fun v => v.1 + 4 == w.1 with
    | some v => some v.2
    | none => s.heldLower (tagNum t) w.1, w.2⟩

/-- A word of a write that has timed out takes effect in its target after all. -/
def landWord (w : LateWrite) (s : State) : State :=
  if isHbm w.addr then
    let h := hbmOff w.addr
    if (s.winRefusal w.tag h 4 true true).isNone then s.memPut (s.winAddr w.tag h) 4 w.data.toNat else s
  else
    let x : Access := ⟨w.tag, tagNum w.tag, w.addr, 2, false, true, w.data.toNat⟩
    if (s.refusal x).isSome then s
    else if isPair w.addr && w.addr % 8 == 0 then holdLower x s
    else
      let s1 := writeWord w.tag w.addr w.held w.data ((s.countRein x).countWrite x)
      if isPair w.addr then s1.dropHolds x.master x.page else s1

/-- Whether an access has a target that may stay silent: it is not refused, and it is not to a page header, which always answers. -/
def State.mayTimeOut (s : State) (t : Tag) (a : Nat) (wr : Bool) (sh : Shape) : Bool :=
  if isHbm a then (s.winRefusal t (hbmOff a) 4 wr true).isNone
  else decide (0x40 ≤ a % 65536) && !(shapeBurst sh && burstBad a (shapeWords a sh).length) &&
    (s.refusal ⟨t, tagNum t, a, shapeSize sh, shapeBurst sh, wr, match shapeWords a sh with | w :: _ => w.2.toNat | [] => 0⟩).isNone

/-- A write that has timed out takes effect at once, or waits: its target may still take it later. -/
def State.afterTimeout (s : State) (ws : List LateWrite) (lands : Bool) : State :=
  if lands then ws.foldl (fun s w => landWord w s) s else { s with bus := { s.bus with late := s.bus.late ++ ws } }

/-- In each beat a target may take a write that has timed out, or may lose it for good, or neither: free values (R53, log entry 1). -/
def State.lateBeat (s : State) : State :=
  let ws := s.bus.late
  ws.foldl (fun s w =>
    let (u, s1) := s.fresh 2
    if u = 0 then { s1 with bus := { s1.bus with late := s1.bus.late ++ [w] } } else if u = 1 then landWord w s1 else s1)
    { s with bus := { s.bus with late := [] } }

/-- BUS_TIMEOUT: the target does not answer within BMX.CTRL.TIMEOUT. The access ends with an error and one log entry; a write may take
effect in its target, in this step as `lands` says or in a later beat. An access that is refused, or that a page header answers, does
not time out: it ends as it does without this event. -/
def execBusTimeout (t : Tag) (a : Addr) (wr : Bool) (sh : Shape) (lands : Bool) (s : State) : Host.Outcome State Fault Refusal :=
  .next (if s.lost t (tagNum t) then s
    else if !s.mayTimeOut t a.toNat wr sh then (if wr then regWrite t a.toNat sh s else regRead t a.toNat (readOf sh) s)
    else
      let x : Access := ⟨t, tagNum t, a.toNat, shapeSize sh, shapeBurst sh, wr, 0⟩
      let s1 := ((((s.noteDebug t).dropHolds x.master x.page).logErr x .timeout)).respond x true 0
      if wr then s1.afterTimeout (s.lateWords t a.toNat sh) lands else s1)

end Sys2Proof.Machine
end

