-- ==== Sys2Proof/Machine/FoleyExt.lean ====
section
/-!
DEFINITION. Machine/FoleyExt.lean: EXT, the access of a foley core to the control address space (R324).
-/
namespace Sys2Proof.Machine

/-- Number of a foley core's master at the bus matrix: it is none of the host's. -/
def folMaster (c : Nat) : Nat := 100 + c

/-- An EXT access through the HBM window: whether it ends in error, and its value. -/
def extHbm (t : Tag) (x : Access) (s : State) : (Bool × Word) × State :=
  let w := hbmOff x.addr
  match s.winRefusal t w 4 x.wr true with
  | some c => ((true, 0), s.logErr x c)
  | none =>
    if x.wr then ((false, 0), s.memPut (s.winAddr t w) 4 x.data) else ((false, wd (s.memGet (s.winAddr t w) 4)), s)

/-- An EXT write to a register: whether it ends in error. -/
def extWrite (x : Access) (s : State) : Bool × State :=
  let bad := (((s.noteDebug x.tag).dropHolds x.master x.page).refusal x).isSome
  (bad, busWord x s)

/-- The access of EXT: its address, data and direction, as the core's registers give them. -/
def extAccess (owner c : Nat) (r : FolRec) (w : Nat) : Access :=
  let addr := (r.dReg (iw w 53 3)).toNat % 2 ^ 28
  ⟨.p (Fin.ofNat 16 owner), folMaster c, addr, 2, false, iw w 59 1 == 1, (r.dReg (iw w 56 3)).toNat % 2 ^ 32⟩

/-- The cycles that a core stalls until the response arrives: the spec gives no number, so a free value (R324; log entry 183). -/
def State.extStall (s : State) (c : Nat) : State :=
  let (n, s1) := s.fresh 32
  s1.setFol c { s1.folRec c with cyc := (s1.folRec c).cyc + n }

/-- The core after the access: an error raises EXT; else a read sets Dk, with bits 35:32 at 0, and the core goes on. A core that its
own access has stopped stays as that left it. -/
def extFinish (c : Nat) (x : Access) (dk : Nat) (err : Bool) (v : Word) (s0 : State) : State :=
  let s := s0.extStall c
  if !s.folRuns c then s0
  else if err then s.folExc c 3 0
  else
    let r := s.folRec c
    s.setFol c ((if x.wr then r else r.setD dk (BitVec.ofNat 36 v.toNat)).done)

/-- The access itself: answered, or timed out (R53), in which case a write may take effect later, as the operand says. -/
def extRun (c : Nat) (x : Access) (dk : Nat) (timeout : Option Bool) (s : State) : State :=
  let sh : Shape := .one 32 (BitVec.ofNat 64 x.data)
  match timeout with
  | some lands =>
    if s.mayTimeOut x.tag x.addr x.wr sh then
      let s1 := (s.dropHolds x.master x.page).logErr x .timeout
      extFinish c x dk true 0 (if x.wr then s1.afterTimeout (s.lateWords x.tag x.addr sh) lands else s1)
    else s
  | none =>
    if isHbm x.addr then
      let ((e, v), s1) := extHbm x.tag x s
      extFinish c x dk e v s1
    else if x.wr then
      let (e, s1) := extWrite x s
      extFinish c x dk e 0 s1
    else
      let ((e, v), s1) := busRead x.tag x.master x.addr s
      extFinish c x dk e v s1

/-- EXT. The access carries the tag of the page's owner (R56). -/
def execFoExt (c : Fin 64) (timeout : Option Bool) (s : State) : Host.Outcome State Fault Refusal :=
  .next (folIssue c 224 (fun w r =>
    .own (extRun c (extAccess (s.pageOwner (pFol c)) c r w) (iw w 56 3) timeout s)) s)

end Sys2Proof.Machine
end

