-- ==== Sys2Proof/Machine/Beat.lean ====
section
/-!
DEFINITION. Machine/Beat.lean: one period of the beat clock (R10): what every unit does in it, from the time bases down the signal path.
-/
namespace Sys2Proof.Machine

/-- One fabric beat. -/
def State.beatStep (s : State) : State :=
  let s1 := { s with beat := s.beat + 1 }
  let s2 := s1.timeBeat.fabricBeat.takeBeat.longBeat.recordBeat.playBeat
  s2.egressBeat.txBeat.monBeat.checkBeat.fecBeat.fltBeat.farrierBeat.lateBeat

/-- FABRIC_BEAT. -/
def execFabricBeat (s : State) : Host.Outcome State Fault Refusal := .next s.beatStep

end Sys2Proof.Machine
end

