-- ==== Sys2Proof/Machine/Dispatch.lean ====
section
/-!
DEFINITION. Machine/Dispatch.lean: one arm per command.
-/
namespace Sys2Proof.Machine

/-- The effect of a command on everything but the queue of waiting commands. -/
def exec (i : Instr) (s : State) : Host.Outcome State Fault Refusal :=
  match i with
  | .resetN => Sys2Proof.Machine.execResetN s
  | .perstN => Sys2Proof.Machine.execPerstN s
  | .powerLoss => Sys2Proof.Machine.execPowerLoss s
  | .managementWarmReset => Sys2Proof.Machine.execManagementWarmReset s
  | .registerWrite t a sh => Sys2Proof.Machine.execRegisterWrite t a sh s
  | .pairLowerRead t a sh => Sys2Proof.Machine.execPairLowerRead t a sh s
  | .pairLowerWrite t a d => Sys2Proof.Machine.execPairLowerWrite t a d s
  | .pairUpperWrite t a d => Sys2Proof.Machine.execPairUpperWrite t a d s
  | .busTimeout t a wr sh lands => Sys2Proof.Machine.execBusTimeout t a wr sh lands s
  | .pageOwnerWrite t pg owner => Sys2Proof.Machine.execPageOwnerWrite t pg owner s
  | .pageLock t pg => Sys2Proof.Machine.execPageLock t pg s
  | .pageUnlock t pg => Sys2Proof.Machine.execPageUnlock t pg s
  | .tableRead t pg ainc => Sys2Proof.Machine.execTableRead t pg ainc s
  | .tableWrite t pg ainc => Sys2Proof.Machine.execTableWrite t pg ainc s
  | .tableOpDone pg bank => Sys2Proof.Machine.execTableOpDone pg bank s
  | .resultRequest t pg => Sys2Proof.Machine.execResultRequest t pg s
  | .resultComplete pg bank meas => Sys2Proof.Machine.execResultComplete pg bank meas s
  | .snapshot t pg => Sys2Proof.Machine.execSnapshot t pg s
  | .flrVf n => Sys2Proof.Machine.execFlrVf n s
  | .flrPf => Sys2Proof.Machine.execFlrPf s
  | .vfEnableClear => Sys2Proof.Machine.execVfEnableClear s
  | .queueEnable t q rx => Sys2Proof.Machine.execQueueEnable t q rx s
  | .queueDisable t q rx => Sys2Proof.Machine.execQueueDisable t q rx s
  | .queueDrainDone q rx => Sys2Proof.Machine.execQueueDrainDone q rx s
  | .qTailWrite t q rx tail => Sys2Proof.Machine.execQTailWrite t q rx tail s
  | .descriptorFetch q rx d hdr => Sys2Proof.Machine.execDescriptorFetch q rx d hdr s
  | .descriptorComplete q rx r => Sys2Proof.Machine.execDescriptorComplete q rx r s
  | .msixDeliver p cause w => Sys2Proof.Machine.execMsixDeliver p cause w s
  | .interruptHoldoffExpire q rx => Sys2Proof.Machine.execInterruptHoldoffExpire q rx s
  | .laneStart t b => Sys2Proof.Machine.execLaneStart t b s
  | .laneStop t b => Sys2Proof.Machine.execLaneStop t b s
  | .laneRetrain t b mask => Sys2Proof.Machine.execLaneRetrain t b mask s
  | .laneShed t b mask => Sys2Proof.Machine.execLaneShed t b mask s
  | .laneBlkCfgWrite t b d => Sys2Proof.Machine.execLaneBlkCfgWrite t b d s
  | .laneDisable t l => Sys2Proof.Machine.execLaneDisable t l s
  | .signalDetect l => Sys2Proof.Machine.execSignalDetect l s
  | .trainingFrame l ctl sts clean snr => Sys2Proof.Machine.execTrainingFrame l ctl sts clean snr s
  | .tapTimeout l => Sys2Proof.Machine.execTapTimeout l s
  | .stepUpLock l => Sys2Proof.Machine.execStepUpLock l s
  | .trainTimeout l => Sys2Proof.Machine.execTrainTimeout l s
  | .laneHoldExpire l => Sys2Proof.Machine.execLaneHoldExpire l s
  | .lossOfLock l => Sys2Proof.Machine.execLossOfLock l s
  | .snrLow l snr => Sys2Proof.Machine.execSnrLow l snr s
  | .seqLoaded b => Sys2Proof.Machine.execSeqLoaded b s
  | .seqFault b => Sys2Proof.Machine.execSeqFault b s
  | .prbsGenWrite t l d => Sys2Proof.Machine.execPrbsGenWrite t l d s
  | .checkerLock l => Sys2Proof.Machine.execCheckerLock l s
  | .checkerUnlock l => Sys2Proof.Machine.execCheckerUnlock l s
  | .injectGo t l d => Sys2Proof.Machine.execInjectGo t l d s
  | .injectRateError l => Sys2Proof.Machine.execInjectRateError l s
  | .eyeRequest t b => Sys2Proof.Machine.execEyeRequest t b s
  | .txCoefWrite t l d => Sys2Proof.Machine.execTxCoefWrite t l d s
  | .txCoefApply l => Sys2Proof.Machine.execTxCoefApply l s
  | .portBlkCfgWrite t b d => Sys2Proof.Machine.execPortBlkCfgWrite t b d s
  | .portEthCfgWrite t b d => Sys2Proof.Machine.execPortEthCfgWrite t b d s
  | .ethLinkUp b p ability => Sys2Proof.Machine.execEthLinkUp b p ability s
  | .ethLinkDown b p => Sys2Proof.Machine.execEthLinkDown b p s
  | .lpiEnter b p => Sys2Proof.Machine.execLpiEnter b p s
  | .lpiExit b p => Sys2Proof.Machine.execLpiExit b p s
  | .macsecTxFrame b p etype => Sys2Proof.Machine.execMacsecTxFrame b p etype s
  | .epvFrameReceive b l f => Sys2Proof.Machine.execEpvFrameReceive b l f s
  | .epvFrameSend b => Sys2Proof.Machine.execEpvFrameSend b s
  | .mapSwap t b => Sys2Proof.Machine.execMapSwap t b s
  | .rejoin t b => Sys2Proof.Machine.execRejoin t b s
  | .packetArrive k => Sys2Proof.Machine.execPacketArrive k s
  | .sdiEav ei e => Sys2Proof.Machine.execSdiEav ei e s
  | .trsTimeout ei => Sys2Proof.Machine.execTrsTimeout ei s
  | .unitPresent ei => Sys2Proof.Machine.execUnitPresent ei s
  | .hostUnitLaunch q body => Sys2Proof.Machine.execHostUnitLaunch q body s
  | .mergePlaneDown ei slot planeB => Sys2Proof.Machine.execMergePlaneDown ei slot planeB s
  | .ingCut t sl k d => Sys2Proof.Machine.execIngCut t sl k d s
  | .ingCutClr t sl k d => Sys2Proof.Machine.execIngCutClr t sl k d s
  | .padDWrite t sl n d => Sys2Proof.Machine.execPadDWrite t sl n d s
  | .fabricSwap => Sys2Proof.Machine.execFabricSwap s
  | .moveStart m => Sys2Proof.Machine.execMoveStart m s
  | .moveCompare id same => Sys2Proof.Machine.execMoveCompare id same s
  | .creditMiss fs lag => Sys2Proof.Machine.execCreditMiss fs lag s
  | .slowClear fs => Sys2Proof.Machine.execSlowClear fs s
  | .sliceStall fs => Sys2Proof.Machine.execSliceStall fs s
  | .midOutWrite t d => Sys2Proof.Machine.execMidOutWrite t d s
  | .midReturn t d => Sys2Proof.Machine.execMidReturn t d s
  | .islandDegraded isl dv dt nb => Sys2Proof.Machine.execIslandDegraded isl dv dt nb s
  | .degradedClear isl => Sys2Proof.Machine.execDegradedClear isl s
  | .commit t timing count => Sys2Proof.Machine.execCommit t timing count s
  | .strike t => Sys2Proof.Machine.execStrike t s
  | .strikeFrom t => Sys2Proof.Machine.execStrikeFrom t s
  | .stop t timing count => Sys2Proof.Machine.execStop t timing count s
  | .stopPart t timing => Sys2Proof.Machine.execStopPart t timing s
  | .clear t => Sys2Proof.Machine.execClear t s
  | .rehearsalWindow x => Sys2Proof.Machine.execRehearsalWindow x s
  | .rehearsalDone x plan => Sys2Proof.Machine.execRehearsalDone x plan s
  | .armGrant x => Sys2Proof.Machine.execArmGrant x s
  | .memberCommit x mi => Sys2Proof.Machine.execMemberCommit x mi s
  | .anyfmtSwap x mi => Sys2Proof.Machine.execAnyfmtSwap x mi s
  | .noSwp x mi => Sys2Proof.Machine.execNoSwp x mi s
  | .takeQueryRoute t out => Sys2Proof.Machine.execTakeQueryRoute t out s
  | .takeQueryTag t tag => Sys2Proof.Machine.execTakeQueryTag t tag s
  | .firmwareReady => Sys2Proof.Machine.execFirmwareReady s
  | .fsFrameComplete f => Sys2Proof.Machine.execFsFrameComplete f s
  | .fsDecision f => Sys2Proof.Machine.execFsDecision f s
  | .recStart t port => Sys2Proof.Machine.execRecStart t port s
  | .recStop t port => Sys2Proof.Machine.execRecStop t port s
  | .play t port => Sys2Proof.Machine.execPlay t port s
  | .pause t port => Sys2Proof.Machine.execPause t port s
  | .playoutStop t port => Sys2Proof.Machine.execPlayoutStop t port s
  | .reelCmdEffect isPlay port => Sys2Proof.Machine.execReelCmdEffect isPlay port s
  | .recordFrame port => Sys2Proof.Machine.execRecordFrame port s
  | .playoutFrame port => Sys2Proof.Machine.execPlayoutFrame port s
  | .hbmLineComplete u late ecc => Sys2Proof.Machine.execHbmLineComplete u late ecc s
  | .hbmWindowAccess t a wr sh => Sys2Proof.Machine.execHbmWindowAccess t a wr sh s
  | .hbmTrained h ok => Sys2Proof.Machine.execHbmTrained h ok s
  | .hbmFail h throttled => Sys2Proof.Machine.execHbmFail h throttled s
  | .packetDepart eo slot => Sys2Proof.Machine.execPacketDepart eo slot s
  | .egressFailover b p remote => Sys2Proof.Machine.execEgressFailover b p remote s
  | .egressRevert b p => Sys2Proof.Machine.execEgressRevert b p s
  | .audioBlock tb hi96 ins bufs => Sys2Proof.Machine.execAudioBlock tb hi96 ins bufs s
  | .audCommit t timing count => Sys2Proof.Machine.execAudCommit t timing count s
  | .audStrike t => Sys2Proof.Machine.execAudStrike t s
  | .audStop t timing count => Sys2Proof.Machine.execAudStop t timing count s
  | .audClear t => Sys2Proof.Machine.execAudClear t s
  | .audArmGrant x => Sys2Proof.Machine.execAudArmGrant x s
  | .audMemberCommit x mi => Sys2Proof.Machine.execAudMemberCommit x mi s
  | .audQueryRoute t ch => Sys2Proof.Machine.execAudQueryRoute t ch s
  | .audQueryPeak t ch => Sys2Proof.Machine.execAudQueryPeak t ch s
  | .audQueryTag t tag => Sys2Proof.Machine.execAudQueryTag t tag s
  | .tdmStop p => Sys2Proof.Machine.execTdmStop p s
  | .foleyExchangeIn c => Sys2Proof.Machine.execFoleyExchangeIn c s
  | .foleyExchangeOut c => Sys2Proof.Machine.execFoleyExchangeOut c s
  | .foleyDeadline c => Sys2Proof.Machine.execFoleyDeadline c s
  | .foleyOverrun c => Sys2Proof.Machine.execFoleyOverrun c s
  | .folStart t c => Sys2Proof.Machine.execFolStart t c s
  | .folStop t c => Sys2Proof.Machine.execFolStop t c s
  | .folSpare t c => Sys2Proof.Machine.execFolSpare t c s
  | .folRelease t c => Sys2Proof.Machine.execFolRelease t c s
  | .folMove t c => Sys2Proof.Machine.execFolMove t c s
  | .coreMoveHalt c => Sys2Proof.Machine.execCoreMoveHalt c s
  | .coreMoveResume c => Sys2Proof.Machine.execCoreMoveResume c s
  | .foMpy c => Sys2Proof.Machine.execFoMpy c s
  | .foMac c => Sys2Proof.Machine.execFoMac c s
  | .foMsu c => Sys2Proof.Machine.execFoMsu c s
  | .foClr c => Sys2Proof.Machine.execFoClr c s
  | .foAdd c => Sys2Proof.Machine.execFoAdd c s
  | .foSub c => Sys2Proof.Machine.execFoSub c s
  | .foNeg c => Sys2Proof.Machine.execFoNeg c s
  | .foAbs c => Sys2Proof.Machine.execFoAbs c s
  | .foMax c => Sys2Proof.Machine.execFoMax c s
  | .foMin c => Sys2Proof.Machine.execFoMin c s
  | .foAsl c => Sys2Proof.Machine.execFoAsl c s
  | .foAsr c => Sys2Proof.Machine.execFoAsr c s
  | .foAnd c => Sys2Proof.Machine.execFoAnd c s
  | .foOr c => Sys2Proof.Machine.execFoOr c s
  | .foXor c => Sys2Proof.Machine.execFoXor c s
  | .foMova c => Sys2Proof.Machine.execFoMova c s
  | .foAddd c => Sys2Proof.Machine.execFoAddd c s
  | .foMovd c => Sys2Proof.Machine.execFoMovd c s
  | .foMovda c => Sys2Proof.Machine.execFoMovda c s
  | .foSetlo c => Sys2Proof.Machine.execFoSetlo c s
  | .foSethi c => Sys2Proof.Machine.execFoSethi c s
  | .foFir c => Sys2Proof.Machine.execFoFir c s
  | .foFird c => Sys2Proof.Machine.execFoFird c s
  | .foSmax c => Sys2Proof.Machine.execFoSmax c s
  | .foSmin c => Sys2Proof.Machine.execFoSmin c s
  | .foSmaxa c => Sys2Proof.Machine.execFoSmaxa c s
  | .foSmina c => Sys2Proof.Machine.execFoSmina c s
  | .foLd c => Sys2Proof.Machine.execFoLd c s
  | .foSt c => Sys2Proof.Machine.execFoSt c s
  | .foLda c => Sys2Proof.Machine.execFoLda c s
  | .foSta c => Sys2Proof.Machine.execFoSta c s
  | .foStah c => Sys2Proof.Machine.execFoStah c s
  | .foLdi c => Sys2Proof.Machine.execFoLdi c s
  | .foLdp c => Sys2Proof.Machine.execFoLdp c s
  | .foNop c => Sys2Proof.Machine.execFoNop c s
  | .foBra c => Sys2Proof.Machine.execFoBra c s
  | .foBcc c => Sys2Proof.Machine.execFoBcc c s
  | .foCall c => Sys2Proof.Machine.execFoCall c s
  | .foRet c => Sys2Proof.Machine.execFoRet c s
  | .foLoop c => Sys2Proof.Machine.execFoLoop c s
  | .foLoopd c => Sys2Proof.Machine.execFoLoopd c s
  | .foLeave c => Sys2Proof.Machine.execFoLeave c s
  | .foWaitblk c => Sys2Proof.Machine.execFoWaitblk c s
  | .foDone c => Sys2Proof.Machine.execFoDone c s
  | .foRte c => Sys2Proof.Machine.execFoRte c s
  | .foHalt c => Sys2Proof.Machine.execFoHalt c s
  | .foTrap c => Sys2Proof.Machine.execFoTrap c s
  | .foMovm c => Sys2Proof.Machine.execFoMovm c s
  | .foMovmd c => Sys2Proof.Machine.execFoMovmd c s
  | .foRdm c => Sys2Proof.Machine.execFoRdm c s
  | .foRds c => Sys2Proof.Machine.execFoRds c s
  | .foWrs c => Sys2Proof.Machine.execFoWrs c s
  | .foExt c timeout => Sys2Proof.Machine.execFoExt c timeout s
  | .headDecision h => Sys2Proof.Machine.execHeadDecision h s
  | .layerPictureComplete l pic => Sys2Proof.Machine.execLayerPictureComplete l pic s
  | .setRate t tb => Sys2Proof.Machine.execSetRate t tb s
  | .slew t tb => Sys2Proof.Machine.execSlew t tb s
  | .stepTime t tb => Sys2Proof.Machine.execStepTime t tb s
  | .setTime t tb => Sys2Proof.Machine.execSetTime t tb s
  | .ptpMessageReceive m => Sys2Proof.Machine.execPtpMessageReceive m s
  | .ptpSync tb offset mpd gm utc rate => Sys2Proof.Machine.execPtpSync tb offset mpd gm utc rate s
  | .ptpAnnounceTimeout tb => Sys2Proof.Machine.execPtpAnnounceTimeout tb s
  | .comparatorFire k => Sys2Proof.Machine.execComparatorFire k s
  | .timeCapture t => Sys2Proof.Machine.execTimeCapture t s
  | .candMissingEdge c => Sys2Proof.Machine.execCandMissingEdge c s
  | .candFreqWindow c ppb => Sys2Proof.Machine.execCandFreqWindow c ppb s
  | .candQualified c => Sys2Proof.Machine.execCandQualified c s
  | .candWtrExpire c => Sys2Proof.Machine.execCandWtrExpire c s
  | .dpllLock d => Sys2Proof.Machine.execDpllLock d s
  | .dpllLockLost d => Sys2Proof.Machine.execDpllLockLost d s
  | .holdoverHistory d => Sys2Proof.Machine.execHoldoverHistory d s
  | .clkMapWrite t d => Sys2Proof.Machine.execClkMapWrite t d s
  | .beacon b => Sys2Proof.Machine.execBeacon b s
  | .beaconMissing => Sys2Proof.Machine.execBeaconMissing s
  | .joinAck uid node => Sys2Proof.Machine.execJoinAck uid node s
  | .joinTimeout => Sys2Proof.Machine.execJoinTimeout s
  | .rejectWaitExpire => Sys2Proof.Machine.execRejectWaitExpire s
  | .gbusTransmit slot fw collide => Sys2Proof.Machine.execGbusTransmit slot fw collide s
  | .gbusDataReceive src dst len crcOk => Sys2Proof.Machine.execGbusDataReceive src dst len crcOk s
  | .gbusPause m us => Sys2Proof.Machine.execGbusPause m us s
  | .gbusResume m => Sys2Proof.Machine.execGbusResume m s
  | .pauseExpire m => Sys2Proof.Machine.execPauseExpire m s
  | .pauseWatchdog m => Sys2Proof.Machine.execPauseWatchdog m s
  | .pauseIgnoreExpire m => Sys2Proof.Machine.execPauseIgnoreExpire m s
  | .lpiReq => Sys2Proof.Machine.execLpiReq s
  | .gbusWakeTone => Sys2Proof.Machine.execGbusWakeTone s
  | .gbusWakeTimeout => Sys2Proof.Machine.execGbusWakeTimeout s
  | .derive t => Sys2Proof.Machine.execDerive t s
  | .loadKek t => Sys2Proof.Machine.execLoadKek t s
  | .importKey t => Sys2Proof.Machine.execImportKey t s
  | .sign t => Sys2Proof.Machine.execSign t s
  | .check t => Sys2Proof.Machine.execCheck t s
  | .invalidate t => Sys2Proof.Machine.execInvalidate t s
  | .newEpoch t => Sys2Proof.Machine.execNewEpoch t s
  | .sealDebug t => Sys2Proof.Machine.execSealDebug t s
  | .rma t => Sys2Proof.Machine.execRma t s
  | .keyConfirm t code => Sys2Proof.Machine.execKeyConfirm t code s
  | .zeroingDone => Sys2Proof.Machine.execZeroingDone s
  | .maskRefresh => Sys2Proof.Machine.execMaskRefresh s
  | .entropyFail => Sys2Proof.Machine.execEntropyFail s
  | .tamper => Sys2Proof.Machine.execTamper s
  | .measSeal keyDig manDig rev => Sys2Proof.Machine.execMeasSeal keyDig manDig rev s
  | .debugAccess a => Sys2Proof.Machine.execDebugAccess a s
  | .start v => Sys2Proof.Machine.execStart v s
  | .mgtReady => Sys2Proof.Machine.execMgtReady s
  | .startFail reason stepNo => Sys2Proof.Machine.execStartFail reason stepNo s
  | .managementWatchdog => Sys2Proof.Machine.execManagementWatchdog s
  | .warm t => Sys2Proof.Machine.execWarm t s
  | .loadBegin t slot => Sys2Proof.Machine.execLoadBegin t slot s
  | .loadEnd t slot => Sys2Proof.Machine.execLoadEnd t slot s
  | .loadAbort t slot => Sys2Proof.Machine.execLoadAbort t slot s
  | .activate t slot => Sys2Proof.Machine.execActivate t slot s
  | .accept t => Sys2Proof.Machine.execAccept t s
  | .revert t => Sys2Proof.Machine.execRevert t s
  | .recover t slot => Sys2Proof.Machine.execRecover t slot s
  | .acceptWindowEnd => Sys2Proof.Machine.execAcceptWindowEnd s
  | .settingsRead t pg => Sys2Proof.Machine.execSettingsRead t pg s
  | .settingsWrite t pg => Sys2Proof.Machine.execSettingsWrite t pg s
  | .faultOccurrence hw self => Sys2Proof.Machine.execFaultOccurrence hw self s
  | .blockRestored pg inst => Sys2Proof.Machine.execBlockRestored pg inst s
  | .faultAck t d => Sys2Proof.Machine.execFaultAck t d s
  | .selftest t => Sys2Proof.Machine.execSelftest t s
  | .selftestDone bad agree => Sys2Proof.Machine.execSelftestDone bad agree s
  | .release t => Sys2Proof.Machine.execRelease t s
  | .farrierMeasure l bits errs snr vlow vmid vup hmin locked => Sys2Proof.Machine.execFarrierMeasure l bits errs snr vlow vmid vup hmin locked s
  | .healthReport => Sys2Proof.Machine.execHealthReport s
  | .latencyBudgetWrite t d => Sys2Proof.Machine.execLatencyBudgetWrite t d s
  | .powerEvaluate => Sys2Proof.Machine.execPowerEvaluate s
  | .holdExpire => Sys2Proof.Machine.execHoldExpire s
  | .stateEntryComplete => Sys2Proof.Machine.execStateEntryComplete s
  | .wake code b lastCycles => Sys2Proof.Machine.execWake code b lastCycles s
  | .wakeExitDone inTime => Sys2Proof.Machine.execWakeExitDone inTime s
  | .clapGo t d => Sys2Proof.Machine.execClapGo t d s
  | .gateWrite t reg d => Sys2Proof.Machine.execGateWrite t reg d s
  | .throttleStep isl temp => Sys2Proof.Machine.execThrottleStep isl temp s
  | .thermalTrip sensor => Sys2Proof.Machine.execThermalTrip sensor s
  | .fabricBeat => Sys2Proof.Machine.execFabricBeat s
  | .candidateEdge c => Sys2Proof.Machine.execCandidateEdge c s
  | .receiverLock l snr => Sys2Proof.Machine.execReceiverLock l snr s
  | .relockTimeout l => Sys2Proof.Machine.execRelockTimeout l s
  | .perstNRelease => Sys2Proof.Machine.execPerstNRelease s
  | .pcieLinkChange up => Sys2Proof.Machine.execPcieLinkChange up s
  | .conditionEnd src => Sys2Proof.Machine.execConditionEnd src s
  | .autoPauseLimit => Sys2Proof.Machine.execAutoPauseLimit s
  | .entropyRestored => Sys2Proof.Machine.execEntropyRestored s
  | .trialHealthTimeout => Sys2Proof.Machine.execTrialHealthTimeout s
  | .updateCommandDone v => Sys2Proof.Machine.execUpdateCommandDone v s
  | .clapEnd => Sys2Proof.Machine.execClapEnd s

end Sys2Proof.Machine
end

