-- ==== Sys2Proof/WellFormed.lean ====
section
/-!
DEFINITION. WellFormed.lean: what a command's operands may be, beyond the ranges that their types give. The machine gives every
command a next state; these are the commands that the part's pins, lanes and hosts can send.
-/
namespace Sys2Proof

/-- An access has a width that the bus matrix knows, and data of that width; a burst has words (R49, R51). -/
def shapeOk (sh : Shape) : Bool :=
  match sh with
  | .one bits d => (bits == 8 || bits == 16 || bits == 32 || bits == 64) && decide (d.toNat < 2 ^ bits)
  | .burst ws => !ws.isEmpty

/-- A read has a width that the bus matrix knows; a burst has words (R49, R51). -/
def readShapeOk (sh : ReadShape) : Bool :=
  match sh with
  | .one bits => bits == 8 || bits == 16 || bits == 32 || bits == 64
  | .burst n => decide (n ≠ 0)

/-- An ancillary packet has at most 255 user data words (R26). -/
def ancOk (a : AncPacket) : Bool := decide (a.udw.length ≤ 255)

/-- The ancillary packets of a payload, and the samples of a PCM bundle, of 16, 20 or 24 bits (R23). -/
def payloadOk (b : Payload) : Bool :=
  match b with
  | .anc ps => ps.all ancOk
  | .raster _ => true
  | .pcm bits ps => (bits == 16 || bits == 20 || bits == 24) && ps.all fun l => l.all fun v => decide (v.toNat < 2 ^ bits)
  | .aes3 _ => true
  | .opaque _ => true
  | .sdi => true

/-- A frame has 16 header words, and its runs of payload words lie within its 4096 words (R121, R122). -/
def frameOk (f : EpvFrame) : Bool := f.hdr.length == 16 && f.payload.all fun a => decide (a.1 + a.2.length ≤ 4096)

/-- A path names a fabric input, a layer and a channel that exist (R174, R176). -/
def pathOk (p : Path) : Bool := decide (p.src < 4352 ∧ p.layer < 3 ∧ p.chan < 144)

/-- The parts of a move. -/
def partShapeOk (p : MovePart) : Bool := pathOk p.old && pathOk p.new && p.outs.all fun y => decide (y < 4608)
def moveOk (m : MoveReq) : Bool :=
  match m with
  | .scheduled _ => true
  | .evacuate chain => chain.all fun ps => ps.all partShapeOk

/-- A placement. -/
def planShapeOk (p : Option Plan) : Bool :=
  match p with
  | none => true
  | some pl => (pl.members.all fun l => l.all pathOk) && pl.moves.all fun m => m.2.all partShapeOk

/-- The source of a forced removal exists: a fabric input, or an audio input block (R59). -/
def txOk (x : TxId) : Bool :=
  match x with
  | .cmd _ _ => true
  | .forced src _ => decide (src < 4352)
def audTxOk (x : TxId) : Bool :=
  match x with
  | .cmd _ _ => true
  | .forced src _ => decide (src < 256)

/-- Whether a command is well-formed. -/
def Instr.wf (i : Instr) : Bool :=
  match i with
  | .resetN => true
  | .perstN => true
  | .powerLoss => true
  | .managementWarmReset => true
  | .registerWrite _ _ sh => shapeOk sh
  | .pairLowerRead _ _ sh => readShapeOk sh
  | .pairLowerWrite _ a _ => decide (a.toNat % 8 = 0)
  | .pairUpperWrite _ a _ => decide (a.toNat % 8 = 4)
  | .busTimeout _ _ wr sh lands => shapeOk sh && (wr || !lands)
  | .pageOwnerWrite _ _ _ => true
  | .pageLock _ _ => true
  | .pageUnlock _ _ => true
  | .tableRead _ _ _ => true
  | .tableWrite _ _ _ => true
  | .tableOpDone _ _ => true
  | .resultRequest _ _ => true
  | .resultComplete _ _ _ => true
  | .snapshot _ _ => true
  | .flrVf n => decide (n.val ≠ 0)
  | .flrPf => true
  | .vfEnableClear => true
  | .queueEnable _ _ _ => true
  | .queueDisable _ _ _ => true
  | .queueDrainDone _ _ => true
  | .qTailWrite _ _ _ _ => true
  | .descriptorFetch _ _ _ _ => true
  | .descriptorComplete _ _ _ => true
  | .msixDeliver _ cause _ => decide (cause.val < 197)
  | .interruptHoldoffExpire _ _ => true
  | .laneStart _ _ => true
  | .laneStop _ _ => true
  | .laneRetrain _ _ _ => true
  | .laneShed _ _ _ => true
  | .laneBlkCfgWrite _ _ _ => true
  | .laneDisable _ _ => true
  | .signalDetect _ => true
  | .trainingFrame _ _ _ _ _ => true
  | .tapTimeout _ => true
  | .stepUpLock _ => true
  | .trainTimeout _ => true
  | .laneHoldExpire _ => true
  | .lossOfLock _ => true
  | .snrLow _ _ => true
  | .seqLoaded _ => true
  | .seqFault _ => true
  | .prbsGenWrite _ _ _ => true
  | .checkerLock _ => true
  | .checkerUnlock _ => true
  | .injectGo _ _ _ => true
  | .injectRateError _ => true
  | .eyeRequest _ _ => true
  | .txCoefWrite _ _ _ => true
  | .txCoefApply _ => true
  | .portBlkCfgWrite _ _ _ => true
  | .portEthCfgWrite _ _ _ => true
  | .ethLinkUp _ _ _ => true
  | .ethLinkDown _ _ => true
  | .lpiEnter _ _ => true
  | .lpiExit _ _ => true
  | .macsecTxFrame _ _ _ => true
  | .epvFrameReceive _ _ f => frameOk f
  | .epvFrameSend _ => true
  | .mapSwap _ _ => true
  | .rejoin _ _ => true
  | .packetArrive k => payloadOk k.body
  | .sdiEav _ e => e.anc.all fun a => ancOk a.1
  | .trsTimeout _ => true
  | .unitPresent _ => true
  | .hostUnitLaunch _ body => payloadOk body
  | .mergePlaneDown _ _ _ => true
  | .ingCut _ _ _ _ => true
  | .ingCutClr _ _ _ _ => true
  | .padDWrite _ _ _ _ => true
  | .fabricSwap => true
  | .moveStart m => moveOk m
  | .moveCompare _ _ => true
  | .creditMiss _ _ => true
  | .slowClear _ => true
  | .sliceStall _ => true
  | .midOutWrite _ _ => true
  | .midReturn _ _ => true
  | .islandDegraded _ _ _ _ => true
  | .degradedClear _ => true
  | .commit _ _ count => decide (count.toNat ≤ 4096)
  | .strike _ => true
  | .strikeFrom _ => true
  | .stop _ _ count => decide (count.toNat ≤ 4096)
  | .stopPart _ _ => true
  | .clear _ => true
  | .rehearsalWindow x => txOk x
  | .rehearsalDone x plan => txOk x && planShapeOk plan
  | .armGrant x => txOk x
  | .memberCommit x i => txOk x && decide (i < 4096)
  | .anyfmtSwap x i => txOk x && decide (i < 4096)
  | .noSwp x i => txOk x && decide (i < 4096)
  | .takeQueryRoute _ _ => true
  | .takeQueryTag _ _ => true
  | .firmwareReady => true
  | .fsFrameComplete _ => true
  | .fsDecision _ => true
  | .recStart _ _ => true
  | .recStop _ _ => true
  | .play _ _ => true
  | .pause _ _ => true
  | .playoutStop _ _ => true
  | .reelCmdEffect _ _ => true
  | .recordFrame _ => true
  | .playoutFrame _ => true
  | .hbmLineComplete _ _ _ => true
  | .hbmWindowAccess _ _ _ sh => shapeOk sh
  | .hbmTrained _ _ => true
  | .hbmFail _ _ => true
  | .packetDepart _ _ => true
  | .egressFailover _ _ _ => true
  | .egressRevert _ _ => true
  | .audioBlock _ hi96 ins bufs =>
    (ins.all fun i => i.samples.length == (if hi96 then 16 else 8)) && bufs.all fun b => decide (b.bytes.length < 65536)
  | .audCommit _ _ count => decide (count.toNat ≤ 4096)
  | .audStrike _ => true
  | .audStop _ _ count => decide (count.toNat ≤ 4096)
  | .audClear _ => true
  | .audArmGrant x => audTxOk x
  | .audMemberCommit x i => audTxOk x && decide (i < 4096)
  | .audQueryRoute _ _ => true
  | .audQueryPeak _ _ => true
  | .audQueryTag _ _ => true
  | .tdmStop _ => true
  | .foleyExchangeIn _ => true
  | .foleyExchangeOut _ => true
  | .foleyDeadline _ => true
  | .foleyOverrun _ => true
  | .folStart _ _ => true
  | .folStop _ _ => true
  | .folSpare _ _ => true
  | .folRelease _ _ => true
  | .folMove _ _ => true
  | .coreMoveHalt _ => true
  | .coreMoveResume _ => true
  | .foMpy _ => true
  | .foMac _ => true
  | .foMsu _ => true
  | .foClr _ => true
  | .foAdd _ => true
  | .foSub _ => true
  | .foNeg _ => true
  | .foAbs _ => true
  | .foMax _ => true
  | .foMin _ => true
  | .foAsl _ => true
  | .foAsr _ => true
  | .foAnd _ => true
  | .foOr _ => true
  | .foXor _ => true
  | .foMova _ => true
  | .foAddd _ => true
  | .foMovd _ => true
  | .foMovda _ => true
  | .foSetlo _ => true
  | .foSethi _ => true
  | .foFir _ => true
  | .foFird _ => true
  | .foSmax _ => true
  | .foSmin _ => true
  | .foSmaxa _ => true
  | .foSmina _ => true
  | .foLd _ => true
  | .foSt _ => true
  | .foLda _ => true
  | .foSta _ => true
  | .foStah _ => true
  | .foLdi _ => true
  | .foLdp _ => true
  | .foNop _ => true
  | .foBra _ => true
  | .foBcc _ => true
  | .foCall _ => true
  | .foRet _ => true
  | .foLoop _ => true
  | .foLoopd _ => true
  | .foLeave _ => true
  | .foWaitblk _ => true
  | .foDone _ => true
  | .foRte _ => true
  | .foHalt _ => true
  | .foTrap _ => true
  | .foMovm _ => true
  | .foMovmd _ => true
  | .foRdm _ => true
  | .foRds _ => true
  | .foWrs _ => true
  | .foExt _ _ => true
  | .headDecision _ => true
  | .layerPictureComplete _ _ => true
  | .setRate _ _ => true
  | .slew _ _ => true
  | .stepTime _ _ => true
  | .setTime _ _ => true
  | .ptpMessageReceive _ => true
  | .ptpSync _ _ _ _ _ _ => true
  | .ptpAnnounceTimeout _ => true
  | .comparatorFire _ => true
  | .timeCapture _ => true
  | .candMissingEdge _ => true
  | .candFreqWindow _ _ => true
  | .candQualified _ => true
  | .candWtrExpire _ => true
  | .dpllLock _ => true
  | .dpllLockLost _ => true
  | .holdoverHistory _ => true
  | .clkMapWrite _ _ => true
  | .beacon b => b.map.length == 240
  | .beaconMissing => true
  | .joinAck _ _ => true
  | .joinTimeout => true
  | .rejectWaitExpire => true
  | .gbusTransmit _ _ _ => true
  | .gbusDataReceive _ _ _ _ => true
  | .gbusPause _ _ => true
  | .gbusResume _ => true
  | .pauseExpire _ => true
  | .pauseWatchdog _ => true
  | .pauseIgnoreExpire _ => true
  | .lpiReq => true
  | .gbusWakeTone => true
  | .gbusWakeTimeout => true
  | .derive _ => true
  | .loadKek _ => true
  | .importKey _ => true
  | .sign _ => true
  | .check _ => true
  | .invalidate _ => true
  | .newEpoch _ => true
  | .sealDebug _ => true
  | .rma _ => true
  | .keyConfirm _ _ => true
  | .zeroingDone => true
  | .maskRefresh => true
  | .entropyFail => true
  | .tamper => true
  | .measSeal _ _ _ => true
  | .debugAccess _ => true
  | .start _ => true
  | .mgtReady => true
  | .startFail _ _ => true
  | .managementWatchdog => true
  | .warm _ => true
  | .loadBegin _ _ => true
  | .loadEnd _ _ => true
  | .loadAbort _ _ => true
  | .activate _ _ => true
  | .accept _ => true
  | .revert _ => true
  | .recover _ _ => true
  | .acceptWindowEnd => true
  | .settingsRead _ _ => true
  | .settingsWrite _ _ => true
  | .faultOccurrence _ _ => true
  | .blockRestored _ _ => true
  | .faultAck _ _ => true
  | .selftest _ => true
  | .selftestDone bad _ => bad.Nodup
  | .release _ => true
  | .farrierMeasure _ _ _ _ _ _ _ _ _ => true
  | .healthReport => true
  | .latencyBudgetWrite _ _ => true
  | .powerEvaluate => true
  | .holdExpire => true
  | .stateEntryComplete => true
  | .wake _ _ _ => true
  | .wakeExitDone _ => true
  | .clapGo _ _ => true
  | .gateWrite _ _ _ => true
  | .throttleStep _ _ => true
  | .thermalTrip _ => true
  | .fabricBeat => true
  | .candidateEdge _ => true
  | .receiverLock _ _ => true
  | .relockTimeout _ => true
  | .perstNRelease => true
  | .pcieLinkChange _ => true
  | .conditionEnd _ => true
  | .autoPauseLimit => true
  | .entropyRestored => true
  | .trialHealthTimeout => true
  | .updateCommandDone _ => true
  | .clapEnd => true

end Sys2Proof
end

