-- ==== Sys2Proof/Safety.lean ====
section
/-!
DEFINITION. Safety.lean: what counts as a safe state and a safe step of the part, in the terms that the statements use.
-/
namespace Sys2Proof.Machine

/-- The stores of the state are in canonical form: registers, table words and the reel store's bytes. -/
def State.canonical (s : State) : Prop :=
  Tab.wf regReset s.regs = true ∧ Tab.wf tblReset s.tbl = true ∧ Tab.wf memZero s.mem = true

/-- Every command that waits is well-formed. -/
def State.queueOk (s : State) : Prop := s.pending.all Instr.wf = true

/-- A step that the part can take: it answers a next state. -/
def State.steps (s : State) : Prop := ∃ s', step s = .next s'

/-- The command completes: exec answers a next state, of which P holds. -/
def State.completes (s : State) (c : Instr) (P : State → Prop) : Prop := ∃ t, exec c s = .next t ∧ P t

/-! ### Accesses at the bus matrix -/

/-- The bus matrix accepts an access: it reaches the matrix and passes the checks of R57. -/
def State.admits (s : State) (x : Access) : Bool :=
  !s.lost x.tag x.master && (((s.noteDebug x.tag).dropHolds x.master x.page).refusal x).isNone

/-- The state in which an accepted write has its effect: the bus matrix has noted the debug port's first access, dropped the
halves held for the master in the page, and counted the write (R36, R47, R50, R63). -/
def State.admitted (s : State) (x : Access) : State :=
  (((s.noteDebug x.tag).dropHolds x.master x.page).countRein x).countWrite x

/-- The write of a word to a register of a page by the host master of a tag. -/
abbrev hostAccess (t : Tag) (pg off : Nat) (d : Word) : Access := .w32 t (regA pg off) d

/-- The writes of a key request: the operation in KEY.REQ, whose other fields stay, and then RES_REQ (R439). -/
def State.keyWrites (s : State) (t : Tag) (op : Nat) : List (Nat × Word) :=
  [(regA pKey 0x050, setFld (s.rd (tagBank t) (regA pKey 0x050)) 0 4 op), (regA pKey 0x080, 1)]

/-- The 32-bit register writes that a host command of the table stands for, in order, with the tag that makes them; none for the
commands that are no such write. -/
def State.hostWrites (s : State) : Instr → Option (Tag × List (Nat × Word))
  | .pageOwnerWrite t pg owner => some (t, [(regA pg 0x00C, wd owner)])
  | .pageLock t pg => some (t, [(regA pg 0x010, 1)])
  | .pageUnlock t pg => some (t, [(regA pg 0x010, 0x80000000)])
  | .tableRead t pg ainc => some (t, [(regA pg 0x1008, wd (if ainc then 5 else 1))])
  | .tableWrite t pg ainc => some (t, [(regA pg 0x1008, wd (if ainc then 7 else 3))])
  | .resultRequest t pg => some (t, [(regA pg 0x080, 1)])
  | .snapshot t pg => some (t, [(regA pg (match pageOf pg with
      | some (k, _) => (snapOff k).getD 0
      | none => 0), 1)])
  | .queueEnable t q rx => some (t, [(qA q rx + 0x08, setBit (s.qCfg q rx) 0 true)])
  | .queueDisable t q rx => some (t, [(qA q rx + 0x08, setBit (s.qCfg q rx) 0 false)])
  | .qTailWrite t q rx tail => some (t, [(qA q rx + 0x0C, wd tail.toNat)])
  | .laneStart t b => some (t, [(laneA b 0x044, 1)])
  | .laneStop t b => some (t, [(laneA b 0x044, 2)])
  | .laneRetrain t b mask => some (t, [(laneA b 0x044, wd (mask.toNat * 256))])
  | .laneShed t b mask => some (t, [(laneA b 0x044, wd (mask.toNat * 65536))])
  | .laneBlkCfgWrite t b d => some (t, [(laneA b 0x040, d)])
  | .laneDisable t l => some (t, [(lnA l 0x00, setBit (s.rd 0 (lnA l 0x00)) 0 false)])
  | .prbsGenWrite t l d => some (t, [(lnA l 0x14, d)])
  | .injectGo t l d => some (t, [(lnA l 0x1C, setBit d 31 true)])
  | .eyeRequest t b => some (t, [(laneA b 0x080, 1)])
  | .portBlkCfgWrite t b d => some (t, [(portA b 0x040, d)])
  | .portEthCfgWrite t b d => some (t, [(portA b 0x054, d)])
  | .mapSwap t b => some (t, [(portA b 0x060, 1)])
  | .rejoin t b => some (t, [(portA b 0x060, 2)])
  | .ingCut t sl k d => some (t, [(regA (pIng sl) (0x080 + 4 * k.val), d)])
  | .ingCutClr t sl k d => some (t, [(regA (pIng sl) (0x0A0 + 4 * k.val), d)])
  | .padDWrite t sl n d => some (t, [(regA (pIng sl) (0x050 + 4 * n.val), d)])
  | .midOutWrite t d => some (t, [(regA pXpt 0x054, d)])
  | .midReturn t d => some (t, [(regA pXpt 0x058, d)])
  | .commit t timing count => some (t, [(regA pTake 0x060, takeWord 1 timing.toNat count.toNat)])
  | .strike t => some (t, [(regA pTake 0x060, takeWord 2 0 0)])
  | .strikeFrom t => some (t, [(regA pTake 0x060, takeWord 3 0 0)])
  | .stop t timing count => some (t, [(regA pTake 0x060, takeWord 4 timing.toNat count.toNat)])
  | .stopPart t timing => some (t, [(regA pTake 0x060, takeWord 5 timing.toNat 0)])
  | .clear t => some (t, [(regA pTake 0x060, takeWord 6 0 0)])
  | .takeQueryRoute t out => some (t, [(regA pTake 0x0B0, 0), (regA pTake 0x0B4, wd out.toNat), (regA pTake 0x080, 1)])
  | .takeQueryTag t tag => some (t, [(regA pTake 0x0B0, 1), (regA pTake 0x0B4, tag), (regA pTake 0x080, 1)])
  | .recStart t port => some (t, [(regA pReel 0x060, wd (1 + port.toNat * 256))])
  | .recStop t port => some (t, [(regA pReel 0x060, wd (2 + port.toNat * 256))])
  | .play t port => some (t, [(regA pReel 0x060, wd (3 + port.toNat * 256))])
  | .pause t port => some (t, [(regA pReel 0x060, wd (4 + port.toNat * 256))])
  | .playoutStop t port => some (t, [(regA pReel 0x060, wd (5 + port.toNat * 256))])
  | .audCommit t timing count => some (t, [(regA pAud 0x05C, wd (1 + timing.toNat * 16 + count.toNat * 65536))])
  | .audStrike t => some (t, [(regA pAud 0x05C, 2)])
  | .audStop t timing count => some (t, [(regA pAud 0x05C, wd (3 + timing.toNat * 16 + count.toNat * 65536))])
  | .audClear t => some (t, [(regA pAud 0x05C, 4)])
  | .audQueryRoute t ch => some (t, [(regA pAud 0x0D0, 0), (regA pAud 0x0D4, wd ch.toNat), (regA pAud 0x080, 1)])
  | .audQueryPeak t ch => some (t, [(regA pAud 0x0D0, 1), (regA pAud 0x0D4, wd ch.toNat), (regA pAud 0x080, 1)])
  | .audQueryTag t tag => some (t, [(regA pAud 0x0D0, 2), (regA pAud 0x0D4, tag), (regA pAud 0x080, 1)])
  | .folStart t c => some (t, [(folA c 0x044, 1)])
  | .folStop t c => some (t, [(folA c 0x044, 2)])
  | .folSpare t c => some (t, [(folA c 0x044, 4)])
  | .folRelease t c => some (t, [(folA c 0x044, 8)])
  | .folMove t c => some (t, [(folA c 0x044, 16)])
  | .setRate t tb => some (t, [(regA pTime 0x050, wd (tb.val + 1 * 16))])
  | .slew t tb => some (t, [(regA pTime 0x050, wd (tb.val + 2 * 16))])
  | .stepTime t tb => some (t, [(regA pTime 0x050, wd (tb.val + 3 * 16))])
  | .setTime t tb => some (t, [(regA pTime 0x050, wd (tb.val + 4 * 16))])
  | .timeCapture t => some (t, [(regA pTime 0x080, 1)])
  | .clkMapWrite t d => some (t, [(regA pRefsel 0x040, d)])
  | .derive t => some (t, s.keyWrites t 1)
  | .loadKek t => some (t, s.keyWrites t 2)
  | .importKey t => some (t, s.keyWrites t 3)
  | .sign t => some (t, s.keyWrites t 4)
  | .check t => some (t, s.keyWrites t 5)
  | .invalidate t => some (t, s.keyWrites t 6)
  | .newEpoch t => some (t, s.keyWrites t 7)
  | .sealDebug t => some (t, s.keyWrites t 8)
  | .rma t => some (t, s.keyWrites t 9)
  | .keyConfirm t code => some (t, [(regA pKey 0x064, wd code.toNat)])
  | .warm t => some (t, [(mgtA 0x048, 1)])
  | .loadBegin t slot => some (t, [(mgtA 0x050, wd (1 + slot.val * 256))])
  | .loadEnd t slot => some (t, [(mgtA 0x050, wd (2 + slot.val * 256))])
  | .loadAbort t slot => some (t, [(mgtA 0x050, wd (3 + slot.val * 256))])
  | .activate t slot => some (t, [(mgtA 0x050, wd (4 + slot.val * 256))])
  | .accept t => some (t, [(mgtA 0x050, 5)])
  | .revert t => some (t, [(mgtA 0x050, 6)])
  | .recover t slot => some (t, [(mgtA 0x050, wd (7 + slot.val * 256))])
  | .settingsRead t pg => some (t, [(mgtA 0x0B0, wd (1 + pg.toNat * 65536)), (mgtA 0x080, 1)])
  | .settingsWrite t pg => some (t, [(mgtA 0x0B0, wd (2 + pg.toNat * 65536)), (mgtA 0x080, 1)])
  | .faultAck t d => some (t, [(fltA 0x054, d)])
  | .selftest t => some (t, [(fltA 0x04C, 1)])
  | .release t => some (t, [(fltA 0x04C, 2)])
  | .latencyBudgetWrite t d => some (t, [(pwrA 0x044, d)])
  | .clapGo t d => some (t, [(pwrA 0x064, setBit d 31 true)])
  | _ => none

/-- One 32-bit write after another, each through the bus matrix. -/
def State.write32 (s : State) (t : Tag) (l : List (Nat × Word)) : State :=
  l.foldl (fun s w => regWrite t w.1 (.one 32 (w.2.setWidth 64)) s) s

/-- The bus matrix admits each of the writes in its turn. -/
def State.admitsAll (s : State) (t : Tag) : List (Nat × Word) → Bool
  | [] => true
  | w :: r => s.admits (.w32 t w.1 w.2) && State.admitsAll (s.write32 t [w]) t r

/-! ### Frames -/

/-- Every register outside a list reads as before. -/
def State.regsKept (s t : State) (l : List Nat) : Prop := ∀ k, k ∉ l → Tab.get regReset t.regs k = Tab.get regReset s.regs k

/-- Every word of every table outside a list reads as before. -/
def State.tblKept (s t : State) (l : List Nat) : Prop := ∀ k, k ∉ l → Tab.get tblReset t.tbl k = Tab.get tblReset s.tbl k

/-- Every byte of the reel store's memory reads as before. -/
def State.memKept (s t : State) : Prop := ∀ a, t.memByte a = s.memByte a

/-- Registers have changed in the pages of a list alone, and no table word and no byte of memory has. -/
def State.onlyPages (s t : State) (pgs : List Nat) : Prop :=
  (∀ k, k % 2 ^ 28 / 65536 ∉ pgs → Tab.get regReset t.regs k = Tab.get regReset s.regs k) ∧ t.tbl = s.tbl ∧ s.memKept t

/-- Nothing but the registers of a list has changed. -/
def State.onlyRegs (s t : State) (l : List Nat) : Prop := s.regsKept t l ∧ { t with regs := s.regs } = s

/-- Nothing but the registers of a list has changed, and fault occurrences have joined those that wait. -/
def State.onlyRegsOcc (s t : State) (l : List Nat) : Prop := s.regsKept t l ∧ { t with regs := s.regs, occ := s.occ } = s

/-! ### Foley cores -/

/-- The instructions of a foley core without EXT, by code. -/
def folRows (c : Fin 64) : List (Nat × Instr) :=
  [(0, .foNop c), (1, .foBra c), (2, .foBcc c), (3, .foCall c), (4, .foRet c), (5, .foLoop c), (6, .foLoopd c), (7, .foLeave c),
    (8, .foWaitblk c), (9, .foDone c), (10, .foRte c), (11, .foHalt c), (12, .foTrap c), (32, .foMpy c), (33, .foMac c), (34, .foMsu c),
    (64, .foClr c), (65, .foAdd c), (66, .foSub c), (67, .foNeg c), (68, .foAbs c), (69, .foMax c), (70, .foMin c), (71, .foAsl c),
    (72, .foAsr c)] ++
  [(73, .foAnd c), (74, .foOr c), (75, .foXor c), (76, .foMova c), (77, .foAddd c), (78, .foMovd c), (79, .foMovda c), (80, .foSetlo c),
    (81, .foSethi c), (96, .foFir c), (97, .foFird c), (128, .foSmax c), (129, .foSmin c), (130, .foSmaxa c), (131, .foSmina c),
    (160, .foLd c), (161, .foSt c), (162, .foLda c), (163, .foSta c), (164, .foStah c), (165, .foLdi c), (166, .foLdp c), (192, .foMovm c),
    (193, .foMovmd c), (194, .foRdm c), (195, .foRds c), (196, .foWrs c)]

/-- The word at the PC of a core. -/
def State.folWord (s : State) (c : Nat) : Nat := s.folP c (s.folRec c).pc

/-- Core c runs and the word at its PC is the instruction of a code, with nothing that R315, R325 or R326 forbids there. -/
def State.folIssues (s : State) (c code : Nat) : Prop :=
  let r := s.folRec c
  s.folState c = 2 ∧ r.moving = false ∧ folCode (s.folWord c) = some code ∧ folNonZero (s.folWord c) = false ∧
    folReserved (s.folWord c) = false ∧ (r.slots ≠ none → folCtrl code = false ∧ folModeWrite code = false) ∧
    ∀ e, r.loops.head? = some e → e.stop = r.pc → folCtrl code = false

/-- Core c has gone from s to z with the registers r, its program being at the instruction that follows; nothing else has changed. -/
def State.folDone (s z : State) (c : Nat) (r : FolRec) : Prop :=
  z.folRec c = r.done ∧ { z with fol := s.fol } = s ∧ ∀ k, k ≠ c → z.folRec k = s.folRec k

/-- Core c has taken an exception (R328 to R330): with EM = 0 the state is saved, EM set and P address 4 × vector next; with EM = 1 the core
has halted. -/
def State.folTakes (s z : State) (c vector code : Nat) : Prop :=
  let r := s.folRec c
  let b (p : Bool) (n : Nat) : Nat := if p then n else 0
  z.tbl = s.tbl ∧ z.aud = s.aud ∧ z.fab = s.fab ∧ z.out = s.out ∧ s.memKept z ∧ (∀ k, k ≠ c → z.folRec k = s.folRec k) ∧
  (∀ j, j % 2 ^ 28 / 65536 ≠ pFol c → Tab.get regReset z.regs j = Tab.get regReset s.regs j) ∧
  if r.em = true then z.folRec c = r ∧ z.folState c = 3 ∧ z.rdF 0 (folA c 0x048) 8 4 = 2 ∧ bitOf (z.rd 0 (folA c 0x04C)) 3 = true
  else
    z.folRec c = { r with
      em := true, pc := 4 * vector, loops := r.loops
      epc := (r.slots.map fun q => q.addr).getD r.pc
      estat := vector + ((r.slots.map fun q => q.next).getD 0) * 16 + b ((r.slots.map fun q => q.taken).getD false) 64 +
        b (!r.shadow.isEmpty) 128 + b ((r.loops.head?.map fun e => e.stop == r.pc).getD false) 256 + code % 256 * 65536
      emr := r.mr
      mr := (r.shadow.getLast?.map fun e => e.1).getD r.mr
      shadow := [], slots := none, reuse := none, skip1 := false, last := false, cyc := r.cyc + 1 } ∧
    z.rd 0 (folA c 0x07C) = wd (satAdd 32 (s.rd 0 (folA c 0x07C)).toNat 1)

end Sys2Proof.Machine
end

