-- ==== Sys2Proof/Certificates/Slice0/Obligations.lean ====
section
/-!
DEFINITION. Obligations.lean: what the model is claimed to do, rule by rule and family by family of the commands. `completes` says that
exec answers a next state and what that state holds; host commands are stated for the accesses that the bus matrix admits, and the
state after the bus matrix's own counts is `admitted`.
-/
open Sys2Proof Sys2Proof.Machine

/-- With command c at the front of the queue, a step is exec of c on the state with the rest of the queue; with an empty queue it is
the state as it was. The idle step is the model's choice (log entry 29). -/
def Obligations.StepRunsFrontCommand : Prop :=
  (∀ (s : State) (c : Instr) (rest : List Instr), s.pending = c :: rest → step s = exec c { s with pending := rest }) ∧
  ∀ s : State, s.pending = [] → step s = .next s

/-- In every state, whatever its operands, exec of a command answers a next state, never a fault or a refusal, and the queue of
waiting commands is the same after it. -/
def Obligations.EveryCommandCompletes : Prop :=
  ∀ (c : Instr) (s : State), s.completes c fun t => t.pending = s.pending

/-- After reset the listed registers read the values of their Reset columns, PAGE_ID reads BLOCK and INSTANCE, every table word
reads its reset value, and the reel store reads 0 (the byte that an unwritten address reads as is the model's choice, log entry 3).
-/
def Obligations.ResetLeavesTheResetColumn : Prop :=
  State.reset.rd 0 (regA pChip 0x040) = 0x4D474096 ∧ State.reset.rd 0 (regA pChip 0x044) = 0xB1 ∧
  State.reset.rd 0 (regA pChip 0x050) = 0x04404030 ∧ State.reset.rd 0 (regA pBmx 0x040) = 2 ∧
  State.reset.rd 0 (regA pMgt 0x05C) = 600 ∧ State.reset.rd 0 (regA pMgt 0x064) = 15 ∧
  (∀ p, p < 16 → State.reset.rd p (regA pFlt 0x058) = 15) ∧ State.reset.rd 0 (regA pFlt 0x074) = 0x200400D2 ∧
  State.reset.rd 0 (regA pPwr 0x040) = 0x03E8640F ∧ State.reset.rd 0 (regA pPwr 0x060) = 0x16 ∧
  State.reset.rd64 0 (regA pPwr 0x068) = 2 ^ 48 - 1 ∧ State.reset.rd 0 (regA pRefsel 0x048) = 0x88880000 ∧
  State.reset.rd 0 (regA pGbus 0x040) = 4 ∧ State.reset.rd 0 (regA pGbus 0x04C) = 2000 ∧
  State.reset.rd 0 (regA pXpt 0x040) = 0x03E80101 ∧ State.reset.rd 0 (regA pTake 0x040) = 0x3282 ∧
  (∀ b, b < 48 → State.reset.rd 0 (laneA b 0x040) = 0x530 ∧ State.reset.rd 0 (laneA b 0x054) = 1000 ∧
    State.reset.rd 0 (portA b 0x05C) = 0x301) ∧
  (∀ c, c < 64 → State.reset.rd 0 (folA c 0x040) = 0x00200000) ∧
  (∀ b, b < 48 → State.reset.rd 0 (regA (pLane b) 0) = wd (0x20 * 65536 + b)) ∧
  (∀ pg bank sel idx w, State.reset.ent pg bank sel idx w = tblReset (tblKey pg bank sel idx w)) ∧
  ∀ a, State.reset.memByte a = 0

/-- At reset the registers, the table words and the reel store's memory are in canonical form, and no command waits. -/
def Obligations.ResetIsCanonical : Prop := State.reset.canonical ∧ State.reset.queueOk ∧ State.reset.pending = []

/-- From every state in canonical form, whatever command stands at the front of the queue, a step that answers a next state leaves
the registers, the table words and the reel store's bytes in canonical form: numbers strictly rising and no entry equal to what an
unlisted number reads as. -/
def Obligations.EveryStepKeepsCanonicalForm : Prop :=
  ∀ s s' : State, s.canonical → step s = .next s' → s'.canonical

/-- Whatever the command, chip resets and losses of power among them, a step never lowers the fuse field LC, never clears a blown
debug seal fuse, and never lowers GEN_p or EPOCH_p of any partition, so that no generation or epoch is ever used a second time. -/
def Obligations.FusesAndCountersOnlyGoUp : Prop :=
  ∀ s s' : State, step s = .next s' →
    s.fuse.lc ≤ s'.fuse.lc ∧ s.fuse.dbgSeal &&& s'.fuse.dbgSeal = s.fuse.dbgSeal ∧
      ∀ p, s.gen p ≤ s'.gen p ∧ s.epoch p ≤ s'.epoch p

/-- A host command that the table names for one or more 32-bit register writes does exactly what those writes do one after another
as REGISTER_WRITE commands, accepted, refused or lost alike; TX_COEF_WRITE and GATE_WRITE do what the 64-bit write of their pair
does. The pages named are not HBM-window pages, which have no registers. -/
def Obligations.HostCommandsAreRegisterWrites : Prop :=
  (∀ (s : State) (c : Instr) (t : Tag) (l : List (Nat × Word)), s.hostWrites c = some (t, l) → (∀ w ∈ l, isHbm w.1 = false) →
    exec c s = .next (s.write32 t l)) ∧
  (∀ (s : State) (t : Tag) (a : Addr) (d : Word),
    exec (.registerWrite t a (.one 32 (d.setWidth 64))) s = .next (s.write32 t [(a.toNat, d)])) ∧
  (∀ (s : State) (t : Tag) (l : Fin 384) (d : Dword),
    exec (.txCoefWrite t l d) s = exec (.registerWrite t (BitVec.ofNat 28 (lnA l 0x08)) (.one 64 d)) s) ∧
  ∀ (s : State) (t : Tag) (r : Fin 3) (d : Dword),
    exec (.gateWrite t r d) s = exec (.registerWrite t (BitVec.ofNat 28 (gateA r)) (.one 64 d)) s

/-- REGISTER_WRITE of a word that is no half of a pair and outside the HBM window: admitted, it completes with the register's effect
on the counted state and a response without error (a posted write of a PCIe function has no response); the counted state differs
from the one before in the page's PAGE_SEQ, one higher but for a PAGE_OWNER write, and, for the debug port or the rein channel, in
KEY.STATUS and the two rein registers; the halves held for the master in that page are dropped. -/
def Obligations.AdmittedWriteHasItsEffect : Prop :=
  ∀ (s : State) (t : Tag) (a : Addr) (d : Word),
    let x : Access := .w32 t a.toNat d
    isHbm a.toNat = false → isPair a.toNat = false → s.admits x = true →
    exec (.registerWrite t a (.one 32 (d.setWidth 64))) s = .next ((writeReg t a.toNat d (s.admitted x)).respond x false 0) ∧
    (s.admitted x).rd 0 (regA x.page 0x020) = s.rd 0 (regA x.page 0x020) + (if x.ownerWrite then 0 else 1) ∧
    s.regsKept (s.admitted x) [regKey 0 (regA x.page 0x020), regKey 0 (regA pKey 0x040), regKey 0 (regA pBmx 0x050),
      regKey 0 (regA pBmx 0x054)] ∧
    { s.admitted x with regs := s.regs, free := s.free, bus := s.bus } = s ∧
    (∀ h ∈ (s.admitted x).bus.pairRd ++ (s.admitted x).bus.pairWr, ¬(h.master = tagNum t ∧ h.addr / 65536 = x.page))

/-- REGISTER_WRITE outside the HBM window. Refused with cause c, a word that is no half of a pair completes: ERR_COUNT counts one,
ERR_ADDR holds the address, ERR_INFO cause, direction, width and tag, the BMX fault bit of the cause is set, and nothing else
changes but the halves held for the master in the page, the response, the fault occurrences that wait and KEY.STATUS of a first
access by tag D. A write of 8 or 16 bits is always refused; an admitted 64-bit write is the write of its pair; a burst over 16 words
or across a page is refused whole, by page decode or the firewall if they refuse it and else for its shape, and another one writes
its words in turn. BUS_TIMEOUT of an access that may time out logs TIMEOUT and changes nothing else; a write waits, or it lands and
takes effect after all, with the lower half that was held for it. An access that may not time out ends as it does without the event.
Lost (PERST_N low, VF Enable clear, or tag D with its seal blown), an access changes nothing. -/
def Obligations.RefusedWriteOnlyLogs : Prop :=
  ∀ (s : State) (t : Tag) (a : Addr), isHbm a.toNat = false →
    let write (sh : Shape) : Instr := .registerWrite t a sh
    let cleared := (s.noteDebug t).dropHolds (tagNum t) (a.toNat / 65536)
    let only (z : State) : Prop :=
      z.rd 0 (regA pBmx 0x044) = s.rd 0 (regA pBmx 0x044) + 1 ∧ z.rd 0 (regA pBmx 0x048) = wd a.toNat ∧
      s.regsKept z [regKey 0 (regA pBmx 0x044), regKey 0 (regA pBmx 0x048), regKey 0 (regA pBmx 0x04C),
        regKey 0 (regA pBmx 0x018), regKey 0 (regA pKey 0x040)] ∧
      { z with regs := s.regs, occ := s.occ, bus := s.bus } = s
    let logged (z : State) (code info : Nat) : Prop := only z ∧ z.rd 0 (regA pBmx 0x04C) = wd (code + info + tagNum t * 256) ∧
      bitOf (z.rd 0 (regA pBmx 0x018)) (code - 1) = true
    (s.lost t (tagNum t) = true → (∀ sh, exec (write sh) s = .next s) ∧
      ∀ wr sh lands, exec (.busTimeout t a wr sh lands) s = .next s) ∧
    (s.lost t (tagNum t) = false →
      (∀ (d : Word) (c : Cause), isPair a.toNat = false → cleared.refusal (.w32 t a.toNat d) = some c →
        s.completes (write (.one 32 (d.setWidth 64))) fun z => logged z c.code 80) ∧
      (∀ (d : Dword), s.completes (write (.one 8 d)) only ∧ s.completes (write (.one 16 d)) only) ∧
      (∀ (d : Dword), let x : Access := ⟨t, tagNum t, a.toNat, 3, false, true, d.toNat⟩
        s.admits x = true → exec (write (.one 64 d)) s = .next ((writePair t a.toNat d.toNat (s.admitted x)).respond x false 0)) ∧
      (∀ ws : List Word, ws ≠ [] → 16 < ws.length ∨ (a.toNat + 4 * ws.length - 1) / 65536 ≠ a.toNat / 65536 →
        s.completes (write (.burst ws)) fun z => logged z (if (pageOf (a.toNat / 65536)).isNone then 1
          else if s.firewalled ⟨t, tagNum t, a.toNat, 2, true, true, 0⟩ then 2 else 3) 144) ∧
      ∀ (wr : Bool) (d : Word), let sh : Shape := .one 32 (d.setWidth 64)
        (s.mayTimeOut t a.toNat wr sh = false → ∀ lands, exec (.busTimeout t a wr sh lands) s =
          if wr then exec (write sh) s else exec (.pairLowerRead t a (.one 32)) s) ∧
        (s.mayTimeOut t a.toNat wr sh = true →
          (s.completes (.busTimeout t a wr sh false) fun z => logged z 6 (64 + if wr then 16 else 0) ∧
            z.bus.late = s.bus.late ++ if wr then s.lateWords t a.toNat sh else []) ∧
          ∀ z, exec (.busTimeout t a true sh false) s = .next z → wr = true → exec (.busTimeout t a true sh true) s =
            .next (landWord ⟨t, a.toNat, s.heldLower (tagNum t) a.toNat, d⟩ { z with bus := { z.bus with late := s.bus.late } }))) ∧
    ∀ (w : Word) (r : List Word) (a' : Addr) (z : State), r ≠ [] → r.length < 16 → a'.toNat = a.toNat + 4 →
      (a.toNat + 4 * r.length + 3) / 65536 = a.toNat / 65536 → exec (write (.burst [w])) s = .next z →
      exec (write (.burst (w :: r))) s = exec (.registerWrite t a' (.burst r)) z

/-- For an access x: a page number that decodes to no page is refused DECODE; of a page owned by another partition every access of
P1 to P15 is refused FIREWALL, and so is every access of P0 outside the page header; tags M and D are never refused FIREWALL; a
misaligned access that passes the firewall is refused ACCESS; an access that passes every other check is refused GATED at a gated
page beyond its header; and in hold-all a write is refused HELD unless hold-all lets it pass. -/
def Obligations.BusChecksInOrder : Prop :=
  ∀ (s : State) (x : Access),
    (pageOf x.page = none → s.refusal x = some .decode) ∧
    (∀ k i, pageOf x.page = some (k, i) → k.shared = false →
      (∀ p : Fin 16, x.tag = .p p → s.pageOwner x.page ≠ p → (p ≠ 0 ∨ 0x40 ≤ x.off) → s.refusal x = some .firewall) ∧
      (x.tag = .m ∨ x.tag = .d → s.refusal x ≠ some .firewall)) ∧
    (∀ k i, pageOf x.page = some (k, i) → s.firewalled x = false → x.addr % 2 ^ x.size ≠ 0 → s.refusal x = some .access) ∧
    (∀ r, x.reg = some r → s.firewalled x = false → x.badShape = false → 0x40 ≤ x.off → s.gated x.page = true →
      s.refusal x = some .gated) ∧
    ∀ r, x.reg = some r → s.firewalled x = false → x.badShape = false → s.gated x.page = false → s.deaf x.page = false →
      s.busyFor x = false → s.held = true → x.wr = true → heldAccepts x = false → s.refusal x = some .held

/-- A register whose write has no other rule: RW takes the bits that its fields define and keeps the rest; RWL does so only while
its page is unlocked; W1C clears the bits written as 1; W1S sets them; RO and RSV ignore the write. A banked register changes in the
bank of the tag alone. Nothing but that register changes. -/
def Obligations.AccessTypesOfRegisters : Prop :=
  ∀ (s : State) (t : Tag) (a : Nat) (d : Word) (k : PageKind) (i : Nat) (r : Reg),
    pageOf (a / 65536) = some (k, i) → regAt k (a % 65536) = some r →
    let b := if r.banked then tagBank t else 0
    let z := plainWrite r t a d s
    (r.acc = .rw → ∀ j, j < 32 → bitOf (z.rd b a) j = if r.mask / 2 ^ j % 2 = 1 then bitOf d j else bitOf (s.rd b a) j) ∧
    (r.acc = .rwl → s.pageLocked (a / 65536) = true → z = s) ∧
    (r.acc = .rwl → s.pageLocked (a / 65536) = false →
      ∀ j, j < 32 → bitOf (z.rd b a) j = if r.mask / 2 ^ j % 2 = 1 then bitOf d j else bitOf (s.rd b a) j) ∧
    (r.acc = .w1c → ∀ j, j < 32 → bitOf (z.rd b a) j = (bitOf (s.rd b a) j && !(r.mask / 2 ^ j % 2 = 1 && bitOf d j))) ∧
    (r.acc = .w1s → ∀ j, j < 32 → bitOf (z.rd b a) j = (bitOf (s.rd b a) j || (r.mask / 2 ^ j % 2 = 1 && bitOf d j))) ∧
    (r.acc = .ro ∨ r.acc = .rsv → z = s) ∧
    s.onlyRegs z [regKey b a]

/-- Admitted, and compared with the state that the bus matrix has counted: PAGE_OWNER_WRITE by P0, M or D to a page that is not
shared sets PAGE_OWNER, clears PAGE_LOCK and leaves PAGE_SEQ as it was; by another tag, or to a shared page, it changes nothing.
PAGE_LOCK by the page's owner (P0 for a shared page), M or D sets LOCK, and by another tag changes nothing. PAGE_UNLOCK by P0, M or
D clears LOCK, and by another tag changes nothing. No other register, table word or byte of memory changes. -/
def Obligations.PageOwnerAndLock : Prop :=
  ∀ (s : State) (t : Tag) (pg : PageNo) (k : PageKind) (i : Nat), pageOf pg = some (k, i) →
    (∀ o : Fin 16, s.admits (hostAccess t pg 0x00C (wd o)) = true → s.completes (.pageOwnerWrite t pg o) fun z =>
      let c := s.admitted (hostAccess t pg 0x00C (wd o))
      { z with regs := c.regs, bus := c.bus } = c ∧
      if tagIsP0 t = true ∧ k.shared = false then
        z.rd 0 (regA pg 0x00C) = wd o ∧ z.pageOwner pg = o ∧ z.pageLocked pg = false ∧ z.rd 0 (regA pg 0x020) = s.rd 0 (regA pg 0x020) ∧
          c.regsKept z [regKey 0 (regA pg 0x00C), regKey 0 (regA pg 0x010)]
      else z.regs = c.regs) ∧
    (s.admits (hostAccess t pg 0x010 1) = true → s.completes (.pageLock t pg) fun z =>
      let c := s.admitted (hostAccess t pg 0x010 1)
      { z with regs := c.regs, bus := c.bus } = c ∧
      if (k.shared = true ∧ tagIsP0 t = true) ∨ (k.shared = false ∧ (t = .m ∨ t = .d ∨ tagBank t = s.pageOwner pg)) then
        z.pageLocked pg = true ∧ c.regsKept z [regKey 0 (regA pg 0x010)]
      else z.regs = c.regs) ∧
    (s.admits (hostAccess t pg 0x010 0x80000000) = true → s.completes (.pageUnlock t pg) fun z =>
      let c := s.admitted (hostAccess t pg 0x010 0x80000000)
      { z with regs := c.regs, bus := c.bus } = c ∧
      if tagIsP0 t = true then z.pageLocked pg = false ∧ c.regsKept z [regKey 0 (regA pg 0x010)] else z.regs = c.regs)

/-- At a location marked pair, outside the HBM window, with address a divisible by 8 and access admitted. PAIR_LOWER_WRITE holds the
half for the master and changes no register, table word or byte of memory. PAIR_UPPER_WRITE at a + 4, with a lower half d0 held for
the master at a, completes with the write of the whole pair in one step. PAIR_LOWER_READ answers the lower half that the register
reads and latches the upper half for the master. -/
def Obligations.PairHalves : Prop :=
  ∀ (s : State) (t : Tag) (a : Addr), isHbm a.toNat = false → isPair a.toNat = true → a.toNat % 8 = 0 →
    (∀ d : Word, s.admits (.w32 t a.toNat d) = true → s.completes (.pairLowerWrite t a d) fun z =>
      z.heldLower (tagNum t) (a.toNat + 4) = some d ∧
      (∀ h ∈ z.bus.pairWr, h.master = tagNum t ∧ h.addr / 65536 = a.toNat / 65536 → h = ⟨tagNum t, a.toNat, d⟩) ∧
      s.regsKept z [regKey 0 (regA pKey 0x040)] ∧ { z with regs := s.regs, bus := s.bus } = s) ∧
    (∀ (a' : Addr) (d d0 : Word), a'.toNat = a.toNat + 4 → isPair a'.toNat = true →
      s.heldLower (tagNum t) a'.toNat = some d0 → s.admits (.w32 t a'.toNat d) = true →
      exec (.pairUpperWrite t a' d) s =
        .next ((writePair t a.toNat (pairOf d0 d) (s.admitted (.w32 t a'.toNat d))).respond (.w32 t a'.toNat d) false 0)) ∧
    (s.admits (.r32 t a.toNat) = true → s.completes (.pairLowerRead t a (.one 32)) fun z =>
      let c := (s.noteDebug t).dropHolds (tagNum t) (a.toNat / 65536)
      z.bus.resp = [⟨false, BitVec.ofNat 64 (c.readValue t a.toNat).1.toNat⟩] ∧
      z.bus.pairRd = c.bus.pairRd ++ [⟨tagNum t, a.toNat, ((c.readValue t a.toNat).2.readValue t (a.toNat + 4)).1⟩] ∧
      z.tbl = s.tbl ∧ s.memKept z)

/-- Of a page with a table window, in the tag's own copy of it. TABLE_READ, admitted, counts TBL_TAG, clears DONE, ERR and ECODE,
starts the operation, and, accepted, leaves the entry's words in TBL_DATA; it changes no table word and no memory. TABLE_WRITE,
admitted, does the same and writes the entry that TBL_SEL and TBL_INDEX name with the 16 TBL_DATA words. TABLE_OP_DONE completes in
every state: with an operation of the page and bank in progress it sets DONE, ERR when the operation was refused and its ECODE, ends
the operation, and moves TBL_INDEX on by one, modulo 2^24, when AINC = 1 and it was not refused, and nothing else changes; with none
it changes nothing. -/
def Obligations.TableWindow : Prop :=
  (∀ (s : State) (t : Tag) (pg : PageNo) (ainc : Bool) (k : PageKind) (i : Nat), pageOf pg = some (k, i) → k.cap / 2 % 2 = 1 →
    let b := winBank t pg
    let x := hostAccess t pg 0x1008 (wd (if ainc then 5 else 1))
    let c := s.admitted x
    s.admits x = true → s.completes (.tableRead t pg ainc) fun z =>
      let g := c.wrF b (regA pg 0x1008) 1 2 (if ainc then 2 else 0)
      let r := tableReadAt t pg (s.rdF b (regA pg 0x1000) 0 16) (s.rdF b (regA pg 0x1004) 0 24)
        ((g.wr b (regA pg 0x1008) (g.rd b (regA pg 0x1008) &&& 6)).inc b (regA pg 0x100C))
      z.rd b (regA pg 0x1008) = (if ainc then 4 else 0) ∧ z.rd b (regA pg 0x100C) = s.rd b (regA pg 0x100C) + 1 ∧
      z.bus.ops = s.bus.ops ++ [⟨pg, b, r.1.1⟩] ∧
      (∀ j, j < 16 → z.rd b (regA pg (0x1010 + 4 * j)) =
        if r.1.1 = 0 then dat r.1.2 j else s.rd b (regA pg (0x1010 + 4 * j))) ∧
      z.tbl = s.tbl ∧ s.memKept z) ∧
  (∀ (s : State) (t : Tag) (pg : PageNo) (ainc : Bool) (k : PageKind) (i : Nat), pageOf pg = some (k, i) → k.cap / 2 % 2 = 1 →
    let b := winBank t pg
    let x := hostAccess t pg 0x1008 (wd (if ainc then 7 else 3))
    let g := (s.admitted x).wrF b (regA pg 0x1008) 1 2 (if ainc then 3 else 1)
    let r := tableWriteAt t pg (s.rdF b (regA pg 0x1000) 0 16) (s.rdF b (regA pg 0x1004) 0 24)
      ((List.range 16).map fun j => s.rd b (regA pg (0x1010 + 4 * j)))
      ((g.wr b (regA pg 0x1008) (g.rd b (regA pg 0x1008) &&& 6)).inc b (regA pg 0x100C))
    s.admits x = true → exec (.tableWrite t pg ainc) s =
      .next ({ r.2 with bus := { r.2.bus with ops := r.2.bus.ops ++ [TblOp.mk pg b r.1] } }.respond x false 0)) ∧
  ∀ (s : State) (pg : PageNo) (bank : Fin 16), ∃ z, exec (.tableOpDone pg bank) s = .next z ∧
    let a := regA pg 0x1008
    match s.bus.ops.find? fun o => o.page == pg.val && o.bank == bank.val with
    | none => z = s
    | some o =>
      z.rdF bank a 8 1 = 1 ∧ z.rdF bank a 9 1 = (if o.ecode = 0 then 0 else 1) ∧ z.rdF bank a 12 4 = o.ecode % 16 ∧
      z.rdF bank a 0 8 = s.rdF bank a 0 8 ∧
      z.rd bank (regA pg 0x1004) = (if s.rdF bank a 2 1 = 1 ∧ o.ecode = 0 then
        wd ((s.rdF bank (regA pg 0x1004) 0 24 + 1) % 2 ^ 24) else s.rd bank (regA pg 0x1004)) ∧
      s.regsKept z [regKey bank a, regKey bank (regA pg 0x1004)] ∧
      { z with regs := s.regs, bus := s.bus } = s ∧ z.bus.ops = s.bus.ops.erase o

/-- A request of a page with a result block, admitted, adds 1 to RES_REQ_TAG and clears VALID in the tag's own copy, joins the
requests in progress with the tag that RES_REQ_TAG then reads, and leaves RES_TAG and the data registers as they were; EYE_REQUEST
is this request in a LANE page and TIME_CAPTURE in the TIME page. RESULT_COMPLETE sets VALID, ERR and the error code, RES_TAG, and
every data word in one step, and ends the request. -/
def Obligations.ResultRequests : Prop :=
  (∀ (s : State) (t : Tag) (pg : PageNo) (k : PageKind) (i : Nat), pageOf pg = some (k, i) → k.cap / 8 % 2 = 1 →
    s.admits (hostAccess t pg 0x080 1) = true →
    let b := winBank t pg
    let started (z : State) : Prop :=
      z.rd b (regA pg 0x084) = s.rd b (regA pg 0x084) + 1 ∧ z.rdF b (regA pg 0x088) 0 1 = 0 ∧
      z.rd b (regA pg 0x08C) = s.rd b (regA pg 0x08C) ∧
      (∀ j, j < resWords k → z.rd b (regA pg (0x090 + 4 * j)) = s.rd b (regA pg (0x090 + 4 * j))) ∧
      ∃ e ws, z.bus.res = s.bus.res ++ [⟨pg, b, tagNum t, s.rd b (regA pg 0x084) + 1, e, ws⟩]
    s.completes (.resultRequest t pg) started ∧
    (∀ n : Fin 48, pg.val = pLane n → s.completes (.eyeRequest t n) started) ∧
    (pg.val = pTime → s.completes (.timeCapture t) started)) ∧
  ∀ (s : State) (pg : PageNo) (bank : Fin 16) (meas : BitVec 128) (o : ResOp) (k : PageKind) (i : Nat),
    pageOf pg = some (k, i) → (s.bus.res.find? fun o => o.page == pg.val && o.bank == bank.val) = some o →
    let s0 := { s with bus := { s.bus with res := s.bus.res.erase o } }
    let r := s0.resServe o meas
    s.completes (.resultComplete pg bank meas) fun z =>
      z.rd bank (regA pg 0x088) = wd (1 + (if r.1 = 0 then 0 else 2) + r.1 * 256) ∧ z.rd bank (regA pg 0x08C) = o.tag ∧
      (r.1 = 0 → ∀ j, j < resWords k → z.rd bank (regA pg (0x090 + 4 * j)) = dat r.2.1 j) ∧
      z.bus.res = s.bus.res.erase o

/-- With each write of the row admitted in its turn: the query rows of TAKE and AUD leave their TYPE and argument in the request
registers of the tag's bank, the key rows their OP in KEY.REQ with its other fields as they were, the settings rows OP and PAGE in
MGT.SET_REQ; and each starts a request of its page: RES_REQ_TAG one higher, VALID clear, and the request last among those in
progress. -/
def Obligations.RequestRows : Prop :=
  ∀ (s : State) (t : Tag),
    let started (pg : Nat) (z : State) : Prop :=
      let b := winBank t pg
      z.rd b (regA pg 0x084) = s.rd b (regA pg 0x084) + 1 ∧ z.rdF b (regA pg 0x088) 0 1 = 0 ∧
      ∃ e ws, z.bus.res = s.bus.res ++ [⟨pg, b, tagNum t, s.rd b (regA pg 0x084) + 1, e, ws⟩]
    let asked (c : Instr) (pg ty w arg : Nat) (v : Word) (n : Nat) : Prop :=
      (∃ l, s.hostWrites c = some (t, l) ∧ s.admitsAll t l = true) → s.completes c fun z =>
        z.rdF (tagBank t) (regA pg ty) 0 w = n ∧ z.rd (tagBank t) (regA pg arg) = v ∧ started pg z
    let key (c : Instr) (op : Nat) : Prop :=
      (∃ l, s.hostWrites c = some (t, l) ∧ s.admitsAll t l = true) → s.completes c fun z =>
        z.rdF (tagBank t) (regA pKey 0x050) 0 4 = op ∧
          z.rdF (tagBank t) (regA pKey 0x050) 4 28 = s.rdF (tagBank t) (regA pKey 0x050) 4 28 ∧ started pKey z
    let set (c : Instr) (op : Nat) (pg : BitVec 11) : Prop :=
      (∃ l, s.hostWrites c = some (t, l) ∧ s.admitsAll t l = true) → s.completes c fun z =>
        z.rdF 0 (mgtA 0x0B0) 0 2 = op ∧ z.rdF 0 (mgtA 0x0B0) 16 11 = pg.toNat ∧ started pMgt z
    (∀ o, asked (.takeQueryRoute t o) pTake 0x0B0 1 0x0B4 (wd o.toNat) 0) ∧
    (∀ g, asked (.takeQueryTag t g) pTake 0x0B0 1 0x0B4 g 1) ∧
    (∀ ch, asked (.audQueryRoute t ch) pAud 0x0D0 2 0x0D4 (wd ch.toNat) 0) ∧
    (∀ ch, asked (.audQueryPeak t ch) pAud 0x0D0 2 0x0D4 (wd ch.toNat) 1) ∧
    (∀ g, asked (.audQueryTag t g) pAud 0x0D0 2 0x0D4 g 2) ∧
    key (.derive t) 1 ∧ key (.loadKek t) 2 ∧ key (.importKey t) 3 ∧ key (.sign t) 4 ∧ key (.check t) 5 ∧ key (.invalidate t) 6 ∧
    key (.newEpoch t) 7 ∧ key (.sealDebug t) 8 ∧ key (.rma t) 9 ∧
    ∀ pg, set (.settingsRead t pg) 1 pg ∧ set (.settingsWrite t pg) 2 pg

/-- Admitted: at the BMX page each of ERR_COUNT, REIN_COUNT and REIN_MAXLAT is copied to its snapshot register and reads 0; at the
KEY page the two counters of the tag's own bank are, and those of other banks stay; a page without a snapshot register changes
nothing. -/
def Obligations.SnapshotCopiesAndClears : Prop :=
  ∀ (s : State) (t : Tag),
    (s.admits (hostAccess t pBmx 0x058 1) = true → s.completes (.snapshot t 1) fun z =>
      (∀ p ∈ [(0x044, 0x05C), (0x050, 0x060), (0x054, 0x064)],
        z.rd 0 (regA pBmx p.2) = s.rd 0 (regA pBmx p.1) ∧ z.rd 0 (regA pBmx p.1) = 0) ∧ z.tbl = s.tbl ∧ s.memKept z) ∧
    (s.admits (hostAccess t pKey 0x048 1) = true → s.completes (.snapshot t 5) fun z =>
      (∀ p ∈ [(0x068, 0x070), (0x06C, 0x074)],
        z.rd (tagBank t) (regA pKey p.2) = s.rd (tagBank t) (regA pKey p.1) ∧ z.rd (tagBank t) (regA pKey p.1) = 0 ∧
        ∀ b, b < 16 → b ≠ tagBank t → z.rd b (regA pKey p.1) = s.rd b (regA pKey p.1)) ∧ z.tbl = s.tbl ∧ s.memKept z) ∧
    ∀ (pg : PageNo) (k : PageKind) (i : Nat), pageOf pg = some (k, i) → snapOff k = none → s.admits (hostAccess t pg 0 1) = true →
      s.completes (.snapshot t pg) fun z => { z with bus := s.bus } = { s.admitted (hostAccess t pg 0 1) with bus := s.bus }

/-- Admitted: QUEUE_ENABLE of a disabled queue with LOG2SIZE 4 to 12 sets EN, keeps the other fields, reads running, and starts at
Q_HEAD with no descriptor in flight; with another LOG2SIZE, EN stays 0. QUEUE_DISABLE of an enabled queue clears EN and reads
draining. Q_TAIL_WRITE stores the tail. QUEUE_DRAIN_DONE makes a draining queue without descriptors in flight disabled, and changes
nothing of any other. -/
def Obligations.DmaQueues : Prop :=
  ∀ (s : State) (t : Tag) (q : Fin 64) (rx : Bool),
    let a := qA q rx + 0x08
    let on := setBit (s.qCfg q rx) 0 true
    let no := setBit (s.qCfg q rx) 0 false
    let size := fld (s.qCfg q rx) 4 4
    (s.admits (.w32 t a on) = true → s.qEn q rx = false → s.qState q rx = 0 → 4 ≤ size → size ≤ 12 →
      s.completes (.queueEnable t q rx) fun z => z.qEn q rx = true ∧ z.qState q rx = 1 ∧
        fld (z.qCfg q rx) 4 28 = fld (s.qCfg q rx) 4 28 ∧ z.qrec q rx = { QRec.idle with fetch := s.rdF 0 (qA q rx + 0x10) 0 12 } ∧
        (s.admitted (.w32 t a on)).regsKept z [regKey 0 a, regKey 0 (qA q rx + 0x18)] ∧ z.tbl = s.tbl ∧ s.memKept z) ∧
    (s.admits (.w32 t a on) = true → s.qEn q rx = false → size < 4 ∨ 12 < size →
      s.completes (.queueEnable t q rx) fun z => z.qEn q rx = false ∧ z.qState q rx = s.qState q rx ∧ z.tbl = s.tbl ∧ s.memKept z) ∧
    (s.admits (.w32 t a no) = true → s.qEn q rx = true →
      s.completes (.queueDisable t q rx) fun z => z.qEn q rx = false ∧ z.qState q rx = 3 ∧ z.qrec q rx = s.qrec q rx ∧
        fld (z.qCfg q rx) 1 31 = fld (s.qCfg q rx) 1 31 ∧
        (s.admitted (.w32 t a no)).regsKept z [regKey 0 a, regKey 0 (qA q rx + 0x18)] ∧ z.tbl = s.tbl ∧ s.memKept z) ∧
    (∀ tail : BitVec 12, s.admits (.w32 t (qA q rx + 0x0C) (wd tail.toNat)) = true →
      s.completes (.qTailWrite t q rx tail) fun z => z.rd 0 (qA q rx + 0x0C) = wd tail.toNat ∧
        z.host.queues = s.host.queues ∧ z.tbl = s.tbl ∧ s.memKept z) ∧
    (s.qState q rx = 3 → (s.qrec q rx).flight = [] → s.completes (.queueDrainDone q rx) fun z => z.qState q rx = 0 ∧
      s.onlyRegs z [regKey 0 (qA q rx + 0x18)]) ∧
    (s.qState q rx ≠ 3 ∨ (s.qrec q rx).flight ≠ [] → exec (.queueDrainDone q rx) s = .next s)

/-- With PERST_N high. DESCRIPTOR_FETCH in a running queue with fewer than 512 in flight and descriptors left before Q_TAIL adds the
descriptor behind those in flight, marks it bad when its TAG is not the one expected, expects its TAG plus 1 next, and moves on by
one in the ring; then a transmit queue of BIND 1 hands whole chains to its port, and any other queue is left so. DESCRIPTOR_COMPLETE
of a running queue whose endpoint is not within the part or is done with the oldest descriptor, or whose oldest descriptor broke the
TAG sequence, writes that descriptor back at its ring entry, drops it from those in flight, advances Q_HEAD by one in the ring, and
leaves its TAG in Q_DONE_TAG; a descriptor whose TAG broke the sequence completes with status SEQ and halts the queue. No memory of
the reel store changes. -/
def Obligations.DescriptorsInRingOrder : Prop :=
  ∀ (s : State) (q : Fin 64) (rx : Bool), s.host.perstN = true → s.qState q rx = 1 →
    (∀ (d : BitVec 256) (hdr : BitVec 128), (s.qrec q rx).flight.length < 512 →
      (s.qrec q rx).fetch % s.ringSize q rx ≠ s.rdF 0 (qA q rx + 0x0C) 0 12 % s.ringSize q rx →
      s.completes (.descriptorFetch q rx d hdr) fun z => ∃ u : State,
        (∃ play fin, (u.qrec q rx).flight = (s.qrec q rx).flight ++
          [Flight.mk (descWord d 3) (match (s.qrec q rx).nextTag with | some e => decide (descWord d 3 ≠ e) | none => false) d hdr
            false play fin]) ∧
        (u.qrec q rx).nextTag = some (descWord d 3 + 1) ∧
        (u.qrec q rx).fetch = ((s.qrec q rx).fetch + 1) % s.ringSize q rx ∧
        (∀ q' rx', q' < 64 → qIx q' rx' ≠ qIx q rx → u.qrec q' rx' = s.qrec q' rx') ∧ { u with host := s.host } = s ∧
        z = if rx = false ∧ s.qBind q rx = 1 then u.giveQueue q else u) ∧
    ∀ (r : WriteBack) (f : Flight) (rest : List Flight), (s.qrec q rx).flight = f :: rest →
      within (s.qBind q rx) rx = false ∨ f.fin.isSome = true ∨ f.bad = true →
      s.completes (.descriptorComplete q rx r) fun z =>
        (z.qrec q rx).flight = rest ∧ (z.qrec q rx).nextTag = (s.qrec q rx).nextTag ∧
        z.rdF 0 (qA q rx + 0x10) 0 12 = (s.rdF 0 (qA q rx + 0x10) 0 12 + 1) % s.ringSize q rx % 4096 ∧
        z.rd 0 (qA q rx + 0x14) = f.tag ∧
        (∃ ws more, z.out = s.out ++ [.writeBack q rx (s.ringAddr q rx (s.rdF 0 (qA q rx + 0x10) 0 12)) ws] ++ more ∧
          ws.getD 3 0 = f.tag ∧ ws.length = 8) ∧
        (f.bad = true → z.qState q rx = 2 ∧ z.rdF 0 (qA q rx + 0x18) 4 8 = 4) ∧
        s.regsKept z [regKey 0 (qA q rx + 0x10), regKey 0 (qA q rx + 0x14), regKey 0 (qA q rx + 0x18)] ∧ s.memKept z

/-- Of partition p and cause k, with V the vector of the entry: an occurrence with EN = 0, with MSI-X of the function disabled or
with the vector masked sets PEND and sends nothing. When delivery is possible, MSIX_DELIVER sends one message of the vector and
clears PEND, and a second one sends nothing. Any number of occurrences while it cannot be sent, followed by an MSIX_DELIVER whose
write of MSI-X Enable, of the vector's mask or of VF Enable makes it possible, send one message. -/
def Obligations.InterruptCausesPend : Prop :=
  ∀ (s : State) (p : Fin 16) (k : Fin 256),
    let e := s.ent pHost p 1 k 0
    let v := fld e 0 6
    let closed (u : State) : Prop := bitOf e 31 = false ∨ u.host.msixEnable.getLsbD p = false ∨
      (Tab.get (fun _ => (0 : Word)) u.host.msix (p * 256 + v * 4 + 3)).getLsbD 0 = true
    (closed s → bitOf ((s.cause p k).ent pHost p 1 k 0) 30 = true ∧ (s.cause p k).out = s.out) ∧
    (s.canSend p v = true → bitOf e 30 = true → bitOf e 31 = true → s.completes (.msixDeliver p k none) fun z =>
      z.out = s.out ++ [.msix p v k] ∧ bitOf (z.ent pHost p 1 k 0) 30 = false ∧
      s.tblKept z [tblKey pHost p 1 k 0] ∧ { z with tbl := s.tbl, out := s.out } = s ∧ exec (.msixDeliver p k none) z = .next z) ∧
    (closed s → ∀ n w, 0 < n → bitOf e 31 = true → (s.pcieWrite p w).canSend p v = true →
      (Nat.repeat (fun u : State => u.cause p k) n s).completes (.msixDeliver p k w) fun z => z.out = s.out ++ [.msix p v k])

/-- With HOLDOFF not 0 and completions since the last interrupt, none is left counted, and the queue's completion cause, q for a
transmit queue and 64 + q for a receive queue, occurs for the queue's owner: its message is sent or PEND is set. No register and no
memory changes. -/
def Obligations.InterruptHoldoff : Prop :=
  ∀ (s : State) (q : Fin 64) (rx : Bool), s.rdF 0 (qA q rx + 0x1C) 0 16 ≠ 0 → (s.qrec q rx).since ≠ 0 →
    let k := if rx then 64 + q.val else q.val
    let p := s.partOwner 7 q
    let e := s.ent pHost p 1 k 0
    s.completes (.interruptHoldoffExpire q rx) fun z => (z.qrec q rx).since = 0 ∧ (z.qrec q rx).flight = (s.qrec q rx).flight ∧
      ((z.out = s.out ++ [.msix p (fld e 0 6) k] ∧ z.tbl = s.tbl) ∨ (z.out = s.out ∧ bitOf (z.ent pHost p 1 k 0) 30 = true)) ∧
      z.regs = s.regs ∧ s.memKept z

/-- With VF Enable set, FLR_VF n (1 to 15) disables both queues of every pair that Pn owns and discards their descriptors without
write-back, clears the function's MSI-X table and MSI-X Enable, and resets the P-bank of the HOST table and window; a queue of
another owner, any register of another page and the other functions' MSI-X tables stay. FLR_PF does so for P0, and, with VF Enable
set, it and VF_ENABLE_CLEAR do so for every virtual function and clear VF Enable. With VF Enable clear, FLR_VF and VF_ENABLE_CLEAR
change nothing. Nothing is written back and no memory changes. -/
def Obligations.FunctionLevelResets : Prop :=
  ∀ s : State,
    let gone (n : Nat) (z : State) : Prop :=
      (∀ q rx, q < 64 → s.partOwner 7 q = n → z.qEn q rx = false ∧ z.qState q rx = 0 ∧ z.qrec q rx = QRec.idle) ∧
      (∀ v w, v < 64 → w < 4 → Tab.get (fun _ => (0 : Word)) z.host.msix (n * 256 + v * 4 + w) = 0) ∧
      z.host.msixEnable.getLsbD n = false ∧ (∀ k, k < 256 → z.ent pHost n 1 k 0 = 0) ∧
      ∀ j, j < 20 → z.rd n (regA pHost (0x1000 + 4 * j)) = 0
    let kept (z : State) : Prop :=
      (∀ k, k % 2 ^ 28 / 65536 ≠ pHost → Tab.get regReset z.regs k = Tab.get regReset s.regs k) ∧
      (∀ k, k / 2 ^ 48 ≠ pHost → Tab.get tblReset z.tbl k = Tab.get tblReset s.tbl k) ∧ s.memKept z ∧ z.out = s.out
    (∀ n : Fin 16, n ≠ 0 → s.host.vfEnable = true → s.completes (.flrVf n) fun z => gone n z ∧ kept z ∧ z.host.vfEnable = true ∧
      ∀ q rx, q < 64 → s.partOwner 7 q ≠ n → z.qCfg q rx = s.qCfg q rx ∧ z.qState q rx = s.qState q rx ∧
        z.qrec q rx = s.qrec q rx) ∧
    (s.completes .flrPf fun z => gone 0 z ∧ (s.host.vfEnable = true → ∀ n, n < 16 → gone n z) ∧ kept z ∧ z.host.vfEnable = false) ∧
    (s.host.vfEnable = true → s.completes .vfEnableClear fun z => (∀ n, 1 ≤ n → n < 16 → gone n z) ∧ kept z ∧
      z.host.vfEnable = false ∧ ∀ q rx, q < 64 → s.partOwner 7 q = 0 → z.qCfg q rx = s.qCfg q rx ∧ z.qrec q rx = s.qrec q rx) ∧
    (s.host.vfEnable = false → exec .vfEnableClear s = .next s ∧ ∀ n, exec (.flrVf n) s = .next s)

/-- Of lane l, with the state of every other lane, every register outside the LANE and PORT pages of its block, every table word and
every byte of memory as before (but for the lanes of an Ethernet port, which retrain together): SIGNAL_DETECT moves WAIT_SIGNAL to
TRAIN, with preset 1 where frames are sent; STEP_UP_LOCK moves STEP_UP to TRAIN one step higher with preset 1; LANE_HOLD_EXPIRE
moves HOLD to READY; a timeout (TRAIN_TIMEOUT, RESULT 4, or 7 in STEP_UP within the limit of the attempt; TAP_TIMEOUT of an
unanswered request, RESULT 3) or a loss of lock in HOLD (RESULT 5) ends the attempt, in the next one's WAIT_SIGNAL or, after the
third, in FAILED; LOSS_OF_LOCK in READY counts one and leaves LOST, or with AUTO_RETRAIN attempt 1, and in TRAIN and STEP_UP it
counts one alone (log entries 160 and 162); SNR_LOW sets its event; RECEIVER_LOCK of a kept lane or of a TRAIN_MAN lane is READY;
RELOCK_TIMEOUT of a kept lane begins attempt 1. -/
def Obligations.LaneEvents : Prop :=
  ∀ (s : State) (l : Fin 384),
    let b := l.val / 8
    let frame (z : State) : Prop := s.onlyPages z [pLane b, pPort b] ∧ ∀ m, m < 384 → m ≠ l.val → z.lnState m = s.lnState m
    let failed (res : Nat) (z : State) : Prop := frame z ∧ z.rdF 0 (lnA l 0x50) 0 4 = res ∧
      bitOf (z.rd 0 (laneA b 0x04C)) (8 + l % 8) = true ∧
      if s.attempt l < 3 then z.lnState l = 1 ∧ z.attempt l = s.attempt l + 1 ∧
        z.lnStep l = (if s.blkMode b = 1 ∧ s.trainMan b = true then s.maxStep b else 0) else z.lnState l = 7
    let counted (z : State) : Prop := z.rd 0 (lnA l 0x48) = wd (satAdd 32 (s.rd 0 (lnA l 0x48)).toNat 1) ∧
      bitOf (z.rd 0 (laneA b 0x04C)) (l % 8) = true
    (s.lnState l = 1 → s.completes (.signalDetect l) fun z => frame z ∧ z.lnState l = 2 ∧ (z.lane l).start = s.beat ∧
      (s.blkMode b = 1 → s.trainMan b = false → z.coefs l = presetCoefs 1)) ∧
    (s.lnState l ≠ 1 → exec (.signalDetect l) s = .next s) ∧
    (s.lnState l = 3 → s.completes (.stepUpLock l) fun z => frame z ∧ z.lnState l = 2 ∧ z.lnStep l = (s.lnStep l + 1) % 4 ∧
      z.coefs l = presetCoefs 1 ∧ (z.lane l).clean = 0 ∧ (z.lane l).req = none) ∧
    (s.lnState l = 4 → s.completes (.laneHoldExpire l) fun z => frame z ∧ z.lnState l = 5) ∧
    (s.lnState l = 2 → s.completes (.trainTimeout l) (failed 4)) ∧
    (s.lnState l = 3 → s.completes (.trainTimeout l) (failed (if attemptLimit < s.beat - (s.lane l).start then 4 else 7))) ∧
    (∀ q, (s.lane l).req = some q → q.answered = false → s.lnState l = 2 → s.completes (.tapTimeout l) (failed 3)) ∧
    (s.lnState l = 4 → s.completes (.lossOfLock l) fun z => failed 5 z ∧ counted z) ∧
    (s.lnState l = 5 → s.completes (.lossOfLock l) fun z => s.onlyPages z [pLane b, pPort b] ∧ counted z ∧
      ∀ m, m < 384 → z.lnState m = if s.autoRetrain b = true ∧ m ∈ s.trainsWith l then 1 else if m = l.val then 6 else s.lnState m) ∧
    (s.lnState l = 2 ∨ s.lnState l = 3 → s.completes (.lossOfLock l) fun z => frame z ∧ counted z ∧ z.lnState l = s.lnState l) ∧
    ((s.lnState l < 2 ∨ 5 < s.lnState l) → (s.lane l).shedAt ≠ some s.beat → exec (.lossOfLock l) s = .next s) ∧
    (∀ snr : BitVec 16, (s.lnState l = 2 ∨ s.lnState l = 4 ∨ s.lnState l = 5) → snr.toNat < s.rdF 0 (laneA b 0x050) 0 16 →
      s.completes (.snrLow l snr) fun z => frame z ∧ z.lnState l = s.lnState l ∧ z.rdF 0 (lnA l 0x10) 0 16 = snr.toNat ∧
        bitOf (z.rd 0 (laneA b 0x04C)) (16 + l % 8) = true) ∧
    (∀ snr : BitVec 16, s.lnState l ≠ 0 → s.lnState l ≠ 7 → s.completes (.receiverLock l snr) fun z => frame z ∧
      z.rdF 0 (lnA l 0x10) 0 16 = snr.toNat ∧
      ((s.lane l).kept = true → z.lnState l = 5 ∧ (z.lane l).kept = false) ∧
      ((s.lane l).kept = false → s.trainMan b = true → (s.lnState l = 1 ∨ s.lnState l = 2) → (s.blkMode b ≠ 1 ∨ 191 ≤ snr.toNat) →
        z.lnState l = 5)) ∧
    ((s.lane l).kept = true → s.completes (.relockTimeout l) fun z => frame z ∧ z.lnState l = 1 ∧ z.attempt l = 1 ∧
      (z.lane l).kept = false ∧ (z.lane l).first = false)

/-- On an Epvozel lane in TRAIN without TRAIN_MAN: the estimate of the SNR is stored and the clean frames in a row are counted. A
request of the control word whose CRC holds, with no RESULT standing, is answered with its tap echoed and the RESULT of R88; a
control word whose CRC fails changes no coefficient; and coefficients within the ranges, sum and eye constraints of R80 stay within
them. Unless the pattern generator has the lane, it sends one training frame at its step, both words with a CRC that holds (that it
sends one for each that arrives is the model's choice, log entry 155). Elsewhere the frame changes nothing. -/
def Obligations.TrainingFrameAnswers : Prop :=
  ∀ (s : State) (l : Fin 384) (ctl sts : BitVec 48) (clean : Bool) (snr : BitVec 16),
    ((s.lnState l ≠ 2 ∨ s.blkMode (l.val / 8) ≠ 1 ∨ s.trainMan (l.val / 8) = true) →
      exec (.trainingFrame l ctl sts clean snr) s = .next s) ∧
    (s.lnState l = 2 → s.blkMode (l.val / 8) = 1 → s.trainMan (l.val / 8) = false →
      s.completes (.trainingFrame l ctl sts clean snr) fun z =>
        z.rdF 0 (lnA l 0x10) 0 16 = snr.toNat ∧ (z.lane l).clean = (if clean then (s.lane l).clean + 1 else 0) ∧
        (∀ w, fieldWord ctl = some w → isTapRequest (fld w 0 4) (fld w 4 2) (fld w 6 3) = true → (s.lane l).result = 0 →
          (z.lane l).echo = fld w 0 4 ∧ (z.lane l).result = (answerTap (s.coefs l) (fld w 0 4) (fld w 4 2) (fld w 6 3)).1) ∧
        (fieldWord ctl = none → z.coefs l = s.coefs l) ∧
        (coefsOk (s.coefs l) = true → coefsOk (z.coefs l) = true) ∧
        (s.genOn l = false → ∃ c d, z.out = s.out ++ [.trainFrame l (s.lnStep l) c d] ∧ (fieldWord c).isSome = true ∧
          (fieldWord d).isSome = true) ∧
        s.onlyPages z [pLane (l.val / 8), pPort (l.val / 8)])

/-- Admitted at the block's page. LANE_START with the micro-sequencer loaded and a mode set moves every enabled lane that is OFF or
FAILED to WAIT_SIGNAL and leaves the others; not loaded, it changes no state of a lane. LANE_STOP sends every lane to OFF.
LANE_RETRAIN moves each lane of its mask that is READY or FAILED and not in MISSION to WAIT_SIGNAL of attempt 1, when no lane of the
mask is in MISSION, and leaves the rest. LANE_SHED in Epvozel mode moves each READY lane of its mask to LOST, or with AUTO_RETRAIN
to attempt 1, and leaves the rest, where the PORT page does not make the block Ethernet, whose lanes retrain together. No table word
and no byte of memory changes. -/
def Obligations.LaneBlockControl : Prop :=
  ∀ (s : State) (t : Tag) (b : Fin 48),
    let of (z : State) (f : Nat → Nat) : Prop := (∀ i, i < 8 → z.lnState (b * 8 + i) = f (b * 8 + i)) ∧ z.tbl = s.tbl ∧ s.memKept z
    (s.admits (.w32 t (laneA b 0x044) 1) = true → s.completes (.laneStart t b) fun z =>
      of z fun l => if s.seqState b ≠ 0 ∧ s.blkMode b ≠ 0 ∧ s.lnEn l = true ∧ (s.lnState l = 0 ∨ s.lnState l = 7) then 1
        else s.lnState l) ∧
    (s.admits (.w32 t (laneA b 0x044) 2) = true → s.completes (.laneStop t b) fun z => of z fun _ => 0) ∧
    (∀ mask : BitVec 8, s.admits (.w32 t (laneA b 0x044) (wd (mask.toNat * 256))) = true →
      (∀ i, i < 8 → mask.getLsbD i = true → s.mission (b * 8 + i) = false) →
      s.completes (.laneRetrain t b mask) fun z =>
        of z fun l => if mask.getLsbD (l % 8) = true ∧ (s.lnState l = 5 ∨ s.lnState l = 7) then 1 else s.lnState l) ∧
    ∀ mask : BitVec 8, s.admits (.w32 t (laneA b 0x044) (wd (mask.toNat * 65536))) = true → s.blkMode b = 1 →
      s.portType b ≠ 2 ∨ s.autoRetrain b = false →
      s.completes (.laneShed t b mask) fun z =>
        of z fun l => if mask.getLsbD (l % 8) = true ∧ s.lnState l = 5 then (if s.autoRetrain b then 1 else 6) else s.lnState l

/-- Admitted. LANE_BLK_CFG_WRITE to an unlocked page with legal MODE and MAXSTEP stores the register, unless the write changes a
guarded field while the micro-sequencer runs: then the register keeps its value. LANE_DISABLE of an unlocked page clears EN, and an
enabled lane goes to OFF. PRBS_GEN_WRITE stores a supported pattern for a lane that the farrier test does not hold and that is not
to send it in MISSION, and with EN the pattern leaves the lane; otherwise the register keeps its value and nothing leaves. INJECT_GO
with a legal RATE_LOG2 and no injection in progress sends a single error, starts rate mode or sends a burst, on the target it names;
another one sends nothing. TX_COEF_WRITE under TRAIN_MAN within R80, and in an Ethernet mode within the clause, waits for the
boundary, and otherwise nothing waits anew; the coefficients themselves stay. -/
def Obligations.LaneRegisterWrites : Prop :=
  (∀ (s : State) (t : Tag) (b : Fin 48) (d : Word), s.admits (.w32 t (laneA b 0x040) d) = true → s.pageLocked (pLane b) = false →
    fld d 0 3 < 5 → 2 ≤ fld d 4 2 →
    let same := fld d 0 3 = s.blkMode b ∧ fld d 4 2 = s.maxStep b ∧ bitOf d 9 = s.trainMan b ∧ bitOf d 10 = s.shedEn b
    (s.seqState b = 0 ∨ s.seqState b = 1 ∨ same → s.completes (.laneBlkCfgWrite t b d) fun z =>
      z.rd 0 (laneA b 0x040) = wd (Nat.land d.toNat 0xF37) ∧ (fld d 0 3 ≠ s.blkMode b → ∀ i, i < 8 → z.lnState (b * 8 + i) = 0)) ∧
    (¬(s.seqState b = 0 ∨ s.seqState b = 1 ∨ same) → s.completes (.laneBlkCfgWrite t b d) fun z =>
      z.rd 0 (laneA b 0x040) = s.rd 0 (laneA b 0x040) ∧ bitOf (z.rd 0 (regA (pLane b) 0x018)) 4 = true)) ∧
  ∀ (s : State) (t : Tag) (l : Fin 384),
    let b := l.val / 8
    (s.admits (.w32 t (lnA l 0x00) (setBit (s.rd 0 (lnA l 0x00)) 0 false)) = true → s.pageLocked (pLane b) = false →
      s.rdF 0 (lnA l 0x00) 4 2 ≠ 3 → s.completes (.laneDisable t l) fun z =>
        z.lnEn l = false ∧ (s.lnEn l = true → z.lnState l = 0) ∧ z.tbl = s.tbl ∧ s.memKept z) ∧
    (∀ d, s.admits (.w32 t (lnA l 0x14) d) = true → s.completes (.prbsGenWrite t l d) fun z =>
      let ok := s.farrierHeld l = false ∧ (bitOf d 0 = false ∨ s.mission l = false) ∧ patternOk (s.blkMode b) (fld d 4 4) = true
      (ok → z.rd 0 (lnA l 0x14) = wd (Nat.land d.toNat 0x1F1) ∧
        z.out = s.out ++ if bitOf d 0 then [.pattern l (fld d 4 4) (z.genLevels l)] else []) ∧
      (¬ok → z.rd 0 (lnA l 0x14) = s.rd 0 (lnA l 0x14) ∧ z.out = s.out) ∧ z.tbl = s.tbl ∧ s.memKept z) ∧
    (∀ d, s.admits (.w32 t (lnA l 0x1C) (setBit d 31 true)) = true → s.farrierHeld l = false → bitOf d 2 = false ∨ s.injArm b = true →
      s.completes (.injectGo t l d) fun z =>
        let ok := 10 ≤ fld d 8 6 ∧ fld d 8 6 ≤ 40 ∧ (s.lane l).injUntil ≤ s.beat
        (ok → fld d 0 2 = 1 → z.out = s.out ++ [.errors l (fld d 2 1) 1]) ∧
        (ok → fld d 0 2 = 2 → (z.lane l).rateInj = true ∧ z.out = s.out) ∧
        (ok → fld d 0 2 = 3 → z.out = if fld d 16 8 = 0 then s.out else s.out ++ [.errors l (fld d 2 1) (fld d 16 8)]) ∧
        (ok → fld d 0 2 = 0 → (z.lane l).rateInj = false ∧ z.out = s.out) ∧
        (¬ok → z.out = s.out ∧ z.lanes = s.lanes ∧ z.rd 0 (lnA l 0x1C) = s.rd 0 (lnA l 0x1C))) ∧
    ∀ d : Dword, s.admits ⟨t, tagNum t, lnA l 0x08, 3, false, true, d.toNat⟩ = true → s.completes (.txCoefWrite t l d) fun z =>
      (z.lane l).pendCoef = (if s.trainMan b = true ∧ coefsFit (s.blkMode b) d.toNat = true then some (BitVec.ofNat 64 (d.toNat % 2 ^ 48))
        else (s.lane l).pendCoef) ∧ z.rd64 0 (lnA l 0x08) = s.rd64 0 (lnA l 0x08)

/-- SEQ_LOADED of a block not loaded or in FAULT makes its page READY, and SEQ_STATE IDLE with every lane OFF, BRINGUP while one
comes up, else RUNNING. SEQ_FAULT sets FAULT and its event, and every lane that is not READY goes to FAILED. CHECKER_LOCK of an
enabled checker sets its lock, and its bits are compared; CHECKER_UNLOCK of a locked one clears it and counts one error.
INJECT_RATE_ERROR sends an error while rate mode runs. TX_COEF_APPLY puts waiting coefficients in force, in an Ethernet mode with
the taps that the clause does not name at 0. -/
def Obligations.LaneTestEvents : Prop :=
  (∀ (s : State) (b : Fin 48),
    (s.seqState b = 0 ∨ s.seqState b = 4 → s.completes (.seqLoaded b) fun z => z.ready (pLane b) = true ∧
      z.seqState b = (if (blockLanes b).all (fun l => s.lnState l == 0) = true then 1
        else if (blockLanes b).any (fun l => decide (1 ≤ s.lnState l ∧ s.lnState l ≤ 4)) = true then 2 else 3) ∧
      s.onlyRegs z [regKey 0 (laneA b 0x048), regKey 0 (laneA b 0x014)]) ∧
    s.completes (.seqFault b) fun z => z.seqState b = 4 ∧ bitOf (z.rd 0 (laneA b 0x04C)) 24 = true ∧
      (∀ i, i < 8 → z.lnState (b * 8 + i) = if s.lnState (b * 8 + i) = 5 then 5 else 7) ∧ s.onlyPages z [pLane b]) ∧
  ∀ (s : State) (l : Fin 384),
    (bitOf (s.rd 0 (lnA l 0x18)) 0 = true → s.completes (.checkerLock l) fun z => bitOf (z.rd 0 (lnA l 0x04)) 10 = true ∧
      (z.lane l).checking = true ∧ s.regsKept z [regKey 0 (lnA l 0x04)] ∧ { z with regs := s.regs, lanes := s.lanes } = s) ∧
    (bitOf (s.rd 0 (lnA l 0x04)) 10 = true → s.completes (.checkerUnlock l) fun z => bitOf (z.rd 0 (lnA l 0x04)) 10 = false ∧
      z.rd64 0 (lnA l 0x30) = min (s.rd64 0 (lnA l 0x30) + 1) (2 ^ 64 - 1) ∧ (z.lane l).checking = false ∧
      s.regsKept z [regKey 0 (lnA l 0x04), regKey 0 (lnA l 0x30), regKey 0 (lnA l 0x34)] ∧
      { z with regs := s.regs, lanes := s.lanes } = s) ∧
    ((s.lane l).rateInj = true → s.completes (.injectRateError l) fun z =>
      z = { s with out := s.out ++ [.errors l (s.rdF 0 (lnA l 0x1C) 2 1) 1] }) ∧
    ∀ v, (s.lane l).pendCoef = some v → s.completes (.txCoefApply l) fun z =>
      z.coefs l = (if s.blkMode (l / 8) < 2 then coefsOf v.toNat else heldTaps (s.blkMode (l / 8)) (coefsOf v.toNat)) ∧
      (z.lane l).pendCoef = none ∧ s.regsKept z [regKey 0 (lnA l 0x08), regKey 0 (lnA l 0x0C)]

/-- ETH_LINK_UP of an Ethernet port, not sparing: where the partner's ability is missing under auto-negotiation only the no-ability
bit is set; otherwise, with all its lanes READY, or all in TRAIN at a first bring-up without TRAIN_MAN (that the event means
training is complete is the model's choice, log entry 159), the link is up, its lanes are READY and in MISSION and no remote fault
stands. ETH_LINK_DOWN of a port that is up takes the link down, clears its LPI bits, takes its lanes out of MISSION and sets
PORT.LINK. LPI_ENTER sets the port's LPI bit where R115 and R116 allow LPI, and changes nothing elsewhere; LPI_EXIT clears it.
PORT_BLK_CFG_WRITE and PORT_ETH_CFG_WRITE, admitted at an unlocked page, store legal values; a port whose SPARE bit they set is
down, and a reserved value, or BLK_CFG while the block runs, is refused with EVENT.CFG. Other ports' links stay, as does every
register outside the block's LANE and PORT pages. -/
def Obligations.EthernetPorts : Prop :=
  (∀ (s : State) (b : Fin 48) (p : Fin 8),
    let frame (z : State) : Prop := s.onlyPages z [pLane b, pPort b] ∧ ∀ q, q < 8 → q ≠ p.val → z.ethUp b q = s.ethUp b q
    (∀ ability, s.portType b = 2 → modesAgree 2 (s.econf b) (s.blkMode b) = true → p.val < portCount (s.econf b) →
      s.sparing b p = false → s.completes (.ethLinkUp b p ability) fun z => frame z ∧
        (s.negotiates b = true → ability = false → bitOf (z.rd 0 (portA b 0x058)) (8 + p) = true ∧ z.ethUp b p = s.ethUp b p ∧
          s.onlyRegs z [regKey 0 (portA b 0x058)]) ∧
        (s.negotiates b = false ∨ ability = true → (∀ l ∈ s.portLanes b p, s.lnState l = 5 ∨
            s.lnState l = 2 ∧ s.trainMan b = false ∧ (s.lane l).first = true) →
          z.ethUp b p = true ∧ bitOf (z.rd 0 (portA b 0x058)) (8 + p) = false ∧ b.val * 8 + p.val ∉ z.remote ∧
          ∀ l ∈ s.portLanes b p, z.lnState l = 5 ∧ z.mission l = true)) ∧
    (s.ethUp b p = true → s.completes (.ethLinkDown b p) fun z => frame z ∧ z.ethUp b p = false ∧
      bitOf (z.rd 0 (portA b 0x058)) (16 + p) = false ∧ bitOf (z.rd 0 (portA b 0x058)) (24 + p) = false ∧
      (∀ l ∈ s.portLanes b p, z.mission l = false) ∧
      z.rd 0 (portCtr b p 0x28) = wd (satAdd 32 (s.rd 0 (portCtr b p 0x28)).toNat 1) ∧ bitOf (z.rd 0 (portA b 0x048)) 0 = true) ∧
    (s.ethUp b p = false → exec (.ethLinkDown b p) s = .next s) ∧
    (¬(s.portType b = 2 ∧ s.ethUp b p = true ∧ s.econf b ≤ 4 ∧ bitOf (s.rd 0 (portA b 0x054)) (8 + p) = true ∧ s.sparing b p = false) →
      exec (.lpiEnter b p) s = .next s) ∧
    (s.portType b = 2 → s.ethUp b p = true → s.econf b ≤ 4 → bitOf (s.rd 0 (portA b 0x054)) (8 + p) = true → s.sparing b p = false →
      s.completes (.lpiEnter b p) fun z => bitOf (z.rd 0 (portA b 0x058)) (16 + p) = true ∧ frame z ∧
        z.ethUp b p = true ∧ s.onlyRegs z [regKey 0 (portA b 0x058)]) ∧
    s.completes (.lpiExit b p) fun z => bitOf (z.rd 0 (portA b 0x058)) (16 + p) = false ∧ frame z ∧ z.ethUp b p = s.ethUp b p ∧
      s.onlyRegs z [regKey 0 (portA b 0x058)]) ∧
  ∀ (s : State) (t : Tag) (b : Fin 48) (d : Word), s.pageLocked (pPort b) = false →
    (s.admits (.w32 t (portA b 0x040) d) = true → s.completes (.portBlkCfgWrite t b d) fun z => z.tbl = s.tbl ∧ s.memKept z ∧
      if (s.seqState b = 0 ∨ s.seqState b = 1) ∧ fld d 0 2 ≠ 3 ∧ fld d 4 3 < 6 then
        z.rd 0 (portA b 0x040) = wd (Nat.land d.toNat 0x73)
      else z.rd 0 (portA b 0x040) = s.rd 0 (portA b 0x040) ∧ bitOf (z.rd 0 (portA b 0x048)) 8 = true) ∧
    (s.admits (.w32 t (portA b 0x054) d) = true → s.completes (.portEthCfgWrite t b d) fun z => z.tbl = s.tbl ∧ s.memKept z ∧
      if fld d 0 2 ≠ 3 ∧ fld d 3 2 ≠ 3 then z.rd 0 (portA b 0x054) = wd (Nat.land d.toNat 0xFFFFFF1F) ∧
        ∀ p, p < 8 → z.ethUp b p = if bitOf d (16 + p) = true ∧ s.sparing b p = false then false else s.ethUp b p
      else z.rd 0 (portA b 0x054) = s.rd 0 (portA b 0x054) ∧ bitOf (z.rd 0 (portA b 0x048)) 8 = true)

/-- EPV_FRAME_SEND of a running block moves the frame number on by one and sends a frame on every READY lane whose data no generator
replaces, its header with that number, the lane, the block and an HCRC that holds. With no rejoin due, TX_LANES is the set of lanes
in service, none below MIN_LANES or, with SHED_EN = 0, while a lane is lost; the bank swaps exactly when MAP_SWAP waits, EPOCH moves
on by one exactly when lanes, bank or link state change or the link has gone down, and nothing waits any more. MAP_SWAP and REJOIN,
admitted, wait for the next frame. EPV_FRAME_RECEIVE on a READY lane of a running block: a frame whose codewords or header fail is
counted bad, and the sixteenth in a row is a loss of lock of its lane; a good frame counts its codewords and ends the count of bad
ones; one of another cable group takes the lane out of receive service and passes nothing on, and of any other the partner's masks,
bank and EPOCH are those of its header. -/
def Obligations.EpvozelFrames : Prop :=
  (∀ (s : State) (b : Fin 48), (s.epvRuns b = false → exec (.epvFrameSend b) s = .next s) ∧ (s.epvRuns b = true →
    s.completes (.epvFrameSend b) (fun z => (z.epvRec b).frame = (s.epvRec b).frame + 1 ∧
      (∃ (more : List Out) (runs : Nat → List (Nat × List Dword)), z.out = s.out ++ more ++
        (s.frameLanes b).map fun lane => .epvFrame b lane (z.epvHeader b lane) (runs lane)) ∧
      ∀ lane, lane < 8 → let h := z.epvHeader b lane
        h.length = 16 ∧ h.head? = some epvMarker ∧ hcrcOk h = true ∧ hword h 1 % 2 ^ 32 = ((s.epvRec b).frame + 1).toNat ∧
        hword h 1 / 2 ^ 41 % 8 = lane ∧ hword h 1 / 2 ^ 44 % 64 = b) ∧
    (bitOf (s.rd 0 (portA b 0x05C)) 9 = false → (s.epvRec b).rejoin = false → s.completes (.epvFrameSend b) fun z =>
      let lanes := s.txInService b
      let up := decide (s.minLanes b ≤ lanes.length) && (s.shedEn b || (s.epvRec b).shed == 0)
      let sent := if up then lanesMask lanes else 0
      let st := s.rd 0 (portA b 0x064)
      (z.epvRec b).swap = false ∧ (z.epvRec b).rejoin = false ∧ (z.epvRec b).down = false ∧
      z.rdF 0 (portA b 0x064) 0 8 = sent ∧ bitOf (z.rd 0 (portA b 0x064)) 17 = up ∧
      z.rdF 0 (portA b 0x064) 16 1 = (if (s.epvRec b).swap then 1 - fld st 16 1 else fld st 16 1) ∧
      z.rdF 0 (portA b 0x064) 24 8 = (if (s.epvRec b).swap = true ∨ (s.epvRec b).down = true ∨ fld st 0 8 ≠ sent ∨ bitOf st 17 ≠ up
        then (fld st 24 8 + 1) % 256 else fld st 24 8)) ∧
    ∀ t, (s.admits (.w32 t (portA b 0x060) 1) = true → s.completes (.mapSwap t b) fun z =>
        z.epvRec b = { s.epvRec b with swap := true } ∧ z.tbl = s.tbl ∧ s.memKept z) ∧
      (s.admits (.w32 t (portA b 0x060) 2) = true → s.completes (.rejoin t b) fun z =>
        z.epvRec b = { s.epvRec b with rejoin := true } ∧ z.tbl = s.tbl ∧ s.memKept z))) ∧
  ∀ (s : State) (b : Fin 48) (i : Fin 8) (f : EpvFrame), s.epvRuns b = true → s.lnState (b * 8 + i) = 5 →
    (f.fecOk = false ∨ hcrcOk f.hdr = false → s.completes (.epvFrameReceive b i f) fun z =>
      z.rd64 0 (portCtr b i 0x08) = (s.rd64 0 (portCtr b i 0x08) + 1) % 2 ^ 64 ∧
      if ((s.epvRec b).bad.getD i 0) = 15 then
        z.lnState (b * 8 + i) = (if s.autoRetrain b then 1 else 6) ∧ bitOf (z.rd 0 (portA b 0x048)) 3 = true
      else z.lnState (b * 8 + i) = 5 ∧ (z.epvRec b).bad = (s.epvRec b).bad.set i ((s.epvRec b).bad.getD i 0 + 1)) ∧
    (f.fecOk = true → hcrcOk f.hdr = true → s.completes (.epvFrameReceive b i f) fun z =>
      let h1 := hword f.hdr 1
      let h2 := hword f.hdr 2
      z.lnState (b * 8 + i) = 5 ∧ (z.epvRec b).bad = (s.epvRec b).bad.set i 0 ∧
      z.rd64 0 (portCtr b i 0x00) = (s.rd64 0 (portCtr b i 0x00) + f.codewords) % 2 ^ 64 ∧
      if bitOf (s.rd 0 (portA b 0x05C)) 8 = true ∧ h1 / 2 ^ 44 % 64 ≠ s.rdF 0 (portA b 0x05C) 10 6 then
        z.out = s.out ∧ z.mission (b * 8 + i) = false ∧ z.rxLane (b * 8 + i) = false ∧ bitOf (z.rd 0 (portA b 0x048)) 5 = true ∧
        z.epvRec b = { s.epvRec b with bad := (s.epvRec b).bad.set i 0 }
      else (z.epvRec b).peerEpoch = h1 / 2 ^ 32 % 256 ∧ (z.epvRec b).rxBank = h1 / 2 ^ 40 % 2 ∧
        (z.epvRec b).peerLanes = BitVec.ofNat 8 (h2 % 256) ∧ (z.epvRec b).peerOk = BitVec.ofNat 8 (h2 / 2 ^ 8) ∧
        (z.epvRec b).peerReady = BitVec.ofNat 8 (h2 / 2 ^ 16) ∧
        ((s.epvRec b).shed = 0 → z.mission (b * 8 + i) = true ∧ z.rxLane (b * 8 + i) = true))

/-- The placement loop over streams in order of priority and number, on lanes each listed once: every stream appears once, in that
order; each placed stream stands on one of the lanes within its 4,096 payload words; and no two placed streams share a word of a
lane. -/
def Obligations.PlacementNeverOverlaps : Prop :=
  ∀ (sts : List Stream) (lanes : List Nat), lanes.Nodup →
    let ps := placeAll (orderStreams sts) (lanes.map fun l => (l, [(0, 4096)]))
    ps.map (fun p => p.stream) = (orderStreams sts).map (fun st => st.num) ∧
    (orderStreams sts).Pairwise (fun x y => y.prio < x.prio ∨ (x.prio = y.prio ∧ x.num ≤ y.num)) ∧
    (∀ p ∈ ps, ∀ l a, p.at' = some (l, a) → l ∈ lanes ∧ a + p.words ≤ 4096) ∧
    ps.Pairwise (fun p q => ∀ l a a', p.at' = some (l, a) → q.at' = some (l, a') → a + p.words ≤ a' ∨ a' + q.words ≤ a)

/-- A frame at an Ethernet port whose link is up ends LPI. With the SecY off, or an EtherType in the bypass table, it leaves in
clear. With a usable SA in use it leaves under that SA's next packet number, which then is one higher, except the last number, after
which the SA is EXHAUSTED and raises its event; the number 2^64 - 2^32 raises the warning. A SA in use whose key has been destroyed
is EXHAUSTED with its event. With the SecY on, no usable SA and no destroyed key, nothing leaves and the discard is counted. A PTP
message passes the port's SecY as any frame does; one that is not relayed goes to the stack or the host of the time base it matches,
and one that matches none is counted and sets TIME.EVENT.PTP_DROP, and nothing leaves. -/
def Obligations.MacsecAndPtpMessages : Prop :=
  (∀ (s : State) (b : Fin 48) (p : Fin 8) (etype : BitVec 16), s.portType b = 2 → s.ethUp b p = true →
    let an := s.txAn b p
    let pn := s.saPn b p an
    let awake := if s.inLpi b p = true then s.lpiEnd b p else s
    (bitOf (s.secy b p) 0 = false ∨ s.bypassed b p etype.toNat = true → s.completes (.macsecTxFrame b p etype) fun z =>
      z = { awake with out := s.out ++ [.ethFrame b p none] } ∧ z.inLpi b p = false) ∧
    (bitOf (s.secy b p) 0 = true → s.bypassed b p etype.toNat = false → s.saUsable b p an = true →
      s.completes (.macsecTxFrame b p etype) fun z => z.out = s.out ++ [.ethFrame b p (some pn)] ∧ z.inLpi b p = false ∧
        (pn < 2 ^ 64 - 1 → z.saPn b p an = pn + 1) ∧
        (pn = 2 ^ 64 - 1 → z.saState b p an = 3 ∧ bitOf (z.rd 0 (portA b 0x048)) 7 = true) ∧
        (pn + 1 = 2 ^ 64 - 2 ^ 32 → z.saState b p an = 2 ∧ bitOf (z.rd 0 (portA b 0x048)) 6 = true)) ∧
    (bitOf (s.secy b p) 0 = true → s.bypassed b p etype.toNat = false → bitOf (s.sa b p an 0) 31 = true → s.saState b p an ≠ 3 →
      s.sakAlive (fld (s.sa b p an 0) 16 10) = false → s.completes (.macsecTxFrame b p etype) fun z => z.saState b p an = 3 ∧
        bitOf (z.rd 0 (portA b 0x048)) 7 = true ∧ z.saPn b p an = pn) ∧
    (bitOf (s.secy b p) 0 = true → s.bypassed b p etype.toNat = false →
      (bitOf (s.sa b p an 0) 31 = false ∨ s.saState b p an = 3) → s.completes (.macsecTxFrame b p etype) fun z => z.out = s.out ∧
        z.ent (pPort b) 0 0x15 p 2 = s.ent (pPort b) 0 0x15 p 2 + 1 ∧ z.regs = awake.regs)) ∧
  ∀ (s : State) (m : PtpMsg), s.portType m.block = 2 → s.ethUp m.block m.port = true →
    let q := s.secyIn m.block m.port (ptpEtype m) m.macsec
    (bitOf (s.secy m.block m.port) 0 = false → q = (true, s)) ∧
    (q.1 = false → s.completes (.ptpMessageReceive m) fun z => z = q.2 ∧ z.out = s.out ∧ z.regs = s.regs) ∧
    (q.1 = true → bitOf (s.ent pTime 0 6 (ptpPort m) 0) 31 = false →
      (∀ tb, s.ptpMatch m = some tb → s.completes (.ptpMessageReceive m) fun z =>
        z = { q.2 with out := s.out ++ [if bitOf (s.ent pTime 0 3 tb 0) 8 then .ptpHost tb m.block m.port else .ptpStack tb] }) ∧
      (s.ptpMatch m = none → s.completes (.ptpMessageReceive m) fun z => z.out = s.out ∧
        z.rd 0 (regA pTime 0x068) = s.rd 0 (regA pTime 0x068) + 1 ∧ bitOf (z.rd 0 (regA pTime 0x044)) 4 = true ∧ z.tbl = q.2.tbl ∧
        s.memKept z))

/-- KEY_CONFIRM, admitted, arms its code at this beat when P0, M or D writes it, and nothing otherwise. Of a request that P0 makes
in state s and that is served in state u: SEAL_DEBUG is accepted only if code 0xD5EA, and RMA only if 0x0A3A, was armed at most one
second (345,600,000 beats) before s. Without it, SEAL_DEBUG in SERVICE and RMA in SERVICE and MISSION, refused for no other reason,
finish with ECODE CONFIRM (11) and change nothing. -/
def Obligations.SealAndRmaNeedConfirm : Prop :=
  (∀ (s : State) (t : Tag) (code : BitVec 16), s.admits (hostAccess t pKey 0x064 (wd code.toNat)) = true →
    s.completes (.keyConfirm t code) fun z =>
      z.key = { s.key with confirm := if tagIsP0 t = true then some (code, s.beat) else s.key.confirm } ∧ z.tbl = s.tbl ∧ s.memKept z) ∧
  ∀ (s u : State) (tag : Word),
    let r := keyReqOf ⟨pKey, 0, 0, tag, 0, keyArgs 0 s⟩
    let armed (code : BitVec 16) : Prop := ∃ b, s.key.confirm = some (code, b) ∧ s.beat - b ≤ 345600000
    (r.op = 8 → (keyServe r u).1 = 0 → armed 0xD5EA) ∧
    (r.op = 9 → (keyServe r u).1 = 0 → armed 0x0A3A) ∧
    (r.op = 8 → u.stage = 1 → ¬armed 0xD5EA → (keyServe r u).1 = 11 ∧ (keyServe r u).2.2 = u) ∧
    (r.op = 9 → u.stage = 1 → u.fuse.lc = 1 → ¬armed 0x0A3A →
      (keyServe r u).1 = 11 ∧ (keyServe r u).2.2 = u)

/-- A key request that is served with no error: DERIVE gives its partition's lowest free handle from 17 up a usable node of the kind
asked for below its parent; with FRESH it first adds one to GEN_p and uses the new value, otherwise it uses a value not above GEN_p.
INVALIDATE leaves the node and every descendant unusable. NEW_EPOCH adds one to EPOCH_p of the partition named, and no node that
descended from its root is usable. SEAL_DEBUG blows all four fuses. RMA sets LC to RMA, leaves no node usable and no KEEP record,
and enters RECOVERY. A refused request never changes a fuse, GEN_p or EPOCH_p. -/
def Obligations.KeyRequestsServed : Prop :=
  ∀ (r : KeyReq) (s : State),
    let e := (keyServe r s).1
    let ws := (keyServe r s).2.1
    let z := (keyServe r s).2.2
    let part := s.nodePart r.handle
    (e = 0 → r.op = 1 →
      (z.gen part = if r.fresh then s.gen part + 1 else s.gen part) ∧ (r.fresh = true → dat ws 1 = s.gen part + 1) ∧
      (r.fresh = false → dat ws 1 = r.gen ∧ r.gen ≤ s.gen part) ∧ (∀ p, p ≠ part → z.gen p = s.gen p) ∧
      17 ≤ (dat ws 0).toNat ∧ s.node (dat ws 0).toNat 0 = 0 ∧ (∀ h, 17 ≤ h → h < (dat ws 0).toNat → h < 1024 → s.node h 0 ≠ 0) ∧
      z.usable (dat ws 0).toNat = true ∧ z.nodeKind (dat ws 0).toNat = r.kind ∧ z.nodeParent (dat ws 0).toNat = r.handle ∧
      z.nodePart (dat ws 0).toNat = part ∧ z.node (dat ws 0).toNat 1 = dat ws 1) ∧
    (e = 0 → r.op = 6 → z.usable r.handle = false ∧ ∀ h, h < 1024 → s.descends r.handle 8 h = true → z.usable h = false) ∧
    (e = 0 → r.op = 7 → z.epoch r.target = s.epoch r.target + 1 ∧ (∀ p, p ≠ r.target → z.epoch p = s.epoch p) ∧
      ∀ h, 17 ≤ h → h < 1024 → s.descends (1 + r.target) 8 h = true → z.usable h = false) ∧
    (e = 0 → r.op = 8 → z.fuse.dbgSeal = 0xF ∧ z.fuse.lc = s.fuse.lc) ∧
    (e = 0 → r.op = 9 → s.fuse.lc = 1 ∧ z.fuse.lc = 2 ∧ z.key.keep = [] ∧ z.stage = 2 ∧ ∀ h, h < 1024 → z.usable h = false) ∧
    (e ≠ 0 → z.fuse = s.fuse ∧ z.key.epoch = s.key.epoch ∧ z.key.gen = s.key.gen)

/-- ZEROING_DONE frees every node that is being destroyed and leaves the others; a valid transmit SA bound to a freed node is
EXHAUSTED, with PORT.EVENT.MS_EXH where it was not, and with none being destroyed nothing changes. MASK_REFRESH leaves every key as
it was, and without entropy changes nothing. ENTROPY_FAIL and ENTROPY_RESTORED set the health bit, the first with its event. TAMPER
zeroes every cell and leaves no node usable, with the KEEP records in place. MEAS_SEAL, with a device root and no tamper, seals the
chain of R424, enters SERVICE, and derives node 0 and the sixteen partition roots anew (records of other nodes than the roots alone
are restored). DEBUG_ACCESS sets DEBUGGED while the seal is intact, and does nothing once it is blown. -/
def Obligations.KeyStoreEvents : Prop :=
  ∀ s : State,
    ((∀ h ∈ s.nodes, s.nodeState h ≠ 3) → exec .zeroingDone s = .next s) ∧
    (s.completes .zeroingDone fun z => s.memKept z ∧ z.key = s.key ∧ z.fuse = s.fuse ∧
      (∀ k, (∀ b : Fin 48, k % 2 ^ 28 / 65536 ≠ pPort b) → Tab.get regReset z.regs k = Tab.get regReset s.regs k) ∧
      (∀ (b : Fin 48) (p : Fin 8) (an : Fin 4), bitOf (s.sa b p an 0) 31 = true →
        (let h := fld (s.sa b p an 0) 16 10; bitOf (s.node h 0) 31 = true ∧ s.nodeState h = 3) →
        z.saState b p an = 3 ∧ (s.saState b p an ≠ 3 → bitOf (z.rd 0 (portA b 0x048)) 7 = true)) ∧
      ∀ h, h < 1024 → (bitOf (s.node h 0) 31 = true → s.nodeState h = 3 → ∀ w, w < 7 → z.node h w = 0) ∧
        (bitOf (s.node h 0) 31 = false ∨ s.nodeState h ≠ 3 → ∀ w, w < 7 → z.node h w = s.node h w)) ∧
    (s.entropyOk = true → s.completes .maskRefresh fun z => (∀ h, z.nodeKey h = s.nodeKey h) ∧ z.regs = s.regs ∧ z.tbl = s.tbl ∧
      z.key = { s.key with cells := z.key.cells } ∧ s.memKept z) ∧
    (s.entropyOk = false → exec .maskRefresh s = .next s) ∧
    (s.completes .entropyFail fun z => z.entropyOk = false ∧ bitOf (z.rd 0 (regA pKey 0x044)) 3 = true ∧ z.key = s.key ∧
      s.onlyRegsOcc z [regKey 0 (regA pKey 0x040), regKey 0 (regA pKey 0x044), regKey 0 (regA pKey 0x018)]) ∧
    (s.completes .entropyRestored fun z => z.entropyOk = true ∧ s.onlyRegs z [regKey 0 (regA pKey 0x040)]) ∧
    (s.completes .tamper fun z => (∀ h, z.nodeKey h = 0) ∧ (∀ h, h < 1024 → z.usable h = false) ∧ z.key.keep = s.key.keep ∧
      z.key.tampered = true ∧ bitOf (z.rd 0 (regA pKey 0x044)) 4 = true ∧ z.fuse = s.fuse ∧ s.memKept z) ∧
    (∀ keyDig manDig rev root, s.stage ≠ 2 → s.deviceRoot = some root → s.key.tampered = false →
      (∀ r ∈ s.key.keep, 17 ≤ r.handle) → s.completes (.measSeal keyDig manDig rev) fun z =>
        let sb := s.fuse.lc.toNat + (if s.sealBlown then 4 else 0) + s.rdF 0 (regA pKey 0x040) 9 1 * 8
        z.stage = 1 ∧ z.meas = measChain sb keyDig manDig rev ∧
        z.nodeKey 0 = kdf root ['M', 'G', '-', 'S', 'V', 'C'] (beBytes 48 z.meas.toNat) ∧
        (∀ p, p < 16 → z.usable (1 + p) = true ∧ z.nodePart (1 + p) = p ∧
          z.nodeKey (1 + p) = kdf (z.nodeKey 0) ['M', 'G', '-', 'P', 'A', 'R', 'T'] (beBytes 1 p ++ beBytes 4 (s.epoch p).toNat)) ∧
        z.key.gen = s.key.gen ∧ z.key.epoch = s.key.epoch ∧ s.memKept z) ∧
    ∀ a, (s.sealBlown = true → exec (.debugAccess a) s = .next s) ∧
      (s.sealBlown = false → s.completes (.debugAccess a) fun z => bitOf (z.rd 0 (regA pKey 0x040)) 9 = true ∧
        s.regsKept z [regKey 0 (regA pKey 0x040)] ∧ { z with regs := s.regs, bus := s.bus } = s)

/-- A packet on a port that is down changes nothing. On a port that is up and without MACsec: one that no flow entry matches and
that is no PTP message goes to the receive queue of its port where UNMATCH is set, and otherwise sets ING0.EVENT bit 7; one to UDP
port 319 or 320 from which no PTP message can be read is counted in TIME; one that matches adds 1 to its flow's packets and its
length to its bytes, and changes registers of its slice's page alone; if errored, it sets bit 6 for the port's owner, if unreadable
it counts as such, and in both cases, as at a CUT port, no paddock changes. HOST_UNIT_LAUNCH without a whole buffer chain of a
running BIND 3 or 5 queue, or before LAUNCH_TIME, changes nothing; more than a beat after LAUNCH_TIME (log entry 151) the chain is
LATE; without a slot that fits, it is POLICED; otherwise an ancillary or opaque unit that the full bucket and the free pages admit,
at a port in PASS without frame synchroniser, joins the paddock, to be shown PASS_US later, and the chain is OK. -/
def Obligations.IngressPackets : Prop :=
  (∀ (s : State) (k : Packet), s.portUp k.block k.port = false → exec (.packetArrive k) s = .next s) ∧
  (∀ (s : State) (k : Packet), s.portUp k.block k.port = true → s.portType k.block ≠ 2 ∨ bitOf (s.secy k.block k.port) 0 = false →
    (s.classify k = none → k.ptp = none →
      ((k.dport = 319 ∨ k.dport = 320) → s.completes (.packetArrive k) fun z =>
        z.rd 0 (regA pTime 0x068) = s.rd 0 (regA pTime 0x068) + 1 ∧ bitOf (z.rd 0 (regA pTime 0x044)) 4 = true ∧ z.out = s.out ∧
        z.pad = s.pad ∧ s.onlyPages z [pTime]) ∧
      (k.dport ≠ 319 → k.dport ≠ 320 →
        (∀ q, s.portQueue k.block k.port = some q → bitOf (s.rd 0 (regA (pIng 0) 0x040)) 0 = true →
          s.completes (.packetArrive k) fun z => z = { s with out := s.out ++ [.toQueue q true] }) ∧
        (s.portQueue k.block k.port = none ∨ bitOf (s.rd 0 (regA (pIng 0) 0x040)) 0 = false → s.completes (.packetArrive k) fun z =>
          bitOf (z.rd 0 (regA (pIng 0) 0x048)) 7 = true ∧ z.out = s.out ∧ z.pad = s.pad ∧ s.onlyPages z [pIng 0]))) ∧
    ∀ sl idx, s.classify k = some (sl, idx) →
      let d0 := s.ent (pIng sl) 0 1 idx 0
      let ei := sl * 256 + fld d0 12 8
      let a := regA (pIng sl) 0x048
      let b := eventBank (pIng sl) (s.eiOwner ei)
      let fits := k.readable = true ∧ (s.inDesc ei (fld d0 20 4)).reads k.body = true
      s.completes (.packetArrive k) fun z =>
        pairOf (z.ent (pIng sl) 0 5 idx 0) (z.ent (pIng sl) 0 5 idx 1) =
          (pairOf (s.ent (pIng sl) 0 5 idx 0) (s.ent (pIng sl) 0 5 idx 1) + 1) % 2 ^ 64 ∧
        pairOf (z.ent (pIng sl) 0 5 idx 2) (z.ent (pIng sl) 0 5 idx 3) =
          (pairOf (s.ent (pIng sl) 0 5 idx 2) (s.ent (pIng sl) 0 5 idx 3) + k.bytes.toNat) % 2 ^ 64 ∧
        (k.errored = true → bitOf (z.rd b a) 6 = true ∧ z.pad = s.pad) ∧
        (k.errored = false → ¬ fits →
          z.ent (pIng sl) 0 5 idx 4 = wd (satAdd 32 (s.ent (pIng sl) 0 5 idx 4).toNat 1) ∧ z.pad = s.pad) ∧
        (s.padState ei = 4 → z.pad = s.pad) ∧
        (∀ j, j % 2 ^ 28 / 65536 ≠ pIng sl → Tab.get regReset z.regs j = Tab.get regReset s.regs j) ∧
        z.out = s.out ∧ s.memKept z) ∧
  ∀ (s : State) (q : Fin 64) (body : Payload),
    let chain := chainOf (s.qrec q false).flight
    let whole := (chain.getLast?.any fun g => bitOf (descWord g.desc 2) 25) && chain.all fun g => !g.bad
    let len := (chain.map fun g => fld (descWord g.desc 2) 0 16).sum
    let done (status : Nat) (moved : Bool) : State :=
      s.setQrec q false { s.qrec q false with flight := finish status moved chain.length (s.qrec q false).flight }
    (chain = [] ∨ whole = false ∨ s.qState q false ≠ 1 ∨ (s.qBind q false ≠ 3 ∧ s.qBind q false ≠ 5) →
      exec (.hostUnitLaunch q body) s = .next s) ∧
    ∀ f, chain.head? = some f → whole = true → s.qState q false = 1 → s.qBind q false = 3 ∨ s.qBind q false = 5 →
      let ei := s.qTarget q false
      let slot := fld (descWord f.desc 6) 0 4
      let launch := bitOf (descWord f.desc 2) 28
      let past := linDiff (s.linear (fld (s.qCfg q false) 13 3)) (pairOf (descWord f.desc 4) (descWord f.desc 5))
      let d := s.inDesc ei slot
      (launch = true → past < 0 → exec (.hostUnitLaunch q body) s = .next s) ∧
      (launch = true → 189630 < past → exec (.hostUnitLaunch q body) s = .next (done 2 false)) ∧
      (launch = false ∨ 0 ≤ past ∧ past ≤ 189630 →
        (s.hostUnitOk q ei slot (s.qBind q false) len body = false → exec (.hostUnitLaunch q body) s = .next (done 6 false)) ∧
        (s.hostUnitOk q ei slot (s.qBind q false) len body = true → s.padState ei = 3 → s.fsOf ei slot = none →
          Tab.get (fun _ => none) (s.padRec ei).tokens slot = none →
          ∀ u, (s.unitsOf ei slot true true 0 body).1 = [u] →
            u.size ≤ (if fld (s.ingCfg ei 2) 0 16 = 0 then 4096 else fld (s.ingCfg ei 2) 0 16) →
            u.size + (s.padRec ei).fill ≤ s.pages ei * 455 →
            s.completes (.hostUnitLaunch q body) fun z =>
              (z.padRec ei).units = (s.padRec ei).units ++
                [{ u with shown := (s.nowAt d.tb).add (1000 * fld (s.ingCfg ei 1) 16 16 : Nat) 1 }] ∧
              z.host = (done 0 true).host ∧ z.regs = s.regs ∧ z.out = s.out ∧ s.memKept z))

/-- A packet that the merge of a slot has taken from one plane is never taken again: a second arrival of it, on either plane, is
discarded and counted in DUP, and the numbers that the pair has taken stay. (A plane A copy in the beat in which plane B's was taken
counts as the one taken: log entry 150.) -/
def Obligations.MergeTakesOnce : Prop :=
  ∀ (s t : State) (ei slot parse : Nat) (planeB : Bool) (k : Packet), s.mergeTake ei slot parse planeB k = (true, t) →
    ∀ again, (t.mergeTake ei slot parse again k).1 = false ∧
      ((t.mergeTake ei slot parse again k).2.mergeRec ei slot).taken = (t.mergeRec ei slot).taken ∧
      (t.mergeTake ei slot parse again k).2.mergeEnt ei slot 4 = wd (satAdd 32 (t.mergeEnt ei slot 4).toNat 1)

/-- UNIT_PRESENT: a port neither ALIGNED nor in PASS presents nothing. An ancillary or opaque unit that is due, on a grid port with
one slot or on a pass port, leaves the paddock and is presented word after word from this beat, SOL on each packet's first word, SOF
and SWP on the frame's; an ancillary frame of a slot fed by extraction, without a packet, is one header word with DC = 0. SDI_EAV at
a running SDI port keeps its line and beat; a bad CRC is counted; the second matching frame in a row sets TRS_LOCK and the second
other frame clears it and sets ING.EVENT bit 2; one within an errored allotment is no EAV. TRS_TIMEOUT, 2 ms after the latest EAV,
clears TRS_LOCK, with that event if it was set. MERGE_PLANE_DOWN, LOS_US after the latest packet of a plane that is not DOWN, marks
it DOWN and sets bit 3; earlier, or of a plane that is DOWN, it changes nothing. -/
def Obligations.IngressUnits : Prop :=
  ∀ (s : State) (ei : Fin 4096),
    let a := regA (ingPg ei) 0x048
    let b := eventBank (ingPg ei) (s.eiOwner ei)
    (s.padState ei ≠ 2 → s.padState ei ≠ 3 → exec (.unitPresent ei) s = .next s) ∧
    (∀ k, let d := s.inDesc ei k
      let due := Tab.get (fun _ => []) s.fab.due ei
      let rows (us : List PadUnit) (begins : Bool) : List (Nat × FWord) :=
        (us.flatMap fun x => x.words.map fun w => (x, w)).zipIdx.map fun e =>
          let f := if d.kind = 3 then begins && e.2 == 0 else e.1.1.first && e.1.2.sol
          (s.beat + e.2, fword e.1.2.data f e.1.2.sol f k)
      d.kind = 3 ∨ d.kind = 5 → d.mode ≠ 1 → s.isCut ei = false → k < 16 →
      (s.padState ei = 2 → s.slotsOf ei = [k] → s.fsOf ei k = none →
        (∀ l, Tab.get (fun _ => none) (s.padRec ei).last k = some l → l < s.unitDue d) →
        s.completes (.unitPresent ei) fun z =>
          let mine := (s.padRec ei).units.filter fun x => x.slot == k && x.unit == s.unitDue d
          let bare := d.kind == 3 && mine.isEmpty && (s.ancSource ei k none).any fun x => s.trsLock x
          Tab.get (fun _ => []) z.fab.due ei = (due.filter fun e => e.2.slot != k) ++
            (if bare then [(s.beat, fword 0 true true true k)] else rows mine true) ∧
          (z.padRec ei).units = ((s.padRec ei).units.filter fun x => !(x.slot == k && decide (x.unit ≤ s.unitDue d))) ∧
          Tab.get (fun _ => none) (z.padRec ei).last k = some (s.unitDue d) ∧ z.regs = s.regs ∧ s.memKept z) ∧
      ∀ x, s.padState ei = 3 → ((s.padRec ei).units.find? fun x => s.reached x.shown) = some x → x.slot = k →
        s.completes (.unitPresent ei) fun z =>
          Tab.get (fun _ => []) z.fab.due ei =
            due ++ rows [x] (Tab.get (fun _ => none) (s.padRec ei).last k != some x.unit) ∧
          (z.padRec ei).units = (s.padRec ei).units.erase x ∧ z.regs = s.regs ∧ s.memKept z) ∧
    (∀ e : Eav, let t := (s.padRec ei).trs
      let d := s.inDesc ei 0
      d.valid = true → d.kind = 4 → s.padState ei ≠ 0 → s.padState ei ≠ 4 →
      (e.trsErr = true → s.completes (.sdiEav ei e) fun z =>
        (z.padRec ei).trs = { t with frame := t.frame.map fun f => { f with ok := false } } ∧ { z with pad := s.pad } = s) ∧
      (e.trsErr = false → s.completes (.sdiEav ei e) fun z =>
        (z.padRec ei).trs.line = e.line.toNat ∧ (z.padRec ei).trs.beat = s.beat ∧ (z.padRec ei).trs.seen = true ∧
        z.ingSt ei 7 = (if e.crcOk then s.ingSt ei 7 else wd (satAdd 32 (s.ingSt ei 7).toNat 1)) ∧
        (∀ f, e.line = 1 → t.frame = some f → d.frameOk f = true → 1 ≤ t.good → z.trsLock ei = true) ∧
        (∀ f, e.line = 1 → t.frame = some f → d.frameOk f = false → 1 ≤ t.bad → s.trsLock ei = true →
          z.trsLock ei = false ∧ bitOf (z.rd b a) 2 = true) ∧ s.memKept z)) ∧
    ((s.padRec ei).trs.seen = true → (s.padRec ei).trs.beat + 691200 ≤ s.beat → s.completes (.trsTimeout ei) fun z =>
      (z.padRec ei).trs = TrsRec.idle ∧ z.trsLock ei = false ∧ (s.trsLock ei = true → bitOf (z.rd b a) 2 = true) ∧
      s.tblKept z [tblKey (ingPg ei) 0 6 (ingIx ei) 0] ∧
      (∀ j, j % 2 ^ 28 / 65536 ≠ ingPg ei → Tab.get regReset z.regs j = Tab.get regReset s.regs j)) ∧
    ((s.padRec ei).trs.seen = false ∨ s.beat < (s.padRec ei).trs.beat + 691200 → exec (.trsTimeout ei) s = .next s) ∧
    ∀ (slot : Fin 16) (planeB : Bool) (n : Nat),
      (if planeB then (s.mergeRec ei slot).lastB else (s.mergeRec ei slot).lastA) = some n →
      let lo := if planeB then 2 else 0
      let d0 := s.mergeEnt ei slot 0
      (fld d0 lo 2 ≠ 2 → n + s.losBeats ei ≤ s.beat → s.completes (.mergePlaneDown ei slot planeB) fun z =>
        z.mergeEnt ei slot 0 = setFld d0 lo 2 2 ∧ bitOf (z.rd b a) 3 = true ∧ z.merge = s.merge ∧
        s.tblKept z [tblKey (ingPg ei) 0 7 (ingIx ei * 16 + slot) 0] ∧ s.memKept z) ∧
      (s.beat < n + s.losBeats ei ∨ fld d0 lo 2 = 2 → exec (.mergePlaneDown ei slot planeB) s = .next s)

/-- Admitted: in the writer's bank, ING_CUT sets and ING_CUT_CLR clears the bits that the write names, P0 on any port and another
partition on its own ports alone; every port of the register then is CUT exactly when its P0 bit or its owner's bit is set, and no
other register changes. PAD_D_WRITE at ING0: with the time base's grid ports idle and at most 4,000,000 ns, the register takes the
value, REASON is 0 and its ALIGNED ports go back to ACQUIRE; otherwise the register stays and REASON says IN_USE or BAD_VALUE. At
another slice it changes nothing. -/
def Obligations.CutAndDelay : Prop :=
  ∀ (s : State) (t : Tag) (sl : Fin 16) (d : Word),
    (∀ (k : Fin 8) (clr : Bool), let a := regA (pIng sl) (0x080 + 4 * k.val)
      let aw := regA (pIng sl) ((if clr then 0x0A0 else 0x080) + 4 * k.val)
      s.admits (.w32 t aw d) = true →
      s.completes (if clr then .ingCutClr t sl k d else .ingCut t sl k d) fun z =>
        (∀ i, i < 32 → let ei := sl.val * 256 + k.val * 32 + i
          let mine := bitOf d i && (tagBank t == 0 || s.partOwner 1 ei == tagBank t)
          (bitOf (z.rd (tagBank t) a) i =
            if clr then bitOf (s.rd (tagBank t) a) i && !mine else bitOf (s.rd (tagBank t) a) i || mine) ∧
          (z.padState ei = 4 ↔ (bitOf (z.rd 0 a) i || bitOf (z.rd (s.partOwner 1 ei) a) i) = true)) ∧
        (s.admitted (.w32 t aw d)).regsKept z [regKey (tagBank t) a] ∧
        (∀ j, j / 2 ^ 28 ≠ 16 * pIng sl * 65536 + 6 → Tab.get tblReset z.tbl j = Tab.get tblReset s.tbl j) ∧ s.memKept z) ∧
    ∀ n : Fin 8, let a := regA (pIng sl) (0x050 + 4 * n.val)
      let u := s.admitted (.w32 t a d)
      let busy := u.gridInUse n (fun ei => u.portInUse selIn ei)
      let reason (z : State) := z.rdF (tagBank t) (regA (pIng 0) 0x044) 0 4
      s.admits (.w32 t a d) = true → s.completes (.padDWrite t sl n d) fun z =>
        (sl.val ≠ 0 → u.onlyRegs { z with bus := u.bus } []) ∧
        (sl.val = 0 → busy = false → d.toNat ≤ 4000000 → z.rd 0 a = d ∧ reason z = 0 ∧
          ∀ ei, ei < 4096 → s.padState ei = 2 → (∃ k ∈ s.slotsOf ei, (s.inDesc ei k).tb = n.val) →
            z.padState ei = 1 ∧ (z.padRec ei).units = []) ∧
        (sl.val = 0 → busy = true ∨ 4000000 < d.toNat → z.rd 0 a = s.rd 0 a ∧ reason z = (if busy then 1 else 2) ∧
          z.tbl = s.tbl ∧ z.pad = s.pad) ∧ s.memKept z

/-- With no block in reset and no move connected, a word that enters at input x, while every stage routes x to output y on one path,
leaves at y after the fabric has worked through 25 beats, the beat of its entry and the 24 that follow. The fabric's beat changes no
path of any stage. -/
def Obligations.FabricLatency : Prop :=
  ∀ (s : State) (y : Nat) (p : Path) (w : FWord), s.flt.resetting = [] → (∀ m ∈ s.fab.moves, m.joined = false ∧ m.compared = none) →
    (p.src, w) ∈ s.entering →
    (y, p) ∈ pathsOf s.fab.ing → (y, p) ∈ pathsOf s.fab.mid → (y, p) ∈ pathsOf s.fab.egr →
    (y, w) ∈ (Nat.repeat State.fabricBeat 25 s).fab.leaving ∧
    (Nat.repeat State.fabricBeat 25 s).fab.ing = s.fab.ing ∧ (Nat.repeat State.fabricBeat 25 s).fab.egr = s.fab.egr

/-- The swaps of one beat are judged together over the paths that stood before the first of them. Where some are due, no two of two
transactions name one output, and they do not conflict, the ingress stage takes all their paths and each is marked as made in this
beat. Where they conflict, the ingress stage has the paths that stood before, and XPT.EVENT.CONFLICT is set; swaps that come later
in that beat change no path either. Where none is due, the ingress stage stays; a swap made 10 or more beats ago, the only one at
its stage, puts its paths into the middle stage and leaves every other output's path there; one made 20 or more beats ago puts them
into the egress stage; no register, table or memory changes. -/
def Obligations.FabricSwaps : Prop :=
  ∀ s : State, let due : List Swap := s.fab.swaps.filter s.swapDue
    let all := s.stillLoaded (s.swapsMade ++ due)
    (due ≠ [] → swapRivals (s.swapsMade ++ due) = [] → s.fab.clash ≠ some s.beat →
      (s.swapConflict s.swapBase all = false → s.completes .fabricSwap fun z =>
        z.fab.ing = applyPaths (all.flatMap fun (w : Swap) => w.paths) s.swapBase ∧
        ∀ w ∈ due, ∃ v ∈ z.fab.swaps, v.id = w.id ∧ v.member = w.member ∧ v.paths = w.paths ∧ v.stage = 1 ∧ v.beat = s.beat) ∧
      (s.swapConflict s.swapBase all = true → s.completes .fabricSwap fun z =>
        z.fab.ing = s.swapBase ∧ bitOf (z.rd 0 (regA pXpt 0x04C)) 5 = true)) ∧
    (due ≠ [] → s.fab.clash = some s.beat → s.completes .fabricSwap fun z => z.fab.ing = s.fab.ing) ∧
    (due = [] → s.completes .fabricSwap fun z => z.fab.ing = s.fab.ing ∧ { z with fab := s.fab } = s ∧
      (∀ w, (s.fab.swaps.filter fun w => w.stage == 1 && decide (w.beat + 10 ≤ s.beat)) = [w] → (w.paths.map fun e => e.1).Nodup →
        (∀ e ∈ w.paths, pathAt z.fab.mid e.1 = e.2) ∧
        ∀ y, y ∉ w.paths.map (fun e => e.1) → pathAt z.fab.mid y = pathAt s.fab.mid y) ∧
      ∀ w, (s.fab.swaps.filter fun w => (w.stage == 1 || w.stage == 2) && decide (w.beat + 20 ≤ s.beat)) = [w] →
        (w.paths.map fun e => e.1).Nodup →
        (∀ e ∈ w.paths, pathAt z.fab.egr e.1 = e.2) ∧
        ∀ y, y ∉ w.paths.map (fun e => e.1) → pathAt z.fab.egr y = pathAt s.fab.egr y)

/-- If no channel carries two inputs by the ingress-stage paths that no move gives up and the targets of the moves in progress, as
they stand and as they stood before the swaps of this beat, and moves have numbers of their own below the next, then so it is after
FABRIC_SWAP, ANYFMT_SWAP, NO_SWP, MOVE_START and REHEARSAL_DONE, which all complete, and after a MOVE_COMPARE that does not fail. -/
def Obligations.ChannelsCarryOneInput : Prop :=
  let inv (s : State) : Prop :=
    (∀ t : Tab (Option Path), t = s.fab.ing ∨ t = s.swapBase →
      let busy := busyPaths t (s.fab.freed s.beat) s.fab.targets
      ∀ e ∈ busy, ∀ e' ∈ busy, pathClash e.1 e.2 e'.1 e'.2 = false) ∧
    (s.fab.moves.map fun m => m.id).Nodup ∧ ∀ m ∈ s.fab.moves, m.id < s.fab.moveId ∧ (m.started = false → m.joined = false)
  ∀ s : State, inv s → s.completes .fabricSwap inv ∧ (∀ x i, s.completes (.anyfmtSwap x i) inv) ∧
    (∀ x i, s.completes (.noSwp x i) inv) ∧ (∀ m, s.completes (.moveStart m) inv) ∧
    (∀ x plan, s.completes (.rehearsalDone x plan) inv) ∧
    ∀ id same, s.completes (.moveCompare id same) fun z => z.rd 0 (regA pXpt 0x068) = s.rd 0 (regA pXpt 0x068) → inv z

/-- With 512 moves in progress, or 64 started in this beat, MOVE_START changes nothing. Below that, a scheduled move whose beat has
come starts, connected exactly when its target channels carry no other input, and no path changes. MOVE_COMPARE before 20 beats have
passed changes nothing; after that no path changes: where the move is connected, the words on both channels agree and the comparison
finds so, it has matched; otherwise MOVE_FAILS counts and XPT.EVENT.MOVE_FAIL is set. In the beat after, the outputs of a one-part
move that matched and are on the old path take the new one at the egress stage; in the beat after that so do the other stages,
XPT.MOVES counts, and the move is over. A move that failed leaves every path as it is. -/
def Obligations.FabricMoves : Prop :=
  ∀ s : State,
    (∀ m, 512 ≤ s.fab.moving ∨ 64 ≤ s.fab.startingIn s.beat → exec (.moveStart m) s = .next s) ∧
    (∀ id r, s.fab.moving < 512 → s.fab.startingIn s.beat < 64 →
      (s.fab.moves.find? fun r => r.id == id && !r.started && decide (r.b0 ≤ s.beat)) = some r →
      s.completes (.moveStart (.scheduled id)) fun z => { z with fab := { z.fab with moves := s.fab.moves } } = s ∧
        { r with b0 := s.beat, started := true, joined := partsFit r.parts && r.parts.all fun p => s.partFree p } ∈ z.fab.moves) ∧
    (∀ id m same, (s.fab.moves.find? fun m => m.id == id && m.started && m.compared.isNone) = some m →
      (s.beat < m.b0 + 20 → exec (.moveCompare id same) s = .next s) ∧
      (m.b0 + 20 ≤ s.beat →
        let word (k : Nat) : List FWord := ((s.fab.aged 20).filter fun e => e.1 == k).map fun e => e.2
        let agree := m.parts.all fun q => q.outs.all fun y => word (pathEgr q.old y) == word (pathEgr q.new y)
        s.completes (.moveCompare id same) fun z => s.memKept z ∧ z.fab.ing = s.fab.ing ∧ z.fab.mid = s.fab.mid ∧
          z.fab.egr = s.fab.egr ∧ { m with compared := some s.beat, matched := m.joined && agree && same } ∈ z.fab.moves ∧
          if m.joined = true ∧ agree = true ∧ same = true then z.regs = s.regs
          else z.rd 0 (regA pXpt 0x068) = s.rd 0 (regA pXpt 0x068) + 1 ∧ bitOf (z.rd 0 (regA pXpt 0x04C)) 3 = true)) ∧
    ∀ m p c, m.compared = some c → m.parts = [p] → let z := s.moveNext m
      let shifted (t t' : Tab (Option Path)) : Prop := ∀ y, pathAt t' y =
        if y ∈ p.outs ∧ pathAt t y = some p.old then some p.new else pathAt t y
      (s.beat ≤ c → z = s) ∧
      (s.beat = c + 1 → m.matched = true → shifted s.fab.egr z.fab.egr ∧ z.fab.ing = s.fab.ing ∧ z.fab.mid = s.fab.mid ∧
        z.regs = s.regs ∧ z.tbl = s.tbl) ∧
      (c + 2 ≤ s.beat → m.matched = true → shifted s.fab.ing z.fab.ing ∧ shifted s.fab.mid z.fab.mid ∧ z.fab.egr = s.fab.egr ∧
        z.rd 0 (regA pXpt 0x064) = s.rd 0 (regA pXpt 0x064) + 1 ∧ ∀ q ∈ z.fab.moves, q.id ≠ m.id) ∧
      (m.matched = false → z.fab.ing = s.fab.ing ∧ z.fab.mid = s.fab.mid ∧ z.fab.egr = s.fab.egr ∧ z.regs = s.regs)

/-- CREDIT_MISS, SLOW_CLEAR, SLICE_STALL, ISLAND_DEGRADED and DEGRADED_CLEAR complete in every state. CREDIT_MISS counts and keeps
the largest lag; the slice is SLOW, with its event, once more than SLOW_N fall in 256 beats. SLOW_CLEAR ends SLOW CLEAR_MS after the
latest miss, and changes nothing earlier or of a slice that is not SLOW. SLICE_STALL counts and takes the words of the slice's
channels out of flight, with its event at the first of a run. ISLAND_DEGRADED flags the island; of a fabric slice it also sets its
event when it was not flagged, and XING_WORST shows a pair that no flagged pair is worse than; DEGRADED_CLEAR ends flag and pairs.
MID_OUT_WRITE, admitted, takes the named middle slices out and evacuates those that carry routes; MID_RETURN brings back the named
ones that are neither SLOW nor degraded, and sets XPT.EVENT.CFG for the others. -/
def Obligations.SliceService : Prop :=
  ∀ s : State, let ev (z : State) (b : Nat) : Prop := bitOf (z.rd 0 (regA pXpt 0x04C)) b = true
    let frame (z : State) : Prop :=
      (∀ j, j % 2 ^ 28 / 65536 ≠ pXpt → Tab.get regReset z.regs j = Tab.get regReset s.regs j) ∧ s.memKept z
    (∀ (fs : Fin 56) (lag : BitVec 8), ∃ z, exec (.creditMiss fs lag) s = .next z ∧ frame z ∧
      let ms := (s.beat :: Tab.get (fun _ => []) s.fab.misses fs.val).filter fun b => decide (s.beat < b + 256)
      z.ent pXpt 0 6 fs 1 = s.ent pXpt 0 6 fs 1 + 1 ∧ z.entF pXpt 0 6 fs 0 8 8 = max (s.entF pXpt 0 6 fs 0 8 8) lag.toNat ∧
      (ms.length ≤ s.slowN → z.fab.slow = s.fab.slow ∧ z.regs = s.regs) ∧
      (s.slowN < ms.length → fs.val ∈ z.fab.slow ∧ (fs.val ∉ s.fab.slow → ev z 0))) ∧
    (∀ fs : Fin 56, let last := (Tab.get (fun _ => []) s.fab.misses fs.val).head?.getD 0
      ∃ z, exec (.slowClear fs) s = .next z ∧
        (fs.val ∉ s.fab.slow ∨ s.beat < last + s.clearMs * 345600 → z = s) ∧
        (fs.val ∈ s.fab.slow → last + s.clearMs * 345600 ≤ s.beat → frame z ∧ fs.val ∉ z.fab.slow ∧ z.tbl = s.tbl ∧
          ∀ k, k ≠ fs.val → (k ∈ z.fab.slow ↔ k ∈ s.fab.slow))) ∧
    (∀ fs : Fin 56, ∃ z, exec (.sliceStall fs) s = .next z ∧ frame z ∧ z.ent pXpt 0 6 fs 2 = s.ent pXpt 0 6 fs 2 + 1 ∧
      (∀ a e, e ∈ z.fab.aged a ↔ e ∈ s.fab.aged a ∧ stalledKey a e.1 fs = false) ∧
      ((∀ e ∈ s.fab.stall, e.1 = fs.val → e.2 + 1 < s.beat) → ev z 1)) ∧
    (∀ (isl : Island) (dv dt nb : BitVec 8), ∃ z, exec (.islandDegraded isl dv dt nb) s = .next z ∧
      (isl.group.val * 256 + isl.number.val) ∈ z.pwr.degraded ∧
      ∀ fs, islandSlice isl.group isl.number = some fs → frame z ∧ fs ∈ z.fab.degraded ∧ (fs ∉ s.fab.degraded → ev z 2) ∧
        (⟨min fs nb.toNat, max fs nb.toNat, dv.toNat, dt.toNat⟩ : XingPair) ∈ z.xingPairs ∧
        ∃ w ∈ z.xingPairs, (∀ q ∈ z.xingPairs, q.before w = false) ∧
          z.xingWorst = wd (w.dv % 256 + w.dt % 256 * 256 + w.a * 65536 + w.b * 2 ^ 24)) ∧
    (∀ isl : Island, ∃ z, exec (.degradedClear isl) s = .next z ∧
      (isl.group.val * 256 + isl.number.val) ∉ z.pwr.degraded ∧ z.regs = s.regs ∧ s.memKept z ∧
      ∀ fs, islandSlice isl.group isl.number = some fs → fs ∉ z.fab.degraded ∧ ∀ e ∈ z.fab.xing, e.1 / 256 ≠ fs) ∧
    ∀ (t : Tag) (d : Word),
      (s.admits (.w32 t (regA pXpt 0x054) d) = true → s.completes (.midOutWrite t d) fun z => s.memKept z ∧
        ∀ m, m < 24 → (s.midOut m = true → z.midOut m = true) ∧ (bitOf d m = true → z.midOut m = true ∧
          (s.midRoutes m ≠ [] → m ∈ z.fab.evac))) ∧
      (s.admits (.w32 t (regA pXpt 0x058) d) = true → s.completes (.midReturn t d) fun z => s.memKept z ∧ z.tbl = s.tbl ∧
        ∀ m, m < 24 → let bad := s.fab.slow.contains (16 + m) || s.fab.degraded.contains (16 + m)
          z.midOut m = (s.midOut m && (!bitOf d m || bad)) ∧
          (bitOf d m = true → s.midOut m = true → bad = true → ev z 6))

/-- Admitted, with p the partition. COMMIT, STOP and STOP_PART report their OP and CMD_TAG and leave the fabric as it is. Badly
formed: code 3, NEXT_TAG stays. Another tag than NEXT_TAG: code 2, NEXT_TAG stays. Otherwise NEXT_TAG moves on, and a STOP or
STOP_PART of another partition than P0 has code 4. Code 0: one transaction of that tag joins the queue within QUOTA, and CMD_MARK
shows its mark. Another code: the queue stays, EVENT.REFUSED is set and STATUS.REASON holds it. STRIKE and STRIKE_FROM that select
nothing have code 18; each selected transaction that is neither armed nor at its arm point is gone, every other stays queued, and no
path changes. CLEAR empties the partition's staging list alone. -/
def Obligations.TakeCommands : Prop :=
  ∀ (s : State) (t : Tag), let p := tagBank t
    let rA (off : Nat) := regA pTake off
    let code (z : State) : Nat := z.rdF p (rA 0x068) 0 8
    (∀ (op : Nat) (timing : BitVec 2) (count : BitVec 13) (c : Instr),
      (op, c) ∈ [(1, Instr.commit t timing count), (4, .stop t timing count), (5, .stopPart t timing)] →
      s.admits (.w32 t (rA 0x060) (takeWord op timing.toNat (if op = 5 then 0 else count.toNat))) = true →
      let bad : Prop := timing = 3 ∨ if op = 5 then s.partEntries (s.rdF p (rA 0x05C) 0 4) = []
        else count = 0 ∨ 4096 < count.toNat ∨ ∃ i, i < count.toNat ∧ bitOf (s.staged p i) 31 = false
      let tag := s.rd p (rA 0x058)
      s.completes c fun z => z.fab = s.fab ∧ s.memKept z ∧ z.rdF p (rA 0x068) 8 4 = op ∧ z.rd p (rA 0x06C) = tag ∧
        (bad → code z = 3 ∧ z.rd p (rA 0x064) = s.rd p (rA 0x064)) ∧
        (¬ bad → tag ≠ s.rd p (rA 0x064) → code z = 2 ∧ z.rd p (rA 0x064) = s.rd p (rA 0x064)) ∧
        (¬ bad → tag = s.rd p (rA 0x064) → z.rd p (rA 0x064) = tag + 1 ∧ (op ≠ 1 → p ≠ 0 → code z = 4)) ∧
        (code z = 0 → ∃ x : Tx, z.take.txs = s.take.txs ++ [x] ∧ x.id = .cmd (Fin.ofNat 16 p) tag ∧ x.silence = (op != 1) ∧
          s.queueUsed p + x.members.length ≤ s.quota p ∧ z.queueUsed p = s.queueUsed p + x.members.length ∧
          z.rd64 p (rA 0x070) = x.mark0.toNat) ∧
        (code z ≠ 0 → z.take = s.take ∧ code z ≤ 14 ∧ bitOf (z.rd p (rA 0x048)) 0 = true ∧ z.rdF p (rA 0x044) 0 8 = code z)) ∧
    (∀ (op : Nat) (c : Instr), (op, c) ∈ [(2, Instr.strike t), (3, .strikeFrom t)] →
      s.admits (.w32 t (rA 0x060) (takeWord op 0 0)) = true →
      let arg := s.rd p (rA 0x05C)
      let hit (x : Tx) : Bool := txCmd x.id && txPart x.id == p &&
        (if op = 3 then decide ((txTag x.id - arg).toNat < 2 ^ 31) else txTag x.id == arg)
      s.completes c fun z => z.fab.ing = s.fab.ing ∧ z.fab.egr = s.fab.egr ∧ s.memKept z ∧ z.rd p (rA 0x06C) = arg ∧
        ((∀ x ∈ s.take.txs, hit x = false) → code z = 18 ∧ z.take = s.take) ∧
        (∀ x ∈ s.take.txs, hit x = false → (z.tx x.id).isSome) ∧
        (∀ x ∈ s.take.txs, hit x = true → s.tooLate x = false → code z = 16 ∧ z.tx x.id = none) ∧
        ((∃ x ∈ s.take.txs, hit x = true) → (∀ x ∈ s.take.txs, hit x = true → s.tooLate x = true) →
          code z = 17 ∧ z.take = s.take ∧ bitOf (z.rd p (rA 0x048)) 1 = true)) ∧
    (s.admits (.w32 t (rA 0x060) (takeWord 6 0 0)) = true → s.completes (.clear t) fun z => code z = 0 ∧ z.take = s.take ∧
      z.fab = s.fab ∧ (∀ i, i < 4096 → z.staged p i = 0) ∧
      (∀ k, k / 2 ^ 28 ≠ (16 * pTake + p) * 65536 + 1 → Tab.get tblReset z.tbl k = Tab.get tblReset s.tbl k) ∧ s.memKept z)

/-- REHEARSAL_WINDOW notes the beat in which the window opens, once; one that is all silence is REHEARSED then (the model's choice,
log entry 177). REHEARSAL_DONE under firmware, of the transaction that the solver is at, arms nothing: with a placement that the
rules allow the transaction is REHEARSED with its paths and its moves are scheduled; with none it stays QUEUED. ARM_GRANT before the
arm point changes nothing; a QUEUED command with a source then is gone, EXPIRED or FAILED; a REHEARSED one, or a silence, without
rivals is ARMED and its swaps are loaded exactly when they fit the shadow, and else is gone. MEMBER_COMMIT writes the route entry of
each output, and the last one ends the transaction as DONE. ANYFMT_SWAP and NO_SWP swap a waiting member in their beats and change
nothing otherwise. FIRMWARE_READY lets takes be accepted again. -/
def Obligations.TakeEngine : Prop :=
  ∀ (s : State),
    (∀ x t, s.tx x = some t →
      (t.opened = none → s.reached t.win = true → s.completes (.rehearsalWindow x) fun z =>
        z.tx x = some { t with opened := some s.beat, state := if t.state = 0 ∧ t.allSilent = true then 1 else t.state } ∧
        { z with take := s.take } = s) ∧
      (t.opened ≠ none ∨ s.reached t.win = false → exec (.rehearsalWindow x) s = .next s) ∧
      (s.rehearsing = some x → s.accepting = true →
        (s.completes (.rehearsalDone x none) fun z => z.tx x = some { t with noPlace := true, retry := false } ∧
          { z with take := s.take } = s) ∧
        ∀ pl, if s.planOk t pl = true then s.completes (.rehearsalDone x (some pl)) fun z =>
            (∃ t', z.tx x = some t' ∧ t'.state = 1 ∧ t'.members.map (fun m => m.paths) = pl.members) ∧
            z.fab.ing = s.fab.ing ∧ z.fab.egr = s.fab.egr ∧ z.fab.moves.length = s.fab.moves.length + pl.moves.length ∧
            z.regs = s.regs ∧ z.tbl = s.tbl
          else exec (.rehearsalDone x (some pl)) s = .next s) ∧
      (s.accepting = false ∨ s.rehearsing ≠ some x → ∀ pl, exec (.rehearsalDone x pl) s = .next s) ∧
      (2 ≤ t.state ∨ s.reached t.arm = false → exec (.armGrant x) s = .next s) ∧
      (t.state = 0 → t.allSilent = false → s.reached t.arm = true → txCmd x = true → s.completes (.armGrant x) fun z => z.tx x = none ∧
        z.fab.ing = s.fab.ing ∧ s.memKept z ∧ ∃ e, z.take.ends.head? = some e ∧ e.part = txPart x ∧ e.tag = txTag x ∧
          e.state = if t.noPlace && s.accepting then 6 else 5) ∧
      (t.state = 1 ∨ t.state = 0 ∧ t.allSilent = true → s.reached t.arm = true → (∃ m ∈ t.members, m.fin = false) →
        (∀ v ∈ s.fab.swaps, v.stage = 0 → ∀ e ∈ v.paths, ∀ m ∈ t.members, e.1 ∉ m.outs) →
        let new := t.members.zipIdx.map fun e => s.memberSwap t e.2 e.1
        let fits := s.shadowOk new (s.fab.swaps.filter fun v => v.stage == 0)
        s.completes (.armGrant x) fun z => z.fab.ing = s.fab.ing ∧ z.fab.egr = s.fab.egr ∧ s.memKept z ∧
          (fits = true → z.fab.swaps = s.fab.swaps ++ new ∧ z.regs = s.regs ∧
            ∃ t', z.tx x = some t' ∧ t'.state = 2 ∧ t'.members = t.members ∧ t'.grantBeat = s.beat) ∧
          (fits = false → z.tx x = none)) ∧
      ∀ i m w y p, (s.fab.swaps.find? fun w => w.id == x && w.member == i && w.stage == 3) = some w → t.members[i]? = some m →
        w.paths = [(y, p)] → let lin := (s.commitCount m w).1; s.completes (.memberCommit x i) fun z =>
          z.ent pXpt 0 3 y 0 = (match p with | some q => wd (2 ^ 31 + q.layer * 2 ^ 26 + q.chan * 65536 + q.src) | none => 0) ∧
          z.ent pXpt 0 3 y 1 = txTag x ∧ z.ent pXpt 0 3 y 2 = loHalf lin.toNat ∧ z.ent pXpt 0 3 y 3 = hiHalf lin.toNat ∧
          (∀ y' k, y' < 4608 → k < 5 → y < 4608 → y' ≠ y → z.ent pXpt 0 3 y' k = s.ent pXpt 0 3 y' k) ∧
          z.fab.ing = s.fab.ing ∧ s.memKept z ∧
          if t.state = 2 ∧ (t.members.set i { m with fin := true }).all (fun m => m.fin) = true then z.tx x = none
          else z.tx x = some { t with members := t.members.set i { m with fin := true }, mark0 := if i = 0 then lin else t.mark0 }) ∧
    (∀ x i, s.waitingSwap x i = none → exec (.anyfmtSwap x i) s = .next s ∧ exec (.noSwp x i) s = .next s) ∧
    (∀ x i t m w, s.waitingSwap x i = some (t, m, w) →
      let enters := (s.fab.aged 0).any fun e => some e.1 == m.src && e.2.valid && e.2.swp
      let ok := enters = true ∧ t.grantBeat < s.beat ∧ s.beat ≤ t.grantBeat + 345600000
      (¬ ok → exec (.anyfmtSwap x i) s = .next s) ∧ (s.beat < t.grantBeat + 345600001 → exec (.noSwp x i) s = .next s) ∧
      (∀ made, swapRivals (s.swapsMade ++ made) = [] → s.fab.clash ≠ some s.beat → let all := s.stillLoaded (s.swapsMade ++ made)
        s.swapConflict s.swapBase all = false →
        (ok → made = w :: s.sameSwp w → s.completes (.anyfmtSwap x i) fun z =>
          z.fab.ing = applyPaths (all.flatMap fun (v : Swap) => v.paths) s.swapBase ∧ z.regs = s.regs) ∧
        (t.grantBeat + 345600001 ≤ s.beat → made = [w] → s.completes (.noSwp x i) fun z =>
          z.fab.ing = applyPaths (all.flatMap fun (v : Swap) => v.paths) s.swapBase ∧
          z.rd (txPart x) (regA pTake 0x078) = s.rd (txPart x) (regA pTake 0x078) + 1))) ∧
    (s.mgtMode = 1 → s.mgtReady = false → s.completes .firmwareReady fun z => z.take.solver = true ∧ z.mgtReady = true ∧
      z.flt.traps = s.flt.traps ∧ z.fab = s.fab) ∧
    (s.mgtMode ≠ 1 ∨ s.mgtReady = true → exec .firmwareReady s = .next s)

/-- Admitted, each reel command reports its code and, with code 0, waits at its port alone with its START and COUNT. REEL_CMD_EFFECT
before the command's frame start changes nothing; REC_START then clears VALID of the whole index and records, and no other byte
changes; PLAY plays from START. RECORD_FRAME without ring, with room left, writes the frame's lines and an index entry that
describes them, and no byte outside the index and those lines changes; without room it stops as full. PLAYOUT_FRAME of a playing
port without command: the next frame, if VALID and well-formed, is put on the port's input and counted; an idle port presents
nothing. -/
def Obligations.ReelPorts : Prop :=
  (∀ (s : State) (t : Tag) (op : Nat) (port : BitVec 7) (c : Instr),
    (op, c) ∈ [(1, Instr.recStart t port), (2, .recStop t port), (3, .play t port), (4, .pause t port), (5, .playoutStop t port)] →
    s.admits (.w32 t (regA pReel 0x060) (wd (op + port.toNat * 256))) = true →
    let arg := s.rd (tagBank t) (regA pReel 0x064)
    let code := s.reelCode t op port.toNat
    s.completes c fun z => z.rd (tagBank t) (regA pReel 0x070) = wd (code + op * 256) ∧ s.memKept z ∧ z.fab = s.fab ∧
      (code ≠ 0 → z.reel = s.reel ∧ z.tbl = s.tbl) ∧
      (code = 0 → ∃ e, let w : ReelCmd := ⟨op, fld arg 0 16, fld arg 16 16, e⟩
        if op ≤ 2 then z.recRec port.toNat = { s.recRec port.toNat with pending := some w } ∧ z.reel.plays = s.reel.plays
        else z.playRec port.toNat = { s.playRec port.toNat with pending := some w } ∧ z.reel.recs = s.reel.recs)) ∧
  (∀ (s : State) (r : Fin 128), let x := s.recRec r
    let n := fld (s.ent pReel 0 5 r 0) 0 16
    let seg := segOf (s.ent pReel 0 5 r 1)
    let base := indexLines n
    let total := regionLines (nsegOf (s.ent pReel 0 5 r 1))
    ((∀ c, x.pending = some c → s.reached c.effect = false) → exec (.reelCmdEffect false r) s = .next s) ∧
    (∀ c, x.pending = some c → s.reached c.effect = true →
      (c.op = 1 → s.completes (.reelCmdEffect false r) fun z =>
        z.recRec r = { RecRec.idle with on := true, line := base } ∧ (∀ i, i < n → z.ixValid seg i = false) ∧
        ∀ a, (∀ i, i < n → a ≠ seg * 2 ^ 26 + i * 16 + 15) → z.memByte a = s.memByte a) ∧
      (c.op = 2 → s.completes (.reelCmdEffect false r) fun z =>
        z.recRec r = { x with pending := none, stopping := x.on } ∧ s.memKept z)) ∧
    (x.done = [] → exec (.recordFrame r) s = .next s) ∧
    ∀ lin ws rest, x.done = (lin, ws) :: rest → bitOf (s.ent pReel 0 5 r 0) 30 = false →
      let lines := packFrame (s.recDesc r).kind ws
      (n ≤ x.entry ∨ total < x.line + lines.length → s.completes (.recordFrame r) fun z =>
        z.recRec r = { x with on := false, full := true, cur := none, done := [] } ∧ s.memKept z) ∧
      (x.entry < n → base ≤ x.line → lines ≠ [] → x.line + lines.length ≤ total → lin < 2 ^ 64 → lines.length < 2 ^ 24 →
        s.completes (.recordFrame r) fun z =>
          (∀ i, i < lines.length → z.memGet (lineAddr seg (x.line + i)) 64 = lines.getD i 0 % 2 ^ 512) ∧
          z.ixLinear seg x.entry = lin ∧ z.ixOffset seg x.entry = x.line ∧ z.ixLines seg x.entry = lines.length ∧
          z.ixFlags seg x.entry = 128 + x.seq % 128 ∧
          (∀ a, a < seg * 2 ^ 26 ∨ (seg * 2 ^ 26 + n * 16 ≤ a ∧ a < lineAddr seg x.line) ∨ lineAddr seg (x.line + lines.length) ≤ a →
            z.memByte a = s.memByte a) ∧
          z.recRec r = { x with done := rest, entry := x.entry + 1, line := x.line + lines.length, seq := x.seq + 1 } ∧
          z.regs = s.regs)) ∧
  ∀ (s : State) (p : Fin 128), let x := s.playRec p
    let d := s.playDesc p
    let k := s.playFrameBy d (s.nowAt d.tb)
    (∀ c, x.pending = some c → s.reached c.effect = true → c.op = 3 → s.completes (.reelCmdEffect true p) fun z =>
      z.playRec p =
        { x with pending := none, mode := 2, start := c.start, count := c.count, entry := c.start, shown := 0, expect := none } ∧
      s.memKept z ∧ z.fab = s.fab) ∧
    (bitOf (s.ent pReel 0 6 p 0) 31 = false ∨ (∃ l, x.last = some l ∧ k ≤ l) → exec (.playoutFrame p) s = .next s) ∧
    (bitOf (s.ent pReel 0 6 p 0) 31 = true → (∀ l, x.last = some l → l < k) → x.pending = none →
      (x.mode = 0 → s.completes (.playoutFrame p) fun z => z.fab = s.fab ∧ (z.playRec p).last = some k ∧ s.memKept z) ∧
      let reg := s.playRegion p
      let i := x.entry % max 1 reg.2.2
      let ls := s.readLines reg.1 reg.2.1 (indexLines reg.2.2) (s.ixOffset reg.1 i) (s.ixLines reg.1 i)
      ∀ us, x.mode = 2 → x.count = 0 ∨ x.shown < x.count → x.decided = none → s.ixValid reg.1 i = true → s.chase p = false →
        frameUnits d ls = some us → s.completes (.playoutFrame p) fun z =>
          (z.playRec p).last = some k ∧ (z.playRec p).entry = (i + 1) % max 1 reg.2.2 ∧ (z.playRec p).shown = x.shown + 1 ∧
          (z.playRec p).frame = d.markedWords k us ∧
          z.ent pReel 0 7 (128 + p) 2 = wd (satAdd 32 (s.ent pReel 0 7 (128 + p) 2).toNat 1) ∧
          Tab.get (fun _ => []) z.fab.due (playIn p) = Tab.get (fun _ => []) s.fab.due (playIn p) ++
            (d.markedWords k us).map (fun e => (s.beat + e.1, e.2)) ∧ z.regs = s.regs ∧ s.memKept z)

/-- FS_FRAME_COMPLETE numbers the next frame, or discards the frame whose buffer is being read, counts it and raises its event.
FS_DECISION of a locked synchroniser takes the frame it had, counted as a repeat, or a later one, counting those it skips; after
REPEAT_N decisions without a new frame it is LOST, with its event. HBM_LINE_COMPLETE counts corrected and uncorrectable lines.
Through the window a partition changes no byte of a segment that it does not own; an admitted write of 32 or 64 bits stores exactly
its bytes and a read returns them. HBM_TRAINED of the fourth controller zeroes segments 64 up and sets READY; HBM_FAIL marks a
controller throttled or failed. -/
def Obligations.ReelStore : Prop :=
  ∀ s : State,
    (∀ f : Fin 1024, let w0 := s.ent pReel 0 3 f 0
      let r := s.fsRec f
      let ev (z : State) (b : Nat) : Prop := bitOf (z.rd (eventBank pReel (s.userPart (userNo 0 f))) (regA pReel 0x044)) b = true
      (bitOf w0 31 = false ∨ bitOf w0 30 = true ∨ (∀ fr ∈ r.frames, fr.num ≠ r.writing) →
        exec (.fsFrameComplete f) s = .next s) ∧
      (bitOf w0 31 = true → bitOf w0 30 = false → (∃ fr ∈ r.frames, fr.num = r.writing) →
        let busy : Prop := ∃ l, r.last = some l ∧ l + s.nbuf f ≤ r.writing
        s.completes (.fsFrameComplete f) fun z => s.memKept z ∧
          (busy → (z.fsRec f).writing = r.writing ∧ (∀ fr ∈ (z.fsRec f).frames, fr.num ≠ r.writing) ∧ ev z 3 ∧
            z.ent pReel 0 4 f 3 = wd (satAdd 32 (s.ent pReel 0 4 f 3).toNat 1)) ∧
          (¬ busy → f.val ∉ s.linkedTo f → (z.fsRec f).writing = r.writing + 1 ∧ (z.fsRec f).last = r.last ∧ z.regs = s.regs ∧
            ∀ fr ∈ (z.fsRec f).frames, r.writing + 1 < fr.num + s.nbuf f)) ∧
      let d := s.inDesc (fld w0 0 12) 0
      let due := (s.nowAt d.tb).add (100000 - (s.padD d.tb : Int)) 1
      let k := due.num * (d.frameRate.1 : Int) / ((due.den * d.frameRate.2 * 1000000000 : Nat) : Int)
      let inst : At :=
        (At.mk d.tb (k * (d.frameRate.2 * 1000000000 : Nat)) d.frameRate.1).add ((s.padD d.tb : Int) - 100000) 1
      let c := r.newestAt inst (guardUs (s.ent pReel 0 3 f 3))
      let new := c.isSome && c != r.newest
      let lim := if s.entF pReel 0 3 f 1 16 8 = 0 then 4 else s.entF pReel 0 3 f 1 16 8
      (bitOf w0 31 = false ∨ bitOf w0 30 = true ∨ (∃ e ∈ r.chosen, k ≤ e.1) → exec (.fsDecision f) s = .next s) ∧
      (bitOf w0 31 = true → bitOf w0 30 = false → (∀ e ∈ r.chosen, e.1 < k) → s.entF pReel 0 4 f 0 0 2 = 2 →
        (new = false → lim ≤ r.missed + 1 → s.completes (.fsDecision f) fun z =>
          z.entF pReel 0 4 f 0 0 2 = 3 ∧ (z.fsRec f).last = r.last ∧ ev z 2 ∧ s.memKept z) ∧
        ∀ l, r.last = some l → new = true ∨ r.missed + 1 < lim → s.completes (.fsDecision f) fun z => ∃ x, l ≤ x ∧
          (z.fsRec f).last = some x ∧ (z.fsRec f).chosen.head? = some (k, .frame x) ∧ z.entF pReel 0 4 f 0 0 2 = 2 ∧
          z.ent pReel 0 4 f 1 = wd (satAdd 32 (s.ent pReel 0 4 f 1).toNat (x - l - 1)) ∧
          z.ent pReel 0 4 f 2 = wd (satAdd 32 (s.ent pReel 0 4 f 2).toNat (if x = l then 1 else 0)) ∧ z.regs = s.regs ∧
          s.memKept z)) ∧
    (∀ u, exec (.hbmLineComplete u false 0) s = .next s ∧
      (s.completes (.hbmLineComplete u false 1) fun z => z = s.inc 0 (regA pReel 0x078)) ∧
      ∀ late, s.completes (.hbmLineComplete u late 2) fun z => z.rd 0 (regA pReel 0x080) = s.rd 0 (regA pReel 0x080) + 1 ∧
        s.memKept z ∧ ∀ pg sel i w, lateWord u = some (pg, sel, i, w) → z.ent pg 0 sel i w = wd (satAdd 32 (s.ent pg 0 sel i w).toNat 1)) ∧
    (∀ (n : Fin 16) (a : BitVec 24) (wr : Bool) (sh : Shape), s.completes (.hbmWindowAccess (.p n) a wr sh) fun z =>
      ∀ b, s.segOwner (b / 2 ^ 26) ≠ n.val → z.memByte b = s.memByte b) ∧
    (∀ (t : Tag) (a : BitVec 24) (bits : Nat) (v : Dword), bits = 32 ∨ bits = 64 → s.lost t (tagNum t) = false →
      let h := s.winAddr t a.toNat
      (s.winRefusal t a.toNat (bits / 8) true true = none → s.completes (.hbmWindowAccess t a true (.one bits v)) fun z =>
        z.memGet h (bits / 8) = v.toNat % 2 ^ bits ∧ ∀ b, b < h ∨ h + bits / 8 ≤ b → z.memByte b = s.memByte b) ∧
      (s.winRefusal t a.toNat (bits / 8) false true = none → s.completes (.hbmWindowAccess t a false (.one bits v)) fun z =>
        z.bus.resp = [⟨false, BitVec.ofNat 64 (s.memGet h (bits / 8))⟩] ∧ s.memKept z)) ∧
    (∀ h : Fin 4, let others : Prop := ∀ i, i < 4 → i ≠ h.val → s.hbmState i = 1
      (s.hbmState h ≠ 0 → ∀ ok, exec (.hbmTrained h ok) s = .next s) ∧
      (s.hbmState h = 0 → (s.completes (.hbmTrained h false) fun z => z.hbmState h = 3 ∧ bitOf (z.rd 0 (regA pReel 0x044)) 4 = true ∧
          s.memKept z) ∧
        s.completes (.hbmTrained h true) fun z => z.hbmState h = 1 ∧ (¬ others → s.memKept z ∧ z.ready pReel = s.ready pReel) ∧
          (others → z.ready pReel = true ∧ ∀ b, z.memByte b = if b < 64 * 2 ^ 26 then s.memByte b else 0)) ∧
      (s.completes (.hbmFail h true) fun z => z.hbmState h = 2 ∧ s.onlyRegs z [regKey 0 (regA pReel 0x054)]) ∧
      s.completes (.hbmFail h false) fun z => z.hbmState h = 3 ∧ bitOf (z.rd 0 (regA pReel 0x044)) 4 = true ∧ s.memKept z)

/-- PACKET_DEPART of an invalid flow changes nothing. Else a flow that is to return to path 0 does so at its boundary, and a packet
is made: with one sequence number, timestamp and payload it is offered to Q2 of the port of each valid path whose port takes frames;
at a port whose wire is busy past this beat, and on an Epvozel port, it waits there in the order of ideal departures; an idle
Ethernet port without SecY sends it, and its flow counters count; on a path whose port is down it is discarded, counted and
reported; the sequence number then is one more. A waiting line of an FMT 0 flow stays before its departure instant and leaves at it
as whole pgroups of samples of the flow's depth; an ancillary flow takes the units that fit a payload; an opaque flow takes one
whole unit (with no unit behind it, whether it is the last of its frame is free, log entry 51). EGRESS_FAILOVER moves the ALT flows
of a port that is down to path 1 where its port is up, and no other flow, and empties the port's Q2; EGRESS_REVERT ends a remote
fault and, with REVERT set and the port up, lets flows whose port has been up for REVERT_MS return; no packet leaves by either. -/
def Obligations.PacketsDepart : Prop :=
  (∀ (s₀ : State) (eo : Fin 4096) (slot : Fin 16),
    let r₀ := s₀.egrRec eo slot
    let f := s₀.egrFlow eo slot 0
    let pay := maxPay (s₀.egrFlow eo slot 2)
    (bitOf f 31 = false → exec (.packetDepart eo slot) s₀ = .next s₀) ∧
    ∀ u rest, r₀.units = u :: rest → u.desc.valid = true → bitOf f 31 = true →
      let d := u.desc
      let s := s₀.flowReturn eo slot d
      (s = if r₀.back = true ∧ r₀.atBoundary d = true then s₀.setEgr eo slot { r₀ with alt := false, back := false, upSince := none }
        else s₀) ∧
      let r := s.egrRec eo slot
      let path (k : Nat) : Word := s.egrPath eo slot k 0
      let port (k : Nat) : Nat := s.txIx (fld (path k) 16 6) (fld (path k) 8 3) (fld (path k) 0 8)
      let takes (k : Nat) : Bool := s.pathUp eo slot k && s.wireUp (fld (path k) 16 6) (fld (path k) 8 3) (fld (path k) 0 8)
      let count (z : State) (k w : Nat) : Nat := pairOf (z.ent (egrPg eo) 0 5 (egrSlot eo slot * 2 + k) w)
        (z.ent (egrPg eo) 0 5 (egrSlot eo slot * 2 + k) (w + 1))
      let lost (z : State) (k : Nat) : Word := z.ent (egrPg eo) 0 5 (egrSlot eo slot * 2 + k) 5
      let sent (z : State) (ts : Nat) (marker : Bool) (bytes : Nat) (at' : At) (body : Payload) : Prop :=
        let wire (k : Nat) : Nat := bytes + wireHeaders (flowFmt f) (path k)
        let pkt (k : Nat) : FlowPacket :=
          ⟨fld (path k) 16 6, fld (path k) 8 3, fld (path k) 0 8, k, fld f 16 7, r.seq, wd ts, s.egrFlow eo slot 1, marker, body⟩
        let frame (k : Nat) : TxFrame := ⟨pathEtype (path k), wire k, wire k - 38 - (if bitOf (path k) 29 then 4 else 0), none, at',
          .flow eo slot (wire k - 38) (pkt k)⟩
        let waits (k : Nat) : Prop := s.portType (fld (path k) 16 6) ≠ 2 ∨ (s.beat + 1) * 1024 ≤ (s.txPort (port k)).wireAt
        (z.egrRec eo slot).seq = (r.seq + 1) % 2 ^ 32 ∧ (z.egrRec eo slot).alt = r.alt ∧ z.fab = s.fab ∧ s.memKept z ∧
        (∀ k ∈ s.flowPaths eo slot, takes k = false →
          lost z k = wd (satAdd 32 (lost s k).toNat 1) ∧
          bitOf (z.rd (eventBank (egrPg eo) (s.eoOwner eo)) (regA (egrPg eo) 0x044)) 3 = true) ∧
        ((∀ k ∈ s.flowPaths eo slot, takes k = true → waits k) → z.out = s.out ∧
          (∀ k ∈ s.flowPaths eo slot, count z k 0 = count s k 0) ∧
          (∀ k ∈ s.flowPaths eo slot, takes k = true → frame k ∈ (z.txPort (port k)).q2 ∧ lost z k = lost s k ∧
            ((∀ j ∈ s.flowPaths eo slot, j ≠ k → port j ≠ port k) →
              (z.txPort (port k)).q2 = s.insertPaced (frame k) (s.txPort (port k)).q2)) ∧
          ∀ i, (∀ k ∈ s.flowPaths eo slot, takes k = true → port k ≠ i) → z.txPort i = s.txPort i) ∧
        ∀ k, s.flowPaths eo slot = [k] → takes k = true → let b := fld (path k) 16 6
          s.portType b = 2 → s.inLpi b (fld (path k) 8 3) = false → bitOf (s.secy b (fld (path k) 8 3)) 0 = false →
          (s.txPort (port k)).size = 0 → (s.txPort (port k)).wireAt ≤ s.beat * 1024 →
          z.out = s.out ++ [.ethFrame b (fld (path k) 8 3) none, .packet (pkt k)] ∧ (z.txPort (port k)).size = 0 ∧
          count z k 0 = (count s k 0 + 1) % 2 ^ 64 ∧ count z k 2 = (count s k 2 + (wire k - 38)) % 2 ^ 64 ∧ lost z k = lost s k
      (∀ n l, d.kind = 0 → r.next = some n →
        let p := d.packetLine pay n r.sent
        r.units.find? (fun x => x.unit == p.1) = some l → d.wpl ≤ l.words.length →
        let at' := d.departAt (fld f 24 2) pay (s.egrFlow eo slot 3).toNat n r.sent
        let per := if d.sampling = 1 then 3 else 2
        let g := d.piece (d.linePackets pay) p.2.2
        let last := decide (d.fieldPackets pay n ≤ r.sent + 1)
        (s.reached at' = false → exec (.packetDepart eo slot) s₀ = .next s) ∧
        (s.reached at' = true → s₀.completes (.packetDepart eo slot) fun z =>
          sent z l.ts last (g.2 / d.pgroup.2 * d.pgroup.1 + 8) at' (.raster [⟨d.fields == 2 && n % 2 == 1, p.2.1, g.1,
            (((lineSamples l.words).drop (g.1 * per)).take (g.2 * per)).map (unjustify d.sampleBits)⟩]) ∧
          (z.egrRec eo slot).next = some (if last then n + 1 else n) ∧
          (z.egrRec eo slot).sent = if last then 0 else r.sent + 1)) ∧
      (d.kind = 3 → let n := ancRun pay 8 false r.units
        let ps := (r.units.take n).filterMap fun u => ancOf u.words
        ∀ v more, r.units.drop n = v :: more →
          ((r.units.take n).all (fun u => ancWhole u.words) = false → exec (.packetDepart eo slot) s₀ = .next s) ∧
          ((r.units.take n).all (fun u => ancWhole u.words) = true → s₀.completes (.packetDepart eo slot) fun z =>
            (z.egrRec eo slot).units = v :: more ∧ sent z u.ts v.sof ((ps.map ancBytes).sum + 8) (s.nowAt d.tb) (.anc ps))) ∧
      (d.kind = 5 → ((opaqueBytes u.words).2 = false → exec (.packetDepart eo slot) s₀ = .next s) ∧
        ((opaqueBytes u.words).2 = true → s₀.completes (.packetDepart eo slot) fun z => (z.egrRec eo slot).units = rest ∧
          ∃ m, (∀ v, rest.head? = some v → m = v.sof) ∧
            sent z u.ts m (opaqueBytes u.words).1.length (s.nowAt d.tb) (.opaque (opaqueBytes u.words).1)))) ∧
  ∀ (s : State) (b : Fin 48) (p : Fin 8),
    let names (f : Nat × Nat) : Prop := flowAlt (s.egrFlow f.1 f.2 0) = true ∧ bitOf (s.egrPath f.1 f.2 0 0) 31 = true ∧
      pathPort (s.egrPath f.1 f.2 0 0) = (b.val, p.val)
    let frame (z : State) : Prop := z.out = s.out ∧ z.fab = s.fab ∧ s.memKept z ∧
      ∀ eo slot, slot < 16 → ¬ names (eo, slot) → z.egrRec eo slot = s.egrRec eo slot
    let cleared : State := { s with remote := s.remote.filter fun r => r != b.val * 8 + p.val }
    (s.egrUp b p = true → exec (.egressFailover b p false) s = .next s) ∧
    (∀ remote, s.egrUp b p = false ∨ remote = true → s.completes (.egressFailover b p remote) fun z => frame z ∧
      z.egrUp b p = false ∧ (∀ k ∈ s.txOf b p, (z.txPort k).q2 = []) ∧ (∀ k, k ∉ s.txOf b p → z.txPort k = s.txPort k) ∧
      ∀ f ∈ s.egrFlows, f.2 < 16 → names f → pathPort (s.egrPath f.1 f.2 1 0) ≠ (b.val, p.val) →
        (s.egrRec f.1 f.2).alt = false → s.pathUp f.1 f.2 1 = true →
        z.egrRec f.1 f.2 = { s.egrRec f.1 f.2 with alt := true, back := false, upSince := none }) ∧
    (bitOf (s.sched b p 0) 17 = false ∨ cleared.egrUp b p = false → exec (.egressRevert b p) s = .next cleared) ∧
    (bitOf (s.sched b p 0) 17 = true → cleared.egrUp b p = true → s.completes (.egressRevert b p) fun z => frame z ∧
      z.remote = cleared.remote ∧ z.ports = s.ports ∧ z.regs = s.regs ∧ z.tbl = s.tbl ∧
      ∀ f ∈ s.egrFlows, f.2 < 16 → names f → (s.egrRec f.1 f.2).alt = true → ∀ u, (s.egrRec f.1 f.2).upSince = some u →
        z.egrRec f.1 f.2 = if u + s.revertBeats b p ≤ s.beat then { s.egrRec f.1 f.2 with back := true } else s.egrRec f.1 f.2)

/-- Admitted, with p the partition. AUD_COMMIT and AUD_STOP report their OP and CMD_TAG. Badly formed: code 1, NEXT_TAG stays.
Another tag than NEXT_TAG: code 2, NEXT_TAG stays. Otherwise NEXT_TAG moves on, and an AUD_STOP of another partition than P0 has
code 3. Code 0: one transaction of that tag with the staged members joins fewer than 16 others. Another code: the crosspoint stays
and EVENT.REFUSED is set. AUD_STRIKE has code 18 where nothing has the tag, 17 with its event where it is armed or at its arm point,
else 16, and that transaction alone is gone, STRUCK. AUD_CLEAR empties the partition's staging list alone. -/
def Obligations.AudioCommands : Prop :=
  ∀ (s : State) (t : Tag), let p := tagBank t
    let rA (off : Nat) := regA pAud off
    let code (z : State) : Nat := z.rdF p (rA 0x060) 0 8
    let ev (z : State) (b : Nat) : Prop := bitOf (z.rd p (rA 0x044)) b = true
    (∀ (op : Nat) (timing : BitVec 2) (count : BitVec 13) (c : Instr),
      (op, c) ∈ [(1, Instr.audCommit t timing count), (3, .audStop t timing count)] →
      s.admits (.w32 t (rA 0x05C) (wd (op + timing.toNat * 16 + count.toNat * 65536))) = true →
      let bad : Prop := 2 ≤ timing.toNat ∨ count = 0 ∨ 4096 < count.toNat ∨ ∃ i, i < count.toNat ∧ bitOf (s.ent pAud p 3 i 0) 31 = false
      let tag := s.rd p (rA 0x04C)
      s.completes c fun z => z.fab = s.fab ∧ s.memKept z ∧ z.tbl = s.tbl ∧ z.rdF p (rA 0x060) 8 4 = op ∧ z.rd p (rA 0x064) = tag ∧
        (bad → code z = 1 ∧ z.rd p (rA 0x068) = s.rd p (rA 0x068)) ∧
        (¬ bad → tag ≠ s.rd p (rA 0x068) → code z = 2 ∧ z.rd p (rA 0x068) = s.rd p (rA 0x068)) ∧
        (¬ bad → tag = s.rd p (rA 0x068) → z.rd p (rA 0x068) = tag + 1 ∧ (op = 3 → p ≠ 0 → code z = 3)) ∧
        (code z = 0 → s.audPending p < 16 ∧ z.audPending p = s.audPending p + 1 ∧ ∃ x : AudTx,
          z.aud = { s.aud with txs := s.aud.txs ++ [x], order := s.aud.order + 1 } ∧
          x.id = .cmd (Fin.ofNat 16 p) tag ∧ x.silence = (op == 3) ∧ x.armed = false ∧
          x.members.map (fun m => some (m.dst, m.src)) = (List.range count.toNat).map (fun i => s.audStaged p i (op == 3)) ∧
          ∀ m ∈ x.members, ∀ y, m.src = some y → s.gridIn y = s.gridOut m.dst) ∧
        (code z ≠ 0 → z.aud = s.aud ∧ code z ≤ 8 ∧ ev z 0)) ∧
    (s.admits (.w32 t (rA 0x05C) 2) = true → let tag := s.rd p (rA 0x058)
      let hit (u : AudTx) : Bool := txCmd u.id && txPart u.id == p && txTag u.id == tag
      s.completes (.audStrike t) fun z => z.fab = s.fab ∧ s.memKept z ∧ z.tbl = s.tbl ∧ z.rd p (rA 0x064) = tag ∧
        ((∀ u ∈ s.aud.txs, hit u = false) → code z = 18 ∧ z.aud = s.aud) ∧
        ∀ u, s.aud.txs.find? hit = some u →
          (u.armed = true ∨ s.reached u.arm = true → code z = 17 ∧ z.aud = s.aud ∧ ev z 1) ∧
          (u.armed = false → s.reached u.arm = false → code z = 16 ∧ z.audTx u.id = none ∧
            z.aud.txs = s.aud.txs.filter (fun v => v.id != u.id) ∧ z.aud.outs = s.aud.outs ∧
            ∃ e, z.aud.ends.head? = some e ∧ e.part = p ∧ e.tag = tag ∧ e.state = 3)) ∧
    (s.admits (.w32 t (rA 0x05C) 4) = true → s.completes (.audClear t) fun z => code z = 0 ∧ z.rdF p (rA 0x060) 8 4 = 4 ∧
      z.aud = s.aud ∧ z.fab = s.fab ∧ s.memKept z ∧ (∀ i w, i < 4096 → w < 2 → z.ent pAud p 3 i w = 0) ∧
      ∀ k, k / 2 ^ 28 ≠ (16 * pAud + p) * 65536 + 3 → Tab.get tblReset z.tbl k = Tab.get tblReset s.tbl k)

/-- AUD_ARM_GRANT before the arm point changes nothing; at it the transaction becomes ARMED. AUD_MEMBER_COMMIT of a member that is
not armed, is done, is before its period, or has a rival with an earlier period changes nothing; with no rival its output takes the
source, with tag and period in the route entry, no other route changes, and the last member ends the transaction as DONE.
AUDIO_BLOCK of a grid that is off or whose block is done changes nothing; otherwise the block is done: an output without route and
without transaction is silent, and one routed from x, without transaction, ramp or option, carries input block k - 1 of x unchanged,
once the bound transmit queues have played that block. TDM_STOP turns off the one port that runs with EN clear, and changes nothing
otherwise. -/
def Obligations.AudioEngine : Prop :=
  ∀ s : State,
    (∀ x, s.audTx x = none → exec (.audArmGrant x) s = .next s ∧ ∀ i, exec (.audMemberCommit x i) s = .next s) ∧
    (∀ x t, s.audTx x = some t →
      (t.armed = true ∨ s.reached t.arm = false → exec (.audArmGrant x) s = .next s) ∧
      (t.armed = false → s.reached t.arm = true → s.completes (.audArmGrant x) fun z =>
        { z with aud := s.aud } = s ∧ z.audTx x = some { t with armed := true, grant := BitVec.ofNat 64 (s.linear t.arm.tb) } ∧
        (∀ y, y ≠ x → z.audTx y = s.audTx y) ∧ z.aud.outs = s.aud.outs) ∧
      ∀ i m, t.members[i]? = some m → let at' := s.periodAt (s.gridOut m.dst) m.period
        (t.armed = false ∨ m.fin = true ∨ s.reached at' = false ∨
          (∃ u ∈ s.aud.txs, u.armed = true ∧ u.id ≠ x ∧ ∃ v ∈ u.members, v.dst = m.dst ∧ v.fin = false ∧ v.period < m.period) →
          exec (.audMemberCommit x i) s = .next s) ∧
        (t.armed = true → m.fin = false → s.reached at' = true → m.dst < 65536 → (∀ y, m.src = some y → y < 65536) →
          (∀ u ∈ s.aud.txs, u.armed = true → u.id ≠ x → ∀ v ∈ u.members, v.dst = m.dst → v.fin = true) →
          let lin := (linOf at').toNat
          s.completes (.audMemberCommit x i) fun z => z.audRoute m.dst = m.src ∧ z.ent pAud 0 4 m.dst 2 = txTag x ∧
            z.ent pAud 0 4 m.dst 3 = loHalf lin ∧ z.ent pAud 0 4 m.dst 4 = hiHalf lin ∧
            (∀ y, y < 65536 → y ≠ m.dst → z.audRoute y = s.audRoute y ∧ z.audOut y = s.audOut y) ∧
            (m.dip = true → m.period ∈ (z.audOut m.dst).dips) ∧ z.fab = s.fab ∧ s.memKept z ∧
            if (t.members.set i { m with fin := true }).all (fun m => m.fin) = true then z.audTx x = none
            else z.audTx x = some { t with members := t.members.set i { m with fin := true } })) ∧
    (∀ (tb : Fin 8) (hi : Bool) (ins : List AudIn) (bufs : List AudBuf), let g := gridOf tb (if hi then 1 else 0)
      let k := s.blockNow g
      let mine := ins.filter fun a => s.gridIn a.ch.toNat == g
      let done : Prop := ∃ l, Tab.get (fun _ => none) s.aud.blk g = some l ∧ k ≤ l
      (s.tbMode tb = 0 ∨ done → exec (.audioBlock tb hi ins bufs) s = .next s) ∧
      (s.tbMode tb ≠ 0 → ¬ done → s.completes (.audioBlock tb hi ins bufs) fun z =>
        Tab.get (fun _ => none) z.aud.blk g = some k ∧ z.aud.txs = s.aud.txs ∧ s.memKept z ∧
        (∀ j, j % 2 ^ 28 / 65536 ≠ pAud → Tab.get regReset z.regs j = Tab.get regReset s.regs j) ∧
        ∀ y, y < 65536 →
          (s.gridOut y ≠ g → z.audOut y = s.audOut y) ∧
          (s.gridOut y = g → s.audArmed y = [] →
            (s.audRoute y = none → ∀ v ∈ (z.audOut y).block, v = 0) ∧
            ∀ x, s.audRoute y = some x → s.entF pAud 0 4 y 0 0 3 = 0 → (s.audOut y).dips = [] → (s.audOut y).muted = false →
              (s.audOut y).rampAt = none →
              (z.audOut y).block = (List.range (gridB g)).map (fun i =>
                ((s.playBlock bufs g (k - 1)).inputBlock mine x (k - 1)).1.getD i 0) ∧
              (z.audOut y).prev = (s.audOut y).block))) ∧
    ∀ p : Fin 8, let stops : Prop := s.tdmState p = 2 ∧ bitOf (s.ent pAud 0 7 p 0) 0 = false
      (¬ stops → exec (.tdmStop p) s = .next s) ∧
      (stops → s.completes (.tdmStop p) fun z => z.tdmState p = 0 ∧ (∀ q, q < 8 → q ≠ p.val → z.tdmState q = s.tdmState q) ∧
        z.tbl = s.tbl ∧ z.fab = s.fab ∧ s.memKept z)

/-- Each instruction that its core issues completes with the registers and memory that its class gives and nothing else changed, the
core going on at the instruction that follows. An accumulator result outside 72 bits wraps and sets OV, or with MR.ATRAP raises OVF
without other effect. A MAC-class instruction with an odd pair load or a half of a memory that it does not read, a search into one
accumulator from both memories, and an LDP value outside its range raise ILLEGAL; so, by the model's choice of log entry 55, does a
shift by more than 71. Where both moves of a MAC-class instruction load one D register, the value of that register is free (log
entry 53). -/
def Obligations.FoleyData : Prop :=
  ∀ (s : State) (c : Fin 64), let r := s.folRec c
    let w := s.folWord c
    let acc (q : FolRec) (n : Nat) (v : Int) : FolRec := { q with
      a := q.a.set n (BitVec.ofInt 72 v), ov := if -(2 ^ 71) ≤ v ∧ v < 2 ^ 71 then q.ov else q.ov.set n true }
    let traps (v : Int) : Prop := (v < -(2 ^ 71) ∨ 2 ^ 71 ≤ v) ∧ r.mr / 2 % 2 = 1
    let illegal (i : Instr) (code : Nat) : Prop := s.completes i fun z => s.folTakes z c 0 code
    let stored (st : State) (sel a : Nat) (v : BitVec 72) : Prop := st.folMem c sel a = v ∧ { st with tbl := s.tbl } = s ∧
      s.tblKept st [tblKey (pFol c) 0 sel a 0, tblKey (pFol c) 0 sel a 1, tblKey (pFol c) 0 sel a 2]
    let n := iw w 53 2
    let an := r.acc n
    let am := r.acc (iw w 51 2)
    let dk := r.dReg (iw w 48 3)
    let sh := iw w 41 7
    (∀ i code v, (i, code, v) ∈ [(Instr.foAdd c, 65, an.toInt + am.toInt), (.foSub c, 66, an.toInt - am.toInt), (.foNeg c, 67, -an.toInt),
        (.foAbs c, 68, max an.toInt (-an.toInt)), (.foAsl c, 71, an.toInt * 2 ^ sh), (.foAddd c, 77, an.toInt + dk.toInt * 2 ^ 28)] →
      s.folIssues c code → code ≠ 71 ∨ sh ≤ 71 →
      (¬ traps v → s.completes i fun z => s.folDone z c (acc r n v)) ∧ (traps v → s.completes i fun z => s.folTakes z c 1 0)) ∧
    (∀ i code q, (i, code, q) ∈ [(Instr.foClr c, 64, { r with a := r.a.set n 0, ov := r.ov.set n false }),
        (.foMax c, 69, { r with a := r.a.set n (if an.toInt < am.toInt then am else an) }),
        (.foMin c, 70, { r with a := r.a.set n (if am.toInt < an.toInt then am else an) }),
        (.foAsr c, 72, { r with a := r.a.set n (BitVec.ofInt 72 (an.toInt / 2 ^ sh)) }),
        (.foAnd c, 73, { r with a := r.a.set n (an &&& am) }), (.foOr c, 74, { r with a := r.a.set n (an ||| am) }),
        (.foXor c, 75, { r with a := r.a.set n (an ^^^ am) }), (.foMova c, 76, { r with a := r.a.set n am }),
        (.foMovd c, 78, { r with a := r.a.set n (BitVec.ofInt 72 (dk.toInt * 2 ^ 28)) }),
        (.foMovda c, 79, { r with d := r.d.set (iw w 48 3) (storeAcc r.mr an) }),
        (.foSetlo c, 80, { r with a := r.a.set n (BitVec.ofNat 72 (2 ^ 71)), n := r.n.set n 0x7FFF }),
        (.foSethi c, 81, { r with a := r.a.set n (BitVec.ofNat 72 (2 ^ 71 - 1)), n := r.n.set n 0x7FFF })] →
      s.folIssues c code → code ≠ 72 ∨ sh ≤ 71 → s.completes i fun z => s.folDone z c q) ∧
    (∀ i code, (i, code) ∈ [(Instr.foAsl c, 71), (.foAsr c, 72)] → s.folIssues c code → 71 < sh → illegal i 1) ∧
    (∀ i code (f : Int → Int → Int), (i, code, f) ∈ [(Instr.foMpy c, 32, fun _ p => p), (.foMac c, 33, fun a p => a + p),
        (.foMsu c, 34, fun a p => a - p)] → s.folIssues c code →
      let mx := iw w 32 15
      let my := iw w 17 15
      let bad : Prop := (mvEn mx = true ∧ mvLoad mx = 3 ∧ mvDk mx % 2 = 1) ∨ (mvEn my = true ∧ mvLoad my = 3 ∧ mvDk my % 2 = 1) ∨
        ∃ k ∈ [iw w 51 4, iw w 47 4], (k ∈ [8, 9] ∧ mvEn mx = false) ∨ (k ∈ [10, 11] ∧ mvEn my = false)
      (bad → illegal i 8) ∧
      (¬ bad → let x := folMove s c r 2 mx
        let y := folMove s c x.2 3 my
        let p := (folOperand r x.1 y.1 (iw w 51 4)).toInt * (folOperand r x.1 y.1 (iw w 47 4)).toInt / 2 ^ 7
        let v := f (r.acc (iw w 55 2)).toInt p
        let loads := mvLoads mx x.1 ++ mvLoads my y.1
        (traps v → s.completes i fun z => s.folTakes z c 1 0) ∧
        (¬ traps v → s.completes i fun z => ∃ (st : State) (ds : List (BitVec 36)), { st with free := s.free } = s ∧
          ((loads.map fun e => e.1).Nodup → st = s ∧ ds = loads.foldl (fun l e => l.set e.1 e.2) r.d) ∧
          st.folDone z c (acc { y.2 with d := ds } (iw w 55 2) v)))) ∧
    (∀ i code first, (i, code, first) ∈ [(Instr.foFir c, 96, false), (.foFird c, 97, true)] → s.folIssues c code →
      let dir := iw w 47 2
      let xi := iw w 53 2
      let low := iw w 50 1 == 1
      let d := halfOf (s.folMem c 2 (r.ptr 2 xi)) low
      let k := halfOf (s.folMem c 3 (r.ptr 3 (iw w 51 2))) (iw w 49 1 == 1)
      let dst := dirStep r 2 xi dir true
      let v := (if first then 0 else (r.acc (iw w 55 2)).toInt) + d.toInt * k.toInt / 2 ^ 7
      (traps v → s.completes i fun z => s.folTakes z c 1 0) ∧
      (¬ traps v → s.completes i fun z => ∃ st : State, stored st 2 dst (setHalf (s.folMem c 2 dst) low d) ∧ st.folDone z c
        (acc ((r.setPtr 2 xi (dirStep r 2 xi dir false)).setPtr 3 (iw w 51 2) (dirStep r 3 (iw w 51 2) dir false)) (iw w 55 2) v))) ∧
    (∀ i code (gt : Int → Int → Bool) (conv : BitVec 36 → Int), (i, code, gt, conv) ∈
        [(Instr.foSmax c, 128, fun v a => decide (a < v), fun h => h.toInt * 2 ^ 28),
          (.foSmin c, 129, fun v a => decide (v < a), fun h => h.toInt * 2 ^ 28),
          (.foSmaxa c, 130, fun v a => decide (a < v), fun h => max (h.toInt * 2 ^ 28) (-(h.toInt * 2 ^ 28))),
          (.foSmina c, 131, fun v a => decide (v < a), fun h => max (h.toInt * 2 ^ 28) (-(h.toInt * 2 ^ 28)))] → s.folIssues c code →
      let xen := iw w 52 1 == 1
      let yen := iw w 51 1 == 1
      let m := iw w 53 2
      let n := iw w 55 2
      (xen = true → yen = true → n = m → illegal i 7) ∧
      (¬ (xen = true ∧ yen = true ∧ n = m) →
        let x := if xen then r.access 2 (iw w 49 2) (iw w 46 3) else (0, r)
        let y := if yen then x.2.access 3 (iw w 42 2) (iw w 39 3) else (0, x.2)
        let xw := s.folMem c 2 x.1
        let xl := iw w 44 2 == 1 || (iw w 44 2 == 2 && gt (conv (halfL xw)) (conv (halfH xw)))
        let vx := conv (halfOf xw xl)
        let yl := iw w 38 1 == 1
        let vy := conv (halfOf (s.folMem c 3 y.1) yl)
        let tx := xen && gt vx (r.acc n).toInt
        let ty := yen && gt vy (r.acc m).toInt
        let q : FolRec := if tx then { y.2 with
            a := r.a.set n (BitVec.ofInt 72 vx), n := r.n.set n ((x.1 * 2 + if xl then 1 else 0) % 2 ^ 15) } else y.2
        s.completes i fun z => s.folDone z c (if ty then
          { q with a := q.a.set m (BitVec.ofInt 72 vy), n := q.n.set m ((y.1 * 2 + if yl then 1 else 0) % 2 ^ 15) } else q))) ∧
    let sel := 2 + iw w 56 1
    let low := iw w 50 1 == 1
    let k := iw w 47 3
    let x := r.access sel (iw w 54 2) (iw w 51 3)
    let old := s.folMem c sel x.1
    (∀ i code q, (i, code, q) ∈ [(Instr.foLd c, 160, { x.2 with d := r.d.set k (halfOf old low) }),
        (.foLda c, 162, { x.2 with a := r.a.set (iw w 47 2) old }),
        (.foLdi c, 165, { r with d := r.d.set k (BitVec.ofNat 36 (w % 2 ^ 36)) })] →
      s.folIssues c code → s.completes i fun z => s.folDone z c q) ∧
    (∀ i code v, (i, code, v) ∈ [(Instr.foSt c, 161, setHalf old low (r.dReg k)), (.foSta c, 163, r.acc (iw w 47 2)),
        (.foStah c, 164, setHalf old low (storeAcc r.mr (r.acc (iw w 47 2))))] →
      s.folIssues c code → s.completes i fun z => ∃ st : State, stored st sel x.1 v ∧ st.folDone z c x.2) ∧
    (s.folIssues c 166 → let v := iw w 0 15
      let j := iw w 54 2
      (iw w 51 2 = 0 → if 16383 < v then illegal (.foLdp c) 8 else s.completes (.foLdp c) fun z => s.folDone z c (r.setPtr sel j v)) ∧
      (iw w 51 2 = 1 → s.completes (.foLdp c) fun z =>
        s.folDone z c (r.setModf sel j (if v < 2 ^ 14 then (v : Int) else (v : Int) - 2 ^ 15))) ∧
      (iw w 51 2 = 2 → if 16384 < v then illegal (.foLdp c) 8 else s.completes (.foLdp c) fun z => s.folDone z c (r.setLen sel j v)))

/-- A core that does not run issues nothing, and a row that is not the word at its PC has no effect. A reserved word, a CTRL
instruction or mode write in a delay slot, and a CTRL instruction at a loop's end raise ILLEGAL. After NOP the PC moves on, to a
branch's target after its second slot, or to a loop's start while its count lasts, and a mode write comes nearer. Each CTRL, MODE
and EXT instruction that its core issues has the effect of its rule: branches open two delay slots; LOOP and LOOPD push, skip or
raise LOOP; WAITBLK waits or returns a block; DONE returns the current block by its deadline; RTE resumes; HALT halts; TRAP traps;
mode writes wait in the shadow; RDS and WRS read and write the special registers; EXT accesses the control address space with the
tag of the page's owner, after a stall whose cycles are free (log entry 183). -/
def Obligations.FoleyControl : Prop :=
  ∀ (s : State) (c : Fin 64), let r := s.folRec c
    let w := s.folWord c
    let next := (r.pc + 1) % 8192
    let still (z : State) : Prop := { z with fol := s.fol } = s ∧ (∀ k, k ≠ c.val → z.folRec k = s.folRec k) ∧
      (z.folRec c).d = r.d ∧ (z.folRec c).a = r.a
    let takes (i : Instr) (v code : Nat) : Prop := s.completes i fun z => s.folTakes z c v code
    (∀ e ∈ folRows c,
      (s.folRuns c = false → exec e.2 s = .next s) ∧
      (∀ k, folCode w = some k → k ≠ e.1 → exec e.2 s = .next s) ∧
      (s.folRuns c = true → folCode w = none ∨ (folCode w = some e.1 ∧ (folNonZero w = true ∨ folReserved w = true)) → takes e.2 0 1) ∧
      (s.folRuns c = true → folCode w = some e.1 → folNonZero w = false → folReserved w = false →
        folCtrl e.1 = true ∨ (r.slots ≠ none ∧ folModeWrite e.1 = true) →
        (r.slots ≠ none → takes e.2 0 2) ∧ (r.slots = none → (∃ l, r.loops.head? = some l ∧ l.stop = r.pc) → takes e.2 0 4))) ∧
    (s.folIssues c 0 → s.completes (.foNop c) fun z => let q := z.folRec c
      still z ∧ q.em = r.em ∧
      (∀ x, r.slots = some x → q.loops = r.loops ∧
        if x.next = 1 then q.slots = some { x with next := 2 } ∧ q.pc = next
        else q.slots = none ∧ q.pc = if x.taken then x.target else (x.addr + 3) % 8192) ∧
      (r.slots = none → q.slots = none ∧ (r.loops = [] → q.pc = next ∧ q.loops = []) ∧ ∀ e l, r.loops = e :: l →
        if r.last = true ∨ e.stop = r.pc then
          (if 2 ≤ e.count then q.pc = e.start ∧ q.loops = { e with count := e.count - 1 } :: l else q.pc = next ∧ q.loops = l)
        else q.pc = next ∧ q.loops = r.loops) ∧
      (r.shadow = [] → q.mr = r.mr ∧ q.shadow = []) ∧ ∀ v n, r.shadow = [(v, n)] →
        if n ≤ 1 then q.mr = v ∧ q.shadow = [] else q.mr = r.mr ∧ q.shadow = [(v, n - 1)]) ∧
    (∀ i code taken target lr, (i, code, taken, target, lr) ∈ [(Instr.foBra c, 1, true, iw w 36 13, r.lr),
        (.foBcc c, 2, folCond (iw w 51 4) (r.acc (iw w 49 2)) (r.ov.getD (iw w 49 2) false), iw w 36 13, r.lr),
        (.foCall c, 3, true, iw w 36 13, (r.pc + 3) % 8192), (.foRet c, 4, true, r.lr, r.lr)] → s.folIssues c code →
      (r.slotAtEnd = true → takes i 0 3) ∧
      (r.slotAtEnd = false → s.completes i fun z => let q := z.folRec c
        still z ∧ q.loops = r.loops ∧ q.lr = lr ∧ q.pc = (r.pc + if r.skip1 then 2 else 1) % 8192 ∧
        q.slots = some ⟨r.pc, if r.skip1 then 2 else 1, r.reuse.getD taken, target % 8192⟩)) ∧
    (∀ i code count, (i, code, count) ∈ [(Instr.foLoop c, 5, iw w 20 16), (.foLoopd c, 6, (r.dReg (iw w 17 3)).toNat % 65536)] →
      s.folIssues c code → let stop := iw w 36 13
      let bad : Prop := stop < next ∨ (∃ e ∈ r.loops, e.stop = stop) ∨ (count ≠ 0 ∧ 4 ≤ r.loops.length)
      (bad → takes i 2 0) ∧
      (¬ bad → s.completes i fun z => let q := z.folRec c
        still z ∧ if count = 0 then q.loops = r.loops ∧ q.pc = (stop + 1) % 8192
          else q.loops = ⟨next, stop, count⟩ :: r.loops ∧ q.pc = next)) ∧
    (s.folIssues c 7 → (r.loops = [] → takes (.foLeave c) 2 0) ∧ ∀ e l, r.loops = e :: l → s.completes (.foLeave c) fun z =>
      still z ∧ (z.folRec c).loops = l ∧ (z.folRec c).pc = next) ∧
    (s.folIssues c 8 → (r.got = none → exec (.foWaitblk c) s = .next s) ∧ ∀ k, r.got = some k →
      ((∃ q, r.cur = some q ∧ k ≤ q) → exec (.foWaitblk c) s = .next s) ∧
      ((∀ q, r.cur = some q → q < k) → s.completes (.foWaitblk c) fun z => (z.folRec c).cur = some k ∧ (z.folRec c).cyc = 0 ∧
        (z.folRec c).pc = next ∧ z.rd 0 (folA c 0x05C) = BitVec.ofInt 32 k ∧ (z.folRec c).d = r.d ∧
        s.regsKept z [regKey 0 (folA c 0x05C)] ∧ z.tbl = s.tbl)) ∧
    (s.folIssues c 9 → s.completes (.foDone c) fun z => let q := z.folRec c
      q.pc = next ∧ q.cur = r.cur ∧ q.d = r.d ∧ q.a = r.a ∧ z.tbl = s.tbl ∧
      (r.cur = none ∨ (∃ k l, r.cur = some k ∧ r.doneAt = some l ∧ k ≤ l) ∨ (∃ k, r.cur = some k ∧ s.folLate c k = true) →
        q.ready = r.ready ∧ z.regs = s.regs) ∧
      ∀ k, r.cur = some k → (∀ l, r.doneAt = some l → l < k) → s.folLate c k = false →
        q.ready = some k ∧ q.doneAt = some k ∧ z.rd 0 (folA c 0x06C) = wd (min (r.cyc + 1) (2 ^ 32 - 1)) ∧
        s.regsKept z [regKey 0 (folA c 0x06C), regKey 0 (folA c 0x070)]) ∧
    (s.folIssues c 10 → s.completes (.foRte c) fun z => let q := z.folRec c
      let ds := r.estat / 16 % 4
      still z ∧ q.em = false ∧ q.pc = r.epc % 8192 ∧ q.loops = r.loops ∧ q.skip1 = (ds == 2) ∧ q.last = (r.estat / 256 % 2 == 1) ∧
      q.reuse = if ds = 0 then none else some (r.estat / 64 % 2 == 1)) ∧
    (s.folIssues c 11 → s.completes (.foHalt c) fun z => z.folState c = 3 ∧ z.rdF 0 (folA c 0x048) 8 4 = 1 ∧
      bitOf (z.rd 0 (folA c 0x04C)) 3 = true ∧ (z.folRec c).d = r.d ∧ (z.folRec c).a = r.a ∧ z.tbl = s.tbl) ∧
    (s.folIssues c 12 → takes (.foTrap c) 4 (iw w 0 8)) ∧
    (∀ i code v, (i, code, v) ∈ [(Instr.foMovm c, 192, iw w 0 16), (.foMovmd c, 193, (r.dReg (iw w 49 3)).toNat % 65536)] →
      s.folIssues c code → (16 ≤ v → takes i 0 5) ∧
      (v < 16 → s.completes i fun z => s.folDone z c { r with shadow := r.shadow ++ [(v, 3)] })) ∧
    (s.folIssues c 194 → s.completes (.foRdm c) fun z => s.folDone z c { r with d := r.d.set (iw w 49 3) (BitVec.ofNat 36 r.mr) }) ∧
    (s.folIssues c 195 → let dk := iw w 49 3
      (∀ n v, (n, v) ∈ [(0, (s.rd 0 (folA c 0x05C)).toNat), (1, s.folIbase c (r.cur.getD 0)), (2, s.folObase c (r.cur.getD 0)), (3, r.epc),
          (4, r.estat), (5, r.emr), (6, r.lr), (20, r.cyc)] ++ (r.loops.take 1).map (fun e => (7, e.count)) ++
          (List.range 4).flatMap (fun j => [(8 + j, r.n.getD j 0), (12 + j, r.xp.getD j 0), (16 + j, r.yp.getD j 0)]) →
        iw w 52 5 = n → s.completes (.foRds c) fun z => s.folDone z c { r with d := r.d.set dk (BitVec.ofNat 36 v) }) ∧
      (iw w 52 5 = 7 → r.loops = [] → s.completes (.foRds c) fun z => ∃ (v : BitVec 36) (st : State), { st with free := s.free } = s ∧
        st.folDone z c { r with d := r.d.set dk v })) ∧
    (s.folIssues c 196 → let v := (r.dReg (iw w 49 3)).toNat
      (∀ n q, (n, q) ∈ [(3, { r with epc := v % 2 ^ 13 }), (4, { r with estat := v % 2 ^ 24 }), (5, { r with emr := v % 2 ^ 16 }),
          (6, { r with lr := v % 2 ^ 13 })] ++ (List.range 4).flatMap (fun j =>
            [(8 + j, r.setN j v), (12 + j, r.setPtr 2 j v), (16 + j, r.setPtr 3 j v)]) →
        iw w 52 5 = n → s.completes (.foWrs c) fun z => s.folDone z c q) ∧
      (iw w 52 5 ∈ [0, 1, 2, 7, 20] → takes (.foWrs c) 0 6)) ∧
    (s.folIssues c 224 → let addr := (r.dReg (iw w 53 3)).toNat % 2 ^ 28
      let x : Access := ⟨.p (Fin.ofNat 16 (s.pageOwner (pFol c))), 100 + c.val, addr, 2, false, iw w 59 1 == 1,
        (r.dReg (iw w 56 3)).toNat % 2 ^ 32⟩
      let got (st : State) : FolRec := (st.extStall c).folRec c
      (∀ st : State, { st.extStall c with fol := st.fol, free := st.free } = st ∧
        (∀ k, k ≠ c.val → (st.extStall c).folRec k = st.folRec k) ∧
        ∃ n, got st = { st.folRec c with cyc := (st.folRec c).cyc + n }) ∧
      (∀ lands, let sh : Shape := .one 32 (BitVec.ofNat 64 x.data)
        let u := (s.dropHolds x.master x.page).logErr x .timeout
        let v := if x.wr then u.afterTimeout (s.lateWords x.tag addr sh) lands else u
        (s.mayTimeOut x.tag addr x.wr sh = false → exec (.foExt c (some lands)) s = .next s) ∧
        (s.mayTimeOut x.tag addr x.wr sh = true → v.folRuns c = true →
          s.completes (.foExt c (some lands)) fun z => (v.extStall c).folTakes z c 3 0)) ∧
      (isHbm addr = true → let h := s.winAddr x.tag (hbmOff addr)
        (∀ e, s.winRefusal x.tag (hbmOff addr) 4 x.wr true = some e →
          s.completes (.foExt c none) fun z => ((s.logErr x e).extStall c).folTakes z c 3 0) ∧
        (s.winRefusal x.tag (hbmOff addr) 4 x.wr true = none → s.completes (.foExt c none) fun z =>
          if x.wr = true then z.folRec c = (got s).done ∧ z.memGet h 4 = x.data ∧ ∀ b, b < h ∨ h + 4 ≤ b → z.memByte b = s.memByte b
          else (s.extStall c).folDone z c ((got s).setD (iw w 56 3) (BitVec.ofNat 36 (s.memGet h 4))))) ∧
      (isHbm addr = false →
      (x.wr = false → let u := busRead x.tag x.master addr s
        (u.1.1 = true → s.completes (.foExt c none) fun z => (u.2.extStall c).folTakes z c 3 0) ∧
        (u.1.1 = false → u.2.folRuns c = true → s.completes (.foExt c none) fun z => (u.2.extStall c).folDone z c
          ((got u.2).setD (iw w 56 3) (BitVec.ofNat 36 u.1.2.toNat)))) ∧
      (x.wr = true → let u := busWord x s
        (s.admits x = false → s.completes (.foExt c none) fun z => (u.extStall c).folTakes z c 3 0) ∧
        (s.admits x = true → u.folRuns c = true → s.completes (.foExt c none) fun z => (u.extStall c).folDone z c (got u)))))

/-- FOLEY_EXCHANGE_IN puts sample q of channel n of the block into its half of the input bank and nowhere else. FOLEY_EXCHANGE_OUT
gives the crosspoint the samples of the output bank, with settling flags while a channel's settle counter lasts. FOLEY_DEADLINE of a
returned block changes nothing else; of a missed one it counts, raises FOL.MISS, repeats the block before, or zeros with the flag
before the first DONE, and the MISS_N-th with AUTO_MOVE triggers a move to a spare. FOLEY_OVERRUN counts and restarts the core by a
synchronising reset. Admitted, FOL_START, FOL_STOP, FOL_SPARE, FOL_RELEASE and FOL_MOVE act in the states of R340 and else raise
FOL.CFG alone. CORE_MOVE_HALT copies the core's memories and registers to BACKUP; CORE_MOVE_RESUME moves the binding, starts BACKUP
and retires the core. -/
def Obligations.FoleyExchange : Prop :=
  ∀ (s : State) (c : Fin 64), let r := s.folRec c
    let ev (z : State) (k b : Nat) : Prop := bitOf (z.rd 0 (folA k 0x04C)) b = true
    let live : Prop := s.folBound c = true ∧ (s.folState c = 2 ∨ s.folState c = 3)
    let ib := gridB (s.gridOut (s.folIn c))
    let ob := gridB (s.gridIn (s.folOut c))
    let bu := s.folBackup c
    let synced (z : State) (k : Nat) : Prop := let q := z.folRec k
      q.pc = z.folEntry k ∧ q.d = List.replicate 8 0 ∧ q.a = List.replicate 4 0 ∧ q.n = List.replicate 4 0 ∧ q.loops = [] ∧ q.em = false ∧
      q.lr = 0 ∧ q.mr = 1 ∧ q.fresh = true ∧ (∀ sel off, (sel, off) ∈ [(2, 0x054), (3, 0x058)] →
        ∀ i, i < z.rdF 0 (folA k off) 16 15 → z.folMem k sel ((z.rdF 0 (folA k off) 0 14 + i) % 16384) = 0) ∧
      ∀ n, n < z.folNout k → n < 1024 → Tab.get (fun _ => 0) q.settle n = z.entF (pFol k) 0 4 n 0 0 16
    (s.folBlock c = none → exec (.foleyExchangeIn c) s = .next s ∧ exec (.foleyDeadline c) s = .next s ∧
      exec (.foleyOverrun c) s = .next s ∧ exec (.coreMoveHalt c) s = .next s ∧ exec (.coreMoveResume c) s = .next s) ∧
    (∀ k, s.folBlock c = some k →
      (¬ live ∨ (∃ g, r.got = some g ∧ k ≤ g) → exec (.foleyExchangeIn c) s = .next s) ∧
      (live → (∀ g, r.got = some g → g < k) → s.folFits c = true → let t := if r.moving then bu else c
        s.completes (.foleyExchangeIn c) fun z =>
          (∀ n q, n < s.folNin c → q < ib → halfOf (z.folMem t 2 ((s.folIbase c k + (n * ib + q) / 2) % 16384)) ((n * ib + q) % 2 == 1) =
            sampleHalf ((s.audOut (s.folIn c + n)).block.getD q 0)) ∧
          (∀ a, a < 16384 → (∀ i, i < s.folIsz c → a ≠ (s.folIbase c k + i) % 16384) → z.folMem t 2 a = s.folMem t 2 a) ∧
          (∀ j, j / 2 ^ 28 ≠ pFol t * 16 * 65536 + 2 → Tab.get tblReset z.tbl j = Tab.get tblReset s.tbl j) ∧ z.regs = s.regs ∧
          z.folRec c = if r.moving then r else { r with got := some k }) ∧
      (¬ live ∨ (∃ q, r.passed = some q ∧ k ≤ q) ∨ s.reached (s.folDeadline c k) = false → exec (.foleyDeadline c) s = .next s) ∧
      (live → (∀ q, r.passed = some q → q < k) → s.reached (s.folDeadline c k) = true →
        (r.ready = some k ∨ r.taken = some k → s.completes (.foleyDeadline c) fun z =>
          z.folRec c = { r with passed := some k } ∧ { z with fol := s.fol } = s) ∧
        (r.ready ≠ some k → r.taken ≠ some k → let m := s.folResultBlock c k
          let missed := k :: r.missed.filter fun q => decide (k < q + 64)
          s.completes (.foleyDeadline c) fun z => z.rd 0 (folA c 0x074) = wd (satAdd 32 (s.rd 0 (folA c 0x074)).toNat 1) ∧ ev z c 0 ∧
            (z.folRec c).passed = some k ∧ (z.folRec c).missed = missed ∧ (z.folRec c).pc = r.pc ∧
            (∃ f ∈ z.folBlks c, f.block = m ∧ f.rep = true ∧
              (r.fresh = true → (∀ l ∈ f.samples, ∀ v ∈ l, v = 0) ∧ ∀ l ∈ f.settle, ∀ v ∈ l, v = true) ∧
              (r.fresh = false → ∀ g, ((s.folBlks c).filter fun g => decide (g.block < m)).getLast? = some g →
                f.samples = g.samples ∧ f.settle = g.settle)) ∧
            (s.folState c = 2 → s.folAuto c = true → s.folMissN c ≤ missed.length → s.folPend c = false →
              if s.folState bu = 4 ∧ s.pageOwner (pFol bu) = s.pageOwner (pFol c) then
                z.folPend c = true ∧ (z.folRec c).move = some k else ev z c 6))) ∧
      (∀ q, r.cur = some q → let due := if r.doneAt = some q then q + 1 else q
        (s.folBound c = false ∨ s.folRuns c = false ∨ k < due + 2 → exec (.foleyOverrun c) s = .next s) ∧
        (s.folBound c = true → s.folRuns c = true → due + 2 ≤ k → s.completes (.foleyOverrun c) fun z => synced z c ∧ ev z c 1 ∧
          z.rd 0 (folA c 0x078) = wd (satAdd 32 (s.rd 0 (folA c 0x078)).toNat 1) ∧ z.rd 0 (folA c 0x05C) = BitVec.ofInt 32 k)) ∧
      ∀ j, r.move = some j → bu ≠ c.val →
        (s.folState c ≠ 2 ∨ r.moving = true ∨ k < j + 1 → exec (.coreMoveHalt c) s = .next s) ∧
        (s.canonical → s.folState c = 2 → r.moving = false → j + 1 ≤ k → s.completes (.coreMoveHalt c) fun z =>
          z.folRec c = { r with moving := true } ∧ (∀ sel a w, 1 ≤ sel → sel ≤ 4 → a < 16384 → w < 3 →
            z.ent (pFol bu) 0 sel a w = s.ent (pFol c) 0 sel a w ∧ z.ent (pFol c) 0 sel a w = s.ent (pFol c) 0 sel a w) ∧
          z.folEntry bu = s.folEntry c ∧ ∀ off ∈ [0x050, 0x054, 0x058], z.rd 0 (folA bu off) = s.rd 0 (folA c off)) ∧
        (r.moving = false ∨ k < j + 2 → exec (.coreMoveResume c) s = .next s) ∧
        (r.moving = true → j + 2 ≤ k → s.completes (.coreMoveResume c) fun z => z.folState bu = 2 ∧ z.folState c = 5 ∧
          (z.folRec c).moving = false ∧ z.folBound c = false ∧ z.ent pAud 0 9 bu 0 = s.ent pAud 0 9 c 0 ∧
          z.ent pAud 0 9 bu 1 = s.ent pAud 0 9 c 1 ∧ z.folBlks bu = s.folBlks c ∧ synced z bu ∧ ev z c 5 ∧ ev z bu 5 ∧
          z.rd 0 (folA bu 0x05C) = BitVec.ofInt 32 k)) ∧
    (r.ready = none ∨ s.folBound c = false ∨ s.folState c ≠ 2 ∨ r.moving = true → exec (.foleyExchangeOut c) s = .next s) ∧
    (∀ k, r.ready = some k → s.folBound c = true → s.folState c = 2 → r.moving = false → s.completes (.foleyExchangeOut c) fun z =>
      (z.folRec c).ready = none ∧ (z.folRec c).taken = some k ∧ z.regs = s.regs ∧ z.tbl = s.tbl ∧
      ∃ f ∈ z.folBlks c, f.block = s.folResultBlock c k ∧ f.rep = false ∧ ∀ n q, n < s.folNout c → q < ob →
        (f.samples.getD n []).getD q 0 =
          halfSample (halfOf (s.folMem c 3 ((s.folObase c k + (n * ob + q) / 2) % 16384)) ((n * ob + q) % 2 == 1)) ∧
        (f.settle.getD n []).getD q false = decide (q < Tab.get (fun _ => 0) r.settle n)) ∧
    ∀ (t : Tag) (d : Word), s.admits (.w32 t (folA c 0x044) d) = true →
      let refused (i : Instr) : Prop := s.completes i fun z => ev z c 7 ∧ z.folState c = s.folState c ∧ z.folRec c = r ∧ z.tbl = s.tbl ∧
        z.aud = s.aud
      let moves (z : State) (v : Nat) : Prop := z.folState c = v ∧ z.folRec c = r ∧ z.tbl = s.tbl ∧ z.aud = s.aud
      (d = 1 → let ok : Prop := (s.folState c = 1 ∨ s.folState c = 3) ∧ s.folBound c = true ∧ s.folFits c = true
        (ok → s.completes (.folStart t c) fun z => z.folState c = 2 ∧ synced z c ∧ (z.folRec c).got = none ∧ z.aud = s.aud) ∧
        (¬ ok → refused (.folStart t c))) ∧
      (d = 2 → (s.folState c = 2 ∨ s.folState c = 3 → s.completes (.folStop t c) fun z => z.folState c = 1 ∧
          (z.folRec c).ready = none ∧ z.folPend c = false ∧ z.tbl = s.tbl) ∧
        (s.folState c ≠ 2 → s.folState c ≠ 3 → refused (.folStop t c))) ∧
      (d = 4 → (s.folState c = 1 → s.completes (.folSpare t c) fun z => moves z 4) ∧ (s.folState c ≠ 1 → refused (.folSpare t c))) ∧
      (d = 8 → (s.folState c = 4 ∨ s.folState c = 5 → s.completes (.folRelease t c) fun z => moves z 1) ∧
        (s.folState c ≠ 4 → s.folState c ≠ 5 → refused (.folRelease t c))) ∧
      (d = 16 → (s.folState c ≠ 2 → refused (.folMove t c)) ∧ (s.folState c = 2 → s.folPend c = false →
        s.completes (.folMove t c) fun z => z.folState c = 2 ∧ z.tbl = s.tbl ∧
          if s.folState bu = 4 ∧ s.pageOwner (pFol bu) = s.pageOwner (pFol c) then
            z.folPend c = true ∧ z.folRec c = { r with move := s.folBlock c }
          else z.folPend c = false ∧ z.folRec c = r ∧ ev z c 6))

/-- LAYER_PICTURE_COMPLETE of an unusable or unfinished picture changes nothing; a whole picture is scaled, converted and stored in
a slot that is neither shown nor the newest, counted, with the unseen one before it counted as dropped, and no byte outside the slot
changes. HEAD_DECISION of a head that is off, has just been enabled, or has decided its frame changes nothing. Otherwise the frame
is counted and put on the head's input. A FROZEN head keeps layout and pictures; another puts into force exactly the writes that are
due, the latest of each entry, and each of its valid layers takes its unseen picture as SHOWN, or repeats and counts, LOST after
LOSS_N, or is in FORMAT or RATE, with their events; a layer made invalid is OFF. A pixel that no layer and no plane covers is BG. -/
def Obligations.MontageHeads : Prop :=
  (∀ (s : State) (l : Fin 384) (pic : Picture), let r := s.layRec l
    (s.laySrc l = none ∨ bitOf (s.monApp 2 l 0) 31 = false ∨ s.layBad l ≠ none ∨ r.run = false →
      exec (.layerPictureComplete l pic) s = .next s) ∧
    ∀ d, s.laySrc l = some d → bitOf (s.monApp 2 l 0) 31 = true → s.layBad l = none → r.run = true →
      let crop := s.layCrop l d
      let last := if d.scan = 1 then (crop.1.2 + crop.2.2) / 2 else crop.1.2 + crop.2.2
      let whole : Prop := if d.kind = 4 then pic.lines ≠ [] else last ≤ r.lines.length ∧ (r.lines.getD (last - 1) []).length = d.wpl
      let px := (if d.kind = 4 then pic.lines else r.lines.map lineSamples).map fun x =>
        if d.kind = 0 ∧ d.sampling = 1 then px444 x d.frameSize.1 else px422 x d.frameSize.1
      let field := if d.scan = 1 then some r.second else none
      let dims := layDims (s.monApp 2 l 2)
      let scaled := scalePicture r.coef crop dims.1 dims.2 field px
      let rows := if bitOf (s.monApp 2 l 0) 1 then scaled.map fun x => x.map (matrixPx fun i => s.monApp 3 l i) else scaled
      let n := r.freeSlot
      let a := s.slotAddr l n
      (¬ whole → exec (.layerPictureComplete l pic) s = .next s) ∧
      (whole → some n ≠ r.newest ∧ some n ≠ r.shown ∧ s.completes (.layerPictureComplete l pic) fun z =>
        z.layRec l = { r with run := false, lines := [], newest := some n, unseen := true } ∧
        z.monEnt 7 l 1 = wd (satAdd 32 (s.monEnt 7 l 1).toNat 1) ∧
        z.monEnt 7 l 2 = (if r.unseen then wd (satAdd 32 (s.monEnt 7 l 2).toNat 1) else s.monEnt 7 l 2) ∧
        (∀ x y, x < dims.1 → y < dims.2 → z.memGet (a + (y * dims.1 + x) * 4) 4 = packPx ((rows.getD y []).getD x (0, 0, 0))) ∧
        (∀ b, b < a ∨ a + slotBytes (s.monApp 2 l 2) ≤ b → z.memByte b = s.memByte b) ∧ z.regs = s.regs ∧ z.fab = s.fab)) ∧
  (∀ (s : State) (h : Fin 64), let d := s.inDesc (4096 + h.val) 0
    let r := s.headRec h
    let k := s.playFrameBy d ((s.nowAt d.tb).add 100000 1)
    let idle : Prop := headEn (s.monEnt 1 h 0) = false ∨ d.valid = false ∨ s.tbMode d.tb = 0 ∨ s.beat < r.enAt + 34560 ∨
      ∃ q, r.last = some q ∧ k ≤ q
    let frozen := s.entF pMon 0 8 h 0 0 2 == 2 && (!s.ready pMon || bitOf (s.rd 0 (regA pMgt 0x040)) 6)
    let ev (z : State) (l b : Nat) : Prop := bitOf (z.rd (eventBank pMon (s.layOwner l)) (regA pMon 0x044)) b = true
    (idle → exec (.headDecision h) s = .next s) ∧
    (¬ idle → Tab.wf (fun _ => 0) s.mon.applied = true → Tab.wf (fun _ => []) s.mon.pend = true → s.completes (.headDecision h) fun z =>
      (z.headRec h).last = some k ∧ z.monEnt 8 h 1 = wd (satAdd 32 (s.monEnt 8 h 1).toNat 1) ∧ s.memKept z ∧ z.fab.ing = s.fab.ing ∧
      (let left := s.until ((At.mk d.tb (k * (d.framePeriod.1 : Nat)) d.framePeriod.2).add (s.padD d.tb) 1)
        let wait := if left ≤ 0 then 0 else cdiv (left.toNat * 216) (625 * 65536)
        Tab.get (fun _ => []) z.fab.due (4096 + h) = Tab.get (fun _ => []) s.fab.due (4096 + h) ++
          (d.frameWords k (z.headFrame h d (z.headRec h).picks)).map fun e => (s.beat + wait + e.1, e.2)) ∧
      (frozen = true → z.mon.applied = s.mon.applied ∧ z.mon.pend = s.mon.pend ∧ (z.headRec h).picks = r.picks ∧ z.regs = s.regs) ∧
      (frozen = false → z.entF pMon 0 8 h 0 0 2 = 1 ∧
        (∀ sel idx w, (sel, w) ∈ [(1, 0), (1, 2), (2, 0), (2, 1), (2, 2), (2, 5), (3, 0), (3, 14), (4, 0), (4, 4)] → idx < 384 →
          z.monApp sel idx w = (((s.monDue h).find? fun e => e.1 == (sel, idx)).map fun e => dat e.2 w).getD (s.monApp sel idx w)) ∧
        (∀ l ws, ((2, l), ws) ∈ s.monDue h → bitOf (dat ws 0) 31 = false → z.layState l = 0 ∧ z.layRec l = LayRec.idle) ∧
        ∀ l, l < 384 → bitOf (z.monApp 2 l 0) 31 = true → fld (z.monApp 2 l 0) 24 6 = h.val →
          let q := s.layRec l
          let old := s.layState l
          (l, z.layPick l) ∈ (z.headRec h).picks ∧
          (∀ v, z.layBad l = some v → z.layState l = v ∧ (z.layRec l).shown = none ∧ z.layPick l = none ∧
            (old ≠ v → ev z l (if v = 4 then 1 else 2))) ∧
          (z.layBad l = none → q.unseen = true → z.layState l = 2 ∧ (z.layRec l).shown = q.newest ∧ (z.layRec l).unseen = false ∧
            z.monEnt 7 l 3 = s.monEnt 7 l 3) ∧
          (z.layBad l = none → q.unseen = false → (z.layRec l).shown = q.shown ∧ (z.layRec l).missed = q.missed + 1 ∧
            z.monEnt 7 l 3 = wd (satAdd 32 (s.monEnt 7 l 3).toNat 1) ∧
            if old ≠ 3 ∧ lossN (z.monApp 2 l 5) ≤ q.missed + 1 then z.layState l = 3 ∧ ev z l 0
            else z.layState l = if old = 3 then 3 else if old = 2 then 2 else 1)))) ∧
  ∀ (s : State) (h x y : Nat) (picks : List (Nat × Option Nat)), s.topLayer picks x y = none →
    (∀ n, n < 4 → bitOf (s.monApp 4 (h * 4 + n) 0) 31 = false) →
    s.composePx h picks x y =
      (Int.ofNat (fld (s.monApp 1 h 2) 0 12), Int.ofNat (fld (s.monApp 1 h 2) 16 12), Int.ofNat (fld (s.monApp 1 h 3) 0 12))

/-- Admitted, SET_RATE, SLEW, STEP and SET_TIME report the first failed check of R519 in ADJ_RESULT, and with code 0 wait at their
time base alone for the next beat. FABRIC_BEAT, up to the writes that come late at its end (R53), leaves a time base that is OFF;
another advances by the nominal period corrected by the RATE in force, rounded one way or the other (log entry 11), plus a part of
its slew within SLEW_MAX, and then takes what waits (log entry 14): a rate, a slew, a step or a time, the last two counted with
their event. PTP_SYNC of a servo that runs shows the offset, notes a change of grandmaster, counts good and bad intervals, and
steps, slews or sets the rate. PTP_ANNOUNCE_TIMEOUT enters HOLDOVER with the mean of the kept rates. COMPARATOR_FIRE before the
target changes nothing; at it LAST, COUNT and LATE are kept, the bit and the cause rise, a one-shot is disabled and a periodic one
moves on. -/
def Obligations.TimeBases : Prop :=
  ∀ s : State, let ev (z : State) (p b : Nat) : Prop := bitOf (z.rd p (regA pTime 0x044)) b = true
    (∀ (t : Tag) (tb : Fin 8) (op : Nat) (i : Instr), (op, i) ∈ [(1, Instr.setRate t tb), (2, .slew t tb), (3, .stepTime t tb),
        (4, .setTime t tb)] → s.admits (.w32 t (regA pTime 0x050) (wd (tb.val + op * 16))) = true →
      let p := tagBank t
      let m := s.tbMode tb
      let v := s.rd64 p (regA pTime 0x058)
      let fw : Prop := m = 2 ∧ t = .m
      let allowed : Prop := (op = 1 ∧ m = 4) ∨ (op = 2 ∧ (m = 4 ∨ fw)) ∨ (op = 3 ∧ (m = 1 ∨ m = 3 ∨ m = 4 ∨ fw)) ∨
        (op = 4 ∧ (m = 1 ∨ m = 3 ∨ m = 4))
      let own : Prop := tagOwns t (s.tbOwner tb) = true
      let used : Prop := 3 ≤ op ∧ s.tbInUse tb = true
      let big : Prop := op = 4 ∧ 999999999 < v % 2 ^ 32
      s.completes i fun z => let code := z.rdF p (regA pTime 0x054) 0 4
        z.rdF p (regA pTime 0x054) 4 3 = op ∧ z.rdF p (regA pTime 0x054) 8 3 = tb.val ∧ z.tbl = s.tbl ∧ z.fab = s.fab ∧ s.memKept z ∧
        (¬ own → code = 1) ∧ (own → ¬ allowed → code = 2) ∧ (own → allowed → used → code = 3) ∧
        (own → allowed → ¬ used → big → code = 4) ∧ (code ≠ 0 → z.tbs = s.tbs) ∧
        (own → allowed → ¬ used → ¬ big → code = 0 ∧ (∀ n, n ≠ tb.val → z.tbRec n = s.tbRec n) ∧
          ∃ a, z.tbRec tb = { s.tbRec tb with adj := (s.tbRec tb).adj ++ [a] } ∧ (op = 1 → a = .rate (loHalf v)) ∧
            (op = 2 → a = .slew (sext 64 v)) ∧ (op = 3 → a = .step (sext 64 v)) ∧ (op = 4 → a = .set
              (((s.rd64 p (regA pTime 0x060) % 2 ^ 48 * 1000000000 + v % 2 ^ 32) * 2 ^ 16 + v / 2 ^ 32 % 2 ^ 16) * 2 ^ 32)))) ∧
    (s.completes .fabricBeat fun late => ∃ z : State, late = z.lateBeat ∧ z.bus.late = s.bus.late ∧ z.beat = s.beat + 1 ∧ ∀ n, n < 8 →
      (s.tbMode n = 0 → z.tbRec n = s.tbRec n) ∧
      (s.tbMode n ≠ 0 → let r := s.tbRec n
        let q := z.tbRec n
        let cap : Int := (625 * 2 ^ 48 / 216 * s.slewMax n / 10000000 : Nat)
        q.adj = [] ∧ ∃ c p : Int, (c = 0 ∨ c = 1) ∧ -cap ≤ p ∧ p ≤ cap ∧ (
          let inc := 625 * (2 ^ 42 + (if s.tbMode n = 3 then z else s).tbRate n) * 2 ^ 6 / 216 + c + p
          (r.adj = [] → q.t = tbWrap (r.t + inc) ∧ q.slew = r.slew - p ∧ q.slew.natAbs + p.natAbs = r.slew.natAbs ∧
            (s.tbMode n ≠ 3 → z.tbRate n = s.tbRate n)) ∧
          (∀ v, r.adj = [.rate v] → s.tbMode n ≠ 3 → z.tbRate n = v.toInt ∧ q.t = tbWrap (r.t + inc)) ∧
          (∀ o, r.adj = [.slew o] → q.t = tbWrap (r.t + inc) ∧ q.slew = o * 2 ^ 32) ∧
          (∀ o, r.adj = [.step o] → q.t = tbWrap ((tbWrap (r.t + inc) : Int) + o * 2 ^ 32)) ∧
          (∀ v, r.adj = [.set v] → q.t = tbWrap v) ∧
          (∀ a, r.adj = [a] → (∃ o, a = .step o) ∨ (∃ v, a = .set v) → z.ent pTime 0 2 n 7 = s.ent pTime 0 2 n 7 + 1 ∧
            ev z (s.tbOwner n) 0 ∧ q.stepAt = some (s.beat + 1))))) ∧
    (∀ (tb : Fin 8) (offset gm : BitVec 64) (mpd rate : Word) (utc : BitVec 16),
      (s.servoOn tb = false → exec (.ptpSync tb offset mpd gm utc rate) s = .next s) ∧
      (s.servoOn tb = true → let r := s.tbRec tb
        let off := offset.toInt
        let good := if off.natAbs < 65536000 then r.good + 1 else 0
        let bad := if 655360000 < off.natAbs then r.bad + 1 else 0
        s.completes (.ptpSync tb offset mpd gm utc rate) fun z => let q := z.tbRec tb
          z.ent pTime 0 2 tb 2 = BitVec.ofInt 32 (off / 65536) ∧ z.ent pTime 0 2 tb 3 = mpd ∧
          pairOf (z.ent pTime 0 2 tb 4) (z.ent pTime 0 2 tb 5) = gm.toNat ∧ z.entF pTime 0 2 tb 6 0 16 = utc.toNat ∧
          (r.hadMaster = true → pairOf (s.ent pTime 0 2 tb 4) (s.ent pTime 0 2 tb 5) ≠ gm.toNat → ev z (s.tbOwner tb) 2) ∧
          q.servo = (if r.servo = 3 then (if 16 ≤ bad then 2 else 3) else if 16 ≤ good then 3 else 2) ∧
          (q.servo = r.servo → q.good = min good 16 ∧ q.bad = min bad 16) ∧ q.t = r.t ∧ q.rates = (rate.toInt :: r.rates).take 16 ∧
          q.adj = r.adj ++ [if r.servo ≠ 3 ∧ (s.stepNs tb : Int) * 65536 < off.natAbs then
            (if s.tbInUse tb then .slew (-off) else .step (-off)) else .rate rate] ∧ s.memKept z)) ∧
    (∀ tb : Fin 8, let r := s.tbRec tb
      (s.servoOn tb = false ∨ r.servo = 4 → exec (.ptpAnnounceTimeout tb) s = .next s) ∧
      (s.servoOn tb = true → r.servo ≠ 4 → s.completes (.ptpAnnounceTimeout tb) fun z =>
        (z.tbRec tb).servo = 4 ∧ (z.tbRec tb).t = r.t ∧ ev z (s.tbOwner tb) 1 ∧
        (r.rates = [] → z.tbRate tb = s.tbRate tb) ∧
        (r.rates ≠ [] → let sum := r.rates.sum
          let n : Int := r.rates.length
          z.ent pTime 0 2 tb 1 = BitVec.ofInt 32 (sum / n) ∨
            (sum % n ≠ 0 ∧ z.ent pTime 0 2 tb 1 = BitVec.ofInt 32 (sum / n + 1))))) ∧
    ∀ k : Fin 512, let r := s.cmpRec k
      let fresh : Prop := r.wrote = some s.beat
      let d := if r.wrote == some s.beat then r.old else s.entWords pTime 0 5 k 6
      let kk := if r.wrote == some s.beat then r.oldK else r.k
      let c := s.linear (cmpTb d)
      let quiet : Prop := cmpEn d = false ∨ s.tbMode (cmpTb d) = 0 ∨ linDiff c (cmpTarget d kk) < 0
      (quiet → exec (.comparatorFire k) s = .next s) ∧
      (¬ quiet → s.completes (.comparatorFire k) fun z =>
        pairOf (z.ent pTime 0 5 k 8) (z.ent pTime 0 5 k 9) = c ∧ z.ent pTime 0 5 k 10 = s.ent pTime 0 5 k 10 + 1 ∧
        (
          let late := (if r.wrote == some s.beat then r.oldLate else r.late) ||
            (cmpPeriodic d && (s.tbRec (cmpTb d)).stepAt == some s.beat)
          z.entF pTime 0 5 k 12 0 1 = (if late then 1 else 0) ∧ (late = true → 128 ≤ k.val → ev z ((k - 128) / 24) 3)) ∧
        (cmpIrq d = true → 128 ≤ k.val → bitOf (z.rd ((k - 128) / 24) (regA pTime 0x04C)) ((k - 128) % 24) = true) ∧
        (s.rdF 0 (regA pAud 0x070) 0 9 = k.val → ∀ p, p < 8 → s.tdmState p = 1 → z.tdmState p = 2) ∧
        (fresh → (∀ w, w < 6 → z.ent pTime 0 5 k w = s.ent pTime 0 5 k w) ∧ (z.cmpRec k).k = r.k) ∧
        (¬ fresh → cmpPeriodic d = false → bitOf (z.ent pTime 0 5 k 0) 31 = false) ∧
        (¬ fresh → cmpPeriodic d = true → kk < (z.cmpRec k).k ∧ (z.cmpRec k).k = cmpAfter d kk c ∧ (z.cmpRec k).late = false ∧
          z.ent pTime 0 5 k 11 = s.ent pTime 0 5 k 11 + wd ((z.cmpRec k).k - kk - 1) ∧ z.ent pTime 0 5 k 0 = s.ent pTime 0 5 k 0) ∧
        z.tbs = s.tbs ∧ s.memKept z)

/-- CAND_MISSING_EDGE freezes the DPLLs that use the candidate at the first missing edge, and at the MISS_N-th makes it INVALID with
LOS and its event. CAND_FREQ_WINDOW outside the tolerance makes it INVALID with FREQ. CAND_QUALIFIED makes an INVALID one WAIT, or
ELIGIBLE at once if it never was; CAND_WTR_EXPIRE makes a waiting one ELIGIBLE, with RESTORED. After each of these every DPLL has
taken the candidate that R390 selects by the states then in force, and one without a candidate is in HOLDOVER or FREERUN by its
history. CANDIDATE_EDGE starts counting over and ends the freeze. DPLL_LOCK, DPLL_LOCK_LOST and HOLDOVER_HISTORY act in their state
alone and, but for the last, not while FREEZE = 1. CLK_MAP_WRITE, admitted, stores BEAT and LANE unless the page is locked. -/
def Obligations.References : Prop :=
  ∀ s : State,
    let hist (z : State) (off b : Nat) : Prop := bitOf (z.rd 0 (regA pRefsel off)) b = true
    let ev (z : State) (b : Nat) : Prop := bitOf (z.rd 0 (regA pRefsel 0x04C)) b = true
    let frame (z : State) : Prop := (∀ k, k % 2 ^ 28 / 65536 ≠ pRefsel → Tab.get regReset z.regs k = Tab.get regReset s.regs k) ∧
      (∀ k, k / 2 ^ 48 ≠ pRefsel → Tab.get tblReset z.tbl k = Tab.get tblReset s.tbl k) ∧ z.fab = s.fab ∧ s.memKept z
    let chosen (z : State) : Prop := ∀ d, d < 4 → let st := s.dpllState d
      let sel := z.dpllPick d
      z.dpllSel d = sel ∧ z.dpllReady d = s.dpllReady d ∧
      (s.dpllEn d = false → z.dpllState d = 0) ∧
      (s.dpllEn d = true → s.dpllSel d ≠ 8 → sel = 8 →
        (s.dpllReady d = true → z.dpllState d = 3 ∧ hist z 0x054 (4 + d) ∧ ev z 2) ∧
        (s.dpllReady d = false → z.dpllState d = 0 ∧ hist z 0x054 (8 + d) ∧ ev z 3)) ∧
      (s.dpllEn d = true → s.dpllSel d = 8 → sel ≠ 8 → z.dpllState d = 1) ∧
      (s.dpllEn d = true → s.dpllSel d ≠ 8 → sel ≠ 8 → sel ≠ s.dpllSel d → hist z 0x054 d ∧ ev z 1 ∧
        z.ent pRefsel 0 4 d 3 = s.ent pRefsel 0 4 d 3 + 1 ∧ z.dpllState d = if st = 2 ∧ s.dpllPbo d = false then 1 else st) ∧
      (s.dpllEn d = true → s.dpllSel d ≠ 8 → sel = s.dpllSel d → z.dpllState d = st)
    (∀ d, d < 4 → let f := s.force d
      let ok (c : Nat) : Prop := s.candState c = 3 ∧ s.prio d c ≠ 0
      let sel := s.dpllSel d
      (s.dpllEn d = true → 1 ≤ f → f ≤ 8 → s.dpllPick d = if 2 ≤ s.candState (f - 1) then f - 1 else 8) ∧
      (s.dpllEn d = true → f = 0 → sel < 8 → ok sel → s.dpllRevert d = false → s.dpllPick d = sel) ∧
      (s.dpllEn d = true → f = 0 → sel = 8 ∨ ¬ ok sel ∨ s.dpllRevert d = true →
        (∀ c, c < 8 → ok c → (∀ b, b < 8 → ok b → s.prio d c < s.prio d b ∨ (s.prio d c = s.prio d b ∧ c ≤ b)) → s.dpllPick d = c) ∧
        ((∀ c, c < 8 → ¬ ok c) → s.dpllPick d = 8))) ∧
    (∀ c : Fin 8,
      (6 ≤ c.val → exec (.candMissingEdge c) s = .next s ∧ exec (.candidateEdge c) s = .next s) ∧
      (c.val < 6 → let n := (s.candRec c).missing + 1
        (s.completes (.candMissingEdge c) fun z => frame z ∧ z.candRec c = { s.candRec c with missing := n } ∧
          (n ≠ s.missN c → z.candState c = s.candState c ∧ z.regs = s.regs ∧
            ∀ d, d < 4 → n = 1 → z.dpllFreeze d = (s.dpllFreeze d || s.dpllSel d == c.val)) ∧
          (n = s.missN c → z.candState c = 1 ∧ hist z 0x050 c ∧ ev z 0 ∧ chosen z)) ∧
        s.completes (.candidateEdge c) fun z => z.regs = s.regs ∧ z.candRec c = { s.candRec c with missing := 0 } ∧
          z.candState c = s.candState c ∧ (∀ d, d < 4 → z.dpllSel d = s.dpllSel d ∧ z.dpllState d = s.dpllState d ∧
            z.dpllFreeze d = (s.dpllFreeze d && s.dpllSel d != c.val)) ∧ ∀ n, (z.tbRec n).t = (s.tbRec n).t) ∧
      (∀ ppb : Word, let out := decide (1000 * s.freqTol c < ppb.toInt.natAbs)
        s.completes (.candFreqWindow c ppb) fun z => frame z ∧ z.ent pRefsel 0 3 c 1 = ppb ∧
          z.candRec c = { s.candRec c with out := out } ∧
          (out = false → z.candState c = s.candState c ∧ z.regs = s.regs) ∧
          (out = true → z.candState c = 1 ∧ hist z 0x050 (8 + c) ∧ chosen z)) ∧
      (
        let r := s.candRec c
        let no : Prop := 2 ≤ s.candState c ∨ r.out = true ∨ (c.val < 6 ∧ r.missing ≠ 0) ∨ s.candTbBad c = true
        (no → exec (.candQualified c) s = .next s) ∧
        (¬ no → s.completes (.candQualified c) fun z => frame z ∧ chosen z ∧ z.candState c = (if r.ever then 2 else 3) ∧
          (z.candRec c).ever = true)) ∧
      (s.candState c ≠ 2 → exec (.candWtrExpire c) s = .next s) ∧
      (s.candState c = 2 → s.completes (.candWtrExpire c) fun z => frame z ∧ chosen z ∧ z.candState c = 3 ∧ hist z 0x050 (16 + c))) ∧
    (∀ d : Fin 4,
      let still (z : State) : Prop := frame z ∧ (∀ k, k < 4 → k ≠ d.val → z.ent pRefsel 0 4 k 0 = s.ent pRefsel 0 4 k 0) ∧
        z.dpllSel d = s.dpllSel d ∧ z.dpllFreeze d = s.dpllFreeze d
      (s.dpllState d ≠ 1 ∨ s.dpllFreeze d = true → exec (.dpllLock d) s = .next s) ∧
      (s.dpllState d = 1 → s.dpllFreeze d = false → s.completes (.dpllLock d) fun z => still z ∧ z.dpllState d = 2 ∧
        hist z 0x054 (16 + d)) ∧
      (s.dpllState d ≠ 2 ∨ s.dpllFreeze d = true → exec (.dpllLockLost d) s = .next s) ∧
      (s.dpllState d = 2 → s.dpllFreeze d = false → s.completes (.dpllLockLost d) fun z => still z ∧ z.dpllState d = 1 ∧
        hist z 0x054 (12 + d) ∧ ev z 4) ∧
      (s.dpllState d ≠ 2 → exec (.holdoverHistory d) s = .next s) ∧
      (s.dpllState d = 2 → s.completes (.holdoverHistory d) fun z => still z ∧ z.dpllState d = 2 ∧ z.dpllReady d = true ∧
        z.regs = s.regs)) ∧
    ∀ (t : Tag) (w : Word), let a := regA pRefsel 0x040
      s.admits (.w32 t a w) = true → s.completes (.clkMapWrite t w) fun z => (s.admitted (.w32 t a w)).regsKept z [regKey 0 a] ∧
        z.tbl = s.tbl ∧ s.memKept z ∧
        if s.pageLocked pRefsel = true then z.rd 0 a = s.rd 0 a else z.rdF 0 a 0 2 = fld w 0 2 ∧ z.rdF 0 a 4 2 = fld w 4 2

/-- BEACON while the MAC runs keeps EPOCH, CYCLE, WAKE_BUS and the slot map, joins from LISTEN and LOST, resumes from idle, and
enters idle when asked; a bad or missing beacon is counted, and the BEACON_MISS-th makes the MAC LOST. JOIN_ACK registers or
rejects; JOIN_TIMEOUT backs off below 2^min(a, 6) cycles; REJECT_WAIT_EXPIRE joins again. GBUS_TRANSMIT sends nothing in a slot that
is not the part's; a control frame goes before data, no data goes during a hold, and every frame takes the next SEQ and is counted.
GBUS_DATA_RECEIVE counts bad frames, drops without room, and fills descriptors. PAUSE, RESUME, the hold's end, the watchdog, and the
end of ignoring hold, free and ignore a node. LPI_REQ, the wake tone, its timeout and the pause limit act in their states alone. -/
def Obligations.GarpenBus : Prop :=
  ∀ s : State, let ev (z : State) (b : Nat) : Prop := bitOf (z.rd 0 (gA 0x048)) b = true
    let live : Prop := s.gRuns = true ∧ s.gbus.stopped = false
    let inc (z : State) (off : Nat) : Prop := z.rd 0 (gA off) = s.rd 0 (gA off) + 1
    let frame (z : State) : Prop := (∀ j, j % 2 ^ 28 / 65536 ≠ pGbus → Tab.get regReset z.regs j = Tab.get regReset s.regs j) ∧
      z.fab = s.fab ∧ s.memKept z
    let missing (i : Instr) : Prop :=
      (¬ (live ∧ (s.gState = 2 ∨ s.gState = 3 ∨ s.gState = 6)) → exec i s = .next s) ∧
      (live → s.gState = 2 ∨ s.gState = 3 ∨ s.gState = 6 → s.completes i fun z => frame z ∧ z.tbl = s.tbl ∧ inc z 0x07C ∧
        z.gbus.missed = s.gbus.missed + 1 ∧ if s.beaconMiss ≤ s.gbus.missed + 1 then z.gState = 4 ∧ ev z 1 ∧ z.gbus.isOpen = false
          else z.gState = s.gState ∧ z.gbus.isOpen = true)
    missing .beaconMissing ∧
    (∀ b : Beacon, (s.gRuns = false → exec (.beacon b) s = .next s) ∧ (goodBeacon b = false → missing (.beacon b)) ∧
      (s.gRuns = true → goodBeacon b = true → s.completes (.beacon b) fun z => frame z ∧ z.gbus.missed = 0 ∧ z.gbus.stopped = false ∧
        z.gbus.isOpen = true ∧ z.gbus.next = 0 ∧ z.rdF 0 (gA 0x044) 24 8 = b.epoch.toNat ∧
        z.rd 0 (gA 0x05C) = wd b.cycle.toNat ∧ z.rd 0 (gA 0x058) = wd b.wakeUs.toNat ∧
        (∀ k, k < 240 → z.gMap k = (b.map.getD k 0).toNat) ∧
        (s.gState = 1 ∨ s.gState = 4 → s.gStatic = true → z.gNode = fld s.gCfg 8 6) ∧ (
          let fresh := if s.gStatic then 3 else 2
          let joined := if s.gState = 1 ∨ s.gState = 4 then fresh else if s.gState = 5 then s.gbus.resume % 8 else s.gState
          (b.lpi = false → z.gState = joined) ∧ (b.lpi = true → z.gState = 5 ∧ z.gbus.resume = joined)))) ∧
    (∀ (uid : BitVec 48) (node : BitVec 8),
      let mine : Prop := s.gRuns = true ∧ s.gState = 2 ∧ s.gbus.asked = true ∧ uid = Config.gbusUid
      (¬ mine ∨ (64 ≤ node.toNat ∧ node.toNat ≠ 255) → exec (.joinAck uid node) s = .next s) ∧
      (mine → node.toNat = 255 → s.completes (.joinAck uid node) fun z => frame z ∧ z.gState = 6 ∧ ev z 6 ∧ z.gbus.asked = false) ∧
      (mine → node.toNat < 64 → s.completes (.joinAck uid node) fun z => frame z ∧ z.gState = 3 ∧ z.gNode = node.toNat ∧
        z.gbus.asked = false)) ∧
    (
      let waits : Prop := s.gRuns = true ∧ s.gState = 2 ∧ s.gbus.asked = true
      (¬ waits → exec .joinTimeout s = .next s) ∧
      (waits → s.completes .joinTimeout fun z => frame z ∧ z.gState = 2 ∧ z.gbus.tries = s.gbus.tries + 1 ∧ z.gbus.asked = false ∧
        z.gbus.wait < 2 ^ min (s.gbus.tries + 1) 6 ∧ (s.gbus.tries + 1 = s.joinWarn → ev z 0))) ∧
    (¬ (s.gRuns = true ∧ s.gState = 6) → exec .rejectWaitExpire s = .next s) ∧
    (s.gRuns = true → s.gState = 6 → s.completes .rejectWaitExpire fun z => frame z ∧ z.gState = 2 ∧ z.gbus.tries = 0 ∧ z.gbus.wait = 0) ∧
    (∀ (slot : Fin 240) (fw : Option (Fin 1005)) (collide : Bool), let i := Instr.gbusTransmit slot fw collide
      let free : Prop := live ∧ s.gbus.isOpen = true ∧ s.gbus.next ≤ slot.val
      let sent (z : State) (type : Nat) (dst : Option Nat) (len : Nat) (body : List (BitVec 8)) : Prop :=
        z.out = s.out ++ [.garpen slot type dst s.gNode s.gbus.seq len body] ∧ inc z 0x06C ∧ z.gbus.seq = (s.gbus.seq + 1) % 65536 ∧
        z.gbus.next = slot.val + cdiv (len + 20) 64 ∧ (collide = true → inc z 0x078 ∧ ev z 3) ∧ frame z
      (¬ free → exec i s = .next s) ∧
      (free → s.gState = 2 → s.gMap slot ≠ 0x40 ∨ s.gbus.asked = true ∨ s.gbus.wait ≠ 0 → exec i s = .next s) ∧
      (free → s.gState = 2 → s.gMap slot = 0x40 → s.gbus.asked = false → s.gbus.wait = 0 →
        s.completes i fun z => sent z 2 none 8
          (bytesBE 6 Config.gbusUid.toNat ++ bytesBE 2 (s.rdF 0 (gA 0x054) 0 16)) ∧ z.gbus.asked = true) ∧
      (s.gState ≠ 2 → s.gMaySend = false ∨ s.gMap slot ≠ s.gNode → exec i s = .next s) ∧
      (free → s.gState ≠ 2 → s.gMaySend = true → s.gMap slot = s.gNode →
        (∀ type arg rest, s.gbus.ctl = (type, arg) :: rest → s.completes i fun z => z.gbus.ctl = rest ∧
          sent z type (if type = 6 then none else some 255) (if type = 2 then 8 else if type = 4 then 2 else 0) (s.ctlPayload type arg)) ∧
        (s.gbus.ctl = [] →
          (s.gbus.holds ≠ [] ∨ s.host.perstN = false → s.completes i fun z => z.out = s.out ∧ z.gbus = s.gbus ∧ z.regs = s.regs) ∧
          (s.gbus.holds = [] → s.host.perstN = true → ∀ n, fw = some n →
            if cdiv (n.val + 20) 64 ≤ s.gRunLeft slot then s.completes i fun z => sent z 1 none n [] ∧ z.gbus.lpiAsked = false
            else s.completes i fun z => z.out = s.out ∧ z.gbus = s.gbus)))) ∧
    (∀ (src dst : BitVec 8) (len : BitVec 16) (ok : Bool), let i := Instr.gbusDataReceive src dst len ok
      let takes : Prop := live ∧ len.toNat ≤ 1004
      let mine : Prop := (s.gHasNode = true ∧ dst.toNat = s.gNode) ∨ dst.toNat = 255
      (¬ takes ∨ (ok = true ∧ ¬ mine) → exec i s = .next s) ∧
      (takes → ok = false → s.completes i fun z => frame z ∧ z.tbl = s.tbl ∧ inc z 0x074 ∧
        ((∀ b, s.gbus.crcAt = some b → b + 345600000 ≤ s.beat) → ev z 2 ∧ z.gbus.crcAt = some s.beat)) ∧
      (takes → ok = true → mine → s.completes i fun z => inc z 0x070 ∧ (s.gHasNode = true → src.toNat = s.gNode → inc z 0x078 ∧ ev z 3) ∧
        (s.gRxQueue = none → inc z 0x084 ∧ ev z 5 ∧ z.host = s.host) ∧
        ∀ q, s.gRxQueue = some q → let f := fillDescs src.toNat none (len.toNat + 8) true (s.qrec q true).flight
          if f.2 = 0 then (z.qrec q true).flight = f.1 ∧ z.rd 0 (gA 0x084) = s.rd 0 (gA 0x084)
          else inc z 0x084 ∧ ev z 5 ∧ z.host = s.host)) ∧
    (∀ m : Fin 64, let h := s.hold m
      let paused (z : State) : Prop := frame z ∧ bitOf (z.rd 0 (gA 0x044)) 16 = !z.gbus.holds.isEmpty ∧
        ∀ k, k ≠ m.val → z.hold k = s.hold k
      (∀ us : BitVec 16, let stop := if us = 0 then none else some (s.beat + cdiv (us.toNat * 3456) 10)
        let hears : Prop := live ∧ m.val ∉ s.gbus.ignored
        (¬ live → exec (.gbusPause m us) s = .next s) ∧ (live → ¬ hears → exec (.gbusPause m us) s = .next (s.gSelf m)) ∧
        (hears → s.completes (.gbusPause m us) fun z => paused z ∧ (h = none → z.hold m = some ⟨s.beat, stop⟩) ∧
          (∀ f, h = some ⟨f, none⟩ → z.hold m = some ⟨f, none⟩) ∧ ∀ f a, h = some ⟨f, some a⟩ →
            (stop = none → z.hold m = some ⟨f, none⟩) ∧ ∀ b, stop = some b → z.hold m = some ⟨f, some (max a b)⟩)) ∧
      (¬ live → exec (.gbusResume m) s = .next s) ∧
      (live → s.completes (.gbusResume m) fun z => paused z ∧ z.hold m = none ∧ m.val ∉ z.gbus.ignored) ∧
      (h = none → exec (.pauseExpire m) s = .next s ∧ exec (.pauseWatchdog m) s = .next s) ∧
      (∀ f, h = some ⟨f, none⟩ → exec (.pauseExpire m) s = .next s) ∧
      (∀ f b, h = some ⟨f, some b⟩ → (s.beat < b → exec (.pauseExpire m) s = .next s) ∧
        (b ≤ s.beat → s.completes (.pauseExpire m) fun z => paused z ∧ z.hold m = none)) ∧
      (∀ r, h = some r → (s.beat < r.first + cdiv (s.limitUs * 3456) 10 → exec (.pauseWatchdog m) s = .next s) ∧
        (r.first + cdiv (s.limitUs * 3456) 10 ≤ s.beat → s.completes (.pauseWatchdog m) fun z => paused z ∧ z.hold m = none ∧
          m.val ∈ z.gbus.ignored ∧ inc z 0x080 ∧ ev z 4)) ∧
      s.completes (.pauseIgnoreExpire m) fun z => z.regs = s.regs ∧ z.gbus.holds = s.gbus.holds ∧
        ∀ k, k ∈ z.gbus.ignored ↔ k ∈ s.gbus.ignored ∧ k ≠ m.val) ∧
    (
      let quiet : Prop := s.gRuns = true ∧ s.gState = 3 ∧ bitOf s.gCfg 1 = true ∧ s.gbus.lpiAsked = false ∧ s.gbus.ctl = []
      (¬ quiet → exec .lpiReq s = .next s) ∧ (quiet → s.completes .lpiReq fun z => z.regs = s.regs ∧ z.gbus.ctl = [(6, 0)] ∧
        z.gbus.lpiAsked = true)) ∧
    (
      let idle : Prop := s.gRuns = true ∧ s.gState = 5
      (¬ idle → exec .gbusWakeTone s = .next s ∧ exec .gbusWakeTimeout s = .next s) ∧
      (idle → (s.completes .gbusWakeTone fun z => z.out = s.out ++ [.wakeTone (s.rdF 0 (gA 0x058) 0 16)] ∧ z.regs = s.regs) ∧
        s.completes .gbusWakeTimeout fun z => frame z ∧ z.gState = 4 ∧ z.gbus.isOpen = false)) ∧
    (
      let pausing := bitOf (s.rd 0 (gA 0x044)) 17
      (pausing = false → exec .autoPauseLimit s = .next s) ∧
      (pausing = true → s.completes .autoPauseLimit fun z => frame z ∧ bitOf (z.rd 0 (gA 0x044)) 17 = false ∧ z.gbus.barred = true ∧
        z.gbus.ctl = s.gbus.ctl ++ [(5, 0)]))

/-- RESET_N and POWER_LOSS clear all but the fuses, the kept keys, the MRAM and flash, and PERST_N; a page being written at a power
loss is old or new whole. PERST_N clears the host interface, the staging lists and KEY_IN, from SLEEP and DEEP at their exit. A warm
reset (WARM, MANAGEMENT_WARM_RESET, the watchdog) stops firmware and clears the staging lists. START after three failures enters
halter mode; a slot that is not RUNNING or a failed check is recorded and counted; a good one boots; MGT_READY completes it,
START_FAIL and the watchdog before READY record a failed attempt. LOAD_BEGIN erases, LOAD_END verifies, LOAD_ABORT empties, ACTIVATE
begins a trial, ACCEPT ends it, REVERT, the window's end and a failed health check run the STANDBY slot, RECOVER restarts the part,
each refused with its code where R455 or R457 refuses it (log entry 69 for the codes they leave open). -/
def Obligations.StartAndUpdates : Prop :=
  ∀ s : State, let m := s.mgt
    let R := State.reset
    let A (off : Nat) := regA pMgt off
    let cleared (z : State) (g : MgtSt) : Prop :=
      { z with
        regs := R.regs, beat := R.beat, free := R.free, out := R.out, pending := R.pending, fuse := R.fuse
        key := R.key, mgt := R.mgt, host := R.host, bus := R.bus } = R ∧
      z.fuse = s.fuse ∧ z.key.keep = s.key.keep ∧ z.bus.res = [] ∧ z.bus.ops = [] ∧ z.host = { R.host with perstN := s.host.perstN } ∧
      ((∀ o ∈ s.bus.res, o.page ≠ pKey) → z.key.gen = s.key.gen ∧ z.key.epoch = s.key.epoch) ∧
      z.mgt = { g with booted := false, cmd := none, deadline := none }
    let chip (z : State) (last : Word) (g : MgtSt) : Prop :=
      cleared z g ∧ R.regsKept z [regKey 0 (regA pFlt 0x06C)] ∧ z.rd 0 (regA pFlt 0x06C) = last
    let record (g : MgtSt) (reason stepNo : Nat) : List FailRec :=
      (⟨reason, g.running, stepNo, (g.imgs.getD g.running ⟨0, 0, 0⟩).rev, g.starts⟩ :: g.records).take 3
    let fails (z : State) (g : MgtSt) (reason stepNo : Nat) : Prop :=
      chip z (s.rd 0 (regA pFlt 0x06C)) { g with records := record g reason stepNo }
    let noStaging (z : State) : Prop := ∀ p i, p < 16 → i < 4096 → z.staged p i = 0
    let warm (z : State) : Prop := z.mgtReady = false ∧ z.take.solver = false ∧ z.take.txs = s.take.txs ∧ noStaging z ∧ z.fab = s.fab ∧
      s.memKept z ∧ z.key = s.key
    s.completes .resetN (fun z => chip z (wd (2 ^ 30)) m) ∧
    (s.completes .powerLoss fun z => chip z 0 { m with pages := z.mgt.pages } ∧
      let writes (o : ResOp) (j : Nat) : Prop := o.page = pMgt ∧ fld (dat o.data 0) 0 2 = 2 ∧ fld (dat o.data 0) 16 11 < 2000 ∧
        j = s.rdF 0 (A 0x040) 4 1 * 2000 + fld (dat o.data 0) 16 11
      ∀ j, let old := Tab.get (fun _ => SetPage.blank) m.pages j
        let new := Tab.get (fun _ => SetPage.blank) z.mgt.pages j
        ((∀ o ∈ s.bus.res, ¬ writes o j) → new = old) ∧
        (new.data = old.data ∨ ∃ o ∈ s.bus.res, writes o j ∧ new.data = o.data.drop 1)) ∧
    (s.pwrState = 2 ∨ s.pwrState = 3 → exec .perstN s = .next { s with
      host := { s.host with perstN := false }, pwr := { s.pwr with perst := true } }) ∧
    (s.pwrState ≠ 2 → s.pwrState ≠ 3 → s.completes .perstN fun z => z.host.perstN = false ∧ z.host.linkUp = false ∧
      z.host.vfEnable = false ∧ z.host.msixEnable = 0 ∧
      noStaging z ∧ z.fab = s.fab ∧ z.mgt = m ∧ s.memKept z ∧ ∀ p i, p < 16 → i < 18 → z.rd p (regA pKey (0x100 + 4 * i)) = 0) ∧
    exec .perstNRelease s = .next { s with host := { s.host with perstN := true } } ∧
    (s.mgtMode = 1 → s.completes .managementWarmReset fun z => warm z ∧ z.mgt = m) ∧
    (s.mgtMode ≠ 1 → exec .managementWarmReset s = .next s) ∧
    (∀ t, s.admits (hostAccess t pMgt 0x048 1) = true → s.completes (.warm t) fun z =>
      (s.mgtMode = 1 → warm z ∧ z.mgt = m) ∧
      (s.mgtMode ≠ 1 → z.regs = (s.admitted (hostAccess t pMgt 0x048 1)).regs ∧ z.mgt = m ∧ z.take = s.take)) ∧
    (∀ v, (s.mgtMode ≠ 0 ∨ m.booted = true → exec (.start v) s = .next s) ∧
      (s.mgtMode = 0 → m.booted = false → m.trial = false → (
        let g := { m with starts := m.starts + 1, fails := m.fails + 1 }
        let i := m.running
        (3 ≤ m.fails → s.completes (.start v) fun z => z.mgtMode = 2 ∧ z.stage = 2 ∧ z.host.vfEnable = false ∧
          z.mgt = { m with starts := m.starts + 1 }) ∧
        (m.fails < 3 → s.slot i ≠ 4 → s.completes (.start v) fun z => fails z g 1 2) ∧
        (m.fails < 3 → s.slot i = 4 → v.ok = true → s.imageBad i = false → s.completes (.start v) fun z =>
          z.mgt = { g with booted := true } ∧
          z.mgtMode = 0 ∧ z.ready pXpt = true ∧ z.ready pTake = true ∧ ∀ c, c < 64 → z.folState c = 1) ∧
        (m.fails < 3 → s.slot i = 4 → v.ok = false ∨ s.imageBad i = true → s.completes (.start v) fun z => z.mgt.fails = m.fails + 1 ∧
          z.mgt.records = record g (if s.otherSilicon i then 3 else v.reason.toNat) 2 ∧
          (∀ j, s.standby = some j → z.mgt.running = j ∧ z.slot j = 4 ∧ z.slot i = 3) ∧
          (s.standby = none → z.slot i = 3 ∧ chip z (s.rd 0 (regA pFlt 0x06C)) z.mgt)))) ∧
      (∀ j, s.mgtMode = 0 → m.booted = false → m.trial = true → m.fails < 2 → s.slot m.running = 4 → s.standby = some j → v.ok = true →
        s.imageBad j = false →
        s.completes (.start v) fun z => z.mgt.running = j ∧ z.slot j = 4 ∧ z.slot m.running = 2 ∧ z.mgt.trial = false ∧
          z.mgt.records = record { m with starts := m.starts + 1 } 9 1 ∧ z.mgt.booted = true)) ∧
    (s.mgtMode ≠ 0 ∨ m.booted = false → (∀ r n, exec (.startFail r n) s = .next s) ∧ exec .mgtReady s = .next s) ∧
    (s.mgtMode = 0 → m.booted = true →
      (∀ (r : BitVec 8) (n : BitVec 4), s.completes (.startFail r n) fun z => fails z m r.toNat n.toNat) ∧
      (s.completes .managementWatchdog fun z => fails z m 7 0) ∧
      s.completes .mgtReady fun z => z.mgtReady = true ∧ z.mgtMode = 1 ∧ z.ready pMgt = true ∧ z.mgt.fails = 0 ∧ z.mgt.tripped = false ∧
        z.take.solver = true ∧ (m.tripped = true → bitOf (z.rd 0 (regA pPwr 0x04C)) 2 = true) ∧ z.fab = s.fab) ∧
    (s.mgtMode = 2 ∨ (s.mgtMode = 0 ∧ m.booted = false) → exec .managementWatchdog s = .next s) ∧
    (s.mgtMode = 1 → m.trial = false → s.completes .managementWatchdog fun z => warm z ∧ bitOf (z.rd 0 (A 0x044)) 4 = true) ∧ (
      let reverts (z : State) (bad : Bool) (j : Nat) : Prop :=
        z.mgtReady = false ∧ z.mgtPause = true ∧ z.take.solver = false ∧ noStaging z ∧ bitOf (z.rd 0 (A 0x044)) 1 = true ∧ z.fab = s.fab ∧
        z.mgt = { m with
          trial := false, deadline := none, cmd := some (6, j), running := j
          slots := (m.slots.set m.running (if bad then 3 else 2)).set j 4
          records := if bad then record m 10 0 else m.records }
      (∀ j, s.standby = some j →
        (s.mgtMode = 1 → m.trial = true → s.completes .managementWatchdog (fun z => reverts z true j) ∧
          (s.mgtReady = false → s.completes .trialHealthTimeout fun z => reverts z true j)) ∧
        ∀ b, m.trial = true → m.deadline = some b → b ≤ s.beat → s.completes .acceptWindowEnd fun z => reverts z false j) ∧
      (m.trial = false ∨ m.deadline = none ∨ (∃ b, m.deadline = some b ∧ s.beat < b) → exec .acceptWindowEnd s = .next s) ∧
      (s.mgtMode ≠ 1 ∨ m.trial = false ∨ s.mgtReady = true → exec .trialHealthTimeout s = .next s) ∧
      ∀ (t : Tag) (i : Fin 2) (op : Nat) (c : Instr),
        (op, c) ∈ [(1, Instr.loadBegin t i), (2, .loadEnd t i), (3, .loadAbort t i), (4, .activate t i), (5, .accept t), (6, .revert t),
          (7, .recover t i)] → (
        let n := if op = 5 ∨ op = 6 then 0 else i.val
        let x := hostAccess t pMgt 0x050 (wd (op + n * 256))
        let st := s.slot n
        let ends (z : State) (code : Nat) (busy : Bool) : Prop :=
          z.rd 0 (A 0x054) = wd (code + op * 256 + n * 4096 + if busy then 2 ^ 31 else 0) ∧ s.memKept z
        let refuses (code : Nat) : Prop := s.completes c fun z => ends z code false ∧ bitOf (z.rd 0 (A 0x044)) 0 = true ∧ z.mgt = m ∧
          z.fab = s.fab ∧ z.take = s.take
        let free : Prop := s.updBusy = false ∨ (s.halter = true ∧ m.cmd = none)
        let open' : Prop := s.halter = false ∧ s.windowOpen = true
        s.admits x = true →
          (s.halter = true → op = 4 ∨ op = 5 ∨ op = 6 → refuses 8) ∧
          (op = 1 → st = 4 ∨ (m.trial = true ∧ st = 5) → refuses 5) ∧
          (op = 1 → st ≠ 4 → ¬ (m.trial = true ∧ st = 5) → (¬ free → refuses 7) ∧
            (free → s.completes c fun z => ends z 0 true ∧ z.mgt.cmd = some (1, n) ∧ n ∈ z.mgt.unset ∧
              (∀ k, k < 2 ^ 19 → Tab.get (fun _ => []) z.mgt.flash (n * 2 ^ 19 + k) = []) ∧
              (∀ pg, pg < 2000 → (z.setPage n pg).data = []) ∧ ∀ r ∈ z.key.keep, r.slot ≠ n)) ∧
          (op = 2 → (st ≠ 1 → refuses 5) ∧ (st = 1 → ¬ free → refuses 7) ∧
            (st = 1 → free → s.completes c fun z => ends z 0 true ∧ z.mgt = { m with cmd := some (2, n) })) ∧
          (op = 3 → (st ≠ 1 → refuses 5) ∧ (st = 1 → m.cmd ≠ none → refuses 7) ∧
            (st = 1 → m.cmd = none → s.completes c fun z => ends z 0 false ∧ z.mgt = { m with slots := m.slots.set n 0 })) ∧
          (op = 4 → s.halter = false →
            (m.trial = true → refuses 6) ∧ (m.trial = false → st ≠ 2 → st ≠ 5 → refuses 5) ∧
            (m.trial = false → st = 2 ∨ st = 5 →
              (s.updBusy = true → refuses 7) ∧
              (s.updBusy = false → bitOf (s.rd 0 (A 0x04C)) 0 = true → refuses 1) ∧
              (s.updBusy = false → bitOf (s.rd 0 (A 0x04C)) 0 = false →
                (∀ p, s.lockedPage = some p → refuses 4) ∧
                (s.lockedPage = none → 0 < s.queueTotal ∨ (∃ p, p < 16 ∧ 0 < s.audPending p) → refuses 2 ∨ refuses 3) ∧
                (s.lockedPage = none → s.queueTotal = 0 → (∀ p, p < 16 → s.audPending p = 0) → refuses 2 ∨
                  s.completes c fun z => ends z 0 true ∧ z.mgtReady = false ∧ z.mgtPause = true ∧ noStaging z ∧
                    z.mgt = { m with
                      trial := true, cmd := some (4, n), slots := (m.slots.set m.running 5).set n 4, running := n })))) ∧
          (op = 5 ∨ op = 6 → s.halter = false → m.trial = true → s.mgtReady = false → refuses 7) ∧
          (op = 5 ∨ op = 6 → s.halter = false → ¬ (m.trial = true ∧ s.mgtReady = false) → s.windowOpen = false → refuses 10) ∧
          (op = 5 → open' → s.completes c fun z => ends z 0 false ∧ z.mgt = { m with trial := false, deadline := none }) ∧
          (op = 6 → open' → ∀ j, s.standby = some j → s.completes c fun z => ends z 0 true ∧ reverts z false j) ∧
          (op = 7 → st ≠ 2 → st ≠ 5 → refuses 5) ∧
          (op = 7 → st = 2 ∨ st = 5 → s.completes c fun z => z.mgt.running = n ∧ z.mgt.fails = 0 ∧ z.mgt.trial = false ∧
            z.slot n = 4 ∧ z.fab = State.reset.fab ∧ z.rd 0 (regA pFlt 0x06C) = s.rd 0 (regA pFlt 0x06C)))) ∧
    (∀ v : ImageCheck,
      (∀ i, m.cmd = some (1, i) → s.completes (.updateCommandDone v) fun z => z.rd 0 (A 0x054) = wd (256 + i * 4096) ∧
        z.mgt = { m with cmd := none, slots := m.slots.set i 1 }) ∧
      (∀ i, m.cmd = some (2, i) → s.completes (.updateCommandDone v) fun z => z.rd 0 (A 0x054) = wd (512 + i * 4096) ∧
        z.mgt.slots = m.slots.set i (if v.ok && s.imageFits i then 2 else 3) ∧ z.mgt.cmd = none) ∧
      ((∀ i, m.cmd ≠ some (1, i) ∧ m.cmd ≠ some (2, i)) → exec (.updateCommandDone v) s = .next s))

/-- FAULT_OCCURRENCE: a hardware occurrence joins the batch, a condition only while it is not active. An occurrence that is the
batch is kept with its count and severity in its partition's status and log, a stripped one is marked, and its reactions are taken:
interrupt, trap, ERR_N, the reset of its block, or a chip reset with its record; in SLEEP and DEEP all but ERR_N and the chip reset
wait for the exit. In hold-all every occurrence is counted and logged and nothing reacts; a self fault begins hold-all.
CONDITION_END, PCIE_LINK_CHANGE and BLOCK_RESTORED end what they name. FAULT_ACK clears a source, but for an active condition or an
occurrence of the same beat. SELFTEST, RELEASE and SELFTEST_DONE report their codes, and an accepted RELEASE ends hold-all at the
next beat. FARRIER_MEASURE keeps the counts of a held lane, HEALTH_REPORT shows them. -/
def Obligations.FaultCollector : Prop :=
  ∀ s : State, let F (off : Nat) := regA pFlt off
    let asleep : Prop := s.pwrState = 2 ∨ s.pwrState = 3
    let run (hw : List HwOcc) (self : Option (Fin 4)) : Instr := .faultOccurrence hw self
    let idx (p k : Nat) : Nat × Nat := Tab.get (fun _ => (0, 0)) s.flt.occAt (p * 640 + k)
    (∀ (h : HwOcc) (r : List HwOcc) (self : Option (Fin 4)), let k := h.src.val
      let as (x : State) : Prop := exec (run (h :: r) self) s = exec (run r self) x
      let n := if k < 448 then 352 else if k < 512 then 448 else 512
      (352 ≤ k → k ≤ 543 → if s.srcActive 0 k = true then as s else as ((s.setActive 0 k true).occur k (k - n) 0)) ∧
      (576 ≤ k → k ≤ 607 → as (s.occur k (k - 576) 0)) ∧ (k = 609 ∨ k = 610 ∨ k = 616 → as (s.occur k 0 0)) ∧
      (k = 340 → h.inst.toNat < 64 → as (s.folEcc h.inst.toNat)) ∧
      (k ≠ 340 → k < 352 ∨ (543 < k ∧ k < 576) ∨ k = 608 ∨ (610 < k ∧ k ≠ 616) → as s)) ∧
    (∀ o : Occ, s.occ = [o] → o.part < 16 → o.src < 640 → s.held = false → (
      let p := o.part
      let n := satAdd 16 (s.srcCount p o.src) 1
      let e := s.effSev o.src n
      let set := (s.reactions o e).1
      let off := (s.reactions o e).2
      let taken := if blockResets o.src then set else Nat.land set 27
      let has (j : Nat) : Prop := taken / 2 ^ j % 2 = 1
      let b (x : Bool) (j : Nat) : Nat := if x then 2 ^ j else 0
      let c := s.ent pHost p 1 192 0
      (has 3 → s.completes (run [] none) fun z => z.occ = [] ∧ z.fab = State.reset.fab ∧ z.flt = State.reset.flt ∧ z.tbl = [] ∧
        z.rd 0 (F 0x06C) = wd (o.inst % 65536 + o.src * 65536 + 2 ^ 31)) ∧
      (¬ has 3 → s.completes (run [] none) fun z => z.srcPend p o.src = true ∧ z.srcCount p o.src = n ∧
        z.entF pFlt p 3 o.src 0 4 2 = e % 4 ∧ z.ent pFlt p 3 o.src 1 = wd (o.inst % 65536) ∧
        z.rd p (F 0x05C) = s.rd p (F 0x05C) + 1 ∧
        z.ent pFlt p 4 ((s.rd p (F 0x05C)).toNat % 64) 0 =
          wd (o.src + e * 2 ^ 12 + b (s.srcSev o.src < e) 14 + b (off != 0) 15 + taken * 2 ^ 16) ∧
        (off ≠ 0 → z.rd p (F 0x064) = wd (satAdd 32 (s.rd p (F 0x064)).toNat 1) ∧ bitOf (z.rd 0 (F 0x044)) 1 = true) ∧
        (off = 0 → z.rd p (F 0x064) = s.rd p (F 0x064)) ∧
        (p = 0 → set / 2 ^ 4 % 2 = 1 → z.errN = true) ∧
        (asleep → z.pwr.later = s.pwr.later ++ (if taken = 0 then [] else [(o, e, taken)]) ∧ z.out = s.out ∧ z.fab = s.fab ∧
          z.flt.resetting = s.flt.resetting ∧ z.flt.traps = s.flt.traps) ∧
        (¬ asleep → z.pwr.later = s.pwr.later) ∧
        (¬ asleep → ¬ has 2 → has 0 → bitOf (s.rd p (F 0x058)) e = true →
          if bitOf c 31 = true ∧ s.canSend p (fld c 0 6) = true then .msix p (fld c 0 6) 192 ∈ z.out
          else bitOf (z.ent pHost p 1 192 0) 30 = true) ∧
        (¬ asleep → ¬ has 2 → mgtFault o.src = false → z.flt.resetting = s.flt.resetting ∧ (¬ has 1 → z.flt.traps = s.flt.traps) ∧
          (has 1 → ∃ k, (s.take.solver = false → k = 0) ∧ let q := s.flt.traps.drop k
            z.flt.traps = q ++ if q.length < 16 then [o.src] else [])) ∧
        (¬ asleep → has 2 → o.src < 352 → let pg := sourcePage o.src o.inst
          pg ≠ pMgt → (pg, if pg = pXpt ∨ 0x100 ≤ pg then o.inst else 0) ∈ z.flt.resetting) ∧
        (¬ asleep → has 2 → 576 ≤ o.src → o.src ≤ 607 → ∀ g ∈ groupBlocks (o.src - 576), g.1 ≠ pMgt → g ∈ z.flt.resetting)))) ∧
    (s.held = true → (∀ o ∈ s.occ, o.part < 16 ∧ o.src < 640) → s.completes (run [] none) fun z => z.occ = [] ∧ z.held = true ∧
      z.out = s.out ∧ z.fab = s.fab ∧ z.flt.resetting = s.flt.resetting ∧ z.flt.traps = s.flt.traps ∧
      ∀ p, p < 16 → (z.rd p (F 0x05C) = s.rd p (F 0x05C) + wd (s.occ.filter fun o => o.part == p).length ∧
        ∀ k, k < 640 → z.srcPend p k = (s.srcPend p k || s.occ.any fun o => o.part == p && o.src == k))) ∧
    (∀ k : Fin 4, (∀ o ∈ s.occ, o.part < 16 ∧ o.src < 640) → s.completes (run [] (some k)) fun z =>
      z.held = true ∧ z.fltSelfOk = false ∧ z.srcPend 0 (624 + k) = true ∧ z.errN = true ∧
      z.rdF 0 (F 0x040) 16 10 = (if s.held then s.rdF 0 (F 0x040) 16 10 else 624 + k.val) ∧
      z.flt.release = false ∧ z.occ = [] ∧ z.fab = s.fab ∧ z.flt.resetting = s.flt.resetting ∧
      (s.held = false → ∀ p, p < 16 → bitOf (s.ent pHost p 1 192 0) 31 = false → bitOf (z.ent pHost p 1 192 0) 30 = true)) ∧
    (s.occ = [] → s.completes (run [] none) fun z => z = s) ∧
    (∀ k : Fin 640, (k.val < 352 ∨ 543 < k.val → exec (.conditionEnd k) s = .next s) ∧
      (352 ≤ k.val → k.val ≤ 543 → s.completes (.conditionEnd k) fun z => z.srcActive 0 k = false ∧ z.regs = s.regs ∧ z.occ = s.occ ∧
        z.srcPend 0 k = s.srcPend 0 k ∧ s.tblKept z [tblKey pFlt 0 3 k 0])) ∧
    (∀ up : Bool, s.completes (.pcieLinkChange up) fun z => z.host = { s.host with linkUp := up && s.host.perstN } ∧
      { z with host := s.host, occ := s.occ } = s ∧
      z.occ = s.occ ++ if up = false ∧ s.host.linkUp = true ∧ s.host.perstN = true then [⟨608, 0, 0⟩] else []) ∧
    (∀ (pg : PageNo) (inst : BitVec 16), let x := (pg.val, inst.toNat)
      (s.inReset pg inst.toNat = true → s.completes (.blockRestored pg inst) fun z =>
        z.flt.resetting = s.flt.resetting.filter (fun r => r != x) ∧
        ((∀ r ∈ s.flt.resetting, r ≠ x → r.1 ≠ pg.val) → z.ready pg = true)) ∧
      (s.inReset pg inst.toNat = false → pg.val < 0x200 ∨ 0x240 ≤ pg.val → exec (.blockRestored pg inst) s = .next s) ∧
      ∀ c : Fin 64, s.inReset pg inst.toNat = false → pg.val = pFol c →
        if s.folState c = 0 ∧ s.gated pg = false ∧ s.mgtMode = 1 then s.completes (.blockRestored pg inst) fun z =>
          z.folState c = 1 ∧ z.ready pg = true ∧ z.flt = s.flt
        else exec (.blockRestored pg inst) s = .next s) ∧
    (∀ (t : Tag) (d : Word), s.admits (hostAccess t pFlt 0x054 d) = true → (
      let p := tagBank t
      let acked (z : State) (k : Nat) : Prop :=
        if (idx p k).1 = s.beat ∧ (idx p k).2 ≠ 0 then z.srcPend p k = true ∧ z.srcCount p k = (idx p k).2 % 65536
        else z.srcPend p k = (s.srcActive p k && s.srcPend p k) ∧ z.srcCount p k = 0
      s.completes (.faultAck t d) fun z => z.occ = s.occ ∧ z.flt = s.flt ∧ s.memKept z ∧
        (bitOf d 31 = false → fld d 0 10 < 640 → acked z (fld d 0 10) ∧ s.tblKept z [tblKey pFlt p 3 (fld d 0 10) 0]) ∧
        (bitOf d 31 = false → 640 ≤ fld d 0 10 → z.tbl = s.tbl) ∧
        (bitOf d 31 = true → ∀ k, k < 640 → (idx p k).1 ≠ s.beat → acked z k))) ∧
    (∀ (t : Tag) (op : Nat) (c : Instr), (op, c) ∈ [(1, Instr.selftest t), (2, .release t)] →
      s.admits (hostAccess t pFlt 0x04C (wd op)) = true → (
      let bad := (List.range 4).any fun k => s.srcPend 0 (624 + k)
      let code := if s.held = false then 1 else if s.fltTesting = true then 4 else if op = 1 then 0
        else if s.fltSelfOk = false then 3 else if bad then 2 else 0
      s.completes c fun z => z.rd 0 (F 0x050) = wd (code + op * 256) ∧ z.held = s.held ∧ z.tbl = s.tbl ∧ z.fab = s.fab ∧ s.memKept z ∧
        z.fltTesting = (s.fltTesting || (op == 1 && code == 0)) ∧ z.flt.release = (s.flt.release || (op == 2 && code == 0)))) ∧
    (s.flt.release = true → s.bus.late = [] → s.completes .fabricBeat fun z => z.held = false ∧ z.flt.release = false) ∧
    (∀ (bad : List FltEntry) (agree : Bool),
      (s.fltTesting = false → exec (.selftestDone bad agree) s = .next s) ∧
      (s.fltTesting = true → s.completes (.selftestDone bad agree) fun z => z.fltTesting = false ∧ z.fltSelfOk = agree ∧
        z.rd 0 (F 0x050) = wd ((if agree then 0 else 3) + 256) ∧ z.flt = s.flt ∧
        (∀ k : Fin 640, z.ent pFlt 0 1 k 0 = if .config k ∈ bad then setFld (wd (fltConfigReset k)) 26 1 1 else s.ent pFlt 0 1 k 0) ∧
        (∀ e : Fin 4, z.ent pFlt 0 2 e 0 = if .severity e ∈ bad then wd (sevReactReset e) else s.ent pFlt 0 2 e 0) ∧
        (∀ (p : Fin 16) (k : Fin 640) w, w < 4 → z.ent pFlt p 3 k w = if .status p k ∈ bad then 0 else s.ent pFlt p 3 k w) ∧
        ∀ (p : Fin 16) (n : Fin 64) w, w < 5 → z.ent pFlt p 4 n w = if .log p n ∈ bad then 0 else s.ent pFlt p 4 n w)) ∧
    (∀ (l : Fin 384) (bits errs : Word) (snr : BitVec 16) (v1 v2 v3 h : BitVec 8) (locked : Bool),
      let i := Instr.farrierMeasure l bits errs snr v1 v2 v3 h locked
      let old := Tab.get (fun _ => none) s.flt.farrier l.val
      (s.farrierHeld l = false → exec i s = .next s) ∧
      (s.farrierHeld l = true → s.completes i fun z => z.regs = s.regs ∧ z.tbl = s.tbl ∧ ∃ r : FarRec,
        Tab.get (fun _ => none) z.flt.farrier l.val = some r ∧ r.bits = bits ∧ r.errs = errs ∧
        (∀ q, old = some q → r.locked = (q.locked && locked)) ∧ (old = none → r.locked = locked) ∧
        ((∀ o ∈ s.bus.res, o.page ≠ pLane (l / 8)) → r.snr = snr.toNat ∧ r.eye = [h.toNat, v1.toNat, v2.toNat, v3.toNat]))) ∧
    s.completes .healthReport fun z => z.flt.farrier = [] ∧ z.rd 0 (F 0x088) = s.rd 0 (F 0x088) + 1 ∧
      z.rd64 0 (F 0x080) = s.logStamp % 2 ^ 64 ∧ s.memKept z ∧
      ∀ l, l < 384 → (
        let w (j : Nat) := z.ent pFlt 0 5 l j
        let st := fld (w 0) 0 3
        (s.farrierHeld l = false → w 0 = 0 ∧ w 1 = 0 ∧ w 2 = 0) ∧
        (s.farrierHeld l = true → Tab.get (fun _ => none) s.flt.farrier l = none → w 1 = 0 ∧ w 2 = 0 ∧ st = s.entF pFlt 0 5 l 0 0 3) ∧
        ∀ r, s.farrierHeld l = true → Tab.get (fun _ => none) s.flt.farrier l = some r → w 1 = r.bits ∧ w 2 = r.errs ∧ (
          let lim := s.rd 0 (F 0x074)
          let eye := min (fld (w 4) 0 8) (min (fld (w 4) 8 8) (fld (w 4) 16 8))
          st = (if r.locked = false then 4 else if r.bits.toNat * 1024 < r.errs.toNat * 10 ^ fld lim 16 4 then 3
            else if fld (w 3) 0 16 < fld lim 0 16 ∨ eye < fld lim 24 8 then 2 else 1) ∧
          (s.entF pFlt 0 5 l 0 0 3 ≤ 1 → 2 ≤ st → bitOf (z.rd (eventBank pFlt (s.pageOwner (pLane (l / 8)))) (F 0x044)) 0 = true)))

/-- An evaluation (POWER_EVALUATE, HOLD_EXPIRE, LATENCY_BUDGET_WRITE, none during HOLD_MS or an exit) sets TARGET to the deepest
allowed state that no page refuses, counts a new refusal against the lowest page that refuses, and begins entering a deeper state.
STATE_ENTRY_COMPLETE shows the state, takes READY lanes to LOST and stops the Garpen MAC in sleep, and starts the exit for a kept
level wake. WAKE of an enabled source starts the exit from a state it acts in, ends an entry, counted as a refusal, or is kept in
the last cycles; otherwise nothing changes. WAKE_EXIT_DONE returns to RUN and takes what has waited for it; DEEP in time keeps
owners, partition tables, time bases and fuses, and else, as OFF does, starts from chip reset. CLAP_GO sends the clap on the lanes
that are free for it, CLAP_END ends it. THROTTLE_STEP moves one step within the floor of its group; THERMAL_TRIP records itself and
clears the part. -/
def Obligations.PowerManager : Prop :=
  ∀ s : State, let P (off : Nat) := regA pPwr off
    let lowestOf (l : List Nat) (pg : Nat) : Prop := pg ∈ l ∧ ∀ q ∈ l, pg ≤ q
    let frame (z : State) : Prop := (∀ j, j % 2 ^ 28 / 65536 ≠ pPwr → Tab.get regReset z.regs j = Tab.get regReset s.regs j) ∧
      z.tbl = s.tbl ∧ z.fab = s.fab ∧ s.memKept z
    let counted (x z : State) (pg : Nat) : Prop := z.rd 0 (P 0x050) = wd (satAdd 32 (x.rd 0 (P 0x050)).toNat 1) ∧
      z.rd 0 (P 0x054) = x.rd 0 (regA pg 0x000) ∧ bitOf (z.rd 0 (P 0x04C)) 0 = true
    let evaluated (x z : State) : Prop :=
      let want := x.allowedStates.headD 0
      let final := (x.allowedStates.find? fun st => (x.refusers st).isEmpty).getD 0
      z.rdF 0 (P 0x048) 4 3 = final ∧ z.pwrState = x.pwrState ∧
      (x.refusers want = [] → z.pwr.refused = none ∧ z.rd 0 (P 0x050) = x.rd 0 (P 0x050)) ∧
      (∀ pg, lowestOf (x.refusers want) pg → z.pwr.refused = some (pg, want) ∧
        (x.pwr.refused = some (pg, want) → z.rd 0 (P 0x050) = x.rd 0 (P 0x050)) ∧
        (x.pwr.refused ≠ some (pg, want) → counted x z pg)) ∧
      if x.pwrState < final ∧ x.pwr.entry < final then z.pwr.entry = final ∧ z.rdF 0 (P 0x048) 3 1 = 1
      else z.pwr.entry = x.pwr.entry
    let quiet : Prop := s.pwr.hold = false ∧ s.pwr.waking = false
    (∀ st, st ∈ s.allowedStates ↔ 1 ≤ st ∧ st ≤ 4 ∧ bitOf (s.rd 0 (P 0x040)) (st - 1) = true ∧
      [0, 2, 400, 35000, 1800000].getD st 0 ≤ (s.rd 0 (P 0x044)).toNat) ∧
    (¬ quiet → exec .powerEvaluate s = .next s) ∧
    (quiet → s.completes .powerEvaluate fun z => frame z ∧ evaluated s z) ∧
    (s.pwr.hold = false → exec .holdExpire s = .next s) ∧
    (s.pwr.hold = true → s.completes .holdExpire fun z => frame z ∧ z.pwr.hold = false ∧ (s.pwr.waking = false → evaluated s z) ∧
      (s.pwr.waking = true → z.regs = s.regs)) ∧
    (∀ (t : Tag) (d : Word), let x := hostAccess t pPwr 0x044 d
      s.admits x = true → s.completes (.latencyBudgetWrite t d) fun z => z.rd 0 (P 0x044) = d ∧ z.tbl = s.tbl ∧ z.fab = s.fab ∧
        s.memKept z ∧ (quiet → evaluated ((s.admitted x).wr 0 (P 0x044) d) z) ∧ (¬ quiet → z.pwr = s.pwr)) ∧
    (s.pwr.entry = 0 → exec .stateEntryComplete s = .next s) ∧
    (∀ st, s.pwr.entry = st → 1 ≤ st → st ≤ 4 → s.completes .stateEntryComplete fun z => z.pwrState = st ∧ z.pwr.entry = 0 ∧
      z.rdF 0 (P 0x048) 3 1 = 0 ∧ z.pwr.level = none ∧ z.tbl = s.tbl ∧ s.memKept z ∧
      (s.pwr.level = none → z.pwr.waking = s.pwr.waking) ∧
      (∀ c, s.pwr.level = some c → if wakeActs c st = true then z.pwr.waking = true ∧ z.pwr.hold = true ∧ z.rdF 0 (P 0x048) 8 4 = c % 16
        else z.pwr.waking = s.pwr.waking) ∧
      (2 ≤ st → s.pwrState < 2 → z.gbus.stopped = true ∧ ∀ l, l < 384 → s.lnState l = 5 → z.lnState l = 6 ∧ (z.lane l).kept = true)) ∧
    (∀ (code : Fin 8) (b : Fin 48) (late : Bool), let i := Instr.wake code b late
      let e := s.pwr.entry
      let live : Prop := s.wakeEnabled code b = true ∧ s.pwr.waking = false
      let exits (z : State) (c : Nat) : Prop := frame z ∧ z.pwr.waking = true ∧ z.pwr.hold = true ∧ z.pwr.level = none ∧
        z.rdF 0 (P 0x048) 8 4 = c
      (¬ live → exec i s = .next s) ∧
      (live → e = 0 → if s.pwrState ≠ 0 ∧ wakeActs code s.pwrState = true then s.completes i fun z => exits z code ∧ z.pwr.entry = 0
        else exec i s = .next s) ∧
      (live → e ≠ 0 → late = true → 2 ≤ e → if 4 ≤ code.val ∧ code.val ≤ 6 then exec i s = .next s
        else exec i s = .next { s with pwr := { s.pwr with level := some code.val } }) ∧
      (live → e ≠ 0 → late = false ∨ e < 2 →
        (wakeActs code e = false → wakeActs code s.pwrState = false → exec i s = .next s) ∧
        (wakeActs code e = true ∨ wakeActs code s.pwrState = true → s.completes i fun z => z.pwr.entry = 0 ∧ z.pwr.hold = true ∧
          counted s z (wakePage code b) ∧ z.rdF 0 (P 0x048) 3 1 = 0 ∧ (s.pwrState ≠ 0 → exits z 8) ∧
          (s.pwrState = 0 → frame z ∧ z.pwr.waking = false ∧ z.rdF 0 (P 0x048) 8 4 = 8)))) ∧ (
      let restarted (z : State) : Prop := z.fab = State.reset.fab ∧ z.pwr = PwrSt.run ∧ z.tbl = [] ∧ z.fuse = s.fuse ∧ z.pwrState = 0 ∧
        z.mgt = { s.mgt with booted := false, cmd := none, deadline := none } ∧ z.rd 0 (regA pFlt 0x06C) = s.rd 0 (regA pFlt 0x06C)
      (∀ inTime, s.pwr.waking = false → exec (.wakeExitDone inTime) s = .next s) ∧
      (∀ y : State, y.react [] = y) ∧
      (∀ inTime, s.pwr.waking = true → s.pwrState ≠ 3 → s.pwrState ≠ 4 → s.completes (.wakeExitDone inTime) fun t =>
        ∃ z : State, t = z.react s.pwr.later ∧ z.pwrState = 0 ∧
          z.pwr = { s.pwr with waking := false, level := none, perst := false, later := [] } ∧ (s.pwr.perst = false → frame z) ∧
          (s.pwr.perst = true → z.host.vfEnable = false ∧ z.host.linkUp = false ∧ z.fab = s.fab ∧
            ∀ p i, p < 16 → i < 4096 → z.staged p i = 0)) ∧
      (∀ inTime, s.pwr.waking = true → s.pwrState = 4 → s.completes (.wakeExitDone inTime) restarted) ∧
      (s.pwr.waking = true → s.pwrState = 3 → s.completes (.wakeExitDone false) restarted ∧
        s.completes (.wakeExitDone true) fun t => ∃ z : State, t = z.react s.pwr.later ∧ z.pwrState = 0 ∧
          z.pwr.later = [] ∧ z.pwr.waking = false ∧ z.fab = State.reset.fab ∧ z.fuse = s.fuse ∧
          z.tbs = s.tbs ∧ (∀ pg, pg < 4096 → z.pageOwner pg = s.pageOwner pg) ∧
          (∀ p, p < 0x11 → s.ready p = true → z.ready p = true) ∧
          ∀ sel k w, sel < 65536 → k < 2 ^ 24 → w < 16 → z.ent pPart 0 sel k w = s.ent pPart 0 sel k w)) ∧
    (∀ (t : Tag) (d : Word), let g := setBit d 31 true
      s.admits (hostAccess t pPwr 0x064 g) = true → (
      let b := fld d 0 6
      let ok (i : Nat) : Prop := b < 48 ∧ s.mission (b * 8 + i) = false ∧ s.farrierHeld (b * 8 + i) = false
      s.completes (.clapGo t d) fun z => z.rd 0 (P 0x064) = g &&& 0x7FFFFF3F ∧ z.tbl = s.tbl ∧ z.fab = s.fab ∧ s.memKept z ∧
        ∃ m, m < 256 ∧ z.pwr.clap = some (b, m) ∧ z.out = s.out ++ [.clap b m] ∧
          (∀ i, i < 8 → (m / 2 ^ i % 2 = 1 ↔ bitOf d (8 + i) = true ∧ ok i)) ∧
          ((∃ i, i < 8 ∧ bitOf d (8 + i) = true ∧ ¬ ok i) → bitOf (z.rd 0 (P 0x04C)) 3 = true))) ∧
    exec .clapEnd s = .next { s with pwr := { s.pwr with clap := none } } ∧
    (∀ (i : Island) (temp : BitVec 8), let k := i.group.val * 256 + i.number.val
      let n (x : State) (k : Nat) := Tab.get (fun _ => 0) x.pwr.throttle k
      let c := s.rdF 0 (P 0x040) 8 8
      let floor := if i.group.val < 12 then 0 else if (islandSlice i.group i.number).isSome then 3 else 8
      s.completes (.throttleStep i temp) fun z => frame z ∧ (∀ j, j ≠ k → n z j = n s j) ∧
        n z k = (if c ≤ temp.toNat then min (n s k + 1) floor else if temp.toNat + 5 < c then n s k - 1 else n s k) ∧
        bitOf (z.rd 0 (P 0x048)) 16 = !z.pwr.throttle.isEmpty ∧
        (s.pwr.throttle = [] → z.pwr.throttle ≠ [] → bitOf (z.rd 0 (P 0x04C)) 1 = true)) ∧
    ∀ j : Fin 64, s.completes (.thermalTrip j) fun z => z.mgt.tripped = true ∧ z.fab = State.reset.fab ∧ z.tbl = [] ∧ z.fuse = s.fuse ∧
      z.rd 0 (regA pFlt 0x06C) = wd (j.val + (448 + j.val) * 65536 + 2 ^ 31)
end

