-- ==== Sys2Proof/Laws/Bits.lean ====
section
/-!
SUPPORT. Laws/Bits.lean: the laws of register fields: what a field reads after it is set, and that setting it leaves the others alone.
-/
namespace Sys2Proof.Machine

theorem setFld_toNat (w : Word) (lo n v : Nat) (h : lo + n ≤ 32) :
    (setFld w lo n v).toNat = w.toNat % 2 ^ lo + 2 ^ lo * (v % 2 ^ n + 2 ^ n * (w.toNat / 2 ^ (lo + n))) := by
  have hw := w.isLt
  have e : 2 ^ (lo + n) * 2 ^ (32 - (lo + n)) = 2 ^ 32 := by rw [← pow_add]; congr 1; omega
  have h1 : w.toNat / 2 ^ (lo + n) < 2 ^ (32 - (lo + n)) := by
    rw [Nat.div_lt_iff_lt_mul (by positivity), mul_comm, e]; exact hw
  have h2 : w.toNat % 2 ^ lo < 2 ^ lo := Nat.mod_lt _ (by positivity)
  have h3 : v % 2 ^ n < 2 ^ n := Nat.mod_lt _ (by positivity)
  have h4 : w.toNat % 2 ^ lo + 2 ^ lo * (v % 2 ^ n + 2 ^ n * (w.toNat / 2 ^ (lo + n))) < 2 ^ 32 := by
    generalize w.toNat / 2 ^ (lo + n) = q at h1
    generalize w.toNat % 2 ^ lo = r at h2
    generalize v % 2 ^ n = x at h3
    have e3 : (2 : Nat) ^ 32 = 2 ^ lo * (2 ^ n * 2 ^ (32 - (lo + n))) := by rw [← e, pow_add, mul_assoc]
    rw [e3]
    generalize 2 ^ (32 - (lo + n)) = k at h1
    have s1 : x + 2 ^ n * q + 1 ≤ 2 ^ n * k := by
      have : 2 ^ n * (q + 1) ≤ 2 ^ n * k := Nat.mul_le_mul_left _ h1
      rw [mul_add, mul_one] at this
      omega
    have s2 := Nat.mul_le_mul_left (2 ^ lo) s1
    rw [mul_add, mul_one] at s2
    omega
  unfold setFld
  rw [BitVec.toNat_ofNat]
  have e2 : w.toNat % 2 ^ lo + v % 2 ^ n * 2 ^ lo + w.toNat / 2 ^ (lo + n) * 2 ^ (lo + n) =
      w.toNat % 2 ^ lo + 2 ^ lo * (v % 2 ^ n + 2 ^ n * (w.toNat / 2 ^ (lo + n))) := by
    rw [pow_add]; ring
  rw [e2, Nat.mod_eq_of_lt h4]

/-- A field that has just been set. -/
theorem fld_setFld_same (w : Word) (lo n v : Nat) (h : lo + n ≤ 32) : fld (setFld w lo n v) lo n = v % 2 ^ n := by
  unfold fld
  rw [setFld_toNat w lo n v h, Nat.add_mul_div_left _ _ (by positivity),
    Nat.div_eq_of_lt (Nat.mod_lt _ (by positivity)), zero_add, Nat.add_mul_mod_self_left, Nat.mod_mod]

/-- A field below one that has been set. -/
theorem fld_setFld_below (w : Word) (lo n v lo' n' : Nat) (h : lo + n ≤ 32) (hb : lo' + n' ≤ lo) :
    fld (setFld w lo n v) lo' n' = fld w lo' n' := by
  have key : ∀ x : Nat, x / 2 ^ lo' % 2 ^ n' = x % 2 ^ lo / 2 ^ lo' % 2 ^ n' := by
    intro x
    have e : 2 ^ lo = 2 ^ lo' * 2 ^ (lo - lo') := by rw [← pow_add]; congr 1; omega
    have d : 2 ^ n' ∣ 2 ^ (lo - lo') := pow_dvd_pow 2 (by omega)
    rw [e, Nat.mod_mul_right_div_self, Nat.mod_mod_of_dvd _ d]
  unfold fld
  rw [key, setFld_toNat w lo n v h, Nat.add_mul_mod_self_left, Nat.mod_mod, ← key]

/-- A field above one that has been set. -/
theorem fld_setFld_above (w : Word) (lo n v lo' n' : Nat) (h : lo + n ≤ 32) (hb : lo + n ≤ lo') :
    fld (setFld w lo n v) lo' n' = fld w lo' n' := by
  have e : ∀ x : Nat, x / 2 ^ lo' = x / 2 ^ (lo + n) / 2 ^ (lo' - (lo + n)) := by
    intro x
    rw [Nat.div_div_eq_div_mul, ← pow_add]
    congr 2
    omega
  unfold fld
  rw [e, e w.toNat, setFld_toNat w lo n v h]
  have : (w.toNat % 2 ^ lo + 2 ^ lo * (v % 2 ^ n + 2 ^ n * (w.toNat / 2 ^ (lo + n)))) / 2 ^ (lo + n) =
      w.toNat / 2 ^ (lo + n) := by
    rw [pow_add, ← Nat.div_div_eq_div_mul, Nat.add_mul_div_left _ _ (by positivity),
      Nat.div_eq_of_lt (Nat.mod_lt _ (by positivity)), zero_add, Nat.add_mul_div_left _ _ (by positivity),
      Nat.div_eq_of_lt (Nat.mod_lt _ (by positivity)), zero_add]
  rw [this]

/-- A field apart from one that has been set. -/
theorem fld_setFld_other (w : Word) (lo n v lo' n' : Nat) (h : lo + n ≤ 32) (hb : lo' + n' ≤ lo ∨ lo + n ≤ lo') :
    fld (setFld w lo n v) lo' n' = fld w lo' n' := by
  rcases hb with hb | hb
  · exact fld_setFld_below w lo n v lo' n' h hb
  · exact fld_setFld_above w lo n v lo' n' h hb

theorem bitOf_eq_fld (w : Word) (i : Nat) : bitOf w i = (fld w i 1 == 1) := by simp [bitOf, fld]

theorem bitOf_setFld_same (w : Word) (i v : Nat) (h : i < 32) : bitOf (setFld w i 1 v) i = (v % 2 == 1) := by
  rw [bitOf_eq_fld, fld_setFld_same w i 1 v (by omega), pow_one]

theorem bitOf_setFld_other (w : Word) (lo n v i : Nat) (h : lo + n ≤ 32) (hb : i < lo ∨ lo + n ≤ i) :
    bitOf (setFld w lo n v) i = bitOf w i := by
  rw [bitOf_eq_fld, bitOf_eq_fld, fld_setFld_other w lo n v i 1 h (by omega)]

theorem fld_lt (w : Word) (lo n : Nat) : fld w lo n < 2 ^ n := Nat.mod_lt _ (by positivity)

/-- The halves of a 64-bit value put together again. -/
theorem pairOf_halves (v : Nat) : pairOf (loHalf v) (hiHalf v) = v % 2 ^ 64 := by
  simp only [pairOf, loHalf, hiHalf, BitVec.toNat_ofNat]
  omega

theorem loHalf_pairOf (lo hi : Word) : loHalf (pairOf lo hi) = lo := by
  apply BitVec.eq_of_toNat_eq
  have := lo.isLt
  simp only [pairOf, loHalf, BitVec.toNat_ofNat]
  omega

theorem hiHalf_pairOf (lo hi : Word) : hiHalf (pairOf lo hi) = hi := by
  apply BitVec.eq_of_toNat_eq
  have := lo.isLt
  have := hi.isLt
  simp only [pairOf, hiHalf, BitVec.toNat_ofNat]
  omega

end Sys2Proof.Machine
end

