-- ==== Sys2Proof/Laws/Tab.lean ====
section
/-!
SUPPORT. Laws/Tab.lean: the laws of the sparse store: a read after a write to the same number gives the value written, a write
leaves every other number alone, and every operation keeps the canonical form.
-/
namespace Sys2Proof.Machine

theorem Tab.get_ins_same {α : Type} (d : Nat → α) (t : Tab α) (k : Nat) (v : α) : Tab.get d (Tab.ins t k v) k = v := by
  induction t with
  | nil => simp [Tab.ins, Tab.get]
  | cons e r ih =>
    obtain ⟨j, w⟩ := e
    simp only [Tab.ins]
    split
    · simp [Tab.get]
    · split
      · simp [Tab.get]
      · rename_i h
        simp [Tab.get, h, ih]

theorem Tab.get_ins_other {α : Type} (d : Nat → α) (t : Tab α) (k i : Nat) (v : α) (h : i ≠ k) :
    Tab.get d (Tab.ins t k v) i = Tab.get d t i := by
  induction t with
  | nil => simp [Tab.ins, Tab.get, h]
  | cons e r ih =>
    obtain ⟨j, w⟩ := e
    simp only [Tab.ins]
    split
    · simp [Tab.get, h]
    · split
      · rename_i hj
        subst hj
        simp [Tab.get, h]
      · simp [Tab.get, ih]

theorem Tab.get_del_same {α : Type} (d : Nat → α) (t : Tab α) (k : Nat) : Tab.get d (Tab.del t k) k = d k := by
  induction t with
  | nil => simp [Tab.del, Tab.get]
  | cons e r ih =>
    obtain ⟨j, w⟩ := e
    simp only [Tab.del]
    split
    · exact ih
    · rename_i h
      simp [Tab.get, h, ih]

theorem Tab.get_del_other {α : Type} (d : Nat → α) (t : Tab α) (k i : Nat) (h : i ≠ k) :
    Tab.get d (Tab.del t k) i = Tab.get d t i := by
  induction t with
  | nil => simp [Tab.del, Tab.get]
  | cons e r ih =>
    obtain ⟨j, w⟩ := e
    simp only [Tab.del]
    split
    · rename_i hj
      subst hj
      simp [Tab.get, h, ih]
    · simp [Tab.get, ih]

/-- A write removes the entry of a value that equals the default, and inserts any other. -/
theorem Tab.put_eq {α : Type} [DecidableEq α] (d : Nat → α) (t : Tab α) (k : Nat) (v : α) :
    Tab.put d t k v = if v = d k then Tab.del t k else Tab.ins t k v := by
  cases t with
  | nil => simp [Tab.put, Tab.del, Tab.ins]
  | cons e r => rfl

/-- A read after a write. -/
theorem Tab.get_put {α : Type} [DecidableEq α] (d : Nat → α) (t : Tab α) (k i : Nat) (v : α) :
    Tab.get d (Tab.put d t k v) i = if i = k then v else Tab.get d t i := by
  rw [Tab.put_eq]
  split <;> split
  · subst_vars; exact Tab.get_del_same d t _
  · exact Tab.get_del_other d t _ _ ‹_›
  · subst_vars; exact Tab.get_ins_same d t _ _
  · exact Tab.get_ins_other d t _ _ _ ‹_›

@[simp] theorem Tab.get_nil {α : Type} (d : Nat → α) (k : Nat) : Tab.get d [] k = d k := rfl

@[simp] theorem Tab.get_put_same {α : Type} [DecidableEq α] (d : Nat → α) (t : Tab α) (k : Nat) (v : α) :
    Tab.get d (Tab.put d t k v) k = v := by simp [Tab.get_put]

theorem Tab.get_put_other {α : Type} [DecidableEq α] (d : Nat → α) (t : Tab α) (k i : Nat) (v : α) (h : i ≠ k) :
    Tab.get d (Tab.put d t k v) i = Tab.get d t i := by simp [Tab.get_put, h]

/-- Keeping entries: a number that passes the test reads as before, another as unlisted. -/
theorem Tab.get_keep {α : Type} (d : Nat → α) (f : Nat → Bool) (t : Tab α) (k : Nat) :
    Tab.get d (Tab.keep f t) k = if f k then Tab.get d t k else d k := by
  induction t with
  | nil => simp [Tab.keep]
  | cons e r ih =>
    obtain ⟨j, w⟩ := e
    simp only [Tab.keep]
    by_cases hj : f j <;> by_cases hk : k = j
    · subst hk; simp [hj, Tab.get]
    · simp [hj, Tab.get, hk, ih]
    · subst hk; simp [hj, ih]
    · simp [hj, Tab.get, hk, ih]

/-! ### Canonical form -/

theorem Tab.sortedFrom_mono {α : Type} (t : Tab α) (a b : Nat) (h : a ≤ b) (hs : Tab.sortedFrom b t = true) :
    Tab.sortedFrom a t = true := by
  cases t with
  | nil => rfl
  | cons e r =>
    obtain ⟨j, w⟩ := e
    simp only [Tab.sortedFrom, Bool.and_eq_true, decide_eq_true_eq] at hs ⊢
    exact ⟨by omega, hs.2⟩

theorem Tab.sortedFrom_ins {α : Type} (t : Tab α) (b k : Nat) (v : α) (hb : b ≤ k) (hs : Tab.sortedFrom b t = true) :
    Tab.sortedFrom b (Tab.ins t k v) = true := by
  induction t generalizing b with
  | nil => simpa [Tab.ins, Tab.sortedFrom] using hb
  | cons e r ih =>
    obtain ⟨j, w⟩ := e
    simp only [Tab.sortedFrom, Bool.and_eq_true, decide_eq_true_eq] at hs
    simp only [Tab.ins]
    split
    · simp only [Tab.sortedFrom, Bool.and_eq_true, decide_eq_true_eq]
      exact ⟨hb, by omega, hs.2⟩
    · split
      · subst_vars
        simp only [Tab.sortedFrom, Bool.and_eq_true, decide_eq_true_eq]
        exact ⟨hb, hs.2⟩
      · simp only [Tab.sortedFrom, Bool.and_eq_true, decide_eq_true_eq]
        exact ⟨hs.1, ih (j + 1) (by omega) hs.2⟩

theorem Tab.sortedFrom_del {α : Type} (t : Tab α) (b k : Nat) (hs : Tab.sortedFrom b t = true) :
    Tab.sortedFrom b (Tab.del t k) = true := by
  induction t generalizing b with
  | nil => rfl
  | cons e r ih =>
    obtain ⟨j, w⟩ := e
    simp only [Tab.sortedFrom, Bool.and_eq_true, decide_eq_true_eq] at hs
    simp only [Tab.del]
    split
    · exact Tab.sortedFrom_mono _ b (j + 1) (by omega) (ih (j + 1) hs.2)
    · simp only [Tab.sortedFrom, Bool.and_eq_true, decide_eq_true_eq]
      exact ⟨hs.1, ih (j + 1) hs.2⟩

theorem Tab.sortedFrom_keep {α : Type} (f : Nat → Bool) (t : Tab α) (b : Nat) (hs : Tab.sortedFrom b t = true) :
    Tab.sortedFrom b (Tab.keep f t) = true := by
  induction t generalizing b with
  | nil => rfl
  | cons e r ih =>
    obtain ⟨j, w⟩ := e
    simp only [Tab.sortedFrom, Bool.and_eq_true, decide_eq_true_eq] at hs
    simp only [Tab.keep]
    split
    · simp only [Tab.sortedFrom, Bool.and_eq_true, decide_eq_true_eq]
      exact ⟨hs.1, ih (j + 1) hs.2⟩
    · exact Tab.sortedFrom_mono _ b (j + 1) (by omega) (ih (j + 1) hs.2)

theorem Tab.noDefault_ins {α : Type} [DecidableEq α] (d : Nat → α) (t : Tab α) (k : Nat) (v : α) (hv : v ≠ d k)
    (hs : Tab.noDefault d t = true) : Tab.noDefault d (Tab.ins t k v) = true := by
  induction t with
  | nil => simpa [Tab.ins, Tab.noDefault] using hv
  | cons e r ih =>
    obtain ⟨j, w⟩ := e
    simp only [Tab.noDefault, Bool.and_eq_true, decide_eq_true_eq] at hs
    simp only [Tab.ins]
    split
    · simp only [Tab.noDefault, Bool.and_eq_true, decide_eq_true_eq]
      exact ⟨hv, hs⟩
    · split
      · simp only [Tab.noDefault, Bool.and_eq_true, decide_eq_true_eq]
        exact ⟨hv, hs.2⟩
      · simp only [Tab.noDefault, Bool.and_eq_true, decide_eq_true_eq]
        exact ⟨hs.1, ih hs.2⟩

theorem Tab.noDefault_del {α : Type} [DecidableEq α] (d : Nat → α) (t : Tab α) (k : Nat) (hs : Tab.noDefault d t = true) :
    Tab.noDefault d (Tab.del t k) = true := by
  induction t with
  | nil => rfl
  | cons e r ih =>
    obtain ⟨j, w⟩ := e
    simp only [Tab.noDefault, Bool.and_eq_true, decide_eq_true_eq] at hs
    simp only [Tab.del]
    split
    · exact ih hs.2
    · simp only [Tab.noDefault, Bool.and_eq_true, decide_eq_true_eq]
      exact ⟨hs.1, ih hs.2⟩

theorem Tab.noDefault_keep {α : Type} [DecidableEq α] (d : Nat → α) (f : Nat → Bool) (t : Tab α)
    (hs : Tab.noDefault d t = true) : Tab.noDefault d (Tab.keep f t) = true := by
  induction t with
  | nil => rfl
  | cons e r ih =>
    obtain ⟨j, w⟩ := e
    simp only [Tab.noDefault, Bool.and_eq_true, decide_eq_true_eq] at hs
    simp only [Tab.keep]
    split
    · simp only [Tab.noDefault, Bool.and_eq_true, decide_eq_true_eq]
      exact ⟨hs.1, ih hs.2⟩
    · exact ih hs.2

/-- A write keeps the canonical form. -/
theorem Tab.wf_put {α : Type} [DecidableEq α] (d : Nat → α) (t : Tab α) (k : Nat) (v : α) (h : Tab.wf d t = true) :
    Tab.wf d (Tab.put d t k v) = true := by
  simp only [Tab.wf, Bool.and_eq_true] at h ⊢
  rw [Tab.put_eq]
  split
  · exact ⟨Tab.sortedFrom_del _ _ _ h.1, Tab.noDefault_del _ _ _ h.2⟩
  · exact ⟨Tab.sortedFrom_ins _ _ _ _ (Nat.zero_le _) h.1, Tab.noDefault_ins _ _ _ _ ‹_› h.2⟩

/-- Keeping some of the entries keeps the canonical form. -/
theorem Tab.wf_keep {α : Type} [DecidableEq α] (d : Nat → α) (f : Nat → Bool) (t : Tab α) (h : Tab.wf d t = true) :
    Tab.wf d (Tab.keep f t) = true := by
  simp only [Tab.wf, Bool.and_eq_true] at h ⊢
  exact ⟨Tab.sortedFrom_keep _ _ _ h.1, Tab.noDefault_keep _ _ _ h.2⟩

/-- The empty store is in canonical form. -/
theorem Tab.wf_nil {α : Type} [DecidableEq α] (d : Nat → α) : Tab.wf d ([] : Tab α) = true := rfl

end Sys2Proof.Machine
end

