-- ==== Sys2Proof/Laws/State.lean ====
section
/-!
SUPPORT. Laws/State.lean: beside the state, one lemma for each field that an update leaves alone, and for the reads that go with
it, so that no proof unfolds an update of the state.
-/
namespace Sys2Proof.Machine

/-! ### State.wr -/

@[simp] theorem State.wr_tbl (s : State) (bank a : Nat) (v : Word) : (State.wr s bank a v).tbl = s.tbl := rfl
@[simp] theorem State.wr_mem (s : State) (bank a : Nat) (v : Word) : (State.wr s bank a v).mem = s.mem := rfl
@[simp] theorem State.wr_beat (s : State) (bank a : Nat) (v : Word) : (State.wr s bank a v).beat = s.beat := rfl
@[simp] theorem State.wr_free (s : State) (bank a : Nat) (v : Word) : (State.wr s bank a v).free = s.free := rfl
@[simp] theorem State.wr_bus (s : State) (bank a : Nat) (v : Word) : (State.wr s bank a v).bus = s.bus := rfl
@[simp] theorem State.wr_host (s : State) (bank a : Nat) (v : Word) : (State.wr s bank a v).host = s.host := rfl
@[simp] theorem State.wr_fuse (s : State) (bank a : Nat) (v : Word) : (State.wr s bank a v).fuse = s.fuse := rfl
@[simp] theorem State.wr_key (s : State) (bank a : Nat) (v : Word) : (State.wr s bank a v).key = s.key := rfl
@[simp] theorem State.wr_lanes (s : State) (bank a : Nat) (v : Word) : (State.wr s bank a v).lanes = s.lanes := rfl
@[simp] theorem State.wr_epv (s : State) (bank a : Nat) (v : Word) : (State.wr s bank a v).epv = s.epv := rfl
@[simp] theorem State.wr_saSent (s : State) (bank a : Nat) (v : Word) : (State.wr s bank a v).saSent = s.saSent := rfl
@[simp] theorem State.wr_tbs (s : State) (bank a : Nat) (v : Word) : (State.wr s bank a v).tbs = s.tbs := rfl
@[simp] theorem State.wr_cmp (s : State) (bank a : Nat) (v : Word) : (State.wr s bank a v).cmp = s.cmp := rfl
@[simp] theorem State.wr_cand (s : State) (bank a : Nat) (v : Word) : (State.wr s bank a v).cand = s.cand := rfl
@[simp] theorem State.wr_gbus (s : State) (bank a : Nat) (v : Word) : (State.wr s bank a v).gbus = s.gbus := rfl
@[simp] theorem State.wr_mgt (s : State) (bank a : Nat) (v : Word) : (State.wr s bank a v).mgt = s.mgt := rfl
@[simp] theorem State.wr_flt (s : State) (bank a : Nat) (v : Word) : (State.wr s bank a v).flt = s.flt := rfl
@[simp] theorem State.wr_pwr (s : State) (bank a : Nat) (v : Word) : (State.wr s bank a v).pwr = s.pwr := rfl
@[simp] theorem State.wr_fab (s : State) (bank a : Nat) (v : Word) : (State.wr s bank a v).fab = s.fab := rfl
@[simp] theorem State.wr_take (s : State) (bank a : Nat) (v : Word) : (State.wr s bank a v).take = s.take := rfl
@[simp] theorem State.wr_pad (s : State) (bank a : Nat) (v : Word) : (State.wr s bank a v).pad = s.pad := rfl
@[simp] theorem State.wr_merge (s : State) (bank a : Nat) (v : Word) : (State.wr s bank a v).merge = s.merge := rfl
@[simp] theorem State.wr_flowHigh (s : State) (bank a : Nat) (v : Word) : (State.wr s bank a v).flowHigh = s.flowHigh := rfl
@[simp] theorem State.wr_reel (s : State) (bank a : Nat) (v : Word) : (State.wr s bank a v).reel = s.reel := rfl
@[simp] theorem State.wr_egr (s : State) (bank a : Nat) (v : Word) : (State.wr s bank a v).egr = s.egr := rfl
@[simp] theorem State.wr_remote (s : State) (bank a : Nat) (v : Word) : (State.wr s bank a v).remote = s.remote := rfl
@[simp] theorem State.wr_ports (s : State) (bank a : Nat) (v : Word) : (State.wr s bank a v).ports = s.ports := rfl
@[simp] theorem State.wr_aud (s : State) (bank a : Nat) (v : Word) : (State.wr s bank a v).aud = s.aud := rfl
@[simp] theorem State.wr_fol (s : State) (bank a : Nat) (v : Word) : (State.wr s bank a v).fol = s.fol := rfl
@[simp] theorem State.wr_mon (s : State) (bank a : Nat) (v : Word) : (State.wr s bank a v).mon = s.mon := rfl
@[simp] theorem State.wr_occ (s : State) (bank a : Nat) (v : Word) : (State.wr s bank a v).occ = s.occ := rfl
@[simp] theorem State.wr_out (s : State) (bank a : Nat) (v : Word) : (State.wr s bank a v).out = s.out := rfl
@[simp] theorem State.wr_pending (s : State) (bank a : Nat) (v : Word) : (State.wr s bank a v).pending = s.pending := rfl
@[simp] theorem State.wr_ent (s : State) (bank a : Nat) (v : Word) (p0 b0 s0 i0 w0 : Nat) : (State.wr s bank a v).ent p0 b0 s0 i0 w0 = s.ent p0 b0 s0 i0 w0 := rfl
@[simp] theorem State.wr_entF (s : State) (bank a : Nat) (v : Word) (p0 b0 s0 i0 w0 l0 n0 : Nat) : (State.wr s bank a v).entF p0 b0 s0 i0 w0 l0 n0 = s.entF p0 b0 s0 i0 w0 l0 n0 := rfl
@[simp] theorem State.wr_memByte (s : State) (bank a : Nat) (v : Word) (a0 : Nat) : (State.wr s bank a v).memByte a0 = s.memByte a0 := rfl

/-! ### State.setEnt -/

@[simp] theorem State.setEnt_regs (s : State) (pg bank sel idx w : Nat) (v : Word) : (State.setEnt s pg bank sel idx w v).regs = s.regs := rfl
@[simp] theorem State.setEnt_mem (s : State) (pg bank sel idx w : Nat) (v : Word) : (State.setEnt s pg bank sel idx w v).mem = s.mem := rfl
@[simp] theorem State.setEnt_beat (s : State) (pg bank sel idx w : Nat) (v : Word) : (State.setEnt s pg bank sel idx w v).beat = s.beat := rfl
@[simp] theorem State.setEnt_free (s : State) (pg bank sel idx w : Nat) (v : Word) : (State.setEnt s pg bank sel idx w v).free = s.free := rfl
@[simp] theorem State.setEnt_bus (s : State) (pg bank sel idx w : Nat) (v : Word) : (State.setEnt s pg bank sel idx w v).bus = s.bus := rfl
@[simp] theorem State.setEnt_host (s : State) (pg bank sel idx w : Nat) (v : Word) : (State.setEnt s pg bank sel idx w v).host = s.host := rfl
@[simp] theorem State.setEnt_fuse (s : State) (pg bank sel idx w : Nat) (v : Word) : (State.setEnt s pg bank sel idx w v).fuse = s.fuse := rfl
@[simp] theorem State.setEnt_key (s : State) (pg bank sel idx w : Nat) (v : Word) : (State.setEnt s pg bank sel idx w v).key = s.key := rfl
@[simp] theorem State.setEnt_lanes (s : State) (pg bank sel idx w : Nat) (v : Word) : (State.setEnt s pg bank sel idx w v).lanes = s.lanes := rfl
@[simp] theorem State.setEnt_epv (s : State) (pg bank sel idx w : Nat) (v : Word) : (State.setEnt s pg bank sel idx w v).epv = s.epv := rfl
@[simp] theorem State.setEnt_saSent (s : State) (pg bank sel idx w : Nat) (v : Word) : (State.setEnt s pg bank sel idx w v).saSent = s.saSent := rfl
@[simp] theorem State.setEnt_tbs (s : State) (pg bank sel idx w : Nat) (v : Word) : (State.setEnt s pg bank sel idx w v).tbs = s.tbs := rfl
@[simp] theorem State.setEnt_cmp (s : State) (pg bank sel idx w : Nat) (v : Word) : (State.setEnt s pg bank sel idx w v).cmp = s.cmp := rfl
@[simp] theorem State.setEnt_cand (s : State) (pg bank sel idx w : Nat) (v : Word) : (State.setEnt s pg bank sel idx w v).cand = s.cand := rfl
@[simp] theorem State.setEnt_gbus (s : State) (pg bank sel idx w : Nat) (v : Word) : (State.setEnt s pg bank sel idx w v).gbus = s.gbus := rfl
@[simp] theorem State.setEnt_mgt (s : State) (pg bank sel idx w : Nat) (v : Word) : (State.setEnt s pg bank sel idx w v).mgt = s.mgt := rfl
@[simp] theorem State.setEnt_flt (s : State) (pg bank sel idx w : Nat) (v : Word) : (State.setEnt s pg bank sel idx w v).flt = s.flt := rfl
@[simp] theorem State.setEnt_pwr (s : State) (pg bank sel idx w : Nat) (v : Word) : (State.setEnt s pg bank sel idx w v).pwr = s.pwr := rfl
@[simp] theorem State.setEnt_fab (s : State) (pg bank sel idx w : Nat) (v : Word) : (State.setEnt s pg bank sel idx w v).fab = s.fab := rfl
@[simp] theorem State.setEnt_take (s : State) (pg bank sel idx w : Nat) (v : Word) : (State.setEnt s pg bank sel idx w v).take = s.take := rfl
@[simp] theorem State.setEnt_pad (s : State) (pg bank sel idx w : Nat) (v : Word) : (State.setEnt s pg bank sel idx w v).pad = s.pad := rfl
@[simp] theorem State.setEnt_merge (s : State) (pg bank sel idx w : Nat) (v : Word) : (State.setEnt s pg bank sel idx w v).merge = s.merge := rfl
@[simp] theorem State.setEnt_flowHigh (s : State) (pg bank sel idx w : Nat) (v : Word) : (State.setEnt s pg bank sel idx w v).flowHigh = s.flowHigh := rfl
@[simp] theorem State.setEnt_reel (s : State) (pg bank sel idx w : Nat) (v : Word) : (State.setEnt s pg bank sel idx w v).reel = s.reel := rfl
@[simp] theorem State.setEnt_egr (s : State) (pg bank sel idx w : Nat) (v : Word) : (State.setEnt s pg bank sel idx w v).egr = s.egr := rfl
@[simp] theorem State.setEnt_remote (s : State) (pg bank sel idx w : Nat) (v : Word) : (State.setEnt s pg bank sel idx w v).remote = s.remote := rfl
@[simp] theorem State.setEnt_ports (s : State) (pg bank sel idx w : Nat) (v : Word) : (State.setEnt s pg bank sel idx w v).ports = s.ports := rfl
@[simp] theorem State.setEnt_aud (s : State) (pg bank sel idx w : Nat) (v : Word) : (State.setEnt s pg bank sel idx w v).aud = s.aud := rfl
@[simp] theorem State.setEnt_fol (s : State) (pg bank sel idx w : Nat) (v : Word) : (State.setEnt s pg bank sel idx w v).fol = s.fol := rfl
@[simp] theorem State.setEnt_mon (s : State) (pg bank sel idx w : Nat) (v : Word) : (State.setEnt s pg bank sel idx w v).mon = s.mon := rfl
@[simp] theorem State.setEnt_occ (s : State) (pg bank sel idx w : Nat) (v : Word) : (State.setEnt s pg bank sel idx w v).occ = s.occ := rfl
@[simp] theorem State.setEnt_out (s : State) (pg bank sel idx w : Nat) (v : Word) : (State.setEnt s pg bank sel idx w v).out = s.out := rfl
@[simp] theorem State.setEnt_pending (s : State) (pg bank sel idx w : Nat) (v : Word) : (State.setEnt s pg bank sel idx w v).pending = s.pending := rfl
@[simp] theorem State.setEnt_rd (s : State) (pg bank sel idx w : Nat) (v : Word) (b0 a0 : Nat) : (State.setEnt s pg bank sel idx w v).rd b0 a0 = s.rd b0 a0 := rfl
@[simp] theorem State.setEnt_rdF (s : State) (pg bank sel idx w : Nat) (v : Word) (b0 a0 l0 n0 : Nat) : (State.setEnt s pg bank sel idx w v).rdF b0 a0 l0 n0 = s.rdF b0 a0 l0 n0 := rfl
@[simp] theorem State.setEnt_memByte (s : State) (pg bank sel idx w : Nat) (v : Word) (a0 : Nat) : (State.setEnt s pg bank sel idx w v).memByte a0 = s.memByte a0 := rfl

/-! ### State.emit -/

@[simp] theorem State.emit_regs (s : State) (o : Out) : (State.emit s o).regs = s.regs := rfl
@[simp] theorem State.emit_tbl (s : State) (o : Out) : (State.emit s o).tbl = s.tbl := rfl
@[simp] theorem State.emit_mem (s : State) (o : Out) : (State.emit s o).mem = s.mem := rfl
@[simp] theorem State.emit_beat (s : State) (o : Out) : (State.emit s o).beat = s.beat := rfl
@[simp] theorem State.emit_free (s : State) (o : Out) : (State.emit s o).free = s.free := rfl
@[simp] theorem State.emit_bus (s : State) (o : Out) : (State.emit s o).bus = s.bus := rfl
@[simp] theorem State.emit_host (s : State) (o : Out) : (State.emit s o).host = s.host := rfl
@[simp] theorem State.emit_fuse (s : State) (o : Out) : (State.emit s o).fuse = s.fuse := rfl
@[simp] theorem State.emit_key (s : State) (o : Out) : (State.emit s o).key = s.key := rfl
@[simp] theorem State.emit_lanes (s : State) (o : Out) : (State.emit s o).lanes = s.lanes := rfl
@[simp] theorem State.emit_epv (s : State) (o : Out) : (State.emit s o).epv = s.epv := rfl
@[simp] theorem State.emit_saSent (s : State) (o : Out) : (State.emit s o).saSent = s.saSent := rfl
@[simp] theorem State.emit_tbs (s : State) (o : Out) : (State.emit s o).tbs = s.tbs := rfl
@[simp] theorem State.emit_cmp (s : State) (o : Out) : (State.emit s o).cmp = s.cmp := rfl
@[simp] theorem State.emit_cand (s : State) (o : Out) : (State.emit s o).cand = s.cand := rfl
@[simp] theorem State.emit_gbus (s : State) (o : Out) : (State.emit s o).gbus = s.gbus := rfl
@[simp] theorem State.emit_mgt (s : State) (o : Out) : (State.emit s o).mgt = s.mgt := rfl
@[simp] theorem State.emit_flt (s : State) (o : Out) : (State.emit s o).flt = s.flt := rfl
@[simp] theorem State.emit_pwr (s : State) (o : Out) : (State.emit s o).pwr = s.pwr := rfl
@[simp] theorem State.emit_fab (s : State) (o : Out) : (State.emit s o).fab = s.fab := rfl
@[simp] theorem State.emit_take (s : State) (o : Out) : (State.emit s o).take = s.take := rfl
@[simp] theorem State.emit_pad (s : State) (o : Out) : (State.emit s o).pad = s.pad := rfl
@[simp] theorem State.emit_merge (s : State) (o : Out) : (State.emit s o).merge = s.merge := rfl
@[simp] theorem State.emit_flowHigh (s : State) (o : Out) : (State.emit s o).flowHigh = s.flowHigh := rfl
@[simp] theorem State.emit_reel (s : State) (o : Out) : (State.emit s o).reel = s.reel := rfl
@[simp] theorem State.emit_egr (s : State) (o : Out) : (State.emit s o).egr = s.egr := rfl
@[simp] theorem State.emit_remote (s : State) (o : Out) : (State.emit s o).remote = s.remote := rfl
@[simp] theorem State.emit_ports (s : State) (o : Out) : (State.emit s o).ports = s.ports := rfl
@[simp] theorem State.emit_aud (s : State) (o : Out) : (State.emit s o).aud = s.aud := rfl
@[simp] theorem State.emit_fol (s : State) (o : Out) : (State.emit s o).fol = s.fol := rfl
@[simp] theorem State.emit_mon (s : State) (o : Out) : (State.emit s o).mon = s.mon := rfl
@[simp] theorem State.emit_occ (s : State) (o : Out) : (State.emit s o).occ = s.occ := rfl
@[simp] theorem State.emit_pending (s : State) (o : Out) : (State.emit s o).pending = s.pending := rfl
@[simp] theorem State.emit_rd (s : State) (o : Out) (b0 a0 : Nat) : (State.emit s o).rd b0 a0 = s.rd b0 a0 := rfl
@[simp] theorem State.emit_rdF (s : State) (o : Out) (b0 a0 l0 n0 : Nat) : (State.emit s o).rdF b0 a0 l0 n0 = s.rdF b0 a0 l0 n0 := rfl
@[simp] theorem State.emit_ent (s : State) (o : Out) (p0 b0 s0 i0 w0 : Nat) : (State.emit s o).ent p0 b0 s0 i0 w0 = s.ent p0 b0 s0 i0 w0 := rfl
@[simp] theorem State.emit_entF (s : State) (o : Out) (p0 b0 s0 i0 w0 l0 n0 : Nat) : (State.emit s o).entF p0 b0 s0 i0 w0 l0 n0 = s.entF p0 b0 s0 i0 w0 l0 n0 := rfl
@[simp] theorem State.emit_memByte (s : State) (o : Out) (a0 : Nat) : (State.emit s o).memByte a0 = s.memByte a0 := rfl

/-! ### State.occur -/

@[simp] theorem State.occur_regs (s : State) (src inst part : Nat) : (State.occur s src inst part).regs = s.regs := rfl
@[simp] theorem State.occur_tbl (s : State) (src inst part : Nat) : (State.occur s src inst part).tbl = s.tbl := rfl
@[simp] theorem State.occur_mem (s : State) (src inst part : Nat) : (State.occur s src inst part).mem = s.mem := rfl
@[simp] theorem State.occur_beat (s : State) (src inst part : Nat) : (State.occur s src inst part).beat = s.beat := rfl
@[simp] theorem State.occur_free (s : State) (src inst part : Nat) : (State.occur s src inst part).free = s.free := rfl
@[simp] theorem State.occur_bus (s : State) (src inst part : Nat) : (State.occur s src inst part).bus = s.bus := rfl
@[simp] theorem State.occur_host (s : State) (src inst part : Nat) : (State.occur s src inst part).host = s.host := rfl
@[simp] theorem State.occur_fuse (s : State) (src inst part : Nat) : (State.occur s src inst part).fuse = s.fuse := rfl
@[simp] theorem State.occur_key (s : State) (src inst part : Nat) : (State.occur s src inst part).key = s.key := rfl
@[simp] theorem State.occur_lanes (s : State) (src inst part : Nat) : (State.occur s src inst part).lanes = s.lanes := rfl
@[simp] theorem State.occur_epv (s : State) (src inst part : Nat) : (State.occur s src inst part).epv = s.epv := rfl
@[simp] theorem State.occur_saSent (s : State) (src inst part : Nat) : (State.occur s src inst part).saSent = s.saSent := rfl
@[simp] theorem State.occur_tbs (s : State) (src inst part : Nat) : (State.occur s src inst part).tbs = s.tbs := rfl
@[simp] theorem State.occur_cmp (s : State) (src inst part : Nat) : (State.occur s src inst part).cmp = s.cmp := rfl
@[simp] theorem State.occur_cand (s : State) (src inst part : Nat) : (State.occur s src inst part).cand = s.cand := rfl
@[simp] theorem State.occur_gbus (s : State) (src inst part : Nat) : (State.occur s src inst part).gbus = s.gbus := rfl
@[simp] theorem State.occur_mgt (s : State) (src inst part : Nat) : (State.occur s src inst part).mgt = s.mgt := rfl
@[simp] theorem State.occur_flt (s : State) (src inst part : Nat) : (State.occur s src inst part).flt = s.flt := rfl
@[simp] theorem State.occur_pwr (s : State) (src inst part : Nat) : (State.occur s src inst part).pwr = s.pwr := rfl
@[simp] theorem State.occur_fab (s : State) (src inst part : Nat) : (State.occur s src inst part).fab = s.fab := rfl
@[simp] theorem State.occur_take (s : State) (src inst part : Nat) : (State.occur s src inst part).take = s.take := rfl
@[simp] theorem State.occur_pad (s : State) (src inst part : Nat) : (State.occur s src inst part).pad = s.pad := rfl
@[simp] theorem State.occur_merge (s : State) (src inst part : Nat) : (State.occur s src inst part).merge = s.merge := rfl
@[simp] theorem State.occur_flowHigh (s : State) (src inst part : Nat) : (State.occur s src inst part).flowHigh = s.flowHigh := rfl
@[simp] theorem State.occur_reel (s : State) (src inst part : Nat) : (State.occur s src inst part).reel = s.reel := rfl
@[simp] theorem State.occur_egr (s : State) (src inst part : Nat) : (State.occur s src inst part).egr = s.egr := rfl
@[simp] theorem State.occur_remote (s : State) (src inst part : Nat) : (State.occur s src inst part).remote = s.remote := rfl
@[simp] theorem State.occur_ports (s : State) (src inst part : Nat) : (State.occur s src inst part).ports = s.ports := rfl
@[simp] theorem State.occur_aud (s : State) (src inst part : Nat) : (State.occur s src inst part).aud = s.aud := rfl
@[simp] theorem State.occur_fol (s : State) (src inst part : Nat) : (State.occur s src inst part).fol = s.fol := rfl
@[simp] theorem State.occur_mon (s : State) (src inst part : Nat) : (State.occur s src inst part).mon = s.mon := rfl
@[simp] theorem State.occur_out (s : State) (src inst part : Nat) : (State.occur s src inst part).out = s.out := rfl
@[simp] theorem State.occur_pending (s : State) (src inst part : Nat) : (State.occur s src inst part).pending = s.pending := rfl
@[simp] theorem State.occur_rd (s : State) (src inst part : Nat) (b0 a0 : Nat) : (State.occur s src inst part).rd b0 a0 = s.rd b0 a0 := rfl
@[simp] theorem State.occur_rdF (s : State) (src inst part : Nat) (b0 a0 l0 n0 : Nat) : (State.occur s src inst part).rdF b0 a0 l0 n0 = s.rdF b0 a0 l0 n0 := rfl
@[simp] theorem State.occur_ent (s : State) (src inst part : Nat) (p0 b0 s0 i0 w0 : Nat) : (State.occur s src inst part).ent p0 b0 s0 i0 w0 = s.ent p0 b0 s0 i0 w0 := rfl
@[simp] theorem State.occur_entF (s : State) (src inst part : Nat) (p0 b0 s0 i0 w0 l0 n0 : Nat) : (State.occur s src inst part).entF p0 b0 s0 i0 w0 l0 n0 = s.entF p0 b0 s0 i0 w0 l0 n0 := rfl
@[simp] theorem State.occur_memByte (s : State) (src inst part : Nat) (a0 : Nat) : (State.occur s src inst part).memByte a0 = s.memByte a0 := rfl

/-! ### State.dropHolds -/

@[simp] theorem State.dropHolds_regs (s : State) (master pg : Nat) : (State.dropHolds s master pg).regs = s.regs := rfl
@[simp] theorem State.dropHolds_tbl (s : State) (master pg : Nat) : (State.dropHolds s master pg).tbl = s.tbl := rfl
@[simp] theorem State.dropHolds_mem (s : State) (master pg : Nat) : (State.dropHolds s master pg).mem = s.mem := rfl
@[simp] theorem State.dropHolds_beat (s : State) (master pg : Nat) : (State.dropHolds s master pg).beat = s.beat := rfl
@[simp] theorem State.dropHolds_free (s : State) (master pg : Nat) : (State.dropHolds s master pg).free = s.free := rfl
@[simp] theorem State.dropHolds_host (s : State) (master pg : Nat) : (State.dropHolds s master pg).host = s.host := rfl
@[simp] theorem State.dropHolds_fuse (s : State) (master pg : Nat) : (State.dropHolds s master pg).fuse = s.fuse := rfl
@[simp] theorem State.dropHolds_key (s : State) (master pg : Nat) : (State.dropHolds s master pg).key = s.key := rfl
@[simp] theorem State.dropHolds_lanes (s : State) (master pg : Nat) : (State.dropHolds s master pg).lanes = s.lanes := rfl
@[simp] theorem State.dropHolds_epv (s : State) (master pg : Nat) : (State.dropHolds s master pg).epv = s.epv := rfl
@[simp] theorem State.dropHolds_saSent (s : State) (master pg : Nat) : (State.dropHolds s master pg).saSent = s.saSent := rfl
@[simp] theorem State.dropHolds_tbs (s : State) (master pg : Nat) : (State.dropHolds s master pg).tbs = s.tbs := rfl
@[simp] theorem State.dropHolds_cmp (s : State) (master pg : Nat) : (State.dropHolds s master pg).cmp = s.cmp := rfl
@[simp] theorem State.dropHolds_cand (s : State) (master pg : Nat) : (State.dropHolds s master pg).cand = s.cand := rfl
@[simp] theorem State.dropHolds_gbus (s : State) (master pg : Nat) : (State.dropHolds s master pg).gbus = s.gbus := rfl
@[simp] theorem State.dropHolds_mgt (s : State) (master pg : Nat) : (State.dropHolds s master pg).mgt = s.mgt := rfl
@[simp] theorem State.dropHolds_flt (s : State) (master pg : Nat) : (State.dropHolds s master pg).flt = s.flt := rfl
@[simp] theorem State.dropHolds_pwr (s : State) (master pg : Nat) : (State.dropHolds s master pg).pwr = s.pwr := rfl
@[simp] theorem State.dropHolds_fab (s : State) (master pg : Nat) : (State.dropHolds s master pg).fab = s.fab := rfl
@[simp] theorem State.dropHolds_take (s : State) (master pg : Nat) : (State.dropHolds s master pg).take = s.take := rfl
@[simp] theorem State.dropHolds_pad (s : State) (master pg : Nat) : (State.dropHolds s master pg).pad = s.pad := rfl
@[simp] theorem State.dropHolds_merge (s : State) (master pg : Nat) : (State.dropHolds s master pg).merge = s.merge := rfl
@[simp] theorem State.dropHolds_flowHigh (s : State) (master pg : Nat) : (State.dropHolds s master pg).flowHigh = s.flowHigh := rfl
@[simp] theorem State.dropHolds_reel (s : State) (master pg : Nat) : (State.dropHolds s master pg).reel = s.reel := rfl
@[simp] theorem State.dropHolds_egr (s : State) (master pg : Nat) : (State.dropHolds s master pg).egr = s.egr := rfl
@[simp] theorem State.dropHolds_remote (s : State) (master pg : Nat) : (State.dropHolds s master pg).remote = s.remote := rfl
@[simp] theorem State.dropHolds_ports (s : State) (master pg : Nat) : (State.dropHolds s master pg).ports = s.ports := rfl
@[simp] theorem State.dropHolds_aud (s : State) (master pg : Nat) : (State.dropHolds s master pg).aud = s.aud := rfl
@[simp] theorem State.dropHolds_fol (s : State) (master pg : Nat) : (State.dropHolds s master pg).fol = s.fol := rfl
@[simp] theorem State.dropHolds_mon (s : State) (master pg : Nat) : (State.dropHolds s master pg).mon = s.mon := rfl
@[simp] theorem State.dropHolds_occ (s : State) (master pg : Nat) : (State.dropHolds s master pg).occ = s.occ := rfl
@[simp] theorem State.dropHolds_out (s : State) (master pg : Nat) : (State.dropHolds s master pg).out = s.out := rfl
@[simp] theorem State.dropHolds_pending (s : State) (master pg : Nat) : (State.dropHolds s master pg).pending = s.pending := rfl
@[simp] theorem State.dropHolds_rd (s : State) (master pg : Nat) (b0 a0 : Nat) : (State.dropHolds s master pg).rd b0 a0 = s.rd b0 a0 := rfl
@[simp] theorem State.dropHolds_rdF (s : State) (master pg : Nat) (b0 a0 l0 n0 : Nat) : (State.dropHolds s master pg).rdF b0 a0 l0 n0 = s.rdF b0 a0 l0 n0 := rfl
@[simp] theorem State.dropHolds_ent (s : State) (master pg : Nat) (p0 b0 s0 i0 w0 : Nat) : (State.dropHolds s master pg).ent p0 b0 s0 i0 w0 = s.ent p0 b0 s0 i0 w0 := rfl
@[simp] theorem State.dropHolds_entF (s : State) (master pg : Nat) (p0 b0 s0 i0 w0 l0 n0 : Nat) : (State.dropHolds s master pg).entF p0 b0 s0 i0 w0 l0 n0 = s.entF p0 b0 s0 i0 w0 l0 n0 := rfl
@[simp] theorem State.dropHolds_memByte (s : State) (master pg : Nat) (a0 : Nat) : (State.dropHolds s master pg).memByte a0 = s.memByte a0 := rfl

/-! ### State.present -/

@[simp] theorem State.present_regs (s : State) (x : Nat) (ws : List (Nat × FWord)) : (State.present s x ws).regs = s.regs := rfl
@[simp] theorem State.present_tbl (s : State) (x : Nat) (ws : List (Nat × FWord)) : (State.present s x ws).tbl = s.tbl := rfl
@[simp] theorem State.present_mem (s : State) (x : Nat) (ws : List (Nat × FWord)) : (State.present s x ws).mem = s.mem := rfl
@[simp] theorem State.present_beat (s : State) (x : Nat) (ws : List (Nat × FWord)) : (State.present s x ws).beat = s.beat := rfl
@[simp] theorem State.present_free (s : State) (x : Nat) (ws : List (Nat × FWord)) : (State.present s x ws).free = s.free := rfl
@[simp] theorem State.present_bus (s : State) (x : Nat) (ws : List (Nat × FWord)) : (State.present s x ws).bus = s.bus := rfl
@[simp] theorem State.present_host (s : State) (x : Nat) (ws : List (Nat × FWord)) : (State.present s x ws).host = s.host := rfl
@[simp] theorem State.present_fuse (s : State) (x : Nat) (ws : List (Nat × FWord)) : (State.present s x ws).fuse = s.fuse := rfl
@[simp] theorem State.present_key (s : State) (x : Nat) (ws : List (Nat × FWord)) : (State.present s x ws).key = s.key := rfl
@[simp] theorem State.present_lanes (s : State) (x : Nat) (ws : List (Nat × FWord)) : (State.present s x ws).lanes = s.lanes := rfl
@[simp] theorem State.present_epv (s : State) (x : Nat) (ws : List (Nat × FWord)) : (State.present s x ws).epv = s.epv := rfl
@[simp] theorem State.present_saSent (s : State) (x : Nat) (ws : List (Nat × FWord)) : (State.present s x ws).saSent = s.saSent := rfl
@[simp] theorem State.present_tbs (s : State) (x : Nat) (ws : List (Nat × FWord)) : (State.present s x ws).tbs = s.tbs := rfl
@[simp] theorem State.present_cmp (s : State) (x : Nat) (ws : List (Nat × FWord)) : (State.present s x ws).cmp = s.cmp := rfl
@[simp] theorem State.present_cand (s : State) (x : Nat) (ws : List (Nat × FWord)) : (State.present s x ws).cand = s.cand := rfl
@[simp] theorem State.present_gbus (s : State) (x : Nat) (ws : List (Nat × FWord)) : (State.present s x ws).gbus = s.gbus := rfl
@[simp] theorem State.present_mgt (s : State) (x : Nat) (ws : List (Nat × FWord)) : (State.present s x ws).mgt = s.mgt := rfl
@[simp] theorem State.present_flt (s : State) (x : Nat) (ws : List (Nat × FWord)) : (State.present s x ws).flt = s.flt := rfl
@[simp] theorem State.present_pwr (s : State) (x : Nat) (ws : List (Nat × FWord)) : (State.present s x ws).pwr = s.pwr := rfl
@[simp] theorem State.present_take (s : State) (x : Nat) (ws : List (Nat × FWord)) : (State.present s x ws).take = s.take := rfl
@[simp] theorem State.present_pad (s : State) (x : Nat) (ws : List (Nat × FWord)) : (State.present s x ws).pad = s.pad := rfl
@[simp] theorem State.present_merge (s : State) (x : Nat) (ws : List (Nat × FWord)) : (State.present s x ws).merge = s.merge := rfl
@[simp] theorem State.present_flowHigh (s : State) (x : Nat) (ws : List (Nat × FWord)) : (State.present s x ws).flowHigh = s.flowHigh := rfl
@[simp] theorem State.present_reel (s : State) (x : Nat) (ws : List (Nat × FWord)) : (State.present s x ws).reel = s.reel := rfl
@[simp] theorem State.present_egr (s : State) (x : Nat) (ws : List (Nat × FWord)) : (State.present s x ws).egr = s.egr := rfl
@[simp] theorem State.present_remote (s : State) (x : Nat) (ws : List (Nat × FWord)) : (State.present s x ws).remote = s.remote := rfl
@[simp] theorem State.present_ports (s : State) (x : Nat) (ws : List (Nat × FWord)) : (State.present s x ws).ports = s.ports := rfl
@[simp] theorem State.present_aud (s : State) (x : Nat) (ws : List (Nat × FWord)) : (State.present s x ws).aud = s.aud := rfl
@[simp] theorem State.present_fol (s : State) (x : Nat) (ws : List (Nat × FWord)) : (State.present s x ws).fol = s.fol := rfl
@[simp] theorem State.present_mon (s : State) (x : Nat) (ws : List (Nat × FWord)) : (State.present s x ws).mon = s.mon := rfl
@[simp] theorem State.present_occ (s : State) (x : Nat) (ws : List (Nat × FWord)) : (State.present s x ws).occ = s.occ := rfl
@[simp] theorem State.present_out (s : State) (x : Nat) (ws : List (Nat × FWord)) : (State.present s x ws).out = s.out := rfl
@[simp] theorem State.present_pending (s : State) (x : Nat) (ws : List (Nat × FWord)) : (State.present s x ws).pending = s.pending := rfl
@[simp] theorem State.present_rd (s : State) (x : Nat) (ws : List (Nat × FWord)) (b0 a0 : Nat) : (State.present s x ws).rd b0 a0 = s.rd b0 a0 := rfl
@[simp] theorem State.present_rdF (s : State) (x : Nat) (ws : List (Nat × FWord)) (b0 a0 l0 n0 : Nat) : (State.present s x ws).rdF b0 a0 l0 n0 = s.rdF b0 a0 l0 n0 := rfl
@[simp] theorem State.present_ent (s : State) (x : Nat) (ws : List (Nat × FWord)) (p0 b0 s0 i0 w0 : Nat) : (State.present s x ws).ent p0 b0 s0 i0 w0 = s.ent p0 b0 s0 i0 w0 := rfl
@[simp] theorem State.present_entF (s : State) (x : Nat) (ws : List (Nat × FWord)) (p0 b0 s0 i0 w0 l0 n0 : Nat) : (State.present s x ws).entF p0 b0 s0 i0 w0 l0 n0 = s.entF p0 b0 s0 i0 w0 l0 n0 := rfl
@[simp] theorem State.present_memByte (s : State) (x : Nat) (ws : List (Nat × FWord)) (a0 : Nat) : (State.present s x ws).memByte a0 = s.memByte a0 := rfl

/-! ### State.dropDue -/

@[simp] theorem State.dropDue_regs (s : State) (x : Nat) : (State.dropDue s x).regs = s.regs := rfl
@[simp] theorem State.dropDue_tbl (s : State) (x : Nat) : (State.dropDue s x).tbl = s.tbl := rfl
@[simp] theorem State.dropDue_mem (s : State) (x : Nat) : (State.dropDue s x).mem = s.mem := rfl
@[simp] theorem State.dropDue_beat (s : State) (x : Nat) : (State.dropDue s x).beat = s.beat := rfl
@[simp] theorem State.dropDue_free (s : State) (x : Nat) : (State.dropDue s x).free = s.free := rfl
@[simp] theorem State.dropDue_bus (s : State) (x : Nat) : (State.dropDue s x).bus = s.bus := rfl
@[simp] theorem State.dropDue_host (s : State) (x : Nat) : (State.dropDue s x).host = s.host := rfl
@[simp] theorem State.dropDue_fuse (s : State) (x : Nat) : (State.dropDue s x).fuse = s.fuse := rfl
@[simp] theorem State.dropDue_key (s : State) (x : Nat) : (State.dropDue s x).key = s.key := rfl
@[simp] theorem State.dropDue_lanes (s : State) (x : Nat) : (State.dropDue s x).lanes = s.lanes := rfl
@[simp] theorem State.dropDue_epv (s : State) (x : Nat) : (State.dropDue s x).epv = s.epv := rfl
@[simp] theorem State.dropDue_saSent (s : State) (x : Nat) : (State.dropDue s x).saSent = s.saSent := rfl
@[simp] theorem State.dropDue_tbs (s : State) (x : Nat) : (State.dropDue s x).tbs = s.tbs := rfl
@[simp] theorem State.dropDue_cmp (s : State) (x : Nat) : (State.dropDue s x).cmp = s.cmp := rfl
@[simp] theorem State.dropDue_cand (s : State) (x : Nat) : (State.dropDue s x).cand = s.cand := rfl
@[simp] theorem State.dropDue_gbus (s : State) (x : Nat) : (State.dropDue s x).gbus = s.gbus := rfl
@[simp] theorem State.dropDue_mgt (s : State) (x : Nat) : (State.dropDue s x).mgt = s.mgt := rfl
@[simp] theorem State.dropDue_flt (s : State) (x : Nat) : (State.dropDue s x).flt = s.flt := rfl
@[simp] theorem State.dropDue_pwr (s : State) (x : Nat) : (State.dropDue s x).pwr = s.pwr := rfl
@[simp] theorem State.dropDue_take (s : State) (x : Nat) : (State.dropDue s x).take = s.take := rfl
@[simp] theorem State.dropDue_pad (s : State) (x : Nat) : (State.dropDue s x).pad = s.pad := rfl
@[simp] theorem State.dropDue_merge (s : State) (x : Nat) : (State.dropDue s x).merge = s.merge := rfl
@[simp] theorem State.dropDue_flowHigh (s : State) (x : Nat) : (State.dropDue s x).flowHigh = s.flowHigh := rfl
@[simp] theorem State.dropDue_reel (s : State) (x : Nat) : (State.dropDue s x).reel = s.reel := rfl
@[simp] theorem State.dropDue_egr (s : State) (x : Nat) : (State.dropDue s x).egr = s.egr := rfl
@[simp] theorem State.dropDue_remote (s : State) (x : Nat) : (State.dropDue s x).remote = s.remote := rfl
@[simp] theorem State.dropDue_ports (s : State) (x : Nat) : (State.dropDue s x).ports = s.ports := rfl
@[simp] theorem State.dropDue_aud (s : State) (x : Nat) : (State.dropDue s x).aud = s.aud := rfl
@[simp] theorem State.dropDue_fol (s : State) (x : Nat) : (State.dropDue s x).fol = s.fol := rfl
@[simp] theorem State.dropDue_mon (s : State) (x : Nat) : (State.dropDue s x).mon = s.mon := rfl
@[simp] theorem State.dropDue_occ (s : State) (x : Nat) : (State.dropDue s x).occ = s.occ := rfl
@[simp] theorem State.dropDue_out (s : State) (x : Nat) : (State.dropDue s x).out = s.out := rfl
@[simp] theorem State.dropDue_pending (s : State) (x : Nat) : (State.dropDue s x).pending = s.pending := rfl
@[simp] theorem State.dropDue_rd (s : State) (x : Nat) (b0 a0 : Nat) : (State.dropDue s x).rd b0 a0 = s.rd b0 a0 := rfl
@[simp] theorem State.dropDue_rdF (s : State) (x : Nat) (b0 a0 l0 n0 : Nat) : (State.dropDue s x).rdF b0 a0 l0 n0 = s.rdF b0 a0 l0 n0 := rfl
@[simp] theorem State.dropDue_ent (s : State) (x : Nat) (p0 b0 s0 i0 w0 : Nat) : (State.dropDue s x).ent p0 b0 s0 i0 w0 = s.ent p0 b0 s0 i0 w0 := rfl
@[simp] theorem State.dropDue_entF (s : State) (x : Nat) (p0 b0 s0 i0 w0 l0 n0 : Nat) : (State.dropDue s x).entF p0 b0 s0 i0 w0 l0 n0 = s.entF p0 b0 s0 i0 w0 l0 n0 := rfl
@[simp] theorem State.dropDue_memByte (s : State) (x : Nat) (a0 : Nat) : (State.dropDue s x).memByte a0 = s.memByte a0 := rfl

/-! ### State.fabDegradedClear -/

@[simp] theorem State.fabDegradedClear_regs (s : State) (fs : Nat) : (State.fabDegradedClear s fs).regs = s.regs := rfl
@[simp] theorem State.fabDegradedClear_tbl (s : State) (fs : Nat) : (State.fabDegradedClear s fs).tbl = s.tbl := rfl
@[simp] theorem State.fabDegradedClear_mem (s : State) (fs : Nat) : (State.fabDegradedClear s fs).mem = s.mem := rfl
@[simp] theorem State.fabDegradedClear_beat (s : State) (fs : Nat) : (State.fabDegradedClear s fs).beat = s.beat := rfl
@[simp] theorem State.fabDegradedClear_free (s : State) (fs : Nat) : (State.fabDegradedClear s fs).free = s.free := rfl
@[simp] theorem State.fabDegradedClear_bus (s : State) (fs : Nat) : (State.fabDegradedClear s fs).bus = s.bus := rfl
@[simp] theorem State.fabDegradedClear_host (s : State) (fs : Nat) : (State.fabDegradedClear s fs).host = s.host := rfl
@[simp] theorem State.fabDegradedClear_fuse (s : State) (fs : Nat) : (State.fabDegradedClear s fs).fuse = s.fuse := rfl
@[simp] theorem State.fabDegradedClear_key (s : State) (fs : Nat) : (State.fabDegradedClear s fs).key = s.key := rfl
@[simp] theorem State.fabDegradedClear_lanes (s : State) (fs : Nat) : (State.fabDegradedClear s fs).lanes = s.lanes := rfl
@[simp] theorem State.fabDegradedClear_epv (s : State) (fs : Nat) : (State.fabDegradedClear s fs).epv = s.epv := rfl
@[simp] theorem State.fabDegradedClear_saSent (s : State) (fs : Nat) : (State.fabDegradedClear s fs).saSent = s.saSent := rfl
@[simp] theorem State.fabDegradedClear_tbs (s : State) (fs : Nat) : (State.fabDegradedClear s fs).tbs = s.tbs := rfl
@[simp] theorem State.fabDegradedClear_cmp (s : State) (fs : Nat) : (State.fabDegradedClear s fs).cmp = s.cmp := rfl
@[simp] theorem State.fabDegradedClear_cand (s : State) (fs : Nat) : (State.fabDegradedClear s fs).cand = s.cand := rfl
@[simp] theorem State.fabDegradedClear_gbus (s : State) (fs : Nat) : (State.fabDegradedClear s fs).gbus = s.gbus := rfl
@[simp] theorem State.fabDegradedClear_mgt (s : State) (fs : Nat) : (State.fabDegradedClear s fs).mgt = s.mgt := rfl
@[simp] theorem State.fabDegradedClear_flt (s : State) (fs : Nat) : (State.fabDegradedClear s fs).flt = s.flt := rfl
@[simp] theorem State.fabDegradedClear_pwr (s : State) (fs : Nat) : (State.fabDegradedClear s fs).pwr = s.pwr := rfl
@[simp] theorem State.fabDegradedClear_take (s : State) (fs : Nat) : (State.fabDegradedClear s fs).take = s.take := rfl
@[simp] theorem State.fabDegradedClear_pad (s : State) (fs : Nat) : (State.fabDegradedClear s fs).pad = s.pad := rfl
@[simp] theorem State.fabDegradedClear_merge (s : State) (fs : Nat) : (State.fabDegradedClear s fs).merge = s.merge := rfl
@[simp] theorem State.fabDegradedClear_flowHigh (s : State) (fs : Nat) : (State.fabDegradedClear s fs).flowHigh = s.flowHigh := rfl
@[simp] theorem State.fabDegradedClear_reel (s : State) (fs : Nat) : (State.fabDegradedClear s fs).reel = s.reel := rfl
@[simp] theorem State.fabDegradedClear_egr (s : State) (fs : Nat) : (State.fabDegradedClear s fs).egr = s.egr := rfl
@[simp] theorem State.fabDegradedClear_remote (s : State) (fs : Nat) : (State.fabDegradedClear s fs).remote = s.remote := rfl
@[simp] theorem State.fabDegradedClear_ports (s : State) (fs : Nat) : (State.fabDegradedClear s fs).ports = s.ports := rfl
@[simp] theorem State.fabDegradedClear_aud (s : State) (fs : Nat) : (State.fabDegradedClear s fs).aud = s.aud := rfl
@[simp] theorem State.fabDegradedClear_fol (s : State) (fs : Nat) : (State.fabDegradedClear s fs).fol = s.fol := rfl
@[simp] theorem State.fabDegradedClear_mon (s : State) (fs : Nat) : (State.fabDegradedClear s fs).mon = s.mon := rfl
@[simp] theorem State.fabDegradedClear_occ (s : State) (fs : Nat) : (State.fabDegradedClear s fs).occ = s.occ := rfl
@[simp] theorem State.fabDegradedClear_out (s : State) (fs : Nat) : (State.fabDegradedClear s fs).out = s.out := rfl
@[simp] theorem State.fabDegradedClear_pending (s : State) (fs : Nat) : (State.fabDegradedClear s fs).pending = s.pending := rfl
@[simp] theorem State.fabDegradedClear_rd (s : State) (fs : Nat) (b0 a0 : Nat) : (State.fabDegradedClear s fs).rd b0 a0 = s.rd b0 a0 := rfl
@[simp] theorem State.fabDegradedClear_rdF (s : State) (fs : Nat) (b0 a0 l0 n0 : Nat) : (State.fabDegradedClear s fs).rdF b0 a0 l0 n0 = s.rdF b0 a0 l0 n0 := rfl
@[simp] theorem State.fabDegradedClear_ent (s : State) (fs : Nat) (p0 b0 s0 i0 w0 : Nat) : (State.fabDegradedClear s fs).ent p0 b0 s0 i0 w0 = s.ent p0 b0 s0 i0 w0 := rfl
@[simp] theorem State.fabDegradedClear_entF (s : State) (fs : Nat) (p0 b0 s0 i0 w0 l0 n0 : Nat) : (State.fabDegradedClear s fs).entF p0 b0 s0 i0 w0 l0 n0 = s.entF p0 b0 s0 i0 w0 l0 n0 := rfl
@[simp] theorem State.fabDegradedClear_memByte (s : State) (fs : Nat) (a0 : Nat) : (State.fabDegradedClear s fs).memByte a0 = s.memByte a0 := rfl

/-! ### State.tryAgain -/

@[simp] theorem State.tryAgain_regs (s : State) : (State.tryAgain s).regs = s.regs := rfl
@[simp] theorem State.tryAgain_tbl (s : State) : (State.tryAgain s).tbl = s.tbl := rfl
@[simp] theorem State.tryAgain_mem (s : State) : (State.tryAgain s).mem = s.mem := rfl
@[simp] theorem State.tryAgain_beat (s : State) : (State.tryAgain s).beat = s.beat := rfl
@[simp] theorem State.tryAgain_free (s : State) : (State.tryAgain s).free = s.free := rfl
@[simp] theorem State.tryAgain_bus (s : State) : (State.tryAgain s).bus = s.bus := rfl
@[simp] theorem State.tryAgain_host (s : State) : (State.tryAgain s).host = s.host := rfl
@[simp] theorem State.tryAgain_fuse (s : State) : (State.tryAgain s).fuse = s.fuse := rfl
@[simp] theorem State.tryAgain_key (s : State) : (State.tryAgain s).key = s.key := rfl
@[simp] theorem State.tryAgain_lanes (s : State) : (State.tryAgain s).lanes = s.lanes := rfl
@[simp] theorem State.tryAgain_epv (s : State) : (State.tryAgain s).epv = s.epv := rfl
@[simp] theorem State.tryAgain_saSent (s : State) : (State.tryAgain s).saSent = s.saSent := rfl
@[simp] theorem State.tryAgain_tbs (s : State) : (State.tryAgain s).tbs = s.tbs := rfl
@[simp] theorem State.tryAgain_cmp (s : State) : (State.tryAgain s).cmp = s.cmp := rfl
@[simp] theorem State.tryAgain_cand (s : State) : (State.tryAgain s).cand = s.cand := rfl
@[simp] theorem State.tryAgain_gbus (s : State) : (State.tryAgain s).gbus = s.gbus := rfl
@[simp] theorem State.tryAgain_mgt (s : State) : (State.tryAgain s).mgt = s.mgt := rfl
@[simp] theorem State.tryAgain_flt (s : State) : (State.tryAgain s).flt = s.flt := rfl
@[simp] theorem State.tryAgain_pwr (s : State) : (State.tryAgain s).pwr = s.pwr := rfl
@[simp] theorem State.tryAgain_fab (s : State) : (State.tryAgain s).fab = s.fab := rfl
@[simp] theorem State.tryAgain_pad (s : State) : (State.tryAgain s).pad = s.pad := rfl
@[simp] theorem State.tryAgain_merge (s : State) : (State.tryAgain s).merge = s.merge := rfl
@[simp] theorem State.tryAgain_flowHigh (s : State) : (State.tryAgain s).flowHigh = s.flowHigh := rfl
@[simp] theorem State.tryAgain_reel (s : State) : (State.tryAgain s).reel = s.reel := rfl
@[simp] theorem State.tryAgain_egr (s : State) : (State.tryAgain s).egr = s.egr := rfl
@[simp] theorem State.tryAgain_remote (s : State) : (State.tryAgain s).remote = s.remote := rfl
@[simp] theorem State.tryAgain_ports (s : State) : (State.tryAgain s).ports = s.ports := rfl
@[simp] theorem State.tryAgain_aud (s : State) : (State.tryAgain s).aud = s.aud := rfl
@[simp] theorem State.tryAgain_fol (s : State) : (State.tryAgain s).fol = s.fol := rfl
@[simp] theorem State.tryAgain_mon (s : State) : (State.tryAgain s).mon = s.mon := rfl
@[simp] theorem State.tryAgain_occ (s : State) : (State.tryAgain s).occ = s.occ := rfl
@[simp] theorem State.tryAgain_out (s : State) : (State.tryAgain s).out = s.out := rfl
@[simp] theorem State.tryAgain_pending (s : State) : (State.tryAgain s).pending = s.pending := rfl
@[simp] theorem State.tryAgain_rd (s : State) (b0 a0 : Nat) : (State.tryAgain s).rd b0 a0 = s.rd b0 a0 := rfl
@[simp] theorem State.tryAgain_rdF (s : State) (b0 a0 l0 n0 : Nat) : (State.tryAgain s).rdF b0 a0 l0 n0 = s.rdF b0 a0 l0 n0 := rfl
@[simp] theorem State.tryAgain_ent (s : State) (p0 b0 s0 i0 w0 : Nat) : (State.tryAgain s).ent p0 b0 s0 i0 w0 = s.ent p0 b0 s0 i0 w0 := rfl
@[simp] theorem State.tryAgain_entF (s : State) (p0 b0 s0 i0 w0 l0 n0 : Nat) : (State.tryAgain s).entF p0 b0 s0 i0 w0 l0 n0 = s.entF p0 b0 s0 i0 w0 l0 n0 := rfl
@[simp] theorem State.tryAgain_memByte (s : State) (a0 : Nat) : (State.tryAgain s).memByte a0 = s.memByte a0 := rfl

/-! ### State.moveSwitch -/

@[simp] theorem State.moveSwitch_regs (s : State) (m : MoveRec) : (State.moveSwitch s m).regs = s.regs := rfl
@[simp] theorem State.moveSwitch_tbl (s : State) (m : MoveRec) : (State.moveSwitch s m).tbl = s.tbl := rfl
@[simp] theorem State.moveSwitch_mem (s : State) (m : MoveRec) : (State.moveSwitch s m).mem = s.mem := rfl
@[simp] theorem State.moveSwitch_beat (s : State) (m : MoveRec) : (State.moveSwitch s m).beat = s.beat := rfl
@[simp] theorem State.moveSwitch_free (s : State) (m : MoveRec) : (State.moveSwitch s m).free = s.free := rfl
@[simp] theorem State.moveSwitch_bus (s : State) (m : MoveRec) : (State.moveSwitch s m).bus = s.bus := rfl
@[simp] theorem State.moveSwitch_host (s : State) (m : MoveRec) : (State.moveSwitch s m).host = s.host := rfl
@[simp] theorem State.moveSwitch_fuse (s : State) (m : MoveRec) : (State.moveSwitch s m).fuse = s.fuse := rfl
@[simp] theorem State.moveSwitch_key (s : State) (m : MoveRec) : (State.moveSwitch s m).key = s.key := rfl
@[simp] theorem State.moveSwitch_lanes (s : State) (m : MoveRec) : (State.moveSwitch s m).lanes = s.lanes := rfl
@[simp] theorem State.moveSwitch_epv (s : State) (m : MoveRec) : (State.moveSwitch s m).epv = s.epv := rfl
@[simp] theorem State.moveSwitch_saSent (s : State) (m : MoveRec) : (State.moveSwitch s m).saSent = s.saSent := rfl
@[simp] theorem State.moveSwitch_tbs (s : State) (m : MoveRec) : (State.moveSwitch s m).tbs = s.tbs := rfl
@[simp] theorem State.moveSwitch_cmp (s : State) (m : MoveRec) : (State.moveSwitch s m).cmp = s.cmp := rfl
@[simp] theorem State.moveSwitch_cand (s : State) (m : MoveRec) : (State.moveSwitch s m).cand = s.cand := rfl
@[simp] theorem State.moveSwitch_gbus (s : State) (m : MoveRec) : (State.moveSwitch s m).gbus = s.gbus := rfl
@[simp] theorem State.moveSwitch_mgt (s : State) (m : MoveRec) : (State.moveSwitch s m).mgt = s.mgt := rfl
@[simp] theorem State.moveSwitch_flt (s : State) (m : MoveRec) : (State.moveSwitch s m).flt = s.flt := rfl
@[simp] theorem State.moveSwitch_pwr (s : State) (m : MoveRec) : (State.moveSwitch s m).pwr = s.pwr := rfl
@[simp] theorem State.moveSwitch_take (s : State) (m : MoveRec) : (State.moveSwitch s m).take = s.take := rfl
@[simp] theorem State.moveSwitch_pad (s : State) (m : MoveRec) : (State.moveSwitch s m).pad = s.pad := rfl
@[simp] theorem State.moveSwitch_merge (s : State) (m : MoveRec) : (State.moveSwitch s m).merge = s.merge := rfl
@[simp] theorem State.moveSwitch_flowHigh (s : State) (m : MoveRec) : (State.moveSwitch s m).flowHigh = s.flowHigh := rfl
@[simp] theorem State.moveSwitch_reel (s : State) (m : MoveRec) : (State.moveSwitch s m).reel = s.reel := rfl
@[simp] theorem State.moveSwitch_egr (s : State) (m : MoveRec) : (State.moveSwitch s m).egr = s.egr := rfl
@[simp] theorem State.moveSwitch_remote (s : State) (m : MoveRec) : (State.moveSwitch s m).remote = s.remote := rfl
@[simp] theorem State.moveSwitch_ports (s : State) (m : MoveRec) : (State.moveSwitch s m).ports = s.ports := rfl
@[simp] theorem State.moveSwitch_aud (s : State) (m : MoveRec) : (State.moveSwitch s m).aud = s.aud := rfl
@[simp] theorem State.moveSwitch_fol (s : State) (m : MoveRec) : (State.moveSwitch s m).fol = s.fol := rfl
@[simp] theorem State.moveSwitch_mon (s : State) (m : MoveRec) : (State.moveSwitch s m).mon = s.mon := rfl
@[simp] theorem State.moveSwitch_occ (s : State) (m : MoveRec) : (State.moveSwitch s m).occ = s.occ := rfl
@[simp] theorem State.moveSwitch_out (s : State) (m : MoveRec) : (State.moveSwitch s m).out = s.out := rfl
@[simp] theorem State.moveSwitch_pending (s : State) (m : MoveRec) : (State.moveSwitch s m).pending = s.pending := rfl
@[simp] theorem State.moveSwitch_rd (s : State) (m : MoveRec) (b0 a0 : Nat) : (State.moveSwitch s m).rd b0 a0 = s.rd b0 a0 := rfl
@[simp] theorem State.moveSwitch_rdF (s : State) (m : MoveRec) (b0 a0 l0 n0 : Nat) : (State.moveSwitch s m).rdF b0 a0 l0 n0 = s.rdF b0 a0 l0 n0 := rfl
@[simp] theorem State.moveSwitch_ent (s : State) (m : MoveRec) (p0 b0 s0 i0 w0 : Nat) : (State.moveSwitch s m).ent p0 b0 s0 i0 w0 = s.ent p0 b0 s0 i0 w0 := rfl
@[simp] theorem State.moveSwitch_entF (s : State) (m : MoveRec) (p0 b0 s0 i0 w0 l0 n0 : Nat) : (State.moveSwitch s m).entF p0 b0 s0 i0 w0 l0 n0 = s.entF p0 b0 s0 i0 w0 l0 n0 := rfl
@[simp] theorem State.moveSwitch_memByte (s : State) (m : MoveRec) (a0 : Nat) : (State.moveSwitch s m).memByte a0 = s.memByte a0 := rfl

/-! ### State.moveOver -/

@[simp] theorem State.moveOver_regs (s : State) (m : MoveRec) : (State.moveOver s m).regs = s.regs := rfl
@[simp] theorem State.moveOver_tbl (s : State) (m : MoveRec) : (State.moveOver s m).tbl = s.tbl := rfl
@[simp] theorem State.moveOver_mem (s : State) (m : MoveRec) : (State.moveOver s m).mem = s.mem := rfl
@[simp] theorem State.moveOver_beat (s : State) (m : MoveRec) : (State.moveOver s m).beat = s.beat := rfl
@[simp] theorem State.moveOver_free (s : State) (m : MoveRec) : (State.moveOver s m).free = s.free := rfl
@[simp] theorem State.moveOver_bus (s : State) (m : MoveRec) : (State.moveOver s m).bus = s.bus := rfl
@[simp] theorem State.moveOver_host (s : State) (m : MoveRec) : (State.moveOver s m).host = s.host := rfl
@[simp] theorem State.moveOver_fuse (s : State) (m : MoveRec) : (State.moveOver s m).fuse = s.fuse := rfl
@[simp] theorem State.moveOver_key (s : State) (m : MoveRec) : (State.moveOver s m).key = s.key := rfl
@[simp] theorem State.moveOver_lanes (s : State) (m : MoveRec) : (State.moveOver s m).lanes = s.lanes := rfl
@[simp] theorem State.moveOver_epv (s : State) (m : MoveRec) : (State.moveOver s m).epv = s.epv := rfl
@[simp] theorem State.moveOver_saSent (s : State) (m : MoveRec) : (State.moveOver s m).saSent = s.saSent := rfl
@[simp] theorem State.moveOver_tbs (s : State) (m : MoveRec) : (State.moveOver s m).tbs = s.tbs := rfl
@[simp] theorem State.moveOver_cmp (s : State) (m : MoveRec) : (State.moveOver s m).cmp = s.cmp := rfl
@[simp] theorem State.moveOver_cand (s : State) (m : MoveRec) : (State.moveOver s m).cand = s.cand := rfl
@[simp] theorem State.moveOver_gbus (s : State) (m : MoveRec) : (State.moveOver s m).gbus = s.gbus := rfl
@[simp] theorem State.moveOver_mgt (s : State) (m : MoveRec) : (State.moveOver s m).mgt = s.mgt := rfl
@[simp] theorem State.moveOver_flt (s : State) (m : MoveRec) : (State.moveOver s m).flt = s.flt := rfl
@[simp] theorem State.moveOver_pwr (s : State) (m : MoveRec) : (State.moveOver s m).pwr = s.pwr := rfl
@[simp] theorem State.moveOver_pad (s : State) (m : MoveRec) : (State.moveOver s m).pad = s.pad := rfl
@[simp] theorem State.moveOver_merge (s : State) (m : MoveRec) : (State.moveOver s m).merge = s.merge := rfl
@[simp] theorem State.moveOver_flowHigh (s : State) (m : MoveRec) : (State.moveOver s m).flowHigh = s.flowHigh := rfl
@[simp] theorem State.moveOver_reel (s : State) (m : MoveRec) : (State.moveOver s m).reel = s.reel := rfl
@[simp] theorem State.moveOver_egr (s : State) (m : MoveRec) : (State.moveOver s m).egr = s.egr := rfl
@[simp] theorem State.moveOver_remote (s : State) (m : MoveRec) : (State.moveOver s m).remote = s.remote := rfl
@[simp] theorem State.moveOver_ports (s : State) (m : MoveRec) : (State.moveOver s m).ports = s.ports := rfl
@[simp] theorem State.moveOver_aud (s : State) (m : MoveRec) : (State.moveOver s m).aud = s.aud := rfl
@[simp] theorem State.moveOver_fol (s : State) (m : MoveRec) : (State.moveOver s m).fol = s.fol := rfl
@[simp] theorem State.moveOver_mon (s : State) (m : MoveRec) : (State.moveOver s m).mon = s.mon := rfl
@[simp] theorem State.moveOver_occ (s : State) (m : MoveRec) : (State.moveOver s m).occ = s.occ := rfl
@[simp] theorem State.moveOver_out (s : State) (m : MoveRec) : (State.moveOver s m).out = s.out := rfl
@[simp] theorem State.moveOver_pending (s : State) (m : MoveRec) : (State.moveOver s m).pending = s.pending := rfl
@[simp] theorem State.moveOver_rd (s : State) (m : MoveRec) (b0 a0 : Nat) : (State.moveOver s m).rd b0 a0 = s.rd b0 a0 := rfl
@[simp] theorem State.moveOver_rdF (s : State) (m : MoveRec) (b0 a0 l0 n0 : Nat) : (State.moveOver s m).rdF b0 a0 l0 n0 = s.rdF b0 a0 l0 n0 := rfl
@[simp] theorem State.moveOver_ent (s : State) (m : MoveRec) (p0 b0 s0 i0 w0 : Nat) : (State.moveOver s m).ent p0 b0 s0 i0 w0 = s.ent p0 b0 s0 i0 w0 := rfl
@[simp] theorem State.moveOver_entF (s : State) (m : MoveRec) (p0 b0 s0 i0 w0 l0 n0 : Nat) : (State.moveOver s m).entF p0 b0 s0 i0 w0 l0 n0 = s.entF p0 b0 s0 i0 w0 l0 n0 := rfl
@[simp] theorem State.moveOver_memByte (s : State) (m : MoveRec) (a0 : Nat) : (State.moveOver s m).memByte a0 = s.memByte a0 := rfl

/-! ### State.setQrec -/

@[simp] theorem State.setQrec_regs (s : State) (q : Nat) (rx : Bool) (r : QRec) : (State.setQrec s q rx r).regs = s.regs := rfl
@[simp] theorem State.setQrec_tbl (s : State) (q : Nat) (rx : Bool) (r : QRec) : (State.setQrec s q rx r).tbl = s.tbl := rfl
@[simp] theorem State.setQrec_mem (s : State) (q : Nat) (rx : Bool) (r : QRec) : (State.setQrec s q rx r).mem = s.mem := rfl
@[simp] theorem State.setQrec_beat (s : State) (q : Nat) (rx : Bool) (r : QRec) : (State.setQrec s q rx r).beat = s.beat := rfl
@[simp] theorem State.setQrec_free (s : State) (q : Nat) (rx : Bool) (r : QRec) : (State.setQrec s q rx r).free = s.free := rfl
@[simp] theorem State.setQrec_bus (s : State) (q : Nat) (rx : Bool) (r : QRec) : (State.setQrec s q rx r).bus = s.bus := rfl
@[simp] theorem State.setQrec_fuse (s : State) (q : Nat) (rx : Bool) (r : QRec) : (State.setQrec s q rx r).fuse = s.fuse := rfl
@[simp] theorem State.setQrec_key (s : State) (q : Nat) (rx : Bool) (r : QRec) : (State.setQrec s q rx r).key = s.key := rfl
@[simp] theorem State.setQrec_lanes (s : State) (q : Nat) (rx : Bool) (r : QRec) : (State.setQrec s q rx r).lanes = s.lanes := rfl
@[simp] theorem State.setQrec_epv (s : State) (q : Nat) (rx : Bool) (r : QRec) : (State.setQrec s q rx r).epv = s.epv := rfl
@[simp] theorem State.setQrec_saSent (s : State) (q : Nat) (rx : Bool) (r : QRec) : (State.setQrec s q rx r).saSent = s.saSent := rfl
@[simp] theorem State.setQrec_tbs (s : State) (q : Nat) (rx : Bool) (r : QRec) : (State.setQrec s q rx r).tbs = s.tbs := rfl
@[simp] theorem State.setQrec_cmp (s : State) (q : Nat) (rx : Bool) (r : QRec) : (State.setQrec s q rx r).cmp = s.cmp := rfl
@[simp] theorem State.setQrec_cand (s : State) (q : Nat) (rx : Bool) (r : QRec) : (State.setQrec s q rx r).cand = s.cand := rfl
@[simp] theorem State.setQrec_gbus (s : State) (q : Nat) (rx : Bool) (r : QRec) : (State.setQrec s q rx r).gbus = s.gbus := rfl
@[simp] theorem State.setQrec_mgt (s : State) (q : Nat) (rx : Bool) (r : QRec) : (State.setQrec s q rx r).mgt = s.mgt := rfl
@[simp] theorem State.setQrec_flt (s : State) (q : Nat) (rx : Bool) (r : QRec) : (State.setQrec s q rx r).flt = s.flt := rfl
@[simp] theorem State.setQrec_pwr (s : State) (q : Nat) (rx : Bool) (r : QRec) : (State.setQrec s q rx r).pwr = s.pwr := rfl
@[simp] theorem State.setQrec_fab (s : State) (q : Nat) (rx : Bool) (r : QRec) : (State.setQrec s q rx r).fab = s.fab := rfl
@[simp] theorem State.setQrec_take (s : State) (q : Nat) (rx : Bool) (r : QRec) : (State.setQrec s q rx r).take = s.take := rfl
@[simp] theorem State.setQrec_pad (s : State) (q : Nat) (rx : Bool) (r : QRec) : (State.setQrec s q rx r).pad = s.pad := rfl
@[simp] theorem State.setQrec_merge (s : State) (q : Nat) (rx : Bool) (r : QRec) : (State.setQrec s q rx r).merge = s.merge := rfl
@[simp] theorem State.setQrec_flowHigh (s : State) (q : Nat) (rx : Bool) (r : QRec) : (State.setQrec s q rx r).flowHigh = s.flowHigh := rfl
@[simp] theorem State.setQrec_reel (s : State) (q : Nat) (rx : Bool) (r : QRec) : (State.setQrec s q rx r).reel = s.reel := rfl
@[simp] theorem State.setQrec_egr (s : State) (q : Nat) (rx : Bool) (r : QRec) : (State.setQrec s q rx r).egr = s.egr := rfl
@[simp] theorem State.setQrec_remote (s : State) (q : Nat) (rx : Bool) (r : QRec) : (State.setQrec s q rx r).remote = s.remote := rfl
@[simp] theorem State.setQrec_ports (s : State) (q : Nat) (rx : Bool) (r : QRec) : (State.setQrec s q rx r).ports = s.ports := rfl
@[simp] theorem State.setQrec_aud (s : State) (q : Nat) (rx : Bool) (r : QRec) : (State.setQrec s q rx r).aud = s.aud := rfl
@[simp] theorem State.setQrec_fol (s : State) (q : Nat) (rx : Bool) (r : QRec) : (State.setQrec s q rx r).fol = s.fol := rfl
@[simp] theorem State.setQrec_mon (s : State) (q : Nat) (rx : Bool) (r : QRec) : (State.setQrec s q rx r).mon = s.mon := rfl
@[simp] theorem State.setQrec_occ (s : State) (q : Nat) (rx : Bool) (r : QRec) : (State.setQrec s q rx r).occ = s.occ := rfl
@[simp] theorem State.setQrec_out (s : State) (q : Nat) (rx : Bool) (r : QRec) : (State.setQrec s q rx r).out = s.out := rfl
@[simp] theorem State.setQrec_pending (s : State) (q : Nat) (rx : Bool) (r : QRec) : (State.setQrec s q rx r).pending = s.pending := rfl
@[simp] theorem State.setQrec_rd (s : State) (q : Nat) (rx : Bool) (r : QRec) (b0 a0 : Nat) : (State.setQrec s q rx r).rd b0 a0 = s.rd b0 a0 := rfl
@[simp] theorem State.setQrec_rdF (s : State) (q : Nat) (rx : Bool) (r : QRec) (b0 a0 l0 n0 : Nat) : (State.setQrec s q rx r).rdF b0 a0 l0 n0 = s.rdF b0 a0 l0 n0 := rfl
@[simp] theorem State.setQrec_ent (s : State) (q : Nat) (rx : Bool) (r : QRec) (p0 b0 s0 i0 w0 : Nat) : (State.setQrec s q rx r).ent p0 b0 s0 i0 w0 = s.ent p0 b0 s0 i0 w0 := rfl
@[simp] theorem State.setQrec_entF (s : State) (q : Nat) (rx : Bool) (r : QRec) (p0 b0 s0 i0 w0 l0 n0 : Nat) : (State.setQrec s q rx r).entF p0 b0 s0 i0 w0 l0 n0 = s.entF p0 b0 s0 i0 w0 l0 n0 := rfl
@[simp] theorem State.setQrec_memByte (s : State) (q : Nat) (rx : Bool) (r : QRec) (a0 : Nat) : (State.setQrec s q rx r).memByte a0 = s.memByte a0 := rfl

/-! ### State.setLane -/

@[simp] theorem State.setLane_regs (s : State) (l : Nat) (r : LaneRec) : (State.setLane s l r).regs = s.regs := rfl
@[simp] theorem State.setLane_tbl (s : State) (l : Nat) (r : LaneRec) : (State.setLane s l r).tbl = s.tbl := rfl
@[simp] theorem State.setLane_mem (s : State) (l : Nat) (r : LaneRec) : (State.setLane s l r).mem = s.mem := rfl
@[simp] theorem State.setLane_beat (s : State) (l : Nat) (r : LaneRec) : (State.setLane s l r).beat = s.beat := rfl
@[simp] theorem State.setLane_free (s : State) (l : Nat) (r : LaneRec) : (State.setLane s l r).free = s.free := rfl
@[simp] theorem State.setLane_bus (s : State) (l : Nat) (r : LaneRec) : (State.setLane s l r).bus = s.bus := rfl
@[simp] theorem State.setLane_host (s : State) (l : Nat) (r : LaneRec) : (State.setLane s l r).host = s.host := rfl
@[simp] theorem State.setLane_fuse (s : State) (l : Nat) (r : LaneRec) : (State.setLane s l r).fuse = s.fuse := rfl
@[simp] theorem State.setLane_key (s : State) (l : Nat) (r : LaneRec) : (State.setLane s l r).key = s.key := rfl
@[simp] theorem State.setLane_epv (s : State) (l : Nat) (r : LaneRec) : (State.setLane s l r).epv = s.epv := rfl
@[simp] theorem State.setLane_saSent (s : State) (l : Nat) (r : LaneRec) : (State.setLane s l r).saSent = s.saSent := rfl
@[simp] theorem State.setLane_tbs (s : State) (l : Nat) (r : LaneRec) : (State.setLane s l r).tbs = s.tbs := rfl
@[simp] theorem State.setLane_cmp (s : State) (l : Nat) (r : LaneRec) : (State.setLane s l r).cmp = s.cmp := rfl
@[simp] theorem State.setLane_cand (s : State) (l : Nat) (r : LaneRec) : (State.setLane s l r).cand = s.cand := rfl
@[simp] theorem State.setLane_gbus (s : State) (l : Nat) (r : LaneRec) : (State.setLane s l r).gbus = s.gbus := rfl
@[simp] theorem State.setLane_mgt (s : State) (l : Nat) (r : LaneRec) : (State.setLane s l r).mgt = s.mgt := rfl
@[simp] theorem State.setLane_flt (s : State) (l : Nat) (r : LaneRec) : (State.setLane s l r).flt = s.flt := rfl
@[simp] theorem State.setLane_pwr (s : State) (l : Nat) (r : LaneRec) : (State.setLane s l r).pwr = s.pwr := rfl
@[simp] theorem State.setLane_fab (s : State) (l : Nat) (r : LaneRec) : (State.setLane s l r).fab = s.fab := rfl
@[simp] theorem State.setLane_take (s : State) (l : Nat) (r : LaneRec) : (State.setLane s l r).take = s.take := rfl
@[simp] theorem State.setLane_pad (s : State) (l : Nat) (r : LaneRec) : (State.setLane s l r).pad = s.pad := rfl
@[simp] theorem State.setLane_merge (s : State) (l : Nat) (r : LaneRec) : (State.setLane s l r).merge = s.merge := rfl
@[simp] theorem State.setLane_flowHigh (s : State) (l : Nat) (r : LaneRec) : (State.setLane s l r).flowHigh = s.flowHigh := rfl
@[simp] theorem State.setLane_reel (s : State) (l : Nat) (r : LaneRec) : (State.setLane s l r).reel = s.reel := rfl
@[simp] theorem State.setLane_egr (s : State) (l : Nat) (r : LaneRec) : (State.setLane s l r).egr = s.egr := rfl
@[simp] theorem State.setLane_remote (s : State) (l : Nat) (r : LaneRec) : (State.setLane s l r).remote = s.remote := rfl
@[simp] theorem State.setLane_ports (s : State) (l : Nat) (r : LaneRec) : (State.setLane s l r).ports = s.ports := rfl
@[simp] theorem State.setLane_aud (s : State) (l : Nat) (r : LaneRec) : (State.setLane s l r).aud = s.aud := rfl
@[simp] theorem State.setLane_fol (s : State) (l : Nat) (r : LaneRec) : (State.setLane s l r).fol = s.fol := rfl
@[simp] theorem State.setLane_mon (s : State) (l : Nat) (r : LaneRec) : (State.setLane s l r).mon = s.mon := rfl
@[simp] theorem State.setLane_occ (s : State) (l : Nat) (r : LaneRec) : (State.setLane s l r).occ = s.occ := rfl
@[simp] theorem State.setLane_out (s : State) (l : Nat) (r : LaneRec) : (State.setLane s l r).out = s.out := rfl
@[simp] theorem State.setLane_pending (s : State) (l : Nat) (r : LaneRec) : (State.setLane s l r).pending = s.pending := rfl
@[simp] theorem State.setLane_rd (s : State) (l : Nat) (r : LaneRec) (b0 a0 : Nat) : (State.setLane s l r).rd b0 a0 = s.rd b0 a0 := rfl
@[simp] theorem State.setLane_rdF (s : State) (l : Nat) (r : LaneRec) (b0 a0 l0 n0 : Nat) : (State.setLane s l r).rdF b0 a0 l0 n0 = s.rdF b0 a0 l0 n0 := rfl
@[simp] theorem State.setLane_ent (s : State) (l : Nat) (r : LaneRec) (p0 b0 s0 i0 w0 : Nat) : (State.setLane s l r).ent p0 b0 s0 i0 w0 = s.ent p0 b0 s0 i0 w0 := rfl
@[simp] theorem State.setLane_entF (s : State) (l : Nat) (r : LaneRec) (p0 b0 s0 i0 w0 l0 n0 : Nat) : (State.setLane s l r).entF p0 b0 s0 i0 w0 l0 n0 = s.entF p0 b0 s0 i0 w0 l0 n0 := rfl
@[simp] theorem State.setLane_memByte (s : State) (l : Nat) (r : LaneRec) (a0 : Nat) : (State.setLane s l r).memByte a0 = s.memByte a0 := rfl

/-! ### State.setEpv -/

@[simp] theorem State.setEpv_regs (s : State) (b : Nat) (r : EpvRec) : (State.setEpv s b r).regs = s.regs := rfl
@[simp] theorem State.setEpv_tbl (s : State) (b : Nat) (r : EpvRec) : (State.setEpv s b r).tbl = s.tbl := rfl
@[simp] theorem State.setEpv_mem (s : State) (b : Nat) (r : EpvRec) : (State.setEpv s b r).mem = s.mem := rfl
@[simp] theorem State.setEpv_beat (s : State) (b : Nat) (r : EpvRec) : (State.setEpv s b r).beat = s.beat := rfl
@[simp] theorem State.setEpv_free (s : State) (b : Nat) (r : EpvRec) : (State.setEpv s b r).free = s.free := rfl
@[simp] theorem State.setEpv_bus (s : State) (b : Nat) (r : EpvRec) : (State.setEpv s b r).bus = s.bus := rfl
@[simp] theorem State.setEpv_host (s : State) (b : Nat) (r : EpvRec) : (State.setEpv s b r).host = s.host := rfl
@[simp] theorem State.setEpv_fuse (s : State) (b : Nat) (r : EpvRec) : (State.setEpv s b r).fuse = s.fuse := rfl
@[simp] theorem State.setEpv_key (s : State) (b : Nat) (r : EpvRec) : (State.setEpv s b r).key = s.key := rfl
@[simp] theorem State.setEpv_lanes (s : State) (b : Nat) (r : EpvRec) : (State.setEpv s b r).lanes = s.lanes := rfl
@[simp] theorem State.setEpv_saSent (s : State) (b : Nat) (r : EpvRec) : (State.setEpv s b r).saSent = s.saSent := rfl
@[simp] theorem State.setEpv_tbs (s : State) (b : Nat) (r : EpvRec) : (State.setEpv s b r).tbs = s.tbs := rfl
@[simp] theorem State.setEpv_cmp (s : State) (b : Nat) (r : EpvRec) : (State.setEpv s b r).cmp = s.cmp := rfl
@[simp] theorem State.setEpv_cand (s : State) (b : Nat) (r : EpvRec) : (State.setEpv s b r).cand = s.cand := rfl
@[simp] theorem State.setEpv_gbus (s : State) (b : Nat) (r : EpvRec) : (State.setEpv s b r).gbus = s.gbus := rfl
@[simp] theorem State.setEpv_mgt (s : State) (b : Nat) (r : EpvRec) : (State.setEpv s b r).mgt = s.mgt := rfl
@[simp] theorem State.setEpv_flt (s : State) (b : Nat) (r : EpvRec) : (State.setEpv s b r).flt = s.flt := rfl
@[simp] theorem State.setEpv_pwr (s : State) (b : Nat) (r : EpvRec) : (State.setEpv s b r).pwr = s.pwr := rfl
@[simp] theorem State.setEpv_fab (s : State) (b : Nat) (r : EpvRec) : (State.setEpv s b r).fab = s.fab := rfl
@[simp] theorem State.setEpv_take (s : State) (b : Nat) (r : EpvRec) : (State.setEpv s b r).take = s.take := rfl
@[simp] theorem State.setEpv_pad (s : State) (b : Nat) (r : EpvRec) : (State.setEpv s b r).pad = s.pad := rfl
@[simp] theorem State.setEpv_merge (s : State) (b : Nat) (r : EpvRec) : (State.setEpv s b r).merge = s.merge := rfl
@[simp] theorem State.setEpv_flowHigh (s : State) (b : Nat) (r : EpvRec) : (State.setEpv s b r).flowHigh = s.flowHigh := rfl
@[simp] theorem State.setEpv_reel (s : State) (b : Nat) (r : EpvRec) : (State.setEpv s b r).reel = s.reel := rfl
@[simp] theorem State.setEpv_egr (s : State) (b : Nat) (r : EpvRec) : (State.setEpv s b r).egr = s.egr := rfl
@[simp] theorem State.setEpv_remote (s : State) (b : Nat) (r : EpvRec) : (State.setEpv s b r).remote = s.remote := rfl
@[simp] theorem State.setEpv_ports (s : State) (b : Nat) (r : EpvRec) : (State.setEpv s b r).ports = s.ports := rfl
@[simp] theorem State.setEpv_aud (s : State) (b : Nat) (r : EpvRec) : (State.setEpv s b r).aud = s.aud := rfl
@[simp] theorem State.setEpv_fol (s : State) (b : Nat) (r : EpvRec) : (State.setEpv s b r).fol = s.fol := rfl
@[simp] theorem State.setEpv_mon (s : State) (b : Nat) (r : EpvRec) : (State.setEpv s b r).mon = s.mon := rfl
@[simp] theorem State.setEpv_occ (s : State) (b : Nat) (r : EpvRec) : (State.setEpv s b r).occ = s.occ := rfl
@[simp] theorem State.setEpv_out (s : State) (b : Nat) (r : EpvRec) : (State.setEpv s b r).out = s.out := rfl
@[simp] theorem State.setEpv_pending (s : State) (b : Nat) (r : EpvRec) : (State.setEpv s b r).pending = s.pending := rfl
@[simp] theorem State.setEpv_rd (s : State) (b : Nat) (r : EpvRec) (b0 a0 : Nat) : (State.setEpv s b r).rd b0 a0 = s.rd b0 a0 := rfl
@[simp] theorem State.setEpv_rdF (s : State) (b : Nat) (r : EpvRec) (b0 a0 l0 n0 : Nat) : (State.setEpv s b r).rdF b0 a0 l0 n0 = s.rdF b0 a0 l0 n0 := rfl
@[simp] theorem State.setEpv_ent (s : State) (b : Nat) (r : EpvRec) (p0 b0 s0 i0 w0 : Nat) : (State.setEpv s b r).ent p0 b0 s0 i0 w0 = s.ent p0 b0 s0 i0 w0 := rfl
@[simp] theorem State.setEpv_entF (s : State) (b : Nat) (r : EpvRec) (p0 b0 s0 i0 w0 l0 n0 : Nat) : (State.setEpv s b r).entF p0 b0 s0 i0 w0 l0 n0 = s.entF p0 b0 s0 i0 w0 l0 n0 := rfl
@[simp] theorem State.setEpv_memByte (s : State) (b : Nat) (r : EpvRec) (a0 : Nat) : (State.setEpv s b r).memByte a0 = s.memByte a0 := rfl

/-! ### State.setCell -/

@[simp] theorem State.setCell_regs (s : State) (h : Nat) (c : KeyCell) : (State.setCell s h c).regs = s.regs := rfl
@[simp] theorem State.setCell_tbl (s : State) (h : Nat) (c : KeyCell) : (State.setCell s h c).tbl = s.tbl := rfl
@[simp] theorem State.setCell_mem (s : State) (h : Nat) (c : KeyCell) : (State.setCell s h c).mem = s.mem := rfl
@[simp] theorem State.setCell_beat (s : State) (h : Nat) (c : KeyCell) : (State.setCell s h c).beat = s.beat := rfl
@[simp] theorem State.setCell_free (s : State) (h : Nat) (c : KeyCell) : (State.setCell s h c).free = s.free := rfl
@[simp] theorem State.setCell_bus (s : State) (h : Nat) (c : KeyCell) : (State.setCell s h c).bus = s.bus := rfl
@[simp] theorem State.setCell_host (s : State) (h : Nat) (c : KeyCell) : (State.setCell s h c).host = s.host := rfl
@[simp] theorem State.setCell_fuse (s : State) (h : Nat) (c : KeyCell) : (State.setCell s h c).fuse = s.fuse := rfl
@[simp] theorem State.setCell_lanes (s : State) (h : Nat) (c : KeyCell) : (State.setCell s h c).lanes = s.lanes := rfl
@[simp] theorem State.setCell_epv (s : State) (h : Nat) (c : KeyCell) : (State.setCell s h c).epv = s.epv := rfl
@[simp] theorem State.setCell_saSent (s : State) (h : Nat) (c : KeyCell) : (State.setCell s h c).saSent = s.saSent := rfl
@[simp] theorem State.setCell_tbs (s : State) (h : Nat) (c : KeyCell) : (State.setCell s h c).tbs = s.tbs := rfl
@[simp] theorem State.setCell_cmp (s : State) (h : Nat) (c : KeyCell) : (State.setCell s h c).cmp = s.cmp := rfl
@[simp] theorem State.setCell_cand (s : State) (h : Nat) (c : KeyCell) : (State.setCell s h c).cand = s.cand := rfl
@[simp] theorem State.setCell_gbus (s : State) (h : Nat) (c : KeyCell) : (State.setCell s h c).gbus = s.gbus := rfl
@[simp] theorem State.setCell_mgt (s : State) (h : Nat) (c : KeyCell) : (State.setCell s h c).mgt = s.mgt := rfl
@[simp] theorem State.setCell_flt (s : State) (h : Nat) (c : KeyCell) : (State.setCell s h c).flt = s.flt := rfl
@[simp] theorem State.setCell_pwr (s : State) (h : Nat) (c : KeyCell) : (State.setCell s h c).pwr = s.pwr := rfl
@[simp] theorem State.setCell_fab (s : State) (h : Nat) (c : KeyCell) : (State.setCell s h c).fab = s.fab := rfl
@[simp] theorem State.setCell_take (s : State) (h : Nat) (c : KeyCell) : (State.setCell s h c).take = s.take := rfl
@[simp] theorem State.setCell_pad (s : State) (h : Nat) (c : KeyCell) : (State.setCell s h c).pad = s.pad := rfl
@[simp] theorem State.setCell_merge (s : State) (h : Nat) (c : KeyCell) : (State.setCell s h c).merge = s.merge := rfl
@[simp] theorem State.setCell_flowHigh (s : State) (h : Nat) (c : KeyCell) : (State.setCell s h c).flowHigh = s.flowHigh := rfl
@[simp] theorem State.setCell_reel (s : State) (h : Nat) (c : KeyCell) : (State.setCell s h c).reel = s.reel := rfl
@[simp] theorem State.setCell_egr (s : State) (h : Nat) (c : KeyCell) : (State.setCell s h c).egr = s.egr := rfl
@[simp] theorem State.setCell_remote (s : State) (h : Nat) (c : KeyCell) : (State.setCell s h c).remote = s.remote := rfl
@[simp] theorem State.setCell_ports (s : State) (h : Nat) (c : KeyCell) : (State.setCell s h c).ports = s.ports := rfl
@[simp] theorem State.setCell_aud (s : State) (h : Nat) (c : KeyCell) : (State.setCell s h c).aud = s.aud := rfl
@[simp] theorem State.setCell_fol (s : State) (h : Nat) (c : KeyCell) : (State.setCell s h c).fol = s.fol := rfl
@[simp] theorem State.setCell_mon (s : State) (h : Nat) (c : KeyCell) : (State.setCell s h c).mon = s.mon := rfl
@[simp] theorem State.setCell_occ (s : State) (h : Nat) (c : KeyCell) : (State.setCell s h c).occ = s.occ := rfl
@[simp] theorem State.setCell_out (s : State) (h : Nat) (c : KeyCell) : (State.setCell s h c).out = s.out := rfl
@[simp] theorem State.setCell_pending (s : State) (h : Nat) (c : KeyCell) : (State.setCell s h c).pending = s.pending := rfl
@[simp] theorem State.setCell_rd (s : State) (h : Nat) (c : KeyCell) (b0 a0 : Nat) : (State.setCell s h c).rd b0 a0 = s.rd b0 a0 := rfl
@[simp] theorem State.setCell_rdF (s : State) (h : Nat) (c : KeyCell) (b0 a0 l0 n0 : Nat) : (State.setCell s h c).rdF b0 a0 l0 n0 = s.rdF b0 a0 l0 n0 := rfl
@[simp] theorem State.setCell_ent (s : State) (h : Nat) (c : KeyCell) (p0 b0 s0 i0 w0 : Nat) : (State.setCell s h c).ent p0 b0 s0 i0 w0 = s.ent p0 b0 s0 i0 w0 := rfl
@[simp] theorem State.setCell_entF (s : State) (h : Nat) (c : KeyCell) (p0 b0 s0 i0 w0 l0 n0 : Nat) : (State.setCell s h c).entF p0 b0 s0 i0 w0 l0 n0 = s.entF p0 b0 s0 i0 w0 l0 n0 := rfl
@[simp] theorem State.setCell_memByte (s : State) (h : Nat) (c : KeyCell) (a0 : Nat) : (State.setCell s h c).memByte a0 = s.memByte a0 := rfl

/-! ### State.setGen -/

@[simp] theorem State.setGen_regs (s : State) (p : Nat) (v : Word) : (State.setGen s p v).regs = s.regs := rfl
@[simp] theorem State.setGen_tbl (s : State) (p : Nat) (v : Word) : (State.setGen s p v).tbl = s.tbl := rfl
@[simp] theorem State.setGen_mem (s : State) (p : Nat) (v : Word) : (State.setGen s p v).mem = s.mem := rfl
@[simp] theorem State.setGen_beat (s : State) (p : Nat) (v : Word) : (State.setGen s p v).beat = s.beat := rfl
@[simp] theorem State.setGen_free (s : State) (p : Nat) (v : Word) : (State.setGen s p v).free = s.free := rfl
@[simp] theorem State.setGen_bus (s : State) (p : Nat) (v : Word) : (State.setGen s p v).bus = s.bus := rfl
@[simp] theorem State.setGen_host (s : State) (p : Nat) (v : Word) : (State.setGen s p v).host = s.host := rfl
@[simp] theorem State.setGen_fuse (s : State) (p : Nat) (v : Word) : (State.setGen s p v).fuse = s.fuse := rfl
@[simp] theorem State.setGen_lanes (s : State) (p : Nat) (v : Word) : (State.setGen s p v).lanes = s.lanes := rfl
@[simp] theorem State.setGen_epv (s : State) (p : Nat) (v : Word) : (State.setGen s p v).epv = s.epv := rfl
@[simp] theorem State.setGen_saSent (s : State) (p : Nat) (v : Word) : (State.setGen s p v).saSent = s.saSent := rfl
@[simp] theorem State.setGen_tbs (s : State) (p : Nat) (v : Word) : (State.setGen s p v).tbs = s.tbs := rfl
@[simp] theorem State.setGen_cmp (s : State) (p : Nat) (v : Word) : (State.setGen s p v).cmp = s.cmp := rfl
@[simp] theorem State.setGen_cand (s : State) (p : Nat) (v : Word) : (State.setGen s p v).cand = s.cand := rfl
@[simp] theorem State.setGen_gbus (s : State) (p : Nat) (v : Word) : (State.setGen s p v).gbus = s.gbus := rfl
@[simp] theorem State.setGen_mgt (s : State) (p : Nat) (v : Word) : (State.setGen s p v).mgt = s.mgt := rfl
@[simp] theorem State.setGen_flt (s : State) (p : Nat) (v : Word) : (State.setGen s p v).flt = s.flt := rfl
@[simp] theorem State.setGen_pwr (s : State) (p : Nat) (v : Word) : (State.setGen s p v).pwr = s.pwr := rfl
@[simp] theorem State.setGen_fab (s : State) (p : Nat) (v : Word) : (State.setGen s p v).fab = s.fab := rfl
@[simp] theorem State.setGen_take (s : State) (p : Nat) (v : Word) : (State.setGen s p v).take = s.take := rfl
@[simp] theorem State.setGen_pad (s : State) (p : Nat) (v : Word) : (State.setGen s p v).pad = s.pad := rfl
@[simp] theorem State.setGen_merge (s : State) (p : Nat) (v : Word) : (State.setGen s p v).merge = s.merge := rfl
@[simp] theorem State.setGen_flowHigh (s : State) (p : Nat) (v : Word) : (State.setGen s p v).flowHigh = s.flowHigh := rfl
@[simp] theorem State.setGen_reel (s : State) (p : Nat) (v : Word) : (State.setGen s p v).reel = s.reel := rfl
@[simp] theorem State.setGen_egr (s : State) (p : Nat) (v : Word) : (State.setGen s p v).egr = s.egr := rfl
@[simp] theorem State.setGen_remote (s : State) (p : Nat) (v : Word) : (State.setGen s p v).remote = s.remote := rfl
@[simp] theorem State.setGen_ports (s : State) (p : Nat) (v : Word) : (State.setGen s p v).ports = s.ports := rfl
@[simp] theorem State.setGen_aud (s : State) (p : Nat) (v : Word) : (State.setGen s p v).aud = s.aud := rfl
@[simp] theorem State.setGen_fol (s : State) (p : Nat) (v : Word) : (State.setGen s p v).fol = s.fol := rfl
@[simp] theorem State.setGen_mon (s : State) (p : Nat) (v : Word) : (State.setGen s p v).mon = s.mon := rfl
@[simp] theorem State.setGen_occ (s : State) (p : Nat) (v : Word) : (State.setGen s p v).occ = s.occ := rfl
@[simp] theorem State.setGen_out (s : State) (p : Nat) (v : Word) : (State.setGen s p v).out = s.out := rfl
@[simp] theorem State.setGen_pending (s : State) (p : Nat) (v : Word) : (State.setGen s p v).pending = s.pending := rfl
@[simp] theorem State.setGen_rd (s : State) (p : Nat) (v : Word) (b0 a0 : Nat) : (State.setGen s p v).rd b0 a0 = s.rd b0 a0 := rfl
@[simp] theorem State.setGen_rdF (s : State) (p : Nat) (v : Word) (b0 a0 l0 n0 : Nat) : (State.setGen s p v).rdF b0 a0 l0 n0 = s.rdF b0 a0 l0 n0 := rfl
@[simp] theorem State.setGen_ent (s : State) (p : Nat) (v : Word) (p0 b0 s0 i0 w0 : Nat) : (State.setGen s p v).ent p0 b0 s0 i0 w0 = s.ent p0 b0 s0 i0 w0 := rfl
@[simp] theorem State.setGen_entF (s : State) (p : Nat) (v : Word) (p0 b0 s0 i0 w0 l0 n0 : Nat) : (State.setGen s p v).entF p0 b0 s0 i0 w0 l0 n0 = s.entF p0 b0 s0 i0 w0 l0 n0 := rfl
@[simp] theorem State.setGen_memByte (s : State) (p : Nat) (v : Word) (a0 : Nat) : (State.setGen s p v).memByte a0 = s.memByte a0 := rfl

/-! ### State.setEpoch -/

@[simp] theorem State.setEpoch_regs (s : State) (p : Nat) (v : Word) : (State.setEpoch s p v).regs = s.regs := rfl
@[simp] theorem State.setEpoch_tbl (s : State) (p : Nat) (v : Word) : (State.setEpoch s p v).tbl = s.tbl := rfl
@[simp] theorem State.setEpoch_mem (s : State) (p : Nat) (v : Word) : (State.setEpoch s p v).mem = s.mem := rfl
@[simp] theorem State.setEpoch_beat (s : State) (p : Nat) (v : Word) : (State.setEpoch s p v).beat = s.beat := rfl
@[simp] theorem State.setEpoch_free (s : State) (p : Nat) (v : Word) : (State.setEpoch s p v).free = s.free := rfl
@[simp] theorem State.setEpoch_bus (s : State) (p : Nat) (v : Word) : (State.setEpoch s p v).bus = s.bus := rfl
@[simp] theorem State.setEpoch_host (s : State) (p : Nat) (v : Word) : (State.setEpoch s p v).host = s.host := rfl
@[simp] theorem State.setEpoch_fuse (s : State) (p : Nat) (v : Word) : (State.setEpoch s p v).fuse = s.fuse := rfl
@[simp] theorem State.setEpoch_lanes (s : State) (p : Nat) (v : Word) : (State.setEpoch s p v).lanes = s.lanes := rfl
@[simp] theorem State.setEpoch_epv (s : State) (p : Nat) (v : Word) : (State.setEpoch s p v).epv = s.epv := rfl
@[simp] theorem State.setEpoch_saSent (s : State) (p : Nat) (v : Word) : (State.setEpoch s p v).saSent = s.saSent := rfl
@[simp] theorem State.setEpoch_tbs (s : State) (p : Nat) (v : Word) : (State.setEpoch s p v).tbs = s.tbs := rfl
@[simp] theorem State.setEpoch_cmp (s : State) (p : Nat) (v : Word) : (State.setEpoch s p v).cmp = s.cmp := rfl
@[simp] theorem State.setEpoch_cand (s : State) (p : Nat) (v : Word) : (State.setEpoch s p v).cand = s.cand := rfl
@[simp] theorem State.setEpoch_gbus (s : State) (p : Nat) (v : Word) : (State.setEpoch s p v).gbus = s.gbus := rfl
@[simp] theorem State.setEpoch_mgt (s : State) (p : Nat) (v : Word) : (State.setEpoch s p v).mgt = s.mgt := rfl
@[simp] theorem State.setEpoch_flt (s : State) (p : Nat) (v : Word) : (State.setEpoch s p v).flt = s.flt := rfl
@[simp] theorem State.setEpoch_pwr (s : State) (p : Nat) (v : Word) : (State.setEpoch s p v).pwr = s.pwr := rfl
@[simp] theorem State.setEpoch_fab (s : State) (p : Nat) (v : Word) : (State.setEpoch s p v).fab = s.fab := rfl
@[simp] theorem State.setEpoch_take (s : State) (p : Nat) (v : Word) : (State.setEpoch s p v).take = s.take := rfl
@[simp] theorem State.setEpoch_pad (s : State) (p : Nat) (v : Word) : (State.setEpoch s p v).pad = s.pad := rfl
@[simp] theorem State.setEpoch_merge (s : State) (p : Nat) (v : Word) : (State.setEpoch s p v).merge = s.merge := rfl
@[simp] theorem State.setEpoch_flowHigh (s : State) (p : Nat) (v : Word) : (State.setEpoch s p v).flowHigh = s.flowHigh := rfl
@[simp] theorem State.setEpoch_reel (s : State) (p : Nat) (v : Word) : (State.setEpoch s p v).reel = s.reel := rfl
@[simp] theorem State.setEpoch_egr (s : State) (p : Nat) (v : Word) : (State.setEpoch s p v).egr = s.egr := rfl
@[simp] theorem State.setEpoch_remote (s : State) (p : Nat) (v : Word) : (State.setEpoch s p v).remote = s.remote := rfl
@[simp] theorem State.setEpoch_ports (s : State) (p : Nat) (v : Word) : (State.setEpoch s p v).ports = s.ports := rfl
@[simp] theorem State.setEpoch_aud (s : State) (p : Nat) (v : Word) : (State.setEpoch s p v).aud = s.aud := rfl
@[simp] theorem State.setEpoch_fol (s : State) (p : Nat) (v : Word) : (State.setEpoch s p v).fol = s.fol := rfl
@[simp] theorem State.setEpoch_mon (s : State) (p : Nat) (v : Word) : (State.setEpoch s p v).mon = s.mon := rfl
@[simp] theorem State.setEpoch_occ (s : State) (p : Nat) (v : Word) : (State.setEpoch s p v).occ = s.occ := rfl
@[simp] theorem State.setEpoch_out (s : State) (p : Nat) (v : Word) : (State.setEpoch s p v).out = s.out := rfl
@[simp] theorem State.setEpoch_pending (s : State) (p : Nat) (v : Word) : (State.setEpoch s p v).pending = s.pending := rfl
@[simp] theorem State.setEpoch_rd (s : State) (p : Nat) (v : Word) (b0 a0 : Nat) : (State.setEpoch s p v).rd b0 a0 = s.rd b0 a0 := rfl
@[simp] theorem State.setEpoch_rdF (s : State) (p : Nat) (v : Word) (b0 a0 l0 n0 : Nat) : (State.setEpoch s p v).rdF b0 a0 l0 n0 = s.rdF b0 a0 l0 n0 := rfl
@[simp] theorem State.setEpoch_ent (s : State) (p : Nat) (v : Word) (p0 b0 s0 i0 w0 : Nat) : (State.setEpoch s p v).ent p0 b0 s0 i0 w0 = s.ent p0 b0 s0 i0 w0 := rfl
@[simp] theorem State.setEpoch_entF (s : State) (p : Nat) (v : Word) (p0 b0 s0 i0 w0 l0 n0 : Nat) : (State.setEpoch s p v).entF p0 b0 s0 i0 w0 l0 n0 = s.entF p0 b0 s0 i0 w0 l0 n0 := rfl
@[simp] theorem State.setEpoch_memByte (s : State) (p : Nat) (v : Word) (a0 : Nat) : (State.setEpoch s p v).memByte a0 = s.memByte a0 := rfl

/-! ### State.setPort -/

@[simp] theorem State.setPort_regs (s : State) (k : Nat) (t : TxPort) : (State.setPort s k t).regs = s.regs := rfl
@[simp] theorem State.setPort_tbl (s : State) (k : Nat) (t : TxPort) : (State.setPort s k t).tbl = s.tbl := rfl
@[simp] theorem State.setPort_mem (s : State) (k : Nat) (t : TxPort) : (State.setPort s k t).mem = s.mem := rfl
@[simp] theorem State.setPort_beat (s : State) (k : Nat) (t : TxPort) : (State.setPort s k t).beat = s.beat := rfl
@[simp] theorem State.setPort_free (s : State) (k : Nat) (t : TxPort) : (State.setPort s k t).free = s.free := rfl
@[simp] theorem State.setPort_bus (s : State) (k : Nat) (t : TxPort) : (State.setPort s k t).bus = s.bus := rfl
@[simp] theorem State.setPort_host (s : State) (k : Nat) (t : TxPort) : (State.setPort s k t).host = s.host := rfl
@[simp] theorem State.setPort_fuse (s : State) (k : Nat) (t : TxPort) : (State.setPort s k t).fuse = s.fuse := rfl
@[simp] theorem State.setPort_key (s : State) (k : Nat) (t : TxPort) : (State.setPort s k t).key = s.key := rfl
@[simp] theorem State.setPort_lanes (s : State) (k : Nat) (t : TxPort) : (State.setPort s k t).lanes = s.lanes := rfl
@[simp] theorem State.setPort_epv (s : State) (k : Nat) (t : TxPort) : (State.setPort s k t).epv = s.epv := rfl
@[simp] theorem State.setPort_saSent (s : State) (k : Nat) (t : TxPort) : (State.setPort s k t).saSent = s.saSent := rfl
@[simp] theorem State.setPort_tbs (s : State) (k : Nat) (t : TxPort) : (State.setPort s k t).tbs = s.tbs := rfl
@[simp] theorem State.setPort_cmp (s : State) (k : Nat) (t : TxPort) : (State.setPort s k t).cmp = s.cmp := rfl
@[simp] theorem State.setPort_cand (s : State) (k : Nat) (t : TxPort) : (State.setPort s k t).cand = s.cand := rfl
@[simp] theorem State.setPort_gbus (s : State) (k : Nat) (t : TxPort) : (State.setPort s k t).gbus = s.gbus := rfl
@[simp] theorem State.setPort_mgt (s : State) (k : Nat) (t : TxPort) : (State.setPort s k t).mgt = s.mgt := rfl
@[simp] theorem State.setPort_flt (s : State) (k : Nat) (t : TxPort) : (State.setPort s k t).flt = s.flt := rfl
@[simp] theorem State.setPort_pwr (s : State) (k : Nat) (t : TxPort) : (State.setPort s k t).pwr = s.pwr := rfl
@[simp] theorem State.setPort_fab (s : State) (k : Nat) (t : TxPort) : (State.setPort s k t).fab = s.fab := rfl
@[simp] theorem State.setPort_take (s : State) (k : Nat) (t : TxPort) : (State.setPort s k t).take = s.take := rfl
@[simp] theorem State.setPort_pad (s : State) (k : Nat) (t : TxPort) : (State.setPort s k t).pad = s.pad := rfl
@[simp] theorem State.setPort_merge (s : State) (k : Nat) (t : TxPort) : (State.setPort s k t).merge = s.merge := rfl
@[simp] theorem State.setPort_flowHigh (s : State) (k : Nat) (t : TxPort) : (State.setPort s k t).flowHigh = s.flowHigh := rfl
@[simp] theorem State.setPort_reel (s : State) (k : Nat) (t : TxPort) : (State.setPort s k t).reel = s.reel := rfl
@[simp] theorem State.setPort_egr (s : State) (k : Nat) (t : TxPort) : (State.setPort s k t).egr = s.egr := rfl
@[simp] theorem State.setPort_remote (s : State) (k : Nat) (t : TxPort) : (State.setPort s k t).remote = s.remote := rfl
@[simp] theorem State.setPort_aud (s : State) (k : Nat) (t : TxPort) : (State.setPort s k t).aud = s.aud := rfl
@[simp] theorem State.setPort_fol (s : State) (k : Nat) (t : TxPort) : (State.setPort s k t).fol = s.fol := rfl
@[simp] theorem State.setPort_mon (s : State) (k : Nat) (t : TxPort) : (State.setPort s k t).mon = s.mon := rfl
@[simp] theorem State.setPort_occ (s : State) (k : Nat) (t : TxPort) : (State.setPort s k t).occ = s.occ := rfl
@[simp] theorem State.setPort_out (s : State) (k : Nat) (t : TxPort) : (State.setPort s k t).out = s.out := rfl
@[simp] theorem State.setPort_pending (s : State) (k : Nat) (t : TxPort) : (State.setPort s k t).pending = s.pending := rfl
@[simp] theorem State.setPort_rd (s : State) (k : Nat) (t : TxPort) (b0 a0 : Nat) : (State.setPort s k t).rd b0 a0 = s.rd b0 a0 := rfl
@[simp] theorem State.setPort_rdF (s : State) (k : Nat) (t : TxPort) (b0 a0 l0 n0 : Nat) : (State.setPort s k t).rdF b0 a0 l0 n0 = s.rdF b0 a0 l0 n0 := rfl
@[simp] theorem State.setPort_ent (s : State) (k : Nat) (t : TxPort) (p0 b0 s0 i0 w0 : Nat) : (State.setPort s k t).ent p0 b0 s0 i0 w0 = s.ent p0 b0 s0 i0 w0 := rfl
@[simp] theorem State.setPort_entF (s : State) (k : Nat) (t : TxPort) (p0 b0 s0 i0 w0 l0 n0 : Nat) : (State.setPort s k t).entF p0 b0 s0 i0 w0 l0 n0 = s.entF p0 b0 s0 i0 w0 l0 n0 := rfl
@[simp] theorem State.setPort_memByte (s : State) (k : Nat) (t : TxPort) (a0 : Nat) : (State.setPort s k t).memByte a0 = s.memByte a0 := rfl

/-! ### State.setPad -/

@[simp] theorem State.setPad_regs (s : State) (ei : Nat) (r : PadRec) : (State.setPad s ei r).regs = s.regs := rfl
@[simp] theorem State.setPad_tbl (s : State) (ei : Nat) (r : PadRec) : (State.setPad s ei r).tbl = s.tbl := rfl
@[simp] theorem State.setPad_mem (s : State) (ei : Nat) (r : PadRec) : (State.setPad s ei r).mem = s.mem := rfl
@[simp] theorem State.setPad_beat (s : State) (ei : Nat) (r : PadRec) : (State.setPad s ei r).beat = s.beat := rfl
@[simp] theorem State.setPad_free (s : State) (ei : Nat) (r : PadRec) : (State.setPad s ei r).free = s.free := rfl
@[simp] theorem State.setPad_bus (s : State) (ei : Nat) (r : PadRec) : (State.setPad s ei r).bus = s.bus := rfl
@[simp] theorem State.setPad_host (s : State) (ei : Nat) (r : PadRec) : (State.setPad s ei r).host = s.host := rfl
@[simp] theorem State.setPad_fuse (s : State) (ei : Nat) (r : PadRec) : (State.setPad s ei r).fuse = s.fuse := rfl
@[simp] theorem State.setPad_key (s : State) (ei : Nat) (r : PadRec) : (State.setPad s ei r).key = s.key := rfl
@[simp] theorem State.setPad_lanes (s : State) (ei : Nat) (r : PadRec) : (State.setPad s ei r).lanes = s.lanes := rfl
@[simp] theorem State.setPad_epv (s : State) (ei : Nat) (r : PadRec) : (State.setPad s ei r).epv = s.epv := rfl
@[simp] theorem State.setPad_saSent (s : State) (ei : Nat) (r : PadRec) : (State.setPad s ei r).saSent = s.saSent := rfl
@[simp] theorem State.setPad_tbs (s : State) (ei : Nat) (r : PadRec) : (State.setPad s ei r).tbs = s.tbs := rfl
@[simp] theorem State.setPad_cmp (s : State) (ei : Nat) (r : PadRec) : (State.setPad s ei r).cmp = s.cmp := rfl
@[simp] theorem State.setPad_cand (s : State) (ei : Nat) (r : PadRec) : (State.setPad s ei r).cand = s.cand := rfl
@[simp] theorem State.setPad_gbus (s : State) (ei : Nat) (r : PadRec) : (State.setPad s ei r).gbus = s.gbus := rfl
@[simp] theorem State.setPad_mgt (s : State) (ei : Nat) (r : PadRec) : (State.setPad s ei r).mgt = s.mgt := rfl
@[simp] theorem State.setPad_flt (s : State) (ei : Nat) (r : PadRec) : (State.setPad s ei r).flt = s.flt := rfl
@[simp] theorem State.setPad_pwr (s : State) (ei : Nat) (r : PadRec) : (State.setPad s ei r).pwr = s.pwr := rfl
@[simp] theorem State.setPad_fab (s : State) (ei : Nat) (r : PadRec) : (State.setPad s ei r).fab = s.fab := rfl
@[simp] theorem State.setPad_take (s : State) (ei : Nat) (r : PadRec) : (State.setPad s ei r).take = s.take := rfl
@[simp] theorem State.setPad_merge (s : State) (ei : Nat) (r : PadRec) : (State.setPad s ei r).merge = s.merge := rfl
@[simp] theorem State.setPad_flowHigh (s : State) (ei : Nat) (r : PadRec) : (State.setPad s ei r).flowHigh = s.flowHigh := rfl
@[simp] theorem State.setPad_reel (s : State) (ei : Nat) (r : PadRec) : (State.setPad s ei r).reel = s.reel := rfl
@[simp] theorem State.setPad_egr (s : State) (ei : Nat) (r : PadRec) : (State.setPad s ei r).egr = s.egr := rfl
@[simp] theorem State.setPad_remote (s : State) (ei : Nat) (r : PadRec) : (State.setPad s ei r).remote = s.remote := rfl
@[simp] theorem State.setPad_ports (s : State) (ei : Nat) (r : PadRec) : (State.setPad s ei r).ports = s.ports := rfl
@[simp] theorem State.setPad_aud (s : State) (ei : Nat) (r : PadRec) : (State.setPad s ei r).aud = s.aud := rfl
@[simp] theorem State.setPad_fol (s : State) (ei : Nat) (r : PadRec) : (State.setPad s ei r).fol = s.fol := rfl
@[simp] theorem State.setPad_mon (s : State) (ei : Nat) (r : PadRec) : (State.setPad s ei r).mon = s.mon := rfl
@[simp] theorem State.setPad_occ (s : State) (ei : Nat) (r : PadRec) : (State.setPad s ei r).occ = s.occ := rfl
@[simp] theorem State.setPad_out (s : State) (ei : Nat) (r : PadRec) : (State.setPad s ei r).out = s.out := rfl
@[simp] theorem State.setPad_pending (s : State) (ei : Nat) (r : PadRec) : (State.setPad s ei r).pending = s.pending := rfl
@[simp] theorem State.setPad_rd (s : State) (ei : Nat) (r : PadRec) (b0 a0 : Nat) : (State.setPad s ei r).rd b0 a0 = s.rd b0 a0 := rfl
@[simp] theorem State.setPad_rdF (s : State) (ei : Nat) (r : PadRec) (b0 a0 l0 n0 : Nat) : (State.setPad s ei r).rdF b0 a0 l0 n0 = s.rdF b0 a0 l0 n0 := rfl
@[simp] theorem State.setPad_ent (s : State) (ei : Nat) (r : PadRec) (p0 b0 s0 i0 w0 : Nat) : (State.setPad s ei r).ent p0 b0 s0 i0 w0 = s.ent p0 b0 s0 i0 w0 := rfl
@[simp] theorem State.setPad_entF (s : State) (ei : Nat) (r : PadRec) (p0 b0 s0 i0 w0 l0 n0 : Nat) : (State.setPad s ei r).entF p0 b0 s0 i0 w0 l0 n0 = s.entF p0 b0 s0 i0 w0 l0 n0 := rfl
@[simp] theorem State.setPad_memByte (s : State) (ei : Nat) (r : PadRec) (a0 : Nat) : (State.setPad s ei r).memByte a0 = s.memByte a0 := rfl

/-! ### State.setFs -/

@[simp] theorem State.setFs_regs (s : State) (f : Nat) (r : FsRec) : (State.setFs s f r).regs = s.regs := rfl
@[simp] theorem State.setFs_tbl (s : State) (f : Nat) (r : FsRec) : (State.setFs s f r).tbl = s.tbl := rfl
@[simp] theorem State.setFs_mem (s : State) (f : Nat) (r : FsRec) : (State.setFs s f r).mem = s.mem := rfl
@[simp] theorem State.setFs_beat (s : State) (f : Nat) (r : FsRec) : (State.setFs s f r).beat = s.beat := rfl
@[simp] theorem State.setFs_free (s : State) (f : Nat) (r : FsRec) : (State.setFs s f r).free = s.free := rfl
@[simp] theorem State.setFs_bus (s : State) (f : Nat) (r : FsRec) : (State.setFs s f r).bus = s.bus := rfl
@[simp] theorem State.setFs_host (s : State) (f : Nat) (r : FsRec) : (State.setFs s f r).host = s.host := rfl
@[simp] theorem State.setFs_fuse (s : State) (f : Nat) (r : FsRec) : (State.setFs s f r).fuse = s.fuse := rfl
@[simp] theorem State.setFs_key (s : State) (f : Nat) (r : FsRec) : (State.setFs s f r).key = s.key := rfl
@[simp] theorem State.setFs_lanes (s : State) (f : Nat) (r : FsRec) : (State.setFs s f r).lanes = s.lanes := rfl
@[simp] theorem State.setFs_epv (s : State) (f : Nat) (r : FsRec) : (State.setFs s f r).epv = s.epv := rfl
@[simp] theorem State.setFs_saSent (s : State) (f : Nat) (r : FsRec) : (State.setFs s f r).saSent = s.saSent := rfl
@[simp] theorem State.setFs_tbs (s : State) (f : Nat) (r : FsRec) : (State.setFs s f r).tbs = s.tbs := rfl
@[simp] theorem State.setFs_cmp (s : State) (f : Nat) (r : FsRec) : (State.setFs s f r).cmp = s.cmp := rfl
@[simp] theorem State.setFs_cand (s : State) (f : Nat) (r : FsRec) : (State.setFs s f r).cand = s.cand := rfl
@[simp] theorem State.setFs_gbus (s : State) (f : Nat) (r : FsRec) : (State.setFs s f r).gbus = s.gbus := rfl
@[simp] theorem State.setFs_mgt (s : State) (f : Nat) (r : FsRec) : (State.setFs s f r).mgt = s.mgt := rfl
@[simp] theorem State.setFs_flt (s : State) (f : Nat) (r : FsRec) : (State.setFs s f r).flt = s.flt := rfl
@[simp] theorem State.setFs_pwr (s : State) (f : Nat) (r : FsRec) : (State.setFs s f r).pwr = s.pwr := rfl
@[simp] theorem State.setFs_fab (s : State) (f : Nat) (r : FsRec) : (State.setFs s f r).fab = s.fab := rfl
@[simp] theorem State.setFs_take (s : State) (f : Nat) (r : FsRec) : (State.setFs s f r).take = s.take := rfl
@[simp] theorem State.setFs_pad (s : State) (f : Nat) (r : FsRec) : (State.setFs s f r).pad = s.pad := rfl
@[simp] theorem State.setFs_merge (s : State) (f : Nat) (r : FsRec) : (State.setFs s f r).merge = s.merge := rfl
@[simp] theorem State.setFs_flowHigh (s : State) (f : Nat) (r : FsRec) : (State.setFs s f r).flowHigh = s.flowHigh := rfl
@[simp] theorem State.setFs_egr (s : State) (f : Nat) (r : FsRec) : (State.setFs s f r).egr = s.egr := rfl
@[simp] theorem State.setFs_remote (s : State) (f : Nat) (r : FsRec) : (State.setFs s f r).remote = s.remote := rfl
@[simp] theorem State.setFs_ports (s : State) (f : Nat) (r : FsRec) : (State.setFs s f r).ports = s.ports := rfl
@[simp] theorem State.setFs_aud (s : State) (f : Nat) (r : FsRec) : (State.setFs s f r).aud = s.aud := rfl
@[simp] theorem State.setFs_fol (s : State) (f : Nat) (r : FsRec) : (State.setFs s f r).fol = s.fol := rfl
@[simp] theorem State.setFs_mon (s : State) (f : Nat) (r : FsRec) : (State.setFs s f r).mon = s.mon := rfl
@[simp] theorem State.setFs_occ (s : State) (f : Nat) (r : FsRec) : (State.setFs s f r).occ = s.occ := rfl
@[simp] theorem State.setFs_out (s : State) (f : Nat) (r : FsRec) : (State.setFs s f r).out = s.out := rfl
@[simp] theorem State.setFs_pending (s : State) (f : Nat) (r : FsRec) : (State.setFs s f r).pending = s.pending := rfl
@[simp] theorem State.setFs_rd (s : State) (f : Nat) (r : FsRec) (b0 a0 : Nat) : (State.setFs s f r).rd b0 a0 = s.rd b0 a0 := rfl
@[simp] theorem State.setFs_rdF (s : State) (f : Nat) (r : FsRec) (b0 a0 l0 n0 : Nat) : (State.setFs s f r).rdF b0 a0 l0 n0 = s.rdF b0 a0 l0 n0 := rfl
@[simp] theorem State.setFs_ent (s : State) (f : Nat) (r : FsRec) (p0 b0 s0 i0 w0 : Nat) : (State.setFs s f r).ent p0 b0 s0 i0 w0 = s.ent p0 b0 s0 i0 w0 := rfl
@[simp] theorem State.setFs_entF (s : State) (f : Nat) (r : FsRec) (p0 b0 s0 i0 w0 l0 n0 : Nat) : (State.setFs s f r).entF p0 b0 s0 i0 w0 l0 n0 = s.entF p0 b0 s0 i0 w0 l0 n0 := rfl
@[simp] theorem State.setFs_memByte (s : State) (f : Nat) (r : FsRec) (a0 : Nat) : (State.setFs s f r).memByte a0 = s.memByte a0 := rfl

/-! ### State.setMerge -/

@[simp] theorem State.setMerge_regs (s : State) (ei slot : Nat) (r : MergeRec) : (State.setMerge s ei slot r).regs = s.regs := rfl
@[simp] theorem State.setMerge_tbl (s : State) (ei slot : Nat) (r : MergeRec) : (State.setMerge s ei slot r).tbl = s.tbl := rfl
@[simp] theorem State.setMerge_mem (s : State) (ei slot : Nat) (r : MergeRec) : (State.setMerge s ei slot r).mem = s.mem := rfl
@[simp] theorem State.setMerge_beat (s : State) (ei slot : Nat) (r : MergeRec) : (State.setMerge s ei slot r).beat = s.beat := rfl
@[simp] theorem State.setMerge_free (s : State) (ei slot : Nat) (r : MergeRec) : (State.setMerge s ei slot r).free = s.free := rfl
@[simp] theorem State.setMerge_bus (s : State) (ei slot : Nat) (r : MergeRec) : (State.setMerge s ei slot r).bus = s.bus := rfl
@[simp] theorem State.setMerge_host (s : State) (ei slot : Nat) (r : MergeRec) : (State.setMerge s ei slot r).host = s.host := rfl
@[simp] theorem State.setMerge_fuse (s : State) (ei slot : Nat) (r : MergeRec) : (State.setMerge s ei slot r).fuse = s.fuse := rfl
@[simp] theorem State.setMerge_key (s : State) (ei slot : Nat) (r : MergeRec) : (State.setMerge s ei slot r).key = s.key := rfl
@[simp] theorem State.setMerge_lanes (s : State) (ei slot : Nat) (r : MergeRec) : (State.setMerge s ei slot r).lanes = s.lanes := rfl
@[simp] theorem State.setMerge_epv (s : State) (ei slot : Nat) (r : MergeRec) : (State.setMerge s ei slot r).epv = s.epv := rfl
@[simp] theorem State.setMerge_saSent (s : State) (ei slot : Nat) (r : MergeRec) : (State.setMerge s ei slot r).saSent = s.saSent := rfl
@[simp] theorem State.setMerge_tbs (s : State) (ei slot : Nat) (r : MergeRec) : (State.setMerge s ei slot r).tbs = s.tbs := rfl
@[simp] theorem State.setMerge_cmp (s : State) (ei slot : Nat) (r : MergeRec) : (State.setMerge s ei slot r).cmp = s.cmp := rfl
@[simp] theorem State.setMerge_cand (s : State) (ei slot : Nat) (r : MergeRec) : (State.setMerge s ei slot r).cand = s.cand := rfl
@[simp] theorem State.setMerge_gbus (s : State) (ei slot : Nat) (r : MergeRec) : (State.setMerge s ei slot r).gbus = s.gbus := rfl
@[simp] theorem State.setMerge_mgt (s : State) (ei slot : Nat) (r : MergeRec) : (State.setMerge s ei slot r).mgt = s.mgt := rfl
@[simp] theorem State.setMerge_flt (s : State) (ei slot : Nat) (r : MergeRec) : (State.setMerge s ei slot r).flt = s.flt := rfl
@[simp] theorem State.setMerge_pwr (s : State) (ei slot : Nat) (r : MergeRec) : (State.setMerge s ei slot r).pwr = s.pwr := rfl
@[simp] theorem State.setMerge_fab (s : State) (ei slot : Nat) (r : MergeRec) : (State.setMerge s ei slot r).fab = s.fab := rfl
@[simp] theorem State.setMerge_take (s : State) (ei slot : Nat) (r : MergeRec) : (State.setMerge s ei slot r).take = s.take := rfl
@[simp] theorem State.setMerge_pad (s : State) (ei slot : Nat) (r : MergeRec) : (State.setMerge s ei slot r).pad = s.pad := rfl
@[simp] theorem State.setMerge_flowHigh (s : State) (ei slot : Nat) (r : MergeRec) : (State.setMerge s ei slot r).flowHigh = s.flowHigh := rfl
@[simp] theorem State.setMerge_reel (s : State) (ei slot : Nat) (r : MergeRec) : (State.setMerge s ei slot r).reel = s.reel := rfl
@[simp] theorem State.setMerge_egr (s : State) (ei slot : Nat) (r : MergeRec) : (State.setMerge s ei slot r).egr = s.egr := rfl
@[simp] theorem State.setMerge_remote (s : State) (ei slot : Nat) (r : MergeRec) : (State.setMerge s ei slot r).remote = s.remote := rfl
@[simp] theorem State.setMerge_ports (s : State) (ei slot : Nat) (r : MergeRec) : (State.setMerge s ei slot r).ports = s.ports := rfl
@[simp] theorem State.setMerge_aud (s : State) (ei slot : Nat) (r : MergeRec) : (State.setMerge s ei slot r).aud = s.aud := rfl
@[simp] theorem State.setMerge_fol (s : State) (ei slot : Nat) (r : MergeRec) : (State.setMerge s ei slot r).fol = s.fol := rfl
@[simp] theorem State.setMerge_mon (s : State) (ei slot : Nat) (r : MergeRec) : (State.setMerge s ei slot r).mon = s.mon := rfl
@[simp] theorem State.setMerge_occ (s : State) (ei slot : Nat) (r : MergeRec) : (State.setMerge s ei slot r).occ = s.occ := rfl
@[simp] theorem State.setMerge_out (s : State) (ei slot : Nat) (r : MergeRec) : (State.setMerge s ei slot r).out = s.out := rfl
@[simp] theorem State.setMerge_pending (s : State) (ei slot : Nat) (r : MergeRec) : (State.setMerge s ei slot r).pending = s.pending := rfl
@[simp] theorem State.setMerge_rd (s : State) (ei slot : Nat) (r : MergeRec) (b0 a0 : Nat) : (State.setMerge s ei slot r).rd b0 a0 = s.rd b0 a0 := rfl
@[simp] theorem State.setMerge_rdF (s : State) (ei slot : Nat) (r : MergeRec) (b0 a0 l0 n0 : Nat) : (State.setMerge s ei slot r).rdF b0 a0 l0 n0 = s.rdF b0 a0 l0 n0 := rfl
@[simp] theorem State.setMerge_ent (s : State) (ei slot : Nat) (r : MergeRec) (p0 b0 s0 i0 w0 : Nat) : (State.setMerge s ei slot r).ent p0 b0 s0 i0 w0 = s.ent p0 b0 s0 i0 w0 := rfl
@[simp] theorem State.setMerge_entF (s : State) (ei slot : Nat) (r : MergeRec) (p0 b0 s0 i0 w0 l0 n0 : Nat) : (State.setMerge s ei slot r).entF p0 b0 s0 i0 w0 l0 n0 = s.entF p0 b0 s0 i0 w0 l0 n0 := rfl
@[simp] theorem State.setMerge_memByte (s : State) (ei slot : Nat) (r : MergeRec) (a0 : Nat) : (State.setMerge s ei slot r).memByte a0 = s.memByte a0 := rfl

/-! ### State.setTx -/

@[simp] theorem State.setTx_regs (s : State) (t : Tx) : (State.setTx s t).regs = s.regs := rfl
@[simp] theorem State.setTx_tbl (s : State) (t : Tx) : (State.setTx s t).tbl = s.tbl := rfl
@[simp] theorem State.setTx_mem (s : State) (t : Tx) : (State.setTx s t).mem = s.mem := rfl
@[simp] theorem State.setTx_beat (s : State) (t : Tx) : (State.setTx s t).beat = s.beat := rfl
@[simp] theorem State.setTx_free (s : State) (t : Tx) : (State.setTx s t).free = s.free := rfl
@[simp] theorem State.setTx_bus (s : State) (t : Tx) : (State.setTx s t).bus = s.bus := rfl
@[simp] theorem State.setTx_host (s : State) (t : Tx) : (State.setTx s t).host = s.host := rfl
@[simp] theorem State.setTx_fuse (s : State) (t : Tx) : (State.setTx s t).fuse = s.fuse := rfl
@[simp] theorem State.setTx_key (s : State) (t : Tx) : (State.setTx s t).key = s.key := rfl
@[simp] theorem State.setTx_lanes (s : State) (t : Tx) : (State.setTx s t).lanes = s.lanes := rfl
@[simp] theorem State.setTx_epv (s : State) (t : Tx) : (State.setTx s t).epv = s.epv := rfl
@[simp] theorem State.setTx_saSent (s : State) (t : Tx) : (State.setTx s t).saSent = s.saSent := rfl
@[simp] theorem State.setTx_tbs (s : State) (t : Tx) : (State.setTx s t).tbs = s.tbs := rfl
@[simp] theorem State.setTx_cmp (s : State) (t : Tx) : (State.setTx s t).cmp = s.cmp := rfl
@[simp] theorem State.setTx_cand (s : State) (t : Tx) : (State.setTx s t).cand = s.cand := rfl
@[simp] theorem State.setTx_gbus (s : State) (t : Tx) : (State.setTx s t).gbus = s.gbus := rfl
@[simp] theorem State.setTx_mgt (s : State) (t : Tx) : (State.setTx s t).mgt = s.mgt := rfl
@[simp] theorem State.setTx_flt (s : State) (t : Tx) : (State.setTx s t).flt = s.flt := rfl
@[simp] theorem State.setTx_pwr (s : State) (t : Tx) : (State.setTx s t).pwr = s.pwr := rfl
@[simp] theorem State.setTx_fab (s : State) (t : Tx) : (State.setTx s t).fab = s.fab := rfl
@[simp] theorem State.setTx_pad (s : State) (t : Tx) : (State.setTx s t).pad = s.pad := rfl
@[simp] theorem State.setTx_merge (s : State) (t : Tx) : (State.setTx s t).merge = s.merge := rfl
@[simp] theorem State.setTx_flowHigh (s : State) (t : Tx) : (State.setTx s t).flowHigh = s.flowHigh := rfl
@[simp] theorem State.setTx_reel (s : State) (t : Tx) : (State.setTx s t).reel = s.reel := rfl
@[simp] theorem State.setTx_egr (s : State) (t : Tx) : (State.setTx s t).egr = s.egr := rfl
@[simp] theorem State.setTx_remote (s : State) (t : Tx) : (State.setTx s t).remote = s.remote := rfl
@[simp] theorem State.setTx_ports (s : State) (t : Tx) : (State.setTx s t).ports = s.ports := rfl
@[simp] theorem State.setTx_aud (s : State) (t : Tx) : (State.setTx s t).aud = s.aud := rfl
@[simp] theorem State.setTx_fol (s : State) (t : Tx) : (State.setTx s t).fol = s.fol := rfl
@[simp] theorem State.setTx_mon (s : State) (t : Tx) : (State.setTx s t).mon = s.mon := rfl
@[simp] theorem State.setTx_occ (s : State) (t : Tx) : (State.setTx s t).occ = s.occ := rfl
@[simp] theorem State.setTx_out (s : State) (t : Tx) : (State.setTx s t).out = s.out := rfl
@[simp] theorem State.setTx_pending (s : State) (t : Tx) : (State.setTx s t).pending = s.pending := rfl
@[simp] theorem State.setTx_rd (s : State) (t : Tx) (b0 a0 : Nat) : (State.setTx s t).rd b0 a0 = s.rd b0 a0 := rfl
@[simp] theorem State.setTx_rdF (s : State) (t : Tx) (b0 a0 l0 n0 : Nat) : (State.setTx s t).rdF b0 a0 l0 n0 = s.rdF b0 a0 l0 n0 := rfl
@[simp] theorem State.setTx_ent (s : State) (t : Tx) (p0 b0 s0 i0 w0 : Nat) : (State.setTx s t).ent p0 b0 s0 i0 w0 = s.ent p0 b0 s0 i0 w0 := rfl
@[simp] theorem State.setTx_entF (s : State) (t : Tx) (p0 b0 s0 i0 w0 l0 n0 : Nat) : (State.setTx s t).entF p0 b0 s0 i0 w0 l0 n0 = s.entF p0 b0 s0 i0 w0 l0 n0 := rfl
@[simp] theorem State.setTx_memByte (s : State) (t : Tx) (a0 : Nat) : (State.setTx s t).memByte a0 = s.memByte a0 := rfl

/-! ### State.clearStaging -/

@[simp] theorem State.clearStaging_regs (s : State) (p : Option Nat) : (State.clearStaging s p).regs = s.regs := rfl
@[simp] theorem State.clearStaging_mem (s : State) (p : Option Nat) : (State.clearStaging s p).mem = s.mem := rfl
@[simp] theorem State.clearStaging_beat (s : State) (p : Option Nat) : (State.clearStaging s p).beat = s.beat := rfl
@[simp] theorem State.clearStaging_free (s : State) (p : Option Nat) : (State.clearStaging s p).free = s.free := rfl
@[simp] theorem State.clearStaging_bus (s : State) (p : Option Nat) : (State.clearStaging s p).bus = s.bus := rfl
@[simp] theorem State.clearStaging_host (s : State) (p : Option Nat) : (State.clearStaging s p).host = s.host := rfl
@[simp] theorem State.clearStaging_fuse (s : State) (p : Option Nat) : (State.clearStaging s p).fuse = s.fuse := rfl
@[simp] theorem State.clearStaging_key (s : State) (p : Option Nat) : (State.clearStaging s p).key = s.key := rfl
@[simp] theorem State.clearStaging_lanes (s : State) (p : Option Nat) : (State.clearStaging s p).lanes = s.lanes := rfl
@[simp] theorem State.clearStaging_epv (s : State) (p : Option Nat) : (State.clearStaging s p).epv = s.epv := rfl
@[simp] theorem State.clearStaging_saSent (s : State) (p : Option Nat) : (State.clearStaging s p).saSent = s.saSent := rfl
@[simp] theorem State.clearStaging_tbs (s : State) (p : Option Nat) : (State.clearStaging s p).tbs = s.tbs := rfl
@[simp] theorem State.clearStaging_cmp (s : State) (p : Option Nat) : (State.clearStaging s p).cmp = s.cmp := rfl
@[simp] theorem State.clearStaging_cand (s : State) (p : Option Nat) : (State.clearStaging s p).cand = s.cand := rfl
@[simp] theorem State.clearStaging_gbus (s : State) (p : Option Nat) : (State.clearStaging s p).gbus = s.gbus := rfl
@[simp] theorem State.clearStaging_mgt (s : State) (p : Option Nat) : (State.clearStaging s p).mgt = s.mgt := rfl
@[simp] theorem State.clearStaging_flt (s : State) (p : Option Nat) : (State.clearStaging s p).flt = s.flt := rfl
@[simp] theorem State.clearStaging_pwr (s : State) (p : Option Nat) : (State.clearStaging s p).pwr = s.pwr := rfl
@[simp] theorem State.clearStaging_fab (s : State) (p : Option Nat) : (State.clearStaging s p).fab = s.fab := rfl
@[simp] theorem State.clearStaging_take (s : State) (p : Option Nat) : (State.clearStaging s p).take = s.take := rfl
@[simp] theorem State.clearStaging_pad (s : State) (p : Option Nat) : (State.clearStaging s p).pad = s.pad := rfl
@[simp] theorem State.clearStaging_merge (s : State) (p : Option Nat) : (State.clearStaging s p).merge = s.merge := rfl
@[simp] theorem State.clearStaging_flowHigh (s : State) (p : Option Nat) : (State.clearStaging s p).flowHigh = s.flowHigh := rfl
@[simp] theorem State.clearStaging_reel (s : State) (p : Option Nat) : (State.clearStaging s p).reel = s.reel := rfl
@[simp] theorem State.clearStaging_egr (s : State) (p : Option Nat) : (State.clearStaging s p).egr = s.egr := rfl
@[simp] theorem State.clearStaging_remote (s : State) (p : Option Nat) : (State.clearStaging s p).remote = s.remote := rfl
@[simp] theorem State.clearStaging_ports (s : State) (p : Option Nat) : (State.clearStaging s p).ports = s.ports := rfl
@[simp] theorem State.clearStaging_aud (s : State) (p : Option Nat) : (State.clearStaging s p).aud = s.aud := rfl
@[simp] theorem State.clearStaging_fol (s : State) (p : Option Nat) : (State.clearStaging s p).fol = s.fol := rfl
@[simp] theorem State.clearStaging_mon (s : State) (p : Option Nat) : (State.clearStaging s p).mon = s.mon := rfl
@[simp] theorem State.clearStaging_occ (s : State) (p : Option Nat) : (State.clearStaging s p).occ = s.occ := rfl
@[simp] theorem State.clearStaging_out (s : State) (p : Option Nat) : (State.clearStaging s p).out = s.out := rfl
@[simp] theorem State.clearStaging_pending (s : State) (p : Option Nat) : (State.clearStaging s p).pending = s.pending := rfl
@[simp] theorem State.clearStaging_rd (s : State) (p : Option Nat) (b0 a0 : Nat) : (State.clearStaging s p).rd b0 a0 = s.rd b0 a0 := rfl
@[simp] theorem State.clearStaging_rdF (s : State) (p : Option Nat) (b0 a0 l0 n0 : Nat) : (State.clearStaging s p).rdF b0 a0 l0 n0 = s.rdF b0 a0 l0 n0 := rfl
@[simp] theorem State.clearStaging_memByte (s : State) (p : Option Nat) (a0 : Nat) : (State.clearStaging s p).memByte a0 = s.memByte a0 := rfl

/-! ### State.takeChipReset -/

@[simp] theorem State.takeChipReset_regs (s : State) : (State.takeChipReset s).regs = s.regs := rfl
@[simp] theorem State.takeChipReset_tbl (s : State) : (State.takeChipReset s).tbl = s.tbl := rfl
@[simp] theorem State.takeChipReset_mem (s : State) : (State.takeChipReset s).mem = s.mem := rfl
@[simp] theorem State.takeChipReset_beat (s : State) : (State.takeChipReset s).beat = s.beat := rfl
@[simp] theorem State.takeChipReset_free (s : State) : (State.takeChipReset s).free = s.free := rfl
@[simp] theorem State.takeChipReset_bus (s : State) : (State.takeChipReset s).bus = s.bus := rfl
@[simp] theorem State.takeChipReset_host (s : State) : (State.takeChipReset s).host = s.host := rfl
@[simp] theorem State.takeChipReset_fuse (s : State) : (State.takeChipReset s).fuse = s.fuse := rfl
@[simp] theorem State.takeChipReset_key (s : State) : (State.takeChipReset s).key = s.key := rfl
@[simp] theorem State.takeChipReset_lanes (s : State) : (State.takeChipReset s).lanes = s.lanes := rfl
@[simp] theorem State.takeChipReset_epv (s : State) : (State.takeChipReset s).epv = s.epv := rfl
@[simp] theorem State.takeChipReset_saSent (s : State) : (State.takeChipReset s).saSent = s.saSent := rfl
@[simp] theorem State.takeChipReset_tbs (s : State) : (State.takeChipReset s).tbs = s.tbs := rfl
@[simp] theorem State.takeChipReset_cmp (s : State) : (State.takeChipReset s).cmp = s.cmp := rfl
@[simp] theorem State.takeChipReset_cand (s : State) : (State.takeChipReset s).cand = s.cand := rfl
@[simp] theorem State.takeChipReset_gbus (s : State) : (State.takeChipReset s).gbus = s.gbus := rfl
@[simp] theorem State.takeChipReset_mgt (s : State) : (State.takeChipReset s).mgt = s.mgt := rfl
@[simp] theorem State.takeChipReset_flt (s : State) : (State.takeChipReset s).flt = s.flt := rfl
@[simp] theorem State.takeChipReset_pwr (s : State) : (State.takeChipReset s).pwr = s.pwr := rfl
@[simp] theorem State.takeChipReset_fab (s : State) : (State.takeChipReset s).fab = s.fab := rfl
@[simp] theorem State.takeChipReset_pad (s : State) : (State.takeChipReset s).pad = s.pad := rfl
@[simp] theorem State.takeChipReset_merge (s : State) : (State.takeChipReset s).merge = s.merge := rfl
@[simp] theorem State.takeChipReset_flowHigh (s : State) : (State.takeChipReset s).flowHigh = s.flowHigh := rfl
@[simp] theorem State.takeChipReset_reel (s : State) : (State.takeChipReset s).reel = s.reel := rfl
@[simp] theorem State.takeChipReset_egr (s : State) : (State.takeChipReset s).egr = s.egr := rfl
@[simp] theorem State.takeChipReset_remote (s : State) : (State.takeChipReset s).remote = s.remote := rfl
@[simp] theorem State.takeChipReset_ports (s : State) : (State.takeChipReset s).ports = s.ports := rfl
@[simp] theorem State.takeChipReset_aud (s : State) : (State.takeChipReset s).aud = s.aud := rfl
@[simp] theorem State.takeChipReset_fol (s : State) : (State.takeChipReset s).fol = s.fol := rfl
@[simp] theorem State.takeChipReset_mon (s : State) : (State.takeChipReset s).mon = s.mon := rfl
@[simp] theorem State.takeChipReset_occ (s : State) : (State.takeChipReset s).occ = s.occ := rfl
@[simp] theorem State.takeChipReset_out (s : State) : (State.takeChipReset s).out = s.out := rfl
@[simp] theorem State.takeChipReset_pending (s : State) : (State.takeChipReset s).pending = s.pending := rfl
@[simp] theorem State.takeChipReset_rd (s : State) (b0 a0 : Nat) : (State.takeChipReset s).rd b0 a0 = s.rd b0 a0 := rfl
@[simp] theorem State.takeChipReset_rdF (s : State) (b0 a0 l0 n0 : Nat) : (State.takeChipReset s).rdF b0 a0 l0 n0 = s.rdF b0 a0 l0 n0 := rfl
@[simp] theorem State.takeChipReset_ent (s : State) (p0 b0 s0 i0 w0 : Nat) : (State.takeChipReset s).ent p0 b0 s0 i0 w0 = s.ent p0 b0 s0 i0 w0 := rfl
@[simp] theorem State.takeChipReset_entF (s : State) (p0 b0 s0 i0 w0 l0 n0 : Nat) : (State.takeChipReset s).entF p0 b0 s0 i0 w0 l0 n0 = s.entF p0 b0 s0 i0 w0 l0 n0 := rfl
@[simp] theorem State.takeChipReset_memByte (s : State) (a0 : Nat) : (State.takeChipReset s).memByte a0 = s.memByte a0 := rfl

/-! ### State.setByte -/

@[simp] theorem State.setByte_regs (s : State) (a : Nat) (b : Byte) : (State.setByte s a b).regs = s.regs := rfl
@[simp] theorem State.setByte_tbl (s : State) (a : Nat) (b : Byte) : (State.setByte s a b).tbl = s.tbl := rfl
@[simp] theorem State.setByte_beat (s : State) (a : Nat) (b : Byte) : (State.setByte s a b).beat = s.beat := rfl
@[simp] theorem State.setByte_free (s : State) (a : Nat) (b : Byte) : (State.setByte s a b).free = s.free := rfl
@[simp] theorem State.setByte_bus (s : State) (a : Nat) (b : Byte) : (State.setByte s a b).bus = s.bus := rfl
@[simp] theorem State.setByte_host (s : State) (a : Nat) (b : Byte) : (State.setByte s a b).host = s.host := rfl
@[simp] theorem State.setByte_fuse (s : State) (a : Nat) (b : Byte) : (State.setByte s a b).fuse = s.fuse := rfl
@[simp] theorem State.setByte_key (s : State) (a : Nat) (b : Byte) : (State.setByte s a b).key = s.key := rfl
@[simp] theorem State.setByte_lanes (s : State) (a : Nat) (b : Byte) : (State.setByte s a b).lanes = s.lanes := rfl
@[simp] theorem State.setByte_epv (s : State) (a : Nat) (b : Byte) : (State.setByte s a b).epv = s.epv := rfl
@[simp] theorem State.setByte_saSent (s : State) (a : Nat) (b : Byte) : (State.setByte s a b).saSent = s.saSent := rfl
@[simp] theorem State.setByte_tbs (s : State) (a : Nat) (b : Byte) : (State.setByte s a b).tbs = s.tbs := rfl
@[simp] theorem State.setByte_cmp (s : State) (a : Nat) (b : Byte) : (State.setByte s a b).cmp = s.cmp := rfl
@[simp] theorem State.setByte_cand (s : State) (a : Nat) (b : Byte) : (State.setByte s a b).cand = s.cand := rfl
@[simp] theorem State.setByte_gbus (s : State) (a : Nat) (b : Byte) : (State.setByte s a b).gbus = s.gbus := rfl
@[simp] theorem State.setByte_mgt (s : State) (a : Nat) (b : Byte) : (State.setByte s a b).mgt = s.mgt := rfl
@[simp] theorem State.setByte_flt (s : State) (a : Nat) (b : Byte) : (State.setByte s a b).flt = s.flt := rfl
@[simp] theorem State.setByte_pwr (s : State) (a : Nat) (b : Byte) : (State.setByte s a b).pwr = s.pwr := rfl
@[simp] theorem State.setByte_fab (s : State) (a : Nat) (b : Byte) : (State.setByte s a b).fab = s.fab := rfl
@[simp] theorem State.setByte_take (s : State) (a : Nat) (b : Byte) : (State.setByte s a b).take = s.take := rfl
@[simp] theorem State.setByte_pad (s : State) (a : Nat) (b : Byte) : (State.setByte s a b).pad = s.pad := rfl
@[simp] theorem State.setByte_merge (s : State) (a : Nat) (b : Byte) : (State.setByte s a b).merge = s.merge := rfl
@[simp] theorem State.setByte_flowHigh (s : State) (a : Nat) (b : Byte) : (State.setByte s a b).flowHigh = s.flowHigh := rfl
@[simp] theorem State.setByte_reel (s : State) (a : Nat) (b : Byte) : (State.setByte s a b).reel = s.reel := rfl
@[simp] theorem State.setByte_egr (s : State) (a : Nat) (b : Byte) : (State.setByte s a b).egr = s.egr := rfl
@[simp] theorem State.setByte_remote (s : State) (a : Nat) (b : Byte) : (State.setByte s a b).remote = s.remote := rfl
@[simp] theorem State.setByte_ports (s : State) (a : Nat) (b : Byte) : (State.setByte s a b).ports = s.ports := rfl
@[simp] theorem State.setByte_aud (s : State) (a : Nat) (b : Byte) : (State.setByte s a b).aud = s.aud := rfl
@[simp] theorem State.setByte_fol (s : State) (a : Nat) (b : Byte) : (State.setByte s a b).fol = s.fol := rfl
@[simp] theorem State.setByte_mon (s : State) (a : Nat) (b : Byte) : (State.setByte s a b).mon = s.mon := rfl
@[simp] theorem State.setByte_occ (s : State) (a : Nat) (b : Byte) : (State.setByte s a b).occ = s.occ := rfl
@[simp] theorem State.setByte_out (s : State) (a : Nat) (b : Byte) : (State.setByte s a b).out = s.out := rfl
@[simp] theorem State.setByte_pending (s : State) (a : Nat) (b : Byte) : (State.setByte s a b).pending = s.pending := rfl
@[simp] theorem State.setByte_rd (s : State) (a : Nat) (b : Byte) (b0 a0 : Nat) : (State.setByte s a b).rd b0 a0 = s.rd b0 a0 := rfl
@[simp] theorem State.setByte_rdF (s : State) (a : Nat) (b : Byte) (b0 a0 l0 n0 : Nat) : (State.setByte s a b).rdF b0 a0 l0 n0 = s.rdF b0 a0 l0 n0 := rfl
@[simp] theorem State.setByte_ent (s : State) (a : Nat) (b : Byte) (p0 b0 s0 i0 w0 : Nat) : (State.setByte s a b).ent p0 b0 s0 i0 w0 = s.ent p0 b0 s0 i0 w0 := rfl
@[simp] theorem State.setByte_entF (s : State) (a : Nat) (b : Byte) (p0 b0 s0 i0 w0 l0 n0 : Nat) : (State.setByte s a b).entF p0 b0 s0 i0 w0 l0 n0 = s.entF p0 b0 s0 i0 w0 l0 n0 := rfl

/-! ### State.memClear -/

@[simp] theorem State.memClear_regs (s : State) : (State.memClear s).regs = s.regs := rfl
@[simp] theorem State.memClear_tbl (s : State) : (State.memClear s).tbl = s.tbl := rfl
@[simp] theorem State.memClear_beat (s : State) : (State.memClear s).beat = s.beat := rfl
@[simp] theorem State.memClear_free (s : State) : (State.memClear s).free = s.free := rfl
@[simp] theorem State.memClear_bus (s : State) : (State.memClear s).bus = s.bus := rfl
@[simp] theorem State.memClear_host (s : State) : (State.memClear s).host = s.host := rfl
@[simp] theorem State.memClear_fuse (s : State) : (State.memClear s).fuse = s.fuse := rfl
@[simp] theorem State.memClear_key (s : State) : (State.memClear s).key = s.key := rfl
@[simp] theorem State.memClear_lanes (s : State) : (State.memClear s).lanes = s.lanes := rfl
@[simp] theorem State.memClear_epv (s : State) : (State.memClear s).epv = s.epv := rfl
@[simp] theorem State.memClear_saSent (s : State) : (State.memClear s).saSent = s.saSent := rfl
@[simp] theorem State.memClear_tbs (s : State) : (State.memClear s).tbs = s.tbs := rfl
@[simp] theorem State.memClear_cmp (s : State) : (State.memClear s).cmp = s.cmp := rfl
@[simp] theorem State.memClear_cand (s : State) : (State.memClear s).cand = s.cand := rfl
@[simp] theorem State.memClear_gbus (s : State) : (State.memClear s).gbus = s.gbus := rfl
@[simp] theorem State.memClear_mgt (s : State) : (State.memClear s).mgt = s.mgt := rfl
@[simp] theorem State.memClear_flt (s : State) : (State.memClear s).flt = s.flt := rfl
@[simp] theorem State.memClear_pwr (s : State) : (State.memClear s).pwr = s.pwr := rfl
@[simp] theorem State.memClear_fab (s : State) : (State.memClear s).fab = s.fab := rfl
@[simp] theorem State.memClear_take (s : State) : (State.memClear s).take = s.take := rfl
@[simp] theorem State.memClear_pad (s : State) : (State.memClear s).pad = s.pad := rfl
@[simp] theorem State.memClear_merge (s : State) : (State.memClear s).merge = s.merge := rfl
@[simp] theorem State.memClear_flowHigh (s : State) : (State.memClear s).flowHigh = s.flowHigh := rfl
@[simp] theorem State.memClear_reel (s : State) : (State.memClear s).reel = s.reel := rfl
@[simp] theorem State.memClear_egr (s : State) : (State.memClear s).egr = s.egr := rfl
@[simp] theorem State.memClear_remote (s : State) : (State.memClear s).remote = s.remote := rfl
@[simp] theorem State.memClear_ports (s : State) : (State.memClear s).ports = s.ports := rfl
@[simp] theorem State.memClear_aud (s : State) : (State.memClear s).aud = s.aud := rfl
@[simp] theorem State.memClear_fol (s : State) : (State.memClear s).fol = s.fol := rfl
@[simp] theorem State.memClear_mon (s : State) : (State.memClear s).mon = s.mon := rfl
@[simp] theorem State.memClear_occ (s : State) : (State.memClear s).occ = s.occ := rfl
@[simp] theorem State.memClear_out (s : State) : (State.memClear s).out = s.out := rfl
@[simp] theorem State.memClear_pending (s : State) : (State.memClear s).pending = s.pending := rfl
@[simp] theorem State.memClear_rd (s : State) (b0 a0 : Nat) : (State.memClear s).rd b0 a0 = s.rd b0 a0 := rfl
@[simp] theorem State.memClear_rdF (s : State) (b0 a0 l0 n0 : Nat) : (State.memClear s).rdF b0 a0 l0 n0 = s.rdF b0 a0 l0 n0 := rfl
@[simp] theorem State.memClear_ent (s : State) (p0 b0 s0 i0 w0 : Nat) : (State.memClear s).ent p0 b0 s0 i0 w0 = s.ent p0 b0 s0 i0 w0 := rfl
@[simp] theorem State.memClear_entF (s : State) (p0 b0 s0 i0 w0 l0 n0 : Nat) : (State.memClear s).entF p0 b0 s0 i0 w0 l0 n0 = s.entF p0 b0 s0 i0 w0 l0 n0 := rfl

/-! ### State.setAudOut -/

@[simp] theorem State.setAudOut_regs (s : State) (y : Nat) (o : AudOut) : (State.setAudOut s y o).regs = s.regs := rfl
@[simp] theorem State.setAudOut_tbl (s : State) (y : Nat) (o : AudOut) : (State.setAudOut s y o).tbl = s.tbl := rfl
@[simp] theorem State.setAudOut_mem (s : State) (y : Nat) (o : AudOut) : (State.setAudOut s y o).mem = s.mem := rfl
@[simp] theorem State.setAudOut_beat (s : State) (y : Nat) (o : AudOut) : (State.setAudOut s y o).beat = s.beat := rfl
@[simp] theorem State.setAudOut_free (s : State) (y : Nat) (o : AudOut) : (State.setAudOut s y o).free = s.free := rfl
@[simp] theorem State.setAudOut_bus (s : State) (y : Nat) (o : AudOut) : (State.setAudOut s y o).bus = s.bus := rfl
@[simp] theorem State.setAudOut_host (s : State) (y : Nat) (o : AudOut) : (State.setAudOut s y o).host = s.host := rfl
@[simp] theorem State.setAudOut_fuse (s : State) (y : Nat) (o : AudOut) : (State.setAudOut s y o).fuse = s.fuse := rfl
@[simp] theorem State.setAudOut_key (s : State) (y : Nat) (o : AudOut) : (State.setAudOut s y o).key = s.key := rfl
@[simp] theorem State.setAudOut_lanes (s : State) (y : Nat) (o : AudOut) : (State.setAudOut s y o).lanes = s.lanes := rfl
@[simp] theorem State.setAudOut_epv (s : State) (y : Nat) (o : AudOut) : (State.setAudOut s y o).epv = s.epv := rfl
@[simp] theorem State.setAudOut_saSent (s : State) (y : Nat) (o : AudOut) : (State.setAudOut s y o).saSent = s.saSent := rfl
@[simp] theorem State.setAudOut_tbs (s : State) (y : Nat) (o : AudOut) : (State.setAudOut s y o).tbs = s.tbs := rfl
@[simp] theorem State.setAudOut_cmp (s : State) (y : Nat) (o : AudOut) : (State.setAudOut s y o).cmp = s.cmp := rfl
@[simp] theorem State.setAudOut_cand (s : State) (y : Nat) (o : AudOut) : (State.setAudOut s y o).cand = s.cand := rfl
@[simp] theorem State.setAudOut_gbus (s : State) (y : Nat) (o : AudOut) : (State.setAudOut s y o).gbus = s.gbus := rfl
@[simp] theorem State.setAudOut_mgt (s : State) (y : Nat) (o : AudOut) : (State.setAudOut s y o).mgt = s.mgt := rfl
@[simp] theorem State.setAudOut_flt (s : State) (y : Nat) (o : AudOut) : (State.setAudOut s y o).flt = s.flt := rfl
@[simp] theorem State.setAudOut_pwr (s : State) (y : Nat) (o : AudOut) : (State.setAudOut s y o).pwr = s.pwr := rfl
@[simp] theorem State.setAudOut_fab (s : State) (y : Nat) (o : AudOut) : (State.setAudOut s y o).fab = s.fab := rfl
@[simp] theorem State.setAudOut_take (s : State) (y : Nat) (o : AudOut) : (State.setAudOut s y o).take = s.take := rfl
@[simp] theorem State.setAudOut_pad (s : State) (y : Nat) (o : AudOut) : (State.setAudOut s y o).pad = s.pad := rfl
@[simp] theorem State.setAudOut_merge (s : State) (y : Nat) (o : AudOut) : (State.setAudOut s y o).merge = s.merge := rfl
@[simp] theorem State.setAudOut_flowHigh (s : State) (y : Nat) (o : AudOut) : (State.setAudOut s y o).flowHigh = s.flowHigh := rfl
@[simp] theorem State.setAudOut_reel (s : State) (y : Nat) (o : AudOut) : (State.setAudOut s y o).reel = s.reel := rfl
@[simp] theorem State.setAudOut_egr (s : State) (y : Nat) (o : AudOut) : (State.setAudOut s y o).egr = s.egr := rfl
@[simp] theorem State.setAudOut_remote (s : State) (y : Nat) (o : AudOut) : (State.setAudOut s y o).remote = s.remote := rfl
@[simp] theorem State.setAudOut_ports (s : State) (y : Nat) (o : AudOut) : (State.setAudOut s y o).ports = s.ports := rfl
@[simp] theorem State.setAudOut_fol (s : State) (y : Nat) (o : AudOut) : (State.setAudOut s y o).fol = s.fol := rfl
@[simp] theorem State.setAudOut_mon (s : State) (y : Nat) (o : AudOut) : (State.setAudOut s y o).mon = s.mon := rfl
@[simp] theorem State.setAudOut_occ (s : State) (y : Nat) (o : AudOut) : (State.setAudOut s y o).occ = s.occ := rfl
@[simp] theorem State.setAudOut_out (s : State) (y : Nat) (o : AudOut) : (State.setAudOut s y o).out = s.out := rfl
@[simp] theorem State.setAudOut_pending (s : State) (y : Nat) (o : AudOut) : (State.setAudOut s y o).pending = s.pending := rfl
@[simp] theorem State.setAudOut_rd (s : State) (y : Nat) (o : AudOut) (b0 a0 : Nat) : (State.setAudOut s y o).rd b0 a0 = s.rd b0 a0 := rfl
@[simp] theorem State.setAudOut_rdF (s : State) (y : Nat) (o : AudOut) (b0 a0 l0 n0 : Nat) : (State.setAudOut s y o).rdF b0 a0 l0 n0 = s.rdF b0 a0 l0 n0 := rfl
@[simp] theorem State.setAudOut_ent (s : State) (y : Nat) (o : AudOut) (p0 b0 s0 i0 w0 : Nat) : (State.setAudOut s y o).ent p0 b0 s0 i0 w0 = s.ent p0 b0 s0 i0 w0 := rfl
@[simp] theorem State.setAudOut_entF (s : State) (y : Nat) (o : AudOut) (p0 b0 s0 i0 w0 l0 n0 : Nat) : (State.setAudOut s y o).entF p0 b0 s0 i0 w0 l0 n0 = s.entF p0 b0 s0 i0 w0 l0 n0 := rfl
@[simp] theorem State.setAudOut_memByte (s : State) (y : Nat) (o : AudOut) (a0 : Nat) : (State.setAudOut s y o).memByte a0 = s.memByte a0 := rfl

/-! ### State.setAudTx -/

@[simp] theorem State.setAudTx_regs (s : State) (t : AudTx) : (State.setAudTx s t).regs = s.regs := rfl
@[simp] theorem State.setAudTx_tbl (s : State) (t : AudTx) : (State.setAudTx s t).tbl = s.tbl := rfl
@[simp] theorem State.setAudTx_mem (s : State) (t : AudTx) : (State.setAudTx s t).mem = s.mem := rfl
@[simp] theorem State.setAudTx_beat (s : State) (t : AudTx) : (State.setAudTx s t).beat = s.beat := rfl
@[simp] theorem State.setAudTx_free (s : State) (t : AudTx) : (State.setAudTx s t).free = s.free := rfl
@[simp] theorem State.setAudTx_bus (s : State) (t : AudTx) : (State.setAudTx s t).bus = s.bus := rfl
@[simp] theorem State.setAudTx_host (s : State) (t : AudTx) : (State.setAudTx s t).host = s.host := rfl
@[simp] theorem State.setAudTx_fuse (s : State) (t : AudTx) : (State.setAudTx s t).fuse = s.fuse := rfl
@[simp] theorem State.setAudTx_key (s : State) (t : AudTx) : (State.setAudTx s t).key = s.key := rfl
@[simp] theorem State.setAudTx_lanes (s : State) (t : AudTx) : (State.setAudTx s t).lanes = s.lanes := rfl
@[simp] theorem State.setAudTx_epv (s : State) (t : AudTx) : (State.setAudTx s t).epv = s.epv := rfl
@[simp] theorem State.setAudTx_saSent (s : State) (t : AudTx) : (State.setAudTx s t).saSent = s.saSent := rfl
@[simp] theorem State.setAudTx_tbs (s : State) (t : AudTx) : (State.setAudTx s t).tbs = s.tbs := rfl
@[simp] theorem State.setAudTx_cmp (s : State) (t : AudTx) : (State.setAudTx s t).cmp = s.cmp := rfl
@[simp] theorem State.setAudTx_cand (s : State) (t : AudTx) : (State.setAudTx s t).cand = s.cand := rfl
@[simp] theorem State.setAudTx_gbus (s : State) (t : AudTx) : (State.setAudTx s t).gbus = s.gbus := rfl
@[simp] theorem State.setAudTx_mgt (s : State) (t : AudTx) : (State.setAudTx s t).mgt = s.mgt := rfl
@[simp] theorem State.setAudTx_flt (s : State) (t : AudTx) : (State.setAudTx s t).flt = s.flt := rfl
@[simp] theorem State.setAudTx_pwr (s : State) (t : AudTx) : (State.setAudTx s t).pwr = s.pwr := rfl
@[simp] theorem State.setAudTx_fab (s : State) (t : AudTx) : (State.setAudTx s t).fab = s.fab := rfl
@[simp] theorem State.setAudTx_take (s : State) (t : AudTx) : (State.setAudTx s t).take = s.take := rfl
@[simp] theorem State.setAudTx_pad (s : State) (t : AudTx) : (State.setAudTx s t).pad = s.pad := rfl
@[simp] theorem State.setAudTx_merge (s : State) (t : AudTx) : (State.setAudTx s t).merge = s.merge := rfl
@[simp] theorem State.setAudTx_flowHigh (s : State) (t : AudTx) : (State.setAudTx s t).flowHigh = s.flowHigh := rfl
@[simp] theorem State.setAudTx_reel (s : State) (t : AudTx) : (State.setAudTx s t).reel = s.reel := rfl
@[simp] theorem State.setAudTx_egr (s : State) (t : AudTx) : (State.setAudTx s t).egr = s.egr := rfl
@[simp] theorem State.setAudTx_remote (s : State) (t : AudTx) : (State.setAudTx s t).remote = s.remote := rfl
@[simp] theorem State.setAudTx_ports (s : State) (t : AudTx) : (State.setAudTx s t).ports = s.ports := rfl
@[simp] theorem State.setAudTx_fol (s : State) (t : AudTx) : (State.setAudTx s t).fol = s.fol := rfl
@[simp] theorem State.setAudTx_mon (s : State) (t : AudTx) : (State.setAudTx s t).mon = s.mon := rfl
@[simp] theorem State.setAudTx_occ (s : State) (t : AudTx) : (State.setAudTx s t).occ = s.occ := rfl
@[simp] theorem State.setAudTx_out (s : State) (t : AudTx) : (State.setAudTx s t).out = s.out := rfl
@[simp] theorem State.setAudTx_pending (s : State) (t : AudTx) : (State.setAudTx s t).pending = s.pending := rfl
@[simp] theorem State.setAudTx_rd (s : State) (t : AudTx) (b0 a0 : Nat) : (State.setAudTx s t).rd b0 a0 = s.rd b0 a0 := rfl
@[simp] theorem State.setAudTx_rdF (s : State) (t : AudTx) (b0 a0 l0 n0 : Nat) : (State.setAudTx s t).rdF b0 a0 l0 n0 = s.rdF b0 a0 l0 n0 := rfl
@[simp] theorem State.setAudTx_ent (s : State) (t : AudTx) (p0 b0 s0 i0 w0 : Nat) : (State.setAudTx s t).ent p0 b0 s0 i0 w0 = s.ent p0 b0 s0 i0 w0 := rfl
@[simp] theorem State.setAudTx_entF (s : State) (t : AudTx) (p0 b0 s0 i0 w0 l0 n0 : Nat) : (State.setAudTx s t).entF p0 b0 s0 i0 w0 l0 n0 = s.entF p0 b0 s0 i0 w0 l0 n0 := rfl
@[simp] theorem State.setAudTx_memByte (s : State) (t : AudTx) (a0 : Nat) : (State.setAudTx s t).memByte a0 = s.memByte a0 := rfl

/-! ### State.setFolBlks -/

@[simp] theorem State.setFolBlks_regs (s : State) (c : Nat) (l : List FolBlk) : (State.setFolBlks s c l).regs = s.regs := rfl
@[simp] theorem State.setFolBlks_tbl (s : State) (c : Nat) (l : List FolBlk) : (State.setFolBlks s c l).tbl = s.tbl := rfl
@[simp] theorem State.setFolBlks_mem (s : State) (c : Nat) (l : List FolBlk) : (State.setFolBlks s c l).mem = s.mem := rfl
@[simp] theorem State.setFolBlks_beat (s : State) (c : Nat) (l : List FolBlk) : (State.setFolBlks s c l).beat = s.beat := rfl
@[simp] theorem State.setFolBlks_free (s : State) (c : Nat) (l : List FolBlk) : (State.setFolBlks s c l).free = s.free := rfl
@[simp] theorem State.setFolBlks_bus (s : State) (c : Nat) (l : List FolBlk) : (State.setFolBlks s c l).bus = s.bus := rfl
@[simp] theorem State.setFolBlks_host (s : State) (c : Nat) (l : List FolBlk) : (State.setFolBlks s c l).host = s.host := rfl
@[simp] theorem State.setFolBlks_fuse (s : State) (c : Nat) (l : List FolBlk) : (State.setFolBlks s c l).fuse = s.fuse := rfl
@[simp] theorem State.setFolBlks_key (s : State) (c : Nat) (l : List FolBlk) : (State.setFolBlks s c l).key = s.key := rfl
@[simp] theorem State.setFolBlks_lanes (s : State) (c : Nat) (l : List FolBlk) : (State.setFolBlks s c l).lanes = s.lanes := rfl
@[simp] theorem State.setFolBlks_epv (s : State) (c : Nat) (l : List FolBlk) : (State.setFolBlks s c l).epv = s.epv := rfl
@[simp] theorem State.setFolBlks_saSent (s : State) (c : Nat) (l : List FolBlk) : (State.setFolBlks s c l).saSent = s.saSent := rfl
@[simp] theorem State.setFolBlks_tbs (s : State) (c : Nat) (l : List FolBlk) : (State.setFolBlks s c l).tbs = s.tbs := rfl
@[simp] theorem State.setFolBlks_cmp (s : State) (c : Nat) (l : List FolBlk) : (State.setFolBlks s c l).cmp = s.cmp := rfl
@[simp] theorem State.setFolBlks_cand (s : State) (c : Nat) (l : List FolBlk) : (State.setFolBlks s c l).cand = s.cand := rfl
@[simp] theorem State.setFolBlks_gbus (s : State) (c : Nat) (l : List FolBlk) : (State.setFolBlks s c l).gbus = s.gbus := rfl
@[simp] theorem State.setFolBlks_mgt (s : State) (c : Nat) (l : List FolBlk) : (State.setFolBlks s c l).mgt = s.mgt := rfl
@[simp] theorem State.setFolBlks_flt (s : State) (c : Nat) (l : List FolBlk) : (State.setFolBlks s c l).flt = s.flt := rfl
@[simp] theorem State.setFolBlks_pwr (s : State) (c : Nat) (l : List FolBlk) : (State.setFolBlks s c l).pwr = s.pwr := rfl
@[simp] theorem State.setFolBlks_fab (s : State) (c : Nat) (l : List FolBlk) : (State.setFolBlks s c l).fab = s.fab := rfl
@[simp] theorem State.setFolBlks_take (s : State) (c : Nat) (l : List FolBlk) : (State.setFolBlks s c l).take = s.take := rfl
@[simp] theorem State.setFolBlks_pad (s : State) (c : Nat) (l : List FolBlk) : (State.setFolBlks s c l).pad = s.pad := rfl
@[simp] theorem State.setFolBlks_merge (s : State) (c : Nat) (l : List FolBlk) : (State.setFolBlks s c l).merge = s.merge := rfl
@[simp] theorem State.setFolBlks_flowHigh (s : State) (c : Nat) (l : List FolBlk) : (State.setFolBlks s c l).flowHigh = s.flowHigh := rfl
@[simp] theorem State.setFolBlks_reel (s : State) (c : Nat) (l : List FolBlk) : (State.setFolBlks s c l).reel = s.reel := rfl
@[simp] theorem State.setFolBlks_egr (s : State) (c : Nat) (l : List FolBlk) : (State.setFolBlks s c l).egr = s.egr := rfl
@[simp] theorem State.setFolBlks_remote (s : State) (c : Nat) (l : List FolBlk) : (State.setFolBlks s c l).remote = s.remote := rfl
@[simp] theorem State.setFolBlks_ports (s : State) (c : Nat) (l : List FolBlk) : (State.setFolBlks s c l).ports = s.ports := rfl
@[simp] theorem State.setFolBlks_fol (s : State) (c : Nat) (l : List FolBlk) : (State.setFolBlks s c l).fol = s.fol := rfl
@[simp] theorem State.setFolBlks_mon (s : State) (c : Nat) (l : List FolBlk) : (State.setFolBlks s c l).mon = s.mon := rfl
@[simp] theorem State.setFolBlks_occ (s : State) (c : Nat) (l : List FolBlk) : (State.setFolBlks s c l).occ = s.occ := rfl
@[simp] theorem State.setFolBlks_out (s : State) (c : Nat) (l : List FolBlk) : (State.setFolBlks s c l).out = s.out := rfl
@[simp] theorem State.setFolBlks_pending (s : State) (c : Nat) (l : List FolBlk) : (State.setFolBlks s c l).pending = s.pending := rfl
@[simp] theorem State.setFolBlks_rd (s : State) (c : Nat) (l : List FolBlk) (b0 a0 : Nat) : (State.setFolBlks s c l).rd b0 a0 = s.rd b0 a0 := rfl
@[simp] theorem State.setFolBlks_rdF (s : State) (c : Nat) (l : List FolBlk) (b0 a0 l0 n0 : Nat) : (State.setFolBlks s c l).rdF b0 a0 l0 n0 = s.rdF b0 a0 l0 n0 := rfl
@[simp] theorem State.setFolBlks_ent (s : State) (c : Nat) (l : List FolBlk) (p0 b0 s0 i0 w0 : Nat) : (State.setFolBlks s c l).ent p0 b0 s0 i0 w0 = s.ent p0 b0 s0 i0 w0 := rfl
@[simp] theorem State.setFolBlks_entF (s : State) (c : Nat) (l : List FolBlk) (p0 b0 s0 i0 w0 l0 n0 : Nat) : (State.setFolBlks s c l).entF p0 b0 s0 i0 w0 l0 n0 = s.entF p0 b0 s0 i0 w0 l0 n0 := rfl
@[simp] theorem State.setFolBlks_memByte (s : State) (c : Nat) (l : List FolBlk) (a0 : Nat) : (State.setFolBlks s c l).memByte a0 = s.memByte a0 := rfl

/-! ### State.audEnlist -/

@[simp] theorem State.audEnlist_regs (s : State) (t : AudTx) : (State.audEnlist s t).regs = s.regs := rfl
@[simp] theorem State.audEnlist_tbl (s : State) (t : AudTx) : (State.audEnlist s t).tbl = s.tbl := rfl
@[simp] theorem State.audEnlist_mem (s : State) (t : AudTx) : (State.audEnlist s t).mem = s.mem := rfl
@[simp] theorem State.audEnlist_beat (s : State) (t : AudTx) : (State.audEnlist s t).beat = s.beat := rfl
@[simp] theorem State.audEnlist_free (s : State) (t : AudTx) : (State.audEnlist s t).free = s.free := rfl
@[simp] theorem State.audEnlist_bus (s : State) (t : AudTx) : (State.audEnlist s t).bus = s.bus := rfl
@[simp] theorem State.audEnlist_host (s : State) (t : AudTx) : (State.audEnlist s t).host = s.host := rfl
@[simp] theorem State.audEnlist_fuse (s : State) (t : AudTx) : (State.audEnlist s t).fuse = s.fuse := rfl
@[simp] theorem State.audEnlist_key (s : State) (t : AudTx) : (State.audEnlist s t).key = s.key := rfl
@[simp] theorem State.audEnlist_lanes (s : State) (t : AudTx) : (State.audEnlist s t).lanes = s.lanes := rfl
@[simp] theorem State.audEnlist_epv (s : State) (t : AudTx) : (State.audEnlist s t).epv = s.epv := rfl
@[simp] theorem State.audEnlist_saSent (s : State) (t : AudTx) : (State.audEnlist s t).saSent = s.saSent := rfl
@[simp] theorem State.audEnlist_tbs (s : State) (t : AudTx) : (State.audEnlist s t).tbs = s.tbs := rfl
@[simp] theorem State.audEnlist_cmp (s : State) (t : AudTx) : (State.audEnlist s t).cmp = s.cmp := rfl
@[simp] theorem State.audEnlist_cand (s : State) (t : AudTx) : (State.audEnlist s t).cand = s.cand := rfl
@[simp] theorem State.audEnlist_gbus (s : State) (t : AudTx) : (State.audEnlist s t).gbus = s.gbus := rfl
@[simp] theorem State.audEnlist_mgt (s : State) (t : AudTx) : (State.audEnlist s t).mgt = s.mgt := rfl
@[simp] theorem State.audEnlist_flt (s : State) (t : AudTx) : (State.audEnlist s t).flt = s.flt := rfl
@[simp] theorem State.audEnlist_pwr (s : State) (t : AudTx) : (State.audEnlist s t).pwr = s.pwr := rfl
@[simp] theorem State.audEnlist_fab (s : State) (t : AudTx) : (State.audEnlist s t).fab = s.fab := rfl
@[simp] theorem State.audEnlist_take (s : State) (t : AudTx) : (State.audEnlist s t).take = s.take := rfl
@[simp] theorem State.audEnlist_pad (s : State) (t : AudTx) : (State.audEnlist s t).pad = s.pad := rfl
@[simp] theorem State.audEnlist_merge (s : State) (t : AudTx) : (State.audEnlist s t).merge = s.merge := rfl
@[simp] theorem State.audEnlist_flowHigh (s : State) (t : AudTx) : (State.audEnlist s t).flowHigh = s.flowHigh := rfl
@[simp] theorem State.audEnlist_reel (s : State) (t : AudTx) : (State.audEnlist s t).reel = s.reel := rfl
@[simp] theorem State.audEnlist_egr (s : State) (t : AudTx) : (State.audEnlist s t).egr = s.egr := rfl
@[simp] theorem State.audEnlist_remote (s : State) (t : AudTx) : (State.audEnlist s t).remote = s.remote := rfl
@[simp] theorem State.audEnlist_ports (s : State) (t : AudTx) : (State.audEnlist s t).ports = s.ports := rfl
@[simp] theorem State.audEnlist_fol (s : State) (t : AudTx) : (State.audEnlist s t).fol = s.fol := rfl
@[simp] theorem State.audEnlist_mon (s : State) (t : AudTx) : (State.audEnlist s t).mon = s.mon := rfl
@[simp] theorem State.audEnlist_occ (s : State) (t : AudTx) : (State.audEnlist s t).occ = s.occ := rfl
@[simp] theorem State.audEnlist_out (s : State) (t : AudTx) : (State.audEnlist s t).out = s.out := rfl
@[simp] theorem State.audEnlist_pending (s : State) (t : AudTx) : (State.audEnlist s t).pending = s.pending := rfl
@[simp] theorem State.audEnlist_rd (s : State) (t : AudTx) (b0 a0 : Nat) : (State.audEnlist s t).rd b0 a0 = s.rd b0 a0 := rfl
@[simp] theorem State.audEnlist_rdF (s : State) (t : AudTx) (b0 a0 l0 n0 : Nat) : (State.audEnlist s t).rdF b0 a0 l0 n0 = s.rdF b0 a0 l0 n0 := rfl
@[simp] theorem State.audEnlist_ent (s : State) (t : AudTx) (p0 b0 s0 i0 w0 : Nat) : (State.audEnlist s t).ent p0 b0 s0 i0 w0 = s.ent p0 b0 s0 i0 w0 := rfl
@[simp] theorem State.audEnlist_entF (s : State) (t : AudTx) (p0 b0 s0 i0 w0 l0 n0 : Nat) : (State.audEnlist s t).entF p0 b0 s0 i0 w0 l0 n0 = s.entF p0 b0 s0 i0 w0 l0 n0 := rfl
@[simp] theorem State.audEnlist_memByte (s : State) (t : AudTx) (a0 : Nat) : (State.audEnlist s t).memByte a0 = s.memByte a0 := rfl

/-! ### State.setEgr -/

@[simp] theorem State.setEgr_regs (s : State) (eo slot : Nat) (r : EgrRec) : (State.setEgr s eo slot r).regs = s.regs := rfl
@[simp] theorem State.setEgr_tbl (s : State) (eo slot : Nat) (r : EgrRec) : (State.setEgr s eo slot r).tbl = s.tbl := rfl
@[simp] theorem State.setEgr_mem (s : State) (eo slot : Nat) (r : EgrRec) : (State.setEgr s eo slot r).mem = s.mem := rfl
@[simp] theorem State.setEgr_beat (s : State) (eo slot : Nat) (r : EgrRec) : (State.setEgr s eo slot r).beat = s.beat := rfl
@[simp] theorem State.setEgr_free (s : State) (eo slot : Nat) (r : EgrRec) : (State.setEgr s eo slot r).free = s.free := rfl
@[simp] theorem State.setEgr_bus (s : State) (eo slot : Nat) (r : EgrRec) : (State.setEgr s eo slot r).bus = s.bus := rfl
@[simp] theorem State.setEgr_host (s : State) (eo slot : Nat) (r : EgrRec) : (State.setEgr s eo slot r).host = s.host := rfl
@[simp] theorem State.setEgr_fuse (s : State) (eo slot : Nat) (r : EgrRec) : (State.setEgr s eo slot r).fuse = s.fuse := rfl
@[simp] theorem State.setEgr_key (s : State) (eo slot : Nat) (r : EgrRec) : (State.setEgr s eo slot r).key = s.key := rfl
@[simp] theorem State.setEgr_lanes (s : State) (eo slot : Nat) (r : EgrRec) : (State.setEgr s eo slot r).lanes = s.lanes := rfl
@[simp] theorem State.setEgr_epv (s : State) (eo slot : Nat) (r : EgrRec) : (State.setEgr s eo slot r).epv = s.epv := rfl
@[simp] theorem State.setEgr_saSent (s : State) (eo slot : Nat) (r : EgrRec) : (State.setEgr s eo slot r).saSent = s.saSent := rfl
@[simp] theorem State.setEgr_tbs (s : State) (eo slot : Nat) (r : EgrRec) : (State.setEgr s eo slot r).tbs = s.tbs := rfl
@[simp] theorem State.setEgr_cmp (s : State) (eo slot : Nat) (r : EgrRec) : (State.setEgr s eo slot r).cmp = s.cmp := rfl
@[simp] theorem State.setEgr_cand (s : State) (eo slot : Nat) (r : EgrRec) : (State.setEgr s eo slot r).cand = s.cand := rfl
@[simp] theorem State.setEgr_gbus (s : State) (eo slot : Nat) (r : EgrRec) : (State.setEgr s eo slot r).gbus = s.gbus := rfl
@[simp] theorem State.setEgr_mgt (s : State) (eo slot : Nat) (r : EgrRec) : (State.setEgr s eo slot r).mgt = s.mgt := rfl
@[simp] theorem State.setEgr_flt (s : State) (eo slot : Nat) (r : EgrRec) : (State.setEgr s eo slot r).flt = s.flt := rfl
@[simp] theorem State.setEgr_pwr (s : State) (eo slot : Nat) (r : EgrRec) : (State.setEgr s eo slot r).pwr = s.pwr := rfl
@[simp] theorem State.setEgr_fab (s : State) (eo slot : Nat) (r : EgrRec) : (State.setEgr s eo slot r).fab = s.fab := rfl
@[simp] theorem State.setEgr_take (s : State) (eo slot : Nat) (r : EgrRec) : (State.setEgr s eo slot r).take = s.take := rfl
@[simp] theorem State.setEgr_pad (s : State) (eo slot : Nat) (r : EgrRec) : (State.setEgr s eo slot r).pad = s.pad := rfl
@[simp] theorem State.setEgr_merge (s : State) (eo slot : Nat) (r : EgrRec) : (State.setEgr s eo slot r).merge = s.merge := rfl
@[simp] theorem State.setEgr_flowHigh (s : State) (eo slot : Nat) (r : EgrRec) : (State.setEgr s eo slot r).flowHigh = s.flowHigh := rfl
@[simp] theorem State.setEgr_reel (s : State) (eo slot : Nat) (r : EgrRec) : (State.setEgr s eo slot r).reel = s.reel := rfl
@[simp] theorem State.setEgr_remote (s : State) (eo slot : Nat) (r : EgrRec) : (State.setEgr s eo slot r).remote = s.remote := rfl
@[simp] theorem State.setEgr_ports (s : State) (eo slot : Nat) (r : EgrRec) : (State.setEgr s eo slot r).ports = s.ports := rfl
@[simp] theorem State.setEgr_aud (s : State) (eo slot : Nat) (r : EgrRec) : (State.setEgr s eo slot r).aud = s.aud := rfl
@[simp] theorem State.setEgr_fol (s : State) (eo slot : Nat) (r : EgrRec) : (State.setEgr s eo slot r).fol = s.fol := rfl
@[simp] theorem State.setEgr_mon (s : State) (eo slot : Nat) (r : EgrRec) : (State.setEgr s eo slot r).mon = s.mon := rfl
@[simp] theorem State.setEgr_occ (s : State) (eo slot : Nat) (r : EgrRec) : (State.setEgr s eo slot r).occ = s.occ := rfl
@[simp] theorem State.setEgr_out (s : State) (eo slot : Nat) (r : EgrRec) : (State.setEgr s eo slot r).out = s.out := rfl
@[simp] theorem State.setEgr_pending (s : State) (eo slot : Nat) (r : EgrRec) : (State.setEgr s eo slot r).pending = s.pending := rfl
@[simp] theorem State.setEgr_rd (s : State) (eo slot : Nat) (r : EgrRec) (b0 a0 : Nat) : (State.setEgr s eo slot r).rd b0 a0 = s.rd b0 a0 := rfl
@[simp] theorem State.setEgr_rdF (s : State) (eo slot : Nat) (r : EgrRec) (b0 a0 l0 n0 : Nat) : (State.setEgr s eo slot r).rdF b0 a0 l0 n0 = s.rdF b0 a0 l0 n0 := rfl
@[simp] theorem State.setEgr_ent (s : State) (eo slot : Nat) (r : EgrRec) (p0 b0 s0 i0 w0 : Nat) : (State.setEgr s eo slot r).ent p0 b0 s0 i0 w0 = s.ent p0 b0 s0 i0 w0 := rfl
@[simp] theorem State.setEgr_entF (s : State) (eo slot : Nat) (r : EgrRec) (p0 b0 s0 i0 w0 l0 n0 : Nat) : (State.setEgr s eo slot r).entF p0 b0 s0 i0 w0 l0 n0 = s.entF p0 b0 s0 i0 w0 l0 n0 := rfl
@[simp] theorem State.setEgr_memByte (s : State) (eo slot : Nat) (r : EgrRec) (a0 : Nat) : (State.setEgr s eo slot r).memByte a0 = s.memByte a0 := rfl

/-! ### State.setLay -/

@[simp] theorem State.setLay_regs (s : State) (l : Nat) (r : LayRec) : (State.setLay s l r).regs = s.regs := rfl
@[simp] theorem State.setLay_tbl (s : State) (l : Nat) (r : LayRec) : (State.setLay s l r).tbl = s.tbl := rfl
@[simp] theorem State.setLay_mem (s : State) (l : Nat) (r : LayRec) : (State.setLay s l r).mem = s.mem := rfl
@[simp] theorem State.setLay_beat (s : State) (l : Nat) (r : LayRec) : (State.setLay s l r).beat = s.beat := rfl
@[simp] theorem State.setLay_free (s : State) (l : Nat) (r : LayRec) : (State.setLay s l r).free = s.free := rfl
@[simp] theorem State.setLay_bus (s : State) (l : Nat) (r : LayRec) : (State.setLay s l r).bus = s.bus := rfl
@[simp] theorem State.setLay_host (s : State) (l : Nat) (r : LayRec) : (State.setLay s l r).host = s.host := rfl
@[simp] theorem State.setLay_fuse (s : State) (l : Nat) (r : LayRec) : (State.setLay s l r).fuse = s.fuse := rfl
@[simp] theorem State.setLay_key (s : State) (l : Nat) (r : LayRec) : (State.setLay s l r).key = s.key := rfl
@[simp] theorem State.setLay_lanes (s : State) (l : Nat) (r : LayRec) : (State.setLay s l r).lanes = s.lanes := rfl
@[simp] theorem State.setLay_epv (s : State) (l : Nat) (r : LayRec) : (State.setLay s l r).epv = s.epv := rfl
@[simp] theorem State.setLay_saSent (s : State) (l : Nat) (r : LayRec) : (State.setLay s l r).saSent = s.saSent := rfl
@[simp] theorem State.setLay_tbs (s : State) (l : Nat) (r : LayRec) : (State.setLay s l r).tbs = s.tbs := rfl
@[simp] theorem State.setLay_cmp (s : State) (l : Nat) (r : LayRec) : (State.setLay s l r).cmp = s.cmp := rfl
@[simp] theorem State.setLay_cand (s : State) (l : Nat) (r : LayRec) : (State.setLay s l r).cand = s.cand := rfl
@[simp] theorem State.setLay_gbus (s : State) (l : Nat) (r : LayRec) : (State.setLay s l r).gbus = s.gbus := rfl
@[simp] theorem State.setLay_mgt (s : State) (l : Nat) (r : LayRec) : (State.setLay s l r).mgt = s.mgt := rfl
@[simp] theorem State.setLay_flt (s : State) (l : Nat) (r : LayRec) : (State.setLay s l r).flt = s.flt := rfl
@[simp] theorem State.setLay_pwr (s : State) (l : Nat) (r : LayRec) : (State.setLay s l r).pwr = s.pwr := rfl
@[simp] theorem State.setLay_fab (s : State) (l : Nat) (r : LayRec) : (State.setLay s l r).fab = s.fab := rfl
@[simp] theorem State.setLay_take (s : State) (l : Nat) (r : LayRec) : (State.setLay s l r).take = s.take := rfl
@[simp] theorem State.setLay_pad (s : State) (l : Nat) (r : LayRec) : (State.setLay s l r).pad = s.pad := rfl
@[simp] theorem State.setLay_merge (s : State) (l : Nat) (r : LayRec) : (State.setLay s l r).merge = s.merge := rfl
@[simp] theorem State.setLay_flowHigh (s : State) (l : Nat) (r : LayRec) : (State.setLay s l r).flowHigh = s.flowHigh := rfl
@[simp] theorem State.setLay_reel (s : State) (l : Nat) (r : LayRec) : (State.setLay s l r).reel = s.reel := rfl
@[simp] theorem State.setLay_egr (s : State) (l : Nat) (r : LayRec) : (State.setLay s l r).egr = s.egr := rfl
@[simp] theorem State.setLay_remote (s : State) (l : Nat) (r : LayRec) : (State.setLay s l r).remote = s.remote := rfl
@[simp] theorem State.setLay_ports (s : State) (l : Nat) (r : LayRec) : (State.setLay s l r).ports = s.ports := rfl
@[simp] theorem State.setLay_aud (s : State) (l : Nat) (r : LayRec) : (State.setLay s l r).aud = s.aud := rfl
@[simp] theorem State.setLay_fol (s : State) (l : Nat) (r : LayRec) : (State.setLay s l r).fol = s.fol := rfl
@[simp] theorem State.setLay_occ (s : State) (l : Nat) (r : LayRec) : (State.setLay s l r).occ = s.occ := rfl
@[simp] theorem State.setLay_out (s : State) (l : Nat) (r : LayRec) : (State.setLay s l r).out = s.out := rfl
@[simp] theorem State.setLay_pending (s : State) (l : Nat) (r : LayRec) : (State.setLay s l r).pending = s.pending := rfl
@[simp] theorem State.setLay_rd (s : State) (l : Nat) (r : LayRec) (b0 a0 : Nat) : (State.setLay s l r).rd b0 a0 = s.rd b0 a0 := rfl
@[simp] theorem State.setLay_rdF (s : State) (l : Nat) (r : LayRec) (b0 a0 l0 n0 : Nat) : (State.setLay s l r).rdF b0 a0 l0 n0 = s.rdF b0 a0 l0 n0 := rfl
@[simp] theorem State.setLay_ent (s : State) (l : Nat) (r : LayRec) (p0 b0 s0 i0 w0 : Nat) : (State.setLay s l r).ent p0 b0 s0 i0 w0 = s.ent p0 b0 s0 i0 w0 := rfl
@[simp] theorem State.setLay_entF (s : State) (l : Nat) (r : LayRec) (p0 b0 s0 i0 w0 l0 n0 : Nat) : (State.setLay s l r).entF p0 b0 s0 i0 w0 l0 n0 = s.entF p0 b0 s0 i0 w0 l0 n0 := rfl
@[simp] theorem State.setLay_memByte (s : State) (l : Nat) (r : LayRec) (a0 : Nat) : (State.setLay s l r).memByte a0 = s.memByte a0 := rfl

/-! ### State.setHead -/

@[simp] theorem State.setHead_regs (s : State) (h : Nat) (r : HeadRec) : (State.setHead s h r).regs = s.regs := rfl
@[simp] theorem State.setHead_tbl (s : State) (h : Nat) (r : HeadRec) : (State.setHead s h r).tbl = s.tbl := rfl
@[simp] theorem State.setHead_mem (s : State) (h : Nat) (r : HeadRec) : (State.setHead s h r).mem = s.mem := rfl
@[simp] theorem State.setHead_beat (s : State) (h : Nat) (r : HeadRec) : (State.setHead s h r).beat = s.beat := rfl
@[simp] theorem State.setHead_free (s : State) (h : Nat) (r : HeadRec) : (State.setHead s h r).free = s.free := rfl
@[simp] theorem State.setHead_bus (s : State) (h : Nat) (r : HeadRec) : (State.setHead s h r).bus = s.bus := rfl
@[simp] theorem State.setHead_host (s : State) (h : Nat) (r : HeadRec) : (State.setHead s h r).host = s.host := rfl
@[simp] theorem State.setHead_fuse (s : State) (h : Nat) (r : HeadRec) : (State.setHead s h r).fuse = s.fuse := rfl
@[simp] theorem State.setHead_key (s : State) (h : Nat) (r : HeadRec) : (State.setHead s h r).key = s.key := rfl
@[simp] theorem State.setHead_lanes (s : State) (h : Nat) (r : HeadRec) : (State.setHead s h r).lanes = s.lanes := rfl
@[simp] theorem State.setHead_epv (s : State) (h : Nat) (r : HeadRec) : (State.setHead s h r).epv = s.epv := rfl
@[simp] theorem State.setHead_saSent (s : State) (h : Nat) (r : HeadRec) : (State.setHead s h r).saSent = s.saSent := rfl
@[simp] theorem State.setHead_tbs (s : State) (h : Nat) (r : HeadRec) : (State.setHead s h r).tbs = s.tbs := rfl
@[simp] theorem State.setHead_cmp (s : State) (h : Nat) (r : HeadRec) : (State.setHead s h r).cmp = s.cmp := rfl
@[simp] theorem State.setHead_cand (s : State) (h : Nat) (r : HeadRec) : (State.setHead s h r).cand = s.cand := rfl
@[simp] theorem State.setHead_gbus (s : State) (h : Nat) (r : HeadRec) : (State.setHead s h r).gbus = s.gbus := rfl
@[simp] theorem State.setHead_mgt (s : State) (h : Nat) (r : HeadRec) : (State.setHead s h r).mgt = s.mgt := rfl
@[simp] theorem State.setHead_flt (s : State) (h : Nat) (r : HeadRec) : (State.setHead s h r).flt = s.flt := rfl
@[simp] theorem State.setHead_pwr (s : State) (h : Nat) (r : HeadRec) : (State.setHead s h r).pwr = s.pwr := rfl
@[simp] theorem State.setHead_fab (s : State) (h : Nat) (r : HeadRec) : (State.setHead s h r).fab = s.fab := rfl
@[simp] theorem State.setHead_take (s : State) (h : Nat) (r : HeadRec) : (State.setHead s h r).take = s.take := rfl
@[simp] theorem State.setHead_pad (s : State) (h : Nat) (r : HeadRec) : (State.setHead s h r).pad = s.pad := rfl
@[simp] theorem State.setHead_merge (s : State) (h : Nat) (r : HeadRec) : (State.setHead s h r).merge = s.merge := rfl
@[simp] theorem State.setHead_flowHigh (s : State) (h : Nat) (r : HeadRec) : (State.setHead s h r).flowHigh = s.flowHigh := rfl
@[simp] theorem State.setHead_reel (s : State) (h : Nat) (r : HeadRec) : (State.setHead s h r).reel = s.reel := rfl
@[simp] theorem State.setHead_egr (s : State) (h : Nat) (r : HeadRec) : (State.setHead s h r).egr = s.egr := rfl
@[simp] theorem State.setHead_remote (s : State) (h : Nat) (r : HeadRec) : (State.setHead s h r).remote = s.remote := rfl
@[simp] theorem State.setHead_ports (s : State) (h : Nat) (r : HeadRec) : (State.setHead s h r).ports = s.ports := rfl
@[simp] theorem State.setHead_aud (s : State) (h : Nat) (r : HeadRec) : (State.setHead s h r).aud = s.aud := rfl
@[simp] theorem State.setHead_fol (s : State) (h : Nat) (r : HeadRec) : (State.setHead s h r).fol = s.fol := rfl
@[simp] theorem State.setHead_occ (s : State) (h : Nat) (r : HeadRec) : (State.setHead s h r).occ = s.occ := rfl
@[simp] theorem State.setHead_out (s : State) (h : Nat) (r : HeadRec) : (State.setHead s h r).out = s.out := rfl
@[simp] theorem State.setHead_pending (s : State) (h : Nat) (r : HeadRec) : (State.setHead s h r).pending = s.pending := rfl
@[simp] theorem State.setHead_rd (s : State) (h : Nat) (r : HeadRec) (b0 a0 : Nat) : (State.setHead s h r).rd b0 a0 = s.rd b0 a0 := rfl
@[simp] theorem State.setHead_rdF (s : State) (h : Nat) (r : HeadRec) (b0 a0 l0 n0 : Nat) : (State.setHead s h r).rdF b0 a0 l0 n0 = s.rdF b0 a0 l0 n0 := rfl
@[simp] theorem State.setHead_ent (s : State) (h : Nat) (r : HeadRec) (p0 b0 s0 i0 w0 : Nat) : (State.setHead s h r).ent p0 b0 s0 i0 w0 = s.ent p0 b0 s0 i0 w0 := rfl
@[simp] theorem State.setHead_entF (s : State) (h : Nat) (r : HeadRec) (p0 b0 s0 i0 w0 l0 n0 : Nat) : (State.setHead s h r).entF p0 b0 s0 i0 w0 l0 n0 = s.entF p0 b0 s0 i0 w0 l0 n0 := rfl
@[simp] theorem State.setHead_memByte (s : State) (h : Nat) (r : HeadRec) (a0 : Nat) : (State.setHead s h r).memByte a0 = s.memByte a0 := rfl

/-! ### State.monClear -/

@[simp] theorem State.monClear_regs (s : State) : (State.monClear s).regs = s.regs := rfl
@[simp] theorem State.monClear_tbl (s : State) : (State.monClear s).tbl = s.tbl := rfl
@[simp] theorem State.monClear_mem (s : State) : (State.monClear s).mem = s.mem := rfl
@[simp] theorem State.monClear_beat (s : State) : (State.monClear s).beat = s.beat := rfl
@[simp] theorem State.monClear_free (s : State) : (State.monClear s).free = s.free := rfl
@[simp] theorem State.monClear_bus (s : State) : (State.monClear s).bus = s.bus := rfl
@[simp] theorem State.monClear_host (s : State) : (State.monClear s).host = s.host := rfl
@[simp] theorem State.monClear_fuse (s : State) : (State.monClear s).fuse = s.fuse := rfl
@[simp] theorem State.monClear_key (s : State) : (State.monClear s).key = s.key := rfl
@[simp] theorem State.monClear_lanes (s : State) : (State.monClear s).lanes = s.lanes := rfl
@[simp] theorem State.monClear_epv (s : State) : (State.monClear s).epv = s.epv := rfl
@[simp] theorem State.monClear_saSent (s : State) : (State.monClear s).saSent = s.saSent := rfl
@[simp] theorem State.monClear_tbs (s : State) : (State.monClear s).tbs = s.tbs := rfl
@[simp] theorem State.monClear_cmp (s : State) : (State.monClear s).cmp = s.cmp := rfl
@[simp] theorem State.monClear_cand (s : State) : (State.monClear s).cand = s.cand := rfl
@[simp] theorem State.monClear_gbus (s : State) : (State.monClear s).gbus = s.gbus := rfl
@[simp] theorem State.monClear_mgt (s : State) : (State.monClear s).mgt = s.mgt := rfl
@[simp] theorem State.monClear_flt (s : State) : (State.monClear s).flt = s.flt := rfl
@[simp] theorem State.monClear_pwr (s : State) : (State.monClear s).pwr = s.pwr := rfl
@[simp] theorem State.monClear_fab (s : State) : (State.monClear s).fab = s.fab := rfl
@[simp] theorem State.monClear_take (s : State) : (State.monClear s).take = s.take := rfl
@[simp] theorem State.monClear_pad (s : State) : (State.monClear s).pad = s.pad := rfl
@[simp] theorem State.monClear_merge (s : State) : (State.monClear s).merge = s.merge := rfl
@[simp] theorem State.monClear_flowHigh (s : State) : (State.monClear s).flowHigh = s.flowHigh := rfl
@[simp] theorem State.monClear_reel (s : State) : (State.monClear s).reel = s.reel := rfl
@[simp] theorem State.monClear_egr (s : State) : (State.monClear s).egr = s.egr := rfl
@[simp] theorem State.monClear_remote (s : State) : (State.monClear s).remote = s.remote := rfl
@[simp] theorem State.monClear_ports (s : State) : (State.monClear s).ports = s.ports := rfl
@[simp] theorem State.monClear_aud (s : State) : (State.monClear s).aud = s.aud := rfl
@[simp] theorem State.monClear_fol (s : State) : (State.monClear s).fol = s.fol := rfl
@[simp] theorem State.monClear_occ (s : State) : (State.monClear s).occ = s.occ := rfl
@[simp] theorem State.monClear_out (s : State) : (State.monClear s).out = s.out := rfl
@[simp] theorem State.monClear_pending (s : State) : (State.monClear s).pending = s.pending := rfl
@[simp] theorem State.monClear_rd (s : State) (b0 a0 : Nat) : (State.monClear s).rd b0 a0 = s.rd b0 a0 := rfl
@[simp] theorem State.monClear_rdF (s : State) (b0 a0 l0 n0 : Nat) : (State.monClear s).rdF b0 a0 l0 n0 = s.rdF b0 a0 l0 n0 := rfl
@[simp] theorem State.monClear_ent (s : State) (p0 b0 s0 i0 w0 : Nat) : (State.monClear s).ent p0 b0 s0 i0 w0 = s.ent p0 b0 s0 i0 w0 := rfl
@[simp] theorem State.monClear_entF (s : State) (p0 b0 s0 i0 w0 l0 n0 : Nat) : (State.monClear s).entF p0 b0 s0 i0 w0 l0 n0 = s.entF p0 b0 s0 i0 w0 l0 n0 := rfl
@[simp] theorem State.monClear_memByte (s : State) (a0 : Nat) : (State.monClear s).memByte a0 = s.memByte a0 := rfl

/-! ### State.setFol -/

@[simp] theorem State.setFol_regs (s : State) (c : Nat) (r : FolRec) : (State.setFol s c r).regs = s.regs := rfl
@[simp] theorem State.setFol_tbl (s : State) (c : Nat) (r : FolRec) : (State.setFol s c r).tbl = s.tbl := rfl
@[simp] theorem State.setFol_mem (s : State) (c : Nat) (r : FolRec) : (State.setFol s c r).mem = s.mem := rfl
@[simp] theorem State.setFol_beat (s : State) (c : Nat) (r : FolRec) : (State.setFol s c r).beat = s.beat := rfl
@[simp] theorem State.setFol_free (s : State) (c : Nat) (r : FolRec) : (State.setFol s c r).free = s.free := rfl
@[simp] theorem State.setFol_bus (s : State) (c : Nat) (r : FolRec) : (State.setFol s c r).bus = s.bus := rfl
@[simp] theorem State.setFol_host (s : State) (c : Nat) (r : FolRec) : (State.setFol s c r).host = s.host := rfl
@[simp] theorem State.setFol_fuse (s : State) (c : Nat) (r : FolRec) : (State.setFol s c r).fuse = s.fuse := rfl
@[simp] theorem State.setFol_key (s : State) (c : Nat) (r : FolRec) : (State.setFol s c r).key = s.key := rfl
@[simp] theorem State.setFol_lanes (s : State) (c : Nat) (r : FolRec) : (State.setFol s c r).lanes = s.lanes := rfl
@[simp] theorem State.setFol_epv (s : State) (c : Nat) (r : FolRec) : (State.setFol s c r).epv = s.epv := rfl
@[simp] theorem State.setFol_saSent (s : State) (c : Nat) (r : FolRec) : (State.setFol s c r).saSent = s.saSent := rfl
@[simp] theorem State.setFol_tbs (s : State) (c : Nat) (r : FolRec) : (State.setFol s c r).tbs = s.tbs := rfl
@[simp] theorem State.setFol_cmp (s : State) (c : Nat) (r : FolRec) : (State.setFol s c r).cmp = s.cmp := rfl
@[simp] theorem State.setFol_cand (s : State) (c : Nat) (r : FolRec) : (State.setFol s c r).cand = s.cand := rfl
@[simp] theorem State.setFol_gbus (s : State) (c : Nat) (r : FolRec) : (State.setFol s c r).gbus = s.gbus := rfl
@[simp] theorem State.setFol_mgt (s : State) (c : Nat) (r : FolRec) : (State.setFol s c r).mgt = s.mgt := rfl
@[simp] theorem State.setFol_flt (s : State) (c : Nat) (r : FolRec) : (State.setFol s c r).flt = s.flt := rfl
@[simp] theorem State.setFol_pwr (s : State) (c : Nat) (r : FolRec) : (State.setFol s c r).pwr = s.pwr := rfl
@[simp] theorem State.setFol_fab (s : State) (c : Nat) (r : FolRec) : (State.setFol s c r).fab = s.fab := rfl
@[simp] theorem State.setFol_take (s : State) (c : Nat) (r : FolRec) : (State.setFol s c r).take = s.take := rfl
@[simp] theorem State.setFol_pad (s : State) (c : Nat) (r : FolRec) : (State.setFol s c r).pad = s.pad := rfl
@[simp] theorem State.setFol_merge (s : State) (c : Nat) (r : FolRec) : (State.setFol s c r).merge = s.merge := rfl
@[simp] theorem State.setFol_flowHigh (s : State) (c : Nat) (r : FolRec) : (State.setFol s c r).flowHigh = s.flowHigh := rfl
@[simp] theorem State.setFol_reel (s : State) (c : Nat) (r : FolRec) : (State.setFol s c r).reel = s.reel := rfl
@[simp] theorem State.setFol_egr (s : State) (c : Nat) (r : FolRec) : (State.setFol s c r).egr = s.egr := rfl
@[simp] theorem State.setFol_remote (s : State) (c : Nat) (r : FolRec) : (State.setFol s c r).remote = s.remote := rfl
@[simp] theorem State.setFol_ports (s : State) (c : Nat) (r : FolRec) : (State.setFol s c r).ports = s.ports := rfl
@[simp] theorem State.setFol_aud (s : State) (c : Nat) (r : FolRec) : (State.setFol s c r).aud = s.aud := rfl
@[simp] theorem State.setFol_mon (s : State) (c : Nat) (r : FolRec) : (State.setFol s c r).mon = s.mon := rfl
@[simp] theorem State.setFol_occ (s : State) (c : Nat) (r : FolRec) : (State.setFol s c r).occ = s.occ := rfl
@[simp] theorem State.setFol_out (s : State) (c : Nat) (r : FolRec) : (State.setFol s c r).out = s.out := rfl
@[simp] theorem State.setFol_pending (s : State) (c : Nat) (r : FolRec) : (State.setFol s c r).pending = s.pending := rfl
@[simp] theorem State.setFol_rd (s : State) (c : Nat) (r : FolRec) (b0 a0 : Nat) : (State.setFol s c r).rd b0 a0 = s.rd b0 a0 := rfl
@[simp] theorem State.setFol_rdF (s : State) (c : Nat) (r : FolRec) (b0 a0 l0 n0 : Nat) : (State.setFol s c r).rdF b0 a0 l0 n0 = s.rdF b0 a0 l0 n0 := rfl
@[simp] theorem State.setFol_ent (s : State) (c : Nat) (r : FolRec) (p0 b0 s0 i0 w0 : Nat) : (State.setFol s c r).ent p0 b0 s0 i0 w0 = s.ent p0 b0 s0 i0 w0 := rfl
@[simp] theorem State.setFol_entF (s : State) (c : Nat) (r : FolRec) (p0 b0 s0 i0 w0 l0 n0 : Nat) : (State.setFol s c r).entF p0 b0 s0 i0 w0 l0 n0 = s.entF p0 b0 s0 i0 w0 l0 n0 := rfl
@[simp] theorem State.setFol_memByte (s : State) (c : Nat) (r : FolRec) (a0 : Nat) : (State.setFol s c r).memByte a0 = s.memByte a0 := rfl

/-! ### State.setCand -/

@[simp] theorem State.setCand_regs (s : State) (c : Nat) (r : CandRec) : (State.setCand s c r).regs = s.regs := rfl
@[simp] theorem State.setCand_tbl (s : State) (c : Nat) (r : CandRec) : (State.setCand s c r).tbl = s.tbl := rfl
@[simp] theorem State.setCand_mem (s : State) (c : Nat) (r : CandRec) : (State.setCand s c r).mem = s.mem := rfl
@[simp] theorem State.setCand_beat (s : State) (c : Nat) (r : CandRec) : (State.setCand s c r).beat = s.beat := rfl
@[simp] theorem State.setCand_free (s : State) (c : Nat) (r : CandRec) : (State.setCand s c r).free = s.free := rfl
@[simp] theorem State.setCand_bus (s : State) (c : Nat) (r : CandRec) : (State.setCand s c r).bus = s.bus := rfl
@[simp] theorem State.setCand_host (s : State) (c : Nat) (r : CandRec) : (State.setCand s c r).host = s.host := rfl
@[simp] theorem State.setCand_fuse (s : State) (c : Nat) (r : CandRec) : (State.setCand s c r).fuse = s.fuse := rfl
@[simp] theorem State.setCand_key (s : State) (c : Nat) (r : CandRec) : (State.setCand s c r).key = s.key := rfl
@[simp] theorem State.setCand_lanes (s : State) (c : Nat) (r : CandRec) : (State.setCand s c r).lanes = s.lanes := rfl
@[simp] theorem State.setCand_epv (s : State) (c : Nat) (r : CandRec) : (State.setCand s c r).epv = s.epv := rfl
@[simp] theorem State.setCand_saSent (s : State) (c : Nat) (r : CandRec) : (State.setCand s c r).saSent = s.saSent := rfl
@[simp] theorem State.setCand_tbs (s : State) (c : Nat) (r : CandRec) : (State.setCand s c r).tbs = s.tbs := rfl
@[simp] theorem State.setCand_cmp (s : State) (c : Nat) (r : CandRec) : (State.setCand s c r).cmp = s.cmp := rfl
@[simp] theorem State.setCand_gbus (s : State) (c : Nat) (r : CandRec) : (State.setCand s c r).gbus = s.gbus := rfl
@[simp] theorem State.setCand_mgt (s : State) (c : Nat) (r : CandRec) : (State.setCand s c r).mgt = s.mgt := rfl
@[simp] theorem State.setCand_flt (s : State) (c : Nat) (r : CandRec) : (State.setCand s c r).flt = s.flt := rfl
@[simp] theorem State.setCand_pwr (s : State) (c : Nat) (r : CandRec) : (State.setCand s c r).pwr = s.pwr := rfl
@[simp] theorem State.setCand_fab (s : State) (c : Nat) (r : CandRec) : (State.setCand s c r).fab = s.fab := rfl
@[simp] theorem State.setCand_take (s : State) (c : Nat) (r : CandRec) : (State.setCand s c r).take = s.take := rfl
@[simp] theorem State.setCand_pad (s : State) (c : Nat) (r : CandRec) : (State.setCand s c r).pad = s.pad := rfl
@[simp] theorem State.setCand_merge (s : State) (c : Nat) (r : CandRec) : (State.setCand s c r).merge = s.merge := rfl
@[simp] theorem State.setCand_flowHigh (s : State) (c : Nat) (r : CandRec) : (State.setCand s c r).flowHigh = s.flowHigh := rfl
@[simp] theorem State.setCand_reel (s : State) (c : Nat) (r : CandRec) : (State.setCand s c r).reel = s.reel := rfl
@[simp] theorem State.setCand_egr (s : State) (c : Nat) (r : CandRec) : (State.setCand s c r).egr = s.egr := rfl
@[simp] theorem State.setCand_remote (s : State) (c : Nat) (r : CandRec) : (State.setCand s c r).remote = s.remote := rfl
@[simp] theorem State.setCand_ports (s : State) (c : Nat) (r : CandRec) : (State.setCand s c r).ports = s.ports := rfl
@[simp] theorem State.setCand_aud (s : State) (c : Nat) (r : CandRec) : (State.setCand s c r).aud = s.aud := rfl
@[simp] theorem State.setCand_fol (s : State) (c : Nat) (r : CandRec) : (State.setCand s c r).fol = s.fol := rfl
@[simp] theorem State.setCand_mon (s : State) (c : Nat) (r : CandRec) : (State.setCand s c r).mon = s.mon := rfl
@[simp] theorem State.setCand_occ (s : State) (c : Nat) (r : CandRec) : (State.setCand s c r).occ = s.occ := rfl
@[simp] theorem State.setCand_out (s : State) (c : Nat) (r : CandRec) : (State.setCand s c r).out = s.out := rfl
@[simp] theorem State.setCand_pending (s : State) (c : Nat) (r : CandRec) : (State.setCand s c r).pending = s.pending := rfl
@[simp] theorem State.setCand_rd (s : State) (c : Nat) (r : CandRec) (b0 a0 : Nat) : (State.setCand s c r).rd b0 a0 = s.rd b0 a0 := rfl
@[simp] theorem State.setCand_rdF (s : State) (c : Nat) (r : CandRec) (b0 a0 l0 n0 : Nat) : (State.setCand s c r).rdF b0 a0 l0 n0 = s.rdF b0 a0 l0 n0 := rfl
@[simp] theorem State.setCand_ent (s : State) (c : Nat) (r : CandRec) (p0 b0 s0 i0 w0 : Nat) : (State.setCand s c r).ent p0 b0 s0 i0 w0 = s.ent p0 b0 s0 i0 w0 := rfl
@[simp] theorem State.setCand_entF (s : State) (c : Nat) (r : CandRec) (p0 b0 s0 i0 w0 l0 n0 : Nat) : (State.setCand s c r).entF p0 b0 s0 i0 w0 l0 n0 = s.entF p0 b0 s0 i0 w0 l0 n0 := rfl
@[simp] theorem State.setCand_memByte (s : State) (c : Nat) (r : CandRec) (a0 : Nat) : (State.setCand s c r).memByte a0 = s.memByte a0 := rfl

/-! ### State.setG -/

@[simp] theorem State.setG_regs (s : State) (g : GbusSt) : (State.setG s g).regs = s.regs := rfl
@[simp] theorem State.setG_tbl (s : State) (g : GbusSt) : (State.setG s g).tbl = s.tbl := rfl
@[simp] theorem State.setG_mem (s : State) (g : GbusSt) : (State.setG s g).mem = s.mem := rfl
@[simp] theorem State.setG_beat (s : State) (g : GbusSt) : (State.setG s g).beat = s.beat := rfl
@[simp] theorem State.setG_free (s : State) (g : GbusSt) : (State.setG s g).free = s.free := rfl
@[simp] theorem State.setG_bus (s : State) (g : GbusSt) : (State.setG s g).bus = s.bus := rfl
@[simp] theorem State.setG_host (s : State) (g : GbusSt) : (State.setG s g).host = s.host := rfl
@[simp] theorem State.setG_fuse (s : State) (g : GbusSt) : (State.setG s g).fuse = s.fuse := rfl
@[simp] theorem State.setG_key (s : State) (g : GbusSt) : (State.setG s g).key = s.key := rfl
@[simp] theorem State.setG_lanes (s : State) (g : GbusSt) : (State.setG s g).lanes = s.lanes := rfl
@[simp] theorem State.setG_epv (s : State) (g : GbusSt) : (State.setG s g).epv = s.epv := rfl
@[simp] theorem State.setG_saSent (s : State) (g : GbusSt) : (State.setG s g).saSent = s.saSent := rfl
@[simp] theorem State.setG_tbs (s : State) (g : GbusSt) : (State.setG s g).tbs = s.tbs := rfl
@[simp] theorem State.setG_cmp (s : State) (g : GbusSt) : (State.setG s g).cmp = s.cmp := rfl
@[simp] theorem State.setG_cand (s : State) (g : GbusSt) : (State.setG s g).cand = s.cand := rfl
@[simp] theorem State.setG_mgt (s : State) (g : GbusSt) : (State.setG s g).mgt = s.mgt := rfl
@[simp] theorem State.setG_flt (s : State) (g : GbusSt) : (State.setG s g).flt = s.flt := rfl
@[simp] theorem State.setG_pwr (s : State) (g : GbusSt) : (State.setG s g).pwr = s.pwr := rfl
@[simp] theorem State.setG_fab (s : State) (g : GbusSt) : (State.setG s g).fab = s.fab := rfl
@[simp] theorem State.setG_take (s : State) (g : GbusSt) : (State.setG s g).take = s.take := rfl
@[simp] theorem State.setG_pad (s : State) (g : GbusSt) : (State.setG s g).pad = s.pad := rfl
@[simp] theorem State.setG_merge (s : State) (g : GbusSt) : (State.setG s g).merge = s.merge := rfl
@[simp] theorem State.setG_flowHigh (s : State) (g : GbusSt) : (State.setG s g).flowHigh = s.flowHigh := rfl
@[simp] theorem State.setG_reel (s : State) (g : GbusSt) : (State.setG s g).reel = s.reel := rfl
@[simp] theorem State.setG_egr (s : State) (g : GbusSt) : (State.setG s g).egr = s.egr := rfl
@[simp] theorem State.setG_remote (s : State) (g : GbusSt) : (State.setG s g).remote = s.remote := rfl
@[simp] theorem State.setG_ports (s : State) (g : GbusSt) : (State.setG s g).ports = s.ports := rfl
@[simp] theorem State.setG_aud (s : State) (g : GbusSt) : (State.setG s g).aud = s.aud := rfl
@[simp] theorem State.setG_fol (s : State) (g : GbusSt) : (State.setG s g).fol = s.fol := rfl
@[simp] theorem State.setG_mon (s : State) (g : GbusSt) : (State.setG s g).mon = s.mon := rfl
@[simp] theorem State.setG_occ (s : State) (g : GbusSt) : (State.setG s g).occ = s.occ := rfl
@[simp] theorem State.setG_out (s : State) (g : GbusSt) : (State.setG s g).out = s.out := rfl
@[simp] theorem State.setG_pending (s : State) (g : GbusSt) : (State.setG s g).pending = s.pending := rfl
@[simp] theorem State.setG_rd (s : State) (g : GbusSt) (b0 a0 : Nat) : (State.setG s g).rd b0 a0 = s.rd b0 a0 := rfl
@[simp] theorem State.setG_rdF (s : State) (g : GbusSt) (b0 a0 l0 n0 : Nat) : (State.setG s g).rdF b0 a0 l0 n0 = s.rdF b0 a0 l0 n0 := rfl
@[simp] theorem State.setG_ent (s : State) (g : GbusSt) (p0 b0 s0 i0 w0 : Nat) : (State.setG s g).ent p0 b0 s0 i0 w0 = s.ent p0 b0 s0 i0 w0 := rfl
@[simp] theorem State.setG_entF (s : State) (g : GbusSt) (p0 b0 s0 i0 w0 l0 n0 : Nat) : (State.setG s g).entF p0 b0 s0 i0 w0 l0 n0 = s.entF p0 b0 s0 i0 w0 l0 n0 := rfl
@[simp] theorem State.setG_memByte (s : State) (g : GbusSt) (a0 : Nat) : (State.setG s g).memByte a0 = s.memByte a0 := rfl

/-! ### State.setTb -/

@[simp] theorem State.setTb_regs (s : State) (n : Nat) (r : TbRec) : (State.setTb s n r).regs = s.regs := rfl
@[simp] theorem State.setTb_tbl (s : State) (n : Nat) (r : TbRec) : (State.setTb s n r).tbl = s.tbl := rfl
@[simp] theorem State.setTb_mem (s : State) (n : Nat) (r : TbRec) : (State.setTb s n r).mem = s.mem := rfl
@[simp] theorem State.setTb_beat (s : State) (n : Nat) (r : TbRec) : (State.setTb s n r).beat = s.beat := rfl
@[simp] theorem State.setTb_free (s : State) (n : Nat) (r : TbRec) : (State.setTb s n r).free = s.free := rfl
@[simp] theorem State.setTb_bus (s : State) (n : Nat) (r : TbRec) : (State.setTb s n r).bus = s.bus := rfl
@[simp] theorem State.setTb_host (s : State) (n : Nat) (r : TbRec) : (State.setTb s n r).host = s.host := rfl
@[simp] theorem State.setTb_fuse (s : State) (n : Nat) (r : TbRec) : (State.setTb s n r).fuse = s.fuse := rfl
@[simp] theorem State.setTb_key (s : State) (n : Nat) (r : TbRec) : (State.setTb s n r).key = s.key := rfl
@[simp] theorem State.setTb_lanes (s : State) (n : Nat) (r : TbRec) : (State.setTb s n r).lanes = s.lanes := rfl
@[simp] theorem State.setTb_epv (s : State) (n : Nat) (r : TbRec) : (State.setTb s n r).epv = s.epv := rfl
@[simp] theorem State.setTb_saSent (s : State) (n : Nat) (r : TbRec) : (State.setTb s n r).saSent = s.saSent := rfl
@[simp] theorem State.setTb_cmp (s : State) (n : Nat) (r : TbRec) : (State.setTb s n r).cmp = s.cmp := rfl
@[simp] theorem State.setTb_cand (s : State) (n : Nat) (r : TbRec) : (State.setTb s n r).cand = s.cand := rfl
@[simp] theorem State.setTb_gbus (s : State) (n : Nat) (r : TbRec) : (State.setTb s n r).gbus = s.gbus := rfl
@[simp] theorem State.setTb_mgt (s : State) (n : Nat) (r : TbRec) : (State.setTb s n r).mgt = s.mgt := rfl
@[simp] theorem State.setTb_flt (s : State) (n : Nat) (r : TbRec) : (State.setTb s n r).flt = s.flt := rfl
@[simp] theorem State.setTb_pwr (s : State) (n : Nat) (r : TbRec) : (State.setTb s n r).pwr = s.pwr := rfl
@[simp] theorem State.setTb_fab (s : State) (n : Nat) (r : TbRec) : (State.setTb s n r).fab = s.fab := rfl
@[simp] theorem State.setTb_take (s : State) (n : Nat) (r : TbRec) : (State.setTb s n r).take = s.take := rfl
@[simp] theorem State.setTb_pad (s : State) (n : Nat) (r : TbRec) : (State.setTb s n r).pad = s.pad := rfl
@[simp] theorem State.setTb_merge (s : State) (n : Nat) (r : TbRec) : (State.setTb s n r).merge = s.merge := rfl
@[simp] theorem State.setTb_flowHigh (s : State) (n : Nat) (r : TbRec) : (State.setTb s n r).flowHigh = s.flowHigh := rfl
@[simp] theorem State.setTb_reel (s : State) (n : Nat) (r : TbRec) : (State.setTb s n r).reel = s.reel := rfl
@[simp] theorem State.setTb_egr (s : State) (n : Nat) (r : TbRec) : (State.setTb s n r).egr = s.egr := rfl
@[simp] theorem State.setTb_remote (s : State) (n : Nat) (r : TbRec) : (State.setTb s n r).remote = s.remote := rfl
@[simp] theorem State.setTb_ports (s : State) (n : Nat) (r : TbRec) : (State.setTb s n r).ports = s.ports := rfl
@[simp] theorem State.setTb_aud (s : State) (n : Nat) (r : TbRec) : (State.setTb s n r).aud = s.aud := rfl
@[simp] theorem State.setTb_fol (s : State) (n : Nat) (r : TbRec) : (State.setTb s n r).fol = s.fol := rfl
@[simp] theorem State.setTb_mon (s : State) (n : Nat) (r : TbRec) : (State.setTb s n r).mon = s.mon := rfl
@[simp] theorem State.setTb_occ (s : State) (n : Nat) (r : TbRec) : (State.setTb s n r).occ = s.occ := rfl
@[simp] theorem State.setTb_out (s : State) (n : Nat) (r : TbRec) : (State.setTb s n r).out = s.out := rfl
@[simp] theorem State.setTb_pending (s : State) (n : Nat) (r : TbRec) : (State.setTb s n r).pending = s.pending := rfl
@[simp] theorem State.setTb_rd (s : State) (n : Nat) (r : TbRec) (b0 a0 : Nat) : (State.setTb s n r).rd b0 a0 = s.rd b0 a0 := rfl
@[simp] theorem State.setTb_rdF (s : State) (n : Nat) (r : TbRec) (b0 a0 l0 n0 : Nat) : (State.setTb s n r).rdF b0 a0 l0 n0 = s.rdF b0 a0 l0 n0 := rfl
@[simp] theorem State.setTb_ent (s : State) (n : Nat) (r : TbRec) (p0 b0 s0 i0 w0 : Nat) : (State.setTb s n r).ent p0 b0 s0 i0 w0 = s.ent p0 b0 s0 i0 w0 := rfl
@[simp] theorem State.setTb_entF (s : State) (n : Nat) (r : TbRec) (p0 b0 s0 i0 w0 l0 n0 : Nat) : (State.setTb s n r).entF p0 b0 s0 i0 w0 l0 n0 = s.entF p0 b0 s0 i0 w0 l0 n0 := rfl
@[simp] theorem State.setTb_memByte (s : State) (n : Nat) (r : TbRec) (a0 : Nat) : (State.setTb s n r).memByte a0 = s.memByte a0 := rfl

/-! ### State.setCmp -/

@[simp] theorem State.setCmp_regs (s : State) (k : Nat) (r : CmpRec) : (State.setCmp s k r).regs = s.regs := rfl
@[simp] theorem State.setCmp_tbl (s : State) (k : Nat) (r : CmpRec) : (State.setCmp s k r).tbl = s.tbl := rfl
@[simp] theorem State.setCmp_mem (s : State) (k : Nat) (r : CmpRec) : (State.setCmp s k r).mem = s.mem := rfl
@[simp] theorem State.setCmp_beat (s : State) (k : Nat) (r : CmpRec) : (State.setCmp s k r).beat = s.beat := rfl
@[simp] theorem State.setCmp_free (s : State) (k : Nat) (r : CmpRec) : (State.setCmp s k r).free = s.free := rfl
@[simp] theorem State.setCmp_bus (s : State) (k : Nat) (r : CmpRec) : (State.setCmp s k r).bus = s.bus := rfl
@[simp] theorem State.setCmp_host (s : State) (k : Nat) (r : CmpRec) : (State.setCmp s k r).host = s.host := rfl
@[simp] theorem State.setCmp_fuse (s : State) (k : Nat) (r : CmpRec) : (State.setCmp s k r).fuse = s.fuse := rfl
@[simp] theorem State.setCmp_key (s : State) (k : Nat) (r : CmpRec) : (State.setCmp s k r).key = s.key := rfl
@[simp] theorem State.setCmp_lanes (s : State) (k : Nat) (r : CmpRec) : (State.setCmp s k r).lanes = s.lanes := rfl
@[simp] theorem State.setCmp_epv (s : State) (k : Nat) (r : CmpRec) : (State.setCmp s k r).epv = s.epv := rfl
@[simp] theorem State.setCmp_saSent (s : State) (k : Nat) (r : CmpRec) : (State.setCmp s k r).saSent = s.saSent := rfl
@[simp] theorem State.setCmp_tbs (s : State) (k : Nat) (r : CmpRec) : (State.setCmp s k r).tbs = s.tbs := rfl
@[simp] theorem State.setCmp_cand (s : State) (k : Nat) (r : CmpRec) : (State.setCmp s k r).cand = s.cand := rfl
@[simp] theorem State.setCmp_gbus (s : State) (k : Nat) (r : CmpRec) : (State.setCmp s k r).gbus = s.gbus := rfl
@[simp] theorem State.setCmp_mgt (s : State) (k : Nat) (r : CmpRec) : (State.setCmp s k r).mgt = s.mgt := rfl
@[simp] theorem State.setCmp_flt (s : State) (k : Nat) (r : CmpRec) : (State.setCmp s k r).flt = s.flt := rfl
@[simp] theorem State.setCmp_pwr (s : State) (k : Nat) (r : CmpRec) : (State.setCmp s k r).pwr = s.pwr := rfl
@[simp] theorem State.setCmp_fab (s : State) (k : Nat) (r : CmpRec) : (State.setCmp s k r).fab = s.fab := rfl
@[simp] theorem State.setCmp_take (s : State) (k : Nat) (r : CmpRec) : (State.setCmp s k r).take = s.take := rfl
@[simp] theorem State.setCmp_pad (s : State) (k : Nat) (r : CmpRec) : (State.setCmp s k r).pad = s.pad := rfl
@[simp] theorem State.setCmp_merge (s : State) (k : Nat) (r : CmpRec) : (State.setCmp s k r).merge = s.merge := rfl
@[simp] theorem State.setCmp_flowHigh (s : State) (k : Nat) (r : CmpRec) : (State.setCmp s k r).flowHigh = s.flowHigh := rfl
@[simp] theorem State.setCmp_reel (s : State) (k : Nat) (r : CmpRec) : (State.setCmp s k r).reel = s.reel := rfl
@[simp] theorem State.setCmp_egr (s : State) (k : Nat) (r : CmpRec) : (State.setCmp s k r).egr = s.egr := rfl
@[simp] theorem State.setCmp_remote (s : State) (k : Nat) (r : CmpRec) : (State.setCmp s k r).remote = s.remote := rfl
@[simp] theorem State.setCmp_ports (s : State) (k : Nat) (r : CmpRec) : (State.setCmp s k r).ports = s.ports := rfl
@[simp] theorem State.setCmp_aud (s : State) (k : Nat) (r : CmpRec) : (State.setCmp s k r).aud = s.aud := rfl
@[simp] theorem State.setCmp_fol (s : State) (k : Nat) (r : CmpRec) : (State.setCmp s k r).fol = s.fol := rfl
@[simp] theorem State.setCmp_mon (s : State) (k : Nat) (r : CmpRec) : (State.setCmp s k r).mon = s.mon := rfl
@[simp] theorem State.setCmp_occ (s : State) (k : Nat) (r : CmpRec) : (State.setCmp s k r).occ = s.occ := rfl
@[simp] theorem State.setCmp_out (s : State) (k : Nat) (r : CmpRec) : (State.setCmp s k r).out = s.out := rfl
@[simp] theorem State.setCmp_pending (s : State) (k : Nat) (r : CmpRec) : (State.setCmp s k r).pending = s.pending := rfl
@[simp] theorem State.setCmp_rd (s : State) (k : Nat) (r : CmpRec) (b0 a0 : Nat) : (State.setCmp s k r).rd b0 a0 = s.rd b0 a0 := rfl
@[simp] theorem State.setCmp_rdF (s : State) (k : Nat) (r : CmpRec) (b0 a0 l0 n0 : Nat) : (State.setCmp s k r).rdF b0 a0 l0 n0 = s.rdF b0 a0 l0 n0 := rfl
@[simp] theorem State.setCmp_ent (s : State) (k : Nat) (r : CmpRec) (p0 b0 s0 i0 w0 : Nat) : (State.setCmp s k r).ent p0 b0 s0 i0 w0 = s.ent p0 b0 s0 i0 w0 := rfl
@[simp] theorem State.setCmp_entF (s : State) (k : Nat) (r : CmpRec) (p0 b0 s0 i0 w0 l0 n0 : Nat) : (State.setCmp s k r).entF p0 b0 s0 i0 w0 l0 n0 = s.entF p0 b0 s0 i0 w0 l0 n0 := rfl
@[simp] theorem State.setCmp_memByte (s : State) (k : Nat) (r : CmpRec) (a0 : Nat) : (State.setCmp s k r).memByte a0 = s.memByte a0 := rfl

/-! ### State.putPage -/

@[simp] theorem State.putPage_regs (s : State) (slot pg : Nat) (p : SetPage) : (State.putPage s slot pg p).regs = s.regs := rfl
@[simp] theorem State.putPage_tbl (s : State) (slot pg : Nat) (p : SetPage) : (State.putPage s slot pg p).tbl = s.tbl := rfl
@[simp] theorem State.putPage_mem (s : State) (slot pg : Nat) (p : SetPage) : (State.putPage s slot pg p).mem = s.mem := rfl
@[simp] theorem State.putPage_beat (s : State) (slot pg : Nat) (p : SetPage) : (State.putPage s slot pg p).beat = s.beat := rfl
@[simp] theorem State.putPage_free (s : State) (slot pg : Nat) (p : SetPage) : (State.putPage s slot pg p).free = s.free := rfl
@[simp] theorem State.putPage_bus (s : State) (slot pg : Nat) (p : SetPage) : (State.putPage s slot pg p).bus = s.bus := rfl
@[simp] theorem State.putPage_host (s : State) (slot pg : Nat) (p : SetPage) : (State.putPage s slot pg p).host = s.host := rfl
@[simp] theorem State.putPage_fuse (s : State) (slot pg : Nat) (p : SetPage) : (State.putPage s slot pg p).fuse = s.fuse := rfl
@[simp] theorem State.putPage_key (s : State) (slot pg : Nat) (p : SetPage) : (State.putPage s slot pg p).key = s.key := rfl
@[simp] theorem State.putPage_lanes (s : State) (slot pg : Nat) (p : SetPage) : (State.putPage s slot pg p).lanes = s.lanes := rfl
@[simp] theorem State.putPage_epv (s : State) (slot pg : Nat) (p : SetPage) : (State.putPage s slot pg p).epv = s.epv := rfl
@[simp] theorem State.putPage_saSent (s : State) (slot pg : Nat) (p : SetPage) : (State.putPage s slot pg p).saSent = s.saSent := rfl
@[simp] theorem State.putPage_tbs (s : State) (slot pg : Nat) (p : SetPage) : (State.putPage s slot pg p).tbs = s.tbs := rfl
@[simp] theorem State.putPage_cmp (s : State) (slot pg : Nat) (p : SetPage) : (State.putPage s slot pg p).cmp = s.cmp := rfl
@[simp] theorem State.putPage_cand (s : State) (slot pg : Nat) (p : SetPage) : (State.putPage s slot pg p).cand = s.cand := rfl
@[simp] theorem State.putPage_gbus (s : State) (slot pg : Nat) (p : SetPage) : (State.putPage s slot pg p).gbus = s.gbus := rfl
@[simp] theorem State.putPage_flt (s : State) (slot pg : Nat) (p : SetPage) : (State.putPage s slot pg p).flt = s.flt := rfl
@[simp] theorem State.putPage_pwr (s : State) (slot pg : Nat) (p : SetPage) : (State.putPage s slot pg p).pwr = s.pwr := rfl
@[simp] theorem State.putPage_fab (s : State) (slot pg : Nat) (p : SetPage) : (State.putPage s slot pg p).fab = s.fab := rfl
@[simp] theorem State.putPage_take (s : State) (slot pg : Nat) (p : SetPage) : (State.putPage s slot pg p).take = s.take := rfl
@[simp] theorem State.putPage_pad (s : State) (slot pg : Nat) (p : SetPage) : (State.putPage s slot pg p).pad = s.pad := rfl
@[simp] theorem State.putPage_merge (s : State) (slot pg : Nat) (p : SetPage) : (State.putPage s slot pg p).merge = s.merge := rfl
@[simp] theorem State.putPage_flowHigh (s : State) (slot pg : Nat) (p : SetPage) : (State.putPage s slot pg p).flowHigh = s.flowHigh := rfl
@[simp] theorem State.putPage_reel (s : State) (slot pg : Nat) (p : SetPage) : (State.putPage s slot pg p).reel = s.reel := rfl
@[simp] theorem State.putPage_egr (s : State) (slot pg : Nat) (p : SetPage) : (State.putPage s slot pg p).egr = s.egr := rfl
@[simp] theorem State.putPage_remote (s : State) (slot pg : Nat) (p : SetPage) : (State.putPage s slot pg p).remote = s.remote := rfl
@[simp] theorem State.putPage_ports (s : State) (slot pg : Nat) (p : SetPage) : (State.putPage s slot pg p).ports = s.ports := rfl
@[simp] theorem State.putPage_aud (s : State) (slot pg : Nat) (p : SetPage) : (State.putPage s slot pg p).aud = s.aud := rfl
@[simp] theorem State.putPage_fol (s : State) (slot pg : Nat) (p : SetPage) : (State.putPage s slot pg p).fol = s.fol := rfl
@[simp] theorem State.putPage_mon (s : State) (slot pg : Nat) (p : SetPage) : (State.putPage s slot pg p).mon = s.mon := rfl
@[simp] theorem State.putPage_occ (s : State) (slot pg : Nat) (p : SetPage) : (State.putPage s slot pg p).occ = s.occ := rfl
@[simp] theorem State.putPage_out (s : State) (slot pg : Nat) (p : SetPage) : (State.putPage s slot pg p).out = s.out := rfl
@[simp] theorem State.putPage_pending (s : State) (slot pg : Nat) (p : SetPage) : (State.putPage s slot pg p).pending = s.pending := rfl
@[simp] theorem State.putPage_rd (s : State) (slot pg : Nat) (p : SetPage) (b0 a0 : Nat) : (State.putPage s slot pg p).rd b0 a0 = s.rd b0 a0 := rfl
@[simp] theorem State.putPage_rdF (s : State) (slot pg : Nat) (p : SetPage) (b0 a0 l0 n0 : Nat) : (State.putPage s slot pg p).rdF b0 a0 l0 n0 = s.rdF b0 a0 l0 n0 := rfl
@[simp] theorem State.putPage_ent (s : State) (slot pg : Nat) (p : SetPage) (p0 b0 s0 i0 w0 : Nat) : (State.putPage s slot pg p).ent p0 b0 s0 i0 w0 = s.ent p0 b0 s0 i0 w0 := rfl
@[simp] theorem State.putPage_entF (s : State) (slot pg : Nat) (p : SetPage) (p0 b0 s0 i0 w0 l0 n0 : Nat) : (State.putPage s slot pg p).entF p0 b0 s0 i0 w0 l0 n0 = s.entF p0 b0 s0 i0 w0 l0 n0 := rfl
@[simp] theorem State.putPage_memByte (s : State) (slot pg : Nat) (p : SetPage) (a0 : Nat) : (State.putPage s slot pg p).memByte a0 = s.memByte a0 := rfl

/-! ### State.setMgt -/

@[simp] theorem State.setMgt_regs (s : State) (m : MgtSt) : (State.setMgt s m).regs = s.regs := rfl
@[simp] theorem State.setMgt_tbl (s : State) (m : MgtSt) : (State.setMgt s m).tbl = s.tbl := rfl
@[simp] theorem State.setMgt_mem (s : State) (m : MgtSt) : (State.setMgt s m).mem = s.mem := rfl
@[simp] theorem State.setMgt_beat (s : State) (m : MgtSt) : (State.setMgt s m).beat = s.beat := rfl
@[simp] theorem State.setMgt_free (s : State) (m : MgtSt) : (State.setMgt s m).free = s.free := rfl
@[simp] theorem State.setMgt_bus (s : State) (m : MgtSt) : (State.setMgt s m).bus = s.bus := rfl
@[simp] theorem State.setMgt_host (s : State) (m : MgtSt) : (State.setMgt s m).host = s.host := rfl
@[simp] theorem State.setMgt_fuse (s : State) (m : MgtSt) : (State.setMgt s m).fuse = s.fuse := rfl
@[simp] theorem State.setMgt_key (s : State) (m : MgtSt) : (State.setMgt s m).key = s.key := rfl
@[simp] theorem State.setMgt_lanes (s : State) (m : MgtSt) : (State.setMgt s m).lanes = s.lanes := rfl
@[simp] theorem State.setMgt_epv (s : State) (m : MgtSt) : (State.setMgt s m).epv = s.epv := rfl
@[simp] theorem State.setMgt_saSent (s : State) (m : MgtSt) : (State.setMgt s m).saSent = s.saSent := rfl
@[simp] theorem State.setMgt_tbs (s : State) (m : MgtSt) : (State.setMgt s m).tbs = s.tbs := rfl
@[simp] theorem State.setMgt_cmp (s : State) (m : MgtSt) : (State.setMgt s m).cmp = s.cmp := rfl
@[simp] theorem State.setMgt_cand (s : State) (m : MgtSt) : (State.setMgt s m).cand = s.cand := rfl
@[simp] theorem State.setMgt_gbus (s : State) (m : MgtSt) : (State.setMgt s m).gbus = s.gbus := rfl
@[simp] theorem State.setMgt_flt (s : State) (m : MgtSt) : (State.setMgt s m).flt = s.flt := rfl
@[simp] theorem State.setMgt_pwr (s : State) (m : MgtSt) : (State.setMgt s m).pwr = s.pwr := rfl
@[simp] theorem State.setMgt_fab (s : State) (m : MgtSt) : (State.setMgt s m).fab = s.fab := rfl
@[simp] theorem State.setMgt_take (s : State) (m : MgtSt) : (State.setMgt s m).take = s.take := rfl
@[simp] theorem State.setMgt_pad (s : State) (m : MgtSt) : (State.setMgt s m).pad = s.pad := rfl
@[simp] theorem State.setMgt_merge (s : State) (m : MgtSt) : (State.setMgt s m).merge = s.merge := rfl
@[simp] theorem State.setMgt_flowHigh (s : State) (m : MgtSt) : (State.setMgt s m).flowHigh = s.flowHigh := rfl
@[simp] theorem State.setMgt_reel (s : State) (m : MgtSt) : (State.setMgt s m).reel = s.reel := rfl
@[simp] theorem State.setMgt_egr (s : State) (m : MgtSt) : (State.setMgt s m).egr = s.egr := rfl
@[simp] theorem State.setMgt_remote (s : State) (m : MgtSt) : (State.setMgt s m).remote = s.remote := rfl
@[simp] theorem State.setMgt_ports (s : State) (m : MgtSt) : (State.setMgt s m).ports = s.ports := rfl
@[simp] theorem State.setMgt_aud (s : State) (m : MgtSt) : (State.setMgt s m).aud = s.aud := rfl
@[simp] theorem State.setMgt_fol (s : State) (m : MgtSt) : (State.setMgt s m).fol = s.fol := rfl
@[simp] theorem State.setMgt_mon (s : State) (m : MgtSt) : (State.setMgt s m).mon = s.mon := rfl
@[simp] theorem State.setMgt_occ (s : State) (m : MgtSt) : (State.setMgt s m).occ = s.occ := rfl
@[simp] theorem State.setMgt_out (s : State) (m : MgtSt) : (State.setMgt s m).out = s.out := rfl
@[simp] theorem State.setMgt_pending (s : State) (m : MgtSt) : (State.setMgt s m).pending = s.pending := rfl
@[simp] theorem State.setMgt_rd (s : State) (m : MgtSt) (b0 a0 : Nat) : (State.setMgt s m).rd b0 a0 = s.rd b0 a0 := rfl
@[simp] theorem State.setMgt_rdF (s : State) (m : MgtSt) (b0 a0 l0 n0 : Nat) : (State.setMgt s m).rdF b0 a0 l0 n0 = s.rdF b0 a0 l0 n0 := rfl
@[simp] theorem State.setMgt_ent (s : State) (m : MgtSt) (p0 b0 s0 i0 w0 : Nat) : (State.setMgt s m).ent p0 b0 s0 i0 w0 = s.ent p0 b0 s0 i0 w0 := rfl
@[simp] theorem State.setMgt_entF (s : State) (m : MgtSt) (p0 b0 s0 i0 w0 l0 n0 : Nat) : (State.setMgt s m).entF p0 b0 s0 i0 w0 l0 n0 = s.entF p0 b0 s0 i0 w0 l0 n0 := rfl
@[simp] theorem State.setMgt_memByte (s : State) (m : MgtSt) (a0 : Nat) : (State.setMgt s m).memByte a0 = s.memByte a0 := rfl

/-! ### State.setFlt -/

@[simp] theorem State.setFlt_regs (s : State) (f : FltSt) : (State.setFlt s f).regs = s.regs := rfl
@[simp] theorem State.setFlt_tbl (s : State) (f : FltSt) : (State.setFlt s f).tbl = s.tbl := rfl
@[simp] theorem State.setFlt_mem (s : State) (f : FltSt) : (State.setFlt s f).mem = s.mem := rfl
@[simp] theorem State.setFlt_beat (s : State) (f : FltSt) : (State.setFlt s f).beat = s.beat := rfl
@[simp] theorem State.setFlt_free (s : State) (f : FltSt) : (State.setFlt s f).free = s.free := rfl
@[simp] theorem State.setFlt_bus (s : State) (f : FltSt) : (State.setFlt s f).bus = s.bus := rfl
@[simp] theorem State.setFlt_host (s : State) (f : FltSt) : (State.setFlt s f).host = s.host := rfl
@[simp] theorem State.setFlt_fuse (s : State) (f : FltSt) : (State.setFlt s f).fuse = s.fuse := rfl
@[simp] theorem State.setFlt_key (s : State) (f : FltSt) : (State.setFlt s f).key = s.key := rfl
@[simp] theorem State.setFlt_lanes (s : State) (f : FltSt) : (State.setFlt s f).lanes = s.lanes := rfl
@[simp] theorem State.setFlt_epv (s : State) (f : FltSt) : (State.setFlt s f).epv = s.epv := rfl
@[simp] theorem State.setFlt_saSent (s : State) (f : FltSt) : (State.setFlt s f).saSent = s.saSent := rfl
@[simp] theorem State.setFlt_tbs (s : State) (f : FltSt) : (State.setFlt s f).tbs = s.tbs := rfl
@[simp] theorem State.setFlt_cmp (s : State) (f : FltSt) : (State.setFlt s f).cmp = s.cmp := rfl
@[simp] theorem State.setFlt_cand (s : State) (f : FltSt) : (State.setFlt s f).cand = s.cand := rfl
@[simp] theorem State.setFlt_gbus (s : State) (f : FltSt) : (State.setFlt s f).gbus = s.gbus := rfl
@[simp] theorem State.setFlt_mgt (s : State) (f : FltSt) : (State.setFlt s f).mgt = s.mgt := rfl
@[simp] theorem State.setFlt_pwr (s : State) (f : FltSt) : (State.setFlt s f).pwr = s.pwr := rfl
@[simp] theorem State.setFlt_fab (s : State) (f : FltSt) : (State.setFlt s f).fab = s.fab := rfl
@[simp] theorem State.setFlt_take (s : State) (f : FltSt) : (State.setFlt s f).take = s.take := rfl
@[simp] theorem State.setFlt_pad (s : State) (f : FltSt) : (State.setFlt s f).pad = s.pad := rfl
@[simp] theorem State.setFlt_merge (s : State) (f : FltSt) : (State.setFlt s f).merge = s.merge := rfl
@[simp] theorem State.setFlt_flowHigh (s : State) (f : FltSt) : (State.setFlt s f).flowHigh = s.flowHigh := rfl
@[simp] theorem State.setFlt_reel (s : State) (f : FltSt) : (State.setFlt s f).reel = s.reel := rfl
@[simp] theorem State.setFlt_egr (s : State) (f : FltSt) : (State.setFlt s f).egr = s.egr := rfl
@[simp] theorem State.setFlt_remote (s : State) (f : FltSt) : (State.setFlt s f).remote = s.remote := rfl
@[simp] theorem State.setFlt_ports (s : State) (f : FltSt) : (State.setFlt s f).ports = s.ports := rfl
@[simp] theorem State.setFlt_aud (s : State) (f : FltSt) : (State.setFlt s f).aud = s.aud := rfl
@[simp] theorem State.setFlt_fol (s : State) (f : FltSt) : (State.setFlt s f).fol = s.fol := rfl
@[simp] theorem State.setFlt_mon (s : State) (f : FltSt) : (State.setFlt s f).mon = s.mon := rfl
@[simp] theorem State.setFlt_occ (s : State) (f : FltSt) : (State.setFlt s f).occ = s.occ := rfl
@[simp] theorem State.setFlt_out (s : State) (f : FltSt) : (State.setFlt s f).out = s.out := rfl
@[simp] theorem State.setFlt_pending (s : State) (f : FltSt) : (State.setFlt s f).pending = s.pending := rfl
@[simp] theorem State.setFlt_rd (s : State) (f : FltSt) (b0 a0 : Nat) : (State.setFlt s f).rd b0 a0 = s.rd b0 a0 := rfl
@[simp] theorem State.setFlt_rdF (s : State) (f : FltSt) (b0 a0 l0 n0 : Nat) : (State.setFlt s f).rdF b0 a0 l0 n0 = s.rdF b0 a0 l0 n0 := rfl
@[simp] theorem State.setFlt_ent (s : State) (f : FltSt) (p0 b0 s0 i0 w0 : Nat) : (State.setFlt s f).ent p0 b0 s0 i0 w0 = s.ent p0 b0 s0 i0 w0 := rfl
@[simp] theorem State.setFlt_entF (s : State) (f : FltSt) (p0 b0 s0 i0 w0 l0 n0 : Nat) : (State.setFlt s f).entF p0 b0 s0 i0 w0 l0 n0 = s.entF p0 b0 s0 i0 w0 l0 n0 := rfl
@[simp] theorem State.setFlt_memByte (s : State) (f : FltSt) (a0 : Nat) : (State.setFlt s f).memByte a0 = s.memByte a0 := rfl

/-! ### State.setPwr -/

@[simp] theorem State.setPwr_regs (s : State) (p : PwrSt) : (State.setPwr s p).regs = s.regs := rfl
@[simp] theorem State.setPwr_tbl (s : State) (p : PwrSt) : (State.setPwr s p).tbl = s.tbl := rfl
@[simp] theorem State.setPwr_mem (s : State) (p : PwrSt) : (State.setPwr s p).mem = s.mem := rfl
@[simp] theorem State.setPwr_beat (s : State) (p : PwrSt) : (State.setPwr s p).beat = s.beat := rfl
@[simp] theorem State.setPwr_free (s : State) (p : PwrSt) : (State.setPwr s p).free = s.free := rfl
@[simp] theorem State.setPwr_bus (s : State) (p : PwrSt) : (State.setPwr s p).bus = s.bus := rfl
@[simp] theorem State.setPwr_host (s : State) (p : PwrSt) : (State.setPwr s p).host = s.host := rfl
@[simp] theorem State.setPwr_fuse (s : State) (p : PwrSt) : (State.setPwr s p).fuse = s.fuse := rfl
@[simp] theorem State.setPwr_key (s : State) (p : PwrSt) : (State.setPwr s p).key = s.key := rfl
@[simp] theorem State.setPwr_lanes (s : State) (p : PwrSt) : (State.setPwr s p).lanes = s.lanes := rfl
@[simp] theorem State.setPwr_epv (s : State) (p : PwrSt) : (State.setPwr s p).epv = s.epv := rfl
@[simp] theorem State.setPwr_saSent (s : State) (p : PwrSt) : (State.setPwr s p).saSent = s.saSent := rfl
@[simp] theorem State.setPwr_tbs (s : State) (p : PwrSt) : (State.setPwr s p).tbs = s.tbs := rfl
@[simp] theorem State.setPwr_cmp (s : State) (p : PwrSt) : (State.setPwr s p).cmp = s.cmp := rfl
@[simp] theorem State.setPwr_cand (s : State) (p : PwrSt) : (State.setPwr s p).cand = s.cand := rfl
@[simp] theorem State.setPwr_gbus (s : State) (p : PwrSt) : (State.setPwr s p).gbus = s.gbus := rfl
@[simp] theorem State.setPwr_mgt (s : State) (p : PwrSt) : (State.setPwr s p).mgt = s.mgt := rfl
@[simp] theorem State.setPwr_flt (s : State) (p : PwrSt) : (State.setPwr s p).flt = s.flt := rfl
@[simp] theorem State.setPwr_fab (s : State) (p : PwrSt) : (State.setPwr s p).fab = s.fab := rfl
@[simp] theorem State.setPwr_take (s : State) (p : PwrSt) : (State.setPwr s p).take = s.take := rfl
@[simp] theorem State.setPwr_pad (s : State) (p : PwrSt) : (State.setPwr s p).pad = s.pad := rfl
@[simp] theorem State.setPwr_merge (s : State) (p : PwrSt) : (State.setPwr s p).merge = s.merge := rfl
@[simp] theorem State.setPwr_flowHigh (s : State) (p : PwrSt) : (State.setPwr s p).flowHigh = s.flowHigh := rfl
@[simp] theorem State.setPwr_reel (s : State) (p : PwrSt) : (State.setPwr s p).reel = s.reel := rfl
@[simp] theorem State.setPwr_egr (s : State) (p : PwrSt) : (State.setPwr s p).egr = s.egr := rfl
@[simp] theorem State.setPwr_remote (s : State) (p : PwrSt) : (State.setPwr s p).remote = s.remote := rfl
@[simp] theorem State.setPwr_ports (s : State) (p : PwrSt) : (State.setPwr s p).ports = s.ports := rfl
@[simp] theorem State.setPwr_aud (s : State) (p : PwrSt) : (State.setPwr s p).aud = s.aud := rfl
@[simp] theorem State.setPwr_fol (s : State) (p : PwrSt) : (State.setPwr s p).fol = s.fol := rfl
@[simp] theorem State.setPwr_mon (s : State) (p : PwrSt) : (State.setPwr s p).mon = s.mon := rfl
@[simp] theorem State.setPwr_occ (s : State) (p : PwrSt) : (State.setPwr s p).occ = s.occ := rfl
@[simp] theorem State.setPwr_out (s : State) (p : PwrSt) : (State.setPwr s p).out = s.out := rfl
@[simp] theorem State.setPwr_pending (s : State) (p : PwrSt) : (State.setPwr s p).pending = s.pending := rfl
@[simp] theorem State.setPwr_rd (s : State) (p : PwrSt) (b0 a0 : Nat) : (State.setPwr s p).rd b0 a0 = s.rd b0 a0 := rfl
@[simp] theorem State.setPwr_rdF (s : State) (p : PwrSt) (b0 a0 l0 n0 : Nat) : (State.setPwr s p).rdF b0 a0 l0 n0 = s.rdF b0 a0 l0 n0 := rfl
@[simp] theorem State.setPwr_ent (s : State) (p : PwrSt) (p0 b0 s0 i0 w0 : Nat) : (State.setPwr s p).ent p0 b0 s0 i0 w0 = s.ent p0 b0 s0 i0 w0 := rfl
@[simp] theorem State.setPwr_entF (s : State) (p : PwrSt) (p0 b0 s0 i0 w0 l0 n0 : Nat) : (State.setPwr s p).entF p0 b0 s0 i0 w0 l0 n0 = s.entF p0 b0 s0 i0 w0 l0 n0 := rfl
@[simp] theorem State.setPwr_memByte (s : State) (p : PwrSt) (a0 : Nat) : (State.setPwr s p).memByte a0 = s.memByte a0 := rfl

/-! ### holdLower -/

@[simp] theorem holdLower_regs (x : Access) (s : State) : (holdLower x s).regs = s.regs := rfl
@[simp] theorem holdLower_tbl (x : Access) (s : State) : (holdLower x s).tbl = s.tbl := rfl
@[simp] theorem holdLower_mem (x : Access) (s : State) : (holdLower x s).mem = s.mem := rfl
@[simp] theorem holdLower_beat (x : Access) (s : State) : (holdLower x s).beat = s.beat := rfl
@[simp] theorem holdLower_free (x : Access) (s : State) : (holdLower x s).free = s.free := rfl
@[simp] theorem holdLower_host (x : Access) (s : State) : (holdLower x s).host = s.host := rfl
@[simp] theorem holdLower_fuse (x : Access) (s : State) : (holdLower x s).fuse = s.fuse := rfl
@[simp] theorem holdLower_key (x : Access) (s : State) : (holdLower x s).key = s.key := rfl
@[simp] theorem holdLower_lanes (x : Access) (s : State) : (holdLower x s).lanes = s.lanes := rfl
@[simp] theorem holdLower_epv (x : Access) (s : State) : (holdLower x s).epv = s.epv := rfl
@[simp] theorem holdLower_saSent (x : Access) (s : State) : (holdLower x s).saSent = s.saSent := rfl
@[simp] theorem holdLower_tbs (x : Access) (s : State) : (holdLower x s).tbs = s.tbs := rfl
@[simp] theorem holdLower_cmp (x : Access) (s : State) : (holdLower x s).cmp = s.cmp := rfl
@[simp] theorem holdLower_cand (x : Access) (s : State) : (holdLower x s).cand = s.cand := rfl
@[simp] theorem holdLower_gbus (x : Access) (s : State) : (holdLower x s).gbus = s.gbus := rfl
@[simp] theorem holdLower_mgt (x : Access) (s : State) : (holdLower x s).mgt = s.mgt := rfl
@[simp] theorem holdLower_flt (x : Access) (s : State) : (holdLower x s).flt = s.flt := rfl
@[simp] theorem holdLower_pwr (x : Access) (s : State) : (holdLower x s).pwr = s.pwr := rfl
@[simp] theorem holdLower_fab (x : Access) (s : State) : (holdLower x s).fab = s.fab := rfl
@[simp] theorem holdLower_take (x : Access) (s : State) : (holdLower x s).take = s.take := rfl
@[simp] theorem holdLower_pad (x : Access) (s : State) : (holdLower x s).pad = s.pad := rfl
@[simp] theorem holdLower_merge (x : Access) (s : State) : (holdLower x s).merge = s.merge := rfl
@[simp] theorem holdLower_flowHigh (x : Access) (s : State) : (holdLower x s).flowHigh = s.flowHigh := rfl
@[simp] theorem holdLower_reel (x : Access) (s : State) : (holdLower x s).reel = s.reel := rfl
@[simp] theorem holdLower_egr (x : Access) (s : State) : (holdLower x s).egr = s.egr := rfl
@[simp] theorem holdLower_remote (x : Access) (s : State) : (holdLower x s).remote = s.remote := rfl
@[simp] theorem holdLower_ports (x : Access) (s : State) : (holdLower x s).ports = s.ports := rfl
@[simp] theorem holdLower_aud (x : Access) (s : State) : (holdLower x s).aud = s.aud := rfl
@[simp] theorem holdLower_fol (x : Access) (s : State) : (holdLower x s).fol = s.fol := rfl
@[simp] theorem holdLower_mon (x : Access) (s : State) : (holdLower x s).mon = s.mon := rfl
@[simp] theorem holdLower_occ (x : Access) (s : State) : (holdLower x s).occ = s.occ := rfl
@[simp] theorem holdLower_out (x : Access) (s : State) : (holdLower x s).out = s.out := rfl
@[simp] theorem holdLower_pending (x : Access) (s : State) : (holdLower x s).pending = s.pending := rfl
@[simp] theorem holdLower_rd (x : Access) (s : State) (b0 a0 : Nat) : (holdLower x s).rd b0 a0 = s.rd b0 a0 := rfl
@[simp] theorem holdLower_rdF (x : Access) (s : State) (b0 a0 l0 n0 : Nat) : (holdLower x s).rdF b0 a0 l0 n0 = s.rdF b0 a0 l0 n0 := rfl
@[simp] theorem holdLower_ent (x : Access) (s : State) (p0 b0 s0 i0 w0 : Nat) : (holdLower x s).ent p0 b0 s0 i0 w0 = s.ent p0 b0 s0 i0 w0 := rfl
@[simp] theorem holdLower_entF (x : Access) (s : State) (p0 b0 s0 i0 w0 l0 n0 : Nat) : (holdLower x s).entF p0 b0 s0 i0 w0 l0 n0 = s.entF p0 b0 s0 i0 w0 l0 n0 := rfl
@[simp] theorem holdLower_memByte (x : Access) (s : State) (a0 : Nat) : (holdLower x s).memByte a0 = s.memByte a0 := rfl

/-! ### State.wrF -/

@[simp] theorem State.wrF_tbl (s : State) (bank a lo n v : Nat) : (State.wrF s bank a lo n v).tbl = s.tbl := rfl
@[simp] theorem State.wrF_mem (s : State) (bank a lo n v : Nat) : (State.wrF s bank a lo n v).mem = s.mem := rfl
@[simp] theorem State.wrF_beat (s : State) (bank a lo n v : Nat) : (State.wrF s bank a lo n v).beat = s.beat := rfl
@[simp] theorem State.wrF_free (s : State) (bank a lo n v : Nat) : (State.wrF s bank a lo n v).free = s.free := rfl
@[simp] theorem State.wrF_bus (s : State) (bank a lo n v : Nat) : (State.wrF s bank a lo n v).bus = s.bus := rfl
@[simp] theorem State.wrF_host (s : State) (bank a lo n v : Nat) : (State.wrF s bank a lo n v).host = s.host := rfl
@[simp] theorem State.wrF_fuse (s : State) (bank a lo n v : Nat) : (State.wrF s bank a lo n v).fuse = s.fuse := rfl
@[simp] theorem State.wrF_key (s : State) (bank a lo n v : Nat) : (State.wrF s bank a lo n v).key = s.key := rfl
@[simp] theorem State.wrF_lanes (s : State) (bank a lo n v : Nat) : (State.wrF s bank a lo n v).lanes = s.lanes := rfl
@[simp] theorem State.wrF_epv (s : State) (bank a lo n v : Nat) : (State.wrF s bank a lo n v).epv = s.epv := rfl
@[simp] theorem State.wrF_saSent (s : State) (bank a lo n v : Nat) : (State.wrF s bank a lo n v).saSent = s.saSent := rfl
@[simp] theorem State.wrF_tbs (s : State) (bank a lo n v : Nat) : (State.wrF s bank a lo n v).tbs = s.tbs := rfl
@[simp] theorem State.wrF_cmp (s : State) (bank a lo n v : Nat) : (State.wrF s bank a lo n v).cmp = s.cmp := rfl
@[simp] theorem State.wrF_cand (s : State) (bank a lo n v : Nat) : (State.wrF s bank a lo n v).cand = s.cand := rfl
@[simp] theorem State.wrF_gbus (s : State) (bank a lo n v : Nat) : (State.wrF s bank a lo n v).gbus = s.gbus := rfl
@[simp] theorem State.wrF_mgt (s : State) (bank a lo n v : Nat) : (State.wrF s bank a lo n v).mgt = s.mgt := rfl
@[simp] theorem State.wrF_flt (s : State) (bank a lo n v : Nat) : (State.wrF s bank a lo n v).flt = s.flt := rfl
@[simp] theorem State.wrF_pwr (s : State) (bank a lo n v : Nat) : (State.wrF s bank a lo n v).pwr = s.pwr := rfl
@[simp] theorem State.wrF_fab (s : State) (bank a lo n v : Nat) : (State.wrF s bank a lo n v).fab = s.fab := rfl
@[simp] theorem State.wrF_take (s : State) (bank a lo n v : Nat) : (State.wrF s bank a lo n v).take = s.take := rfl
@[simp] theorem State.wrF_pad (s : State) (bank a lo n v : Nat) : (State.wrF s bank a lo n v).pad = s.pad := rfl
@[simp] theorem State.wrF_merge (s : State) (bank a lo n v : Nat) : (State.wrF s bank a lo n v).merge = s.merge := rfl
@[simp] theorem State.wrF_flowHigh (s : State) (bank a lo n v : Nat) : (State.wrF s bank a lo n v).flowHigh = s.flowHigh := rfl
@[simp] theorem State.wrF_reel (s : State) (bank a lo n v : Nat) : (State.wrF s bank a lo n v).reel = s.reel := rfl
@[simp] theorem State.wrF_egr (s : State) (bank a lo n v : Nat) : (State.wrF s bank a lo n v).egr = s.egr := rfl
@[simp] theorem State.wrF_remote (s : State) (bank a lo n v : Nat) : (State.wrF s bank a lo n v).remote = s.remote := rfl
@[simp] theorem State.wrF_ports (s : State) (bank a lo n v : Nat) : (State.wrF s bank a lo n v).ports = s.ports := rfl
@[simp] theorem State.wrF_aud (s : State) (bank a lo n v : Nat) : (State.wrF s bank a lo n v).aud = s.aud := rfl
@[simp] theorem State.wrF_fol (s : State) (bank a lo n v : Nat) : (State.wrF s bank a lo n v).fol = s.fol := rfl
@[simp] theorem State.wrF_mon (s : State) (bank a lo n v : Nat) : (State.wrF s bank a lo n v).mon = s.mon := rfl
@[simp] theorem State.wrF_occ (s : State) (bank a lo n v : Nat) : (State.wrF s bank a lo n v).occ = s.occ := rfl
@[simp] theorem State.wrF_out (s : State) (bank a lo n v : Nat) : (State.wrF s bank a lo n v).out = s.out := rfl
@[simp] theorem State.wrF_pending (s : State) (bank a lo n v : Nat) : (State.wrF s bank a lo n v).pending = s.pending := rfl
@[simp] theorem State.wrF_ent (s : State) (bank a lo n v : Nat) (p0 b0 s0 i0 w0 : Nat) : (State.wrF s bank a lo n v).ent p0 b0 s0 i0 w0 = s.ent p0 b0 s0 i0 w0 := rfl
@[simp] theorem State.wrF_entF (s : State) (bank a lo n v : Nat) (p0 b0 s0 i0 w0 l0 n0 : Nat) : (State.wrF s bank a lo n v).entF p0 b0 s0 i0 w0 l0 n0 = s.entF p0 b0 s0 i0 w0 l0 n0 := rfl
@[simp] theorem State.wrF_memByte (s : State) (bank a lo n v : Nat) (a0 : Nat) : (State.wrF s bank a lo n v).memByte a0 = s.memByte a0 := rfl

/-! ### State.wr64 -/

@[simp] theorem State.wr64_tbl (s : State) (bank a v : Nat) : (State.wr64 s bank a v).tbl = s.tbl := rfl
@[simp] theorem State.wr64_mem (s : State) (bank a v : Nat) : (State.wr64 s bank a v).mem = s.mem := rfl
@[simp] theorem State.wr64_beat (s : State) (bank a v : Nat) : (State.wr64 s bank a v).beat = s.beat := rfl
@[simp] theorem State.wr64_free (s : State) (bank a v : Nat) : (State.wr64 s bank a v).free = s.free := rfl
@[simp] theorem State.wr64_bus (s : State) (bank a v : Nat) : (State.wr64 s bank a v).bus = s.bus := rfl
@[simp] theorem State.wr64_host (s : State) (bank a v : Nat) : (State.wr64 s bank a v).host = s.host := rfl
@[simp] theorem State.wr64_fuse (s : State) (bank a v : Nat) : (State.wr64 s bank a v).fuse = s.fuse := rfl
@[simp] theorem State.wr64_key (s : State) (bank a v : Nat) : (State.wr64 s bank a v).key = s.key := rfl
@[simp] theorem State.wr64_lanes (s : State) (bank a v : Nat) : (State.wr64 s bank a v).lanes = s.lanes := rfl
@[simp] theorem State.wr64_epv (s : State) (bank a v : Nat) : (State.wr64 s bank a v).epv = s.epv := rfl
@[simp] theorem State.wr64_saSent (s : State) (bank a v : Nat) : (State.wr64 s bank a v).saSent = s.saSent := rfl
@[simp] theorem State.wr64_tbs (s : State) (bank a v : Nat) : (State.wr64 s bank a v).tbs = s.tbs := rfl
@[simp] theorem State.wr64_cmp (s : State) (bank a v : Nat) : (State.wr64 s bank a v).cmp = s.cmp := rfl
@[simp] theorem State.wr64_cand (s : State) (bank a v : Nat) : (State.wr64 s bank a v).cand = s.cand := rfl
@[simp] theorem State.wr64_gbus (s : State) (bank a v : Nat) : (State.wr64 s bank a v).gbus = s.gbus := rfl
@[simp] theorem State.wr64_mgt (s : State) (bank a v : Nat) : (State.wr64 s bank a v).mgt = s.mgt := rfl
@[simp] theorem State.wr64_flt (s : State) (bank a v : Nat) : (State.wr64 s bank a v).flt = s.flt := rfl
@[simp] theorem State.wr64_pwr (s : State) (bank a v : Nat) : (State.wr64 s bank a v).pwr = s.pwr := rfl
@[simp] theorem State.wr64_fab (s : State) (bank a v : Nat) : (State.wr64 s bank a v).fab = s.fab := rfl
@[simp] theorem State.wr64_take (s : State) (bank a v : Nat) : (State.wr64 s bank a v).take = s.take := rfl
@[simp] theorem State.wr64_pad (s : State) (bank a v : Nat) : (State.wr64 s bank a v).pad = s.pad := rfl
@[simp] theorem State.wr64_merge (s : State) (bank a v : Nat) : (State.wr64 s bank a v).merge = s.merge := rfl
@[simp] theorem State.wr64_flowHigh (s : State) (bank a v : Nat) : (State.wr64 s bank a v).flowHigh = s.flowHigh := rfl
@[simp] theorem State.wr64_reel (s : State) (bank a v : Nat) : (State.wr64 s bank a v).reel = s.reel := rfl
@[simp] theorem State.wr64_egr (s : State) (bank a v : Nat) : (State.wr64 s bank a v).egr = s.egr := rfl
@[simp] theorem State.wr64_remote (s : State) (bank a v : Nat) : (State.wr64 s bank a v).remote = s.remote := rfl
@[simp] theorem State.wr64_ports (s : State) (bank a v : Nat) : (State.wr64 s bank a v).ports = s.ports := rfl
@[simp] theorem State.wr64_aud (s : State) (bank a v : Nat) : (State.wr64 s bank a v).aud = s.aud := rfl
@[simp] theorem State.wr64_fol (s : State) (bank a v : Nat) : (State.wr64 s bank a v).fol = s.fol := rfl
@[simp] theorem State.wr64_mon (s : State) (bank a v : Nat) : (State.wr64 s bank a v).mon = s.mon := rfl
@[simp] theorem State.wr64_occ (s : State) (bank a v : Nat) : (State.wr64 s bank a v).occ = s.occ := rfl
@[simp] theorem State.wr64_out (s : State) (bank a v : Nat) : (State.wr64 s bank a v).out = s.out := rfl
@[simp] theorem State.wr64_pending (s : State) (bank a v : Nat) : (State.wr64 s bank a v).pending = s.pending := rfl
@[simp] theorem State.wr64_ent (s : State) (bank a v : Nat) (p0 b0 s0 i0 w0 : Nat) : (State.wr64 s bank a v).ent p0 b0 s0 i0 w0 = s.ent p0 b0 s0 i0 w0 := rfl
@[simp] theorem State.wr64_entF (s : State) (bank a v : Nat) (p0 b0 s0 i0 w0 l0 n0 : Nat) : (State.wr64 s bank a v).entF p0 b0 s0 i0 w0 l0 n0 = s.entF p0 b0 s0 i0 w0 l0 n0 := rfl
@[simp] theorem State.wr64_memByte (s : State) (bank a v : Nat) (a0 : Nat) : (State.wr64 s bank a v).memByte a0 = s.memByte a0 := rfl

/-! ### State.inc -/

@[simp] theorem State.inc_tbl (s : State) (bank a : Nat) : (State.inc s bank a).tbl = s.tbl := rfl
@[simp] theorem State.inc_mem (s : State) (bank a : Nat) : (State.inc s bank a).mem = s.mem := rfl
@[simp] theorem State.inc_beat (s : State) (bank a : Nat) : (State.inc s bank a).beat = s.beat := rfl
@[simp] theorem State.inc_free (s : State) (bank a : Nat) : (State.inc s bank a).free = s.free := rfl
@[simp] theorem State.inc_bus (s : State) (bank a : Nat) : (State.inc s bank a).bus = s.bus := rfl
@[simp] theorem State.inc_host (s : State) (bank a : Nat) : (State.inc s bank a).host = s.host := rfl
@[simp] theorem State.inc_fuse (s : State) (bank a : Nat) : (State.inc s bank a).fuse = s.fuse := rfl
@[simp] theorem State.inc_key (s : State) (bank a : Nat) : (State.inc s bank a).key = s.key := rfl
@[simp] theorem State.inc_lanes (s : State) (bank a : Nat) : (State.inc s bank a).lanes = s.lanes := rfl
@[simp] theorem State.inc_epv (s : State) (bank a : Nat) : (State.inc s bank a).epv = s.epv := rfl
@[simp] theorem State.inc_saSent (s : State) (bank a : Nat) : (State.inc s bank a).saSent = s.saSent := rfl
@[simp] theorem State.inc_tbs (s : State) (bank a : Nat) : (State.inc s bank a).tbs = s.tbs := rfl
@[simp] theorem State.inc_cmp (s : State) (bank a : Nat) : (State.inc s bank a).cmp = s.cmp := rfl
@[simp] theorem State.inc_cand (s : State) (bank a : Nat) : (State.inc s bank a).cand = s.cand := rfl
@[simp] theorem State.inc_gbus (s : State) (bank a : Nat) : (State.inc s bank a).gbus = s.gbus := rfl
@[simp] theorem State.inc_mgt (s : State) (bank a : Nat) : (State.inc s bank a).mgt = s.mgt := rfl
@[simp] theorem State.inc_flt (s : State) (bank a : Nat) : (State.inc s bank a).flt = s.flt := rfl
@[simp] theorem State.inc_pwr (s : State) (bank a : Nat) : (State.inc s bank a).pwr = s.pwr := rfl
@[simp] theorem State.inc_fab (s : State) (bank a : Nat) : (State.inc s bank a).fab = s.fab := rfl
@[simp] theorem State.inc_take (s : State) (bank a : Nat) : (State.inc s bank a).take = s.take := rfl
@[simp] theorem State.inc_pad (s : State) (bank a : Nat) : (State.inc s bank a).pad = s.pad := rfl
@[simp] theorem State.inc_merge (s : State) (bank a : Nat) : (State.inc s bank a).merge = s.merge := rfl
@[simp] theorem State.inc_flowHigh (s : State) (bank a : Nat) : (State.inc s bank a).flowHigh = s.flowHigh := rfl
@[simp] theorem State.inc_reel (s : State) (bank a : Nat) : (State.inc s bank a).reel = s.reel := rfl
@[simp] theorem State.inc_egr (s : State) (bank a : Nat) : (State.inc s bank a).egr = s.egr := rfl
@[simp] theorem State.inc_remote (s : State) (bank a : Nat) : (State.inc s bank a).remote = s.remote := rfl
@[simp] theorem State.inc_ports (s : State) (bank a : Nat) : (State.inc s bank a).ports = s.ports := rfl
@[simp] theorem State.inc_aud (s : State) (bank a : Nat) : (State.inc s bank a).aud = s.aud := rfl
@[simp] theorem State.inc_fol (s : State) (bank a : Nat) : (State.inc s bank a).fol = s.fol := rfl
@[simp] theorem State.inc_mon (s : State) (bank a : Nat) : (State.inc s bank a).mon = s.mon := rfl
@[simp] theorem State.inc_occ (s : State) (bank a : Nat) : (State.inc s bank a).occ = s.occ := rfl
@[simp] theorem State.inc_out (s : State) (bank a : Nat) : (State.inc s bank a).out = s.out := rfl
@[simp] theorem State.inc_pending (s : State) (bank a : Nat) : (State.inc s bank a).pending = s.pending := rfl
@[simp] theorem State.inc_ent (s : State) (bank a : Nat) (p0 b0 s0 i0 w0 : Nat) : (State.inc s bank a).ent p0 b0 s0 i0 w0 = s.ent p0 b0 s0 i0 w0 := rfl
@[simp] theorem State.inc_entF (s : State) (bank a : Nat) (p0 b0 s0 i0 w0 l0 n0 : Nat) : (State.inc s bank a).entF p0 b0 s0 i0 w0 l0 n0 = s.entF p0 b0 s0 i0 w0 l0 n0 := rfl
@[simp] theorem State.inc_memByte (s : State) (bank a : Nat) (a0 : Nat) : (State.inc s bank a).memByte a0 = s.memByte a0 := rfl

/-! ### State.incSat -/

@[simp] theorem State.incSat_tbl (s : State) (bank a n : Nat) : (State.incSat s bank a n).tbl = s.tbl := rfl
@[simp] theorem State.incSat_mem (s : State) (bank a n : Nat) : (State.incSat s bank a n).mem = s.mem := rfl
@[simp] theorem State.incSat_beat (s : State) (bank a n : Nat) : (State.incSat s bank a n).beat = s.beat := rfl
@[simp] theorem State.incSat_free (s : State) (bank a n : Nat) : (State.incSat s bank a n).free = s.free := rfl
@[simp] theorem State.incSat_bus (s : State) (bank a n : Nat) : (State.incSat s bank a n).bus = s.bus := rfl
@[simp] theorem State.incSat_host (s : State) (bank a n : Nat) : (State.incSat s bank a n).host = s.host := rfl
@[simp] theorem State.incSat_fuse (s : State) (bank a n : Nat) : (State.incSat s bank a n).fuse = s.fuse := rfl
@[simp] theorem State.incSat_key (s : State) (bank a n : Nat) : (State.incSat s bank a n).key = s.key := rfl
@[simp] theorem State.incSat_lanes (s : State) (bank a n : Nat) : (State.incSat s bank a n).lanes = s.lanes := rfl
@[simp] theorem State.incSat_epv (s : State) (bank a n : Nat) : (State.incSat s bank a n).epv = s.epv := rfl
@[simp] theorem State.incSat_saSent (s : State) (bank a n : Nat) : (State.incSat s bank a n).saSent = s.saSent := rfl
@[simp] theorem State.incSat_tbs (s : State) (bank a n : Nat) : (State.incSat s bank a n).tbs = s.tbs := rfl
@[simp] theorem State.incSat_cmp (s : State) (bank a n : Nat) : (State.incSat s bank a n).cmp = s.cmp := rfl
@[simp] theorem State.incSat_cand (s : State) (bank a n : Nat) : (State.incSat s bank a n).cand = s.cand := rfl
@[simp] theorem State.incSat_gbus (s : State) (bank a n : Nat) : (State.incSat s bank a n).gbus = s.gbus := rfl
@[simp] theorem State.incSat_mgt (s : State) (bank a n : Nat) : (State.incSat s bank a n).mgt = s.mgt := rfl
@[simp] theorem State.incSat_flt (s : State) (bank a n : Nat) : (State.incSat s bank a n).flt = s.flt := rfl
@[simp] theorem State.incSat_pwr (s : State) (bank a n : Nat) : (State.incSat s bank a n).pwr = s.pwr := rfl
@[simp] theorem State.incSat_fab (s : State) (bank a n : Nat) : (State.incSat s bank a n).fab = s.fab := rfl
@[simp] theorem State.incSat_take (s : State) (bank a n : Nat) : (State.incSat s bank a n).take = s.take := rfl
@[simp] theorem State.incSat_pad (s : State) (bank a n : Nat) : (State.incSat s bank a n).pad = s.pad := rfl
@[simp] theorem State.incSat_merge (s : State) (bank a n : Nat) : (State.incSat s bank a n).merge = s.merge := rfl
@[simp] theorem State.incSat_flowHigh (s : State) (bank a n : Nat) : (State.incSat s bank a n).flowHigh = s.flowHigh := rfl
@[simp] theorem State.incSat_reel (s : State) (bank a n : Nat) : (State.incSat s bank a n).reel = s.reel := rfl
@[simp] theorem State.incSat_egr (s : State) (bank a n : Nat) : (State.incSat s bank a n).egr = s.egr := rfl
@[simp] theorem State.incSat_remote (s : State) (bank a n : Nat) : (State.incSat s bank a n).remote = s.remote := rfl
@[simp] theorem State.incSat_ports (s : State) (bank a n : Nat) : (State.incSat s bank a n).ports = s.ports := rfl
@[simp] theorem State.incSat_aud (s : State) (bank a n : Nat) : (State.incSat s bank a n).aud = s.aud := rfl
@[simp] theorem State.incSat_fol (s : State) (bank a n : Nat) : (State.incSat s bank a n).fol = s.fol := rfl
@[simp] theorem State.incSat_mon (s : State) (bank a n : Nat) : (State.incSat s bank a n).mon = s.mon := rfl
@[simp] theorem State.incSat_occ (s : State) (bank a n : Nat) : (State.incSat s bank a n).occ = s.occ := rfl
@[simp] theorem State.incSat_out (s : State) (bank a n : Nat) : (State.incSat s bank a n).out = s.out := rfl
@[simp] theorem State.incSat_pending (s : State) (bank a n : Nat) : (State.incSat s bank a n).pending = s.pending := rfl
@[simp] theorem State.incSat_ent (s : State) (bank a n : Nat) (p0 b0 s0 i0 w0 : Nat) : (State.incSat s bank a n).ent p0 b0 s0 i0 w0 = s.ent p0 b0 s0 i0 w0 := rfl
@[simp] theorem State.incSat_entF (s : State) (bank a n : Nat) (p0 b0 s0 i0 w0 l0 n0 : Nat) : (State.incSat s bank a n).entF p0 b0 s0 i0 w0 l0 n0 = s.entF p0 b0 s0 i0 w0 l0 n0 := rfl
@[simp] theorem State.incSat_memByte (s : State) (bank a n : Nat) (a0 : Nat) : (State.incSat s bank a n).memByte a0 = s.memByte a0 := rfl

/-! ### State.setEntF -/

@[simp] theorem State.setEntF_regs (s : State) (pg bank sel idx w lo n v : Nat) : (State.setEntF s pg bank sel idx w lo n v).regs = s.regs := rfl
@[simp] theorem State.setEntF_mem (s : State) (pg bank sel idx w lo n v : Nat) : (State.setEntF s pg bank sel idx w lo n v).mem = s.mem := rfl
@[simp] theorem State.setEntF_beat (s : State) (pg bank sel idx w lo n v : Nat) : (State.setEntF s pg bank sel idx w lo n v).beat = s.beat := rfl
@[simp] theorem State.setEntF_free (s : State) (pg bank sel idx w lo n v : Nat) : (State.setEntF s pg bank sel idx w lo n v).free = s.free := rfl
@[simp] theorem State.setEntF_bus (s : State) (pg bank sel idx w lo n v : Nat) : (State.setEntF s pg bank sel idx w lo n v).bus = s.bus := rfl
@[simp] theorem State.setEntF_host (s : State) (pg bank sel idx w lo n v : Nat) : (State.setEntF s pg bank sel idx w lo n v).host = s.host := rfl
@[simp] theorem State.setEntF_fuse (s : State) (pg bank sel idx w lo n v : Nat) : (State.setEntF s pg bank sel idx w lo n v).fuse = s.fuse := rfl
@[simp] theorem State.setEntF_key (s : State) (pg bank sel idx w lo n v : Nat) : (State.setEntF s pg bank sel idx w lo n v).key = s.key := rfl
@[simp] theorem State.setEntF_lanes (s : State) (pg bank sel idx w lo n v : Nat) : (State.setEntF s pg bank sel idx w lo n v).lanes = s.lanes := rfl
@[simp] theorem State.setEntF_epv (s : State) (pg bank sel idx w lo n v : Nat) : (State.setEntF s pg bank sel idx w lo n v).epv = s.epv := rfl
@[simp] theorem State.setEntF_saSent (s : State) (pg bank sel idx w lo n v : Nat) : (State.setEntF s pg bank sel idx w lo n v).saSent = s.saSent := rfl
@[simp] theorem State.setEntF_tbs (s : State) (pg bank sel idx w lo n v : Nat) : (State.setEntF s pg bank sel idx w lo n v).tbs = s.tbs := rfl
@[simp] theorem State.setEntF_cmp (s : State) (pg bank sel idx w lo n v : Nat) : (State.setEntF s pg bank sel idx w lo n v).cmp = s.cmp := rfl
@[simp] theorem State.setEntF_cand (s : State) (pg bank sel idx w lo n v : Nat) : (State.setEntF s pg bank sel idx w lo n v).cand = s.cand := rfl
@[simp] theorem State.setEntF_gbus (s : State) (pg bank sel idx w lo n v : Nat) : (State.setEntF s pg bank sel idx w lo n v).gbus = s.gbus := rfl
@[simp] theorem State.setEntF_mgt (s : State) (pg bank sel idx w lo n v : Nat) : (State.setEntF s pg bank sel idx w lo n v).mgt = s.mgt := rfl
@[simp] theorem State.setEntF_flt (s : State) (pg bank sel idx w lo n v : Nat) : (State.setEntF s pg bank sel idx w lo n v).flt = s.flt := rfl
@[simp] theorem State.setEntF_pwr (s : State) (pg bank sel idx w lo n v : Nat) : (State.setEntF s pg bank sel idx w lo n v).pwr = s.pwr := rfl
@[simp] theorem State.setEntF_fab (s : State) (pg bank sel idx w lo n v : Nat) : (State.setEntF s pg bank sel idx w lo n v).fab = s.fab := rfl
@[simp] theorem State.setEntF_take (s : State) (pg bank sel idx w lo n v : Nat) : (State.setEntF s pg bank sel idx w lo n v).take = s.take := rfl
@[simp] theorem State.setEntF_pad (s : State) (pg bank sel idx w lo n v : Nat) : (State.setEntF s pg bank sel idx w lo n v).pad = s.pad := rfl
@[simp] theorem State.setEntF_merge (s : State) (pg bank sel idx w lo n v : Nat) : (State.setEntF s pg bank sel idx w lo n v).merge = s.merge := rfl
@[simp] theorem State.setEntF_flowHigh (s : State) (pg bank sel idx w lo n v : Nat) : (State.setEntF s pg bank sel idx w lo n v).flowHigh = s.flowHigh := rfl
@[simp] theorem State.setEntF_reel (s : State) (pg bank sel idx w lo n v : Nat) : (State.setEntF s pg bank sel idx w lo n v).reel = s.reel := rfl
@[simp] theorem State.setEntF_egr (s : State) (pg bank sel idx w lo n v : Nat) : (State.setEntF s pg bank sel idx w lo n v).egr = s.egr := rfl
@[simp] theorem State.setEntF_remote (s : State) (pg bank sel idx w lo n v : Nat) : (State.setEntF s pg bank sel idx w lo n v).remote = s.remote := rfl
@[simp] theorem State.setEntF_ports (s : State) (pg bank sel idx w lo n v : Nat) : (State.setEntF s pg bank sel idx w lo n v).ports = s.ports := rfl
@[simp] theorem State.setEntF_aud (s : State) (pg bank sel idx w lo n v : Nat) : (State.setEntF s pg bank sel idx w lo n v).aud = s.aud := rfl
@[simp] theorem State.setEntF_fol (s : State) (pg bank sel idx w lo n v : Nat) : (State.setEntF s pg bank sel idx w lo n v).fol = s.fol := rfl
@[simp] theorem State.setEntF_mon (s : State) (pg bank sel idx w lo n v : Nat) : (State.setEntF s pg bank sel idx w lo n v).mon = s.mon := rfl
@[simp] theorem State.setEntF_occ (s : State) (pg bank sel idx w lo n v : Nat) : (State.setEntF s pg bank sel idx w lo n v).occ = s.occ := rfl
@[simp] theorem State.setEntF_out (s : State) (pg bank sel idx w lo n v : Nat) : (State.setEntF s pg bank sel idx w lo n v).out = s.out := rfl
@[simp] theorem State.setEntF_pending (s : State) (pg bank sel idx w lo n v : Nat) : (State.setEntF s pg bank sel idx w lo n v).pending = s.pending := rfl
@[simp] theorem State.setEntF_rd (s : State) (pg bank sel idx w lo n v : Nat) (b0 a0 : Nat) : (State.setEntF s pg bank sel idx w lo n v).rd b0 a0 = s.rd b0 a0 := rfl
@[simp] theorem State.setEntF_rdF (s : State) (pg bank sel idx w lo n v : Nat) (b0 a0 l0 n0 : Nat) : (State.setEntF s pg bank sel idx w lo n v).rdF b0 a0 l0 n0 = s.rdF b0 a0 l0 n0 := rfl
@[simp] theorem State.setEntF_memByte (s : State) (pg bank sel idx w lo n v : Nat) (a0 : Nat) : (State.setEntF s pg bank sel idx w lo n v).memByte a0 = s.memByte a0 := rfl

/-! ### State.snap -/

@[simp] theorem State.snap_tbl (s : State) (bank a copy : Nat) : (State.snap s bank a copy).tbl = s.tbl := rfl
@[simp] theorem State.snap_mem (s : State) (bank a copy : Nat) : (State.snap s bank a copy).mem = s.mem := rfl
@[simp] theorem State.snap_beat (s : State) (bank a copy : Nat) : (State.snap s bank a copy).beat = s.beat := rfl
@[simp] theorem State.snap_free (s : State) (bank a copy : Nat) : (State.snap s bank a copy).free = s.free := rfl
@[simp] theorem State.snap_bus (s : State) (bank a copy : Nat) : (State.snap s bank a copy).bus = s.bus := rfl
@[simp] theorem State.snap_host (s : State) (bank a copy : Nat) : (State.snap s bank a copy).host = s.host := rfl
@[simp] theorem State.snap_fuse (s : State) (bank a copy : Nat) : (State.snap s bank a copy).fuse = s.fuse := rfl
@[simp] theorem State.snap_key (s : State) (bank a copy : Nat) : (State.snap s bank a copy).key = s.key := rfl
@[simp] theorem State.snap_lanes (s : State) (bank a copy : Nat) : (State.snap s bank a copy).lanes = s.lanes := rfl
@[simp] theorem State.snap_epv (s : State) (bank a copy : Nat) : (State.snap s bank a copy).epv = s.epv := rfl
@[simp] theorem State.snap_saSent (s : State) (bank a copy : Nat) : (State.snap s bank a copy).saSent = s.saSent := rfl
@[simp] theorem State.snap_tbs (s : State) (bank a copy : Nat) : (State.snap s bank a copy).tbs = s.tbs := rfl
@[simp] theorem State.snap_cmp (s : State) (bank a copy : Nat) : (State.snap s bank a copy).cmp = s.cmp := rfl
@[simp] theorem State.snap_cand (s : State) (bank a copy : Nat) : (State.snap s bank a copy).cand = s.cand := rfl
@[simp] theorem State.snap_gbus (s : State) (bank a copy : Nat) : (State.snap s bank a copy).gbus = s.gbus := rfl
@[simp] theorem State.snap_mgt (s : State) (bank a copy : Nat) : (State.snap s bank a copy).mgt = s.mgt := rfl
@[simp] theorem State.snap_flt (s : State) (bank a copy : Nat) : (State.snap s bank a copy).flt = s.flt := rfl
@[simp] theorem State.snap_pwr (s : State) (bank a copy : Nat) : (State.snap s bank a copy).pwr = s.pwr := rfl
@[simp] theorem State.snap_fab (s : State) (bank a copy : Nat) : (State.snap s bank a copy).fab = s.fab := rfl
@[simp] theorem State.snap_take (s : State) (bank a copy : Nat) : (State.snap s bank a copy).take = s.take := rfl
@[simp] theorem State.snap_pad (s : State) (bank a copy : Nat) : (State.snap s bank a copy).pad = s.pad := rfl
@[simp] theorem State.snap_merge (s : State) (bank a copy : Nat) : (State.snap s bank a copy).merge = s.merge := rfl
@[simp] theorem State.snap_flowHigh (s : State) (bank a copy : Nat) : (State.snap s bank a copy).flowHigh = s.flowHigh := rfl
@[simp] theorem State.snap_reel (s : State) (bank a copy : Nat) : (State.snap s bank a copy).reel = s.reel := rfl
@[simp] theorem State.snap_egr (s : State) (bank a copy : Nat) : (State.snap s bank a copy).egr = s.egr := rfl
@[simp] theorem State.snap_remote (s : State) (bank a copy : Nat) : (State.snap s bank a copy).remote = s.remote := rfl
@[simp] theorem State.snap_ports (s : State) (bank a copy : Nat) : (State.snap s bank a copy).ports = s.ports := rfl
@[simp] theorem State.snap_aud (s : State) (bank a copy : Nat) : (State.snap s bank a copy).aud = s.aud := rfl
@[simp] theorem State.snap_fol (s : State) (bank a copy : Nat) : (State.snap s bank a copy).fol = s.fol := rfl
@[simp] theorem State.snap_mon (s : State) (bank a copy : Nat) : (State.snap s bank a copy).mon = s.mon := rfl
@[simp] theorem State.snap_occ (s : State) (bank a copy : Nat) : (State.snap s bank a copy).occ = s.occ := rfl
@[simp] theorem State.snap_out (s : State) (bank a copy : Nat) : (State.snap s bank a copy).out = s.out := rfl
@[simp] theorem State.snap_pending (s : State) (bank a copy : Nat) : (State.snap s bank a copy).pending = s.pending := rfl
@[simp] theorem State.snap_ent (s : State) (bank a copy : Nat) (p0 b0 s0 i0 w0 : Nat) : (State.snap s bank a copy).ent p0 b0 s0 i0 w0 = s.ent p0 b0 s0 i0 w0 := rfl
@[simp] theorem State.snap_entF (s : State) (bank a copy : Nat) (p0 b0 s0 i0 w0 l0 n0 : Nat) : (State.snap s bank a copy).entF p0 b0 s0 i0 w0 l0 n0 = s.entF p0 b0 s0 i0 w0 l0 n0 := rfl
@[simp] theorem State.snap_memByte (s : State) (bank a copy : Nat) (a0 : Nat) : (State.snap s bank a copy).memByte a0 = s.memByte a0 := rfl

/-! ### State.snapEnt -/

@[simp] theorem State.snapEnt_regs (s : State) (pg bank sel idx w copy : Nat) : (State.snapEnt s pg bank sel idx w copy).regs = s.regs := rfl
@[simp] theorem State.snapEnt_mem (s : State) (pg bank sel idx w copy : Nat) : (State.snapEnt s pg bank sel idx w copy).mem = s.mem := rfl
@[simp] theorem State.snapEnt_beat (s : State) (pg bank sel idx w copy : Nat) : (State.snapEnt s pg bank sel idx w copy).beat = s.beat := rfl
@[simp] theorem State.snapEnt_free (s : State) (pg bank sel idx w copy : Nat) : (State.snapEnt s pg bank sel idx w copy).free = s.free := rfl
@[simp] theorem State.snapEnt_bus (s : State) (pg bank sel idx w copy : Nat) : (State.snapEnt s pg bank sel idx w copy).bus = s.bus := rfl
@[simp] theorem State.snapEnt_host (s : State) (pg bank sel idx w copy : Nat) : (State.snapEnt s pg bank sel idx w copy).host = s.host := rfl
@[simp] theorem State.snapEnt_fuse (s : State) (pg bank sel idx w copy : Nat) : (State.snapEnt s pg bank sel idx w copy).fuse = s.fuse := rfl
@[simp] theorem State.snapEnt_key (s : State) (pg bank sel idx w copy : Nat) : (State.snapEnt s pg bank sel idx w copy).key = s.key := rfl
@[simp] theorem State.snapEnt_lanes (s : State) (pg bank sel idx w copy : Nat) : (State.snapEnt s pg bank sel idx w copy).lanes = s.lanes := rfl
@[simp] theorem State.snapEnt_epv (s : State) (pg bank sel idx w copy : Nat) : (State.snapEnt s pg bank sel idx w copy).epv = s.epv := rfl
@[simp] theorem State.snapEnt_saSent (s : State) (pg bank sel idx w copy : Nat) : (State.snapEnt s pg bank sel idx w copy).saSent = s.saSent := rfl
@[simp] theorem State.snapEnt_tbs (s : State) (pg bank sel idx w copy : Nat) : (State.snapEnt s pg bank sel idx w copy).tbs = s.tbs := rfl
@[simp] theorem State.snapEnt_cmp (s : State) (pg bank sel idx w copy : Nat) : (State.snapEnt s pg bank sel idx w copy).cmp = s.cmp := rfl
@[simp] theorem State.snapEnt_cand (s : State) (pg bank sel idx w copy : Nat) : (State.snapEnt s pg bank sel idx w copy).cand = s.cand := rfl
@[simp] theorem State.snapEnt_gbus (s : State) (pg bank sel idx w copy : Nat) : (State.snapEnt s pg bank sel idx w copy).gbus = s.gbus := rfl
@[simp] theorem State.snapEnt_mgt (s : State) (pg bank sel idx w copy : Nat) : (State.snapEnt s pg bank sel idx w copy).mgt = s.mgt := rfl
@[simp] theorem State.snapEnt_flt (s : State) (pg bank sel idx w copy : Nat) : (State.snapEnt s pg bank sel idx w copy).flt = s.flt := rfl
@[simp] theorem State.snapEnt_pwr (s : State) (pg bank sel idx w copy : Nat) : (State.snapEnt s pg bank sel idx w copy).pwr = s.pwr := rfl
@[simp] theorem State.snapEnt_fab (s : State) (pg bank sel idx w copy : Nat) : (State.snapEnt s pg bank sel idx w copy).fab = s.fab := rfl
@[simp] theorem State.snapEnt_take (s : State) (pg bank sel idx w copy : Nat) : (State.snapEnt s pg bank sel idx w copy).take = s.take := rfl
@[simp] theorem State.snapEnt_pad (s : State) (pg bank sel idx w copy : Nat) : (State.snapEnt s pg bank sel idx w copy).pad = s.pad := rfl
@[simp] theorem State.snapEnt_merge (s : State) (pg bank sel idx w copy : Nat) : (State.snapEnt s pg bank sel idx w copy).merge = s.merge := rfl
@[simp] theorem State.snapEnt_flowHigh (s : State) (pg bank sel idx w copy : Nat) : (State.snapEnt s pg bank sel idx w copy).flowHigh = s.flowHigh := rfl
@[simp] theorem State.snapEnt_reel (s : State) (pg bank sel idx w copy : Nat) : (State.snapEnt s pg bank sel idx w copy).reel = s.reel := rfl
@[simp] theorem State.snapEnt_egr (s : State) (pg bank sel idx w copy : Nat) : (State.snapEnt s pg bank sel idx w copy).egr = s.egr := rfl
@[simp] theorem State.snapEnt_remote (s : State) (pg bank sel idx w copy : Nat) : (State.snapEnt s pg bank sel idx w copy).remote = s.remote := rfl
@[simp] theorem State.snapEnt_ports (s : State) (pg bank sel idx w copy : Nat) : (State.snapEnt s pg bank sel idx w copy).ports = s.ports := rfl
@[simp] theorem State.snapEnt_aud (s : State) (pg bank sel idx w copy : Nat) : (State.snapEnt s pg bank sel idx w copy).aud = s.aud := rfl
@[simp] theorem State.snapEnt_fol (s : State) (pg bank sel idx w copy : Nat) : (State.snapEnt s pg bank sel idx w copy).fol = s.fol := rfl
@[simp] theorem State.snapEnt_mon (s : State) (pg bank sel idx w copy : Nat) : (State.snapEnt s pg bank sel idx w copy).mon = s.mon := rfl
@[simp] theorem State.snapEnt_occ (s : State) (pg bank sel idx w copy : Nat) : (State.snapEnt s pg bank sel idx w copy).occ = s.occ := rfl
@[simp] theorem State.snapEnt_out (s : State) (pg bank sel idx w copy : Nat) : (State.snapEnt s pg bank sel idx w copy).out = s.out := rfl
@[simp] theorem State.snapEnt_pending (s : State) (pg bank sel idx w copy : Nat) : (State.snapEnt s pg bank sel idx w copy).pending = s.pending := rfl
@[simp] theorem State.snapEnt_rd (s : State) (pg bank sel idx w copy : Nat) (b0 a0 : Nat) : (State.snapEnt s pg bank sel idx w copy).rd b0 a0 = s.rd b0 a0 := rfl
@[simp] theorem State.snapEnt_rdF (s : State) (pg bank sel idx w copy : Nat) (b0 a0 l0 n0 : Nat) : (State.snapEnt s pg bank sel idx w copy).rdF b0 a0 l0 n0 = s.rdF b0 a0 l0 n0 := rfl
@[simp] theorem State.snapEnt_memByte (s : State) (pg bank sel idx w copy : Nat) (a0 : Nat) : (State.snapEnt s pg bank sel idx w copy).memByte a0 = s.memByte a0 := rfl

@[simp] theorem State.fresh_regs (s : State) (n : Nat) : (s.fresh n).2.regs = s.regs := rfl
@[simp] theorem State.fresh_tbl (s : State) (n : Nat) : (s.fresh n).2.tbl = s.tbl := rfl
@[simp] theorem State.fresh_mem (s : State) (n : Nat) : (s.fresh n).2.mem = s.mem := rfl
@[simp] theorem State.fresh_beat (s : State) (n : Nat) : (s.fresh n).2.beat = s.beat := rfl
@[simp] theorem State.fresh_bus (s : State) (n : Nat) : (s.fresh n).2.bus = s.bus := rfl
@[simp] theorem State.fresh_host (s : State) (n : Nat) : (s.fresh n).2.host = s.host := rfl
@[simp] theorem State.fresh_fuse (s : State) (n : Nat) : (s.fresh n).2.fuse = s.fuse := rfl
@[simp] theorem State.fresh_key (s : State) (n : Nat) : (s.fresh n).2.key = s.key := rfl
@[simp] theorem State.fresh_lanes (s : State) (n : Nat) : (s.fresh n).2.lanes = s.lanes := rfl
@[simp] theorem State.fresh_epv (s : State) (n : Nat) : (s.fresh n).2.epv = s.epv := rfl
@[simp] theorem State.fresh_saSent (s : State) (n : Nat) : (s.fresh n).2.saSent = s.saSent := rfl
@[simp] theorem State.fresh_tbs (s : State) (n : Nat) : (s.fresh n).2.tbs = s.tbs := rfl
@[simp] theorem State.fresh_cmp (s : State) (n : Nat) : (s.fresh n).2.cmp = s.cmp := rfl
@[simp] theorem State.fresh_cand (s : State) (n : Nat) : (s.fresh n).2.cand = s.cand := rfl
@[simp] theorem State.fresh_gbus (s : State) (n : Nat) : (s.fresh n).2.gbus = s.gbus := rfl
@[simp] theorem State.fresh_mgt (s : State) (n : Nat) : (s.fresh n).2.mgt = s.mgt := rfl
@[simp] theorem State.fresh_flt (s : State) (n : Nat) : (s.fresh n).2.flt = s.flt := rfl
@[simp] theorem State.fresh_pwr (s : State) (n : Nat) : (s.fresh n).2.pwr = s.pwr := rfl
@[simp] theorem State.fresh_fab (s : State) (n : Nat) : (s.fresh n).2.fab = s.fab := rfl
@[simp] theorem State.fresh_take (s : State) (n : Nat) : (s.fresh n).2.take = s.take := rfl
@[simp] theorem State.fresh_pad (s : State) (n : Nat) : (s.fresh n).2.pad = s.pad := rfl
@[simp] theorem State.fresh_merge (s : State) (n : Nat) : (s.fresh n).2.merge = s.merge := rfl
@[simp] theorem State.fresh_flowHigh (s : State) (n : Nat) : (s.fresh n).2.flowHigh = s.flowHigh := rfl
@[simp] theorem State.fresh_reel (s : State) (n : Nat) : (s.fresh n).2.reel = s.reel := rfl
@[simp] theorem State.fresh_egr (s : State) (n : Nat) : (s.fresh n).2.egr = s.egr := rfl
@[simp] theorem State.fresh_remote (s : State) (n : Nat) : (s.fresh n).2.remote = s.remote := rfl
@[simp] theorem State.fresh_ports (s : State) (n : Nat) : (s.fresh n).2.ports = s.ports := rfl
@[simp] theorem State.fresh_aud (s : State) (n : Nat) : (s.fresh n).2.aud = s.aud := rfl
@[simp] theorem State.fresh_fol (s : State) (n : Nat) : (s.fresh n).2.fol = s.fol := rfl
@[simp] theorem State.fresh_mon (s : State) (n : Nat) : (s.fresh n).2.mon = s.mon := rfl
@[simp] theorem State.fresh_occ (s : State) (n : Nat) : (s.fresh n).2.occ = s.occ := rfl
@[simp] theorem State.fresh_out (s : State) (n : Nat) : (s.fresh n).2.out = s.out := rfl
@[simp] theorem State.fresh_pending (s : State) (n : Nat) : (s.fresh n).2.pending = s.pending := rfl
@[simp] theorem State.fresh_rd (s : State) (n k i : Nat) : (s.fresh n).2.rd k i = s.rd k i := rfl
@[simp] theorem State.fresh_ent (s : State) (n k i j m e : Nat) : (s.fresh n).2.ent k i j m e = s.ent k i j m e := rfl

end Sys2Proof.Machine
end

