-- ==== Sys2Proof/Laws/Regs.lean ====
section
/-!
SUPPORT. Laws/Regs.lean: reads of registers, table words and memory bytes after writes of them.
-/
namespace Sys2Proof.Machine

/-- A register after a write of a register. -/
theorem State.rd_wr (s : State) (b a : Nat) (v : Word) (b' a' : Nat) :
    (s.wr b a v).rd b' a' = if regKey b' a' = regKey b a then v else s.rd b' a' := by
  simp only [State.rd, State.wr, Tab.get_put]

@[simp] theorem State.rd_wr_same (s : State) (b a : Nat) (v : Word) : (s.wr b a v).rd b a = v := by simp [State.rd_wr]

theorem State.rd_wr_other (s : State) (b a : Nat) (v : Word) (b' a' : Nat) (h : regKey b' a' ≠ regKey b a) :
    (s.wr b a v).rd b' a' = s.rd b' a' := by simp [State.rd_wr, h]

/-- Another address in the same bank. -/
theorem State.rd_wr_addr (s : State) (b a : Nat) (v : Word) (a' : Nat) (h : a' ≠ a) : (s.wr b a v).rd b a' = s.rd b a' :=
  State.rd_wr_other s b a v b a' (by unfold regKey; omega)

theorem State.rdF_wr_other (s : State) (b a : Nat) (v : Word) (b' a' lo n : Nat) (h : regKey b' a' ≠ regKey b a) :
    (s.wr b a v).rdF b' a' lo n = s.rdF b' a' lo n := by simp [State.rdF, State.rd_wr, h]

/-- A field after it is set. -/
theorem State.rdF_wrF_same (s : State) (b a lo n v : Nat) (h : lo + n ≤ 32) : (s.wrF b a lo n v).rdF b a lo n = v % 2 ^ n := by
  simp only [State.rdF, State.wrF, State.rd_wr_same, fld_setFld_same _ _ _ _ h]

/-- Another field of the register. -/
theorem State.rdF_wrF_field (s : State) (b a lo n v lo' n' : Nat) (h : lo + n ≤ 32) (hb : lo' + n' ≤ lo ∨ lo + n ≤ lo') :
    (s.wrF b a lo n v).rdF b a lo' n' = s.rdF b a lo' n' := by
  simp only [State.rdF, State.wrF, State.rd_wr_same, fld_setFld_other _ _ _ _ _ _ h hb]

theorem State.rd_wrF_other (s : State) (b a lo n v b' a' : Nat) (h : regKey b' a' ≠ regKey b a) :
    (s.wrF b a lo n v).rd b' a' = s.rd b' a' := State.rd_wr_other _ _ _ _ _ _ h

/-- A table word after a write of a table word. -/
theorem State.ent_setEnt (s : State) (p b e i w : Nat) (v : Word) (p' b' e' i' w' : Nat) :
    (s.setEnt p b e i w v).ent p' b' e' i' w' =
      if tblKey p' b' e' i' w' = tblKey p b e i w then v else s.ent p' b' e' i' w' := by
  simp only [State.ent, State.setEnt, Tab.get_put]

@[simp] theorem State.ent_setEnt_same (s : State) (p b e i w : Nat) (v : Word) : (s.setEnt p b e i w v).ent p b e i w = v := by
  simp [State.ent_setEnt]

theorem State.ent_setEnt_other (s : State) (p b e i w : Nat) (v : Word) (p' b' e' i' w' : Nat)
    (h : tblKey p' b' e' i' w' ≠ tblKey p b e i w) : (s.setEnt p b e i w v).ent p' b' e' i' w' = s.ent p' b' e' i' w' := by
  simp [State.ent_setEnt, h]

/-- A byte after a write of a byte. -/
theorem State.memByte_setByte (s : State) (a : Nat) (b : Byte) (k : Nat) :
    (s.setByte a b).memByte k = if k = a then b else s.memByte k := by
  simp only [State.memByte, State.setByte, Tab.get_put]

/-- Bytes outside a wider write. -/
theorem State.memByte_memPut_other (s : State) (a n v k : Nat) (h : k < a ∨ a + n ≤ k) : (s.memPut a n v).memByte k = s.memByte k := by
  induction n generalizing s a v with
  | zero => rfl
  | succ n ih =>
    rw [State.memPut, ih _ _ _ (by omega), State.memByte_setByte, if_neg (by omega)]

/-- A wider read after a write of the same place. -/
theorem State.memGet_memPut (s : State) (a n v : Nat) : (s.memPut a n v).memGet a n = v % 256 ^ n := by
  induction n generalizing s a v with
  | zero => simp [State.memGet, Nat.mod_one]
  | succ n ih =>
    have e : v % 256 ^ (n + 1) = v % 2 ^ 8 + 256 * (v / 256 % 256 ^ n) := by rw [pow_succ', Nat.mod_mul]; norm_num
    rw [State.memPut, State.memGet, ih, State.memByte_memPut_other _ _ _ _ _ (by omega), State.memByte_setByte, if_pos rfl,
      BitVec.toNat_ofNat, e]

/-- What `memClear` leaves: the segments of no partition. -/
theorem State.memByte_memClear (s : State) (k : Nat) : s.memClear.memByte k = if k < 64 * 2 ^ 26 then s.memByte k else 0 := by
  simp only [State.memByte, State.memClear, Tab.get_keep, decide_eq_true_eq, memZero]

/-- Every memory operation keeps the canonical form, and the memory at reset has it. -/
theorem State.setByte_wf (s : State) (a : Nat) (b : Byte) (h : Memory.wf s.mem = true) : Memory.wf (s.setByte a b).mem = true :=
  Tab.wf_put _ _ _ _ h
theorem State.memPut_wf (s : State) (a n v : Nat) (h : Memory.wf s.mem = true) : Memory.wf (s.memPut a n v).mem = true := by
  induction n generalizing s a v with
  | zero => exact h
  | succ n ih => exact ih _ _ _ (State.setByte_wf _ _ _ h)
theorem State.memClear_wf (s : State) (h : Memory.wf s.mem = true) : Memory.wf s.memClear.mem = true := Tab.wf_keep _ _ _ h
theorem State.reset_mem_wf : Memory.wf State.reset.mem = true := rfl

end Sys2Proof.Machine
end

