-- ==== Sys2Proof/Laws/Bus.lean ====
section
/-!
SUPPORT. Laws/Bus.lean: what an access at the bus matrix can do, said once: it is lost, it is refused and logged, or it has its
effect and is counted.
-/
namespace Sys2Proof.Machine

/-- A write that reaches no bus matrix changes nothing. -/
theorem busWrite_lost (x : Access) (eff : State → State) (s : State) (h : s.lost x.tag x.master = true) : busWrite x eff s = s := by
  unfold busWrite
  rw [if_pos h]

/-- A refused write is logged and answered, and has no effect. -/
theorem busWrite_refused (x : Access) (eff : State → State) (s : State) (c : Cause) (h : s.lost x.tag x.master = false)
    (hc : ((s.noteDebug x.tag).dropHolds x.master x.page).refusal x = some c) :
    busWrite x eff s = (((s.noteDebug x.tag).dropHolds x.master x.page).logErr x c).respond x true 0 := by
  unfold busWrite
  rw [if_neg (by simp [h])]
  dsimp only
  rw [hc]

/-- An accepted write has its effect after the counts. -/
theorem busWrite_accepted (x : Access) (eff : State → State) (s : State) (h : s.lost x.tag x.master = false)
    (hc : ((s.noteDebug x.tag).dropHolds x.master x.page).refusal x = none) :
    busWrite x eff s =
      (eff ((((s.noteDebug x.tag).dropHolds x.master x.page).countRein x).countWrite x)).respond x false 0 := by
  unfold busWrite
  rw [if_neg (by simp [h])]
  dsimp only
  rw [hc]

end Sys2Proof.Machine
end

