-- ==== Sys2Proof/Laws/Kept.lean ====
section
/-!
SUPPORT. Laws/Kept.lean: what every operation of the model keeps, as a relation from a state to a later one: the queue of
commands, the canonical form of the stores, blown fuses, and the counters of R431, which never fall. The files beside it show it of
each function of the model.
-/
namespace Sys2Proof.Machine

/-- What no operation on the state may break. -/
structure Kept (s t : State) : Prop where
  pending : t.pending = s.pending
  regs : Tab.wf regReset s.regs = true → Tab.wf regReset t.regs = true
  tbl : Tab.wf tblReset s.tbl = true → Tab.wf tblReset t.tbl = true
  mem : Tab.wf memZero s.mem = true → Tab.wf memZero t.mem = true
  lc : s.fuse.lc ≤ t.fuse.lc
  sealBits : s.fuse.dbgSeal &&& t.fuse.dbgSeal = s.fuse.dbgSeal
  gen : ∀ p, s.gen p ≤ t.gen p
  epoch : ∀ p, s.epoch p ≤ t.epoch p

theorem Kept.refl (s : State) : Kept s s :=
  ⟨rfl, fun x => x, fun x => x, fun x => x, BitVec.le_refl _, by simp, fun _ => BitVec.le_refl _, fun _ => BitVec.le_refl _⟩

theorem Kept.trans {s t u : State} (h : Kept s t) (g : Kept t u) : Kept s u where
  pending := g.pending.trans h.pending
  regs x := g.regs (h.regs x)
  tbl x := g.tbl (h.tbl x)
  mem x := g.mem (h.mem x)
  lc := BitVec.le_trans h.lc g.lc
  sealBits := by
    have h1 := h.sealBits
    have h2 := g.sealBits
    rw [← h1, BitVec.and_assoc, h2]
  gen p := BitVec.le_trans (h.gen p) (g.gen p)
  epoch p := BitVec.le_trans (h.epoch p) (g.epoch p)

/-- A change of the other fields. A rewrite rule, so that it looks only at updates. -/
theorem Kept.update (u s : State) (beat : Nat) (free : Nat) (bus : BusSt) (host : HostSt) (key : KeySt) (lanes : Tab LaneRec)
    (epv : Tab EpvRec) (saSent : List Nat) (tbs : Tab TbRec) (cmp : Tab CmpRec) (cand : Tab CandRec) (gbus : GbusSt) (mgt :
    MgtSt) (flt : FltSt) (pwr : PwrSt) (fab : FabSt) (take : TakeSt) (pad : Tab PadRec) (merge : Tab MergeRec) (flowHigh : Tab
    (Option Nat)) (reel : ReelSt) (egr : Tab EgrRec) (remote : List Nat) (ports : Tab TxPort) (aud : AudSt) (fol : Tab FolRec) (mon : MonSt) (occ :
    List Occ) (out : List Out)
    (hg : key.gen = s.key.gen) (he : key.epoch = s.key.epoch) :
    Kept u ⟨s.regs, s.tbl, s.mem, beat, free, bus, host, s.fuse, key, lanes, epv, saSent, tbs, cmp, cand, gbus, mgt, flt, pwr,
    fab, take, pad, merge, flowHigh, reel, egr, remote, ports, aud, fol, mon, occ, out, s.pending⟩ ↔ Kept u s := by
  constructor
  · exact fun h => h.trans ⟨rfl, fun x => x, fun x => x, fun x => x, BitVec.le_refl _, by simp, fun p => by simp [State.gen, hg],
      fun p => by simp [State.epoch, he]⟩
  · exact fun h => h.trans ⟨rfl, fun x => x, fun x => x, fun x => x, BitVec.le_refl _, by simp, fun p => by simp [State.gen, hg],
      fun p => by simp [State.epoch, he]⟩

/-- The state in the second part of a pair. -/
theorem Kept.snd {α : Type} {u t : State} {r : α × State} {a : α} (e : r = (a, t)) (h : Kept u r.2) : Kept u t := by
  subst e; exact h

/-- The state in the first part of a pair. -/
theorem Kept.fst {α : Type} {u t : State} {r : State × α} {a : α} (e : r = (t, a)) (h : Kept u r.1) : Kept u t := by
  subst e; exact h

/-- The state in the third part of a triple. -/
theorem Kept.third {α β : Type} {u t : State} {r : α × β × State} {a : α} {b : β} (e : r = (a, b, t)) (h : Kept u r.2.2) :
    Kept u t := by
  subst e; exact h

/-- The state in the second part of a pair whose first part is a pair. -/
theorem Kept.last {α β : Type} {u t : State} {r : (α × β) × State} {a : α} {b : β} (e : r = ((a, b), t)) (h : Kept u r.2) :
    Kept u t := by
  subst e; exact h

/-- An effect for each element of a list. -/
theorem Kept.forEach {α : Type} {s t : State} (h : Kept s t) (l : List α) (f : α → State → State)
    (hf : ∀ x u, Kept s u → Kept s (f x u)) : Kept s (forEach l f t) := by
  unfold Machine.forEach
  induction l generalizing t with
  | nil => exact h
  | cons x r ih => exact ih (hf x t h)

theorem Kept.foldl {α : Type} {s t : State} (h : Kept s t) (l : List α) (f : State → α → State)
    (hf : ∀ x u, Kept s u → Kept s (f u x)) : Kept s (l.foldl f t) := by
  induction l generalizing t with
  | nil => exact h
  | cons x r ih => exact ih (hf x t h)

/-- A fold whose accumulator holds the state in its second part. -/
theorem Kept.foldl_snd {α β : Type} {s : State} {a : β × State} (h : Kept s a.2) (l : List α) (f : β × State → α → β × State)
    (hf : ∀ x u, Kept s u.2 → Kept s (f u x).2) : Kept s (l.foldl f a).2 := by
  induction l generalizing a with
  | nil => exact h
  | cons x r ih => exact ih (hf x a h)

/-- A fold whose accumulator holds the state in its first part. -/
theorem Kept.foldl_fst {α β : Type} {s : State} {a : State × β} (h : Kept s a.1) (l : List α) (f : State × β → α → State × β)
    (hf : ∀ x u, Kept s u.1 → Kept s (f u x).1) : Kept s (l.foldl f a).1 := by
  induction l generalizing a with
  | nil => exact h
  | cons x r ih => exact ih (hf x a h)

/-- A change of the three stores that keeps their canonical form. -/
theorem Kept.stores {s t u : State} (h : Kept s t) (hp : u.pending = t.pending)
    (hr : Tab.wf regReset t.regs = true → Tab.wf regReset u.regs = true)
    (ht : Tab.wf tblReset t.tbl = true → Tab.wf tblReset u.tbl = true)
    (hm : Tab.wf memZero t.mem = true → Tab.wf memZero u.mem = true) (hf : u.fuse = t.fuse) (hg : u.key.gen = t.key.gen)
    (he : u.key.epoch = t.key.epoch) : Kept s u :=
  h.trans ⟨hp, hr, ht, hm, by rw [hf]; exact BitVec.le_refl _, by rw [hf]; simp, fun p => by simp [State.gen, hg],
    fun p => by simp [State.epoch, he]⟩

theorem State.wr_kept (u s : State) (bank a : Nat) (v : Word) (h : Kept u s) : Kept u (s.wr bank a v) := by
  unfold State.wr
  exact h.stores rfl (fun x => Tab.wf_put _ _ _ _ x) (fun x => x) (fun x => x) rfl rfl rfl

theorem State.setEnt_kept (u s : State) (pg bank sel idx w : Nat) (v : Word) (h : Kept u s) :
    Kept u (s.setEnt pg bank sel idx w v) := by
  unfold State.setEnt
  exact h.stores rfl (fun x => x) (fun x => Tab.wf_put _ _ _ _ x) (fun x => x) rfl rfl rfl

theorem State.setByte_kept (u s : State) (a : Nat) (b : Byte) (h : Kept u s) : Kept u (s.setByte a b) := by
  unfold State.setByte
  exact h.stores rfl (fun x => x) (fun x => x) (fun x => Tab.wf_put _ _ _ _ x) rfl rfl rfl

theorem State.memClear_kept (u s : State) (h : Kept u s) : Kept u s.memClear := by
  unfold State.memClear
  exact h.stores rfl (fun x => x) (fun x => x) (fun x => Tab.wf_keep _ _ _ x) rfl rfl rfl

/-- Dropping some of the registers and table words. -/
theorem Kept.keep {s t u : State} (h : Kept s t) (f g : Nat → Bool) (hp : u.pending = t.pending)
    (hr : u.regs = Tab.keep f t.regs) (ht : u.tbl = Tab.keep g t.tbl) (hm : u.mem = t.mem) (hf : u.fuse = t.fuse)
    (hg : u.key.gen = t.key.gen) (he : u.key.epoch = t.key.epoch) : Kept s u :=
  h.trans ⟨hp, by rw [hr]; exact Tab.wf_keep _ _ _, by rw [ht]; exact Tab.wf_keep _ _ _, by rw [hm]; exact id,
    by rw [hf]; exact BitVec.le_refl _, by rw [hf]; simp, fun p => by simp [State.gen, hg], fun p => by simp [State.epoch, he]⟩

/-- Dropping some of the table words. -/
theorem Kept.keepTbl {s t u : State} (h : Kept s t) (g : Nat → Bool) (hp : u.pending = t.pending)
    (hr : u.regs = t.regs) (ht : u.tbl = Tab.keep g t.tbl) (hm : u.mem = t.mem) (hf : u.fuse = t.fuse)
    (hg : u.key.gen = t.key.gen) (he : u.key.epoch = t.key.epoch) : Kept s u :=
  h.trans ⟨hp, by rw [hr]; exact id, by rw [ht]; exact Tab.wf_keep _ _ _, by rw [hm]; exact id,
    by rw [hf]; exact BitVec.le_refl _, by rw [hf]; simp, fun p => by simp [State.gen, hg], fun p => by simp [State.epoch, he]⟩

theorem State.setGen_kept (u s : State) (p : Nat) (v : Word) (hv : s.gen p ≤ v) (h : Kept u s) : Kept u (s.setGen p v) := by
  refine h.trans ⟨rfl, fun x => x, fun x => x, fun x => x, BitVec.le_refl _, by simp [State.setGen], fun q => ?_, fun q => ?_⟩
  · simp only [State.gen, State.setGen, Tab.get_put]
    split
    · subst_vars; exact hv
    · exact BitVec.le_refl _
  · exact BitVec.le_refl _

theorem State.setEpoch_kept (u s : State) (p : Nat) (v : Word) (hv : s.epoch p ≤ v) (h : Kept u s) :
    Kept u (s.setEpoch p v) := by
  refine h.trans ⟨rfl, fun x => x, fun x => x, fun x => x, BitVec.le_refl _, by simp [State.setEpoch], fun q => ?_, fun q => ?_⟩
  · exact BitVec.le_refl _
  · simp only [State.epoch, State.setEpoch, Tab.get_put]
    split
    · subst_vars; exact hv
    · exact BitVec.le_refl _

end Sys2Proof.Machine
end

