-- ==== Sys2Proof/Laws/Kept/Ops.lean ====
section
/-!
SUPPORT. Laws/Kept/Ops.lean: each operation of Machine/Ops.lean keeps what Laws/Kept.lean names.
-/
set_option linter.unusedSimpArgs false
set_option linter.unusedVariables false
set_option linter.unusedTactic false
set_option linter.unreachableTactic false

namespace Sys2Proof.Machine

theorem State.wrF_kept (k0 : State) (s : State) (bank a lo n v : Nat) (hk : Kept k0 s) : Kept k0 (State.wrF s bank a lo n v) := by
  unfold State.wrF
  try dsimp only
  repeat' first
    | with_reducible assumption
    | intro _
    | with_reducible apply State.wr_kept

theorem State.wr64_kept (k0 : State) (s : State) (bank a v : Nat) (hk : Kept k0 s) : Kept k0 (State.wr64 s bank a v) := by
  unfold State.wr64
  try dsimp only
  repeat' first
    | with_reducible assumption
    | intro _
    | with_reducible apply State.wr_kept

theorem State.inc_kept (k0 : State) (s : State) (bank a : Nat) (hk : Kept k0 s) : Kept k0 (State.inc s bank a) := by
  unfold State.inc
  try dsimp only
  repeat' first
    | with_reducible assumption
    | intro _
    | with_reducible apply State.wr_kept

theorem State.incSat_kept (k0 : State) (s : State) (bank a n : Nat) (hk : Kept k0 s) : Kept k0 (State.incSat s bank a n) := by
  unfold State.incSat
  try dsimp only
  repeat' first
    | with_reducible assumption
    | intro _
    | with_reducible apply State.wr_kept

theorem State.setEntF_kept (k0 : State) (s : State) (pg bank sel idx w lo n v : Nat) (hk : Kept k0 s) : Kept k0 (State.setEntF s pg bank sel idx w lo n v) := by
  unfold State.setEntF
  try dsimp only
  repeat' first
    | with_reducible assumption
    | intro _
    | with_reducible apply State.setEnt_kept

theorem State.setEntWords_kept (u s : State) (pg bank sel idx w : Nat) (l : List Word) (h : Kept u s) :
    Kept u (s.setEntWords pg bank sel idx w l) := by
  induction l generalizing s w with
  | nil => exact h
  | cons v r ih => exact ih _ _ (State.setEnt_kept u s _ _ _ _ _ _ h)

theorem State.fresh_kept (k0 : State) (s : State) (n : Nat) (hk : Kept k0 s) : Kept k0 (State.fresh s n).2 := by
  unfold State.fresh
  try dsimp only
  repeat' first
    | with_reducible assumption
    | intro _
    | simp only [Kept.update]

theorem State.emit_kept (k0 : State) (s : State) (o : Out) (hk : Kept k0 s) : Kept k0 (State.emit s o) := by
  unfold State.emit
  try dsimp only
  repeat' first
    | with_reducible assumption
    | intro _
    | simp only [Kept.update]

theorem State.wrWords_kept (u s : State) (bank a : Nat) (l : List Word) (h : Kept u s) : Kept u (s.wrWords bank a l) := by
  induction l generalizing s a with
  | nil => exact h
  | cons v r ih => exact ih _ _ (State.wr_kept u s _ _ _ h)

theorem State.snap_kept (k0 : State) (s : State) (bank a copy : Nat) (hk : Kept k0 s) : Kept k0 (State.snap s bank a copy) := by
  unfold State.snap
  try dsimp only
  repeat' first
    | with_reducible assumption
    | intro _
    | with_reducible apply State.wr_kept

theorem State.snapEnt_kept (k0 : State) (s : State) (pg bank sel idx w copy : Nat) (hk : Kept k0 s) : Kept k0 (State.snapEnt s pg bank sel idx w copy) := by
  unfold State.snapEnt
  try dsimp only
  repeat' first
    | with_reducible assumption
    | intro _
    | with_reducible apply State.setEnt_kept

theorem State.snapTable_kept (u s : State) (pg bank sel : Nat) (ws : List (Nat × Nat)) (h : Kept u s) :
    Kept u (s.snapTable pg bank sel ws) :=
  h.foldl _ _ fun i _ h => h.foldl _ _ fun w s h => State.snapEnt_kept u s pg bank sel i w.1 w.2 h

end Sys2Proof.Machine
end

