-- ==== Sys2Proof/Laws/Kept/Flags.lean ====
section
/-!
SUPPORT. Laws/Kept/Flags.lean: each operation of Machine/Flags.lean keeps what Laws/Kept.lean names.
-/
set_option linter.unusedSimpArgs false
set_option linter.unusedVariables false
set_option linter.unusedTactic false
set_option linter.unreachableTactic false

namespace Sys2Proof.Machine

theorem State.occur_kept (k0 : State) (s : State) (src inst part : Nat) (hk : Kept k0 s) : Kept k0 (State.occur s src inst part) := by
  unfold State.occur
  try dsimp only
  repeat' first
    | with_reducible assumption
    | intro _
    | simp only [Kept.update]

theorem State.faultAt_kept (k0 : State) (s : State) (pg b inst part : Nat) (hk : Kept k0 s) : Kept k0 (State.faultAt s pg b inst part) := by
  unfold State.faultAt
  try dsimp only
  repeat' first
    | with_reducible assumption
    | intro _
    | with_reducible apply State.wrF_kept
    | with_reducible apply State.occur_kept
    | split

theorem State.event_kept (k0 : State) (s : State) (pg b part : Nat) (hk : Kept k0 s) : Kept k0 (State.event s pg b part) := by
  unfold State.event
  try dsimp only
  repeat' first
    | with_reducible assumption
    | intro _
    | simp only [Kept.update]
    | with_reducible apply State.wrF_kept
    | split
    | with_reducible refine Kept.snd (by assumption) ?_
    | with_reducible refine Kept.third (by assumption) ?_
    | with_reducible refine Kept.last (by assumption) ?_
    | with_reducible refine Kept.fst (by assumption) ?_

theorem State.raiseAt_kept (k0 : State) (s : State) (pg b inst part : Nat) (hk : Kept k0 s) : Kept k0 (State.raiseAt s pg b inst part) := by
  unfold State.raiseAt
  try dsimp only
  repeat' first
    | with_reducible assumption
    | intro _
    | with_reducible apply State.faultAt_kept
    | with_reducible apply State.event_kept

theorem State.raise_kept (k0 : State) (s : State) (pg b part : Nat) (hk : Kept k0 s) : Kept k0 (State.raise s pg b part) := by
  unfold State.raise
  try dsimp only
  repeat' first
    | with_reducible assumption
    | intro _
    | with_reducible apply State.raiseAt_kept

theorem State.raiseOwned_kept (k0 : State) (s : State) (pg b : Nat) (hk : Kept k0 s) : Kept k0 (State.raiseOwned s pg b) := by
  unfold State.raiseOwned
  try dsimp only
  repeat' first
    | with_reducible assumption
    | intro _
    | with_reducible apply State.raise_kept

theorem State.faultOwned_kept (k0 : State) (s : State) (pg b : Nat) (hk : Kept k0 s) : Kept k0 (State.faultOwned s pg b) := by
  unfold State.faultOwned
  try dsimp only
  repeat' first
    | with_reducible assumption
    | intro _
    | with_reducible apply State.faultAt_kept

theorem State.cause_kept (k0 : State) (s : State) (p cause : Nat) (hk : Kept k0 s) : Kept k0 (State.cause s p cause) := by
  unfold State.cause
  try dsimp only
  repeat' first
    | with_reducible assumption
    | intro _
    | with_reducible apply State.setEntF_kept
    | with_reducible apply State.emit_kept
    | split

theorem State.deliver_kept (k0 : State) (s : State) (p cause : Nat) (hk : Kept k0 s) : Kept k0 (State.deliver s p cause) := by
  unfold State.deliver
  try dsimp only
  repeat' first
    | with_reducible assumption
    | intro _
    | with_reducible apply State.setEntF_kept
    | with_reducible apply State.emit_kept
    | split

end Sys2Proof.Machine
end

