-- ==== Sys2Proof/Laws/Kept/Bus.lean ====
section
/-!
SUPPORT. Laws/Kept/Bus.lean: each operation of Machine/Bus.lean keeps what Laws/Kept.lean names.
-/
set_option linter.unusedSimpArgs false
set_option linter.unusedVariables false
set_option linter.unusedTactic false
set_option linter.unreachableTactic false

namespace Sys2Proof.Machine

theorem State.logErr_kept (k0 : State) (s : State) (x : Access) (c : Cause) (hk : Kept k0 s) : Kept k0 (State.logErr s x c) := by
  unfold State.logErr
  try dsimp only
  repeat' first
    | with_reducible assumption
    | intro _
    | with_reducible apply State.wr_kept
    | with_reducible apply State.inc_kept
    | with_reducible apply State.faultAt_kept
    | split

theorem State.dropHolds_kept (k0 : State) (s : State) (master pg : Nat) (hk : Kept k0 s) : Kept k0 (State.dropHolds s master pg) := by
  unfold State.dropHolds
  try dsimp only
  repeat' first
    | with_reducible assumption
    | intro _
    | simp only [Kept.update]

theorem State.respond_kept (k0 : State) (s : State) (x : Access) (err : Bool) (d : Nat) (hk : Kept k0 s) : Kept k0 (State.respond s x err d) := by
  unfold State.respond
  try dsimp only
  repeat' first
    | with_reducible assumption
    | intro _
    | simp only [Kept.update]
    | with_reducible apply State.wr_kept
    | split

theorem State.countRein_kept (k0 : State) (s : State) (x : Access) (hk : Kept k0 s) : Kept k0 (State.countRein s x) := by
  unfold State.countRein
  try dsimp only
  repeat' first
    | with_reducible assumption
    | intro _
    | with_reducible apply State.wr_kept
    | with_reducible apply State.inc_kept
    | with_reducible apply State.fresh_kept
    | split
    | with_reducible refine Kept.snd (by assumption) ?_
    | with_reducible refine Kept.third (by assumption) ?_
    | with_reducible refine Kept.last (by assumption) ?_
    | with_reducible refine Kept.fst (by assumption) ?_

theorem State.countWrite_kept (k0 : State) (s : State) (x : Access) (hk : Kept k0 s) : Kept k0 (State.countWrite s x) := by
  unfold State.countWrite
  try dsimp only
  repeat' first
    | with_reducible assumption
    | intro _
    | with_reducible apply State.inc_kept
    | split

theorem State.noteDebug_kept (k0 : State) (s : State) (t : Tag) (hk : Kept k0 s) : Kept k0 (State.noteDebug s t) := by
  unfold State.noteDebug
  try dsimp only
  repeat' first
    | with_reducible assumption
    | intro _
    | with_reducible apply State.wrF_kept
    | split

theorem busWrite_kept (k0 : State) (x : Access) (eff : State → State) (s : State) (hk : Kept k0 s) (heff : ∀ v, Kept k0 v → Kept k0 (eff v)) : Kept k0 (busWrite x eff s) := by
  unfold busWrite
  try dsimp only
  repeat' first
    | with_reducible assumption
    | apply heff
    | intro _
    | simp only [Kept.update]
    | with_reducible apply State.logErr_kept
    | with_reducible apply State.dropHolds_kept
    | with_reducible apply State.respond_kept
    | with_reducible apply State.countRein_kept
    | with_reducible apply State.countWrite_kept
    | with_reducible apply State.noteDebug_kept
    | split
    | with_reducible refine Kept.snd (by assumption) ?_
    | with_reducible refine Kept.third (by assumption) ?_
    | with_reducible refine Kept.last (by assumption) ?_
    | with_reducible refine Kept.fst (by assumption) ?_

theorem hostWrite_kept (k0 : State) (t : Tag) (a : Nat) (d : Word) (eff : State → State) (s : State) (hk : Kept k0 s) (heff : ∀ v, Kept k0 v → Kept k0 (eff v)) : Kept k0 (hostWrite t a d eff s) := by
  unfold hostWrite
  try dsimp only
  repeat' first
    | with_reducible assumption
    | apply heff
    | intro _
    | with_reducible apply busWrite_kept

theorem State.setReason_kept (k0 : State) (s : State) (pg off bank reason idx : Nat) (hk : Kept k0 s) : Kept k0 (State.setReason s pg off bank reason idx) := by
  unfold State.setReason
  try dsimp only
  repeat' first
    | with_reducible assumption
    | intro _
    | with_reducible apply State.wr_kept

theorem State.clearReason_kept (k0 : State) (s : State) (pg off bank : Nat) (hk : Kept k0 s) : Kept k0 (State.clearReason s pg off bank) := by
  unfold State.clearReason
  try dsimp only
  repeat' first
    | with_reducible assumption
    | intro _
    | with_reducible apply State.wrF_kept

end Sys2Proof.Machine
end

