-- ==== Sys2Proof/Laws/Kept/Fabric.lean ====
section
/-!
SUPPORT. Laws/Kept/Fabric.lean: each operation of Machine/Fabric.lean keeps what Laws/Kept.lean names.
-/
set_option linter.unusedSimpArgs false
set_option linter.unusedVariables false
set_option linter.unusedTactic false
set_option linter.unreachableTactic false

namespace Sys2Proof.Machine

theorem State.ageStalls_kept (k0 : State) (s : State) (hk : Kept k0 s) : Kept k0 (State.ageStalls s) := by
  unfold State.ageStalls
  try dsimp only
  repeat' first
    | with_reducible assumption
    | intro _
    | simp only [Kept.update]
    | with_reducible apply State.wrF_kept
    | with_reducible apply Kept.forEach
    | split

theorem State.present_kept (k0 : State) (s : State) (x : Nat) (ws : List (Nat × FWord)) (hk : Kept k0 s) : Kept k0 (State.present s x ws) := by
  unfold State.present
  try dsimp only
  repeat' first
    | with_reducible assumption
    | intro _
    | simp only [Kept.update]

theorem State.dropDue_kept (k0 : State) (s : State) (x : Nat) (hk : Kept k0 s) : Kept k0 (State.dropDue s x) := by
  unfold State.dropDue
  try dsimp only
  repeat' first
    | with_reducible assumption
    | intro _
    | simp only [Kept.update]

theorem State.xptEvent_kept (k0 : State) (s : State) (b fs : Nat) (hk : Kept k0 s) : Kept k0 (State.xptEvent s b fs) := by
  unfold State.xptEvent
  try dsimp only
  repeat' first
    | with_reducible assumption
    | intro _
    | with_reducible apply State.raiseAt_kept

theorem State.evacDone_kept (k0 : State) (s : State) (hk : Kept k0 s) : Kept k0 (State.evacDone s) := by
  unfold State.evacDone
  try dsimp only
  repeat' first
    | with_reducible assumption
    | intro _
    | simp only [Kept.update]
    | with_reducible apply State.wrF_kept
    | with_reducible apply Kept.forEach

theorem State.evacuate_kept (k0 : State) (s : State) (m : Nat) (hk : Kept k0 s) : Kept k0 (State.evacuate s m) := by
  unfold State.evacuate
  try dsimp only
  repeat' first
    | with_reducible assumption
    | intro _
    | simp only [Kept.update]
    | with_reducible apply State.setEntF_kept
    | with_reducible apply State.xptEvent_kept
    | with_reducible apply State.evacDone_kept
    | split

theorem State.autoEvac_kept (k0 : State) (s : State) (fs : Nat) (hk : Kept k0 s) : Kept k0 (State.autoEvac s fs) := by
  unfold State.autoEvac
  try dsimp only
  repeat' first
    | with_reducible assumption
    | intro _
    | with_reducible apply State.evacuate_kept
    | split

theorem State.setSlow_kept (k0 : State) (s : State) (fs : Nat) (v : Bool) (hk : Kept k0 s) : Kept k0 (State.setSlow s fs v) := by
  unfold State.setSlow
  try dsimp only
  repeat' first
    | with_reducible assumption
    | intro _
    | simp only [Kept.update]
    | with_reducible apply State.wrF_kept
    | split

theorem execCreditMiss_kept (k0 : State) (fs : Fin 56) (lag : BitVec 8) (s : State) (hk : Kept k0 s) : ∀ z, execCreditMiss fs lag s = .next z → Kept k0 z := by
  intro z e
  unfold execCreditMiss at e
  injection e with e
  rw [← e]
  try dsimp only
  repeat' first
    | with_reducible assumption
    | intro _
    | simp only [Kept.update]
    | with_reducible apply State.setEnt_kept
    | with_reducible apply State.setEntF_kept
    | with_reducible apply State.xptEvent_kept
    | with_reducible apply State.autoEvac_kept
    | with_reducible apply State.setSlow_kept
    | split

theorem execSlowClear_kept (k0 : State) (fs : Fin 56) (s : State) (hk : Kept k0 s) : ∀ z, execSlowClear fs s = .next z → Kept k0 z := by
  intro z e
  unfold execSlowClear at e
  injection e with e
  rw [← e]
  try dsimp only
  repeat' first
    | with_reducible assumption
    | intro _
    | with_reducible apply State.setSlow_kept
    | split

theorem execSliceStall_kept (k0 : State) (fs : Fin 56) (s : State) (hk : Kept k0 s) : ∀ z, execSliceStall fs s = .next z → Kept k0 z := by
  intro z e
  unfold execSliceStall at e
  injection e with e
  rw [← e]
  try dsimp only
  repeat' first
    | with_reducible assumption
    | intro _
    | simp only [Kept.update]
    | with_reducible apply State.wrF_kept
    | with_reducible apply State.setEnt_kept
    | with_reducible apply State.xptEvent_kept
    | with_reducible apply State.autoEvac_kept
    | split

theorem State.fabDegraded_kept (k0 : State) (s : State) (fs dv dt nb : Nat) (hk : Kept k0 s) : Kept k0 (State.fabDegraded s fs dv dt nb) := by
  unfold State.fabDegraded
  try dsimp only
  repeat' first
    | with_reducible assumption
    | intro _
    | simp only [Kept.update]
    | with_reducible apply State.xptEvent_kept
    | with_reducible apply State.autoEvac_kept
    | split

theorem State.fabDegradedClear_kept (k0 : State) (s : State) (fs : Nat) (hk : Kept k0 s) : Kept k0 (State.fabDegradedClear s fs) := by
  unfold State.fabDegradedClear
  try dsimp only
  repeat' first
    | with_reducible assumption
    | intro _
    | simp only [Kept.update]

theorem writeMidOut_kept (k0 : State) (d : Word) (s : State) (hk : Kept k0 s) : Kept k0 (writeMidOut d s) := by
  unfold writeMidOut
  try dsimp only
  repeat' first
    | with_reducible assumption
    | intro _
    | with_reducible apply State.wrF_kept
    | with_reducible apply State.evacuate_kept
    | with_reducible apply Kept.forEach

theorem State.tryAgain_kept (k0 : State) (s : State) (hk : Kept k0 s) : Kept k0 (State.tryAgain s) := by
  unfold State.tryAgain
  try dsimp only
  repeat' first
    | with_reducible assumption
    | intro _
    | simp only [Kept.update]

theorem writeMidReturn_kept (k0 : State) (d : Word) (s : State) (hk : Kept k0 s) : Kept k0 (writeMidReturn d s) := by
  unfold writeMidReturn
  try dsimp only
  repeat' first
    | with_reducible assumption
    | intro _
    | simp only [Kept.update]
    | with_reducible apply State.wrF_kept
    | with_reducible apply State.xptEvent_kept
    | with_reducible apply State.tryAgain_kept
    | with_reducible apply Kept.forEach
    | split
    | with_reducible refine Kept.snd (by assumption) ?_
    | with_reducible refine Kept.third (by assumption) ?_
    | with_reducible refine Kept.last (by assumption) ?_
    | with_reducible refine Kept.fst (by assumption) ?_

theorem execMidOutWrite_kept (k0 : State) (t : Tag) (d : Word) (s : State) (hk : Kept k0 s) : ∀ z, execMidOutWrite t d s = .next z → Kept k0 z := by
  intro z e
  unfold execMidOutWrite at e
  injection e with e
  rw [← e]
  try dsimp only
  repeat' first
    | with_reducible assumption
    | intro _
    | with_reducible apply hostWrite_kept
    | with_reducible apply writeMidOut_kept

theorem execMidReturn_kept (k0 : State) (t : Tag) (d : Word) (s : State) (hk : Kept k0 s) : ∀ z, execMidReturn t d s = .next z → Kept k0 z := by
  intro z e
  unfold execMidReturn at e
  injection e with e
  rw [← e]
  try dsimp only
  repeat' first
    | with_reducible assumption
    | intro _
    | with_reducible apply hostWrite_kept
    | with_reducible apply writeMidReturn_kept

theorem execMoveStart_kept (k0 : State) (m : MoveReq) (s : State) (hk : Kept k0 s) : ∀ z, execMoveStart m s = .next z → Kept k0 z := by
  intro z e
  unfold execMoveStart at e
  injection e with e
  rw [← e]
  try dsimp only
  repeat' first
    | with_reducible assumption
    | intro _
    | simp only [Kept.update]
    | with_reducible apply State.evacuate_kept
    | split
    | with_reducible refine Kept.snd (by assumption) ?_
    | with_reducible refine Kept.third (by assumption) ?_
    | with_reducible refine Kept.last (by assumption) ?_
    | with_reducible refine Kept.fst (by assumption) ?_

theorem State.noteMoved_kept (k0 : State) (s : State) (p : MovePart) (hk : Kept k0 s) : Kept k0 (State.noteMoved s p) := by
  unfold State.noteMoved
  try dsimp only
  repeat' first
    | with_reducible assumption
    | intro _
    | with_reducible apply State.setEntF_kept
    | with_reducible apply Kept.forEach
    | split

theorem State.moveSwitch_kept (k0 : State) (s : State) (m : MoveRec) (hk : Kept k0 s) : Kept k0 (State.moveSwitch s m) := by
  unfold State.moveSwitch
  try dsimp only
  repeat' first
    | with_reducible assumption
    | intro _
    | simp only [Kept.update]
    | with_reducible apply Kept.foldl
    | with_reducible apply Kept.foldl_fst
    | with_reducible apply Kept.foldl_snd

theorem State.moveOver_kept (k0 : State) (s : State) (m : MoveRec) (hk : Kept k0 s) : Kept k0 (State.moveOver s m) := by
  unfold State.moveOver
  try dsimp only
  repeat' first
    | with_reducible assumption
    | intro _
    | simp only [Kept.update]

theorem State.moveDone_kept (k0 : State) (s : State) (m : MoveRec) (hk : Kept k0 s) : Kept k0 (State.moveDone s m) := by
  unfold State.moveDone
  try dsimp only
  repeat' first
    | with_reducible assumption
    | intro _
    | simp only [Kept.update]
    | with_reducible apply State.inc_kept
    | with_reducible apply State.evacDone_kept
    | with_reducible apply State.noteMoved_kept
    | with_reducible apply State.moveOver_kept
    | with_reducible apply Kept.forEach
    | with_reducible apply Kept.foldl
    | with_reducible apply Kept.foldl_fst
    | with_reducible apply Kept.foldl_snd

theorem State.moveUndone_kept (k0 : State) (s : State) (m : MoveRec) (hk : Kept k0 s) : Kept k0 (State.moveUndone s m) := by
  unfold State.moveUndone
  try dsimp only
  repeat' first
    | with_reducible assumption
    | intro _
    | simp only [Kept.update]
    | with_reducible apply State.moveOver_kept
    | split

theorem State.moveNext_kept (k0 : State) (s : State) (m : MoveRec) (hk : Kept k0 s) : Kept k0 (State.moveNext s m) := by
  unfold State.moveNext
  try dsimp only
  repeat' first
    | with_reducible assumption
    | intro _
    | simp only [Kept.update]
    | with_reducible apply State.moveSwitch_kept
    | with_reducible apply State.moveDone_kept
    | with_reducible apply State.moveUndone_kept
    | split
    | with_reducible refine Kept.snd (by assumption) ?_
    | with_reducible refine Kept.third (by assumption) ?_
    | with_reducible refine Kept.last (by assumption) ?_
    | with_reducible refine Kept.fst (by assumption) ?_

theorem State.moveFail_kept (k0 : State) (s : State) (m : MoveRec) (hk : Kept k0 s) : Kept k0 (State.moveFail s m) := by
  unfold State.moveFail
  try dsimp only
  repeat' first
    | with_reducible assumption
    | intro _
    | simp only [Kept.update]
    | with_reducible apply State.inc_kept
    | with_reducible apply State.xptEvent_kept
    | split
    | with_reducible refine Kept.snd (by assumption) ?_
    | with_reducible refine Kept.third (by assumption) ?_
    | with_reducible refine Kept.last (by assumption) ?_
    | with_reducible refine Kept.fst (by assumption) ?_

theorem State.fabricBeat_kept (k0 : State) (s : State) (hk : Kept k0 s) : Kept k0 (State.fabricBeat s) := by
  unfold State.fabricBeat
  try dsimp only
  repeat' first
    | with_reducible assumption
    | intro _
    | simp only [Kept.update]
    | with_reducible apply State.ageStalls_kept
    | with_reducible apply State.moveNext_kept
    | with_reducible apply Kept.forEach

theorem State.swapStages_kept (k0 : State) (s : State) (hk : Kept k0 s) : Kept k0 (State.swapStages s) := by
  unfold State.swapStages
  try dsimp only
  repeat' first
    | with_reducible assumption
    | intro _
    | simp only [Kept.update]
    | with_reducible apply Kept.foldl
    | with_reducible apply Kept.foldl_fst
    | with_reducible apply Kept.foldl_snd
    | split

theorem State.xptSnap_kept (k0 : State) (s : State) (hk : Kept k0 s) : Kept k0 (State.xptSnap s) := by
  unfold State.xptSnap
  try dsimp only
  repeat' first
    | with_reducible assumption
    | intro _
    | with_reducible apply State.snap_kept
    | with_reducible apply State.snapEnt_kept
    | with_reducible apply Kept.forEach

theorem State.descStatus_kept (k0 : State) (s : State) (t : Tag) (sel reason idx : Nat) (hk : Kept k0 s) : Kept k0 (State.descStatus s t sel reason idx) := by
  unfold State.descStatus
  try dsimp only
  repeat' first
    | with_reducible assumption
    | intro _
    | with_reducible apply State.wr_kept
    | split

theorem writeDesc_kept (k0 : State) (t : Tag) (sel idx : Nat) (d : List Word) (inUse : Bool) (overLong : Desc → Bool) (s : State) (hk : Kept k0 s) : Kept k0 (writeDesc t sel idx d inUse overLong s).2 := by
  unfold writeDesc
  try dsimp only
  repeat' first
    | with_reducible assumption
    | intro _
    | with_reducible apply State.wrF_kept
    | with_reducible apply State.setEntWords_kept
    | with_reducible apply State.descStatus_kept
    | split

end Sys2Proof.Machine
end

