-- ==== Sys2Proof/Laws/Kept/HostIf.lean ====
section
/-!
SUPPORT. Laws/Kept/HostIf.lean: each operation of Machine/HostIf.lean keeps what Laws/Kept.lean names.
-/
set_option linter.unusedSimpArgs false
set_option linter.unusedVariables false
set_option linter.unusedTactic false
set_option linter.unreachableTactic false

namespace Sys2Proof.Machine

theorem State.setQrec_kept (k0 : State) (s : State) (q : Nat) (rx : Bool) (r : QRec) (hk : Kept k0 s) : Kept k0 (State.setQrec s q rx r) := by
  unfold State.setQrec
  try dsimp only
  repeat' first
    | with_reducible assumption
    | intro _
    | simp only [Kept.update]

theorem State.setQState_kept (k0 : State) (s : State) (q : Nat) (rx : Bool) (v : Nat) (hk : Kept k0 s) : Kept k0 (State.setQState s q rx v) := by
  unfold State.setQState
  try dsimp only
  repeat' first
    | with_reducible assumption
    | intro _
    | with_reducible apply State.wrF_kept

theorem writeQCfg_kept (k0 : State) (q : Nat) (rx : Bool) (d : Word) (s : State) (hk : Kept k0 s) : Kept k0 (writeQCfg q rx d s) := by
  unfold writeQCfg
  try dsimp only
  repeat' first
    | with_reducible assumption
    | intro _
    | simp only [Kept.update]
    | with_reducible apply State.wr_kept
    | with_reducible apply State.setQrec_kept
    | with_reducible apply State.setQState_kept
    | split

theorem writeQTail_kept (k0 : State) (q : Nat) (rx : Bool) (d : Word) (s : State) (hk : Kept k0 s) : Kept k0 (writeQTail q rx d s) := by
  unfold writeQTail
  try dsimp only
  repeat' first
    | with_reducible assumption
    | intro _
    | with_reducible apply State.wr_kept

theorem execQueueEnable_kept (k0 : State) (t : Tag) (q : Fin 64) (rx : Bool) (s : State) (hk : Kept k0 s) : ∀ z, execQueueEnable t q rx s = .next z → Kept k0 z := by
  intro z e
  unfold execQueueEnable at e
  injection e with e
  rw [← e]
  try dsimp only
  repeat' first
    | with_reducible assumption
    | intro _
    | with_reducible apply hostWrite_kept
    | with_reducible apply writeQCfg_kept

theorem execQueueDisable_kept (k0 : State) (t : Tag) (q : Fin 64) (rx : Bool) (s : State) (hk : Kept k0 s) : ∀ z, execQueueDisable t q rx s = .next z → Kept k0 z := by
  intro z e
  unfold execQueueDisable at e
  injection e with e
  rw [← e]
  try dsimp only
  repeat' first
    | with_reducible assumption
    | intro _
    | with_reducible apply hostWrite_kept
    | with_reducible apply writeQCfg_kept

theorem execQueueDrainDone_kept (k0 : State) (q : Fin 64) (rx : Bool) (s : State) (hk : Kept k0 s) : ∀ z, execQueueDrainDone q rx s = .next z → Kept k0 z := by
  intro z e
  unfold execQueueDrainDone at e
  injection e with e
  rw [← e]
  try dsimp only
  repeat' first
    | with_reducible assumption
    | intro _
    | with_reducible apply State.setQState_kept
    | split

theorem State.fetchDesc_kept (k0 : State) (q : Nat) (rx : Bool) (d : BitVec 256) (hdr : BitVec 128) (play : Option PlayAt) (fin : Option Done) (s : State) (hk : Kept k0 s) : Kept k0 (State.fetchDesc q rx d hdr play fin s) := by
  unfold State.fetchDesc
  try dsimp only
  repeat' first
    | with_reducible assumption
    | intro _
    | simp only [Kept.update]
    | with_reducible apply State.setQrec_kept
    | split
    | with_reducible refine Kept.snd (by assumption) ?_
    | with_reducible refine Kept.third (by assumption) ?_
    | with_reducible refine Kept.last (by assumption) ?_
    | with_reducible refine Kept.fst (by assumption) ?_

theorem State.countCompletion_kept (k0 : State) (s : State) (q : Nat) (rx : Bool) (hk : Kept k0 s) : Kept k0 (State.countCompletion s q rx) := by
  unfold State.countCompletion
  try dsimp only
  repeat' first
    | with_reducible assumption
    | intro _
    | simp only [Kept.update]
    | with_reducible apply State.cause_kept
    | with_reducible apply State.setQrec_kept
    | split

theorem execDescriptorComplete_kept (k0 : State) (q : Fin 64) (rx : Bool) (r : WriteBack) (s : State) (hk : Kept k0 s) : ∀ z, execDescriptorComplete q rx r s = .next z → Kept k0 z := by
  intro z e
  unfold execDescriptorComplete at e
  injection e with e
  rw [← e]
  try dsimp only
  repeat' first
    | with_reducible assumption
    | intro _
    | simp only [Kept.update]
    | with_reducible apply State.wr_kept
    | with_reducible apply State.wrF_kept
    | with_reducible apply State.emit_kept
    | with_reducible apply State.cause_kept
    | with_reducible apply State.setQrec_kept
    | with_reducible apply State.setQState_kept
    | with_reducible apply State.countCompletion_kept
    | split
    | with_reducible refine Kept.snd (by assumption) ?_
    | with_reducible refine Kept.third (by assumption) ?_
    | with_reducible refine Kept.last (by assumption) ?_
    | with_reducible refine Kept.fst (by assumption) ?_

theorem State.pcieWrite_kept (k0 : State) (s : State) (p : Nat) (w : Option PcieWrite) (hk : Kept k0 s) : Kept k0 (State.pcieWrite s p w) := by
  unfold State.pcieWrite
  try dsimp only
  repeat' first
    | with_reducible assumption
    | intro _
    | simp only [Kept.update]
    | split
    | with_reducible refine Kept.snd (by assumption) ?_
    | with_reducible refine Kept.third (by assumption) ?_
    | with_reducible refine Kept.last (by assumption) ?_
    | with_reducible refine Kept.fst (by assumption) ?_

theorem execMsixDeliver_kept (k0 : State) (p : Fin 16) (cause : Fin 256) (w : Option PcieWrite) (s : State) (hk : Kept k0 s) : ∀ z, execMsixDeliver p cause w s = .next z → Kept k0 z := by
  intro z e
  unfold execMsixDeliver at e
  injection e with e
  rw [← e]
  try dsimp only
  repeat' first
    | with_reducible assumption
    | intro _
    | with_reducible apply State.deliver_kept
    | with_reducible apply State.pcieWrite_kept

theorem execInterruptHoldoffExpire_kept (k0 : State) (q : Fin 64) (rx : Bool) (s : State) (hk : Kept k0 s) : ∀ z, execInterruptHoldoffExpire q rx s = .next z → Kept k0 z := by
  intro z e
  unfold execInterruptHoldoffExpire at e
  injection e with e
  rw [← e]
  try dsimp only
  repeat' first
    | with_reducible assumption
    | intro _
    | simp only [Kept.update]
    | with_reducible apply State.cause_kept
    | with_reducible apply State.setQrec_kept
    | split

theorem State.killQueue_kept (k0 : State) (s : State) (q : Nat) (rx : Bool) (hk : Kept k0 s) : Kept k0 (State.killQueue s q rx) := by
  unfold State.killQueue
  try dsimp only
  repeat' first
    | with_reducible assumption
    | intro _
    | with_reducible apply State.wrF_kept
    | with_reducible apply State.setQrec_kept
    | with_reducible apply State.setQState_kept

theorem State.flr_kept (k0 : State) (s : State) (p : Nat) (hk : Kept k0 s) : Kept k0 (State.flr s p) := by
  unfold State.flr
  have h : Kept k0 (forEach ((List.range 64).filter fun q => s.partOwner 7 q == p)
      (fun q s => (s.killQueue q false).killQueue q true) s) :=
    hk.forEach _ _ fun q v h => State.killQueue_kept _ _ _ _ (State.killQueue_kept _ _ _ _ h)
  exact h.keep _ _ rfl rfl rfl rfl rfl rfl rfl

theorem State.removeVfs_kept (k0 : State) (s : State) (hk : Kept k0 s) : Kept k0 (State.removeVfs s) := by
  unfold State.removeVfs
  try dsimp only
  repeat' first
    | with_reducible assumption
    | intro _
    | simp only [Kept.update]
    | with_reducible apply State.flr_kept
    | with_reducible apply Kept.forEach
    | split

theorem execFlrVf_kept (k0 : State) (n : Fin 16) (s : State) (hk : Kept k0 s) : ∀ z, execFlrVf n s = .next z → Kept k0 z := by
  intro z e
  unfold execFlrVf at e
  injection e with e
  rw [← e]
  try dsimp only
  repeat' first
    | with_reducible assumption
    | intro _
    | with_reducible apply State.flr_kept
    | split

theorem execFlrPf_kept (k0 : State) (s : State) (hk : Kept k0 s) : ∀ z, execFlrPf s = .next z → Kept k0 z := by
  intro z e
  unfold execFlrPf at e
  injection e with e
  rw [← e]
  try dsimp only
  repeat' first
    | with_reducible assumption
    | intro _
    | with_reducible apply State.flr_kept
    | with_reducible apply State.removeVfs_kept

theorem execVfEnableClear_kept (k0 : State) (s : State) (hk : Kept k0 s) : ∀ z, execVfEnableClear s = .next z → Kept k0 z := by
  intro z e
  unfold execVfEnableClear at e
  injection e with e
  rw [← e]
  try dsimp only
  repeat' first
    | with_reducible assumption
    | intro _
    | with_reducible apply State.removeVfs_kept

theorem State.hostReset_kept (k0 : State) (s : State) (hk : Kept k0 s) : Kept k0 (State.hostReset s) := by
  unfold State.hostReset
  have h : Kept k0 (forEach (List.range 64) (fun q s => (s.killQueue q false).killQueue q true) s) :=
    hk.forEach _ _ fun q v h => State.killQueue_kept _ _ _ _ (State.killQueue_kept _ _ _ _ h)
  revert h
  generalize forEach (List.range 64) (fun q s => (s.killQueue q false).killQueue q true) s = t
  exact fun h => h.keep _ _ rfl rfl rfl rfl rfl rfl rfl

theorem hostTableWrite_kept (k0 : State) (t : Tag) (sel idx : Nat) (d : List Word) (s : State) (hk : Kept k0 s) : Kept k0 (hostTableWrite t sel idx d s).2 := by
  unfold hostTableWrite
  try dsimp only
  repeat' first
    | with_reducible assumption
    | intro _
    | with_reducible apply State.setEnt_kept
    | with_reducible apply State.deliver_kept
    | split

end Sys2Proof.Machine
end

