-- ==== Sys2Proof/Laws/Kept/AudTab.lean ====
section
/-!
SUPPORT. Laws/Kept/AudTab.lean: each operation of Machine/AudTab.lean keeps what Laws/Kept.lean names.
-/
set_option linter.unusedSimpArgs false
set_option linter.unusedVariables false
set_option linter.unusedTactic false
set_option linter.unreachableTactic false

namespace Sys2Proof.Machine

theorem State.audEvent_kept (k0 : State) (s : State) (b p : Nat) (hk : Kept k0 s) : Kept k0 (State.audEvent s b p) := by
  unfold State.audEvent
  try dsimp only
  repeat' first
    | with_reducible assumption
    | intro _
    | with_reducible apply State.raise_kept

theorem State.audCount_kept (k0 : State) (s : State) (blk w n : Nat) (hk : Kept k0 s) : Kept k0 (State.audCount s blk w n) := by
  unfold State.audCount
  try dsimp only
  repeat' first
    | with_reducible assumption
    | intro _
    | with_reducible apply State.setEnt_kept

theorem State.claim_kept (k0 : State) (s : State) (code ident base n : Nat) (hk : Kept k0 s) : Kept k0 (State.claim s code ident base n) := by
  unfold State.claim
  try dsimp only
  repeat' first
    | with_reducible assumption
    | intro _
    | with_reducible apply State.setEntWords_kept
    | with_reducible apply Kept.forEach

theorem State.unclaim_kept (k0 : State) (s : State) (code ident : Nat) (hk : Kept k0 s) : Kept k0 (State.unclaim s code ident) := by
  unfold State.unclaim
  try dsimp only
  repeat' first
    | with_reducible assumption
    | intro _
    | with_reducible apply State.setEntWords_kept
    | with_reducible apply Kept.forEach

theorem State.audSample_kept (k0 : State) (s : State) (code : Nat) (idents : List Nat) (g x : Nat) (q : Int) (v : BitVec 24) (hk : Kept k0 s) : Kept k0 (State.audSample s code idents g x q v) := by
  unfold State.audSample
  try dsimp only
  repeat' first
    | with_reducible assumption
    | intro _
    | simp only [Kept.update]
    | with_reducible apply State.audEvent_kept
    | with_reducible apply State.audCount_kept
    | split

theorem State.audGive_kept (k0 : State) (s : State) (idents : List Nat) (g base : Nat) (q : Int) (vs : List (BitVec 24)) (hk : Kept k0 s) : Kept k0 (State.audGive s idents g base q vs) := by
  unfold State.audGive
  try dsimp only
  repeat' first
    | with_reducible assumption
    | intro _
    | with_reducible apply State.audSample_kept
    | with_reducible apply Kept.forEach

theorem State.audLine_kept (k0 : State) (s : State) (ei base nch : Nat) (g : Nat) (q : Int) (vs : List (Nat × BitVec 24)) (hk : Kept k0 s) : Kept k0 (State.audLine s ei base nch g q vs) := by
  unfold State.audLine
  try dsimp only
  repeat' first
    | with_reducible assumption
    | intro _
    | with_reducible apply State.audSample_kept
    | with_reducible apply Kept.forEach

theorem State.markDisc_kept (k0 : State) (s : State) (ei slot : Nat) (d : Desc) (k : Int) (hk : Kept k0 s) : Kept k0 (State.markDisc s ei slot d k) := by
  unfold State.markDisc
  try dsimp only
  repeat' first
    | with_reducible assumption
    | intro _
    | simp only [Kept.update]
    | with_reducible apply Kept.forEach

end Sys2Proof.Machine
end

