-- ==== Sys2Proof/Laws/Kept/Key.lean ====
section
/-!
SUPPORT. Laws/Kept/Key.lean: each operation of Machine/Key.lean keeps what Laws/Kept.lean names.
-/
set_option linter.unusedSimpArgs false
set_option linter.unusedVariables false
set_option linter.unusedTactic false
set_option linter.unreachableTactic false

namespace Sys2Proof.Machine

theorem State.setCell_kept (k0 : State) (s : State) (h : Nat) (c : KeyCell) (hk : Kept k0 s) : Kept k0 (State.setCell s h c) := by
  unfold State.setCell
  try dsimp only
  repeat' first
    | with_reducible assumption
    | intro _
    | simp only [Kept.update]

theorem State.putKey_kept (k0 : State) (s : State) (h : Nat) (k : BitVec 256) (hk : Kept k0 s) : Kept k0 (State.putKey s h k) := by
  unfold State.putKey
  try dsimp only
  repeat' first
    | with_reducible assumption
    | intro _
    | with_reducible apply State.fresh_kept
    | with_reducible apply State.setCell_kept
    | split
    | with_reducible refine Kept.snd (by assumption) ?_
    | with_reducible refine Kept.third (by assumption) ?_
    | with_reducible refine Kept.last (by assumption) ?_
    | with_reducible refine Kept.fst (by assumption) ?_

/-- A count that has not reached its end does not fall when it advances. -/
theorem word_le_succ {v : Word} (h : v ≠ 0xFFFFFFFF) : v ≤ v + 1 := by
  have h1 : v.toNat ≠ 0xFFFFFFFF := fun e => h (BitVec.eq_of_toNat_eq e)
  rw [BitVec.le_def, BitVec.toNat_add]
  have := v.isLt
  have h2 : (1 : Word).toNat = 1 := rfl
  omega

theorem State.destroy_kept (k0 : State) (s : State) (hs : List Nat) (hk : Kept k0 s) : Kept k0 (State.destroy s hs) := by
  unfold State.destroy
  try dsimp only
  repeat' first
    | with_reducible assumption
    | intro _
    | simp only [Kept.update]
    | with_reducible apply State.setEntF_kept
    | with_reducible apply State.setCell_kept
    | with_reducible apply Kept.forEach

theorem State.commitUses_kept (k0 : State) (s : State) (h : Nat) (hk : Kept k0 s) : Kept k0 (State.commitUses s h) := by
  unfold State.commitUses
  try dsimp only
  repeat' first
    | with_reducible assumption
    | intro _
    | simp only [Kept.update]
    | split

theorem State.useNode_kept (k0 : State) (s : State) (h : Nat) (hk : Kept k0 s) : Kept k0 (State.useNode s h) := by
  unfold State.useNode
  try dsimp only
  repeat' first
    | with_reducible assumption
    | intro _
    | with_reducible apply State.setEnt_kept
    | with_reducible apply State.setEntF_kept
    | with_reducible apply State.raise_kept
    | with_reducible apply State.commitUses_kept
    | split

theorem State.bindNode_kept (k0 : State) (s : State) (h : Nat) (hk : Kept k0 s) : Kept k0 (State.bindNode s h) := by
  unfold State.bindNode
  try dsimp only
  repeat' first
    | with_reducible assumption
    | intro _
    | with_reducible apply State.setEntF_kept
    | with_reducible apply State.useNode_kept

theorem State.deriveRoots_kept (k0 : State) (s : State) (hk : Kept k0 s) : Kept k0 (State.deriveRoots s) := by
  unfold State.deriveRoots
  try dsimp only
  repeat' first
    | with_reducible assumption
    | intro _
    | with_reducible apply State.setEntWords_kept
    | with_reducible apply State.putKey_kept
    | with_reducible apply Kept.forEach

theorem State.enterStage_kept (k0 : State) (s : State) (stage : Nat) (label : List Char) (context : List Byte) (hk : Kept k0 s) : Kept k0 (State.enterStage s stage label context) := by
  unfold State.enterStage
  try dsimp only
  repeat' first
    | with_reducible assumption
    | intro _
    | simp only [Kept.update]
    | with_reducible apply State.wrF_kept
    | with_reducible apply State.setEntWords_kept
    | with_reducible apply State.putKey_kept
    | split
    | with_reducible refine Kept.snd (by assumption) ?_
    | with_reducible refine Kept.third (by assumption) ?_
    | with_reducible refine Kept.last (by assumption) ?_
    | with_reducible refine Kept.fst (by assumption) ?_

theorem State.restoreKeep_kept (k0 : State) (s : State) (hk : Kept k0 s) : Kept k0 (State.restoreKeep s) := by
  unfold State.restoreKeep
  try dsimp only
  repeat' first
    | with_reducible assumption
    | intro _
    | with_reducible apply State.setEntWords_kept
    | with_reducible apply State.putKey_kept
    | with_reducible apply Kept.forEach

theorem createNode_kept (k0 : State) (r : KeyReq) (gen : Word) (origin : Nat) (k : BitVec 256) (s : State) (hk : Kept k0 s) : Kept k0 (createNode r gen origin k s).2.2 := by
  unfold createNode
  try dsimp only
  repeat' first
    | with_reducible assumption
    | intro _
    | simp only [Kept.update]
    | with_reducible apply State.setEntWords_kept
    | with_reducible apply State.putKey_kept
    | split
    | with_reducible refine Kept.snd (by assumption) ?_
    | with_reducible refine Kept.third (by assumption) ?_
    | with_reducible refine Kept.last (by assumption) ?_
    | with_reducible refine Kept.fst (by assumption) ?_

theorem keyDerive_kept (k0 : State) (r : KeyReq) (s : State) (hk : Kept k0 s) : Kept k0 (keyDerive r s).2.2 := by
  unfold keyDerive
  try dsimp only
  repeat' first
    | with_reducible assumption
    | intro _
    | simp only [Kept.update]
    | with_reducible apply State.fresh_kept
    | with_reducible apply State.useNode_kept
    | with_reducible apply createNode_kept
    | split
    | with_reducible refine Kept.snd (by assumption) ?_
    | with_reducible refine Kept.third (by assumption) ?_
    | with_reducible refine Kept.last (by assumption) ?_
    | with_reducible refine Kept.fst (by assumption) ?_
  exact State.setGen_kept _ _ _ _ (word_le_succ (by simp_all)) hk

theorem keyLoad_kept (k0 : State) (r : KeyReq) (s : State) (hk : Kept k0 s) : Kept k0 (keyLoad r s).2.2 := by
  unfold keyLoad
  try dsimp only
  repeat' first
    | with_reducible assumption
    | intro _
    | simp only [Kept.update]
    | with_reducible apply State.useNode_kept
    | with_reducible apply createNode_kept
    | split
    | with_reducible refine Kept.snd (by assumption) ?_
    | with_reducible refine Kept.third (by assumption) ?_
    | with_reducible refine Kept.last (by assumption) ?_
    | with_reducible refine Kept.fst (by assumption) ?_

theorem keyImport_kept (k0 : State) (r : KeyReq) (s : State) (hk : Kept k0 s) : Kept k0 (keyImport r s).2.2 := by
  unfold keyImport
  try dsimp only
  repeat' first
    | with_reducible assumption
    | intro _
    | simp only [Kept.update]
    | with_reducible apply State.useNode_kept
    | with_reducible apply createNode_kept
    | split
    | with_reducible refine Kept.snd (by assumption) ?_
    | with_reducible refine Kept.third (by assumption) ?_
    | with_reducible refine Kept.last (by assumption) ?_
    | with_reducible refine Kept.fst (by assumption) ?_

theorem keySign_kept (k0 : State) (r : KeyReq) (s : State) (hk : Kept k0 s) : Kept k0 (keySign r s).2.2 := by
  unfold keySign
  try dsimp only
  repeat' first
    | with_reducible assumption
    | intro _
    | simp only [Kept.update]
    | with_reducible apply State.useNode_kept
    | split
    | with_reducible refine Kept.snd (by assumption) ?_
    | with_reducible refine Kept.third (by assumption) ?_
    | with_reducible refine Kept.last (by assumption) ?_
    | with_reducible refine Kept.fst (by assumption) ?_

theorem keyCheck_kept (k0 : State) (r : KeyReq) (s : State) (hk : Kept k0 s) : Kept k0 (keyCheck r s).2.2 := by
  unfold keyCheck
  try dsimp only
  repeat' first
    | with_reducible assumption
    | intro _
    | simp only [Kept.update]
    | split
    | with_reducible refine Kept.snd (by assumption) ?_
    | with_reducible refine Kept.third (by assumption) ?_
    | with_reducible refine Kept.last (by assumption) ?_
    | with_reducible refine Kept.fst (by assumption) ?_

theorem keyInvalidate_kept (k0 : State) (r : KeyReq) (s : State) (hk : Kept k0 s) : Kept k0 (keyInvalidate r s).2.2 := by
  unfold keyInvalidate
  try dsimp only
  repeat' first
    | with_reducible assumption
    | intro _
    | simp only [Kept.update]
    | with_reducible apply State.raise_kept
    | with_reducible apply State.destroy_kept
    | split
    | with_reducible refine Kept.snd (by assumption) ?_
    | with_reducible refine Kept.third (by assumption) ?_
    | with_reducible refine Kept.last (by assumption) ?_
    | with_reducible refine Kept.fst (by assumption) ?_

/-- Destroying nodes burns no fuse and moves no epoch. -/
theorem State.destroy_fuse_epoch (s : State) (hs : List Nat) :
    (s.destroy hs).fuse = s.fuse ∧ (s.destroy hs).key.epoch = s.key.epoch := by
  have h : ∀ (l : List Nat) (t : State),
      (forEach l (fun h t => (t.setEntF pKey 0 1 h 0 28 3 3).setCell h KeyCell.zero) t).fuse = t.fuse ∧
      (forEach l (fun h t => (t.setEntF pKey 0 1 h 0 28 3 3).setCell h KeyCell.zero) t).key.epoch = t.key.epoch := by
    intro l
    induction l with
    | nil => exact fun _ => ⟨rfl, rfl⟩
    | cons x r ih =>
      intro t
      have := ih ((t.setEntF pKey 0 1 x 0 28 3 3).setCell x KeyCell.zero)
      simpa [forEach, State.setCell] using this
  exact h hs s

theorem keyNewEpoch_kept (k0 : State) (r : KeyReq) (s : State) (hk : Kept k0 s) : Kept k0 (keyNewEpoch r s).2.2 := by
  unfold keyNewEpoch
  try dsimp only
  repeat' first
    | with_reducible assumption
    | intro _
    | with_reducible apply State.setEntWords_kept
    | with_reducible apply State.raise_kept
    | with_reducible apply State.putKey_kept
    | with_reducible apply State.destroy_kept
    | split
  refine State.setEpoch_kept _ _ _ _ ?_ (State.destroy_kept _ _ _ hk)
  simp only [State.epoch, (State.destroy_fuse_epoch s _).2]
  exact word_le_succ ‹_›

theorem keySeal_kept (k0 : State) (r : KeyReq) (s : State) (hk : Kept k0 s) : Kept k0 (keySeal r s).2.2 := by
  unfold keySeal
  try dsimp only
  repeat' first
    | with_reducible assumption
    | intro _
    | simp only [Kept.update]
    | split
  refine hk.trans ⟨rfl, fun x => x, fun x => x, fun x => x, BitVec.le_refl _, ?_, fun _ => BitVec.le_refl _, fun _ => BitVec.le_refl _⟩
  exact BitVec.and_allOnes

theorem keyRma_kept (k0 : State) (r : KeyReq) (s : State) (hk : Kept k0 s) : Kept k0 (keyRma r s).2.2 := by
  unfold keyRma
  split
  · exact hk
  · split
    · exact hk
    · rename_i hl _
      have hl : s.fuse.lc = 1 := by simpa using hl
      apply State.wrF_kept
      refine (State.destroy_kept _ _ s.nodes hk).trans ⟨rfl, fun x => x, fun x => x, fun x => x, ?_, ?_, fun _ => BitVec.le_refl _,
        fun _ => BitVec.le_refl _⟩
      · simp [(State.destroy_fuse_epoch s _).1, hl]
      · exact BitVec.and_self

theorem keyServe_kept (k0 : State) (r : KeyReq) (s : State) (hk : Kept k0 s) : Kept k0 (keyServe r s).2.2 := by
  unfold keyServe
  try dsimp only
  repeat' first
    | with_reducible assumption
    | intro _
    | simp only [Kept.update]
    | with_reducible apply keyDerive_kept
    | with_reducible apply keyLoad_kept
    | with_reducible apply keyImport_kept
    | with_reducible apply keySign_kept
    | with_reducible apply keyCheck_kept
    | with_reducible apply keyInvalidate_kept
    | with_reducible apply keyNewEpoch_kept
    | with_reducible apply keySeal_kept
    | with_reducible apply keyRma_kept
    | split
    | with_reducible refine Kept.snd (by assumption) ?_
    | with_reducible refine Kept.third (by assumption) ?_
    | with_reducible refine Kept.last (by assumption) ?_
    | with_reducible refine Kept.fst (by assumption) ?_

theorem keyFinish_kept (k0 : State) (o : ResOp) (s : State) (hk : Kept k0 s) : Kept k0 (keyFinish o s).2.2 := by
  unfold keyFinish
  try dsimp only
  repeat' first
    | with_reducible assumption
    | intro _
    | with_reducible apply State.wr_kept
    | with_reducible apply State.inc_kept
    | with_reducible apply State.raise_kept
    | with_reducible apply keyServe_kept
    | with_reducible apply Kept.forEach
    | split
    | with_reducible refine Kept.snd (by assumption) ?_
    | with_reducible refine Kept.third (by assumption) ?_
    | with_reducible refine Kept.last (by assumption) ?_
    | with_reducible refine Kept.fst (by assumption) ?_

theorem writeConfirm_kept (k0 : State) (t : Tag) (d : Word) (s : State) (hk : Kept k0 s) : Kept k0 (writeConfirm t d s) := by
  unfold writeConfirm
  try dsimp only
  repeat' first
    | with_reducible assumption
    | intro _
    | simp only [Kept.update]
    | split

theorem execKeyConfirm_kept (k0 : State) (t : Tag) (code : BitVec 16) (s : State) (hk : Kept k0 s) : ∀ z, execKeyConfirm t code s = .next z → Kept k0 z := by
  intro z e
  unfold execKeyConfirm at e
  injection e with e
  rw [← e]
  try dsimp only
  repeat' first
    | with_reducible assumption
    | intro _
    | with_reducible apply hostWrite_kept
    | with_reducible apply writeConfirm_kept

theorem execMaskRefresh_kept (k0 : State) (s : State) (hk : Kept k0 s) : ∀ z, execMaskRefresh s = .next z → Kept k0 z := by
  intro z e
  unfold execMaskRefresh at e
  injection e with e
  rw [← e]
  try dsimp only
  repeat' first
    | with_reducible assumption
    | intro _
    | with_reducible apply State.putKey_kept
    | with_reducible apply Kept.forEach
    | split

theorem execEntropyFail_kept (k0 : State) (s : State) (hk : Kept k0 s) : ∀ z, execEntropyFail s = .next z → Kept k0 z := by
  intro z e
  unfold execEntropyFail at e
  injection e with e
  rw [← e]
  try dsimp only
  repeat' first
    | with_reducible assumption
    | intro _
    | with_reducible apply State.wrF_kept
    | with_reducible apply State.raise_kept

theorem execEntropyRestored_kept (k0 : State) (s : State) (hk : Kept k0 s) : ∀ z, execEntropyRestored s = .next z → Kept k0 z := by
  intro z e
  unfold execEntropyRestored at e
  injection e with e
  rw [← e]
  try dsimp only
  repeat' first
    | with_reducible assumption
    | intro _
    | with_reducible apply State.wrF_kept

theorem execTamper_kept (k0 : State) (s : State) (hk : Kept k0 s) : ∀ z, execTamper s = .next z → Kept k0 z := by
  intro z e
  unfold execTamper at e
  injection e with e
  rw [← e]
  try dsimp only
  repeat' first
    | with_reducible assumption
    | intro _
    | simp only [Kept.update]
    | with_reducible apply State.setEntF_kept
    | with_reducible apply State.raise_kept
    | with_reducible apply Kept.forEach

theorem execMeasSeal_kept (k0 : State) (keyDig manDig : BitVec 384) (rev : Word) (s : State) (hk : Kept k0 s) : ∀ z, execMeasSeal keyDig manDig rev s = .next z → Kept k0 z := by
  intro z e
  unfold execMeasSeal at e
  injection e with e
  rw [← e]
  try dsimp only
  repeat' first
    | with_reducible assumption
    | intro _
    | with_reducible apply State.wrWords_kept
    | with_reducible apply State.deriveRoots_kept
    | with_reducible apply State.enterStage_kept
    | with_reducible apply State.restoreKeep_kept
    | split

theorem execDebugAccess_kept (k0 : State) (a : Addr) (s : State) (hk : Kept k0 s) : ∀ z, execDebugAccess a s = .next z → Kept k0 z := by
  intro z e
  unfold execDebugAccess at e
  injection e with e
  rw [← e]
  try dsimp only
  repeat' first
    | with_reducible assumption
    | intro _
    | with_reducible apply State.dropHolds_kept
    | with_reducible apply State.noteDebug_kept
    | split

theorem keyTableWrite_kept (k0 : State) (t : Tag) (sel idx : Nat) (d : List Word) (s : State) (hk : Kept k0 s) : Kept k0 (keyTableWrite t sel idx d s).2 := by
  unfold keyTableWrite
  try dsimp only
  repeat' first
    | with_reducible assumption
    | intro _
    | simp only [Kept.update]
    | with_reducible apply State.setEnt_kept
    | split
    | with_reducible refine Kept.snd (by assumption) ?_
    | with_reducible refine Kept.third (by assumption) ?_
    | with_reducible refine Kept.last (by assumption) ?_
    | with_reducible refine Kept.fst (by assumption) ?_

end Sys2Proof.Machine
end

