-- ==== Sys2Proof/Laws/Kept/Lane.lean ====
section
/-!
SUPPORT. Laws/Kept/Lane.lean: each operation of Machine/Lane.lean keeps what Laws/Kept.lean names.
-/
set_option linter.unusedSimpArgs false
set_option linter.unusedVariables false
set_option linter.unusedTactic false
set_option linter.unreachableTactic false

namespace Sys2Proof.Machine

theorem State.setLane_kept (k0 : State) (s : State) (l : Nat) (r : LaneRec) (hk : Kept k0 s) : Kept k0 (State.setLane s l r) := by
  unfold State.setLane
  try dsimp only
  repeat' first
    | with_reducible assumption
    | intro _
    | simp only [Kept.update]

theorem State.setEpv_kept (k0 : State) (s : State) (b : Nat) (r : EpvRec) (hk : Kept k0 s) : Kept k0 (State.setEpv s b r) := by
  unfold State.setEpv
  try dsimp only
  repeat' first
    | with_reducible assumption
    | intro _
    | simp only [Kept.update]

theorem State.syncBlk_kept (k0 : State) (s : State) (b : Nat) (hk : Kept k0 s) : Kept k0 (State.syncBlk s b) := by
  unfold State.syncBlk
  try dsimp only
  repeat' first
    | with_reducible assumption
    | intro _
    | with_reducible apply State.wr_kept
    | with_reducible apply Kept.foldl
    | with_reducible apply Kept.foldl_fst
    | with_reducible apply Kept.foldl_snd
    | split

theorem State.setLnState_kept (k0 : State) (s : State) (l st : Nat) (hk : Kept k0 s) : Kept k0 (State.setLnState s l st) := by
  unfold State.setLnState
  try dsimp only
  repeat' first
    | with_reducible assumption
    | intro _
    | with_reducible apply State.wr_kept
    | with_reducible apply State.syncBlk_kept
    | split

theorem State.laneEvent_kept (k0 : State) (s : State) (b ev fault : Nat) (hk : Kept k0 s) : Kept k0 (State.laneEvent s b ev fault) := by
  unfold State.laneEvent
  try dsimp only
  repeat' first
    | with_reducible assumption
    | intro _
    | with_reducible apply State.wrF_kept
    | with_reducible apply State.faultOwned_kept

theorem State.laneCfg_kept (k0 : State) (s : State) (b : Nat) (hk : Kept k0 s) : Kept k0 (State.laneCfg s b) := by
  unfold State.laneCfg
  try dsimp only
  repeat' first
    | with_reducible assumption
    | intro _
    | with_reducible apply State.faultOwned_kept

theorem State.setCoefs_kept (k0 : State) (s : State) (l : Nat) (c : Coefs) (hk : Kept k0 s) : Kept k0 (State.setCoefs s l c) := by
  unfold State.setCoefs
  try dsimp only
  repeat' first
    | with_reducible assumption
    | intro _
    | with_reducible apply State.wr64_kept

theorem answerSide_kept (k0 : State) (l : Nat) (w : Word) (s : State) (hk : Kept k0 s) : Kept k0 (answerSide l w s) := by
  unfold answerSide
  try dsimp only
  repeat' first
    | with_reducible assumption
    | intro _
    | simp only [Kept.update]
    | with_reducible apply State.wrF_kept
    | with_reducible apply State.setLane_kept
    | with_reducible apply State.setCoefs_kept
    | split
    | with_reducible refine Kept.snd (by assumption) ?_
    | with_reducible refine Kept.third (by assumption) ?_
    | with_reducible refine Kept.last (by assumption) ?_
    | with_reducible refine Kept.fst (by assumption) ?_

theorem requestSide_kept (k0 : State) (l : Nat) (w : Word) (s : State) (hk : Kept k0 s) : Kept k0 (requestSide l w s) := by
  unfold requestSide
  try dsimp only
  repeat' first
    | with_reducible assumption
    | intro _
    | simp only [Kept.update]
    | with_reducible apply State.setLane_kept
    | split
    | with_reducible refine Kept.snd (by assumption) ?_
    | with_reducible refine Kept.third (by assumption) ?_
    | with_reducible refine Kept.last (by assumption) ?_
    | with_reducible refine Kept.fst (by assumption) ?_

theorem newRequest_kept (k0 : State) (l : Nat) (s : State) (hk : Kept k0 s) : Kept k0 (newRequest l s) := by
  unfold newRequest
  try dsimp only
  repeat' first
    | with_reducible assumption
    | intro _
    | simp only [Kept.update]
    | with_reducible apply State.wrF_kept
    | with_reducible apply State.fresh_kept
    | with_reducible apply State.setLane_kept
    | split
    | with_reducible refine Kept.snd (by assumption) ?_
    | with_reducible refine Kept.third (by assumption) ?_
    | with_reducible refine Kept.last (by assumption) ?_
    | with_reducible refine Kept.fst (by assumption) ?_

theorem State.sendTraining_kept (k0 : State) (s : State) (l : Nat) (hk : Kept k0 s) : Kept k0 (State.sendTraining s l) := by
  unfold State.sendTraining
  try dsimp only
  repeat' first
    | with_reducible assumption
    | intro _
    | simp only [Kept.update]
    | with_reducible apply State.emit_kept
    | split
    | with_reducible refine Kept.snd (by assumption) ?_
    | with_reducible refine Kept.third (by assumption) ?_
    | with_reducible refine Kept.last (by assumption) ?_
    | with_reducible refine Kept.fst (by assumption) ?_

theorem State.logAttempt_kept (k0 : State) (s : State) (l res : Nat) (hk : Kept k0 s) : Kept k0 (State.logAttempt s l res) := by
  unfold State.logAttempt
  try dsimp only
  repeat' first
    | with_reducible assumption
    | intro _
    | with_reducible apply State.wr_kept

theorem State.startCoefs_kept (k0 : State) (s : State) (l : Nat) (hk : Kept k0 s) : Kept k0 (State.startCoefs s l) := by
  unfold State.startCoefs
  try dsimp only
  repeat' first
    | with_reducible assumption
    | intro _
    | with_reducible apply State.setCoefs_kept
    | split

theorem State.beginAttempt_kept (k0 : State) (s : State) (l n : Nat) (first : Bool) (hk : Kept k0 s) : Kept k0 (State.beginAttempt s l n first) := by
  unfold State.beginAttempt
  try dsimp only
  repeat' first
    | with_reducible assumption
    | intro _
    | simp only [Kept.update]
    | with_reducible apply State.wr_kept
    | with_reducible apply State.wrF_kept
    | with_reducible apply State.setLane_kept
    | with_reducible apply State.setLnState_kept
    | with_reducible apply State.startCoefs_kept
    | split

theorem State.failAttempt_kept (k0 : State) (s : State) (l res : Nat) (hk : Kept k0 s) : Kept k0 (State.failAttempt s l res) := by
  unfold State.failAttempt
  try dsimp only
  repeat' first
    | with_reducible assumption
    | intro _
    | with_reducible apply State.setLnState_kept
    | with_reducible apply State.laneEvent_kept
    | with_reducible apply State.logAttempt_kept
    | with_reducible apply State.beginAttempt_kept
    | split

theorem State.trained_kept (k0 : State) (s : State) (l : Nat) (hk : Kept k0 s) : Kept k0 (State.trained s l) := by
  unfold State.trained
  try dsimp only
  repeat' first
    | with_reducible assumption
    | intro _
    | with_reducible apply State.setLnState_kept
    | with_reducible apply State.logAttempt_kept
    | split

theorem stepSide_kept (k0 : State) (l : Nat) (recv : Nat) (snr : Nat) (s : State) (hk : Kept k0 s) : Kept k0 (stepSide l recv snr s) := by
  unfold stepSide
  try dsimp only
  repeat' first
    | with_reducible assumption
    | intro _
    | simp only [Kept.update]
    | with_reducible apply State.setLane_kept
    | with_reducible apply State.setLnState_kept
    | with_reducible apply State.sendTraining_kept
    | with_reducible apply State.startCoefs_kept
    | with_reducible apply State.trained_kept
    | split

theorem State.noteSnr_kept (k0 : State) (s : State) (l snr : Nat) (hk : Kept k0 s) : Kept k0 (State.noteSnr s l snr) := by
  unfold State.noteSnr
  try dsimp only
  repeat' first
    | with_reducible assumption
    | intro _
    | simp only [Kept.update]
    | with_reducible apply State.wrF_kept
    | with_reducible apply State.setLane_kept

theorem execTrainingFrame_kept (k0 : State) (l : Fin 384) (ctl sts : BitVec 48) (clean : Bool) (snr : BitVec 16) (s : State) (hk : Kept k0 s) : ∀ z, execTrainingFrame l ctl sts clean snr s = .next z → Kept k0 z := by
  intro z e
  unfold execTrainingFrame at e
  injection e with e
  rw [← e]
  try dsimp only
  repeat' first
    | with_reducible assumption
    | intro _
    | simp only [Kept.update]
    | with_reducible apply State.wr_kept
    | with_reducible apply State.setLane_kept
    | with_reducible apply answerSide_kept
    | with_reducible apply requestSide_kept
    | with_reducible apply newRequest_kept
    | with_reducible apply stepSide_kept
    | with_reducible apply State.noteSnr_kept
    | split
    | with_reducible refine Kept.snd (by assumption) ?_
    | with_reducible refine Kept.third (by assumption) ?_
    | with_reducible refine Kept.last (by assumption) ?_
    | with_reducible refine Kept.fst (by assumption) ?_

theorem State.clauseCoefs_kept (k0 : State) (s : State) (l : Nat) (hk : Kept k0 s) : Kept k0 (State.clauseCoefs s l) := by
  unfold State.clauseCoefs
  try dsimp only
  repeat' first
    | with_reducible assumption
    | intro _
    | with_reducible apply State.fresh_kept
    | with_reducible apply State.setCoefs_kept
    | split
    | with_reducible refine Kept.snd (by assumption) ?_
    | with_reducible refine Kept.third (by assumption) ?_
    | with_reducible refine Kept.last (by assumption) ?_
    | with_reducible refine Kept.fst (by assumption) ?_

theorem execSignalDetect_kept (k0 : State) (l : Fin 384) (s : State) (hk : Kept k0 s) : ∀ z, execSignalDetect l s = .next z → Kept k0 z := by
  intro z e
  unfold execSignalDetect at e
  injection e with e
  rw [← e]
  try dsimp only
  repeat' first
    | with_reducible assumption
    | intro _
    | simp only [Kept.update]
    | with_reducible apply State.wrF_kept
    | with_reducible apply State.setLane_kept
    | with_reducible apply State.setLnState_kept
    | with_reducible apply State.setCoefs_kept
    | with_reducible apply State.clauseCoefs_kept
    | split

theorem execTapTimeout_kept (k0 : State) (l : Fin 384) (s : State) (hk : Kept k0 s) : ∀ z, execTapTimeout l s = .next z → Kept k0 z := by
  intro z e
  unfold execTapTimeout at e
  injection e with e
  rw [← e]
  try dsimp only
  repeat' first
    | with_reducible assumption
    | intro _
    | simp only [Kept.update]
    | with_reducible apply State.failAttempt_kept
    | split
    | with_reducible refine Kept.snd (by assumption) ?_
    | with_reducible refine Kept.third (by assumption) ?_
    | with_reducible refine Kept.last (by assumption) ?_
    | with_reducible refine Kept.fst (by assumption) ?_

theorem execStepUpLock_kept (k0 : State) (l : Fin 384) (s : State) (hk : Kept k0 s) : ∀ z, execStepUpLock l s = .next z → Kept k0 z := by
  intro z e
  unfold execStepUpLock at e
  injection e with e
  rw [← e]
  try dsimp only
  repeat' first
    | with_reducible assumption
    | intro _
    | simp only [Kept.update]
    | with_reducible apply State.wrF_kept
    | with_reducible apply State.setLane_kept
    | with_reducible apply State.setLnState_kept
    | with_reducible apply State.setCoefs_kept
    | split

theorem execTrainTimeout_kept (k0 : State) (l : Fin 384) (s : State) (hk : Kept k0 s) : ∀ z, execTrainTimeout l s = .next z → Kept k0 z := by
  intro z e
  unfold execTrainTimeout at e
  injection e with e
  rw [← e]
  try dsimp only
  repeat' first
    | with_reducible assumption
    | intro _
    | with_reducible apply State.failAttempt_kept
    | split

theorem execLaneHoldExpire_kept (k0 : State) (l : Fin 384) (s : State) (hk : Kept k0 s) : ∀ z, execLaneHoldExpire l s = .next z → Kept k0 z := by
  intro z e
  unfold execLaneHoldExpire at e
  injection e with e
  rw [← e]
  try dsimp only
  repeat' first
    | with_reducible assumption
    | intro _
    | with_reducible apply State.setLnState_kept
    | split

theorem State.ethDown_kept (k0 : State) (s : State) (b p : Nat) (hk : Kept k0 s) : Kept k0 (State.ethDown s b p) := by
  unfold State.ethDown
  try dsimp only
  repeat' first
    | with_reducible assumption
    | intro _
    | with_reducible apply State.wr_kept
    | with_reducible apply State.wrF_kept
    | with_reducible apply State.incSat_kept
    | with_reducible apply State.raiseOwned_kept
    | with_reducible apply Kept.forEach
    | split

theorem State.epvShed_kept (k0 : State) (s : State) (l : Nat) (hk : Kept k0 s) : Kept k0 (State.epvShed s l) := by
  unfold State.epvShed
  try dsimp only
  repeat' first
    | with_reducible assumption
    | intro _
    | simp only [Kept.update]
    | with_reducible apply State.wrF_kept
    | with_reducible apply State.incSat_kept
    | with_reducible apply State.raiseOwned_kept
    | with_reducible apply State.setEpv_kept

theorem State.epvLinkDown_kept (k0 : State) (s : State) (b : Nat) (hk : Kept k0 s) : Kept k0 (State.epvLinkDown s b) := by
  unfold State.epvLinkDown
  try dsimp only
  repeat' first
    | with_reducible assumption
    | intro _
    | simp only [Kept.update]
    | with_reducible apply State.wr_kept
    | with_reducible apply State.wrF_kept
    | with_reducible apply State.raiseOwned_kept
    | with_reducible apply State.setEpv_kept
    | with_reducible apply Kept.forEach
    | split

theorem State.epvDown_kept (k0 : State) (s : State) (l : Nat) (hk : Kept k0 s) : Kept k0 (State.epvDown s l) := by
  unfold State.epvDown
  try dsimp only
  repeat' first
    | with_reducible assumption
    | intro _
    | with_reducible apply State.epvShed_kept
    | with_reducible apply State.epvLinkDown_kept

theorem State.framingLost_kept (k0 : State) (s : State) (l : Nat) (hk : Kept k0 s) : Kept k0 (State.framingLost s l) := by
  unfold State.framingLost
  try dsimp only
  repeat' first
    | with_reducible assumption
    | intro _
    | with_reducible apply State.ethDown_kept
    | with_reducible apply State.epvShed_kept
    | with_reducible apply State.epvDown_kept
    | split

theorem State.beginRetrain_kept (k0 : State) (s : State) (l : Nat) (hk : Kept k0 s) : Kept k0 (State.beginRetrain s l) := by
  unfold State.beginRetrain
  try dsimp only
  repeat' first
    | with_reducible assumption
    | intro _
    | with_reducible apply State.beginAttempt_kept
    | with_reducible apply Kept.forEach

theorem State.laneLost_kept (k0 : State) (s : State) (l : Nat) (hk : Kept k0 s) : Kept k0 (State.laneLost s l) := by
  unfold State.laneLost
  try dsimp only
  repeat' first
    | with_reducible assumption
    | intro _
    | with_reducible apply State.wrF_kept
    | with_reducible apply State.setLnState_kept
    | with_reducible apply State.framingLost_kept
    | with_reducible apply State.beginRetrain_kept
    | split

theorem State.reportLol_kept (k0 : State) (s : State) (l : Nat) (hk : Kept k0 s) : Kept k0 (State.reportLol s l) := by
  unfold State.reportLol
  try dsimp only
  repeat' first
    | with_reducible assumption
    | intro _
    | with_reducible apply State.incSat_kept
    | with_reducible apply State.laneEvent_kept

theorem State.lossOfLock_kept (k0 : State) (s : State) (l : Nat) (hk : Kept k0 s) : Kept k0 (State.lossOfLock s l) := by
  unfold State.lossOfLock
  try dsimp only
  repeat' first
    | with_reducible assumption
    | intro _
    | with_reducible apply State.wrF_kept
    | with_reducible apply State.failAttempt_kept
    | with_reducible apply State.laneLost_kept
    | with_reducible apply State.reportLol_kept
    | split

theorem execLossOfLock_kept (k0 : State) (l : Fin 384) (s : State) (hk : Kept k0 s) : ∀ z, execLossOfLock l s = .next z → Kept k0 z := by
  intro z e
  unfold execLossOfLock at e
  injection e with e
  rw [← e]
  try dsimp only
  repeat' first
    | with_reducible assumption
    | intro _
    | with_reducible apply State.lossOfLock_kept

theorem execSnrLow_kept (k0 : State) (l : Fin 384) (snr : BitVec 16) (s : State) (hk : Kept k0 s) : ∀ z, execSnrLow l snr s = .next z → Kept k0 z := by
  intro z e
  unfold execSnrLow at e
  injection e with e
  rw [← e]
  try dsimp only
  repeat' first
    | with_reducible assumption
    | intro _
    | with_reducible apply State.laneEvent_kept
    | with_reducible apply State.noteSnr_kept
    | split

theorem execReceiverLock_kept (k0 : State) (l : Fin 384) (snr : BitVec 16) (s : State) (hk : Kept k0 s) : ∀ z, execReceiverLock l snr s = .next z → Kept k0 z := by
  intro z e
  unfold execReceiverLock at e
  injection e with e
  rw [← e]
  try dsimp only
  repeat' first
    | with_reducible assumption
    | intro _
    | simp only [Kept.update]
    | with_reducible apply State.wrF_kept
    | with_reducible apply State.setLane_kept
    | with_reducible apply State.setLnState_kept
    | with_reducible apply State.logAttempt_kept
    | with_reducible apply State.noteSnr_kept
    | split

theorem execRelockTimeout_kept (k0 : State) (l : Fin 384) (s : State) (hk : Kept k0 s) : ∀ z, execRelockTimeout l s = .next z → Kept k0 z := by
  intro z e
  unfold execRelockTimeout at e
  injection e with e
  rw [← e]
  try dsimp only
  repeat' first
    | with_reducible assumption
    | intro _
    | simp only [Kept.update]
    | with_reducible apply State.setLane_kept
    | with_reducible apply State.beginAttempt_kept
    | split

theorem State.laneOff_kept (k0 : State) (s : State) (l : Nat) (hk : Kept k0 s) : Kept k0 (State.laneOff s l) := by
  unfold State.laneOff
  try dsimp only
  repeat' first
    | with_reducible assumption
    | intro _
    | with_reducible apply State.wrF_kept
    | with_reducible apply State.setLane_kept
    | with_reducible apply State.setLnState_kept
    | with_reducible apply State.logAttempt_kept
    | with_reducible apply State.framingLost_kept
    | split

theorem State.shedLane_kept (k0 : State) (s : State) (l : Nat) (hk : Kept k0 s) : Kept k0 (State.shedLane s l) := by
  unfold State.shedLane
  try dsimp only
  repeat' first
    | with_reducible assumption
    | intro _
    | simp only [Kept.update]
    | with_reducible apply State.setLane_kept
    | with_reducible apply State.laneLost_kept
    | split

theorem State.retrainLane_kept (k0 : State) (s : State) (l : Nat) (hk : Kept k0 s) : Kept k0 (State.retrainLane s l) := by
  unfold State.retrainLane
  try dsimp only
  repeat' first
    | with_reducible assumption
    | intro _
    | with_reducible apply State.setLnState_kept
    | with_reducible apply State.beginAttempt_kept
    | with_reducible apply State.framingLost_kept
    | with_reducible apply State.beginRetrain_kept
    | split

theorem State.startLane_kept (k0 : State) (s : State) (l : Nat) (hk : Kept k0 s) : Kept k0 (State.startLane s l) := by
  unfold State.startLane
  try dsimp only
  repeat' first
    | with_reducible assumption
    | intro _
    | with_reducible apply State.beginAttempt_kept
    | split

theorem writeBlkCtrl_kept (k0 : State) (b : Nat) (d : Word) (s : State) (hk : Kept k0 s) : Kept k0 (writeBlkCtrl b d s) := by
  unfold writeBlkCtrl
  try dsimp only
  repeat' first
    | with_reducible assumption
    | intro _
    | with_reducible apply State.laneCfg_kept
    | with_reducible apply State.laneOff_kept
    | with_reducible apply State.shedLane_kept
    | with_reducible apply State.retrainLane_kept
    | with_reducible apply State.startLane_kept
    | with_reducible apply Kept.forEach
    | split

theorem execLaneStart_kept (k0 : State) (t : Tag) (b : Fin 48) (s : State) (hk : Kept k0 s) : ∀ z, execLaneStart t b s = .next z → Kept k0 z := by
  intro z e
  unfold execLaneStart at e
  injection e with e
  rw [← e]
  try dsimp only
  repeat' first
    | with_reducible assumption
    | intro _
    | with_reducible apply hostWrite_kept
    | with_reducible apply writeBlkCtrl_kept

theorem execLaneStop_kept (k0 : State) (t : Tag) (b : Fin 48) (s : State) (hk : Kept k0 s) : ∀ z, execLaneStop t b s = .next z → Kept k0 z := by
  intro z e
  unfold execLaneStop at e
  injection e with e
  rw [← e]
  try dsimp only
  repeat' first
    | with_reducible assumption
    | intro _
    | with_reducible apply hostWrite_kept
    | with_reducible apply writeBlkCtrl_kept

theorem execLaneRetrain_kept (k0 : State) (t : Tag) (b : Fin 48) (mask : BitVec 8) (s : State) (hk : Kept k0 s) : ∀ z, execLaneRetrain t b mask s = .next z → Kept k0 z := by
  intro z e
  unfold execLaneRetrain at e
  injection e with e
  rw [← e]
  try dsimp only
  repeat' first
    | with_reducible assumption
    | intro _
    | with_reducible apply hostWrite_kept
    | with_reducible apply writeBlkCtrl_kept

theorem execLaneShed_kept (k0 : State) (t : Tag) (b : Fin 48) (mask : BitVec 8) (s : State) (hk : Kept k0 s) : ∀ z, execLaneShed t b mask s = .next z → Kept k0 z := by
  intro z e
  unfold execLaneShed at e
  injection e with e
  rw [← e]
  try dsimp only
  repeat' first
    | with_reducible assumption
    | intro _
    | with_reducible apply hostWrite_kept
    | with_reducible apply writeBlkCtrl_kept

theorem writeBlkCfg_kept (k0 : State) (b : Nat) (d : Word) (s : State) (hk : Kept k0 s) : Kept k0 (writeBlkCfg b d s) := by
  unfold writeBlkCfg
  try dsimp only
  repeat' first
    | with_reducible assumption
    | intro _
    | with_reducible apply State.wr_kept
    | with_reducible apply State.laneCfg_kept
    | with_reducible apply State.beginRetrain_kept
    | with_reducible apply State.laneOff_kept
    | with_reducible apply Kept.forEach
    | split

theorem State.checkAgree_kept (k0 : State) (s : State) (b : Nat) (hk : Kept k0 s) : Kept k0 (State.checkAgree s b) := by
  unfold State.checkAgree
  try dsimp only
  repeat' first
    | with_reducible assumption
    | intro _
    | with_reducible apply State.raiseOwned_kept
    | split

theorem execLaneBlkCfgWrite_kept (k0 : State) (t : Tag) (b : Fin 48) (d : Word) (s : State) (hk : Kept k0 s) : ∀ z, execLaneBlkCfgWrite t b d s = .next z → Kept k0 z := by
  intro z e
  unfold execLaneBlkCfgWrite at e
  injection e with e
  rw [← e]
  try dsimp only
  repeat' first
    | with_reducible assumption
    | intro _
    | with_reducible apply hostWrite_kept
    | with_reducible apply writeBlkCfg_kept
    | with_reducible apply State.checkAgree_kept

theorem writeLnCfg_kept (k0 : State) (l : Nat) (d : Word) (s : State) (hk : Kept k0 s) : Kept k0 (writeLnCfg l d s) := by
  unfold writeLnCfg
  try dsimp only
  repeat' first
    | with_reducible assumption
    | intro _
    | with_reducible apply State.wr_kept
    | with_reducible apply State.laneCfg_kept
    | with_reducible apply State.laneOff_kept
    | split

theorem execLaneDisable_kept (k0 : State) (t : Tag) (l : Fin 384) (s : State) (hk : Kept k0 s) : ∀ z, execLaneDisable t l s = .next z → Kept k0 z := by
  intro z e
  unfold execLaneDisable at e
  injection e with e
  rw [← e]
  try dsimp only
  repeat' first
    | with_reducible assumption
    | intro _
    | with_reducible apply hostWrite_kept
    | with_reducible apply writeLnCfg_kept

theorem execSeqLoaded_kept (k0 : State) (b : Fin 48) (s : State) (hk : Kept k0 s) : ∀ z, execSeqLoaded b s = .next z → Kept k0 z := by
  intro z e
  unfold execSeqLoaded at e
  injection e with e
  rw [← e]
  try dsimp only
  repeat' first
    | with_reducible assumption
    | intro _
    | with_reducible apply State.wrF_kept
    | with_reducible apply State.syncBlk_kept
    | split

theorem execSeqFault_kept (k0 : State) (b : Fin 48) (s : State) (hk : Kept k0 s) : ∀ z, execSeqFault b s = .next z → Kept k0 z := by
  intro z e
  unfold execSeqFault at e
  injection e with e
  rw [← e]
  try dsimp only
  repeat' first
    | with_reducible assumption
    | intro _
    | with_reducible apply State.wrF_kept
    | with_reducible apply State.setLnState_kept
    | with_reducible apply State.laneEvent_kept
    | with_reducible apply Kept.forEach

theorem writePrbsGen_kept (k0 : State) (l : Nat) (d : Word) (s : State) (hk : Kept k0 s) : Kept k0 (writePrbsGen l d s) := by
  unfold writePrbsGen
  try dsimp only
  repeat' first
    | with_reducible assumption
    | intro _
    | with_reducible apply State.wr_kept
    | with_reducible apply State.emit_kept
    | with_reducible apply State.laneCfg_kept
    | split

theorem execPrbsGenWrite_kept (k0 : State) (t : Tag) (l : Fin 384) (d : Word) (s : State) (hk : Kept k0 s) : ∀ z, execPrbsGenWrite t l d s = .next z → Kept k0 z := by
  intro z e
  unfold execPrbsGenWrite at e
  injection e with e
  rw [← e]
  try dsimp only
  repeat' first
    | with_reducible assumption
    | intro _
    | with_reducible apply hostWrite_kept
    | with_reducible apply writePrbsGen_kept

theorem State.setChk_kept (k0 : State) (s : State) (l : Nat) (on : Bool) (hk : Kept k0 s) : Kept k0 (State.setChk s l on) := by
  unfold State.setChk
  try dsimp only
  repeat' first
    | with_reducible assumption
    | intro _
    | simp only [Kept.update]
    | with_reducible apply State.wrF_kept
    | with_reducible apply State.setLane_kept
    | split

theorem writePrbsChk_kept (k0 : State) (l : Nat) (d : Word) (s : State) (hk : Kept k0 s) : Kept k0 (writePrbsChk l d s) := by
  unfold writePrbsChk
  try dsimp only
  repeat' first
    | with_reducible assumption
    | intro _
    | with_reducible apply State.wr_kept
    | with_reducible apply State.laneCfg_kept
    | with_reducible apply State.setChk_kept
    | split

theorem execCheckerLock_kept (k0 : State) (l : Fin 384) (s : State) (hk : Kept k0 s) : ∀ z, execCheckerLock l s = .next z → Kept k0 z := by
  intro z e
  unfold execCheckerLock at e
  injection e with e
  rw [← e]
  try dsimp only
  repeat' first
    | with_reducible assumption
    | intro _
    | with_reducible apply State.setChk_kept
    | split

theorem execCheckerUnlock_kept (k0 : State) (l : Fin 384) (s : State) (hk : Kept k0 s) : ∀ z, execCheckerUnlock l s = .next z → Kept k0 z := by
  intro z e
  unfold execCheckerUnlock at e
  injection e with e
  rw [← e]
  try dsimp only
  repeat' first
    | with_reducible assumption
    | intro _
    | with_reducible apply State.wr64_kept
    | with_reducible apply State.setChk_kept
    | split

theorem State.checkBits_kept (k0 : State) (s : State) (l n : Nat) (hk : Kept k0 s) : Kept k0 (State.checkBits s l n) := by
  unfold State.checkBits
  try dsimp only
  repeat' first
    | with_reducible assumption
    | intro _
    | with_reducible apply State.wr64_kept
    | split

theorem State.checkBeat_kept (k0 : State) (s : State) (hk : Kept k0 s) : Kept k0 (State.checkBeat s) := by
  unfold State.checkBeat
  try dsimp only
  repeat' first
    | with_reducible assumption
    | intro _
    | with_reducible apply State.checkBits_kept
    | with_reducible apply Kept.forEach
    | split

theorem State.inject_kept (k0 : State) (s : State) (l target n : Nat) (hk : Kept k0 s) : Kept k0 (State.inject s l target n) := by
  unfold State.inject
  try dsimp only
  repeat' first
    | with_reducible assumption
    | intro _
    | simp only [Kept.update]
    | with_reducible apply State.emit_kept
    | with_reducible apply State.setLane_kept

theorem writeInj_kept (k0 : State) (l : Nat) (d : Word) (s : State) (hk : Kept k0 s) : Kept k0 (writeInj l d s) := by
  unfold writeInj
  try dsimp only
  repeat' first
    | with_reducible assumption
    | intro _
    | simp only [Kept.update]
    | with_reducible apply State.wr_kept
    | with_reducible apply State.setLane_kept
    | with_reducible apply State.laneCfg_kept
    | with_reducible apply State.inject_kept
    | split

theorem execInjectGo_kept (k0 : State) (t : Tag) (l : Fin 384) (d : Word) (s : State) (hk : Kept k0 s) : ∀ z, execInjectGo t l d s = .next z → Kept k0 z := by
  intro z e
  unfold execInjectGo at e
  injection e with e
  rw [← e]
  try dsimp only
  repeat' first
    | with_reducible assumption
    | intro _
    | with_reducible apply hostWrite_kept
    | with_reducible apply writeInj_kept

theorem execInjectRateError_kept (k0 : State) (l : Fin 384) (s : State) (hk : Kept k0 s) : ∀ z, execInjectRateError l s = .next z → Kept k0 z := by
  intro z e
  unfold execInjectRateError at e
  injection e with e
  rw [← e]
  try dsimp only
  repeat' first
    | with_reducible assumption
    | intro _
    | with_reducible apply State.emit_kept
    | split

theorem writeTxCoef_kept (k0 : State) (l : Nat) (v : Nat) (s : State) (hk : Kept k0 s) : Kept k0 (writeTxCoef l v s) := by
  unfold writeTxCoef
  try dsimp only
  repeat' first
    | with_reducible assumption
    | intro _
    | simp only [Kept.update]
    | with_reducible apply State.setLane_kept
    | with_reducible apply State.laneCfg_kept
    | split

theorem execTxCoefWrite_kept (k0 : State) (t : Tag) (l : Fin 384) (d : BitVec 64) (s : State) (hk : Kept k0 s) : ∀ z, execTxCoefWrite t l d s = .next z → Kept k0 z := by
  intro z e
  unfold execTxCoefWrite at e
  injection e with e
  rw [← e]
  try dsimp only
  repeat' first
    | with_reducible assumption
    | intro _
    | with_reducible apply busWrite_kept
    | with_reducible apply writeTxCoef_kept

theorem execTxCoefApply_kept (k0 : State) (l : Fin 384) (s : State) (hk : Kept k0 s) : ∀ z, execTxCoefApply l s = .next z → Kept k0 z := by
  intro z e
  unfold execTxCoefApply at e
  injection e with e
  rw [← e]
  try dsimp only
  repeat' first
    | with_reducible assumption
    | intro _
    | simp only [Kept.update]
    | with_reducible apply State.setLane_kept
    | with_reducible apply State.setCoefs_kept
    | split
    | with_reducible refine Kept.snd (by assumption) ?_
    | with_reducible refine Kept.third (by assumption) ?_
    | with_reducible refine Kept.last (by assumption) ?_
    | with_reducible refine Kept.fst (by assumption) ?_

theorem laneSnap_kept (k0 : State) (b : Nat) (s : State) (hk : Kept k0 s) : Kept k0 (laneSnap b s) := by
  unfold laneSnap
  try dsimp only
  repeat' first
    | with_reducible assumption
    | intro _
    | with_reducible apply State.snap_kept
    | with_reducible apply Kept.forEach

end Sys2Proof.Machine
end

