-- ==== Sys2Proof/Laws/Kept/Port.lean ====
section
/-!
SUPPORT. Laws/Kept/Port.lean: each operation of Machine/Port.lean keeps what Laws/Kept.lean names.
-/
set_option linter.unusedSimpArgs false
set_option linter.unusedVariables false
set_option linter.unusedTactic false
set_option linter.unreachableTactic false

namespace Sys2Proof.Machine

theorem State.writePlacement_kept (k0 : State) (s : State) (b sel : Nat) (sts : List Stream) (ps : List Placed) (hk : Kept k0 s) : Kept k0 (State.writePlacement s b sel sts ps) := by
  unfold State.writePlacement
  try dsimp only
  repeat' first
    | with_reducible assumption
    | intro _
    | simp only [Kept.update]
    | with_reducible apply State.setEntWords_kept
    | with_reducible apply Kept.forEach
    | split
    | with_reducible refine Kept.snd (by assumption) ?_
    | with_reducible refine Kept.third (by assumption) ?_
    | with_reducible refine Kept.last (by assumption) ?_
    | with_reducible refine Kept.fst (by assumption) ?_

theorem State.epvSend_kept (k0 : State) (s : State) (b : Nat) (hk : Kept k0 s) : Kept k0 (State.epvSend s b) := by
  unfold State.epvSend
  try dsimp only
  repeat' first
    | with_reducible assumption
    | intro _
    | simp only [Kept.update]
    | with_reducible apply State.wr_kept
    | with_reducible apply State.raiseOwned_kept
    | with_reducible apply State.setEpv_kept
    | with_reducible apply State.writePlacement_kept
    | split

theorem State.epvEmit_kept (k0 : State) (s : State) (b : Nat) (allots : List (Nat × List Dword)) (hk : Kept k0 s) : Kept k0 (State.epvEmit s b allots) := by
  unfold State.epvEmit
  try dsimp only
  repeat' first
    | with_reducible assumption
    | intro _
    | simp only [Kept.update]
    | with_reducible apply State.emit_kept
    | with_reducible apply Kept.forEach
    | split
    | with_reducible refine Kept.snd (by assumption) ?_
    | with_reducible refine Kept.third (by assumption) ?_
    | with_reducible refine Kept.last (by assumption) ?_
    | with_reducible refine Kept.fst (by assumption) ?_

theorem State.errData_kept (k0 : State) (s : State) (ei : Nat) (ws : List Dword) (hk : Kept k0 s) : Kept k0 (State.errData s ei ws) := by
  unfold State.errData
  try dsimp only
  repeat' first
    | with_reducible assumption
    | intro _
    | simp only [Kept.update]
    | with_reducible apply State.setEnt_kept
    | with_reducible apply State.raise_kept
    | split
    | with_reducible refine Kept.snd (by assumption) ?_
    | with_reducible refine Kept.third (by assumption) ?_
    | with_reducible refine Kept.last (by assumption) ?_
    | with_reducible refine Kept.fst (by assumption) ?_

theorem State.passAllotment_kept (k0 : State) (s : State) (b lane : Nat) (errored : Bool) (a : Nat × List Dword) (hk : Kept k0 s) : Kept k0 (State.passAllotment s b lane errored a) := by
  unfold State.passAllotment
  try dsimp only
  repeat' first
    | with_reducible assumption
    | intro _
    | simp only [Kept.update]
    | with_reducible apply State.emit_kept
    | with_reducible apply State.raiseOwned_kept
    | with_reducible apply State.errData_kept
    | split
    | with_reducible refine Kept.snd (by assumption) ?_
    | with_reducible refine Kept.third (by assumption) ?_
    | with_reducible refine Kept.last (by assumption) ?_
    | with_reducible refine Kept.fst (by assumption) ?_

theorem State.takeHeader_kept (k0 : State) (s : State) (b l : Nat) (hdr : List Dword) (hk : Kept k0 s) : Kept k0 (State.takeHeader s b l hdr) := by
  unfold State.takeHeader
  try dsimp only
  repeat' first
    | with_reducible assumption
    | intro _
    | simp only [Kept.update]
    | with_reducible apply State.wrF_kept
    | with_reducible apply State.setEpv_kept
    | with_reducible apply State.writePlacement_kept
    | split

theorem State.passFrame_kept (k0 : State) (s : State) (l lane : Nat) (errored : Bool) (f : EpvFrame) (hk : Kept k0 s) : Kept k0 (State.passFrame s l lane errored f) := by
  unfold State.passFrame
  try dsimp only
  repeat' first
    | with_reducible assumption
    | intro _
    | with_reducible apply State.checkBits_kept
    | with_reducible apply State.passAllotment_kept
    | with_reducible apply Kept.forEach
    | split

theorem execEpvFrameReceive_kept (k0 : State) (b : Fin 48) (i : Fin 8) (f : EpvFrame) (s : State) (hk : Kept k0 s) : ∀ z, execEpvFrameReceive b i f s = .next z → Kept k0 z := by
  intro z e
  unfold execEpvFrameReceive at e
  injection e with e
  rw [← e]
  try dsimp only
  repeat' first
    | with_reducible assumption
    | intro _
    | simp only [Kept.update]
    | with_reducible apply State.wrF_kept
    | with_reducible apply State.wr64_kept
    | with_reducible apply State.incSat_kept
    | with_reducible apply State.raiseOwned_kept
    | with_reducible apply State.setEpv_kept
    | with_reducible apply State.lossOfLock_kept
    | with_reducible apply State.takeHeader_kept
    | with_reducible apply State.passFrame_kept
    | split

theorem writeEpvCtrl_kept (k0 : State) (b : Nat) (d : Word) (s : State) (hk : Kept k0 s) : Kept k0 (writeEpvCtrl b d s) := by
  unfold writeEpvCtrl
  try dsimp only
  repeat' first
    | with_reducible assumption
    | intro _
    | simp only [Kept.update]
    | with_reducible apply State.setEpv_kept

theorem execMapSwap_kept (k0 : State) (t : Tag) (b : Fin 48) (s : State) (hk : Kept k0 s) : ∀ z, execMapSwap t b s = .next z → Kept k0 z := by
  intro z e
  unfold execMapSwap at e
  injection e with e
  rw [← e]
  try dsimp only
  repeat' first
    | with_reducible assumption
    | intro _
    | with_reducible apply hostWrite_kept
    | with_reducible apply writeEpvCtrl_kept

theorem execRejoin_kept (k0 : State) (t : Tag) (b : Fin 48) (s : State) (hk : Kept k0 s) : ∀ z, execRejoin t b s = .next z → Kept k0 z := by
  intro z e
  unfold execRejoin at e
  injection e with e
  rw [← e]
  try dsimp only
  repeat' first
    | with_reducible assumption
    | intro _
    | with_reducible apply hostWrite_kept
    | with_reducible apply writeEpvCtrl_kept

theorem mapWrite_kept (k0 : State) (b sel idx : Nat) (d : List Word) (fed : Nat → Bool) (s : State) (hk : Kept k0 s) : Kept k0 (mapWrite b sel idx d fed s).2 := by
  unfold mapWrite
  try dsimp only
  repeat' first
    | with_reducible assumption
    | intro _
    | with_reducible apply State.setEntWords_kept
    | with_reducible apply State.setReason_kept
    | with_reducible apply State.clearReason_kept
    | split

theorem writePortBlkCfg_kept (k0 : State) (b : Nat) (d : Word) (s : State) (hk : Kept k0 s) : Kept k0 (writePortBlkCfg b d s) := by
  unfold writePortBlkCfg
  try dsimp only
  repeat' first
    | with_reducible assumption
    | intro _
    | with_reducible apply State.wr_kept
    | with_reducible apply State.raiseOwned_kept
    | with_reducible apply State.checkAgree_kept
    | split

theorem execPortBlkCfgWrite_kept (k0 : State) (t : Tag) (b : Fin 48) (d : Word) (s : State) (hk : Kept k0 s) : ∀ z, execPortBlkCfgWrite t b d s = .next z → Kept k0 z := by
  intro z e
  unfold execPortBlkCfgWrite at e
  injection e with e
  rw [← e]
  try dsimp only
  repeat' first
    | with_reducible assumption
    | intro _
    | with_reducible apply hostWrite_kept
    | with_reducible apply writePortBlkCfg_kept

theorem writeEthCfg_kept (k0 : State) (b : Nat) (d : Word) (s : State) (hk : Kept k0 s) : Kept k0 (writeEthCfg b d s) := by
  unfold writeEthCfg
  try dsimp only
  repeat' first
    | with_reducible assumption
    | intro _
    | with_reducible apply State.wr_kept
    | with_reducible apply State.wrF_kept
    | with_reducible apply State.raiseOwned_kept
    | with_reducible apply State.ethDown_kept
    | with_reducible apply Kept.forEach
    | split

theorem execPortEthCfgWrite_kept (k0 : State) (t : Tag) (b : Fin 48) (d : Word) (s : State) (hk : Kept k0 s) : ∀ z, execPortEthCfgWrite t b d s = .next z → Kept k0 z := by
  intro z e
  unfold execPortEthCfgWrite at e
  injection e with e
  rw [← e]
  try dsimp only
  repeat' first
    | with_reducible assumption
    | intro _
    | with_reducible apply hostWrite_kept
    | with_reducible apply writeEthCfg_kept

theorem State.portTrained_kept (k0 : State) (s : State) (b p : Nat) (hk : Kept k0 s) : Kept k0 (State.portTrained s b p) := by
  unfold State.portTrained
  try dsimp only
  repeat' first
    | with_reducible assumption
    | intro _
    | with_reducible apply State.wrF_kept
    | with_reducible apply State.trained_kept
    | with_reducible apply State.clauseCoefs_kept
    | with_reducible apply Kept.forEach
    | split

theorem execEthLinkUp_kept (k0 : State) (b : Fin 48) (p : Fin 8) (ability : Bool) (s : State) (hk : Kept k0 s) : ∀ z, execEthLinkUp b p ability s = .next z → Kept k0 z := by
  intro z e
  unfold execEthLinkUp at e
  injection e with e
  rw [← e]
  try dsimp only
  repeat' first
    | with_reducible assumption
    | intro _
    | simp only [Kept.update]
    | with_reducible apply State.wrF_kept
    | with_reducible apply State.portTrained_kept
    | with_reducible apply Kept.forEach
    | split

theorem execEthLinkDown_kept (k0 : State) (b : Fin 48) (p : Fin 8) (s : State) (hk : Kept k0 s) : ∀ z, execEthLinkDown b p s = .next z → Kept k0 z := by
  intro z e
  unfold execEthLinkDown at e
  injection e with e
  rw [← e]
  try dsimp only
  repeat' first
    | with_reducible assumption
    | intro _
    | with_reducible apply State.ethDown_kept

theorem State.lpiEnd_kept (k0 : State) (s : State) (b p : Nat) (hk : Kept k0 s) : Kept k0 (State.lpiEnd s b p) := by
  unfold State.lpiEnd
  try dsimp only
  repeat' first
    | with_reducible assumption
    | intro _
    | with_reducible apply State.wrF_kept

theorem execLpiEnter_kept (k0 : State) (b : Fin 48) (p : Fin 8) (s : State) (hk : Kept k0 s) : ∀ z, execLpiEnter b p s = .next z → Kept k0 z := by
  intro z e
  unfold execLpiEnter at e
  injection e with e
  rw [← e]
  try dsimp only
  repeat' first
    | with_reducible assumption
    | intro _
    | with_reducible apply State.wrF_kept
    | split

theorem execLpiExit_kept (k0 : State) (b : Fin 48) (p : Fin 8) (s : State) (hk : Kept k0 s) : ∀ z, execLpiExit b p s = .next z → Kept k0 z := by
  intro z e
  unfold execLpiExit at e
  injection e with e
  rw [← e]
  try dsimp only
  repeat' first
    | with_reducible assumption
    | intro _
    | with_reducible apply State.lpiEnd_kept

theorem State.fecBeat_kept (k0 : State) (s : State) (hk : Kept k0 s) : Kept k0 (State.fecBeat s) := by
  unfold State.fecBeat
  try dsimp only
  repeat' first
    | with_reducible assumption
    | intro _
    | simp only [Kept.update]
    | with_reducible apply State.wr64_kept
    | with_reducible apply State.incSat_kept
    | with_reducible apply Kept.forEach
    | split
    | with_reducible refine Kept.snd (by assumption) ?_
    | with_reducible refine Kept.third (by assumption) ?_
    | with_reducible refine Kept.last (by assumption) ?_
    | with_reducible refine Kept.fst (by assumption) ?_

theorem State.setSaState_kept (k0 : State) (s : State) (b p an st : Nat) (hk : Kept k0 s) : Kept k0 (State.setSaState s b p an st) := by
  unfold State.setSaState
  try dsimp only
  repeat' first
    | with_reducible assumption
    | intro _
    | with_reducible apply State.setEntF_kept

theorem State.setSaPn_kept (k0 : State) (s : State) (b p an v : Nat) (hk : Kept k0 s) : Kept k0 (State.setSaPn s b p an v) := by
  unfold State.setSaPn
  try dsimp only
  repeat' first
    | with_reducible assumption
    | intro _
    | with_reducible apply State.setEntWords_kept

theorem State.useSa_kept (k0 : State) (s : State) (b p an : Nat) (hk : Kept k0 s) : Kept k0 (State.useSa s b p an) := by
  unfold State.useSa
  try dsimp only
  repeat' first
    | with_reducible assumption
    | intro _
    | with_reducible apply State.setEntF_kept
    | with_reducible apply State.setSaState_kept
    | split

theorem State.incEnt64_kept (k0 : State) (s : State) (pg sel idx w n : Nat) (hk : Kept k0 s) : Kept k0 (State.incEnt64 s pg sel idx w n) := by
  unfold State.incEnt64
  try dsimp only
  repeat' first
    | with_reducible assumption
    | intro _
    | with_reducible apply State.setEntWords_kept

theorem State.autoNext_kept (k0 : State) (s : State) (b p : Nat) (hk : Kept k0 s) : Kept k0 (State.autoNext s b p) := by
  unfold State.autoNext
  try dsimp only
  repeat' first
    | with_reducible assumption
    | intro _
    | with_reducible apply State.useSa_kept
    | split

theorem State.saSend_kept (k0 : State) (s : State) (b p : Nat) (hk : Kept k0 s) : Kept k0 (State.saSend s b p) := by
  unfold State.saSend
  try dsimp only
  repeat' first
    | with_reducible assumption
    | intro _
    | simp only [Kept.update]
    | with_reducible apply State.raiseOwned_kept
    | with_reducible apply State.setSaState_kept
    | with_reducible apply State.setSaPn_kept
    | with_reducible apply State.incEnt64_kept
    | with_reducible apply State.autoNext_kept
    | split

theorem State.secyOut_kept (k0 : State) (s : State) (b p etype : Nat) (hk : Kept k0 s) : Kept k0 (State.secyOut s b p etype).2 := by
  unfold State.secyOut
  try dsimp only
  repeat' first
    | with_reducible assumption
    | intro _
    | with_reducible apply State.raiseOwned_kept
    | with_reducible apply State.setSaState_kept
    | with_reducible apply State.incEnt64_kept
    | with_reducible apply State.autoNext_kept
    | with_reducible apply State.saSend_kept
    | split

theorem execMacsecTxFrame_kept (k0 : State) (b : Fin 48) (p : Fin 8) (etype : BitVec 16) (s : State) (hk : Kept k0 s) : ∀ z, execMacsecTxFrame b p etype s = .next z → Kept k0 z := by
  intro z e
  unfold execMacsecTxFrame at e
  injection e with e
  rw [← e]
  try dsimp only
  repeat' first
    | with_reducible assumption
    | intro _
    | simp only [Kept.update]
    | with_reducible apply State.emit_kept
    | with_reducible apply State.lpiEnd_kept
    | with_reducible apply State.secyOut_kept
    | split
    | with_reducible refine Kept.snd (by assumption) ?_
    | with_reducible refine Kept.third (by assumption) ?_
    | with_reducible refine Kept.last (by assumption) ?_
    | with_reducible refine Kept.fst (by assumption) ?_

theorem State.macsecRx_kept (k0 : State) (s : State) (b p : Nat) (m : MacsecIn) (hk : Kept k0 s) : Kept k0 (State.macsecRx s b p m).2 := by
  unfold State.macsecRx
  try dsimp only
  repeat' first
    | with_reducible assumption
    | intro _
    | with_reducible apply State.setEntWords_kept
    | with_reducible apply State.incEnt64_kept
    | split

theorem State.secyIn_kept (k0 : State) (s : State) (b p etype : Nat) (m : Option MacsecIn) (hk : Kept k0 s) : Kept k0 (State.secyIn s b p etype m).2 := by
  unfold State.secyIn
  try dsimp only
  repeat' first
    | with_reducible assumption
    | intro _
    | simp only [Kept.update]
    | with_reducible apply State.macsecRx_kept
    | split
    | with_reducible refine Kept.snd (by assumption) ?_
    | with_reducible refine Kept.third (by assumption) ?_
    | with_reducible refine Kept.last (by assumption) ?_
    | with_reducible refine Kept.fst (by assumption) ?_

theorem secyWrite_kept (k0 : State) (b p : Nat) (d : List Word) (s : State) (hk : Kept k0 s) : Kept k0 (secyWrite b p d s).2 := by
  unfold secyWrite
  try dsimp only
  repeat' first
    | with_reducible assumption
    | intro _
    | with_reducible apply State.setEntF_kept
    | with_reducible apply State.setEntWords_kept
    | with_reducible apply State.setReason_kept
    | with_reducible apply State.clearReason_kept
    | with_reducible apply State.setSaState_kept
    | with_reducible apply State.useSa_kept
    | split

theorem txSaWrite_kept (k0 : State) (b ix : Nat) (d : List Word) (s : State) (hk : Kept k0 s) : Kept k0 (txSaWrite b ix d s).2 := by
  unfold txSaWrite
  try dsimp only
  repeat' first
    | with_reducible assumption
    | intro _
    | simp only [Kept.update]
    | with_reducible apply State.setEntWords_kept
    | with_reducible apply State.raiseOwned_kept
    | with_reducible apply State.setReason_kept
    | with_reducible apply State.clearReason_kept
    | with_reducible apply State.bindNode_kept
    | split

theorem rxSaWrite_kept (k0 : State) (b ix : Nat) (d : List Word) (s : State) (hk : Kept k0 s) : Kept k0 (rxSaWrite b ix d s).2 := by
  unfold rxSaWrite
  try dsimp only
  repeat' first
    | with_reducible assumption
    | intro _
    | with_reducible apply State.setEnt_kept
    | with_reducible apply State.setEntWords_kept
    | with_reducible apply State.setReason_kept
    | with_reducible apply State.clearReason_kept
    | split

theorem State.saDead_kept (k0 : State) (s : State) (b ix : Nat) (hk : Kept k0 s) : Kept k0 (State.saDead s b ix) := by
  unfold State.saDead
  try dsimp only
  repeat' first
    | with_reducible assumption
    | intro _
    | with_reducible apply State.raiseOwned_kept
    | with_reducible apply State.setSaState_kept
    | with_reducible apply State.autoNext_kept
    | split

theorem State.buryNodes_kept (k0 : State) (s : State) (hs : List Nat) (hk : Kept k0 s) : Kept k0 (State.buryNodes s hs) := by
  unfold State.buryNodes
  try dsimp only
  repeat' first
    | with_reducible assumption
    | intro _
    | with_reducible apply State.setEnt_kept
    | with_reducible apply State.saDead_kept
    | with_reducible apply Kept.forEach

theorem execZeroingDone_kept (k0 : State) (s : State) (hk : Kept k0 s) : ∀ z, execZeroingDone s = .next z → Kept k0 z := by
  intro z e
  unfold execZeroingDone at e
  injection e with e
  rw [← e]
  try dsimp only
  repeat' first
    | with_reducible assumption
    | intro _
    | with_reducible apply State.setEntWords_kept
    | with_reducible apply State.buryNodes_kept
    | with_reducible apply Kept.forEach

theorem portTableWrite_kept (k0 : State) (b sel idx : Nat) (d : List Word) (fed : Nat → Bool) (s : State) (hk : Kept k0 s) : Kept k0 (portTableWrite b sel idx d fed s).2 := by
  unfold portTableWrite
  try dsimp only
  repeat' first
    | with_reducible assumption
    | intro _
    | simp only [Kept.update]
    | with_reducible apply State.setEnt_kept
    | with_reducible apply State.setEntWords_kept
    | with_reducible apply State.setReason_kept
    | with_reducible apply State.clearReason_kept
    | with_reducible apply mapWrite_kept
    | with_reducible apply secyWrite_kept
    | with_reducible apply txSaWrite_kept
    | with_reducible apply rxSaWrite_kept
    | split
    | with_reducible refine Kept.snd (by assumption) ?_
    | with_reducible refine Kept.third (by assumption) ?_
    | with_reducible refine Kept.last (by assumption) ?_
    | with_reducible refine Kept.fst (by assumption) ?_

theorem portSnap_kept (k0 : State) (b : Nat) (s : State) (hk : Kept k0 s) : Kept k0 (portSnap b s) := by
  unfold portSnap
  try dsimp only
  repeat' first
    | with_reducible assumption
    | intro _
    | with_reducible apply State.snap_kept
    | with_reducible apply State.snapEnt_kept
    | with_reducible apply Kept.forEach

end Sys2Proof.Machine
end

