-- ==== Sys2Proof/Laws/Kept/TxQ.lean ====
section
/-!
SUPPORT. Laws/Kept/TxQ.lean: each operation of Machine/TxQ.lean keeps what Laws/Kept.lean names.
-/
set_option linter.unusedSimpArgs false
set_option linter.unusedVariables false
set_option linter.unusedTactic false
set_option linter.unreachableTactic false

namespace Sys2Proof.Machine

theorem State.setPort_kept (k0 : State) (s : State) (k : Nat) (t : TxPort) (hk : Kept k0 s) : Kept k0 (State.setPort s k t) := by
  unfold State.setPort
  try dsimp only
  repeat' first
    | with_reducible assumption
    | intro _
    | simp only [Kept.update]

theorem State.mapFlight_kept (k0 : State) (s : State) (q : Nat) (tags : List Word) (f : Flight → Flight) (hk : Kept k0 s) : Kept k0 (State.mapFlight s q tags f) := by
  unfold State.mapFlight
  try dsimp only
  repeat' first
    | with_reducible assumption
    | intro _
    | simp only [Kept.update]
    | with_reducible apply State.setQrec_kept
    | split

theorem State.endHost_kept (k0 : State) (s : State) (q : Nat) (tags : List Word) (status : Nat) (stamp : Option (BitVec 96)) (hk : Kept k0 s) : Kept k0 (State.endHost s q tags status stamp) := by
  unfold State.endHost
  try dsimp only
  repeat' first
    | with_reducible assumption
    | intro _
    | simp only [Kept.update]
    | with_reducible apply State.mapFlight_kept
    | split

theorem State.enqueue_kept (k0 : State) (s : State) (k cls : Nat) (f : TxFrame) (hk : Kept k0 s) : Kept k0 (State.enqueue s k cls f).2 := by
  unfold State.enqueue
  try dsimp only
  repeat' first
    | with_reducible assumption
    | intro _
    | simp only [Kept.update]
    | with_reducible apply State.setPort_kept
    | split
    | with_reducible refine Kept.snd (by assumption) ?_
    | with_reducible refine Kept.third (by assumption) ?_
    | with_reducible refine Kept.last (by assumption) ?_
    | with_reducible refine Kept.fst (by assumption) ?_

theorem State.wakePort_kept (k0 : State) (s : State) (b p : Nat) (hk : Kept k0 s) : Kept k0 (State.wakePort s b p) := by
  unfold State.wakePort
  try dsimp only
  repeat' first
    | with_reducible assumption
    | intro _
    | simp only [Kept.update]
    | with_reducible apply State.lpiEnd_kept
    | with_reducible apply State.setPort_kept
    | split

theorem State.flowCount64_kept (k0 : State) (s : State) (eo slot k w n : Nat) (hk : Kept k0 s) : Kept k0 (State.flowCount64 s eo slot k w n) := by
  unfold State.flowCount64
  try dsimp only
  repeat' first
    | with_reducible assumption
    | intro _
    | with_reducible apply State.incEnt64_kept

theorem State.txGo_kept (k0 : State) (s : State) (b p : Nat) (stamp : Option (BitVec 96)) (f : TxFrame) (hk : Kept k0 s) : Kept k0 (State.txGo s b p stamp f) := by
  unfold State.txGo
  try dsimp only
  repeat' first
    | with_reducible assumption
    | intro _
    | simp only [Kept.update]
    | with_reducible apply State.emit_kept
    | with_reducible apply State.endHost_kept
    | with_reducible apply State.flowCount64_kept
    | split
    | with_reducible refine Kept.snd (by assumption) ?_
    | with_reducible refine Kept.third (by assumption) ?_
    | with_reducible refine Kept.last (by assumption) ?_
    | with_reducible refine Kept.fst (by assumption) ?_

theorem State.txLost_kept (k0 : State) (s : State) (f : TxFrame) (hk : Kept k0 s) : Kept k0 (State.txLost s f) := by
  unfold State.txLost
  try dsimp only
  repeat' first
    | with_reducible assumption
    | intro _
    | simp only [Kept.update]
    | with_reducible apply State.endHost_kept
    | split
    | with_reducible refine Kept.snd (by assumption) ?_
    | with_reducible refine Kept.third (by assumption) ?_
    | with_reducible refine Kept.last (by assumption) ?_
    | with_reducible refine Kept.fst (by assumption) ?_

theorem State.txServe_kept (k0 s : State) (b p fuel : Nat) (hk : Kept k0 s) : Kept k0 (State.txServe s b p fuel) := by
  induction fuel with
  | zero => exact hk
  | succ fuel ih =>
    unfold State.txServe
    revert ih
    generalize State.txServe s b p fuel = s'
    intro ih
    dsimp only
    repeat' first
      | with_reducible assumption
      | with_reducible apply State.txGo_kept
      | with_reducible apply State.txLost_kept
      | with_reducible apply State.emit_kept
      | with_reducible refine Kept.snd (by assumption) ?_
      | with_reducible apply State.secyOut_kept
      | with_reducible apply State.setPort_kept
      | split

theorem State.txRun_kept (k0 : State) (s : State) (b p : Nat) (hk : Kept k0 s) : Kept k0 (State.txRun s b p) := by
  unfold State.txRun
  try dsimp only
  repeat' first
    | with_reducible assumption
    | intro _
    | with_reducible apply State.txServe_kept
    | split

theorem State.txOffer_kept (k0 : State) (s : State) (b p stream cls : Nat) (f : TxFrame) (hk : Kept k0 s) : Kept k0 (State.txOffer s b p stream cls f).2 := by
  unfold State.txOffer
  try dsimp only
  repeat' first
    | with_reducible assumption
    | intro _
    | with_reducible apply State.enqueue_kept
    | with_reducible apply State.wakePort_kept
    | with_reducible apply State.txRun_kept
    | split
    | with_reducible refine Kept.snd (by assumption) ?_
    | with_reducible refine Kept.third (by assumption) ?_
    | with_reducible refine Kept.last (by assumption) ?_
    | with_reducible refine Kept.fst (by assumption) ?_

theorem State.giveChain_kept (k0 : State) (s : State) (q : Nat) (chain : List Flight) (hk : Kept k0 s) : Kept k0 (State.giveChain s q chain) := by
  unfold State.giveChain
  try dsimp only
  repeat' first
    | with_reducible assumption
    | intro _
    | simp only [Kept.update]
    | with_reducible apply State.mapFlight_kept
    | with_reducible apply State.endHost_kept
    | with_reducible apply State.txOffer_kept
    | split
    | with_reducible refine Kept.snd (by assumption) ?_
    | with_reducible refine Kept.third (by assumption) ?_
    | with_reducible refine Kept.last (by assumption) ?_
    | with_reducible refine Kept.fst (by assumption) ?_

theorem State.giveQueue_kept (k0 : State) (s : State) (q : Nat) (hk : Kept k0 s) : Kept k0 (State.giveQueue s q) := by
  unfold State.giveQueue
  try dsimp only
  repeat' first
    | with_reducible assumption
    | intro _
    | simp only [Kept.update]
    | with_reducible apply State.giveChain_kept
    | with_reducible apply Kept.forEach
    | split
    | with_reducible refine Kept.snd (by assumption) ?_
    | with_reducible refine Kept.third (by assumption) ?_
    | with_reducible refine Kept.last (by assumption) ?_
    | with_reducible refine Kept.fst (by assumption) ?_

theorem State.fillAllot_kept (k0 s : State) (b stream fuel n : Nat) (acc : List Nat) (hk : Kept k0 s) :
    Kept k0 (State.fillAllot s b stream fuel n acc).2 := by
  induction fuel generalizing s n acc with
  | zero => unfold State.fillAllot; exact hk
  | succ fuel ih =>
    cases n with
    | zero => unfold State.fillAllot; exact hk
    | succ n =>
      unfold State.fillAllot
      dsimp only
      repeat' first
        | with_reducible assumption
        | with_reducible apply ih
        | with_reducible apply State.txGo_kept
        | with_reducible apply State.setPort_kept
        | split

theorem State.packetAllot_kept (k0 : State) (s : State) (b : Nat) (st : Stream) (hk : Kept k0 s) : Kept k0 (State.packetAllot s b st).2 := by
  unfold State.packetAllot
  try dsimp only
  repeat' first
    | with_reducible assumption
    | intro _
    | simp only [Kept.update]
    | with_reducible apply State.setPort_kept
    | with_reducible apply State.fillAllot_kept
    | with_reducible apply Kept.foldl
    | with_reducible apply Kept.foldl_fst
    | with_reducible apply Kept.foldl_snd
    | split
    | with_reducible refine Kept.snd (by assumption) ?_
    | with_reducible refine Kept.third (by assumption) ?_
    | with_reducible refine Kept.last (by assumption) ?_
    | with_reducible refine Kept.fst (by assumption) ?_

theorem State.txBeat_kept (k0 : State) (s : State) (hk : Kept k0 s) : Kept k0 (State.txBeat s) := by
  unfold State.txBeat
  try dsimp only
  repeat' first
    | with_reducible assumption
    | intro _
    | with_reducible apply State.txRun_kept
    | with_reducible apply Kept.forEach

theorem State.takeQ2_kept (k0 : State) (s : State) (b p : Nat) (hk : Kept k0 s) : Kept k0 (State.takeQ2 s b p).2 := by
  unfold State.takeQ2
  try dsimp only
  repeat' first
    | with_reducible assumption
    | intro _
    | simp only [Kept.update]
    | with_reducible apply State.setPort_kept
    | with_reducible apply Kept.forEach

end Sys2Proof.Machine
end

