-- ==== Sys2Proof/Laws/Kept/Ptp.lean ====
section
/-!
SUPPORT. Laws/Kept/Ptp.lean: each operation of Machine/Ptp.lean keeps what Laws/Kept.lean names.
-/
set_option linter.unusedSimpArgs false
set_option linter.unusedVariables false
set_option linter.unusedTactic false
set_option linter.unreachableTactic false

namespace Sys2Proof.Machine

theorem State.ptpUnmatched_kept (k0 : State) (s : State) (hk : Kept k0 s) : Kept k0 (State.ptpUnmatched s) := by
  unfold State.ptpUnmatched
  try dsimp only
  repeat' first
    | with_reducible assumption
    | intro _
    | with_reducible apply State.inc_kept
    | with_reducible apply State.raise_kept

theorem State.ptpForward_kept (k0 : State) (s : State) (ingress corr : Nat) (m : PtpMsg) (e : Nat) (hk : Kept k0 s) : Kept k0 (State.ptpForward s ingress corr m e) := by
  unfold State.ptpForward
  try dsimp only
  repeat' first
    | with_reducible assumption
    | intro _
    | with_reducible apply State.txOffer_kept
    | split

theorem State.ptpSteer_kept (k0 : State) (s : State) (m : PtpMsg) (hk : Kept k0 s) : Kept k0 (State.ptpSteer s m) := by
  unfold State.ptpSteer
  try dsimp only
  repeat' first
    | with_reducible assumption
    | intro _
    | simp only [Kept.update]
    | with_reducible apply State.emit_kept
    | with_reducible apply State.event_kept
    | with_reducible apply State.ptpUnmatched_kept
    | with_reducible apply State.ptpForward_kept
    | with_reducible apply Kept.forEach
    | with_reducible apply Kept.foldl
    | with_reducible apply Kept.foldl_fst
    | with_reducible apply Kept.foldl_snd
    | split
    | with_reducible refine Kept.snd (by assumption) ?_
    | with_reducible refine Kept.third (by assumption) ?_
    | with_reducible refine Kept.last (by assumption) ?_
    | with_reducible refine Kept.fst (by assumption) ?_

theorem execPtpMessageReceive_kept (k0 : State) (m : PtpMsg) (s : State) (hk : Kept k0 s) : ∀ z, execPtpMessageReceive m s = .next z → Kept k0 z := by
  intro z e
  unfold execPtpMessageReceive at e
  injection e with e
  rw [← e]
  try dsimp only
  repeat' first
    | with_reducible assumption
    | intro _
    | with_reducible apply State.secyIn_kept
    | with_reducible apply State.ptpSteer_kept
    | split
    | with_reducible refine Kept.snd (by assumption) ?_
    | with_reducible refine Kept.third (by assumption) ?_
    | with_reducible refine Kept.last (by assumption) ?_
    | with_reducible refine Kept.fst (by assumption) ?_

end Sys2Proof.Machine
end

