-- ==== Sys2Proof/Laws/Kept/Ingress.lean ====
section
/-!
SUPPORT. Laws/Kept/Ingress.lean: each operation of Machine/Ingress.lean keeps what Laws/Kept.lean names.
-/
set_option linter.unusedSimpArgs false
set_option linter.unusedVariables false
set_option linter.unusedTactic false
set_option linter.unreachableTactic false

namespace Sys2Proof.Machine

theorem State.setIngSt_kept (k0 : State) (s : State) (ei w : Nat) (v : Word) (hk : Kept k0 s) : Kept k0 (State.setIngSt s ei w v) := by
  unfold State.setIngSt
  try dsimp only
  repeat' first
    | with_reducible assumption
    | intro _
    | with_reducible apply State.setEnt_kept

theorem State.countIng_kept (k0 : State) (s : State) (ei w n : Nat) (hk : Kept k0 s) : Kept k0 (State.countIng s ei w n) := by
  unfold State.countIng
  try dsimp only
  repeat' first
    | with_reducible assumption
    | intro _
    | with_reducible apply State.setIngSt_kept

theorem State.setPadState_kept (k0 : State) (s : State) (ei v : Nat) (hk : Kept k0 s) : Kept k0 (State.setPadState s ei v) := by
  unfold State.setPadState
  try dsimp only
  repeat' first
    | with_reducible assumption
    | intro _
    | with_reducible apply State.setIngSt_kept

theorem State.setPad_kept (k0 : State) (s : State) (ei : Nat) (r : PadRec) (hk : Kept k0 s) : Kept k0 (State.setPad s ei r) := by
  unfold State.setPad
  try dsimp only
  repeat' first
    | with_reducible assumption
    | intro _
    | simp only [Kept.update]

theorem State.ingEvent_kept (k0 : State) (s : State) (ei b : Nat) (hk : Kept k0 s) : Kept k0 (State.ingEvent s ei b) := by
  unfold State.ingEvent
  try dsimp only
  repeat' first
    | with_reducible assumption
    | intro _
    | with_reducible apply State.raise_kept

theorem State.dropGroup_kept (k0 : State) (s : State) (x : Nat) (hk : Kept k0 s) : Kept k0 (State.dropGroup s x) := by
  unfold State.dropGroup
  try dsimp only
  repeat' first
    | with_reducible assumption
    | intro _
    | with_reducible apply State.dropDue_kept
    | with_reducible apply Kept.forEach

theorem State.dropPad_kept (k0 : State) (s : State) (ei : Nat) (hk : Kept k0 s) : Kept k0 (State.dropPad s ei) := by
  unfold State.dropPad
  try dsimp only
  repeat' first
    | with_reducible assumption
    | intro _
    | simp only [Kept.update]
    | with_reducible apply State.setPad_kept
    | with_reducible apply State.dropGroup_kept

theorem State.refreshPad_kept (k0 : State) (s : State) (ei : Nat) (hk : Kept k0 s) : Kept k0 (State.refreshPad s ei) := by
  unfold State.refreshPad
  try dsimp only
  repeat' first
    | with_reducible assumption
    | intro _
    | simp only [Kept.update]
    | with_reducible apply State.setPadState_kept
    | with_reducible apply State.setPad_kept
    | with_reducible apply State.dropPad_kept
    | split

theorem State.newDesc_kept (k0 : State) (s : State) (ei slot : Nat) (hk : Kept k0 s) : Kept k0 (State.newDesc s ei slot) := by
  unfold State.newDesc
  try dsimp only
  repeat' first
    | with_reducible assumption
    | intro _
    | simp only [Kept.update]
    | with_reducible apply State.setPadState_kept
    | with_reducible apply State.setPad_kept
    | with_reducible apply State.dropGroup_kept
    | with_reducible apply State.refreshPad_kept
    | split

theorem State.reacquire_kept (k0 : State) (s : State) (tb : Nat) (hk : Kept k0 s) : Kept k0 (State.reacquire s tb) := by
  unfold State.reacquire
  try dsimp only
  repeat' first
    | with_reducible assumption
    | intro _
    | with_reducible apply State.setPadState_kept
    | with_reducible apply State.dropPad_kept
    | with_reducible apply Kept.forEach

theorem State.noteLatency_kept (k0 : State) (s : State) (ei : Nat) (l : Int) (hk : Kept k0 s) : Kept k0 (State.noteLatency s ei l) := by
  unfold State.noteLatency
  try dsimp only
  repeat' first
    | with_reducible assumption
    | intro _
    | simp only [Kept.update]
    | with_reducible apply State.setIngSt_kept
    | with_reducible apply State.setPad_kept
    | split

theorem State.setFs_kept (k0 : State) (s : State) (f : Nat) (r : FsRec) (hk : Kept k0 s) : Kept k0 (State.setFs s f r) := by
  unfold State.setFs
  try dsimp only
  repeat' first
    | with_reducible assumption
    | intro _
    | simp only [Kept.update]

theorem State.fsTake_kept (k0 : State) (s : State) (f : Nat) (d : Desc) (us : List PadUnit) (hk : Kept k0 s) : Kept k0 (State.fsTake s f d us) := by
  unfold State.fsTake
  try dsimp only
  repeat' first
    | with_reducible assumption
    | intro _
    | simp only [Kept.update]
    | with_reducible apply State.setFs_kept
    | with_reducible apply Kept.foldl
    | with_reducible apply Kept.foldl_fst
    | with_reducible apply Kept.foldl_snd
    | split
    | with_reducible refine Kept.snd (by assumption) ?_
    | with_reducible refine Kept.third (by assumption) ?_
    | with_reducible refine Kept.last (by assumption) ?_
    | with_reducible refine Kept.fst (by assumption) ?_

theorem State.presentGroup_kept (k0 : State) (s : State) (x n slot start : Nat) (rows : List (Nat × Nat × FWord)) (hk : Kept k0 s) : Kept k0 (State.presentGroup s x n slot start rows) := by
  unfold State.presentGroup
  try dsimp only
  repeat' first
    | with_reducible assumption
    | intro _
    | with_reducible apply State.present_kept
    | with_reducible apply Kept.forEach
    | split

theorem State.dropUnsent_kept (k0 : State) (s : State) (ei slot : Nat) (hk : Kept k0 s) : Kept k0 (State.dropUnsent s ei slot) := by
  unfold State.dropUnsent
  try dsimp only
  repeat' first
    | with_reducible assumption
    | intro _
    | simp only [Kept.update]
    | with_reducible apply State.countIng_kept
    | with_reducible apply Kept.forEach
    | split

theorem State.presentAudio_kept (k0 : State) (s : State) (ei slot : Nat) (d : Desc) (u : Int) (us : List PadUnit) (hk : Kept k0 s) : Kept k0 (State.presentAudio s ei slot d u us) := by
  unfold State.presentAudio
  try dsimp only
  repeat' first
    | with_reducible assumption
    | intro _
    | with_reducible apply State.audGive_kept
    | with_reducible apply State.audLine_kept
    | with_reducible apply Kept.forEach
    | split

theorem State.presentUnit_kept (k0 : State) (s : State) (ei slot : Nat) (u : Int) (us : List PadUnit) (begins : Bool) (start : Nat) (hk : Kept k0 s) : Kept k0 (State.presentUnit s ei slot u us begins start).1 := by
  unfold State.presentUnit
  try dsimp only
  repeat' first
    | with_reducible assumption
    | intro _
    | with_reducible apply State.presentGroup_kept
    | with_reducible apply State.presentAudio_kept
    | with_reducible apply Kept.foldl
    | with_reducible apply Kept.foldl_fst
    | with_reducible apply Kept.foldl_snd
    | split

theorem State.presentGrid_kept (k0 : State) (s : State) (ei : Nat) (hk : Kept k0 s) : Kept k0 (State.presentGrid s ei) := by
  unfold State.presentGrid
  try dsimp only
  repeat' first
    | with_reducible assumption
    | intro _
    | simp only [Kept.update]
    | with_reducible apply State.setPad_kept
    | with_reducible apply State.dropUnsent_kept
    | with_reducible apply State.presentUnit_kept
    | with_reducible apply Kept.foldl
    | with_reducible apply Kept.foldl_fst
    | with_reducible apply Kept.foldl_snd
    | split
    | with_reducible refine Kept.snd (by assumption) ?_
    | with_reducible refine Kept.third (by assumption) ?_
    | with_reducible refine Kept.last (by assumption) ?_
    | with_reducible refine Kept.fst (by assumption) ?_

theorem State.passMarkers_kept (k0 : State) (s : State) (ei slot : Nat) (u : Int) (hk : Kept k0 s) : Kept k0 (State.passMarkers s ei slot u) := by
  unfold State.passMarkers
  try dsimp only
  repeat' first
    | with_reducible assumption
    | intro _
    | simp only [Kept.update]
    | with_reducible apply State.presentUnit_kept
    | with_reducible apply Kept.forEach
    | split
    | with_reducible refine Kept.snd (by assumption) ?_
    | with_reducible refine Kept.third (by assumption) ?_
    | with_reducible refine Kept.last (by assumption) ?_
    | with_reducible refine Kept.fst (by assumption) ?_

theorem State.presentPass_kept (k0 : State) (s : State) (ei : Nat) (hk : Kept k0 s) : Kept k0 (State.presentPass s ei) := by
  unfold State.presentPass
  try dsimp only
  repeat' first
    | with_reducible assumption
    | intro _
    | simp only [Kept.update]
    | with_reducible apply State.setPad_kept
    | with_reducible apply State.presentUnit_kept
    | with_reducible apply State.passMarkers_kept
    | split
    | with_reducible refine Kept.snd (by assumption) ?_
    | with_reducible refine Kept.third (by assumption) ?_
    | with_reducible refine Kept.last (by assumption) ?_
    | with_reducible refine Kept.fst (by assumption) ?_

theorem execUnitPresent_kept (k0 : State) (ei : Fin 4096) (s : State) (hk : Kept k0 s) : ∀ z, execUnitPresent ei s = .next z → Kept k0 z := by
  intro z e
  unfold execUnitPresent at e
  injection e with e
  rw [← e]
  try dsimp only
  repeat' first
    | with_reducible assumption
    | intro _
    | with_reducible apply State.presentGrid_kept
    | with_reducible apply State.presentPass_kept
    | split

theorem State.lateUnit_kept (k0 : State) (s : State) (ei : Nat) (d : Desc) (hk : Kept k0 s) : Kept k0 (State.lateUnit s ei d) := by
  unfold State.lateUnit
  try dsimp only
  repeat' first
    | with_reducible assumption
    | intro _
    | simp only [Kept.update]
    | with_reducible apply State.countIng_kept
    | with_reducible apply State.setPad_kept
    | with_reducible apply State.ingEvent_kept
    | split

theorem State.earlyWords_kept (k0 : State) (s : State) (ei n : Nat) (d : Desc) (hk : Kept k0 s) : Kept k0 (State.earlyWords s ei n d) := by
  unfold State.earlyWords
  try dsimp only
  repeat' first
    | with_reducible assumption
    | intro _
    | simp only [Kept.update]
    | with_reducible apply State.countIng_kept
    | with_reducible apply State.setPad_kept
    | with_reducible apply State.ingEvent_kept
    | split

theorem State.police_kept (k0 : State) (s : State) (ei slot n : Nat) (hk : Kept k0 s) : Kept k0 (State.police s ei slot n).2 := by
  unfold State.police
  try dsimp only
  repeat' first
    | with_reducible assumption
    | intro _
    | simp only [Kept.update]
    | with_reducible apply State.setPad_kept
    | split
    | with_reducible refine Kept.snd (by assumption) ?_
    | with_reducible refine Kept.third (by assumption) ?_
    | with_reducible refine Kept.last (by assumption) ?_
    | with_reducible refine Kept.fst (by assumption) ?_

theorem State.storeUnit_kept (k0 : State) (s : State) (ei : Nat) (starts : Bool) (u : PadUnit) (hk : Kept k0 s) : Kept k0 (State.storeUnit s ei starts u) := by
  unfold State.storeUnit
  try dsimp only
  repeat' first
    | with_reducible assumption
    | intro _
    | simp only [Kept.update]
    | with_reducible apply State.setIngSt_kept
    | with_reducible apply State.setPad_kept
    | with_reducible apply State.lateUnit_kept
    | with_reducible apply State.earlyWords_kept
    | split
    | with_reducible refine Kept.snd (by assumption) ?_
    | with_reducible refine Kept.third (by assumption) ?_
    | with_reducible refine Kept.last (by assumption) ?_
    | with_reducible refine Kept.fst (by assumption) ?_

theorem State.acquire_kept (k0 : State) (s : State) (ei slot : Nat) (u : Int) (hk : Kept k0 s) : Kept k0 (State.acquire s ei slot u) := by
  unfold State.acquire
  try dsimp only
  repeat' first
    | with_reducible assumption
    | intro _
    | simp only [Kept.update]
    | with_reducible apply State.setPadState_kept
    | with_reducible apply State.setPad_kept
    | with_reducible apply Kept.foldl
    | with_reducible apply Kept.foldl_fst
    | with_reducible apply Kept.foldl_snd
    | split

theorem State.takeUnit_kept (k0 : State) (s : State) (ei slot : Nat) (bad : Bool) (u : PadUnit) (hk : Kept k0 s) : Kept k0 (State.takeUnit s ei slot bad u) := by
  unfold State.takeUnit
  try dsimp only
  repeat' first
    | with_reducible assumption
    | intro _
    | simp only [Kept.update]
    | with_reducible apply State.countIng_kept
    | with_reducible apply State.setPad_kept
    | with_reducible apply State.noteLatency_kept
    | with_reducible apply State.fsTake_kept
    | with_reducible apply State.storeUnit_kept
    | with_reducible apply State.acquire_kept
    | split
    | with_reducible refine Kept.snd (by assumption) ?_
    | with_reducible refine Kept.third (by assumption) ?_
    | with_reducible refine Kept.last (by assumption) ?_
    | with_reducible refine Kept.fst (by assumption) ?_

theorem State.deliverBody_kept (k0 : State) (s : State) (ei slot : Nat) (byArrival whole ends : Bool) (rtp : Word) (body : Payload) (hk : Kept k0 s) : Kept k0 (State.deliverBody s ei slot byArrival whole ends rtp body).2 := by
  unfold State.deliverBody
  try dsimp only
  repeat' first
    | with_reducible assumption
    | intro _
    | simp only [Kept.update]
    | with_reducible apply State.setPad_kept
    | with_reducible apply State.ingEvent_kept
    | with_reducible apply State.police_kept
    | with_reducible apply State.takeUnit_kept
    | with_reducible apply Kept.foldl
    | with_reducible apply Kept.foldl_fst
    | with_reducible apply Kept.foldl_snd
    | split
    | with_reducible refine Kept.snd (by assumption) ?_
    | with_reducible refine Kept.third (by assumption) ?_
    | with_reducible refine Kept.last (by assumption) ?_
    | with_reducible refine Kept.fst (by assumption) ?_

theorem State.flowAdd64_kept (k0 : State) (s : State) (sl idx w n : Nat) (hk : Kept k0 s) : Kept k0 (State.flowAdd64 s sl idx w n) := by
  unfold State.flowAdd64
  try dsimp only
  repeat' first
    | with_reducible assumption
    | intro _
    | with_reducible apply State.setEntWords_kept

theorem State.flowAdd_kept (k0 : State) (s : State) (sl idx w n : Nat) (hk : Kept k0 s) : Kept k0 (State.flowAdd s sl idx w n) := by
  unfold State.flowAdd
  try dsimp only
  repeat' first
    | with_reducible assumption
    | intro _
    | with_reducible apply State.setEnt_kept

theorem State.flowGap_kept (k0 : State) (s : State) (sl idx parse : Nat) (k : Packet) (hk : Kept k0 s) : Kept k0 (State.flowGap s sl idx parse k) := by
  unfold State.flowGap
  try dsimp only
  repeat' first
    | with_reducible assumption
    | intro _
    | simp only [Kept.update]
    | with_reducible apply State.flowAdd_kept
    | split
    | with_reducible refine Kept.snd (by assumption) ?_
    | with_reducible refine Kept.third (by assumption) ?_
    | with_reducible refine Kept.last (by assumption) ?_
    | with_reducible refine Kept.fst (by assumption) ?_

theorem State.setMerge_kept (k0 : State) (s : State) (ei slot : Nat) (r : MergeRec) (hk : Kept k0 s) : Kept k0 (State.setMerge s ei slot r) := by
  unfold State.setMerge
  try dsimp only
  repeat' first
    | with_reducible assumption
    | intro _
    | simp only [Kept.update]

theorem State.setMergeEnt_kept (k0 : State) (s : State) (ei slot w : Nat) (v : Word) (hk : Kept k0 s) : Kept k0 (State.setMergeEnt s ei slot w v) := by
  unfold State.setMergeEnt
  try dsimp only
  repeat' first
    | with_reducible assumption
    | intro _
    | with_reducible apply State.setEnt_kept

theorem State.mergeCount_kept (k0 : State) (s : State) (ei slot w : Nat) (hk : Kept k0 s) : Kept k0 (State.mergeCount s ei slot w) := by
  unfold State.mergeCount
  try dsimp only
  repeat' first
    | with_reducible assumption
    | intro _
    | with_reducible apply State.setMergeEnt_kept

theorem State.noteSkew_kept (k0 : State) (s : State) (ei slot n : Nat) (planeB : Bool) (lin : Nat) (hk : Kept k0 s) : Kept k0 (State.noteSkew s ei slot n planeB lin) := by
  unfold State.noteSkew
  try dsimp only
  repeat' first
    | with_reducible assumption
    | intro _
    | simp only [Kept.update]
    | with_reducible apply State.ingEvent_kept
    | with_reducible apply State.setMerge_kept
    | with_reducible apply State.setMergeEnt_kept
    | split
    | with_reducible refine Kept.snd (by assumption) ?_
    | with_reducible refine Kept.third (by assumption) ?_
    | with_reducible refine Kept.last (by assumption) ?_
    | with_reducible refine Kept.fst (by assumption) ?_

theorem State.planeUp_kept (k0 : State) (s : State) (ei slot : Nat) (planeB : Bool) (hk : Kept k0 s) : Kept k0 (State.planeUp s ei slot planeB) := by
  unfold State.planeUp
  try dsimp only
  repeat' first
    | with_reducible assumption
    | intro _
    | simp only [Kept.update]
    | with_reducible apply State.setMerge_kept
    | with_reducible apply State.setMergeEnt_kept
    | with_reducible apply State.mergeCount_kept
    | split

theorem State.mergeTake_kept (k0 : State) (s : State) (ei slot parse : Nat) (planeB : Bool) (k : Packet) (hk : Kept k0 s) :
    Kept k0 (State.mergeTake s ei slot parse planeB k).2 := by
  unfold State.mergeTake
  extract_lets r n h off s1 h2 taken
  have h1 : Kept k0 s1 := State.mergeCount_kept _ _ _ _ _ (State.mergeCount_kept _ _ _ _ _ hk)
  split
  · exact State.mergeCount_kept _ _ _ _ _ hk
  · split
    · split
      · exact State.setMerge_kept _ _ _ _ _ (State.setMergeEnt_kept _ _ _ _ _ _ h1)
      · exact State.mergeCount_kept _ _ _ _ _ hk
    · exact State.mergeCount_kept _ _ _ _ _ (State.setMerge_kept _ _ _ _ _ hk)

theorem execMergePlaneDown_kept (k0 : State) (ei : Fin 4096) (slot : Fin 16) (planeB : Bool) (s : State) (hk : Kept k0 s) : ∀ z, execMergePlaneDown ei slot planeB s = .next z → Kept k0 z := by
  intro z e
  unfold execMergePlaneDown at e
  injection e with e
  rw [← e]
  try dsimp only
  repeat' first
    | with_reducible assumption
    | intro _
    | simp only [Kept.update]
    | with_reducible apply State.ingEvent_kept
    | with_reducible apply State.setMergeEnt_kept
    | split
    | with_reducible refine Kept.snd (by assumption) ?_
    | with_reducible refine Kept.third (by assumption) ?_
    | with_reducible refine Kept.last (by assumption) ?_
    | with_reducible refine Kept.fst (by assumption) ?_

theorem State.flowTake_kept (k0 : State) (s : State) (sl idx : Nat) (w0 : Word) (k : Packet) (hk : Kept k0 s) : Kept k0 (State.flowTake s sl idx w0 k) := by
  unfold State.flowTake
  try dsimp only
  repeat' first
    | with_reducible assumption
    | intro _
    | with_reducible apply State.deliverBody_kept
    | with_reducible apply State.flowAdd_kept
    | with_reducible apply State.planeUp_kept
    | with_reducible apply State.mergeTake_kept
    | split
    | with_reducible refine Kept.snd (by assumption) ?_
    | with_reducible refine Kept.third (by assumption) ?_
    | with_reducible refine Kept.last (by assumption) ?_
    | with_reducible refine Kept.fst (by assumption) ?_

theorem State.flowArrive_kept (k0 : State) (s : State) (sl idx : Nat) (k : Packet) (hk : Kept k0 s) : Kept k0 (State.flowArrive s sl idx k) := by
  unfold State.flowArrive
  try dsimp only
  repeat' first
    | with_reducible assumption
    | intro _
    | simp only [Kept.update]
    | with_reducible apply State.setEntWords_kept
    | with_reducible apply State.setPad_kept
    | with_reducible apply State.ingEvent_kept
    | with_reducible apply State.flowAdd64_kept
    | with_reducible apply State.flowAdd_kept
    | with_reducible apply State.flowGap_kept
    | with_reducible apply State.noteSkew_kept
    | with_reducible apply State.flowTake_kept
    | split

theorem State.longBeat_kept (k0 : State) (s : State) (hk : Kept k0 s) : Kept k0 (State.longBeat s) := by
  unfold State.longBeat
  try dsimp only
  repeat' first
    | with_reducible assumption
    | intro _
    | simp only [Kept.update]
    | with_reducible apply State.setPad_kept
    | with_reducible apply State.flowTake_kept
    | with_reducible apply Kept.forEach

theorem State.unmatched_kept (k0 : State) (s : State) (k : Packet) (hk : Kept k0 s) : Kept k0 (State.unmatched s k) := by
  unfold State.unmatched
  try dsimp only
  repeat' first
    | with_reducible assumption
    | intro _
    | simp only [Kept.update]
    | with_reducible apply State.emit_kept
    | with_reducible apply State.raise_kept
    | with_reducible apply State.ptpUnmatched_kept
    | with_reducible apply State.ptpSteer_kept
    | split
    | with_reducible refine Kept.snd (by assumption) ?_
    | with_reducible refine Kept.third (by assumption) ?_
    | with_reducible refine Kept.last (by assumption) ?_
    | with_reducible refine Kept.fst (by assumption) ?_

theorem execPacketArrive_kept (k0 : State) (k : Packet) (s : State) (hk : Kept k0 s) : ∀ z, execPacketArrive k s = .next z → Kept k0 z := by
  intro z e
  unfold execPacketArrive at e
  injection e with e
  rw [← e]
  try dsimp only
  repeat' first
    | with_reducible assumption
    | intro _
    | simp only [Kept.update]
    | with_reducible apply State.secyIn_kept
    | with_reducible apply State.flowArrive_kept
    | with_reducible apply State.unmatched_kept
    | split
    | with_reducible refine Kept.snd (by assumption) ?_
    | with_reducible refine Kept.third (by assumption) ?_
    | with_reducible refine Kept.last (by assumption) ?_
    | with_reducible refine Kept.fst (by assumption) ?_

theorem execHostUnitLaunch_kept (k0 : State) (q : Fin 64) (body : Payload) (s : State) (hk : Kept k0 s) : ∀ z, execHostUnitLaunch q body s = .next z → Kept k0 z := by
  intro z e
  unfold execHostUnitLaunch at e
  injection e with e
  rw [← e]
  try dsimp only
  repeat' first
    | with_reducible assumption
    | intro _
    | simp only [Kept.update]
    | with_reducible apply State.setQrec_kept
    | with_reducible apply State.deliverBody_kept
    | split
    | with_reducible refine Kept.snd (by assumption) ?_
    | with_reducible refine Kept.third (by assumption) ?_
    | with_reducible refine Kept.last (by assumption) ?_
    | with_reducible refine Kept.fst (by assumption) ?_

theorem State.trsLost_kept (k0 : State) (s : State) (ei : Nat) (hk : Kept k0 s) : Kept k0 (State.trsLost s ei) := by
  unfold State.trsLost
  try dsimp only
  repeat' first
    | with_reducible assumption
    | intro _
    | simp only [Kept.update]
    | with_reducible apply State.setIngSt_kept
    | with_reducible apply State.setPad_kept
    | with_reducible apply State.ingEvent_kept
    | with_reducible apply State.dropGroup_kept

theorem State.trsFrame_kept (k0 : State) (s : State) (ei : Nat) (ok : Bool) (hk : Kept k0 s) : Kept k0 (State.trsFrame s ei ok) := by
  unfold State.trsFrame
  try dsimp only
  repeat' first
    | with_reducible assumption
    | intro _
    | simp only [Kept.update]
    | with_reducible apply State.setIngSt_kept
    | with_reducible apply State.setPad_kept
    | with_reducible apply State.trsLost_kept
    | split

theorem State.extractAnc_kept (k0 : State) (s : State) (ei : Nat) (l : List AncPacket) (hk : Kept k0 s) : Kept k0 (State.extractAnc s ei l) := by
  unfold State.extractAnc
  try dsimp only
  repeat' first
    | with_reducible assumption
    | intro _
    | simp only [Kept.update]
    | with_reducible apply State.setPad_kept
    | with_reducible apply State.deliverBody_kept
    | split

theorem State.extractNone_kept (k0 : State) (s : State) (ei : Nat) (hk : Kept k0 s) : Kept k0 (State.extractNone s ei) := by
  unfold State.extractNone
  try dsimp only
  repeat' first
    | with_reducible assumption
    | intro _
    | with_reducible apply State.deliverBody_kept
    | split

theorem execSdiEav_kept (k0 : State) (ei : Fin 4096) (e : Eav) (s : State) (hk : Kept k0 s) : ∀ z, execSdiEav ei e s = .next z → Kept k0 z := by
  intro z e
  unfold execSdiEav at e
  injection e with e
  rw [← e]
  try dsimp only
  repeat' first
    | with_reducible assumption
    | intro _
    | simp only [Kept.update]
    | with_reducible apply State.setIngSt_kept
    | with_reducible apply State.countIng_kept
    | with_reducible apply State.setPad_kept
    | with_reducible apply State.takeUnit_kept
    | with_reducible apply State.trsFrame_kept
    | with_reducible apply State.extractAnc_kept
    | with_reducible apply State.extractNone_kept
    | split
    | with_reducible refine Kept.snd (by assumption) ?_
    | with_reducible refine Kept.third (by assumption) ?_
    | with_reducible refine Kept.last (by assumption) ?_
    | with_reducible refine Kept.fst (by assumption) ?_

theorem execTrsTimeout_kept (k0 : State) (ei : Fin 4096) (s : State) (hk : Kept k0 s) : ∀ z, execTrsTimeout ei s = .next z → Kept k0 z := by
  intro z e
  unfold execTrsTimeout at e
  injection e with e
  rw [← e]
  try dsimp only
  repeat' first
    | with_reducible assumption
    | intro _
    | simp only [Kept.update]
    | with_reducible apply State.setPad_kept
    | with_reducible apply State.trsLost_kept
    | split

theorem State.recut_kept (k0 : State) (s : State) (sl k : Nat) (hk : Kept k0 s) : Kept k0 (State.recut s sl k) := by
  unfold State.recut
  try dsimp only
  repeat' first
    | with_reducible assumption
    | intro _
    | with_reducible apply State.refreshPad_kept
    | with_reducible apply Kept.forEach

theorem writeCut_kept (k0 : State) (p sl k : Nat) (d : Word) (s : State) (hk : Kept k0 s) : Kept k0 (writeCut p sl k d s) := by
  unfold writeCut
  try dsimp only
  repeat' first
    | with_reducible assumption
    | intro _
    | with_reducible apply State.wr_kept
    | with_reducible apply State.recut_kept

theorem writeCutClr_kept (k0 : State) (p sl k : Nat) (d : Word) (s : State) (hk : Kept k0 s) : Kept k0 (writeCutClr p sl k d s) := by
  unfold writeCutClr
  try dsimp only
  repeat' first
    | with_reducible assumption
    | intro _
    | with_reducible apply State.wr_kept
    | with_reducible apply State.recut_kept

theorem execIngCut_kept (k0 : State) (t : Tag) (sl : Fin 16) (k : Fin 8) (d : Word) (s : State) (hk : Kept k0 s) : ∀ z, execIngCut t sl k d s = .next z → Kept k0 z := by
  intro z e
  unfold execIngCut at e
  injection e with e
  rw [← e]
  try dsimp only
  repeat' first
    | with_reducible assumption
    | intro _
    | with_reducible apply hostWrite_kept
    | with_reducible apply writeCut_kept

theorem execIngCutClr_kept (k0 : State) (t : Tag) (sl : Fin 16) (k : Fin 8) (d : Word) (s : State) (hk : Kept k0 s) : ∀ z, execIngCutClr t sl k d s = .next z → Kept k0 z := by
  intro z e
  unfold execIngCutClr at e
  injection e with e
  rw [← e]
  try dsimp only
  repeat' first
    | with_reducible assumption
    | intro _
    | with_reducible apply hostWrite_kept
    | with_reducible apply writeCutClr_kept

theorem State.cutOwner_kept (k0 : State) (s : State) (ei old new : Nat) (hk : Kept k0 s) : Kept k0 (State.cutOwner s ei old new) := by
  unfold State.cutOwner
  try dsimp only
  repeat' first
    | with_reducible assumption
    | intro _
    | with_reducible apply State.wrF_kept
    | with_reducible apply State.refreshPad_kept
    | split

theorem writePadD_kept (k0 : State) (bank sl n : Nat) (d : Word) (inUse : Nat → Bool) (s : State) (hk : Kept k0 s) : Kept k0 (writePadD bank sl n d inUse s) := by
  unfold writePadD
  try dsimp only
  repeat' first
    | with_reducible assumption
    | intro _
    | with_reducible apply State.wr_kept
    | with_reducible apply State.setReason_kept
    | with_reducible apply State.clearReason_kept
    | with_reducible apply State.reacquire_kept
    | split

theorem writeIngCfg_kept (k0 : State) (sl : Nat) (d : Word) (s : State) (hk : Kept k0 s) : Kept k0 (writeIngCfg sl d s) := by
  unfold writeIngCfg
  try dsimp only
  repeat' first
    | with_reducible assumption
    | intro _
    | with_reducible apply State.wr_kept
    | split

theorem State.ingSnap_kept (k0 : State) (s : State) (sl : Nat) (hk : Kept k0 s) : Kept k0 (State.ingSnap s sl) := by
  unfold State.ingSnap
  try dsimp only
  repeat' first
    | with_reducible assumption
    | intro _
    | simp only [Kept.update]
    | with_reducible apply State.snapTable_kept
    | split

end Sys2Proof.Machine
end

