-- ==== Sys2Proof/Laws/Kept/Mem.lean ====
section
/-!
SUPPORT. Laws/Kept/Mem.lean: each operation of Machine/Mem.lean keeps what Laws/Kept.lean names.
-/
set_option linter.unusedSimpArgs false
set_option linter.unusedVariables false
set_option linter.unusedTactic false
set_option linter.unreachableTactic false

namespace Sys2Proof.Machine

theorem State.memPut_kept (u s : State) (a n v : Nat) (h : Kept u s) : Kept u (s.memPut a n v) := by
  induction n generalizing s a v with
  | zero => exact h
  | succ n ih => exact ih _ _ _ (State.setByte_kept u s _ _ h)

end Sys2Proof.Machine
end

