-- ==== Sys2Proof/Laws/Kept/Take.lean ====
section
/-!
SUPPORT. Laws/Kept/Take.lean: each operation of Machine/Take.lean keeps what Laws/Kept.lean names.
-/
set_option linter.unusedSimpArgs false
set_option linter.unusedVariables false
set_option linter.unusedTactic false
set_option linter.unreachableTactic false

namespace Sys2Proof.Machine

theorem State.setTx_kept (k0 : State) (s : State) (t : Tx) (hk : Kept k0 s) : Kept k0 (State.setTx s t) := by
  unfold State.setTx
  try dsimp only
  repeat' first
    | with_reducible assumption
    | intro _
    | simp only [Kept.update]
    | split

theorem State.takeEvent_kept (k0 : State) (s : State) (b p : Nat) (hk : Kept k0 s) : Kept k0 (State.takeEvent s b p) := by
  unfold State.takeEvent
  try dsimp only
  repeat' first
    | with_reducible assumption
    | intro _
    | with_reducible apply State.raise_kept

theorem State.notice_kept (k0 : State) (s : State) (p code count : Nat) (tag : Word) (mark : Dword) (dest byPart : Nat) (byTag : Word) (hk : Kept k0 s) : Kept k0 (State.notice s p code count tag mark dest byPart byTag) := by
  unfold State.notice
  try dsimp only
  repeat' first
    | with_reducible assumption
    | intro _
    | with_reducible apply State.inc_kept
    | with_reducible apply State.setEntWords_kept
    | with_reducible apply State.cause_kept
    | with_reducible apply State.takeEvent_kept
    | split

theorem State.txNotice_kept (k0 : State) (s : State) (t : Tx) (code : Nat) (mark : Dword) (hk : Kept k0 s) : Kept k0 (State.txNotice s t code mark) := by
  unfold State.txNotice
  try dsimp only
  repeat' first
    | with_reducible assumption
    | intro _
    | with_reducible apply State.notice_kept

theorem State.outcome_kept (k0 : State) (s : State) (p i : Nat) (hk : Kept k0 s) : Kept k0 (State.outcome s p i) := by
  unfold State.outcome
  try dsimp only
  repeat' first
    | with_reducible assumption
    | intro _
    | with_reducible apply State.inc_kept

theorem State.setUsed_kept (k0 : State) (s : State) (p n : Nat) (hk : Kept k0 s) : Kept k0 (State.setUsed s p n) := by
  unfold State.setUsed
  try dsimp only
  repeat' first
    | with_reducible assumption
    | intro _
    | with_reducible apply State.wr_kept
    | with_reducible apply State.setEnt_kept

theorem State.finish_kept (k0 : State) (s : State) (t : Tx) (state : Nat) (hk : Kept k0 s) : Kept k0 (State.finish s t state) := by
  unfold State.finish
  try dsimp only
  repeat' first
    | with_reducible assumption
    | intro _
    | simp only [Kept.update]
    | with_reducible apply State.tryAgain_kept
    | with_reducible apply State.setUsed_kept
    | with_reducible apply State.nextMark_kept
    | split

theorem State.endRemoval_kept (k0 : State) (s : State) (t : Tx) (hk : Kept k0 s) : Kept k0 (State.endRemoval s t) := by
  unfold State.endRemoval
  try dsimp only
  repeat' first
    | with_reducible assumption
    | intro _
    | simp only [Kept.update]
    | split
    | with_reducible refine Kept.snd (by assumption) ?_
    | with_reducible refine Kept.third (by assumption) ?_
    | with_reducible refine Kept.last (by assumption) ?_
    | with_reducible refine Kept.fst (by assumption) ?_

theorem State.clearGrants_kept (k0 : State) (s : State) (hk : Kept k0 s) : Kept k0 (State.clearGrants s) := by
  unfold State.clearGrants
  try dsimp only
  repeat' first
    | with_reducible assumption
    | intro _
    | simp only [Kept.update]
    | with_reducible apply State.setEntF_kept
    | with_reducible apply Kept.forEach

theorem State.checkDone_kept (k0 : State) (s : State) (x : TxId) (hk : Kept k0 s) : Kept k0 (State.checkDone s x) := by
  unfold State.checkDone
  try dsimp only
  repeat' first
    | with_reducible assumption
    | intro _
    | simp only [Kept.update]
    | with_reducible apply State.txNotice_kept
    | with_reducible apply State.outcome_kept
    | with_reducible apply State.finish_kept
    | with_reducible apply State.endRemoval_kept
    | split
    | with_reducible refine Kept.snd (by assumption) ?_
    | with_reducible refine Kept.third (by assumption) ?_
    | with_reducible refine Kept.last (by assumption) ?_
    | with_reducible refine Kept.fst (by assumption) ?_

theorem State.endEarly_kept (k0 : State) (s : State) (t : Tx) (state code : Nat) (hk : Kept k0 s) : Kept k0 (State.endEarly s t state code) := by
  unfold State.endEarly
  try dsimp only
  repeat' first
    | with_reducible assumption
    | intro _
    | simp only [Kept.update]
    | with_reducible apply State.takeEvent_kept
    | with_reducible apply State.txNotice_kept
    | with_reducible apply State.outcome_kept
    | with_reducible apply State.finish_kept
    | with_reducible apply State.endRemoval_kept
    | split
    | with_reducible refine Kept.snd (by assumption) ?_
    | with_reducible refine Kept.third (by assumption) ?_
    | with_reducible refine Kept.last (by assumption) ?_
    | with_reducible refine Kept.fst (by assumption) ?_

theorem State.openCounts_kept (k0 : State) (s : State) (t : Tx) (hk : Kept k0 s) : Kept k0 (State.openCounts s t).2 := by
  unfold State.openCounts
  try dsimp only
  repeat' first
    | with_reducible assumption
    | intro _
    | simp only [Kept.update]
    | with_reducible apply State.fresh_kept
    | split
    | with_reducible refine Kept.snd (by assumption) ?_
    | with_reducible refine Kept.third (by assumption) ?_
    | with_reducible refine Kept.last (by assumption) ?_
    | with_reducible refine Kept.fst (by assumption) ?_

theorem State.memberMark_kept (k0 : State) (s : State) (m : Member) (hk : Kept k0 s) : Kept k0 (State.memberMark s m).2 := by
  unfold State.memberMark
  try dsimp only
  repeat' first
    | with_reducible assumption
    | intro _
    | simp only [Kept.update]
    | with_reducible apply State.fresh_kept
    | split
    | with_reducible refine Kept.snd (by assumption) ?_
    | with_reducible refine Kept.third (by assumption) ?_
    | with_reducible refine Kept.last (by assumption) ?_
    | with_reducible refine Kept.fst (by assumption) ?_

theorem State.enlist_kept (k0 : State) (s : State) (t : Tx) (hk : Kept k0 s) : Kept k0 (State.enlist s t) := by
  unfold State.enlist
  try dsimp only
  repeat' first
    | with_reducible assumption
    | intro _
    | simp only [Kept.update]
    | with_reducible apply State.setUsed_kept
    | split

theorem State.cmdResult_kept (k0 : State) (s : State) (p op code entry : Nat) (tag : Word) (mark : Option Dword) (hk : Kept k0 s) : Kept k0 (State.cmdResult s p op code entry tag mark) := by
  unfold State.cmdResult
  try dsimp only
  repeat' first
    | with_reducible assumption
    | intro _
    | simp only [Kept.update]
    | with_reducible apply State.wr_kept
    | with_reducible apply State.wrF_kept
    | with_reducible apply State.wr64_kept
    | with_reducible apply State.takeEvent_kept
    | split
    | with_reducible refine Kept.snd (by assumption) ?_
    | with_reducible refine Kept.third (by assumption) ?_
    | with_reducible refine Kept.last (by assumption) ?_
    | with_reducible refine Kept.fst (by assumption) ?_

theorem State.acceptTx_kept (k0 : State) (s : State) (p op : Nat) (tag : Word) (es : List (Nat × Option Nat)) (cs : List Chosen) (hk : Kept k0 s) : Kept k0 (State.acceptTx s p op tag es cs) := by
  unfold State.acceptTx
  try dsimp only
  repeat' first
    | with_reducible assumption
    | intro _
    | with_reducible apply State.openCounts_kept
    | with_reducible apply State.enlist_kept
    | with_reducible apply State.cmdResult_kept

theorem takeSubmit_kept (k0 : State) (t : Tag) (op timing count : Nat) (s : State) (hk : Kept k0 s) : Kept k0 (takeSubmit t op timing count s) := by
  unfold takeSubmit
  try dsimp only
  repeat' first
    | with_reducible assumption
    | intro _
    | simp only [Kept.update]
    | with_reducible apply State.inc_kept
    | with_reducible apply State.cmdResult_kept
    | with_reducible apply State.acceptTx_kept
    | split
    | with_reducible refine Kept.snd (by assumption) ?_
    | with_reducible refine Kept.third (by assumption) ?_
    | with_reducible refine Kept.last (by assumption) ?_
    | with_reducible refine Kept.fst (by assumption) ?_

theorem State.strike1_kept (k0 : State) (s : State) (t : Tx) (hk : Kept k0 s) : Kept k0 (State.strike1 s t) := by
  unfold State.strike1
  try dsimp only
  repeat' first
    | with_reducible assumption
    | intro _
    | with_reducible apply State.takeEvent_kept
    | with_reducible apply State.txNotice_kept
    | with_reducible apply State.outcome_kept
    | with_reducible apply State.endEarly_kept
    | split

theorem takeStrike_kept (k0 : State) (t : Tag) (op : Nat) (s : State) (hk : Kept k0 s) : Kept k0 (takeStrike t op s) := by
  unfold takeStrike
  try dsimp only
  repeat' first
    | with_reducible assumption
    | intro _
    | with_reducible apply State.cmdResult_kept
    | with_reducible apply State.strike1_kept
    | with_reducible apply Kept.forEach
    | split

theorem State.clearStaging_kept (k0 s : State) (p : Option Nat) (hk : Kept k0 s) : Kept k0 (State.clearStaging s p) := by
  unfold State.clearStaging
  exact hk.keepTbl _ rfl rfl rfl rfl rfl rfl rfl

theorem writeTakeCmd_kept (k0 : State) (t : Tag) (d : Word) (s : State) (hk : Kept k0 s) : Kept k0 (writeTakeCmd t d s) := by
  unfold writeTakeCmd
  try dsimp only
  repeat' first
    | with_reducible assumption
    | intro _
    | with_reducible apply State.cmdResult_kept
    | with_reducible apply takeSubmit_kept
    | with_reducible apply takeStrike_kept
    | with_reducible apply State.clearStaging_kept
    | split

theorem takeCmd_kept (k0 : State) (t : Tag) (d : Word) (s : State) (hk : Kept k0 s) : Kept k0 (takeCmd t d s) := by
  unfold takeCmd
  try dsimp only
  repeat' first
    | with_reducible assumption
    | intro _
    | with_reducible apply hostWrite_kept
    | with_reducible apply writeTakeCmd_kept

theorem execCommit_kept (k0 : State) (t : Tag) (timing : BitVec 2) (count : BitVec 13) (s : State) (hk : Kept k0 s) : ∀ z, execCommit t timing count s = .next z → Kept k0 z := by
  intro z e
  unfold execCommit at e
  injection e with e
  rw [← e]
  try dsimp only
  repeat' first
    | with_reducible assumption
    | intro _
    | with_reducible apply takeCmd_kept

theorem execStrike_kept (k0 : State) (t : Tag) (s : State) (hk : Kept k0 s) : ∀ z, execStrike t s = .next z → Kept k0 z := by
  intro z e
  unfold execStrike at e
  injection e with e
  rw [← e]
  try dsimp only
  repeat' first
    | with_reducible assumption
    | intro _
    | with_reducible apply takeCmd_kept

theorem execStrikeFrom_kept (k0 : State) (t : Tag) (s : State) (hk : Kept k0 s) : ∀ z, execStrikeFrom t s = .next z → Kept k0 z := by
  intro z e
  unfold execStrikeFrom at e
  injection e with e
  rw [← e]
  try dsimp only
  repeat' first
    | with_reducible assumption
    | intro _
    | with_reducible apply takeCmd_kept

theorem execStop_kept (k0 : State) (t : Tag) (timing : BitVec 2) (count : BitVec 13) (s : State) (hk : Kept k0 s) : ∀ z, execStop t timing count s = .next z → Kept k0 z := by
  intro z e
  unfold execStop at e
  injection e with e
  rw [← e]
  try dsimp only
  repeat' first
    | with_reducible assumption
    | intro _
    | with_reducible apply takeCmd_kept

theorem execStopPart_kept (k0 : State) (t : Tag) (timing : BitVec 2) (s : State) (hk : Kept k0 s) : ∀ z, execStopPart t timing s = .next z → Kept k0 z := by
  intro z e
  unfold execStopPart at e
  injection e with e
  rw [← e]
  try dsimp only
  repeat' first
    | with_reducible assumption
    | intro _
    | with_reducible apply takeCmd_kept

theorem execClear_kept (k0 : State) (t : Tag) (s : State) (hk : Kept k0 s) : ∀ z, execClear t s = .next z → Kept k0 z := by
  intro z e
  unfold execClear at e
  injection e with e
  rw [← e]
  try dsimp only
  repeat' first
    | with_reducible assumption
    | intro _
    | with_reducible apply takeCmd_kept

theorem execRehearsalWindow_kept (k0 : State) (x : TxId) (s : State) (hk : Kept k0 s) : ∀ z, execRehearsalWindow x s = .next z → Kept k0 z := by
  intro z e
  unfold execRehearsalWindow at e
  injection e with e
  rw [← e]
  try dsimp only
  repeat' first
    | with_reducible assumption
    | intro _
    | simp only [Kept.update]
    | with_reducible apply State.setTx_kept
    | split
    | with_reducible refine Kept.snd (by assumption) ?_
    | with_reducible refine Kept.third (by assumption) ?_
    | with_reducible refine Kept.last (by assumption) ?_
    | with_reducible refine Kept.fst (by assumption) ?_

theorem execRehearsalDone_kept (k0 : State) (x : TxId) (plan : Option Plan) (s : State) (hk : Kept k0 s) : ∀ z, execRehearsalDone x plan s = .next z → Kept k0 z := by
  intro z e
  unfold execRehearsalDone at e
  injection e with e
  rw [← e]
  try dsimp only
  repeat' first
    | with_reducible assumption
    | intro _
    | simp only [Kept.update]
    | with_reducible apply State.setTx_kept
    | split
    | with_reducible refine Kept.snd (by assumption) ?_
    | with_reducible refine Kept.third (by assumption) ?_
    | with_reducible refine Kept.last (by assumption) ?_
    | with_reducible refine Kept.fst (by assumption) ?_

theorem State.rehearseAgain_kept (k0 : State) (s : State) (t : Tx) (hk : Kept k0 s) : Kept k0 (State.rehearseAgain s t) := by
  unfold State.rehearseAgain
  try dsimp only
  repeat' first
    | with_reducible assumption
    | intro _
    | simp only [Kept.update]
    | with_reducible apply State.setTx_kept

theorem execMoveCompare_kept (k0 : State) (id : Nat) (same : Bool) (s : State) (hk : Kept k0 s) : ∀ z, execMoveCompare id same s = .next z → Kept k0 z := by
  intro z e
  unfold execMoveCompare at e
  injection e with e
  rw [← e]
  try dsimp only
  repeat' first
    | with_reducible assumption
    | intro _
    | simp only [Kept.update]
    | with_reducible apply State.moveFail_kept
    | with_reducible apply State.rehearseAgain_kept
    | split
    | with_reducible refine Kept.snd (by assumption) ?_
    | with_reducible refine Kept.third (by assumption) ?_
    | with_reducible refine Kept.last (by assumption) ?_
    | with_reducible refine Kept.fst (by assumption) ?_

theorem State.supersede_kept (k0 : State) (s : State) (loser : TxId) (i : Nat) (winner : Tx) (hk : Kept k0 s) : Kept k0 (State.supersede s loser i winner) := by
  unfold State.supersede
  try dsimp only
  repeat' first
    | with_reducible assumption
    | intro _
    | simp only [Kept.update]
    | with_reducible apply State.setTx_kept
    | with_reducible apply State.takeEvent_kept
    | with_reducible apply State.notice_kept
    | with_reducible apply State.outcome_kept
    | with_reducible apply State.checkDone_kept
    | with_reducible apply State.memberMark_kept
    | split
    | with_reducible refine Kept.snd (by assumption) ?_
    | with_reducible refine Kept.third (by assumption) ?_
    | with_reducible refine Kept.last (by assumption) ?_
    | with_reducible refine Kept.fst (by assumption) ?_

theorem execArmGrant_kept (k0 : State) (x : TxId) (s : State) (hk : Kept k0 s) : ∀ z, execArmGrant x s = .next z → Kept k0 z := by
  intro z e
  unfold execArmGrant at e
  injection e with e
  rw [← e]
  try dsimp only
  repeat' first
    | with_reducible assumption
    | intro _
    | simp only [Kept.update]
    | with_reducible apply State.tryAgain_kept
    | with_reducible apply State.setTx_kept
    | with_reducible apply State.checkDone_kept
    | with_reducible apply State.endEarly_kept
    | with_reducible apply State.supersede_kept
    | with_reducible apply Kept.forEach
    | split
    | with_reducible refine Kept.snd (by assumption) ?_
    | with_reducible refine Kept.third (by assumption) ?_
    | with_reducible refine Kept.last (by assumption) ?_
    | with_reducible refine Kept.fst (by assumption) ?_

theorem State.settle_kept (k0 : State) (s : State) (v w : Swap) (hk : Kept k0 s) : Kept k0 (State.settle s v w) := by
  unfold State.settle
  try dsimp only
  repeat' first
    | with_reducible assumption
    | intro _
    | simp only [Kept.update]
    | with_reducible apply State.supersede_kept
    | split
    | with_reducible refine Kept.snd (by assumption) ?_
    | with_reducible refine Kept.third (by assumption) ?_
    | with_reducible refine Kept.last (by assumption) ?_
    | with_reducible refine Kept.fst (by assumption) ?_

theorem State.nextMark_kept (k0 : State) (s : State) (w : Swap) (hk : Kept k0 s) : Kept k0 (State.nextMark s w) := by
  unfold State.nextMark
  try dsimp only
  repeat' first
    | with_reducible assumption
    | intro _
    | simp only [Kept.update]
    | with_reducible apply State.setTx_kept
    | with_reducible apply State.takeEvent_kept
    | with_reducible apply State.notice_kept
    | with_reducible apply State.memberMark_kept
    | with_reducible apply State.settle_kept
    | with_reducible apply Kept.forEach
    | split
    | with_reducible refine Kept.snd (by assumption) ?_
    | with_reducible refine Kept.third (by assumption) ?_
    | with_reducible refine Kept.last (by assumption) ?_
    | with_reducible refine Kept.fst (by assumption) ?_

theorem State.swapBeat_kept (k0 : State) (s : State) (due : List Swap) (hk : Kept k0 s) : Kept k0 (State.swapBeat s due) := by
  unfold State.swapBeat
  try dsimp only
  repeat' first
    | with_reducible assumption
    | intro _
    | simp only [Kept.update]
    | with_reducible apply State.xptEvent_kept
    | with_reducible apply State.settle_kept
    | with_reducible apply State.nextMark_kept
    | with_reducible apply Kept.forEach
    | split

theorem execFabricSwap_kept (k0 : State) (s : State) (hk : Kept k0 s) : ∀ z, execFabricSwap s = .next z → Kept k0 z := by
  intro z e
  unfold execFabricSwap at e
  injection e with e
  rw [← e]
  try dsimp only
  repeat' first
    | with_reducible assumption
    | intro _
    | with_reducible apply State.swapStages_kept
    | with_reducible apply State.swapBeat_kept
    | split

theorem execAnyfmtSwap_kept (k0 : State) (x : TxId) (i : Nat) (s : State) (hk : Kept k0 s) : ∀ z, execAnyfmtSwap x i s = .next z → Kept k0 z := by
  intro z e
  unfold execAnyfmtSwap at e
  injection e with e
  rw [← e]
  try dsimp only
  repeat' first
    | with_reducible assumption
    | intro _
    | simp only [Kept.update]
    | with_reducible apply State.swapBeat_kept
    | split
    | with_reducible refine Kept.snd (by assumption) ?_
    | with_reducible refine Kept.third (by assumption) ?_
    | with_reducible refine Kept.last (by assumption) ?_
    | with_reducible refine Kept.fst (by assumption) ?_

theorem execNoSwp_kept (k0 : State) (x : TxId) (i : Nat) (s : State) (hk : Kept k0 s) : ∀ z, execNoSwp x i s = .next z → Kept k0 z := by
  intro z e
  unfold execNoSwp at e
  injection e with e
  rw [← e]
  try dsimp only
  repeat' first
    | with_reducible assumption
    | intro _
    | simp only [Kept.update]
    | with_reducible apply State.notice_kept
    | with_reducible apply State.swapBeat_kept
    | split
    | with_reducible refine Kept.snd (by assumption) ?_
    | with_reducible refine Kept.third (by assumption) ?_
    | with_reducible refine Kept.last (by assumption) ?_
    | with_reducible refine Kept.fst (by assumption) ?_

theorem State.writeRoute_kept (k0 : State) (s : State) (y : Nat) (p : Option Path) (tag : Word) (lin : Dword) (hk : Kept k0 s) : Kept k0 (State.writeRoute s y p tag lin) := by
  unfold State.writeRoute
  try dsimp only
  repeat' first
    | with_reducible assumption
    | intro _
    | simp only [Kept.update]
    | with_reducible apply State.setEntWords_kept
    | split
    | with_reducible refine Kept.snd (by assumption) ?_
    | with_reducible refine Kept.third (by assumption) ?_
    | with_reducible refine Kept.last (by assumption) ?_
    | with_reducible refine Kept.fst (by assumption) ?_

theorem State.commitCount_kept (k0 : State) (s : State) (m : Member) (w : Swap) (hk : Kept k0 s) : Kept k0 (State.commitCount s m w).2 := by
  unfold State.commitCount
  try dsimp only
  repeat' first
    | with_reducible assumption
    | intro _
    | with_reducible apply State.fresh_kept
    | split
    | with_reducible refine Kept.snd (by assumption) ?_
    | with_reducible refine Kept.third (by assumption) ?_
    | with_reducible refine Kept.last (by assumption) ?_
    | with_reducible refine Kept.fst (by assumption) ?_

theorem execMemberCommit_kept (k0 : State) (x : TxId) (i : Nat) (s : State) (hk : Kept k0 s) : ∀ z, execMemberCommit x i s = .next z → Kept k0 z := by
  intro z e
  unfold execMemberCommit at e
  injection e with e
  rw [← e]
  try dsimp only
  repeat' first
    | with_reducible assumption
    | intro _
    | simp only [Kept.update]
    | with_reducible apply State.evacDone_kept
    | with_reducible apply State.setTx_kept
    | with_reducible apply State.notice_kept
    | with_reducible apply State.checkDone_kept
    | with_reducible apply State.writeRoute_kept
    | with_reducible apply State.commitCount_kept
    | with_reducible apply Kept.forEach
    | split
    | with_reducible refine Kept.snd (by assumption) ?_
    | with_reducible refine Kept.third (by assumption) ?_
    | with_reducible refine Kept.last (by assumption) ?_
    | with_reducible refine Kept.fst (by assumption) ?_

theorem State.forceRemoval_kept (k0 : State) (s : State) (x p : Nat) (hk : Kept k0 s) : Kept k0 (State.forceRemoval s x p) := by
  unfold State.forceRemoval
  try dsimp only
  repeat' first
    | with_reducible assumption
    | intro _
    | simp only [Kept.update]
    | with_reducible apply State.setEntF_kept
    | with_reducible apply State.endEarly_kept
    | with_reducible apply State.enlist_kept
    | with_reducible apply Kept.forEach
    | split

theorem State.takeChipReset_kept (k0 : State) (s : State) (hk : Kept k0 s) : Kept k0 (State.takeChipReset s) := by
  unfold State.takeChipReset
  try dsimp only
  repeat' first
    | with_reducible assumption
    | intro _
    | simp only [Kept.update]

theorem State.takeWarm_kept (k0 : State) (s : State) (hk : Kept k0 s) : Kept k0 (State.takeWarm s) := by
  unfold State.takeWarm
  try dsimp only
  repeat' first
    | with_reducible assumption
    | intro _
    | simp only [Kept.update]
    | with_reducible apply State.clearStaging_kept

theorem State.takeReady_kept (k0 : State) (s : State) (hk : Kept k0 s) : Kept k0 (State.takeReady s) := by
  unfold State.takeReady
  try dsimp only
  repeat' first
    | with_reducible assumption
    | intro _
    | simp only [Kept.update]
    | with_reducible apply State.cause_kept

theorem State.takeBlockReset_kept (k0 : State) (s : State) (hk : Kept k0 s) : Kept k0 (State.takeBlockReset s) := by
  unfold State.takeBlockReset
  try dsimp only
  repeat' first
    | with_reducible assumption
    | intro _
    | with_reducible apply State.rehearseAgain_kept
    | with_reducible apply Kept.forEach

theorem State.reloadBeat_kept (k0 : State) (s : State) (hk : Kept k0 s) : Kept k0 (State.reloadBeat s) := by
  unfold State.reloadBeat
  try dsimp only
  repeat' first
    | with_reducible assumption
    | intro _
    | simp only [Kept.update]
    | with_reducible apply State.nextMark_kept
    | with_reducible apply Kept.forEach
    | split
    | with_reducible refine Kept.snd (by assumption) ?_
    | with_reducible refine Kept.third (by assumption) ?_
    | with_reducible refine Kept.last (by assumption) ?_
    | with_reducible refine Kept.fst (by assumption) ?_

theorem State.sliceReset_kept (k0 : State) (s : State) (_fs : Nat) (hk : Kept k0 s) : Kept k0 (State.sliceReset s _fs) := by
  unfold State.sliceReset
  try dsimp only
  repeat' first
    | with_reducible assumption
    | intro _
    | with_reducible apply State.rehearseAgain_kept
    | with_reducible apply State.reloadBeat_kept
    | with_reducible apply Kept.forEach

theorem State.takeBeat_kept (k0 : State) (s : State) (hk : Kept k0 s) : Kept k0 (State.takeBeat s) := by
  unfold State.takeBeat
  try dsimp only
  repeat' first
    | with_reducible assumption
    | intro _
    | simp only [Kept.update]
    | with_reducible apply State.clearGrants_kept
    | with_reducible apply State.reloadBeat_kept

theorem writeTakeCfg_kept (k0 : State) (d : Word) (s : State) (hk : Kept k0 s) : Kept k0 (writeTakeCfg d s) := by
  unfold writeTakeCfg
  try dsimp only
  repeat' first
    | with_reducible assumption
    | intro _
    | with_reducible apply State.wr_kept
    | with_reducible apply State.takeEvent_kept
    | split

theorem State.takeSnap_kept (k0 : State) (s : State) (p : Nat) (hk : Kept k0 s) : Kept k0 (State.takeSnap s p) := by
  unfold State.takeSnap
  try dsimp only
  repeat' first
    | with_reducible assumption
    | intro _
    | with_reducible apply State.snap_kept
    | with_reducible apply Kept.forEach

theorem takeTableWrite_kept (k0 : State) (t : Tag) (sel idx : Nat) (d : List Word) (s : State) (hk : Kept k0 s) : Kept k0 (takeTableWrite t sel idx d s).2 := by
  unfold takeTableWrite
  try dsimp only
  repeat' first
    | with_reducible assumption
    | intro _
    | simp only [Kept.update]
    | with_reducible apply State.wrF_kept
    | with_reducible apply State.setEnt_kept
    | split
    | with_reducible refine Kept.snd (by assumption) ?_
    | with_reducible refine Kept.third (by assumption) ?_
    | with_reducible refine Kept.last (by assumption) ?_
    | with_reducible refine Kept.fst (by assumption) ?_

end Sys2Proof.Machine
end

