-- ==== Sys2Proof/Laws/Kept/Reel.lean ====
section
/-!
SUPPORT. Laws/Kept/Reel.lean: each operation of Machine/Reel.lean keeps what Laws/Kept.lean names.
-/
set_option linter.unusedSimpArgs false
set_option linter.unusedVariables false
set_option linter.unusedTactic false
set_option linter.unreachableTactic false

namespace Sys2Proof.Machine

theorem State.charge_kept (k0 : State) (s : State) (u demand rate : Nat) (hk : Kept k0 s) : Kept k0 (State.charge s u demand rate) := by
  unfold State.charge
  try dsimp only
  repeat' first
    | with_reducible assumption
    | intro _
    | simp only [Kept.update]
    | with_reducible apply State.wr_kept

theorem State.reelRefuse_kept (k0 : State) (s : State) (t : Tag) (reason idx : Nat) (hk : Kept k0 s) : Kept k0 (State.reelRefuse s t reason idx).2 := by
  unfold State.reelRefuse
  try dsimp only
  repeat' first
    | with_reducible assumption
    | intro _
    | with_reducible apply State.setReason_kept

theorem State.reelAccept_kept (k0 : State) (s : State) (t : Tag) (hk : Kept k0 s) : Kept k0 (State.reelAccept s t).2 := by
  unfold State.reelAccept
  try dsimp only
  repeat' first
    | with_reducible assumption
    | intro _
    | with_reducible apply State.clearReason_kept

theorem State.dropSlot_kept (k0 : State) (s : State) (ei slot : Nat) (hk : Kept k0 s) : Kept k0 (State.dropSlot s ei slot) := by
  unfold State.dropSlot
  try dsimp only
  repeat' first
    | with_reducible assumption
    | intro _
    | simp only [Kept.update]
    | with_reducible apply Kept.forEach

theorem fsWrite_kept (k0 : State) (t : Tag) (f : Nat) (d : List Word) (s : State) (hk : Kept k0 s) : Kept k0 (fsWrite t f d s).2 := by
  unfold fsWrite
  try dsimp only
  repeat' first
    | with_reducible assumption
    | intro _
    | with_reducible apply State.setEntF_kept
    | with_reducible apply State.setEntWords_kept
    | with_reducible apply State.setFs_kept
    | with_reducible apply State.charge_kept
    | with_reducible apply State.reelRefuse_kept
    | with_reducible apply State.reelAccept_kept
    | with_reducible apply State.dropSlot_kept
    | split

theorem State.setRec_kept (k0 : State) (s : State) (r : Nat) (x : RecRec) (hk : Kept k0 s) : Kept k0 (State.setRec s r x) := by
  unfold State.setRec
  try dsimp only
  repeat' first
    | with_reducible assumption
    | intro _
    | simp only [Kept.update]
    | with_reducible apply State.setEntF_kept
    | split

theorem State.setPlay_kept (k0 : State) (s : State) (p : Nat) (x : PlayRec) (hk : Kept k0 s) : Kept k0 (State.setPlay s p x) := by
  unfold State.setPlay
  try dsimp only
  repeat' first
    | with_reducible assumption
    | intro _
    | simp only [Kept.update]
    | with_reducible apply State.setEntF_kept
    | split

theorem recWrite_kept (k0 : State) (t : Tag) (r : Nat) (d : List Word) (s : State) (hk : Kept k0 s) : Kept k0 (recWrite t r d s).2 := by
  unfold recWrite
  try dsimp only
  repeat' first
    | with_reducible assumption
    | intro _
    | with_reducible apply State.setEntWords_kept
    | with_reducible apply State.charge_kept
    | with_reducible apply State.reelRefuse_kept
    | with_reducible apply State.reelAccept_kept
    | with_reducible apply State.setRec_kept
    | split

theorem playWrite_kept (k0 : State) (t : Tag) (p : Nat) (d : List Word) (s : State) (hk : Kept k0 s) : Kept k0 (playWrite t p d s).2 := by
  unfold playWrite
  repeat' first
    | with_reducible assumption
    | intro _
    | with_reducible apply State.wrF_kept
    | with_reducible apply State.setEntWords_kept
    | with_reducible apply State.dropDue_kept
    | with_reducible apply State.descStatus_kept
    | with_reducible apply State.charge_kept
    | with_reducible apply State.reelRefuse_kept
    | with_reducible apply State.reelAccept_kept
    | with_reducible apply State.setPlay_kept
    | split
    | extract_lets

theorem reelTableWrite_kept (k0 : State) (t : Tag) (sel idx : Nat) (d : List Word) (s : State) (hk : Kept k0 s) : Kept k0 (reelTableWrite t sel idx d s).2 := by
  unfold reelTableWrite
  try dsimp only
  repeat' first
    | with_reducible assumption
    | intro _
    | simp only [Kept.update]
    | with_reducible apply State.setEnt_kept
    | with_reducible apply State.reelRefuse_kept
    | with_reducible apply State.reelAccept_kept
    | with_reducible apply fsWrite_kept
    | with_reducible apply recWrite_kept
    | with_reducible apply playWrite_kept
    | split
    | with_reducible refine Kept.snd (by assumption) ?_
    | with_reducible refine Kept.third (by assumption) ?_
    | with_reducible refine Kept.last (by assumption) ?_
    | with_reducible refine Kept.fst (by assumption) ?_

theorem State.reelEvent_kept (k0 : State) (s : State) (b u : Nat) (hk : Kept k0 s) : Kept k0 (State.reelEvent s b u) := by
  unfold State.reelEvent
  try dsimp only
  repeat' first
    | with_reducible assumption
    | intro _
    | with_reducible apply State.raise_kept

theorem State.fsCount_kept (k0 : State) (s : State) (f w n : Nat) (hk : Kept k0 s) : Kept k0 (State.fsCount s f w n) := by
  unfold State.fsCount
  try dsimp only
  repeat' first
    | with_reducible assumption
    | intro _
    | with_reducible apply State.setEnt_kept

theorem execFsFrameComplete_kept (k0 : State) (f : Fin 1024) (s : State) (hk : Kept k0 s) : ∀ z, execFsFrameComplete f s = .next z → Kept k0 z := by
  intro z e
  unfold execFsFrameComplete at e
  injection e with e
  rw [← e]
  try dsimp only
  repeat' first
    | with_reducible assumption
    | intro _
    | simp only [Kept.update]
    | with_reducible apply State.setFs_kept
    | with_reducible apply State.reelEvent_kept
    | with_reducible apply State.fsCount_kept
    | with_reducible apply Kept.forEach
    | split

theorem execFsDecision_kept (k0 : State) (f : Fin 1024) (s : State) (hk : Kept k0 s) : ∀ z, execFsDecision f s = .next z → Kept k0 z := by
  intro z e
  unfold execFsDecision at e
  injection e with e
  rw [← e]
  try dsimp only
  repeat' first
    | with_reducible assumption
    | intro _
    | exact trivial
    | with_reducible exact Kept.refl _
    | simp only [FolRes.keeps_done, FolRes.keeps_own, FolRes.keeps_exc, FolRes.keeps_illegal]
    | simp only [Kept.update]
    | with_reducible apply State.setEnt_kept
    | with_reducible apply State.setEntF_kept
    | with_reducible apply State.markDisc_kept
    | with_reducible apply State.setFs_kept
    | with_reducible apply State.reelEvent_kept
    | with_reducible apply State.fsCount_kept
    | with_reducible apply Kept.forEach
    | split
    | with_reducible refine Kept.snd (by assumption) ?_
    | with_reducible refine Kept.third (by assumption) ?_
    | with_reducible refine Kept.last (by assumption) ?_
    | with_reducible refine Kept.fst (by assumption) ?_

theorem State.ixClear_kept (k0 : State) (s : State) (seg i : Nat) (hk : Kept k0 s) : Kept k0 (State.ixClear s seg i) := by
  unfold State.ixClear
  try dsimp only
  repeat' first
    | with_reducible assumption
    | intro _
    | with_reducible apply State.memPut_kept

theorem State.ixWrite_kept (k0 : State) (s : State) (seg i lin off lines flags : Nat) (hk : Kept k0 s) : Kept k0 (State.ixWrite s seg i lin off lines flags) := by
  unfold State.ixWrite
  try dsimp only
  repeat' first
    | with_reducible assumption
    | intro _
    | with_reducible apply State.memPut_kept

theorem writeReelCmd_kept (k0 : State) (t : Tag) (d : Word) (s : State) (hk : Kept k0 s) : Kept k0 (writeReelCmd t d s) := by
  unfold writeReelCmd
  try dsimp only
  repeat' first
    | with_reducible assumption
    | intro _
    | simp only [Kept.update]
    | with_reducible apply State.wr_kept
    | with_reducible apply State.setRec_kept
    | with_reducible apply State.setPlay_kept
    | split

theorem reelCmd_kept (k0 : State) (t : Tag) (op port : Nat) (s : State) (hk : Kept k0 s) : Kept k0 (reelCmd t op port s) := by
  unfold reelCmd
  try dsimp only
  repeat' first
    | with_reducible assumption
    | intro _
    | with_reducible apply hostWrite_kept
    | with_reducible apply writeReelCmd_kept

theorem execRecStart_kept (k0 : State) (t : Tag) (port : BitVec 7) (s : State) (hk : Kept k0 s) : ∀ z, execRecStart t port s = .next z → Kept k0 z := by
  intro z e
  unfold execRecStart at e
  injection e with e
  rw [← e]
  try dsimp only
  repeat' first
    | with_reducible assumption
    | intro _
    | with_reducible apply reelCmd_kept

theorem execRecStop_kept (k0 : State) (t : Tag) (port : BitVec 7) (s : State) (hk : Kept k0 s) : ∀ z, execRecStop t port s = .next z → Kept k0 z := by
  intro z e
  unfold execRecStop at e
  injection e with e
  rw [← e]
  try dsimp only
  repeat' first
    | with_reducible assumption
    | intro _
    | with_reducible apply reelCmd_kept

theorem execPlay_kept (k0 : State) (t : Tag) (port : BitVec 7) (s : State) (hk : Kept k0 s) : ∀ z, execPlay t port s = .next z → Kept k0 z := by
  intro z e
  unfold execPlay at e
  injection e with e
  rw [← e]
  try dsimp only
  repeat' first
    | with_reducible assumption
    | intro _
    | with_reducible apply reelCmd_kept

theorem execPause_kept (k0 : State) (t : Tag) (port : BitVec 7) (s : State) (hk : Kept k0 s) : ∀ z, execPause t port s = .next z → Kept k0 z := by
  intro z e
  unfold execPause at e
  injection e with e
  rw [← e]
  try dsimp only
  repeat' first
    | with_reducible assumption
    | intro _
    | with_reducible apply reelCmd_kept

theorem execPlayoutStop_kept (k0 : State) (t : Tag) (port : BitVec 7) (s : State) (hk : Kept k0 s) : ∀ z, execPlayoutStop t port s = .next z → Kept k0 z := by
  intro z e
  unfold execPlayoutStop at e
  injection e with e
  rw [← e]
  try dsimp only
  repeat' first
    | with_reducible assumption
    | intro _
    | with_reducible apply reelCmd_kept

theorem State.recEffect_kept (k0 : State) (s : State) (r : Nat) (hk : Kept k0 s) : Kept k0 (State.recEffect s r) := by
  unfold State.recEffect
  try dsimp only
  repeat' first
    | with_reducible assumption
    | intro _
    | simp only [Kept.update]
    | with_reducible apply State.setRec_kept
    | with_reducible apply State.ixClear_kept
    | with_reducible apply Kept.forEach
    | split
    | with_reducible refine Kept.snd (by assumption) ?_
    | with_reducible refine Kept.third (by assumption) ?_
    | with_reducible refine Kept.last (by assumption) ?_
    | with_reducible refine Kept.fst (by assumption) ?_

theorem State.playEffect_kept (k0 : State) (s : State) (p : Nat) (hk : Kept k0 s) : Kept k0 (State.playEffect s p) := by
  unfold State.playEffect
  try dsimp only
  repeat' first
    | with_reducible assumption
    | intro _
    | simp only [Kept.update]
    | with_reducible apply State.setPlay_kept
    | split
    | with_reducible refine Kept.snd (by assumption) ?_
    | with_reducible refine Kept.third (by assumption) ?_
    | with_reducible refine Kept.last (by assumption) ?_
    | with_reducible refine Kept.fst (by assumption) ?_

theorem execReelCmdEffect_kept (k0 : State) (isPlay : Bool) (port : Fin 128) (s : State) (hk : Kept k0 s) : ∀ z, execReelCmdEffect isPlay port s = .next z → Kept k0 z := by
  intro z e
  unfold execReelCmdEffect at e
  injection e with e
  rw [← e]
  try dsimp only
  repeat' first
    | with_reducible assumption
    | intro _
    | with_reducible apply State.recEffect_kept
    | with_reducible apply State.playEffect_kept
    | split

theorem State.recordWord_kept (k0 : State) (s : State) (r : Nat) (w : FWord) (hk : Kept k0 s) : Kept k0 (State.recordWord s r w) := by
  unfold State.recordWord
  try dsimp only
  repeat' first
    | with_reducible assumption
    | intro _
    | exact trivial
    | with_reducible exact Kept.refl _
    | simp only [FolRes.keeps_done, FolRes.keeps_own, FolRes.keeps_exc, FolRes.keeps_illegal]
    | simp only [Kept.update]
    | with_reducible apply State.setRec_kept
    | split
    | with_reducible refine Kept.snd (by assumption) ?_
    | with_reducible refine Kept.third (by assumption) ?_
    | with_reducible refine Kept.last (by assumption) ?_
    | with_reducible refine Kept.fst (by assumption) ?_

theorem State.recordBeat_kept (k0 : State) (s : State) (hk : Kept k0 s) : Kept k0 (State.recordBeat s) := by
  unfold State.recordBeat
  try dsimp only
  repeat' first
    | with_reducible assumption
    | intro _
    | simp only [Kept.update]
    | with_reducible apply State.raise_kept
    | with_reducible apply State.recordWord_kept
    | with_reducible apply Kept.forEach
    | split
    | with_reducible refine Kept.snd (by assumption) ?_
    | with_reducible refine Kept.third (by assumption) ?_
    | with_reducible refine Kept.last (by assumption) ?_
    | with_reducible refine Kept.fst (by assumption) ?_

theorem State.writeLines_kept (k0 s : State) (seg base total a : Nat) (l : List Nat) (hk : Kept k0 s) :
    Kept k0 (s.writeLines seg base total a l) := by
  induction l generalizing s a with
  | nil => exact hk
  | cons v r ih =>
    unfold State.writeLines
    exact ih _ _ (State.memPut_kept k0 s _ _ _ hk)

theorem execRecordFrame_kept (k0 : State) (port : Fin 128) (s : State) (hk : Kept k0 s) : ∀ z, execRecordFrame port s = .next z → Kept k0 z := by
  intro z e
  unfold execRecordFrame at e
  injection e with e
  rw [← e]
  try dsimp only
  repeat' first
    | with_reducible assumption
    | intro _
    | exact trivial
    | with_reducible exact Kept.refl _
    | simp only [FolRes.keeps_done, FolRes.keeps_own, FolRes.keeps_exc, FolRes.keeps_illegal]
    | simp only [Kept.update]
    | with_reducible apply State.setEnt_kept
    | with_reducible apply State.setRec_kept
    | with_reducible apply State.ixClear_kept
    | with_reducible apply State.ixWrite_kept
    | with_reducible apply State.writeLines_kept
    | with_reducible apply Kept.forEach
    | split
    | with_reducible refine Kept.snd (by assumption) ?_
    | with_reducible refine Kept.third (by assumption) ?_
    | with_reducible refine Kept.last (by assumption) ?_
    | with_reducible refine Kept.fst (by assumption) ?_

theorem State.playDecide_kept (k0 : State) (s : State) (p : Nat) (hk : Kept k0 s) : Kept k0 (State.playDecide s p) := by
  unfold State.playDecide
  try dsimp only
  repeat' first
    | with_reducible assumption
    | intro _
    | simp only [Kept.update]
    | with_reducible apply State.setPlay_kept
    | split
    | with_reducible refine Kept.snd (by assumption) ?_
    | with_reducible refine Kept.third (by assumption) ?_
    | with_reducible refine Kept.last (by assumption) ?_
    | with_reducible refine Kept.fst (by assumption) ?_

theorem State.playBeat_kept (k0 : State) (s : State) (hk : Kept k0 s) : Kept k0 (State.playBeat s) := by
  unfold State.playBeat
  try dsimp only
  repeat' first
    | with_reducible assumption
    | intro _
    | with_reducible apply State.playDecide_kept
    | with_reducible apply Kept.forEach

theorem State.playCount_kept (k0 : State) (s : State) (p w : Nat) (hk : Kept k0 s) : Kept k0 (State.playCount s p w) := by
  unfold State.playCount
  try dsimp only
  repeat' first
    | with_reducible assumption
    | intro _
    | with_reducible apply State.setEnt_kept

theorem State.playShow_kept (k0 : State) (s : State) (p : Nat) (hk : Kept k0 s) : Kept k0 (State.playShow s p) := by
  unfold State.playShow
  try dsimp only
  repeat' first
    | with_reducible assumption
    | intro _
    | with_reducible apply State.present_kept

theorem State.playEntry_kept (k0 : State) (s : State) (p i : Nat) (k : Int) (hk : Kept k0 s) : Kept k0 (State.playEntry s p i k) := by
  unfold State.playEntry
  try dsimp only
  repeat' first
    | with_reducible assumption
    | intro _
    | simp only [Kept.update]
    | with_reducible apply State.setPlay_kept
    | with_reducible apply State.playCount_kept
    | with_reducible apply State.playShow_kept
    | split
    | with_reducible refine Kept.snd (by assumption) ?_
    | with_reducible refine Kept.third (by assumption) ?_
    | with_reducible refine Kept.last (by assumption) ?_
    | with_reducible refine Kept.fst (by assumption) ?_

theorem State.playEnd_kept (k0 : State) (s : State) (p : Nat) (k : Int) (hk : Kept k0 s) : Kept k0 (State.playEnd s p k) := by
  unfold State.playEnd
  try dsimp only
  repeat' first
    | with_reducible assumption
    | intro _
    | simp only [Kept.update]
    | with_reducible apply State.setPlay_kept
    | with_reducible apply State.playShow_kept
    | with_reducible apply State.playEntry_kept
    | split
    | with_reducible refine Kept.snd (by assumption) ?_
    | with_reducible refine Kept.third (by assumption) ?_
    | with_reducible refine Kept.last (by assumption) ?_
    | with_reducible refine Kept.fst (by assumption) ?_

theorem execPlayoutFrame_kept (k0 : State) (port : Fin 128) (s : State) (hk : Kept k0 s) : ∀ z, execPlayoutFrame port s = .next z → Kept k0 z := by
  intro z e
  unfold execPlayoutFrame at e
  injection e with e
  rw [← e]
  try dsimp only
  repeat' first
    | with_reducible assumption
    | intro _
    | simp only [Kept.update]
    | with_reducible apply State.setPlay_kept
    | with_reducible apply State.playEffect_kept
    | with_reducible apply State.playDecide_kept
    | with_reducible apply State.playCount_kept
    | with_reducible apply State.playShow_kept
    | with_reducible apply State.playEntry_kept
    | with_reducible apply State.playEnd_kept
    | split
    | with_reducible refine Kept.snd (by assumption) ?_
    | with_reducible refine Kept.third (by assumption) ?_
    | with_reducible refine Kept.last (by assumption) ?_
    | with_reducible refine Kept.fst (by assumption) ?_

theorem State.lateLine_kept (k0 : State) (s : State) (u : ReelUser) (hk : Kept k0 s) : Kept k0 (State.lateLine s u) := by
  unfold State.lateLine
  try dsimp only
  repeat' first
    | with_reducible assumption
    | intro _
    | simp only [Kept.update]
    | with_reducible apply State.setEnt_kept
    | with_reducible apply State.reelEvent_kept
    | split
    | with_reducible refine Kept.snd (by assumption) ?_
    | with_reducible refine Kept.third (by assumption) ?_
    | with_reducible refine Kept.last (by assumption) ?_
    | with_reducible refine Kept.fst (by assumption) ?_

theorem State.headLate_kept (k0 : State) (s : State) (h : Nat) (hk : Kept k0 s) : Kept k0 (State.headLate s h) := by
  unfold State.headLate
  try dsimp only
  repeat' first
    | with_reducible assumption
    | intro _
    | simp only [Kept.update]
    | split
    | with_reducible refine Kept.snd (by assumption) ?_
    | with_reducible refine Kept.third (by assumption) ?_
    | with_reducible refine Kept.last (by assumption) ?_
    | with_reducible refine Kept.fst (by assumption) ?_

theorem State.lateData_kept (k0 : State) (s : State) (u : ReelUser) (hk : Kept k0 s) : Kept k0 (State.lateData s u) := by
  unfold State.lateData
  try dsimp only
  repeat' first
    | with_reducible assumption
    | intro _
    | simp only [Kept.update]
    | with_reducible apply Kept.forEach
    | with_reducible apply Kept.foldl
    | with_reducible apply Kept.foldl_fst
    | with_reducible apply Kept.foldl_snd
    | split
    | with_reducible refine Kept.snd (by assumption) ?_
    | with_reducible refine Kept.third (by assumption) ?_
    | with_reducible refine Kept.last (by assumption) ?_
    | with_reducible refine Kept.fst (by assumption) ?_

theorem execHbmLineComplete_kept (k0 : State) (u : ReelUser) (late : Bool) (ecc : Fin 3) (s : State) (hk : Kept k0 s) : ∀ z, execHbmLineComplete u late ecc s = .next z → Kept k0 z := by
  intro z e
  unfold execHbmLineComplete at e
  injection e with e
  rw [← e]
  try dsimp only
  repeat' first
    | with_reducible assumption
    | intro _
    | simp only [Kept.update]
    | with_reducible apply State.inc_kept
    | with_reducible apply State.raise_kept
    | with_reducible apply State.lateLine_kept
    | with_reducible apply State.headLate_kept
    | with_reducible apply State.lateData_kept
    | split
    | with_reducible refine Kept.snd (by assumption) ?_
    | with_reducible refine Kept.third (by assumption) ?_
    | with_reducible refine Kept.last (by assumption) ?_
    | with_reducible refine Kept.fst (by assumption) ?_

theorem State.winOne_kept (k0 : State) (s : State) (t : Tag) (a bytes : Nat) (wr burst : Bool) (d : Nat) (hk : Kept k0 s) : Kept k0 (State.winOne s t a bytes wr burst d) := by
  unfold State.winOne
  repeat' first
    | with_reducible assumption
    | intro _
    | simp only [Kept.update]
    | with_reducible apply State.logErr_kept
    | with_reducible apply State.respond_kept
    | with_reducible apply State.memPut_kept
    | split
    | with_reducible refine Kept.snd (by assumption) ?_
    | with_reducible refine Kept.third (by assumption) ?_
    | with_reducible refine Kept.last (by assumption) ?_
    | with_reducible refine Kept.fst (by assumption) ?_
    | extract_lets

theorem State.winBurst_kept (k0 s : State) (t : Tag) (wr : Bool) (a : Nat) (l : List Word) (hk : Kept k0 s) :
    Kept k0 (s.winBurst t wr a l) := by
  induction l generalizing s a with
  | nil => exact hk
  | cons v r ih => exact ih _ _ (State.winOne_kept k0 s _ _ _ _ _ _ hk)

theorem hbmAccess_kept (k0 : State) (t : Tag) (a : Nat) (wr : Bool) (sh : Shape) (s : State) (hk : Kept k0 s) : Kept k0 (hbmAccess t a wr sh s) := by
  unfold hbmAccess
  try dsimp only
  repeat' first
    | with_reducible assumption
    | intro _
    | simp only [Kept.update]
    | with_reducible apply State.logErr_kept
    | with_reducible apply State.respond_kept
    | with_reducible apply State.noteDebug_kept
    | with_reducible apply State.winOne_kept
    | with_reducible apply State.winBurst_kept
    | split
    | with_reducible refine Kept.snd (by assumption) ?_
    | with_reducible refine Kept.third (by assumption) ?_
    | with_reducible refine Kept.last (by assumption) ?_
    | with_reducible refine Kept.fst (by assumption) ?_

theorem execHbmWindowAccess_kept (k0 : State) (t : Tag) (a : BitVec 24) (wr : Bool) (sh : Shape) (s : State) (hk : Kept k0 s) : ∀ z, execHbmWindowAccess t a wr sh s = .next z → Kept k0 z := by
  intro z e
  unfold execHbmWindowAccess at e
  injection e with e
  rw [← e]
  try dsimp only
  repeat' first
    | with_reducible assumption
    | intro _
    | with_reducible apply hbmAccess_kept

theorem State.setHbm_kept (k0 : State) (s : State) (h v : Nat) (hk : Kept k0 s) : Kept k0 (State.setHbm s h v) := by
  unfold State.setHbm
  try dsimp only
  repeat' first
    | with_reducible assumption
    | intro _
    | with_reducible apply State.wrF_kept

theorem execHbmTrained_kept (k0 : State) (h : Fin 4) (ok : Bool) (s : State) (hk : Kept k0 s) : ∀ z, execHbmTrained h ok s = .next z → Kept k0 z := by
  intro z e
  unfold execHbmTrained at e
  injection e with e
  rw [← e]
  try dsimp only
  repeat' first
    | with_reducible assumption
    | intro _
    | with_reducible apply State.wrF_kept
    | with_reducible apply State.raise_kept
    | with_reducible apply State.memClear_kept
    | with_reducible apply State.setHbm_kept
    | split

theorem execHbmFail_kept (k0 : State) (h : Fin 4) (throttled : Bool) (s : State) (hk : Kept k0 s) : ∀ z, execHbmFail h throttled s = .next z → Kept k0 z := by
  intro z e
  unfold execHbmFail at e
  injection e with e
  rw [← e]
  try dsimp only
  repeat' first
    | with_reducible assumption
    | intro _
    | with_reducible apply State.raise_kept
    | with_reducible apply State.setHbm_kept
    | split

theorem State.reelSnap_kept (k0 : State) (s : State) (p : Nat) (hk : Kept k0 s) : Kept k0 (State.reelSnap s p) := by
  unfold State.reelSnap
  try dsimp only
  repeat' first
    | with_reducible assumption
    | intro _
    | with_reducible apply State.snap_kept
    | with_reducible apply State.snapEnt_kept
    | with_reducible apply Kept.forEach
    | with_reducible apply Kept.foldl
    | with_reducible apply Kept.foldl_fst
    | with_reducible apply Kept.foldl_snd
    | split

end Sys2Proof.Machine
end

