-- ==== Sys2Proof/Laws/Kept/IngTbl.lean ====
section
/-!
SUPPORT. Laws/Kept/IngTbl.lean: each operation of Machine/IngTbl.lean keeps what Laws/Kept.lean names.
-/
set_option linter.unusedSimpArgs false
set_option linter.unusedVariables false
set_option linter.unusedTactic false
set_option linter.unreachableTactic false

namespace Sys2Proof.Machine

theorem State.ingRefuse_kept (k0 : State) (s : State) (t : Tag) (sl reason idx : Nat) (hk : Kept k0 s) : Kept k0 (State.ingRefuse s t sl reason idx).2 := by
  unfold State.ingRefuse
  try dsimp only
  repeat' first
    | with_reducible assumption
    | intro _
    | with_reducible apply State.setReason_kept

theorem State.ingAccept_kept (k0 : State) (s : State) (t : Tag) (sl : Nat) (hk : Kept k0 s) : Kept k0 (State.ingAccept s t sl).2 := by
  unfold State.ingAccept
  try dsimp only
  repeat' first
    | with_reducible assumption
    | intro _
    | with_reducible apply State.clearReason_kept

theorem State.mergeNew_kept (k0 : State) (s : State) (ei slot : Nat) (w0 : Word) (hk : Kept k0 s) : Kept k0 (State.mergeNew s ei slot w0) := by
  unfold State.mergeNew
  try dsimp only
  repeat' first
    | with_reducible assumption
    | intro _
    | simp only [Kept.update]
    | with_reducible apply State.setMerge_kept
    | split

theorem State.mergeGone_kept (k0 : State) (s : State) (sl : Nat) (w0 : Word) (hk : Kept k0 s) : Kept k0 (State.mergeGone s sl w0) := by
  unfold State.mergeGone
  try dsimp only
  repeat' first
    | with_reducible assumption
    | intro _
    | with_reducible apply State.setMerge_kept
    | with_reducible apply State.setMergeEnt_kept
    | split

theorem flowWrite_kept (k0 : State) (t : Tag) (sl idx : Nat) (d : List Word) (s : State) (hk : Kept k0 s) : Kept k0 (flowWrite t sl idx d s).2 := by
  unfold flowWrite
  try dsimp only
  repeat' first
    | with_reducible assumption
    | intro _
    | simp only [Kept.update]
    | with_reducible apply State.setEntWords_kept
    | with_reducible apply State.claim_kept
    | with_reducible apply State.unclaim_kept
    | with_reducible apply State.ingRefuse_kept
    | with_reducible apply State.ingAccept_kept
    | with_reducible apply State.mergeNew_kept
    | with_reducible apply State.mergeGone_kept
    | split

theorem portCfgWrite_kept (k0 : State) (t : Tag) (sl idx : Nat) (d : List Word) (s : State) (hk : Kept k0 s) : Kept k0 (portCfgWrite t sl idx d s).2 := by
  unfold portCfgWrite
  try dsimp only
  repeat' first
    | with_reducible assumption
    | intro _
    | with_reducible apply State.setEntWords_kept
    | with_reducible apply State.refreshPad_kept
    | with_reducible apply State.ingRefuse_kept
    | with_reducible apply State.ingAccept_kept
    | split

theorem extractWrite_kept (k0 : State) (t : Tag) (sl idx : Nat) (d : List Word) (s : State) (hk : Kept k0 s) : Kept k0 (extractWrite t sl idx d s).2 := by
  unfold extractWrite
  try dsimp only
  repeat' first
    | with_reducible assumption
    | intro _
    | with_reducible apply State.setEntWords_kept
    | with_reducible apply State.claim_kept
    | with_reducible apply State.unclaim_kept
    | with_reducible apply State.ingRefuse_kept
    | with_reducible apply State.ingAccept_kept
    | split

theorem ingTableWrite_kept (k0 : State) (t : Tag) (sl sel idx : Nat) (d : List Word) (s : State) (hk : Kept k0 s) : Kept k0 (ingTableWrite t sl sel idx d s).2 := by
  unfold ingTableWrite
  try dsimp only
  repeat' first
    | with_reducible assumption
    | intro _
    | simp only [Kept.update]
    | with_reducible apply State.setEnt_kept
    | with_reducible apply State.ingRefuse_kept
    | with_reducible apply State.ingAccept_kept
    | with_reducible apply flowWrite_kept
    | with_reducible apply portCfgWrite_kept
    | with_reducible apply extractWrite_kept
    | split
    | with_reducible refine Kept.snd (by assumption) ?_
    | with_reducible refine Kept.third (by assumption) ?_
    | with_reducible refine Kept.last (by assumption) ?_
    | with_reducible refine Kept.fst (by assumption) ?_

theorem execPadDWrite_kept (k0 : State) (t : Tag) (sl : Fin 16) (n : Fin 8) (d : Word) (s : State) (hk : Kept k0 s) : ∀ z, execPadDWrite t sl n d s = .next z → Kept k0 z := by
  intro z e
  unfold execPadDWrite at e
  injection e with e
  rw [← e]
  try dsimp only
  repeat' first
    | with_reducible assumption
    | intro _
    | with_reducible apply hostWrite_kept
    | with_reducible apply writePadD_kept

end Sys2Proof.Machine
end

