-- ==== Sys2Proof/Laws/Kept/Audio.lean ====
section
/-!
SUPPORT. Laws/Kept/Audio.lean: each operation of Machine/Audio.lean keeps what Laws/Kept.lean names.
-/
set_option linter.unusedSimpArgs false
set_option linter.unusedVariables false
set_option linter.unusedTactic false
set_option linter.unreachableTactic false

namespace Sys2Proof.Machine

theorem State.setAudOut_kept (k0 : State) (s : State) (y : Nat) (o : AudOut) (hk : Kept k0 s) : Kept k0 (State.setAudOut s y o) := by
  unfold State.setAudOut
  try dsimp only
  repeat' first
    | with_reducible assumption
    | intro _
    | simp only [Kept.update]

theorem State.setAudTx_kept (k0 : State) (s : State) (t : AudTx) (hk : Kept k0 s) : Kept k0 (State.setAudTx s t) := by
  unfold State.setAudTx
  try dsimp only
  repeat' first
    | with_reducible assumption
    | intro _
    | simp only [Kept.update]
    | split

theorem State.setFolBlks_kept (k0 : State) (s : State) (c : Nat) (l : List FolBlk) (hk : Kept k0 s) : Kept k0 (State.setFolBlks s c l) := by
  unfold State.setFolBlks
  try dsimp only
  repeat' first
    | with_reducible assumption
    | intro _
    | simp only [Kept.update]

theorem State.syncPending_kept (k0 : State) (s : State) (p : Nat) (hk : Kept k0 s) : Kept k0 (State.syncPending s p) := by
  unfold State.syncPending
  try dsimp only
  repeat' first
    | with_reducible assumption
    | intro _
    | with_reducible apply State.wr_kept

theorem State.audRefuse_kept (k0 : State) (s : State) (t : Tag) (reason idx : Nat) (hk : Kept k0 s) : Kept k0 (State.audRefuse s t reason idx).2 := by
  unfold State.audRefuse
  try dsimp only
  repeat' first
    | with_reducible assumption
    | intro _
    | with_reducible apply State.setReason_kept

theorem State.audAccept_kept (k0 : State) (s : State) (t : Tag) (hk : Kept k0 s) : Kept k0 (State.audAccept s t).2 := by
  unfold State.audAccept
  try dsimp only
  repeat' first
    | with_reducible assumption
    | intro _
    | with_reducible apply State.clearReason_kept

theorem audBlockWrite_kept (k0 : State) (t : Tag) (sel blk : Nat) (d : List Word) (s : State) (hk : Kept k0 s) : Kept k0 (audBlockWrite t sel blk d s).2 := by
  unfold audBlockWrite
  try dsimp only
  repeat' first
    | with_reducible assumption
    | intro _
    | with_reducible apply State.setEnt_kept
    | with_reducible apply State.audRefuse_kept
    | with_reducible apply State.audAccept_kept
    | split

theorem returnWrite_kept (k0 : State) (t : Tag) (j : Nat) (d : List Word) (s : State) (hk : Kept k0 s) : Kept k0 (returnWrite t j d s).2 := by
  unfold returnWrite
  try dsimp only
  repeat' first
    | with_reducible assumption
    | intro _
    | with_reducible apply State.wrF_kept
    | with_reducible apply State.setEntWords_kept
    | with_reducible apply State.dropDue_kept
    | with_reducible apply State.descStatus_kept
    | with_reducible apply State.audRefuse_kept
    | with_reducible apply State.audAccept_kept
    | split

theorem State.setTdm_kept (k0 : State) (s : State) (p v : Nat) (hk : Kept k0 s) : Kept k0 (State.setTdm s p v) := by
  unfold State.setTdm
  try dsimp only
  repeat' first
    | with_reducible assumption
    | intro _
    | with_reducible apply State.wrF_kept

theorem tdmWrite_kept (k0 : State) (t : Tag) (p : Nat) (d : List Word) (s : State) (hk : Kept k0 s) : Kept k0 (tdmWrite t p d s).2 := by
  unfold tdmWrite
  try dsimp only
  repeat' first
    | with_reducible assumption
    | intro _
    | with_reducible apply State.setEntWords_kept
    | with_reducible apply State.claim_kept
    | with_reducible apply State.unclaim_kept
    | with_reducible apply State.audRefuse_kept
    | with_reducible apply State.audAccept_kept
    | with_reducible apply State.setTdm_kept
    | split

theorem dmaBindWrite_kept (k0 : State) (t : Tag) (q : Nat) (d : List Word) (s : State) (hk : Kept k0 s) : Kept k0 (dmaBindWrite t q d s).2 := by
  unfold dmaBindWrite
  try dsimp only
  repeat' first
    | with_reducible assumption
    | intro _
    | with_reducible apply State.setEnt_kept
    | with_reducible apply State.claim_kept
    | with_reducible apply State.unclaim_kept
    | with_reducible apply State.audRefuse_kept
    | with_reducible apply State.audAccept_kept
    | split

theorem folBindWrite_kept (k0 : State) (t : Tag) (c : Nat) (d : List Word) (s : State) (hk : Kept k0 s) : Kept k0 (folBindWrite t c d s).2 := by
  unfold folBindWrite
  try dsimp only
  repeat' first
    | with_reducible assumption
    | intro _
    | with_reducible apply State.setEntWords_kept
    | with_reducible apply State.claim_kept
    | with_reducible apply State.unclaim_kept
    | with_reducible apply State.setFolBlks_kept
    | with_reducible apply State.audRefuse_kept
    | with_reducible apply State.audAccept_kept
    | split

theorem audTableWrite_kept (k0 : State) (t : Tag) (sel idx : Nat) (d : List Word) (s : State) (hk : Kept k0 s) : Kept k0 (audTableWrite t sel idx d s).2 := by
  unfold audTableWrite
  try dsimp only
  repeat' first
    | with_reducible assumption
    | intro _
    | simp only [Kept.update]
    | with_reducible apply State.setEnt_kept
    | with_reducible apply State.setEntWords_kept
    | with_reducible apply State.audAccept_kept
    | with_reducible apply audBlockWrite_kept
    | with_reducible apply returnWrite_kept
    | with_reducible apply tdmWrite_kept
    | with_reducible apply dmaBindWrite_kept
    | with_reducible apply folBindWrite_kept
    | split
    | with_reducible refine Kept.snd (by assumption) ?_
    | with_reducible refine Kept.third (by assumption) ?_
    | with_reducible refine Kept.last (by assumption) ?_
    | with_reducible refine Kept.fst (by assumption) ?_

theorem State.audResult_kept (k0 : State) (s : State) (p op code entry : Nat) (tag : Word) (hk : Kept k0 s) : Kept k0 (State.audResult s p op code entry tag) := by
  unfold State.audResult
  try dsimp only
  repeat' first
    | with_reducible assumption
    | intro _
    | with_reducible apply State.wr_kept
    | with_reducible apply State.audEvent_kept
    | split

theorem State.audEnlist_kept (k0 : State) (s : State) (t : AudTx) (hk : Kept k0 s) : Kept k0 (State.audEnlist s t) := by
  unfold State.audEnlist
  try dsimp only
  repeat' first
    | with_reducible assumption
    | intro _
    | simp only [Kept.update]

theorem State.audEndRemoval_kept (k0 : State) (s : State) (t : AudTx) (hk : Kept k0 s) : Kept k0 (State.audEndRemoval s t) := by
  unfold State.audEndRemoval
  try dsimp only
  repeat' first
    | with_reducible assumption
    | intro _
    | simp only [Kept.update]
    | with_reducible apply State.setEntF_kept
    | split
    | with_reducible refine Kept.snd (by assumption) ?_
    | with_reducible refine Kept.third (by assumption) ?_
    | with_reducible refine Kept.last (by assumption) ?_
    | with_reducible refine Kept.fst (by assumption) ?_

theorem State.audFinish_kept (k0 : State) (s : State) (t : AudTx) (st : Nat) (hk : Kept k0 s) : Kept k0 (State.audFinish s t st) := by
  unfold State.audFinish
  try dsimp only
  repeat' first
    | with_reducible assumption
    | intro _
    | simp only [Kept.update]
    | with_reducible apply State.syncPending_kept
    | with_reducible apply State.audEndRemoval_kept
    | split

theorem audSubmit_kept (k0 : State) (t : Tag) (op timing count : Nat) (s : State) (hk : Kept k0 s) : Kept k0 (audSubmit t op timing count s) := by
  unfold audSubmit
  try dsimp only
  repeat' first
    | with_reducible assumption
    | intro _
    | simp only [Kept.update]
    | with_reducible apply State.inc_kept
    | with_reducible apply State.syncPending_kept
    | with_reducible apply State.audResult_kept
    | with_reducible apply State.audEnlist_kept
    | split
    | with_reducible refine Kept.snd (by assumption) ?_
    | with_reducible refine Kept.third (by assumption) ?_
    | with_reducible refine Kept.last (by assumption) ?_
    | with_reducible refine Kept.fst (by assumption) ?_

theorem audStrike_kept (k0 : State) (t : Tag) (s : State) (hk : Kept k0 s) : Kept k0 (audStrike t s) := by
  unfold audStrike
  try dsimp only
  repeat' first
    | with_reducible assumption
    | intro _
    | simp only [Kept.update]
    | with_reducible apply State.audEvent_kept
    | with_reducible apply State.audResult_kept
    | with_reducible apply State.audFinish_kept
    | split
    | with_reducible refine Kept.snd (by assumption) ?_
    | with_reducible refine Kept.third (by assumption) ?_
    | with_reducible refine Kept.last (by assumption) ?_
    | with_reducible refine Kept.fst (by assumption) ?_

theorem State.audClearStaging_kept (k0 s : State) (p : Option Nat) (hk : Kept k0 s) : Kept k0 (State.audClearStaging s p) := by
  unfold State.audClearStaging
  exact hk.keepTbl _ rfl rfl rfl rfl rfl rfl rfl

theorem writeAudCmd_kept (k0 : State) (t : Tag) (d : Word) (s : State) (hk : Kept k0 s) : Kept k0 (writeAudCmd t d s) := by
  unfold writeAudCmd
  try dsimp only
  repeat' first
    | with_reducible assumption
    | intro _
    | simp only [Kept.update]
    | with_reducible apply State.audResult_kept
    | with_reducible apply audSubmit_kept
    | with_reducible apply audStrike_kept
    | with_reducible apply State.audClearStaging_kept
    | split
    | with_reducible refine Kept.snd (by assumption) ?_
    | with_reducible refine Kept.third (by assumption) ?_
    | with_reducible refine Kept.last (by assumption) ?_
    | with_reducible refine Kept.fst (by assumption) ?_

theorem audCmd_kept (k0 : State) (t : Tag) (op timing count : Nat) (s : State) (hk : Kept k0 s) : Kept k0 (audCmd t op timing count s) := by
  unfold audCmd
  try dsimp only
  repeat' first
    | with_reducible assumption
    | intro _
    | with_reducible apply hostWrite_kept
    | with_reducible apply writeAudCmd_kept

theorem execAudCommit_kept (k0 : State) (t : Tag) (timing : BitVec 2) (count : BitVec 13) (s : State) (hk : Kept k0 s) : ∀ z, execAudCommit t timing count s = .next z → Kept k0 z := by
  intro z e
  unfold execAudCommit at e
  injection e with e
  rw [← e]
  try dsimp only
  repeat' first
    | with_reducible assumption
    | intro _
    | with_reducible apply audCmd_kept

theorem execAudStrike_kept (k0 : State) (t : Tag) (s : State) (hk : Kept k0 s) : ∀ z, execAudStrike t s = .next z → Kept k0 z := by
  intro z e
  unfold execAudStrike at e
  injection e with e
  rw [← e]
  try dsimp only
  repeat' first
    | with_reducible assumption
    | intro _
    | with_reducible apply audCmd_kept

theorem execAudStop_kept (k0 : State) (t : Tag) (timing : BitVec 2) (count : BitVec 13) (s : State) (hk : Kept k0 s) : ∀ z, execAudStop t timing count s = .next z → Kept k0 z := by
  intro z e
  unfold execAudStop at e
  injection e with e
  rw [← e]
  try dsimp only
  repeat' first
    | with_reducible assumption
    | intro _
    | with_reducible apply audCmd_kept

theorem execAudClear_kept (k0 : State) (t : Tag) (s : State) (hk : Kept k0 s) : ∀ z, execAudClear t s = .next z → Kept k0 z := by
  intro z e
  unfold execAudClear at e
  injection e with e
  rw [← e]
  try dsimp only
  repeat' first
    | with_reducible assumption
    | intro _
    | with_reducible apply audCmd_kept

theorem execAudArmGrant_kept (k0 : State) (x : TxId) (s : State) (hk : Kept k0 s) : ∀ z, execAudArmGrant x s = .next z → Kept k0 z := by
  intro z e
  unfold execAudArmGrant at e
  injection e with e
  rw [← e]
  try dsimp only
  repeat' first
    | with_reducible assumption
    | intro _
    | simp only [Kept.update]
    | with_reducible apply State.setAudTx_kept
    | split
    | with_reducible refine Kept.snd (by assumption) ?_
    | with_reducible refine Kept.third (by assumption) ?_
    | with_reducible refine Kept.last (by assumption) ?_
    | with_reducible refine Kept.fst (by assumption) ?_

theorem execAudMemberCommit_kept (k0 : State) (x : TxId) (i : Nat) (s : State) (hk : Kept k0 s) : ∀ z, execAudMemberCommit x i s = .next z → Kept k0 z := by
  intro z e
  unfold execAudMemberCommit at e
  injection e with e
  rw [← e]
  try dsimp only
  repeat' first
    | with_reducible assumption
    | intro _
    | simp only [Kept.update]
    | with_reducible apply State.setEntWords_kept
    | with_reducible apply State.setAudOut_kept
    | with_reducible apply State.setAudTx_kept
    | with_reducible apply State.audFinish_kept
    | split
    | with_reducible refine Kept.snd (by assumption) ?_
    | with_reducible refine Kept.third (by assumption) ?_
    | with_reducible refine Kept.last (by assumption) ?_
    | with_reducible refine Kept.fst (by assumption) ?_

theorem State.audForce_kept (k0 : State) (s : State) (blk p : Nat) (hk : Kept k0 s) : Kept k0 (State.audForce s blk p) := by
  unfold State.audForce
  try dsimp only
  repeat' first
    | with_reducible assumption
    | intro _
    | simp only [Kept.update]
    | with_reducible apply State.audEnlist_kept
    | with_reducible apply State.audEndRemoval_kept
    | with_reducible apply State.audFinish_kept
    | with_reducible apply Kept.forEach
    | with_reducible apply Kept.foldl
    | with_reducible apply Kept.foldl_fst
    | with_reducible apply Kept.foldl_snd
    | split

theorem State.discard_kept (k0 : State) (s : State) (a : AudIn) (hk : Kept k0 s) : Kept k0 (State.discard s a) := by
  unfold State.discard
  try dsimp only
  repeat' first
    | with_reducible assumption
    | intro _
    | with_reducible apply State.audEvent_kept
    | with_reducible apply State.audCount_kept
    | split

theorem State.playPeriod_kept (k0 : State) (s : State) (bufs : List AudBuf) (g q : Nat) (n : Int) (hk : Kept k0 s) : Kept k0 (State.playPeriod s bufs g q n) := by
  unfold State.playPeriod
  try dsimp only
  repeat' first
    | with_reducible assumption
    | intro _
    | simp only [Kept.update]
    | with_reducible apply State.setQrec_kept
    | with_reducible apply State.audSample_kept
    | with_reducible apply Kept.forEach
    | split
    | with_reducible refine Kept.snd (by assumption) ?_
    | with_reducible refine Kept.third (by assumption) ?_
    | with_reducible refine Kept.last (by assumption) ?_
    | with_reducible refine Kept.fst (by assumption) ?_

theorem State.playBlock_kept (k0 : State) (s : State) (bufs : List AudBuf) (g : Nat) (k : Int) (hk : Kept k0 s) : Kept k0 (State.playBlock s bufs g k) := by
  unfold State.playBlock
  try dsimp only
  repeat' first
    | with_reducible assumption
    | intro _
    | with_reducible apply State.audEvent_kept
    | with_reducible apply State.audCount_kept
    | with_reducible apply State.playPeriod_kept
    | with_reducible apply Kept.forEach
    | with_reducible apply Kept.foldl
    | with_reducible apply Kept.foldl_fst
    | with_reducible apply Kept.foldl_snd
    | split
    | with_reducible refine Kept.snd (by assumption) ?_
    | with_reducible refine Kept.third (by assumption) ?_
    | with_reducible refine Kept.last (by assumption) ?_
    | with_reducible refine Kept.fst (by assumption) ?_

theorem State.fillPeriod_kept (k0 : State) (s : State) (g q : Nat) (n : Int) (i : Nat) (hk : Kept k0 s) : Kept k0 (State.fillPeriod s g q n i) := by
  unfold State.fillPeriod
  try dsimp only
  repeat' first
    | with_reducible assumption
    | intro _
    | simp only [Kept.update]
    | with_reducible apply State.emit_kept
    | with_reducible apply State.setQrec_kept
    | split
    | with_reducible refine Kept.snd (by assumption) ?_
    | with_reducible refine Kept.third (by assumption) ?_
    | with_reducible refine Kept.last (by assumption) ?_
    | with_reducible refine Kept.fst (by assumption) ?_

theorem State.fillBlock_kept (k0 : State) (s : State) (g : Nat) (k : Int) (hk : Kept k0 s) : Kept k0 (State.fillBlock s g k) := by
  unfold State.fillBlock
  try dsimp only
  repeat' first
    | with_reducible assumption
    | intro _
    | with_reducible apply State.fillPeriod_kept
    | with_reducible apply Kept.forEach

theorem State.outBlock_kept (k0 : State) (s : State) (ins : List AudIn) (g : Nat) (k : Int) (y : Nat) (hk : Kept k0 s) : Kept k0 (State.outBlock s ins g k y) := by
  unfold State.outBlock
  try dsimp only
  repeat' first
    | with_reducible assumption
    | intro _
    | simp only [Kept.update]
    | with_reducible apply State.setAudOut_kept
    | split
    | with_reducible refine Kept.snd (by assumption) ?_
    | with_reducible refine Kept.third (by assumption) ?_
    | with_reducible refine Kept.last (by assumption) ?_
    | with_reducible refine Kept.fst (by assumption) ?_

theorem State.returnBlock_kept (k0 : State) (s : State) (g : Nat) (k : Int) (e : Nat × Nat × Nat) (hk : Kept k0 s) : Kept k0 (State.returnBlock s g k e) := by
  unfold State.returnBlock
  try dsimp only
  repeat' first
    | with_reducible assumption
    | intro _
    | with_reducible apply State.present_kept
    | split
    | with_reducible refine Kept.snd (by assumption) ?_
    | with_reducible refine Kept.third (by assumption) ?_
    | with_reducible refine Kept.last (by assumption) ?_
    | with_reducible refine Kept.fst (by assumption) ?_

theorem State.tdmBlock_kept (k0 : State) (s : State) (g : Nat) (k : Int) (p : Nat) (hk : Kept k0 s) : Kept k0 (State.tdmBlock s g k p) := by
  unfold State.tdmBlock
  try dsimp only
  repeat' first
    | with_reducible assumption
    | intro _
    | simp only [Kept.update]
    | with_reducible apply State.emit_kept
    | with_reducible apply Kept.forEach
    | split
    | with_reducible refine Kept.snd (by assumption) ?_
    | with_reducible refine Kept.third (by assumption) ?_
    | with_reducible refine Kept.last (by assumption) ?_
    | with_reducible refine Kept.fst (by assumption) ?_

theorem execAudioBlock_kept (k0 : State) (tb : Fin 8) (hi96 : Bool) (ins : List AudIn) (bufs : List AudBuf) (s : State) (hk : Kept k0 s) : ∀ z, execAudioBlock tb hi96 ins bufs s = .next z → Kept k0 z := by
  intro z e
  unfold execAudioBlock at e
  injection e with e
  rw [← e]
  try dsimp only
  repeat' first
    | with_reducible assumption
    | intro _
    | simp only [Kept.update]
    | with_reducible apply State.discard_kept
    | with_reducible apply State.playBlock_kept
    | with_reducible apply State.fillBlock_kept
    | with_reducible apply State.outBlock_kept
    | with_reducible apply State.returnBlock_kept
    | with_reducible apply State.tdmBlock_kept
    | with_reducible apply Kept.forEach
    | split

theorem State.tdmStart_kept (k0 : State) (s : State) (a : At) (hk : Kept k0 s) : Kept k0 (State.tdmStart s a) := by
  unfold State.tdmStart
  try dsimp only
  repeat' first
    | with_reducible assumption
    | intro _
    | simp only [Kept.update]
    | with_reducible apply State.setTdm_kept
    | with_reducible apply Kept.forEach

theorem execTdmStop_kept (k0 : State) (p : Fin 8) (s : State) (hk : Kept k0 s) : ∀ z, execTdmStop p s = .next z → Kept k0 z := by
  intro z e
  unfold execTdmStop at e
  injection e with e
  rw [← e]
  try dsimp only
  repeat' first
    | with_reducible assumption
    | intro _
    | simp only [Kept.update]
    | with_reducible apply State.setTdm_kept
    | split

theorem State.audQuery_kept (k0 : State) (s : State) (t : Tag) (hk : Kept k0 s) : Kept k0 (State.audQuery s t).2 := by
  unfold State.audQuery
  try dsimp only
  repeat' first
    | with_reducible assumption
    | intro _
    | simp only [Kept.update]
    | with_reducible apply State.setAudOut_kept
    | with_reducible apply Kept.forEach
    | split
    | with_reducible refine Kept.snd (by assumption) ?_
    | with_reducible refine Kept.third (by assumption) ?_
    | with_reducible refine Kept.last (by assumption) ?_
    | with_reducible refine Kept.fst (by assumption) ?_

theorem State.audSnap_kept (k0 : State) (s : State) (p : Nat) (hk : Kept k0 s) : Kept k0 (State.audSnap s p) := by
  unfold State.audSnap
  try dsimp only
  repeat' first
    | with_reducible assumption
    | intro _
    | with_reducible apply State.snapEnt_kept
    | with_reducible apply Kept.forEach

theorem State.audRestore_kept (k0 : State) (s : State) (hk : Kept k0 s) : Kept k0 (State.audRestore s) := by
  unfold State.audRestore
  try dsimp only
  repeat' first
    | with_reducible assumption
    | intro _
    | with_reducible apply State.audFinish_kept
    | with_reducible apply Kept.forEach

end Sys2Proof.Machine
end

