-- ==== Sys2Proof/Laws/Kept/EgrTab.lean ====
section
/-!
SUPPORT. Laws/Kept/EgrTab.lean: each operation of Machine/EgrTab.lean keeps what Laws/Kept.lean names.
-/
set_option linter.unusedSimpArgs false
set_option linter.unusedVariables false
set_option linter.unusedTactic false
set_option linter.unreachableTactic false

namespace Sys2Proof.Machine

theorem State.setEgr_kept (k0 : State) (s : State) (eo slot : Nat) (r : EgrRec) (hk : Kept k0 s) : Kept k0 (State.setEgr s eo slot r) := by
  unfold State.setEgr
  try dsimp only
  repeat' first
    | with_reducible assumption
    | intro _
    | simp only [Kept.update]

theorem State.egrEvent_kept (k0 : State) (s : State) (eo b : Nat) (hk : Kept k0 s) : Kept k0 (State.egrEvent s eo b) := by
  unfold State.egrEvent
  try dsimp only
  repeat' first
    | with_reducible assumption
    | intro _
    | with_reducible apply State.raise_kept

theorem State.egrRefuse_kept (k0 : State) (s : State) (t : Tag) (sl reason idx : Nat) (hk : Kept k0 s) : Kept k0 (State.egrRefuse s t sl reason idx).2 := by
  unfold State.egrRefuse
  try dsimp only
  repeat' first
    | with_reducible assumption
    | intro _
    | with_reducible apply State.setReason_kept

theorem State.egrAccept_kept (k0 : State) (s : State) (t : Tag) (sl : Nat) (hk : Kept k0 s) : Kept k0 (State.egrAccept s t sl).2 := by
  unfold State.egrAccept
  try dsimp only
  repeat' first
    | with_reducible assumption
    | intro _
    | with_reducible apply State.clearReason_kept

theorem egrFlowWrite_kept (k0 : State) (t : Tag) (sl idx : Nat) (d : List Word) (s : State) (hk : Kept k0 s) : Kept k0 (egrFlowWrite t sl idx d s).2 := by
  unfold egrFlowWrite
  try dsimp only
  repeat' first
    | with_reducible assumption
    | intro _
    | with_reducible apply State.setEntWords_kept
    | with_reducible apply State.egrRefuse_kept
    | with_reducible apply State.egrAccept_kept
    | split

theorem egrPathWrite_kept (k0 : State) (t : Tag) (sl idx : Nat) (d : List Word) (s : State) (hk : Kept k0 s) : Kept k0 (egrPathWrite t sl idx d s).2 := by
  unfold egrPathWrite
  try dsimp only
  repeat' first
    | with_reducible assumption
    | intro _
    | with_reducible apply State.setEntWords_kept
    | with_reducible apply State.egrRefuse_kept
    | with_reducible apply State.egrAccept_kept
    | split

theorem egrCfgWrite_kept (k0 : State) (t : Tag) (sl idx : Nat) (d : List Word) (s : State) (hk : Kept k0 s) : Kept k0 (egrCfgWrite t sl idx d s).2 := by
  unfold egrCfgWrite
  try dsimp only
  repeat' first
    | with_reducible assumption
    | intro _
    | with_reducible apply State.setEnt_kept
    | with_reducible apply State.egrRefuse_kept
    | with_reducible apply State.egrAccept_kept
    | split

theorem egrSchedWrite_kept (k0 : State) (t : Tag) (sl idx : Nat) (d : List Word) (s : State) (hk : Kept k0 s) : Kept k0 (egrSchedWrite t sl idx d s).2 := by
  unfold egrSchedWrite
  try dsimp only
  repeat' first
    | with_reducible assumption
    | intro _
    | with_reducible apply State.inc_kept
    | with_reducible apply State.setEntWords_kept
    | with_reducible apply State.egrRefuse_kept
    | with_reducible apply State.egrAccept_kept
    | split

theorem egrTableWrite_kept (k0 : State) (t : Tag) (sl sel idx : Nat) (d : List Word) (s : State) (hk : Kept k0 s) : Kept k0 (egrTableWrite t sl sel idx d s).2 := by
  unfold egrTableWrite
  try dsimp only
  repeat' first
    | with_reducible assumption
    | intro _
    | simp only [Kept.update]
    | with_reducible apply State.egrRefuse_kept
    | with_reducible apply egrFlowWrite_kept
    | with_reducible apply egrPathWrite_kept
    | with_reducible apply egrCfgWrite_kept
    | with_reducible apply egrSchedWrite_kept
    | split
    | with_reducible refine Kept.snd (by assumption) ?_
    | with_reducible refine Kept.third (by assumption) ?_
    | with_reducible refine Kept.last (by assumption) ?_
    | with_reducible refine Kept.fst (by assumption) ?_

theorem State.egrSnap_kept (k0 : State) (s : State) (sl p : Nat) (hk : Kept k0 s) : Kept k0 (State.egrSnap s sl p) := by
  unfold State.egrSnap
  try dsimp only
  repeat' first
    | with_reducible assumption
    | intro _
    | with_reducible apply State.snapEnt_kept
    | with_reducible apply Kept.forEach

end Sys2Proof.Machine
end

