-- ==== Sys2Proof/Laws/Kept/Egress.lean ====
section
/-!
SUPPORT. Laws/Kept/Egress.lean: each operation of Machine/Egress.lean keeps what Laws/Kept.lean names.
-/
set_option linter.unusedSimpArgs false
set_option linter.unusedVariables false
set_option linter.unusedTactic false
set_option linter.unreachableTactic false

namespace Sys2Proof.Machine

theorem State.sdiStore_kept (k0 : State) (s : State) (eo : Nat) (u : Int) (ts phase : Nat) (ws : List Nat) (hk : Kept k0 s) : Kept k0 (State.sdiStore s eo u ts phase ws) := by
  unfold State.sdiStore
  try dsimp only
  repeat' first
    | with_reducible assumption
    | intro _
    | simp only [Kept.update]
    | with_reducible apply State.setEgr_kept
    | split

theorem State.sdiEnd_kept (k0 : State) (s : State) (eo : Nat) (hk : Kept k0 s) : Kept k0 (State.sdiEnd s eo) := by
  unfold State.sdiEnd
  try dsimp only
  repeat' first
    | with_reducible assumption
    | intro _
    | simp only [Kept.update]
    | with_reducible apply State.setEnt_kept
    | with_reducible apply State.setEgr_kept
    | with_reducible apply State.egrEvent_kept
    | with_reducible apply State.sdiStore_kept
    | split
    | with_reducible refine Kept.snd (by assumption) ?_
    | with_reducible refine Kept.third (by assumption) ?_
    | with_reducible refine Kept.last (by assumption) ?_
    | with_reducible refine Kept.fst (by assumption) ?_

theorem State.sdiBlack_kept (k0 : State) (s : State) (eo : Nat) (u : Int) (hk : Kept k0 s) : Kept k0 (State.sdiBlack s eo u) := by
  unfold State.sdiBlack
  try dsimp only
  repeat' first
    | with_reducible assumption
    | intro _
    | simp only [Kept.update]
    | with_reducible apply State.setEgr_kept
    | with_reducible apply State.sdiStore_kept

theorem State.sdiFill_kept (k0 : State) (s : State) (eo : Nat) (u : Int) (hk : Kept k0 s) : Kept k0 (State.sdiFill s eo u) := by
  unfold State.sdiFill
  try dsimp only
  repeat' first
    | with_reducible assumption
    | intro _
    | simp only [Kept.update]
    | with_reducible apply State.sdiBlack_kept
    | with_reducible apply Kept.forEach
    | split
    | with_reducible refine Kept.snd (by assumption) ?_
    | with_reducible refine Kept.third (by assumption) ?_
    | with_reducible refine Kept.last (by assumption) ?_
    | with_reducible refine Kept.fst (by assumption) ?_

theorem State.sdiPatch_kept (k0 : State) (s : State) (eo : Nat) (u : Int) (ts phase : Nat) (hk : Kept k0 s) : Kept k0 (State.sdiPatch s eo u ts phase) := by
  unfold State.sdiPatch
  try dsimp only
  repeat' first
    | with_reducible assumption
    | intro _
    | simp only [Kept.update]
    | with_reducible apply State.setEgr_kept
    | with_reducible apply State.sdiStore_kept
    | split

theorem State.egrSdi_kept (k0 : State) (s : State) (eo : Nat) (d : Desc) (u : Int) (ts : Nat) (w : FWord) (hk : Kept k0 s) : Kept k0 (State.egrSdi s eo d u ts w) := by
  unfold State.egrSdi
  try dsimp only
  repeat' first
    | with_reducible assumption
    | intro _
    | simp only [Kept.update]
    | with_reducible apply State.audEvent_kept
    | with_reducible apply State.setEgr_kept
    | with_reducible apply State.sdiStore_kept
    | with_reducible apply State.sdiEnd_kept
    | with_reducible apply State.sdiFill_kept
    | with_reducible apply State.sdiPatch_kept
    | split

theorem State.egrColour_kept (k0 : State) (s : State) (eo : Nat) (d : Desc) (w : FWord) (hk : Kept k0 s) : Kept k0 (State.egrColour s eo d w) := by
  unfold State.egrColour
  try dsimp only
  repeat' first
    | with_reducible assumption
    | intro _
    | with_reducible apply State.setEnt_kept
    | with_reducible apply State.egrEvent_kept
    | split

theorem State.hostUnit_kept (k0 : State) (s : State) (eo slot kind : Nat) (stamp : BitVec 96) (n : Nat) (hk : Kept k0 s) : Kept k0 (State.hostUnit s eo slot kind stamp n) := by
  unfold State.hostUnit
  try dsimp only
  repeat' first
    | with_reducible assumption
    | intro _
    | simp only [Kept.update]
    | with_reducible apply State.setEnt_kept
    | with_reducible apply State.setQrec_kept
    | split
    | with_reducible refine Kept.snd (by assumption) ?_
    | with_reducible refine Kept.third (by assumption) ?_
    | with_reducible refine Kept.last (by assumption) ?_
    | with_reducible refine Kept.fst (by assumption) ?_

theorem State.hostWord_kept (k0 : State) (s : State) (eo slot : Nat) (d : Desc) (w : FWord) (hk : Kept k0 s) : Kept k0 (State.hostWord s eo slot d w) := by
  unfold State.hostWord
  try dsimp only
  repeat' first
    | with_reducible assumption
    | intro _
    | simp only [Kept.update]
    | with_reducible apply State.setEgr_kept
    | with_reducible apply State.hostUnit_kept
    | split
    | with_reducible refine Kept.snd (by assumption) ?_
    | with_reducible refine Kept.third (by assumption) ?_
    | with_reducible refine Kept.last (by assumption) ?_
    | with_reducible refine Kept.fst (by assumption) ?_

theorem State.egrWord_kept (k0 : State) (s : State) (eo slot : Nat) (d : Desc) (src : Option Nat) (w : FWord) (hk : Kept k0 s) : Kept k0 (State.egrWord s eo slot d src w) := by
  unfold State.egrWord
  try dsimp only
  repeat' first
    | with_reducible assumption
    | intro _
    | simp only [Kept.update]
    | with_reducible apply State.setEgr_kept
    | with_reducible apply State.egrSdi_kept
    | with_reducible apply State.egrColour_kept
    | with_reducible apply State.hostWord_kept
    | split
    | with_reducible refine Kept.snd (by assumption) ?_
    | with_reducible refine Kept.third (by assumption) ?_
    | with_reducible refine Kept.last (by assumption) ?_
    | with_reducible refine Kept.fst (by assumption) ?_

theorem State.egrTake_kept (k0 : State) (s : State) (eo slot : Nat) (ws : List FWord) (hk : Kept k0 s) : Kept k0 (State.egrTake s eo slot ws) := by
  unfold State.egrTake
  try dsimp only
  repeat' first
    | with_reducible assumption
    | intro _
    | simp only [Kept.update]
    | with_reducible apply State.egrWord_kept
    | with_reducible apply Kept.forEach
    | split
    | with_reducible refine Kept.snd (by assumption) ?_
    | with_reducible refine Kept.third (by assumption) ?_
    | with_reducible refine Kept.last (by assumption) ?_
    | with_reducible refine Kept.fst (by assumption) ?_

theorem State.egrIdle_kept (k0 : State) (s : State) (hk : Kept k0 s) : Kept k0 (State.egrIdle s) := by
  unfold State.egrIdle
  try dsimp only
  repeat' first
    | with_reducible assumption
    | intro _
    | simp only [Kept.update]
    | with_reducible apply State.setEgr_kept
    | with_reducible apply State.sdiEnd_kept
    | with_reducible apply State.sdiFill_kept
    | with_reducible apply Kept.forEach
    | split
    | with_reducible refine Kept.snd (by assumption) ?_
    | with_reducible refine Kept.third (by assumption) ?_
    | with_reducible refine Kept.last (by assumption) ?_
    | with_reducible refine Kept.fst (by assumption) ?_

theorem State.altBeat_kept (k0 : State) (s : State) (hk : Kept k0 s) : Kept k0 (State.altBeat s) := by
  unfold State.altBeat
  try dsimp only
  repeat' first
    | with_reducible assumption
    | intro _
    | simp only [Kept.update]
    | with_reducible apply State.setEgr_kept
    | with_reducible apply Kept.forEach
    | split

theorem State.egressBeat_kept (k0 : State) (s : State) (hk : Kept k0 s) : Kept k0 (State.egressBeat s) := by
  unfold State.egressBeat
  try dsimp only
  repeat' first
    | with_reducible assumption
    | intro _
    | with_reducible apply State.raise_kept
    | with_reducible apply State.egrTake_kept
    | with_reducible apply State.egrIdle_kept
    | with_reducible apply State.altBeat_kept
    | with_reducible apply Kept.forEach
    | split

theorem State.sdiAllot_kept (k0 : State) (s : State) (b : Nat) (st : Stream) (hk : Kept k0 s) : Kept k0 (State.sdiAllot s b st).2 := by
  unfold State.sdiAllot
  try dsimp only
  repeat' first
    | with_reducible assumption
    | intro _
    | simp only [Kept.update]
    | with_reducible apply State.setEgr_kept
    | with_reducible apply State.egrEvent_kept
    | split

theorem State.sdiDrop_kept (k0 : State) (s : State) (b : Nat) (st : Stream) (hk : Kept k0 s) : Kept k0 (State.sdiDrop s b st) := by
  unfold State.sdiDrop
  try dsimp only
  repeat' first
    | with_reducible assumption
    | intro _
    | simp only [Kept.update]
    | with_reducible apply State.setEgr_kept

theorem State.allotments_kept (k0 s : State) (b : Nat) (l : List Stream) (hk : Kept k0 s) : Kept k0 (State.allotments s b l).2 := by
  induction l generalizing s with
  | nil => exact hk
  | cons st r ih =>
    unfold State.allotments
    split
    · apply ih
      split
      · exact hk
      · exact State.sdiDrop_kept _ _ _ _ hk
    · dsimp only
      apply ih
      split
      · exact State.packetAllot_kept _ _ _ _ hk
      · exact State.sdiAllot_kept _ _ _ _ hk

theorem execEpvFrameSend_kept (k0 : State) (b : Fin 48) (s : State) (hk : Kept k0 s) : ∀ z, execEpvFrameSend b s = .next z → Kept k0 z := by
  intro z e
  unfold execEpvFrameSend at e
  injection e with e
  rw [← e]
  try dsimp only
  repeat' first
    | with_reducible assumption
    | intro _
    | with_reducible apply State.epvSend_kept
    | with_reducible apply State.epvEmit_kept
    | with_reducible apply State.allotments_kept
    | split
    | with_reducible refine Kept.snd (by assumption) ?_
    | with_reducible refine Kept.third (by assumption) ?_
    | with_reducible refine Kept.last (by assumption) ?_
    | with_reducible refine Kept.fst (by assumption) ?_

theorem State.flowCount_kept (k0 : State) (s : State) (eo slot k w n : Nat) (hk : Kept k0 s) : Kept k0 (State.flowCount s eo slot k w n) := by
  unfold State.flowCount
  try dsimp only
  repeat' first
    | with_reducible assumption
    | intro _
    | with_reducible apply State.setEnt_kept

theorem State.egrDiscard_kept (k0 : State) (s : State) (eo slot k n : Nat) (hk : Kept k0 s) : Kept k0 (State.egrDiscard s eo slot k n) := by
  unfold State.egrDiscard
  try dsimp only
  repeat' first
    | with_reducible assumption
    | intro _
    | with_reducible apply State.egrEvent_kept
    | with_reducible apply State.flowCount_kept
    | split

theorem State.sendPacket_kept (k0 : State) (s : State) (eo slot ts : Nat) (marker : Bool) (bytes : Nat) (depart : At) (body : Payload) (hk : Kept k0 s) : Kept k0 (State.sendPacket s eo slot ts marker bytes depart body) := by
  unfold State.sendPacket
  try dsimp only
  repeat' first
    | with_reducible assumption
    | intro _
    | simp only [Kept.update]
    | with_reducible apply State.txOffer_kept
    | with_reducible apply State.setEgr_kept
    | with_reducible apply State.egrDiscard_kept
    | with_reducible apply Kept.forEach
    | split

theorem State.departRaster_kept (k0 : State) (s : State) (eo slot : Nat) (d : Desc) (hk : Kept k0 s) : Kept k0 (State.departRaster s eo slot d) := by
  unfold State.departRaster
  try dsimp only
  repeat' first
    | with_reducible assumption
    | intro _
    | simp only [Kept.update]
    | with_reducible apply State.setEgr_kept
    | with_reducible apply State.egrEvent_kept
    | with_reducible apply State.flowCount_kept
    | with_reducible apply State.sendPacket_kept
    | with_reducible apply Kept.forEach
    | split
    | with_reducible refine Kept.snd (by assumption) ?_
    | with_reducible refine Kept.third (by assumption) ?_
    | with_reducible refine Kept.last (by assumption) ?_
    | with_reducible refine Kept.fst (by assumption) ?_

theorem State.departAudio_kept (k0 : State) (s : State) (eo slot : Nat) (d : Desc) (hk : Kept k0 s) : Kept k0 (State.departAudio s eo slot d) := by
  unfold State.departAudio
  try dsimp only
  repeat' first
    | with_reducible assumption
    | intro _
    | simp only [Kept.update]
    | with_reducible apply State.setEgr_kept
    | with_reducible apply State.sendPacket_kept
    | split
    | with_reducible refine Kept.snd (by assumption) ?_
    | with_reducible refine Kept.third (by assumption) ?_
    | with_reducible refine Kept.last (by assumption) ?_
    | with_reducible refine Kept.fst (by assumption) ?_

theorem State.departAnc_kept (k0 : State) (s : State) (eo slot : Nat) (hk : Kept k0 s) : Kept k0 (State.departAnc s eo slot) := by
  unfold State.departAnc
  try dsimp only
  repeat' first
    | with_reducible assumption
    | intro _
    | simp only [Kept.update]
    | with_reducible apply State.fresh_kept
    | with_reducible apply State.setEgr_kept
    | with_reducible apply State.sendPacket_kept
    | split
    | with_reducible refine Kept.snd (by assumption) ?_
    | with_reducible refine Kept.third (by assumption) ?_
    | with_reducible refine Kept.last (by assumption) ?_
    | with_reducible refine Kept.fst (by assumption) ?_

theorem State.departOpaque_kept (k0 : State) (s : State) (eo slot : Nat) (hk : Kept k0 s) : Kept k0 (State.departOpaque s eo slot) := by
  unfold State.departOpaque
  try dsimp only
  repeat' first
    | with_reducible assumption
    | intro _
    | simp only [Kept.update]
    | with_reducible apply State.fresh_kept
    | with_reducible apply State.setEgr_kept
    | with_reducible apply State.sendPacket_kept
    | split
    | with_reducible refine Kept.snd (by assumption) ?_
    | with_reducible refine Kept.third (by assumption) ?_
    | with_reducible refine Kept.last (by assumption) ?_
    | with_reducible refine Kept.fst (by assumption) ?_

theorem State.departSdi_kept (k0 : State) (s : State) (eo slot : Nat) (hk : Kept k0 s) : Kept k0 (State.departSdi s eo slot) := by
  unfold State.departSdi
  try dsimp only
  repeat' first
    | with_reducible assumption
    | intro _
    | simp only [Kept.update]
    | with_reducible apply State.setEgr_kept
    | with_reducible apply State.sendPacket_kept
    | with_reducible apply Kept.foldl
    | with_reducible apply Kept.foldl_fst
    | with_reducible apply Kept.foldl_snd
    | split
    | with_reducible refine Kept.snd (by assumption) ?_
    | with_reducible refine Kept.third (by assumption) ?_
    | with_reducible refine Kept.last (by assumption) ?_
    | with_reducible refine Kept.fst (by assumption) ?_

theorem State.flowReturn_kept (k0 : State) (s : State) (eo slot : Nat) (d : Desc) (hk : Kept k0 s) : Kept k0 (State.flowReturn s eo slot d) := by
  unfold State.flowReturn
  try dsimp only
  repeat' first
    | with_reducible assumption
    | intro _
    | simp only [Kept.update]
    | with_reducible apply State.setEgr_kept
    | split

theorem execPacketDepart_kept (k0 : State) (eo : Fin 4096) (slot : Fin 16) (s : State) (hk : Kept k0 s) : ∀ z, execPacketDepart eo slot s = .next z → Kept k0 z := by
  intro z e
  unfold execPacketDepart at e
  injection e with e
  rw [← e]
  try dsimp only
  repeat' first
    | with_reducible assumption
    | intro _
    | simp only [Kept.update]
    | with_reducible apply State.departRaster_kept
    | with_reducible apply State.departAudio_kept
    | with_reducible apply State.departAnc_kept
    | with_reducible apply State.departOpaque_kept
    | with_reducible apply State.departSdi_kept
    | with_reducible apply State.flowReturn_kept
    | split
    | with_reducible refine Kept.snd (by assumption) ?_
    | with_reducible refine Kept.third (by assumption) ?_
    | with_reducible refine Kept.last (by assumption) ?_
    | with_reducible refine Kept.fst (by assumption) ?_

theorem State.discardFrame_kept (k0 : State) (s : State) (f : TxFrame) (hk : Kept k0 s) : Kept k0 (State.discardFrame s f) := by
  unfold State.discardFrame
  try dsimp only
  repeat' first
    | with_reducible assumption
    | intro _
    | simp only [Kept.update]
    | with_reducible apply State.egrDiscard_kept
    | split
    | with_reducible refine Kept.snd (by assumption) ?_
    | with_reducible refine Kept.third (by assumption) ?_
    | with_reducible refine Kept.last (by assumption) ?_
    | with_reducible refine Kept.fst (by assumption) ?_

theorem execEgressFailover_kept (k0 : State) (b : Fin 48) (p : Fin 8) (remote : Bool) (s : State) (hk : Kept k0 s) : ∀ z, execEgressFailover b p remote s = .next z → Kept k0 z := by
  intro z e
  unfold execEgressFailover at e
  injection e with e
  rw [← e]
  try dsimp only
  repeat' first
    | with_reducible assumption
    | intro _
    | simp only [Kept.update]
    | with_reducible apply State.raise_kept
    | with_reducible apply State.takeQ2_kept
    | with_reducible apply State.setEgr_kept
    | with_reducible apply State.flowCount_kept
    | with_reducible apply State.discardFrame_kept
    | with_reducible apply Kept.forEach
    | split
    | with_reducible refine Kept.snd (by assumption) ?_
    | with_reducible refine Kept.third (by assumption) ?_
    | with_reducible refine Kept.last (by assumption) ?_
    | with_reducible refine Kept.fst (by assumption) ?_

theorem execEgressRevert_kept (k0 : State) (b : Fin 48) (p : Fin 8) (s : State) (hk : Kept k0 s) : ∀ z, execEgressRevert b p s = .next z → Kept k0 z := by
  intro z e
  unfold execEgressRevert at e
  injection e with e
  rw [← e]
  try dsimp only
  repeat' first
    | with_reducible assumption
    | intro _
    | simp only [Kept.update]
    | with_reducible apply State.setEgr_kept
    | with_reducible apply Kept.forEach
    | split

end Sys2Proof.Machine
end

