-- ==== Sys2Proof/Laws/Kept/Gbus.lean ====
section
/-!
SUPPORT. Laws/Kept/Gbus.lean: each operation of Machine/Gbus.lean keeps what Laws/Kept.lean names.
-/
set_option linter.unusedSimpArgs false
set_option linter.unusedVariables false
set_option linter.unusedTactic false
set_option linter.unreachableTactic false

namespace Sys2Proof.Machine

theorem State.setG_kept (k0 : State) (s : State) (g : GbusSt) (hk : Kept k0 s) : Kept k0 (State.setG s g) := by
  unfold State.setG
  try dsimp only
  repeat' first
    | with_reducible assumption
    | intro _
    | simp only [Kept.update]

theorem State.setGState_kept (k0 : State) (s : State) (v : Nat) (hk : Kept k0 s) : Kept k0 (State.setGState s v) := by
  unfold State.setGState
  try dsimp only
  repeat' first
    | with_reducible assumption
    | intro _
    | with_reducible apply State.wrF_kept

theorem State.gEvent_kept (k0 : State) (s : State) (b : Nat) (hk : Kept k0 s) : Kept k0 (State.gEvent s b) := by
  unfold State.gEvent
  try dsimp only
  repeat' first
    | with_reducible assumption
    | intro _
    | with_reducible apply State.raiseOwned_kept

theorem State.gSync_kept (k0 : State) (s : State) (hk : Kept k0 s) : Kept k0 (State.gSync s) := by
  unfold State.gSync
  try dsimp only
  repeat' first
    | with_reducible assumption
    | intro _
    | with_reducible apply State.wrF_kept
    | split

theorem State.gSend_kept (k0 : State) (s : State) (type arg : Nat) (hk : Kept k0 s) : Kept k0 (State.gSend s type arg) := by
  unfold State.gSend
  try dsimp only
  repeat' first
    | with_reducible assumption
    | intro _
    | simp only [Kept.update]
    | with_reducible apply State.setG_kept

theorem State.gRegister_kept (k0 : State) (s : State) (node : Nat) (hk : Kept k0 s) : Kept k0 (State.gRegister s node) := by
  unfold State.gRegister
  try dsimp only
  repeat' first
    | with_reducible assumption
    | intro _
    | with_reducible apply State.wrF_kept
    | with_reducible apply State.setGState_kept

theorem State.gJoin_kept (k0 : State) (s : State) (hk : Kept k0 s) : Kept k0 (State.gJoin s) := by
  unfold State.gJoin
  try dsimp only
  repeat' first
    | with_reducible assumption
    | intro _
    | simp only [Kept.update]
    | with_reducible apply State.setG_kept
    | with_reducible apply State.setGState_kept
    | with_reducible apply State.gRegister_kept
    | split

theorem State.gCycle_kept (k0 : State) (s : State) (hk : Kept k0 s) : Kept k0 (State.gCycle s) := by
  unfold State.gCycle
  try dsimp only
  repeat' first
    | with_reducible assumption
    | intro _
    | simp only [Kept.update]
    | with_reducible apply State.setG_kept

theorem State.gMissing_kept (k0 : State) (s : State) (hk : Kept k0 s) : Kept k0 (State.gMissing s) := by
  unfold State.gMissing
  try dsimp only
  repeat' first
    | with_reducible assumption
    | intro _
    | simp only [Kept.update]
    | with_reducible apply State.inc_kept
    | with_reducible apply State.setG_kept
    | with_reducible apply State.setGState_kept
    | with_reducible apply State.gEvent_kept
    | with_reducible apply State.gCycle_kept
    | split

theorem execBeacon_kept (k0 : State) (b : Beacon) (s : State) (hk : Kept k0 s) : ∀ z, execBeacon b s = .next z → Kept k0 z := by
  intro z e
  unfold execBeacon at e
  injection e with e
  rw [← e]
  try dsimp only
  repeat' first
    | with_reducible assumption
    | intro _
    | simp only [Kept.update]
    | with_reducible apply State.wr_kept
    | with_reducible apply State.wrF_kept
    | with_reducible apply State.setEnt_kept
    | with_reducible apply State.setG_kept
    | with_reducible apply State.setGState_kept
    | with_reducible apply State.gJoin_kept
    | with_reducible apply State.gCycle_kept
    | with_reducible apply State.gMissing_kept
    | with_reducible apply Kept.forEach
    | split
    | with_reducible refine Kept.snd (by assumption) ?_
    | with_reducible refine Kept.third (by assumption) ?_
    | with_reducible refine Kept.last (by assumption) ?_
    | with_reducible refine Kept.fst (by assumption) ?_

theorem execBeaconMissing_kept (k0 : State) (s : State) (hk : Kept k0 s) : ∀ z, execBeaconMissing s = .next z → Kept k0 z := by
  intro z e
  unfold execBeaconMissing at e
  injection e with e
  rw [← e]
  try dsimp only
  repeat' first
    | with_reducible assumption
    | intro _
    | with_reducible apply State.gMissing_kept

theorem execJoinAck_kept (k0 : State) (uid : BitVec 48) (node : BitVec 8) (s : State) (hk : Kept k0 s) : ∀ z, execJoinAck uid node s = .next z → Kept k0 z := by
  intro z e
  unfold execJoinAck at e
  injection e with e
  rw [← e]
  try dsimp only
  repeat' first
    | with_reducible assumption
    | intro _
    | simp only [Kept.update]
    | with_reducible apply State.setG_kept
    | with_reducible apply State.setGState_kept
    | with_reducible apply State.gEvent_kept
    | with_reducible apply State.gRegister_kept
    | split

theorem execJoinTimeout_kept (k0 : State) (s : State) (hk : Kept k0 s) : ∀ z, execJoinTimeout s = .next z → Kept k0 z := by
  intro z e
  unfold execJoinTimeout at e
  injection e with e
  rw [← e]
  try dsimp only
  repeat' first
    | with_reducible assumption
    | intro _
    | simp only [Kept.update]
    | with_reducible apply State.fresh_kept
    | with_reducible apply State.setG_kept
    | with_reducible apply State.gEvent_kept
    | split
    | with_reducible refine Kept.snd (by assumption) ?_
    | with_reducible refine Kept.third (by assumption) ?_
    | with_reducible refine Kept.last (by assumption) ?_
    | with_reducible refine Kept.fst (by assumption) ?_

theorem execRejectWaitExpire_kept (k0 : State) (s : State) (hk : Kept k0 s) : ∀ z, execRejectWaitExpire s = .next z → Kept k0 z := by
  intro z e
  unfold execRejectWaitExpire at e
  injection e with e
  rw [← e]
  try dsimp only
  repeat' first
    | with_reducible assumption
    | intro _
    | simp only [Kept.update]
    | with_reducible apply State.setG_kept
    | with_reducible apply State.setGState_kept
    | split

theorem State.autoPause_kept (k0 : State) (s : State) (hk : Kept k0 s) : Kept k0 (State.autoPause s) := by
  unfold State.autoPause
  try dsimp only
  repeat' first
    | with_reducible assumption
    | intro _
    | simp only [Kept.update]
    | with_reducible apply State.wrF_kept
    | with_reducible apply State.setG_kept
    | with_reducible apply State.gSend_kept
    | split
    | with_reducible refine Kept.snd (by assumption) ?_
    | with_reducible refine Kept.third (by assumption) ?_
    | with_reducible refine Kept.last (by assumption) ?_
    | with_reducible refine Kept.fst (by assumption) ?_

theorem execAutoPauseLimit_kept (k0 : State) (s : State) (hk : Kept k0 s) : ∀ z, execAutoPauseLimit s = .next z → Kept k0 z := by
  intro z e
  unfold execAutoPauseLimit at e
  injection e with e
  rw [← e]
  try dsimp only
  repeat' first
    | with_reducible assumption
    | intro _
    | simp only [Kept.update]
    | with_reducible apply State.wrF_kept
    | with_reducible apply State.setG_kept
    | with_reducible apply State.gSend_kept
    | split

theorem execDescriptorFetch_kept (k0 : State) (q : Fin 64) (rx : Bool) (d : BitVec 256) (hdr : BitVec 128) (s : State) (hk : Kept k0 s) : ∀ z, execDescriptorFetch q rx d hdr s = .next z → Kept k0 z := by
  intro z e
  unfold execDescriptorFetch at e
  injection e with e
  rw [← e]
  try dsimp only
  repeat' first
    | with_reducible assumption
    | intro _
    | with_reducible apply State.fetchDesc_kept
    | with_reducible apply State.giveQueue_kept
    | split

theorem execQTailWrite_kept (k0 : State) (t : Tag) (q : Fin 64) (rx : Bool) (tail : BitVec 12) (s : State) (hk : Kept k0 s) : ∀ z, execQTailWrite t q rx tail s = .next z → Kept k0 z := by
  intro z e
  unfold execQTailWrite at e
  injection e with e
  rw [← e]
  try dsimp only
  repeat' first
    | with_reducible assumption
    | intro _
    | with_reducible apply hostWrite_kept
    | with_reducible apply writeQTail_kept
    | with_reducible apply State.autoPause_kept

theorem State.gFinish_kept (k0 : State) (s : State) (q : Nat) (rx : Bool) (fin : Done) (hk : Kept k0 s) : Kept k0 (State.gFinish s q rx fin) := by
  unfold State.gFinish
  try dsimp only
  repeat' first
    | with_reducible assumption
    | intro _
    | simp only [Kept.update]
    | with_reducible apply State.setQrec_kept

theorem State.gOut_kept (k0 : State) (s : State) (slot type : Nat) (dst : Option Nat) (len : Nat) (payload : List (BitVec 8)) (collide : Bool) (hk : Kept k0 s) : Kept k0 (State.gOut s slot type dst len payload collide) := by
  unfold State.gOut
  try dsimp only
  repeat' first
    | with_reducible assumption
    | intro _
    | simp only [Kept.update]
    | with_reducible apply State.inc_kept
    | with_reducible apply State.emit_kept
    | with_reducible apply State.setG_kept
    | with_reducible apply State.gEvent_kept
    | split

theorem State.gCtl_kept (k0 : State) (s : State) (slot type arg : Nat) (dst : Option Nat) (collide : Bool) (hk : Kept k0 s) : Kept k0 (State.gCtl s slot type arg dst collide) := by
  unfold State.gCtl
  try dsimp only
  repeat' first
    | with_reducible assumption
    | intro _
    | with_reducible apply State.gOut_kept

theorem State.gTooLong_kept (k0 : State) (s : State) (hk : Kept k0 s) : Kept k0 (State.gTooLong s) := by
  unfold State.gTooLong
  try dsimp only
  repeat' first
    | with_reducible assumption
    | intro _
    | simp only [Kept.update]
    | with_reducible apply State.gFinish_kept
    | with_reducible apply Kept.forEach
    | split
    | with_reducible refine Kept.snd (by assumption) ?_
    | with_reducible refine Kept.third (by assumption) ?_
    | with_reducible refine Kept.last (by assumption) ?_
    | with_reducible refine Kept.fst (by assumption) ?_

theorem execGbusTransmit_kept (k0 : State) (slot : Fin 240) (fw : Option (Fin 1005)) (collide : Bool) (s : State) (hk : Kept k0 s) : ∀ z, execGbusTransmit slot fw collide s = .next z → Kept k0 z := by
  intro z e
  unfold execGbusTransmit at e
  injection e with e
  rw [← e]
  try dsimp only
  repeat' first
    | with_reducible assumption
    | intro _
    | simp only [Kept.update]
    | with_reducible apply State.setG_kept
    | with_reducible apply State.gFinish_kept
    | with_reducible apply State.gOut_kept
    | with_reducible apply State.gCtl_kept
    | with_reducible apply State.gTooLong_kept
    | split
    | with_reducible refine Kept.snd (by assumption) ?_
    | with_reducible refine Kept.third (by assumption) ?_
    | with_reducible refine Kept.last (by assumption) ?_
    | with_reducible refine Kept.fst (by assumption) ?_

theorem State.gSelf_kept (k0 : State) (s : State) (src : Nat) (hk : Kept k0 s) : Kept k0 (State.gSelf s src) := by
  unfold State.gSelf
  try dsimp only
  repeat' first
    | with_reducible assumption
    | intro _
    | with_reducible apply State.inc_kept
    | with_reducible apply State.gEvent_kept
    | split

theorem execGbusDataReceive_kept (k0 : State) (src dst : BitVec 8) (len : BitVec 16) (crcOk : Bool) (s : State) (hk : Kept k0 s) : ∀ z, execGbusDataReceive src dst len crcOk s = .next z → Kept k0 z := by
  intro z e
  unfold execGbusDataReceive at e
  injection e with e
  rw [← e]
  try dsimp only
  repeat' first
    | with_reducible assumption
    | intro _
    | simp only [Kept.update]
    | with_reducible apply State.inc_kept
    | with_reducible apply State.setQrec_kept
    | with_reducible apply State.setG_kept
    | with_reducible apply State.gEvent_kept
    | with_reducible apply State.autoPause_kept
    | with_reducible apply State.gSelf_kept
    | split
    | with_reducible refine Kept.snd (by assumption) ?_
    | with_reducible refine Kept.third (by assumption) ?_
    | with_reducible refine Kept.last (by assumption) ?_
    | with_reducible refine Kept.fst (by assumption) ?_

theorem State.setHold_kept (k0 : State) (s : State) (m : Nat) (h : Option HoldRec) (hk : Kept k0 s) : Kept k0 (State.setHold s m h) := by
  unfold State.setHold
  try dsimp only
  repeat' first
    | with_reducible assumption
    | intro _
    | simp only [Kept.update]
    | with_reducible apply State.setG_kept
    | with_reducible apply State.gSync_kept

theorem execGbusPause_kept (k0 : State) (m : Fin 64) (us : BitVec 16) (s : State) (hk : Kept k0 s) : ∀ z, execGbusPause m us s = .next z → Kept k0 z := by
  intro z e
  unfold execGbusPause at e
  injection e with e
  rw [← e]
  try dsimp only
  repeat' first
    | with_reducible assumption
    | intro _
    | simp only [Kept.update]
    | with_reducible apply State.gSelf_kept
    | with_reducible apply State.setHold_kept
    | split
    | with_reducible refine Kept.snd (by assumption) ?_
    | with_reducible refine Kept.third (by assumption) ?_
    | with_reducible refine Kept.last (by assumption) ?_
    | with_reducible refine Kept.fst (by assumption) ?_

theorem execGbusResume_kept (k0 : State) (m : Fin 64) (s : State) (hk : Kept k0 s) : ∀ z, execGbusResume m s = .next z → Kept k0 z := by
  intro z e
  unfold execGbusResume at e
  injection e with e
  rw [← e]
  try dsimp only
  repeat' first
    | with_reducible assumption
    | intro _
    | simp only [Kept.update]
    | with_reducible apply State.setG_kept
    | with_reducible apply State.gSelf_kept
    | with_reducible apply State.setHold_kept
    | split

theorem execPauseExpire_kept (k0 : State) (m : Fin 64) (s : State) (hk : Kept k0 s) : ∀ z, execPauseExpire m s = .next z → Kept k0 z := by
  intro z e
  unfold execPauseExpire at e
  injection e with e
  rw [← e]
  try dsimp only
  repeat' first
    | with_reducible assumption
    | intro _
    | simp only [Kept.update]
    | with_reducible apply State.setHold_kept
    | split
    | with_reducible refine Kept.snd (by assumption) ?_
    | with_reducible refine Kept.third (by assumption) ?_
    | with_reducible refine Kept.last (by assumption) ?_
    | with_reducible refine Kept.fst (by assumption) ?_

theorem execPauseWatchdog_kept (k0 : State) (m : Fin 64) (s : State) (hk : Kept k0 s) : ∀ z, execPauseWatchdog m s = .next z → Kept k0 z := by
  intro z e
  unfold execPauseWatchdog at e
  injection e with e
  rw [← e]
  try dsimp only
  repeat' first
    | with_reducible assumption
    | intro _
    | simp only [Kept.update]
    | with_reducible apply State.inc_kept
    | with_reducible apply State.setG_kept
    | with_reducible apply State.gEvent_kept
    | with_reducible apply State.setHold_kept
    | split
    | with_reducible refine Kept.snd (by assumption) ?_
    | with_reducible refine Kept.third (by assumption) ?_
    | with_reducible refine Kept.last (by assumption) ?_
    | with_reducible refine Kept.fst (by assumption) ?_

theorem execPauseIgnoreExpire_kept (k0 : State) (m : Fin 64) (s : State) (hk : Kept k0 s) : ∀ z, execPauseIgnoreExpire m s = .next z → Kept k0 z := by
  intro z e
  unfold execPauseIgnoreExpire at e
  injection e with e
  rw [← e]
  try dsimp only
  repeat' first
    | with_reducible assumption
    | intro _
    | simp only [Kept.update]
    | with_reducible apply State.setG_kept

theorem execLpiReq_kept (k0 : State) (s : State) (hk : Kept k0 s) : ∀ z, execLpiReq s = .next z → Kept k0 z := by
  intro z e
  unfold execLpiReq at e
  injection e with e
  rw [← e]
  try dsimp only
  repeat' first
    | with_reducible assumption
    | intro _
    | simp only [Kept.update]
    | with_reducible apply State.setG_kept
    | with_reducible apply State.gSend_kept
    | split

theorem execGbusWakeTone_kept (k0 : State) (s : State) (hk : Kept k0 s) : ∀ z, execGbusWakeTone s = .next z → Kept k0 z := by
  intro z e
  unfold execGbusWakeTone at e
  injection e with e
  rw [← e]
  try dsimp only
  repeat' first
    | with_reducible assumption
    | intro _
    | simp only [Kept.update]
    | with_reducible apply State.emit_kept
    | with_reducible apply State.setG_kept
    | split

theorem execGbusWakeTimeout_kept (k0 : State) (s : State) (hk : Kept k0 s) : ∀ z, execGbusWakeTimeout s = .next z → Kept k0 z := by
  intro z e
  unfold execGbusWakeTimeout at e
  injection e with e
  rw [← e]
  try dsimp only
  repeat' first
    | with_reducible assumption
    | intro _
    | simp only [Kept.update]
    | with_reducible apply State.setG_kept
    | with_reducible apply State.setGState_kept
    | split

theorem State.gStop_kept (k0 : State) (s : State) (hk : Kept k0 s) : Kept k0 (State.gStop s) := by
  unfold State.gStop
  try dsimp only
  repeat' first
    | with_reducible assumption
    | intro _
    | simp only [Kept.update]
    | with_reducible apply State.wrF_kept
    | with_reducible apply State.setQrec_kept
    | with_reducible apply State.setG_kept
    | with_reducible apply Kept.forEach
    | split

theorem writeGbusCfg_kept (k0 : State) (d : Word) (s : State) (hk : Kept k0 s) : Kept k0 (writeGbusCfg d s) := by
  unfold writeGbusCfg
  try dsimp only
  repeat' first
    | with_reducible assumption
    | intro _
    | with_reducible apply State.wr_kept
    | with_reducible apply State.setGState_kept
    | with_reducible apply State.gEvent_kept
    | with_reducible apply State.autoPause_kept
    | with_reducible apply State.gStop_kept
    | split

theorem writeWakeOwn_kept (k0 : State) (d : Word) (s : State) (hk : Kept k0 s) : Kept k0 (writeWakeOwn d s) := by
  unfold writeWakeOwn
  try dsimp only
  repeat' first
    | with_reducible assumption
    | intro _
    | with_reducible apply State.wr_kept
    | with_reducible apply State.gEvent_kept
    | split

theorem State.gSleep_kept (k0 : State) (s : State) (hk : Kept k0 s) : Kept k0 (State.gSleep s) := by
  unfold State.gSleep
  try dsimp only
  repeat' first
    | with_reducible assumption
    | intro _
    | simp only [Kept.update]
    | with_reducible apply State.setG_kept

theorem gbusTableWrite_kept (k0 : State) (s : State) (hk : Kept k0 s) : Kept k0 (gbusTableWrite s).2 := by
  unfold gbusTableWrite
  try dsimp only
  repeat' first
    | with_reducible assumption
    | intro _
    | with_reducible apply State.gEvent_kept

theorem State.gbusSnap_kept (k0 : State) (s : State) (hk : Kept k0 s) : Kept k0 (State.gbusSnap s) := by
  unfold State.gbusSnap
  try dsimp only
  repeat' first
    | with_reducible assumption
    | intro _
    | with_reducible apply State.snap_kept
    | with_reducible apply Kept.forEach

end Sys2Proof.Machine
end

