-- ==== Sys2Proof/Laws/Kept/Foley.lean ====
section
/-!
SUPPORT. Laws/Kept/Foley.lean: each operation of Machine/Foley.lean keeps what Laws/Kept.lean names.
-/
set_option linter.unusedSimpArgs false
set_option linter.unusedVariables false
set_option linter.unusedTactic false
set_option linter.unreachableTactic false

namespace Sys2Proof.Machine

theorem State.setFol_kept (k0 : State) (s : State) (c : Nat) (r : FolRec) (hk : Kept k0 s) : Kept k0 (State.setFol s c r) := by
  unfold State.setFol
  try dsimp only
  repeat' first
    | with_reducible assumption
    | intro _
    | simp only [Kept.update]

theorem State.folEvent_kept (k0 : State) (s : State) (c b : Nat) (hk : Kept k0 s) : Kept k0 (State.folEvent s c b) := by
  unfold State.folEvent
  try dsimp only
  repeat' first
    | with_reducible assumption
    | intro _
    | with_reducible apply State.raiseOwned_kept

theorem State.setFolMem_kept (k0 : State) (s : State) (c sel a : Nat) (v : BitVec 72) (hk : Kept k0 s) : Kept k0 (State.setFolMem s c sel a v) := by
  unfold State.setFolMem
  try dsimp only
  repeat' first
    | with_reducible assumption
    | intro _
    | with_reducible apply State.setEntWords_kept

theorem State.folHalt_kept (k0 : State) (s : State) (c why : Nat) (hk : Kept k0 s) : Kept k0 (State.folHalt s c why) := by
  unfold State.folHalt
  try dsimp only
  repeat' first
    | with_reducible assumption
    | intro _
    | with_reducible apply State.wrF_kept
    | with_reducible apply State.folEvent_kept

theorem State.folExc_kept (k0 : State) (s : State) (c vector code : Nat) (hk : Kept k0 s) : Kept k0 (State.folExc s c vector code) := by
  unfold State.folExc
  try dsimp only
  repeat' first
    | with_reducible assumption
    | intro _
    | simp only [Kept.update]
    | with_reducible apply State.incSat_kept
    | with_reducible apply State.setFol_kept
    | with_reducible apply State.folEvent_kept
    | with_reducible apply State.folHalt_kept
    | split
    | with_reducible refine Kept.snd (by assumption) ?_
    | with_reducible refine Kept.third (by assumption) ?_
    | with_reducible refine Kept.last (by assumption) ?_
    | with_reducible refine Kept.fst (by assumption) ?_

/-- What an instruction's result keeps. -/
def FolRes.keeps (k0 : State) : FolRes → Prop
  | .done s _ => Kept k0 s
  | .exc _ _ => True
  | .own s => Kept k0 s

theorem FolRes.keeps_done (k0 s : State) (r : FolRec) : FolRes.keeps k0 (.done s r) = Kept k0 s := rfl
theorem FolRes.keeps_own (k0 s : State) : FolRes.keeps k0 (.own s) = Kept k0 s := rfl
theorem FolRes.keeps_exc (k0 : State) (v n : Nat) : FolRes.keeps k0 (.exc v n) = True := rfl
theorem FolRes.keeps_illegal (k0 : State) (n : Nat) : FolRes.keeps k0 (.illegal n) = True := rfl


theorem folIssue_kept (k0 : State) (c code : Nat) (eff : Nat → FolRec → FolRes) (s : State) (hk : Kept k0 s)
    (heff : ∀ w r, FolRes.keeps k0 (eff w r)) : Kept k0 (folIssue c code eff s) := by
  have hx : ∀ v n, Kept k0 (s.folExc c v n) := fun v n => State.folExc_kept _ _ _ _ _ hk
  unfold folIssue
  extract_lets r w atEnd
  have hw := heff w r
  split
  · exact hk
  split
  · exact hx 0 1
  split
  · exact hk
  split
  · exact hx 0 1
  split
  · exact hx 0 2
  split
  · exact hx 0 4
  split
  · rename_i h; rw [h] at hw; exact State.setFol_kept _ _ _ _ hw
  · exact hx _ _
  · rename_i h; rw [h] at hw; exact hw

theorem folAcc_kept (k0 : State) (s : State) (r : FolRec) (n : Nat) (v : Int) (hk : Kept k0 s) : FolRes.keeps k0 (folAcc s r n v) := by
  unfold folAcc
  try dsimp only
  repeat' first
    | with_reducible assumption
    | intro _
    | exact trivial
    | with_reducible exact Kept.refl _
    | simp only [FolRes.keeps_done, FolRes.keeps_own, FolRes.keeps_exc, FolRes.keeps_illegal]
    | simp only [Kept.update]
    | split

theorem folLoads_kept (k0 s : State) (r : FolRec) (l : List (Nat × BitVec 36)) (seen : List Nat) (hk : Kept k0 s) :
    Kept k0 (folLoads s r l seen).1 := by
  induction l generalizing s r seen with
  | nil => exact hk
  | cons e rest ih =>
    unfold folLoads
    split
    · exact ih _ _ _ (State.fresh_kept k0 s 36 hk)
    · exact ih _ _ _ hk

theorem folMac_kept (k0 : State) (c : Nat) (f : Int → Int → Int) (s : State) (w : Nat) (r : FolRec) (hk : Kept k0 s) :
    FolRes.keeps k0 (folMac c f s w r) := by
  unfold folMac
  extract_lets mx my n s1 s2 oddPair noHalf
  split
  · exact trivial
  · exact folAcc_kept _ _ _ _ _ (folLoads_kept _ _ _ _ _ hk)

theorem execFoMpy_kept (k0 : State) (c : Fin 64) (s : State) (hk : Kept k0 s) : ∀ z, execFoMpy c s = .next z → Kept k0 z := by
  intro z e
  unfold execFoMpy at e
  injection e with e
  rw [← e]
  try dsimp only
  repeat' first
    | with_reducible assumption
    | intro _
    | exact trivial
    | with_reducible exact Kept.refl _
    | simp only [FolRes.keeps_done, FolRes.keeps_own, FolRes.keeps_exc, FolRes.keeps_illegal]
    | with_reducible apply folIssue_kept
    | with_reducible apply folMac_kept

theorem execFoMac_kept (k0 : State) (c : Fin 64) (s : State) (hk : Kept k0 s) : ∀ z, execFoMac c s = .next z → Kept k0 z := by
  intro z e
  unfold execFoMac at e
  injection e with e
  rw [← e]
  try dsimp only
  repeat' first
    | with_reducible assumption
    | intro _
    | exact trivial
    | with_reducible exact Kept.refl _
    | simp only [FolRes.keeps_done, FolRes.keeps_own, FolRes.keeps_exc, FolRes.keeps_illegal]
    | with_reducible apply folIssue_kept
    | with_reducible apply folMac_kept

theorem execFoMsu_kept (k0 : State) (c : Fin 64) (s : State) (hk : Kept k0 s) : ∀ z, execFoMsu c s = .next z → Kept k0 z := by
  intro z e
  unfold execFoMsu at e
  injection e with e
  rw [← e]
  try dsimp only
  repeat' first
    | with_reducible assumption
    | intro _
    | exact trivial
    | with_reducible exact Kept.refl _
    | simp only [FolRes.keeps_done, FolRes.keeps_own, FolRes.keeps_exc, FolRes.keeps_illegal]
    | with_reducible apply folIssue_kept
    | with_reducible apply folMac_kept

theorem aluArith_kept (k0 : State) (f : Nat → FolRec → Int) (s : State) (w : Nat) (r : FolRec) (hk : Kept k0 s) : FolRes.keeps k0 (aluArith f s w r) := by
  unfold aluArith
  try dsimp only
  repeat' first
    | with_reducible assumption
    | intro _
    | exact trivial
    | with_reducible exact Kept.refl _
    | simp only [FolRes.keeps_done, FolRes.keeps_own, FolRes.keeps_exc, FolRes.keeps_illegal]
    | with_reducible apply folAcc_kept

theorem aluPut_kept (k0 : State) (f : Nat → FolRec → BitVec 72) (s : State) (w : Nat) (r : FolRec) (hk : Kept k0 s) : FolRes.keeps k0 (aluPut f s w r) := by
  unfold aluPut
  try dsimp only
  repeat' first
    | with_reducible assumption
    | intro _
    | exact trivial
    | with_reducible exact Kept.refl _
    | simp only [FolRes.keeps_done, FolRes.keeps_own, FolRes.keeps_exc, FolRes.keeps_illegal]

theorem aluShift_kept (k0 : State) (f : FolRec → FolRes) (w : Nat) (r : FolRec) (hk : Kept k0 k0) (hf : ∀ y0, FolRes.keeps k0 (f y0)) : FolRes.keeps k0 (aluShift f w r) := by
  unfold aluShift
  try dsimp only
  repeat' first
    | with_reducible assumption
    | apply hf
    | intro _
    | exact trivial
    | with_reducible exact Kept.refl _
    | simp only [FolRes.keeps_done, FolRes.keeps_own, FolRes.keeps_exc, FolRes.keeps_illegal]
    | split

theorem execFoClr_kept (k0 : State) (c : Fin 64) (s : State) (hk : Kept k0 s) : ∀ z, execFoClr c s = .next z → Kept k0 z := by
  intro z e
  unfold execFoClr at e
  injection e with e
  rw [← e]
  try dsimp only
  repeat' first
    | with_reducible assumption
    | intro _
    | exact trivial
    | with_reducible exact Kept.refl _
    | simp only [FolRes.keeps_done, FolRes.keeps_own, FolRes.keeps_exc, FolRes.keeps_illegal]
    | simp only [Kept.update]
    | with_reducible apply folIssue_kept

theorem execFoAdd_kept (k0 : State) (c : Fin 64) (s : State) (hk : Kept k0 s) : ∀ z, execFoAdd c s = .next z → Kept k0 z := by
  intro z e
  unfold execFoAdd at e
  injection e with e
  rw [← e]
  try dsimp only
  repeat' first
    | with_reducible assumption
    | intro _
    | exact trivial
    | with_reducible exact Kept.refl _
    | simp only [FolRes.keeps_done, FolRes.keeps_own, FolRes.keeps_exc, FolRes.keeps_illegal]
    | with_reducible apply folIssue_kept
    | with_reducible apply aluArith_kept

theorem execFoSub_kept (k0 : State) (c : Fin 64) (s : State) (hk : Kept k0 s) : ∀ z, execFoSub c s = .next z → Kept k0 z := by
  intro z e
  unfold execFoSub at e
  injection e with e
  rw [← e]
  try dsimp only
  repeat' first
    | with_reducible assumption
    | intro _
    | exact trivial
    | with_reducible exact Kept.refl _
    | simp only [FolRes.keeps_done, FolRes.keeps_own, FolRes.keeps_exc, FolRes.keeps_illegal]
    | with_reducible apply folIssue_kept
    | with_reducible apply aluArith_kept

theorem execFoNeg_kept (k0 : State) (c : Fin 64) (s : State) (hk : Kept k0 s) : ∀ z, execFoNeg c s = .next z → Kept k0 z := by
  intro z e
  unfold execFoNeg at e
  injection e with e
  rw [← e]
  try dsimp only
  repeat' first
    | with_reducible assumption
    | intro _
    | exact trivial
    | with_reducible exact Kept.refl _
    | simp only [FolRes.keeps_done, FolRes.keeps_own, FolRes.keeps_exc, FolRes.keeps_illegal]
    | with_reducible apply folIssue_kept
    | with_reducible apply aluArith_kept

theorem execFoAbs_kept (k0 : State) (c : Fin 64) (s : State) (hk : Kept k0 s) : ∀ z, execFoAbs c s = .next z → Kept k0 z := by
  intro z e
  unfold execFoAbs at e
  injection e with e
  rw [← e]
  try dsimp only
  repeat' first
    | with_reducible assumption
    | intro _
    | exact trivial
    | with_reducible exact Kept.refl _
    | simp only [FolRes.keeps_done, FolRes.keeps_own, FolRes.keeps_exc, FolRes.keeps_illegal]
    | with_reducible apply folIssue_kept
    | with_reducible apply aluArith_kept

theorem execFoMax_kept (k0 : State) (c : Fin 64) (s : State) (hk : Kept k0 s) : ∀ z, execFoMax c s = .next z → Kept k0 z := by
  intro z e
  unfold execFoMax at e
  injection e with e
  rw [← e]
  try dsimp only
  repeat' first
    | with_reducible assumption
    | intro _
    | exact trivial
    | with_reducible exact Kept.refl _
    | simp only [FolRes.keeps_done, FolRes.keeps_own, FolRes.keeps_exc, FolRes.keeps_illegal]
    | with_reducible apply folIssue_kept
    | with_reducible apply aluPut_kept
    | split

theorem execFoMin_kept (k0 : State) (c : Fin 64) (s : State) (hk : Kept k0 s) : ∀ z, execFoMin c s = .next z → Kept k0 z := by
  intro z e
  unfold execFoMin at e
  injection e with e
  rw [← e]
  try dsimp only
  repeat' first
    | with_reducible assumption
    | intro _
    | exact trivial
    | with_reducible exact Kept.refl _
    | simp only [FolRes.keeps_done, FolRes.keeps_own, FolRes.keeps_exc, FolRes.keeps_illegal]
    | with_reducible apply folIssue_kept
    | with_reducible apply aluPut_kept
    | split

theorem execFoAsl_kept (k0 : State) (c : Fin 64) (s : State) (hk : Kept k0 s) : ∀ z, execFoAsl c s = .next z → Kept k0 z := by
  intro z e
  unfold execFoAsl at e
  injection e with e
  rw [← e]
  try dsimp only
  repeat' first
    | with_reducible assumption
    | intro _
    | exact trivial
    | with_reducible exact Kept.refl _
    | simp only [FolRes.keeps_done, FolRes.keeps_own, FolRes.keeps_exc, FolRes.keeps_illegal]
    | with_reducible apply folIssue_kept
    | with_reducible apply aluArith_kept
    | with_reducible apply aluShift_kept

theorem execFoAsr_kept (k0 : State) (c : Fin 64) (s : State) (hk : Kept k0 s) : ∀ z, execFoAsr c s = .next z → Kept k0 z := by
  intro z e
  unfold execFoAsr at e
  injection e with e
  rw [← e]
  try dsimp only
  repeat' first
    | with_reducible assumption
    | intro _
    | exact trivial
    | with_reducible exact Kept.refl _
    | simp only [FolRes.keeps_done, FolRes.keeps_own, FolRes.keeps_exc, FolRes.keeps_illegal]
    | with_reducible apply folIssue_kept
    | with_reducible apply aluPut_kept
    | with_reducible apply aluShift_kept

theorem execFoAnd_kept (k0 : State) (c : Fin 64) (s : State) (hk : Kept k0 s) : ∀ z, execFoAnd c s = .next z → Kept k0 z := by
  intro z e
  unfold execFoAnd at e
  injection e with e
  rw [← e]
  try dsimp only
  repeat' first
    | with_reducible assumption
    | intro _
    | exact trivial
    | with_reducible exact Kept.refl _
    | simp only [FolRes.keeps_done, FolRes.keeps_own, FolRes.keeps_exc, FolRes.keeps_illegal]
    | with_reducible apply folIssue_kept
    | with_reducible apply aluPut_kept

theorem execFoOr_kept (k0 : State) (c : Fin 64) (s : State) (hk : Kept k0 s) : ∀ z, execFoOr c s = .next z → Kept k0 z := by
  intro z e
  unfold execFoOr at e
  injection e with e
  rw [← e]
  try dsimp only
  repeat' first
    | with_reducible assumption
    | intro _
    | exact trivial
    | with_reducible exact Kept.refl _
    | simp only [FolRes.keeps_done, FolRes.keeps_own, FolRes.keeps_exc, FolRes.keeps_illegal]
    | with_reducible apply folIssue_kept
    | with_reducible apply aluPut_kept

theorem execFoXor_kept (k0 : State) (c : Fin 64) (s : State) (hk : Kept k0 s) : ∀ z, execFoXor c s = .next z → Kept k0 z := by
  intro z e
  unfold execFoXor at e
  injection e with e
  rw [← e]
  try dsimp only
  repeat' first
    | with_reducible assumption
    | intro _
    | exact trivial
    | with_reducible exact Kept.refl _
    | simp only [FolRes.keeps_done, FolRes.keeps_own, FolRes.keeps_exc, FolRes.keeps_illegal]
    | with_reducible apply folIssue_kept
    | with_reducible apply aluPut_kept

theorem execFoMova_kept (k0 : State) (c : Fin 64) (s : State) (hk : Kept k0 s) : ∀ z, execFoMova c s = .next z → Kept k0 z := by
  intro z e
  unfold execFoMova at e
  injection e with e
  rw [← e]
  try dsimp only
  repeat' first
    | with_reducible assumption
    | intro _
    | exact trivial
    | with_reducible exact Kept.refl _
    | simp only [FolRes.keeps_done, FolRes.keeps_own, FolRes.keeps_exc, FolRes.keeps_illegal]
    | with_reducible apply folIssue_kept
    | with_reducible apply aluPut_kept

theorem execFoAddd_kept (k0 : State) (c : Fin 64) (s : State) (hk : Kept k0 s) : ∀ z, execFoAddd c s = .next z → Kept k0 z := by
  intro z e
  unfold execFoAddd at e
  injection e with e
  rw [← e]
  try dsimp only
  repeat' first
    | with_reducible assumption
    | intro _
    | exact trivial
    | with_reducible exact Kept.refl _
    | simp only [FolRes.keeps_done, FolRes.keeps_own, FolRes.keeps_exc, FolRes.keeps_illegal]
    | with_reducible apply folIssue_kept
    | with_reducible apply aluArith_kept

theorem execFoMovd_kept (k0 : State) (c : Fin 64) (s : State) (hk : Kept k0 s) : ∀ z, execFoMovd c s = .next z → Kept k0 z := by
  intro z e
  unfold execFoMovd at e
  injection e with e
  rw [← e]
  try dsimp only
  repeat' first
    | with_reducible assumption
    | intro _
    | exact trivial
    | with_reducible exact Kept.refl _
    | simp only [FolRes.keeps_done, FolRes.keeps_own, FolRes.keeps_exc, FolRes.keeps_illegal]
    | with_reducible apply folIssue_kept
    | with_reducible apply aluPut_kept

theorem execFoMovda_kept (k0 : State) (c : Fin 64) (s : State) (hk : Kept k0 s) : ∀ z, execFoMovda c s = .next z → Kept k0 z := by
  intro z e
  unfold execFoMovda at e
  injection e with e
  rw [← e]
  try dsimp only
  repeat' first
    | with_reducible assumption
    | intro _
    | exact trivial
    | with_reducible exact Kept.refl _
    | simp only [FolRes.keeps_done, FolRes.keeps_own, FolRes.keeps_exc, FolRes.keeps_illegal]
    | with_reducible apply folIssue_kept

theorem execFoSetlo_kept (k0 : State) (c : Fin 64) (s : State) (hk : Kept k0 s) : ∀ z, execFoSetlo c s = .next z → Kept k0 z := by
  intro z e
  unfold execFoSetlo at e
  injection e with e
  rw [← e]
  try dsimp only
  repeat' first
    | with_reducible assumption
    | intro _
    | exact trivial
    | with_reducible exact Kept.refl _
    | simp only [FolRes.keeps_done, FolRes.keeps_own, FolRes.keeps_exc, FolRes.keeps_illegal]
    | with_reducible apply folIssue_kept

theorem execFoSethi_kept (k0 : State) (c : Fin 64) (s : State) (hk : Kept k0 s) : ∀ z, execFoSethi c s = .next z → Kept k0 z := by
  intro z e
  unfold execFoSethi at e
  injection e with e
  rw [← e]
  try dsimp only
  repeat' first
    | with_reducible assumption
    | intro _
    | exact trivial
    | with_reducible exact Kept.refl _
    | simp only [FolRes.keeps_done, FolRes.keeps_own, FolRes.keeps_exc, FolRes.keeps_illegal]
    | with_reducible apply folIssue_kept

theorem folFir_kept (k0 : State) (c : Nat) (first : Bool) (s : State) (w : Nat) (r : FolRec) (hk : Kept k0 s) : FolRes.keeps k0 (folFir c first s w r) := by
  unfold folFir
  try dsimp only
  repeat' first
    | with_reducible assumption
    | intro _
    | exact trivial
    | with_reducible exact Kept.refl _
    | simp only [FolRes.keeps_done, FolRes.keeps_own, FolRes.keeps_exc, FolRes.keeps_illegal]
    | with_reducible apply State.setFolMem_kept
    | with_reducible apply folAcc_kept
    | split

theorem execFoFir_kept (k0 : State) (c : Fin 64) (s : State) (hk : Kept k0 s) : ∀ z, execFoFir c s = .next z → Kept k0 z := by
  intro z e
  unfold execFoFir at e
  injection e with e
  rw [← e]
  try dsimp only
  repeat' first
    | with_reducible assumption
    | intro _
    | exact trivial
    | with_reducible exact Kept.refl _
    | simp only [FolRes.keeps_done, FolRes.keeps_own, FolRes.keeps_exc, FolRes.keeps_illegal]
    | with_reducible apply folIssue_kept
    | with_reducible apply folFir_kept

theorem execFoFird_kept (k0 : State) (c : Fin 64) (s : State) (hk : Kept k0 s) : ∀ z, execFoFird c s = .next z → Kept k0 z := by
  intro z e
  unfold execFoFird at e
  injection e with e
  rw [← e]
  try dsimp only
  repeat' first
    | with_reducible assumption
    | intro _
    | exact trivial
    | with_reducible exact Kept.refl _
    | simp only [FolRes.keeps_done, FolRes.keeps_own, FolRes.keeps_exc, FolRes.keeps_illegal]
    | with_reducible apply folIssue_kept
    | with_reducible apply folFir_kept

theorem folSrch_kept (k0 : State) (c : Nat) (better : Int → Int → Bool) (conv : BitVec 36 → Int) (s : State) (w : Nat) (r : FolRec) (hk : Kept k0 s) : FolRes.keeps k0 (folSrch c better conv s w r) := by
  unfold folSrch
  try dsimp only
  repeat' first
    | with_reducible assumption
    | intro _
    | exact trivial
    | with_reducible exact Kept.refl _
    | simp only [FolRes.keeps_done, FolRes.keeps_own, FolRes.keeps_exc, FolRes.keeps_illegal]
    | simp only [Kept.update]
    | split
    | with_reducible refine Kept.snd (by assumption) ?_
    | with_reducible refine Kept.third (by assumption) ?_
    | with_reducible refine Kept.last (by assumption) ?_
    | with_reducible refine Kept.fst (by assumption) ?_

theorem execFoSmax_kept (k0 : State) (c : Fin 64) (s : State) (hk : Kept k0 s) : ∀ z, execFoSmax c s = .next z → Kept k0 z := by
  intro z e
  unfold execFoSmax at e
  injection e with e
  rw [← e]
  try dsimp only
  repeat' first
    | with_reducible assumption
    | intro _
    | exact trivial
    | with_reducible exact Kept.refl _
    | simp only [FolRes.keeps_done, FolRes.keeps_own, FolRes.keeps_exc, FolRes.keeps_illegal]
    | with_reducible apply folIssue_kept
    | with_reducible apply folSrch_kept

theorem execFoSmin_kept (k0 : State) (c : Fin 64) (s : State) (hk : Kept k0 s) : ∀ z, execFoSmin c s = .next z → Kept k0 z := by
  intro z e
  unfold execFoSmin at e
  injection e with e
  rw [← e]
  try dsimp only
  repeat' first
    | with_reducible assumption
    | intro _
    | exact trivial
    | with_reducible exact Kept.refl _
    | simp only [FolRes.keeps_done, FolRes.keeps_own, FolRes.keeps_exc, FolRes.keeps_illegal]
    | with_reducible apply folIssue_kept
    | with_reducible apply folSrch_kept

theorem execFoSmaxa_kept (k0 : State) (c : Fin 64) (s : State) (hk : Kept k0 s) : ∀ z, execFoSmaxa c s = .next z → Kept k0 z := by
  intro z e
  unfold execFoSmaxa at e
  injection e with e
  rw [← e]
  try dsimp only
  repeat' first
    | with_reducible assumption
    | intro _
    | exact trivial
    | with_reducible exact Kept.refl _
    | simp only [FolRes.keeps_done, FolRes.keeps_own, FolRes.keeps_exc, FolRes.keeps_illegal]
    | with_reducible apply folIssue_kept
    | with_reducible apply folSrch_kept

theorem execFoSmina_kept (k0 : State) (c : Fin 64) (s : State) (hk : Kept k0 s) : ∀ z, execFoSmina c s = .next z → Kept k0 z := by
  intro z e
  unfold execFoSmina at e
  injection e with e
  rw [← e]
  try dsimp only
  repeat' first
    | with_reducible assumption
    | intro _
    | exact trivial
    | with_reducible exact Kept.refl _
    | simp only [FolRes.keeps_done, FolRes.keeps_own, FolRes.keeps_exc, FolRes.keeps_illegal]
    | with_reducible apply folIssue_kept
    | with_reducible apply folSrch_kept

theorem execFoLd_kept (k0 : State) (c : Fin 64) (s : State) (hk : Kept k0 s) : ∀ z, execFoLd c s = .next z → Kept k0 z := by
  intro z e
  unfold execFoLd at e
  injection e with e
  rw [← e]
  try dsimp only
  repeat' first
    | with_reducible assumption
    | intro _
    | exact trivial
    | with_reducible exact Kept.refl _
    | simp only [FolRes.keeps_done, FolRes.keeps_own, FolRes.keeps_exc, FolRes.keeps_illegal]
    | with_reducible apply folIssue_kept
    | split
    | with_reducible refine Kept.snd (by assumption) ?_
    | with_reducible refine Kept.third (by assumption) ?_
    | with_reducible refine Kept.last (by assumption) ?_
    | with_reducible refine Kept.fst (by assumption) ?_

theorem execFoSt_kept (k0 : State) (c : Fin 64) (s : State) (hk : Kept k0 s) : ∀ z, execFoSt c s = .next z → Kept k0 z := by
  intro z e
  unfold execFoSt at e
  injection e with e
  rw [← e]
  try dsimp only
  repeat' first
    | with_reducible assumption
    | intro _
    | exact trivial
    | with_reducible exact Kept.refl _
    | simp only [FolRes.keeps_done, FolRes.keeps_own, FolRes.keeps_exc, FolRes.keeps_illegal]
    | with_reducible apply State.setFolMem_kept
    | with_reducible apply folIssue_kept
    | split
    | with_reducible refine Kept.snd (by assumption) ?_
    | with_reducible refine Kept.third (by assumption) ?_
    | with_reducible refine Kept.last (by assumption) ?_
    | with_reducible refine Kept.fst (by assumption) ?_

theorem execFoLda_kept (k0 : State) (c : Fin 64) (s : State) (hk : Kept k0 s) : ∀ z, execFoLda c s = .next z → Kept k0 z := by
  intro z e
  unfold execFoLda at e
  injection e with e
  rw [← e]
  try dsimp only
  repeat' first
    | with_reducible assumption
    | intro _
    | exact trivial
    | with_reducible exact Kept.refl _
    | simp only [FolRes.keeps_done, FolRes.keeps_own, FolRes.keeps_exc, FolRes.keeps_illegal]
    | with_reducible apply folIssue_kept
    | split
    | with_reducible refine Kept.snd (by assumption) ?_
    | with_reducible refine Kept.third (by assumption) ?_
    | with_reducible refine Kept.last (by assumption) ?_
    | with_reducible refine Kept.fst (by assumption) ?_

theorem execFoSta_kept (k0 : State) (c : Fin 64) (s : State) (hk : Kept k0 s) : ∀ z, execFoSta c s = .next z → Kept k0 z := by
  intro z e
  unfold execFoSta at e
  injection e with e
  rw [← e]
  try dsimp only
  repeat' first
    | with_reducible assumption
    | intro _
    | exact trivial
    | with_reducible exact Kept.refl _
    | simp only [FolRes.keeps_done, FolRes.keeps_own, FolRes.keeps_exc, FolRes.keeps_illegal]
    | with_reducible apply State.setFolMem_kept
    | with_reducible apply folIssue_kept
    | split
    | with_reducible refine Kept.snd (by assumption) ?_
    | with_reducible refine Kept.third (by assumption) ?_
    | with_reducible refine Kept.last (by assumption) ?_
    | with_reducible refine Kept.fst (by assumption) ?_

theorem execFoStah_kept (k0 : State) (c : Fin 64) (s : State) (hk : Kept k0 s) : ∀ z, execFoStah c s = .next z → Kept k0 z := by
  intro z e
  unfold execFoStah at e
  injection e with e
  rw [← e]
  try dsimp only
  repeat' first
    | with_reducible assumption
    | intro _
    | exact trivial
    | with_reducible exact Kept.refl _
    | simp only [FolRes.keeps_done, FolRes.keeps_own, FolRes.keeps_exc, FolRes.keeps_illegal]
    | with_reducible apply State.setFolMem_kept
    | with_reducible apply folIssue_kept
    | split
    | with_reducible refine Kept.snd (by assumption) ?_
    | with_reducible refine Kept.third (by assumption) ?_
    | with_reducible refine Kept.last (by assumption) ?_
    | with_reducible refine Kept.fst (by assumption) ?_

theorem execFoLdi_kept (k0 : State) (c : Fin 64) (s : State) (hk : Kept k0 s) : ∀ z, execFoLdi c s = .next z → Kept k0 z := by
  intro z e
  unfold execFoLdi at e
  injection e with e
  rw [← e]
  try dsimp only
  repeat' first
    | with_reducible assumption
    | intro _
    | exact trivial
    | with_reducible exact Kept.refl _
    | simp only [FolRes.keeps_done, FolRes.keeps_own, FolRes.keeps_exc, FolRes.keeps_illegal]
    | with_reducible apply folIssue_kept

theorem execFoLdp_kept (k0 : State) (c : Fin 64) (s : State) (hk : Kept k0 s) : ∀ z, execFoLdp c s = .next z → Kept k0 z := by
  intro z e
  unfold execFoLdp at e
  injection e with e
  rw [← e]
  try dsimp only
  repeat' first
    | with_reducible assumption
    | intro _
    | exact trivial
    | with_reducible exact Kept.refl _
    | simp only [FolRes.keeps_done, FolRes.keeps_own, FolRes.keeps_exc, FolRes.keeps_illegal]
    | simp only [Kept.update]
    | with_reducible apply folIssue_kept
    | split
    | with_reducible refine Kept.snd (by assumption) ?_
    | with_reducible refine Kept.third (by assumption) ?_
    | with_reducible refine Kept.last (by assumption) ?_
    | with_reducible refine Kept.fst (by assumption) ?_

theorem folBranch_kept (k0 : State) (c : Nat) (taken : Bool) (target : Nat) (lr : Option Nat) (s : State) (r : FolRec) (hk : Kept k0 s) : FolRes.keeps k0 (folBranch c taken target lr s r) := by
  unfold folBranch
  try dsimp only
  repeat' first
    | with_reducible assumption
    | intro _
    | exact trivial
    | with_reducible exact Kept.refl _
    | simp only [FolRes.keeps_done, FolRes.keeps_own, FolRes.keeps_exc, FolRes.keeps_illegal]
    | simp only [Kept.update]
    | with_reducible apply State.setFol_kept
    | split

theorem execFoNop_kept (k0 : State) (c : Fin 64) (s : State) (hk : Kept k0 s) : ∀ z, execFoNop c s = .next z → Kept k0 z := by
  intro z e
  unfold execFoNop at e
  injection e with e
  rw [← e]
  try dsimp only
  repeat' first
    | with_reducible assumption
    | intro _
    | exact trivial
    | with_reducible exact Kept.refl _
    | simp only [FolRes.keeps_done, FolRes.keeps_own, FolRes.keeps_exc, FolRes.keeps_illegal]
    | with_reducible apply folIssue_kept

theorem execFoBra_kept (k0 : State) (c : Fin 64) (s : State) (hk : Kept k0 s) : ∀ z, execFoBra c s = .next z → Kept k0 z := by
  intro z e
  unfold execFoBra at e
  injection e with e
  rw [← e]
  try dsimp only
  repeat' first
    | with_reducible assumption
    | intro _
    | exact trivial
    | with_reducible exact Kept.refl _
    | simp only [FolRes.keeps_done, FolRes.keeps_own, FolRes.keeps_exc, FolRes.keeps_illegal]
    | with_reducible apply folIssue_kept
    | with_reducible apply folBranch_kept

theorem execFoBcc_kept (k0 : State) (c : Fin 64) (s : State) (hk : Kept k0 s) : ∀ z, execFoBcc c s = .next z → Kept k0 z := by
  intro z e
  unfold execFoBcc at e
  injection e with e
  rw [← e]
  try dsimp only
  repeat' first
    | with_reducible assumption
    | intro _
    | exact trivial
    | with_reducible exact Kept.refl _
    | simp only [FolRes.keeps_done, FolRes.keeps_own, FolRes.keeps_exc, FolRes.keeps_illegal]
    | with_reducible apply folIssue_kept
    | with_reducible apply folBranch_kept

theorem execFoCall_kept (k0 : State) (c : Fin 64) (s : State) (hk : Kept k0 s) : ∀ z, execFoCall c s = .next z → Kept k0 z := by
  intro z e
  unfold execFoCall at e
  injection e with e
  rw [← e]
  try dsimp only
  repeat' first
    | with_reducible assumption
    | intro _
    | exact trivial
    | with_reducible exact Kept.refl _
    | simp only [FolRes.keeps_done, FolRes.keeps_own, FolRes.keeps_exc, FolRes.keeps_illegal]
    | with_reducible apply folIssue_kept
    | with_reducible apply folBranch_kept

theorem execFoRet_kept (k0 : State) (c : Fin 64) (s : State) (hk : Kept k0 s) : ∀ z, execFoRet c s = .next z → Kept k0 z := by
  intro z e
  unfold execFoRet at e
  injection e with e
  rw [← e]
  try dsimp only
  repeat' first
    | with_reducible assumption
    | intro _
    | exact trivial
    | with_reducible exact Kept.refl _
    | simp only [FolRes.keeps_done, FolRes.keeps_own, FolRes.keeps_exc, FolRes.keeps_illegal]
    | with_reducible apply folIssue_kept
    | with_reducible apply folBranch_kept

theorem folLoop_kept (k0 : State) (c count : Nat) (s : State) (w : Nat) (r : FolRec) (hk : Kept k0 s) : FolRes.keeps k0 (folLoop c count s w r) := by
  unfold folLoop
  try dsimp only
  repeat' first
    | with_reducible assumption
    | intro _
    | exact trivial
    | with_reducible exact Kept.refl _
    | simp only [FolRes.keeps_done, FolRes.keeps_own, FolRes.keeps_exc, FolRes.keeps_illegal]
    | simp only [Kept.update]
    | with_reducible apply State.setFol_kept
    | split

theorem execFoLoop_kept (k0 : State) (c : Fin 64) (s : State) (hk : Kept k0 s) : ∀ z, execFoLoop c s = .next z → Kept k0 z := by
  intro z e
  unfold execFoLoop at e
  injection e with e
  rw [← e]
  try dsimp only
  repeat' first
    | with_reducible assumption
    | intro _
    | exact trivial
    | with_reducible exact Kept.refl _
    | simp only [FolRes.keeps_done, FolRes.keeps_own, FolRes.keeps_exc, FolRes.keeps_illegal]
    | with_reducible apply folIssue_kept
    | with_reducible apply folLoop_kept

theorem execFoLoopd_kept (k0 : State) (c : Fin 64) (s : State) (hk : Kept k0 s) : ∀ z, execFoLoopd c s = .next z → Kept k0 z := by
  intro z e
  unfold execFoLoopd at e
  injection e with e
  rw [← e]
  try dsimp only
  repeat' first
    | with_reducible assumption
    | intro _
    | exact trivial
    | with_reducible exact Kept.refl _
    | simp only [FolRes.keeps_done, FolRes.keeps_own, FolRes.keeps_exc, FolRes.keeps_illegal]
    | with_reducible apply folIssue_kept
    | with_reducible apply folLoop_kept

theorem execFoLeave_kept (k0 : State) (c : Fin 64) (s : State) (hk : Kept k0 s) : ∀ z, execFoLeave c s = .next z → Kept k0 z := by
  intro z e
  unfold execFoLeave at e
  injection e with e
  rw [← e]
  try dsimp only
  repeat' first
    | with_reducible assumption
    | intro _
    | exact trivial
    | with_reducible exact Kept.refl _
    | simp only [FolRes.keeps_done, FolRes.keeps_own, FolRes.keeps_exc, FolRes.keeps_illegal]
    | simp only [Kept.update]
    | with_reducible apply State.setFol_kept
    | with_reducible apply folIssue_kept
    | split
    | with_reducible refine Kept.snd (by assumption) ?_
    | with_reducible refine Kept.third (by assumption) ?_
    | with_reducible refine Kept.last (by assumption) ?_
    | with_reducible refine Kept.fst (by assumption) ?_

theorem execFoWaitblk_kept (k0 : State) (c : Fin 64) (s : State) (hk : Kept k0 s) : ∀ z, execFoWaitblk c s = .next z → Kept k0 z := by
  intro z e
  unfold execFoWaitblk at e
  injection e with e
  rw [← e]
  try dsimp only
  repeat' first
    | with_reducible assumption
    | intro _
    | exact trivial
    | with_reducible exact Kept.refl _
    | simp only [FolRes.keeps_done, FolRes.keeps_own, FolRes.keeps_exc, FolRes.keeps_illegal]
    | simp only [Kept.update]
    | with_reducible apply State.wr_kept
    | with_reducible apply State.setFol_kept
    | with_reducible apply folIssue_kept
    | split
    | with_reducible refine Kept.snd (by assumption) ?_
    | with_reducible refine Kept.third (by assumption) ?_
    | with_reducible refine Kept.last (by assumption) ?_
    | with_reducible refine Kept.fst (by assumption) ?_

theorem execFoDone_kept (k0 : State) (c : Fin 64) (s : State) (hk : Kept k0 s) : ∀ z, execFoDone c s = .next z → Kept k0 z := by
  intro z e
  unfold execFoDone at e
  injection e with e
  rw [← e]
  try dsimp only
  repeat' first
    | with_reducible assumption
    | intro _
    | exact trivial
    | with_reducible exact Kept.refl _
    | simp only [FolRes.keeps_done, FolRes.keeps_own, FolRes.keeps_exc, FolRes.keeps_illegal]
    | simp only [Kept.update]
    | with_reducible apply State.wr_kept
    | with_reducible apply State.setFol_kept
    | with_reducible apply folIssue_kept
    | split
    | with_reducible refine Kept.snd (by assumption) ?_
    | with_reducible refine Kept.third (by assumption) ?_
    | with_reducible refine Kept.last (by assumption) ?_
    | with_reducible refine Kept.fst (by assumption) ?_

theorem execFoRte_kept (k0 : State) (c : Fin 64) (s : State) (hk : Kept k0 s) : ∀ z, execFoRte c s = .next z → Kept k0 z := by
  intro z e
  unfold execFoRte at e
  injection e with e
  rw [← e]
  try dsimp only
  repeat' first
    | with_reducible assumption
    | intro _
    | exact trivial
    | with_reducible exact Kept.refl _
    | simp only [FolRes.keeps_done, FolRes.keeps_own, FolRes.keeps_exc, FolRes.keeps_illegal]
    | simp only [Kept.update]
    | with_reducible apply State.setFol_kept
    | with_reducible apply folIssue_kept
    | split

theorem execFoHalt_kept (k0 : State) (c : Fin 64) (s : State) (hk : Kept k0 s) : ∀ z, execFoHalt c s = .next z → Kept k0 z := by
  intro z e
  unfold execFoHalt at e
  injection e with e
  rw [← e]
  try dsimp only
  repeat' first
    | with_reducible assumption
    | intro _
    | exact trivial
    | with_reducible exact Kept.refl _
    | simp only [FolRes.keeps_done, FolRes.keeps_own, FolRes.keeps_exc, FolRes.keeps_illegal]
    | with_reducible apply State.setFol_kept
    | with_reducible apply State.folHalt_kept
    | with_reducible apply folIssue_kept

theorem execFoTrap_kept (k0 : State) (c : Fin 64) (s : State) (hk : Kept k0 s) : ∀ z, execFoTrap c s = .next z → Kept k0 z := by
  intro z e
  unfold execFoTrap at e
  injection e with e
  rw [← e]
  try dsimp only
  repeat' first
    | with_reducible assumption
    | intro _
    | exact trivial
    | with_reducible exact Kept.refl _
    | simp only [FolRes.keeps_done, FolRes.keeps_own, FolRes.keeps_exc, FolRes.keeps_illegal]
    | with_reducible apply folIssue_kept

theorem folMode_kept (k0 : State) (v : Nat) (s : State) (r : FolRec) (hk : Kept k0 s) : FolRes.keeps k0 (folMode v s r) := by
  unfold folMode
  try dsimp only
  repeat' first
    | with_reducible assumption
    | intro _
    | exact trivial
    | with_reducible exact Kept.refl _
    | simp only [FolRes.keeps_done, FolRes.keeps_own, FolRes.keeps_exc, FolRes.keeps_illegal]
    | simp only [Kept.update]
    | split

theorem execFoMovm_kept (k0 : State) (c : Fin 64) (s : State) (hk : Kept k0 s) : ∀ z, execFoMovm c s = .next z → Kept k0 z := by
  intro z e
  unfold execFoMovm at e
  injection e with e
  rw [← e]
  try dsimp only
  repeat' first
    | with_reducible assumption
    | intro _
    | exact trivial
    | with_reducible exact Kept.refl _
    | simp only [FolRes.keeps_done, FolRes.keeps_own, FolRes.keeps_exc, FolRes.keeps_illegal]
    | with_reducible apply folIssue_kept
    | with_reducible apply folMode_kept

theorem execFoMovmd_kept (k0 : State) (c : Fin 64) (s : State) (hk : Kept k0 s) : ∀ z, execFoMovmd c s = .next z → Kept k0 z := by
  intro z e
  unfold execFoMovmd at e
  injection e with e
  rw [← e]
  try dsimp only
  repeat' first
    | with_reducible assumption
    | intro _
    | exact trivial
    | with_reducible exact Kept.refl _
    | simp only [FolRes.keeps_done, FolRes.keeps_own, FolRes.keeps_exc, FolRes.keeps_illegal]
    | with_reducible apply folIssue_kept
    | with_reducible apply folMode_kept

theorem execFoRdm_kept (k0 : State) (c : Fin 64) (s : State) (hk : Kept k0 s) : ∀ z, execFoRdm c s = .next z → Kept k0 z := by
  intro z e
  unfold execFoRdm at e
  injection e with e
  rw [← e]
  try dsimp only
  repeat' first
    | with_reducible assumption
    | intro _
    | exact trivial
    | with_reducible exact Kept.refl _
    | simp only [FolRes.keeps_done, FolRes.keeps_own, FolRes.keeps_exc, FolRes.keeps_illegal]
    | with_reducible apply folIssue_kept

theorem execFoRds_kept (k0 : State) (c : Fin 64) (s : State) (hk : Kept k0 s) : ∀ z, execFoRds c s = .next z → Kept k0 z := by
  intro z e
  unfold execFoRds at e
  injection e with e
  rw [← e]
  try dsimp only
  repeat' first
    | with_reducible assumption
    | intro _
    | exact trivial
    | with_reducible exact Kept.refl _
    | simp only [FolRes.keeps_done, FolRes.keeps_own, FolRes.keeps_exc, FolRes.keeps_illegal]
    | with_reducible apply State.fresh_kept
    | with_reducible apply folIssue_kept
    | split
    | with_reducible refine Kept.snd (by assumption) ?_
    | with_reducible refine Kept.third (by assumption) ?_
    | with_reducible refine Kept.last (by assumption) ?_
    | with_reducible refine Kept.fst (by assumption) ?_

theorem execFoWrs_kept (k0 : State) (c : Fin 64) (s : State) (hk : Kept k0 s) : ∀ z, execFoWrs c s = .next z → Kept k0 z := by
  intro z e
  unfold execFoWrs at e
  injection e with e
  rw [← e]
  try dsimp only
  repeat' first
    | with_reducible assumption
    | intro _
    | exact trivial
    | with_reducible exact Kept.refl _
    | simp only [FolRes.keeps_done, FolRes.keeps_own, FolRes.keeps_exc, FolRes.keeps_illegal]
    | simp only [Kept.update]
    | with_reducible apply folIssue_kept
    | split
    | with_reducible refine Kept.snd (by assumption) ?_
    | with_reducible refine Kept.third (by assumption) ?_
    | with_reducible refine Kept.last (by assumption) ?_
    | with_reducible refine Kept.fst (by assumption) ?_

end Sys2Proof.Machine
end

