-- ==== Sys2Proof/Laws/Kept/FoleyX.lean ====
section
/-!
SUPPORT. Laws/Kept/FoleyX.lean: each operation of Machine/FoleyX.lean keeps what Laws/Kept.lean names.
-/
set_option linter.unusedSimpArgs false
set_option linter.unusedVariables false
set_option linter.unusedTactic false
set_option linter.unreachableTactic false

namespace Sys2Proof.Machine

theorem State.setFolState_kept (k0 : State) (s : State) (c v : Nat) (hk : Kept k0 s) : Kept k0 (State.setFolState s c v) := by
  unfold State.setFolState
  try dsimp only
  repeat' first
    | with_reducible assumption
    | intro _
    | with_reducible apply State.wrF_kept

theorem State.folZero_kept (k0 : State) (s : State) (c sel : Nat) (dl : Word) (hk : Kept k0 s) : Kept k0 (State.folZero s c sel dl) := by
  unfold State.folZero
  try dsimp only
  repeat' first
    | with_reducible assumption
    | intro _
    | simp only [Kept.update]
  exact hk.keepTbl _ rfl rfl rfl rfl rfl rfl rfl

theorem State.folSync_kept (k0 : State) (s : State) (c : Nat) (k : Int) (hk : Kept k0 s) : Kept k0 (State.folSync s c k) := by
  unfold State.folSync
  try dsimp only
  repeat' first
    | with_reducible assumption
    | intro _
    | simp only [Kept.update]
    | with_reducible apply State.setFol_kept
    | with_reducible apply State.folZero_kept
    | split

theorem execFoleyExchangeIn_kept (k0 : State) (c : Fin 64) (s : State) (hk : Kept k0 s) : ∀ z, execFoleyExchangeIn c s = .next z → Kept k0 z := by
  intro z e
  unfold execFoleyExchangeIn at e
  injection e with e
  rw [← e]
  try dsimp only
  repeat' first
    | with_reducible assumption
    | intro _
    | simp only [Kept.update]
    | with_reducible apply State.setFol_kept
    | with_reducible apply State.setFolMem_kept
    | with_reducible apply Kept.forEach
    | split
    | with_reducible refine Kept.snd (by assumption) ?_
    | with_reducible refine Kept.third (by assumption) ?_
    | with_reducible refine Kept.last (by assumption) ?_
    | with_reducible refine Kept.fst (by assumption) ?_

theorem State.folDeposit_kept (k0 : State) (s : State) (c : Nat) (f : FolBlk) (hk : Kept k0 s) : Kept k0 (State.folDeposit s c f) := by
  unfold State.folDeposit
  try dsimp only
  repeat' first
    | with_reducible assumption
    | intro _
    | with_reducible apply State.setFolBlks_kept

theorem execFoleyExchangeOut_kept (k0 : State) (c : Fin 64) (s : State) (hk : Kept k0 s) : ∀ z, execFoleyExchangeOut c s = .next z → Kept k0 z := by
  intro z e
  unfold execFoleyExchangeOut at e
  injection e with e
  rw [← e]
  try dsimp only
  repeat' first
    | with_reducible assumption
    | intro _
    | simp only [Kept.update]
    | with_reducible apply State.settle_kept
    | with_reducible apply State.setFol_kept
    | with_reducible apply State.folDeposit_kept
    | split
    | with_reducible refine Kept.snd (by assumption) ?_
    | with_reducible refine Kept.third (by assumption) ?_
    | with_reducible refine Kept.last (by assumption) ?_
    | with_reducible refine Kept.fst (by assumption) ?_

theorem State.folRepeat_kept (k0 : State) (s : State) (c : Nat) (k : Int) (hk : Kept k0 s) : Kept k0 (State.folRepeat s c k) := by
  unfold State.folRepeat
  try dsimp only
  repeat' first
    | with_reducible assumption
    | intro _
    | simp only [Kept.update]
    | with_reducible apply State.fresh_kept
    | with_reducible apply State.audEvent_kept
    | with_reducible apply State.audCount_kept
    | with_reducible apply State.folDeposit_kept
    | with_reducible apply Kept.forEach
    | split
    | with_reducible refine Kept.snd (by assumption) ?_
    | with_reducible refine Kept.third (by assumption) ?_
    | with_reducible refine Kept.last (by assumption) ?_
    | with_reducible refine Kept.fst (by assumption) ?_

theorem State.folTrigger_kept (k0 : State) (s : State) (c : Nat) (hk : Kept k0 s) : Kept k0 (State.folTrigger s c) := by
  unfold State.folTrigger
  try dsimp only
  repeat' first
    | with_reducible assumption
    | intro _
    | simp only [Kept.update]
    | with_reducible apply State.wrF_kept
    | with_reducible apply State.setFol_kept
    | with_reducible apply State.folEvent_kept
    | split

theorem execFoleyDeadline_kept (k0 : State) (c : Fin 64) (s : State) (hk : Kept k0 s) : ∀ z, execFoleyDeadline c s = .next z → Kept k0 z := by
  intro z e
  unfold execFoleyDeadline at e
  injection e with e
  rw [← e]
  try dsimp only
  repeat' first
    | with_reducible assumption
    | intro _
    | simp only [Kept.update]
    | with_reducible apply State.incSat_kept
    | with_reducible apply State.setFol_kept
    | with_reducible apply State.folEvent_kept
    | with_reducible apply State.folRepeat_kept
    | with_reducible apply State.folTrigger_kept
    | split
    | with_reducible refine Kept.snd (by assumption) ?_
    | with_reducible refine Kept.third (by assumption) ?_
    | with_reducible refine Kept.last (by assumption) ?_
    | with_reducible refine Kept.fst (by assumption) ?_

theorem execFoleyOverrun_kept (k0 : State) (c : Fin 64) (s : State) (hk : Kept k0 s) : ∀ z, execFoleyOverrun c s = .next z → Kept k0 z := by
  intro z e
  unfold execFoleyOverrun at e
  injection e with e
  rw [← e]
  try dsimp only
  repeat' first
    | with_reducible assumption
    | intro _
    | simp only [Kept.update]
    | with_reducible apply State.wr_kept
    | with_reducible apply State.incSat_kept
    | with_reducible apply State.folEvent_kept
    | with_reducible apply State.folSync_kept
    | split
    | with_reducible refine Kept.snd (by assumption) ?_
    | with_reducible refine Kept.third (by assumption) ?_
    | with_reducible refine Kept.last (by assumption) ?_
    | with_reducible refine Kept.fst (by assumption) ?_

theorem State.folCfg_kept (k0 : State) (s : State) (c : Nat) (hk : Kept k0 s) : Kept k0 (State.folCfg s c) := by
  unfold State.folCfg
  try dsimp only
  repeat' first
    | with_reducible assumption
    | intro _
    | with_reducible apply State.folEvent_kept

theorem State.folStart_kept (k0 : State) (s : State) (c : Nat) (hk : Kept k0 s) : Kept k0 (State.folStart s c) := by
  unfold State.folStart
  try dsimp only
  repeat' first
    | with_reducible assumption
    | intro _
    | simp only [Kept.update]
    | with_reducible apply State.wrF_kept
    | with_reducible apply State.setFol_kept
    | with_reducible apply State.setFolState_kept
    | with_reducible apply State.folSync_kept
    | with_reducible apply State.folCfg_kept
    | split

theorem State.folStop_kept (k0 : State) (s : State) (c : Nat) (hk : Kept k0 s) : Kept k0 (State.folStop s c) := by
  unfold State.folStop
  try dsimp only
  repeat' first
    | with_reducible assumption
    | intro _
    | simp only [Kept.update]
    | with_reducible apply State.wrF_kept
    | with_reducible apply State.setFolBlks_kept
    | with_reducible apply State.setFol_kept
    | with_reducible apply State.setFolState_kept
    | with_reducible apply State.folCfg_kept
    | split

theorem State.folSpare_kept (k0 : State) (s : State) (c : Nat) (hk : Kept k0 s) : Kept k0 (State.folSpare s c) := by
  unfold State.folSpare
  try dsimp only
  repeat' first
    | with_reducible assumption
    | intro _
    | with_reducible apply State.setFolState_kept
    | with_reducible apply State.folCfg_kept
    | split

theorem State.folRelease_kept (k0 : State) (s : State) (c : Nat) (hk : Kept k0 s) : Kept k0 (State.folRelease s c) := by
  unfold State.folRelease
  try dsimp only
  repeat' first
    | with_reducible assumption
    | intro _
    | with_reducible apply State.setFolState_kept
    | with_reducible apply State.folCfg_kept
    | split

theorem State.folMoveCmd_kept (k0 : State) (s : State) (c : Nat) (hk : Kept k0 s) : Kept k0 (State.folMoveCmd s c) := by
  unfold State.folMoveCmd
  try dsimp only
  repeat' first
    | with_reducible assumption
    | intro _
    | with_reducible apply State.folTrigger_kept
    | with_reducible apply State.folCfg_kept
    | split

theorem writeFolCtrl_kept (k0 : State) (c : Nat) (d : Word) (s : State) (hk : Kept k0 s) : Kept k0 (writeFolCtrl c d s) := by
  unfold writeFolCtrl
  try dsimp only
  repeat' first
    | with_reducible assumption
    | intro _
    | with_reducible apply State.folStart_kept
    | with_reducible apply State.folStop_kept
    | with_reducible apply State.folSpare_kept
    | with_reducible apply State.folRelease_kept
    | with_reducible apply State.folMoveCmd_kept
    | split

theorem execFolStart_kept (k0 : State) (t : Tag) (c : Fin 64) (s : State) (hk : Kept k0 s) : ∀ z, execFolStart t c s = .next z → Kept k0 z := by
  intro z e
  unfold execFolStart at e
  injection e with e
  rw [← e]
  try dsimp only
  repeat' first
    | with_reducible assumption
    | intro _
    | with_reducible apply hostWrite_kept
    | with_reducible apply writeFolCtrl_kept

theorem execFolStop_kept (k0 : State) (t : Tag) (c : Fin 64) (s : State) (hk : Kept k0 s) : ∀ z, execFolStop t c s = .next z → Kept k0 z := by
  intro z e
  unfold execFolStop at e
  injection e with e
  rw [← e]
  try dsimp only
  repeat' first
    | with_reducible assumption
    | intro _
    | with_reducible apply hostWrite_kept
    | with_reducible apply writeFolCtrl_kept

theorem execFolSpare_kept (k0 : State) (t : Tag) (c : Fin 64) (s : State) (hk : Kept k0 s) : ∀ z, execFolSpare t c s = .next z → Kept k0 z := by
  intro z e
  unfold execFolSpare at e
  injection e with e
  rw [← e]
  try dsimp only
  repeat' first
    | with_reducible assumption
    | intro _
    | with_reducible apply hostWrite_kept
    | with_reducible apply writeFolCtrl_kept

theorem execFolRelease_kept (k0 : State) (t : Tag) (c : Fin 64) (s : State) (hk : Kept k0 s) : ∀ z, execFolRelease t c s = .next z → Kept k0 z := by
  intro z e
  unfold execFolRelease at e
  injection e with e
  rw [← e]
  try dsimp only
  repeat' first
    | with_reducible assumption
    | intro _
    | with_reducible apply hostWrite_kept
    | with_reducible apply writeFolCtrl_kept

theorem execFolMove_kept (k0 : State) (t : Tag) (c : Fin 64) (s : State) (hk : Kept k0 s) : ∀ z, execFolMove t c s = .next z → Kept k0 z := by
  intro z e
  unfold execFolMove at e
  injection e with e
  rw [← e]
  try dsimp only
  repeat' first
    | with_reducible assumption
    | intro _
    | with_reducible apply hostWrite_kept
    | with_reducible apply writeFolCtrl_kept

theorem State.folCopy_kept (k0 s : State) (c t : Nat) (hk : Kept k0 s) : Kept k0 (State.folCopy s c t) := by
  have h : ∀ (l : List (Nat × Word)) (b : Tab Word), Tab.wf tblReset b = true →
      Tab.wf tblReset (l.foldl (fun b e => Tab.put tblReset b (e.1 % 2 ^ 48 + pFol t * 2 ^ 48) e.2) b) = true := by
    intro l
    induction l with
    | nil => exact fun _ hb => hb
    | cons e r ih => exact fun b hb => ih _ (Tab.wf_put _ _ _ _ hb)
  unfold State.folCopy
  exact hk.stores rfl (fun x => x) (fun x => h _ _ (Tab.wf_keep _ _ _ x)) (fun x => x) rfl rfl rfl

theorem execCoreMoveHalt_kept (k0 : State) (c : Fin 64) (s : State) (hk : Kept k0 s) : ∀ z, execCoreMoveHalt c s = .next z → Kept k0 z := by
  intro z e
  unfold execCoreMoveHalt at e
  injection e with e
  rw [← e]
  try dsimp only
  repeat' first
    | with_reducible assumption
    | intro _
    | simp only [Kept.update]
    | with_reducible apply State.wr_kept
    | with_reducible apply State.wrF_kept
    | with_reducible apply State.setFol_kept
    | with_reducible apply State.folCopy_kept
    | with_reducible apply Kept.forEach
    | split
    | with_reducible refine Kept.snd (by assumption) ?_
    | with_reducible refine Kept.third (by assumption) ?_
    | with_reducible refine Kept.last (by assumption) ?_
    | with_reducible refine Kept.fst (by assumption) ?_

theorem execCoreMoveResume_kept (k0 : State) (c : Fin 64) (s : State) (hk : Kept k0 s) : ∀ z, execCoreMoveResume c s = .next z → Kept k0 z := by
  intro z e
  unfold execCoreMoveResume at e
  injection e with e
  rw [← e]
  try dsimp only
  repeat' first
    | with_reducible assumption
    | intro _
    | simp only [Kept.update]
    | with_reducible apply State.wr_kept
    | with_reducible apply State.wrF_kept
    | with_reducible apply State.setEntWords_kept
    | with_reducible apply State.claim_kept
    | with_reducible apply State.unclaim_kept
    | with_reducible apply State.setFolBlks_kept
    | with_reducible apply State.setFol_kept
    | with_reducible apply State.folEvent_kept
    | with_reducible apply State.setFolState_kept
    | with_reducible apply State.folSync_kept
    | split
    | with_reducible refine Kept.snd (by assumption) ?_
    | with_reducible refine Kept.third (by assumption) ?_
    | with_reducible refine Kept.last (by assumption) ?_
    | with_reducible refine Kept.fst (by assumption) ?_

theorem State.folDegraded_kept (k0 : State) (s : State) (c : Nat) (hk : Kept k0 s) : Kept k0 (State.folDegraded s c) := by
  unfold State.folDegraded
  try dsimp only
  repeat' first
    | with_reducible assumption
    | intro _
    | with_reducible apply State.folTrigger_kept
    | split

theorem State.folEcc_kept (k0 : State) (s : State) (c : Nat) (hk : Kept k0 s) : Kept k0 (State.folEcc s c) := by
  unfold State.folEcc
  try dsimp only
  repeat' first
    | with_reducible assumption
    | intro _
    | with_reducible apply State.folEvent_kept
    | with_reducible apply State.folExc_kept
    | split

theorem writeFolCfg_kept (k0 : State) (c : Nat) (d : Word) (s : State) (hk : Kept k0 s) : Kept k0 (writeFolCfg c d s) := by
  unfold writeFolCfg
  try dsimp only
  repeat' first
    | with_reducible assumption
    | intro _
    | with_reducible apply State.wr_kept
    | with_reducible apply State.folCfg_kept
    | split

theorem writeFolRegion_kept (k0 : State) (c off : Nat) (d : Word) (s : State) (hk : Kept k0 s) : Kept k0 (writeFolRegion c off d s) := by
  unfold writeFolRegion
  try dsimp only
  repeat' first
    | with_reducible assumption
    | intro _
    | with_reducible apply State.wr_kept
    | with_reducible apply State.folCfg_kept
    | split

theorem State.folSnap_kept (k0 : State) (s : State) (c : Nat) (hk : Kept k0 s) : Kept k0 (State.folSnap s c) := by
  unfold State.folSnap
  try dsimp only
  repeat' first
    | with_reducible assumption
    | intro _
    | with_reducible apply State.snap_kept
    | with_reducible apply Kept.forEach

theorem folTableWrite_kept (k0 : State) (c sel idx : Nat) (d : List Word) (s : State) (hk : Kept k0 s) : Kept k0 (folTableWrite c sel idx d s).2 := by
  unfold folTableWrite
  try dsimp only
  repeat' first
    | with_reducible assumption
    | intro _
    | simp only [Kept.update]
    | with_reducible apply State.setEnt_kept
    | with_reducible apply State.setEntWords_kept
    | with_reducible apply State.folCfg_kept
    | split
    | with_reducible refine Kept.snd (by assumption) ?_
    | with_reducible refine Kept.third (by assumption) ?_
    | with_reducible refine Kept.last (by assumption) ?_
    | with_reducible refine Kept.fst (by assumption) ?_

theorem State.folInit_kept (k0 : State) (s : State) (c : Nat) (hk : Kept k0 s) : Kept k0 (State.folInit s c) := by
  unfold State.folInit
  try dsimp only
  repeat' first
    | with_reducible assumption
    | intro _
    | simp only [Kept.update]
    | with_reducible apply State.wrF_kept
    | with_reducible apply State.setFolState_kept
  exact hk.keepTbl _ rfl rfl rfl rfl rfl rfl rfl

theorem State.folGate_kept (k0 : State) (s : State) (c : Nat) (hk : Kept k0 s) : Kept k0 (State.folGate s c) := by
  unfold State.folGate
  try dsimp only
  repeat' first
    | with_reducible assumption
    | intro _
    | simp only [Kept.update]
    | with_reducible apply State.setFol_kept
    | with_reducible apply State.setFolState_kept
  exact hk.keepTbl _ rfl rfl rfl rfl rfl rfl rfl

end Sys2Proof.Machine
end

