-- ==== Sys2Proof/Laws/Kept/Montage.lean ====
section
/-!
SUPPORT. Laws/Kept/Montage.lean: each operation of Machine/Montage.lean keeps what Laws/Kept.lean names.
-/
set_option linter.unusedSimpArgs false
set_option linter.unusedVariables false
set_option linter.unusedTactic false
set_option linter.unreachableTactic false

namespace Sys2Proof.Machine

theorem State.setLay_kept (k0 : State) (s : State) (l : Nat) (r : LayRec) (hk : Kept k0 s) : Kept k0 (State.setLay s l r) := by
  unfold State.setLay
  try dsimp only
  repeat' first
    | with_reducible assumption
    | intro _
    | simp only [Kept.update]

theorem State.setHead_kept (k0 : State) (s : State) (h : Nat) (r : HeadRec) (hk : Kept k0 s) : Kept k0 (State.setHead s h r) := by
  unfold State.setHead
  try dsimp only
  repeat' first
    | with_reducible assumption
    | intro _
    | simp only [Kept.update]

theorem State.chargeAll_kept (k0 : State) (s : State) (cs : List (Nat × Nat)) (hk : Kept k0 s) : Kept k0 (State.chargeAll s cs) := by
  unfold State.chargeAll
  try dsimp only
  repeat' first
    | with_reducible assumption
    | intro _
    | with_reducible apply State.charge_kept
    | with_reducible apply Kept.forEach

theorem State.showDemand_kept (k0 : State) (s : State) (h : Nat) (hk : Kept k0 s) : Kept k0 (State.showDemand s h) := by
  unfold State.showDemand
  try dsimp only
  repeat' first
    | with_reducible assumption
    | intro _
    | with_reducible apply State.setEnt_kept

theorem State.monRefuse_kept (k0 : State) (s : State) (t : Tag) (reason idx : Nat) (hk : Kept k0 s) : Kept k0 (State.monRefuse s t reason idx).2 := by
  unfold State.monRefuse
  try dsimp only
  repeat' first
    | with_reducible assumption
    | intro _
    | with_reducible apply State.setReason_kept

theorem State.monAccept_kept (k0 : State) (s : State) (t : Tag) (hk : Kept k0 s) : Kept k0 (State.monAccept s t).2 := by
  unfold State.monAccept
  try dsimp only
  repeat' first
    | with_reducible assumption
    | intro _
    | with_reducible apply State.clearReason_kept

theorem State.monPend_kept (k0 : State) (s : State) (sel idx : Nat) (hk : Kept k0 s) : Kept k0 (State.monPend s sel idx) := by
  unfold State.monPend
  try dsimp only
  repeat' first
    | with_reducible assumption
    | intro _
    | simp only [Kept.update]

theorem State.monRelease_kept (k0 : State) (s : State) (hk : Kept k0 s) : Kept k0 (State.monRelease s) := by
  unfold State.monRelease
  try dsimp only
  repeat' first
    | with_reducible assumption
    | intro _
    | simp only [Kept.update]
    | split

theorem State.monCounts_kept (k0 : State) (s : State) (hk : Kept k0 s) : Kept k0 (State.monCounts s) := by
  unfold State.monCounts
  try dsimp only
  repeat' first
    | with_reducible assumption
    | intro _
    | with_reducible apply State.wr_kept
    | with_reducible apply Kept.foldl
    | with_reducible apply Kept.foldl_fst
    | with_reducible apply Kept.foldl_snd

theorem headWrite_kept (k0 : State) (t : Tag) (h : Nat) (d : List Word) (s : State) (hk : Kept k0 s) : Kept k0 (headWrite t h d s).2 := by
  unfold headWrite
  try dsimp only
  repeat' first
    | with_reducible assumption
    | intro _
    | simp only [Kept.update]
    | with_reducible apply State.wrF_kept
    | with_reducible apply State.setEnt_kept
    | with_reducible apply State.setEntF_kept
    | with_reducible apply State.setEntWords_kept
    | with_reducible apply State.dropDue_kept
    | with_reducible apply State.descStatus_kept
    | with_reducible apply State.setHead_kept
    | with_reducible apply State.chargeAll_kept
    | with_reducible apply State.showDemand_kept
    | with_reducible apply State.monRefuse_kept
    | with_reducible apply State.monAccept_kept
    | with_reducible apply State.monPend_kept
    | with_reducible apply State.monRelease_kept
    | with_reducible apply State.monCounts_kept
    | split

theorem layerWrite_kept (k0 : State) (t : Tag) (l : Nat) (d : List Word) (s : State) (hk : Kept k0 s) : Kept k0 (layerWrite t l d s).2 := by
  unfold layerWrite
  try dsimp only
  repeat' first
    | with_reducible assumption
    | intro _
    | with_reducible apply State.setEntWords_kept
    | with_reducible apply State.charge_kept
    | with_reducible apply State.showDemand_kept
    | with_reducible apply State.monRefuse_kept
    | with_reducible apply State.monAccept_kept
    | with_reducible apply State.monPend_kept
    | with_reducible apply State.monCounts_kept
    | split
    | with_reducible refine Kept.snd (by assumption) ?_
    | with_reducible refine Kept.third (by assumption) ?_
    | with_reducible refine Kept.last (by assumption) ?_
    | with_reducible refine Kept.fst (by assumption) ?_

theorem planeWrite_kept (k0 : State) (t : Tag) (i : Nat) (d : List Word) (s : State) (hk : Kept k0 s) : Kept k0 (planeWrite t i d s).2 := by
  unfold planeWrite
  try dsimp only
  repeat' first
    | with_reducible assumption
    | intro _
    | with_reducible apply State.setEntWords_kept
    | with_reducible apply State.charge_kept
    | with_reducible apply State.showDemand_kept
    | with_reducible apply State.monRefuse_kept
    | with_reducible apply State.monAccept_kept
    | with_reducible apply State.monPend_kept
    | split
    | with_reducible refine Kept.snd (by assumption) ?_
    | with_reducible refine Kept.third (by assumption) ?_
    | with_reducible refine Kept.last (by assumption) ?_
    | with_reducible refine Kept.fst (by assumption) ?_

theorem monTableWrite_kept (k0 : State) (t : Tag) (sel idx : Nat) (d : List Word) (s : State) (hk : Kept k0 s) : Kept k0 (monTableWrite t sel idx d s).2 := by
  unfold monTableWrite
  try dsimp only
  repeat' first
    | with_reducible assumption
    | intro _
    | simp only [Kept.update]
    | with_reducible apply State.setEntWords_kept
    | with_reducible apply State.monRefuse_kept
    | with_reducible apply State.monAccept_kept
    | with_reducible apply State.monPend_kept
    | with_reducible apply headWrite_kept
    | with_reducible apply layerWrite_kept
    | with_reducible apply planeWrite_kept
    | split
    | with_reducible refine Kept.snd (by assumption) ?_
    | with_reducible refine Kept.third (by assumption) ?_
    | with_reducible refine Kept.last (by assumption) ?_
    | with_reducible refine Kept.fst (by assumption) ?_

theorem State.monSnap_kept (k0 : State) (s : State) (p : Nat) (hk : Kept k0 s) : Kept k0 (State.monSnap s p) := by
  unfold State.monSnap
  try dsimp only
  repeat' first
    | with_reducible assumption
    | intro _
    | with_reducible apply State.snapEnt_kept
    | with_reducible apply Kept.forEach

theorem State.layWord_kept (k0 : State) (s : State) (l : Nat) (w : FWord) (hk : Kept k0 s) : Kept k0 (State.layWord s l w) := by
  unfold State.layWord
  try dsimp only
  repeat' first
    | with_reducible assumption
    | intro _
    | simp only [Kept.update]
    | with_reducible apply State.setLay_kept
    | split
    | with_reducible refine Kept.snd (by assumption) ?_
    | with_reducible refine Kept.third (by assumption) ?_
    | with_reducible refine Kept.last (by assumption) ?_
    | with_reducible refine Kept.fst (by assumption) ?_

theorem State.monBeat_kept (k0 : State) (s : State) (hk : Kept k0 s) : Kept k0 (State.monBeat s) := by
  unfold State.monBeat
  try dsimp only
  repeat' first
    | with_reducible assumption
    | intro _
    | simp only [Kept.update]
    | with_reducible apply State.raise_kept
    | with_reducible apply State.layWord_kept
    | with_reducible apply Kept.forEach
    | split
    | with_reducible refine Kept.snd (by assumption) ?_
    | with_reducible refine Kept.third (by assumption) ?_
    | with_reducible refine Kept.last (by assumption) ?_
    | with_reducible refine Kept.fst (by assumption) ?_

theorem State.storePicture_kept (k0 : State) (s : State) (l n : Nat) (rows : List (List Px)) (hk : Kept k0 s) : Kept k0 (State.storePicture s l n rows) := by
  unfold State.storePicture
  try dsimp only
  repeat' first
    | with_reducible assumption
    | intro _
    | with_reducible apply State.memPut_kept
    | with_reducible apply Kept.forEach

theorem State.layCount_kept (k0 : State) (s : State) (l w : Nat) (hk : Kept k0 s) : Kept k0 (State.layCount s l w) := by
  unfold State.layCount
  try dsimp only
  repeat' first
    | with_reducible assumption
    | intro _
    | with_reducible apply State.setEnt_kept

theorem execLayerPictureComplete_kept (k0 : State) (l : Fin 384) (pic : Picture) (s : State) (hk : Kept k0 s) : ∀ z, execLayerPictureComplete l pic s = .next z → Kept k0 z := by
  intro z e
  unfold execLayerPictureComplete at e
  injection e with e
  rw [← e]
  try dsimp only
  repeat' first
    | with_reducible assumption
    | intro _
    | simp only [Kept.update]
    | with_reducible apply State.setLay_kept
    | with_reducible apply State.storePicture_kept
    | with_reducible apply State.layCount_kept
    | split
    | with_reducible refine Kept.snd (by assumption) ?_
    | with_reducible refine Kept.third (by assumption) ?_
    | with_reducible refine Kept.last (by assumption) ?_
    | with_reducible refine Kept.fst (by assumption) ?_

theorem State.monApply_kept (k0 : State) (s : State) (h : Nat) (e : (Nat × Nat) × List Word) (hk : Kept k0 s) : Kept k0 (State.monApply s h e) := by
  unfold State.monApply
  try dsimp only
  repeat' first
    | with_reducible assumption
    | intro _
    | simp only [Kept.update]
    | with_reducible apply State.setLay_kept
    | with_reducible apply Kept.foldl
    | with_reducible apply Kept.foldl_fst
    | with_reducible apply Kept.foldl_snd
    | split
    | with_reducible refine Kept.snd (by assumption) ?_
    | with_reducible refine Kept.third (by assumption) ?_
    | with_reducible refine Kept.last (by assumption) ?_
    | with_reducible refine Kept.fst (by assumption) ?_

theorem State.setLayState_kept (k0 : State) (s : State) (l v : Nat) (hk : Kept k0 s) : Kept k0 (State.setLayState s l v) := by
  unfold State.setLayState
  try dsimp only
  repeat' first
    | with_reducible assumption
    | intro _
    | with_reducible apply State.setEntF_kept

theorem State.layDecide_kept (k0 : State) (s : State) (l : Nat) (hk : Kept k0 s) : Kept k0 (State.layDecide s l) := by
  unfold State.layDecide
  try dsimp only
  repeat' first
    | with_reducible assumption
    | intro _
    | simp only [Kept.update]
    | with_reducible apply State.raise_kept
    | with_reducible apply State.setLay_kept
    | with_reducible apply State.layCount_kept
    | with_reducible apply State.setLayState_kept
    | split
    | with_reducible refine Kept.snd (by assumption) ?_
    | with_reducible refine Kept.third (by assumption) ?_
    | with_reducible refine Kept.last (by assumption) ?_
    | with_reducible refine Kept.fst (by assumption) ?_

theorem execHeadDecision_kept (k0 : State) (h : Fin 64) (s : State) (hk : Kept k0 s) : ∀ z, execHeadDecision h s = .next z → Kept k0 z := by
  intro z e
  unfold execHeadDecision at e
  injection e with e
  rw [← e]
  try dsimp only
  repeat' first
    | with_reducible assumption
    | intro _
    | simp only [Kept.update]
    | with_reducible apply State.setEnt_kept
    | with_reducible apply State.setEntF_kept
    | with_reducible apply State.present_kept
    | with_reducible apply State.setHead_kept
    | with_reducible apply State.monApply_kept
    | with_reducible apply State.layDecide_kept
    | with_reducible apply Kept.forEach
    | split

theorem State.monFreeze_kept (k0 : State) (s : State) (hk : Kept k0 s) : Kept k0 (State.monFreeze s) := by
  unfold State.monFreeze
  try dsimp only
  repeat' first
    | with_reducible assumption
    | intro _
    | with_reducible apply State.setEntF_kept
    | with_reducible apply State.raise_kept
    | with_reducible apply Kept.forEach

theorem State.monClear_kept (k0 : State) (s : State) (hk : Kept k0 s) : Kept k0 (State.monClear s) := by
  unfold State.monClear
  try dsimp only
  repeat' first
    | with_reducible assumption
    | intro _
    | simp only [Kept.update]

end Sys2Proof.Machine
end

