-- ==== Sys2Proof/Laws/Kept/Refsel.lean ====
section
/-!
SUPPORT. Laws/Kept/Refsel.lean: each operation of Machine/Refsel.lean keeps what Laws/Kept.lean names.
-/
set_option linter.unusedSimpArgs false
set_option linter.unusedVariables false
set_option linter.unusedTactic false
set_option linter.unreachableTactic false

namespace Sys2Proof.Machine

theorem State.setCand_kept (k0 : State) (s : State) (c : Nat) (r : CandRec) (hk : Kept k0 s) : Kept k0 (State.setCand s c r) := by
  unfold State.setCand
  try dsimp only
  repeat' first
    | with_reducible assumption
    | intro _
    | simp only [Kept.update]

theorem State.setDpll_kept (k0 : State) (s : State) (d st sel : Nat) (freeze : Bool) (hk : Kept k0 s) : Kept k0 (State.setDpll s d st sel freeze) := by
  unfold State.setDpll
  try dsimp only
  repeat' first
    | with_reducible assumption
    | intro _
    | with_reducible apply State.setEntF_kept
    | split

theorem State.histCand_kept (k0 : State) (s : State) (bit : Nat) (ev : Option Nat) (hk : Kept k0 s) : Kept k0 (State.histCand s bit ev) := by
  unfold State.histCand
  try dsimp only
  repeat' first
    | with_reducible assumption
    | intro _
    | simp only [Kept.update]
    | with_reducible apply State.wrF_kept
    | with_reducible apply State.raise_kept
    | split
    | with_reducible refine Kept.snd (by assumption) ?_
    | with_reducible refine Kept.third (by assumption) ?_
    | with_reducible refine Kept.last (by assumption) ?_
    | with_reducible refine Kept.fst (by assumption) ?_

theorem State.histDpll_kept (k0 : State) (s : State) (bit : Nat) (ev : Option Nat) (hk : Kept k0 s) : Kept k0 (State.histDpll s bit ev) := by
  unfold State.histDpll
  try dsimp only
  repeat' first
    | with_reducible assumption
    | intro _
    | simp only [Kept.update]
    | with_reducible apply State.wrF_kept
    | with_reducible apply State.raise_kept
    | split
    | with_reducible refine Kept.snd (by assumption) ?_
    | with_reducible refine Kept.third (by assumption) ?_
    | with_reducible refine Kept.last (by assumption) ?_
    | with_reducible refine Kept.fst (by assumption) ?_

theorem State.dpllTake_kept (k0 : State) (s : State) (d c : Nat) (hk : Kept k0 s) : Kept k0 (State.dpllTake s d c) := by
  unfold State.dpllTake
  try dsimp only
  repeat' first
    | with_reducible assumption
    | intro _
    | with_reducible apply State.setEnt_kept
    | with_reducible apply State.setDpll_kept
    | with_reducible apply State.histDpll_kept
    | split

theorem State.reselect_kept (k0 : State) (s : State) (hk : Kept k0 s) : Kept k0 (State.reselect s) := by
  unfold State.reselect
  try dsimp only
  repeat' first
    | with_reducible assumption
    | intro _
    | with_reducible apply State.dpllTake_kept
    | with_reducible apply Kept.forEach

theorem State.candFail_kept (k0 : State) (s : State) (c : Nat) (hk : Kept k0 s) : Kept k0 (State.candFail s c) := by
  unfold State.candFail
  try dsimp only
  repeat' first
    | with_reducible assumption
    | intro _
    | with_reducible apply State.setEntF_kept
    | with_reducible apply State.reselect_kept

theorem State.candTbCheck_kept (k0 : State) (s : State) (hk : Kept k0 s) : Kept k0 (State.candTbCheck s) := by
  unfold State.candTbCheck
  try dsimp only
  repeat' first
    | with_reducible assumption
    | intro _
    | with_reducible apply State.candFail_kept
    | with_reducible apply Kept.forEach
    | split

theorem execCandMissingEdge_kept (k0 : State) (c : Fin 8) (s : State) (hk : Kept k0 s) : ∀ z, execCandMissingEdge c s = .next z → Kept k0 z := by
  intro z e
  unfold execCandMissingEdge at e
  injection e with e
  rw [← e]
  try dsimp only
  repeat' first
    | with_reducible assumption
    | intro _
    | simp only [Kept.update]
    | with_reducible apply State.setEnt_kept
    | with_reducible apply State.setEntF_kept
    | with_reducible apply State.setCand_kept
    | with_reducible apply State.histCand_kept
    | with_reducible apply State.candFail_kept
    | with_reducible apply Kept.forEach
    | split

theorem execCandFreqWindow_kept (k0 : State) (c : Fin 8) (ppb : Word) (s : State) (hk : Kept k0 s) : ∀ z, execCandFreqWindow c ppb s = .next z → Kept k0 z := by
  intro z e
  unfold execCandFreqWindow at e
  injection e with e
  rw [← e]
  try dsimp only
  repeat' first
    | with_reducible assumption
    | intro _
    | simp only [Kept.update]
    | with_reducible apply State.setEnt_kept
    | with_reducible apply State.setCand_kept
    | with_reducible apply State.histCand_kept
    | with_reducible apply State.candFail_kept
    | split

theorem execCandQualified_kept (k0 : State) (c : Fin 8) (s : State) (hk : Kept k0 s) : ∀ z, execCandQualified c s = .next z → Kept k0 z := by
  intro z e
  unfold execCandQualified at e
  injection e with e
  rw [← e]
  try dsimp only
  repeat' first
    | with_reducible assumption
    | intro _
    | simp only [Kept.update]
    | with_reducible apply State.setEntF_kept
    | with_reducible apply State.setCand_kept
    | with_reducible apply State.reselect_kept
    | split

theorem execCandWtrExpire_kept (k0 : State) (c : Fin 8) (s : State) (hk : Kept k0 s) : ∀ z, execCandWtrExpire c s = .next z → Kept k0 z := by
  intro z e
  unfold execCandWtrExpire at e
  injection e with e
  rw [← e]
  try dsimp only
  repeat' first
    | with_reducible assumption
    | intro _
    | with_reducible apply State.setEntF_kept
    | with_reducible apply State.histCand_kept
    | with_reducible apply State.reselect_kept
    | split

theorem State.phaseAlign_kept (k0 : State) (s : State) (tb c : Nat) (hk : Kept k0 s) : Kept k0 (State.phaseAlign s tb c) := by
  unfold State.phaseAlign
  try dsimp only
  repeat' first
    | with_reducible assumption
    | intro _
    | simp only [Kept.update]
    | with_reducible apply State.setEnt_kept
    | with_reducible apply State.fresh_kept
    | split
    | with_reducible refine Kept.snd (by assumption) ?_
    | with_reducible refine Kept.third (by assumption) ?_
    | with_reducible refine Kept.last (by assumption) ?_
    | with_reducible refine Kept.fst (by assumption) ?_

theorem execCandidateEdge_kept (k0 : State) (c : Fin 8) (s : State) (hk : Kept k0 s) : ∀ z, execCandidateEdge c s = .next z → Kept k0 z := by
  intro z e
  unfold execCandidateEdge at e
  injection e with e
  rw [← e]
  try dsimp only
  repeat' first
    | with_reducible assumption
    | intro _
    | simp only [Kept.update]
    | with_reducible apply State.setEntF_kept
    | with_reducible apply State.setCand_kept
    | with_reducible apply State.phaseAlign_kept
    | with_reducible apply Kept.forEach
    | split

theorem execDpllLock_kept (k0 : State) (d : Fin 4) (s : State) (hk : Kept k0 s) : ∀ z, execDpllLock d s = .next z → Kept k0 z := by
  intro z e
  unfold execDpllLock at e
  injection e with e
  rw [← e]
  try dsimp only
  repeat' first
    | with_reducible assumption
    | intro _
    | with_reducible apply State.setEntF_kept
    | with_reducible apply State.histDpll_kept
    | split

theorem execDpllLockLost_kept (k0 : State) (d : Fin 4) (s : State) (hk : Kept k0 s) : ∀ z, execDpllLockLost d s = .next z → Kept k0 z := by
  intro z e
  unfold execDpllLockLost at e
  injection e with e
  rw [← e]
  try dsimp only
  repeat' first
    | with_reducible assumption
    | intro _
    | with_reducible apply State.setEntF_kept
    | with_reducible apply State.histDpll_kept
    | split

theorem execHoldoverHistory_kept (k0 : State) (d : Fin 4) (s : State) (hk : Kept k0 s) : ∀ z, execHoldoverHistory d s = .next z → Kept k0 z := by
  intro z e
  unfold execHoldoverHistory at e
  injection e with e
  rw [← e]
  try dsimp only
  repeat' first
    | with_reducible assumption
    | intro _
    | with_reducible apply State.setEntF_kept
    | split

theorem State.refCfg_kept (k0 : State) (s : State) (hk : Kept k0 s) : Kept k0 (State.refCfg s) := by
  unfold State.refCfg
  try dsimp only
  repeat' first
    | with_reducible assumption
    | intro _
    | with_reducible apply State.raise_kept

theorem writeClkMap_kept (k0 : State) (d : Word) (s : State) (hk : Kept k0 s) : Kept k0 (writeClkMap d s) := by
  unfold writeClkMap
  try dsimp only
  repeat' first
    | with_reducible assumption
    | intro _
    | with_reducible apply State.wr_kept
    | split

theorem execClkMapWrite_kept (k0 : State) (t : Tag) (d : Word) (s : State) (hk : Kept k0 s) : ∀ z, execClkMapWrite t d s = .next z → Kept k0 z := by
  intro z e
  unfold execClkMapWrite at e
  injection e with e
  rw [← e]
  try dsimp only
  repeat' first
    | with_reducible assumption
    | intro _
    | with_reducible apply hostWrite_kept
    | with_reducible apply writeClkMap_kept

theorem writeForce_kept (k0 : State) (d : Word) (s : State) (hk : Kept k0 s) : Kept k0 (writeForce d s) := by
  unfold writeForce
  try dsimp only
  repeat' first
    | with_reducible assumption
    | intro _
    | with_reducible apply State.wr_kept
    | with_reducible apply State.reselect_kept
    | with_reducible apply State.refCfg_kept
    | split

theorem writePrio_kept (k0 : State) (n : Nat) (d : Word) (s : State) (hk : Kept k0 s) : Kept k0 (writePrio n d s) := by
  unfold writePrio
  try dsimp only
  repeat' first
    | with_reducible assumption
    | intro _
    | with_reducible apply State.wr_kept
    | with_reducible apply State.setReason_kept
    | with_reducible apply State.clearReason_kept
    | with_reducible apply State.reselect_kept
    | split

theorem refselTableRead_kept (k0 : State) (sel idx : Nat) (s : State) (hk : Kept k0 s) : Kept k0 (refselTableRead sel idx s).2 := by
  unfold refselTableRead
  try dsimp only
  repeat' first
    | with_reducible assumption
    | intro _
    | simp only [Kept.update]
    | with_reducible apply State.fresh_kept
    | split
    | with_reducible refine Kept.snd (by assumption) ?_
    | with_reducible refine Kept.third (by assumption) ?_
    | with_reducible refine Kept.last (by assumption) ?_
    | with_reducible refine Kept.fst (by assumption) ?_

theorem refselTableWrite_kept (k0 : State) (sel idx : Nat) (d : List Word) (s : State) (hk : Kept k0 s) : Kept k0 (refselTableWrite sel idx d s).2 := by
  unfold refselTableWrite
  try dsimp only
  repeat' first
    | with_reducible assumption
    | intro _
    | simp only [Kept.update]
    | with_reducible apply State.setEntWords_kept
    | with_reducible apply State.setReason_kept
    | with_reducible apply State.clearReason_kept
    | with_reducible apply State.reselect_kept
    | with_reducible apply State.candTbCheck_kept
    | split
    | with_reducible refine Kept.snd (by assumption) ?_
    | with_reducible refine Kept.third (by assumption) ?_
    | with_reducible refine Kept.last (by assumption) ?_
    | with_reducible refine Kept.fst (by assumption) ?_

theorem State.refselSnap_kept (k0 : State) (s : State) (hk : Kept k0 s) : Kept k0 (State.refselSnap s) := by
  unfold State.refselSnap
  try dsimp only
  repeat' first
    | with_reducible assumption
    | intro _
    | with_reducible apply State.snapTable_kept

end Sys2Proof.Machine
end

