-- ==== Sys2Proof/Laws/Kept/Time.lean ====
section
/-!
SUPPORT. Laws/Kept/Time.lean: each operation of Machine/Time.lean keeps what Laws/Kept.lean names.
-/
set_option linter.unusedSimpArgs false
set_option linter.unusedVariables false
set_option linter.unusedTactic false
set_option linter.unreachableTactic false

namespace Sys2Proof.Machine

theorem State.setTb_kept (k0 : State) (s : State) (n : Nat) (r : TbRec) (hk : Kept k0 s) : Kept k0 (State.setTb s n r) := by
  unfold State.setTb
  try dsimp only
  repeat' first
    | with_reducible assumption
    | intro _
    | simp only [Kept.update]

theorem State.setTbRate_kept (k0 : State) (s : State) (n : Nat) (r : Word) (hk : Kept k0 s) : Kept k0 (State.setTbRate s n r) := by
  unfold State.setTbRate
  try dsimp only
  repeat' first
    | with_reducible assumption
    | intro _
    | with_reducible apply State.setEnt_kept

theorem State.tbEvent_kept (k0 : State) (s : State) (n b : Nat) (hk : Kept k0 s) : Kept k0 (State.tbEvent s n b) := by
  unfold State.tbEvent
  try dsimp only
  repeat' first
    | with_reducible assumption
    | intro _
    | with_reducible apply State.raise_kept

theorem State.tbStepped_kept (k0 : State) (s : State) (n : Nat) (hk : Kept k0 s) : Kept k0 (State.tbStepped s n) := by
  unfold State.tbStepped
  try dsimp only
  repeat' first
    | with_reducible assumption
    | intro _
    | with_reducible apply State.setEnt_kept
    | with_reducible apply State.tbEvent_kept

theorem State.tbAdjust_kept (k0 : State) (s : State) (n : Nat) (a : Adj) (hk : Kept k0 s) : Kept k0 (State.tbAdjust s n a) := by
  unfold State.tbAdjust
  try dsimp only
  repeat' first
    | with_reducible assumption
    | intro _
    | simp only [Kept.update]
    | with_reducible apply State.setTb_kept
    | with_reducible apply State.setTbRate_kept
    | with_reducible apply State.tbStepped_kept
    | split
    | with_reducible refine Kept.snd (by assumption) ?_
    | with_reducible refine Kept.third (by assumption) ?_
    | with_reducible refine Kept.last (by assumption) ?_
    | with_reducible refine Kept.fst (by assumption) ?_

theorem State.tbAdvance_kept (k0 : State) (s : State) (n : Nat) (hk : Kept k0 s) : Kept k0 (State.tbAdvance s n) := by
  unfold State.tbAdvance
  try dsimp only
  repeat' first
    | with_reducible assumption
    | intro _
    | simp only [Kept.update]
    | with_reducible apply State.setTb_kept
    | split

theorem State.tbFollow_kept (k0 : State) (s : State) (n : Nat) (hk : Kept k0 s) : Kept k0 (State.tbFollow s n) := by
  unfold State.tbFollow
  try dsimp only
  repeat' first
    | with_reducible assumption
    | intro _
    | with_reducible apply State.setTbRate_kept
    | split

theorem State.timeBeat_kept (k0 : State) (s : State) (hk : Kept k0 s) : Kept k0 (State.timeBeat s) := by
  unfold State.timeBeat
  try dsimp only
  repeat' first
    | with_reducible assumption
    | intro _
    | simp only [Kept.update]
    | with_reducible apply State.setTb_kept
    | with_reducible apply State.tbAdjust_kept
    | with_reducible apply State.tbAdvance_kept
    | with_reducible apply State.tbFollow_kept
    | with_reducible apply Kept.forEach
    | split

theorem State.tbQueue_kept (k0 : State) (s : State) (n : Nat) (a : Adj) (hk : Kept k0 s) : Kept k0 (State.tbQueue s n a) := by
  unfold State.tbQueue
  try dsimp only
  repeat' first
    | with_reducible assumption
    | intro _
    | simp only [Kept.update]
    | with_reducible apply State.setTb_kept

theorem writeAdjCtrl_kept (k0 : State) (t : Tag) (d : Word) (s : State) (hk : Kept k0 s) : Kept k0 (writeAdjCtrl t d s) := by
  unfold writeAdjCtrl
  try dsimp only
  repeat' first
    | with_reducible assumption
    | intro _
    | with_reducible apply State.wr_kept
    | with_reducible apply State.tbQueue_kept
    | split

theorem adjRow_kept (k0 : State) (t : Tag) (op : Nat) (tb : Fin 8) (s : State) (hk : Kept k0 s) : Kept k0 (adjRow t op tb s) := by
  unfold adjRow
  try dsimp only
  repeat' first
    | with_reducible assumption
    | intro _
    | with_reducible apply hostWrite_kept
    | with_reducible apply writeAdjCtrl_kept

theorem execSetRate_kept (k0 : State) (t : Tag) (tb : Fin 8) (s : State) (hk : Kept k0 s) : ∀ z, execSetRate t tb s = .next z → Kept k0 z := by
  intro z e
  unfold execSetRate at e
  injection e with e
  rw [← e]
  try dsimp only
  repeat' first
    | with_reducible assumption
    | intro _
    | with_reducible apply adjRow_kept

theorem execSlew_kept (k0 : State) (t : Tag) (tb : Fin 8) (s : State) (hk : Kept k0 s) : ∀ z, execSlew t tb s = .next z → Kept k0 z := by
  intro z e
  unfold execSlew at e
  injection e with e
  rw [← e]
  try dsimp only
  repeat' first
    | with_reducible assumption
    | intro _
    | with_reducible apply adjRow_kept

theorem execStepTime_kept (k0 : State) (t : Tag) (tb : Fin 8) (s : State) (hk : Kept k0 s) : ∀ z, execStepTime t tb s = .next z → Kept k0 z := by
  intro z e
  unfold execStepTime at e
  injection e with e
  rw [← e]
  try dsimp only
  repeat' first
    | with_reducible assumption
    | intro _
    | with_reducible apply adjRow_kept

theorem execSetTime_kept (k0 : State) (t : Tag) (tb : Fin 8) (s : State) (hk : Kept k0 s) : ∀ z, execSetTime t tb s = .next z → Kept k0 z := by
  intro z e
  unfold execSetTime at e
  injection e with e
  rw [← e]
  try dsimp only
  repeat' first
    | with_reducible assumption
    | intro _
    | with_reducible apply adjRow_kept

theorem execPtpSync_kept (k0 : State) (tb : Fin 8) (offset : BitVec 64) (mpd : Word) (gm : BitVec 64) (utc : BitVec 16) (rate : Word) (s : State) (hk : Kept k0 s) : ∀ z, execPtpSync tb offset mpd gm utc rate s = .next z → Kept k0 z := by
  intro z e
  unfold execPtpSync at e
  injection e with e
  rw [← e]
  try dsimp only
  repeat' first
    | with_reducible assumption
    | intro _
    | simp only [Kept.update]
    | with_reducible apply State.setEntWords_kept
    | with_reducible apply State.setTb_kept
    | with_reducible apply State.tbEvent_kept
    | with_reducible apply State.tbQueue_kept
    | split

theorem State.meanRate_kept (k0 : State) (s : State) (l : List Int) (hk : Kept k0 s) : Kept k0 (State.meanRate s l).2 := by
  unfold State.meanRate
  try dsimp only
  repeat' first
    | with_reducible assumption
    | intro _
    | with_reducible apply State.fresh_kept
    | with_reducible apply Kept.foldl
    | with_reducible apply Kept.foldl_fst
    | with_reducible apply Kept.foldl_snd
    | split
    | with_reducible refine Kept.snd (by assumption) ?_
    | with_reducible refine Kept.third (by assumption) ?_
    | with_reducible refine Kept.last (by assumption) ?_
    | with_reducible refine Kept.fst (by assumption) ?_

theorem execPtpAnnounceTimeout_kept (k0 : State) (tb : Fin 8) (s : State) (hk : Kept k0 s) : ∀ z, execPtpAnnounceTimeout tb s = .next z → Kept k0 z := by
  intro z e
  unfold execPtpAnnounceTimeout at e
  injection e with e
  rw [← e]
  try dsimp only
  repeat' first
    | with_reducible assumption
    | intro _
    | simp only [Kept.update]
    | with_reducible apply State.candTbCheck_kept
    | with_reducible apply State.setTb_kept
    | with_reducible apply State.setTbRate_kept
    | with_reducible apply State.tbEvent_kept
    | with_reducible apply State.meanRate_kept
    | split
    | with_reducible refine Kept.snd (by assumption) ?_
    | with_reducible refine Kept.third (by assumption) ?_
    | with_reducible refine Kept.last (by assumption) ?_
    | with_reducible refine Kept.fst (by assumption) ?_

theorem State.setCmp_kept (k0 : State) (s : State) (k : Nat) (r : CmpRec) (hk : Kept k0 s) : Kept k0 (State.setCmp s k r) := by
  unfold State.setCmp
  try dsimp only
  repeat' first
    | with_reducible assumption
    | intro _
    | simp only [Kept.update]

theorem State.cmpSeen_kept (k0 : State) (s : State) (k : Nat) (d : List Word) (late : Bool) (hk : Kept k0 s) : Kept k0 (State.cmpSeen s k d late) := by
  unfold State.cmpSeen
  try dsimp only
  repeat' first
    | with_reducible assumption
    | intro _
    | with_reducible apply State.wrF_kept
    | with_reducible apply State.setEnt_kept
    | with_reducible apply State.setEntWords_kept
    | with_reducible apply State.raise_kept
    | with_reducible apply State.cause_kept
    | with_reducible apply State.tdmStart_kept
    | split

theorem execComparatorFire_kept (k0 : State) (k : Fin 512) (s : State) (hk : Kept k0 s) : ∀ z, execComparatorFire k s = .next z → Kept k0 z := by
  intro z e
  unfold execComparatorFire at e
  injection e with e
  rw [← e]
  try dsimp only
  repeat' first
    | with_reducible assumption
    | intro _
    | simp only [Kept.update]
    | with_reducible apply State.setEnt_kept
    | with_reducible apply State.setEntF_kept
    | with_reducible apply State.setCmp_kept
    | with_reducible apply State.cmpSeen_kept
    | split

theorem State.timeRefuse_kept (k0 : State) (s : State) (t : Tag) (reason idx : Nat) (hk : Kept k0 s) : Kept k0 (State.timeRefuse s t reason idx).2 := by
  unfold State.timeRefuse
  try dsimp only
  repeat' first
    | with_reducible assumption
    | intro _
    | with_reducible apply State.setReason_kept

theorem State.timeAccept_kept (k0 : State) (s : State) (t : Tag) (hk : Kept k0 s) : Kept k0 (State.timeAccept s t).2 := by
  unfold State.timeAccept
  try dsimp only
  repeat' first
    | with_reducible assumption
    | intro _
    | with_reducible apply State.clearReason_kept

theorem State.tbModeSet_kept (k0 : State) (s : State) (n old new : Nat) (hk : Kept k0 s) : Kept k0 (State.tbModeSet s n old new) := by
  unfold State.tbModeSet
  try dsimp only
  repeat' first
    | with_reducible assumption
    | intro _
    | simp only [Kept.update]
    | with_reducible apply State.candTbCheck_kept
    | with_reducible apply State.setTb_kept
    | with_reducible apply State.setTbRate_kept
    | split

theorem timeConfigWrite_kept (k0 : State) (t : Tag) (n : Nat) (d : List Word) (s : State) (hk : Kept k0 s) : Kept k0 (timeConfigWrite t n d s).2 := by
  unfold timeConfigWrite
  try dsimp only
  repeat' first
    | with_reducible assumption
    | intro _
    | with_reducible apply State.setEntWords_kept
    | with_reducible apply State.timeRefuse_kept
    | with_reducible apply State.timeAccept_kept
    | with_reducible apply State.tbModeSet_kept
    | split

theorem ptpConfigWrite_kept (k0 : State) (t : Tag) (n : Nat) (d : List Word) (s : State) (hk : Kept k0 s) : Kept k0 (ptpConfigWrite t n d s).2 := by
  unfold ptpConfigWrite
  try dsimp only
  repeat' first
    | with_reducible assumption
    | intro _
    | simp only [Kept.update]
    | with_reducible apply State.setEntWords_kept
    | with_reducible apply State.setTb_kept
    | with_reducible apply State.timeRefuse_kept
    | with_reducible apply State.timeAccept_kept
    | split

theorem cmpWrite_kept (k0 : State) (t : Tag) (k : Nat) (d : List Word) (s : State) (hk : Kept k0 s) : Kept k0 (cmpWrite t k d s).2 := by
  unfold cmpWrite
  try dsimp only
  repeat' first
    | with_reducible assumption
    | intro _
    | simp only [Kept.update]
    | with_reducible apply State.setEntWords_kept
    | with_reducible apply State.setCmp_kept
    | with_reducible apply State.timeRefuse_kept
    | with_reducible apply State.timeAccept_kept
    | split

theorem timeTableWrite_kept (k0 : State) (t : Tag) (sel idx : Nat) (d : List Word) (s : State) (hk : Kept k0 s) : Kept k0 (timeTableWrite t sel idx d s).2 := by
  unfold timeTableWrite
  try dsimp only
  repeat' first
    | with_reducible assumption
    | intro _
    | simp only [Kept.update]
    | with_reducible apply State.setEntWords_kept
    | with_reducible apply State.timeRefuse_kept
    | with_reducible apply State.timeAccept_kept
    | with_reducible apply timeConfigWrite_kept
    | with_reducible apply ptpConfigWrite_kept
    | with_reducible apply cmpWrite_kept
    | split
    | with_reducible refine Kept.snd (by assumption) ?_
    | with_reducible refine Kept.third (by assumption) ?_
    | with_reducible refine Kept.last (by assumption) ?_
    | with_reducible refine Kept.fst (by assumption) ?_

theorem State.timeSnap_kept (k0 : State) (s : State) (p : Nat) (hk : Kept k0 s) : Kept k0 (State.timeSnap s p) := by
  unfold State.timeSnap
  try dsimp only
  repeat' first
    | with_reducible assumption
    | intro _
    | with_reducible apply State.snap_kept
    | with_reducible apply State.snapEnt_kept
    | with_reducible apply Kept.forEach
    | split

end Sys2Proof.Machine
end

