-- ==== Sys2Proof/Laws/Kept/Reset.lean ====
section
/-!
SUPPORT. Laws/Kept/Reset.lean: each operation of Machine/Reset.lean keeps what Laws/Kept.lean names.
-/
set_option linter.unusedSimpArgs false
set_option linter.unusedVariables false
set_option linter.unusedTactic false
set_option linter.unreachableTactic false

namespace Sys2Proof.Machine

theorem State.keyPending_kept (k0 : State) (s : State) (o : ResOp) (hk : Kept k0 s) : Kept k0 (State.keyPending s o) := by
  have h1 : Kept k0 (s.fresh 1).2 := State.fresh_kept _ _ _ hk
  have h2 := keyServe_kept _ (keyReqOf o) _ (Kept.refl (s.fresh 1).2)
  unfold State.keyPending
  dsimp only
  split
  · exact h1
  · exact h1.trans ⟨rfl, fun x => x, fun x => x, fun x => x, BitVec.le_refl _, BitVec.and_self, h2.gen, h2.epoch⟩

theorem State.cleared_kept (k0 : State) (s : State) (hk : Kept k0 s) : Kept k0 (State.cleared s) := by
  have h : Kept k0 (forEach s.bus.res (fun o s => s.keyPending o) s) :=
    hk.forEach _ _ fun o v h => State.keyPending_kept _ _ _ h
  exact h.trans ⟨rfl, fun _ => rfl, fun _ => rfl, fun _ => rfl, BitVec.le_refl _, BitVec.and_self, fun _ => BitVec.le_refl _,
    fun _ => BitVec.le_refl _⟩

theorem State.chipReset_kept (k0 : State) (s : State) (last : Word) (hk : Kept k0 s) : Kept k0 (State.chipReset s last) := by
  unfold State.chipReset
  try dsimp only
  repeat' first
    | with_reducible assumption
    | intro _
    | with_reducible apply State.wr_kept
    | with_reducible apply State.cleared_kept

theorem State.chipRestart_kept (k0 : State) (s : State) (hk : Kept k0 s) : Kept k0 (State.chipRestart s) := by
  unfold State.chipRestart
  try dsimp only
  repeat' first
    | with_reducible assumption
    | intro _
    | with_reducible apply State.chipReset_kept

theorem execResetN_kept (k0 : State) (s : State) (hk : Kept k0 s) : ∀ z, execResetN s = .next z → Kept k0 z := by
  intro z e
  unfold execResetN at e
  injection e with e
  rw [← e]
  try dsimp only
  repeat' first
    | with_reducible assumption
    | intro _
    | with_reducible apply State.chipReset_kept

theorem State.putPage_kept (k0 : State) (s : State) (slot pg : Nat) (p : SetPage) (hk : Kept k0 s) : Kept k0 (State.putPage s slot pg p) := by
  unfold State.putPage
  try dsimp only
  repeat' first
    | with_reducible assumption
    | intro _
    | simp only [Kept.update]

theorem State.writePage_kept (k0 : State) (s : State) (slot pg : Nat) (ws : List Word) (hk : Kept k0 s) : Kept k0 (State.writePage s slot pg ws) := by
  unfold State.writePage
  try dsimp only
  repeat' first
    | with_reducible assumption
    | intro _
    | with_reducible apply State.putPage_kept

theorem State.tornWrite_kept (k0 : State) (s : State) (o : ResOp) (hk : Kept k0 s) : Kept k0 (State.tornWrite s o) := by
  unfold State.tornWrite
  try dsimp only
  repeat' first
    | with_reducible assumption
    | intro _
    | with_reducible apply State.fresh_kept
    | with_reducible apply State.putPage_kept
    | split
    | with_reducible refine Kept.snd (by assumption) ?_
    | with_reducible refine Kept.third (by assumption) ?_
    | with_reducible refine Kept.last (by assumption) ?_
    | with_reducible refine Kept.fst (by assumption) ?_

theorem execPowerLoss_kept (k0 : State) (s : State) (hk : Kept k0 s) : ∀ z, execPowerLoss s = .next z → Kept k0 z := by
  intro z e
  unfold execPowerLoss at e
  injection e with e
  rw [← e]
  try dsimp only
  repeat' first
    | with_reducible assumption
    | intro _
    | with_reducible apply State.chipReset_kept
    | with_reducible apply State.tornWrite_kept
    | with_reducible apply Kept.forEach

theorem State.perst_kept (k0 : State) (s : State) (hk : Kept k0 s) : Kept k0 (State.perst s) := by
  unfold State.perst
  try dsimp only
  repeat' first
    | with_reducible assumption
    | intro _
    | with_reducible apply State.wr_kept
    | with_reducible apply State.hostReset_kept
    | with_reducible apply State.clearStaging_kept
    | with_reducible apply State.audClearStaging_kept
    | with_reducible apply Kept.forEach

theorem execPerstN_kept (k0 : State) (s : State) (hk : Kept k0 s) : ∀ z, execPerstN s = .next z → Kept k0 z := by
  have low : ∀ t : State, Kept k0 t → Kept k0 { t with host := { t.host with perstN := false } } := by
    intro t h
    simp only [Kept.update]
    exact h
  have mark : Kept k0 { s with pwr := { s.pwr with perst := true } } := by
    simp only [Kept.update]
    exact hk
  intro z e
  unfold execPerstN at e
  injection e with e
  rw [← e]
  apply low
  dsimp only
  split
  · exact mark
  · exact State.perst_kept _ _ hk

theorem execPerstNRelease_kept (k0 : State) (s : State) (hk : Kept k0 s) : ∀ z, execPerstNRelease s = .next z → Kept k0 z := by
  intro z e
  unfold execPerstNRelease at e
  injection e with e
  rw [← e]
  try dsimp only
  repeat' first
    | with_reducible assumption
    | intro _
    | simp only [Kept.update]

theorem State.warmReset_kept (k0 : State) (s : State) (hk : Kept k0 s) : Kept k0 (State.warmReset s) := by
  unfold State.warmReset
  try dsimp only
  repeat' first
    | with_reducible assumption
    | intro _
    | with_reducible apply State.wrF_kept
    | with_reducible apply State.takeWarm_kept
    | with_reducible apply State.audClearStaging_kept
    | with_reducible apply State.candTbCheck_kept

theorem execManagementWarmReset_kept (k0 : State) (s : State) (hk : Kept k0 s) : ∀ z, execManagementWarmReset s = .next z → Kept k0 z := by
  intro z e
  unfold execManagementWarmReset at e
  injection e with e
  rw [← e]
  try dsimp only
  repeat' first
    | with_reducible assumption
    | intro _
    | with_reducible apply State.warmReset_kept
    | split

end Sys2Proof.Machine
end

