-- ==== Sys2Proof/Laws/Kept/Mgt.lean ====
section
/-!
SUPPORT. Laws/Kept/Mgt.lean: each operation of Machine/Mgt.lean keeps what Laws/Kept.lean names.
-/
set_option linter.unusedSimpArgs false
set_option linter.unusedVariables false
set_option linter.unusedTactic false
set_option linter.unreachableTactic false

namespace Sys2Proof.Machine

theorem State.setMgt_kept (k0 : State) (s : State) (m : MgtSt) (hk : Kept k0 s) : Kept k0 (State.setMgt s m) := by
  unfold State.setMgt
  try dsimp only
  repeat' first
    | with_reducible assumption
    | intro _
    | simp only [Kept.update]

theorem State.setMgtStatus_kept (k0 : State) (s : State) (lo n v : Nat) (hk : Kept k0 s) : Kept k0 (State.setMgtStatus s lo n v) := by
  unfold State.setMgtStatus
  try dsimp only
  repeat' first
    | with_reducible assumption
    | intro _
    | with_reducible apply State.wrF_kept

theorem State.setSlot_kept (k0 : State) (s : State) (i v : Nat) (hk : Kept k0 s) : Kept k0 (State.setSlot s i v) := by
  unfold State.setSlot
  try dsimp only
  repeat' first
    | with_reducible assumption
    | intro _
    | simp only [Kept.update]
    | with_reducible apply State.setMgt_kept

theorem State.failRecord_kept (k0 : State) (s : State) (reason stepNo : Nat) (hk : Kept k0 s) : Kept k0 (State.failRecord s reason stepNo) := by
  unfold State.failRecord
  try dsimp only
  repeat' first
    | with_reducible assumption
    | intro _
    | simp only [Kept.update]
    | with_reducible apply State.setMgt_kept

theorem State.runSlot_kept (k0 : State) (s : State) (i : Nat) (hk : Kept k0 s) : Kept k0 (State.runSlot s i) := by
  unfold State.runSlot
  try dsimp only
  repeat' first
    | with_reducible assumption
    | intro _
    | simp only [Kept.update]
    | with_reducible apply State.setMgt_kept
    | with_reducible apply State.setMgtStatus_kept
    | with_reducible apply State.setSlot_kept

theorem State.enterHalter_kept (k0 : State) (s : State) (hk : Kept k0 s) : Kept k0 (State.enterHalter s) := by
  unfold State.enterHalter
  try dsimp only
  repeat' first
    | with_reducible assumption
    | intro _
    | simp only [Kept.update]
    | with_reducible apply State.enterStage_kept
    | with_reducible apply State.setMgtStatus_kept

theorem State.loadBlocks_kept (k0 : State) (s : State) (hk : Kept k0 s) : Kept k0 (State.loadBlocks s) := by
  unfold State.loadBlocks
  try dsimp only
  repeat' first
    | with_reducible assumption
    | intro _
    | with_reducible apply State.wrF_kept
    | with_reducible apply State.folInit_kept
    | with_reducible apply Kept.forEach

theorem State.failStart_kept (k0 : State) (s : State) (reason stepNo : Nat) (hk : Kept k0 s) : Kept k0 (State.failStart s reason stepNo) := by
  unfold State.failStart
  try dsimp only
  repeat' first
    | with_reducible assumption
    | intro _
    | with_reducible apply State.raise_kept
    | with_reducible apply State.chipRestart_kept
    | with_reducible apply State.failRecord_kept

theorem State.endTrialReset_kept (k0 : State) (s : State) (hk : Kept k0 s) : Kept k0 (State.endTrialReset s) := by
  unfold State.endTrialReset
  try dsimp only
  repeat' first
    | with_reducible assumption
    | intro _
    | simp only [Kept.update]
    | with_reducible apply State.setMgt_kept
    | with_reducible apply State.setSlot_kept
    | with_reducible apply State.failRecord_kept
    | with_reducible apply State.runSlot_kept
    | split
    | with_reducible refine Kept.snd (by assumption) ?_
    | with_reducible refine Kept.third (by assumption) ?_
    | with_reducible refine Kept.last (by assumption) ?_
    | with_reducible refine Kept.fst (by assumption) ?_

theorem execStart_kept (k0 : State) (v : BootCheck) (s : State) (hk : Kept k0 s) : ∀ z, execStart v s = .next z → Kept k0 z := by
  intro z e
  unfold execStart at e
  injection e with e
  rw [← e]
  try dsimp only
  repeat' first
    | with_reducible assumption
    | intro _
    | simp only [Kept.update]
    | with_reducible apply State.raise_kept
    | with_reducible apply State.enterStage_kept
    | with_reducible apply State.chipRestart_kept
    | with_reducible apply State.setMgt_kept
    | with_reducible apply State.setMgtStatus_kept
    | with_reducible apply State.setSlot_kept
    | with_reducible apply State.failRecord_kept
    | with_reducible apply State.runSlot_kept
    | with_reducible apply State.enterHalter_kept
    | with_reducible apply State.loadBlocks_kept
    | with_reducible apply State.failStart_kept
    | with_reducible apply State.endTrialReset_kept
    | split
    | with_reducible refine Kept.snd (by assumption) ?_
    | with_reducible refine Kept.third (by assumption) ?_
    | with_reducible refine Kept.last (by assumption) ?_
    | with_reducible refine Kept.fst (by assumption) ?_

theorem execStartFail_kept (k0 : State) (reason : BitVec 8) (stepNo : BitVec 4) (s : State) (hk : Kept k0 s) : ∀ z, execStartFail reason stepNo s = .next z → Kept k0 z := by
  intro z e
  unfold execStartFail at e
  injection e with e
  rw [← e]
  try dsimp only
  repeat' first
    | with_reducible assumption
    | intro _
    | with_reducible apply State.failStart_kept
    | split

theorem State.setUpSlot_kept (k0 : State) (s : State) (hk : Kept k0 s) : Kept k0 (State.setUpSlot s) := by
  unfold State.setUpSlot
  try dsimp only
  repeat' first
    | with_reducible assumption
    | intro _
    | simp only [Kept.update]
    | with_reducible apply State.writePage_kept
    | with_reducible apply State.setMgt_kept
    | with_reducible apply Kept.forEach
    | split
    | with_reducible refine Kept.snd (by assumption) ?_
    | with_reducible refine Kept.third (by assumption) ?_
    | with_reducible refine Kept.last (by assumption) ?_
    | with_reducible refine Kept.fst (by assumption) ?_

theorem execMgtReady_kept (k0 : State) (s : State) (hk : Kept k0 s) : ∀ z, execMgtReady s = .next z → Kept k0 z := by
  intro z e
  unfold execMgtReady at e
  injection e with e
  rw [← e]
  try dsimp only
  repeat' first
    | with_reducible assumption
    | intro _
    | simp only [Kept.update]
    | with_reducible apply State.wrF_kept
    | with_reducible apply State.raise_kept
    | with_reducible apply State.setMgt_kept
    | with_reducible apply State.setMgtStatus_kept
    | with_reducible apply State.setUpSlot_kept
    | split

theorem State.updResult_kept (k0 : State) (s : State) (op slot code : Nat) (busy : Bool) (hk : Kept k0 s) : Kept k0 (State.updResult s op slot code busy) := by
  unfold State.updResult
  try dsimp only
  repeat' first
    | with_reducible assumption
    | intro _
    | with_reducible apply State.wr_kept
    | split

theorem State.restartImage_kept (k0 : State) (s : State) (hk : Kept k0 s) : Kept k0 (State.restartImage s) := by
  unfold State.restartImage
  try dsimp only
  repeat' first
    | with_reducible assumption
    | intro _
    | with_reducible apply State.wrF_kept
    | with_reducible apply State.monFreeze_kept
    | with_reducible apply State.warmReset_kept
    | with_reducible apply State.setMgtStatus_kept
    | with_reducible apply Kept.forEach

theorem State.mgtRevert_kept (k0 : State) (s : State) (bad : Bool) (hk : Kept k0 s) : Kept k0 (State.mgtRevert s bad) := by
  unfold State.mgtRevert
  try dsimp only
  repeat' first
    | with_reducible assumption
    | intro _
    | simp only [Kept.update]
    | with_reducible apply State.raise_kept
    | with_reducible apply State.setMgt_kept
    | with_reducible apply State.setMgtStatus_kept
    | with_reducible apply State.setSlot_kept
    | with_reducible apply State.failRecord_kept
    | with_reducible apply State.runSlot_kept
    | with_reducible apply State.restartImage_kept
    | split
    | with_reducible refine Kept.snd (by assumption) ?_
    | with_reducible refine Kept.third (by assumption) ?_
    | with_reducible refine Kept.last (by assumption) ?_
    | with_reducible refine Kept.fst (by assumption) ?_

theorem State.activateLate_kept (k0 : State) (s : State) (hk : Kept k0 s) : Kept k0 (State.activateLate s).2 := by
  unfold State.activateLate
  try dsimp only
  repeat' first
    | with_reducible assumption
    | intro _
    | simp only [Kept.update]
    | with_reducible apply State.fresh_kept
    | split
    | with_reducible refine Kept.snd (by assumption) ?_
    | with_reducible refine Kept.third (by assumption) ?_
    | with_reducible refine Kept.last (by assumption) ?_
    | with_reducible refine Kept.fst (by assumption) ?_

theorem mgtActivate_kept (k0 : State) (i : Nat) (s : State) (hk : Kept k0 s) : Kept k0 (mgtActivate i s) := by
  unfold mgtActivate
  try dsimp only
  repeat' first
    | with_reducible assumption
    | intro _
    | simp only [Kept.update]
    | with_reducible apply State.wr_kept
    | with_reducible apply State.raise_kept
    | with_reducible apply State.setMgt_kept
    | with_reducible apply State.setSlot_kept
    | with_reducible apply State.runSlot_kept
    | with_reducible apply State.updResult_kept
    | with_reducible apply State.restartImage_kept
    | with_reducible apply State.activateLate_kept
    | split
    | with_reducible refine Kept.snd (by assumption) ?_
    | with_reducible refine Kept.third (by assumption) ?_
    | with_reducible refine Kept.last (by assumption) ?_
    | with_reducible refine Kept.fst (by assumption) ?_

theorem State.eraseSlot_kept (k0 : State) (s : State) (i : Nat) (hk : Kept k0 s) : Kept k0 (State.eraseSlot s i) := by
  unfold State.eraseSlot
  try dsimp only
  repeat' first
    | with_reducible assumption
    | intro _
    | simp only [Kept.update]
    | with_reducible apply State.writePage_kept
    | with_reducible apply Kept.forEach

theorem mgtCommand_kept (k0 : State) (op i : Nat) (s : State) (hk : Kept k0 s) : Kept k0 (mgtCommand op i s) := by
  unfold mgtCommand
  try dsimp only
  repeat' first
    | with_reducible assumption
    | intro _
    | simp only [Kept.update]
    | with_reducible apply State.raise_kept
    | with_reducible apply State.chipRestart_kept
    | with_reducible apply State.setMgt_kept
    | with_reducible apply State.setMgtStatus_kept
    | with_reducible apply State.setSlot_kept
    | with_reducible apply State.updResult_kept
    | with_reducible apply State.mgtRevert_kept
    | with_reducible apply mgtActivate_kept
    | with_reducible apply State.eraseSlot_kept
    | split
    | with_reducible refine Kept.snd (by assumption) ?_
    | with_reducible refine Kept.third (by assumption) ?_
    | with_reducible refine Kept.last (by assumption) ?_
    | with_reducible refine Kept.fst (by assumption) ?_

theorem writeUpdCmd_kept (k0 : State) (d : Word) (s : State) (hk : Kept k0 s) : Kept k0 (writeUpdCmd d s) := by
  unfold writeUpdCmd
  try dsimp only
  repeat' first
    | with_reducible assumption
    | intro _
    | with_reducible apply mgtCommand_kept

theorem updRow_kept (k0 : State) (t : Tag) (op slot : Nat) (s : State) (hk : Kept k0 s) : Kept k0 (updRow t op slot s) := by
  unfold updRow
  try dsimp only
  repeat' first
    | with_reducible assumption
    | intro _
    | with_reducible apply hostWrite_kept
    | with_reducible apply writeUpdCmd_kept

theorem execLoadBegin_kept (k0 : State) (t : Tag) (slot : Fin 2) (s : State) (hk : Kept k0 s) : ∀ z, execLoadBegin t slot s = .next z → Kept k0 z := by
  intro z e
  unfold execLoadBegin at e
  injection e with e
  rw [← e]
  try dsimp only
  repeat' first
    | with_reducible assumption
    | intro _
    | with_reducible apply updRow_kept

theorem execLoadEnd_kept (k0 : State) (t : Tag) (slot : Fin 2) (s : State) (hk : Kept k0 s) : ∀ z, execLoadEnd t slot s = .next z → Kept k0 z := by
  intro z e
  unfold execLoadEnd at e
  injection e with e
  rw [← e]
  try dsimp only
  repeat' first
    | with_reducible assumption
    | intro _
    | with_reducible apply updRow_kept

theorem execLoadAbort_kept (k0 : State) (t : Tag) (slot : Fin 2) (s : State) (hk : Kept k0 s) : ∀ z, execLoadAbort t slot s = .next z → Kept k0 z := by
  intro z e
  unfold execLoadAbort at e
  injection e with e
  rw [← e]
  try dsimp only
  repeat' first
    | with_reducible assumption
    | intro _
    | with_reducible apply updRow_kept

theorem execActivate_kept (k0 : State) (t : Tag) (slot : Fin 2) (s : State) (hk : Kept k0 s) : ∀ z, execActivate t slot s = .next z → Kept k0 z := by
  intro z e
  unfold execActivate at e
  injection e with e
  rw [← e]
  try dsimp only
  repeat' first
    | with_reducible assumption
    | intro _
    | with_reducible apply updRow_kept

theorem execAccept_kept (k0 : State) (t : Tag) (s : State) (hk : Kept k0 s) : ∀ z, execAccept t s = .next z → Kept k0 z := by
  intro z e
  unfold execAccept at e
  injection e with e
  rw [← e]
  try dsimp only
  repeat' first
    | with_reducible assumption
    | intro _
    | with_reducible apply updRow_kept

theorem execRevert_kept (k0 : State) (t : Tag) (s : State) (hk : Kept k0 s) : ∀ z, execRevert t s = .next z → Kept k0 z := by
  intro z e
  unfold execRevert at e
  injection e with e
  rw [← e]
  try dsimp only
  repeat' first
    | with_reducible assumption
    | intro _
    | with_reducible apply updRow_kept

theorem execRecover_kept (k0 : State) (t : Tag) (slot : Fin 2) (s : State) (hk : Kept k0 s) : ∀ z, execRecover t slot s = .next z → Kept k0 z := by
  intro z e
  unfold execRecover at e
  injection e with e
  rw [← e]
  try dsimp only
  repeat' first
    | with_reducible assumption
    | intro _
    | with_reducible apply updRow_kept

theorem execFirmwareReady_kept (k0 : State) (s : State) (hk : Kept k0 s) : ∀ z, execFirmwareReady s = .next z → Kept k0 z := by
  intro z e
  unfold execFirmwareReady at e
  injection e with e
  rw [← e]
  try dsimp only
  repeat' first
    | with_reducible assumption
    | intro _
    | simp only [Kept.update]
    | with_reducible apply State.takeReady_kept
    | with_reducible apply State.setMgt_kept
    | with_reducible apply State.setMgtStatus_kept
    | with_reducible apply State.setUpSlot_kept
    | with_reducible apply State.updResult_kept
    | split
    | with_reducible refine Kept.snd (by assumption) ?_
    | with_reducible refine Kept.third (by assumption) ?_
    | with_reducible refine Kept.last (by assumption) ?_
    | with_reducible refine Kept.fst (by assumption) ?_

theorem execAcceptWindowEnd_kept (k0 : State) (s : State) (hk : Kept k0 s) : ∀ z, execAcceptWindowEnd s = .next z → Kept k0 z := by
  intro z e
  unfold execAcceptWindowEnd at e
  injection e with e
  rw [← e]
  try dsimp only
  repeat' first
    | with_reducible assumption
    | intro _
    | with_reducible apply State.mgtRevert_kept
    | split

theorem execTrialHealthTimeout_kept (k0 : State) (s : State) (hk : Kept k0 s) : ∀ z, execTrialHealthTimeout s = .next z → Kept k0 z := by
  intro z e
  unfold execTrialHealthTimeout at e
  injection e with e
  rw [← e]
  try dsimp only
  repeat' first
    | with_reducible assumption
    | intro _
    | with_reducible apply State.mgtRevert_kept
    | split

theorem execManagementWatchdog_kept (k0 : State) (s : State) (hk : Kept k0 s) : ∀ z, execManagementWatchdog s = .next z → Kept k0 z := by
  intro z e
  unfold execManagementWatchdog at e
  injection e with e
  rw [← e]
  try dsimp only
  repeat' first
    | with_reducible assumption
    | intro _
    | with_reducible apply State.raise_kept
    | with_reducible apply State.warmReset_kept
    | with_reducible apply State.failStart_kept
    | with_reducible apply State.mgtRevert_kept
    | split

theorem writeMgtCtrl_kept (k0 : State) (d : Word) (s : State) (hk : Kept k0 s) : Kept k0 (writeMgtCtrl d s) := by
  unfold writeMgtCtrl
  try dsimp only
  repeat' first
    | with_reducible assumption
    | intro _
    | with_reducible apply State.warmReset_kept
    | split

theorem execWarm_kept (k0 : State) (t : Tag) (s : State) (hk : Kept k0 s) : ∀ z, execWarm t s = .next z → Kept k0 z := by
  intro z e
  unfold execWarm at e
  injection e with e
  rw [← e]
  try dsimp only
  repeat' first
    | with_reducible assumption
    | intro _
    | with_reducible apply hostWrite_kept
    | with_reducible apply writeMgtCtrl_kept

theorem execUpdateCommandDone_kept (k0 : State) (v : ImageCheck) (s : State) (hk : Kept k0 s) : ∀ z, execUpdateCommandDone v s = .next z → Kept k0 z := by
  intro z e
  unfold execUpdateCommandDone at e
  injection e with e
  rw [← e]
  try dsimp only
  repeat' first
    | with_reducible assumption
    | intro _
    | simp only [Kept.update]
    | with_reducible apply State.setMgt_kept
    | with_reducible apply State.setSlot_kept
    | with_reducible apply State.updResult_kept
    | split
    | with_reducible refine Kept.snd (by assumption) ?_
    | with_reducible refine Kept.third (by assumption) ?_
    | with_reducible refine Kept.last (by assumption) ?_
    | with_reducible refine Kept.fst (by assumption) ?_

theorem State.mgtRefuse_kept (k0 : State) (s : State) (hk : Kept k0 s) : Kept k0 (State.mgtRefuse s).2 := by
  unfold State.mgtRefuse
  try dsimp only
  repeat' first
    | with_reducible assumption
    | intro _

theorem mgtTableWrite_kept (k0 : State) (sel idx : Nat) (d : List Word) (s : State) (hk : Kept k0 s) : Kept k0 (mgtTableWrite sel idx d s).2 := by
  unfold mgtTableWrite
  try dsimp only
  repeat' first
    | with_reducible assumption
    | intro _
    | simp only [Kept.update]
    | with_reducible apply State.setEntWords_kept
    | with_reducible apply State.setMgt_kept
    | with_reducible apply State.mgtRefuse_kept
    | split
    | with_reducible refine Kept.snd (by assumption) ?_
    | with_reducible refine Kept.third (by assumption) ?_
    | with_reducible refine Kept.last (by assumption) ?_
    | with_reducible refine Kept.fst (by assumption) ?_

theorem State.settingsDone_kept (k0 : State) (s : State) (data : List Word) (hk : Kept k0 s) : Kept k0 (State.settingsDone s data).2 := by
  unfold State.settingsDone
  try dsimp only
  repeat' first
    | with_reducible assumption
    | intro _
    | simp only [Kept.update]
    | with_reducible apply State.setEntWords_kept
    | with_reducible apply State.raise_kept
    | with_reducible apply State.writePage_kept
    | with_reducible apply Kept.forEach
    | split
    | with_reducible refine Kept.snd (by assumption) ?_
    | with_reducible refine Kept.third (by assumption) ?_
    | with_reducible refine Kept.last (by assumption) ?_
    | with_reducible refine Kept.fst (by assumption) ?_

end Sys2Proof.Machine
end

