-- ==== Sys2Proof/Laws/Kept/Part.lean ====
section
/-!
SUPPORT. Laws/Kept/Part.lean: each operation of Machine/Part.lean keeps what Laws/Kept.lean names.
-/
set_option linter.unusedSimpArgs false
set_option linter.unusedVariables false
set_option linter.unusedTactic false
set_option linter.unreachableTactic false

namespace Sys2Proof.Machine

theorem State.partForce_kept (k0 : State) (s : State) (sel idx p : Nat) (hk : Kept k0 s) : Kept k0 (State.partForce s sel idx p) := by
  unfold State.partForce
  try dsimp only
  repeat' first
    | with_reducible assumption
    | intro _
    | with_reducible apply State.forceRemoval_kept
    | with_reducible apply State.audForce_kept
    | split

theorem State.partStore_kept (k0 : State) (s : State) (sel idx : Nat) (w : Word) (hk : Kept k0 s) : Kept k0 (State.partStore s sel idx w) := by
  unfold State.partStore
  try dsimp only
  repeat' first
    | with_reducible assumption
    | intro _
    | with_reducible apply State.setEnt_kept
    | with_reducible apply State.cutOwner_kept
    | with_reducible apply State.partForce_kept
    | with_reducible apply Kept.forEach
    | with_reducible apply Kept.foldl
    | with_reducible apply Kept.foldl_fst
    | with_reducible apply Kept.foldl_snd
    | split

theorem partTableWrite_kept (k0 : State) (t : Tag) (sel idx : Nat) (d : List Word) (s : State) (hk : Kept k0 s) : Kept k0 (partTableWrite t sel idx d s).2 := by
  unfold partTableWrite
  try dsimp only
  repeat' first
    | with_reducible assumption
    | intro _
    | simp only [Kept.update]
    | with_reducible apply State.setEntWords_kept
    | with_reducible apply State.setReason_kept
    | with_reducible apply State.clearReason_kept
    | with_reducible apply State.partStore_kept
    | split
    | with_reducible refine Kept.snd (by assumption) ?_
    | with_reducible refine Kept.third (by assumption) ?_
    | with_reducible refine Kept.last (by assumption) ?_
    | with_reducible refine Kept.fst (by assumption) ?_

end Sys2Proof.Machine
end

