-- ==== Sys2Proof/Laws/Kept/Flt.lean ====
section
/-!
SUPPORT. Laws/Kept/Flt.lean: each operation of Machine/Flt.lean keeps what Laws/Kept.lean names.
-/
set_option linter.unusedSimpArgs false
set_option linter.unusedVariables false
set_option linter.unusedTactic false
set_option linter.unreachableTactic false

namespace Sys2Proof.Machine

theorem State.setFlt_kept (k0 : State) (s : State) (f : FltSt) (hk : Kept k0 s) : Kept k0 (State.setFlt s f) := by
  unfold State.setFlt
  try dsimp only
  repeat' first
    | with_reducible assumption
    | intro _
    | simp only [Kept.update]

theorem State.setActive_kept (k0 : State) (s : State) (p src : Nat) (v : Bool) (hk : Kept k0 s) : Kept k0 (State.setActive s p src v) := by
  unfold State.setActive
  try dsimp only
  repeat' first
    | with_reducible assumption
    | intro _
    | with_reducible apply State.setEntF_kept
    | split

theorem State.logOcc_kept (k0 : State) (s : State) (o : Occ) (e taken : Nat) (stripped held : Bool) (count : Nat) (hk : Kept k0 s) : Kept k0 (State.logOcc s o e taken stripped held count) := by
  unfold State.logOcc
  try dsimp only
  repeat' first
    | with_reducible assumption
    | intro _
    | with_reducible apply State.inc_kept
    | with_reducible apply State.setEntWords_kept
    | split

theorem State.takeOcc_kept (k0 : State) (s : State) (o : Occ) (quiet : Nat → Nat) (held : Bool) (hk : Kept k0 s) : Kept k0 (State.takeOcc s o quiet held).2 := by
  unfold State.takeOcc
  try dsimp only
  repeat' first
    | with_reducible assumption
    | intro _
    | simp only [Kept.update]
    | with_reducible apply State.incSat_kept
    | with_reducible apply State.setEntWords_kept
    | with_reducible apply State.raise_kept
    | with_reducible apply State.setFlt_kept
    | with_reducible apply State.logOcc_kept
    | split
    | with_reducible refine Kept.snd (by assumption) ?_
    | with_reducible refine Kept.third (by assumption) ?_
    | with_reducible refine Kept.last (by assumption) ?_
    | with_reducible refine Kept.fst (by assumption) ?_

theorem State.holdReset_kept (k0 : State) (s : State) (pg inst : Nat) (hk : Kept k0 s) : Kept k0 (State.holdReset s pg inst) := by
  unfold State.holdReset
  try dsimp only
  repeat' first
    | with_reducible assumption
    | intro _
    | simp only [Kept.update]
    | with_reducible apply State.wrF_kept
    | with_reducible apply State.setFlt_kept
    | split

theorem State.blockReset_kept (k0 : State) (s : State) (pg inst : Nat) (hk : Kept k0 s) : Kept k0 (State.blockReset s pg inst) := by
  unfold State.blockReset
  try dsimp only
  repeat' first
    | with_reducible assumption
    | intro _
    | with_reducible apply State.takeBlockReset_kept
    | with_reducible apply State.sliceReset_kept
    | with_reducible apply State.monFreeze_kept
    | with_reducible apply State.perst_kept
    | with_reducible apply State.warmReset_kept
    | with_reducible apply State.holdReset_kept
    | split

theorem State.reactBlock_kept (k0 : State) (s : State) (o : Occ) (hk : Kept k0 s) : Kept k0 (State.reactBlock s o) := by
  unfold State.reactBlock
  try dsimp only
  repeat' first
    | with_reducible assumption
    | intro _
    | with_reducible apply State.blockReset_kept
    | with_reducible apply Kept.forEach
    | split

theorem State.trap_kept (k0 : State) (s : State) (src : Nat) (hk : Kept k0 s) : Kept k0 (State.trap s src) := by
  unfold State.trap
  try dsimp only
  repeat' first
    | with_reducible assumption
    | intro _
    | simp only [Kept.update]
    | with_reducible apply State.fresh_kept
    | with_reducible apply State.occur_kept
    | with_reducible apply State.setFlt_kept
    | split
    | with_reducible refine Kept.snd (by assumption) ?_
    | with_reducible refine Kept.third (by assumption) ?_
    | with_reducible refine Kept.last (by assumption) ?_
    | with_reducible refine Kept.fst (by assumption) ?_

theorem State.reactInt_kept (k0 : State) (s : State) (o : Occ) (e : Nat) (hk : Kept k0 s) : Kept k0 (State.reactInt s o e) := by
  unfold State.reactInt
  try dsimp only
  repeat' first
    | with_reducible assumption
    | intro _
    | with_reducible apply State.cause_kept
    | split

theorem State.reactChip_kept (k0 : State) (s : State) (o : Occ) (hk : Kept k0 s) : Kept k0 (State.reactChip s o) := by
  unfold State.reactChip
  try dsimp only
  repeat' first
    | with_reducible assumption
    | intro _
    | with_reducible apply State.chipReset_kept
    | with_reducible apply State.failRecord_kept
    | split

theorem State.react_kept (k0 : State) (s : State) (l : List (Occ × Nat × Nat)) (hk : Kept k0 s) : Kept k0 (State.react s l) := by
  unfold State.react
  try dsimp only
  repeat' first
    | with_reducible assumption
    | intro _
    | simp only [Kept.update]
    | with_reducible apply State.mgtRevert_kept
    | with_reducible apply State.reactBlock_kept
    | with_reducible apply State.trap_kept
    | with_reducible apply State.reactInt_kept
    | with_reducible apply State.reactChip_kept
    | with_reducible apply Kept.forEach
    | split
    | with_reducible refine Kept.snd (by assumption) ?_
    | with_reducible refine Kept.third (by assumption) ?_
    | with_reducible refine Kept.last (by assumption) ?_
    | with_reducible refine Kept.fst (by assumption) ?_

theorem State.reactPowered_kept (k0 : State) (s : State) (l : List (Occ × Nat × Nat)) (hk : Kept k0 s) : Kept k0 (State.reactPowered s l) := by
  unfold State.reactPowered
  try dsimp only
  repeat' first
    | with_reducible assumption
    | intro _
    | simp only [Kept.update]
    | with_reducible apply State.react_kept
    | split

theorem takeBatch_kept (k0 : State) (quiet : Nat → Nat) (held : Bool) (l : List Occ) (s : State) (hk : Kept k0 s) :
    Kept k0 (takeBatch quiet held l s).2 := by
  induction l generalizing s with
  | nil => exact hk
  | cons o r ih => exact ih _ (State.takeOcc_kept k0 s _ _ _ hk)

theorem State.enterHold_kept (k0 : State) (s : State) (k : Nat) (hk : Kept k0 s) : Kept k0 (State.enterHold s k) := by
  unfold State.enterHold
  try dsimp only
  repeat' first
    | with_reducible assumption
    | intro _
    | simp only [Kept.update]
    | with_reducible apply State.wr_kept
    | with_reducible apply State.cause_kept
    | with_reducible apply State.setFlt_kept
    | with_reducible apply Kept.forEach
    | split

theorem State.decideBatch_kept (k0 : State) (s : State) (self : Option Nat) (hk : Kept k0 s) : Kept k0 (State.decideBatch s self) := by
  unfold State.decideBatch
  try dsimp only
  repeat' first
    | with_reducible assumption
    | intro _
    | simp only [Kept.update]
    | with_reducible apply State.reactPowered_kept
    | with_reducible apply takeBatch_kept
    | with_reducible apply State.enterHold_kept
    | with_reducible apply Kept.foldl
    | with_reducible apply Kept.foldl_fst
    | with_reducible apply Kept.foldl_snd
    | split
    | with_reducible refine Kept.snd (by assumption) ?_
    | with_reducible refine Kept.third (by assumption) ?_
    | with_reducible refine Kept.last (by assumption) ?_
    | with_reducible refine Kept.fst (by assumption) ?_

theorem State.hwOccur_kept (k0 : State) (s : State) (h : HwOcc) (hk : Kept k0 s) : Kept k0 (State.hwOccur s h) := by
  unfold State.hwOccur
  try dsimp only
  repeat' first
    | with_reducible assumption
    | intro _
    | with_reducible apply State.occur_kept
    | with_reducible apply State.folEcc_kept
    | with_reducible apply State.setActive_kept
    | split

theorem execFaultOccurrence_kept (k0 : State) (hw : List HwOcc) (self : Option (Fin 4)) (s : State) (hk : Kept k0 s) : ∀ z, execFaultOccurrence hw self s = .next z → Kept k0 z := by
  intro z e
  unfold execFaultOccurrence at e
  injection e with e
  rw [← e]
  try dsimp only
  repeat' first
    | with_reducible assumption
    | intro _
    | with_reducible apply State.decideBatch_kept
    | with_reducible apply State.hwOccur_kept
    | with_reducible apply Kept.forEach

theorem execConditionEnd_kept (k0 : State) (src : Fin 640) (s : State) (hk : Kept k0 s) : ∀ z, execConditionEnd src s = .next z → Kept k0 z := by
  intro z e
  unfold execConditionEnd at e
  injection e with e
  rw [← e]
  try dsimp only
  repeat' first
    | with_reducible assumption
    | intro _
    | with_reducible apply State.setActive_kept
    | split

theorem execPcieLinkChange_kept (k0 : State) (up : Bool) (s : State) (hk : Kept k0 s) : ∀ z, execPcieLinkChange up s = .next z → Kept k0 z := by
  intro z e
  unfold execPcieLinkChange at e
  injection e with e
  rw [← e]
  try dsimp only
  repeat' first
    | with_reducible assumption
    | intro _
    | simp only [Kept.update]
    | with_reducible apply State.occur_kept
    | split

theorem execBlockRestored_kept (k0 : State) (pg : PageNo) (inst : BitVec 16) (s : State) (hk : Kept k0 s) : ∀ z, execBlockRestored pg inst s = .next z → Kept k0 z := by
  intro z e
  unfold execBlockRestored at e
  injection e with e
  rw [← e]
  try dsimp only
  repeat' first
    | with_reducible assumption
    | intro _
    | simp only [Kept.update]
    | with_reducible apply State.wrF_kept
    | with_reducible apply State.audRestore_kept
    | with_reducible apply State.folInit_kept
    | with_reducible apply State.setFlt_kept
    | split

theorem State.ackSource_kept (k0 : State) (s : State) (p src : Nat) (hk : Kept k0 s) : Kept k0 (State.ackSource s p src) := by
  unfold State.ackSource
  try dsimp only
  repeat' first
    | with_reducible assumption
    | intro _
    | with_reducible apply State.setEnt_kept
    | split

theorem writeAck_kept (k0 : State) (t : Tag) (d : Word) (s : State) (hk : Kept k0 s) : Kept k0 (writeAck t d s) := by
  unfold writeAck
  try dsimp only
  repeat' first
    | with_reducible assumption
    | intro _
    | with_reducible apply State.ackSource_kept
    | with_reducible apply Kept.forEach
    | split

theorem execFaultAck_kept (k0 : State) (t : Tag) (d : Word) (s : State) (hk : Kept k0 s) : ∀ z, execFaultAck t d s = .next z → Kept k0 z := by
  intro z e
  unfold execFaultAck at e
  injection e with e
  rw [← e]
  try dsimp only
  repeat' first
    | with_reducible assumption
    | intro _
    | with_reducible apply hostWrite_kept
    | with_reducible apply writeAck_kept

theorem State.fltResult_kept (k0 : State) (s : State) (op code : Nat) (hk : Kept k0 s) : Kept k0 (State.fltResult s op code) := by
  unfold State.fltResult
  try dsimp only
  repeat' first
    | with_reducible assumption
    | intro _
    | with_reducible apply State.wr_kept

theorem writeFltCmd_kept (k0 : State) (d : Word) (s : State) (hk : Kept k0 s) : Kept k0 (writeFltCmd d s) := by
  unfold writeFltCmd
  try dsimp only
  repeat' first
    | with_reducible assumption
    | intro _
    | simp only [Kept.update]
    | with_reducible apply State.wrF_kept
    | with_reducible apply State.setFlt_kept
    | with_reducible apply State.fltResult_kept
    | split

theorem execSelftest_kept (k0 : State) (t : Tag) (s : State) (hk : Kept k0 s) : ∀ z, execSelftest t s = .next z → Kept k0 z := by
  intro z e
  unfold execSelftest at e
  injection e with e
  rw [← e]
  try dsimp only
  repeat' first
    | with_reducible assumption
    | intro _
    | with_reducible apply hostWrite_kept
    | with_reducible apply writeFltCmd_kept

theorem execRelease_kept (k0 : State) (t : Tag) (s : State) (hk : Kept k0 s) : ∀ z, execRelease t s = .next z → Kept k0 z := by
  intro z e
  unfold execRelease at e
  injection e with e
  rw [← e]
  try dsimp only
  repeat' first
    | with_reducible assumption
    | intro _
    | with_reducible apply hostWrite_kept
    | with_reducible apply writeFltCmd_kept

theorem State.refill_kept (k0 : State) (s : State) (e : FltEntry) (hk : Kept k0 s) : Kept k0 (State.refill s e) := by
  unfold State.refill
  try dsimp only
  repeat' first
    | with_reducible assumption
    | intro _
    | simp only [Kept.update]
    | with_reducible apply State.setEnt_kept
    | with_reducible apply State.setEntWords_kept
    | split
    | with_reducible refine Kept.snd (by assumption) ?_
    | with_reducible refine Kept.third (by assumption) ?_
    | with_reducible refine Kept.last (by assumption) ?_
    | with_reducible refine Kept.fst (by assumption) ?_

theorem execSelftestDone_kept (k0 : State) (bad : List FltEntry) (agree : Bool) (s : State) (hk : Kept k0 s) : ∀ z, execSelftestDone bad agree s = .next z → Kept k0 z := by
  intro z e
  unfold execSelftestDone at e
  injection e with e
  rw [← e]
  try dsimp only
  repeat' first
    | with_reducible assumption
    | intro _
    | with_reducible apply State.wrF_kept
    | with_reducible apply State.fltResult_kept
    | with_reducible apply State.refill_kept
    | with_reducible apply Kept.forEach
    | split

theorem State.fltBeat_kept (k0 : State) (s : State) (hk : Kept k0 s) : Kept k0 (State.fltBeat s) := by
  unfold State.fltBeat
  try dsimp only
  repeat' first
    | with_reducible assumption
    | intro _
    | simp only [Kept.update]
    | with_reducible apply State.wrF_kept
    | with_reducible apply State.setFlt_kept
    | split

theorem State.farrierSync_kept (k0 : State) (s : State) (hk : Kept k0 s) : Kept k0 (State.farrierSync s) := by
  unfold State.farrierSync
  try dsimp only
  repeat' first
    | with_reducible assumption
    | intro _
    | with_reducible apply State.wrF_kept
    | with_reducible apply Kept.forEach
    | split

theorem State.farrierBeat_kept (k0 : State) (s : State) (hk : Kept k0 s) : Kept k0 (State.farrierBeat s) := by
  unfold State.farrierBeat
  try dsimp only
  repeat' first
    | with_reducible assumption
    | intro _
    | with_reducible apply State.farrierSync_kept
    | split

theorem writeFarrierCfg_kept (k0 : State) (d : Word) (s : State) (hk : Kept k0 s) : Kept k0 (writeFarrierCfg d s) := by
  unfold writeFarrierCfg
  try dsimp only
  repeat' first
    | with_reducible assumption
    | intro _
    | with_reducible apply State.wr_kept
    | with_reducible apply State.raise_kept
    | with_reducible apply State.farrierSync_kept
    | split

theorem execFarrierMeasure_kept (k0 : State) (l : Fin 384) (bits errs : Word) (snr : BitVec 16) (vlow vmid vup hmin : BitVec 8) (locked : Bool) (s : State) (hk : Kept k0 s) : ∀ z, execFarrierMeasure l bits errs snr vlow vmid vup hmin locked s = .next z → Kept k0 z := by
  intro z e
  unfold execFarrierMeasure at e
  injection e with e
  rw [← e]
  try dsimp only
  repeat' first
    | with_reducible assumption
    | intro _
    | simp only [Kept.update]
    | with_reducible apply State.setFlt_kept
    | split
    | with_reducible refine Kept.snd (by assumption) ?_
    | with_reducible refine Kept.third (by assumption) ?_
    | with_reducible refine Kept.last (by assumption) ?_
    | with_reducible refine Kept.fst (by assumption) ?_

theorem State.healthLane_kept (k0 : State) (s : State) (l : Nat) (hk : Kept k0 s) : Kept k0 (State.healthLane s l) := by
  unfold State.healthLane
  try dsimp only
  repeat' first
    | with_reducible assumption
    | intro _
    | simp only [Kept.update]
    | with_reducible apply State.setEntWords_kept
    | with_reducible apply State.raiseAt_kept
    | split
    | with_reducible refine Kept.snd (by assumption) ?_
    | with_reducible refine Kept.third (by assumption) ?_
    | with_reducible refine Kept.last (by assumption) ?_
    | with_reducible refine Kept.fst (by assumption) ?_

theorem execHealthReport_kept (k0 : State) (s : State) (hk : Kept k0 s) : ∀ z, execHealthReport s = .next z → Kept k0 z := by
  intro z e
  unfold execHealthReport at e
  injection e with e
  rw [← e]
  try dsimp only
  repeat' first
    | with_reducible assumption
    | intro _
    | simp only [Kept.update]
    | with_reducible apply State.wr64_kept
    | with_reducible apply State.inc_kept
    | with_reducible apply State.setFlt_kept
    | with_reducible apply State.healthLane_kept
    | with_reducible apply Kept.forEach

theorem State.fltRefuse_kept (k0 : State) (s : State) (hk : Kept k0 s) : Kept k0 (State.fltRefuse s).2 := by
  unfold State.fltRefuse
  try dsimp only
  repeat' first
    | with_reducible assumption
    | intro _
    | with_reducible apply State.raise_kept

theorem fltTableWrite_kept (k0 : State) (t : Tag) (sel idx : Nat) (d : List Word) (s : State) (hk : Kept k0 s) : Kept k0 (fltTableWrite t sel idx d s).2 := by
  unfold fltTableWrite
  try dsimp only
  repeat' first
    | with_reducible assumption
    | intro _
    | simp only [Kept.update]
    | with_reducible apply State.setEnt_kept
    | with_reducible apply State.fltRefuse_kept
    | split
    | with_reducible refine Kept.snd (by assumption) ?_
    | with_reducible refine Kept.third (by assumption) ?_
    | with_reducible refine Kept.last (by assumption) ?_
    | with_reducible refine Kept.fst (by assumption) ?_

theorem State.fltSnap_kept (k0 : State) (s : State) (p : Nat) (hk : Kept k0 s) : Kept k0 (State.fltSnap s p) := by
  unfold State.fltSnap
  try dsimp only
  repeat' first
    | with_reducible assumption
    | intro _
    | with_reducible apply State.snap_kept

end Sys2Proof.Machine
end

