-- ==== Sys2Proof/Laws/Kept/Pwr.lean ====
section
/-!
SUPPORT. Laws/Kept/Pwr.lean: each operation of Machine/Pwr.lean keeps what Laws/Kept.lean names.
-/
set_option linter.unusedSimpArgs false
set_option linter.unusedVariables false
set_option linter.unusedTactic false
set_option linter.unreachableTactic false

namespace Sys2Proof.Machine

theorem State.setPwr_kept (k0 : State) (s : State) (p : PwrSt) (hk : Kept k0 s) : Kept k0 (State.setPwr s p) := by
  unfold State.setPwr
  try dsimp only
  repeat' first
    | with_reducible assumption
    | intro _
    | simp only [Kept.update]

theorem State.setPwrStatus_kept (k0 : State) (s : State) (lo n v : Nat) (hk : Kept k0 s) : Kept k0 (State.setPwrStatus s lo n v) := by
  unfold State.setPwrStatus
  try dsimp only
  repeat' first
    | with_reducible assumption
    | intro _
    | with_reducible apply State.wrF_kept

theorem State.countRefusal_kept (k0 : State) (s : State) (pg : Nat) (hk : Kept k0 s) : Kept k0 (State.countRefusal s pg) := by
  unfold State.countRefusal
  try dsimp only
  repeat' first
    | with_reducible assumption
    | intro _
    | with_reducible apply State.wr_kept
    | with_reducible apply State.incSat_kept
    | with_reducible apply State.raise_kept

theorem State.pwrEvaluate_kept (k0 : State) (s : State) (hk : Kept k0 s) : Kept k0 (State.pwrEvaluate s) := by
  unfold State.pwrEvaluate
  try dsimp only
  repeat' first
    | with_reducible assumption
    | intro _
    | simp only [Kept.update]
    | with_reducible apply State.setPwr_kept
    | with_reducible apply State.setPwrStatus_kept
    | with_reducible apply State.countRefusal_kept
    | split
    | with_reducible refine Kept.snd (by assumption) ?_
    | with_reducible refine Kept.third (by assumption) ?_
    | with_reducible refine Kept.last (by assumption) ?_
    | with_reducible refine Kept.fst (by assumption) ?_

theorem State.pwrTick_kept (k0 : State) (s : State) (hk : Kept k0 s) : Kept k0 (State.pwrTick s) := by
  unfold State.pwrTick
  try dsimp only
  repeat' first
    | with_reducible assumption
    | intro _
    | with_reducible apply State.pwrEvaluate_kept
    | split

theorem execPowerEvaluate_kept (k0 : State) (s : State) (hk : Kept k0 s) : ∀ z, execPowerEvaluate s = .next z → Kept k0 z := by
  intro z e
  unfold execPowerEvaluate at e
  injection e with e
  rw [← e]
  try dsimp only
  repeat' first
    | with_reducible assumption
    | intro _
    | with_reducible apply State.pwrTick_kept

theorem execLatencyBudgetWrite_kept (k0 : State) (t : Tag) (d : Word) (s : State) (hk : Kept k0 s) : ∀ z, execLatencyBudgetWrite t d s = .next z → Kept k0 z := by
  intro z e
  unfold execLatencyBudgetWrite at e
  injection e with e
  rw [← e]
  try dsimp only
  repeat' first
    | with_reducible assumption
    | intro _
    | with_reducible apply State.wr_kept
    | with_reducible apply hostWrite_kept
    | with_reducible apply State.pwrTick_kept

theorem writePwrCfg_kept (k0 : State) (d : Word) (s : State) (hk : Kept k0 s) : Kept k0 (writePwrCfg d s) := by
  unfold writePwrCfg
  try dsimp only
  repeat' first
    | with_reducible assumption
    | intro _
    | with_reducible apply State.wr_kept
    | with_reducible apply State.raise_kept
    | with_reducible apply State.pwrTick_kept
    | split

theorem execHoldExpire_kept (k0 : State) (s : State) (hk : Kept k0 s) : ∀ z, execHoldExpire s = .next z → Kept k0 z := by
  intro z e
  unfold execHoldExpire at e
  injection e with e
  rw [← e]
  try dsimp only
  repeat' first
    | with_reducible assumption
    | intro _
    | simp only [Kept.update]
    | with_reducible apply State.setPwr_kept
    | with_reducible apply State.pwrTick_kept
    | split

theorem State.sleepLanes_kept (k0 : State) (s : State) (hk : Kept k0 s) : Kept k0 (State.sleepLanes s) := by
  unfold State.sleepLanes
  try dsimp only
  repeat' first
    | with_reducible assumption
    | intro _
    | simp only [Kept.update]
    | with_reducible apply State.wrF_kept
    | with_reducible apply State.setLane_kept
    | with_reducible apply State.setLnState_kept
    | with_reducible apply State.ethDown_kept
    | with_reducible apply State.epvLinkDown_kept
    | with_reducible apply Kept.forEach
    | split

theorem State.startExit_kept (k0 : State) (s : State) (code : Nat) (hk : Kept k0 s) : Kept k0 (State.startExit s code) := by
  unfold State.startExit
  try dsimp only
  repeat' first
    | with_reducible assumption
    | intro _
    | simp only [Kept.update]
    | with_reducible apply State.setPwr_kept
    | with_reducible apply State.setPwrStatus_kept

theorem execStateEntryComplete_kept (k0 : State) (s : State) (hk : Kept k0 s) : ∀ z, execStateEntryComplete s = .next z → Kept k0 z := by
  intro z e
  unfold execStateEntryComplete at e
  injection e with e
  rw [← e]
  try dsimp only
  repeat' first
    | with_reducible assumption
    | intro _
    | simp only [Kept.update]
    | with_reducible apply State.gSleep_kept
    | with_reducible apply State.setPwr_kept
    | with_reducible apply State.setPwrStatus_kept
    | with_reducible apply State.sleepLanes_kept
    | with_reducible apply State.startExit_kept
    | split
    | with_reducible refine Kept.snd (by assumption) ?_
    | with_reducible refine Kept.third (by assumption) ?_
    | with_reducible refine Kept.last (by assumption) ?_
    | with_reducible refine Kept.fst (by assumption) ?_

theorem execWake_kept (k0 : State) (code : Fin 8) (b : Fin 48) (lastCycles : Bool) (s : State) (hk : Kept k0 s) : ∀ z, execWake code b lastCycles s = .next z → Kept k0 z := by
  intro z e
  unfold execWake at e
  injection e with e
  rw [← e]
  try dsimp only
  repeat' first
    | with_reducible assumption
    | intro _
    | simp only [Kept.update]
    | with_reducible apply State.setPwr_kept
    | with_reducible apply State.setPwrStatus_kept
    | with_reducible apply State.countRefusal_kept
    | with_reducible apply State.startExit_kept
    | split

theorem State.showGated_kept (k0 : State) (s : State) (reg n : Nat) (v : Bool) (hk : Kept k0 s) : Kept k0 (State.showGated s reg n v) := by
  unfold State.showGated
  try dsimp only
  repeat' first
    | with_reducible assumption
    | intro _
    | with_reducible apply State.wrF_kept
    | with_reducible apply Kept.forEach
    | split

theorem State.deepExit_kept (k0 : State) (s : State) (hk : Kept k0 s) : Kept k0 (State.deepExit s) := by
  unfold State.deepExit
  try dsimp only
  repeat' first
    | with_reducible assumption
    | intro _
    | simp only [Kept.update]
    | with_reducible apply State.wrF_kept
    | with_reducible apply State.deriveRoots_kept
    | with_reducible apply State.enterStage_kept
    | with_reducible apply State.restoreKeep_kept
    | with_reducible apply State.setHbm_kept
    | with_reducible apply State.folInit_kept
    | with_reducible apply State.setDpll_kept
    | with_reducible apply State.cleared_kept
    | with_reducible apply State.setPwrStatus_kept
    | with_reducible apply State.showGated_kept
    | with_reducible apply Kept.forEach
    | split
  all_goals
    have hc := State.cleared_kept s s (Kept.refl s)
    exact hk.trans ⟨hc.pending, fun x => Tab.wf_keep _ _ _ x, fun x => Tab.wf_keep _ _ _ x, hc.mem, hc.lc, hc.sealBits, hc.gen,
      hc.epoch⟩

theorem State.takeWaiting_kept (k0 : State) (s : State) (hk : Kept k0 s) : Kept k0 (State.takeWaiting s) := by
  unfold State.takeWaiting
  try dsimp only
  repeat' first
    | with_reducible assumption
    | intro _
    | simp only [Kept.update]
    | with_reducible apply State.perst_kept
    | with_reducible apply State.react_kept
    | with_reducible apply State.setPwr_kept
    | split

theorem execWakeExitDone_kept (k0 : State) (inTime : Bool) (s : State) (hk : Kept k0 s) : ∀ z, execWakeExitDone inTime s = .next z → Kept k0 z := by
  intro z e
  unfold execWakeExitDone at e
  injection e with e
  rw [← e]
  try dsimp only
  repeat' first
    | with_reducible assumption
    | intro _
    | simp only [Kept.update]
    | with_reducible apply State.chipRestart_kept
    | with_reducible apply State.setPwr_kept
    | with_reducible apply State.setPwrStatus_kept
    | with_reducible apply State.deepExit_kept
    | with_reducible apply State.takeWaiting_kept
    | split

theorem writeClap_kept (k0 : State) (d : Word) (s : State) (hk : Kept k0 s) : Kept k0 (writeClap d s) := by
  unfold writeClap
  try dsimp only
  repeat' first
    | with_reducible assumption
    | intro _
    | simp only [Kept.update]
    | with_reducible apply State.wr_kept
    | with_reducible apply State.emit_kept
    | with_reducible apply State.raise_kept
    | with_reducible apply State.setPwr_kept
    | with_reducible apply Kept.foldl
    | with_reducible apply Kept.foldl_fst
    | with_reducible apply Kept.foldl_snd
    | split

theorem execClapGo_kept (k0 : State) (t : Tag) (d : Word) (s : State) (hk : Kept k0 s) : ∀ z, execClapGo t d s = .next z → Kept k0 z := by
  intro z e
  unfold execClapGo at e
  injection e with e
  rw [← e]
  try dsimp only
  repeat' first
    | with_reducible assumption
    | intro _
    | with_reducible apply hostWrite_kept
    | with_reducible apply writeClap_kept

theorem execClapEnd_kept (k0 : State) (s : State) (hk : Kept k0 s) : ∀ z, execClapEnd s = .next z → Kept k0 z := by
  intro z e
  unfold execClapEnd at e
  injection e with e
  rw [← e]
  try dsimp only
  repeat' first
    | with_reducible assumption
    | intro _
    | simp only [Kept.update]
    | with_reducible apply State.setPwr_kept

theorem State.gateBlock_kept (k0 : State) (s : State) (reg n : Nat) (v : Bool) (hk : Kept k0 s) : Kept k0 (State.gateBlock s reg n v) := by
  unfold State.gateBlock
  try dsimp only
  repeat' first
    | with_reducible assumption
    | intro _
    | with_reducible apply State.wrF_kept
    | with_reducible apply State.wr64_kept
    | with_reducible apply State.folGate_kept
    | with_reducible apply State.countRefusal_kept
    | with_reducible apply State.showGated_kept
    | split

theorem writeGate_kept (k0 : State) (reg v : Nat) (s : State) (hk : Kept k0 s) : Kept k0 (writeGate reg v s) := by
  unfold writeGate
  try dsimp only
  repeat' first
    | with_reducible assumption
    | intro _
    | with_reducible apply State.gateBlock_kept
    | with_reducible apply Kept.forEach

theorem execGateWrite_kept (k0 : State) (t : Tag) (reg : Fin 3) (d : BitVec 64) (s : State) (hk : Kept k0 s) : ∀ z, execGateWrite t reg d s = .next z → Kept k0 z := by
  intro z e
  unfold execGateWrite at e
  injection e with e
  rw [← e]
  try dsimp only
  repeat' first
    | with_reducible assumption
    | intro _
    | with_reducible apply busWrite_kept
    | with_reducible apply writeGate_kept

theorem execThrottleStep_kept (k0 : State) (i : Island) (temp : BitVec 8) (s : State) (hk : Kept k0 s) : ∀ z, execThrottleStep i temp s = .next z → Kept k0 z := by
  intro z e
  unfold execThrottleStep at e
  injection e with e
  rw [← e]
  try dsimp only
  repeat' first
    | with_reducible assumption
    | intro _
    | simp only [Kept.update]
    | with_reducible apply State.raise_kept
    | with_reducible apply State.setPwr_kept
    | with_reducible apply State.setPwrStatus_kept
    | split

theorem execThermalTrip_kept (k0 : State) (sensor : Fin 64) (s : State) (hk : Kept k0 s) : ∀ z, execThermalTrip sensor s = .next z → Kept k0 z := by
  intro z e
  unfold execThermalTrip at e
  injection e with e
  rw [← e]
  try dsimp only
  repeat' first
    | with_reducible assumption
    | intro _
    | simp only [Kept.update]
    | with_reducible apply State.chipReset_kept
    | with_reducible apply State.setMgt_kept

theorem execIslandDegraded_kept (k0 : State) (i : Island) (dv dt : BitVec 8) (nb : BitVec 8) (s : State) (hk : Kept k0 s) : ∀ z, execIslandDegraded i dv dt nb s = .next z → Kept k0 z := by
  intro z e
  unfold execIslandDegraded at e
  injection e with e
  rw [← e]
  try dsimp only
  repeat' first
    | with_reducible assumption
    | intro _
    | simp only [Kept.update]
    | with_reducible apply State.occur_kept
    | with_reducible apply State.fabDegraded_kept
    | with_reducible apply State.folDegraded_kept
    | with_reducible apply State.setActive_kept
    | with_reducible apply State.setPwr_kept
    | split
    | with_reducible refine Kept.snd (by assumption) ?_
    | with_reducible refine Kept.third (by assumption) ?_
    | with_reducible refine Kept.last (by assumption) ?_
    | with_reducible refine Kept.fst (by assumption) ?_

theorem execDegradedClear_kept (k0 : State) (i : Island) (s : State) (hk : Kept k0 s) : ∀ z, execDegradedClear i s = .next z → Kept k0 z := by
  intro z e
  unfold execDegradedClear at e
  injection e with e
  rw [← e]
  try dsimp only
  repeat' first
    | with_reducible assumption
    | intro _
    | simp only [Kept.update]
    | with_reducible apply State.fabDegradedClear_kept
    | with_reducible apply State.setActive_kept
    | with_reducible apply State.setPwr_kept
    | split
    | with_reducible refine Kept.snd (by assumption) ?_
    | with_reducible refine Kept.third (by assumption) ?_
    | with_reducible refine Kept.last (by assumption) ?_
    | with_reducible refine Kept.fst (by assumption) ?_

theorem writeWarn_kept (k0 : State) (d : Word) (s : State) (hk : Kept k0 s) : Kept k0 (writeWarn d s) := by
  unfold writeWarn
  try dsimp only
  repeat' first
    | with_reducible assumption
    | intro _
    | with_reducible apply State.wr_kept
    | with_reducible apply State.faultAt_kept
    | split

theorem State.freshWord_kept (k0 : State) (s : State) (hk : Kept k0 s) : Kept k0 (State.freshWord s).2 := by
  unfold State.freshWord
  try dsimp only
  repeat' first
    | with_reducible assumption
    | intro _
    | with_reducible apply State.fresh_kept
    | split
    | with_reducible refine Kept.snd (by assumption) ?_
    | with_reducible refine Kept.third (by assumption) ?_
    | with_reducible refine Kept.last (by assumption) ?_
    | with_reducible refine Kept.fst (by assumption) ?_

theorem sensTableRead_kept (k0 : State) (sel idx : Nat) (s : State) (hk : Kept k0 s) : Kept k0 (sensTableRead sel idx s).2 := by
  unfold sensTableRead
  try dsimp only
  repeat' first
    | with_reducible assumption
    | intro _
    | with_reducible apply State.freshWord_kept
    | split
    | with_reducible refine Kept.snd (by assumption) ?_
    | with_reducible refine Kept.third (by assumption) ?_
    | with_reducible refine Kept.last (by assumption) ?_
    | with_reducible refine Kept.fst (by assumption) ?_

theorem sensTableWrite_kept (k0 : State) (sel idx : Nat) (s : State) (hk : Kept k0 s) : Kept k0 (sensTableWrite sel idx s).2 := by
  unfold sensTableWrite
  try dsimp only
  repeat' first
    | with_reducible assumption
    | intro _
    | with_reducible apply State.faultAt_kept
    | split

theorem State.pwrSnap_kept (k0 : State) (s : State) (hk : Kept k0 s) : Kept k0 (State.pwrSnap s) := by
  unfold State.pwrSnap
  try dsimp only
  repeat' first
    | with_reducible assumption
    | intro _
    | with_reducible apply State.snap_kept

end Sys2Proof.Machine
end

