-- ==== Sys2Proof/Laws/Kept/TableWin.lean ====
section
/-!
SUPPORT. Laws/Kept/TableWin.lean: each operation of Machine/TableWin.lean keeps what Laws/Kept.lean names.
-/
set_option linter.unusedSimpArgs false
set_option linter.unusedVariables false
set_option linter.unusedTactic false
set_option linter.unreachableTactic false

namespace Sys2Proof.Machine

theorem xptTableWrite_kept (k0 : State) (t : Tag) (sel idx : Nat) (d : List Word) (s : State) (hk : Kept k0 s) : Kept k0 (xptTableWrite t sel idx d s).2 := by
  unfold xptTableWrite
  try dsimp only
  repeat' first
    | with_reducible assumption
    | intro _
    | simp only [Kept.update]
    | with_reducible apply State.descStatus_kept
    | with_reducible apply writeDesc_kept
    | with_reducible apply State.newDesc_kept
    | split
    | with_reducible refine Kept.snd (by assumption) ?_
    | with_reducible refine Kept.third (by assumption) ?_
    | with_reducible refine Kept.last (by assumption) ?_
    | with_reducible refine Kept.fst (by assumption) ?_

theorem tableReadAt_kept (k0 : State) (t : Tag) (pg sel idx : Nat) (s : State) (hk : Kept k0 s) : Kept k0 (tableReadAt t pg sel idx s).2 := by
  unfold tableReadAt
  try dsimp only
  repeat' first
    | with_reducible assumption
    | intro _
    | simp only [Kept.update]
    | with_reducible apply refselTableRead_kept
    | with_reducible apply sensTableRead_kept
    | split
    | with_reducible refine Kept.snd (by assumption) ?_
    | with_reducible refine Kept.third (by assumption) ?_
    | with_reducible refine Kept.last (by assumption) ?_
    | with_reducible refine Kept.fst (by assumption) ?_

theorem tableWriteAt_kept (k0 : State) (t : Tag) (pg sel idx : Nat) (d : List Word) (s : State) (hk : Kept k0 s) : Kept k0 (tableWriteAt t pg sel idx d s).2 := by
  unfold tableWriteAt
  try dsimp only
  repeat' first
    | with_reducible assumption
    | intro _
    | simp only [Kept.update]
    | with_reducible apply hostTableWrite_kept
    | with_reducible apply keyTableWrite_kept
    | with_reducible apply portTableWrite_kept
    | with_reducible apply takeTableWrite_kept
    | with_reducible apply reelTableWrite_kept
    | with_reducible apply ingTableWrite_kept
    | with_reducible apply audTableWrite_kept
    | with_reducible apply egrTableWrite_kept
    | with_reducible apply monTableWrite_kept
    | with_reducible apply partTableWrite_kept
    | with_reducible apply folTableWrite_kept
    | with_reducible apply refselTableWrite_kept
    | with_reducible apply gbusTableWrite_kept
    | with_reducible apply timeTableWrite_kept
    | with_reducible apply mgtTableWrite_kept
    | with_reducible apply fltTableWrite_kept
    | with_reducible apply sensTableWrite_kept
    | with_reducible apply xptTableWrite_kept
    | split
    | with_reducible refine Kept.snd (by assumption) ?_
    | with_reducible refine Kept.third (by assumption) ?_
    | with_reducible refine Kept.last (by assumption) ?_
    | with_reducible refine Kept.fst (by assumption) ?_

theorem State.tableOp_kept (k0 : State) (s : State) (t : Tag) (pg : Nat) (hk : Kept k0 s) : Kept k0 (State.tableOp s t pg).2 := by
  unfold State.tableOp
  try dsimp only
  repeat' first
    | with_reducible assumption
    | intro _
    | with_reducible apply State.wrWords_kept
    | with_reducible apply tableReadAt_kept
    | with_reducible apply tableWriteAt_kept
    | split
    | with_reducible refine Kept.snd (by assumption) ?_
    | with_reducible refine Kept.third (by assumption) ?_
    | with_reducible refine Kept.last (by assumption) ?_
    | with_reducible refine Kept.fst (by assumption) ?_

theorem writeTblCtrl_kept (k0 : State) (t : Tag) (pg : Nat) (d : Word) (s : State) (hk : Kept k0 s) : Kept k0 (writeTblCtrl t pg d s) := by
  unfold writeTblCtrl
  try dsimp only
  repeat' first
    | with_reducible assumption
    | intro _
    | simp only [Kept.update]
    | with_reducible apply State.wr_kept
    | with_reducible apply State.wrF_kept
    | with_reducible apply State.inc_kept
    | with_reducible apply State.tableOp_kept
    | split
    | with_reducible refine Kept.snd (by assumption) ?_
    | with_reducible refine Kept.third (by assumption) ?_
    | with_reducible refine Kept.last (by assumption) ?_
    | with_reducible refine Kept.fst (by assumption) ?_

theorem execTableRead_kept (k0 : State) (t : Tag) (pg : PageNo) (ainc : Bool) (s : State) (hk : Kept k0 s) : ∀ z, execTableRead t pg ainc s = .next z → Kept k0 z := by
  intro z e
  unfold execTableRead at e
  injection e with e
  rw [← e]
  try dsimp only
  repeat' first
    | with_reducible assumption
    | intro _
    | with_reducible apply hostWrite_kept
    | with_reducible apply writeTblCtrl_kept
    | split

theorem execTableWrite_kept (k0 : State) (t : Tag) (pg : PageNo) (ainc : Bool) (s : State) (hk : Kept k0 s) : ∀ z, execTableWrite t pg ainc s = .next z → Kept k0 z := by
  intro z e
  unfold execTableWrite at e
  injection e with e
  rw [← e]
  try dsimp only
  repeat' first
    | with_reducible assumption
    | intro _
    | with_reducible apply hostWrite_kept
    | with_reducible apply writeTblCtrl_kept
    | split

theorem execTableOpDone_kept (k0 : State) (pg : PageNo) (bank : Fin 16) (s : State) (hk : Kept k0 s) : ∀ z, execTableOpDone pg bank s = .next z → Kept k0 z := by
  intro z e
  unfold execTableOpDone at e
  injection e with e
  rw [← e]
  try dsimp only
  repeat' first
    | with_reducible assumption
    | intro _
    | simp only [Kept.update]
    | with_reducible apply State.wr_kept
    | split
    | with_reducible refine Kept.snd (by assumption) ?_
    | with_reducible refine Kept.third (by assumption) ?_
    | with_reducible refine Kept.last (by assumption) ?_
    | with_reducible refine Kept.fst (by assumption) ?_

theorem State.snapPage_kept (k0 : State) (s : State) (t : Tag) (pg : Nat) (hk : Kept k0 s) : Kept k0 (State.snapPage s t pg) := by
  unfold State.snapPage
  try dsimp only
  repeat' first
    | with_reducible assumption
    | intro _
    | simp only [Kept.update]
    | with_reducible apply State.snap_kept
    | with_reducible apply State.xptSnap_kept
    | with_reducible apply laneSnap_kept
    | with_reducible apply portSnap_kept
    | with_reducible apply State.ingSnap_kept
    | with_reducible apply State.takeSnap_kept
    | with_reducible apply State.reelSnap_kept
    | with_reducible apply State.audSnap_kept
    | with_reducible apply State.egrSnap_kept
    | with_reducible apply State.monSnap_kept
    | with_reducible apply State.folSnap_kept
    | with_reducible apply State.refselSnap_kept
    | with_reducible apply State.gbusSnap_kept
    | with_reducible apply State.timeSnap_kept
    | with_reducible apply State.fltSnap_kept
    | with_reducible apply State.pwrSnap_kept
    | split
    | with_reducible refine Kept.snd (by assumption) ?_
    | with_reducible refine Kept.third (by assumption) ?_
    | with_reducible refine Kept.last (by assumption) ?_
    | with_reducible refine Kept.fst (by assumption) ?_

theorem writeSnap_kept (k0 : State) (t : Tag) (pg : Nat) (d : Word) (s : State) (hk : Kept k0 s) : Kept k0 (writeSnap t pg d s) := by
  unfold writeSnap
  try dsimp only
  repeat' first
    | with_reducible assumption
    | intro _
    | with_reducible apply State.snapPage_kept
    | split

theorem execSnapshot_kept (k0 : State) (t : Tag) (pg : PageNo) (s : State) (hk : Kept k0 s) : ∀ z, execSnapshot t pg s = .next z → Kept k0 z := by
  intro z e
  unfold execSnapshot at e
  injection e with e
  rw [← e]
  try dsimp only
  repeat' first
    | with_reducible assumption
    | intro _
    | simp only [Kept.update]
    | with_reducible apply hostWrite_kept
    | with_reducible apply writeSnap_kept
    | split
    | with_reducible refine Kept.snd (by assumption) ?_
    | with_reducible refine Kept.third (by assumption) ?_
    | with_reducible refine Kept.last (by assumption) ?_
    | with_reducible refine Kept.fst (by assumption) ?_

end Sys2Proof.Machine
end

