-- ==== Sys2Proof/Laws/Kept/ResReq.lean ====
section
/-!
SUPPORT. Laws/Kept/ResReq.lean: each operation of Machine/ResReq.lean keeps what Laws/Kept.lean names.
-/
set_option linter.unusedSimpArgs false
set_option linter.unusedVariables false
set_option linter.unusedTactic false
set_option linter.unreachableTactic false

namespace Sys2Proof.Machine

theorem State.resTake_kept (k0 : State) (s : State) (t : Tag) (pg : Nat) (hk : Kept k0 s) : Kept k0 (State.resTake s t pg).2 := by
  unfold State.resTake
  try dsimp only
  repeat' first
    | with_reducible assumption
    | intro _
    | simp only [Kept.update]
    | with_reducible apply State.audQuery_kept
    | split
    | with_reducible refine Kept.snd (by assumption) ?_
    | with_reducible refine Kept.third (by assumption) ?_
    | with_reducible refine Kept.last (by assumption) ?_
    | with_reducible refine Kept.fst (by assumption) ?_

theorem writeResReq_kept (k0 : State) (t : Tag) (pg : Nat) (d : Word) (s : State) (hk : Kept k0 s) : Kept k0 (writeResReq t pg d s) := by
  unfold writeResReq
  try dsimp only
  repeat' first
    | with_reducible assumption
    | intro _
    | simp only [Kept.update]
    | with_reducible apply State.wrF_kept
    | with_reducible apply State.inc_kept
    | with_reducible apply State.resTake_kept
    | split
    | with_reducible refine Kept.snd (by assumption) ?_
    | with_reducible refine Kept.third (by assumption) ?_
    | with_reducible refine Kept.last (by assumption) ?_
    | with_reducible refine Kept.fst (by assumption) ?_

theorem State.resServe_kept (k0 : State) (s : State) (o : ResOp) (meas : BitVec 128) (hk : Kept k0 s) : Kept k0 (State.resServe s o meas).2.2 := by
  unfold State.resServe
  try dsimp only
  repeat' first
    | with_reducible assumption
    | intro _
    | simp only [Kept.update]
    | with_reducible apply keyFinish_kept
    | with_reducible apply State.settingsDone_kept
    | split
    | with_reducible refine Kept.snd (by assumption) ?_
    | with_reducible refine Kept.third (by assumption) ?_
    | with_reducible refine Kept.last (by assumption) ?_
    | with_reducible refine Kept.fst (by assumption) ?_

theorem State.freshWords_kept (k0 s : State) (n : Nat) (hk : Kept k0 s) : Kept k0 (s.freshWords n).2 := by
  induction n generalizing s with
  | zero => exact hk
  | succ n ih => exact ih _ (State.freshWord_kept k0 s hk)

theorem State.resPut_kept (k0 : State) (s : State) (o : ResOp) (e n : Nat) (ws : List Word) (hk : Kept k0 s) : Kept k0 (State.resPut s o e n ws) := by
  unfold State.resPut
  try dsimp only
  repeat' first
    | with_reducible assumption
    | intro _
    | with_reducible apply State.wr_kept
    | with_reducible apply State.wrWords_kept
    | with_reducible apply State.freshWords_kept
    | split
    | with_reducible refine Kept.snd (by assumption) ?_
    | with_reducible refine Kept.third (by assumption) ?_
    | with_reducible refine Kept.last (by assumption) ?_
    | with_reducible refine Kept.fst (by assumption) ?_

theorem execResultComplete_kept (k0 : State) (pg : PageNo) (bank : Fin 16) (meas : BitVec 128) (s : State) (hk : Kept k0 s) : ∀ z, execResultComplete pg bank meas s = .next z → Kept k0 z := by
  intro z e
  unfold execResultComplete at e
  injection e with e
  rw [← e]
  try dsimp only
  repeat' first
    | with_reducible assumption
    | intro _
    | simp only [Kept.update]
    | with_reducible apply State.cause_kept
    | with_reducible apply State.resServe_kept
    | with_reducible apply State.resPut_kept
    | split
    | with_reducible refine Kept.snd (by assumption) ?_
    | with_reducible refine Kept.third (by assumption) ?_
    | with_reducible refine Kept.last (by assumption) ?_
    | with_reducible refine Kept.fst (by assumption) ?_

theorem resRequest_kept (k0 : State) (t : Tag) (pg : Nat) (s : State) (hk : Kept k0 s) : Kept k0 (resRequest t pg s) := by
  unfold resRequest
  try dsimp only
  repeat' first
    | with_reducible assumption
    | intro _
    | with_reducible apply hostWrite_kept
    | with_reducible apply writeResReq_kept

theorem execEyeRequest_kept (k0 : State) (t : Tag) (b : Fin 48) (s : State) (hk : Kept k0 s) : ∀ z, execEyeRequest t b s = .next z → Kept k0 z := by
  intro z e
  unfold execEyeRequest at e
  injection e with e
  rw [← e]
  try dsimp only
  repeat' first
    | with_reducible assumption
    | intro _
    | with_reducible apply resRequest_kept

theorem execTimeCapture_kept (k0 : State) (t : Tag) (s : State) (hk : Kept k0 s) : ∀ z, execTimeCapture t s = .next z → Kept k0 z := by
  intro z e
  unfold execTimeCapture at e
  injection e with e
  rw [← e]
  try dsimp only
  repeat' first
    | with_reducible assumption
    | intro _
    | with_reducible apply resRequest_kept

end Sys2Proof.Machine
end

