-- ==== Sys2Proof/Laws/Kept/View.lean ====
section
/-!
SUPPORT. Laws/Kept/View.lean: each operation of Machine/View.lean keeps what Laws/Kept.lean names.
-/
set_option linter.unusedSimpArgs false
set_option linter.unusedVariables false
set_option linter.unusedTactic false
set_option linter.unreachableTactic false

namespace Sys2Proof.Machine

theorem State.viewed_kept (k0 s : State) (t : Tag) (pg off : Nat) (hk : Kept k0 s) (x : Word × State)
    (e : s.viewed t pg off = some x) : Kept k0 x.2 := by
  have hw : Kept k0 s.freshWord.2 := State.freshWord_kept _ _ hk
  unfold State.viewed at e
  dsimp only at e
  repeat' first
    | (injection e with e; rw [← e]; first | exact hk | exact hw)
    | contradiction
    | split at e

theorem State.readValue_kept (k0 : State) (s : State) (t : Tag) (a : Nat) (hk : Kept k0 s) : Kept k0 (State.readValue s t a).2 := by
  unfold State.readValue
  try dsimp only
  repeat' first
    | with_reducible assumption
    | intro _
    | simp only [Kept.update]
    | split
    | with_reducible refine Kept.snd (by assumption) ?_
    | with_reducible refine Kept.third (by assumption) ?_
    | with_reducible refine Kept.last (by assumption) ?_
    | with_reducible refine Kept.fst (by assumption) ?_
  exact State.viewed_kept _ _ _ _ _ hk _ ‹_›

end Sys2Proof.Machine
end

