-- ==== Sys2Proof/Laws/Kept/RegWrite.lean ====
section
/-!
SUPPORT. Laws/Kept/RegWrite.lean: each operation of Machine/RegWrite.lean keeps what Laws/Kept.lean names.
-/
set_option linter.unusedSimpArgs false
set_option linter.unusedVariables false
set_option linter.unusedTactic false
set_option linter.unreachableTactic false

namespace Sys2Proof.Machine

theorem writeHeader_kept (k0 : State) (t : Tag) (k : PageKind) (pg off : Nat) (d : Word) (s : State) (hk : Kept k0 s) : Kept k0 (writeHeader t k pg off d s) := by
  unfold writeHeader
  try dsimp only
  repeat' first
    | with_reducible assumption
    | intro _
    | with_reducible apply State.wr_kept
    | with_reducible apply State.wrF_kept
    | split

theorem plainWrite_kept (k0 : State) (r : Reg) (t : Tag) (a : Nat) (d : Word) (s : State) (hk : Kept k0 s) : Kept k0 (plainWrite r t a d s) := by
  unfold plainWrite
  try dsimp only
  repeat' first
    | with_reducible assumption
    | intro _
    | simp only [Kept.update]
    | with_reducible apply State.wr_kept
    | split
    | with_reducible refine Kept.snd (by assumption) ?_
    | with_reducible refine Kept.third (by assumption) ?_
    | with_reducible refine Kept.last (by assumption) ?_
    | with_reducible refine Kept.fst (by assumption) ?_

theorem writeWindow_kept (k0 : State) (t : Tag) (pg off : Nat) (d : Word) (s : State) (hk : Kept k0 s) : Kept k0 (writeWindow t pg off d s) := by
  unfold writeWindow
  try dsimp only
  repeat' first
    | with_reducible assumption
    | intro _
    | with_reducible apply State.wr_kept
    | with_reducible apply writeTblCtrl_kept
    | split

theorem writePlane_kept (k0 : State) (b : Nat) (d : Word) (s : State) (hk : Kept k0 s) : Kept k0 (writePlane b d s) := by
  unfold writePlane
  try dsimp only
  repeat' first
    | with_reducible assumption
    | intro _
    | with_reducible apply State.wr_kept
    | with_reducible apply State.setReason_kept
    | with_reducible apply State.clearReason_kept
    | split

theorem writeEpvCfg_kept (k0 : State) (b : Nat) (d : Word) (s : State) (hk : Kept k0 s) : Kept k0 (writeEpvCfg b d s) := by
  unfold writeEpvCfg
  try dsimp only
  repeat' first
    | with_reducible assumption
    | intro _
    | with_reducible apply State.wr_kept
    | with_reducible apply State.raiseOwned_kept
    | split

theorem writeHost_kept (k0 : State) (off : Nat) (d : Word) (s : State) (hk : Kept k0 s) : ∀ z, writeHost off d s = some z → Kept k0 z := by
  intro z e
  unfold writeHost at e
  try dsimp only at e
  try dsimp only
  repeat' first
    | (simp only [reduceCtorEq] at e)
    | (simp only [Option.some.injEq] at e; rw [← e])
    | with_reducible assumption
    | intro _
    | with_reducible apply writeQCfg_kept
    | with_reducible apply writeQTail_kept
    | with_reducible apply State.autoPause_kept
    | split
    | split at e

theorem writeLane_kept (k0 : State) (b off : Nat) (d : Word) (s : State) (hk : Kept k0 s) : ∀ z, writeLane b off d s = some z → Kept k0 z := by
  intro z e
  unfold writeLane at e
  try dsimp only at e
  try dsimp only
  repeat' first
    | (simp only [reduceCtorEq] at e)
    | (simp only [Option.some.injEq] at e; rw [← e])
    | with_reducible assumption
    | intro _
    | with_reducible apply writeBlkCtrl_kept
    | with_reducible apply writeBlkCfg_kept
    | with_reducible apply State.checkAgree_kept
    | with_reducible apply writeLnCfg_kept
    | with_reducible apply writePrbsGen_kept
    | with_reducible apply writePrbsChk_kept
    | with_reducible apply writeInj_kept
    | split
    | split at e

theorem writePort_kept (k0 : State) (b off : Nat) (d : Word) (s : State) (hk : Kept k0 s) : ∀ z, writePort b off d s = some z → Kept k0 z := by
  intro z e
  unfold writePort at e
  try dsimp only at e
  try dsimp only
  repeat' first
    | (simp only [reduceCtorEq] at e)
    | (simp only [Option.some.injEq] at e; rw [← e])
    | with_reducible assumption
    | intro _
    | simp only [Kept.update]
    | with_reducible apply writeEpvCtrl_kept
    | with_reducible apply writePortBlkCfg_kept
    | with_reducible apply writeEthCfg_kept
    | with_reducible apply writePlane_kept
    | with_reducible apply writeEpvCfg_kept
    | split
    | with_reducible refine Kept.snd (by assumption) ?_
    | with_reducible refine Kept.third (by assumption) ?_
    | with_reducible refine Kept.last (by assumption) ?_
    | with_reducible refine Kept.fst (by assumption) ?_
    | split at e

theorem writeIng_kept (k0 : State) (t : Tag) (sl off : Nat) (d : Word) (s : State) (hk : Kept k0 s) : ∀ z, writeIng t sl off d s = some z → Kept k0 z := by
  intro z e
  unfold writeIng at e
  try dsimp only at e
  try dsimp only
  repeat' first
    | (simp only [reduceCtorEq] at e)
    | (simp only [Option.some.injEq] at e; rw [← e])
    | with_reducible assumption
    | intro _
    | with_reducible apply writeCut_kept
    | with_reducible apply writeCutClr_kept
    | with_reducible apply writePadD_kept
    | with_reducible apply writeIngCfg_kept
    | split
    | split at e

theorem writeSpecial_kept (k0 : State) (t : Tag) (k : PageKind) (i off : Nat) (d : Word) (s : State) (hk : Kept k0 s) : ∀ z, writeSpecial t k i off d s = some z → Kept k0 z := by
  intro z e
  unfold writeSpecial at e
  try dsimp only at e
  try dsimp only
  repeat' first
    | (simp only [reduceCtorEq] at e)
    | (simp only [Option.some.injEq] at e; rw [← e])
    | with_reducible assumption
    | intro _
    | simp only [Kept.update]
    | with_reducible apply State.wr_kept
    | with_reducible apply writeMidOut_kept
    | with_reducible apply writeMidReturn_kept
    | with_reducible apply writeConfirm_kept
    | with_reducible apply writeTakeCmd_kept
    | with_reducible apply writeTakeCfg_kept
    | with_reducible apply writeReelCmd_kept
    | with_reducible apply writeAudCmd_kept
    | with_reducible apply writeFolCtrl_kept
    | with_reducible apply writeFolCfg_kept
    | with_reducible apply writeFolRegion_kept
    | with_reducible apply writeClkMap_kept
    | with_reducible apply writeForce_kept
    | with_reducible apply writePrio_kept
    | with_reducible apply State.autoPause_kept
    | with_reducible apply writeGbusCfg_kept
    | with_reducible apply writeWakeOwn_kept
    | with_reducible apply writeAdjCtrl_kept
    | with_reducible apply writeUpdCmd_kept
    | with_reducible apply writeMgtCtrl_kept
    | with_reducible apply writeAck_kept
    | with_reducible apply writeFltCmd_kept
    | with_reducible apply writeFarrierCfg_kept
    | with_reducible apply State.pwrTick_kept
    | with_reducible apply writePwrCfg_kept
    | with_reducible apply writeClap_kept
    | with_reducible apply writeWarn_kept
    | (with_reducible apply writeHost_kept <;> with_reducible assumption)
    | (with_reducible apply writeLane_kept <;> with_reducible assumption)
    | (with_reducible apply writePort_kept <;> with_reducible assumption)
    | (with_reducible apply writeIng_kept <;> with_reducible assumption)
    | split
    | with_reducible refine Kept.snd (by assumption) ?_
    | with_reducible refine Kept.third (by assumption) ?_
    | with_reducible refine Kept.last (by assumption) ?_
    | with_reducible refine Kept.fst (by assumption) ?_
    | split at e

theorem writeReg_kept (k0 : State) (t : Tag) (a : Nat) (d : Word) (s : State) (hk : Kept k0 s) : Kept k0 (writeReg t a d s) := by
  unfold writeReg
  try dsimp only
  repeat' first
    | with_reducible assumption
    | intro _
    | simp only [Kept.update]
    | with_reducible apply writeSnap_kept
    | with_reducible apply writeResReq_kept
    | with_reducible apply writeHeader_kept
    | with_reducible apply plainWrite_kept
    | with_reducible apply writeWindow_kept
    | (with_reducible apply writeSpecial_kept <;> with_reducible assumption)
    | split
    | with_reducible refine Kept.snd (by assumption) ?_
    | with_reducible refine Kept.third (by assumption) ?_
    | with_reducible refine Kept.last (by assumption) ?_
    | with_reducible refine Kept.fst (by assumption) ?_

theorem writePair_kept (k0 : State) (t : Tag) (a v : Nat) (s : State) (hk : Kept k0 s) : Kept k0 (writePair t a v s) := by
  unfold writePair
  try dsimp only
  repeat' first
    | with_reducible assumption
    | intro _
    | simp only [Kept.update]
    | with_reducible apply writeTxCoef_kept
    | with_reducible apply writeGate_kept
    | with_reducible apply writeReg_kept
    | split
    | with_reducible refine Kept.snd (by assumption) ?_
    | with_reducible refine Kept.third (by assumption) ?_
    | with_reducible refine Kept.last (by assumption) ?_
    | with_reducible refine Kept.fst (by assumption) ?_

theorem writeWord_kept (k0 : State) (t : Tag) (a : Nat) (held : Option Word) (d : Word) (s : State) (hk : Kept k0 s) : Kept k0 (writeWord t a held d s) := by
  unfold writeWord
  try dsimp only
  repeat' first
    | with_reducible assumption
    | intro _
    | simp only [Kept.update]
    | with_reducible apply State.laneCfg_kept
    | with_reducible apply writeReg_kept
    | with_reducible apply writePair_kept
    | split
    | with_reducible refine Kept.snd (by assumption) ?_
    | with_reducible refine Kept.third (by assumption) ?_
    | with_reducible refine Kept.last (by assumption) ?_
    | with_reducible refine Kept.fst (by assumption) ?_

theorem holdLower_kept (k0 : State) (x : Access) (s : State) (hk : Kept k0 s) : Kept k0 (holdLower x s) := by
  unfold holdLower
  try dsimp only
  repeat' first
    | with_reducible assumption
    | intro _
    | simp only [Kept.update]

theorem busWord_kept (k0 : State) (x : Access) (s : State) (hk : Kept k0 s) : Kept k0 (busWord x s) := by
  unfold busWord
  try dsimp only
  repeat' first
    | with_reducible assumption
    | intro _
    | simp only [Kept.update]
    | with_reducible apply State.logErr_kept
    | with_reducible apply State.dropHolds_kept
    | with_reducible apply State.respond_kept
    | with_reducible apply State.noteDebug_kept
    | with_reducible apply busWrite_kept
    | with_reducible apply writeWord_kept
    | with_reducible apply holdLower_kept
    | split
    | with_reducible refine Kept.snd (by assumption) ?_
    | with_reducible refine Kept.third (by assumption) ?_
    | with_reducible refine Kept.last (by assumption) ?_
    | with_reducible refine Kept.fst (by assumption) ?_

theorem busBurst_kept (k0 : State) (t : Tag) (a : Nat) (l : List Word) (s : State) (hk : Kept k0 s) :
    Kept k0 (busBurst t a l s) := by
  induction l generalizing s a with
  | nil => exact hk
  | cons v r ih => exact ih _ _ (busWord_kept k0 _ s hk)

theorem refuseBurst_kept (k0 : State) (t : Tag) (a : Nat) (wr : Bool) (s : State) (hk : Kept k0 s) : Kept k0 (refuseBurst t a wr s) := by
  unfold refuseBurst
  try dsimp only
  repeat' first
    | with_reducible assumption
    | intro _
    | with_reducible apply State.logErr_kept
    | with_reducible apply State.dropHolds_kept
    | with_reducible apply State.respond_kept
    | with_reducible apply State.noteDebug_kept

theorem regWrite_kept (k0 : State) (t : Tag) (a : Nat) (sh : Shape) (s : State) (hk : Kept k0 s) : Kept k0 (regWrite t a sh s) := by
  unfold regWrite
  try dsimp only
  repeat' first
    | with_reducible assumption
    | intro _
    | simp only [Kept.update]
    | with_reducible apply busWrite_kept
    | with_reducible apply hbmAccess_kept
    | with_reducible apply writePair_kept
    | with_reducible apply busWord_kept
    | with_reducible apply busBurst_kept
    | with_reducible apply refuseBurst_kept
    | split
    | with_reducible refine Kept.snd (by assumption) ?_
    | with_reducible refine Kept.third (by assumption) ?_
    | with_reducible refine Kept.last (by assumption) ?_
    | with_reducible refine Kept.fst (by assumption) ?_

theorem execRegisterWrite_kept (k0 : State) (t : Tag) (a : Addr) (sh : Shape) (s : State) (hk : Kept k0 s) : ∀ z, execRegisterWrite t a sh s = .next z → Kept k0 z := by
  intro z e
  unfold execRegisterWrite at e
  injection e with e
  rw [← e]
  try dsimp only
  repeat' first
    | with_reducible assumption
    | intro _
    | with_reducible apply regWrite_kept

theorem execPairLowerWrite_kept (k0 : State) (t : Tag) (a : Addr) (d : Word) (s : State) (hk : Kept k0 s) : ∀ z, execPairLowerWrite t a d s = .next z → Kept k0 z := by
  intro z e
  unfold execPairLowerWrite at e
  injection e with e
  rw [← e]
  try dsimp only
  repeat' first
    | with_reducible assumption
    | intro _
    | with_reducible apply regWrite_kept

theorem execPairUpperWrite_kept (k0 : State) (t : Tag) (a : Addr) (d : Word) (s : State) (hk : Kept k0 s) : ∀ z, execPairUpperWrite t a d s = .next z → Kept k0 z := by
  intro z e
  unfold execPairUpperWrite at e
  injection e with e
  rw [← e]
  try dsimp only
  repeat' first
    | with_reducible assumption
    | intro _
    | with_reducible apply regWrite_kept

theorem busValue_kept (k0 : State) (x : Access) (latch : Option Word) (s : State) (hk : Kept k0 s) : Kept k0 (busValue x latch s).2 := by
  unfold busValue
  try dsimp only
  repeat' first
    | with_reducible assumption
    | intro _
    | simp only [Kept.update]
    | with_reducible apply State.readValue_kept
    | split
    | with_reducible refine Kept.snd (by assumption) ?_
    | with_reducible refine Kept.third (by assumption) ?_
    | with_reducible refine Kept.last (by assumption) ?_
    | with_reducible refine Kept.fst (by assumption) ?_

theorem busReadOf_kept (k0 : State) (x : Access) (s : State) (hk : Kept k0 s) : Kept k0 (busReadOf x s).2 := by
  unfold busReadOf
  try dsimp only
  repeat' first
    | with_reducible assumption
    | intro _
    | simp only [Kept.update]
    | with_reducible apply State.logErr_kept
    | with_reducible apply State.dropHolds_kept
    | with_reducible apply State.noteDebug_kept
    | with_reducible apply busValue_kept
    | split
    | with_reducible refine Kept.snd (by assumption) ?_
    | with_reducible refine Kept.third (by assumption) ?_
    | with_reducible refine Kept.last (by assumption) ?_
    | with_reducible refine Kept.fst (by assumption) ?_

theorem busRead_kept (k0 : State) (t : Tag) (master a : Nat) (s : State) (hk : Kept k0 s) : Kept k0 (busRead t master a s).2 := by
  unfold busRead
  try dsimp only
  repeat' first
    | with_reducible assumption
    | intro _
    | with_reducible apply busReadOf_kept
    | split
    | with_reducible refine Kept.snd (by assumption) ?_
    | with_reducible refine Kept.third (by assumption) ?_
    | with_reducible refine Kept.last (by assumption) ?_
    | with_reducible refine Kept.fst (by assumption) ?_

theorem busReadBurst_kept (k0 : State) (t : Tag) (a n : Nat) (s : State) (hk : Kept k0 s) : Kept k0 (busReadBurst t a n s).2 := by
  induction n generalizing s a with
  | zero => exact hk
  | succ n ih => exact ih _ _ (busReadOf_kept _ _ _ hk)

theorem regRead_kept (k0 : State) (t : Tag) (a : Nat) (sh : ReadShape) (s : State) (hk : Kept k0 s) : Kept k0 (regRead t a sh s) := by
  unfold regRead
  try dsimp only
  repeat' first
    | with_reducible assumption
    | intro _
    | simp only [Kept.update]
    | with_reducible apply State.respond_kept
    | with_reducible apply hbmAccess_kept
    | with_reducible apply refuseBurst_kept
    | with_reducible apply busReadOf_kept
    | with_reducible apply busReadBurst_kept
    | split
    | with_reducible refine Kept.snd (by assumption) ?_
    | with_reducible refine Kept.third (by assumption) ?_
    | with_reducible refine Kept.last (by assumption) ?_
    | with_reducible refine Kept.fst (by assumption) ?_

theorem execPairLowerRead_kept (k0 : State) (t : Tag) (a : Addr) (sh : ReadShape) (s : State) (hk : Kept k0 s) : ∀ z, execPairLowerRead t a sh s = .next z → Kept k0 z := by
  intro z e
  unfold execPairLowerRead at e
  injection e with e
  rw [← e]
  try dsimp only
  repeat' first
    | with_reducible assumption
    | intro _
    | with_reducible apply regRead_kept

theorem execPageOwnerWrite_kept (k0 : State) (t : Tag) (pg : PageNo) (owner : Fin 16) (s : State) (hk : Kept k0 s) : ∀ z, execPageOwnerWrite t pg owner s = .next z → Kept k0 z := by
  intro z e
  unfold execPageOwnerWrite at e
  injection e with e
  rw [← e]
  try dsimp only
  repeat' first
    | with_reducible assumption
    | intro _
    | with_reducible apply hostWrite_kept
    | with_reducible apply writeReg_kept

theorem execPageLock_kept (k0 : State) (t : Tag) (pg : PageNo) (s : State) (hk : Kept k0 s) : ∀ z, execPageLock t pg s = .next z → Kept k0 z := by
  intro z e
  unfold execPageLock at e
  injection e with e
  rw [← e]
  try dsimp only
  repeat' first
    | with_reducible assumption
    | intro _
    | with_reducible apply hostWrite_kept
    | with_reducible apply writeReg_kept

theorem execPageUnlock_kept (k0 : State) (t : Tag) (pg : PageNo) (s : State) (hk : Kept k0 s) : ∀ z, execPageUnlock t pg s = .next z → Kept k0 z := by
  intro z e
  unfold execPageUnlock at e
  injection e with e
  rw [← e]
  try dsimp only
  repeat' first
    | with_reducible assumption
    | intro _
    | with_reducible apply hostWrite_kept
    | with_reducible apply writeReg_kept

theorem execResultRequest_kept (k0 : State) (t : Tag) (pg : PageNo) (s : State) (hk : Kept k0 s) : ∀ z, execResultRequest t pg s = .next z → Kept k0 z := by
  intro z e
  unfold execResultRequest at e
  injection e with e
  rw [← e]
  try dsimp only
  repeat' first
    | with_reducible assumption
    | intro _
    | with_reducible apply hostWrite_kept
    | with_reducible apply writeReg_kept

theorem reqWrite_kept (k0 : State) (t : Tag) (a : Nat) (d : Word) (s : State) (hk : Kept k0 s) : Kept k0 (reqWrite t a d s) := by
  unfold reqWrite
  try dsimp only
  repeat' first
    | with_reducible assumption
    | intro _
    | with_reducible apply hostWrite_kept
    | with_reducible apply writeReg_kept

theorem execTakeQueryRoute_kept (k0 : State) (t : Tag) (out : BitVec 13) (s : State) (hk : Kept k0 s) : ∀ z, execTakeQueryRoute t out s = .next z → Kept k0 z := by
  intro z e
  unfold execTakeQueryRoute at e
  injection e with e
  rw [← e]
  try dsimp only
  repeat' first
    | with_reducible assumption
    | intro _
    | with_reducible apply resRequest_kept
    | with_reducible apply reqWrite_kept

theorem execTakeQueryTag_kept (k0 : State) (t : Tag) (tag : Word) (s : State) (hk : Kept k0 s) : ∀ z, execTakeQueryTag t tag s = .next z → Kept k0 z := by
  intro z e
  unfold execTakeQueryTag at e
  injection e with e
  rw [← e]
  try dsimp only
  repeat' first
    | with_reducible assumption
    | intro _
    | with_reducible apply resRequest_kept
    | with_reducible apply reqWrite_kept

theorem execAudQueryRoute_kept (k0 : State) (t : Tag) (ch : BitVec 16) (s : State) (hk : Kept k0 s) : ∀ z, execAudQueryRoute t ch s = .next z → Kept k0 z := by
  intro z e
  unfold execAudQueryRoute at e
  injection e with e
  rw [← e]
  try dsimp only
  repeat' first
    | with_reducible assumption
    | intro _
    | with_reducible apply resRequest_kept
    | with_reducible apply reqWrite_kept

theorem execAudQueryPeak_kept (k0 : State) (t : Tag) (ch : BitVec 16) (s : State) (hk : Kept k0 s) : ∀ z, execAudQueryPeak t ch s = .next z → Kept k0 z := by
  intro z e
  unfold execAudQueryPeak at e
  injection e with e
  rw [← e]
  try dsimp only
  repeat' first
    | with_reducible assumption
    | intro _
    | with_reducible apply resRequest_kept
    | with_reducible apply reqWrite_kept

theorem execAudQueryTag_kept (k0 : State) (t : Tag) (tag : Word) (s : State) (hk : Kept k0 s) : ∀ z, execAudQueryTag t tag s = .next z → Kept k0 z := by
  intro z e
  unfold execAudQueryTag at e
  injection e with e
  rw [← e]
  try dsimp only
  repeat' first
    | with_reducible assumption
    | intro _
    | with_reducible apply resRequest_kept
    | with_reducible apply reqWrite_kept

theorem keyRow_kept (k0 : State) (t : Tag) (op : Nat) (s : State) (hk : Kept k0 s) : Kept k0 (keyRow t op s) := by
  unfold keyRow
  try dsimp only
  repeat' first
    | with_reducible assumption
    | intro _
    | with_reducible apply resRequest_kept
    | with_reducible apply reqWrite_kept

theorem execDerive_kept (k0 : State) (t : Tag) (s : State) (hk : Kept k0 s) : ∀ z, execDerive t s = .next z → Kept k0 z := by
  intro z e
  unfold execDerive at e
  injection e with e
  rw [← e]
  try dsimp only
  repeat' first
    | with_reducible assumption
    | intro _
    | with_reducible apply keyRow_kept

theorem execLoadKek_kept (k0 : State) (t : Tag) (s : State) (hk : Kept k0 s) : ∀ z, execLoadKek t s = .next z → Kept k0 z := by
  intro z e
  unfold execLoadKek at e
  injection e with e
  rw [← e]
  try dsimp only
  repeat' first
    | with_reducible assumption
    | intro _
    | with_reducible apply keyRow_kept

theorem execImportKey_kept (k0 : State) (t : Tag) (s : State) (hk : Kept k0 s) : ∀ z, execImportKey t s = .next z → Kept k0 z := by
  intro z e
  unfold execImportKey at e
  injection e with e
  rw [← e]
  try dsimp only
  repeat' first
    | with_reducible assumption
    | intro _
    | with_reducible apply keyRow_kept

theorem execSign_kept (k0 : State) (t : Tag) (s : State) (hk : Kept k0 s) : ∀ z, execSign t s = .next z → Kept k0 z := by
  intro z e
  unfold execSign at e
  injection e with e
  rw [← e]
  try dsimp only
  repeat' first
    | with_reducible assumption
    | intro _
    | with_reducible apply keyRow_kept

theorem execCheck_kept (k0 : State) (t : Tag) (s : State) (hk : Kept k0 s) : ∀ z, execCheck t s = .next z → Kept k0 z := by
  intro z e
  unfold execCheck at e
  injection e with e
  rw [← e]
  try dsimp only
  repeat' first
    | with_reducible assumption
    | intro _
    | with_reducible apply keyRow_kept

theorem execInvalidate_kept (k0 : State) (t : Tag) (s : State) (hk : Kept k0 s) : ∀ z, execInvalidate t s = .next z → Kept k0 z := by
  intro z e
  unfold execInvalidate at e
  injection e with e
  rw [← e]
  try dsimp only
  repeat' first
    | with_reducible assumption
    | intro _
    | with_reducible apply keyRow_kept

theorem execNewEpoch_kept (k0 : State) (t : Tag) (s : State) (hk : Kept k0 s) : ∀ z, execNewEpoch t s = .next z → Kept k0 z := by
  intro z e
  unfold execNewEpoch at e
  injection e with e
  rw [← e]
  try dsimp only
  repeat' first
    | with_reducible assumption
    | intro _
    | with_reducible apply keyRow_kept

theorem execSealDebug_kept (k0 : State) (t : Tag) (s : State) (hk : Kept k0 s) : ∀ z, execSealDebug t s = .next z → Kept k0 z := by
  intro z e
  unfold execSealDebug at e
  injection e with e
  rw [← e]
  try dsimp only
  repeat' first
    | with_reducible assumption
    | intro _
    | with_reducible apply keyRow_kept

theorem execRma_kept (k0 : State) (t : Tag) (s : State) (hk : Kept k0 s) : ∀ z, execRma t s = .next z → Kept k0 z := by
  intro z e
  unfold execRma at e
  injection e with e
  rw [← e]
  try dsimp only
  repeat' first
    | with_reducible assumption
    | intro _
    | with_reducible apply keyRow_kept

theorem settingsRow_kept (k0 : State) (t : Tag) (op : Nat) (pg : BitVec 11) (s : State) (hk : Kept k0 s) : Kept k0 (settingsRow t op pg s) := by
  unfold settingsRow
  try dsimp only
  repeat' first
    | with_reducible assumption
    | intro _
    | with_reducible apply resRequest_kept
    | with_reducible apply reqWrite_kept

theorem execSettingsRead_kept (k0 : State) (t : Tag) (pg : BitVec 11) (s : State) (hk : Kept k0 s) : ∀ z, execSettingsRead t pg s = .next z → Kept k0 z := by
  intro z e
  unfold execSettingsRead at e
  injection e with e
  rw [← e]
  try dsimp only
  repeat' first
    | with_reducible assumption
    | intro _
    | with_reducible apply settingsRow_kept

theorem execSettingsWrite_kept (k0 : State) (t : Tag) (pg : BitVec 11) (s : State) (hk : Kept k0 s) : ∀ z, execSettingsWrite t pg s = .next z → Kept k0 z := by
  intro z e
  unfold execSettingsWrite at e
  injection e with e
  rw [← e]
  try dsimp only
  repeat' first
    | with_reducible assumption
    | intro _
    | with_reducible apply settingsRow_kept

theorem landWord_kept (k0 : State) (w : LateWrite) (s : State) (hk : Kept k0 s) : Kept k0 (landWord w s) := by
  unfold landWord
  try dsimp only
  repeat' first
    | with_reducible assumption
    | intro _
    | with_reducible apply State.dropHolds_kept
    | with_reducible apply State.countRein_kept
    | with_reducible apply State.countWrite_kept
    | with_reducible apply State.memPut_kept
    | with_reducible apply writeWord_kept
    | with_reducible apply holdLower_kept
    | split

theorem State.afterTimeout_kept (k0 : State) (s : State) (ws : List LateWrite) (lands : Bool) (hk : Kept k0 s) : Kept k0 (State.afterTimeout s ws lands) := by
  unfold State.afterTimeout
  try dsimp only
  repeat' first
    | with_reducible assumption
    | intro _
    | simp only [Kept.update]
    | with_reducible apply landWord_kept
    | with_reducible apply Kept.foldl
    | with_reducible apply Kept.foldl_fst
    | with_reducible apply Kept.foldl_snd
    | split

theorem State.lateBeat_kept (k0 : State) (s : State) (hk : Kept k0 s) : Kept k0 (State.lateBeat s) := by
  unfold State.lateBeat
  try dsimp only
  repeat' first
    | with_reducible assumption
    | intro _
    | simp only [Kept.update]
    | with_reducible apply State.fresh_kept
    | with_reducible apply landWord_kept
    | with_reducible apply Kept.foldl
    | with_reducible apply Kept.foldl_fst
    | with_reducible apply Kept.foldl_snd
    | split
    | with_reducible refine Kept.snd (by assumption) ?_
    | with_reducible refine Kept.third (by assumption) ?_
    | with_reducible refine Kept.last (by assumption) ?_
    | with_reducible refine Kept.fst (by assumption) ?_

theorem execBusTimeout_kept (k0 : State) (t : Tag) (a : Addr) (wr : Bool) (sh : Shape) (lands : Bool) (s : State) (hk : Kept k0 s) : ∀ z, execBusTimeout t a wr sh lands s = .next z → Kept k0 z := by
  intro z e
  unfold execBusTimeout at e
  injection e with e
  rw [← e]
  try dsimp only
  repeat' first
    | with_reducible assumption
    | intro _
    | with_reducible apply State.logErr_kept
    | with_reducible apply State.dropHolds_kept
    | with_reducible apply State.respond_kept
    | with_reducible apply State.noteDebug_kept
    | with_reducible apply regWrite_kept
    | with_reducible apply regRead_kept
    | with_reducible apply State.afterTimeout_kept
    | split

end Sys2Proof.Machine
end

