-- ==== Sys2Proof/Laws/Kept/FoleyExt.lean ====
section
/-!
SUPPORT. Laws/Kept/FoleyExt.lean: each operation of Machine/FoleyExt.lean keeps what Laws/Kept.lean names.
-/
set_option linter.unusedSimpArgs false
set_option linter.unusedVariables false
set_option linter.unusedTactic false
set_option linter.unreachableTactic false

namespace Sys2Proof.Machine

theorem extHbm_kept (k0 : State) (t : Tag) (x : Access) (s : State) (hk : Kept k0 s) : Kept k0 (extHbm t x s).2 := by
  unfold extHbm
  try dsimp only
  repeat' first
    | with_reducible assumption
    | intro _
    | simp only [Kept.update]
    | with_reducible apply State.wr_kept
    | with_reducible apply State.logErr_kept
    | with_reducible apply State.memPut_kept
    | split
    | with_reducible refine Kept.snd (by assumption) ?_
    | with_reducible refine Kept.third (by assumption) ?_
    | with_reducible refine Kept.last (by assumption) ?_
    | with_reducible refine Kept.fst (by assumption) ?_

theorem extWrite_kept (k0 : State) (x : Access) (s : State) (hk : Kept k0 s) : Kept k0 (extWrite x s).2 := by
  unfold extWrite
  try dsimp only
  repeat' first
    | with_reducible assumption
    | intro _
    | with_reducible apply State.dropHolds_kept
    | with_reducible apply State.noteDebug_kept
    | with_reducible apply busWord_kept

theorem State.extStall_kept (k0 : State) (s : State) (c : Nat) (hk : Kept k0 s) : Kept k0 (State.extStall s c) := by
  unfold State.extStall
  try dsimp only
  repeat' first
    | with_reducible assumption
    | intro _
    | simp only [Kept.update]
    | with_reducible apply State.fresh_kept
    | with_reducible apply State.setFol_kept
    | split
    | with_reducible refine Kept.snd (by assumption) ?_
    | with_reducible refine Kept.third (by assumption) ?_
    | with_reducible refine Kept.last (by assumption) ?_
    | with_reducible refine Kept.fst (by assumption) ?_

theorem extFinish_kept (k0 : State) (c : Nat) (x : Access) (dk : Nat) (err : Bool) (v : Word) (s0 : State) (hk : Kept k0 s0) : Kept k0 (extFinish c x dk err v s0) := by
  unfold extFinish
  try dsimp only
  repeat' first
    | with_reducible assumption
    | intro _
    | with_reducible apply State.wr_kept
    | with_reducible apply State.setFol_kept
    | with_reducible apply State.folExc_kept
    | with_reducible apply State.extStall_kept
    | split

theorem extRun_kept (k0 : State) (c : Nat) (x : Access) (dk : Nat) (timeout : Option Bool) (s : State) (hk : Kept k0 s) : Kept k0 (extRun c x dk timeout s) := by
  unfold extRun
  try dsimp only
  repeat' first
    | with_reducible assumption
    | intro _
    | simp only [Kept.update]
    | with_reducible apply State.wr_kept
    | with_reducible apply State.logErr_kept
    | with_reducible apply State.dropHolds_kept
    | with_reducible apply busRead_kept
    | with_reducible apply State.afterTimeout_kept
    | with_reducible apply extHbm_kept
    | with_reducible apply extWrite_kept
    | with_reducible apply extFinish_kept
    | split
    | with_reducible refine Kept.snd (by assumption) ?_
    | with_reducible refine Kept.third (by assumption) ?_
    | with_reducible refine Kept.last (by assumption) ?_
    | with_reducible refine Kept.fst (by assumption) ?_

theorem execFoExt_kept (k0 : State) (c : Fin 64) (timeout : Option Bool) (s : State) (hk : Kept k0 s) : ∀ z, execFoExt c timeout s = .next z → Kept k0 z := by
  intro z e
  unfold execFoExt at e
  injection e with e
  rw [← e]
  try dsimp only
  repeat' first
    | with_reducible assumption
    | intro _
    | exact trivial
    | with_reducible exact Kept.refl _
    | simp only [FolRes.keeps_done, FolRes.keeps_own, FolRes.keeps_exc, FolRes.keeps_illegal]
    | with_reducible apply folIssue_kept
    | with_reducible apply extRun_kept

end Sys2Proof.Machine
end

