-- ==== Sys2Proof/Laws/Kept/Beat.lean ====
section
/-!
SUPPORT. Laws/Kept/Beat.lean: each operation of Machine/Beat.lean keeps what Laws/Kept.lean names.
-/
set_option linter.unusedSimpArgs false
set_option linter.unusedVariables false
set_option linter.unusedTactic false
set_option linter.unreachableTactic false

namespace Sys2Proof.Machine

theorem State.beatStep_kept (k0 : State) (s : State) (hk : Kept k0 s) : Kept k0 (State.beatStep s) := by
  unfold State.beatStep
  try dsimp only
  repeat' first
    | with_reducible assumption
    | intro _
    | simp only [Kept.update]
    | with_reducible apply State.fabricBeat_kept
    | with_reducible apply State.checkBeat_kept
    | with_reducible apply State.fecBeat_kept
    | with_reducible apply State.txBeat_kept
    | with_reducible apply State.longBeat_kept
    | with_reducible apply State.takeBeat_kept
    | with_reducible apply State.recordBeat_kept
    | with_reducible apply State.playBeat_kept
    | with_reducible apply State.egressBeat_kept
    | with_reducible apply State.monBeat_kept
    | with_reducible apply State.timeBeat_kept
    | with_reducible apply State.fltBeat_kept
    | with_reducible apply State.farrierBeat_kept
    | with_reducible apply State.lateBeat_kept

theorem execFabricBeat_kept (k0 : State) (s : State) (hk : Kept k0 s) : ∀ z, execFabricBeat s = .next z → Kept k0 z := by
  intro z e
  unfold execFabricBeat at e
  injection e with e
  rw [← e]
  try dsimp only
  repeat' first
    | with_reducible assumption
    | intro _
    | with_reducible apply State.beatStep_kept

end Sys2Proof.Machine
end

