-- ==== Sys2Proof/Laws/Pages.lean ====
section
/-!
SUPPORT. Laws/Pages.lean: what page and which offset a register's address spells, page kind by page kind (R42), and when two registers
of the store are different ones.
-/
namespace Sys2Proof.Machine

theorem regA_page (pg off : Nat) (h : off < 65536) : regA pg off / 65536 = pg := by unfold regA; omega
theorem regA_off (pg off : Nat) (h : off < 65536) : regA pg off % 65536 = off := by unfold regA; omega

theorem pageOf_lane (b : Nat) (h : b < 48) : pageOf (pLane b) = some (.lane, b) := by
  unfold pageOf pLane
  rw [if_neg (by omega), if_pos (by omega)]
  simp

theorem pageOf_port (b : Nat) (h : b < 48) : pageOf (pPort b) = some (.port, b) := by
  unfold pageOf pPort
  rw [if_neg (by omega), if_neg (by omega), if_pos (by omega)]
  simp

theorem pageOf_ing (b : Nat) (h : b < 16) : pageOf (pIng b) = some (.ing, b) := by
  unfold pageOf pIng
  rw [if_neg (by omega), if_neg (by omega), if_neg (by omega), if_pos (by omega)]
  simp

theorem pageOf_egr (b : Nat) (h : b < 16) : pageOf (pEgr b) = some (.egr, b) := by
  unfold pageOf pEgr
  rw [if_neg (by omega), if_neg (by omega), if_neg (by omega), if_neg (by omega), if_pos (by omega)]
  simp

theorem pageOf_fol (b : Nat) (h : b < 64) : pageOf (pFol b) = some (.fol, b) := by
  unfold pageOf pFol
  rw [if_neg (by omega), if_neg (by omega), if_neg (by omega), if_neg (by omega), if_neg (by omega), if_pos (by omega)]
  simp

/-- Different registers of one bank. -/
theorem regKey_ne (b a a' : Nat) (h : a' ≠ a) : regKey b a' ≠ regKey b a := by unfold regKey; omega

/-- Registers of two pages. -/
theorem regA_ne_page (pg off pg' off' : Nat) (h : pg ≠ pg') (h1 : off < 65536) (h2 : off' < 65536) : regA pg off ≠ regA pg' off' := by
  unfold regA; omega

/-- Registers at two offsets. -/
theorem regA_ne_off (pg pg' off off' : Nat) (h : off ≠ off') (h1 : off < 65536) (h2 : off' < 65536) : regA pg off ≠ regA pg' off' := by
  unfold regA; omega

end Sys2Proof.Machine
end

