-- ==== Sys2Proof/Tests/Slice0.lean ====
section
/-!
SUPPORT. Tests/Slice0.lean: ill-formed terms that WellFormed refuses, and for each statement of Certificates/Slice0/Obligations.lean
states and operands that meet its hypotheses, clause by clause, with the main effect there. Every test is one step on the reset state
with a few words set; expected values are worked out from the rules that the statement cites.
-/
namespace Sys2Proof.Tests
set_option Elab.async false
open Sys2Proof Sys2Proof.Machine

/-- exec answers a next state that passes a check. -/
def ends (c : Instr) (s : State) (f : State → Bool) : Bool :=
  match exec c s with
  | .next z => f z
  | .fault _ => false
  | .refused _ => false

/-- Registers set: bank, address, value. -/
def regs (l : List (Nat × Nat × Nat)) (s : State) : State := l.foldl (fun s e => s.wr e.1 e.2.1 (wd e.2.2)) s

/-- Words of a table's entry set from word 0 up: page, bank, table, index, words. -/
def ents (l : List (Nat × Nat × Nat × Nat × List Nat)) (s : State) : State :=
  l.foldl (fun s e => s.setEntWords e.1 e.2.1 e.2.2.1 e.2.2.2.1 0 (e.2.2.2.2.map wd)) s

/-- The part after a start: READY, firmware at work, VF Enable set. -/
def run : State :=
  let s := regs [(0, regA pMgt 0x040, 3)] State.reset
  { s with host := { s.host with vfEnable := true }, mgt := { s.mgt with booted := true }, take := { s.take with solver := true } }

/-- The reset state with VF Enable set: P1 to P15 reach the bus. -/
def vfs : State := { State.reset with host := { State.reset.host with vfEnable := true } }

/-- The host's partition 0. -/
abbrev p0 : Tag := .p 0

/-! ### Ill-formed terms, one for each check of WellFormed -/

theorem test_wf_shape : Instr.wf (.registerWrite p0 0 (.one 24 0)) = false ∧ Instr.wf (.registerWrite p0 0 (.one 8 256)) = false ∧
    Instr.wf (.hbmWindowAccess p0 0 true (.burst [])) = false := by decide
theorem test_wf_read : Instr.wf (.pairLowerRead p0 4 (.one 24)) = false ∧ Instr.wf (.pairLowerRead p0 4 (.burst 0)) = false ∧
    Instr.wf (.pairLowerRead p0 4 (.one 64)) = true := by decide
theorem test_wf_pair : Instr.wf (.pairLowerWrite p0 4 0) = false ∧
    Instr.wf (.pairUpperWrite p0 8 0) = false := by decide
theorem test_wf_timeout : Instr.wf (.busTimeout p0 64 false (.one 32 0) true) = false ∧
    Instr.wf (.busTimeout p0 64 true (.one 32 0) true) = true := by decide
theorem test_wf_flr_cause : Instr.wf (.flrVf 0) = false ∧ Instr.wf (.msixDeliver 0 197 none) = false := by decide
theorem test_wf_frame : Instr.wf (.epvFrameReceive 0 0 ⟨true, 0, 0, List.replicate 16 0, [(4095, [0, 0])]⟩) = false ∧
    Instr.wf (.epvFrameReceive 0 0 ⟨true, 0, 0, List.replicate 15 0, []⟩) = false ∧
    Instr.wf (.epvFrameReceive 0 0 ⟨true, 0, 0, List.replicate 16 0, [(4095, [0])]⟩) = true := by decide
theorem test_wf_payload : Instr.wf (.hostUnitLaunch 0 (.anc [⟨0, 0, false, 0, 0, 0, 0, List.replicate 256 0⟩])) = false ∧
    Instr.wf (.hostUnitLaunch 0 (.pcm 17 [])) = false ∧ Instr.wf (.hostUnitLaunch 0 (.pcm 16 [[65536]])) = false ∧
    Instr.wf (.hostUnitLaunch 0 (.pcm 24 [[65536]])) = true := by decide +kernel
theorem test_wf_move : Instr.wf (.moveStart (.evacuate [[⟨⟨4352, 0, 0⟩, ⟨0, 0, 0⟩, []⟩]])) = false ∧
    Instr.wf (.moveStart (.evacuate [[⟨⟨0, 0, 144⟩, ⟨0, 0, 0⟩, []⟩]])) = false ∧
    Instr.wf (.moveStart (.evacuate [[⟨⟨0, 0, 0⟩, ⟨0, 3, 0⟩, []⟩]])) = false ∧
    Instr.wf (.moveStart (.evacuate [[⟨⟨0, 0, 0⟩, ⟨0, 1, 0⟩, [4608]⟩]])) = false := by decide
theorem test_wf_take : Instr.wf (.commit p0 0 4097) = false ∧ Instr.wf (.audStop p0 0 4097) = false ∧
    Instr.wf (.armGrant (.forced 4352 1)) = false ∧ Instr.wf (.audArmGrant (.forced 256 1)) = false ∧
    Instr.wf (.memberCommit (.cmd 0 0) 4096) = false ∧ Instr.wf (.audMemberCommit (.cmd 0 0) 4096) = false ∧
    Instr.wf (.rehearsalDone (.cmd 0 0) (some ⟨[[⟨9999, 0, 0⟩]], []⟩)) = false := by decide
theorem test_wf_audio : Instr.wf (.audioBlock 0 false [⟨0, 0, []⟩] []) = false ∧
    ∀ l : List (BitVec 8), 65536 ≤ l.length → Instr.wf (.audioBlock 0 false [] [⟨0, 0, l⟩]) = false :=
  ⟨by decide, fun l h => by simp [Instr.wf, h]⟩
theorem test_wf_beacon : Instr.wf (.beacon ⟨0, 0, false, 0, []⟩) = false := by decide
theorem test_wf_selftest : Instr.wf (.selftestDone [.config 3, .config 3] true) = false := by decide

/-! ### The whole machine -/

/-- StepRunsFrontCommand; EveryStepKeepsCanonicalForm and FusesAndCountersOnlyGoUp on a step of the reset state. -/
theorem test_step_front : ({ State.reset with pending := [Instr.perstNRelease] } : State).pending = Instr.perstNRelease :: [] ∧
    step { State.reset with pending := [.perstNRelease] } = .next State.reset ∧ step State.reset = .next State.reset := by
  refine ⟨rfl, ?_, ?_⟩ <;> rfl
theorem test_reset_canonical : State.reset.canonical := by refine ⟨?_, ?_, ?_⟩ <;> decide
/-- HostCommandsAreRegisterWrites. -/
theorem test_host_writes : State.reset.hostWrites (.laneStart p0 5) = some (p0, [(laneA 5 0x044, 1)]) ∧
    (∀ w ∈ [(laneA 5 0x044, (1 : Word))], isHbm w.1 = false) := by decide +kernel

/-! ### The control bus -/

/-- AdmittedWriteHasItsEffect: PORT.CFG2 of block 3 at 0x05C; PAGE_SEQ counts. -/
theorem test_bus_admitted : isHbm (portA 3 0x05C) = false ∧ isPair (portA 3 0x05C) = false ∧
    State.reset.admits (.w32 p0 (portA 3 0x05C) 0x100) = true ∧
    ends (.registerWrite p0 (BitVec.ofNat 28 (portA 3 0x05C)) (.one 32 0x100)) State.reset (fun z =>
      z.rd 0 (portA 3 0x05C) == 0x100 && z.rd 0 (regA (pPort 3) 0x020) == 1 && z.bus.resp == []) = true ∧
    ends (.registerWrite .m (BitVec.ofNat 28 (portA 3 0x05C)) (.one 32 0x100)) State.reset (fun z => z.bus.resp == [⟨false, 0⟩]) = true := by
  decide +kernel
/-- RefusedWriteOnlyLogs: DECODE in an unused page, and of tag D with its seal blown, lost. -/
theorem test_bus_refused : isHbm 0x0110040 = false ∧ isPair 0x0110040 = false ∧ State.reset.lost p0 0 = false ∧
    State.reset.refusal (.w32 p0 0x0110040 7) = some .decode ∧
    ends (.registerWrite p0 0x0110040 (.one 32 7)) State.reset (fun z => z.rd 0 (regA pBmx 0x044) == 1 &&
      z.rd 0 (regA pBmx 0x048) == 0x0110040 && z.rd 0 (regA pBmx 0x04C) == 81 && z.occ == [⟨16 * 1, 0, 0⟩]) = true ∧
    State.lost { State.reset with fuse := ⟨1, 1, 0⟩ } .d (tagNum .d) = true := by decide +kernel
/-- The same: 8, 16 and 64 bits, a burst across a page, a burst in turn, and a time-out that lands. -/
theorem test_bus_shapes : ends (.registerWrite p0 0x30040 (.one 8 1)) State.reset (fun z => z.rd 0 (regA pBmx 0x04C) == 3 + 16) = true ∧
    State.reset.admits ⟨.p 0, 0, pwrA 0x068, 3, false, true, 5⟩ = true ∧
    ends (.registerWrite p0 (BitVec.ofNat 28 (pwrA 0x068)) (.one 64 5)) State.reset (fun z => z.rd64 0 (pwrA 0x068) == 5) = true ∧
    ends (.registerWrite p0 0x1FFFC (.burst [1, 2])) State.reset (fun z => z.rd 0 (regA pBmx 0x04C) == 3 + 144) = true ∧
    ends (.registerWrite p0 (BitVec.ofNat 28 (laneA 0 0x050)) (.burst [1, 2])) State.reset (fun z =>
      z.rd 0 (laneA 0 0x050) == 1 && z.rd 0 (laneA 0 0x054) == 2 && z.rd 0 (regA (pLane 0) 0x020) == 2) = true ∧
    State.reset.mayTimeOut p0 (laneA 0 0x054) true (.one 32 9) = true ∧ State.reset.mayTimeOut p0 0x10020 false (.one 32 0) = false ∧
    ends (.busTimeout p0 (BitVec.ofNat 28 (laneA 0 0x054)) true (.one 32 9) true) State.reset (fun z =>
      z.rd 0 (laneA 0 0x054) == 9 && z.rd 0 (regA pBmx 0x04C) == 6 + 80) = true ∧
    ends (.busTimeout p0 (BitVec.ofNat 28 (laneA 0 0x054)) true (.one 32 9) false) State.reset (fun z =>
      z.rd 0 (laneA 0 0x054) == 1000 && z.bus.late == [⟨p0, laneA 0 0x054, none, 9⟩]) = true := by decide +kernel
/-- BusChecksInOrder, each clause. -/
theorem test_bus_checks : pageOf 0x011 = none ∧ pageOf (pLane 2) = some (.lane, 2) ∧
    State.refusal (regs [(0, regA (pLane 2) 0x00C, 3)] State.reset) (.w32 p0 (laneA 2 0x040) 0) = some .firewall ∧
    State.refusal (regs [(0, regA (pLane 2) 0x00C, 3)] State.reset) (.w32 .m (laneA 2 0x040) 0) = none ∧
    State.reset.refusal (.w32 p0 (laneA 2 0x042) 0) = some .access ∧
    State.refusal (regs [(0, regA (pLane 2) 0x014, 16)] State.reset) (.w32 p0 (laneA 2 0x040) 0) = some .gated ∧
    State.refusal (regs [(0, regA pFlt 0x040, 1)] State.reset) (.w32 p0 (laneA 2 0x040) 0) = some .held ∧
    State.refusal (regs [(0, regA pFlt 0x040, 1)] State.reset) (.w32 p0 (fltA 0x054) 0) = none := by decide +kernel
/-- AccessTypesOfRegisters: one register of each type, and the RWL one locked and not. -/
theorem test_bus_types : regAt .pwr 0x044 = some ⟨0x044, 1, .rw, false, false, false, 0, 0xFFFFFFFF⟩ ∧
    ((regAt .pwr 0x040).map fun r => r.acc) = some .rwl ∧ ((regAt .pwr 0x04C).map fun r => r.acc) = some .w1c ∧
    ((regAt .pwr 0x048).map fun r => r.acc) = some .ro ∧ ((regAt .pwr 0x088).map fun r => r.acc) = some .rsv ∧
    State.pageLocked (regs [(0, regA pPwr 0x010, 1)] State.reset) pPwr = true ∧ State.reset.pageLocked pPwr = false := by decide +kernel
/-- PageOwnerAndLock: by P0, by M, and of a shared page. -/
theorem test_bus_owner : State.reset.admits (hostAccess p0 (pFol 7) 0x00C (wd 5)) = true ∧
    ends (.pageOwnerWrite p0 0x207 5) (regs [(0, regA (pFol 7) 0x010, 1)] State.reset) (fun z => z.pageOwner (pFol 7) == 5 &&
      !z.pageLocked (pFol 7)) = true ∧
    vfs.admits (hostAccess (.p 2) pXpt 0x010 1) = true ∧
    ends (.pageLock (.p 2) 0x00B) vfs (fun z => !z.pageLocked pXpt) = true ∧
    ends (.pageLock .m 0x00B) State.reset (fun z => z.pageLocked pXpt) = true ∧
    State.reset.admits (hostAccess p0 pXpt 0x010 0x80000000) = true := by decide +kernel
/-- PairHalves: PWR.WAKE_PB. -/
theorem test_bus_pair : isPair (pwrA 0x068) = true ∧ pwrA 0x068 % 8 = 0 ∧ State.reset.admits (.w32 p0 (pwrA 0x068) 1) = true ∧
    State.reset.admits (.r32 p0 (pwrA 0x068)) = true ∧ isPair (pwrA 0x06C) = true ∧
    ends (.pairLowerWrite p0 (BitVec.ofNat 28 (pwrA 0x068)) 0x77) State.reset (fun z => z.regs == State.reset.regs &&
      z.heldLower 0 (pwrA 0x06C) == some 0x77 && ends (.pairUpperWrite p0 (BitVec.ofNat 28 (pwrA 0x06C)) 0x12) z
        (fun y => y.rd64 0 (pwrA 0x068) == 0x1200000077)) = true ∧
    ends (.pairLowerRead .d (BitVec.ofNat 28 (pwrA 0x068)) (.one 32)) State.reset (fun z => z.bus.resp == [⟨false, 0xFFFFFFFF⟩] &&
      z.bus.pairRd == [⟨17, pwrA 0x068, 0xFFFF⟩]) = true := by decide +kernel

/-! ### Windows, results and the host interface -/

/-- TableWindow: a table of the LANE-independent PART page, admitted; and the end of an accepted and of a refused operation. -/
theorem test_window : pageOf 0x002 = some (.part, 0) ∧ PageKind.cap .part / 2 % 2 = 1 ∧
    State.reset.admits (hostAccess p0 2 0x1008 5) = true ∧ State.reset.admits (hostAccess p0 2 0x1008 7) = true ∧
    ends (.tableRead p0 2 true) (ents [(2, 0, 2, 9, [4])] (regs [(0, regA 2 0x1000, 2), (0, regA 2 0x1004, 9)] State.reset)) (fun z =>
      z.bus.ops == [⟨2, 0, 0⟩] && z.rd 0 (regA 2 0x1010) == 4 &&
      ends (.tableOpDone 2 0) z (fun y => y.rd 0 (regA 2 0x1004) == 10 && y.rd 0 (regA 2 0x1008) == 0x104 && y.bus.ops == [])) = true ∧
    ends (.tableWrite p0 2 false) (regs [(0, regA 2 0x1000, 2), (0, regA 2 0x1004, 4608)] State.reset) (fun z =>
      z.bus.ops == [⟨2, 0, 2⟩] && ends (.tableOpDone 2 0) z (fun y => y.rd 0 (regA 2 0x1008) == 0x2302)) = true := by decide +kernel
/-- ResultRequests: an eye request, a time capture, and their ends. -/
theorem test_results : pageOf 0x12F = some (.lane, 47) ∧ PageKind.cap .lane / 8 % 2 = 1 ∧ PageKind.cap .time / 8 % 2 = 1 ∧
    State.reset.admits (hostAccess p0 0x12F 0x080 1) = true ∧ State.reset.admits (hostAccess p0 8 0x080 1) = true ∧
    ends (.eyeRequest p0 47) State.reset (fun z => z.rd 0 (laneA 47 0x084) == 1 && z.bus.res.length == 1) = true ∧
    ends (.timeCapture p0) State.reset (fun z => z.rd 0 (regA pTime 0x084) == 1 && z.bus.res.length == 1 &&
      ends (.resultComplete 8 0 0) z (fun y => y.rd 0 (regA pTime 0x08C) == 1 && y.bus.res.isEmpty &&
        y.rd 0 (regA pTime 0x088) == 1)) = true := by decide +kernel
/-- RequestRows: a row of each page. -/
theorem test_requests : (∀ c ∈ [Instr.takeQueryRoute p0 4607, .audQueryTag p0 3, .derive p0, .settingsWrite p0 1999],
    ((State.reset.hostWrites c).any fun l => State.reset.admitsAll l.1 l.2) = true) ∧
    ends (.takeQueryRoute p0 4607) State.reset (fun z => z.rd 0 (regA pTake 0x0B4) == 4607 && z.rd 0 (regA pTake 0x084) == 1) = true ∧
    ends (.newEpoch p0) (regs [(0, regA pKey 0x050, 0xF0)] State.reset) (fun z => z.rd 0 (regA pKey 0x050) == 0xF7 &&
      z.rd 0 (regA pKey 0x084) == 1) = true := by decide +kernel
/-- SnapshotCopiesAndClears: the BMX and KEY pages, and a page without counters. -/
theorem test_snapshot : State.reset.admits (hostAccess p0 pBmx 0x058 1) = true ∧ vfs.admits (hostAccess (.p 3) pKey 0x048 1) = true ∧
    ends (.snapshot p0 1) (regs [(0, regA pBmx 0x044, 7)] State.reset) (fun z => z.rd 0 (regA pBmx 0x05C) == 7 &&
      z.rd 0 (regA pBmx 0x044) == 0) = true ∧
    ends (.snapshot (.p 3) 5) (regs [(3, regA pKey 0x068, 7), (4, regA pKey 0x068, 9)] vfs) (fun z =>
      z.rd 3 (regA pKey 0x070) == 7 && z.rd 3 (regA pKey 0x068) == 0 && z.rd 4 (regA pKey 0x068) == 9) = true ∧
    pageOf 0 = some (.chip, 0) ∧ snapOff .chip = none ∧ State.reset.admits (hostAccess .m 0 0 1) = true := by decide +kernel
/-- DmaQueues, each clause: sizes 4, 12, 3 and 13; draining with and without descriptors. -/
theorem test_queues : (∀ n ∈ [4, 12], ends (.queueEnable p0 63 true) (regs [(0, qA 63 true + 8, 16 * n)] State.reset)
      (fun z => z.qEn 63 true && z.qState 63 true == 1) = true) ∧
    (∀ n ∈ [3, 13], ends (.queueEnable p0 63 true) (regs [(0, qA 63 true + 8, 16 * n)] State.reset) (fun z => !z.qEn 63 true) = true) ∧
    ends (.queueDisable p0 0 false) (regs [(0, qA 0 false + 8, 65), (0, qA 0 false + 0x18, 1)] State.reset)
      (fun z => z.qState 0 false == 3 && ends (.queueDrainDone 0 false) z (fun y => y.qState 0 false == 0)) = true ∧
    ends (.qTailWrite p0 1 true 0xFFF) State.reset (fun z => z.rd 0 (qA 1 true + 0x0C) == 0xFFF) = true ∧
    State.reset.admits (.w32 p0 (qA 63 true + 8) 0x41) = true ∧ State.reset.admits (.w32 p0 (qA 0 false + 8) 0x40) = true ∧
    State.qState (regs [(0, qA 0 false + 0x18, 1)] State.reset) 0 false = 1 := by decide +kernel

/-- A queue that runs with a ring of 16 and tail 3. -/
def queued : State := regs [(0, qA 5 true + 8, 65), (0, qA 5 true + 0x18, 1), (0, qA 5 true + 0x0C, 3)] State.reset
/-- DescriptorsInRingOrder: three are fetched, the third with a broken TAG sequence; write-backs in order. -/
theorem test_descriptors : queued.host.perstN = true ∧ queued.qState 5 true = 1 ∧ within (queued.qBind 5 true) true = false ∧ (queued.qrec 5 true).flight.length < 512 ∧
    (queued.qrec 5 true).fetch % queued.ringSize 5 true ≠ queued.rdF 0 (qA 5 true + 0x0C) 0 12 % queued.ringSize 5 true ∧
    ends (.descriptorFetch 5 true (9 <<< 96) 0) queued (fun z => (z.qrec 5 true).nextTag == some 10 && (z.qrec 5 true).fetch == 1 &&
      ends (.descriptorFetch 5 true (12 <<< 96) 0) z (fun y => ((y.qrec 5 true).flight.map fun f => f.bad) == [false, true] &&
        ends (.descriptorComplete 5 true ⟨.ok, 64, 0, 0, true, true⟩) y (fun x => x.rd 0 (qA 5 true + 0x14) == 9 &&
          x.rdF 0 (qA 5 true + 0x10) 0 12 == 1 &&
          ends (.descriptorComplete 5 true ⟨.ok, 64, 0, 0, true, true⟩) x (fun v => v.qState 5 true == 2 &&
            v.rdF 0 (qA 5 true + 0x18) 4 8 == 4)))) = true := by decide +kernel
/-- InterruptCausesPend: closed three ways, and open. -/
theorem test_causes : bitOf ((ents [(pHost, 0, 1, 196, [0xC0000003])] State.reset).ent pHost 0 1 196 0) 30 = true ∧
    State.reset.host.msixEnable.getLsbD 0 = false ∧
    ends (.msixDeliver 0 196 none) (ents [(pHost, 0, 1, 196, [0xC0000003])] { State.reset with host := { State.reset.host with msixEnable := 1 } })
      (fun z => z.out == [.msix 0 3 196] && !bitOf (z.ent pHost 0 1 196 0) 30) = true ∧
    ends (.msixDeliver 0 196 (some (.msixEnable true))) (ents [(pHost, 0, 1, 196, [0xC0000003])] State.reset)
      (fun z => z.out == [.msix 0 3 196]) = true ∧
    (Tab.get (fun _ => (0 : Word)) ([(3 * 4 + 3, 1)] : Tab Word) (0 * 256 + 3 * 4 + 3)).getLsbD 0 = true := by decide +kernel
/-- InterruptHoldoff. -/
theorem test_holdoff : (let s := State.setQrec (regs [(0, qA 5 true + 0x1C, 7)] State.reset) 5 true { QRec.idle with since := 2 }
    s.rdF 0 (qA 5 true + 0x1C) 0 16 ≠ 0 ∧ (s.qrec 5 true).since ≠ 0 ∧ ends (.interruptHoldoffExpire 5 true) s (fun z =>
      (z.qrec 5 true).since == 0 && bitOf (z.ent pHost 0 1 69 0) 30) = true) := by decide +kernel
/-- FunctionLevelResets: P3 owns queue 9; and with VF Enable clear. -/
theorem test_flr : (let s := ents [(pPart, 0, 7, 9, [3])] (regs [(0, qA 9 false + 8, 65), (0, qA 8 false + 8, 65)] vfs)
    s.partOwner 7 9 = 3 ∧ s.partOwner 7 8 ≠ 3 ∧ ends (.flrVf 3) s (fun z => !z.qEn 9 false && z.qEn 8 false) = true ∧
      ends .flrPf s (fun z => !z.qEn 9 false && !z.qEn 8 false) = true ∧
      ends .vfEnableClear s (fun z => !z.qEn 9 false && z.qEn 8 false && !z.host.vfEnable) = true) ∧
    ends .vfEnableClear State.reset (fun z => z.regs == State.reset.regs && z.host == State.reset.host) = true := by decide +kernel
/-! ### Lanes and ports -/

/-- Block 5 with lane 40 in a state of R91: Epvozel mode, TRAIN_MAN and AUTO_RETRAIN as given. -/
def lane40 (st mode extra : Nat) : State :=
  regs [(0, laneA 5 0x040, 0x530 + mode + extra), (0, laneA 5 0x048, 3), (0, lnA 40 0x04, st), (0, lnA 40 0x00, 1)] State.reset
/-- LaneEvents, each clause. -/
theorem test_lane_events : (lane40 1 1 0).lnState 40 = 1 ∧
    ends (.signalDetect 40) (lane40 1 1 0) (fun z => z.lnState 40 == 2 && z.coefs 40 == [0, 0, 0, 63, 0, 0]) = true ∧
    (lane40 3 1 0).lnState 40 = 3 ∧ ends (.stepUpLock 40) (lane40 (3 + 16) 1 0) (fun z => z.lnState 40 == 2 && z.lnStep 40 == 2) = true ∧
    ends (.laneHoldExpire 40) (lane40 4 1 0) (fun z => z.lnState 40 == 5) = true ∧
    ends (.trainTimeout 40) (lane40 (2 + 2 * 4096) 1 0) (fun z => z.lnState 40 == 1 && z.attempt 40 == 3 && z.rdF 0 (lnA 40 0x50) 0 4 == 4) =
      true ∧
    ends (.trainTimeout 40) (lane40 (3 + 3 * 4096) 1 0) (fun z => z.lnState 40 == 7 && z.rdF 0 (lnA 40 0x50) 0 4 == 7) = true := by
  decide +kernel
def asked40 : State := (lane40 2 1 0).setLane 40 { LaneRec.idle with req := some ⟨3, 1, 0, false⟩ }
def kept40 : State := (lane40 6 1 0).setLane 40 { LaneRec.idle with kept := true }
theorem test_lane_events' : ((asked40.lane 40).req.map fun q => q.answered) = some false ∧
    ends (.tapTimeout 40) asked40 (fun z => z.rdF 0 (lnA 40 0x50) 0 4 == 3) = true ∧
    ends (.lossOfLock 40) (lane40 4 1 0) (fun z => z.rdF 0 (lnA 40 0x50) 0 4 == 5 && z.rd 0 (lnA 40 0x48) == 1) = true ∧
    (lane40 5 1 0).autoRetrain 5 = true ∧ ends (.lossOfLock 40) (lane40 5 1 0) (fun z => z.lnState 40 == 1) = true ∧
    (209 : Nat) < (regs [(0, laneA 5 0x050, 210)] (lane40 5 1 0)).rdF 0 (laneA 5 0x050) 0 16 ∧
    ends (.snrLow 40 209) (regs [(0, laneA 5 0x050, 210)] (lane40 5 1 0)) (fun z => bitOf (z.rd 0 (laneA 5 0x04C)) 16) = true ∧
    (lane40 2 1 0x200).trainMan 5 = true ∧ ends (.receiverLock 40 191) (lane40 2 1 0x200) (fun z => z.lnState 40 == 5) = true ∧
    (kept40.lane 40).kept = true ∧ ends (.receiverLock 40 191) kept40 (fun z => z.lnState 40 == 5) = true ∧
    ends (.relockTimeout 40) kept40 (fun z => z.lnState 40 == 1 && z.attempt 40 == 1) = true := by decide +kernel
/-- The whole-attempt limit passed in STEP_UP, loss of lock in TRAIN, in READY without AUTO_RETRAIN, and outside the states. -/
theorem test_lane_limits : attemptLimit < attemptLimit + 1 - 0 ∧
    ends (.trainTimeout 40) { lane40 (3 + 3 * 4096) 1 0 with beat := attemptLimit + 1 } (fun z => z.rdF 0 (lnA 40 0x50) 0 4 == 4) = true ∧
    ends (.lossOfLock 40) (lane40 2 1 0) (fun z => z.lnState 40 == 2 && z.rd 0 (lnA 40 0x48) == 1) = true ∧
    (regs [(0, laneA 5 0x040, 0x431)] (lane40 5 1 0)).autoRetrain 5 = false ∧
    ends (.lossOfLock 40) (regs [(0, laneA 5 0x040, 0x431)] (lane40 5 1 0)) (fun z => z.lnState 40 == 6) = true ∧
    ((lane40 6 1 0).lane 40).shedAt = none ∧ ends (.lossOfLock 40) (lane40 6 1 0) (fun z => z.rd 0 (lnA 40 0x48) == 0) = true := by
  decide +kernel
/-- TrainingFrameAnswers: preset 1 asked of a lane in TRAIN (R88: RESULT 5), and a field whose CRC fails. -/
def train40 : State := ((lane40 2 1 0).setCoefs 40 (presetCoefs 4)).setLane 40 { LaneRec.idle with req := some ⟨1, 1, 0, true⟩ }
theorem test_training : train40.lnState 40 = 2 ∧ train40.blkMode 5 = 1 ∧ train40.trainMan 5 = false ∧
    fieldWord (fieldOf 72) = some 72 ∧ fieldWord 0 = none ∧ isTapRequest (fld 72 0 4) (fld 72 4 2) (fld 72 6 3) = true ∧
    (train40.lane 40).result = 0 ∧ coefsOk (train40.coefs 40) = true ∧
    ends (.trainingFrame 40 (fieldOf 72) 0 true 200) train40 (fun z => (z.lane 40).result == 5 && (z.lane 40).echo == 8) = true ∧
    ends (.trainingFrame 40 (fieldOf 72) 0 true 200) train40 (fun z => z.coefs 40 == [0, 0, 0, 63, 0, 0] && (z.lane 40).clean == 1) = true ∧
    train40.genOn 40 = false ∧ ends (.trainingFrame 40 0 0 true 200) train40 (fun z => match z.out with
      | [.trainFrame l st c d] => l == 40 && st == 0 && (fieldWord c).isSome && (fieldWord d).isSome
      | _ => false) = true ∧
    ends (.trainingFrame 40 0 0 false 200) train40 (fun z => z.coefs 40 == [0, 2, -12, 41, -6, 2] && (z.lane 40).clean == 0) = true := by
  decide +kernel
/-- LaneBlockControl. -/
theorem test_lane_control : (lane40 0 1 0).admits (.w32 p0 (laneA 5 0x044) 1) = true ∧
    (lane40 5 1 0).admits (.w32 p0 (laneA 5 0x044) 2) = true ∧ (lane40 7 1 0).admits (.w32 p0 (laneA 5 0x044) 0x100) = true ∧
    (lane40 5 1 0).admits (.w32 p0 (laneA 5 0x044) 0x10000) = true ∧ (lane40 5 1 0).blkMode 5 = 1 ∧
    ends (.laneStart p0 5) (lane40 0 1 0) (fun z => z.lnState 40 == 1 && z.lnState 41 == 0) = true ∧
    ends (.laneStop p0 5) (lane40 5 1 0) (fun z => z.lnState 40 == 0) = true ∧ (lane40 7 1 0).mission 40 = false ∧
    ends (.laneRetrain p0 5 1) (lane40 7 1 0) (fun z => z.lnState 40 == 1) = true ∧
    ends (.laneShed p0 5 1) (lane40 5 1 0) (fun z => z.lnState 40 == 1) = true := by decide +kernel
/-- LaneRegisterWrites: legal and refused writes. -/
def idle5 : State := regs [(0, laneA 5 0x048, 1)] State.reset
theorem test_lane_writes :
    (lane40 5 1 0).admits (.w32 p0 (laneA 5 0x040) 0x124) = true ∧ idle5.pageLocked (pLane 5) = false ∧ idle5.seqState 5 = 1 ∧
    ends (.laneBlkCfgWrite p0 5 0x124) idle5 (fun z => z.rd 0 (laneA 5 0x040) == 0x124) = true ∧
    ends (.laneBlkCfgWrite p0 5 0x124) (lane40 5 1 0) (fun z => z.rd 0 (laneA 5 0x040) == 0x531 && bitOf (z.rd 0 (regA (pLane 5) 0x018)) 4) =
      true ∧
    (lane40 5 1 0).rdF 0 (lnA 40 0) 4 2 ≠ 3 ∧ ends (.laneDisable p0 40) (lane40 5 1 0) (fun z => !z.lnEn 40 && z.lnState 40 == 0) = true ∧
    ends (.prbsGenWrite p0 40 0xA1) idle5 (fun z => z.rd 0 (lnA 40 0x14) == 0xA1) = true ∧
    ends (.prbsGenWrite p0 40 0xB1) idle5 (fun z => z.rd 0 (lnA 40 0x14) == 0) = true := by decide +kernel
def man40 : State := lane40 5 1 0x200
theorem test_lane_writes' :
    man40.admits (.w32 p0 (lnA 40 0x1C) (setBit 1 31 true)) = true ∧ man40.farrierHeld 40 = false ∧ bitOf (1 : Word) 2 = false ∧
    man40.admits ⟨p0, 0, lnA 40 0x08, 3, false, true, 0x3F000000⟩ = true ∧
    ends (.injectGo p0 40 (1 + 10 * 256)) man40 (fun z => z.out == [.errors 40 0 1]) = true ∧
    ends (.injectGo p0 40 (2 + 10 * 256)) man40 (fun z => (z.lane 40).rateInj) = true ∧
    ends (.injectGo p0 40 (3 + 10 * 256 + 255 * 65536)) man40 (fun z => z.out == [.errors 40 0 255]) = true ∧
    ends (.injectGo p0 40 1) man40 (fun z => z.out == [] && z.rd 0 (lnA 40 0x1C) == 0) = true ∧
    ends (.txCoefWrite p0 40 0x3F000000) man40 (fun z => (z.lane 40).pendCoef == some 0x3F000000 &&
      ends (.txCoefApply 40) z (fun y => y.coefs 40 == [0, 0, 0, 63, 0, 0])) = true ∧
    ends (.txCoefWrite p0 40 0x40000000) man40 (fun z => (z.lane 40).pendCoef == none) = true := by decide +kernel
def chk40 : State := (regs [(0, lnA 40 0x18, 1)] (lane40 5 1 0)).setLane 40 { LaneRec.idle with rateInj := true, pendCoef := some 7 }
/-- LaneTestEvents. -/
theorem test_lane_events'' : State.reset.seqState 5 = 0 ∧ ends (.seqLoaded 5) State.reset (fun z => z.seqState 5 == 1 && z.ready (pLane 5)) = true ∧
    ends (.seqFault 5) (lane40 4 1 0) (fun z => z.seqState 5 == 4 && z.lnState 40 == 7) = true ∧
    bitOf (chk40.rd 0 (lnA 40 0x18)) 0 = true ∧ ends (.checkerLock 40) chk40 (fun z => bitOf (z.rd 0 (lnA 40 0x04)) 10) = true ∧
    ends (.checkerUnlock 40) (regs [(0, lnA 40 0x04, 1024)] chk40) (fun z => z.rd64 0 (lnA 40 0x30) == 1) = true ∧
    (chk40.lane 40).rateInj = true ∧ ends (.injectRateError 40) chk40 (fun z => z.out == [.errors 40 0 1]) = true := by decide +kernel

/-- An Ethernet block of eight one-lane ports with every lane READY. -/
def eth2 : State :=
  regs ([(0, laneA 2 0x040, 0x532), (0, laneA 2 0x048, 3), (0, portA 2 0x040, 2 + 3 * 16), (0, portA 2 0x058, 1)] ++
    (List.range 8).map fun i => (0, lnA (16 + i) 0x04, 5)) State.reset
def eee2 : State := regs [(0, portA 2 0x054, 256)] eth2
def first2 : State := (regs [(0, lnA 23 0x04, 2)] eth2).setLane 23 { LaneRec.idle with first := true }
/-- EthernetPorts. -/
theorem test_eth :
    eth2.portType 2 = 2 ∧ modesAgree 2 (eth2.econf 2) (eth2.blkMode 2) = true ∧ (7 : Nat) < portCount (eth2.econf 2) ∧ eth2.sparing 2 7 = false ∧
    (eth2.portLanes 2 7).all (fun l => eth2.lnState l == 5) = true ∧ eth2.ethUp 2 0 = true ∧
    ends (.ethLinkUp 2 7 true) eth2 (fun z => z.ethUp 2 7 && z.mission 23) = true ∧
    ends (.ethLinkUp 2 7 false) (regs [(0, portA 2 0x054, 5)] eth2) (fun z => !z.ethUp 2 7 && bitOf (z.rd 0 (portA 2 0x058)) 15) = true ∧
    (first2.lane 23).first = true ∧ first2.lnState 23 = 2 ∧ first2.trainMan 2 = false ∧ first2.portLanes 2 7 = [23] ∧
    ends (.ethLinkDown 2 0) eth2 (fun z => !z.ethUp 2 0 && z.rd 0 (portCtr 2 0 0x28) == 1) = true ∧
    bitOf (eee2.rd 0 (portA 2 0x054)) 8 = true ∧ eee2.econf 2 ≤ 4 ∧
    ends (.lpiEnter 2 0) eee2 (fun z => bitOf (z.rd 0 (portA 2 0x058)) 16 &&
      ends (.lpiExit 2 0) z (fun y => !bitOf (y.rd 0 (portA 2 0x058)) 16)) = true ∧
    eth2.admits (.w32 p0 (portA 2 0x040) 0x51) = true ∧ eth2.admits (.w32 p0 (portA 2 0x054) 0x10000) = true ∧ eth2.pageLocked (pPort 2) = false ∧
    ends (.portBlkCfgWrite p0 2 0x51) eth2 (fun z => z.rd 0 (portA 2 0x040) == 0x32 && bitOf (z.rd 0 (portA 2 0x048)) 8) = true ∧
    ends (.portBlkCfgWrite p0 0 0x51) State.reset (fun z => z.rd 0 (portA 0 0x040) == 0x51) = true ∧
    ends (.portEthCfgWrite p0 2 0x10000) eth2 (fun z => !z.ethUp 2 0) = true := by decide +kernel

/-- An Epvozel block with lane 5 of it READY at both ends. -/
def epv1 : State :=
  (regs [(0, laneA 1 0x040, 0x531), (0, laneA 1 0x048, 3), (0, portA 1 0x040, 1), (0, lnA 13 0x04, 5 + 2 * 16), (0, portA 1 0x05C, 1)]
    State.reset).setEpv 1 { EpvRec.idle with peerOk := 32, bad := [0, 0, 0, 0, 0, 15, 0, 0] }
/-- A good frame with header words H1 and H2, and one whose codewords fail. -/
def goodFrame (h1 h2 : Nat) : EpvFrame :=
  let mid : List Dword := BitVec.ofNat 64 h1 :: BitVec.ofNat 64 h2 :: List.replicate 12 0
  ⟨true, 3, 4, epvMarker :: mid ++ [BitVec.ofNat 64 (crc32c mid)], []⟩
/-- EpvozelFrames. -/
theorem test_epv :
    epv1.epvRuns 1 = true ∧ bitOf (epv1.rd 0 (portA 1 0x05C)) 9 = false ∧ (epv1.epvRec 1).rejoin = false ∧ epv1.lnState 13 = 5 ∧
    ends (.epvFrameSend 1) epv1 (fun z => z.rdF 0 (portA 1 0x064) 0 8 == 32 && bitOf (z.rd 0 (portA 1 0x064)) 17 &&
      z.rdF 0 (portA 1 0x064) 24 8 == 1) = true ∧
    epv1.admits (.w32 p0 (portA 1 0x060) 1) = true ∧ epv1.admits (.w32 p0 (portA 1 0x060) 2) = true ∧
    ends (.mapSwap p0 1) epv1 (fun z => ends (.epvFrameSend 1) z (fun y => y.rdF 0 (portA 1 0x064) 16 1 == 1 && !(y.epvRec 1).swap)) = true ∧
    ends (.rejoin p0 1) epv1 (fun z => (z.epvRec 1).rejoin) = true ∧
    ends (.epvFrameReceive 1 5 ⟨false, 0, 0, List.replicate 16 0, []⟩) epv1 (fun z => z.lnState 13 == 1) = true ∧
    ends (.epvFrameReceive 1 5 (goodFrame 0x0107AABBCCDD 0x3F21)) epv1 (fun z => (z.epvRec 1).peerEpoch == 7 &&
      (z.epvRec 1).rxBank == 1 && z.rd64 0 (portCtr 1 5 0) == 3) = true ∧
    ends (.epvFrameReceive 1 5 (goodFrame 0 0)) (regs [(0, portA 1 0x05C, 0x501)] epv1) (fun z =>
      !z.mission 13 && bitOf (z.rd 0 (portA 1 0x048)) 5) = true := by decide +kernel
/-- PlacementNeverOverlaps: lanes listed once. -/
theorem test_placement : [0, 3, 7].Nodup := by decide
/-- MacsecAndPtpMessages: in clear, under an SA with its last number, without a usable SA; a PTP message that matches nothing. -/
def sec2 : State := ents [(pPort 2, 0, 0x10, 0, [1]), (pPort 2, 0, 0x11, 0, [2 ^ 31 + 20 * 65536 + 1, 0xFFFFFFFF, 0xFFFFFFFF]),
  (pKey, 0, 1, 20, [2 ^ 31 + 2 ^ 28 + 4 * 2 ^ 24])] eth2
def sec3 : State := ents [(pPort 2, 0, 0x11, 0, [2 ^ 31 + 20 * 65536 + 3])] sec2
/-- The same with a key that does not exist, and a port in LPI. -/
def sec4 : State := ents [(pKey, 0, 1, 20, [0])] sec2
def lpi2 : State := regs [(0, portA 2 0x058, 65537)] eee2
/-- The same with strict validation, and a port whose messages time base 4 takes. -/
def strict2 : State := ents [(pPort 2, 0, 0x10, 0, [9])] eth2
def match2 : State := ents [(pTime, 0, 3, 4, [1 + 5 * 65536]), (pTime, 0, 4, 16, [256 + 16])] eth2
def ptp5 : PtpMsg := ⟨2, 0, 0, 5, 0, true, 0, 0, 64, none⟩
theorem test_macsec : bitOf (eth2.secy 2 0) 0 = false ∧
    ends (.macsecTxFrame 2 0 0x800) eth2 (fun z => z.out == [.ethFrame 2 0 none]) = true ∧
    bitOf (sec2.secy 2 0) 0 = true ∧ sec2.bypassed 2 0 0x800 = false ∧ sec2.saUsable 2 0 (sec2.txAn 2 0) = true ∧
    ends (.macsecTxFrame 2 0 0x800) sec2 (fun z => z.out == [.ethFrame 2 0 (some (2 ^ 64 - 1))] && z.saState 2 0 0 == 3) = true ∧
    sec3.saState 2 0 0 = 3 ∧ ends (.macsecTxFrame 2 0 0x800) sec3 (fun y => y.out == [] && y.ent (pPort 2) 0 0x15 0 2 == 1) = true ∧
    bitOf (sec4.sa 2 0 0 0) 31 = true ∧ sec4.saState 2 0 0 ≠ 3 ∧ sec4.sakAlive (fld (sec4.sa 2 0 0 0) 16 10) = false ∧
    ends (.macsecTxFrame 2 0 0x800) sec4 (fun z => z.saState 2 0 0 == 3 && bitOf (z.rd 0 (portA 2 0x048)) 7) = true ∧
    (lpi2.inLpi 2 0) = true ∧ ends (.macsecTxFrame 2 0 0x800) lpi2 (fun z => !z.inLpi 2 0) = true ∧
    (strict2.secyIn 2 0 0x88F7 none).1 = false ∧
    ends (.ptpMessageReceive ptp5) strict2 (fun z => z.rd 0 (regA pTime 0x068) == 0 && z.out == []) = true ∧
    match2.ptpMatch ptp5 = some 4 ∧ ends (.ptpMessageReceive ptp5) match2 (fun z => z.out == [.ptpStack 4]) = true ∧
    eth2.ptpMatch ptp5 = none ∧ bitOf (eth2.ent pTime 0 6 (ptpPort ptp5) 0) 31 = false ∧
    ends (.ptpMessageReceive ptp5) eth2 (fun z => z.rd 0 (regA pTime 0x068) == 1 && bitOf (z.rd 0 (regA pTime 0x044)) 4) = true := by
  decide +kernel
/-! ### Keys -/

/-- A key store in SERVICE with the root of P0 (node 1), a node 20 below it and a node 21 below that, entropy good. -/
def keyed : State :=
  ents [(pKey, 0, 1, 1, [2 ^ 31 + 2 ^ 28 + 2 ^ 24]), (pKey, 0, 1, 20, [2 ^ 31 + 2 ^ 28 + 2 * 2 ^ 24 + 2 ^ 16 + 1]),
    (pKey, 0, 1, 21, [2 ^ 31 + 2 ^ 28 + 2 * 2 ^ 24 + 2 * 2 ^ 16 + 20])]
    { regs [(0, regA pKey 0x040, 16 + 1024)] run with key := { run.key with confirm := some (0xD5EA, 0) } }
/-- A request of P0 by its KEY.REQ word, with an armed code. -/
def keyReq (req : Nat) (armed : Option (BitVec 16)) : KeyReq := ⟨0, false, wd req, 0, 0, 0, [], [], [], armed⟩
/-- SealAndRmaNeedConfirm: armed now, armed a second ago, and armed too long ago. -/
theorem test_key_confirm : State.reset.admits (hostAccess p0 pKey 0x064 0xD5EA) = true ∧
    ends (.keyConfirm p0 0xD5EA) State.reset (fun z => z.key.confirm == some (0xD5EA, 0)) = true ∧
    ends (.keyConfirm (.p 1) 0xD5EA) State.reset (fun z => z.key.confirm == none) = true ∧ keyed.stage = 1 ∧ keyed.fuse.lc = 1 ∧
    (keyReqOf ⟨pKey, 0, 0, 1, 0, keyArgs 0 (regs [(0, regA pKey 0x050, 8)] keyed)⟩).op = 8 ∧
    (keyServe (keyReqOf ⟨pKey, 0, 0, 1, 0, keyArgs 0 { regs [(0, regA pKey 0x050, 8)] keyed with beat := 345600000 }⟩) keyed).1 = 0 ∧
    (keyServe (keyReqOf ⟨pKey, 0, 0, 1, 0, keyArgs 0 { regs [(0, regA pKey 0x050, 8)] keyed with beat := 345600001 }⟩) keyed).1 = 11 ∧
    (keyServe (keyReq 9 (some 0x0A3A)) keyed).1 = 0 ∧ (keyServe (keyReq 9 none) keyed).1 = 11 := by decide +kernel
/-- KeyRequestsServed: DERIVE with and without FRESH, INVALIDATE, NEW_EPOCH, SEAL_DEBUG, RMA, and a refusal. -/
theorem test_key_requests : (keyServe (keyReq (1 + 2 * 16 + 4096 + 65536) none) keyed).1 = 0 ∧
    (keyServe (keyReq (1 + 2 * 16 + 65536) none) keyed).1 = 0 ∧
    dat (keyServe (keyReq (1 + 2 * 16 + 4096 + 65536) none) keyed).2.1 0 = 17 ∧
    dat (keyServe (keyReq (1 + 2 * 16 + 4096 + 65536) none) keyed).2.1 1 = 1 ∧
    (keyServe (keyReq (6 + 20 * 65536) none) keyed).1 = 0 ∧ keyed.descends 20 8 21 = true ∧
    (keyServe (keyReq (6 + 20 * 65536) none) keyed).2.2.usable 21 = false ∧
    (keyServe (keyReq 7 none) keyed).1 = 0 ∧ (keyServe (keyReq 7 none) keyed).2.2.epoch 0 = 1 ∧ keyed.descends 1 8 21 = true ∧
    (keyServe (keyReq 8 (some 0xD5EA)) keyed).2.2.fuse = ⟨1, 15, 0⟩ ∧ (keyServe (keyReq 9 (some 0x0A3A)) keyed).2.2.fuse = ⟨2, 0, 0⟩ ∧
    (keyServe (keyReq (6 + 17 * 65536) none) keyed).1 = 2 := by decide +kernel
/-- A node that is being destroyed, with the transmit SA bound to it: one of whose handle a ZEROING_DONE frees is exhausted. -/
def zeroing : State := ents [(pKey, 0, 1, 20, [2 ^ 31 + 3 * 2 ^ 28, 5]), (pPort 2, 0, 0x11, 5, [2 ^ 31 + 20 * 2 ^ 16])] keyed
theorem test_zeroing_sa : bitOf (zeroing.sa 2 1 1 0) 31 = true ∧ fld (zeroing.sa 2 1 1 0) 16 10 = 20 ∧ zeroing.saState 2 1 1 = 0 ∧
    (zeroing.saDead 2 5).saState 2 1 1 = 3 ∧ bitOf ((zeroing.saDead 2 5).rd 0 (portA 2 0x048)) 7 = true := by decide +kernel
/-- KeyStoreEvents. -/
theorem test_key_events : keyed.entropyOk = true ∧ State.reset.entropyOk = false ∧
    20 ∈ zeroing.nodes ∧ bitOf (zeroing.node 20 0) 31 = true ∧ zeroing.nodeState 20 = 3 ∧ zeroing.node 20 1 = 5 ∧
    zeroing.nodeState 21 ≠ 3 ∧
    ends .entropyFail keyed (fun z => !z.entropyOk && bitOf (z.rd 0 (regA pKey 0x044)) 3) = true ∧
    ends .entropyRestored State.reset (fun z => z.entropyOk) = true ∧
    ends .tamper keyed (fun z => !z.usable 20 && z.key.tampered && z.nodeKey 20 == 0) = true ∧ State.reset.stage ≠ 2 ∧
    State.reset.key.tampered = false ∧ (∀ r ∈ State.reset.key.keep, 17 ≤ r.handle) ∧ State.reset.sealBlown = false ∧
    State.sealBlown { State.reset with fuse := ⟨1, 8, 0⟩ } = true ∧
    ends (.debugAccess 0) State.reset (fun z => bitOf (z.rd 0 (regA pKey 0x040)) 9) = true := by decide +kernel
theorem test_key_root : State.reset.deviceRoot = some Config.rootKey := rfl

/-! ### Ingress -/

/-- A packet at block 2, port 0, of 100 bytes to 1.0.0.0 port 7. -/
def pkt : Packet := ⟨2, 0, false, 0, 1, 7, none, 0, 0, 5, 0, 0, false, 100, true, false, none, none, .opaque [1, 2, 3]⟩
/-- A descriptor in flight at queue 3. -/
def unitAt (desc : Nat) (s : State) : State :=
  s.setQrec 3 false { QRec.idle with flight := [⟨0, false, BitVec.ofNat 256 desc, 0, false, none, none⟩] }
/-- The Ethernet block with a flow entry of slice 0 for that packet, to port 5 slot 1, an opaque essence in PASS; queue 3 bound to it. -/
def flow5 : State :=
  let s := ents [(pIng 0, 0, 1, 9, [2 ^ 31 + 2 * 64 + 5 * 4096 + 2 ^ 20, 7, 1]), (pXpt, 0, 1, 81, [2 ^ 31 + 5 * 2 ^ 28 + 4 * 2 ^ 18 + 100, 2 ^ 25]),
    (pIng 0, 0, 2, 5, [2, 0, 2 ^ 17]), (pIng 0, 0, 6, 5, [3])]
    (regs [(0, qA 3 false + 8, 65 + 5 * 256 + 5 * 65536), (0, qA 3 false + 0x18, 1)] eth2)
  unitAt (2 ^ 192 + 2 ^ 89 + 100 * 2 ^ 64) s
/-- IngressPackets. -/
theorem test_ing_packets : State.reset.portUp 2 0 = false ∧ flow5.portUp 2 0 = true ∧ bitOf (flow5.secy 2 0) 0 = false ∧
    eth2.classify pkt = none ∧ eth2.portQueue 2 0 = none ∧ flow5.classify pkt = some (0, 9) ∧
    ends (.packetArrive pkt) eth2 (fun z => bitOf (z.rd 0 (regA (pIng 0) 0x048)) 7) = true ∧
    ends (.packetArrive pkt) flow5 (fun z => z.ent (pIng 0) 0 5 9 0 == 1 && z.ent (pIng 0) 0 5 9 2 == 100 &&
      ((z.padRec 5).units.map fun u => u.slot) == [1]) = true ∧
    ends (.packetArrive { pkt with dport := 319 }) eth2 (fun z => z.rd 0 (regA pTime 0x068) == 1 && z.pad == eth2.pad) = true ∧
    ends (.packetArrive pkt) (regs [(0, qA 2 true + 8, 1 + 256 + 16 * 65536), (0, regA (pIng 0) 0x040, 1)] eth2)
      (fun z => z.out.length == 1 && bitOf (z.rd 0 (regA (pIng 0) 0x048)) 7 == false) = true ∧
    ends (.packetArrive { pkt with errored := true }) flow5 (fun z => bitOf (z.rd 0 (regA (pIng 0) 0x048)) 6 && z.pad == flow5.pad) = true ∧
    ends (.packetArrive { pkt with readable := false }) flow5 (fun z => z.ent (pIng 0) 0 5 9 4 == 1 && z.pad == flow5.pad) = true := by
  decide +kernel
/-- The first descriptor in flight at queue 3 is finished with a status. -/
def finished (z : State) : Option Nat := ((z.qrec 3 false).flight.head?.bind (·.fin)).map (·.status)
theorem test_ing_host : (eth2.qrec 3 false).flight = [] ∧ flow5.qTarget 3 false = 5 ∧ flow5.qBind 3 false = 5 ∧ flow5.qState 3 false = 1 ∧
    (chainOf (flow5.qrec 3 false).flight).length = 1 ∧ flow5.hostUnitOk 3 5 1 5 100 (.opaque [1, 2, 3]) = true ∧
    flow5.padState 5 = 3 ∧ flow5.fsOf 5 1 = none ∧ Tab.get (fun _ => none) (flow5.padRec 5).tokens 1 = none ∧
    ((flow5.unitsOf 5 1 true true 0 (.opaque [1, 2, 3])).1.map fun u => u.size) = [1] ∧ (flow5.padRec 5).fill = 0 ∧ flow5.pages 5 = 16 ∧
    ends (.hostUnitLaunch 3 (.opaque [1, 2, 3])) flow5 (fun z => ((z.padRec 5).units.map fun u => u.slot) == [1] &&
      finished z == some 0) = true := by decide +kernel
/-- The launch of a unit whose slot has no descriptor, before its time, and more than a beat after it. -/
theorem test_ing_launch :
    ends (.hostUnitLaunch 3 (.opaque [1])) (unitAt (2 * 2 ^ 192 + 2 ^ 89 + 100 * 2 ^ 64) flow5) (fun z => finished z == some 6) = true ∧
    ends (.hostUnitLaunch 3 (.opaque [1])) (unitAt (2 ^ 192 + 2 ^ 89 + 2 ^ 92 + 2 ^ 160 + 2 ^ 64) flow5) (fun z => finished z == none) = true ∧
    ends (.hostUnitLaunch 3 (.opaque [1])) (unitAt (2 ^ 192 + 2 ^ 89 + 2 ^ 92 + 2 ^ 64 + (2 ^ 64 - 200000) * 2 ^ 128) flow5)
      (fun z => finished z == some 2) = true := by decide +kernel
/-- MergeTakesOnce: a first copy is taken. -/
theorem test_merge : (flow5.mergeTake 5 1 0 false pkt).1 = true ∧
    (((flow5.mergeTake 5 1 0 false pkt).2).mergeTake 5 1 0 true pkt).1 = false := by decide +kernel
/-- The port 5 of `flow5` with one opaque unit of unit number -5 in its paddock that has been shown, in PASS and on the grid. -/
def shown5 : State := flow5.setPad 5 { PadRec.idle with units := [⟨1, -5, 0, [], [⟨0, 7, true⟩, ⟨1, 8, false⟩], ⟨0, -1000, 1⟩, true, []⟩] }
def grid5 : State := ents [(pIng 0, 0, 2, 5, [1]), (pIng 0, 0, 6, 5, [2])] shown5
/-- An SDI source in ACQUIRE whose counted frame matches, or does not. -/
def sdi6 (ok : Bool) (good bad st : Nat) : State :=
  (ents [(pXpt, 0, 1, 96, [2 ^ 31 + 4 * 2 ^ 28 + 100, 3 * 2 ^ 28 + 2 * 2 ^ 24 + 2 ^ 22 + 0]), (pIng 0, 0, 2, 6, [1]), (pIng 0, 0, 6, 6, [st])]
    State.reset).setPad 6 { PadRec.idle with trs := ⟨true, some ⟨1125, ok, true⟩, good, bad, 1125, 0, false, []⟩ }
/-- IngressUnits: presentation in PASS and on the grid, the structure count of SDI, its time-out, and a silent plane. -/
theorem test_ing_present : flow5.padState 6 ≠ 2 ∧ flow5.padState 6 ≠ 3 ∧ shown5.padState 5 = 3 ∧ (shown5.inDesc 5 1).mode = 0 ∧
    ((shown5.padRec 5).units.find? fun x => shown5.reached x.shown).isSome = true ∧
    ends (.unitPresent 5) shown5 (fun z => (z.padRec 5).units == [] && ((Tab.get (fun _ => []) z.fab.due 5).map fun e => e.1) == [0, 1]) = true ∧
    grid5.padState 5 = 2 ∧ grid5.slotsOf 5 = [1] ∧ (Tab.get (fun _ => none) (grid5.padRec 5).last 1 : Option Int) = none ∧
    ends (.unitPresent 5) grid5 (fun z => (z.padRec 5).units == [] && (Tab.get (fun _ => none) (z.padRec 5).last 1).isSome) = true := by
  decide +kernel
/-- A grid port 5 with an ancillary slot 1 that extraction at the locked SDI port 6 feeds, without a packet. -/
def bare5 : State := ents [(pXpt, 0, 1, 81, [2 ^ 31 + 3 * 2 ^ 28 + 2 ^ 24 + 4 * 2 ^ 18 + 100, 2 ^ 25]), (pIng 0, 0, 2, 5, [1]),
  (pIng 0, 0, 6, 5, [2]), (pIng 0, 0, 3, 6, [2, 5 + 256])] (sdi6 true 1 0 9)
theorem test_ing_bare : bare5.padState 5 = 2 ∧ bare5.slotsOf 5 = [1] ∧ (bare5.inDesc 5 1).kind = 3 ∧ (bare5.inDesc 5 1).mode ≠ 1 ∧
    bare5.fsOf 5 1 = none ∧ ((bare5.ancSource 5 1 none).any fun x => bare5.trsLock x) = true ∧
    ends (.unitPresent 5) bare5 (fun z => (Tab.get (fun _ => []) z.fab.due 5).length == 1) = true := by decide +kernel
theorem test_ing_sdi : ((sdi6 true 1 0 1).inDesc 6 0).sdiLine = 5280 ∧ ((sdi6 true 1 0 1).inDesc 6 0).total = 1125 ∧
    ends (.sdiEav 6 ⟨1, false, false, false, none, [], [], []⟩) (sdi6 true 1 0 1) (fun z => z.trsLock 6 && z.ingSt 6 7 == 1 &&
      (z.padRec 6).trs.line == 1) = true ∧
    ends (.sdiEav 6 ⟨1, false, false, true, none, [], [], []⟩) (sdi6 false 0 1 9) (fun z => !z.trsLock 6 && bitOf (z.rd 0 (regA (pIng 0) 0x048)) 2) =
      true ∧
    (sdi6 true 1 0 9).padState 6 = 1 ∧ ((sdi6 true 1 0 1).inDesc 6 0).frameOk ⟨1125, true, true⟩ = true ∧
    ends (.sdiEav 6 ⟨9, false, true, true, none, [], [], []⟩) (sdi6 true 1 0 1) (fun z => (z.padRec 6).trs.frame ==
      some ⟨1125, false, true⟩) = true ∧
    ends (.trsTimeout 6) (sdi6 true 1 0 9) (fun z => z.trsLock 6) = true ∧
    ends (.trsTimeout 6) { sdi6 true 1 0 9 with beat := 691200 } (fun z => !z.trsLock 6 && bitOf (z.rd 0 (regA (pIng 0) 0x048)) 2) = true := by
  decide +kernel
def merge7 : State := { (ents [(pIng 0, 0, 7, 7 * 16 + 2, [1])] State.reset).setMerge 7 2 { MergeRec.idle with lastA := some 0 } with
  beat := 691200 }
theorem test_ing_plane : (merge7.mergeRec 7 2).lastA = some 0 ∧ fld (merge7.mergeEnt 7 2 0) 0 2 = 1 ∧ 0 + merge7.losBeats 7 ≤ merge7.beat ∧
    ends (.mergePlaneDown 7 2 false) merge7 (fun z => fld (z.mergeEnt 7 2 0) 0 2 == 2 && bitOf (z.rd 0 (regA (pIng 0) 0x048)) 3) = true := by
  decide +kernel
/-- CutAndDelay: P0's cut, a partition that owns no port, and the delay at its bounds. -/
theorem test_ing_cut : State.reset.admits (.w32 .m (regA (pIng 0) 0x080) 32) = true ∧ State.reset.admits (.w32 .m (regA (pIng 0) 0x050) 0) = true ∧
    State.reset.admits (.w32 p0 (regA (pIng 0) 0x050) 0) = true ∧
    ends (.padDWrite p0 0 3 4000001) State.reset (fun z => z.rd 0 (regA (pIng 0) 0x05C) == 0 && z.rdF 0 (regA (pIng 0) 0x044) 0 4 == 2) = true ∧
    ends (.padDWrite p0 4 3 5) State.reset (fun z => z.rd 0 (regA (pIng 4) 0x05C) == 0) = true := by decide +kernel
theorem test_ing_cut' : State.partOwner (ents [(pPart, 0, 1, 5, [3])] State.reset) 1 5 = 3 ∧
    ends (.ingCut (.p 3) 0 0 0xFF) (ents [(pPart, 0, 1, 5, [3])] vfs) (fun z => z.rd 3 (regA (pIng 0) 0x080) == 32 &&
      z.padState 5 == 4 && z.padState 6 == 0) = true := by decide +kernel
/-! ### The fabric and the take engine -/

/-- One path from input 5 to output 7 in every stage, and a word that waits at the input. -/
def path5 : Path := ⟨5, 0, 0⟩
def fab5 : State := { run with fab := { run.fab with
  ing := [(7, some path5)], mid := [(7, some path5)], egr := [(7, some path5)], due := [(5, [(0, fword 9 true true false 0)])] } }
/-- FabricLatency. -/
theorem test_fab_latency : fab5.entering = [(5, fword 9 true true false 0)] ∧ pathsOf fab5.fab.ing = [(7, path5)] ∧
    (Nat.repeat State.fabricBeat 25 fab5).fab.leaving = [(7, fword 9 true true false 0)] ∧
    (Nat.repeat State.fabricBeat 24 fab5).fab.leaving = [] := by decide +kernel
/-- Swaps of outputs 7 and 8 to inputs 5 and 4, which share a group's channels; and swaps on their way through the stages. -/
def swap7 : Swap := ⟨.cmd 3 1, 0, [(7, some path5)], .beat 0, 0, 0, 0⟩
def swap8 : Swap := ⟨.cmd 3 2, 0, [(8, some ⟨4, 0, 1⟩)], .beat 0, 0, 0, 0⟩
def swaps (l : List Swap) (b : Nat) : State := { run with beat := b, fab := { run.fab with swaps := l } }
/-- FabricSwaps: one swap due, two that conflict, and none due with swaps at the middle and at the egress stage. -/
theorem test_fab_swap : swapRivals [swap7] = [] ∧ (swaps [swap7] 3).swapConflict (swaps [swap7] 3).swapBase [swap7] = false ∧
    (swaps [swap7] 3).fab.clash ≠ some 3 ∧
    ends .fabricSwap (swaps [swap7] 3) (fun z => z.fab.ing == [(7, some path5)] && z.fab.swaps == [{ swap7 with stage := 1, beat := 3 }]) =
      true ∧
    swapRivals [swap7, swap8] = [] ∧
    (swaps [swap7, swap8] 3).swapConflict (swaps [swap7, swap8] 3).swapBase [swap7, swap8] = true ∧
    ends .fabricSwap (swaps [swap7, swap8] 3) (fun z => z.fab.ing == [] && bitOf (z.rd 0 (regA pXpt 0x04C)) 5) = true := by decide +kernel
/-- A swap due in a beat in which another's swap has been refused. -/
theorem test_fab_clash : ends .fabricSwap { swaps [swap7] 3 with fab := { (swaps [swap7] 3).fab with clash := some 3 } }
    (fun z => z.fab.ing == [] && z.fab.swaps != []) = true := by decide +kernel
theorem test_fab_stages : ends .fabricSwap (swaps [{ swap7 with stage := 1 }] 10) (fun z => z.fab.mid == [(7, some path5)] &&
      z.fab.egr == []) = true ∧
    ends .fabricSwap (swaps [{ swap7 with stage := 2 }] 20) (fun z => z.fab.egr == [(7, some path5)]) = true ∧
    ends .fabricSwap (swaps [{ swap7 with stage := 2 }] 19) (fun z => z.fab.egr == []) = true := by decide +kernel
/-- A move of output 7 from layer 0 to layer 1. -/
def move7 : MoveRec := ⟨4, [⟨path5, ⟨5, 1, 0⟩, [7]⟩], 2, none, 0, false, false, none, false⟩
def moves (l : List MoveRec) (b : Nat) : State := { fab5 with beat := b, fab := { fab5.fab with moves := l, moveId := 5 } }
/-- ChannelsCarryOneInput. -/
theorem test_fab_channels : (∀ e ∈ busyPaths (moves [move7] 2).fab.ing ((moves [move7] 2).fab.freed 2) (moves [move7] 2).fab.targets,
      ∀ e' ∈ busyPaths (moves [move7] 2).fab.ing ((moves [move7] 2).fab.freed 2) (moves [move7] 2).fab.targets,
        pathClash e.1 e.2 e'.1 e'.2 = false) ∧ (moves [move7] 2).swapBase = (moves [move7] 2).fab.ing ∧
    ((moves [move7] 2).fab.moves.map fun m => m.id).Nodup ∧ (∀ m ∈ (moves [move7] 2).fab.moves, m.id < 5 ∧ m.started = false) ∧
    ends (.moveStart (.scheduled 4)) (moves [move7] 2) (fun z => z.fab.holdIng 2 == [(7, path5), (7, ⟨5, 1, 0⟩)]) = true := by
  decide +kernel
/-- FabricMoves: full, started, too early, matched, and failed; then the switch at the egress stage, and the end. -/
theorem test_fab_move_start : (moves (List.replicate 64 { move7 with started := true }) 2).fab.startingIn 2 = 64 ∧
    (moves [move7] 2).fab.moving = 0 ∧ ends (.moveStart (.scheduled 4)) (moves [move7] 2) (fun z =>
      z.fab.moves == [{ move7 with started := true, joined := true }]) = true := by decide +kernel
def begun7 : MoveRec := { move7 with started := true, joined := true }
theorem test_fab_move_compare : ends (.moveCompare 4 true) (moves [begun7] 21) (fun z => z.fab.moves == [begun7]) = true ∧
    ends (.moveCompare 4 true) (moves [begun7] 22) (fun z => z.fab.moves == [{ begun7 with compared := some 22, matched := true }]) = true ∧
    ends (.moveCompare 4 false) (moves [begun7] 22) (fun z => z.fab.egr == [(7, some path5)] && z.rd 0 (regA pXpt 0x068) == 1 &&
      bitOf (z.rd 0 (regA pXpt 0x04C)) 3 && z.fab.moves == [{ begun7 with compared := some 22 }]) = true := by decide +kernel
/-- A move compared in beat 22 that matched, or did not, in a later beat. -/
def after7 (ok : Bool) (b : Nat) : State :=
  (moves [{ begun7 with compared := some 22, matched := ok }] b).moveNext { begun7 with compared := some 22, matched := ok }
theorem test_fab_move_next : (after7 true 23).fab.egr = [(7, some ⟨5, 1, 0⟩)] ∧ (after7 true 23).fab.ing = [(7, some path5)] ∧
    ((moves [{ begun7 with compared := some 22, matched := true }] 24).moveNext { begun7 with compared := some 22, matched := true }).fab.ing =
      [(7, some ⟨5, 1, 0⟩)] ∧ (after7 true 24).rd 0 (regA pXpt 0x064) = 1 ∧ (after7 true 24).fab.moves = [] ∧
    (after7 false 24).fab.ing = [(7, some path5)] ∧ (after7 true 22).fab.moves.length = 1 := by decide +kernel
/-- SliceService: middle slice 0 is slice 16; SLOW_N is set to 1. -/
def slow16 : State := { regs [(0, regA pXpt 0x040, 16 + 65536)] run with
  beat := 10, fab := { run.fab with misses := [(16, [9])], slow := [17], flight := [[], [], [], [], [], [], [], [], [], [], [(6, FWord.idle)]] } }
theorem test_slice_slow : slow16.slowN = 1 ∧ slow16.clearMs = 1 ∧ ends (.creditMiss 16 5) slow16 (fun z => z.fab.slow == [17, 16] &&
      bitOf (z.rd 0 (regA pXpt 0x04C)) 0 && z.ent pXpt 0 6 16 1 == 1) = true ∧
    ends (.creditMiss 3 5) slow16 (fun z => z.fab.slow == [17]) = true ∧
    ends (.slowClear 17) slow16 (fun z => z.fab.slow == [17]) = true ∧
    ends (.slowClear 17) { slow16 with beat := 345600 } (fun z => z.fab.slow == []) = true ∧
    ends (.sliceStall 0) slow16 (fun z => z.fab.aged 10 == [] && bitOf (z.rd 0 (regA pXpt 0x04C)) 1) = true := by decide +kernel
theorem test_slice_out : State.reset.admits (.w32 p0 (regA pXpt 0x054) 1) = true ∧ run.admits (.w32 p0 (regA pXpt 0x058) 1) = true ∧
    ends (.midOutWrite p0 1) fab5 (fun z => z.midOut 0 && z.fab.evac == [0]) = true ∧
    ends (.midReturn p0 3) { regs [(0, regA pXpt 0x054, 3)] run with fab := { run.fab with slow := [17] } } (fun z =>
      !z.midOut 0 && z.midOut 1 && bitOf (z.rd 0 (regA pXpt 0x04C)) 6) = true := by decide +kernel
theorem test_slice_degraded : islandSlice 12 0 = some 0 ∧
    ends (.islandDegraded ⟨12, 0⟩ 2 1 6) slow16 (fun z => z.fab.degraded == [0] && bitOf (z.rd 0 (regA pXpt 0x04C)) 2 &&
      z.xingWorst == 0x06000102 && z.xingPairs == [⟨0, 6, 2, 1⟩] && z.pwr.degraded == [3072]) = true ∧
    ends (.degradedClear ⟨12, 0⟩) { slow16 with fab := { slow16.fab with degraded := [0] } } (fun z => z.fab.degraded == []) = true := by
  decide +kernel
/-- Partition 3 owns output 7 and stages a silence of it. -/
def stage3 : State := ents [(pPart, 0, 2, 7, [3]), (pTake, 0, 3, 3, [8]), (pTake, 3, 1, 0, [2 ^ 31 + 0x1FFF * 65536 + 7])] run
/-- TakeCommands: badly formed, another tag, a STOP of another partition than P0, and a COMMIT that joins the queue. -/
theorem test_take_commit : stage3.admits (.w32 (.p 3) (regA pTake 0x060) (takeWord 1 0 1)) = true ∧
    ends (.commit (.p 3) 0 0) stage3 (fun z => z.rd 3 (regA pTake 0x068) == 0x103 && z.rd 3 (regA pTake 0x064) == 0) = true ∧
    ends (.commit (.p 3) 0 1) (regs [(3, regA pTake 0x058, 9)] stage3) (fun z => z.rdF 3 (regA pTake 0x068) 0 8 == 2) = true ∧
    ends (.stop (.p 3) 0 1) stage3 (fun z => z.rdF 3 (regA pTake 0x068) 0 8 == 4 && z.rd 3 (regA pTake 0x064) == 1) = true ∧
    ends (.commit (.p 3) 0 1) (ents [(pTime, 0, 1, 0, [1]), (pXpt, 0, 2, 7, [2 ^ 31 + 2 ^ 28 + 2 ^ 19])] stage3) (fun z =>
      z.rdF 3 (regA pTake 0x068) 0 8 == 0 && z.queueUsed 3 == 1 && (z.tx (.cmd 3 0)).isSome) = true := by decide +kernel
theorem test_take_stop_part : stage3.admits (.w32 (.p 3) (regA pTake 0x060) (takeWord 5 3 0)) = true ∧
    ends (.stopPart (.p 3) 3) stage3 (fun z => z.rdF 3 (regA pTake 0x068) 0 12 == 0x503) = true := by decide +kernel
/-- A command of partition 3 with tag 0 for output 7: source 5, mark and arm point at an instant. -/
def txOf (state : Nat) (arm : Int) (opened : Option Nat) (mark : Option At) (noPlace : Bool) (paths : List Path) : Tx :=
  ⟨.cmd 3 0, false, 0, state, ⟨0, 0, 1⟩, ⟨0, arm, 1⟩, opened, noPlace, false, [], [⟨7, some 5, 1, mark, ⟨0, arm, 1⟩, false, false, false, paths⟩], 5, 0,
    0⟩
def tx3 (t : Tx) : State := { stage3 with take := { stage3.take with txs := [t] } }
def wait0 : State := tx3 (txOf 0 1 none none false [])
theorem test_take_strike : (run.admits (.w32 (.p 3) (regA pTake 0x060) (takeWord 2 0 0)) &&
      run.admits (.w32 (.p 3) (regA pTake 0x060) (takeWord 3 0 0)) && run.admits (.w32 (.p 3) (regA pTake 0x060) (takeWord 6 0 0))) = true ∧
    ends (.strike (.p 3)) stage3 (fun z => z.rdF 3 (regA pTake 0x068) 0 12 == 0x212) = true ∧ wait0.tooLate (txOf 0 1 none none false []) = false ∧
    ends (.strikeFrom (.p 3)) wait0 (fun z => z.rdF 3 (regA pTake 0x068) 0 12 == 0x310 && z.take.txs == []) = true ∧
    ends (.strike (.p 3)) (tx3 (txOf 2 1 none none false [])) (fun z => z.rdF 3 (regA pTake 0x068) 0 12 == 0x211 &&
      z.take.txs.length == 1 && bitOf (z.rd 3 (regA pTake 0x048)) 1) = true ∧
    ends (.clear (.p 3)) stage3 (fun z => z.staged 3 0 == 0 && z.rdF 3 (regA pTake 0x068) 0 8 == 0) = true := by decide +kernel
/-- TakeEngine: rehearsal. -/
theorem test_take_rehearsal : wait0.tx (.cmd 3 0) = some (txOf 0 1 none none false []) ∧ wait0.reached ⟨0, 0, 1⟩ = true ∧
    wait0.accepting = true ∧ ends (.rehearsalWindow (.cmd 3 0)) wait0 (fun z => z.take.txs == [txOf 0 1 (some 0) none false []]) = true ∧
    (tx3 (txOf 0 1 (some 0) none false [])).rehearsing = some (.cmd 3 0) ∧ wait0.rehearsing = none ∧
    ends (.rehearsalDone (.cmd 3 0) none) (tx3 (txOf 0 1 (some 0) none false [])) (fun z =>
      z.take.txs == [txOf 0 1 (some 0) none true []]) = true ∧
    (tx3 (txOf 0 1 (some 0) none false [])).planOk (txOf 0 1 (some 0) none false []) ⟨[[path5]], []⟩ = true ∧
    ends (.rehearsalDone (.cmd 3 0) (some ⟨[[path5]], []⟩)) (tx3 (txOf 0 1 (some 0) none false [])) (fun z =>
      z.take.txs == [txOf 1 1 (some 0) none false [path5]]) = true ∧
    (tx3 (txOf 0 1 (some 0) none false [])).planOk (txOf 0 1 (some 0) none false []) ⟨[[⟨4, 0, 0⟩]], []⟩ = false := by decide +kernel
/-- The arm grant: before the arm point, of a QUEUED command with and without a rehearsal, and of a REHEARSED one. -/
theorem test_take_arm : wait0.reached ⟨0, 1, 1⟩ = false ∧
    ends (.armGrant (.cmd 3 0)) (tx3 (txOf 0 0 (some 0) none false [])) (fun z => z.take.txs == [] &&
      z.take.ends.map (fun e => e.state) == [5]) = true ∧
    ends (.armGrant (.cmd 3 0)) (tx3 (txOf 0 0 (some 0) none true [])) (fun z => z.take.ends.map (fun e => e.state) == [6]) = true ∧
    ends (.armGrant (.cmd 3 0)) (tx3 (txOf 1 0 (some 0) (some ⟨0, 9, 1⟩) false [path5])) (fun z =>
      z.take.txs.map (fun t => t.state) == [2] && z.fab.swaps == [⟨.cmd 3 0, 0, [(7, some path5)], .mark ⟨0, 9, 1⟩, 0, 0, 0⟩]) = true := by
  decide +kernel
/-- An armed command whose swap waits, in a stage, for its SWP word; the source's word is SWP or not. -/
def armed3 (due : SwapDue) (stage b : Nat) (swp : Bool) : State := { tx3 (txOf 2 0 (some 0) none false [path5]) with
  beat := b, fab := { stage3.fab with swaps := [⟨.cmd 3 0, 0, [(7, some path5)], due, stage, 0, 77⟩], flight := [[(5, fword 1 false false swp 0)]] } }
theorem test_take_commits : ends (.memberCommit (.cmd 3 0) 0) (armed3 (.beat 0) 3 30 false) (fun z => z.ent pXpt 0 3 7 0 == 0x80000005 &&
      z.ent pXpt 0 3 7 2 == 77 && z.take.txs == []) = true ∧
    ((armed3 .swp 0 1 true).waitingSwap (.cmd 3 0) 0).isSome = true ∧
    (armed3 .swp 0 1 true).swapConflict (armed3 .swp 0 1 true).swapBase (armed3 .swp 0 1 true).fab.swaps = false ∧
    swapRivals (armed3 .swp 0 1 true).fab.swaps = [] ∧ (armed3 .swp 0 1 true).fab.clash ≠ some 1 ∧ run.waitingSwap (.cmd 3 0) 0 = none ∧
    ends (.anyfmtSwap (.cmd 3 0) 0) (armed3 .swp 0 1 true) (fun z => z.fab.ing == [(7, some path5)]) = true ∧
    ends (.anyfmtSwap (.cmd 3 0) 0) (armed3 .swp 0 1 false) (fun z => z.fab.ing == []) = true ∧
    ends (.noSwp (.cmd 3 0) 0) (armed3 .swp 0 345600001 false) (fun z => z.fab.ing == [(7, some path5)] &&
      z.rd 3 (regA pTake 0x078) == 1) = true := by decide +kernel
theorem test_take_firmware : (regs [(0, regA pMgt 0x040, 2)] run).mgtMode = 1 ∧ (regs [(0, regA pMgt 0x040, 2)] run).mgtReady = false ∧
    ends .firmwareReady (regs [(0, regA pMgt 0x040, 2)] run) (fun z => z.mgtReady && z.take.solver) = true := by decide +kernel
/-! ### The reel store and the egress -/

/-- The reel store READY, with a valid record port 3 and a valid playout port 4 of ancillary essence, 10 index entries in segment 64. -/
def reel0 : State := ents [(pReel, 0, 5, 3, [2 ^ 31 + 10, 65536 + 64]), (pReel, 0, 6, 4, [2 ^ 31 + 10, 65536 + 64]),
  (pXpt, 0, 1, playIn 4 * 16, [2 ^ 31 + 3 * 2 ^ 28, 2 * 2 ^ 24])] (regs [(0, regA pReel 0x014, 1)] run)
/-- The same with records and playouts in given states. -/
def reelR (x : RecRec) : State := { reel0 with reel := { reel0.reel with recs := [(3, x)] } }
def reelP (x : PlayRec) (s : State) : State := { s with reel := { s.reel with plays := [(4, x)] } }
/-- A stored frame of one ancillary unit of one word, at index entry 0. -/
def stored : State := (reel0.ixWrite 64 0 0 64 1 128).memPut (lineAddr 64 64) 64 (25 * 2 ^ 504)
def start3 : ReelCmd := ⟨1, 0, 0, ⟨0, 0, 1⟩⟩
/-- ReelPorts: a command refused and one accepted, and commands that take effect. -/
theorem test_reel_cmd : reel0.admits (.w32 p0 (regA pReel 0x060) (wd (1 + 3 * 256))) = true ∧ reel0.reelCode p0 1 3 = 0 ∧
    reel0.reelCode p0 3 5 = 4 ∧ ends (.recStart p0 3) reel0 (fun z => z.rd 0 (regA pReel 0x070) == 0x100 &&
      (z.recRec 3).pending.isSome) = true ∧
    ends (.play p0 5) reel0 (fun z => z.rd 0 (regA pReel 0x070) == 0x304 && z.reel == reel0.reel) = true := by decide +kernel
theorem test_reel_effect : reel0.reached ⟨0, 0, 1⟩ = true ∧ reel0.reached ⟨0, 1, 1⟩ = false ∧
    ends (.reelCmdEffect false 3) { stored with reel := { stored.reel with recs := [(3, { RecRec.idle with pending := some start3 })] } }
      (fun z => (z.recRec 3) == { RecRec.idle with on := true, line := 64 } && !z.ixValid 64 0) = true ∧
    ends (.reelCmdEffect false 3) (reelR { RecRec.idle with pending := some { start3 with op := 2 }, on := true }) (fun z =>
      (z.recRec 3).stopping) = true ∧
    ends (.reelCmdEffect true 4) (reelP { PlayRec.idle with pending := some { start3 with op := 3 } } reel0) (fun z =>
      (z.playRec 4).mode == 2) = true := by decide +kernel
theorem test_reel_record : ends (.recordFrame 3) (reelR { RecRec.idle with on := true, line := 64, done := [(77, [fword 9 true true false 0])] })
      (fun z => z.ixLinear 64 0 == 77 && z.ixOffset 64 0 == 64 && z.ixLines 64 0 == 1 && z.ixFlags 64 0 == 128 &&
        z.memGet (lineAddr 64 64) 64 / 2 ^ 432 == (1 + 8) * 2 ^ 72 + 9) = true ∧
    ends (.recordFrame 3) (reelR { RecRec.idle with on := true, entry := 10, line := 70, done := [(77, [fword 9 true true false 0])] })
      (fun z => (z.recRec 3).full && !(z.recRec 3).on) = true := by decide +kernel
/-- PLAYOUT_FRAME of a port that plays, and of one that is idle; the descriptor's frames are as stored. -/
theorem test_reel_play : frameUnits (stored.playDesc 4) [25 * 2 ^ 504] = some [(some (true, true), [0])] ∧ stored.ixValid 64 0 = true ∧
    stored.readLines 64 1 64 64 1 = [25 * 2 ^ 504] ∧
    ends (.playoutFrame 4) (reelP { PlayRec.idle with mode := 2 } stored) (fun z => (z.playRec 4).shown == 1 &&
      (Tab.get (fun _ => []) z.fab.due (playIn 4)) == [(0, fword 0 true true true 0)]) = true ∧
    ends (.playoutFrame 4) stored (fun z => (z.playRec 4).last.isSome && z.fab.due == []) = true := by decide +kernel
/-- A locked frame synchroniser 7 of input 0 with four buffers, and its records. -/
def fs7 (r : FsRec) : State := { ents [(pReel, 0, 3, 7, [2 ^ 31 + 4 * 2 ^ 24]), (pReel, 0, 4, 7, [2])] reel0 with
  reel := { reel0.reel with fs := [(7, r)] } }
/-- ReelStore: frames complete, or are dropped; decisions repeat, take, and give up. -/
theorem test_fs_complete : ends (.fsFrameComplete 7) (fs7 ⟨[⟨0, none, none, []⟩], 0, none, none, 0, []⟩) (fun z =>
      (z.fsRec 7).writing == 1 && (z.fsRec 7).frames.map (fun f => f.num) == [0]) = true ∧
    (fs7 FsRec.idle).linkedTo 7 = [] ∧ (fs7 FsRec.idle).nbuf 7 = 4 ∧
    ends (.fsFrameComplete 7) (fs7 ⟨[⟨4, none, none, []⟩], 4, some 0, none, 0, []⟩) (fun z => (z.fsRec 7).writing == 4 &&
      z.ent pReel 0 4 7 3 == 1) = true := by decide +kernel
theorem test_fs_decision : ends (.fsDecision 7) (fs7 ⟨[], 0, some 5, none, 3, []⟩) (fun z => z.entF pReel 0 4 7 0 0 2 == 3) = true ∧
    ends (.fsDecision 7) (fs7 ⟨[], 6, some 5, none, 0, []⟩) (fun z => (z.fsRec 7).last == some 5 && z.ent pReel 0 4 7 2 == 1) = true ∧
    ends (.fsDecision 7) { fs7 ⟨[⟨1, some 0, none, []⟩], 2, some 0, none, 0, []⟩ with tbs := [(0, { TbRec.off with t := 10 ^ 8 * 2 ^ 48 })] }
      (fun z => (z.fsRec 7).last == some 1 && z.ent pReel 0 4 7 2 == 0) = true := by decide +kernel
/-- The window: WIN_BASE is the start of segment 64, P0's and not partition 3's. -/
def win64 : State := regs [(0, regA pReel 0x05C, 1), (3, regA pReel 0x05C, 1)] reel0
theorem test_hbm_window : win64.lost p0 0 = false ∧ win64.winRefusal p0 8 4 true true = none ∧ win64.segOwner 64 ≠ 3 ∧
    ends (.hbmWindowAccess p0 8 true (.one 32 0x01020304)) win64 (fun z => z.memGet (2 ^ 32 + 8) 4 == 0x01020304) = true ∧
    ends (.hbmWindowAccess p0 8 false (.one 32 0)) (win64.memPut (2 ^ 32 + 8) 4 7) (fun z => z.bus.resp == [⟨false, 7⟩]) = true ∧
    ends (.hbmWindowAccess (.p 3) 8 true (.one 32 7)) win64 (fun z => z.memGet (2 ^ 32 + 8) 4 == 0) = true := by decide +kernel
theorem test_hbm_lines : ends (.hbmLineComplete (.fs 7) false 1) reel0 (fun z => z.rd 0 (regA pReel 0x078) == 1) = true ∧
    ends (.hbmLineComplete (.record 3) false 2) reel0 (fun z => z.rd 0 (regA pReel 0x080) == 1 && z.ent pReel 0 7 3 3 == 1) = true := by
  decide +kernel
theorem test_hbm_trained : State.reset.hbmState 3 = 0 ∧ (∀ i, i < 4 → i ≠ 3 → (regs [(0, regA pReel 0x054, 0x111)] win64).hbmState i = 1) ∧
    ends (.hbmTrained 3 true) (regs [(0, regA pReel 0x054, 0x111), (0, regA pReel 0x014, 0)] (win64.memPut (2 ^ 32) 1 5)) (fun z =>
      z.ready pReel && z.memByte (2 ^ 32) == 0) = true ∧
    ends (.hbmTrained 3 false) reel0 (fun z => z.hbmState 3 == 3 && bitOf (z.rd 0 (regA pReel 0x044)) 4) = true ∧
    ends (.hbmFail 2 true) reel0 (fun z => z.hbmState 2 == 2) = true ∧
    ends (.hbmFail 2 false) reel0 (fun z => z.hbmState 2 == 3) = true := by decide +kernel
/-- Output 7: port 0 of block 2 is up and port 0 of block 3 down. Slot 0 sends on both, slot 1 has its path 0 on block 3 with ALT, slot 2
its path 0 on block 2 with ALT. -/
def egr0 (l : Tab EgrRec) : State := { ents [(pEgr 0, 0, 1, 112, [2 ^ 31]), (pEgr 0, 0, 1, 113, [2 ^ 31 + 2 ^ 26]), (pEgr 0, 0, 1, 114, [2 ^ 31 + 2 ^ 26]),
    (pEgr 0, 0, 2, 224, [2 ^ 31 + 2 * 65536]), (pEgr 0, 0, 2, 225, [2 ^ 31 + 3 * 65536]), (pEgr 0, 0, 2, 226, [2 ^ 31 + 3 * 65536]),
    (pEgr 0, 0, 2, 227, [2 ^ 31 + 2 * 65536]), (pEgr 0, 0, 2, 228, [2 ^ 31 + 2 * 65536]), (pEgr 0, 0, 4, 16, [2 ^ 17])]
  (regs [(0, portA 2 0x040, 2), (0, portA 2 0x058, 1), (0, portA 3 0x040, 2)] run) with egr := l }
def opaqueFmt : List Word := [wd (2 ^ 31 + 5 * 2 ^ 28), wd (2 * 2 ^ 24)]
def opaqueRec : EgrRec := { EgrRec.idle with seq := 9,
                                             units := [⟨0, 5, true, opaqueFmt, [2 ^ 56 + 0xAB * 2 ^ 48]⟩, ⟨1, 6, true, opaqueFmt, [2 ^ 56]⟩] }
/-- PacketsDepart: an opaque unit whole and one that is not, on a path that is up and one that is down. -/
theorem test_egr_opaque : (egr0 []).flowPaths 7 0 = [0, 1] ∧ (egr0 []).pathUp 7 0 0 = true ∧ (egr0 []).pathUp 7 0 1 = false ∧
    (opaqueBytes [2 ^ 56 + 0xAB * 2 ^ 48]).2 = true ∧ (opaqueBytes [9 * 2 ^ 56]).2 = false ∧
    ends (.packetDepart 7 0) (egr0 [(112, opaqueRec)]) (fun z => z.out == [.ethFrame 2 0 none, .packet ⟨2, 0, 0, 0, 0, 9, 5, 0, true, .opaque [0xAB]⟩] &&
      (z.egrRec 7 0).seq == 10 && z.ent (pEgr 0) 0 5 225 5 == 1 && z.ent (pEgr 0) 0 5 224 0 == 1) = true := by decide +kernel
def ancFmt : List Word := [wd (2 ^ 31 + 3 * 2 ^ 28), wd (2 * 2 ^ 24)]
def ancRec : EgrRec := { EgrRec.idle with units := [⟨0, 5, true, ancFmt, [2 ^ 61]⟩, ⟨1, 6, true, ancFmt, [2 ^ 61]⟩] }
/-- A raster line of 1280 × 720 whose packet may leave, and one of the next frame. -/
def rasterFmt : List Word := [wd (2 ^ 31), wd (2 * 2 ^ 28 + 7 * 2 ^ 24)]
def rasterRec (k : Int) : EgrRec := { EgrRec.idle with
  next := some k, units := [⟨((⟨dat rasterFmt 0, dat rasterFmt 1, 0⟩ : Desc).packetLine 1200 k 0).1, 5, true, rasterFmt, List.replicate 427 0⟩] }
theorem test_egr_anc : ancRun 1200 8 false ancRec.units = 1 ∧
    ends (.packetDepart 7 0) (egr0 [(112, ancRec)]) (fun z => z.out.length == 2 && (z.egrRec 7 0).units.length == 1) = true := by decide +kernel
theorem test_egr_raster : (egr0 []).reached ((⟨dat rasterFmt 0, dat rasterFmt 1, 0⟩ : Desc).departAt 0 1200 0 0 0) = true ∧
    (egr0 []).reached ((⟨dat rasterFmt 0, dat rasterFmt 1, 0⟩ : Desc).departAt 0 1200 0 1 0) = false ∧
    ends (.packetDepart 7 0) (egr0 [(112, rasterRec 0)]) (fun z => z.out.length == 2 && (z.egrRec 7 0).sent == 1) = true ∧
    ends (.packetDepart 7 0) (egr0 [(112, rasterRec 1)]) (fun z => z.out.length == 0) = true := by decide +kernel
theorem test_egr_failover : (egr0 []).egrUp 2 0 = true ∧ (egr0 []).egrUp 3 0 = false ∧
    ends (.egressFailover 3 0 false) (egr0 []) (fun z => (z.egrRec 7 1).alt && !(z.egrRec 7 2).alt) = true ∧
    ends (.egressFailover 2 0 true) (egr0 []) (fun z => !z.egrUp 2 0) = true ∧
    ends (.egressRevert 2 0) { egr0 [(114, { EgrRec.idle with alt := true, upSince := some 0 })] with beat := 345600000 }
      (fun z => (z.egrRec 7 2).back) = true ∧
    ends (.egressRevert 2 0) { egr0 [(114, { EgrRec.idle with alt := true, upSince := some 1 })] with beat := 345600000, remote := [16] }
      (fun z => !(z.egrRec 7 2).back && z.remote == []) = true ∧
    bitOf ((egr0 []).sched 3 0 0) 17 = false := by decide +kernel
/-! ### The audio crosspoint -/

/-- Partition 3 owns output block 0 and stages a silence of channel 5. -/
def aud3 : State := ents [(pPart, 0, 5, 0, [3]), (pAud, 3, 3, 0, [2 ^ 31 + 2 ^ 30 + 5]), (pTime, 0, 1, 0, [1])] run
/-- AudioCommands. -/
theorem test_aud_commit : aud3.ownOut 0 = 3 ∧ aud3.admits (.w32 (.p 3) (regA pAud 0x05C) (wd (1 + 65536))) = true ∧
    aud3.admits (.w32 (.p 3) (regA pAud 0x05C) (wd (3 + 65536))) = true ∧
    ends (.audCommit (.p 3) 0 0) aud3 (fun z => z.rdF 3 (regA pAud 0x060) 0 8 == 1 && z.rd 3 (regA pAud 0x068) == 0) = true ∧
    ends (.audCommit (.p 3) 0 1) (regs [(3, regA pAud 0x04C, 9)] aud3) (fun z => z.rdF 3 (regA pAud 0x060) 0 8 == 2) = true ∧
    ends (.audStop (.p 3) 0 1) aud3 (fun z => z.rdF 3 (regA pAud 0x060) 0 12 == 0x303 && z.rd 3 (regA pAud 0x068) == 1) = true ∧
    ends (.audCommit (.p 3) 0 1) aud3 (fun z => z.rdF 3 (regA pAud 0x060) 0 8 == 0 && z.audPending 3 == 1) = true := by decide +kernel
/-- A transaction of partition 3 with tag 0: channel 5 takes channel 9 at period 0, armed or with an arm point. -/
def audTx3 (armed : Bool) (arm : Int) : AudTx := ⟨.cmd 3 0, false, 0, armed, ⟨0, arm, 1⟩, [⟨5, some 9, false, -4000, ⟨0, arm, 1⟩, false⟩], 7, 0⟩
def audT (t : AudTx) : State := { aud3 with aud := { aud3.aud with txs := [t] } }
theorem test_aud_strike : aud3.admits (.w32 (.p 3) (regA pAud 0x05C) 2) = true ∧ aud3.admits (.w32 (.p 3) (regA pAud 0x05C) 4) = true ∧
    ends (.audStrike (.p 3)) aud3 (fun z => z.rdF 3 (regA pAud 0x060) 0 8 == 18) = true ∧
    ends (.audStrike (.p 3)) (audT (audTx3 true 1)) (fun z => z.rdF 3 (regA pAud 0x060) 0 8 == 17 && z.aud.txs.length == 1) = true ∧
    ends (.audStrike (.p 3)) (audT (audTx3 false 1)) (fun z => z.rdF 3 (regA pAud 0x060) 0 8 == 16 && z.aud.txs == []) = true ∧
    ends (.audClear (.p 3)) aud3 (fun z => z.ent pAud 3 3 0 0 == 0) = true := by decide +kernel
/-- AudioEngine: grants and commits. -/
theorem test_aud_grant : aud3.audTx (.cmd 3 0) = none ∧ (audT (audTx3 false 1)).reached ⟨0, 1, 1⟩ = false ∧
    ends (.audArmGrant (.cmd 3 0)) (audT (audTx3 false 0)) (fun z => z.aud.txs == [audTx3 true 0]) = true ∧
    (audT (audTx3 true 0)).reached ((audT (audTx3 true 0)).periodAt 0 (-4000)) = true ∧
    ends (.audMemberCommit (.cmd 3 0) 0) (audT (audTx3 true 0)) (fun z => z.audRoute 5 == some 9 && z.aud.txs == [] &&
      z.ent pAud 0 4 5 2 == 0) = true ∧
    ends (.audMemberCommit (.cmd 3 0) 0) (audT (audTx3 false 1)) (fun z => z.audRoute 5 == none) = true := by decide +kernel
/-- Channel 5 routed from channel 9, which TDM port 0, running, claims; channel 6 has no route. -/
def audR : State := ents [(pAud, 0, 4, 5, [0, 2 ^ 31 + 9]), (pAud, 0, 5, 9, [3])] (regs [(0, regA pAud 0x074, 2)] aud3)
theorem test_aud_block : audR.tbMode 0 = 1 ∧ audR.audArmed 5 = [] ∧ audR.audRoute 5 = some 9 ∧ audR.audRoute 6 = none ∧
    ends (.audioBlock 0 false [⟨0, 9, [1, 2, 3]⟩] []) audR (fun z => (z.audOut 5).block == [1, 2, 3, 0, 0, 0, 0, 0] &&
      (z.audOut 6).block == [] && (Tab.get (fun _ => none) z.aud.blk 0).isSome) = true ∧
    State.reset.tbMode 3 = 0 ∧ ends (.audioBlock 3 false [] []) audR (fun z => z.aud == audR.aud) = true := by decide +kernel
theorem test_aud_tdm : (regs [(0, regA pAud 0x074, 2 * 4 ^ 3)] run).tdmState 3 = 2 ∧ run.tdmState 3 = 0 ∧
    ends (.tdmStop 3) (regs [(0, regA pAud 0x074, 2 * 4 ^ 3 + 1)] run) (fun z => z.tdmState 3 == 0 && z.tdmState 0 == 1) = true := by
  decide +kernel
/-! ### Foley cores -/

/-- Core 0 of partition 0 in RUN with given registers, the program word at P address 0, on a given state. -/
def coreOn (w : Nat) (r : FolRec) (s : State) : State := { ents [(pFol 0, 0, 1, 0, [w, w / 2 ^ 32])] (regs [(0, folA 0 0x048, 2)] s) with fol := [(0, r)] }
def core (w : Nat) (r : FolRec) : State := coreOn w r run
/-- Instruction words: class and code in bits 63:55, or in bits 63:57. -/
def w5 (cls op rest : Nat) : Nat := cls * 2 ^ 60 + op * 2 ^ 55 + rest
def w3 (cls op rest : Nat) : Nat := cls * 2 ^ 60 + op * 2 ^ 57 + rest
/-- The core issues a word as the instruction of a code, outside slots and loops: State.folIssues. -/
def issues (w code : Nat) : Bool :=
  let s := core w { FolRec.idle with pc := 0 }
  s.folRuns 0 && s.folWord 0 == w && folCode w == some code && !folNonZero w && !folReserved w && (s.folRec 0).slots == none &&
    (s.folRec 0).loops == []
/-- Registers of the core after an instruction. -/
def after (i : Instr) (s : State) (f : FolRec → Bool) : Bool := ends i s fun z => f (z.folRec 0)
/-- The handler that an exception of the core goes to, and its ESTAT code field. -/
def excTo (v code : Nat) (r : FolRec) : Bool := r.em && r.pc == 4 * v && r.estat % 16 == v && r.estat / 65536 == code
/-- FoleyData and FoleyControl: every instruction is issued on some word. -/
theorem test_fol_issue_ctrl : ((List.range 13).all fun op => issues (w5 0 op 0) op) = true := by decide +kernel
theorem test_fol_issue_alu : ((List.range 18).all fun op => issues (w5 2 op 0) (64 + op)) = true := by decide +kernel
theorem test_fol_issue_rest : ((List.range 3).all fun op => issues (w3 1 op 0) (32 + op)) = true ∧
    ((List.range 2).all fun op => issues (w3 3 op 0) (96 + op)) = true ∧ ((List.range 4).all fun op => issues (w3 4 op 0) (128 + op)) = true ∧
    ((List.range 7).all fun op => issues (w3 5 op 0) (160 + op)) = true ∧
    ((List.range 5).all fun op => issues (w3 6 op 0) (192 + op)) = true ∧ issues (7 * 2 ^ 60) 224 = true := by decide +kernel
/-- Accumulators A0 and A1, with MR. -/
def accs (x y : Int) (mr : Nat) : FolRec := { FolRec.idle with a := [BitVec.ofInt 72 x, BitVec.ofInt 72 y, 0, 0], mr := mr }
theorem test_fol_add : after (.foAdd 0) (core (w5 2 1 (2 ^ 51)) (accs 5 7 1)) (fun r => r.acc 0 == 12 && r.pc == 1 && r.ov == FolRec.idle.ov) =
      true ∧
    after (.foAdd 0) (core (w5 2 1 (2 ^ 51)) (accs (2 ^ 71 - 1) 1 1)) (fun r => r.acc 0 == BitVec.ofInt 72 (-(2 ^ 71)) && r.ov.getD 0 false) =
      true ∧
    after (.foAdd 0) (core (w5 2 1 (2 ^ 51)) (accs (2 ^ 71 - 1) 1 3)) (excTo 1 0) = true ∧
    after (.foAsl 0) (core (w5 2 7 (72 * 2 ^ 41)) (accs 1 0 1)) (excTo 0 1) = true ∧
    after (.foAsr 0) (core (w5 2 8 (2 ^ 41)) (accs (-3) 0 1)) (fun r => (r.acc 0).toInt == -2) = true := by decide +kernel
/-- Data registers D0 and D1. -/
def dregs (x y : Nat) : FolRec := { FolRec.idle with d := [BitVec.ofNat 36 x, BitVec.ofNat 36 y, 0, 0, 0, 0, 0, 0] }
theorem test_fol_mac : after (.foMpy 0) (core (w3 1 0 (2 ^ 47)) (dregs 256 6)) (fun r => r.acc 0 == 12) = true ∧
    after (.foMac 0) (core (w3 1 1 (8 * 2 ^ 51)) FolRec.idle) (excTo 0 8) = true ∧
    after (.foMac 0) (core (w3 1 1 (2 ^ 47)) { dregs 256 64 with a := [BitVec.ofInt 72 (2 ^ 71 - 1), 0, 0, 0], mr := 3 }) (excTo 1 0) = true := by
  decide +kernel
/-- X word 0 holds 256 and 3 in its halves, and Y word 0 holds 128 and 0. -/
def mems (w : Nat) (r : FolRec) : State := ((core w r).setFolMem 0 2 0 (wordOfHalves 256 3)).setFolMem 0 3 0 (wordOfHalves 128 0)
theorem test_fol_fir : ends (.foFir 0) (mems (w3 3 0 (2 ^ 47)) FolRec.idle) (fun z => (z.folRec 0).acc 0 == 256 && (z.folRec 0).ptr 2 0 == 1 &&
      z.folMem 0 2 16383 == wordOfHalves 256 0) = true ∧
    after (.foFird 0) (mems (w3 3 1 (2 ^ 47)) (accs 9 0 1)) (fun r => r.acc 0 == 256) = true := by decide +kernel
theorem test_fol_srch : after (.foSmax 0) (mems (w3 4 0 (2 ^ 52)) (accs 1 0 1)) (fun r => r.acc 0 == BitVec.ofInt 72 (256 * 2 ^ 28) &&
      r.n.getD 0 9 == 0) = true ∧
    after (.foSmin 0) (mems (w3 4 1 (2 ^ 52)) (accs 1 0 1)) (fun r => r.acc 0 == 1) = true ∧
    after (.foSmax 0) (mems (w3 4 0 (2 ^ 52 + 2 ^ 51)) (accs 1 0 1)) (excTo 0 7) = true := by decide +kernel
theorem test_fol_ldst : after (.foLd 0) (mems (w3 5 0 0) FolRec.idle) (fun r => r.dReg 0 == 256) = true ∧
    ends (.foSt 0) (mems (w3 5 1 (2 ^ 50)) (dregs 77 0)) (fun z => z.folMem 0 2 0 == wordOfHalves 256 77) = true ∧
    after (.foLdi 0) (core (w3 5 5 (5 * 2 ^ 47 + 99)) FolRec.idle) (fun r => r.dReg 5 == 99) = true ∧
    after (.foLdp 0) (core (w3 5 6 99) FolRec.idle) (fun r => r.ptr 2 0 == 99) = true ∧
    after (.foLdp 0) (core (w3 5 6 16384) FolRec.idle) (excTo 0 8) = true ∧
    after (.foLdp 0) (core (w3 5 6 (2 ^ 51 + 32767)) FolRec.idle) (fun r => r.modf 2 0 == -1) = true ∧
    after (.foLdp 0) (core (w3 5 6 (2 * 2 ^ 51 + 16384)) FolRec.idle) (fun r => r.len 2 0 == 16384) = true ∧
    after (.foLdp 0) (core (w3 5 6 (2 * 2 ^ 51 + 16385)) FolRec.idle) (excTo 0 8) = true := by decide +kernel
/-- ILLEGAL: a reserved word, control in a delay slot, and control at a loop's end. -/
theorem test_fol_illegal : after (.foNop 0) (core (w5 0 31 0) FolRec.idle) (excTo 0 1) = true ∧
    after (.foNop 0) (core 256 FolRec.idle) (excTo 0 1) = true ∧
    after (.foHalt 0) (core (w5 0 11 0) { FolRec.idle with slots := some ⟨9, 1, true, 5⟩ }) (fun r => r.estat / 65536 == 2 && r.epc == 9) = true ∧
    after (.foLeave 0) (core (w5 0 7 0) { FolRec.idle with loops := [⟨0, 0, 2⟩] }) (fun r => r.estat / 65536 == 4) = true ∧
    ends (.foHalt 0) (core 0 FolRec.idle) (fun z => (z.folRec 0) == FolRec.idle) = true ∧
    ends (.foTrap 0) (core (w5 0 12 7) { FolRec.idle with em := true }) (fun z => z.folState 0 == 3) = true := by decide +kernel
/-- NOP in delay slots, in loops, and in the shadow of a mode write. -/
theorem test_fol_nop : after (.foNop 0) (core 0 { FolRec.idle with slots := some ⟨9, 1, true, 5⟩ }) (fun r => r.slots == some ⟨9, 2, true, 5⟩ &&
      r.pc == 1) = true ∧
    after (.foNop 0) (core 0 { FolRec.idle with slots := some ⟨9, 2, true, 5⟩ }) (fun r => r.slots == none && r.pc == 5) = true ∧
    after (.foNop 0) (core 0 { FolRec.idle with loops := [⟨0, 0, 2⟩] }) (fun r => r.loops == [⟨0, 0, 1⟩] && r.pc == 0) = true ∧
    after (.foNop 0) (core 0 { FolRec.idle with loops := [⟨0, 0, 1⟩] }) (fun r => r.loops == [] && r.pc == 1) = true ∧
    after (.foNop 0) (core 0 { FolRec.idle with shadow := [(5, 2)] }) (fun r => r.shadow == [(5, 1)] && r.mr == 1) = true ∧
    after (.foNop 0) (core 0 { FolRec.idle with shadow := [(5, 1)] }) (fun r => r.shadow == [] && r.mr == 5) = true := by decide +kernel
theorem test_fol_branch : after (.foBra 0) (core (w5 0 1 (7 * 2 ^ 36)) FolRec.idle) (fun r => r.slots == some ⟨0, 1, true, 7⟩ && r.pc == 1) = true ∧
    after (.foBcc 0) (core (w5 0 2 (7 * 2 ^ 36 + 2 ^ 51)) FolRec.idle) (fun r => r.slots == some ⟨0, 1, false, 7⟩) = true ∧
    after (.foCall 0) (core (w5 0 3 (7 * 2 ^ 36)) FolRec.idle) (fun r => r.lr == 3) = true ∧
    after (.foBra 0) (core (w5 0 1 0) { FolRec.idle with loops := [⟨0, 2, 2⟩] }) (excTo 0 3) = true := by decide +kernel
theorem test_fol_loop : after (.foLoop 0) (core (w5 0 5 (4 * 2 ^ 36 + 3 * 2 ^ 20)) FolRec.idle) (fun r => r.loops == [⟨1, 4, 3⟩] && r.pc == 1) = true ∧
    after (.foLoop 0) (core (w5 0 5 (4 * 2 ^ 36)) FolRec.idle) (fun r => r.loops == [] && r.pc == 5) = true ∧
    after (.foLoop 0) (core (w5 0 5 (3 * 2 ^ 20)) FolRec.idle) (excTo 2 0) = true ∧
    after (.foLeave 0) (core (w5 0 7 0) FolRec.idle) (excTo 2 0) = true ∧
    after (.foLeave 0) (core (w5 0 7 0) { FolRec.idle with loops := [⟨0, 2, 2⟩] }) (fun r => r.loops == [] && r.pc == 1) = true := by
  decide +kernel
theorem test_fol_block : after (.foWaitblk 0) (core (w5 0 8 0) FolRec.idle) (fun r => r == FolRec.idle) = true ∧
    after (.foWaitblk 0) (core (w5 0 8 0) { FolRec.idle with got := some 4 }) (fun r => r.cur == some 4 && r.pc == 1) = true ∧
    after (.foWaitblk 0) (core (w5 0 8 0) { FolRec.idle with got := some 4, cur := some 4 }) (fun r => r.pc == 0) = true ∧
    after (.foDone 0) (core (w5 0 9 0) FolRec.idle) (fun r => r.ready == none && r.pc == 1) = true ∧
    (core (w5 0 9 0) { FolRec.idle with cur := some 4 }).folLate 0 4 = false ∧
    ends (.foDone 0) (core (w5 0 9 0) { FolRec.idle with cur := some 4, cyc := 10 }) (fun z => (z.folRec 0).ready == some 4 &&
      z.rd 0 (folA 0 0x06C) == 11) = true := by decide +kernel
theorem test_fol_system : after (.foRte 0) (core (w5 0 10 0) { FolRec.idle with em := true, epc := 9, estat := 0x60 }) (fun r => !r.em && r.pc == 9 &&
      r.reuse == some true && r.skip1) = true ∧
    ends (.foHalt 0) (core (w5 0 11 0) FolRec.idle) (fun z => z.folState 0 == 3 && z.rdF 0 (folA 0 0x048) 8 4 == 1) = true ∧
    after (.foTrap 0) (core (w5 0 12 7) FolRec.idle) (excTo 4 7) = true := by decide +kernel
theorem test_fol_mode : after (.foMovm 0) (core (w3 6 0 5) FolRec.idle) (fun r => r.mr == 1 && r.shadow == [(5, 2)]) = true ∧
    after (.foMovm 0) (core (w3 6 0 16) FolRec.idle) (excTo 0 5) = true ∧
    after (.foRdm 0) (core (w3 6 2 0) FolRec.idle) (fun r => r.dReg 0 == 1) = true ∧
    after (.foRds 0) (core (w3 6 3 (6 * 2 ^ 52)) { FolRec.idle with lr := 33 }) (fun r => r.dReg 0 == 33) = true ∧
    after (.foWrs 0) (core (w3 6 4 (6 * 2 ^ 52)) (dregs 33 0)) (fun r => r.lr == 33) = true ∧
    after (.foWrs 0) (core (w3 6 4 (20 * 2 ^ 52)) (dregs 33 0)) (excTo 0 6) = true := by decide +kernel
/-- EXT: D0 gives the address, D1 the data or takes it. -/
def extW (wr : Nat) : Nat := 7 * 2 ^ 60 + wr * 2 ^ 59 + 2 ^ 56
theorem test_fol_ext : after (.foExt 0 none) (core (extW 0) (dregs (regA pXpt 0x040) 9)) (fun r => r.dReg 1 == BitVec.ofNat 36 (run.rd 0 (regA pXpt 0x040)).toNat &&
      r.pc == 1) = true ∧
    ends (.foExt 0 none) (core (extW 1) (dregs (regA pXpt 0x040) 0x10020)) (fun z => z.rd 0 (regA pXpt 0x040) == 0x10020 && (z.folRec 0).pc == 1) =
      true ∧
    after (.foExt 0 none) (core (extW 1) (dregs (regA 0x50 0) 1)) (excTo 3 0) = true ∧
    after (.foExt 0 none) (core (extW 0) (dregs (regA 0x50 0) 1)) (excTo 3 0) = true ∧
    after (.foExt 0 (some false)) (core (extW 0) (dregs (regA pXpt 0x040) 9)) (excTo 3 0) = true ∧
    after (.foExt 0 (some false)) (core (extW 0) (dregs (regA pXpt 0x000) 9)) (fun r => r.pc == 0) = true := by decide +kernel
theorem test_fol_ext_hbm : isHbm 0x03000008 = true ∧
    after (.foExt 0 none) (core (extW 0) (dregs 0x03000008 1)) (excTo 3 0) = true ∧
    ends (.foExt 0 none) (coreOn (extW 1) (dregs 0x03000008 5) win64) (fun z => z.memGet (2 ^ 32 + 8) 4 == 5 && (z.folRec 0).pc == 1) = true ∧
    after (.foExt 0 none) (coreOn (extW 0) (dregs 0x03000008 5) win64) (fun r => r.dReg 1 == 0) = true := by decide +kernel
/-- Core 0 bound: four channels from output channel 0 to four input channels from 0, its output grid at block 6, its output bank at Y 0. -/
def bound (r : FolRec) (blk : Int) : State := let s := ents [(pAud, 0, 9, 0, [2 ^ 31 + 4 + 4 * 65536, 0])] (core 0 r)
  { s with aud := { s.aud with blk := [(0, some blk)], outs := [(1, { AudOut.idle with block := [7, 8] })] } }
/-- FoleyExchange: exchange in and out. -/
theorem test_folx_exchange : (core 0 FolRec.idle).folBlock 0 = none ∧ (bound FolRec.idle 6).folBlock 0 = some 6 ∧
    (bound FolRec.idle 6).folBound 0 = true ∧ (bound FolRec.idle 6).folFits 0 = true ∧
    ends (.foleyExchangeIn 0) (bound FolRec.idle 6) (fun z => (z.folRec 0).got == some 6 &&
      z.folMem 0 2 4 == wordOfHalves (sampleHalf 7) (sampleHalf 8) && z.folMem 0 2 3 == 0) = true ∧
    ends (.foleyExchangeIn 0) (bound { FolRec.idle with got := some 6 } 6) (fun z => z.folMem 0 2 4 == 0) = true ∧
    ends (.foleyExchangeOut 0) ((bound { FolRec.idle with ready := some 6, settle := [(0, 3)] } 6).setFolMem 0 3 0
      (wordOfHalves (sampleHalf 5) 0)) (fun z => (z.folBlks 0).map (fun f => (f.block, (f.samples.getD 0 []).getD 0 0, f.settle.getD 0 [])) ==
        [(7, 5, [true, true, true, false, false, false, false, false])] && (z.folRec 0).taken == some 6) = true := by decide +kernel
/-- The state after the deadline of block 6 has come. -/
def dued (r : FolRec) : State := { bound r 6 with tbs := [(0, { TbRec.off with t := 10 ^ 8 * 2 ^ 48 })] }
theorem test_folx_deadline : (dued FolRec.idle).reached ((dued FolRec.idle).folDeadline 0 6) = true ∧
    (bound FolRec.idle 1000).reached ((bound FolRec.idle 1000).folDeadline 0 1000) = false ∧
    ends (.foleyDeadline 0) (dued { FolRec.idle with ready := some 6 }) (fun z => (z.folRec 0).passed == some 6 && z.folBlks 0 == []) = true ∧
    ends (.foleyDeadline 0) (dued FolRec.idle) (fun z => z.rd 0 (folA 0 0x074) == 1 && (z.folBlks 0).map (fun f => f.block) == [7] &&
      (z.folRec 0).missed == [6]) = true := by decide +kernel
/-- AUTO_MOVE with MISS_N = 1 and BACKUP = 1, a core that is SPARE. -/
def spare1 (s : State) : State := regs [(0, folA 0 0x040, 65536 + 2 ^ 20 + 2 ^ 24), (0, folA 1 0x048, 4)] s
theorem test_folx_move : ends (.foleyDeadline 0) (spare1 (dued FolRec.idle)) (fun z => z.folPend 0 && (z.folRec 0).move == some 6) = true ∧
    ends (.foleyDeadline 0) (regs [(0, folA 0 0x040, 65536 + 2 ^ 20 + 2 ^ 24)] (dued FolRec.idle)) (fun z =>
      bitOf (z.rd 0 (folA 0 0x04C)) 6) = true ∧
    ends (.coreMoveHalt 0) (spare1 ((bound { FolRec.idle with move := some 5 } 6).setFolMem 0 3 9 77)) (fun z => (z.folRec 0).moving &&
      z.folMem 1 3 9 == 77) = true ∧
    ends (.coreMoveResume 0) (spare1 (bound { FolRec.idle with move := some 4, moving := true } 6)) (fun z => z.folState 1 == 2 &&
      z.folState 0 == 5 && z.folBound 1 && !z.folBound 0) = true := by decide +kernel
theorem test_folx_canonical : Tab.wf regReset (spare1 (bound { FolRec.idle with move := some 5 } 6)).regs = true ∧
    Tab.wf tblReset (spare1 (bound { FolRec.idle with move := some 5 } 6)).tbl = true ∧
    Tab.wf memZero (spare1 (bound { FolRec.idle with move := some 5 } 6)).mem = true := by decide +kernel
theorem test_folx_overrun : ends (.foleyOverrun 0) (bound { FolRec.idle with cur := some 4, pc := 9 } 6) (fun z => (z.folRec 0).pc == 0 &&
      z.rd 0 (folA 0 0x078) == 1 && z.rd 0 (folA 0 0x05C) == 6) = true ∧
    ends (.foleyOverrun 0) (bound { FolRec.idle with cur := some 5, pc := 9 } 6) (fun z => (z.folRec 0).pc == 9) = true := by decide +kernel
/-- FOL commands in the states that take them, and in one that does not. -/
def folSt (v : Nat) : State := regs [(0, folA 0 0x048, v)] (bound FolRec.idle 6)
theorem test_folx_commands : (List.all [1, 2, 4, 8, 16] fun d => run.admits (.w32 p0 (folA 0 0x044) (wd d))) = true ∧
    ends (.folStart p0 0) (folSt 1) (fun z => z.folState 0 == 2) = true ∧ ends (.folStop p0 0) (folSt 2) (fun z => z.folState 0 == 1) = true ∧
    ends (.folSpare p0 0) (folSt 1) (fun z => z.folState 0 == 4) = true ∧ ends (.folRelease p0 0) (folSt 5) (fun z => z.folState 0 == 1) = true ∧
    ends (.folMove p0 0) (spare1 (folSt 2)) (fun z => z.folPend 0) = true ∧
    ends (.folMove p0 0) (folSt 2) (fun z => bitOf (z.rd 0 (folA 0 0x04C)) 6) = true := by decide +kernel
theorem test_folx_refused : ends (.folStart p0 0) (folSt 2) (fun z => bitOf (z.rd 0 (folA 0 0x04C)) 7 && z.folState 0 == 2) = true ∧
    ends (.folStop p0 0) (folSt 1) (fun z => bitOf (z.rd 0 (folA 0 0x04C)) 7) = true ∧
    ends (.folSpare p0 0) (folSt 2) (fun z => bitOf (z.rd 0 (folA 0 0x04C)) 7) = true ∧
    ends (.folRelease p0 0) (folSt 2) (fun z => bitOf (z.rd 0 (folA 0 0x04C)) 7) = true ∧
    ends (.folMove p0 0) (folSt 1) (fun z => bitOf (z.rd 0 (folA 0 0x04C)) 7) = true := by decide +kernel
/-! ### The compositor, time bases, references and the Garpen bus -/

/-- Words of the layout's entries, in force: table, index, words. -/
def lay (l : List (Nat × Nat × List Nat)) (s : State) : State := l.foldl (fun s e =>
  { ents [(pMon, 0, e.1, e.2.1, e.2.2)] s with mon := { s.mon with
    applied := (e.2.2.zipIdx).foldl (fun t w => Tab.put (fun _ => 0) t (tblKey pMon 0 e.1 e.2.1 w.2) (wd w.1)) s.mon.applied } }) s
/-- Layer 5 of head 0: an SDI source at input 3, cropped to one pixel and scaled to one. -/
def words5 : List Nat := [2 ^ 31 + 8, 0, 65537, 0, 65537, 0]
def mon5 : State :=
  let s := lay [(1, 0, [2 ^ 31 + 2 * 2 ^ 19, 65536 + 64]), (2, 5, words5)] (ents [(pXpt, 0, 1, 48, [2 ^ 31 + 4 * 2 ^ 28, 2 * 2 ^ 28 + 2 * 2 ^ 24])] run)
  { s with fab := { s.fab with egr := [(4096 + 5, some ⟨3, 0, 0⟩)] } }
def lay5 (r : LayRec) : State := { mon5 with mon := { mon5.mon with lays := [(5, r)] } }
def coefs : List Word := [0, 4096 * 65536, 0, 0, 0, 4096, 0]
/-- MontageHeads: a layer's picture, and pictures that change nothing. -/
theorem test_mon_layer : (mon5.laySrc 5).isSome = true ∧ mon5.layBad 5 = none ∧ run.laySrc 5 = none ∧
    ends (.layerPictureComplete 5 ⟨[[0x400, 0x100, 0x800, 0x100]]⟩) (lay5 { LayRec.idle with run := true, coef := coefs, unseen := true })
      (fun z => z.memGet (z.slotAddr 5 0) 4 == 0x40 * 2 ^ 20 + 0x100 * 2 ^ 10 + 0x200 && z.monEnt 7 5 1 == 1 && z.monEnt 7 5 2 == 1 &&
        (z.layRec 5).newest == some 0) = true ∧
    ends (.layerPictureComplete 5 ⟨[]⟩) (lay5 { LayRec.idle with run := true, coef := coefs }) (fun z => z.monEnt 7 5 1 == 0) = true := by
  decide +kernel
/-- Head 0 with a descriptor, on a time base that runs; a write of layer 5 is due. -/
def head (ws : List Nat) (r : LayRec) : State :=
  let s := ents [(pTime, 0, 1, 0, [1]), (pXpt, 0, 1, 4096 * 16, [2 ^ 31, 15 * 2 ^ 28 + 2 * 2 ^ 24])] (lay5 r)
  { s with beat := 40000, fab := run.fab, mon := { s.mon with pend := [(2 * 2 ^ 24 + 5, [⟨0, false, ws.map wd⟩])] } }
def head0 (r : LayRec) : State := head words5 r
theorem test_mon_head : (head0 LayRec.idle).monDue 0 = [((2, 5), words5.map wd)] ∧ Tab.wf (fun _ => 0) (head0 LayRec.idle).mon.applied = true ∧
    ends (.headDecision 0) (head0 { LayRec.idle with newest := some 1, unseen := true }) (fun z => z.layState 5 == 2 &&
      (z.layRec 5).shown == some 1 && (z.headRec 0).picks == [(5, some 1)] && z.monEnt 8 0 1 == 1) = true ∧
    ends (.headDecision 0) (head0 { LayRec.idle with missed := 3 }) (fun z => z.layState 5 == 3 &&
      bitOf (z.rd 0 (regA pMon 0x044)) 0 && z.monEnt 7 5 3 == 1) = true ∧
    ends (.headDecision 0) { head0 LayRec.idle with beat := 34559 } (fun z => (z.headRec 0).last == none) = true := by decide +kernel
theorem test_mon_head' : ends (.headDecision 0) (ents [(pMon, 0, 8, 0, [2])] (head0 LayRec.idle)) (fun z => z.mon.pend == (head0 LayRec.idle).mon.pend &&
      (z.headRec 0).last.isSome) = true ∧
    ends (.headDecision 0) (head [0] LayRec.idle) (fun z => z.layState 5 == 0 && z.mon.lays == [] && z.monApp 2 5 2 == 0) = true ∧
    { head0 LayRec.idle with fab := mon5.fab }.layBad 5 = none ∧
    (lay [(1, 0, [2 ^ 31 + 3 * 2 ^ 19])] { head0 LayRec.idle with fab := mon5.fab }).layBad 5 = some 4 ∧
    ends (.headDecision 0) (lay [(1, 0, [2 ^ 31 + 3 * 2 ^ 19])] { head0 LayRec.idle with fab := mon5.fab }) (fun z =>
      z.layState 5 == 4 && bitOf (z.rd 0 (regA pMon 0x044)) 1) = true := by decide +kernel
theorem test_mon_bg : run.topLayer [] 3 4 = none ∧ (∀ n, n < 4 → bitOf (run.monApp 4 (0 * 4 + n) 0) 31 = false) := by decide +kernel
/-- TimeBases: adjustments by their codes. -/
def tbIn (mode : Nat) : State := ents [(pTime, 0, 1, 3, [mode])] run
theorem test_time_adjust : (run.admits (.w32 p0 (regA pTime 0x050) (wd (3 + 16))) && run.admits (.w32 (.p 3) (regA pTime 0x050) (wd (3 + 16)))) = true ∧
    ends (.setRate p0 3) (regs [(0, regA pTime 0x058, 7)] (tbIn 4)) (fun z => z.rd 0 (regA pTime 0x054) == 0x310 &&
      (z.tbRec 3).adj == [.rate 7]) = true ∧
    ends (.setRate (.p 3) 3) (tbIn 4) (fun z => z.rdF 3 (regA pTime 0x054) 0 4 == 1) = true ∧
    ends (.setRate p0 3) (tbIn 1) (fun z => z.rdF 0 (regA pTime 0x054) 0 4 == 2) = true ∧
    ends (.stepTime p0 3) (regs [(0, regA pAud 0x074, 2)] (ents [(pAud, 0, 7, 0, [3 * 16])] (tbIn 1))) (fun z =>
      z.rdF 0 (regA pTime 0x054) 0 4 == 3) = true ∧
    ends (.setTime p0 3) (regs [(0, regA pTime 0x058, 1000000000)] (tbIn 1)) (fun z => z.rdF 0 (regA pTime 0x054) 0 4 == 4) = true := by
  decide +kernel
theorem test_time_adjust' : ends (.slew p0 3) (regs [(0, regA pTime 0x058, 7)] (tbIn 4)) (fun z => (z.tbRec 3).adj == [.slew 7]) = true ∧
    ends (.stepTime p0 3) (regs [(0, regA pTime 0x058, 7)] (tbIn 1)) (fun z => (z.tbRec 3).adj == [.step 7]) = true ∧
    ends (.setTime p0 3) (regs [(0, regA pTime 0x058, 7)] (tbIn 1)) (fun z => (z.tbRec 3).adj == [.set (7 * 2 ^ 48)]) = true := by decide +kernel
/-- A beat with each time base off, and states in which one adjustment waits. -/
def tbAdj (mode : Nat) (l : List Adj) : State := { tbIn mode with tbs := [(3, { TbRec.off with adj := l })] }
theorem test_time_beat : ends .fabricBeat State.reset (fun z => z.beat == 1 && z.tbs == []) = true ∧
    (List.all [[], [.rate 7], [.slew 7], [.step 7], [.set 7]] fun l => (tbAdj 4 l).tbMode 3 == 4 && ((tbAdj 4 l).tbRec 3).adj == l) = true := by
  decide +kernel
/-- The PTP servo of time base 3, in PTP mode with EN = 1, from a servo state. -/
def ptp3 (r : TbRec) : State := { ents [(pTime, 0, 3, 3, [1])] (tbIn 2) with tbs := [(3, r)] }
theorem test_time_ptp : (ptp3 TbRec.off).servoOn 3 = true ∧ run.servoOn 3 = false ∧
    ends (.ptpSync 3 65536 9 77 37 5) (ptp3 { TbRec.off with good := 15, hadMaster := true }) (fun z => (z.tbRec 3).servo == 3 &&
      (z.tbRec 3).adj == [.rate 5] && z.ent pTime 0 2 3 2 == 1 && bitOf (z.rd 0 (regA pTime 0x044)) 2) = true ∧
    ends (.ptpSync 3 (-65536000001) 9 77 37 5) (ptp3 TbRec.off) (fun z => (z.tbRec 3).adj == [.step 65536000001] &&
      (z.tbRec 3).servo == 2) = true ∧
    ends (.ptpAnnounceTimeout 3) (ptp3 { TbRec.off with servo := 3, rates := [4, 8] }) (fun z => (z.tbRec 3).servo == 4 && z.tbRate 3 == 6 &&
      bitOf (z.rd 0 (regA pTime 0x044)) 1) = true ∧
    ends (.ptpAnnounceTimeout 3) (ptp3 { TbRec.off with servo := 4 }) (fun z => z.regs == (ptp3 TbRec.off).regs) = true := by decide +kernel
/-- Comparator 128 of partition 0 on time base 3, which reads 0. -/
def cmp128 (ws : List Nat) (r : CmpRec) : State := { ents [(pTime, 0, 5, 128, ws)] (tbIn 1) with cmp := [(128, r)] }
theorem test_time_compare : ends (.comparatorFire 128) (cmp128 [2 ^ 31 + 3, 5] CmpRec.idle) (fun z => z.ent pTime 0 5 128 10 == 0) = true ∧
    ends (.comparatorFire 128) (cmp128 [2 ^ 31 + 2 ^ 29 + 3] { CmpRec.idle with late := true }) (fun z => z.ent pTime 0 5 128 10 == 1 &&
      bitOf (z.rd 0 (regA pTime 0x04C)) 0 && !bitOf (z.ent pTime 0 5 128 0) 31 && bitOf (z.rd 0 (regA pTime 0x044)) 3) = true ∧
    ends (.comparatorFire 128) (cmp128 [2 ^ 31 + 2 ^ 30 + 3, 0, 0, 65536000, 0, 1] CmpRec.idle) (fun z => (z.cmpRec 128).k == 1 &&
      bitOf (z.ent pTime 0 5 128 0) 31) = true ∧
    ends (.comparatorFire 128) (cmp128 [] ⟨0, false, some 0, [2 ^ 31 + 3], 0, false⟩) (fun z => z.ent pTime 0 5 128 10 == 1) = true ∧
    ends (.comparatorFire 128) (regs [(0, regA pAud 0x070, 128), (0, regA pAud 0x074, 1)] (cmp128 [2 ^ 31 + 3] CmpRec.idle)) (fun z =>
      z.tdmState 0 == 2) = true := by decide +kernel
/-- Candidate 2 in a state, with PRIO 1 on DPLL 1, which is enabled with a status word. -/
def refs (cand dpll : Nat) (r : CandRec) : State :=
  { ents [(pRefsel, 0, 3, 2, [cand]), (pRefsel, 0, 2, 1, [2 ^ 31]), (pRefsel, 0, 4, 1, [dpll])] (regs [(0, regA pRefsel 0x064, 256)] run) with
    cand := [(2, r)] }
/-- References: edges, windows and the waits of a candidate. -/
theorem test_ref_cand : ends (.candMissingEdge 2) (refs 3 0x22 CandRec.idle) (fun z => z.candState 2 == 3 && z.dpllFreeze 1 && z.dpllSel 1 == 2) =
      true ∧
    ends (.candMissingEdge 2) (refs 3 0x22 { CandRec.idle with missing := 1 }) (fun z => z.candState 2 == 1 && z.dpllSel 1 == 8 &&
      z.dpllState 1 == 0 && bitOf (z.rd 0 (regA pRefsel 0x04C)) 0 && bitOf (z.rd 0 (regA pRefsel 0x054)) 9) = true ∧
    ends (.candMissingEdge 2) (refs 3 0x222 { CandRec.idle with missing := 1 }) (fun z => z.dpllState 1 == 3 && z.dpllSel 1 == 8) = true ∧
    ends (.candidateEdge 2) (refs 3 0x122 { CandRec.idle with missing := 1 }) (fun z => !z.dpllFreeze 1 && (z.candRec 2).missing == 0) = true ∧
    ends (.candFreqWindow 2 50001) (refs 3 0x22 CandRec.idle) (fun z => z.candState 2 == 1 && bitOf (z.rd 0 (regA pRefsel 0x050)) 10) = true ∧
    ends (.candFreqWindow 2 50000) (refs 3 0x22 CandRec.idle) (fun z => z.candState 2 == 3) = true := by decide +kernel
theorem test_ref_qualify : ends (.candQualified 2) (refs 1 0x80 CandRec.idle) (fun z => z.candState 2 == 3 && z.dpllSel 1 == 2 &&
      z.dpllState 1 == 1) = true ∧
    ends (.candQualified 2) (refs 1 0x80 { CandRec.idle with ever := true }) (fun z => z.candState 2 == 2) = true ∧
    ends (.candWtrExpire 2) (refs 2 0x80 CandRec.idle) (fun z => z.candState 2 == 3 && z.dpllSel 1 == 2) = true ∧
    (regs [(0, regA pRefsel 0x058, 0x30)] (refs 2 0x80 CandRec.idle)).dpllPick 1 = 2 ∧ (refs 3 0x22 CandRec.idle).dpllPick 1 = 2 ∧
    (refs 3 0x80 CandRec.idle).dpllPick 1 = 2 ∧ (refs 1 0x80 CandRec.idle).dpllPick 1 = 8 := by decide +kernel
theorem test_ref_dpll : ends (.dpllLock 1) (refs 3 0x21 CandRec.idle) (fun z => z.dpllState 1 == 2 && bitOf (z.rd 0 (regA pRefsel 0x054)) 17) = true ∧
    ends (.dpllLockLost 1) (refs 3 0x22 CandRec.idle) (fun z => z.dpllState 1 == 1 && bitOf (z.rd 0 (regA pRefsel 0x04C)) 4) = true ∧
    ends (.holdoverHistory 1) (refs 3 0x22 CandRec.idle) (fun z => z.dpllReady 1) = true ∧
    run.admits (.w32 p0 (regA pRefsel 0x040) 0x12) = true ∧ (run.pageLocked pRefsel = false) ∧
    ends (.clkMapWrite p0 0x12) run (fun z => z.rd 0 (regA pRefsel 0x040) == 0x12) = true := by decide +kernel
/-- The MAC with EN = 1 in a state with its hidden state, the slot map giving slot 4 to node 5 and slot 9 to joiners. -/
def gbIn (st : Nat) (g : GbusSt) : State :=
  { ents [(pGbus, 0, 1, 4, [5]), (pGbus, 0, 1, 9, [0x40])] (regs [(0, gA 0x040, 3), (0, gA 0x044, st + 5 * 256)] run) with gbus := g }
def gOpen : GbusSt := { GbusSt.off with isOpen := true }
/-- GarpenBus: beacons. -/
theorem test_gbus_beacon : (gbIn 1 gOpen).gRuns = true ∧ goodBeacon ⟨7, 8, false, 9, List.replicate 240 3⟩ = true ∧
    ends (.beacon ⟨7, 8, false, 9, List.replicate 240 3⟩) (gbIn 1 gOpen) (fun z => z.gState == 2 && z.gMap 239 == 3) = true ∧
    ends (.beacon ⟨7, 8, true, 9, List.replicate 240 3⟩) (gbIn 3 gOpen) (fun z => z.gState == 5 && z.gbus.resume == 3) = true ∧
    goodBeacon ⟨7, 8, false, 9, [0x41]⟩ = false ∧
    ends (.beacon ⟨7, 8, false, 9, [0x41]⟩) (gbIn 3 gOpen) (fun z => z.rd 0 (gA 0x07C) == 1 && z.gState == 3) = true ∧
    ends .beaconMissing (gbIn 3 { gOpen with missed := 7 }) (fun z => z.gState == 4 && bitOf (z.rd 0 (gA 0x048)) 1) = true ∧
    ends .beaconMissing (gbIn 1 gOpen) (fun z => z.rd 0 (gA 0x07C) == 0) = true := by decide +kernel
/-- Registration: the part's own UID is Config.gbusUid. -/
theorem test_gbus_join : (gbIn 2 { gOpen with asked := true }).gRuns = true ∧ (gbIn 2 { gOpen with asked := true }).gState = 2 ∧
    (gbIn 2 { gOpen with asked := true }).gbus.asked = true ∧
    ends .joinTimeout (gbIn 3 gOpen) (fun z => z.gState == 3) = true ∧
    ends .rejectWaitExpire (gbIn 6 gOpen) (fun z => z.gState == 2) = true := by decide +kernel
/-- Transmission. -/
theorem test_gbus_transmit : ends (.gbusTransmit 9 none false) (gbIn 2 gOpen) (fun z => z.out.length == 1 && z.gbus.asked && z.gbus.seq == 1) = true ∧
    ends (.gbusTransmit 8 none false) (gbIn 2 gOpen) (fun z => z.out == []) = true ∧
    ends (.gbusTransmit 4 none true) (gbIn 3 { gOpen with ctl := [(5, 0)] }) (fun z => z.out == [.garpen 4 5 (some 255) 5 0 0 []] &&
      z.rd 0 (gA 0x078) == 1) = true ∧
    ends (.gbusTransmit 4 (some 44) false) (gbIn 3 gOpen) (fun z => z.out == [.garpen 4 1 none 5 0 44 []] && z.gbus.next == 5) = true ∧
    ends (.gbusTransmit 4 (some 45) false) (gbIn 3 gOpen) (fun z => z.out == []) = true ∧
    ends (.gbusTransmit 4 (some 44) false) (gbIn 3 { gOpen with holds := [(2, some ⟨0, none⟩)] }) (fun z => z.out == []) = true ∧
    ends (.gbusTransmit 4 (some 44) false) (gbIn 3 { gOpen with next := 5 }) (fun z => z.out == []) = true := by decide +kernel
/-- Receive, with no queue bound and with a queue that holds a descriptor of 64 bytes. -/
def gbRx : State := (regs [(0, qA 0 true + 0x08, 1 + 4 * 256), (0, qA 0 true + 0x18, 1)] (gbIn 3 gOpen)).setQrec 0 true
  { QRec.idle with flight := [⟨0, false, BitVec.ofNat 256 (64 * 2 ^ 64), 0, false, none, none⟩] }
theorem test_gbus_receive : ends (.gbusDataReceive 2 5 8 false) (gbIn 3 gOpen) (fun z => z.rd 0 (gA 0x074) == 1 && bitOf (z.rd 0 (gA 0x048)) 2) =
      true ∧
    (gbIn 3 gOpen).gRxQueue = none ∧ ends (.gbusDataReceive 2 5 8 true) (gbIn 3 gOpen) (fun z => z.rd 0 (gA 0x084) == 1 && z.rd 0 (gA 0x070) == 1) =
      true ∧
    gbRx.gRxQueue = some 0 ∧ (fillDescs 2 none 16 true (gbRx.qrec 0 true).flight).2 = 0 ∧
    ends (.gbusDataReceive 2 5 8 true) gbRx (fun z => z.rd 0 (gA 0x084) == 0 && (z.qrec 0 true).flight.any fun f => f.fin.isSome) = true ∧
    (gbIn 4 gOpen).gHasNode = true ∧ ends (.gbusDataReceive 5 5 8 true) (gbIn 4 gOpen) (fun z => z.rd 0 (gA 0x078) == 1) = true ∧
    ends (.gbusDataReceive 2 6 8 true) (gbIn 3 gOpen) (fun z => z.rd 0 (gA 0x070) == 0) = true := by decide +kernel
/-- Holds of node 2. -/
def gbHold (first : Nat) (stop : Option Nat) (b : Nat) : State := { gbIn 3 { gOpen with holds := [(2, some ⟨first, stop⟩)] } with beat := b }
theorem test_gbus_pause : ends (.gbusPause 2 0) (gbIn 3 gOpen) (fun z => z.hold 2 == some ⟨0, none⟩ && bitOf (z.rd 0 (gA 0x044)) 16) = true ∧
    ends (.gbusPause 2 10) (gbHold 0 (some 9) 1) (fun z => z.hold 2 == some ⟨0, some 3457⟩) = true ∧
    ends (.gbusPause 2 10) (gbIn 3 { gOpen with ignored := [2] }) (fun z => z.gbus.holds == []) = true ∧
    ends (.gbusResume 2) (gbHold 0 none 1) (fun z => z.gbus.holds == []) = true ∧
    ends (.pauseExpire 2) (gbHold 0 (some 9) 9) (fun z => z.gbus.holds == []) = true ∧
    ends (.pauseExpire 2) (gbHold 0 (some 9) 8) (fun z => z.gbus.holds != []) = true ∧
    ends (.pauseWatchdog 2) (gbHold 0 none 691200) (fun z => z.gbus.holds == [] && z.gbus.ignored == [2] && z.rd 0 (gA 0x080) == 1) = true ∧
    ends (.pauseWatchdog 2) (gbHold 0 none 691199) (fun z => z.gbus.holds != []) = true ∧
    ends (.pauseIgnoreExpire 2) (gbIn 3 { gOpen with ignored := [2, 7] }) (fun z => z.gbus.ignored == [7]) = true := by decide +kernel
theorem test_gbus_idle : ends .lpiReq (gbIn 3 gOpen) (fun z => z.gbus.ctl == [(6, 0)] && z.gbus.lpiAsked) = true ∧
    ends .lpiReq (gbIn 2 gOpen) (fun z => z.gbus.ctl == []) = true ∧
    ends .gbusWakeTone (gbIn 5 gOpen) (fun z => z.out.length == 1) = true ∧
    ends .gbusWakeTimeout (gbIn 5 gOpen) (fun z => z.gState == 4) = true ∧ ends .gbusWakeTimeout (gbIn 3 gOpen) (fun z => z.gState == 3) = true ∧
    ends .autoPauseLimit (regs [(0, gA 0x044, 3 + 2 ^ 17)] (gbIn 3 gOpen)) (fun z => z.gbus.ctl == [(5, 0)] && z.gbus.barred) = true := by
  decide +kernel
/-! ### The management complex, faults and power -/

/-- Management states: a part before its start, and one that runs, with other hidden words. -/
def mgt0 (m : MgtSt) : State := { State.reset with mgt := m }
def mgt1 (m : MgtSt) : State := { run with mgt := m }
def m0 : MgtSt := MgtSt.first
def m1 : MgtSt := { MgtSt.first with booted := true }
/-- A trial of slot 1 with slot 0 as STANDBY, its window open up to beat 50. -/
def trial1 : MgtSt := { m1 with slots := [5, 4], running := 1, trial := true, deadline := some 50 }
/-- StartAndUpdates: resets and starts. -/
theorem test_mgt_reset : ends .resetN (mgt1 trial1) (fun z => z.rd 0 (regA pFlt 0x06C) == 0x40000000 && z.mgt.trial && !z.mgt.booted &&
      z.mgt.deadline == none && z.fab == State.reset.fab) = true ∧
    ends .perstN { run with host := { run.host with linkUp := true } } (fun z => !z.host.linkUp && !z.host.perstN) = true ∧
    run.mgtMode = 1 ∧ run.admits (hostAccess p0 pMgt 0x048 1) = true ∧ State.reset.admits (hostAccess p0 pMgt 0x048 1) = true ∧
    ends (.warm p0) run (fun z => !z.mgtReady && !z.take.solver) = true ∧
    ends .managementWarmReset run (fun z => !z.mgtReady) = true ∧ State.reset.mgtMode ≠ 1 := by decide +kernel
theorem test_mgt_start : (mgt0 m0).mgtMode = 0 ∧ (mgt0 m0).slot 0 = 4 ∧
    ends (.start ⟨true, 0⟩) (mgt0 m0) (fun z => z.mgt == { m1 with starts := 1, fails := 1 }) = true ∧
    ends (.start ⟨true, 0⟩) (mgt0 { m0 with fails := 3 }) (fun z => z.mgtMode == 2) = true ∧
    ends (.start ⟨false, 5⟩) (mgt0 { m0 with slots := [4, 5] }) (fun z => z.mgt.slots == [3, 4] && z.mgt.running == 1 &&
      z.mgt.records == [⟨5, 0, 2, 0, 1⟩]) = true ∧
    ends (.start ⟨false, 5⟩) (mgt0 m0) (fun z => z.mgt.slots == [3, 0]) = true := by decide +kernel
/-- An image of revision 0x00A0 in slot 0: START finds it bad by its bytes. -/
def alien : State := mgt0 { m0 with flash := [(0, List.replicate 64 0xA0)] }
theorem test_mgt_image : alien.imageBad 0 = true ∧ alien.otherSilicon 0 = true ∧ (mgt0 m0).imageBad 0 = false ∧
    ends (.start ⟨true, 0⟩) alien (fun z => z.mgt.slots == [3, 0] && z.mgt.records == [⟨3, 0, 2, 0, 1⟩]) = true := by decide +kernel
/-- PERST_N in SLEEP waits for the exit. -/
theorem test_mgt_perst : ends .perstN (regs [(0, regA pPwr 0x048, 2)] run) (fun z => z.pwr.perst && z.host.vfEnable) = true ∧
    ends (.wakeExitDone true) { regs [(0, regA pPwr 0x048, 2)] run with pwr := { PwrSt.run with waking := true, perst := true } }
      (fun z => !z.pwr.perst && !z.host.vfEnable && z.pwrState == 0) = true := by decide +kernel
theorem test_mgt_start' : ends (.start ⟨true, 0⟩) (mgt0 { m0 with slots := [0, 0] }) (fun z => z.mgt.records == [⟨1, 0, 2, 0, 1⟩]) = true ∧
    (mgt0 { trial1 with booted := false }).standby = some 0 ∧
    ends (.start ⟨true, 0⟩) (mgt0 { trial1 with booted := false }) (fun z => z.mgt.slots == [4, 2] && z.mgt.running == 0 &&
      z.mgt.records == [⟨9, 1, 1, 0, 1⟩]) = true := by decide +kernel
theorem test_mgt_ready : ends .mgtReady (mgt0 { m1 with fails := 1, tripped := true }) (fun z => z.mgtReady && z.mgtMode == 1 &&
      z.mgt.fails == 0 && z.take.solver && bitOf (z.rd 0 (regA pPwr 0x04C)) 2) = true ∧
    ends (.startFail 6 3) (mgt0 m1) (fun z => z.mgt.records == [⟨6, 0, 3, 0, 0⟩] && !z.mgt.booted) = true ∧
    ends .managementWatchdog (mgt0 m1) (fun z => z.mgt.records == [⟨7, 0, 0, 0, 0⟩]) = true ∧
    ends .managementWatchdog (mgt1 m1) (fun z => !z.mgtReady && bitOf (z.rd 0 (regA pMgt 0x044)) 4) = true ∧
    ends .managementWatchdog (regs [(0, regA pMgt 0x040, 4)] (mgt0 m1)) (fun z => z.mgt == m1) = true ∧
    (regs [(0, regA pMgt 0x040, 4)] (mgt0 m1)).mgtMode = 2 := by decide +kernel
/-- The same with firmware that is not ready. -/
def mgtW (m : MgtSt) : State := regs [(0, regA pMgt 0x040, 2)] (mgt1 m)
theorem test_mgt_trial : (mgt1 trial1).standby = some 0 ∧ (mgtW trial1).mgtReady = false ∧ (mgtW trial1).mgtMode = 1 ∧
    ends .managementWatchdog (mgt1 trial1) (fun z => z.mgt.slots == [4, 3] && z.mgt.running == 0 && z.mgt.cmd == some (6, 0)) = true ∧
    ends .trialHealthTimeout (mgtW { trial1 with deadline := none }) (fun z => z.mgt.slots == [4, 3] && !z.mgt.trial) = true ∧
    ends .acceptWindowEnd { mgt1 trial1 with beat := 50 } (fun z => z.mgt.slots == [4, 2] && z.mgt.records == [] && z.mgtPause) = true ∧
    ends .acceptWindowEnd { mgt1 trial1 with beat := 49 } (fun z => z.mgt == trial1) = true := by decide +kernel
/-- A host write of UPD_CMD, and its code, at two states. -/
def upd (op n : Nat) : Access := hostAccess p0 pMgt 0x050 (wd (op + n * 256))
def code (z : State) : Nat := z.rdF 0 (regA pMgt 0x054) 0 8
theorem test_mgt_load : ((mgt1 m1).admits (upd 1 1) && (mgtW m1).admits (upd 2 1) && (mgt1 m1).admits (upd 7 1)) = true ∧
    ends (.loadBegin p0 0) (mgt1 m1) (fun z => code z == 5 && bitOf (z.rd 0 (regA pMgt 0x044)) 0) = true ∧
    ends (.loadBegin p0 0) (mgt1 trial1) (fun z => code z == 5) = true ∧
    ends (.loadBegin p0 1) (mgtW m1) (fun z => code z == 7) = true ∧
    ends (.loadBegin p0 1) (mgt1 { m1 with flash := [(2 ^ 19, [1])], pages := [(2007, { SetPage.blank with frame0 := [1] })] }) (fun z => code z == 0 &&
      z.mgt.cmd == some (1, 1) && z.mgt.flash == [] && (z.setPage 1 7).data == [] && z.mgt.unset == [1]) = true ∧
    ends (.updateCommandDone ⟨true⟩) (mgt1 { m1 with cmd := some (1, 1) }) (fun z => z.mgt.slots == [4, 1] && z.mgt.cmd == none) = true ∧
    ends (.updateCommandDone ⟨true⟩) (mgt1 { m1 with cmd := some (2, 1) }) (fun z => z.mgt.slots == [4, 3]) = true := by decide +kernel
theorem test_mgt_load' : ends (.loadEnd p0 1) (mgt1 m1) (fun z => code z == 5) = true ∧
    ends (.loadEnd p0 1) (mgtW { m1 with slots := [4, 1] }) (fun z => code z == 7) = true ∧
    ends (.loadEnd p0 1) (mgt1 { m1 with slots := [4, 1] }) (fun z => z.mgt.cmd == some (2, 1)) = true ∧
    ends (.loadAbort p0 1) (mgt1 m1) (fun z => code z == 5) = true ∧
    ends (.loadAbort p0 1) (mgt1 { m1 with slots := [4, 1], cmd := some (2, 1) }) (fun z => code z == 7) = true ∧
    ends (.loadAbort p0 1) (mgt1 { m1 with slots := [4, 1] }) (fun z => z.mgt.slots == [4, 0]) = true := by decide +kernel
/-- Slot 1 VALID; with activation locked out, a locked page of partition 3, a take in a queue. -/
def valid1 : State := mgt1 { m1 with slots := [4, 2] }
def locked3 : State := regs [(0, regA (pLane 5) 0x00C, 2 ^ 31), (0, regA (pLane 5) 0x010, 3)] valid1
theorem test_mgt_activate : ends (.activate p0 1) (mgt1 trial1) (fun z => code z == 6) = true ∧
    ends (.activate p0 1) (mgt1 m1) (fun z => code z == 5) = true ∧
    valid1.updBusy = false ∧ valid1.lockedPage = none ∧ valid1.queueTotal = 0 ∧ (List.all (List.range 16) fun p => valid1.audPending p == 0) = true ∧
    ends (.activate p0 1) (mgtW { m1 with slots := [4, 2] }) (fun z => code z == 7) = true ∧
    ends (.activate p0 1) (regs [(0, regA pMgt 0x04C, 1)] valid1) (fun z => code z == 1) = true ∧
    (regs [(0, regA pHost 0x074, 2)] valid1).queueTotal = 0 := by decide +kernel
theorem test_mgt_accept : (mgt1 trial1).windowOpen = true ∧ (mgt1 trial1).halter = false ∧
    ends (.accept p0) (mgt1 trial1) (fun z => z.mgt == { trial1 with trial := false, deadline := none } && code z == 0) = true ∧
    ends (.revert p0) (mgt1 trial1) (fun z => z.mgt.slots == [4, 2] && z.mgt.running == 0) = true ∧
    ends (.accept p0) (mgtW trial1) (fun z => code z == 7) = true ∧ ends (.revert p0) (mgt1 m1) (fun z => code z == 10) = true ∧
    ends (.recover p0 1) (mgt1 m1) (fun z => code z == 5) = true ∧
    ends (.recover p0 1) valid1 (fun z => z.mgt.running == 1 && z.mgt.slots == [5, 4]) = true := by decide +kernel
/-- Halter mode. -/
def halter1 : State := regs [(0, regA pMgt 0x040, 4)] (mgt0 { m1 with slots := [3, 0] })
theorem test_mgt_halter : halter1.halter = true ∧ halter1.admits (upd 5 0) = true ∧
    ends (.accept p0) halter1 (fun z => code z == 8) = true ∧ ends (.activate p0 0) halter1 (fun z => code z == 8) = true ∧
    ends (.loadBegin p0 1) halter1 (fun z => z.mgt.cmd == some (1, 1)) = true := by decide +kernel
/-- FaultCollector: batches, conditions, PCIe and blocks in reset. -/
def occs (l : List Occ) : State := { run with occ := l }
def hold1 (l : List Occ) : State := regs [(0, regA pFlt 0x040, 1)] (occs l)
theorem test_flt_batch : ends (.faultOccurrence [⟨400, 48⟩] none) run (fun z => z.srcActive 0 400 && z.srcPend 0 400 && z.occ == []) = true ∧
    ends (.faultOccurrence [⟨576, 0⟩, ⟨610, 0⟩, ⟨3, 0⟩] none) { run with take := State.reset.take } (fun z => z.srcPend 0 576 && z.srcPend 0 610 && !z.srcPend 0 3) = true ∧
    ends (.faultOccurrence [] none) (occs [⟨288, 5, 3⟩]) (fun z => z.srcPend 3 288 && z.srcCount 3 288 == 1 && z.occ == [] &&
      z.rd 3 (regA pFlt 0x05C) == 1) = true ∧
    ends (.faultOccurrence [] none) (ents [(pFlt, 0, 1, 290, [4 * 16])] (occs [⟨290, 9, 0⟩])) (fun z =>
      z.flt.resetting == [(pPort 9, 9)]) = true := by decide +kernel
theorem test_flt_batch' : ends (.faultOccurrence [] none) (ents [(pFlt, 0, 1, 290, [8 * 16])] (occs [⟨290, 9, 0⟩])) (fun z =>
      z.rd 0 (regA pFlt 0x06C) == wd (9 + 290 * 65536 + 2 ^ 31) && z.occ == []) = true ∧
    ends (.faultOccurrence [] none) (ents [(pFlt, 0, 1, 290, [12 * 16])] (occs [⟨290, 9, 3⟩])) (fun z =>
      z.rd 3 (regA pFlt 0x064) == 1 && bitOf (z.rd 0 (regA pFlt 0x044)) 1) = true ∧
    ends (.faultOccurrence [] none) (ents [(pFlt, 0, 1, 576, [4 * 16])] (occs [⟨576, 0, 0⟩])) (fun z =>
      z.flt.resetting.contains (pPort 2, 2)) = true ∧
    ends (.faultOccurrence [] none) (hold1 [⟨290, 9, 3⟩]) (fun z => z.held && z.srcPend 3 290 && z.out == []) = true ∧
    ends (.faultOccurrence [] (some 2)) (occs []) (fun z => z.held && z.errN && z.srcPend 0 626) = true ∧
    (occs []).held = false := by decide +kernel
/-- In SLEEP the reset of a block waits for the exit. -/
def sleeping (p : PwrSt) : State := { regs [(0, regA pPwr 0x048, 2)] (ents [(pFlt, 0, 1, 290, [4 * 16])] (occs [⟨290, 9, 0⟩])) with pwr := p }
theorem test_flt_asleep : ends (.faultOccurrence [] none) (sleeping PwrSt.run) (fun z => z.flt.resetting == [] && z.srcPend 0 290 &&
      z.pwr.later.length == 1) = true ∧
    ends (.wakeExitDone true) { sleeping { PwrSt.run with waking := true, later := [(⟨290, 9, 0⟩, 2, 4)] } with occ := [] }
      (fun z => z.flt.resetting == [(pPort 9, 9)] && z.pwr.later == []) = true := by decide +kernel
theorem test_flt_events : (run.setActive 0 400 true).srcActive 0 400 = true ∧
    ends (.conditionEnd 400) (run.setActive 0 400 true) (fun z => !z.srcActive 0 400) = true ∧
    ends (.pcieLinkChange false) { run with host := { run.host with linkUp := true, perstN := true } } (fun z => z.occ == [⟨608, 0, 0⟩]) = true ∧
    ends (.blockRestored ⟨pLane 9, by decide⟩ 9) { run with flt := { run.flt with resetting := [(pLane 9, 9)] } } (fun z =>
      z.flt.resetting == [] && z.ready (pLane 9)) = true ∧
    run.folState 9 = 0 ∧ run.gated (pFol 9) = false ∧
    ends (.blockRestored ⟨pFol 9, by decide⟩ 9) run (fun z => z.folState 9 == 1) = true := by decide +kernel
/-- A pending source of partition 3, counted in beat 7. -/
def pend3 (b : Nat) : State :=
  let s := ents [(pFlt, 3, 3, 290, [1 + 5 * 65536])] run
  { s with beat := b, flt := { s.flt with occAt := [(3 * 640 + 290, (7, 2))] } }
theorem test_flt_ack : (pend3 7).admits (hostAccess (.p 3) pFlt 0x054 290) = true ∧ (pend3 7).srcPend 3 290 = true ∧
    ends (.faultAck (.p 3) 290) (pend3 7) (fun z => z.srcPend 3 290 && z.srcCount 3 290 == 2) = true ∧
    ends (.faultAck (.p 3) 290) (pend3 8) (fun z => !z.srcPend 3 290 && z.srcCount 3 290 == 0) = true ∧
    ends (.faultAck (.p 3) 700) (pend3 8) (fun z => z.srcPend 3 290) = true ∧
    ends (.faultAck (.p 3) 0x80000000) (pend3 8) (fun z => !z.srcPend 3 290) = true := by decide +kernel
/-- Hold-all with self-test passed or not. -/
def hold2 (v : Nat) : State := regs [(0, regA pFlt 0x040, v)] run
theorem test_flt_self : (hold2 1).admits (hostAccess p0 pFlt 0x04C 1) = true ∧ (hold2 1).admits (hostAccess p0 pFlt 0x04C 2) = true ∧
    (writeFltCmd 1 run).rd 0 (regA pFlt 0x050) = 0x101 ∧ (writeFltCmd 1 (hold2 1)).fltTesting = true ∧
    (writeFltCmd 1 (hold2 5)).rd 0 (regA pFlt 0x050) = 0x104 ∧ (writeFltCmd 2 (hold2 1)).rd 0 (regA pFlt 0x050) = 0x203 ∧
    (writeFltCmd 2 (ents [(pFlt, 0, 3, 625, [1])] (hold2 3))).rd 0 (regA pFlt 0x050) = 0x202 ∧
    (writeFltCmd 2 (hold2 3)).flt.release = true ∧
    ends (.selftestDone [.config 290] true) (hold2 5) (fun z => z.fltSelfOk && !z.fltTesting && bitOf (z.ent pFlt 0 1 290 0) 26) = true := by
  decide +kernel
theorem test_flt_release : ends .fabricBeat { hold2 3 with flt := { run.flt with release := true } } (fun z => !z.held && !z.flt.release) = true := by
  decide +kernel
/-- Lane 3 held by the farrier test, with a measurement. -/
def far3 (r : Option FarRec) : State :=
  let s := regs [(0, lnA 3 0x04, 2 ^ 14), (0, regA pFlt 0x074, 200 + 4 * 65536 + 10 * 2 ^ 24)] (ents [(pFlt, 0, 5, 3, [1, 0, 0, 0, 0])] run)
  { s with flt := { s.flt with farrier := match r with | some q => [(3, some q)] | none => [] } }
def rec3 : FarRec := ⟨1000, 0, 300, [5, 20, 30, 40], true⟩
theorem test_flt_measure : (far3 none).farrierHeld 3 = true ∧ (far3 none).bus.res = [] ∧
    ends (.farrierMeasure 3 8 1 300 20 30 40 5 false) (far3 none) (fun z =>
      Tab.get (fun _ => none) z.flt.farrier 3 == some ⟨8, 1, 300, [5, 20, 30, 40], false⟩) = true ∧
    ends (.farrierMeasure 3 8 1 300 20 30 40 5 true) (far3 (some { rec3 with locked := false })) (fun z =>
      (Tab.get (fun _ => none) z.flt.farrier 3).any fun r => !r.locked) = true := by decide +kernel
theorem test_flt_report : ends .healthReport (far3 (some rec3)) (fun z => z.entF pFlt 0 5 3 0 0 3 == 1 && z.ent pFlt 0 5 3 1 == 1000) = true ∧
    ends .healthReport (far3 (some { rec3 with eye := [5, 20, 9, 40] })) (fun z => z.entF pFlt 0 5 3 0 0 3 == 2 &&
      bitOf (z.rd 0 (regA pFlt 0x044)) 0) = true := by decide +kernel
theorem test_flt_report' : ends .healthReport (far3 (some { rec3 with locked := false })) (fun z => z.entF pFlt 0 5 3 0 0 3 == 4) = true ∧
    ends .healthReport (far3 none) (fun z => z.entF pFlt 0 5 3 0 0 3 == 1 && z.rd 0 (regA pFlt 0x088) == 1) = true := by decide +kernel
/-- PowerManager: ALLOW = IDLE and SLEEP, a budget of 400 µs, THROTTLE_C = 100; wake sources enabled. -/
def pw (p : PwrSt) (st : Nat) : State :=
  { regs [(0, regA pPwr 0x040, 3 + 100 * 256), (0, regA pPwr 0x044, 400), (0, regA pPwr 0x048, st), (0, regA pPwr 0x060, 62),
    (0, regA pPwr 0x068, 65535), (0, regA pPwr 0x06C, 0)] run with pwr := p }
/-- A montage head is configured. -/
def busyMon (p : PwrSt) : State := ents [(pMon, 0, 1, 0, [2 ^ 31])] (pw p 0)
theorem test_pwr_evaluate : (pw PwrSt.run 0).allowedStates = [2, 1] ∧
    ends .powerEvaluate (pw PwrSt.run 0) (fun z => z.pwr.entry == 2 && z.rdF 0 (regA pPwr 0x048) 3 1 == 1 && z.pwr.refused == none) = true ∧
    (busyMon PwrSt.run).refusers 2 = [pMon] ∧
    ends .powerEvaluate (busyMon PwrSt.run) (fun z => z.pwr.refused == some (pMon, 2) && z.rd 0 (regA pPwr 0x050) == 1) = true ∧
    ends .powerEvaluate (busyMon { PwrSt.run with refused := some (pMon, 2) }) (fun z => z.rd 0 (regA pPwr 0x050) == 0) = true ∧
    ends .powerEvaluate (pw { PwrSt.run with hold := true } 0) (fun z => z.pwr.entry == 0) = true ∧
    ends .holdExpire (pw { PwrSt.run with hold := true } 0) (fun z => z.pwr.entry == 2 && !z.pwr.hold) = true ∧
    ends .holdExpire (pw { PwrSt.run with hold := true, waking := true } 1) (fun z => z.pwr.entry == 0 && !z.pwr.hold) = true := by
  decide +kernel
theorem test_pwr_budget : (pw PwrSt.run 0).admits (hostAccess p0 pPwr 0x044 2) = true ∧
    ends (.latencyBudgetWrite p0 2) (pw PwrSt.run 0) (fun z => z.pwr.entry == 1) = true ∧
    ends (.latencyBudgetWrite p0 2) (pw { PwrSt.run with waking := true } 1) (fun z => z.pwr.entry == 0) = true := by decide +kernel
/-- Lane 3 is READY. -/
def ready3 (p : PwrSt) : State := (pw p 0).setLnState 3 5
theorem test_pwr_entry : (ready3 PwrSt.run).lnState 3 = 5 ∧
    ends .stateEntryComplete (ready3 { PwrSt.run with entry := 2 }) (fun z => z.pwrState == 2 && z.lnState 3 == 6 && z.gbus.stopped) = true ∧
    ends .stateEntryComplete (ready3 { PwrSt.run with entry := 2, level := some 2 }) (fun z => z.pwr.waking &&
      z.rdF 0 (regA pPwr 0x048) 8 4 == 2) = true ∧
    ends .stateEntryComplete (ready3 { PwrSt.run with entry := 1, level := some 2 }) (fun z => !z.pwr.waking && z.pwr.level == none) = true ∧
    ends .stateEntryComplete (ready3 PwrSt.run) (fun z => z.pwrState == 0) = true := by decide +kernel
theorem test_pwr_wake : (pw PwrSt.run 2).wakeEnabled 4 3 = true ∧ (pw PwrSt.run 2).wakeEnabled 4 40 = false ∧
    ends (.wake 4 3 false) (pw PwrSt.run 2) (fun z => z.pwr.waking && z.pwr.hold && z.rdF 0 (regA pPwr 0x048) 8 4 == 4) = true ∧
    ends (.wake 4 3 false) (pw PwrSt.run 1) (fun z => z.pwr == PwrSt.run) = true ∧
    ends (.wake 2 3 true) (pw { PwrSt.run with entry := 2 } 0) (fun z => z.pwr.level == some 2) = true ∧
    ends (.wake 4 3 true) (pw { PwrSt.run with entry := 2 } 0) (fun z => z.pwr.level == none) = true ∧
    ends (.wake 4 3 false) (pw { PwrSt.run with entry := 2 } 0) (fun z => z.pwr.entry == 0 && !z.pwr.waking && z.rd 0 (regA pPwr 0x050) == 1) = true ∧
    ends (.wake 4 3 false) (pw { PwrSt.run with entry := 2 } 1) (fun z => z.pwr.waking && z.rdF 0 (regA pPwr 0x048) 8 4 == 8) = true ∧
    ends (.wake 4 3 false) (pw { PwrSt.run with entry := 1 } 0) (fun z => z.pwr.entry == 1) = true := by decide +kernel
theorem test_pwr_exit : ends (.wakeExitDone true) (pw { PwrSt.run with waking := true } 2) (fun z => z.pwrState == 0 && !z.pwr.waking) = true ∧
    ends (.wakeExitDone true) (pw { PwrSt.run with waking := true } 4) (fun z => z.pwrState == 0 && z.mgtMode == 0) = true ∧
    ends (.wakeExitDone false) (pw { PwrSt.run with waking := true } 3) (fun z => z.pwrState == 0 && z.mgtMode == 0) = true ∧
    ends (.wakeExitDone true) (pw PwrSt.run 3) (fun z => z.pwrState == 3) = true := by decide +kernel
theorem test_pwr_deep : ends (.wakeExitDone true) (regs [(0, regA (pLane 5) 0x00C, 3)] (ents [(pPart, 0, 1, 3, [9])]
      (pw { PwrSt.run with waking := true } 3))) (fun z => z.pwrState == 0 && z.pageOwner (pLane 5) == 3 && z.ent pPart 0 1 3 0 == 9 &&
        z.fab == State.reset.fab) = true := by decide +kernel
theorem test_pwr_clap : run.admits (hostAccess p0 pPwr 0x064 (setBit 0x305 31 true)) = true ∧ run.mission 40 = false ∧
    ends (.clapGo p0 0x305) run (fun z => z.pwr.clap == some (5, 3) && z.out == [.clap 5 3]) = true ∧
    ends (.clapGo p0 0x33F) run (fun z => z.pwr.clap == some (63, 0) && bitOf (z.rd 0 (regA pPwr 0x04C)) 3) = true ∧
    ends .clapEnd { run with pwr := { PwrSt.run with clap := some (5, 3) } } (fun z => z.pwr == PwrSt.run) = true := by decide +kernel
theorem test_pwr_throttle : ends (.throttleStep ⟨13, 2⟩ 100) (pw PwrSt.run 0) (fun z => z.pwr.throttle == [(13 * 256 + 2, 1)] &&
      bitOf (z.rd 0 (regA pPwr 0x048)) 16 && bitOf (z.rd 0 (regA pPwr 0x04C)) 1) = true ∧
    ends (.throttleStep ⟨13, 2⟩ 100) (pw { PwrSt.run with throttle := [(13 * 256 + 2, 3)] } 0) (fun z => z.pwr.throttle == [(3330, 3)]) = true ∧
    ends (.throttleStep ⟨13, 2⟩ 94) (pw { PwrSt.run with throttle := [(3330, 1)] } 0) (fun z => z.pwr.throttle == []) = true ∧
    ends (.throttleStep ⟨13, 2⟩ 95) (pw { PwrSt.run with throttle := [(3330, 1)] } 0) (fun z => z.pwr.throttle == [(3330, 1)]) = true ∧
    ends (.throttleStep ⟨5, 2⟩ 120) (pw PwrSt.run 0) (fun z => z.pwr.throttle == []) = true ∧
    ends (.thermalTrip 7) run (fun z => z.mgt.tripped && z.rd 0 (regA pFlt 0x06C) == wd (7 + 455 * 65536 + 2 ^ 31)) = true := by decide +kernel

end Sys2Proof.Tests
end

section
/-!
PROOFS. Scope: what every command keeps, what reset leaves, and what an access does to the bus matrix's counts and to a register that
has no rule but its access type.
-/
namespace Sys2Proof.Machine

/-! ### Every command completes and keeps what `Kept` names -/

/-- The arms of the dispatch, each by the law of its command. -/
theorem exec_kept (s : State) : ∀ (c : Instr) (z : State), exec c s = .next z → Kept s z
  | .resetN => execResetN_kept s s (.refl s)
  | .perstN => execPerstN_kept s s (.refl s)
  | .powerLoss => execPowerLoss_kept s s (.refl s)
  | .managementWarmReset => execManagementWarmReset_kept s s (.refl s)
  | .registerWrite t a sh => execRegisterWrite_kept s t a sh s (.refl s)
  | .pairLowerRead t a sh => execPairLowerRead_kept s t a sh s (.refl s)
  | .pairLowerWrite t a d => execPairLowerWrite_kept s t a d s (.refl s)
  | .pairUpperWrite t a d => execPairUpperWrite_kept s t a d s (.refl s)
  | .busTimeout t a wr sh lands => execBusTimeout_kept s t a wr sh lands s (.refl s)
  | .pageOwnerWrite t pg owner => execPageOwnerWrite_kept s t pg owner s (.refl s)
  | .pageLock t pg => execPageLock_kept s t pg s (.refl s)
  | .pageUnlock t pg => execPageUnlock_kept s t pg s (.refl s)
  | .tableRead t pg ainc => execTableRead_kept s t pg ainc s (.refl s)
  | .tableWrite t pg ainc => execTableWrite_kept s t pg ainc s (.refl s)
  | .tableOpDone pg bank => execTableOpDone_kept s pg bank s (.refl s)
  | .resultRequest t pg => execResultRequest_kept s t pg s (.refl s)
  | .resultComplete pg bank meas => execResultComplete_kept s pg bank meas s (.refl s)
  | .snapshot t pg => execSnapshot_kept s t pg s (.refl s)
  | .flrVf n => execFlrVf_kept s n s (.refl s)
  | .flrPf => execFlrPf_kept s s (.refl s)
  | .vfEnableClear => execVfEnableClear_kept s s (.refl s)
  | .queueEnable t q rx => execQueueEnable_kept s t q rx s (.refl s)
  | .queueDisable t q rx => execQueueDisable_kept s t q rx s (.refl s)
  | .queueDrainDone q rx => execQueueDrainDone_kept s q rx s (.refl s)
  | .qTailWrite t q rx tail => execQTailWrite_kept s t q rx tail s (.refl s)
  | .descriptorFetch q rx d hdr => execDescriptorFetch_kept s q rx d hdr s (.refl s)
  | .descriptorComplete q rx r => execDescriptorComplete_kept s q rx r s (.refl s)
  | .msixDeliver p cause w => execMsixDeliver_kept s p cause w s (.refl s)
  | .interruptHoldoffExpire q rx => execInterruptHoldoffExpire_kept s q rx s (.refl s)
  | .laneStart t b => execLaneStart_kept s t b s (.refl s)
  | .laneStop t b => execLaneStop_kept s t b s (.refl s)
  | .laneRetrain t b mask => execLaneRetrain_kept s t b mask s (.refl s)
  | .laneShed t b mask => execLaneShed_kept s t b mask s (.refl s)
  | .laneBlkCfgWrite t b d => execLaneBlkCfgWrite_kept s t b d s (.refl s)
  | .laneDisable t l => execLaneDisable_kept s t l s (.refl s)
  | .signalDetect l => execSignalDetect_kept s l s (.refl s)
  | .trainingFrame l ctl sts clean snr => execTrainingFrame_kept s l ctl sts clean snr s (.refl s)
  | .tapTimeout l => execTapTimeout_kept s l s (.refl s)
  | .stepUpLock l => execStepUpLock_kept s l s (.refl s)
  | .trainTimeout l => execTrainTimeout_kept s l s (.refl s)
  | .laneHoldExpire l => execLaneHoldExpire_kept s l s (.refl s)
  | .lossOfLock l => execLossOfLock_kept s l s (.refl s)
  | .snrLow l snr => execSnrLow_kept s l snr s (.refl s)
  | .seqLoaded b => execSeqLoaded_kept s b s (.refl s)
  | .seqFault b => execSeqFault_kept s b s (.refl s)
  | .prbsGenWrite t l d => execPrbsGenWrite_kept s t l d s (.refl s)
  | .checkerLock l => execCheckerLock_kept s l s (.refl s)
  | .checkerUnlock l => execCheckerUnlock_kept s l s (.refl s)
  | .injectGo t l d => execInjectGo_kept s t l d s (.refl s)
  | .injectRateError l => execInjectRateError_kept s l s (.refl s)
  | .eyeRequest t b => execEyeRequest_kept s t b s (.refl s)
  | .txCoefWrite t l d => execTxCoefWrite_kept s t l d s (.refl s)
  | .txCoefApply l => execTxCoefApply_kept s l s (.refl s)
  | .portBlkCfgWrite t b d => execPortBlkCfgWrite_kept s t b d s (.refl s)
  | .portEthCfgWrite t b d => execPortEthCfgWrite_kept s t b d s (.refl s)
  | .ethLinkUp b p ability => execEthLinkUp_kept s b p ability s (.refl s)
  | .ethLinkDown b p => execEthLinkDown_kept s b p s (.refl s)
  | .lpiEnter b p => execLpiEnter_kept s b p s (.refl s)
  | .lpiExit b p => execLpiExit_kept s b p s (.refl s)
  | .macsecTxFrame b p etype => execMacsecTxFrame_kept s b p etype s (.refl s)
  | .epvFrameReceive b l f => execEpvFrameReceive_kept s b l f s (.refl s)
  | .epvFrameSend b => execEpvFrameSend_kept s b s (.refl s)
  | .mapSwap t b => execMapSwap_kept s t b s (.refl s)
  | .rejoin t b => execRejoin_kept s t b s (.refl s)
  | .packetArrive k => execPacketArrive_kept s k s (.refl s)
  | .sdiEav ei e => execSdiEav_kept s ei e s (.refl s)
  | .trsTimeout ei => execTrsTimeout_kept s ei s (.refl s)
  | .unitPresent ei => execUnitPresent_kept s ei s (.refl s)
  | .hostUnitLaunch q body => execHostUnitLaunch_kept s q body s (.refl s)
  | .mergePlaneDown ei slot planeB => execMergePlaneDown_kept s ei slot planeB s (.refl s)
  | .ingCut t sl k d => execIngCut_kept s t sl k d s (.refl s)
  | .ingCutClr t sl k d => execIngCutClr_kept s t sl k d s (.refl s)
  | .padDWrite t sl n d => execPadDWrite_kept s t sl n d s (.refl s)
  | .fabricSwap => execFabricSwap_kept s s (.refl s)
  | .moveStart m => execMoveStart_kept s m s (.refl s)
  | .moveCompare id same => execMoveCompare_kept s id same s (.refl s)
  | .creditMiss fs lag => execCreditMiss_kept s fs lag s (.refl s)
  | .slowClear fs => execSlowClear_kept s fs s (.refl s)
  | .sliceStall fs => execSliceStall_kept s fs s (.refl s)
  | .midOutWrite t d => execMidOutWrite_kept s t d s (.refl s)
  | .midReturn t d => execMidReturn_kept s t d s (.refl s)
  | .islandDegraded isl dv dt nb => execIslandDegraded_kept s isl dv dt nb s (.refl s)
  | .degradedClear isl => execDegradedClear_kept s isl s (.refl s)
  | .commit t timing count => execCommit_kept s t timing count s (.refl s)
  | .strike t => execStrike_kept s t s (.refl s)
  | .strikeFrom t => execStrikeFrom_kept s t s (.refl s)
  | .stop t timing count => execStop_kept s t timing count s (.refl s)
  | .stopPart t timing => execStopPart_kept s t timing s (.refl s)
  | .clear t => execClear_kept s t s (.refl s)
  | .rehearsalWindow x => execRehearsalWindow_kept s x s (.refl s)
  | .rehearsalDone x plan => execRehearsalDone_kept s x plan s (.refl s)
  | .armGrant x => execArmGrant_kept s x s (.refl s)
  | .memberCommit x mi => execMemberCommit_kept s x mi s (.refl s)
  | .anyfmtSwap x mi => execAnyfmtSwap_kept s x mi s (.refl s)
  | .noSwp x mi => execNoSwp_kept s x mi s (.refl s)
  | .takeQueryRoute t out => execTakeQueryRoute_kept s t out s (.refl s)
  | .takeQueryTag t tag => execTakeQueryTag_kept s t tag s (.refl s)
  | .firmwareReady => execFirmwareReady_kept s s (.refl s)
  | .fsFrameComplete f => execFsFrameComplete_kept s f s (.refl s)
  | .fsDecision f => execFsDecision_kept s f s (.refl s)
  | .recStart t port => execRecStart_kept s t port s (.refl s)
  | .recStop t port => execRecStop_kept s t port s (.refl s)
  | .play t port => execPlay_kept s t port s (.refl s)
  | .pause t port => execPause_kept s t port s (.refl s)
  | .playoutStop t port => execPlayoutStop_kept s t port s (.refl s)
  | .reelCmdEffect isPlay port => execReelCmdEffect_kept s isPlay port s (.refl s)
  | .recordFrame port => execRecordFrame_kept s port s (.refl s)
  | .playoutFrame port => execPlayoutFrame_kept s port s (.refl s)
  | .hbmLineComplete u late ecc => execHbmLineComplete_kept s u late ecc s (.refl s)
  | .hbmWindowAccess t a wr sh => execHbmWindowAccess_kept s t a wr sh s (.refl s)
  | .hbmTrained h ok => execHbmTrained_kept s h ok s (.refl s)
  | .hbmFail h throttled => execHbmFail_kept s h throttled s (.refl s)
  | .packetDepart eo slot => execPacketDepart_kept s eo slot s (.refl s)
  | .egressFailover b p remote => execEgressFailover_kept s b p remote s (.refl s)
  | .egressRevert b p => execEgressRevert_kept s b p s (.refl s)
  | .audioBlock tb hi96 ins bufs => execAudioBlock_kept s tb hi96 ins bufs s (.refl s)
  | .audCommit t timing count => execAudCommit_kept s t timing count s (.refl s)
  | .audStrike t => execAudStrike_kept s t s (.refl s)
  | .audStop t timing count => execAudStop_kept s t timing count s (.refl s)
  | .audClear t => execAudClear_kept s t s (.refl s)
  | .audArmGrant x => execAudArmGrant_kept s x s (.refl s)
  | .audMemberCommit x mi => execAudMemberCommit_kept s x mi s (.refl s)
  | .audQueryRoute t ch => execAudQueryRoute_kept s t ch s (.refl s)
  | .audQueryPeak t ch => execAudQueryPeak_kept s t ch s (.refl s)
  | .audQueryTag t tag => execAudQueryTag_kept s t tag s (.refl s)
  | .tdmStop p => execTdmStop_kept s p s (.refl s)
  | .foleyExchangeIn c => execFoleyExchangeIn_kept s c s (.refl s)
  | .foleyExchangeOut c => execFoleyExchangeOut_kept s c s (.refl s)
  | .foleyDeadline c => execFoleyDeadline_kept s c s (.refl s)
  | .foleyOverrun c => execFoleyOverrun_kept s c s (.refl s)
  | .folStart t c => execFolStart_kept s t c s (.refl s)
  | .folStop t c => execFolStop_kept s t c s (.refl s)
  | .folSpare t c => execFolSpare_kept s t c s (.refl s)
  | .folRelease t c => execFolRelease_kept s t c s (.refl s)
  | .folMove t c => execFolMove_kept s t c s (.refl s)
  | .coreMoveHalt c => execCoreMoveHalt_kept s c s (.refl s)
  | .coreMoveResume c => execCoreMoveResume_kept s c s (.refl s)
  | .foMpy c => execFoMpy_kept s c s (.refl s)
  | .foMac c => execFoMac_kept s c s (.refl s)
  | .foMsu c => execFoMsu_kept s c s (.refl s)
  | .foClr c => execFoClr_kept s c s (.refl s)
  | .foAdd c => execFoAdd_kept s c s (.refl s)
  | .foSub c => execFoSub_kept s c s (.refl s)
  | .foNeg c => execFoNeg_kept s c s (.refl s)
  | .foAbs c => execFoAbs_kept s c s (.refl s)
  | .foMax c => execFoMax_kept s c s (.refl s)
  | .foMin c => execFoMin_kept s c s (.refl s)
  | .foAsl c => execFoAsl_kept s c s (.refl s)
  | .foAsr c => execFoAsr_kept s c s (.refl s)
  | .foAnd c => execFoAnd_kept s c s (.refl s)
  | .foOr c => execFoOr_kept s c s (.refl s)
  | .foXor c => execFoXor_kept s c s (.refl s)
  | .foMova c => execFoMova_kept s c s (.refl s)
  | .foAddd c => execFoAddd_kept s c s (.refl s)
  | .foMovd c => execFoMovd_kept s c s (.refl s)
  | .foMovda c => execFoMovda_kept s c s (.refl s)
  | .foSetlo c => execFoSetlo_kept s c s (.refl s)
  | .foSethi c => execFoSethi_kept s c s (.refl s)
  | .foFir c => execFoFir_kept s c s (.refl s)
  | .foFird c => execFoFird_kept s c s (.refl s)
  | .foSmax c => execFoSmax_kept s c s (.refl s)
  | .foSmin c => execFoSmin_kept s c s (.refl s)
  | .foSmaxa c => execFoSmaxa_kept s c s (.refl s)
  | .foSmina c => execFoSmina_kept s c s (.refl s)
  | .foLd c => execFoLd_kept s c s (.refl s)
  | .foSt c => execFoSt_kept s c s (.refl s)
  | .foLda c => execFoLda_kept s c s (.refl s)
  | .foSta c => execFoSta_kept s c s (.refl s)
  | .foStah c => execFoStah_kept s c s (.refl s)
  | .foLdi c => execFoLdi_kept s c s (.refl s)
  | .foLdp c => execFoLdp_kept s c s (.refl s)
  | .foNop c => execFoNop_kept s c s (.refl s)
  | .foBra c => execFoBra_kept s c s (.refl s)
  | .foBcc c => execFoBcc_kept s c s (.refl s)
  | .foCall c => execFoCall_kept s c s (.refl s)
  | .foRet c => execFoRet_kept s c s (.refl s)
  | .foLoop c => execFoLoop_kept s c s (.refl s)
  | .foLoopd c => execFoLoopd_kept s c s (.refl s)
  | .foLeave c => execFoLeave_kept s c s (.refl s)
  | .foWaitblk c => execFoWaitblk_kept s c s (.refl s)
  | .foDone c => execFoDone_kept s c s (.refl s)
  | .foRte c => execFoRte_kept s c s (.refl s)
  | .foHalt c => execFoHalt_kept s c s (.refl s)
  | .foTrap c => execFoTrap_kept s c s (.refl s)
  | .foMovm c => execFoMovm_kept s c s (.refl s)
  | .foMovmd c => execFoMovmd_kept s c s (.refl s)
  | .foRdm c => execFoRdm_kept s c s (.refl s)
  | .foRds c => execFoRds_kept s c s (.refl s)
  | .foWrs c => execFoWrs_kept s c s (.refl s)
  | .foExt c timeout => execFoExt_kept s c timeout s (.refl s)
  | .headDecision h => execHeadDecision_kept s h s (.refl s)
  | .layerPictureComplete l pic => execLayerPictureComplete_kept s l pic s (.refl s)
  | .setRate t tb => execSetRate_kept s t tb s (.refl s)
  | .slew t tb => execSlew_kept s t tb s (.refl s)
  | .stepTime t tb => execStepTime_kept s t tb s (.refl s)
  | .setTime t tb => execSetTime_kept s t tb s (.refl s)
  | .ptpMessageReceive m => execPtpMessageReceive_kept s m s (.refl s)
  | .ptpSync tb offset mpd gm utc rate => execPtpSync_kept s tb offset mpd gm utc rate s (.refl s)
  | .ptpAnnounceTimeout tb => execPtpAnnounceTimeout_kept s tb s (.refl s)
  | .comparatorFire k => execComparatorFire_kept s k s (.refl s)
  | .timeCapture t => execTimeCapture_kept s t s (.refl s)
  | .candMissingEdge c => execCandMissingEdge_kept s c s (.refl s)
  | .candFreqWindow c ppb => execCandFreqWindow_kept s c ppb s (.refl s)
  | .candQualified c => execCandQualified_kept s c s (.refl s)
  | .candWtrExpire c => execCandWtrExpire_kept s c s (.refl s)
  | .dpllLock d => execDpllLock_kept s d s (.refl s)
  | .dpllLockLost d => execDpllLockLost_kept s d s (.refl s)
  | .holdoverHistory d => execHoldoverHistory_kept s d s (.refl s)
  | .clkMapWrite t d => execClkMapWrite_kept s t d s (.refl s)
  | .beacon b => execBeacon_kept s b s (.refl s)
  | .beaconMissing => execBeaconMissing_kept s s (.refl s)
  | .joinAck uid node => execJoinAck_kept s uid node s (.refl s)
  | .joinTimeout => execJoinTimeout_kept s s (.refl s)
  | .rejectWaitExpire => execRejectWaitExpire_kept s s (.refl s)
  | .gbusTransmit slot fw collide => execGbusTransmit_kept s slot fw collide s (.refl s)
  | .gbusDataReceive src dst len crcOk => execGbusDataReceive_kept s src dst len crcOk s (.refl s)
  | .gbusPause m us => execGbusPause_kept s m us s (.refl s)
  | .gbusResume m => execGbusResume_kept s m s (.refl s)
  | .pauseExpire m => execPauseExpire_kept s m s (.refl s)
  | .pauseWatchdog m => execPauseWatchdog_kept s m s (.refl s)
  | .pauseIgnoreExpire m => execPauseIgnoreExpire_kept s m s (.refl s)
  | .lpiReq => execLpiReq_kept s s (.refl s)
  | .gbusWakeTone => execGbusWakeTone_kept s s (.refl s)
  | .gbusWakeTimeout => execGbusWakeTimeout_kept s s (.refl s)
  | .derive t => execDerive_kept s t s (.refl s)
  | .loadKek t => execLoadKek_kept s t s (.refl s)
  | .importKey t => execImportKey_kept s t s (.refl s)
  | .sign t => execSign_kept s t s (.refl s)
  | .check t => execCheck_kept s t s (.refl s)
  | .invalidate t => execInvalidate_kept s t s (.refl s)
  | .newEpoch t => execNewEpoch_kept s t s (.refl s)
  | .sealDebug t => execSealDebug_kept s t s (.refl s)
  | .rma t => execRma_kept s t s (.refl s)
  | .keyConfirm t code => execKeyConfirm_kept s t code s (.refl s)
  | .zeroingDone => execZeroingDone_kept s s (.refl s)
  | .maskRefresh => execMaskRefresh_kept s s (.refl s)
  | .entropyFail => execEntropyFail_kept s s (.refl s)
  | .tamper => execTamper_kept s s (.refl s)
  | .measSeal keyDig manDig rev => execMeasSeal_kept s keyDig manDig rev s (.refl s)
  | .debugAccess a => execDebugAccess_kept s a s (.refl s)
  | .start v => execStart_kept s v s (.refl s)
  | .mgtReady => execMgtReady_kept s s (.refl s)
  | .startFail reason stepNo => execStartFail_kept s reason stepNo s (.refl s)
  | .managementWatchdog => execManagementWatchdog_kept s s (.refl s)
  | .warm t => execWarm_kept s t s (.refl s)
  | .loadBegin t slot => execLoadBegin_kept s t slot s (.refl s)
  | .loadEnd t slot => execLoadEnd_kept s t slot s (.refl s)
  | .loadAbort t slot => execLoadAbort_kept s t slot s (.refl s)
  | .activate t slot => execActivate_kept s t slot s (.refl s)
  | .accept t => execAccept_kept s t s (.refl s)
  | .revert t => execRevert_kept s t s (.refl s)
  | .recover t slot => execRecover_kept s t slot s (.refl s)
  | .acceptWindowEnd => execAcceptWindowEnd_kept s s (.refl s)
  | .settingsRead t pg => execSettingsRead_kept s t pg s (.refl s)
  | .settingsWrite t pg => execSettingsWrite_kept s t pg s (.refl s)
  | .faultOccurrence hw self => execFaultOccurrence_kept s hw self s (.refl s)
  | .blockRestored pg inst => execBlockRestored_kept s pg inst s (.refl s)
  | .faultAck t d => execFaultAck_kept s t d s (.refl s)
  | .selftest t => execSelftest_kept s t s (.refl s)
  | .selftestDone bad agree => execSelftestDone_kept s bad agree s (.refl s)
  | .release t => execRelease_kept s t s (.refl s)
  | .farrierMeasure l bits errs snr vlow vmid vup hmin locked => execFarrierMeasure_kept s l bits errs snr vlow vmid vup hmin locked s (.refl s)
  | .healthReport => execHealthReport_kept s s (.refl s)
  | .latencyBudgetWrite t d => execLatencyBudgetWrite_kept s t d s (.refl s)
  | .powerEvaluate => execPowerEvaluate_kept s s (.refl s)
  | .holdExpire => execHoldExpire_kept s s (.refl s)
  | .stateEntryComplete => execStateEntryComplete_kept s s (.refl s)
  | .wake code b lastCycles => execWake_kept s code b lastCycles s (.refl s)
  | .wakeExitDone inTime => execWakeExitDone_kept s inTime s (.refl s)
  | .clapGo t d => execClapGo_kept s t d s (.refl s)
  | .gateWrite t reg d => execGateWrite_kept s t reg d s (.refl s)
  | .throttleStep isl temp => execThrottleStep_kept s isl temp s (.refl s)
  | .thermalTrip sensor => execThermalTrip_kept s sensor s (.refl s)
  | .fabricBeat => execFabricBeat_kept s s (.refl s)
  | .candidateEdge c => execCandidateEdge_kept s c s (.refl s)
  | .receiverLock l snr => execReceiverLock_kept s l snr s (.refl s)
  | .relockTimeout l => execRelockTimeout_kept s l s (.refl s)
  | .perstNRelease => execPerstNRelease_kept s s (.refl s)
  | .pcieLinkChange up => execPcieLinkChange_kept s up s (.refl s)
  | .conditionEnd src => execConditionEnd_kept s src s (.refl s)
  | .autoPauseLimit => execAutoPauseLimit_kept s s (.refl s)
  | .entropyRestored => execEntropyRestored_kept s s (.refl s)
  | .trialHealthTimeout => execTrialHealthTimeout_kept s s (.refl s)
  | .updateCommandDone v => execUpdateCommandDone_kept s v s (.refl s)
  | .clapEnd => execClapEnd_kept s s (.refl s)
/-- No arm of the dispatch is a fault or a refusal. -/
theorem exec_answers (c : Instr) (s : State) : ∃ z, exec c s = .next z := by
  cases c <;> exact ⟨_, rfl⟩

/-- Settles O2: every arm answers a next state, and what it answers has the queue that it found. -/
theorem everyCommandCompletes : Obligations.EveryCommandCompletes := by
  intro c s
  obtain ⟨z, hz⟩ := exec_answers c s
  exact ⟨z, hz, (exec_kept s c z hz).pending⟩

theorem Kept.canonical {s t : State} (h : Kept s t) (hs : s.canonical) : t.canonical :=
  let ⟨hregs, htbl, hmem⟩ := hs
  ⟨h.regs hregs, h.tbl htbl, h.mem hmem⟩

/-- A step is idle, or it is the command at the front with the rest of the queue waiting. -/
theorem step_cases {s z : State} (h : step s = .next z) :
    z = s ∨ ∃ c rest, s.pending = c :: rest ∧ exec c { s with pending := rest } = .next z := by
  unfold step at h
  split at h
  · exact .inl (Host.Outcome.next.inj h).symm
  · exact .inr ⟨_, _, ‹_›, h⟩

/-- Settles O5: the idle step changes nothing, and a command keeps each store's form; the queue is no store. -/
theorem everyStepKeepsCanonicalForm : Obligations.EveryStepKeepsCanonicalForm := by
  intro s z hs h
  obtain rfl | ⟨c, rest, -, hc⟩ := step_cases h
  · exact hs
  · exact (exec_kept { s with pending := rest } c z hc).canonical hs

/-! ### Reset -/

theorem State.reset_canonical : State.reset.canonical := ⟨Tab.wf_nil _, Tab.wf_nil _, Tab.wf_nil _⟩

/-- Settles O4: the stores and the queue of the reset state are empty. -/
theorem resetIsCanonical : Obligations.ResetIsCanonical := ⟨State.reset_canonical, rfl, rfl⟩

theorem State.reset_rd (b a : Nat) : State.reset.rd b a = regReset (regKey b a) := rfl

/-- The Reset column of the row that an offset of a page kind reaches; none where the value differs from page to page or from part to
part (R45, R48, R419). -/
def resetColumn (k : PageKind) (off : Nat) : Option Word :=
  if off = 0x000 ∨ off = 0x008 ∨ (k = .chip ∧ (off = 0x048 ∨ off = 0x04C)) ∨ (k = .gbus ∧ (off = 0x060 ∨ off = 0x064)) then none
  else if off < 65536 then (regAt k off).map fun r => wd r.reset
  else none

theorem regKey_addr (b : Nat) {pg off : Nat} (hb : pg < 4096) (ho : off < 65536) : regKey b (regA pg off) % 2 ^ 28 = regA pg off := by
  unfold regKey regA
  omega

/-- At reset every bank of a register reads the Reset column. -/
theorem State.reset_rd_column {pg i : Nat} {k : PageKind} (hp : pageOf pg = some (k, i)) (hb : pg < 4096) {off : Nat} {v : Word}
    (hv : resetColumn k off = some v) (b : Nat) : State.reset.rd b (regA pg off) = v := by
  unfold resetColumn at hv
  split at hv
  · cases hv
  next hvaries =>
    split at hv
    next ho =>
      obtain ⟨r, hr, rfl⟩ := Option.map_eq_some_iff.mp hv
      rw [State.reset_rd]
      unfold regReset
      simp only [regKey_addr b hb ho, regA_page pg off ho, regA_off pg off ho, hp, hr]
      rw [if_neg (by tauto), if_neg (by tauto), if_neg (by tauto), if_neg (by tauto), if_neg (by tauto), if_neg (by tauto)]
    · cases hv

/-- PAGE_ID is BLOCK and INSTANCE. -/
theorem State.reset_rd_pageId {pg : Nat} {k : PageKind} {i block : Nat} (hp : pageOf pg = some (k, i)) (hk : k.block = block) (hb : pg < 4096) :
    State.reset.rd 0 (regA pg 0) = wd (block * 65536 + i) := by
  rw [State.reset_rd]
  unfold regReset
  simp only [regKey_addr 0 hb (show 0 < 65536 by omega), regA_page pg 0 (by omega), regA_off pg 0 (by omega), hp, hk]
  rw [if_pos trivial]

theorem State.reset_lane {b : Nat} (h : b < 48) : State.reset.rd 0 (laneA b 0x040) = 0x530 ∧ State.reset.rd 0 (laneA b 0x054) = 1000 :=
  have hb : pLane b < 4096 := by unfold pLane; omega
  ⟨State.reset_rd_column (pageOf_lane b h) hb rfl 0, State.reset_rd_column (pageOf_lane b h) hb rfl 0⟩

theorem State.reset_port {b : Nat} (h : b < 48) : State.reset.rd 0 (portA b 0x05C) = 0x301 :=
  State.reset_rd_column (pageOf_port b h) (by unfold pPort; omega) rfl 0

theorem State.reset_fol {c : Nat} (h : c < 64) : State.reset.rd 0 (folA c 0x040) = 0x00200000 :=
  State.reset_rd_column (pageOf_fol c h) (by unfold pFol; omega) rfl 0

theorem State.reset_wakePb : State.reset.rd64 0 (regA pPwr 0x068) = 2 ^ 48 - 1 := by
  have lower : State.reset.rd 0 (regA pPwr 0x068) = 0xFFFFFFFF := State.reset_rd_column (k := .pwr) rfl (by decide) rfl 0
  have upper : State.reset.rd 0 (regA pPwr 0x068 + 4) = 0x0000FFFF :=
    State.reset_rd_column (pg := pPwr) (off := 0x06C) (k := .pwr) rfl (by decide) rfl 0
  rw [State.rd64, lower, upper]
  rfl

/-- Settles O3: a register reads its Reset column or its PAGE_ID; no word of a table and no byte of the memory is listed. -/
theorem resetLeavesTheResetColumn : Obligations.ResetLeavesTheResetColumn := by
  have column {pg off : Nat} (k : PageKind) (hp : pageOf pg = some (k, 0)) (hb : pg < 4096) {v : Word}
      (hv : resetColumn k off = some v) (b : Nat) : State.reset.rd b (regA pg off) = v := State.reset_rd_column hp hb hv b
  exact ⟨column .chip rfl (by decide) rfl 0, column .chip rfl (by decide) rfl 0, column .chip rfl (by decide) rfl 0,
    column .bmx rfl (by decide) rfl 0, column .mgt rfl (by decide) rfl 0, column .mgt rfl (by decide) rfl 0,
    fun p _ => column .flt rfl (by decide) rfl p, column .flt rfl (by decide) rfl 0, column .pwr rfl (by decide) rfl 0,
    column .pwr rfl (by decide) rfl 0, State.reset_wakePb, column .refsel rfl (by decide) rfl 0, column .gbus rfl (by decide) rfl 0,
    column .gbus rfl (by decide) rfl 0, column .xpt rfl (by decide) rfl 0, column .take rfl (by decide) rfl 0,
    fun _ h => ⟨(State.reset_lane h).1, (State.reset_lane h).2, State.reset_port h⟩, fun _ h => State.reset_fol h,
    fun b h => State.reset_rd_pageId (pageOf_lane b h) rfl (by unfold pLane; omega), fun _ _ _ _ _ => Tab.get_nil _ _,
    fun _ => Tab.get_nil _ _⟩

/-! ### Register writes -/

theorem toNat_setWidth_mod (d : Word) : (d.setWidth 64).toNat % 2 ^ 32 = d.toNat := by
  have := d.isLt
  rw [BitVec.toNat_setWidth]
  omega

/-- A 32-bit write of a word that is no half of a pair is the bus matrix's write of that register (R49, R52). -/
theorem regWrite_word (t : Tag) (a : Nat) (d : Word) (s : State) (hh : isHbm a = false) (hp : isPair a = false) :
    regWrite t a (.one 32 (d.setWidth 64)) s = hostWrite t a d (writeReg t a d) s := by
  have hw (held : Option Word) : writeWord t a held d = writeReg t a d := by
    funext u
    simp only [writeWord, hp, Bool.false_eq_true, if_false]
  unfold regWrite hostWrite Access.w32 busWord
  simp only [hh, hp, toNat_setWidth_mod, sizeOf, Bool.false_and, BitVec.ofNat_toNat, BitVec.setWidth_eq, hw, if_true, if_false,
    Bool.false_eq_true, Nat.reduceEqDiff]

/-- RESULT_REQUEST names offset 0x080 of its page; in the FLT page that is the lower half of HEALTH_TIME, a pair. The row counts a
write of it in PAGE_SEQ. -/
theorem resultRequest_counts_fltPage :
    (hostWrite .m (regA pFlt 0x080) 1 (writeReg .m (regA pFlt 0x080) 1) State.reset).rd 0 (regA pFlt 0x020) = 1 := by
  decide +kernel

/-- The 32-bit write of that lower half is held and not counted (R47, R50). -/
theorem write32_lowerHalf_counts_nothing :
    (State.reset.write32 .m [(regA pFlt 0x080, 1)]).rd 0 (regA pFlt 0x020) = 0 := by
  decide +kernel

/-- Refutes O7: at reset, RESULT_REQUEST by the management complex to the FLT page, which has no result block, counts in PAGE_SEQ, and
the register write that the statement names for it does not. -/
theorem not_hostCommandsAreRegisterWrites : ¬ Obligations.HostCommandsAreRegisterWrites := by
  rintro ⟨h, -⟩
  have e : exec (.resultRequest .m 6) State.reset = .next (State.reset.write32 .m [(regA pFlt 0x080, 1)]) :=
    h State.reset (.resultRequest .m 6) .m [(regA pFlt 0x080, 1)] rfl (by decide)
  have e' : hostWrite .m (regA pFlt 0x080) 1 (writeReg .m (regA pFlt 0x080) 1) State.reset =
      State.reset.write32 .m [(regA pFlt 0x080, 1)] := Host.Outcome.next.inj e
  have c := resultRequest_counts_fltPage
  rw [e', write32_lowerHalf_counts_nothing] at c
  exact absurd c (by decide)

/-! ### What the bus matrix counts -/

theorem State.regsKept_refl (s : State) (l : List Nat) : s.regsKept s l := fun _ _ => rfl

/-- A write of a listed register leaves the others. -/
theorem State.regsKept_wr {s u : State} {l : List Nat} (h : s.regsKept u l) {b a : Nat} (v : Word) (hm : regKey b a ∈ l) :
    s.regsKept (u.wr b a v) l := fun k hk =>
  (Tab.get_put_other _ _ _ _ _ fun e => hk (by rw [e]; exact hm)).trans (h k hk)

theorem State.regsKept_mono {s u : State} {l m : List Nat} (h : s.regsKept u l) (hlm : ∀ k ∈ l, k ∈ m) : s.regsKept u m :=
  fun k hk => h k fun hl => hk (hlm k hl)

theorem State.regsKept_rd {s u : State} {l : List Nat} (h : s.regsKept u l) {b a : Nat} (hn : regKey b a ∉ l) : u.rd b a = s.rd b a :=
  h _ hn

/-- The state in which `countWrite` counts: the debug port noted, the halves dropped, the rein write counted. -/
def State.beforeCount (s : State) (x : Access) : State := ((s.noteDebug x.tag).dropHolds x.master x.page).countRein x

theorem State.admitted_eq (s : State) (x : Access) : s.admitted x = (s.beforeCount x).countWrite x := rfl

/-- The registers of R36 and R63 that an access counts in beside PAGE_SEQ: KEY.STATUS, REIN_COUNT and REIN_MAXLAT. -/
def noteKeys : List Nat := [regKey 0 (regA pKey 0x040), regKey 0 (regA pBmx 0x050), regKey 0 (regA pBmx 0x054)]

theorem State.noteDebug_regs (s : State) (t : Tag) : s.regsKept (s.noteDebug t) noteKeys := by
  unfold State.noteDebug
  split
  · exact State.regsKept_wr (s.regsKept_refl _) _ (by simp [noteKeys])
  · exact s.regsKept_refl _

theorem State.countRein_regs {s u : State} (h : s.regsKept u noteKeys) (x : Access) : s.regsKept (u.countRein x) noteKeys := by
  unfold State.countRein
  split
  · exact State.regsKept_wr (State.regsKept_wr (u := (u.fresh 32).2) h _ (by simp [noteKeys])) _ (by simp [noteKeys])
  · exact h

theorem State.beforeCount_regs (s : State) (x : Access) : s.regsKept (s.beforeCount x) noteKeys :=
  State.countRein_regs (u := (s.noteDebug x.tag).dropHolds x.master x.page) (s.noteDebug_regs x.tag) x

theorem pageSeq_notin_noteKeys (pg : Nat) : regKey 0 (regA pg 0x020) ∉ noteKeys := by
  simp only [noteKeys, regKey, regA, pKey, pBmx, List.mem_cons, List.not_mem_nil, or_false]
  omega

theorem State.admitted_pageSeq (s : State) (x : Access) :
    (s.admitted x).rd 0 (regA x.page 0x020) = s.rd 0 (regA x.page 0x020) + (if x.ownerWrite then 0 else 1) := by
  have before := State.regsKept_rd (s.beforeCount_regs x) (pageSeq_notin_noteKeys x.page)
  rw [State.admitted_eq, State.countWrite]
  split
  · rw [before]
    exact (BitVec.add_zero _).symm
  · rw [State.inc, State.rd_wr_same, before]

theorem State.admitted_regs (s : State) (x : Access) :
    s.regsKept (s.admitted x) (regKey 0 (regA x.page 0x020) :: noteKeys) := by
  have before := State.regsKept_mono (s.beforeCount_regs x) fun k hk => List.mem_cons_of_mem (regKey 0 (regA x.page 0x020)) hk
  rw [State.admitted_eq, State.countWrite]
  split
  · exact before
  · exact State.regsKept_wr before _ List.mem_cons_self

/-- `countRein` with its free value named. -/
theorem State.countRein_eq (s : State) (x : Access) : s.countRein x =
    if x.rein then
      let u := (s.fresh 32).2
      (u.inc 0 (regA pBmx 0x050)).wr 0 (regA pBmx 0x054) (wd (max (u.rd 0 (regA pBmx 0x054)).toNat (s.fresh 32).1))
    else s := rfl

/-- The counts touch registers, the counter of free values and the record of halves. -/
theorem State.admitted_frame (s : State) (x : Access) : { s.admitted x with regs := s.regs, free := s.free, bus := s.bus } = s := by
  unfold State.admitted State.countWrite State.noteDebug
  rw [State.countRein_eq]
  split <;> split <;> split <;> rfl

theorem State.admitted_bus (s : State) (x : Access) : (s.admitted x).bus = (s.dropHolds x.master x.page).bus := by
  unfold State.admitted State.countWrite State.noteDebug
  rw [State.countRein_eq]
  split <;> split <;> split <;> rfl

/-- No half stays held for the master in the page. -/
theorem State.dropHolds_held (s : State) (master pg : Nat) :
    ∀ h ∈ (s.dropHolds master pg).bus.pairRd ++ (s.dropHolds master pg).bus.pairWr, ¬(h.master = master ∧ h.addr / 65536 = pg) := by
  intro h hm
  simp only [State.dropHolds, List.mem_append, List.mem_filter] at hm
  obtain ⟨-, hf⟩ | ⟨-, hf⟩ := hm <;>
  · rintro ⟨rfl, rfl⟩
    simp at hf

theorem busWrite_admitted (x : Access) (eff : State → State) (s : State) (h : s.admits x = true) :
    busWrite x eff s = (eff (s.admitted x)).respond x false 0 := by
  simp only [State.admits, Bool.and_eq_true, Bool.not_eq_true', Option.isNone_iff_eq_none] at h
  exact busWrite_accepted x eff s h.1 h.2

/-- Settles O8: the write is the bus matrix's, admitted; the counts are those of `admitted`. -/
theorem admittedWriteHasItsEffect : Obligations.AdmittedWriteHasItsEffect := by
  intro s t a d x hh hp ha
  refine ⟨?_, s.admitted_pageSeq x, ?_, s.admitted_frame x, ?_⟩
  · exact congrArg Host.Outcome.next ((regWrite_word t a.toNat d s hh hp).trans (busWrite_admitted x _ s ha))
  · exact s.admitted_regs x
  · rw [s.admitted_bus x]
    exact s.dropHolds_held x.master x.page

/-! ### Access types -/

theorem bitOf_eq_getLsbD (w : Word) (j : Nat) : bitOf w j = w.getLsbD j := by
  rw [bitOf, BitVec.getLsbD, Nat.testBit_eq_decide_div_mod_eq]
  rfl

theorem bitOf_and (v w : Word) (j : Nat) : bitOf (v &&& w) j = (bitOf v j && bitOf w j) := by
  simp only [bitOf_eq_getLsbD, BitVec.getLsbD_and]

theorem bitOf_or (v w : Word) (j : Nat) : bitOf (v ||| w) j = (bitOf v j || bitOf w j) := by
  simp only [bitOf_eq_getLsbD, BitVec.getLsbD_or]

theorem bitOf_not (v : Word) {j : Nat} (h : j < 32) : bitOf (~~~v) j = !bitOf v j := by
  simp only [bitOf_eq_getLsbD, BitVec.getLsbD_not, h, decide_true, Bool.true_and]

theorem bitOf_wd (n : Nat) {j : Nat} (h : j < 32) : bitOf (wd n) j = decide (n / 2 ^ j % 2 = 1) := by
  rw [bitOf_eq_getLsbD, wd, BitVec.getLsbD_ofNat, Nat.testBit_eq_decide_div_mod_eq]
  simp only [h, decide_true, Bool.true_and]

/-- Writing the bits of a mask: those of the data inside, the old ones outside. -/
theorem bitOf_masked (old d : Word) (n : Nat) {j : Nat} (h : j < 32) :
    bitOf ((old &&& ~~~wd n) ||| (d &&& wd n)) j = if n / 2 ^ j % 2 = 1 then bitOf d j else bitOf old j := by
  rw [bitOf_or, bitOf_and, bitOf_and, bitOf_not _ h, bitOf_wd _ h]
  split <;> simp [*]

theorem bankFor_eq {t : Tag} {a : Nat} {k : PageKind} {i : Nat} {r : Reg} (hp : pageOf (a / 65536) = some (k, i))
    (hr : regAt k (a % 65536) = some r) : bankFor t a = if r.banked then tagBank t else 0 := by
  simp only [bankFor, hp, hr]

/-- A plain write changes its register alone. -/
theorem plainWrite_onlyRegs (r : Reg) (t : Tag) (a : Nat) (d : Word) (s : State) :
    s.onlyRegs (plainWrite r t a d s) [regKey (bankFor t a) a] := by
  have same : s.onlyRegs s [regKey (bankFor t a) a] := ⟨s.regsKept_refl _, rfl⟩
  have wrote (v : Word) : s.onlyRegs (s.wr (bankFor t a) a v) [regKey (bankFor t a) a] :=
    ⟨State.regsKept_wr (s.regsKept_refl _) v List.mem_cons_self, rfl⟩
  unfold plainWrite
  cases r.acc with
  | rw => exact wrote _
  | rwl => dsimp only; split; exacts [same, wrote _]
  | w1c => exact wrote _
  | w1s => exact wrote _
  | wo => exact wrote _
  | ro => exact same
  | rsv => exact same

/-- Settles O11: each access type by the word that it writes. -/
theorem accessTypesOfRegisters : Obligations.AccessTypesOfRegisters := by
  intro s t a d k i r hp hr
  rw [← bankFor_eq (t := t) hp hr]
  refine ⟨?_, ?_, ?_, ?_, ?_, ?_, plainWrite_onlyRegs r t a d s⟩
  · intro hacc j hj
    simp only [plainWrite, hacc, State.rd_wr_same, bitOf_masked _ _ _ hj]
  · intro hacc hl
    simp only [plainWrite, hacc, hl, if_true]
  · intro hacc hl j hj
    simp only [plainWrite, hacc, hl, Bool.false_eq_true, if_false, State.rd_wr_same, bitOf_masked _ _ _ hj]
  · intro hacc j hj
    simp only [plainWrite, hacc, State.rd_wr_same, bitOf_and, bitOf_not _ hj, bitOf_wd _ hj, Bool.and_comm]
  · intro hacc j hj
    simp only [plainWrite, hacc, State.rd_wr_same, bitOf_or, bitOf_and, bitOf_wd _ hj, Bool.and_comm]
  · rintro (hacc | hacc) <;> simp only [plainWrite, hacc]

end Sys2Proof.Machine
end

section
/-!
PROOFS. Scope: the bus matrix. What an admitted access finds and leaves, the order of the checks, the page header's own commands, the
halves of a pair, and what a refused or timed-out write leaves.
-/
namespace Sys2Proof.Machine

/-! ### Frames -/

/-- A register at another offset within its page is another one, whatever the banks and pages. -/
theorem regKey_ne_of_off {b a b' a' : Nat} (h : a % 65536 ≠ a' % 65536) : regKey b a ≠ regKey b' a' := by
  unfold regKey
  omega

/-- A register is not listed when its offset is none of those of the registers that are. -/
theorem regKey_notin_of_off {b a : Nat} {l : List Nat} (h : ∀ k ∈ l, a % 65536 ≠ k % 65536) : regKey b a ∉ l := by
  intro hm
  have := h _ hm
  unfold regKey at this
  omega

/-! ### Admitted accesses -/

theorem State.admits_iff (s : State) (x : Access) : s.admits x = true ↔
    s.lost x.tag x.master = false ∧ ((s.noteDebug x.tag).dropHolds x.master x.page).refusal x = none := by
  rw [State.admits, Bool.and_eq_true, Bool.not_eq_true', Option.isNone_iff_eq_none]

/-- An access that no check refuses reaches a register. -/
theorem State.reg_of_refusal_none {s : State} {x : Access} (h : s.refusal x = none) : x.reg.isSome = true := by
  cases hr : x.reg with
  | some r => rfl
  | none =>
    unfold State.refusal at h
    rw [hr] at h
    repeat' split at h
    all_goals simp_all

/-- The HBM window's pages have no registers, so the bus matrix admits no register access to them. -/
theorem State.admits_not_hbm {s : State} {x : Access} {k : PageKind} {i : Nat} (h : s.admits x = true)
    (hp : pageOf x.page = some (k, i)) : k ≠ .hbm := by
  rintro rfl
  have hr := State.reg_of_refusal_none ((s.admits_iff x).mp h).2
  simp [Access.reg, hp, regAt] at hr

/-- The counts of an admitted access leave every register at an offset other than those of PAGE_SEQ, KEY.STATUS, REIN_COUNT and
REIN_MAXLAT. -/
theorem State.admitted_rd (s : State) (x : Access) {b a : Nat} (h : a % 65536 ∉ [0x020, 0x040, 0x050, 0x054]) :
    (s.admitted x).rd b a = s.rd b a := by
  refine State.regsKept_rd (s.admitted_regs x) (regKey_notin_of_off fun k hk e => h ?_)
  simp only [noteKeys, List.mem_cons, List.not_mem_nil, or_false, regKey, regA, pKey, pBmx] at hk ⊢
  omega

theorem State.admitted_tbl (s : State) (x : Access) : (s.admitted x).tbl = s.tbl :=
  have h := congrArg State.tbl (s.admitted_frame x)
  h
theorem State.admitted_memKept (s : State) (x : Access) : s.memKept (s.admitted x) := fun a =>
  have h := congrArg (State.memByte · a) (s.admitted_frame x)
  h
theorem State.admitted_host (s : State) (x : Access) : (s.admitted x).host = s.host :=
  have h := congrArg State.host (s.admitted_frame x)
  h
theorem State.admitted_ops (s : State) (x : Access) : (s.admitted x).bus.ops = s.bus.ops := by rw [s.admitted_bus x]; rfl
theorem State.admitted_res (s : State) (x : Access) : (s.admitted x).bus.res = s.bus.res := by rw [s.admitted_bus x]; rfl

/-- A response changes the record of responses alone. -/
theorem State.respond_eq (s : State) (x : Access) (err : Bool) (d : Nat) :
    ∃ r, s.respond x err d = { s with bus := { s.bus with resp := r } } := by
  unfold State.respond
  split
  · exact ⟨s.bus.resp, rfl⟩
  · exact ⟨_, rfl⟩

/-- A command that is an admitted register write: its effect on the counted state, and the response. -/
theorem State.completes_of_admitted {s : State} {c : Instr} {x : Access} {eff : State → State} {P : State → Prop}
    (ha : s.admits x = true) (hc : exec c s = .next (busWrite x eff s))
    (hP : ∀ r, P { eff (s.admitted x) with bus := { (eff (s.admitted x)).bus with resp := r } }) : s.completes c P := by
  obtain ⟨r, hr⟩ := (eff (s.admitted x)).respond_eq x false 0
  exact ⟨_, hc, by rw [busWrite_admitted x eff s ha, hr]; exact hP r⟩

/-! ### The order of the checks -/

theorem State.refusal_decode {s : State} {x : Access} (h : pageOf x.page = none) : s.refusal x = some .decode := by
  simp [State.refusal, h]

theorem State.refusal_firewall {s : State} {x : Access} {k : PageKind} {i : Nat} (hp : pageOf x.page = some (k, i))
    (hf : s.firewalled x = true) : s.refusal x = some .firewall := by
  simp [State.refusal, hp, hf]

theorem State.refusal_ne_firewall {s : State} {x : Access} (hf : s.firewalled x = false) : s.refusal x ≠ some .firewall := by
  unfold State.refusal
  rw [hf]
  repeat' split
  all_goals simp_all

theorem State.refusal_access {s : State} {x : Access} {k : PageKind} {i : Nat} (hp : pageOf x.page = some (k, i))
    (hf : s.firewalled x = false) (hb : x.badShape = true) : s.refusal x = some .access := by
  simp [State.refusal, hp, hf, hb]

/-- An access that reaches a register has a page. -/
theorem Access.page_of_reg {x : Access} {r : Reg} (h : x.reg = some r) : ∃ k i, pageOf x.page = some (k, i) := by
  unfold Access.reg at h
  split at h
  · exact ⟨_, _, ‹_›⟩
  · cases h

theorem State.refusal_gated {s : State} {x : Access} {r : Reg} (hr : x.reg = some r) (hf : s.firewalled x = false)
    (hb : x.badShape = false) (ho : 0x40 ≤ x.off) (hg : s.gated x.page = true) : s.refusal x = some .gated := by
  obtain ⟨k, i, hp⟩ := Access.page_of_reg hr
  simp [State.refusal, hp, hf, hb, hr, ho, hg]

theorem State.refusal_held {s : State} {x : Access} {r : Reg} (hr : x.reg = some r) (hf : s.firewalled x = false)
    (hb : x.badShape = false) (hg : s.gated x.page = false) (hd : s.deaf x.page = false) (hy : s.busyFor x = false)
    (hh : s.held = true) (hw : x.wr = true) (ha : heldAccepts x = false) : s.refusal x = some .held := by
  obtain ⟨k, i, hp⟩ := Access.page_of_reg hr
  simp [State.refusal, hp, hf, hb, hr, hg, hd, hy, hh, hw, ha]

/-- Ownership and grants bind the partitions alone (R515). -/
theorem State.firewalled_unchecked {s : State} {x : Access} (h : tagChecked x.tag = false) : s.firewalled x = false := by
  simp [State.firewalled, h]

/-- A page of another partition: P0 alone may reach it, and only its header. -/
theorem State.firewalled_owned {s : State} {x : Access} {k : PageKind} {i : Nat} {p : Fin 16} (hp : pageOf x.page = some (k, i))
    (hk : k.shared = false) (ht : x.tag = .p p) (ho : s.pageOwner x.page ≠ p) (h : p ≠ 0 ∨ 0x40 ≤ x.off) :
    s.firewalled x = true := by
  have h' : ¬(p = 0 ∧ x.off < 0x40) := by
    rintro ⟨rfl, hlt⟩
    rcases h with h | h
    · exact h rfl
    · omega
  simp only [Fin.ext_iff, Fin.val_zero] at h'
  simp [State.firewalled, ht, tagChecked, hp, hk, tagBank, ho]
  omega

/-- Settles O10: each check where it is the first to fail. -/
theorem busChecksInOrder : Obligations.BusChecksInOrder := by
  intro s x
  refine ⟨State.refusal_decode, fun k i hp hk => ⟨fun p ht ho h => ?_, fun ht => ?_⟩, fun k i hp hf ha => ?_,
    fun r => State.refusal_gated, fun r => State.refusal_held⟩
  · exact State.refusal_firewall hp (State.firewalled_owned hp hk ht ho h)
  · exact State.refusal_ne_firewall (State.firewalled_unchecked (by rcases ht with ht | ht <;> rw [ht] <;> rfl))
  · exact State.refusal_access hp hf (by simp [Access.badShape, ha])

/-! ### The page header's own commands -/

/-- A write of PAGE_OWNER or PAGE_LOCK is one of the header. -/
theorem writeReg_header {pg off : Nat} {k : PageKind} {i : Nat} (hp : pageOf pg = some (k, i)) (hk : k ≠ .hbm)
    (ho : off = 0x00C ∨ off = 0x010) (t : Tag) (d : Word) (s : State) :
    writeReg t (regA pg off) d s = writeHeader t k pg off d s := by
  rcases ho with rfl | rfl <;> simp [writeReg, regA_page, regA_off, hp, regAt, hk, findReg, headerRegs]

theorem writeHeader_owner (t : Tag) (k : PageKind) (pg : Nat) (o : Fin 16) (s : State) : writeHeader t k pg 0x00C (wd o) s =
    if tagIsP0 t = true ∧ k.shared = false then (s.wr 0 (regA pg 0x00C) (wd o)).wrF 0 (regA pg 0x010) 0 1 0 else s := by
  have ho : fld (wd o) 0 4 = o := by
    simp only [fld, wd, BitVec.toNat_ofNat]
    omega
  simp [writeHeader, ho]

theorem writeHeader_lock (t : Tag) (k : PageKind) (pg : Nat) (s : State) : writeHeader t k pg 0x010 1 s =
    if s.lockOwner t k pg = true then s.wrF 0 (regA pg 0x010) 0 1 1 else s := by
  have h0 : bitOf 1 0 = true := by decide
  have h31 : bitOf 1 31 = false := by decide
  simp only [writeHeader, h0, h31, Nat.reduceEqDiff, if_true, if_false, Bool.true_and, Bool.false_and, Bool.false_eq_true]

theorem writeHeader_unlock (t : Tag) (k : PageKind) (pg : Nat) (s : State) : writeHeader t k pg 0x010 0x80000000 s =
    if tagIsP0 t = true then s.wrF 0 (regA pg 0x010) 0 1 0 else s := by
  have h0 : bitOf 0x80000000 0 = false := by decide
  have h31 : bitOf 0x80000000 31 = true := by decide
  simp only [writeHeader, h0, h31, Nat.reduceEqDiff, if_true, if_false, Bool.true_and, Bool.false_and, Bool.false_eq_true]

theorem State.lockOwner_iff (s : State) (t : Tag) (k : PageKind) (pg : Nat) : s.lockOwner t k pg = true ↔
    (k.shared = true ∧ tagIsP0 t = true) ∨ (k.shared = false ∧ (t = .m ∨ t = .d ∨ tagBank t = s.pageOwner pg)) := by
  cases h : k.shared <;> cases t <;> simp [State.lockOwner, h, tagOwns, tagChecked]

/-- LOCK after it is written. -/
theorem State.pageLocked_wrF (s : State) (pg v : Nat) : (s.wrF 0 (regA pg 0x010) 0 1 v).pageLocked pg = (v % 2 == 1) := by
  rw [State.pageLocked, State.wrF, State.rd_wr_same, bitOf_setFld_same _ _ _ (by omega)]

theorem State.regsKept_wrF (s : State) (b a lo n v : Nat) : s.regsKept (s.wrF b a lo n v) [regKey b a] :=
  State.regsKept_wr (s.regsKept_refl _) _ List.mem_cons_self

theorem State.admitted_pageOwner (s : State) (x : Access) (pg : Nat) : (s.admitted x).pageOwner pg = s.pageOwner pg := by
  unfold State.pageOwner State.rdF
  rw [s.admitted_rd x (by simp [regA])]

/-- An accepted PAGE_OWNER write: the new owner, LOCK clear, and nothing else. -/
theorem State.ownerWritten (c : State) (pg : Nat) (o : Fin 16) :
    let z := (c.wr 0 (regA pg 0x00C) (wd o)).wrF 0 (regA pg 0x010) 0 1 0
    z.rd 0 (regA pg 0x00C) = wd o ∧ z.pageLocked pg = false ∧ c.regsKept z [regKey 0 (regA pg 0x00C), regKey 0 (regA pg 0x010)] := by
  refine ⟨?_, State.pageLocked_wrF _ _ _, ?_⟩
  · rw [State.rd_wrF_other _ _ _ _ _ _ _ _ (regKey_ne_of_off (by unfold regA; omega)), State.rd_wr_same]
  · exact State.regsKept_wr (State.regsKept_wr (c.regsKept_refl _) _ (by simp)) _ (by simp)

theorem State.pageOwner_of_rd {s : State} {pg : Nat} {o : Fin 16} (h : s.rd 0 (regA pg 0x00C) = wd o) : s.pageOwner pg = o := by
  rw [State.pageOwner, State.rdF, h]
  simp only [fld, wd, BitVec.toNat_ofNat]
  omega

/-- The write of PAGE_OWNER that R46 speaks of is not counted. -/
theorem State.admitted_pageSeq_owner {s : State} {t : Tag} {pg : Nat} {d : Word} {k : PageKind} {i : Nat}
    (hp : pageOf pg = some (k, i)) (ht : tagIsP0 t = true) (hk : k.shared = false) :
    (s.admitted (hostAccess t pg 0x00C d)).rd 0 (regA pg 0x020) = s.rd 0 (regA pg 0x020) := by
  have hx : (hostAccess t pg 0x00C d).ownerWrite = true := by
    simp [Access.ownerWrite, hostAccess, Access.w32, Access.off, Access.page, regA_off, regA_page, ht, hp, hk]
  have h := s.admitted_pageSeq (hostAccess t pg 0x00C d)
  rw [hx, if_pos rfl] at h
  rw [show (hostAccess t pg 0x00C d).page = pg from regA_page pg 0x00C (by omega)] at h
  exact h.trans (BitVec.add_zero _)

/-- Settles O12: the three rows are the header's writes; who may make each decides between the write and no change. -/
theorem pageOwnerAndLock : Obligations.PageOwnerAndLock := by
  intro s t pg k i hp
  have page (off : Nat) (ho : off < 65536) (d : Word) : (hostAccess t pg off d).page = pg := regA_page pg off ho
  have header {off : Nat} (ho : off = 0x00C ∨ off = 0x010) {d : Word} (ha : s.admits (hostAccess t pg off d) = true) (c : State) :
      writeReg t (regA pg off) d c = writeHeader t k pg off d c :=
    writeReg_header hp (State.admits_not_hbm ha (by rw [page off (by omega)]; exact hp)) ho t d c
  refine ⟨fun o ha => ?_, fun ha => ?_, fun ha => ?_⟩ <;> refine State.completes_of_admitted ha rfl fun r => ?_
  · have hseq := fun h : tagIsP0 t = true ∧ k.shared = false => s.admitted_pageSeq_owner (d := wd o) hp h.1 h.2
    rw [header (.inl rfl) ha, writeHeader_owner]
    generalize s.admitted (hostAccess t pg 0x00C (wd o)) = c at hseq
    by_cases h : tagIsP0 t = true ∧ k.shared = false
    · obtain ⟨howner, hlock, hregs⟩ := c.ownerWritten pg o
      rw [if_pos h]
      refine ⟨rfl, ?_⟩
      rw [if_pos h]
      refine ⟨howner, State.pageOwner_of_rd howner, hlock, ?_, hregs⟩
      rw [← hseq h]
      exact State.regsKept_rd (b := 0) (a := regA pg 0x020) hregs (by simp [regKey, regA])
    · rw [if_neg h]
      refine ⟨rfl, ?_⟩
      rw [if_neg h]
  · have hright := (s.admitted (hostAccess t pg 0x010 1)).lockOwner_iff t k pg
    rw [State.admitted_pageOwner] at hright
    rw [header (.inr rfl) ha, writeHeader_lock]
    generalize s.admitted (hostAccess t pg 0x010 1) = c at hright
    by_cases h : c.lockOwner t k pg = true
    · rw [if_pos h]
      refine ⟨rfl, ?_⟩
      rw [if_pos (hright.mp h)]
      exact ⟨c.pageLocked_wrF pg 1, c.regsKept_wrF _ _ _ _ _⟩
    · rw [if_neg h]
      refine ⟨rfl, ?_⟩
      rw [if_neg (mt hright.mpr h)]
  · rw [header (.inr rfl) ha, writeHeader_unlock]
    generalize s.admitted (hostAccess t pg 0x010 0x80000000) = c
    by_cases h : tagIsP0 t = true
    · rw [if_pos h]
      refine ⟨rfl, ?_⟩
      rw [if_pos h]
      exact ⟨c.pageLocked_wrF pg 0, c.regsKept_wrF _ _ _ _ _⟩
    · rw [if_neg h]
      refine ⟨rfl, ?_⟩
      rw [if_neg h]

/-! ### Reads -/

/-- Reading a register changes nothing but the counter of free values. -/
theorem State.viewed_state {s : State} {t : Tag} {pg off : Nat} {x : Word × State} (h : s.viewed t pg off = some x) :
    ∃ n, x.2 = { s with free := n } := by
  have drawn : (s.viewed t pg off).elim True fun y => y.2 = s ∨ y.2 = s.freshWord.2 := by
    unfold State.viewed
    dsimp only
    repeat' split
    all_goals simp only [Option.elim, true_or, or_true]
  rw [h] at drawn
  rcases drawn with h | h
  · exact ⟨s.free, h⟩
  · exact ⟨s.free + 1, h⟩

theorem State.readValue_state (s : State) (t : Tag) (a : Nat) : ∃ n, (s.readValue t a).2 = { s with free := n } := by
  unfold State.readValue
  dsimp only
  split
  · exact ⟨s.free, rfl⟩
  · split
    · exact ⟨s.free, rfl⟩
    · split
      · exact ⟨s.free, rfl⟩
      · split
        · exact State.viewed_state ‹_›
        · exact ⟨s.free, rfl⟩

/-! ### The halves of a pair -/

/-- A 32-bit write of the control space is one word at the bus matrix. -/
theorem regWrite_one (t : Tag) (a : Nat) (d : Word) (s : State) (hh : isHbm a = false) :
    regWrite t a (.one 32 (d.setWidth 64)) s = busWord (.w32 t a d) s := by
  unfold regWrite Access.w32
  simp only [hh, toNat_setWidth_mod, sizeOf, if_true, if_false, Bool.false_eq_true, Nat.reduceEqDiff]

theorem busWord_lower_admitted {s : State} {x : Access} (hp : isPair x.addr = true) (h8 : x.addr % 8 = 0) (ha : s.admits x = true) :
    busWord x s = (holdLower x ((s.noteDebug x.tag).dropHolds x.master x.page)).respond x false 0 := by
  obtain ⟨hl, hr⟩ := (s.admits_iff x).mp ha
  simp [busWord, hp, h8, hl, hr]

theorem busWord_upper {s : State} {x : Access} (h8 : x.addr % 8 ≠ 0) :
    busWord x s = busWrite x (writeWord x.tag x.addr (s.heldLower x.master x.addr) (BitVec.ofNat 32 x.data)) s := by
  simp [busWord, h8]

/-- The half that a master has just written is the one that an upper half applies: none of its other halves in the page is left. -/
theorem State.heldLower_holdLower (s : State) (x : Access) :
    (holdLower x (s.dropHolds x.master x.page)).heldLower x.master (x.addr + 4) = some (BitVec.ofNat 32 x.data) := by
  have dropped : (s.dropHolds x.master x.page).bus.pairWr.find? (fun h => h.master == x.master && h.addr + 4 == x.addr + 4) = none := by
    rw [List.find?_eq_none]
    intro h hm hx
    simp only [Bool.and_eq_true, beq_iff_eq, Nat.add_right_cancel_iff] at hx
    exact s.dropHolds_held x.master x.page h (List.mem_append_right _ hm) ⟨hx.1, by rw [hx.2]; rfl⟩
  rw [State.heldLower, holdLower, List.find?_append, dropped]
  simp

/-- An upper half with a held lower half writes the pair. -/
theorem writeWord_upper {a : Nat} (hp : isPair a = true) (t : Tag) (d0 d : Word) (s : State) :
    writeWord t a (some d0) d s = writePair t (a - 4) (pairOf d0 d) s := by
  simp [writeWord, hp]

/-- The read of a lower half latches the upper half. -/
theorem busValue_lower {x : Access} (hs : x.size = 2) (hp : isPair x.addr = true) (h8 : x.addr % 8 = 0) (latch : Option Word)
    (s : State) : ∃ n, busValue x latch s = ((s.readValue x.tag x.addr).1.toNat, { s with
      free := n
      bus := { s.bus with pairRd := s.bus.pairRd ++
        [⟨x.master, x.addr, ((s.readValue x.tag x.addr).2.readValue x.tag (x.addr + 4)).1⟩] } }) := by
  obtain ⟨m, hm⟩ := s.readValue_state x.tag x.addr
  obtain ⟨n, hn⟩ := (s.readValue x.tag x.addr).2.readValue_state x.tag (x.addr + 4)
  refine ⟨n, ?_⟩
  unfold busValue
  simp only [hs, hp, h8, if_true, if_false, Nat.reduceEqDiff, Nat.lt_irrefl, hn]
  rw [hm]

/-- An admitted read of a lower half. -/
theorem busReadOf_lower {s : State} {x : Access} (hs : x.size = 2) (hp : isPair x.addr = true) (h8 : x.addr % 8 = 0)
    (ha : s.admits x = true) : ∃ n,
      let c := (s.noteDebug x.tag).dropHolds x.master x.page
      busReadOf x s = ((false, (c.readValue x.tag x.addr).1.toNat), { c with
        free := n
        bus := { c.bus with pairRd := c.bus.pairRd ++
          [⟨x.master, x.addr, ((c.readValue x.tag x.addr).2.readValue x.tag (x.addr + 4)).1⟩] } }) := by
  obtain ⟨hl, hr⟩ := (s.admits_iff x).mp ha
  obtain ⟨n, hv⟩ := busValue_lower hs hp h8
    ((s.bus.pairRd.find? fun h => h.master == x.master && h.addr + 4 == x.addr).map fun h => h.val)
    ((s.noteDebug x.tag).dropHolds x.master x.page)
  refine ⟨n, ?_⟩
  unfold busReadOf
  simp only [hl, hr, Bool.false_eq_true, if_false, hv]

/-- A 32-bit read of the control space is one access, answered with what it returns. -/
theorem regRead_one {s : State} {t : Tag} {a : Nat} (hh : isHbm a = false) (hl : s.lost t (tagNum t) = false) :
    regRead t a (.one 32) s = (busReadOf (.r32 t a) s).2.respond (.r32 t a) (busReadOf (.r32 t a) s).1.1 (busReadOf (.r32 t a) s).1.2 := by
  unfold regRead
  simp only [hh, hl, Bool.false_eq_true, if_false]
  rfl

/-- A read is answered to every master. -/
theorem State.respond_read {x : Access} (h : x.wr = false) (s : State) (err : Bool) (d : Nat) :
    s.respond x err d = { s with bus := { s.bus with resp := [⟨err, BitVec.ofNat 64 d⟩] } } := by
  simp [State.respond, h]

theorem State.noteDebug_regsKept (s : State) (t : Tag) : s.regsKept (s.noteDebug t) [regKey 0 (regA pKey 0x040)] := by
  unfold State.noteDebug
  split
  · exact State.regsKept_wrF _ _ _ _ _ _
  · exact s.regsKept_refl _

theorem State.noteDebug_frame (s : State) (t : Tag) : { s.noteDebug t with regs := s.regs } = s := by
  unfold State.noteDebug
  split <;> rfl

theorem State.noteDebug_tbl (s : State) (t : Tag) : (s.noteDebug t).tbl = s.tbl := by
  unfold State.noteDebug
  split <;> rfl

theorem State.noteDebug_memKept (s : State) (t : Tag) : s.memKept (s.noteDebug t) := by
  unfold State.noteDebug
  split <;> exact fun _ => rfl

/-- Settles O13: a lower half is held, an upper half completes the pair with it, a read latches the upper half. -/
theorem pairHalves : Obligations.PairHalves := by
  intro s t a hh hp h8
  refine ⟨fun d ha => ?_, fun a' d d0 ha' hp' hheld ha => ?_, fun ha => ?_⟩
  · have hz : exec (.pairLowerWrite t a d) s = .next _ :=
      congrArg Host.Outcome.next ((regWrite_one t a.toNat d s hh).trans (busWord_lower_admitted hp h8 ha))
    obtain ⟨r, hr⟩ := (holdLower (.w32 t a.toNat d) ((s.noteDebug t).dropHolds (tagNum t) (a.toNat / 65536))).respond_eq
      (.w32 t a.toNat d) false 0
    have hd : BitVec.ofNat 32 (Access.w32 t a.toNat d).data = d := BitVec.ofNat_toNat 32 d
    refine ⟨_, hz.trans (congrArg _ hr), ?_, ?_, s.noteDebug_regsKept t, ?_⟩
    · exact ((s.noteDebug t).heldLower_holdLower (.w32 t a.toNat d)).trans (congrArg some hd)
    · intro h hm hpg
      rcases List.mem_append.mp hm with hm | hm
      · exact absurd hpg ((s.noteDebug t).dropHolds_held (tagNum t) (a.toNat / 65536) h (List.mem_append_right _ hm))
      · rw [List.mem_singleton.mp hm, hd]
        rfl
    · exact congrArg (fun u : State => { u with bus := s.bus }) (s.noteDebug_frame t)
  · have hup : a'.toNat % 8 ≠ 0 := by omega
    have hlow : a'.toNat - 4 = a.toNat := by omega
    refine congrArg Host.Outcome.next ?_
    rw [regWrite_one t a'.toNat d s (by
      unfold isHbm at hh ⊢
      rwa [ha', show (a.toNat + 4) / 65536 = a.toNat / 65536 by omega]), busWord_upper hup, busWrite_admitted _ _ _ ha]
    simp only [Access.w32, hheld, BitVec.ofNat_toNat, BitVec.setWidth_eq, writeWord_upper hp', hlow]
  · obtain ⟨hl, -⟩ := (s.admits_iff _).mp ha
    obtain ⟨n, hr⟩ := busReadOf_lower rfl hp h8 ha
    refine ⟨_, congrArg Host.Outcome.next (regRead_one hh hl), ?_⟩
    rw [hr, State.respond_read rfl]
    exact ⟨rfl, rfl, s.noteDebug_tbl t, s.noteDebug_memKept t⟩

/-! ### What a refused access leaves -/

/-- A refused or timed-out access at an address has changed the error log, the fault bits that it sets and nothing else, but the halves
held, the response, the fault occurrences that wait and the mark of a first access by tag D (R52, R436). -/
def State.onlyLogged (s z : State) (a : Nat) : Prop :=
  z.rd 0 (regA pBmx 0x044) = s.rd 0 (regA pBmx 0x044) + 1 ∧ z.rd 0 (regA pBmx 0x048) = wd a ∧
  s.regsKept z [regKey 0 (regA pBmx 0x044), regKey 0 (regA pBmx 0x048), regKey 0 (regA pBmx 0x04C), regKey 0 (regA pBmx 0x018),
    regKey 0 (regA pKey 0x040)] ∧
  { z with regs := s.regs, occ := s.occ, bus := s.bus } = s

/-- Its cause is in the log too, with width and direction. -/
def State.logged (s z : State) (t : Tag) (a code info : Nat) : Prop :=
  s.onlyLogged z a ∧ z.rd 0 (regA pBmx 0x04C) = wd (code + info + tagNum t * 256) ∧ bitOf (z.rd 0 (regA pBmx 0x018)) (code - 1) = true

theorem State.faultAt_eq (s : State) (pg b inst p : Nat) : ∃ o,
    s.faultAt pg b inst p = { s.wrF 0 (regA pg 0x018) b 1 1 with occ := o } := by
  unfold State.faultAt
  dsimp only
  split
  · exact ⟨s.occ, rfl⟩
  · exact ⟨_, rfl⟩

theorem Cause.code_le (c : Cause) : 1 ≤ c.code ∧ c.code ≤ 7 := by
  cases c <;> decide

/-- The registers of an entry in the error log: count, address, information, and the fault bit. -/
theorem State.logEntry (u : State) (a info b : Nat) (hb : b < 32) :
    let z := (((u.inc 0 (regA pBmx 0x044)).wr 0 (regA pBmx 0x048) (wd a)).wr 0 (regA pBmx 0x04C) (wd info)).wrF 0 (regA pBmx 0x018) b 1 1
    z.rd 0 (regA pBmx 0x044) = u.rd 0 (regA pBmx 0x044) + 1 ∧ z.rd 0 (regA pBmx 0x048) = wd a ∧
    z.rd 0 (regA pBmx 0x04C) = wd info ∧ bitOf (z.rd 0 (regA pBmx 0x018)) b = true ∧
    u.regsKept z [regKey 0 (regA pBmx 0x044), regKey 0 (regA pBmx 0x048), regKey 0 (regA pBmx 0x04C), regKey 0 (regA pBmx 0x018)] := by
  intro z
  refine ⟨?_, ?_, ?_, ?_, ?_⟩
  · rw [State.rd_wrF_other _ _ _ _ _ _ _ _ (by decide), State.rd_wr_addr _ _ _ _ _ (by decide), State.rd_wr_addr _ _ _ _ _ (by decide),
      State.inc, State.rd_wr_same]
  · rw [State.rd_wrF_other _ _ _ _ _ _ _ _ (by decide), State.rd_wr_addr _ _ _ _ _ (by decide), State.rd_wr_same]
  · rw [State.rd_wrF_other _ _ _ _ _ _ _ _ (by decide), State.rd_wr_same]
  · exact (congrArg (bitOf · b) (State.rd_wr_same _ _ _ _)).trans (bitOf_setFld_same _ _ _ hb)
  · exact State.regsKept_wr (State.regsKept_wr (State.regsKept_wr (State.regsKept_wr (u.regsKept_refl _) _ (by simp)) _ (by simp)) _
      (by simp)) _ (by simp)

/-- The log entry of an access and its response change what `logged` says. -/
theorem State.logErr_logged (s : State) (x y : Access) (c : Cause) (e : Bool) (v : Nat) :
    s.logged ((((s.noteDebug x.tag).dropHolds y.master y.page).logErr x c).respond y e v) x.tag x.addr c.code
      ((if x.wr then 16 else 0) + (if x.burst then 4 else x.size) * 32) := by
  obtain ⟨r, hr⟩ := (((s.noteDebug x.tag).dropHolds y.master y.page).logErr x c).respond_eq y e v
  obtain ⟨o, ho⟩ : ∃ o, ((s.noteDebug x.tag).dropHolds y.master y.page).logErr x c = _ := State.faultAt_eq _ _ _ _ _
  have hc := c.code_le
  obtain ⟨zcount, zaddr, zinfo, zbit, zregs⟩ := ((s.noteDebug x.tag).dropHolds y.master y.page).logEntry x.addr
    (c.code + (if x.wr then 16 else 0) + (if x.burst then 4 else x.size) * 32 + tagNum x.tag * 256) (c.code - 1) (by omega)
  have hcount : ((s.noteDebug x.tag).dropHolds y.master y.page).rd 0 (regA pBmx 0x044) = s.rd 0 (regA pBmx 0x044) :=
    State.regsKept_rd (s.noteDebug_regsKept x.tag) (by decide)
  have hframe := s.noteDebug_frame x.tag
  rw [hr, ho]
  refine ⟨⟨zcount.trans (congrArg (· + 1) hcount), zaddr, fun key hk => ?_, ?_⟩, zinfo.trans (congrArg wd (by omega)), zbit⟩
  · refine (zregs key fun h => hk ?_).trans (s.noteDebug_regsKept x.tag key fun h => hk ?_)
    · simp only [List.mem_cons, List.not_mem_nil, or_false] at h ⊢
      tauto
    · simp only [List.mem_cons, List.not_mem_nil, or_false] at h ⊢
      tauto
  · have h := congrArg (fun u : State => { u with occ := s.occ, bus := s.bus }) hframe
    exact h

/-- An entry in the log leaves the writes that wait. -/
theorem State.logErr_late (s : State) (x y : Access) (c : Cause) (e : Bool) (v : Nat) :
    ((((s.noteDebug x.tag).dropHolds y.master y.page).logErr x c).respond y e v).bus.late = s.bus.late := by
  obtain ⟨r, hr⟩ := (((s.noteDebug x.tag).dropHolds y.master y.page).logErr x c).respond_eq y e v
  obtain ⟨o, ho⟩ : ∃ o, ((s.noteDebug x.tag).dropHolds y.master y.page).logErr x c = _ := State.faultAt_eq _ _ _ _ _
  have hnote : (s.noteDebug x.tag).bus.late = s.bus.late := by
    unfold State.noteDebug
    split <;> rfl
  rw [hr, ho]
  exact hnote

/-! ### Refused, lost and timed-out accesses -/

/-- Writes of 8 and 16 bits have a shape that no register takes (R49). -/
theorem State.refusal_narrow (s : State) {x : Access} (hs : x.size < 2) (hw : x.wr = true) : ∃ c, s.refusal x = some c := by
  have hb : x.badShape = true := by
    unfold Access.badShape
    split
    · rfl
    · exact hw
  by_cases hp : pageOf x.page = none
  · exact ⟨_, State.refusal_decode hp⟩
  · obtain ⟨⟨k, i⟩, hp⟩ := Option.ne_none_iff_exists'.mp hp
    by_cases hf : s.firewalled x = true
    · exact ⟨_, State.refusal_firewall hp hf⟩
    · exact ⟨_, State.refusal_access hp (by simpa using hf) hb⟩

theorem busWord_lost {x : Access} {s : State} (hl : s.lost x.tag x.master = true) : busWord x s = s := by
  unfold busWord
  dsimp only
  rw [busWrite_lost x _ s hl, if_pos hl, ite_self]

theorem busBurst_lost {t : Tag} {s : State} (hl : s.lost t (tagNum t) = true) (a : Nat) (ws : List Word) : busBurst t a ws s = s := by
  induction ws generalizing a with
  | nil => rfl
  | cons w r ih => rw [busBurst, busWord_lost hl, ih]

/-- A write that never reaches the bus matrix. -/
theorem regWrite_lost {t : Tag} {a : Nat} {s : State} (hh : isHbm a = false) (hl : s.lost t (tagNum t) = true) (sh : Shape) :
    regWrite t a sh s = s := by
  unfold regWrite
  rw [hh, if_neg Bool.false_ne_true]
  split
  · dsimp only
    rw [busWord_lost hl, busWrite_lost _ _ _ hl, busWrite_lost _ _ _ hl]
    simp only [ite_self]
  · rfl
  · rw [hl, busBurst_lost hl]
    simp only [if_true, ite_self]

/-- A burst that is neither refused whole nor empty. -/
theorem regWrite_burst {t : Tag} {a : Nat} {s : State} {ws : List Word} (hh : isHbm a = false) (hw : ws ≠ [])
    (hb : burstBad a ws.length = false) : regWrite t a (.burst ws) s = busBurst t a ws s := by
  cases ws with
  | nil => exact absurd rfl hw
  | cons w r => simp only [regWrite, hh, hb, Bool.false_eq_true, if_false]

theorem regWrite_badBurst {t : Tag} {a : Nat} {s : State} {ws : List Word} (hh : isHbm a = false) (hw : ws ≠ [])
    (hl : s.lost t (tagNum t) = false) (hb : burstBad a ws.length = true) : regWrite t a (.burst ws) s = refuseBurst t a true s := by
  cases ws with
  | nil => exact absurd rfl hw
  | cons w r => simp only [regWrite, hh, hb, hl, Bool.false_eq_true, if_false, if_true]

theorem regWrite_eight (t : Tag) (a : Nat) (d : Dword) (s : State) (hh : isHbm a = false) :
    regWrite t a (.one 8 d) s = busWrite ⟨t, tagNum t, a, 0, false, true, d.toNat % 2 ^ 8⟩ id s := by
  simp only [regWrite, hh, sizeOf, Bool.false_eq_true, if_false, if_true, Nat.reduceEqDiff, true_or]
  rfl

theorem regWrite_sixteen (t : Tag) (a : Nat) (d : Dword) (s : State) (hh : isHbm a = false) :
    regWrite t a (.one 16 d) s = busWrite ⟨t, tagNum t, a, 1, false, true, d.toNat % 2 ^ 16⟩ id s := by
  simp only [regWrite, hh, sizeOf, Bool.false_eq_true, if_false, if_true, Nat.reduceEqDiff, or_true]
  rfl

theorem regWrite_double (t : Tag) (a : Nat) (d : Dword) (s : State) (hh : isHbm a = false) :
    regWrite t a (.one 64 d) s = busWrite ⟨t, tagNum t, a, 3, false, true, d.toNat⟩ (writePair t a d.toNat) s := by
  simp only [regWrite, hh, sizeOf, Bool.false_eq_true, if_false, if_true, Nat.reduceEqDiff, Nat.mod_eq_of_lt d.isLt]

/-- The one word that waits when a one-word write has timed out. -/
theorem State.lateWords_one (s : State) (t : Tag) (a : Nat) (d : Word) :
    s.lateWords t a (.one 32 (d.setWidth 64)) = [⟨t, a, s.heldLower (tagNum t) a, d⟩] := by
  have hd : BitVec.ofNat 32 (d.setWidth 64).toNat = d := by
    refine BitVec.eq_of_toNat_eq ?_
    rw [BitVec.toNat_ofNat, toNat_setWidth_mod]
  have hne : (a + 4 == a) = false := by simp
  simp only [State.lateWords, shapeWords, hd, Nat.reduceEqDiff, if_false, List.map, List.find?, hne]

/-- A timed-out one-word access: the log entry, and a write waits or lands. -/
theorem execBusTimeout_silent {s : State} {t : Tag} {a : Addr} {wr : Bool} {d : Word} (hl : s.lost t (tagNum t) = false)
    (hm : s.mayTimeOut t a.toNat wr (.one 32 (d.setWidth 64)) = true) (lands : Bool) :
    let x : Access := ⟨t, tagNum t, a.toNat, 2, false, wr, 0⟩
    let u := (((s.noteDebug t).dropHolds x.master x.page).logErr x .timeout).respond x true 0
    exec (.busTimeout t a wr (.one 32 (d.setWidth 64)) lands) s =
      .next (if wr then u.afterTimeout [⟨t, a.toNat, s.heldLower (tagNum t) a.toNat, d⟩] lands else u) := by
  refine congrArg Host.Outcome.next ?_
  rw [hl, hm, State.lateWords_one]
  rfl

theorem execBusTimeout_answered {s : State} {t : Tag} {a : Addr} {wr : Bool} {sh : Shape} (hl : s.lost t (tagNum t) = false)
    (hm : s.mayTimeOut t a.toNat wr sh = false) (lands : Bool) :
    exec (.busTimeout t a wr sh lands) s = .next (if wr then regWrite t a.toNat sh s else regRead t a.toNat (readOf sh) s) := by
  refine congrArg Host.Outcome.next ?_
  rw [hl, hm]
  rfl

/-- A write of 8 or 16 bits is refused: it changes the error log alone. -/
theorem busWrite_narrow {x : Access} {s : State} (hs : x.size < 2) (hw : x.wr = true) (hl : s.lost x.tag x.master = false)
    (eff : State → State) : s.onlyLogged (busWrite x eff s) x.addr := by
  obtain ⟨c, hc⟩ := ((s.noteDebug x.tag).dropHolds x.master x.page).refusal_narrow hs hw
  rw [busWrite_refused x eff s c hl hc]
  exact (s.logErr_logged x x c true 0).1

theorem burstCause_code (s : State) (x : Access) :
    (s.burstCause x).code = if (pageOf x.page).isNone then 1 else if s.firewalled x then 2 else 3 := by
  unfold State.burstCause
  split
  · rfl
  · split <;> rfl

/-- A burst refused whole, for the cause that comes first. -/
theorem refuseBurst_logged (s : State) (t : Tag) (a : Nat) :
    s.logged (refuseBurst t a true s) t a (if (pageOf (a / 65536)).isNone then 1
      else if s.firewalled ⟨t, tagNum t, a, 2, true, true, 0⟩ then 2 else 3) 144 := by
  have h := s.logErr_logged ⟨t, tagNum t, a, 2, true, true, 0⟩ ⟨t, tagNum t, a, 2, true, true, 0⟩
    (s.burstCause ⟨t, tagNum t, a, 2, true, true, 0⟩) true 0
  rw [burstCause_code] at h
  exact h

/-- A burst that stays in its page is its first word and then the burst of the others. -/
theorem regWrite_burst_cons {t : Tag} {a : Nat} {s : State} {w : Word} {r : List Word} (hh : isHbm a = false) (hr : r ≠ [])
    (hlen : r.length < 16) (hpage : (a + 4 * r.length + 3) / 65536 = a / 65536) :
    regWrite t a (.burst (w :: r)) s = regWrite t (a + 4) (.burst r) (regWrite t a (.burst [w]) s) := by
  have hpos := List.length_pos_of_ne_nil hr
  have hsame : (a + 4) / 65536 = a / 65536 := by omega
  have hh' : isHbm (a + 4) = false := by
    unfold isHbm at hh ⊢
    rwa [hsame]
  rw [regWrite_burst hh (List.cons_ne_nil _ _) (by simp [burstBad]; omega),
    regWrite_burst hh (List.cons_ne_nil _ _) (by simp [burstBad]; omega),
    regWrite_burst hh' hr (by simp [burstBad]; omega)]
  rfl

/-- Settles O9: a refused access only makes a log entry, a lost one does nothing, and a burst that is not refused whole is its words. -/
theorem refusedWriteOnlyLogs : Obligations.RefusedWriteOnlyLogs := by
  intro s t a hh write cleared only logged
  refine ⟨fun hl => ⟨fun sh => congrArg Host.Outcome.next (regWrite_lost hh hl sh),
      fun wr sh lands => congrArg Host.Outcome.next (if_pos hl)⟩,
    fun hl => ⟨?_, ?_, ?_, ?_, ?_⟩, ?_⟩
  · intro d c hp hc
    refine ⟨_, congrArg Host.Outcome.next ((regWrite_word t a.toNat d s hh hp).trans (busWrite_refused _ _ s c hl hc)), ?_⟩
    exact s.logErr_logged (.w32 t a.toNat d) (.w32 t a.toNat d) c true 0
  · intro d
    exact ⟨⟨_, congrArg Host.Outcome.next (regWrite_eight t a.toNat d s hh), busWrite_narrow Nat.zero_lt_two rfl hl id⟩,
      ⟨_, congrArg Host.Outcome.next (regWrite_sixteen t a.toNat d s hh), busWrite_narrow Nat.one_lt_two rfl hl id⟩⟩
  · intro d x ha
    exact congrArg Host.Outcome.next ((regWrite_double t a.toNat d s hh).trans (busWrite_admitted x _ s ha))
  · intro ws hw hb
    exact ⟨_, congrArg Host.Outcome.next (regWrite_badBurst hh hw hl (decide_eq_true hb)), refuseBurst_logged s t a.toNat⟩
  · intro wr d sh
    refine ⟨fun hm lands => ?_, fun hm => ⟨?_, ?_⟩⟩
    · rw [execBusTimeout_answered hl hm]
      cases wr <;> rfl
    · refine ⟨_, execBusTimeout_silent hl hm false, ?_⟩
      have h := s.logErr_logged ⟨t, tagNum t, a.toNat, 2, false, wr, 0⟩ ⟨t, tagNum t, a.toNat, 2, false, wr, 0⟩ .timeout true 0
      have hlate := s.logErr_late ⟨t, tagNum t, a.toNat, 2, false, wr, 0⟩ ⟨t, tagNum t, a.toNat, 2, false, wr, 0⟩ .timeout true 0
      rw [show s.lateWords t a.toNat sh = _ from s.lateWords_one t a.toNat d, Nat.add_comm 64]
      cases wr with
      | true => exact ⟨h, congrArg (· ++ _) hlate⟩
      | false => exact ⟨h, hlate.trans (List.append_nil _).symm⟩
    · intro z hz hwr
      subst hwr
      have hlate := s.logErr_late ⟨t, tagNum t, a.toNat, 2, false, true, 0⟩ ⟨t, tagNum t, a.toNat, 2, false, true, 0⟩
        .timeout true 0
      rw [execBusTimeout_silent hl hm] at hz ⊢
      cases hz
      rw [← hlate]
      rfl
  · intro w r a' z hr hlen ha' hpage hz
    cases hz
    refine congrArg Host.Outcome.next ((regWrite_burst_cons hh hr hlen hpage).trans ?_)
    rw [ha']

end Sys2Proof.Machine
end

section
/-!
PROOFS. Scope: the host interface. Interrupt causes, completion interrupts, queues and descriptors, and the function-level resets.
-/
namespace Sys2Proof.Machine

/-! ### Interrupt causes -/

/-- A table word after one of its fields is set. -/
theorem State.ent_setEntF_same (s : State) (pg b sel idx w lo n v : Nat) :
    (s.setEntF pg b sel idx w lo n v).ent pg b sel idx w = setFld (s.ent pg b sel idx w) lo n v :=
  State.ent_setEnt_same _ _ _ _ _ _ _

/-- The cause entry of a partition. -/
abbrev State.causeEnt (s : State) (p k : Nat) : Word := s.ent pHost p 1 k 0

/-- A cause that pends already stands for a further occurrence. -/
theorem State.cause_pending {s : State} {p k : Nat} (h : bitOf (s.causeEnt p k) 30 = true) : s.cause p k = s := by
  simp only [State.cause, h, if_true]

/-- A cause whose message can be sent sends it. -/
theorem State.cause_sent {s : State} {p k : Nat} (h : bitOf (s.causeEnt p k) 30 = false) (h31 : bitOf (s.causeEnt p k) 31 = true)
    (hc : s.canSend p (fld (s.causeEnt p k) 0 6) = true) : s.cause p k = s.emit (.msix p (fld (s.causeEnt p k) 0 6) k) := by
  simp only [State.cause, h, h31, hc, Bool.false_eq_true, if_false, Bool.and_self, if_true]

/-- Any other cause pends. -/
theorem State.cause_pends {s : State} {p k : Nat} (h : bitOf (s.causeEnt p k) 30 = false)
    (hc : (bitOf (s.causeEnt p k) 31 && s.canSend p (fld (s.causeEnt p k) 0 6)) = false) :
    s.cause p k = s.setEntF pHost p 1 k 0 30 1 1 := by
  simp only [State.cause, h, hc, Bool.false_eq_true, if_false]

/-- What an occurrence can do: one message, or PEND. -/
theorem State.cause_cases (s : State) (p k : Nat) :
    s.cause p k = s.emit (.msix p (fld (s.causeEnt p k) 0 6) k) ∨
      bitOf ((s.cause p k).causeEnt p k) 30 = true ∧ (s.cause p k = s ∨ s.cause p k = s.setEntF pHost p 1 k 0 30 1 1) := by
  cases h : bitOf (s.causeEnt p k) 30 with
  | true => exact .inr ⟨by rw [State.cause_pending h, h], .inl (State.cause_pending h)⟩
  | false =>
    cases hc : bitOf (s.causeEnt p k) 31 && s.canSend p (fld (s.causeEnt p k) 0 6) with
    | true =>
      rw [Bool.and_eq_true] at hc
      exact .inl (State.cause_sent h hc.1 hc.2)
    | false =>
      refine .inr ⟨?_, .inr (State.cause_pends h hc)⟩
      rw [State.cause_pends h hc, State.causeEnt, State.ent_setEntF_same, bitOf_setFld_same _ _ _ (by omega)]
      rfl

theorem State.canSend_congr {s u : State} (h : u.host = s.host) (p v : Nat) : u.canSend p v = s.canSend p v := by
  simp only [State.canSend, State.onLink, h]

theorem State.pcieWrite_host_congr {s u : State} (h : u.host = s.host) (p : Nat) (w : Option PcieWrite) :
    (u.pcieWrite p w).host = (s.pcieWrite p w).host := by
  simp only [State.pcieWrite, State.onLink, h]
  cases w with
  | none => split <;> exact h
  | some w =>
    split
    · exact h
    · cases w with
      | msixEnable on => rfl
      | vector v k d => rfl
      | vfEnable => dsimp only; split; exacts [rfl, h]

/-- A configuration write changes the host interface alone. -/
theorem State.pcieWrite_eq (s : State) (p : Nat) (w : Option PcieWrite) : ∃ h, s.pcieWrite p w = { s with host := h } := by
  unfold State.pcieWrite
  split
  · exact ⟨s.host, rfl⟩
  · split
    · exact ⟨s.host, rfl⟩
    · exact ⟨_, rfl⟩
    · exact ⟨_, rfl⟩
    · split
      · exact ⟨_, rfl⟩
      · exact ⟨s.host, rfl⟩

theorem State.pcieWrite_none (s : State) (p : Nat) : s.pcieWrite p none = s := by
  unfold State.pcieWrite
  split <;> rfl

/-- Delivery sends the message of a pending cause that can be sent, and clears PEND. -/
theorem State.deliver_sent {s : State} {p k : Nat} (h30 : bitOf (s.causeEnt p k) 30 = true) (h31 : bitOf (s.causeEnt p k) 31 = true)
    (hc : s.canSend p (fld (s.causeEnt p k) 0 6) = true) :
    s.deliver p k = (s.setEntF pHost p 1 k 0 30 1 0).emit (.msix p (fld (s.causeEnt p k) 0 6) k) := by
  simp only [State.deliver, h30, h31, hc, Bool.and_self, if_true]

theorem State.deliver_idle {s : State} {p k : Nat} (h30 : bitOf (s.causeEnt p k) 30 = false) : s.deliver p k = s := by
  simp only [State.deliver, h30, Bool.false_and, Bool.false_eq_true, if_false]

/-- While it cannot be sent, any number of occurrences leave what the first leaves. -/
theorem State.repeat_cause {s : State} {p k : Nat} (h : bitOf ((s.cause p k).causeEnt p k) 30 = true) (n : Nat) :
    Nat.repeat (fun u : State => u.cause p k) (n + 1) s = s.cause p k := by
  induction n with
  | zero => rfl
  | succ n ih =>
    rw [Nat.repeat, ih]
    exact State.cause_pending h

/-- With EN = 0, MSI-X of the function disabled or the vector masked, an occurrence leaves PEND set and the entry's other fields, and
nothing else. -/
theorem State.cause_closed {s : State} {p k : Nat}
    (h : bitOf (s.causeEnt p k) 31 = false ∨ s.canSend p (fld (s.causeEnt p k) 0 6) = false) :
    let u := s.cause p k
    bitOf (u.causeEnt p k) 30 = true ∧ bitOf (u.causeEnt p k) 31 = bitOf (s.causeEnt p k) 31 ∧
      fld (u.causeEnt p k) 0 6 = fld (s.causeEnt p k) 0 6 ∧ u.out = s.out ∧ u.host = s.host := by
  cases h30 : bitOf (s.causeEnt p k) 30 with
  | true =>
    rw [State.cause_pending h30]
    exact ⟨h30, rfl, rfl, rfl, rfl⟩
  | false =>
    have he := s.ent_setEntF_same pHost p 1 k 0 30 1 1
    rw [State.cause_pends h30 (by rcases h with h | h <;> simp [h])]
    refine ⟨?_, ?_, ?_, rfl, rfl⟩
    · rw [State.causeEnt, he, bitOf_setFld_same _ _ _ (by omega)]
      rfl
    · rw [State.causeEnt, he, bitOf_setFld_other _ _ _ _ _ (by omega) (by omega)]
    · rw [State.causeEnt, he, fld_setFld_other _ _ _ _ _ _ (by omega) (by omega)]

/-- Settles O20: a closed cause pends; an open pending one is sent once, whether or not a configuration write opened it. -/
theorem interruptCausesPend : Obligations.InterruptCausesPend := by
  intro s p k e v closed
  have shut (h : closed s) : bitOf e 31 = false ∨ s.canSend p v = false := by
    rcases h with h | h | h
    · exact .inl h
    · exact .inr (by simp only [State.canSend, h, Bool.and_false, Bool.false_and])
    · exact .inr (by simp only [State.canSend, h, Bool.not_true, Bool.and_false])
  refine ⟨fun h => ?_, fun hc h30 h31 => ?_, fun h n w hn h31 hc => ?_⟩
  · obtain ⟨hpend, -, -, hout, -⟩ := State.cause_closed (shut h)
    exact ⟨hpend, hout⟩
  · have hz : exec (.msixDeliver p k none) s = .next ((s.setEntF pHost p 1 k 0 30 1 0).emit (.msix p v k)) :=
      congrArg Host.Outcome.next ((congrArg (State.deliver · p k) (s.pcieWrite_none p)).trans (State.deliver_sent h30 h31 hc))
    have hclear : bitOf (((s.setEntF pHost p 1 k 0 30 1 0).emit (.msix p v k)).causeEnt p k) 30 = false := by
      rw [State.causeEnt, State.emit_ent, State.ent_setEntF_same, bitOf_setFld_same _ _ _ (by omega)]
      rfl
    refine ⟨_, hz, rfl, hclear, fun j hj => Tab.get_put_other _ _ _ _ _ fun e => hj (by rw [e]; simp), rfl, ?_⟩
    exact congrArg Host.Outcome.next ((congrArg (State.deliver · p k) (State.pcieWrite_none _ p)).trans (State.deliver_idle hclear))
  · obtain ⟨hpend, hen, hvec, hout, hhost⟩ := State.cause_closed (shut h)
    obtain ⟨n, rfl⟩ := Nat.exists_eq_succ_of_ne_zero hn.ne'
    rw [State.repeat_cause hpend]
    generalize s.cause p k = u at hpend hen hvec hout hhost
    have hopen : (u.pcieWrite p w).canSend p v = true := by
      rw [State.canSend_congr (State.pcieWrite_host_congr hhost p w), hc]
    obtain ⟨h', hw⟩ := u.pcieWrite_eq p w
    rw [hw] at hopen
    refine ⟨_, congrArg Host.Outcome.next ((congrArg (State.deliver · p k) hw).trans
      (State.deliver_sent hpend (hen.trans h31) ?_)), ?_⟩
    · exact (congrArg _ hvec).trans hopen
    · exact congrArg₂ (fun o x => o ++ [Out.msix p x k]) hout hvec

/-! ### The holdoff interrupt -/

/-- An occurrence changes its entry and what the part sends, and nothing else. -/
theorem State.cause_frame (s : State) (p k : Nat) : { s.cause p k with tbl := s.tbl, out := s.out } = s := by
  rcases s.cause_cases p k with h | ⟨-, h | h⟩ <;> rw [h] <;> rfl

theorem State.qrec_setQrec_same (s : State) (q : Nat) (rx : Bool) (r : QRec) : (s.setQrec q rx r).qrec q rx = r :=
  Tab.get_put_same _ _ _ _

theorem State.qrec_setQrec_other (s : State) {q q' : Nat} {rx rx' : Bool} (r : QRec) (h : qIx q' rx' ≠ qIx q rx) :
    (s.setQrec q rx r).qrec q' rx' = s.qrec q' rx' :=
  Tab.get_put_other _ _ _ _ _ h

theorem State.qrec_congr {s u : State} (h : u.host = s.host) (q : Nat) (rx : Bool) : u.qrec q rx = s.qrec q rx := by
  simp only [State.qrec, h]

theorem State.cause_host (s : State) (p k : Nat) : (s.cause p k).host = s.host := by
  have h := congrArg State.host (s.cause_frame p k)
  exact h

theorem State.cause_regs (s : State) (p k : Nat) : (s.cause p k).regs = s.regs := by
  have h := congrArg State.regs (s.cause_frame p k)
  exact h

theorem State.cause_memKept (s : State) (p k : Nat) : s.memKept (s.cause p k) := fun a => by
  have h := congrArg (State.memByte · a) (s.cause_frame p k)
  exact h

/-- Settles O21: the occurrence is that of the queue's cause with no completion left counted. -/
theorem interruptHoldoff : Obligations.InterruptHoldoff := by
  intro s q rx hm hs k p e
  let u := s.setQrec q rx { s.qrec q rx with since := 0 }
  have hz : exec (.interruptHoldoffExpire q rx) s = .next (u.cause p k) := congrArg Host.Outcome.next (if_pos ⟨hm, hs⟩)
  have hq : (u.cause p k).qrec q rx = { s.qrec q rx with since := 0 } :=
    (State.qrec_congr (u.cause_host p k) q rx).trans (s.qrec_setQrec_same q rx _)
  refine ⟨_, hz, by rw [hq], by rw [hq], ?_, u.cause_regs p k, u.cause_memKept p k⟩
  rcases u.cause_cases p k with h | ⟨h30, h⟩
  · exact .inl (by rw [h]; exact ⟨rfl, rfl⟩)
  · refine .inr ⟨?_, h30⟩
    rcases h with h | h <;> rw [h] <;> rfl

/-! ### Function-level resets -/

/-- What every round of a loop keeps, the loop keeps. -/
theorem forEach_keeps {α : Type} {P : State → Prop} {f : α → State → State} (l : List α) (h : ∀ x ∈ l, ∀ u, P u → P (f x u))
    {s : State} (hs : P s) : P (forEach l f s) := by
  unfold forEach
  induction l generalizing s with
  | nil => exact hs
  | cons x r ih => exact ih (fun y hy => h y (List.mem_cons_of_mem _ hy)) (h x List.mem_cons_self s hs)

/-- What one round of a loop brings about, given what every round keeps, and every round then keeps, holds after the loop. -/
theorem forEach_reaches {α : Type} {P Q : State → Prop} {f : α → State → State} {x : α} (l : List α) (hx : x ∈ l)
    (hP : ∀ y ∈ l, ∀ u, P u → P (f y u)) (hset : ∀ u, P u → Q (f x u)) (hkeep : ∀ y ∈ l, ∀ u, Q u → Q (f y u)) {s : State}
    (hs : P s) : Q (forEach l f s) := by
  induction l generalizing s with
  | nil => cases hx
  | cons y r ih =>
    have hkeep' : ∀ z ∈ r, ∀ u, Q u → Q (f z u) := fun z hz => hkeep z (List.mem_cons_of_mem _ hz)
    rcases List.mem_cons.mp hx with rfl | hx
    · exact forEach_keeps r hkeep' (hset s hs)
    · exact ih hx (fun z hz => hP z (List.mem_cons_of_mem _ hz)) hkeep' (hP y List.mem_cons_self s hs)

/-- A queue is disabled, with nothing in flight. -/
def State.queueGone (s : State) (q : Nat) (rx : Bool) : Prop := s.qEn q rx = false ∧ s.qState q rx = 0 ∧ s.qrec q rx = QRec.idle

/-- A queue's registers and its hidden state are as before. -/
def State.queueKept (s z : State) (q : Nat) (rx : Bool) : Prop :=
  z.qCfg q rx = s.qCfg q rx ∧ z.qState q rx = s.qState q rx ∧ z.qrec q rx = s.qrec q rx

/-- Nothing has changed but registers and table words of the HOST page, the bus matrix and the host interface. -/
def State.hostOnly (s z : State) : Prop :=
  (∀ k, k % 2 ^ 28 / 65536 ≠ pHost → Tab.get regReset z.regs k = Tab.get regReset s.regs k) ∧
  (∀ k, k / 2 ^ 48 ≠ pHost → Tab.get tblReset z.tbl k = Tab.get tblReset s.tbl k) ∧ s.memKept z ∧ z.out = s.out

/-- The function of partition n has been reset: the queues that were its own in s, its MSI-X table, and its bank of the HOST table and
window. -/
def State.fnGone (s : State) (n : Nat) (z : State) : Prop :=
  (∀ q rx, q < 64 → s.partOwner 7 q = n → z.queueGone q rx) ∧
  (∀ v w, v < 64 → w < 4 → Tab.get (fun _ => (0 : Word)) z.host.msix (n * 256 + v * 4 + w) = 0) ∧
  z.host.msixEnable.getLsbD n = false ∧ (∀ k, k < 256 → z.ent pHost n 1 k 0 = 0) ∧
  ∀ j, j < 20 → z.rd n (regA pHost (0x1000 + 4 * j)) = 0

theorem State.queueKept_refl (s : State) (q : Nat) (rx : Bool) : s.queueKept s q rx := ⟨rfl, rfl, rfl⟩

theorem State.queueKept_trans {s t u : State} {q : Nat} {rx : Bool} (h : s.queueKept t q rx) (g : t.queueKept u q rx) :
    s.queueKept u q rx :=
  let ⟨hcfg, hstate, hrec⟩ := h
  let ⟨gcfg, gstate, grec⟩ := g
  ⟨gcfg.trans hcfg, gstate.trans hstate, grec.trans hrec⟩

theorem State.queueGone_of_kept {s z : State} {q : Nat} {rx : Bool} (h : s.queueGone q rx) (k : s.queueKept z q rx) :
    z.queueGone q rx := by
  obtain ⟨hen, hstate, hrec⟩ := h
  obtain ⟨kcfg, kstate, krec⟩ := k
  exact ⟨by rw [State.qEn, kcfg]; exact hen, kstate.trans hstate, krec.trans hrec⟩

theorem State.hostOnly_refl (s : State) : s.hostOnly s := ⟨fun _ _ => rfl, fun _ _ => rfl, fun _ => rfl, rfl⟩

theorem State.hostOnly_trans {s t u : State} (h : s.hostOnly t) (g : t.hostOnly u) : s.hostOnly u :=
  let ⟨hregs, htbl, hmem, hout⟩ := h
  let ⟨gregs, gtbl, gmem, gout⟩ := g
  ⟨fun k hk => (gregs k hk).trans (hregs k hk), fun k hk => (gtbl k hk).trans (htbl k hk), fun a => (gmem a).trans (hmem a),
    gout.trans hout⟩

/-- Queue ownership stands in the PART page. -/
theorem State.hostOnly_partOwner {s z : State} (h : s.hostOnly z) {q : Nat} (hq : q < 64) : z.partOwner 7 q = s.partOwner 7 q := by
  obtain ⟨-, htbl, -, -⟩ := h
  have he : z.ent pPart 0 7 q 0 = s.ent pPart 0 7 q 0 := htbl _ (by unfold tblKey pPart pHost; omega)
  rw [State.partOwner, State.entF, he]
  rfl

/-! #### One queue -/

/-- Registers of two queues are different ones. -/
theorem qA_ne {q q' : Nat} {rx rx' : Bool} (h : ¬(q' = q ∧ rx' = rx)) {o o' : Nat} (ho : o < 0x20) (ho' : o' < 0x20) :
    qA q' rx' + o' ≠ qA q rx + o := by
  unfold qA regA
  cases rx <;> cases rx' <;> simp at h ⊢ <;> omega

theorem qIx_ne {q q' : Nat} {rx rx' : Bool} (h : ¬(q' = q ∧ rx' = rx)) : qIx q' rx' ≠ qIx q rx := by
  unfold qIx
  cases rx <;> cases rx' <;> simp at h ⊢ <;> omega

/-- The registers of a queue are of the HOST page's unbanked ones, past its table window. -/
theorem qA_page {q : Nat} (hq : q < 64) (rx : Bool) {o : Nat} (ho : o < 0x20) :
    (qA q rx + o) / 65536 = pHost ∧ 0x2000 ≤ (qA q rx + o) % 65536 := by
  unfold qA regA pHost
  cases rx <;> simp <;> omega

theorem State.killQueue_gone (s : State) (q : Nat) (rx : Bool) : (s.killQueue q rx).queueGone q rx := by
  have hne : qA q rx + 0x08 ≠ qA q rx + 0x18 := by omega
  refine ⟨?_, ?_, State.qrec_setQrec_same _ _ _ _⟩
  · have hcfg : (s.killQueue q rx).qCfg q rx = setFld (s.qCfg q rx) 0 1 0 := by
      refine (State.rd_wr_addr _ 0 (qA q rx + 0x18) _ (qA q rx + 0x08) hne).trans ?_
      exact State.rd_wr_same _ _ _ _
    rw [State.qEn, hcfg, bitOf_setFld_same _ _ _ (by omega)]
    rfl
  · exact State.rdF_wrF_same _ _ _ _ _ _ (by omega)

theorem State.killQueue_other (s : State) {q q' : Nat} {rx rx' : Bool} (h : ¬(q' = q ∧ rx' = rx)) :
    s.queueKept (s.killQueue q rx) q' rx' := by
  have same {o' : Nat} (ho' : o' < 0x20) : (s.killQueue q rx).rd 0 (qA q' rx' + o') = s.rd 0 (qA q' rx' + o') :=
    (State.rd_wr_addr _ 0 (qA q rx + 0x18) _ _ (qA_ne h (by omega) ho')).trans
      (State.rd_wr_addr _ 0 (qA q rx + 0x08) _ _ (qA_ne h (by omega) ho'))
  exact ⟨same (by omega), congrArg (fld · 0 2) (same (by omega)), State.qrec_setQrec_other _ _ (qIx_ne h)⟩

theorem State.killQueue_keeps_gone {s : State} {q' : Nat} {rx' : Bool} (h : s.queueGone q' rx') (q : Nat) (rx : Bool) :
    (s.killQueue q rx).queueGone q' rx' := by
  by_cases e : q' = q ∧ rx' = rx
  · rw [e.1, e.2]
    exact s.killQueue_gone q rx
  · exact State.queueGone_of_kept h (s.killQueue_other e)

theorem State.killQueue_hostOnly (s : State) {q : Nat} (hq : q < 64) (rx : Bool) : s.hostOnly (s.killQueue q rx) := by
  refine ⟨fun k hk => ?_, fun _ _ => rfl, fun _ => rfl, rfl⟩
  have apart {o : Nat} (ho : o < 0x20) : k ≠ regKey 0 (qA q rx + o) := by
    rintro rfl
    have hp := qA_page hq rx ho
    unfold regKey pHost at *
    omega
  exact (Tab.get_put_other _ _ _ _ _ (apart (by omega))).trans (Tab.get_put_other _ _ _ _ _ (apart (by omega)))

/-! #### The queues of a function -/

/-- The queues of the pairs that partition p owns, killed. -/
def State.killOwned (s : State) (p : Nat) : State :=
  forEach ((List.range 64).filter fun q => s.partOwner 7 q == p) (fun q s => (s.killQueue q false).killQueue q true) s

theorem State.mem_owned {s : State} {p q : Nat} :
    q ∈ (List.range 64).filter (fun q => s.partOwner 7 q == p) ↔ q < 64 ∧ s.partOwner 7 q = p := by
  rw [List.mem_filter, List.mem_range, beq_iff_eq]

theorem State.killOwned_gone {s : State} {p q : Nat} (hq : q < 64) (ho : s.partOwner 7 q = p) (rx : Bool) :
    (s.killOwned p).queueGone q rx := by
  refine forEach_reaches (P := fun _ => True) (Q := fun u => u.queueGone q rx) (x := q) _ (State.mem_owned.mpr ⟨hq, ho⟩)
    (fun _ _ _ _ => trivial) (fun u _ => ?_)
    (fun y _ u hu => State.killQueue_keeps_gone (State.killQueue_keeps_gone hu y false) y true) trivial
  cases rx with
  | false => exact State.killQueue_keeps_gone (u.killQueue_gone q false) q true
  | true => exact (u.killQueue q false).killQueue_gone q true

theorem State.killOwned_keeps_gone {s : State} {q : Nat} {rx : Bool} (h : s.queueGone q rx) (p : Nat) : (s.killOwned p).queueGone q rx := by
  unfold State.killOwned
  exact forEach_keeps (P := fun u => u.queueGone q rx) _
    (fun y _ _ hu => State.killQueue_keeps_gone (State.killQueue_keeps_gone hu y false) y true) h

theorem State.killOwned_other {s : State} {p q : Nat} (ho : s.partOwner 7 q ≠ p) (rx : Bool) : s.queueKept (s.killOwned p) q rx := by
  refine forEach_keeps (P := fun u => s.queueKept u q rx) _ (fun y hy u hu => ?_) (s.queueKept_refl q rx)
  have hne : q ≠ y := by
    rintro rfl
    exact ho (State.mem_owned.mp hy).2
  exact State.queueKept_trans hu (State.queueKept_trans (u.killQueue_other fun e => hne e.1)
    ((u.killQueue y false).killQueue_other fun e => hne e.1))

theorem State.killOwned_hostOnly (s : State) (p : Nat) : s.hostOnly (s.killOwned p) := by
  refine forEach_keeps (P := fun u => s.hostOnly u) _ (fun y hy u hu => ?_) s.hostOnly_refl
  obtain ⟨hy, -⟩ := State.mem_owned.mp hy
  exact State.hostOnly_trans hu (State.hostOnly_trans (u.killQueue_hostOnly hy false) ((u.killQueue y false).killQueue_hostOnly hy true))

theorem State.killOwned_host (s : State) (p : Nat) : ∃ qs, (s.killOwned p).host = { s.host with queues := qs } := by
  unfold State.killOwned
  refine forEach_keeps (P := fun u => ∃ qs, u.host = { s.host with queues := qs }) _ (fun y _ u hu => ?_) ⟨s.host.queues, rfl⟩
  obtain ⟨qs, hu⟩ := hu
  have hv (v : State) (q : Nat) (rx : Bool) : (v.killQueue q rx).host = { v.host with
      queues := Tab.put (fun _ => QRec.idle) v.host.queues (qIx q rx) QRec.idle } := rfl
  rw [hv, hv, hu]
  exact ⟨_, rfl⟩

theorem State.killOwned_tbl (s : State) (p : Nat) : (s.killOwned p).tbl = s.tbl := by
  unfold State.killOwned
  refine forEach_keeps (P := fun u => u.tbl = s.tbl) _ (fun _ _ _ hu => ?_) rfl
  exact hu

/-- Registers before the queues' stay. -/
theorem State.killQueue_rd_below (s : State) {q : Nat} (hq : q < 64) (rx : Bool) {b a : Nat} (ha : a % 65536 < 0x2000) :
    (s.killQueue q rx).rd b a = s.rd b a := by
  have apart {o : Nat} (ho : o < 0x20) : regKey b a ≠ regKey 0 (qA q rx + o) := by
    have := qA_page hq rx ho
    exact regKey_ne_of_off (by omega)
  exact (State.rd_wr_other _ _ _ _ _ _ (apart (by omega))).trans (State.rd_wr_other _ _ _ _ _ _ (apart (by omega)))

theorem State.killOwned_rd_below (s : State) (p : Nat) {b a : Nat} (ha : a % 65536 < 0x2000) : (s.killOwned p).rd b a = s.rd b a := by
  unfold State.killOwned
  refine forEach_keeps (P := fun u => u.rd b a = s.rd b a) _ (fun y hy u hu => ?_) rfl
  obtain ⟨hy, -⟩ := State.mem_owned.mp hy
  rw [State.killQueue_rd_below _ hy true ha, State.killQueue_rd_below _ hy false ha, hu]

/-! #### A function -/

/-- What is read after dropping the entries whose numbers pass a test. -/
theorem Tab.get_keep_not {α : Type} (d : Nat → α) (f : Nat → Bool) (t : Tab α) (k : Nat) :
    Tab.get d (Tab.keep (fun k => !f k) t) k = if f k = true then d k else Tab.get d t k := by
  rw [Tab.get_keep]
  cases f k <;> rfl

theorem State.flr_regs (s : State) (p k : Nat) : Tab.get regReset (s.flr p).regs k =
    if regKey p (regA pHost 0x1000) ≤ k ∧ k < regKey p (regA pHost 0x1050) then regReset k
    else Tab.get regReset (s.killOwned p).regs k := by
  refine (Tab.get_keep_not _ _ _ k).trans ?_
  simp only [Bool.and_eq_true, decide_eq_true_eq]
  rfl

theorem State.flr_tbl (s : State) (p k : Nat) : Tab.get tblReset (s.flr p).tbl k =
    if k / 2 ^ 28 = (pHost * 16 + p) * 65536 + 1 then tblReset k else Tab.get tblReset (s.killOwned p).tbl k := by
  simp only [← beq_iff_eq (a := k / 2 ^ 28)]
  exact Tab.get_keep_not _ _ _ k

theorem State.flr_msix (s : State) (p k : Nat) : Tab.get (fun _ => (0 : Word)) (s.flr p).host.msix k =
    if k / 256 = p then 0 else Tab.get (fun _ => (0 : Word)) (s.killOwned p).host.msix k := by
  simp only [← beq_iff_eq (a := k / 256)]
  exact Tab.get_keep_not _ _ _ k

theorem State.flr_msixEnable (s : State) (p : Nat) :
    (s.flr p).host.msixEnable = (s.killOwned p).host.msixEnable &&& ~~~(BitVec.ofNat 16 (2 ^ p)) := rfl

theorem State.flr_queueKept (s : State) (p : Nat) {q : Nat} (hq : q < 64) (rx : Bool) : (s.killOwned p).queueKept (s.flr p) q rx := by
  have same {o : Nat} (ho : o < 0x20) : (s.flr p).rd 0 (qA q rx + o) = (s.killOwned p).rd 0 (qA q rx + o) := by
    refine (s.flr_regs p _).trans (if_neg ?_)
    have hp := qA_page hq rx ho
    unfold regKey regA pHost at *
    omega
  exact ⟨same (by omega), congrArg (fld · 0 2) (same (by omega)), rfl⟩

theorem State.flr_hostOnly (s : State) {p : Nat} (hp : p < 16) : s.hostOnly (s.flr p) := by
  refine State.hostOnly_trans (s.killOwned_hostOnly p) ⟨fun k hk => ?_, fun k hk => ?_, fun _ => rfl, rfl⟩
  · refine (s.flr_regs p k).trans (if_neg ?_)
    unfold regKey regA pHost at *
    omega
  · refine (s.flr_tbl p k).trans (if_neg ?_)
    unfold pHost at *
    omega

theorem State.flr_vfEnable (s : State) (p : Nat) : (s.flr p).host.vfEnable = s.host.vfEnable := by
  obtain ⟨qs, hqs⟩ := s.killOwned_host p
  have h : (s.killOwned p).host.vfEnable = s.host.vfEnable := by rw [hqs]
  exact h

theorem State.flr_other {s : State} {p q : Nat} (hq : q < 64) (ho : s.partOwner 7 q ≠ p) (rx : Bool) : s.queueKept (s.flr p) q rx :=
  State.queueKept_trans (State.killOwned_other ho rx) (s.flr_queueKept p hq rx)

/-- The HOST window and the cause table of a partition are 0 at reset. -/
theorem regReset_hostWindow (n : Nat) {j : Nat} (hj : j < 20) : regReset (regKey n (regA pHost (0x1000 + 4 * j))) = 0 := by
  have ha : regKey n (regA pHost (0x1000 + 4 * j)) % 2 ^ 28 = regA pHost (0x1000 + 4 * j) := regKey_addr n (by decide) (by omega)
  unfold regReset
  simp only [ha, regA_page pHost (0x1000 + 4 * j) (by omega), regA_off pHost (0x1000 + 4 * j) (by omega)]
  interval_cases j <;> rfl

theorem tblReset_host {k : Nat} (h : k / 2 ^ 48 = pHost) : tblReset k = 0 := by
  unfold tblReset
  simp only [h, pHost, pPart, pFlt, pTake, pKey, pMon, pEgr, pRefsel, Nat.reduceEqDiff, Nat.reduceAdd, false_and, if_false]

theorem tblKey_cause {n k : Nat} (hn : n < 16) (hk : k < 256) : tblKey pHost n 1 k 0 / 2 ^ 28 = (pHost * 16 + n) * 65536 + 1 ∧
    tblKey pHost n 1 k 0 / 2 ^ 48 = pHost := by
  unfold tblKey pHost
  omega

/-- A function-level reset leaves what it clears for a function, or clears it too. -/
theorem State.flr_keeps_gone {s u : State} {n : Nat} (hn : n < 16) (h : s.fnGone n u) (p : Nat) : s.fnGone n (u.flr p) := by
  obtain ⟨hq, hmsix, hen, hent, hwin⟩ := h
  obtain ⟨qs, hhost⟩ := u.killOwned_host p
  refine ⟨fun q rx hq64 ho => ?_, fun v w hv hw => ?_, ?_, fun k hk => ?_, fun j hj => ?_⟩
  · exact State.queueGone_of_kept (State.killOwned_keeps_gone (hq q rx hq64 ho) p) (u.flr_queueKept p hq64 rx)
  · rw [State.flr_msix, hhost, hmsix v w hv hw, ite_self]
  · rw [State.flr_msixEnable, hhost, BitVec.getLsbD_and, hen, Bool.false_and]
  · rw [State.ent, State.flr_tbl, tblReset_host (tblKey_cause hn hk).2, State.killOwned_tbl]
    exact (ite_congr rfl (fun _ => rfl) fun _ => hent k hk).trans (ite_self _)
  · have hoff : regA pHost (0x1000 + 4 * j) % 65536 < 0x2000 := by
      rw [regA_off _ _ (by omega)]
      omega
    rw [State.rd, State.flr_regs, regReset_hostWindow n hj]
    exact (ite_congr rfl (fun _ => rfl) fun _ => (u.killOwned_rd_below p hoff).trans (hwin j hj)).trans (ite_self _)

/-- A function-level reset of a function: its queues are those that it owned before, since no reset before it touched the PART page. -/
theorem State.flr_gone {s u : State} (h : s.hostOnly u) {n : Nat} (hn : n < 16) : s.fnGone n (u.flr n) := by
  refine ⟨fun q rx hq ho => ?_, fun v w hv hw => ?_, ?_, fun k hk => ?_, fun j hj => ?_⟩
  · have ho' : u.partOwner 7 q = n := (State.hostOnly_partOwner h hq).trans ho
    exact State.queueGone_of_kept (State.killOwned_gone hq ho' rx) (u.flr_queueKept n hq rx)
  · rw [State.flr_msix, if_pos (by omega)]
  · rw [State.flr_msixEnable, BitVec.getLsbD_and, BitVec.getLsbD_not, BitVec.getLsbD_ofNat, Nat.testBit_two_pow_self]
    simp [hn]
  · obtain ⟨hsel, hpg⟩ := tblKey_cause hn hk
    rw [State.ent, State.flr_tbl, if_pos hsel, tblReset_host hpg]
  · rw [State.rd, State.flr_regs, if_pos (by unfold regKey regA; omega), regReset_hostWindow n hj]

/-- The removal of the virtual functions, each reset in its turn, in a state that reached w by resets of functions. -/
theorem State.removeVfs_on {s w : State} (h : s.hostOnly w) (hv : w.host.vfEnable = true) :
    ∃ u, w.removeVfs = { u with host := { u.host with vfEnable := false } } ∧ s.hostOnly u ∧
      (∀ n, 1 ≤ n → n < 16 → s.fnGone n u) ∧ (s.fnGone 0 w → s.fnGone 0 u) ∧
      ∀ q rx, q < 64 → s.partOwner 7 q = 0 → w.queueKept u q rx := by
  have step (y : Nat) (hy : y ∈ List.range 15) (u : State) (hu : s.hostOnly u) : s.hostOnly (u.flr (y + 1)) :=
    State.hostOnly_trans hu (u.flr_hostOnly (by rw [List.mem_range] at hy; omega))
  refine ⟨forEach (List.range 15) (fun n s => s.flr (n + 1)) w, ?_, ?_, fun n h1 hn => ?_, fun h0 => ?_, fun q rx hq ho => ?_⟩
  · simp only [State.removeVfs, hv, if_true]
  · exact forEach_keeps (P := fun u => s.hostOnly u) _ step h
  · obtain ⟨m, rfl⟩ : ∃ m, n = m + 1 := ⟨n - 1, by omega⟩
    exact forEach_reaches (P := fun u => s.hostOnly u) (Q := fun u => s.fnGone (m + 1) u) (x := m) _ (List.mem_range.mpr (by omega)) step
      (fun u hu => State.flr_gone hu hn) (fun y _ u hu => State.flr_keeps_gone hn hu (y + 1)) h
  · exact forEach_keeps (P := fun u => s.fnGone 0 u) _ (fun y _ u hu => State.flr_keeps_gone (by omega) hu (y + 1)) h0
  · have hP := forEach_keeps (P := fun u => s.hostOnly u ∧ w.queueKept u q rx) (List.range 15) (f := fun n s => s.flr (n + 1))
      (fun y hy u hu => ⟨step y hy u hu.1, State.queueKept_trans hu.2
        (State.flr_other hq (by rw [State.hostOnly_partOwner hu.1 hq, ho]; omega) rx)⟩) ⟨h, w.queueKept_refl q rx⟩
    exact hP.2

theorem State.removeVfs_off {s : State} (h : s.host.vfEnable = false) : s.removeVfs = s := by
  simp only [State.removeVfs, h, Bool.false_eq_true, if_false]

theorem execFlrVf_on {s : State} {n : Fin 16} (hn : n ≠ 0) (h : s.host.vfEnable = true) : exec (.flrVf n) s = .next (s.flr n) := by
  have hn' : n.val ≠ 0 := fun e => hn (Fin.ext e)
  exact congrArg Host.Outcome.next (if_neg (by simp [hn', h]))

theorem execFlrVf_off {s : State} (n : Fin 16) (h : s.host.vfEnable = false) : exec (.flrVf n) s = .next s :=
  congrArg Host.Outcome.next (if_pos (by simp [h]))

/-- Settles O22: one function's reset, and the removal of the virtual functions as a run of them. -/
theorem functionLevelResets : Obligations.FunctionLevelResets := by
  intro s gone kept
  refine ⟨fun n hn hvf => ?_, ?_, fun hvf => ?_, fun hvf => ⟨?_, fun n => execFlrVf_off n hvf⟩⟩
  · exact ⟨_, execFlrVf_on hn hvf, State.flr_gone s.hostOnly_refl n.isLt, s.flr_hostOnly n.isLt, (s.flr_vfEnable n).trans hvf,
      fun q rx hq ho => State.flr_other hq ho rx⟩
  · have h0 : s.fnGone 0 (s.flr 0) := State.flr_gone s.hostOnly_refl (by omega)
    have hk : s.hostOnly (s.flr 0) := s.flr_hostOnly (by omega)
    cases hvf : (s.flr 0).host.vfEnable with
    | true =>
      obtain ⟨u, hu, honly, hgone, hzero, -⟩ := State.removeVfs_on hk hvf
      refine ⟨_, congrArg Host.Outcome.next hu, hzero h0, fun _ n hn => ?_, honly, rfl⟩
      rcases Nat.eq_zero_or_pos n with rfl | hpos
      · exact hzero h0
      · exact hgone n hpos hn
    | false =>
      refine ⟨_, congrArg Host.Outcome.next (State.removeVfs_off hvf), h0, fun hs => ?_, hk, hvf⟩
      rw [State.flr_vfEnable, hs] at hvf
      cases hvf
  · obtain ⟨u, hu, honly, hgone, -, hown⟩ := State.removeVfs_on s.hostOnly_refl hvf
    refine ⟨_, congrArg Host.Outcome.next hu, hgone, honly, rfl, fun q rx hq ho => ?_⟩
    obtain ⟨hcfg, -, hrec⟩ := hown q rx hq ho
    exact ⟨hcfg, hrec⟩
  · exact congrArg Host.Outcome.next (State.removeVfs_off hvf)

/-! ### Queues -/

theorem bitOf_setBit_same (w : Word) (i : Nat) (b : Bool) (h : i < 32) : bitOf (setBit w i b) i = b := by
  rw [setBit, bitOf_setFld_same _ _ _ h]
  cases b <;> rfl

/-- A field above a bit that has been set. -/
theorem fld_setBit_above (w : Word) (i : Nat) (b : Bool) {lo n : Nat} (h : i < lo) (hi : i < 32) : fld (setBit w i b) lo n = fld w lo n :=
  fld_setFld_above _ _ _ _ _ _ (by omega) (by omega)

/-- The counts of an admitted access touch no register of a queue. -/
theorem State.admitted_rd_queue (s : State) (x : Access) {q : Nat} (hq : q < 64) (rx : Bool) {o : Nat} (ho : o < 0x20) :
    (s.admitted x).rd 0 (qA q rx + o) = s.rd 0 (qA q rx + o) := by
  have := (qA_page hq rx ho).2
  exact s.admitted_rd x (by simp only [List.mem_cons, List.not_mem_nil, or_false]; omega)

theorem State.admitted_queueKept (s : State) (x : Access) {q : Nat} (hq : q < 64) (rx : Bool) : s.queueKept (s.admitted x) q rx :=
  ⟨s.admitted_rd_queue x hq rx (by omega), congrArg (fld · 0 2) (s.admitted_rd_queue x hq rx (by omega)),
    State.qrec_congr (s.admitted_host x) q rx⟩

/-- A write of Q_CFG that keeps the fields from BIND on, in a disabled queue: whatever PAGE_LOCK says, the fields stay, and EN is set
where LOG2SIZE and STATE allow it. -/
theorem writeQCfg_disabled {c : State} {q : Nat} {rx : Bool} {d : Word} (hen : c.qEn q rx = false)
    (hd : ∀ lo n, 4 ≤ lo → lo + n ≤ 32 → fld d lo n = fld (c.qCfg q rx) lo n) :
    ∃ cfg, (∀ lo n, 4 ≤ lo → lo + n ≤ 32 → fld cfg lo n = fld (c.qCfg q rx) lo n) ∧ writeQCfg q rx d c =
      if bitOf d 0 = true ∧ c.qState q rx = 0 ∧ 4 ≤ fld cfg 4 4 ∧ fld cfg 4 4 ≤ 12 then
        ((c.wr 0 (qA q rx + 0x08) (setBit cfg 0 true)).wr 0 (qA q rx + 0x18) 1).setQrec q rx
          { QRec.idle with fetch := c.rdF 0 (qA q rx + 0x10) 0 12 }
      else c.wr 0 (qA q rx + 0x08) (setBit cfg 0 false) := by
  refine ⟨if c.pageLocked pHost then c.qCfg q rx else setBit (setFld d 1 3 0) 0 false, fun lo n h4 h32 => ?_, ?_⟩
  · split
    · rfl
    · rw [fld_setBit_above _ _ _ (by omega) (by omega), fld_setFld_above _ _ _ _ _ _ (by omega) (by omega), hd lo n h4 h32]
  · have hen' : bitOf (c.qCfg q rx) 0 = false := hen
    unfold writeQCfg
    simp only [hen', Bool.false_or, Bool.false_and, Bool.not_false, Bool.true_and, Bool.false_eq_true, if_false, Bool.and_eq_true,
      decide_eq_true_eq]

theorem writeQCfg_disable {c : State} {q : Nat} {rx : Bool} {d : Word} (hen : c.qEn q rx = true) (hd : bitOf d 0 = false) :
    writeQCfg q rx d c = (c.wr 0 (qA q rx + 0x08) (setBit (c.qCfg q rx) 0 false)).setQState q rx 3 := by
  have hen' : bitOf (c.qCfg q rx) 0 = true := hen
  simp only [writeQCfg, hen', hd, Bool.not_false, Bool.and_self, if_true]

/-- A queue after EN is written with the fields of a word and STATE with the bits of another. -/
theorem State.queue_written (c : State) (q : Nat) (rx : Bool) (v w : Word) :
    let z := (c.wr 0 (qA q rx + 0x08) v).wr 0 (qA q rx + 0x18) w
    z.qCfg q rx = v ∧ z.qState q rx = fld w 0 2 ∧ c.regsKept z [regKey 0 (qA q rx + 0x08), regKey 0 (qA q rx + 0x18)] := by
  refine ⟨?_, ?_, ?_⟩
  · exact (State.rd_wr_addr _ 0 (qA q rx + 0x18) _ (qA q rx + 0x08) (by omega)).trans (State.rd_wr_same _ _ _ _)
  · exact congrArg (fld · 0 2) (State.rd_wr_same _ _ _ _)
  · exact State.regsKept_wr (State.regsKept_wr (c.regsKept_refl _) _ (by simp)) _ (by simp)

/-- The part's own pause is of the Garpen bus page and its MAC. -/
theorem State.autoPause_cases (s : State) : s.autoPause = s ∨ ∃ v g, s.autoPause = { s.wr 0 (gA 0x044) v with gbus := g } := by
  unfold State.autoPause
  dsimp only
  split
  · exact .inl rfl
  · split
    · exact .inl rfl
    · split
      · exact .inr ⟨_, _, rfl⟩
      · split
        · exact .inr ⟨_, _, rfl⟩
        · exact .inl rfl

/-- Settles O18: each row is the write of Q_CFG or Q_TAIL that it names, in a queue that reads as the statement says. -/
theorem dmaQueues : Obligations.DmaQueues := by
  intro s t q rx a on no size
  have hq := q.isLt
  have above (b : Bool) (lo n : Nat) (h4 : 4 ≤ lo) (_ : lo + n ≤ 32) : fld (setBit (s.qCfg q rx) 0 b) lo n = fld (s.qCfg q rx) lo n :=
    fld_setBit_above _ _ _ (by omega) (by omega)
  refine ⟨fun ha hen hst h4 h12 => ?_, fun ha hen hsize => ?_, fun ha hen => ?_, fun tail ha => ?_, fun hst hfl => ?_, fun h => ?_⟩
  · refine State.completes_of_admitted ha rfl fun r => ?_
    obtain ⟨kcfg, kst, krec⟩ := s.admitted_queueKept (.w32 t a on) hq rx
    have ktbl := s.admitted_tbl (.w32 t a on)
    have kmem := s.admitted_memKept (.w32 t a on)
    have khead : (s.admitted (.w32 t a on)).rdF 0 (qA q rx + 0x10) 0 12 = s.rdF 0 (qA q rx + 0x10) 0 12 :=
      congrArg (fld · 0 12) (s.admitted_rd_queue (.w32 t a on) hq rx (by omega))
    generalize s.admitted (.w32 t a on) = c at *
    obtain ⟨cfg, hcfg, hw⟩ := writeQCfg_disabled (c := c) (q := q) (rx := rx) (d := on) (by rw [State.qEn, kcfg]; exact hen)
      (fun lo n h4 h32 => by rw [kcfg]; exact above true lo n h4 h32)
    have hsz : fld cfg 4 4 = size := (hcfg 4 4 (by omega) (by omega)).trans (congrArg (fld · 4 4) kcfg)
    rw [hw, if_pos ⟨bitOf_setBit_same _ _ _ (by omega), kst.trans hst, by rw [hsz]; exact h4, by rw [hsz]; exact h12⟩, khead]
    obtain ⟨zcfg, zst, zregs⟩ := c.queue_written q rx (setBit cfg 0 true) 1
    refine ⟨?_, zst, ?_, State.qrec_setQrec_same _ _ _ _, zregs, ktbl, kmem⟩
    · exact (congrArg (bitOf · 0) zcfg).trans (bitOf_setBit_same _ _ _ (by omega))
    · refine (congrArg (fld · 4 28) zcfg).trans ?_
      rw [fld_setBit_above _ _ _ (by omega) (by omega), hcfg 4 28 (by omega) (by omega), kcfg]
  · refine State.completes_of_admitted ha rfl fun r => ?_
    obtain ⟨kcfg, kst, -⟩ := s.admitted_queueKept (.w32 t a on) hq rx
    have ktbl := s.admitted_tbl (.w32 t a on)
    have kmem := s.admitted_memKept (.w32 t a on)
    generalize s.admitted (.w32 t a on) = c at *
    obtain ⟨cfg, hcfg, hw⟩ := writeQCfg_disabled (c := c) (q := q) (rx := rx) (d := on) (by rw [State.qEn, kcfg]; exact hen)
      (fun lo n h4 h32 => by rw [kcfg]; exact above true lo n h4 h32)
    have hsz : fld cfg 4 4 = size := (hcfg 4 4 (by omega) (by omega)).trans (congrArg (fld · 4 4) kcfg)
    rw [hw, if_neg (by rw [hsz]; omega)]
    refine ⟨?_, ?_, ktbl, kmem⟩
    · exact (congrArg (bitOf · 0) (State.rd_wr_same _ _ _ _)).trans (bitOf_setBit_same _ _ _ (by omega))
    · exact (congrArg (fld · 0 2) (State.rd_wr_addr _ 0 (qA q rx + 0x08) _ (qA q rx + 0x18) (by omega))).trans kst
  · refine State.completes_of_admitted ha rfl fun r => ?_
    obtain ⟨kcfg, kst, krec⟩ := s.admitted_queueKept (.w32 t a no) hq rx
    have ktbl := s.admitted_tbl (.w32 t a no)
    have kmem := s.admitted_memKept (.w32 t a no)
    generalize s.admitted (.w32 t a no) = c at *
    rw [writeQCfg_disable (by rw [State.qEn, kcfg]; exact hen) (bitOf_setBit_same _ _ _ (by omega)), kcfg]
    obtain ⟨zcfg, zst, zregs⟩ := c.queue_written q rx no
      (setFld ((c.wr 0 (qA q rx + 0x08) no).rd 0 (qA q rx + 0x18)) 0 2 3)
    refine ⟨?_, ?_, krec, ?_, zregs, ktbl, kmem⟩
    · exact (congrArg (bitOf · 0) zcfg).trans (bitOf_setBit_same _ _ _ (by omega))
    · exact zst.trans (fld_setFld_same _ _ _ _ (by omega))
    · exact (congrArg (fld · 1 31) zcfg).trans (fld_setBit_above _ _ _ (by omega) (by omega))
  · refine State.completes_of_admitted ha rfl fun r => ?_
    have ktbl := s.admitted_tbl (.w32 t (qA q rx + 0x0C) (wd tail.toNat))
    have kmem := s.admitted_memKept (.w32 t (qA q rx + 0x0C) (wd tail.toNat))
    have khost := s.admitted_host (.w32 t (qA q rx + 0x0C) (wd tail.toNat))
    generalize s.admitted (.w32 t (qA q rx + 0x0C) (wd tail.toNat)) = c at *
    have hw : writeQTail q rx (wd tail.toNat) c = c.wr 0 (qA q rx + 0x0C) (wd tail.toNat) := by
      have hd : fld (wd tail.toNat) 0 12 = tail.toNat := by
        have := tail.isLt
        simp only [fld, wd, BitVec.toNat_ofNat]
        omega
      rw [writeQTail, hd]
    rw [hw]
    have hwr := c.rd_wr_same 0 (qA q rx + 0x0C) (wd tail.toNat)
    have hpg : qA q rx + 0x0C ≠ gA 0x044 := by
      have := (qA_page hq rx (o := 0x0C) (by omega)).2
      unfold gA regA pGbus at *
      omega
    rcases (c.wr 0 (qA q rx + 0x0C) (wd tail.toNat)).autoPause_cases with h | ⟨v, g, h⟩
    · rw [h]
      exact ⟨hwr, congrArg HostSt.queues khost, ktbl, kmem⟩
    · rw [h]
      exact ⟨(State.rd_wr_addr _ 0 (gA 0x044) v _ hpg).trans hwr, congrArg HostSt.queues khost, ktbl, kmem⟩
  · exact ⟨_, congrArg Host.Outcome.next (if_pos ⟨hst, hfl⟩), State.rdF_wrF_same _ _ _ _ _ _ (by omega),
      State.regsKept_wrF _ _ _ _ _ _, rfl⟩
  · exact congrArg Host.Outcome.next (if_neg (by tauto))

/-! ### Descriptors -/

/-- A queue that has taken a fetched descriptor behind those in flight. -/
def State.fetched (s : State) (q : Nat) (rx : Bool) (d : BitVec 256) (hdr : BitVec 128) (play : Option PlayAt) (fin : Option Done) :
    State :=
  s.setQrec q rx { s.qrec q rx with
    nextTag := some (descWord d 3 + 1), fetch := ((s.qrec q rx).fetch + 1) % s.ringSize q rx
    flight := (s.qrec q rx).flight ++
      [⟨descWord d 3, (s.qrec q rx).nextTag.elim false (fun e => decide (descWord d 3 ≠ e)), d, hdr, false, play, fin⟩] }

/-- A running queue with room and with descriptors before Q_TAIL takes the fetched one. -/
theorem State.fetchDesc_taken {s : State} {q : Nat} {rx : Bool} (hp : s.host.perstN = true) (hst : s.qState q rx = 1)
    (hroom : (s.qrec q rx).flight.length < 512)
    (htail : (s.qrec q rx).fetch % s.ringSize q rx ≠ s.rdF 0 (qA q rx + 0x0C) 0 12 % s.ringSize q rx) (d : BitVec 256)
    (hdr : BitVec 128) (play : Option PlayAt) (fin : Option Done) :
    s.fetchDesc q rx d hdr play fin = s.fetched q rx d hdr play fin := by
  unfold State.fetchDesc State.fetched
  rw [if_pos ⟨hp, hst, hroom, htail⟩]
  cases (s.qrec q rx).nextTag <;> rfl

/-- The fetch of a descriptor, whose endpoint within the part may be done with it at once; then a
transmit queue gives its port what it can. -/
theorem execDescriptorFetch_eq (q : Fin 64) (rx : Bool) (d : BitVec 256) (hdr : BitVec 128) (s : State) : ∃ play fin,
    exec (.descriptorFetch q rx d hdr) s =
      .next (if rx then s.fetchDesc q rx d hdr play fin else (s.fetchDesc q rx d hdr play fin).giveQueue q) := ⟨_, _, rfl⟩

/-- Only a transmit queue of BIND 1 has chains for a port. -/
theorem State.giveQueue_idle {s : State} {q : Nat} (h : s.qBind q false ≠ 1) : s.giveQueue q = s := by
  rw [State.giveQueue, if_neg fun h' => h h'.1]

/-- What a completion counts: the queue's record but for the counter of completions, then perhaps an occurrence of its cause. -/
theorem State.countCompletion_cases (s : State) (q : Nat) (rx : Bool) : ∃ n,
    let u := s.setQrec q rx { s.qrec q rx with since := n }
    s.countCompletion q rx = u ∨ s.countCompletion q rx = u.cause (s.partOwner 7 q) (if rx then 64 + q else q) := by
  unfold State.countCompletion
  dsimp only
  split
  · exact ⟨0, .inr rfl⟩
  · exact ⟨_, .inl rfl⟩

/-- Messages join what has left the part, and no register, no byte of memory and no queue changes. -/
structure State.Notified (s z : State) : Prop where
  regs : z.regs = s.regs
  mem : s.memKept z
  queues : z.host.queues = s.host.queues
  out : ∃ more, z.out = s.out ++ more

theorem State.cause_notified (s : State) (p k : Nat) : s.Notified (s.cause p k) := by
  refine ⟨s.cause_regs p k, s.cause_memKept p k, congrArg HostSt.queues (s.cause_host p k), ?_⟩
  rcases s.cause_cases p k with h | ⟨-, h | h⟩ <;> rw [h]
  · exact ⟨_, rfl⟩
  · exact ⟨[], (List.append_nil _).symm⟩
  · exact ⟨[], (List.append_nil _).symm⟩

theorem State.countCompletion_notified (s : State) (q : Nat) (rx : Bool) : ∃ n,
    (s.setQrec q rx { s.qrec q rx with since := n }).Notified (s.countCompletion q rx) := by
  obtain ⟨n, h | h⟩ := s.countCompletion_cases q rx
  · refine ⟨n, ?_⟩
    rw [h]
    exact ⟨rfl, fun _ => rfl, rfl, [], (List.append_nil _).symm⟩
  · refine ⟨n, ?_⟩
    rw [h]
    exact State.cause_notified _ _ _

theorem writeBackWords_length (bind tb : Nat) (rx : Bool) (f : Flight) (status : Nat) (r : WriteBack) :
    (writeBackWords bind tb rx f status r).length = 8 := rfl

theorem writeBackWords_tag (bind tb : Nat) (rx : Bool) (f : Flight) (status : Nat) (r : WriteBack) :
    (writeBackWords bind tb rx f status r).getD 3 0 = f.tag := rfl

/-- A queue whose oldest descriptor has been written back: it is no more in flight, Q_HEAD is past it, and Q_DONE_TAG holds its TAG. -/
def State.writtenBack (s : State) (q : Nat) (rx : Bool) (f : Flight) (rest : List Flight) (ws : List Word) : State :=
  (((s.emit (.writeBack q rx (s.ringAddr q rx (s.rdF 0 (qA q rx + 0x10) 0 12)) ws)).setQrec q rx { s.qrec q rx with flight := rest }).wr 0
    (qA q rx + 0x10) (wd ((s.rdF 0 (qA q rx + 0x10) 0 12 + 1) % s.ringSize q rx))).wr 0 (qA q rx + 0x14) f.tag

/-- The completion of the oldest descriptor of a running queue, once its endpoint is done with it. -/
theorem execDescriptorComplete_done {s : State} {q : Fin 64} {rx : Bool} {f : Flight} {rest : List Flight} (r : WriteBack)
    (hp : s.host.perstN = true) (hst : s.qState q rx = 1) (hf : (s.qrec q rx).flight = f :: rest)
    (hw : within (s.qBind q rx) rx = false ∨ f.fin.isSome = true ∨ f.bad = true) :
    let st := completionStatus false f r
    let u := (s.writtenBack q rx f rest
      (writeBackWords (s.qBind q rx) (fld (s.qCfg q rx) 13 3) rx f st (reported f r))).countCompletion q rx
    exec (.descriptorComplete q rx r) s = .next (if st = 4 ∨ st = 5 then
      ((u.setQState q rx 2).wrF 0 (qA q rx + 0x18) 4 8 st).cause (s.partOwner 7 q) (128 + q) else u) := by
  have hwaits : (within (s.qBind q rx) rx && f.fin.isNone && !f.bad && s.qState q rx == 1) = false := by
    rcases hw with h | h | h
    · simp [h]
    · obtain ⟨d, h⟩ := Option.isSome_iff_exists.mp h
      simp [h]
    · simp [h]
  have hgo : (s.host.perstN && !(within (s.qBind q rx) rx && f.fin.isNone && !f.bad && s.qState q rx == 1) &&
      (s.qState q rx == 1 || s.qState q rx == 3)) = true := by rw [hp, hwaits, hst]; rfl
  have hdrain : (s.qState q rx == 3) = false := by rw [hst]; rfl
  refine congrArg Host.Outcome.next ?_
  simp only [hf]
  rw [if_pos hgo, hdrain]
  rfl

theorem State.rd_of_regs {s u : State} (h : u.regs = s.regs) (b a : Nat) : u.rd b a = s.rd b a := by
  simp only [State.rd, h]

theorem fld_wd_low (x n : Nat) (h : n ≤ 32) : fld (wd x) 0 n = x % 2 ^ n := by
  rw [fld, wd, BitVec.toNat_ofNat, pow_zero, Nat.div_one, Nat.mod_mod_of_dvd _ (pow_dvd_pow 2 h)]

/-- The registers that a completed descriptor writes. -/
theorem State.writtenBack_regs (s : State) (q : Nat) (rx : Bool) (f : Flight) (rest : List Flight) (ws : List Word) :
    let w := s.writtenBack q rx f rest ws
    w.rdF 0 (qA q rx + 0x10) 0 12 = (s.rdF 0 (qA q rx + 0x10) 0 12 + 1) % s.ringSize q rx % 4096 ∧
    w.rd 0 (qA q rx + 0x14) = f.tag ∧ s.regsKept w [regKey 0 (qA q rx + 0x10), regKey 0 (qA q rx + 0x14)] := by
  refine ⟨?_, State.rd_wr_same _ _ _ _, State.regsKept_wr (State.regsKept_wr (s.regsKept_refl _) _ (by simp)) _ (by simp)⟩
  refine (congrArg (fld · 0 12) (State.rd_wr_addr _ 0 (qA q rx + 0x14) _ (qA q rx + 0x10) (by omega))).trans ?_
  rw [State.rd_wr_same]
  exact fld_wd_low _ 12 (by omega)

/-- A broken TAG sequence halts the queue with status SEQ (R69). -/
theorem completionStatus_bad {f : Flight} (r : WriteBack) (h : f.bad = true) : completionStatus false f r = 4 := by
  simp [completionStatus, h]

/-- A halt leaves every register but Q_STATUS, where STATE reads halted and ERRCODE the status. -/
theorem State.halted_regs (u : State) (q : Nat) (rx : Bool) (st : Nat) :
    let x := (u.setQState q rx 2).wrF 0 (qA q rx + 0x18) 4 8 st
    x.qState q rx = 2 ∧ x.rdF 0 (qA q rx + 0x18) 4 8 = st % 256 ∧ u.regsKept x [regKey 0 (qA q rx + 0x18)] :=
  ⟨(State.rdF_wrF_field _ _ _ _ _ _ _ _ (by omega) (by omega)).trans (State.rdF_wrF_same _ _ _ _ _ _ (by omega)),
    State.rdF_wrF_same _ _ _ _ _ _ (by omega), State.regsKept_wr (State.regsKept_wr (u.regsKept_refl _) _ (by simp)) _ (by simp)⟩

theorem State.qrec_of_queues {s u : State} (h : u.host.queues = s.host.queues) (q : Nat) (rx : Bool) : u.qrec q rx = s.qrec q rx := by
  simp only [State.qrec, h]

/-- What the completion of the oldest descriptor leaves: the write-back, then perhaps a halt of the queue. -/
theorem State.completed_state (s : State) (q : Nat) (rx : Bool) (f : Flight) (rest : List Flight) (ws : List Word) (st k : Nat) :
    let u := (s.writtenBack q rx f rest ws).countCompletion q rx
    let x := (u.setQState q rx 2).wrF 0 (qA q rx + 0x18) 4 8 st
    let z := if st = 4 ∨ st = 5 then x.cause (s.partOwner 7 q) k else u
    z.host.queues = u.host.queues ∧ u.regsKept z [regKey 0 (qA q rx + 0x18)] ∧ u.memKept z ∧ (∃ more, z.out = u.out ++ more) ∧
    (st = 4 → z.qState q rx = 2 ∧ z.rdF 0 (qA q rx + 0x18) 4 8 = 4) := by
  intro u x z
  by_cases h : st = 4 ∨ st = 5
  · obtain ⟨zregs, zmem, zqueues, zout⟩ := x.cause_notified (s.partOwner 7 q) k
    obtain ⟨xstate, xcode, xregs⟩ := u.halted_regs q rx st
    rw [show z = x.cause (s.partOwner 7 q) k from if_pos h]
    refine ⟨zqueues, fun key hk => (congrArg (Tab.get regReset · key) zregs).trans (xregs key hk), zmem, zout, ?_⟩
    rintro rfl
    exact ⟨(congrArg (fld · 0 2) (State.rd_of_regs zregs _ _)).trans xstate,
      (congrArg (fld · 4 8) (State.rd_of_regs zregs _ _)).trans xcode⟩
  · rw [show z = u from if_neg h]
    exact ⟨rfl, u.regsKept_refl _, fun _ => rfl, ⟨[], (List.append_nil _).symm⟩, fun h4 => absurd (.inl h4) h⟩

/-- Settles O19: the fetched descriptor is the last of those in flight, the completed one was the first. -/
theorem descriptorsInRingOrder : Obligations.DescriptorsInRingOrder := by
  intro s q rx hp hst
  refine ⟨fun d hdr hroom htail => ?_, fun r f rest hf hw => ?_⟩
  · obtain ⟨play, fin, hexec⟩ := execDescriptorFetch_eq q rx d hdr s
    have hq : (s.fetched q rx d hdr play fin).qrec q rx = _ := State.qrec_setQrec_same _ _ _ _
    rw [State.fetchDesc_taken hp hst hroom htail] at hexec
    refine ⟨_, hexec, s.fetched q rx d hdr play fin, ⟨play, fin, ?_⟩, by rw [hq], by rw [hq],
      fun q' rx' _ h => State.qrec_setQrec_other _ _ h, rfl, ?_⟩
    · rw [hq]
      cases (s.qrec q rx).nextTag <;> rfl
    · cases rx with
      | true => rfl
      | false =>
        by_cases hb : s.qBind q false = 1
        · simp [hb]
        · simpa [hb] using (State.giveQueue_idle (s := s.fetched q false d hdr play fin) hb)
  · refine ⟨_, execDescriptorComplete_done r hp hst hf hw, ?_⟩
    generalize hws : writeBackWords (s.qBind q rx) (fld (s.qCfg q rx) 13 3) rx f (completionStatus false f r) (reported f r) = ws
    obtain ⟨n, uregs, umem, uqueues, first, uout⟩ := (s.writtenBack q rx f rest ws).countCompletion_notified q rx
    obtain ⟨whead, wtag, wregs⟩ := s.writtenBack_regs q rx f rest ws
    obtain ⟨zqueues, zregs, zmem, ⟨more, zout⟩, zhalt⟩ :=
      s.completed_state q rx f rest ws (completionStatus false f r) (128 + q)
    have hrd {o : Nat} (ho : o < 0x18) := (zregs (regKey 0 (qA q rx + o)) (by simp [regKey]; omega)).trans
      (congrArg (Tab.get regReset · (regKey 0 (qA q rx + o))) uregs)
    have hrec := (State.qrec_of_queues (zqueues.trans uqueues) q rx).trans (State.qrec_setQrec_same _ _ _ _)
    have wrec : (s.writtenBack q rx f rest ws).qrec q rx = { s.qrec q rx with flight := rest } := State.qrec_setQrec_same _ _ _ _
    refine ⟨?_, ?_, (congrArg (fld · 0 12) (hrd (by omega))).trans whead, (hrd (by omega)).trans wtag,
      ⟨ws, first ++ more, ?_, ?_, ?_⟩,
      fun hbad => zhalt (completionStatus_bad r hbad), fun key hk => ?_, fun a => (zmem a).trans (umem a)⟩
    · rw [hrec, wrec]
    · rw [hrec, wrec]
    · rw [zout, uout, List.append_assoc]
      rfl
    · rw [← hws, writeBackWords_tag]
    · rw [← hws, writeBackWords_length]
    · simp only [List.mem_cons, List.not_mem_nil, or_false, not_or] at hk
      exact (zregs key (by simp [hk])).trans ((congrArg (Tab.get regReset · key) uregs).trans (wregs key (by simp [hk])))

end Sys2Proof.Machine
end

section
/-!
PROOFS. Scope: the page templates. The table window, the result block, and the requests that host software makes through registers.
-/
namespace Sys2Proof.Machine

/-! ### Words at consecutive registers -/

/-- Writing words at registers changes registers alone. -/
theorem State.wrWords_frame (s : State) (b a : Nat) (l : List Word) : { s.wrWords b a l with regs := s.regs } = s := by
  induction l generalizing s a with
  | nil => rfl
  | cons v r ih =>
    have h := congrArg (fun u : State => { u with regs := s.regs }) (ih (s.wr b a v) (a + 4))
    exact h

/-- The registers before and behind the written ones. -/
theorem State.rd_wrWords_outside (s : State) (b a : Nat) (l : List Word) {a' : Nat} (h : a' < a ∨ a + 4 * l.length ≤ a') :
    (s.wrWords b a l).rd b a' = s.rd b a' := by
  induction l generalizing s a with
  | nil => rfl
  | cons v r ih =>
    rw [List.length_cons] at h
    exact (ih (s.wr b a v) (a + 4) (by omega)).trans (State.rd_wr_addr _ _ _ _ _ (by omega))

theorem State.rd_wrWords_inside (s : State) (b a : Nat) (l : List Word) {j : Nat} (h : j < l.length) :
    (s.wrWords b a l).rd b (a + 4 * j) = l[j] := by
  induction l generalizing s a j with
  | nil => exact absurd h (Nat.not_lt_zero _)
  | cons v r ih =>
    cases j with
    | zero => exact (State.rd_wrWords_outside (s.wr b a v) b (a + 4) r (by omega)).trans (State.rd_wr_same _ _ _ _)
    | succ j =>
      rw [show a + 4 * (j + 1) = a + 4 + 4 * j by omega]
      exact ih (s.wr b a v) (a + 4) (by simpa using h)

/-! ### The table window -/

/-- The counts of an admitted access touch no register of a window or a result block. -/
theorem State.admitted_rd_off (s : State) (x : Access) {b pg o : Nat} (h : o < 65536) (h' : o ∉ [0x020, 0x040, 0x050, 0x054]) :
    (s.admitted x).rd b (regA pg o) = s.rd b (regA pg o) :=
  s.admitted_rd x (by rwa [regA_off pg o h])

/-- Bits 1 and 2 of a word, in place. -/
theorem word_and_six (w : Word) : w &&& 6 = wd (2 * fld w 1 2) := by
  refine BitVec.eq_of_toNat_eq ?_
  have h : w.toNat &&& 6 = 2 * (w.toNat / 2 % 4) := by
    have e : 2 * (w.toNat / 2 % 4) = ((w.toNat >>> 1) % 2 ^ 2) <<< 1 := by
      rw [Nat.shiftLeft_eq, Nat.shiftRight_eq_div_pow]
      omega
    have six : (6 : Nat) = (2 ^ 2 - 1) <<< 1 := rfl
    refine Nat.eq_of_testBit_eq fun i => ?_
    rw [e, six, Nat.testBit_and, Nat.testBit_shiftLeft, Nat.testBit_shiftLeft, Nat.testBit_mod_two_pow, Nat.testBit_two_pow_sub_one,
      Nat.testBit_shiftRight]
    by_cases hi : 1 ≤ i
    · rw [show 1 + (i - 1) = i by omega]
      cases w.toNat.testBit i <;> simp [hi]
    · simp [hi]
  have lt := fld_lt w 1 2
  rw [BitVec.toNat_and, wd, BitVec.toNat_ofNat, Nat.mod_eq_of_lt (by omega)]
  exact h

theorem refselTableRead_state (sel idx : Nat) (s : State) : ∃ n, (refselTableRead sel idx s).2 = { s with free := n } := by
  unfold refselTableRead
  split
  · split <;> exact ⟨s.free, rfl⟩
  · split <;> exact ⟨s.free, rfl⟩
  · split <;> exact ⟨s.free, rfl⟩
  · split
    · exact ⟨s.free, rfl⟩
    · exact ⟨s.free + 2, rfl⟩
  · exact ⟨s.free, rfl⟩

theorem sensTableRead_state (sel idx : Nat) (s : State) : ∃ n, (sensTableRead sel idx s).2 = { s with free := n } := by
  unfold sensTableRead
  by_cases h : sel ≠ 1
  · exact ⟨s.free, by rw [if_pos h]⟩
  · by_cases h' : 192 ≤ idx
    · exact ⟨s.free, by rw [if_neg h, if_pos h']⟩
    · exact ⟨s.free + 4, by rw [if_neg h, if_neg h']; rfl⟩

/-- The read of a table entry draws free values at most. -/
theorem tableReadAt_state (t : Tag) (pg sel idx : Nat) (s : State) : ∃ n, (tableReadAt t pg sel idx s).2 = { s with free := n } := by
  unfold tableReadAt
  split
  · exact ⟨s.free, rfl⟩
  · split
    case h_7 => exact refselTableRead_state sel idx s
    case h_14 => exact sensTableRead_state sel idx s
    all_goals exact ⟨s.free, rfl⟩

/-- An entry's words in TBL_DATA. -/
theorem rd_tblData (u : State) (b pg : Nat) (ws : List Word) {j : Nat} (h : j < 16) :
    (u.wrWords b (regA pg 0x1010) ((List.range 16).map fun i => dat ws i)).rd b (regA pg (0x1010 + 4 * j)) = dat ws j := by
  rw [show regA pg (0x1010 + 4 * j) = regA pg 0x1010 + 4 * j by unfold regA; omega, State.rd_wrWords_inside _ _ _ _ (by simpa using h)]
  simp

/-- The operation of a GO with WRITE = 0: the entry's words in TBL_DATA unless it is refused. -/
theorem State.tableOp_read {s : State} {t : Tag} {pg b : Nat} {r : (Nat × List Word) × State} (hb : b = winBank t pg)
    (h : bitOf (s.rd b (regA pg 0x1008)) 1 = false)
    (hr : r = tableReadAt t pg (s.rdF b (regA pg 0x1000) 0 16) (s.rdF b (regA pg 0x1004) 0 24) s) :
    let y := s.tableOp t pg
    y.1 = r.1.1 ∧ (∀ a, a < regA pg 0x1010 → y.2.rd b a = s.rd b a) ∧
    (∀ j, j < 16 → y.2.rd b (regA pg (0x1010 + 4 * j)) = if r.1.1 = 0 then dat r.1.2 j else s.rd b (regA pg (0x1010 + 4 * j))) ∧
    y.2.bus = s.bus ∧ y.2.tbl = s.tbl ∧ s.memKept y.2 := by
  intro y
  obtain ⟨n, hn⟩ := tableReadAt_state t pg (s.rdF b (regA pg 0x1000) 0 16) (s.rdF b (regA pg 0x1004) 0 24) s
  rw [← hr] at hn
  have e : y = if r.1.1 ≠ 0 then (r.1.1, r.2) else
      (0, r.2.wrWords b (regA pg 0x1010) ((List.range 16).map fun i => dat r.1.2 i)) := by
    subst hb hr
    simp only [y, State.tableOp, h, Bool.false_eq_true, if_false]
  clear_value y
  by_cases h0 : r.1.1 = 0
  · rw [if_neg (not_not_intro h0)] at e
    have frame := r.2.wrWords_frame b (regA pg 0x1010) ((List.range 16).map fun i => dat r.1.2 i)
    have bus := congrArg State.bus frame
    have tbl := congrArg State.tbl frame
    have mem := fun a => congrArg (State.memByte · a) frame
    rw [e, h0]
    refine ⟨rfl, fun a ha => ?_, fun j hj => ?_, bus.trans (by rw [hn]), tbl.trans (by rw [hn]),
      fun a => (mem a).trans (by rw [hn]; rfl)⟩
    · rw [State.rd_wrWords_outside _ _ _ _ (.inl ha), hn]
      rfl
    · exact (rd_tblData _ _ _ _ hj).trans (if_pos rfl).symm
  · rw [if_pos h0, hn] at e
    rw [e]
    exact ⟨rfl, fun _ _ => rfl, fun j _ => (if_neg h0).symm, rfl, rfl, fun _ => rfl⟩

/-- The operation of a GO with WRITE = 1: the 16 words of TBL_DATA are written to the entry. -/
theorem State.tableOp_write {s : State} {t : Tag} {pg : Nat} (h : bitOf (s.rd (winBank t pg) (regA pg 0x1008)) 1 = true) :
    s.tableOp t pg = tableWriteAt t pg (s.rdF (winBank t pg) (regA pg 0x1000) 0 16) (s.rdF (winBank t pg) (regA pg 0x1004) 0 24)
      ((List.range 16).map fun j => s.rd (winBank t pg) (regA pg (0x1010 + 4 * j))) s := by
  simp only [State.tableOp, h, if_true]

/-- A page's window with WRITE and AINC taken and TBL_TAG counted, before the operation. -/
def State.tblStarted (c : State) (b pg v : Nat) : State :=
  let g := c.wrF b (regA pg 0x1008) 1 2 v
  (g.wr b (regA pg 0x1008) (g.rd b (regA pg 0x1008) &&& 6)).inc b (regA pg 0x100C)

/-- TBL_CTRL then holds WRITE and AINC as written, and nothing else. -/
theorem State.tblStarted_ctrl (c : State) (b pg v : Nat) : (c.tblStarted b pg v).rd b (regA pg 0x1008) = wd (2 * (v % 4)) := by
  refine (State.rd_wr_addr _ _ _ _ _ (by unfold regA; omega)).trans ?_
  rw [State.rd_wr_same, word_and_six]
  exact congrArg (fun n => wd (2 * n)) (State.rdF_wrF_same c b _ 1 2 v (by omega))

theorem State.tblStarted_rd (c : State) (b pg v : Nat) {o : Nat} (h : o ≠ 0x1008) (h' : o ≠ 0x100C) :
    (c.tblStarted b pg v).rd b (regA pg o) = c.rd b (regA pg o) := by
  have ne {o' : Nat} (h : o ≠ o') : regA pg o ≠ regA pg o' := by unfold regA; omega
  exact (State.rd_wr_addr _ _ _ _ _ (ne h')).trans ((State.rd_wr_addr _ _ _ _ _ (ne h)).trans (State.rd_wr_addr _ _ _ _ _ (ne h)))

theorem State.tblStarted_tag (c : State) (b pg v : Nat) :
    (c.tblStarted b pg v).rd b (regA pg 0x100C) = c.rd b (regA pg 0x100C) + 1 := by
  have ne : regA pg 0x100C ≠ regA pg 0x1008 := by unfold regA; omega
  refine (State.rd_wr_same _ _ _ _).trans (congrArg (· + 1) ?_)
  exact (State.rd_wr_addr _ _ _ _ _ ne).trans (State.rd_wr_addr _ _ _ _ _ ne)

/-- A write of TBL_CTRL with GO. -/
theorem writeTblCtrl_go {d : Word} (h : bitOf d 0 = true) (t : Tag) (pg : Nat) (s : State) :
    let r := (s.tblStarted (winBank t pg) pg (fld d 1 2)).tableOp t pg
    writeTblCtrl t pg d s = { r.2 with bus := { r.2.bus with ops := r.2.bus.ops ++ [⟨pg, winBank t pg, r.1⟩] } } := by
  unfold writeTblCtrl
  rw [if_pos h]
  rfl

/-- What a read of a table leaves, of the window from before it. -/
theorem writeTblCtrl_read {d : Word} (h : bitOf d 0 = true) (hw : fld d 1 2 % 2 = 0) (t : Tag) (pg : Nat) (c : State) :
    let b := winBank t pg
    let r := tableReadAt t pg (c.rdF b (regA pg 0x1000) 0 16) (c.rdF b (regA pg 0x1004) 0 24) (c.tblStarted b pg (fld d 1 2))
    let z := writeTblCtrl t pg d c
    z.rd b (regA pg 0x1008) = wd (2 * fld d 1 2) ∧ z.rd b (regA pg 0x100C) = c.rd b (regA pg 0x100C) + 1 ∧
    z.bus.ops = c.bus.ops ++ [⟨pg, b, r.1.1⟩] ∧
    (∀ j, j < 16 → z.rd b (regA pg (0x1010 + 4 * j)) = if r.1.1 = 0 then dat r.1.2 j else c.rd b (regA pg (0x1010 + 4 * j))) ∧
    z.tbl = c.tbl ∧ c.memKept z := by
  intro b r z
  have lt : fld d 1 2 < 4 := fld_lt d 1 2
  have hr : r = tableReadAt t pg ((c.tblStarted b pg (fld d 1 2)).rdF b (regA pg 0x1000) 0 16)
      ((c.tblStarted b pg (fld d 1 2)).rdF b (regA pg 0x1004) 0 24) (c.tblStarted b pg (fld d 1 2)) := by
    rw [State.rdF, State.rdF, State.tblStarted_rd _ _ _ _ (by omega) (by omega), State.tblStarted_rd _ _ _ _ (by omega) (by omega)]
    rfl
  have hbit : bitOf ((c.tblStarted b pg (fld d 1 2)).rd b (regA pg 0x1008)) 1 = false := by
    rw [State.tblStarted_ctrl, bitOf_wd _ (by omega), decide_eq_false_iff_not]
    omega
  obtain ⟨hcode, below, data, bus, tbl, mem⟩ := State.tableOp_read rfl hbit hr
  have hz : z = _ := writeTblCtrl_go h t pg c
  clear_value r z
  subst hz
  refine ⟨(below _ (by unfold regA; omega)).trans ?_, (below _ (by unfold regA; omega)).trans (c.tblStarted_tag _ _ _), ?_,
    fun j hj => (data j hj).trans ?_, tbl, mem⟩
  · rw [State.tblStarted_ctrl, Nat.mod_eq_of_lt lt]
  · dsimp only
    rw [bus, hcode]
    rfl
  · rw [State.tblStarted_rd _ _ _ _ (by omega) (by omega)]

/-- TBL_CTRL of a finished operation with this error code. -/
def tblDone (w : Word) (e : Nat) : Word := setFld (setBit (setBit w 8 true) 9 (decide (e ≠ 0))) 12 4 e

/-- DONE, ERR and ECODE, and the command as it was. -/
theorem tblDone_fields (w : Word) (e : Nat) :
    fld (tblDone w e) 8 1 = 1 ∧ fld (tblDone w e) 9 1 = (if e = 0 then 0 else 1) ∧ fld (tblDone w e) 12 4 = e % 16 ∧
    ∀ lo n, lo + n ≤ 8 → fld (tblDone w e) lo n = fld w lo n := by
  have low {lo n : Nat} (h : lo + n ≤ 12) : fld (tblDone w e) lo n = fld (setBit (setBit w 8 true) 9 (decide (e ≠ 0))) lo n :=
    fld_setFld_below _ _ _ _ _ _ (by omega) h
  refine ⟨?_, ?_, fld_setFld_same _ _ _ _ (by omega), fun lo n h => ?_⟩
  · rw [low (by omega), setBit, fld_setFld_below _ _ _ _ _ _ (by omega) (by omega), setBit, fld_setFld_same _ _ _ _ (by omega)]
    rfl
  · rw [low (by omega), setBit, fld_setFld_same _ _ _ _ (by omega)]
    by_cases h : e = 0 <;> simp [h]
  · rw [low (by omega), setBit, fld_setFld_below _ _ _ _ _ _ (by omega) (by omega), setBit,
      fld_setFld_below _ _ _ _ _ _ (by omega) (by omega)]

/-- The end of an operation: the report in TBL_CTRL, and TBL_INDEX one higher where AINC asks for it. -/
theorem execTableOpDone_some {s : State} {pg : PageNo} {bank : Fin 16} {o : TblOp}
    (h : (s.bus.ops.find? fun o => o.page == pg.val && o.bank == bank.val) = some o) :
    let u := { s with bus := { s.bus with ops := s.bus.ops.erase o } }.wr bank (regA pg 0x1008)
      (tblDone (s.rd bank (regA pg 0x1008)) o.ecode)
    exec (.tableOpDone pg bank) s = .next (if s.rdF bank (regA pg 0x1008) 2 1 = 1 ∧ o.ecode = 0 then
      u.wr bank (regA pg 0x1004) (wd ((s.rdF bank (regA pg 0x1004) 0 24 + 1) % 2 ^ 24)) else u) := by
  intro u
  have hidx : u.rdF bank (regA pg 0x1004) 0 24 = s.rdF bank (regA pg 0x1004) 0 24 :=
    congrArg (fld · 0 24) (State.rd_wr_addr _ _ _ _ _ (by unfold regA; omega))
  have hainc : bitOf (tblDone (s.rd bank (regA pg 0x1008)) o.ecode) 2 = decide (s.rdF bank (regA pg 0x1008) 2 1 = 1) := by
    rw [bitOf_eq_fld, (tblDone_fields _ _).2.2.2 2 1 (by omega)]
    rfl
  have hcond : (bitOf (tblDone (s.rd bank (regA pg 0x1008)) o.ecode) 2 && o.ecode == 0) =
      decide (s.rdF bank (regA pg 0x1008) 2 1 = 1 ∧ o.ecode = 0) := by
    rw [hainc, Bool.decide_and]
    rfl
  refine congrArg Host.Outcome.next ?_
  rw [h, ← hidx]
  exact if_congr (by rw [← decide_eq_true_iff (p := _ ∧ _), ← hcond]; rfl) rfl rfl

/-- Settles O14: GO takes WRITE and AINC, counts TBL_TAG and runs the operation; TABLE_OP_DONE reports it. -/
theorem tableWindow : Obligations.TableWindow := by
  refine ⟨fun s t pg ainc k i hp hk => ?_, fun s t pg ainc k i hp hk => ?_, fun s pg bank => ?_⟩
  · intro b x c ha
    have hc : c = s.admitted x := rfl
    clear_value c
    have hgo : bitOf (wd (if ainc then 5 else 1)) 0 = true := by cases ainc <;> rfl
    have hcmd : fld (wd (if ainc then 5 else 1)) 1 2 = if ainc then 2 else 0 := by cases ainc <;> rfl
    obtain ⟨zctrl, ztag, zops, zdata, ztbl, zmem⟩ := writeTblCtrl_read hgo (by rw [hcmd]; cases ainc <;> rfl) t pg c
    rw [hcmd] at zctrl zops zdata
    have kept {o : Nat} (h : o < 65536) (h' : o ∉ [0x020, 0x040, 0x050, 0x054]) : c.rd b (regA pg o) = s.rd b (regA pg o) := by
      rw [hc]
      exact s.admitted_rd_off x h h'
    have hsel : c.rdF (winBank t pg) (regA pg 0x1000) 0 16 = s.rdF b (regA pg 0x1000) 0 16 :=
      congrArg (fld · 0 16) (kept (by omega) (by decide))
    have hidx : c.rdF (winBank t pg) (regA pg 0x1004) 0 24 = s.rdF b (regA pg 0x1004) 0 24 :=
      congrArg (fld · 0 24) (kept (by omega) (by decide))
    have hops : c.bus.ops = s.bus.ops := by rw [hc, s.admitted_ops x]
    have htbl : c.tbl = s.tbl := by rw [hc, s.admitted_tbl x]
    have hmem : s.memKept c := by rw [hc]; exact s.admitted_memKept x
    rw [hsel, hidx] at zops zdata
    refine State.completes_of_admitted ha rfl fun resp => ?_
    rw [← hc]
    refine ⟨zctrl.trans (by cases ainc <;> rfl), ztag.trans (congrArg (· + 1) (kept (by omega) (by decide))),
      zops.trans (congrArg (· ++ _) hops),
      fun j hj => (zdata j hj).trans ?_, ztbl.trans htbl, fun a => (zmem a).trans (hmem a)⟩
    rw [kept (by omega) (by simp; omega)]
    rfl
  · intro b x g r ha
    have hgo : bitOf (wd (if ainc then 7 else 3)) 0 = true := by cases ainc <;> rfl
    have hcmd : fld (wd (if ainc then 7 else 3)) 1 2 = if ainc then 3 else 1 := by cases ainc <;> rfl
    refine congrArg Host.Outcome.next ((busWrite_admitted x _ s ha).trans ?_)
    have kept {o : Nat} (h : o < 65536) (h' : o ∉ [0x020, 0x040, 0x050, 0x054]) (hc : o ≠ 0x1008) (hg : o ≠ 0x100C) :
        ((s.admitted x).tblStarted b pg (if ainc then 3 else 1)).rd b (regA pg o) = s.rd b (regA pg o) :=
      (State.tblStarted_rd _ _ _ _ hc hg).trans (s.admitted_rd_off x h h')
    have hbit : bitOf (((s.admitted x).tblStarted b pg (if ainc then 3 else 1)).rd b (regA pg 0x1008)) 1 = true := by
      rw [State.tblStarted_ctrl]
      cases ainc <;> rfl
    have hdata : ((List.range 16).map fun j => ((s.admitted x).tblStarted b pg (if ainc then 3 else 1)).rd b (regA pg (0x1010 + 4 * j))) =
        (List.range 16).map fun j => s.rd b (regA pg (0x1010 + 4 * j)) :=
      List.map_congr_left fun j hj => by
        rw [List.mem_range] at hj
        exact kept (by omega) (by simp; omega) (by omega) (by omega)
    have hop := State.tableOp_write hbit
    rw [hdata, State.rdF, State.rdF, kept (by omega) (by decide) (by omega) (by omega), kept (by omega) (by decide) (by omega) (by omega)]
      at hop
    rw [writeTblCtrl_go hgo, hcmd, hop]
    rfl
  · cases hf : s.bus.ops.find? fun o => o.page == pg.val && o.bank == bank.val with
    | none => exact ⟨s, congrArg Host.Outcome.next (by rw [hf]), rfl⟩
    | some o =>
      refine ⟨_, execTableOpDone_some hf, ?_⟩
      obtain ⟨hdone, herr, hecode, hcmd⟩ := tblDone_fields (s.rd bank (regA pg 0x1008)) o.ecode
      have hne : regA pg 0x1004 ≠ regA pg 0x1008 := by unfold regA; omega
      have wrote := State.regsKept_wr (u := { s with bus := { s.bus with ops := s.bus.ops.erase o } })
        (l := [regKey bank (regA pg 0x1008), regKey bank (regA pg 0x1004)]) (s.regsKept_refl _)
        (tblDone (s.rd bank (regA pg 0x1008)) o.ecode) List.mem_cons_self
      by_cases hc : s.rdF bank (regA pg 0x1008) 2 1 = 1 ∧ o.ecode = 0
      · rw [if_pos hc]
        dsimp only
        rw [if_pos hc]
        simp only [State.rdF, State.rd_wr_same, State.rd_wr_addr _ _ _ _ _ hne.symm]
        exact ⟨hdone, herr, hecode, hcmd 0 8 (by omega), trivial, State.regsKept_wr wrote _ (by simp), rfl, rfl⟩
      · rw [if_neg hc]
        dsimp only
        rw [if_neg hc]
        simp only [State.rdF, State.rd_wr_same]
        exact ⟨hdone, herr, hecode, hcmd 0 8 (by omega), State.rd_wr_addr _ _ _ _ _ hne, wrote, rfl, rfl⟩

/-! ### Requests of a result block -/

/-- The peak meters that a query has read start anew. -/
theorem State.clearPeaks_regs_bus (s : State) (chs : List Nat) :
    let u := forEach chs (fun c s => s.setAudOut c { s.audOut c with peak := 0, clip := false }) s
    u.regs = s.regs ∧ u.bus = s.bus := by
  refine forEach_keeps (P := fun u => u.regs = s.regs ∧ u.bus = s.bus) chs (fun c _ u hu => ?_) ⟨rfl, rfl⟩
  exact hu

theorem State.audQuery_regs_bus (s : State) (t : Tag) : (s.audQuery t).2.regs = s.regs ∧ (s.audQuery t).2.bus = s.bus := by
  unfold State.audQuery
  dsimp only
  split
  · split <;> exact ⟨rfl, rfl⟩
  · split
    · exact ⟨rfl, rfl⟩
    · exact s.clearPeaks_regs_bus _
  · split
    · exact ⟨rfl, rfl⟩
    · split <;> exact ⟨rfl, rfl⟩
  · exact ⟨rfl, rfl⟩

/-- What a request takes when it is made touches no register, and leaves the bus matrix alone. -/
theorem State.resTake_regs_bus (s : State) (t : Tag) (pg : Nat) :
    (s.resTake t pg).2.regs = s.regs ∧ (s.resTake t pg).2.bus = s.bus := by
  unfold State.resTake
  split
  case h_5 => exact s.audQuery_regs_bus t
  all_goals exact ⟨rfl, rfl⟩

/-- A page's result block with RES_REQ_TAG counted and VALID clear. -/
def State.resStarted (c : State) (b pg : Nat) : State := (c.inc b (regA pg 0x084)).wrF b (regA pg 0x088) 0 1 0

theorem State.resStarted_regs (c : State) (b pg : Nat) :
    let u := c.resStarted b pg
    u.rd b (regA pg 0x084) = c.rd b (regA pg 0x084) + 1 ∧ u.rdF b (regA pg 0x088) 0 1 = 0 ∧
    c.regsKept u [regKey b (regA pg 0x084), regKey b (regA pg 0x088)] :=
  ⟨(State.rd_wr_addr _ _ _ _ _ (by unfold regA; omega)).trans (State.rd_wr_same _ _ _ _), State.rdF_wrF_same _ _ _ _ _ _ (by omega),
    State.regsKept_wr (State.regsKept_wr (c.regsKept_refl _) _ (by simp)) _ (by simp)⟩

/-- A write of RES_REQ with GO: the registers of the result block, and the request the last of those in progress. -/
theorem writeResReq_go (t : Tag) (pg : Nat) (c : State) :
    let b := winBank t pg
    let z := writeResReq t pg 1 c
    z.regs = (c.resStarted b pg).regs ∧
    ∃ e ws, z.bus.res = c.bus.res ++ [⟨pg, b, tagNum t, c.rd b (regA pg 0x084) + 1, e, ws⟩] := by
  intro b z
  obtain ⟨hregs, hbus⟩ := (c.resStarted b pg).resTake_regs_bus t pg
  have hz : z = { ((c.resStarted b pg).resTake t pg).2 with
    bus := { ((c.resStarted b pg).resTake t pg).2.bus with res := ((c.resStarted b pg).resTake t pg).2.bus.res ++ [⟨pg, b, tagNum t,
      ((c.resStarted b pg).resTake t pg).2.rd b (regA pg 0x084), ((c.resStarted b pg).resTake t pg).1.1,
      ((c.resStarted b pg).resTake t pg).1.2⟩] } } := rfl
  clear_value z
  rw [hbus, State.rd_of_regs hregs, (c.resStarted_regs b pg).1] at hz
  subst hz
  exact ⟨hregs, _, _, rfl⟩

/-- What a request has done to the page's copy of its result block and to the requests in progress. -/
def State.requested (s z : State) (t : Tag) (pg : Nat) : Prop :=
  let b := winBank t pg
  z.rd b (regA pg 0x084) = s.rd b (regA pg 0x084) + 1 ∧ z.rdF b (regA pg 0x088) 0 1 = 0 ∧
  ∃ e ws, z.bus.res = s.bus.res ++ [⟨pg, b, tagNum t, s.rd b (regA pg 0x084) + 1, e, ws⟩]

/-- The registers that a request of a page may change: RES_REQ_TAG and RES_STAT, and those that the bus matrix counts in. -/
def reqKeys (t : Tag) (pg : Nat) : List Nat :=
  regKey (winBank t pg) (regA pg 0x084) :: regKey (winBank t pg) (regA pg 0x088) :: regKey 0 (regA pg 0x020) :: noteKeys

/-- An admitted request of a page. -/
theorem resRequest_admitted {s : State} {t : Tag} {pg : Nat} (ha : s.admits (hostAccess t pg 0x080 1) = true) :
    s.requested (resRequest t pg s) t pg ∧ s.regsKept (resRequest t pg s) (reqKeys t pg) := by
  obtain ⟨zregs, e, ws, zres⟩ := writeResReq_go t pg (s.admitted (hostAccess t pg 0x080 1))
  obtain ⟨utag, uvalid, uregs⟩ := (s.admitted (hostAccess t pg 0x080 1)).resStarted_regs (winBank t pg) pg
  have htag : (s.admitted (hostAccess t pg 0x080 1)).rd (winBank t pg) (regA pg 0x084) = s.rd (winBank t pg) (regA pg 0x084) :=
    s.admitted_rd_off _ (by omega) (by decide)
  have cregs := s.admitted_regs (hostAccess t pg 0x080 1)
  rw [show (hostAccess t pg 0x080 1).page = pg from regA_page pg 0x080 (by omega)] at cregs
  have hres := s.admitted_res (hostAccess t pg 0x080 1)
  obtain ⟨resp, hz⟩ := (writeResReq t pg 1 (s.admitted (hostAccess t pg 0x080 1))).respond_eq (hostAccess t pg 0x080 1) false 0
  rw [show resRequest t pg s = _ from busWrite_admitted _ _ _ ha, hz]
  generalize s.admitted (hostAccess t pg 0x080 1) = u at *
  generalize writeResReq t pg 1 u = z at *
  rw [htag] at utag zres
  refine ⟨⟨(State.rd_of_regs zregs _ _).trans utag, (congrArg (fld · 0 1) (State.rd_of_regs zregs _ _)).trans uvalid, e, ws,
    zres.trans (congrArg (· ++ _) hres)⟩, fun key hk => (congrArg (Tab.get regReset · key) zregs).trans ?_⟩
  simp only [reqKeys, List.mem_cons, not_or] at hk
  obtain ⟨htag', hstat, hseq, hnote⟩ := hk
  exact (uregs key (by simp [htag', hstat])).trans (cregs key (by simp [hseq, hnote]))

/-- A register at another offset than those of `reqKeys` is none of them. -/
theorem notin_reqKeys (t : Tag) (pg : Nat) {b pg' o : Nat} (h : o < 65536) (h' : o ∉ [0x020, 0x040, 0x050, 0x054, 0x084, 0x088]) :
    regKey b (regA pg' o) ∉ reqKeys t pg := by
  refine regKey_notin_of_off fun k hk => ?_
  rw [regA_off pg' o h]
  simp only [reqKeys, noteKeys, List.mem_cons, List.not_mem_nil, or_false, not_or, regKey, regA, pKey, pBmx] at hk h'
  omega

/-! ### The end of a request -/

theorem State.setEntWords_bus (s : State) (pg b sel idx w : Nat) (l : List Word) : (s.setEntWords pg b sel idx w l).bus = s.bus := by
  induction l generalizing s w with
  | nil => rfl
  | cons v r ih => exact ih (s.setEnt pg b sel idx w v) (w + 1)

theorem State.wrWords_bus (s : State) (b a : Nat) (l : List Word) : (s.wrWords b a l).bus = s.bus := by
  have h := congrArg State.bus (s.wrWords_frame b a l)
  exact h

theorem State.event_bus (s : State) (pg b p : Nat) : (s.event pg b p).bus = s.bus := by
  unfold State.event
  split
  · split <;> rfl
  · rfl

theorem State.faultAt_bus (s : State) (pg b i p : Nat) : (s.faultAt pg b i p).bus = s.bus := by
  obtain ⟨o, h⟩ := s.faultAt_eq pg b i p
  rw [h]
  rfl

theorem State.raise_bus (s : State) (pg b p : Nat) : (s.raise pg b p).bus = s.bus :=
  (State.faultAt_bus _ _ _ _ _).trans (s.event_bus pg b p)

theorem State.putKey_bus (s : State) (h : Nat) (k : BitVec 256) : (s.putKey h k).bus = s.bus := rfl

theorem State.destroy_bus (s : State) (hs : List Nat) : (s.destroy hs).bus = s.bus := by
  refine forEach_keeps (P := fun u => u.bus = s.bus) hs (fun h _ u hu => ?_) rfl
  exact hu

theorem State.commitUses_bus (s : State) (h : Nat) : (s.commitUses h).bus = s.bus := by
  unfold State.commitUses
  dsimp only
  split <;> rfl

theorem State.useNode_bus (s : State) (h : Nat) : (s.useNode h).bus = s.bus := by
  unfold State.useNode
  dsimp only
  split
  · rfl
  · rw [State.commitUses_bus]
    split
    · exact State.raise_bus _ _ _ _
    · rfl

theorem createNode_bus (r : KeyReq) (gen : Word) (origin : Nat) (k : BitVec 256) (s : State) :
    (createNode r gen origin k s).2.2.bus = s.bus := by
  unfold createNode
  split
  · rfl
  · split
    · rfl
    · exact (apply_ite State.bus _ _ _).trans ((ite_self _).trans (State.setEntWords_bus _ _ _ _ _ _ _))

theorem keyDerive_bus (r : KeyReq) (s : State) : (keyDerive r s).2.2.bus = s.bus := by
  unfold keyDerive
  split
  · rfl
  · extract_lets
    iterate 6 (split; exact rfl)
    exact (createNode_bus _ _ _ _ _).trans ((State.useNode_bus _ _).trans (by split <;> rfl))

theorem keyLoad_bus (r : KeyReq) (s : State) : (keyLoad r s).2.2.bus = s.bus := by
  unfold keyLoad
  split
  · rfl
  · extract_lets
    iterate 3 (split; exact rfl)
    exact (createNode_bus _ _ _ _ _).trans (State.useNode_bus _ _)

theorem keyImport_bus (r : KeyReq) (s : State) : (keyImport r s).2.2.bus = s.bus := by
  unfold keyImport
  split
  · rfl
  · extract_lets
    iterate 3 (split; exact rfl)
    split
    · exact State.useNode_bus _ _
    · exact (createNode_bus _ _ _ _ _).trans (State.useNode_bus _ _)

theorem keySign_bus (r : KeyReq) (s : State) : (keySign r s).2.2.bus = s.bus := by
  unfold keySign
  split
  · rfl
  · extract_lets
    iterate 3 (split; exact rfl)
    exact State.useNode_bus _ _

theorem keyCheck_bus (r : KeyReq) (s : State) : (keyCheck r s).2.2.bus = s.bus := by
  unfold keyCheck
  split <;> rfl

theorem keyInvalidate_bus (r : KeyReq) (s : State) : (keyInvalidate r s).2.2.bus = s.bus := by
  unfold keyInvalidate
  split
  · rfl
  · split
    · rfl
    · exact (State.raise_bus _ _ _ _).trans (s.destroy_bus _)

theorem keyNewEpoch_bus (r : KeyReq) (s : State) : (keyNewEpoch r s).2.2.bus = s.bus := by
  unfold keyNewEpoch
  extract_lets
  split
  · rfl
  · show (State.raise _ _ _ _).bus = _
    rw [State.raise_bus, State.putKey_bus, State.setEntWords_bus, State.setEpoch_bus, State.destroy_bus]

theorem keySeal_bus (r : KeyReq) (s : State) : (keySeal r s).2.2.bus = s.bus := by
  unfold keySeal
  split <;> rfl

theorem keyRma_bus (r : KeyReq) (s : State) : (keyRma r s).2.2.bus = s.bus := by
  unfold keyRma
  iterate 2 (split; exact rfl)
  exact s.destroy_bus _

/-- Whatever a key request does, the bus matrix stays. -/
theorem keyServe_bus (r : KeyReq) (s : State) : (keyServe r s).2.2.bus = s.bus := by
  unfold keyServe
  iterate 5 (split; exact rfl)
  split
  · exact keyDerive_bus r s
  · exact keyLoad_bus r s
  · exact keyImport_bus r s
  · exact keySign_bus r s
  · exact keyCheck_bus r s
  · exact keyInvalidate_bus r s
  · exact keyNewEpoch_bus r s
  · exact keySeal_bus r s
  · exact keyRma_bus r s

theorem keyFinish_bus (o : ResOp) (s : State) : (keyFinish o s).2.2.bus = s.bus := by
  have cleared (u : State) : (forEach (List.range 18) (fun i s =>
      s.wr o.bank (regA pKey (if i < 8 then 0x100 + 4 * i else 0x120 + 4 * (i - 8))) 0) u).bus = u.bus := by
    refine forEach_keeps (P := fun v => v.bus = u.bus) _ (fun i _ v hv => ?_) rfl
    exact hv
  have served := keyServe_bus (keyReqOf o) s
  unfold keyFinish
  generalize keyServe (keyReqOf o) s = d at served
  obtain ⟨e, ws, s1⟩ := d
  show State.bus (if e = 0 then _ else _) = s.bus
  rw [apply_ite State.bus, State.raise_bus, State.inc_bus, State.inc_bus, State.inc_bus, ite_self, cleared]
  exact served

theorem State.settingsDone_bus (s : State) (data : List Word) : (s.settingsDone data).2.bus = s.bus := by
  unfold State.settingsDone
  extract_lets
  split
  · rfl
  · split
    · show State.bus (if _ then State.raise _ _ _ _ else _) = s.bus
      rw [apply_ite State.bus, State.raise_bus, ite_self]
      refine forEach_keeps (P := fun u => u.bus = s.bus) _ (fun i _ u hu => ?_) rfl
      exact (u.setEntWords_bus _ _ _ _ _ _).trans hu
    · rfl
    · rfl

theorem State.resServe_bus (s : State) (o : ResOp) (meas : BitVec 128) : (s.resServe o meas).2.2.bus = s.bus := by
  unfold State.resServe
  split
  · exact s.settingsDone_bus _
  · exact keyFinish_bus o s
  · rfl
  · rfl

theorem State.freshWords_bus (s : State) (n : Nat) : (s.freshWords n).2.bus = s.bus := by
  induction n generalizing s with
  | zero => rfl
  | succ n ih => exact ih s.freshWord.2

/-- RES_STAT, RES_TAG and, of a request that is not refused, the data; the bus matrix stays. -/
theorem State.resPut_reads (s : State) (o : ResOp) (e n : Nat) (ws : List Word) :
    let z := s.resPut o e n ws
    z.rd o.bank (regA o.page 0x088) = wd (1 + (if e = 0 then 0 else 2) + e * 256) ∧ z.rd o.bank (regA o.page 0x08C) = o.tag ∧
    (e = 0 → ∀ j, j < n → z.rd o.bank (regA o.page (0x090 + 4 * j)) = dat ws j) ∧ z.bus = s.bus := by
  intro z
  obtain ⟨data, u, hz, hbus, hdata⟩ : ∃ (data : List Word) (u : State), z =
      ((u.wr o.bank (regA o.page 0x088) (wd (1 + (if e = 0 then 0 else 2) + e * 256))).wr
      o.bank (regA o.page 0x08C) o.tag).wrWords o.bank (regA o.page 0x090) data ∧ u.bus = s.bus ∧
      (e = 0 → data = (List.range n).map fun i => dat ws i) := by
    by_cases he : e = 0
    · refine ⟨_, s, ?_, rfl, fun _ => rfl⟩
      simp only [z, State.resPut, if_pos he]
    · refine ⟨(s.freshWords n).1, (s.freshWords n).2, ?_, s.freshWords_bus n, fun h => absurd h he⟩
      simp only [z, State.resPut, if_neg he]
  have hne : regA o.page 0x088 ≠ regA o.page 0x08C := by unfold regA; omega
  rw [hz]
  refine ⟨?_, ?_, fun he j hj => ?_, (State.wrWords_bus _ _ _ _).trans hbus⟩
  · rw [State.rd_wrWords_outside _ _ _ _ (by unfold regA; omega), State.rd_wr_addr _ _ _ _ _ hne, State.rd_wr_same]
  · rw [State.rd_wrWords_outside _ _ _ _ (by unfold regA; omega), State.rd_wr_same]
  · rw [hdata he, show regA o.page (0x090 + 4 * j) = regA o.page 0x090 + 4 * j by unfold regA; omega,
      State.rd_wrWords_inside _ _ _ _ (by simpa using hj)]
    simp

theorem State.cause_bus (s : State) (p k : Nat) : (s.cause p k).bus = s.bus := by
  have h := congrArg State.bus (s.cause_frame p k)
  exact h

/-- Every page with a result block has RES_REQ, and no page's SNAP stands there. -/
theorem resReq_of_cap (k : PageKind) (h : k.cap / 8 % 2 = 1) : (regAt k 0x080).isSome = true ∧ snapOff k ≠ some 0x080 := by
  revert h
  cases k <;> decide

theorem writeReg_resReq {pg : Nat} {k : PageKind} {i : Nat} (hp : pageOf pg = some (k, i)) (hk : k.cap / 8 % 2 = 1) (t : Tag) (d : Word) :
    writeReg t (regA pg 0x080) d = writeResReq t pg d := by
  obtain ⟨hreg, hsnap⟩ := resReq_of_cap k hk
  obtain ⟨r, hr⟩ := Option.isSome_iff_exists.mp hreg
  funext s
  simp [writeReg, regA_page, regA_off, hp, hr, hsnap, hk]

theorem resWords_le (k : PageKind) : resWords k ≤ 16 := by
  cases k <;> decide

/-- Settles O15: a request is counted and joins those in progress; its end writes the result block and leaves the bus matrix. -/
theorem resultRequests : Obligations.ResultRequests := by
  refine ⟨fun s t pg k i hp hk ha => ?_, fun s pg bank meas o k i hp ho => ?_⟩
  · intro b started
    have key {c : Instr} (hc : exec c s = .next (resRequest t pg s)) : s.completes c started := by
      obtain ⟨⟨ztag, zvalid, zres⟩, zregs⟩ := resRequest_admitted ha
      refine ⟨_, hc, ztag, zvalid, zregs _ (notin_reqKeys t pg (by omega) (by decide)),
        fun j hj => zregs _ (notin_reqKeys t pg ?_ ?_), zres⟩
      · have := resWords_le k
        omega
      · have := resWords_le k
        simp
        omega
    have asked : exec (.resultRequest t pg) s = .next (resRequest t pg s) := by
      show Host.Outcome.next (hostWrite t _ 1 (writeReg t _ 1) s) = _
      rw [writeReg_resReq hp hk]
      rfl
    refine ⟨key asked, fun n hn => key ?_, fun hn => key ?_⟩
    · rw [hn]
      rfl
    · rw [hn]
      rfl
  · intro s0 r
    obtain ⟨hpage, hbank⟩ : o.page = pg.val ∧ o.bank = bank.val := by
      simpa using List.find?_some ho
    obtain ⟨zstat, ztag, zdata, zbus⟩ := r.2.2.resPut_reads o r.1 (resWords k) r.2.1
    rw [hpage, hbank] at zstat ztag zdata
    let p := if k.shared then o.bank else if o.who < 16 then o.who else 0
    have hexec : exec (.resultComplete pg bank meas) s = .next ((r.2.2.resPut o r.1 (resWords k) r.2.1).cause p 195) := by
      refine congrArg Host.Outcome.next ?_
      rw [ho, hp]
    have zrd (b a : Nat) : ((r.2.2.resPut o r.1 (resWords k) r.2.1).cause p 195).rd b a = _ := State.rd_of_regs (State.cause_regs _ _ _) b a
    refine ⟨_, hexec, (zrd _ _).trans zstat, (zrd _ _).trans ztag, fun he j hj => (zrd _ _).trans (zdata he j hj), ?_⟩
    rw [State.cause_bus, zbus, State.resServe_bus]

/-! ### Request registers -/

/-- A register word after a write that its mask lets through. -/
def maskedWord (old d : Word) (m : Nat) : Word := (old &&& ~~~wd m) ||| (d &&& wd m)

theorem fld_congr {v w : Word} {lo n : Nat} (h : ∀ j, j < n → bitOf v (lo + j) = bitOf w (lo + j)) : fld v lo n = fld w lo n := by
  refine Nat.eq_of_testBit_eq fun j => ?_
  unfold fld
  rw [Nat.testBit_mod_two_pow, Nat.testBit_mod_two_pow, Nat.testBit_div_two_pow, Nat.testBit_div_two_pow]
  by_cases hj : j < n
  · have := h j hj
    rw [bitOf_eq_getLsbD, bitOf_eq_getLsbD, BitVec.getLsbD, BitVec.getLsbD] at this
    rw [add_comm j lo, this]
  · simp [hj]

/-- A field that lies in the mask takes what is written. -/
theorem fld_maskedWord (old d : Word) (m : Nat) {lo n : Nat} (h : lo + n ≤ 32) (hm : ∀ j, j < n → m / 2 ^ (lo + j) % 2 = 1) :
    fld (maskedWord old d m) lo n = fld d lo n :=
  fld_congr fun j hj => by rw [maskedWord, bitOf_masked _ _ _ (by omega), if_pos (hm j hj)]

theorem maskedWord_full (old d : Word) : maskedWord old d 0xFFFFFFFF = d := by
  have h : wd 0xFFFFFFFF = BitVec.allOnes 32 := rfl
  rw [maskedWord, h, BitVec.not_allOnes, BitVec.and_zero, BitVec.zero_or, BitVec.and_allOnes]

/-- A field of what is written that is as it was stays so, whatever the mask. -/
theorem fld_maskedWord_same {old d : Word} (m : Nat) {lo n : Nat} (h : lo + n ≤ 32)
    (hd : ∀ j, j < n → bitOf d (lo + j) = bitOf old (lo + j)) :
    fld (maskedWord old d m) lo n = fld old lo n :=
  fld_congr fun j hj => by
    rw [maskedWord, bitOf_masked _ _ _ (by omega), hd j hj]
    split <;> rfl

/-- A request register of a bank: no half of a pair, and a write goes through its mask. -/
def ReqReg (t : Tag) (a b m : Nat) : Prop :=
  isHbm a = false ∧ isPair a = false ∧ ∀ d u, writeReg t a d u = u.wr b a (maskedWord (u.rd b a) d m)

theorem reqReg_takeQry (t : Tag) : ReqReg t (regA pTake 0x0B0) (tagBank t) 1 := ⟨rfl, rfl, fun _ _ => rfl⟩
theorem reqReg_takeArg (t : Tag) : ReqReg t (regA pTake 0x0B4) (tagBank t) 0xFFFFFFFF := ⟨rfl, rfl, fun _ _ => rfl⟩
theorem reqReg_audQry (t : Tag) : ReqReg t (regA pAud 0x0D0) (tagBank t) 3 := ⟨rfl, rfl, fun _ _ => rfl⟩
theorem reqReg_audArg (t : Tag) : ReqReg t (regA pAud 0x0D4) (tagBank t) 0xFFFFFFFF := ⟨rfl, rfl, fun _ _ => rfl⟩
theorem reqReg_keyReq (t : Tag) : ReqReg t (regA pKey 0x050) (tagBank t) 0x03FF11FF := ⟨rfl, rfl, fun _ _ => rfl⟩
theorem reqReg_setReq (t : Tag) : ReqReg t (mgtA 0x0B0) 0 0x07FF0003 := ⟨rfl, rfl, fun _ _ => rfl⟩

/-- Each write of a row is admitted in the state that the writes before it leave. -/
theorem State.admitsAll_cons {s : State} {t : Tag} {a b m : Nat} {d : Word} {l : List (Nat × Word)} (hr : ReqReg t a b m)
    (h : s.admitsAll t ((a, d) :: l) = true) : s.admits (.w32 t a d) = true ∧ (reqWrite t a d s).admitsAll t l = true := by
  obtain ⟨hh, hp, -⟩ := hr
  simp only [State.admitsAll, State.write32, List.foldl, regWrite_word t a d s hh hp, Bool.and_eq_true] at h
  exact h

theorem State.admitsAll_last {s : State} {t : Tag} {pg : Nat} (h : s.admitsAll t [(regA pg 0x080, 1)] = true) :
    s.admits (hostAccess t pg 0x080 1) = true := by
  simp only [State.admitsAll, Bool.and_true] at h
  exact h

/-- The registers that a write of a request register may change: its own, and those that the bus matrix counts in. -/
def wroteKeys (a b : Nat) : List Nat := regKey b a :: regKey 0 (regA (a / 65536) 0x020) :: noteKeys

/-- An admitted write of a request register. -/
theorem reqWrite_admitted {s : State} {t : Tag} {a b m : Nat} {d : Word} (hr : ReqReg t a b m) (ha : s.admits (.w32 t a d) = true)
    (hk : regKey b a ∉ regKey 0 (regA (a / 65536) 0x020) :: noteKeys) :
    (reqWrite t a d s).rd b a = maskedWord (s.rd b a) d m ∧ s.regsKept (reqWrite t a d s) (wroteKeys a b) ∧
    (reqWrite t a d s).bus.res = s.bus.res := by
  obtain ⟨-, -, hw⟩ := hr
  have cregs : s.regsKept (s.admitted (.w32 t a d)) (regKey 0 (regA (a / 65536) 0x020) :: noteKeys) := s.admitted_regs _
  have cres := s.admitted_res (.w32 t a d)
  obtain ⟨resp, hz⟩ := (writeReg t a d (s.admitted (.w32 t a d))).respond_eq (.w32 t a d) false 0
  rw [show reqWrite t a d s = _ from busWrite_admitted _ _ _ ha, hz, hw]
  generalize s.admitted (.w32 t a d) = c at *
  refine ⟨(State.rd_wr_same _ _ _ _).trans ?_, ?_, cres⟩
  · rw [State.regsKept_rd cregs hk]
  · exact State.regsKept_wr (State.regsKept_mono cregs fun key hkey => List.mem_cons_of_mem _ hkey) _ List.mem_cons_self

theorem notin_counted (pg' : Nat) {b pg o : Nat} (h : o < 65536) (h' : o ∉ [0x020, 0x040, 0x050, 0x054]) :
    regKey b (regA pg o) ∉ regKey 0 (regA pg' 0x020) :: noteKeys := by
  refine regKey_notin_of_off fun k hk => ?_
  rw [regA_off pg o h]
  simp only [noteKeys, List.mem_cons, List.not_mem_nil, or_false, not_or, regKey, regA, pKey, pBmx] at hk h'
  omega

theorem notin_wroteKeys {b b' pg pg' o o' : Nat} (h : o < 65536) (ho' : o' < 65536) (hne : o ≠ o')
    (h' : o ∉ [0x020, 0x040, 0x050, 0x054]) :
    regKey b (regA pg o) ∉ wroteKeys (regA pg' o') b' := by
  refine List.not_mem_cons_of_ne_of_not_mem (regKey_ne_of_off ?_) (notin_counted _ h h')
  rwa [regA_off pg o h, regA_off pg' o' ho']

/-- A request after writes that have left RES_REQ_TAG and the requests in progress alone. -/
theorem State.requested_after {s u z : State} {t : Tag} {pg : Nat} (h : u.requested z t pg)
    (htag : u.rd (winBank t pg) (regA pg 0x084) = s.rd (winBank t pg) (regA pg 0x084)) (hres : u.bus.res = s.bus.res) :
    s.requested z t pg := by
  obtain ⟨ztag, zvalid, e, ws, zres⟩ := h
  rw [htag] at ztag zres
  rw [hres] at zres
  exact ⟨ztag, zvalid, e, ws, zres⟩

/-- A row of one request register: what was written stands in it, through its mask, and the request is made. -/
theorem requestRow_one {s : State} {t : Tag} {pg o b m : Nat} {d : Word} (hr : ReqReg t (regA pg o) b m) (ho : o < 65536)
    (htag : o ≠ 0x084) (hk : regKey b (regA pg o) ∉ regKey 0 (regA (regA pg o / 65536) 0x020) :: noteKeys)
    (hq : regKey b (regA pg o) ∉ reqKeys t pg) (ha : s.admitsAll t [(regA pg o, d), (regA pg 0x080, 1)] = true) :
    let z := resRequest t pg (reqWrite t (regA pg o) d s)
    z.rd b (regA pg o) = maskedWord (s.rd b (regA pg o)) d m ∧ s.requested z t pg ∧
    s.regsKept z (wroteKeys (regA pg o) b ++ reqKeys t pg) := by
  obtain ⟨hwrite, hrest⟩ := State.admitsAll_cons hr ha
  obtain ⟨ureg, uregs, ures⟩ := reqWrite_admitted hr hwrite hk
  obtain ⟨zreq, zregs⟩ := resRequest_admitted (State.admitsAll_last hrest)
  refine ⟨(State.regsKept_rd zregs hq).trans ureg,
    State.requested_after zreq (State.regsKept_rd uregs (notin_wroteKeys (by omega) ho htag.symm (by decide))) ures, fun key hkey => ?_⟩
  rw [List.mem_append, not_or] at hkey
  exact (zregs key hkey.2).trans (uregs key hkey.1)

/-- A query's row: TYPE and argument, then the request. -/
theorem queryRow {s : State} {t : Tag} {pg ty arg m : Nat} {d v : Word} (hty : ReqReg t (regA pg ty) (tagBank t) m)
    (harg : ReqReg t (regA pg arg) (tagBank t) 0xFFFFFFFF) (h : 0x08C ≤ ty ∧ ty < arg ∧ arg < 65536)
    (ha : s.admitsAll t [(regA pg ty, d), (regA pg arg, v), (regA pg 0x080, 1)] = true) :
    let z := resRequest t pg (reqWrite t (regA pg arg) v (reqWrite t (regA pg ty) d s))
    z.rd (tagBank t) (regA pg ty) = maskedWord (s.rd (tagBank t) (regA pg ty)) d m ∧ z.rd (tagBank t) (regA pg arg) = v ∧
    s.requested z t pg := by
  obtain ⟨hlow, hlt, hhigh⟩ := h
  obtain ⟨hwrite, hrest⟩ := State.admitsAll_cons hty ha
  obtain ⟨uty, uregs, ures⟩ := reqWrite_admitted hty hwrite (notin_counted _ (by omega) (by simp; omega))
  obtain ⟨zarg, zreq, zregs⟩ := requestRow_one harg hhigh (by omega) (notin_counted _ hhigh (by simp; omega))
    (notin_reqKeys t pg hhigh (by simp; omega)) hrest
  have hkeep : regKey (tagBank t) (regA pg ty) ∉ wroteKeys (regA pg arg) (tagBank t) ++ reqKeys t pg := by
    rw [List.mem_append, not_or]
    exact ⟨notin_wroteKeys (by omega) hhigh (by omega) (by simp; omega), notin_reqKeys t pg (by omega) (by simp; omega)⟩
  exact ⟨(State.regsKept_rd zregs hkeep).trans uty, zarg.trans (maskedWord_full _ _),
    State.requested_after zreq (State.regsKept_rd uregs (notin_wroteKeys (by omega) (by omega) (by omega) (by decide))) ures⟩

/-- The writes of a row, of the only list that the command stands for. -/
theorem State.admitsAll_of_hostWrites {s : State} {c : Instr} {t : Tag} {l : List (Nat × Word)} (hc : s.hostWrites c = some (t, l))
    (h : ∃ l, s.hostWrites c = some (t, l) ∧ s.admitsAll t l = true) : s.admitsAll t l = true := by
  obtain ⟨l', hl, ha⟩ := h
  rw [hc] at hl
  cases hl
  exact ha

/-- KEY.REQ is none of the registers that an access or a request of the KEY page counts in. -/
theorem keyReq_notin (t : Tag) : regKey (tagBank t) (regA pKey 0x050) ∉ regKey 0 (regA (regA pKey 0x050 / 65536) 0x020) :: noteKeys ∧
    regKey (tagBank t) (regA pKey 0x050) ∉ reqKeys t pKey := by
  simp only [reqKeys, noteKeys, List.mem_cons, List.not_mem_nil, or_false, not_or, regKey, regA, pKey, pBmx]
  omega

/-- Settles O16: each row is its register writes, and the last of them the request. -/
theorem requestRows : Obligations.RequestRows := by
  intro s t started asked key set
  have query {c : Instr} {pg ty w arg m n : Nat} {d v : Word} (hty : ReqReg t (regA pg ty) (tagBank t) m)
      (harg : ReqReg t (regA pg arg) (tagBank t) 0xFFFFFFFF) (h : 0x08C ≤ ty ∧ ty < arg ∧ arg < 65536) (hw : 0 + w ≤ 32)
      (hm : ∀ j, j < w → m / 2 ^ (0 + j) % 2 = 1) (hn : fld d 0 w = n)
      (hc : s.hostWrites c = some (t, [(regA pg ty, d), (regA pg arg, v), (regA pg 0x080, 1)]))
      (he : exec c s = .next (resRequest t pg (reqWrite t (regA pg arg) v (reqWrite t (regA pg ty) d s)))) :
      asked c pg ty w arg v n := by
    intro ha
    obtain ⟨zty, zarg, zreq⟩ := queryRow hty harg h (State.admitsAll_of_hostWrites hc ha)
    refine ⟨_, he, ?_, zarg, zreq⟩
    rw [State.rdF, zty, fld_maskedWord _ _ _ hw hm, hn]
  have keyed {c : Instr} {op : Nat} (hop : op < 2 ^ 4) (hc : s.hostWrites c = some (t, s.keyWrites t op))
      (he : exec c s = .next (keyRow t op s)) : key c op := by
    intro ha
    obtain ⟨zreg, zreq, -⟩ := requestRow_one (reqReg_keyReq t) (by omega) (by omega) (keyReq_notin t).1 (keyReq_notin t).2
      (State.admitsAll_of_hostWrites hc ha)
    refine ⟨_, he, (congrArg (fld · 0 4) zreg).trans ?_, (congrArg (fld · 4 28) zreg).trans ?_, zreq⟩
    · rw [fld_maskedWord _ _ _ (by omega) (by decide), fld_setFld_same _ _ _ _ (by omega), Nat.mod_eq_of_lt hop]
    · exact fld_maskedWord_same _ (by omega) fun j hj => bitOf_setFld_other _ _ _ _ _ (by omega) (by omega)
  have settings {c : Instr} {op : Nat} {pg : BitVec 11} (hop : op < 4)
      (hc : s.hostWrites c = some (t, [(mgtA 0x0B0, wd (op + pg.toNat * 65536)), (regA pMgt 0x080, 1)]))
      (he : exec c s = .next (settingsRow t op pg s)) : set c op pg := by
    intro ha
    obtain ⟨zreg, zreq, -⟩ := requestRow_one (pg := pMgt) (o := 0x0B0) (reqReg_setReq t) (by omega) (by omega)
      (notin_counted _ (by omega) (by decide)) (notin_reqKeys t _ (by omega) (by decide)) (State.admitsAll_of_hostWrites hc ha)
    have hpg := pg.isLt
    refine ⟨_, he, (congrArg (fld · 0 2) zreg).trans ?_, (congrArg (fld · 16 11) zreg).trans ?_, zreq⟩
    all_goals
      rw [fld_maskedWord _ _ _ (by omega) (by decide), fld, wd, BitVec.toNat_ofNat]
      omega
  exact ⟨fun o => query (reqReg_takeQry t) (reqReg_takeArg t) (by decide) (by decide) (by decide) rfl rfl rfl,
    fun g => query (reqReg_takeQry t) (reqReg_takeArg t) (by decide) (by decide) (by decide) rfl rfl rfl,
    fun ch => query (reqReg_audQry t) (reqReg_audArg t) (by decide) (by decide) (by decide) rfl rfl rfl,
    fun ch => query (reqReg_audQry t) (reqReg_audArg t) (by decide) (by decide) (by decide) rfl rfl rfl,
    fun g => query (reqReg_audQry t) (reqReg_audArg t) (by decide) (by decide) (by decide) rfl rfl rfl,
    keyed (by omega) rfl rfl, keyed (by omega) rfl rfl, keyed (by omega) rfl rfl, keyed (by omega) rfl rfl, keyed (by omega) rfl rfl,
    keyed (by omega) rfl rfl, keyed (by omega) rfl rfl, keyed (by omega) rfl rfl, keyed (by omega) rfl rfl,
    fun pg => ⟨settings (by omega) rfl rfl, settings (by omega) rfl rfl⟩⟩

end Sys2Proof.Machine
end

section
/-!
PROOFS. Scope: the registers of lanes and ports. Where the registers of a block lie, what an operation on a lane may write, and what the
shared operations leave in LN_STATUS, in the events and in the coefficients.
-/
namespace Sys2Proof.Machine

/-! ### Registers of a block -/

/-- A register's number spelled out: of a lane, of a LANE page, of a PORT page. -/
theorem regKey_lnA (l off : Nat) : regKey 0 (lnA l off) = 16777472 + 65536 * (l / 8) + 128 * (l % 8) + off := by
  unfold regKey lnA regA pLane
  omega

theorem regKey_laneA (b off : Nat) : regKey 0 (laneA b off) = 16777216 + 65536 * b + off := by
  unfold regKey laneA regA pLane
  omega

theorem regKey_portA (b off : Nat) : regKey 0 (portA b off) = 20971520 + 65536 * b + off := by
  unfold regKey portA regA pPort
  omega

/-- Registers of two lanes, two registers of a lane, and a lane's registers beside those of its block. -/
theorem lnA_ne_lane {l m off off' : Nat} (h : m ≠ l) (ho : off < 0x80) (ho' : off' < 0x80) :
    regKey 0 (lnA m off) ≠ regKey 0 (lnA l off') := by
  rw [regKey_lnA, regKey_lnA]
  omega

theorem lnA_ne_off {off off' : Nat} (h : off ≠ off') (l : Nat) : regKey 0 (lnA l off) ≠ regKey 0 (lnA l off') := by
  rw [regKey_lnA, regKey_lnA]
  omega

theorem lnA_ne_laneA {off off' : Nat} (ho : off < 0x80) (ho' : off' < 0x100) (l b : Nat) :
    regKey 0 (lnA l off) ≠ regKey 0 (laneA b off') := by
  rw [regKey_lnA, regKey_laneA]
  omega

theorem laneA_ne_off {off off' : Nat} (h : off ≠ off') (b : Nat) : regKey 0 (laneA b off) ≠ regKey 0 (laneA b off') := by
  rw [regKey_laneA, regKey_laneA]
  omega

theorem portA_ne_off {off off' : Nat} (h : off ≠ off') (b : Nat) : regKey 0 (portA b off) ≠ regKey 0 (portA b off') := by
  rw [regKey_portA, regKey_portA]
  omega

/-! ### What an operation may write -/

/-- Registers have changed only where K holds, and beside them only the hidden state of lanes and Epvozel groups, the counter of free
values and the fault occurrences that wait. -/
structure State.Wrote (s z : State) (K : Nat → Prop) : Prop where
  regs : ∀ k, ¬K k → Tab.get regReset z.regs k = Tab.get regReset s.regs k
  rest : { z with regs := s.regs, lanes := s.lanes, epv := s.epv, free := s.free, occ := s.occ } = s

namespace State.Wrote

variable {s t u : State} {K : Nat → Prop}

theorem refl (s : State) (K : Nat → Prop) : s.Wrote s K := ⟨fun _ _ => rfl, rfl⟩

theorem trans (h : s.Wrote t K) (g : t.Wrote u K) : s.Wrote u K where
  regs k hk := (g.regs k hk).trans (h.regs k hk)
  rest := (congrArg (fun v : State =>
    { v with regs := s.regs, lanes := s.lanes, epv := s.epv, free := s.free, occ := s.occ }) g.rest).trans h.rest

theorem mono {L : Nat → Prop} (h : s.Wrote u K) (hKL : ∀ k, K k → L k) : s.Wrote u L :=
  ⟨fun k hk => h.regs k fun hK => hk (hKL k hK), h.rest⟩

theorem wr (h : s.Wrote u K) {b a : Nat} (hk : K (regKey b a)) (v : Word) : s.Wrote (u.wr b a v) K :=
  ⟨fun k hn => (Tab.get_put_other _ _ _ _ _ fun e => hn (by rw [e]; exact hk)).trans (h.regs k hn), h.rest⟩

theorem wrF (h : s.Wrote u K) {b a : Nat} (hk : K (regKey b a)) (lo n v : Nat) : s.Wrote (u.wrF b a lo n v) K := h.wr hk _

theorem wr64 (h : s.Wrote u K) {b a : Nat} (hlo : K (regKey b a)) (hhi : K (regKey b (a + 4))) (v : Nat) : s.Wrote (u.wr64 b a v) K :=
  (h.wr hlo _).wr hhi _

theorem setLane (h : s.Wrote u K) (l : Nat) (r : LaneRec) : s.Wrote (u.setLane l r) K := ⟨h.regs, h.rest⟩
theorem setEpv (h : s.Wrote u K) (b : Nat) (r : EpvRec) : s.Wrote (u.setEpv b r) K := ⟨h.regs, h.rest⟩
theorem fresh (h : s.Wrote u K) (n : Nat) : s.Wrote (u.fresh n).2 K := ⟨h.regs, h.rest⟩
theorem occur (h : s.Wrote u K) (src i p : Nat) : s.Wrote (u.occur src i p) K := ⟨h.regs, h.rest⟩

theorem ite (h : s.Wrote t K) (g : s.Wrote u K) (c : Prop) [Decidable c] : s.Wrote (if c then t else u) K := by
  split
  exacts [h, g]

theorem forEach {α : Type} (h : s.Wrote u K) {l : List α} {f : α → State → State} (hf : ∀ x ∈ l, ∀ v, s.Wrote v K → s.Wrote (f x v) K) :
    s.Wrote (Machine.forEach l f u) K := forEach_keeps l hf h

theorem faultAt (h : s.Wrote u K) {pg : Nat} (hk : K (regKey 0 (regA pg 0x018))) (b i p : Nat) : s.Wrote (u.faultAt pg b i p) K :=
  (h.wrF hk _ _ _).ite ((h.wrF hk _ _ _).occur _ _ _) _

theorem rd (h : s.Wrote u K) {b a : Nat} (hk : ¬K (regKey b a)) : u.rd b a = s.rd b a := h.regs _ hk

theorem beat (h : s.Wrote u K) : u.beat = s.beat := by
  have e := congrArg State.beat h.rest
  exact e
theorem out (h : s.Wrote u K) : u.out = s.out := by
  have e := congrArg State.out h.rest
  exact e
theorem remote (h : s.Wrote u K) : u.remote = s.remote := by
  have e := congrArg State.remote h.rest
  exact e
theorem tbl (h : s.Wrote u K) : u.tbl = s.tbl := by
  have e := congrArg State.tbl h.rest
  exact e
theorem memKept (h : s.Wrote u K) : s.memKept u := fun a => by
  have e := congrArg (State.memByte · a) h.rest
  exact e

theorem onlyPages (h : s.Wrote u K) {pgs : List Nat} (hK : ∀ k, K k → k % 2 ^ 28 / 65536 ∈ pgs) : s.onlyPages u pgs :=
  ⟨fun k hk => h.regs k fun hKk => hk (hK k hKk), h.tbl, h.memKept⟩

end State.Wrote

/-- The registers by which a lane moves between the states of R91 and port framing follows it: LN_STATUS, LN_TX_COEF and LN_TAPREQ of
the block's lanes, BLK_STATUS, and the PORT page's events, link states and counters. -/
def LaneMoves (b k : Nat) : Prop :=
  (k / 65536 = pLane b ∧ (k % 65536 = 0x48 ∨
    0x100 ≤ k % 65536 ∧ (k % 128 = 0x04 ∨ k % 128 = 0x08 ∨ k % 128 = 0x0C ∨ k % 128 = 0x54))) ∨
  (k / 65536 = pPort b ∧ (k % 65536 = 0x18 ∨ k % 65536 = 0x48 ∨ k % 65536 = 0x58 ∨ k % 65536 = 0x64 ∨ 0x100 ≤ k % 65536))

/-- With them the registers in which a lane reports: LN_RX_STAT, LN_LOL_COUNT and LN_TRAIN_LOG of the block's lanes, LANE.EVENT and
PAGE_FAULT. -/
def LaneWork (b k : Nat) : Prop :=
  LaneMoves b k ∨ (k / 65536 = pLane b ∧ (k % 65536 = 0x18 ∨ k % 65536 = 0x4C ∨
    0x100 ≤ k % 65536 ∧ (k % 128 = 0x10 ∨ k % 128 = 0x48 ∨ k % 128 = 0x50)))

theorem laneMoves_ln {l b off : Nat} (hb : l / 8 = b) (ho : off ∈ [0x04, 0x08, 0x0C, 0x54]) : LaneMoves b (regKey 0 (lnA l off)) := by
  simp only [List.mem_cons, List.not_mem_nil, or_false] at ho
  rw [regKey_lnA, LaneMoves, pLane]
  omega

theorem laneMoves_blkStatus (b : Nat) : LaneMoves b (regKey 0 (laneA b 0x048)) := by
  rw [regKey_laneA, LaneMoves, pLane]
  omega

theorem laneMoves_port {off : Nat} (b : Nat) (ho : off ∈ [0x018, 0x048, 0x058, 0x064]) : LaneMoves b (regKey 0 (portA b off)) := by
  simp only [List.mem_cons, List.not_mem_nil, or_false] at ho
  rw [regKey_portA, LaneMoves, pPort]
  omega

theorem laneMoves_portCtr (b : Nat) {i off : Nat} (hi : i < 8) (ho : off < 0x40) : LaneMoves b (regKey 0 (portCtr b i off)) := by
  rw [portCtr, regKey_portA, LaneMoves, pPort]
  omega

theorem not_laneMoves_ln {l b off : Nat} (hl : l < 384) (ho : off < 0x80) (h : off ∉ [0x04, 0x08, 0x0C, 0x54]) :
    ¬LaneMoves b (regKey 0 (lnA l off)) := by
  simp only [List.mem_cons, List.not_mem_nil, or_false, not_or] at h
  rw [regKey_lnA, LaneMoves, pLane, pPort]
  omega

theorem not_laneMoves_blk {b b' off : Nat} (hb : b < 48) (ho : off < 0x100)
    (h : off ≠ 0x048) : ¬LaneMoves b' (regKey 0 (laneA b off)) := by
  rw [regKey_laneA, LaneMoves, pLane, pPort]
  omega

theorem laneWork_ln {l b off : Nat} (hb : l / 8 = b) (ho : off ∈ [0x10, 0x48, 0x50]) : LaneWork b (regKey 0 (lnA l off)) := by
  simp only [List.mem_cons, List.not_mem_nil, or_false] at ho
  rw [regKey_lnA, LaneWork, pLane]
  omega

theorem laneWork_blk {off : Nat} (b : Nat) (ho : off ∈ [0x018, 0x04C]) : LaneWork b (regKey 0 (laneA b off)) := by
  simp only [List.mem_cons, List.not_mem_nil, or_false] at ho
  rw [regKey_laneA, LaneWork, pLane]
  omega

theorem not_laneWork_ln {l b off : Nat} (hl : l < 384) (ho : off < 0x80) (h : off ∉ [0x04, 0x08, 0x0C, 0x54, 0x10, 0x48, 0x50]) :
    ¬LaneWork b (regKey 0 (lnA l off)) := by
  simp only [List.mem_cons, List.not_mem_nil, or_false, not_or] at h
  rw [regKey_lnA, LaneWork, LaneMoves, pLane, pPort]
  omega

theorem not_laneWork_blk {b b' off : Nat} (hb : b < 48) (ho : off < 0x100) (h : off ∉ [0x018, 0x048, 0x04C]) :
    ¬LaneWork b' (regKey 0 (laneA b off)) := by
  simp only [List.mem_cons, List.not_mem_nil, or_false, not_or] at h
  rw [regKey_laneA, LaneWork, LaneMoves, pLane, pPort]
  omega

theorem not_laneWork_port {b b' off : Nat} (hb' : b' < 48) (ho : off < 0x100) (h : off ∉ [0x018, 0x048, 0x058, 0x064]) :
    ¬LaneWork b' (regKey 0 (portA b off)) := by
  simp only [List.mem_cons, List.not_mem_nil, or_false, not_or] at h
  rw [regKey_portA, LaneWork, LaneMoves, pLane, pPort]
  omega

theorem laneWork_page {b : Nat} (hb : b < 48) (k : Nat) (h : LaneWork b k) : k % 2 ^ 28 / 65536 ∈ [pLane b, pPort b] := by
  simp only [LaneWork, LaneMoves, pLane, pPort, List.mem_cons, List.not_mem_nil, or_false] at h ⊢
  omega

theorem State.Wrote.work {s u : State} {b : Nat} (h : s.Wrote u (LaneMoves b)) : s.Wrote u (LaneWork b) := h.mono fun _ => Or.inl

/-! ### LN_STATUS -/

/-- LN_STATUS of a lane that moves to a state of R91: one that leaves READY leaves MISSION and the farrier test. -/
def movedTo (w : Word) (st : Nat) : Word := if st = 5 then setFld w 0 4 st else setFld (setFld (setFld w 0 4 st) 11 1 0) 14 1 0

theorem movedTo_state (w : Word) (st : Nat) : fld (movedTo w st) 0 4 = st % 16 := by
  unfold movedTo
  split
  · exact fld_setFld_same _ _ _ _ (by omega)
  · rw [fld_setFld_below _ _ _ _ _ _ (by omega) (by omega), fld_setFld_below _ _ _ _ _ _ (by omega) (by omega),
      fld_setFld_same _ _ _ _ (by omega)]
    rfl

/-- The fields between STATE and MISSION and those between MISSION and the farrier test's bit stay. -/
theorem movedTo_field (w : Word) (st : Nat) {lo n : Nat} (h : 4 ≤ lo ∧ lo + n ≤ 11 ∨ 12 ≤ lo ∧ lo + n ≤ 14) :
    fld (movedTo w st) lo n = fld w lo n := by
  unfold movedTo
  split
  · exact fld_setFld_above _ _ _ _ _ _ (by omega) (by omega)
  · rw [fld_setFld_below _ _ _ _ _ _ (by omega) (by omega), fld_setFld_other _ _ _ _ _ _ (by omega) (by omega),
      fld_setFld_above _ _ _ _ _ _ (by omega) (by omega)]

theorem movedTo_mission (w : Word) {st : Nat} (h : st ≠ 5) : bitOf (movedTo w st) 11 = false := by
  rw [movedTo, if_neg h, bitOf_setFld_other _ _ _ _ _ (by omega) (by omega), bitOf_setFld_same _ _ _ (by omega)]
  rfl

theorem State.lnState_of_rd {s u : State} {m : Nat} (h : u.rd 0 (lnA m 0x04) = s.rd 0 (lnA m 0x04)) : u.lnState m = s.lnState m :=
  congrArg (fld · 0 4) h

@[simp] theorem State.lnState_setLane (s : State) (l : Nat) (r : LaneRec) (m : Nat) : (s.setLane l r).lnState m = s.lnState m := rfl
@[simp] theorem State.lnState_setEpv (s : State) (b : Nat) (r : EpvRec) (m : Nat) : (s.setEpv b r).lnState m = s.lnState m := rfl

/-- Another register of a lane or of a block's page holds no lane's state. -/
@[simp] theorem State.lnState_wr_ln (s : State) (l : Nat) {off : Nat} (v : Word) (m : Nat) (h : off ≠ 4) (ho : off < 0x80) :
    (s.wr 0 (lnA l off) v).lnState m = s.lnState m :=
  State.lnState_of_rd (State.rd_wr_other _ _ _ _ _ _ (by rw [regKey_lnA, regKey_lnA]; omega))

@[simp] theorem State.lnState_wr_blk (s : State) (b : Nat) {off : Nat} (v : Word) (m : Nat) (ho : off < 0x100) :
    (s.wr 0 (laneA b off) v).lnState m = s.lnState m :=
  State.lnState_of_rd (State.rd_wr_other _ _ _ _ _ _ (lnA_ne_laneA (by omega) ho _ _))

theorem State.lnState_wr_port (s : State) (b : Nat) {off : Nat} (v : Word) {m : Nat} (hm : m < 384) :
    (s.wr 0 (portA b off) v).lnState m = s.lnState m :=
  State.lnState_of_rd (State.rd_wr_other _ _ _ _ _ _ (by rw [regKey_lnA, regKey_portA]; omega))

/-- The other fields of LN_STATUS. -/
@[simp] theorem State.lnState_wrF (s : State) (l : Nat) {lo n : Nat} (v m : Nat) (h : 4 ≤ lo) (hn : lo + n ≤ 32) :
    (s.wrF 0 (lnA l 0x04) lo n v).lnState m = s.lnState m := by
  by_cases e : m = l
  · rw [e]
    exact State.rdF_wrF_field s 0 _ lo n v 0 4 hn (by omega)
  · exact State.lnState_of_rd (State.rd_wrF_other _ _ _ _ _ _ _ _ (lnA_ne_lane e (by omega) (by omega)))

/-! ### Moving a lane -/

theorem State.setLnState_eq (s : State) (l st : Nat) :
    s.setLnState l st = (s.wr 0 (lnA l 0x04) (movedTo (s.rd 0 (lnA l 0x04)) st)).syncBlk (l / 8) := rfl

theorem State.Wrote.syncBlk {s u : State} {K : Nat → Prop} (h : s.Wrote u K) {b : Nat} (hk : K (regKey 0 (laneA b 0x048))) :
    s.Wrote (u.syncBlk b) K := h.wr hk _

theorem State.Wrote.setLnState {s u : State} {K : Nat → Prop} (h : s.Wrote u K) {l : Nat} (hl : K (regKey 0 (lnA l 0x04)))
    (hb : K (regKey 0 (laneA (l / 8) 0x048))) (st : Nat) : s.Wrote (u.setLnState l st) K := by
  rw [State.setLnState_eq]
  exact (h.wr hl _).syncBlk hb

/-- A move of lane l writes its LN_STATUS and BLK_STATUS. -/
theorem State.setLnState_wrote (s : State) (l st : Nat) :
    s.Wrote (s.setLnState l st) fun k => k = regKey 0 (lnA l 0x04) ∨ k = regKey 0 (laneA (l / 8) 0x048) :=
  (State.Wrote.refl s _).setLnState (.inl rfl) (.inr rfl) st

theorem State.syncBlk_rd (s : State) {b a : Nat} (h : regKey 0 a ≠ regKey 0 (laneA b 0x048)) : (s.syncBlk b).rd 0 a = s.rd 0 a :=
  State.rd_wr_other _ _ _ _ _ _ h

theorem State.setLnState_rd_status (s : State) (l st : Nat) :
    (s.setLnState l st).rd 0 (lnA l 0x04) = movedTo (s.rd 0 (lnA l 0x04)) st := by
  rw [State.setLnState_eq, State.syncBlk_rd _ (lnA_ne_laneA (by omega) (by omega) _ _), State.rd_wr_same]

@[simp] theorem State.lnState_setLnState (s : State) (l st m : Nat) :
    (s.setLnState l st).lnState m = if m = l then st % 16 else s.lnState m := by
  split
  next h => rw [h, State.lnState, State.rdF, State.setLnState_rd_status, movedTo_state]
  next h =>
    refine State.lnState_of_rd ((s.setLnState_wrote l st).rd (not_or.mpr ⟨?_, ?_⟩))
    · exact lnA_ne_lane h (by omega) (by omega)
    · exact lnA_ne_laneA (by omega) (by omega) _ _

/-- A move leaves LN_STATUS but for STATE, MISSION and the farrier test's bit. -/
theorem State.setLnState_field (s : State) (l st : Nat) {lo n : Nat} (h : 4 ≤ lo ∧ lo + n ≤ 11 ∨ 12 ≤ lo ∧ lo + n ≤ 14) :
    fld ((s.setLnState l st).rd 0 (lnA l 0x04)) lo n = fld (s.rd 0 (lnA l 0x04)) lo n := by
  rw [State.setLnState_rd_status, movedTo_field _ _ h]

/-- No lane enters MISSION by a move to another state than READY. -/
theorem State.mission_setLnState {s : State} {l st m : Nat} (hst : st ≠ 5) (h : s.mission m = false) :
    (s.setLnState l st).mission m = false := by
  unfold State.mission at *
  by_cases e : m = l
  · rw [e, State.setLnState_rd_status, movedTo_mission _ hst]
  · rw [(s.setLnState_wrote l st).rd (not_or.mpr ⟨lnA_ne_lane e (by omega) (by omega), lnA_ne_laneA (by omega) (by omega) _ _⟩), h]

/-! ### Events of a block -/

theorem State.faultAt_rd (s : State) {pg b' a : Nat} (h : regKey b' a ≠ regKey 0 (regA pg 0x018)) (b i p : Nat) :
    (s.faultAt pg b i p).rd b' a = s.rd b' a :=
  ((State.Wrote.refl s fun k => k = regKey 0 (regA pg 0x018)).faultAt rfl b i p).rd h

theorem State.faultAt_rd_fault (s : State) (pg : Nat) {b : Nat} (hb : b < 32) (i p : Nat) :
    bitOf ((s.faultAt pg b i p).rd 0 (regA pg 0x018)) b = true := by
  have set : bitOf ((s.wrF 0 (regA pg 0x018) b 1 1).rd 0 (regA pg 0x018)) b = true := by
    rw [State.wrF, State.rd_wr_same, bitOf_setFld_same _ _ _ hb]
    rfl
  unfold State.faultAt
  dsimp only
  split
  exacts [set, set]

theorem State.Wrote.laneEvent {s u : State} {K : Nat → Prop} (h : s.Wrote u K) {b : Nat} (he : K (regKey 0 (laneA b 0x04C)))
    (hf : K (regKey 0 (laneA b 0x018))) (ev fault : Nat) : s.Wrote (u.laneEvent b ev fault) K := (h.wrF he _ _ _).faultAt hf _ _ _

theorem State.laneEvent_rd (s : State) {b a : Nat} (he : regKey 0 a ≠ regKey 0 (laneA b 0x04C))
    (hf : regKey 0 a ≠ regKey 0 (laneA b 0x018))
    (ev fault : Nat) : (s.laneEvent b ev fault).rd 0 a = s.rd 0 a :=
  ((State.Wrote.refl s fun k => k = regKey 0 (laneA b 0x04C) ∨ k = regKey 0 (laneA b 0x018)).laneEvent (.inl rfl) (.inr rfl) ev fault).rd
    (not_or.mpr ⟨he, hf⟩)

theorem State.laneEvent_rd_ln (s : State) (b l : Nat) {off : Nat} (h : off < 0x80) (ev fault : Nat) :
    (s.laneEvent b ev fault).rd 0 (lnA l off) = s.rd 0 (lnA l off) :=
  s.laneEvent_rd (lnA_ne_laneA h (by omega) _ _) (lnA_ne_laneA h (by omega) _ _) ev fault

theorem State.laneEvent_rd_blk (s : State) (b b' : Nat) {off : Nat} (h : off ∉ [0x018, 0x04C]) (ho : off < 0x100) (ev fault : Nat) :
    (s.laneEvent b ev fault).rd 0 (laneA b' off) = s.rd 0 (laneA b' off) := by
  simp only [List.mem_cons, List.not_mem_nil, or_false, not_or] at h
  exact s.laneEvent_rd (by rw [regKey_laneA, regKey_laneA]; omega) (by rw [regKey_laneA, regKey_laneA]; omega) ev fault

/-- LANE.EVENT after an event: its bit is set, the others stay. -/
theorem State.laneEvent_rd_event (s : State) (b ev fault : Nat) :
    (s.laneEvent b ev fault).rd 0 (laneA b 0x04C) = setFld (s.rd 0 (laneA b 0x04C)) ev 1 1 := by
  rw [State.laneEvent, State.faultOwned, State.faultAt_rd _ (show regKey 0 (laneA b 0x04C) ≠ regKey 0 (laneA b 0x018) from
    laneA_ne_off (by omega) b), State.wrF, State.rd_wr_same]

theorem State.lnState_laneEvent (s : State) (b ev fault m : Nat) : (s.laneEvent b ev fault).lnState m = s.lnState m :=
  State.lnState_of_rd (s.laneEvent_rd_ln b m (by omega) ev fault)

theorem State.faultAt_lanes (s : State) (pg b i p : Nat) : (s.faultAt pg b i p).lanes = s.lanes := by
  unfold State.faultAt
  dsimp only
  split <;> rfl

/-- An event of a PORT page is a bit of PORT.EVENT, which has one copy, and of PAGE_FAULT. -/
theorem State.raiseOwned_port {b : Nat} (hb : b < 48) (s : State) (e : Nat) : s.raiseOwned (pPort b) e =
    (s.wrF 0 (portA b 0x048) e 1 1).faultAt (pPort b) e (pageInst (pPort b)) (s.pageOwner (pPort b)) := by
  have hbank (p : Nat) : eventBank (pPort b) p = 0 := by
    simp [eventBank, pageOf_port b hb, PageKind.eventOff, regAt, portRegs, findReg]
  simp only [State.raiseOwned, State.raise, State.raiseAt, State.event, pageOf_port b hb, PageKind.eventOff, hbank]
  rfl

theorem State.Wrote.raiseOwned {s u : State} {K : Nat → Prop} (h : s.Wrote u K) {b : Nat} (hb : b < 48)
    (he : K (regKey 0 (portA b 0x048))) (hf : K (regKey 0 (portA b 0x018))) (e : Nat) : s.Wrote (u.raiseOwned (pPort b) e) K := by
  rw [State.raiseOwned_port hb]
  exact (h.wrF he _ _ _).faultAt hf _ _ _

theorem State.raiseOwned_rd_event {b : Nat} (hb : b < 48) (s : State) {e : Nat} (he : e < 32) :
    bitOf ((s.raiseOwned (pPort b) e).rd 0 (portA b 0x048)) e = true := by
  rw [State.raiseOwned_port hb, State.faultAt_rd _ (show regKey 0 (portA b 0x048) ≠ regKey 0 (portA b 0x018) from
    portA_ne_off (by omega) b), State.wrF, State.rd_wr_same, bitOf_setFld_same _ _ _ he]
  rfl

theorem State.raiseOwned_rd {b : Nat} (hb : b < 48) (s : State) (e : Nat) {a : Nat} (he : regKey 0 a ≠ regKey 0 (portA b 0x048))
    (hf : regKey 0 a ≠ regKey 0 (portA b 0x018)) : (s.raiseOwned (pPort b) e).rd 0 a = s.rd 0 a :=
  ((State.Wrote.refl s fun k => k = regKey 0 (portA b 0x048) ∨ k = regKey 0 (portA b 0x018)).raiseOwned hb (.inl rfl) (.inr rfl) e).rd
    (not_or.mpr ⟨he, hf⟩)

/-! ### Coefficients -/

/-- Six coefficients, each a signed byte: what LN_TX_COEF can hold. -/
def CoefBytes (c : Coefs) : Prop := c.length = 6 ∧ ∀ v ∈ c, -128 ≤ v ∧ v < 128

theorem sext_byte (n : Nat) : -128 ≤ sext 8 n ∧ sext 8 n < 128 := by
  unfold sext
  norm_num
  split <;> omega

/-- A signed byte read back from any place of a wider number. -/
theorem sext_toBits {v : Int} {n k : Nat} (h : -128 ≤ v ∧ v < 128) (hn : n = toBits 8 v + 256 * k) : sext 8 n = v := by
  unfold toBits at hn
  norm_num at hn
  unfold sext
  norm_num
  split <;> omega

theorem toBits_lt (v : Int) : toBits 8 v < 256 := by
  unfold toBits
  norm_num
  omega

theorem coefBytes_coefsOf (v : Nat) : CoefBytes (coefsOf v) := by
  refine ⟨rfl, fun x hx => ?_⟩
  simp only [coefsOf, List.mem_cons, List.not_mem_nil, or_false] at hx
  rcases hx with rfl | rfl | rfl | rfl | rfl | rfl <;> exact sext_byte _

theorem coefBytes_preset (n : Nat) : CoefBytes (presetCoefs n) := by
  unfold presetCoefs
  split <;> exact ⟨rfl, by decide⟩

theorem sixBytes (n0 n1 n2 n3 n4 n5 : Nat) :
    0 + n0 * 2 ^ (8 * 0) + n1 * 2 ^ (8 * 1) + n2 * 2 ^ (8 * 2) + n3 * 2 ^ (8 * 3) + n4 * 2 ^ (8 * 4) + n5 * 2 ^ (8 * 5) =
      n0 + n1 * 2 ^ 8 + n2 * 2 ^ 16 + n3 * 2 ^ 24 + n4 * 2 ^ 32 + n5 * 2 ^ 40 := by
  omega

/-- LN_TX_COEF of six coefficients as a sum of their bytes. -/
theorem coefBits_eq (v0 v1 v2 v3 v4 v5 : Int) : coefBits [v0, v1, v2, v3, v4, v5] = toBits 8 v0 + toBits 8 v1 * 2 ^ 8 +
    toBits 8 v2 * 2 ^ 16 + toBits 8 v3 * 2 ^ 24 + toBits 8 v4 * 2 ^ 32 + toBits 8 v5 * 2 ^ 40 := by
  have fold (f : Nat → Nat → Nat) : (List.range 6).foldl f 0 = f (f (f (f (f (f 0 0) 1) 2) 3) 4) 5 := rfl
  rw [coefBits, fold]
  simp only [List.getD_cons_zero, List.getD_cons_succ]
  rw [sixBytes]

/-- LN_TX_COEF holds six signed bytes as they are. -/
theorem coefsOf_coefBits {c : Coefs} (h : CoefBytes c) : coefsOf (coefBits c % 2 ^ 64) = c := by
  obtain ⟨hlen, hv⟩ := h
  obtain ⟨v0, v1, v2, v3, v4, v5, rfl⟩ : ∃ v0 v1 v2 v3 v4 v5, c = [v0, v1, v2, v3, v4, v5] := by
    match c, hlen with
    | [v0, v1, v2, v3, v4, v5], _ => exact ⟨v0, v1, v2, v3, v4, v5, rfl⟩
  have byte {v : Int} (hm : v ∈ [v0, v1, v2, v3, v4, v5]) : toBits 8 v < 256 ∧ ∀ n k, n = toBits 8 v + 256 * k → sext 8 n = v :=
    ⟨toBits_lt v, fun _ _ hn => sext_toBits (hv v hm) hn⟩
  obtain ⟨b0, r0⟩ := byte (v := v0) (by simp)
  obtain ⟨b1, r1⟩ := byte (v := v1) (by simp)
  obtain ⟨b2, r2⟩ := byte (v := v2) (by simp)
  obtain ⟨b3, r3⟩ := byte (v := v3) (by simp)
  obtain ⟨b4, r4⟩ := byte (v := v4) (by simp)
  obtain ⟨b5, r5⟩ := byte (v := v5) (by simp)
  rw [coefBits_eq]
  generalize toBits 8 v0 = n0 at *
  generalize toBits 8 v1 = n1 at *
  generalize toBits 8 v2 = n2 at *
  generalize toBits 8 v3 = n3 at *
  generalize toBits 8 v4 = n4 at *
  generalize toBits 8 v5 = n5 at *
  rw [coefsOf, r0 _ (n1 + n2 * 2 ^ 8 + n3 * 2 ^ 16 + n4 * 2 ^ 24 + n5 * 2 ^ 32) (by omega),
    r1 _ (n2 + n3 * 2 ^ 8 + n4 * 2 ^ 16 + n5 * 2 ^ 24) (by omega), r2 _ (n3 + n4 * 2 ^ 8 + n5 * 2 ^ 16) (by omega),
    r3 _ (n4 + n5 * 2 ^ 8) (by omega), r4 _ n5 (by omega), r5 _ 0 (by omega)]

theorem State.rd64_wr64 (s : State) (b a v : Nat) : (s.wr64 b a v).rd64 b a = v % 2 ^ 64 := by
  rw [State.rd64, State.wr64, State.rd_wr_same, State.rd_wr_addr _ _ _ _ _ (by omega), State.rd_wr_same, pairOf_halves]

theorem State.coefs_setCoefs (s : State) (l : Nat) {c : Coefs} (h : CoefBytes c) : (s.setCoefs l c).coefs l = c := by
  rw [State.coefs, State.setCoefs, State.rd64_wr64, coefsOf_coefBits h]

/-- The coefficients read two registers. -/
theorem State.coefs_of_rd {s u : State} {l : Nat} (h8 : u.rd 0 (lnA l 0x08) = s.rd 0 (lnA l 0x08))
    (hC : u.rd 0 (lnA l 0x0C) = s.rd 0 (lnA l 0x0C)) : u.coefs l = s.coefs l :=
  congrArg₂ (fun lo hi => coefsOf (pairOf lo hi)) h8 hC

theorem State.Wrote.setCoefs {s u : State} {K : Nat → Prop} (h : s.Wrote u K) {l : Nat} (h8 : K (regKey 0 (lnA l 0x08)))
    (hC : K (regKey 0 (lnA l 0x0C))) (c : Coefs) : s.Wrote (u.setCoefs l c) K := h.wr64 h8 hC _

theorem State.Wrote.startCoefs {s u : State} {K : Nat → Prop} (h : s.Wrote u K) {l : Nat} (h8 : K (regKey 0 (lnA l 0x08)))
    (hC : K (regKey 0 (lnA l 0x0C))) : s.Wrote (u.startCoefs l) K := (h.setCoefs h8 hC _).ite h _

theorem State.Wrote.clauseCoefs {s u : State} {K : Nat → Prop} (h : s.Wrote u K) {l : Nat} (h8 : K (regKey 0 (lnA l 0x08)))
    (hC : K (regKey 0 (lnA l 0x0C))) : s.Wrote (u.clauseCoefs l) K := (h.fresh 48).setCoefs h8 hC _

/-- The registers of a lane's coefficients. -/
def CoefKey (l k : Nat) : Prop := k = regKey 0 (lnA l 0x08) ∨ k = regKey 0 (lnA l 0x0C)

theorem not_coefKey {l m off : Nat} (ho : off < 0x80) (h8 : off ≠ 0x08) (hC : off ≠ 0x0C) : ¬CoefKey l (regKey 0 (lnA m off)) := by
  rw [CoefKey, regKey_lnA, regKey_lnA, regKey_lnA]
  omega

theorem State.startCoefs_wrote (s : State) (l : Nat) : s.Wrote (s.startCoefs l) (CoefKey l) :=
  (State.Wrote.refl s _).startCoefs (.inl rfl) (.inr rfl)

theorem State.clauseCoefs_wrote (s : State) (l : Nat) : s.Wrote (s.clauseCoefs l) (CoefKey l) :=
  (State.Wrote.refl s _).clauseCoefs (.inl rfl) (.inr rfl)

theorem State.setCoefs_wrote (s : State) (l : Nat) (c : Coefs) : s.Wrote (s.setCoefs l c) (CoefKey l) :=
  (State.Wrote.refl s _).setCoefs (.inl rfl) (.inr rfl) c

@[simp] theorem State.lnState_startCoefs (s : State) (l m : Nat) : (s.startCoefs l).lnState m = s.lnState m :=
  State.lnState_of_rd ((s.startCoefs_wrote l).rd (not_coefKey (by omega) (by omega) (by omega)))

@[simp] theorem State.lnState_clauseCoefs (s : State) (l m : Nat) : (s.clauseCoefs l).lnState m = s.lnState m :=
  State.lnState_of_rd ((s.clauseCoefs_wrote l).rd (not_coefKey (by omega) (by omega) (by omega)))

@[simp] theorem State.lnState_setCoefs (s : State) (l : Nat) (c : Coefs) (m : Nat) : (s.setCoefs l c).lnState m = s.lnState m :=
  State.lnState_of_rd ((s.setCoefs_wrote l c).rd (not_coefKey (by omega) (by omega) (by omega)))

theorem State.startCoefs_lanes (s : State) (l : Nat) : (s.startCoefs l).lanes = s.lanes := by
  unfold State.startCoefs
  split <;> rfl

theorem State.lane_setLane_same (s : State) (l : Nat) (r : LaneRec) : (s.setLane l r).lane l = r := Tab.get_put_same _ _ _ _

theorem State.lane_of_lanes {s u : State} (h : u.lanes = s.lanes) (l : Nat) : u.lane l = s.lane l :=
  congrArg (Tab.get (fun _ => LaneRec.idle) · l) h

/-! ### Attempts -/

/-- The log of an attempt is LN_TRAIN_LOG with its RESULT. -/
theorem State.logAttempt_eq (s : State) (l res : Nat) :
    ∃ v, s.logAttempt l res = s.wr 0 (lnA l 0x50) v ∧ fld v 0 4 = res % 16 := by
  refine ⟨_, rfl, ?_⟩
  rw [fld_setFld_below _ _ _ _ _ _ (by omega) (by omega), fld_setFld_below _ _ _ _ _ _ (by omega) (by omega),
    fld_setFld_same _ _ _ _ (by omega)]
  rfl

theorem State.Wrote.logAttempt {s u : State} {K : Nat → Prop} (h : s.Wrote u K) {l : Nat} (hk : K (regKey 0 (lnA l 0x50)))
    (res : Nat) : s.Wrote (u.logAttempt l res) K := h.wr hk _

@[simp] theorem State.lnState_logAttempt (s : State) (l res m : Nat) : (s.logAttempt l res).lnState m = s.lnState m :=
  s.lnState_wr_ln l _ m (by omega) (by omega)

/-- A new attempt, as a run of the shared operations. -/
theorem State.beginAttempt_eq (s : State) (l n : Nat) (first : Bool) : s.beginAttempt l n first =
    ((((((s.wr 0 (lnA l 0x54) 0).wrF 0 (lnA l 0x04) 12 2 n).wrF 0 (lnA l 0x04) 4 2
      (if s.blkMode (l / 8) = 1 ∧ s.trainMan (l / 8) = true then s.maxStep (l / 8) else 0)).wrF 0 (lnA l 0x04) 8 2 0).setLane l
      { (s.lane l).again with first := first, agreed := s.maxStep (l / 8) }).startCoefs l).setLnState l 1 := rfl

theorem State.Wrote.beginAttempt {s u : State} {b : Nat} (h : s.Wrote u (LaneMoves b)) {l : Nat} (hl : l / 8 = b) (n : Nat)
    (first : Bool) :
    s.Wrote (u.beginAttempt l n first) (LaneMoves b) := by
  have hln {off : Nat} (ho : off ∈ [0x04, 0x08, 0x0C, 0x54]) := laneMoves_ln hl ho
  have hst := hln (off := 0x04) (by decide)
  rw [State.beginAttempt_eq]
  exact ((((((h.wr (hln (by decide)) _).wrF hst _ _ _).wrF hst _ _ _).wrF hst _ _ _).setLane _ _).startCoefs (hln (by decide))
    (hln (by decide))).setLnState hst (hl ▸ laneMoves_blkStatus _) _

@[simp] theorem State.lnState_beginAttempt (s : State) (l n : Nat) (first : Bool) (m : Nat) :
    (s.beginAttempt l n first).lnState m = if m = l then 1 else s.lnState m := by
  simp [State.beginAttempt_eq]

theorem State.lane_beginAttempt (s : State) (l n : Nat) (first : Bool) :
    (s.beginAttempt l n first).lane l = { (s.lane l).again with first := first, agreed := s.maxStep (l / 8) } := by
  rw [State.beginAttempt_eq]
  exact (State.lane_of_lanes (State.startCoefs_lanes _ l) l).trans (State.lane_setLane_same _ _ _)

/-- LN_STATUS before the move: the attempt's number and step, with the lock bits clear. -/
theorem State.beginAttempt_fields (s : State) (l n : Nat) (first : Bool) : (s.beginAttempt l n first).attempt l = n % 4 ∧
    (s.beginAttempt l n first).lnStep l =
      if s.blkMode (l / 8) = 1 ∧ s.trainMan (l / 8) = true then s.maxStep (l / 8) else 0 := by
  have hstep : (if s.blkMode (l / 8) = 1 ∧ s.trainMan (l / 8) = true then s.maxStep (l / 8) else 0) < 4 := by
    split
    · exact fld_lt _ _ _
    · omega
  rw [State.beginAttempt_eq]
  generalize (if s.blkMode (l / 8) = 1 ∧ s.trainMan (l / 8) = true then s.maxStep (l / 8) else 0) = step at hstep ⊢
  simp only [State.attempt, State.lnStep, State.rdF]
  rw [State.setLnState_field _ _ _ (by omega), State.setLnState_field _ _ _ (by omega),
    (State.startCoefs_wrote _ l).rd (not_coefKey (by omega) (by omega) (by omega))]
  simp only [State.setLane_rd, State.wrF, State.rd_wr_same]
  rw [fld_setFld_other _ _ _ _ _ _ (by omega) (by omega), fld_setFld_other _ _ _ _ _ _ (by omega) (by omega),
    fld_setFld_same _ _ _ _ (by omega), fld_setFld_other _ _ _ _ _ _ (by omega) (by omega), fld_setFld_same _ _ _ _ (by omega)]
  exact ⟨rfl, Nat.mod_eq_of_lt hstep⟩

/-- No lane enters MISSION by a new attempt. -/
theorem State.mission_beginAttempt {s : State} {l m : Nat} (n : Nat) (first : Bool) (h : s.mission m = false) :
    (s.beginAttempt l n first).mission m = false := by
  rw [State.beginAttempt_eq]
  refine State.mission_setLnState (by omega) ?_
  rw [State.mission, (State.startCoefs_wrote _ l).rd (not_coefKey (by omega) (by omega) (by omega)), State.setLane_rd]
  by_cases e : m = l
  · subst e
    simp only [State.wrF, State.rd_wr_same]
    rw [bitOf_setFld_other _ _ _ _ _ (by omega) (by omega), bitOf_setFld_other _ _ _ _ _ (by omega) (by omega),
      bitOf_setFld_other _ _ _ _ _ (by omega) (by omega), State.rd_wr_other _ _ _ _ _ _ (lnA_ne_off (by omega) m)]
    exact h
  · have other (off : Nat) (ho : off < 0x80) : regKey 0 (lnA m 0x04) ≠ regKey 0 (lnA l off) := lnA_ne_lane e (by omega) ho
    rw [State.rd_wrF_other _ _ _ _ _ _ _ _ (other _ (by omega)), State.rd_wrF_other _ _ _ _ _ _ _ _ (other _ (by omega)),
      State.rd_wrF_other _ _ _ _ _ _ _ _ (other _ (by omega)), State.rd_wr_other _ _ _ _ _ _ (other _ (by omega))]
    exact h

/-! ### Loops over lanes -/

/-- A loop in which each round moves its own lane alone, by a rule g that looks at the lane's state, and keeps I. -/
theorem forEach_lnState {I : State → Prop} {f : Nat → State → State} {g : Nat → Nat → Nat} {ls : List Nat} (hnd : ls.Nodup)
    (hI : ∀ x ∈ ls, ∀ u, I u → I (f x u))
    (hf : ∀ x ∈ ls, ∀ u, I u → ∀ m, m < 384 → (f x u).lnState m = if m = x then g x (u.lnState x) else u.lnState m)
    {s : State} (hs : I s) {m : Nat} (hm : m < 384) :
    (forEach ls f s).lnState m = if m ∈ ls then g m (s.lnState m) else s.lnState m := by
  unfold forEach
  induction ls generalizing s with
  | nil => simp
  | cons x r ih =>
    obtain ⟨hx, hr⟩ := List.nodup_cons.mp hnd
    rw [List.foldl_cons, ih hr (fun y hy => hI y (List.mem_cons_of_mem _ hy)) (fun y hy => hf y (List.mem_cons_of_mem _ hy))
      (hI x List.mem_cons_self s hs), hf x List.mem_cons_self s hs m hm]
    by_cases e : m = x
    · subst e
      simp [hx]
    · simp [e]

theorem mem_blockLanes {b l : Nat} : l ∈ blockLanes b ↔ l / 8 = b := by
  simp only [blockLanes, List.mem_map, List.mem_range]
  constructor
  · rintro ⟨i, hi, rfl⟩
    omega
  · rintro rfl
    exact ⟨l % 8, by omega, by omega⟩

theorem blockLanes_nodup (b : Nat) : (blockLanes b).Nodup :=
  List.Nodup.map (fun _ _ h => by simpa using h) List.nodup_range

theorem State.mem_portLanes {s : State} {b p l : Nat} (h : l ∈ s.portLanes b p) : l / 8 = b := by
  simp only [State.portLanes, List.mem_filter, List.mem_map, List.mem_range, decide_eq_true_eq] at h
  obtain ⟨⟨i, -, rfl⟩, hlt⟩ := h
  generalize p * lanesPerPort (s.econf b) = q at hlt ⊢
  omega

theorem State.portLanes_nodup (s : State) (b p : Nat) : (s.portLanes b p).Nodup :=
  (List.Nodup.map (fun _ _ h => by simpa using h) List.nodup_range).filter _

/-- The ports of a block and their lanes follow PORT.BLK_CFG. -/
theorem State.portLanes_congr {s u : State} {b : Nat} (h : u.econf b = s.econf b) (p : Nat) : u.portLanes b p = s.portLanes b p := by
  unfold State.portLanes
  rw [h]

/-! ### Port framing -/

theorem State.Wrote.incSat {s u : State} {K : Nat → Prop} (h : s.Wrote u K) {b a : Nat} (hk : K (regKey b a)) (n : Nat) :
    s.Wrote (u.incSat b a n) K := h.wr hk _

/-- Setting a field of LN_STATUS in every lane of a list of the block's lanes. -/
theorem State.Wrote.statusLoop {s u : State} {b : Nat} (h : s.Wrote u (LaneMoves b)) {ls : List Nat} (hls : ∀ l ∈ ls, l / 8 = b)
    (lo n v : Nat) : s.Wrote (Machine.forEach ls (fun l s => s.wrF 0 (lnA l 0x04) lo n v) u) (LaneMoves b) :=
  h.forEach fun l hl _ hv => hv.wrF (laneMoves_ln (hls l hl) (by decide)) _ _ _

theorem State.lnState_statusLoop (s : State) (ls : List Nat) {lo n : Nat} (v m : Nat) (h : 4 ≤ lo) (hn : lo + n ≤ 32) :
    (Machine.forEach ls (fun l s => s.wrF 0 (lnA l 0x04) lo n v) s).lnState m = s.lnState m :=
  forEach_keeps (P := fun u => u.lnState m = s.lnState m) ls (fun l _ u hu => (u.lnState_wrF l v m h hn).trans hu) rfl

theorem State.lnState_raiseOwned {b : Nat} (hb : b < 48) (s : State) (e m : Nat) :
    (s.raiseOwned (pPort b) e).lnState m = s.lnState m := by
  refine State.lnState_of_rd (State.raiseOwned_rd hb s e ?_ ?_) <;>
  · rw [regKey_lnA, regKey_portA]
    omega

theorem State.Wrote.raisePort {s u : State} {b : Nat} (h : s.Wrote u (LaneMoves b)) (hb : b < 48) (e : Nat) :
    s.Wrote (u.raiseOwned (pPort b) e) (LaneMoves b) := h.raiseOwned hb (laneMoves_port b (by decide)) (laneMoves_port b (by decide)) e

/-- What a port's link going down leaves, when it was up. -/
theorem State.ethDown_up {s : State} {b p : Nat} (h : s.ethUp b p = true) : s.ethDown b p =
    ((Machine.forEach (s.portLanes b p) (fun l s => s.wrF 0 (lnA l 0x04) 11 1 0) (s.wr 0 (portA b 0x058)
      (setFld (setFld (setFld (s.rd 0 (portA b 0x058)) p 1 0) (16 + p) 1 0) (24 + p) 1 0))).incSat 0 (portCtr b p 0x28) 1).raiseOwned
        (pPort b) 0 := by
  unfold State.ethDown
  rw [if_pos h]

theorem State.ethDown_idle {s : State} {b p : Nat} (h : s.ethUp b p = false) : s.ethDown b p = s := by
  unfold State.ethDown
  rw [if_neg (by simp [h])]

theorem State.ethDown_wrote (s : State) {b p : Nat} (hb : b < 48) (hp : p < 8) : s.Wrote (s.ethDown b p) (LaneMoves b) := by
  cases h : s.ethUp b p with
  | false =>
    rw [State.ethDown_idle h]
    exact .refl s _
  | true =>
    rw [State.ethDown_up h]
    exact ((((State.Wrote.refl s _).wr (laneMoves_port b (by decide)) _).statusLoop (fun _ => State.mem_portLanes) _ _ _).incSat
      (laneMoves_portCtr b hp (by omega)) _).raisePort hb _

theorem State.lnState_ethDown (s : State) {b p m : Nat} (hb : b < 48) (hm : m < 384) : (s.ethDown b p).lnState m = s.lnState m := by
  cases h : s.ethUp b p with
  | false => rw [State.ethDown_idle h]
  | true =>
    rw [State.ethDown_up h, State.lnState_raiseOwned hb, State.incSat, portCtr, State.lnState_wr_port _ _ _ hm,
      State.lnState_statusLoop _ _ _ _ (by omega) (by omega), State.lnState_wr_port _ _ _ hm]

theorem State.epvShed_wrote (s : State) {l : Nat} (hl : l < 384) : s.Wrote (s.epvShed l) (LaneMoves (l / 8)) :=
  ((((((State.Wrote.refl s _).wrF (laneMoves_port _ (by decide)) _ _ _).wrF (laneMoves_blkStatus _) _ _ _).wrF
    (laneMoves_ln rfl (by decide)) _ _ _).setEpv _ _).incSat (laneMoves_portCtr _ (by omega) (by omega)) _).raisePort (by omega) _

theorem State.lnState_epvShed (s : State) {l m : Nat} (hl : l < 384) (hm : m < 384) : (s.epvShed l).lnState m = s.lnState m := by
  unfold State.epvShed
  rw [State.lnState_raiseOwned (by omega), State.incSat, portCtr, State.lnState_wr_port _ _ _ hm, State.lnState_setEpv,
    State.lnState_wrF _ _ _ _ (by omega) (by omega), State.wrF, State.lnState_wr_blk _ _ _ _ (by omega), State.wrF,
    State.lnState_wr_port _ _ _ hm]

theorem State.epvLinkDown_wrote (s : State) {b : Nat} (hb : b < 48) : s.Wrote (s.epvLinkDown b) (LaneMoves b) :=
  have loop := (((State.Wrote.refl s (LaneMoves b)).wr (laneMoves_port b (by decide)) _).setEpv _ _).statusLoop
    (fun _ => mem_blockLanes.mp) 11 1 0
  (loop.raisePort hb _).ite loop _

theorem State.lnState_epvLinkDown (s : State) {b m : Nat} (hb : b < 48) (hm : m < 384) : (s.epvLinkDown b).lnState m = s.lnState m := by
  have loop (u : State) : (Machine.forEach (blockLanes b) (fun l s => s.wrF 0 (lnA l 0x04) 11 1 0) u).lnState m = u.lnState m :=
    State.lnState_statusLoop _ _ _ _ (by omega) (by omega)
  unfold State.epvLinkDown
  dsimp only
  split
  · rw [State.lnState_raiseOwned hb, loop, State.lnState_setEpv, State.lnState_wr_port _ _ _ hm]
  · rw [loop, State.lnState_setEpv, State.lnState_wr_port _ _ _ hm]

theorem State.portOfLane_lt (s : State) (l : Nat) : s.portOfLane l < 8 :=
  Nat.lt_of_le_of_lt (Nat.div_le_self _ _) (Nat.mod_lt _ (by omega))

/-- Port framing drops a lane by one of three ways, or knows nothing of it. -/
theorem State.framingLost_cases (s : State) (l : Nat) : s.framingLost l = s.epvShed l ∨ s.framingLost l = s.epvDown l ∨
    s.framingLost l = s.ethDown (l / 8) (s.portOfLane l) ∨ s.framingLost l = s := by
  unfold State.framingLost
  dsimp only
  split
  · split
    · exact .inl rfl
    · exact .inr (.inl rfl)
  · split
    · exact .inr (.inr (.inl rfl))
    · exact .inr (.inr (.inr rfl))

theorem State.framingLost_wrote (s : State) {l : Nat} (hl : l < 384) : s.Wrote (s.framingLost l) (LaneMoves (l / 8)) := by
  rcases s.framingLost_cases l with h | h | h | h <;> rw [h]
  · exact s.epvShed_wrote hl
  · exact (s.epvShed_wrote hl).trans (State.epvLinkDown_wrote _ (by omega))
  · exact s.ethDown_wrote (by omega) (s.portOfLane_lt l)
  · exact .refl s _

/-- Port framing moves no lane. -/
theorem State.lnState_framingLost (s : State) {l m : Nat} (hl : l < 384) (hm : m < 384) : (s.framingLost l).lnState m = s.lnState m := by
  rcases s.framingLost_cases l with h | h | h | h <;> rw [h]
  · exact s.lnState_epvShed hl hm
  · exact (State.lnState_epvLinkDown _ (by omega) hm).trans (s.lnState_epvShed hl hm)
  · exact s.lnState_ethDown (by omega) hm

/-! ### Configuration registers -/

/-- No operation on a lane writes a configuration register of its block, its lanes or its port. -/
theorem State.Wrote.blkReg {s u : State} {b : Nat} (h : s.Wrote u (LaneWork b)) (hb : b < 48) {off : Nat} (ho : off < 0x100)
    (hn : off ∉ [0x018, 0x048, 0x04C]) : u.rd 0 (laneA b off) = s.rd 0 (laneA b off) := h.rd (not_laneWork_blk hb ho hn)

theorem State.Wrote.portReg {s u : State} {b : Nat} (h : s.Wrote u (LaneWork b)) (hb : b < 48) {off : Nat} (ho : off < 0x100)
    (hn : off ∉ [0x018, 0x048, 0x058, 0x064]) : u.rd 0 (portA b off) = s.rd 0 (portA b off) := h.rd (not_laneWork_port hb ho hn)

theorem State.Wrote.lnReg {s u : State} {b : Nat} (h : s.Wrote u (LaneWork b)) {l : Nat} (hl : l < 384) {off : Nat} (ho : off < 0x80)
    (hn : off ∉ [0x04, 0x08, 0x0C, 0x54, 0x10, 0x48, 0x50]) : u.rd 0 (lnA l off) = s.rd 0 (lnA l off) :=
  h.rd (not_laneWork_ln hl ho hn)

theorem State.Wrote.blkMode {s u : State} {b : Nat} (h : s.Wrote u (LaneWork b)) (hb : b < 48) : u.blkMode b = s.blkMode b :=
  congrArg (fld · 0 3) (h.blkReg hb (by omega) (by decide))

theorem State.Wrote.trainMan {s u : State} {b : Nat} (h : s.Wrote u (LaneWork b)) (hb : b < 48) : u.trainMan b = s.trainMan b :=
  congrArg (bitOf · 9) (h.blkReg hb (by omega) (by decide))

theorem State.Wrote.maxStep {s u : State} {b : Nat} (h : s.Wrote u (LaneWork b)) (hb : b < 48) : u.maxStep b = s.maxStep b :=
  congrArg (fld · 4 2) (h.blkReg hb (by omega) (by decide))

theorem State.Wrote.autoRetrain {s u : State} {b : Nat} (h : s.Wrote u (LaneWork b)) (hb : b < 48) :
    u.autoRetrain b = s.autoRetrain b :=
  congrArg (bitOf · 8) (h.blkReg hb (by omega) (by decide))

theorem State.Wrote.portType {s u : State} {b : Nat} (h : s.Wrote u (LaneWork b)) (hb : b < 48) : u.portType b = s.portType b :=
  congrArg (fld · 0 2) (h.portReg hb (by omega) (by decide))

theorem State.Wrote.econf {s u : State} {b : Nat} (h : s.Wrote u (LaneWork b)) (hb : b < 48) : u.econf b = s.econf b :=
  congrArg (fld · 4 3) (h.portReg hb (by omega) (by decide))

theorem State.Wrote.lnEn {s u : State} {b : Nat} (h : s.Wrote u (LaneWork b)) {l : Nat} (hl : l < 384) : u.lnEn l = s.lnEn l :=
  congrArg (bitOf · 0) (h.lnReg hl (by omega) (by decide))

/-! ### Retrains and losses -/

theorem State.mem_trainsWith {s : State} {l m : Nat} (h : m ∈ s.trainsWith l) : m / 8 = l / 8 := by
  unfold State.trainsWith at h
  split at h
  · exact State.mem_portLanes (List.mem_of_mem_filter h)
  · rw [List.mem_singleton.mp h]

theorem State.trainsWith_nodup (s : State) (l : Nat) : (s.trainsWith l).Nodup := by
  unfold State.trainsWith
  split
  · exact (s.portLanes_nodup _ _).filter _
  · exact List.nodup_singleton l

/-- The lanes that retrain together depend on PORT.BLK_CFG and on which lanes are OFF. -/
theorem State.trainsWith_congr {s u : State} {l : Nat} (hl : l < 384) (ht : u.portType (l / 8) = s.portType (l / 8))
    (he : u.econf (l / 8) = s.econf (l / 8)) (hoff : ∀ m, m < 384 → (u.lnState m = 0 ↔ s.lnState m = 0)) :
    u.trainsWith l = s.trainsWith l := by
  unfold State.trainsWith State.portOfLane
  rw [ht, he, State.portLanes_congr he]
  split
  · refine List.filter_congr fun m hm => ?_
    have := State.mem_portLanes hm
    have := hoff m (by omega)
    rw [Bool.eq_iff_iff, bne_iff_ne, bne_iff_ne]
    exact not_congr this
  · rfl

theorem State.beginAttempt_wrote (s : State) (l n : Nat) (first : Bool) : s.Wrote (s.beginAttempt l n first) (LaneMoves (l / 8)) :=
  (State.Wrote.refl s _).beginAttempt rfl n first

theorem State.beginRetrain_wrote (s : State) (l : Nat) : s.Wrote (s.beginRetrain l) (LaneMoves (l / 8)) :=
  (State.Wrote.refl s _).forEach fun _ hm _ hv => hv.beginAttempt (State.mem_trainsWith hm) _ _

theorem State.lnState_beginRetrain (s : State) (l : Nat) {m : Nat} (hm : m < 384) :
    (s.beginRetrain l).lnState m = if m ∈ s.trainsWith l then 1 else s.lnState m :=
  forEach_lnState (I := fun _ => True) (g := fun _ _ => 1) (s.trainsWith_nodup l) (fun _ _ _ _ => trivial)
    (fun x _ u _ m _ => u.lnState_beginAttempt x 1 false m) trivial hm

/-- A lane lost, before any retrain. -/
def State.laneDropped (s : State) (l : Nat) : State := ((s.framingLost l).setLnState l 6).wrF 0 (lnA l 0x04) 8 1 0

theorem State.laneLost_eq (s : State) (l : Nat) : s.laneLost l =
    if s.autoRetrain (l / 8) = true then (s.laneDropped l).beginRetrain l else s.laneDropped l := rfl

theorem State.laneDropped_wrote (s : State) {l : Nat} (hl : l < 384) : s.Wrote (s.laneDropped l) (LaneMoves (l / 8)) :=
  ((s.framingLost_wrote hl).setLnState (laneMoves_ln rfl (by decide)) (laneMoves_blkStatus _) 6).wrF (laneMoves_ln rfl (by decide)) _ _ _

theorem State.lnState_laneDropped (s : State) {l m : Nat} (hl : l < 384) (hm : m < 384) :
    (s.laneDropped l).lnState m = if m = l then 6 else s.lnState m := by
  rw [State.laneDropped, State.lnState_wrF _ _ _ _ (by omega) (by omega), State.lnState_setLnState, s.lnState_framingLost hl hm]

theorem State.laneLost_wrote (s : State) {l : Nat} (hl : l < 384) : s.Wrote (s.laneLost l) (LaneMoves (l / 8)) := by
  rw [State.laneLost_eq]
  exact ((s.laneDropped_wrote hl).trans (State.beginRetrain_wrote _ l)).ite (s.laneDropped_wrote hl) _

/-- A lane that is not OFF is lost: it is LOST, or with AUTO_RETRAIN it retrains with those that retrain with it. -/
theorem State.lnState_laneLost {s : State} {l m : Nat} (hl : l < 384) (hs : s.lnState l ≠ 0) (hm : m < 384) : (s.laneLost l).lnState m =
    if s.autoRetrain (l / 8) = true ∧ m ∈ s.trainsWith l then 1 else if m = l then 6 else s.lnState m := by
  have frame := (s.laneDropped_wrote hl).work
  have together : (s.laneDropped l).trainsWith l = s.trainsWith l := by
    refine State.trainsWith_congr hl (frame.portType (by omega)) (frame.econf (by omega)) fun k hk => ?_
    rw [s.lnState_laneDropped hl hk]
    split
    next e =>
      rw [e]
      omega
    · rfl
  rw [State.laneLost_eq]
  cases s.autoRetrain (l / 8)
  · simp [s.lnState_laneDropped hl hm]
  · simp [State.lnState_beginRetrain _ l hm, together, s.lnState_laneDropped hl hm]

end Sys2Proof.Machine
end

section
/-!
PROOFS. Scope: bring-up of lanes. The events that move a lane from state to state.
-/
namespace Sys2Proof.Machine

/-! ### The frame of an event -/

/-- Every other lane is in the state that it was in, and no register outside the LANE and PORT pages of the lane's block, no table word
and no byte of memory has changed. -/
def State.laneFrame (s z : State) (l : Nat) : Prop :=
  s.onlyPages z [pLane (l / 8), pPort (l / 8)] ∧ ∀ m, m < 384 → m ≠ l → z.lnState m = s.lnState m

theorem State.Wrote.laneFrame {s z : State} {l : Nat} (h : s.Wrote z (LaneWork (l / 8))) (hl : l < 384)
    (ho : ∀ m, m < 384 → m ≠ l → z.lnState m = s.lnState m) : s.laneFrame z l :=
  ⟨h.onlyPages (laneWork_page (by omega)), ho⟩

/-- The frame of a change that is a move of lane l in the end. -/
theorem State.Wrote.moveFrame {s u : State} {l : Nat} (h : s.Wrote u (LaneWork (l / 8))) (hl : l < 384)
    (ho : ∀ m, u.lnState m = s.lnState m) (st : Nat) : s.laneFrame (u.setLnState l st) l :=
  (h.trans ((u.setLnState_wrote l st).mono fun k hk => by
    rcases hk with rfl | rfl
    · exact .inl (laneMoves_ln rfl (by decide))
    · exact .inl (laneMoves_blkStatus _))).laneFrame hl fun m _ hne => by
      rw [State.lnState_setLnState, if_neg hne, ho]

theorem State.setLnState_coefs (s : State) (l st : Nat) : (s.setLnState l st).coefs l = s.coefs l :=
  have kept {off : Nat} (h : off ≠ 4) (ho : off < 0x80) := (s.setLnState_wrote l st).rd (b := 0) (a := lnA l off)
    (not_or.mpr ⟨lnA_ne_off h l, lnA_ne_laneA ho (by omega) _ _⟩)
  State.coefs_of_rd (kept (by omega) (by omega)) (kept (by omega) (by omega))

theorem State.lane_setLnState (s : State) (l st m : Nat) : (s.setLnState l st).lane m = s.lane m := rfl

/-- The registers of a lane's own work, in which most of an event's changes lie. -/
theorem State.Wrote.status {s u : State} {l : Nat} (h : s.Wrote u (LaneWork (l / 8))) (lo n v : Nat) :
    s.Wrote (u.wrF 0 (lnA l 0x04) lo n v) (LaneWork (l / 8)) := h.wrF (.inl (laneMoves_ln rfl (by decide))) lo n v

theorem coefKey_work {l k : Nat} (h : CoefKey l k) : LaneWork (l / 8) k := by
  rcases h with rfl | rfl <;> exact .inl (laneMoves_ln rfl (by decide))

/-! ### SIGNAL_DETECT and STEP_UP_LOCK -/

/-- What a lane sends from when its signal is there: nothing under TRAIN_MAN, preset 1 with training frames, the clause's otherwise. -/
def State.trainCoefs (s : State) (l : Nat) : State :=
  if s.trainMan (l / 8) then s else if s.blkMode (l / 8) = 1 then s.setCoefs l (presetCoefs 1) else s.clauseCoefs l

theorem State.trainCoefs_wrote (s : State) (l : Nat) : s.Wrote (s.trainCoefs l) (CoefKey l) :=
  (State.Wrote.refl s _).ite ((s.setCoefs_wrote l _).ite (s.clauseCoefs_wrote l) _) _

theorem State.trainCoefs_lanes (s : State) (l : Nat) : (s.trainCoefs l).lanes = s.lanes := by
  unfold State.trainCoefs
  split
  · rfl
  · split <;> rfl

/-- A lane in WAIT_SIGNAL whose signal is there. -/
def State.signalFound (s : State) (l : Nat) : State := (s.wrF 0 (lnA l 0x04) 9 1 1).setLane l { s.lane l with start := s.beat }

theorem State.signalFound_wrote (s : State) (l : Nat) : s.Wrote (s.signalFound l) (LaneWork (l / 8)) :=
  ((State.Wrote.refl s _).status 9 1 1).setLane l _

theorem execSignalDetect_waiting {s : State} {l : Fin 384} (h : s.lnState l = 1) :
    exec (.signalDetect l) s = .next (((s.signalFound l).trainCoefs l).setLnState l 2) := by
  have cfg := s.signalFound_wrote l
  have hl := l.isLt
  unfold State.trainCoefs
  rw [cfg.trainMan (by omega), cfg.blkMode (by omega)]
  exact congrArg Host.Outcome.next (if_pos h)

theorem signalDetect_moves (s : State) {l : Nat} (hl : l < 384) :
    let z := ((s.signalFound l).trainCoefs l).setLnState l 2
    s.laneFrame z l ∧ z.lnState l = 2 ∧ (z.lane l).start = s.beat ∧
      (s.blkMode (l / 8) = 1 → s.trainMan (l / 8) = false → z.coefs l = presetCoefs 1) := by
  have found := s.signalFound_wrote l
  have sends := (s.signalFound l).trainCoefs_wrote l
  refine ⟨(found.trans (sends.mono fun _ => coefKey_work)).moveFrame hl (fun m => ?_) 2, ?_, ?_, fun hmode hman => ?_⟩
  · exact (State.lnState_of_rd (sends.rd (not_coefKey (by omega) (by omega) (by omega)))).trans
      (s.lnState_wrF l 1 m (by omega) (by omega))
  · rw [State.lnState_setLnState, if_pos rfl]
  · rw [State.lane_setLnState, State.lane_of_lanes (State.trainCoefs_lanes _ l) l, State.signalFound, State.lane_setLane_same]
  · rw [State.setLnState_coefs, State.trainCoefs, found.trainMan (by omega), found.blkMode (by omega), hmode, hman]
    exact State.coefs_setCoefs _ l (coefBytes_preset 1)

/-- A lane locked at the step above: LN_STATUS, preset 1, and a lane record with no request and no clean frame. -/
def State.steppedUp (s : State) (l : Nat) : State :=
  ((((s.wrF 0 (lnA l 0x04) 4 2 (s.lnStep l + 1)).wrF 0 (lnA l 0x04) 8 1 1).setCoefs l (presetCoefs 1)).setLane l
    { s.lane l with clean := 0, cmd := 0, sentFinal := 0, recvFinal := 0, req := none, echo := 0, result := 0, rxDone := false })

theorem execStepUpLock_stepping {s : State} {l : Fin 384} (h : s.lnState l = 3) :
    exec (.stepUpLock l) s = .next ((s.steppedUp l).setLnState l 2) := congrArg Host.Outcome.next (if_pos h)

theorem stepUpLock_moves (s : State) {l : Nat} (hl : l < 384) :
    let z := (s.steppedUp l).setLnState l 2
    s.laneFrame z l ∧ z.lnState l = 2 ∧ z.lnStep l = (s.lnStep l + 1) % 4 ∧ z.coefs l = presetCoefs 1 ∧ (z.lane l).clean = 0 ∧
      (z.lane l).req = none := by
  have work : s.Wrote (s.steppedUp l) (LaneWork (l / 8)) :=
    (((((State.Wrote.refl s _).status _ _ _).status _ _ _).setCoefs (coefKey_work (.inl rfl)) (coefKey_work (.inr rfl)) _).setLane _ _)
  have hlane : (s.steppedUp l).lane l = { s.lane l with
      clean := 0, cmd := 0, sentFinal := 0, recvFinal := 0, req := none, echo := 0, result := 0, rxDone := false } := by
    rw [State.steppedUp, State.lane_setLane_same]
  refine ⟨work.moveFrame hl (fun m => ?_) 2, ?_, ?_, ?_, ?_, ?_⟩
  · rw [State.steppedUp, State.lnState_setLane, State.lnState_setCoefs, State.lnState_wrF _ _ _ _ (by omega) (by omega),
      State.lnState_wrF _ _ _ _ (by omega) (by omega)]
  · rw [State.lnState_setLnState, if_pos rfl]
  · rw [State.lnStep, State.rdF, State.setLnState_field _ _ _ (by omega), State.steppedUp, State.setLane_rd,
      (State.setCoefs_wrote _ l _).rd (not_coefKey (by omega) (by omega) (by omega))]
    simp only [State.wrF, State.rd_wr_same]
    rw [fld_setFld_other _ _ _ _ _ _ (by omega) (by omega), fld_setFld_same _ _ _ _ (by omega)]
    rfl
  · rw [State.setLnState_coefs]
    exact State.coefs_setCoefs _ l (coefBytes_preset 1)
  · rw [State.lane_setLnState, hlane]
  · rw [State.lane_setLnState, hlane]

/-! ### Attempts that fail -/

/-- A failed attempt, logged and reported, before the lane moves on. -/
def State.attemptLogged (s : State) (l res : Nat) : State := (s.logAttempt l res).laneEvent (l / 8) (8 + l % 8) 1

theorem State.failAttempt_eq (s : State) (l res : Nat) : s.failAttempt l res =
    if s.attempt l < 3 then (s.attemptLogged l res).beginAttempt l (s.attempt l + 1) (s.lane l).first
    else (s.attemptLogged l res).setLnState l 7 := rfl

theorem State.attemptLogged_wrote (s : State) (l res : Nat) : s.Wrote (s.attemptLogged l res) (LaneWork (l / 8)) :=
  ((State.Wrote.refl s _).logAttempt (laneWork_ln rfl (by decide)) res).laneEvent (laneWork_blk _ (by decide))
    (laneWork_blk _ (by decide)) _ _

theorem State.failAttempt_wrote (s : State) (l res : Nat) : (s.attemptLogged l res).Wrote (s.failAttempt l res) (LaneMoves (l / 8)) := by
  rw [State.failAttempt_eq]
  exact (State.beginAttempt_wrote _ _ _ _).ite
    ((State.Wrote.refl _ _).setLnState (laneMoves_ln rfl (by decide)) (laneMoves_blkStatus _) _) _

theorem State.lnState_attemptLogged (s : State) (l res m : Nat) : (s.attemptLogged l res).lnState m = s.lnState m := by
  rw [State.attemptLogged, State.lnState_laneEvent, State.lnState_logAttempt]

theorem State.lnState_failAttempt (s : State) (l res m : Nat) :
    (s.failAttempt l res).lnState m = if m = l then (if s.attempt l < 3 then 1 else 7) else s.lnState m := by
  rw [State.failAttempt_eq]
  split <;> simp [State.lnState_attemptLogged]

/-- The report of a failed attempt: RESULT, the event of the lane with the others as they were, and no loss counted. -/
theorem State.failAttempt_reports (s : State) {l : Nat} (hl : l < 384) (res : Nat) :
    (s.failAttempt l res).rdF 0 (lnA l 0x50) 0 4 = res % 16 ∧
    (s.failAttempt l res).rd 0 (laneA (l / 8) 0x04C) = setFld (s.rd 0 (laneA (l / 8) 0x04C)) (8 + l % 8) 1 1 ∧
    (s.failAttempt l res).rd 0 (lnA l 0x48) = s.rd 0 (lnA l 0x48) := by
  have move := s.failAttempt_wrote l res
  obtain ⟨v, hlog, hres⟩ := s.logAttempt_eq l res
  rw [State.rdF, move.rd (not_laneMoves_ln hl (by omega) (by decide)), move.rd (not_laneMoves_blk (by omega) (by omega) (by omega)),
    move.rd (not_laneMoves_ln hl (by omega) (by decide)), State.attemptLogged, State.laneEvent_rd_ln _ _ _ (by omega),
    State.laneEvent_rd_event, State.laneEvent_rd_ln _ _ _ (by omega), hlog, State.rd_wr_same,
    State.rd_wr_other _ _ _ _ _ _ (lnA_ne_laneA (by omega) (by omega) _ _).symm, State.rd_wr_other _ _ _ _ _ _ (lnA_ne_off (by omega) l)]
  exact ⟨hres, rfl, rfl⟩

/-- An attempt of lane l has failed with a RESULT, since the state s: the next one begins, or the lane is FAILED after the third. -/
def State.attemptFailed (s z : State) (l res : Nat) : Prop :=
  s.laneFrame z l ∧ z.rdF 0 (lnA l 0x50) 0 4 = res ∧ bitOf (z.rd 0 (laneA (l / 8) 0x04C)) (8 + l % 8) = true ∧
    if s.attempt l < 3 then z.lnState l = 1 ∧ z.attempt l = s.attempt l + 1 ∧
      z.lnStep l = (if s.blkMode (l / 8) = 1 ∧ s.trainMan (l / 8) = true then s.maxStep (l / 8) else 0) else z.lnState l = 7

/-- An attempt that fails, in a state u whose lanes are those of s. -/
theorem State.Wrote.attemptFailed {s u : State} {l res : Nat} (h : s.Wrote u (LaneWork (l / 8))) (hl : l < 384) (hres : res < 16)
    (hst : ∀ m, u.rd 0 (lnA m 0x04) = s.rd 0 (lnA m 0x04)) : s.attemptFailed (u.failAttempt l res) l res := by
  have hst' (m : Nat) : u.lnState m = s.lnState m := State.lnState_of_rd (hst m)
  have hatt : u.attempt l = s.attempt l := congrArg (fld · 12 2) (hst l)
  obtain ⟨zres, zev, -⟩ := u.failAttempt_reports hl res
  refine ⟨(h.trans ((u.attemptLogged_wrote l res).trans (u.failAttempt_wrote l res).work)).laneFrame hl fun m _ hne => ?_,
    by rw [zres, Nat.mod_eq_of_lt hres], ?_, ?_⟩
  · rw [State.lnState_failAttempt, if_neg hne, hst']
  · rw [zev, bitOf_setFld_same _ _ _ (by omega)]
    rfl
  · have logged := h.trans (u.attemptLogged_wrote l res)
    rw [State.lnState_failAttempt, if_pos rfl, hatt, State.failAttempt_eq, hatt]
    split
    next hlt =>
      obtain ⟨zatt, zstep⟩ := (u.attemptLogged l res).beginAttempt_fields l (s.attempt l + 1) (u.lane l).first
      rw [zatt, zstep, logged.blkMode (by omega), logged.trainMan (by omega), logged.maxStep (by omega)]
      exact ⟨rfl, Nat.mod_eq_of_lt (by omega), rfl⟩
    · rfl

theorem State.failAttempt_failed (s : State) {l res : Nat} (hl : l < 384) (hres : res < 16) :
    s.attemptFailed (s.failAttempt l res) l res :=
  (State.Wrote.refl s _).attemptFailed hl hres fun _ => rfl

/-- A TRAIN_TIMEOUT in STEP_UP is a RELOCK within the limit of the attempt. -/
theorem execTrainTimeout_steppingUp {s : State} {l : Fin 384} (h : s.lnState l = 3) : exec (.trainTimeout l) s =
    .next (s.failAttempt l (if attemptLimit < s.beat - (s.lane l).start then 4 else 7)) :=
  congrArg Host.Outcome.next ((if_neg (by rw [h]; decide)).trans (if_pos h))

theorem execTapTimeout_waiting {s : State} {l : Fin 384} {q : TapReq} (hq : (s.lane l).req = some q) (ha : q.answered = false)
    (h : s.lnState l = 2) : exec (.tapTimeout l) s = .next (s.failAttempt l 3) := by
  refine congrArg Host.Outcome.next ?_
  rw [hq]
  exact if_pos ⟨h, by rw [ha]; rfl⟩

/-! ### Loss of lock -/

/-- A loss of lock has been counted and reported since the state s. -/
def State.lossCounted (s z : State) (l : Nat) : Prop :=
  z.rd 0 (lnA l 0x48) = wd (satAdd 32 (s.rd 0 (lnA l 0x48)).toNat 1) ∧ bitOf (z.rd 0 (laneA (l / 8) 0x04C)) (l % 8) = true

theorem State.reportLol_wrote (s : State) (l : Nat) : s.Wrote (s.reportLol l) (LaneWork (l / 8)) :=
  ((State.Wrote.refl s _).incSat (laneWork_ln rfl (by decide)) 1).laneEvent (laneWork_blk _ (by decide)) (laneWork_blk _ (by decide)) _ _

theorem State.reportLol_status (s : State) (l m : Nat) : (s.reportLol l).rd 0 (lnA m 0x04) = s.rd 0 (lnA m 0x04) := by
  rw [State.reportLol, State.laneEvent_rd_ln _ _ _ (by omega), State.incSat,
    State.rd_wr_other _ _ _ _ _ _ (by rw [regKey_lnA, regKey_lnA]; omega)]

theorem State.reportLol_counted (s : State) (l : Nat) : s.lossCounted (s.reportLol l) l := by
  constructor
  · rw [State.reportLol, State.laneEvent_rd_ln _ _ _ (by omega), State.incSat, State.rd_wr_same]
  · rw [State.reportLol, State.laneEvent_rd_event, bitOf_setFld_same _ _ _ (by omega)]
    rfl

/-- What writes neither the count nor the lane's bit of the event keeps the report. -/
theorem State.lossCounted_of {s u z : State} {l : Nat} (h : s.lossCounted u l) (hn : z.rd 0 (lnA l 0x48) = u.rd 0 (lnA l 0x48))
    (he : bitOf (z.rd 0 (laneA (l / 8) 0x04C)) (l % 8) = bitOf (u.rd 0 (laneA (l / 8) 0x04C)) (l % 8)) : s.lossCounted z l :=
  ⟨hn.trans h.1, he.trans h.2⟩

theorem lossOfLock_hold {s : State} {l : Nat} (hl : l < 384) (h : s.lnState l = 4) :
    s.attemptFailed (s.lossOfLock l) l 5 ∧ s.lossCounted (s.lossOfLock l) l := by
  have e : s.lossOfLock l = (s.reportLol l).failAttempt l 5 := by simp [State.lossOfLock, h]
  obtain ⟨-, zev, zcount⟩ := (s.reportLol l).failAttempt_reports hl 5
  rw [e]
  refine ⟨(s.reportLol_wrote l).attemptFailed hl (by omega) (s.reportLol_status l),
    State.lossCounted_of (s.reportLol_counted l) zcount ?_⟩
  rw [zev, bitOf_setFld_other _ _ _ _ _ (by omega) (by omega)]

theorem lossOfLock_ready {s : State} {l : Nat} (hl : l < 384) (h : s.lnState l = 5) :
    s.onlyPages (s.lossOfLock l) [pLane (l / 8), pPort (l / 8)] ∧ s.lossCounted (s.lossOfLock l) l ∧
    ∀ m, m < 384 → (s.lossOfLock l).lnState m =
      if s.autoRetrain (l / 8) = true ∧ m ∈ s.trainsWith l then 1 else if m = l then 6 else s.lnState m := by
  have e : s.lossOfLock l = (s.reportLol l).laneLost l := by simp [State.lossOfLock, h]
  have report := s.reportLol_wrote l
  have same (m : Nat) : (s.reportLol l).lnState m = s.lnState m := State.lnState_of_rd (s.reportLol_status l m)
  have lost := (s.reportLol l).laneLost_wrote hl
  rw [e]
  refine ⟨(report.trans lost.work).onlyPages (laneWork_page (by omega)), State.lossCounted_of (s.reportLol_counted l) ?_ ?_,
    fun m hm => ?_⟩
  · exact lost.rd (not_laneMoves_ln hl (by omega) (by decide))
  · rw [lost.rd (not_laneMoves_blk (by omega) (by omega) (by omega))]
  · rw [State.lnState_laneLost hl (by rw [same, h]; omega) hm, report.autoRetrain (by omega), same m,
      State.trainsWith_congr hl (report.portType (by omega)) (report.econf (by omega)) fun k _ => by rw [same]]

theorem lossOfLock_training {s : State} {l : Nat} (hl : l < 384) (h : s.lnState l = 2 ∨ s.lnState l = 3) :
    s.laneFrame (s.lossOfLock l) l ∧ s.lossCounted (s.lossOfLock l) l ∧ (s.lossOfLock l).lnState l = s.lnState l := by
  have e : s.lossOfLock l = (s.reportLol l).wrF 0 (lnA l 0x04) 8 1 0 := by
    rcases h with h | h <;> simp [State.lossOfLock, h]
  have same (m : Nat) : (s.lossOfLock l).lnState m = s.lnState m := by
    rw [e, State.lnState_wrF _ _ _ _ (by omega) (by omega)]
    exact State.lnState_of_rd (s.reportLol_status l m)
  refine ⟨?_, State.lossCounted_of (s.reportLol_counted l) ?_ ?_, same l⟩
  · rw [e] at same ⊢
    exact ((s.reportLol_wrote l).status _ _ _).laneFrame hl fun m _ _ => same m
  · rw [e, State.rd_wrF_other _ _ _ _ _ _ _ _ (lnA_ne_off (by omega) l)]
  · rw [e, State.rd_wrF_other _ _ _ _ _ _ _ _ (lnA_ne_laneA (by omega) (by omega) _ _).symm]

theorem lossOfLock_idle {s : State} {l : Nat} (h : s.lnState l < 2 ∨ 5 < s.lnState l) (hs : (s.lane l).shedAt ≠ some s.beat) :
    s.lossOfLock l = s := by
  unfold State.lossOfLock
  dsimp only
  rw [if_neg (by omega), if_neg (by omega), if_neg (by omega), if_neg hs]

/-! ### SNR and the receiver's lock -/

theorem State.noteSnr_wrote (s : State) (l snr : Nat) : s.Wrote (s.noteSnr l snr) fun k => k = regKey 0 (lnA l 0x10) :=
  ((State.Wrote.refl s fun k => k = regKey 0 (lnA l 0x10)).wrF rfl _ _ _).setLane _ _

theorem State.noteSnr_work (s : State) (l snr : Nat) : s.Wrote (s.noteSnr l snr) (LaneWork (l / 8)) :=
  (s.noteSnr_wrote l snr).mono fun k hk => by rw [hk]; exact laneWork_ln rfl (by decide)

theorem State.lnState_noteSnr (s : State) (l snr m : Nat) : (s.noteSnr l snr).lnState m = s.lnState m :=
  State.lnState_of_rd ((s.noteSnr_wrote l snr).rd (by rw [regKey_lnA, regKey_lnA]; omega))

theorem State.noteSnr_rd (s : State) (l : Nat) (snr : BitVec 16) : (s.noteSnr l snr.toNat).rdF 0 (lnA l 0x10) 0 16 = snr.toNat :=
  (s.rdF_wrF_same 0 (lnA l 0x10) 0 16 _ (by omega)).trans (Nat.mod_eq_of_lt snr.isLt)

theorem snrLow_reports (s : State) {l : Nat} (hl : l < 384) (snr : BitVec 16) :
    let z := (s.noteSnr l snr.toNat).laneEvent (l / 8) (16 + l % 8) 2
    s.laneFrame z l ∧ z.lnState l = s.lnState l ∧ z.rdF 0 (lnA l 0x10) 0 16 = snr.toNat ∧
      bitOf (z.rd 0 (laneA (l / 8) 0x04C)) (16 + l % 8) = true := by
  have same (m : Nat) : ((s.noteSnr l snr.toNat).laneEvent (l / 8) (16 + l % 8) 2).lnState m = s.lnState m := by
    rw [State.lnState_laneEvent, State.lnState_noteSnr]
  refine ⟨((s.noteSnr_work l _).laneEvent (laneWork_blk _ (by decide)) (laneWork_blk _ (by decide)) _ _).laneFrame hl fun m _ _ => same m,
    same l, ?_, ?_⟩
  · rw [State.rdF, State.laneEvent_rd_ln _ _ _ (by omega)]
    exact s.noteSnr_rd l snr
  · rw [State.laneEvent_rd_event, bitOf_setFld_same _ _ _ (by omega)]
    rfl

/-- A receiver that has gained lock, with the SNR reported. -/
def State.receiverLocked (s : State) (l snr : Nat) : State := (s.wrF 0 (lnA l 0x04) 8 1 1).noteSnr l snr

theorem State.receiverLocked_wrote (s : State) (l snr : Nat) : s.Wrote (s.receiverLocked l snr) (LaneWork (l / 8)) :=
  ((State.Wrote.refl s _).status 8 1 1).trans (State.noteSnr_work _ l snr)

theorem State.lnState_receiverLocked (s : State) (l snr m : Nat) : (s.receiverLocked l snr).lnState m = s.lnState m := by
  rw [State.receiverLocked, State.lnState_noteSnr, State.lnState_wrF _ _ _ _ (by omega) (by omega)]

theorem execReceiverLock_eq {s : State} {l : Fin 384} (snr : BitVec 16) (h0 : s.lnState l ≠ 0) (h7 : s.lnState l ≠ 7) :
    exec (.receiverLock l snr) s = .next (
      if (s.lane l).kept = true then ((s.receiverLocked l snr.toNat).setLane l { s.lane l with kept := false }).setLnState l 5
      else if s.trainMan (l / 8) = true ∧ (s.lnState l = 1 ∨ s.lnState l = 2) ∧ (s.blkMode (l / 8) ≠ 1 ∨ 191 ≤ snr.toNat) then
        ((s.receiverLocked l snr.toNat).logAttempt l 1).setLnState l 5
      else s.receiverLocked l snr.toNat) :=
  congrArg Host.Outcome.next (if_neg (not_or.mpr ⟨h0, h7⟩))

/-- LN_RX_STAT is no register that a move or a log writes. -/
theorem State.setLnState_rd_rx (s : State) (l st : Nat) : (s.setLnState l st).rd 0 (lnA l 0x10) = s.rd 0 (lnA l 0x10) :=
  (s.setLnState_wrote l st).rd (not_or.mpr ⟨lnA_ne_off (by omega) l, lnA_ne_laneA (by omega) (by omega) _ _⟩)

theorem receiverLock_moves {s : State} {l : Fin 384} (snr : BitVec 16) (h0 : s.lnState l ≠ 0) (h7 : s.lnState l ≠ 7) :
    s.completes (.receiverLock l snr) fun z => s.laneFrame z l ∧ z.rdF 0 (lnA l 0x10) 0 16 = snr.toNat ∧
      ((s.lane l).kept = true → z.lnState l = 5 ∧ (z.lane l).kept = false) ∧
      ((s.lane l).kept = false → s.trainMan (l / 8) = true → (s.lnState l = 1 ∨ s.lnState l = 2) →
        (s.blkMode (l / 8) ≠ 1 ∨ 191 ≤ snr.toNat) → z.lnState l = 5) := by
  have hl := l.isLt
  have work := s.receiverLocked_wrote l snr.toNat
  have same := s.lnState_receiverLocked l snr.toNat
  have hsnr : (s.receiverLocked l snr.toNat).rdF 0 (lnA l 0x10) 0 16 = snr.toNat := State.noteSnr_rd _ l snr
  refine ⟨_, execReceiverLock_eq snr h0 h7, ?_⟩
  split
  next hk =>
    refine ⟨(work.setLane l _).moveFrame hl same 5, ?_, fun _ => ⟨?_, ?_⟩, fun hn => absurd hk (by simp [hn])⟩
    · rw [State.rdF, State.setLnState_rd_rx]
      exact hsnr
    · rw [State.lnState_setLnState, if_pos rfl]
    · rw [State.lane_setLnState, State.lane_setLane_same]
  next hk =>
    split
    next hman =>
      refine ⟨(work.logAttempt (laneWork_ln rfl (by decide)) 1).moveFrame hl (fun m => ?_) 5, ?_, fun h => absurd h hk, fun _ _ _ _ => ?_⟩
      · rw [State.lnState_logAttempt, same]
      · obtain ⟨v, hlog, -⟩ := (s.receiverLocked l snr.toNat).logAttempt_eq l 1
        rw [State.rdF, State.setLnState_rd_rx, hlog, State.rd_wr_other _ _ _ _ _ _ (lnA_ne_off (by omega) _)]
        exact hsnr
      · rw [State.lnState_setLnState, if_pos rfl]
    next hman =>
      exact ⟨work.laneFrame hl fun m _ _ => same m, hsnr, fun h => absurd h hk, fun _ ht hst hq => absurd ⟨ht, hst, hq⟩ hman⟩

theorem relockTimeout_begins {s : State} {l : Fin 384} (h : (s.lane l).kept = true) :
    s.completes (.relockTimeout l) fun z => s.laneFrame z l ∧ z.lnState l = 1 ∧ z.attempt l = 1 ∧ (z.lane l).kept = false ∧
      (z.lane l).first = false := by
  obtain ⟨zatt, -⟩ := (s.setLane l { s.lane l with kept := false }).beginAttempt_fields l 1 false
  have zlane := (s.setLane l { s.lane l with kept := false }).lane_beginAttempt l 1 false
  refine ⟨_, congrArg Host.Outcome.next (if_pos h), ?_, ?_, zatt, by rw [zlane]; rfl, by rw [zlane]⟩
  · refine (((State.Wrote.refl s _).setLane _ _).beginAttempt rfl 1 false).work.laneFrame l.isLt fun m _ hne => ?_
    rw [State.lnState_beginAttempt, if_neg hne, State.lnState_setLane]
  · rw [State.lnState_beginAttempt, if_pos rfl]

/-- Settles O23, event by event. -/
theorem laneEvents : Obligations.LaneEvents := by
  intro s l b frame failed counted
  have hl := l.isLt
  have failing (res : Nat) (hres : res < 16) : failed res (s.failAttempt l res) := s.failAttempt_failed hl hres
  refine ⟨fun h => ⟨_, execSignalDetect_waiting h, signalDetect_moves s hl⟩, fun h => congrArg Host.Outcome.next (if_neg h),
    fun h => ⟨_, execStepUpLock_stepping h, stepUpLock_moves s hl⟩, fun h => ?_,
    fun h => ⟨_, congrArg Host.Outcome.next (if_pos h), failing 4 (by omega)⟩,
    fun h => ⟨_, execTrainTimeout_steppingUp h, failing _ (by split <;> omega)⟩,
    fun q hq ha h => ⟨_, execTapTimeout_waiting hq ha h, failing 3 (by omega)⟩, fun h => ⟨_, rfl, lossOfLock_hold hl h⟩,
    fun h => ⟨_, rfl, lossOfLock_ready hl h⟩, fun h => ⟨_, rfl, lossOfLock_training hl h⟩,
    fun h hs => congrArg Host.Outcome.next (lossOfLock_idle h hs), fun snr h hw => ?_, fun snr h0 h7 => receiverLock_moves snr h0 h7,
    relockTimeout_begins⟩
  · refine ⟨_, congrArg Host.Outcome.next (if_pos h), (State.Wrote.refl s _).moveFrame hl (fun _ => rfl) 5, ?_⟩
    rw [State.lnState_setLnState, if_pos rfl]
  · exact ⟨_, congrArg Host.Outcome.next (if_pos ⟨h, hw⟩), snrLow_reports s hl snr⟩

end Sys2Proof.Machine
end

section
/-!
PROOFS. Scope: training frames (R85 to R93). What a lane answers, what it asks, and the frame that it sends.
-/
namespace Sys2Proof.Machine

/-! ### Coefficients within R80 -/

theorem coefsOk_iff (c : Coefs) : coefsOk c = true ↔
    (∀ i, i < 6 → tapMin i ≤ c.getD i 0 ∧ c.getD i 0 ≤ tapMax i) ∧ coefSums c = true := by
  simp only [coefsOk, Bool.and_eq_true, List.all_eq_true, List.mem_range, decide_eq_true_eq]

theorem tapRange_byte (i : Nat) : -128 ≤ tapMin i ∧ tapMax i < 128 := by
  unfold tapMin tapMax
  rcases i with _ | _ | _ | _ | _ | _ | i <;> simp

/-- Coefficients within R80 are signed bytes. -/
theorem coefBytes_of_ok {c : Coefs} (hlen : c.length = 6) (h : coefsOk c = true) : CoefBytes c := by
  refine ⟨hlen, fun v hv => ?_⟩
  obtain ⟨i, hi, rfl⟩ := List.getElem_of_mem hv
  obtain ⟨hmin, hmax⟩ := ((coefsOk_iff c).mp h).1 i (by omega)
  obtain ⟨hlow, hhigh⟩ := tapRange_byte i
  rw [List.getD_eq_getElem _ _ hi] at hmin hmax
  exact ⟨by omega, by omega⟩

theorem coefsOf_length (v : Nat) : (coefsOf v).length = 6 := rfl

theorem coefsOk_preset (n : Nat) : coefsOk (presetCoefs n) = true := by
  unfold presetCoefs
  split <;> decide

/-- A tap changed within its range, where the sums hold, leaves R80 whole. -/
theorem coefsOk_set {c : Coefs} {i : Nat} {v : Int} (h : coefsOk c = true) (hlen : c.length = 6) (hmin : ¬v < tapMin i)
    (hmax : ¬tapMax i < v) (hs : coefSums (c.set i v) = true) : coefsOk (c.set i v) = true := by
  refine (coefsOk_iff _).mpr ⟨fun j hj => ?_, hs⟩
  by_cases e : i = j
  · subst e
    rw [List.getD_eq_getElem _ _ (by simpa [hlen] using hj), List.getElem_set_self]
    exact ⟨by omega, by omega⟩
  · rw [List.getD_eq_getElem _ _ (by simpa [hlen] using hj), List.getElem_set_ne e, ← List.getD_eq_getElem _ 0 (by omega)]
    exact ((coefsOk_iff c).mp h).1 j hj

/-- A request that R85 defines is answered by coefficients within R80. -/
theorem answerTap_ok {c : Coefs} {tap action preset : Nat} (h : coefsOk c = true) (hlen : c.length = 6)
    (hreq : isTapRequest tap action preset = true) :
    coefsOk (answerTap c tap action preset).2 = true ∧ (answerTap c tap action preset).2.length = 6 := by
  have htap : 1 ≤ tap ∧ (tap ≤ 6 ∨ tap = 8) := by
    simp only [isTapRequest, Bool.or_eq_true, Bool.and_eq_true, decide_eq_true_eq, beq_iff_eq] at hreq
    omega
  unfold answerTap
  split
  · refine ⟨coefsOk_preset _, ?_⟩
    unfold presetCoefs
    split <;> rfl
  next h8 =>
    dsimp only
    generalize c.getD (tap - 1) 0 + (if action = 1 then 1 else -1) = v
    split
    · exact ⟨h, hlen⟩
    · split
      · exact ⟨h, hlen⟩
      · split
        · exact ⟨coefsOk_set h hlen ‹_› ‹_› ‹_›, by rw [List.length_set, hlen]⟩
        · exact ⟨h, hlen⟩

/-! ### Fields of a training frame -/

theorem crc16Bits_lt (w n crc : Nat) (h : crc < 65536) : crc16Bits w n crc < 65536 := by
  induction n generalizing crc with
  | zero => exact h
  | succ n ih =>
    unfold crc16Bits
    dsimp only
    refine ih _ ?_
    split
    · exact Nat.xor_lt_two_pow (n := 16) (Nat.mod_lt _ (by omega)) (by omega)
    · exact Nat.mod_lt _ (by omega)

/-- The word of a field that carries one. -/
theorem fieldWord_fieldOf (w : Word) : fieldWord (fieldOf w) = some w := by
  have hw : (BitVec.ofNat 32 ((fieldOf w).toNat / 65536) : Word) = w := by
    apply BitVec.eq_of_toNat_eq
    have hcrc := crc16Bits_lt w.toNat 32 0xFFFF (by omega)
    have hlt := w.isLt
    rw [fieldOf, BitVec.toNat_ofNat, BitVec.toNat_ofNat]
    omega
  unfold fieldWord
  dsimp only
  rw [hw, if_pos rfl]

/-- The frame that a lane sends, unless its pattern generator replaces its data: both its words have a CRC that holds. -/
theorem State.sendTraining_cases (s : State) (l : Nat) : (s.genOn l = true ∧ s.sendTraining l = s) ∨
    ∃ c d, s.sendTraining l = s.emit (.trainFrame l (s.lnStep l) c d) ∧ (fieldWord c).isSome = true ∧ (fieldWord d).isSome = true := by
  have some_of (w : Word) : (fieldWord (fieldOf w)).isSome = true := by rw [fieldWord_fieldOf]; rfl
  unfold State.sendTraining
  dsimp only
  cases hg : s.genOn l with
  | true => exact .inl ⟨rfl, rfl⟩
  | false => exact .inr ⟨_, _, rfl, some_of _, some_of _⟩

/-! ### The answering side -/

/-- What a lane's record holds of its answers: clean frames in a row, the tap echoed and the RESULT. -/
def LaneRec.answer (r : LaneRec) : Nat × Nat × Nat := (r.clean, r.echo, r.result)

/-- The registers that answering writes: LN_TX_COEF, LN_TRAIN_LOG and LN_TAPREQ of the lane. -/
def AnswerKey (l k : Nat) : Prop := CoefKey l k ∨ k = regKey 0 (lnA l 0x50) ∨ k = regKey 0 (lnA l 0x54)

theorem answerKey_work {l k : Nat} (h : AnswerKey l k) : LaneWork (l / 8) k := by
  rcases h with h | rfl | rfl
  · exact coefKey_work h
  · exact laneWork_ln rfl (by decide)
  · exact .inl (laneMoves_ln rfl (by decide))

theorem not_answerKey {l off : Nat} (h : off ∉ [0x08, 0x0C, 0x50, 0x54]) : ¬AnswerKey l (regKey 0 (lnA l off)) := by
  simp only [List.mem_cons, List.not_mem_nil, or_false, not_or] at h
  rw [AnswerKey, CoefKey]
  simp only [regKey_lnA]
  omega

/-- A request that is answered: counted, the coefficients of the answer, the tap echoed and the RESULT. -/
def State.tapAnswered (s : State) (l : Nat) (a : Nat × Coefs) (tap : Nat) : State :=
  let s1 := s.wrF 0 (lnA l 0x54) 16 16 (satAdd 16 (s.rdF 0 (lnA l 0x54) 16 16) 1)
  (if a.1 = 1 ∨ a.1 = 5 then s1.setCoefs l a.2 else s1).setLane l { s.lane l with echo := tap, result := a.1 }

theorem answerSide_request {l : Nat} {w : Word} {s : State} (hr : isTapRequest (fld w 0 4) (fld w 4 2) (fld w 6 3) = true)
    (h0 : (s.lane l).result = 0) :
    answerSide l w s = s.tapAnswered l (answerTap (s.coefs l) (fld w 0 4) (fld w 4 2) (fld w 6 3)) (fld w 0 4) := by
  have hne : ¬(fld w 0 4 = 0 ∧ fld w 4 2 = 0) := by
    rintro ⟨h, -⟩
    rw [h] at hr
    simp [isTapRequest] at hr
  exact (if_neg hne).trans (if_pos ⟨hr, h0⟩)

/-- The other control words answer nothing; the one without a request ends the answer that stands. -/
theorem answerSide_idle {l : Nat} {w : Word} {s : State}
    (h : ¬(isTapRequest (fld w 0 4) (fld w 4 2) (fld w 6 3) = true ∧ (s.lane l).result = 0)) :
    answerSide l w s = s ∨ answerSide l w s = s.setLane l { s.lane l with echo := 0, result := 0 } := by
  by_cases hz : fld w 0 4 = 0 ∧ fld w 4 2 = 0
  · exact .inr (if_pos hz)
  · exact .inl ((if_neg hz).trans (if_neg h))

theorem State.tapAnswered_wrote (s : State) (l : Nat) (a : Nat × Coefs) (tap : Nat) : s.Wrote (s.tapAnswered l a tap) (AnswerKey l) := by
  have counted := (State.Wrote.refl s (AnswerKey l)).wrF (b := 0) (a := lnA l 0x54) (.inr (.inr rfl)) 16 16
    (satAdd 16 (s.rdF 0 (lnA l 0x54) 16 16) 1)
  exact ((counted.setCoefs (.inl (.inl rfl)) (.inl (.inr rfl)) _).ite counted _).setLane l _

theorem State.lane_tapAnswered (s : State) (l : Nat) (a : Nat × Coefs) (tap : Nat) :
    (s.tapAnswered l a tap).lane l = { s.lane l with echo := tap, result := a.1 } := by
  rw [State.tapAnswered, State.lane_setLane_same]

theorem State.coefs_tapAnswered (s : State) (l : Nat) {a : Nat × Coefs} (h : CoefBytes a.2) (tap : Nat) :
    (s.tapAnswered l a tap).coefs l = if a.1 = 1 ∨ a.1 = 5 then a.2 else s.coefs l := by
  have e (u : State) (r : LaneRec) : (u.setLane l r).coefs l = u.coefs l := rfl
  rw [State.tapAnswered, e]
  split
  · exact State.coefs_setCoefs _ l h
  · exact State.coefs_of_rd (State.rd_wrF_other _ _ _ _ _ _ _ _ (lnA_ne_off (by omega) l))
      (State.rd_wrF_other _ _ _ _ _ _ _ _ (lnA_ne_off (by omega) l))

theorem answerSide_wrote (l : Nat) (w : Word) (s : State) :
    s.Wrote (answerSide l w s) (AnswerKey l) ∧ ((answerSide l w s).lane l).clean = (s.lane l).clean := by
  by_cases h : isTapRequest (fld w 0 4) (fld w 4 2) (fld w 6 3) = true ∧ (s.lane l).result = 0
  · rw [answerSide_request h.1 h.2]
    exact ⟨s.tapAnswered_wrote l _ _, by rw [State.lane_tapAnswered]⟩
  · rcases answerSide_idle h with e | e <;> rw [e]
    · exact ⟨.refl s _, rfl⟩
    · exact ⟨(State.Wrote.refl s _).setLane l _, by rw [State.lane_setLane_same]⟩

/-- Whatever is asked, coefficients within R80 stay within it. -/
theorem answerSide_coefsOk (l : Nat) (w : Word) {s : State} (h : coefsOk (s.coefs l) = true) :
    coefsOk ((answerSide l w s).coefs l) = true := by
  by_cases hr : isTapRequest (fld w 0 4) (fld w 4 2) (fld w 6 3) = true ∧ (s.lane l).result = 0
  · obtain ⟨hok, hlen⟩ := answerTap_ok h (coefsOf_length _) hr.1
    rw [answerSide_request hr.1 hr.2, State.coefs_tapAnswered _ _ (coefBytes_of_ok hlen hok)]
    split
    exacts [hok, h]
  · rcases answerSide_idle hr with e | e <;> rw [e]
    · exact h
    · exact h

/-! ### The requesting side -/

/-- Asking changes LN_TAPREQ and the lane's request, and no answer. -/
structure State.Asks (s z : State) (l : Nat) : Prop where
  wrote : s.Wrote z fun k => k = regKey 0 (lnA l 0x54)
  answer : (z.lane l).answer = (s.lane l).answer

theorem State.Asks.refl (s : State) (l : Nat) : s.Asks s l := ⟨.refl s _, rfl⟩

theorem State.Asks.trans {s t u : State} {l : Nat} (h : s.Asks t l) (g : t.Asks u l) : s.Asks u l :=
  ⟨h.wrote.trans g.wrote, g.answer.trans h.answer⟩

/-- A record with another request. -/
theorem State.Asks.setReq (s : State) (l : Nat) (q : Option TapReq) : s.Asks (s.setLane l { s.lane l with req := q }) l :=
  ⟨(State.Wrote.refl s _).setLane l _, by rw [State.lane_setLane_same]; rfl⟩

theorem requestSide_asks (l : Nat) (w : Word) (s : State) : s.Asks (requestSide l w s) l := by
  unfold requestSide
  dsimp only
  split
  · split
    · split
      · exact .setReq s l _
      · exact .refl s l
    · split
      · exact .setReq s l _
      · exact .refl s l
  · exact .refl s l

theorem newRequest_asks (l : Nat) (s : State) : s.Asks (newRequest l s) l := by
  have drawn : s.Asks (s.fresh 9).2 l := ⟨(State.Wrote.refl s _).fresh 9, rfl⟩
  unfold newRequest
  dsimp only
  split
  · refine drawn.trans ⟨((State.Wrote.refl _ fun k => k = regKey 0 (lnA l 0x54)).wrF rfl _ _ _).setLane l _, ?_⟩
    rw [State.lane_setLane_same]
    rfl
  · exact drawn

/-! ### The step handshake -/

/-- A lane's record after the handshake of R93 for the STEPCMD received. -/
def LaneRec.shaken (r : LaneRec) (step recv snr : Nat) : LaneRec :=
  let final := if step = r.agreed then 3 else 2
  let cmd :=
    if !(stepReady step r.clean snr && r.req.isNone) then 0
    else if step = r.agreed then 3
    else if r.cmd ≠ 0 ∧ (recv = 1 ∨ recv = 2) then 2
    else 1
  { r with
    cmd := cmd, sentFinal := if cmd = final then r.sentFinal + 1 else 0, recvFinal := if recv = final then r.recvFinal + 1 else 0
    rxDone := r.rxDone || stepReady step r.clean snr }

theorem LaneRec.shaken_answer (r : LaneRec) (step recv snr : Nat) : (r.shaken step recv snr).answer = r.answer := rfl

/-- Without a STEPCMD, none has stood. -/
theorem LaneRec.shaken_recvFinal (r : LaneRec) (step snr : Nat) : (r.shaken step 0 snr).recvFinal = 0 := by
  unfold LaneRec.shaken
  dsimp only
  rw [if_neg (by split <;> omega)]

/-- A lane after its half of the handshake, the frame sent. -/
def State.handshaken (s : State) (l recv snr : Nat) : State :=
  (s.setLane l ((s.lane l).shaken (s.lnStep l) recv snr)).sendTraining l

theorem stepSide_eq (l recv snr : Nat) (s : State) : stepSide l recv snr s =
    let r := (s.lane l).shaken (s.lnStep l) recv snr
    let v := s.handshaken l recv snr
    if 16 ≤ r.sentFinal ∧ 16 ≤ r.recvFinal then
      if s.lnStep l < (s.lane l).agreed then (v.startCoefs l).setLnState l 3 else v.trained l
    else v := rfl

/-- What follows the frame that a lane sends: nothing, or, when the partner's STEPCMD has stood for 16 frames, the next step or the
end of training. -/
theorem stepSide_cases (l recv snr : Nat) (s : State) :
    let v := s.handshaken l recv snr
    stepSide l recv snr s = v ∨
      recv ≠ 0 ∧ (stepSide l recv snr s = (v.startCoefs l).setLnState l 3 ∨ stepSide l recv snr s = v.trained l) := by
  rw [stepSide_eq]
  dsimp only
  split
  next hrun =>
    refine .inr ⟨?_, ?_⟩
    · rintro rfl
      rw [LaneRec.shaken_recvFinal] at hrun
      omega
    · split
      · exact .inl rfl
      · exact .inr rfl
  · exact .inl rfl

theorem State.trained_wrote (s : State) (l : Nat) : s.Wrote (s.trained l) (LaneWork (l / 8)) :=
  ((State.Wrote.refl s _).logAttempt (laneWork_ln rfl (by decide)) 1).setLnState (.inl (laneMoves_ln rfl (by decide)))
    (.inl (laneMoves_blkStatus _)) _

/-- The end of training leaves LN_RX_STAT, the coefficients and the lane's record. -/
theorem State.trained_rd (s : State) (l : Nat) {off : Nat} (h : off ∉ [0x04, 0x50]) (ho : off < 0x80) :
    (s.trained l).rd 0 (lnA l off) = s.rd 0 (lnA l off) := by
  simp only [List.mem_cons, List.not_mem_nil, or_false, not_or] at h
  obtain ⟨v, hlog, -⟩ := s.logAttempt_eq l 1
  rw [State.trained, (State.setLnState_wrote _ _ _).rd (not_or.mpr ⟨lnA_ne_off h.1 l, lnA_ne_laneA ho (by omega) _ _⟩), hlog,
    State.rd_wr_other _ _ _ _ _ _ (lnA_ne_off h.2 l)]

/-- The step above begins with a move to STEP_UP and, where training frames are sent, preset 1. -/
theorem State.stepUp_wrote (s : State) (l : Nat) : s.Wrote ((s.startCoefs l).setLnState l 3) (LaneWork (l / 8)) :=
  ((s.startCoefs_wrote l).mono fun _ => coefKey_work).setLnState (.inl (laneMoves_ln rfl (by decide))) (.inl (laneMoves_blkStatus _)) _

/-- What a lane's half of the handshake leaves in the end: its answers, its SNR, what has left the part, and coefficients within R80 if
they were; without a STEPCMD, the coefficients themselves. -/
theorem stepSide_after (l recv snr : Nat) (s : State) :
    let v := s.handshaken l recv snr
    v.Wrote (stepSide l recv snr s) (LaneWork (l / 8)) ∧ (stepSide l recv snr s).lane l = v.lane l ∧
    (stepSide l recv snr s).rd 0 (lnA l 0x10) = v.rd 0 (lnA l 0x10) ∧
    (recv = 0 → (stepSide l recv snr s).coefs l = v.coefs l) ∧
    (coefsOk (v.coefs l) = true → coefsOk ((stepSide l recv snr s).coefs l) = true) := by
  intro v
  rcases stepSide_cases l recv snr s with e | ⟨hrecv, e | e⟩ <;> rw [e]
  · exact ⟨.refl v _, rfl, rfl, fun _ => rfl, id⟩
  · refine ⟨v.stepUp_wrote l, State.lane_of_lanes (State.startCoefs_lanes v l) l, ?_, fun h => absurd h hrecv, fun h => ?_⟩
    · rw [State.setLnState_rd_rx, (v.startCoefs_wrote l).rd (not_coefKey (by omega) (by omega) (by omega))]
    · rw [State.setLnState_coefs, State.startCoefs]
      split
      · rw [State.coefs_setCoefs _ _ (coefBytes_preset 1)]
        exact coefsOk_preset 1
      · exact h
  · have same : (v.trained l).coefs l = v.coefs l :=
      State.coefs_of_rd (v.trained_rd l (by decide) (by omega)) (v.trained_rd l (by decide) (by omega))
    exact ⟨v.trained_wrote l, rfl, v.trained_rd l (by decide) (by omega), fun _ => same, fun h => by rw [same]; exact h⟩

/-! ### The frame received -/

/-- A frame received, before its words are read: its SNR is noted and the clean frames in a row are counted. -/
def State.frameNoted (s : State) (l : Nat) (clean : Bool) (snr : Nat) : State :=
  (s.noteSnr l snr).setLane l { (s.noteSnr l snr).lane l with clean := if clean then ((s.noteSnr l snr).lane l).clean + 1 else 0 }

/-- A control word received at step 0 tells the partner's MAXSTEP, and any tells its lane and block. -/
def State.partnerNoted (s : State) (l : Nat) (own : Nat) (w : Word) : State :=
  let s2 := s.wr 0 (lnA l 0x50) (setFld (setFld (s.rd 0 (lnA l 0x50)) 6 3 (fld w 13 3)) 9 6 (fld w 16 6))
  if s2.lnStep l = 0 then s2.setLane l { s2.lane l with agreed := agreedStep own (fld w 11 2) (s2.lane l).agreed } else s2

/-- The state in which a control word has been heard, and its STEPCMD. -/
def State.controlHeard (s : State) (l own : Nat) : Option Word → State × Nat
  | none => (s, 0)
  | some w => (answerSide l w (s.partnerNoted l own w), if fld w 0 6 = 0 then fld w 9 2 else 0)

/-- The state in which a status word has been heard, and a new request may begin. -/
def State.statusHeard (s : State) (l snr : Nat) (o : Option Word) : State :=
  let s3 := o.elim s fun w => requestSide l w s
  if (s3.lane l).req.isNone && !stepReady (s3.lnStep l) (s3.lane l).clean snr then newRequest l s3 else s3

/-- A lane that has noted a frame and heard its words, before it sends its own, and the STEPCMD received. -/
def State.frameHeard (s : State) (l : Nat) (ctl sts : BitVec 48) (clean : Bool) (snr : Nat) : State × Nat :=
  let heard := (s.frameNoted l clean snr).controlHeard l (s.maxStep (l / 8)) (fieldWord ctl)
  (heard.1.statusHeard l snr (fieldWord sts), heard.2)

theorem execTrainingFrame_idle {s : State} {l : Fin 384} (h : s.lnState l ≠ 2 ∨ s.blkMode (l / 8) ≠ 1 ∨ s.trainMan (l / 8) = true)
    (ctl sts : BitVec 48) (clean : Bool) (snr : BitVec 16) : exec (.trainingFrame l ctl sts clean snr) s = .next s :=
  congrArg Host.Outcome.next (if_pos h)

theorem execTrainingFrame_training {s : State} {l : Fin 384} (h : s.lnState l = 2) (hm : s.blkMode (l / 8) = 1)
    (ht : s.trainMan (l / 8) = false) (ctl sts : BitVec 48) (clean : Bool) (snr : BitVec 16) :
    exec (.trainingFrame l ctl sts clean snr) s =
      .next (stepSide l (s.frameHeard l ctl sts clean snr.toNat).2 snr.toNat (s.frameHeard l ctl sts clean snr.toNat).1) := by
  have hn : ¬(s.lnState l ≠ 2 ∨ s.blkMode (l / 8) ≠ 1 ∨ s.trainMan (l / 8) = true) := by simp [h, hm, ht]
  refine congrArg Host.Outcome.next ((if_neg hn).trans ?_)
  unfold State.frameHeard
  cases fieldWord ctl <;> cases fieldWord sts <;> rfl

theorem State.statusHeard_asks (s : State) (l snr : Nat) (o : Option Word) : s.Asks (s.statusHeard l snr o) l := by
  have heard : s.Asks (o.elim s fun w => requestSide l w s) l := by
    cases o with
    | none => exact .refl s l
    | some w => exact requestSide_asks l w s
  unfold State.statusHeard
  dsimp only
  split
  · exact heard.trans (newRequest_asks l _)
  · exact heard

theorem State.partnerNoted_wrote (s : State) (l own : Nat) (w : Word) :
    s.Wrote (s.partnerNoted l own w) (fun k => k = regKey 0 (lnA l 0x50)) ∧
      ((s.partnerNoted l own w).lane l).answer = (s.lane l).answer := by
  have logged (v : Word) : s.Wrote (s.wr 0 (lnA l 0x50) v) fun k => k = regKey 0 (lnA l 0x50) :=
    (State.Wrote.refl s fun k => k = regKey 0 (lnA l 0x50)).wr rfl v
  unfold State.partnerNoted
  dsimp only
  split
  · exact ⟨(logged _).setLane l _, by rw [State.lane_setLane_same]; rfl⟩
  · exact ⟨logged _, rfl⟩

theorem State.Asks.coefs {s u : State} {l : Nat} (h : s.Asks u l) : u.coefs l = s.coefs l :=
  State.coefs_of_rd (h.wrote.rd (lnA_ne_off (by omega) l)) (h.wrote.rd (lnA_ne_off (by omega) l))

theorem answerOf {r r' : LaneRec} (h : r'.answer = r.answer) : r'.clean = r.clean ∧ r'.echo = r.echo ∧ r'.result = r.result := by
  simpa [LaneRec.answer] using h

theorem State.frameNoted_wrote (s : State) (l : Nat) (clean : Bool) (snr : Nat) :
    s.Wrote (s.frameNoted l clean snr) fun k => k = regKey 0 (lnA l 0x10) := (s.noteSnr_wrote l snr).setLane l _

/-- A frame noted: its clean frames, and the answer that stood. -/
theorem State.frameNoted_answer (s : State) (l : Nat) (clean : Bool) (snr : Nat) : ((s.frameNoted l clean snr).lane l).answer =
    ((if clean then (s.lane l).clean + 1 else 0), (s.lane l).echo, (s.lane l).result) := by
  have noted : (s.noteSnr l snr).lane l = { s.lane l with snrAt := s.snrWindow } := by rw [State.noteSnr, State.lane_setLane_same]
  rw [State.frameNoted, State.lane_setLane_same, noted]
  rfl

theorem State.controlHeard_wrote (s : State) (l own : Nat) (o : Option Word) :
    s.Wrote (s.controlHeard l own o).1 (AnswerKey l) ∧ ((s.controlHeard l own o).1.lane l).clean = (s.lane l).clean := by
  cases o with
  | none => exact ⟨.refl s _, rfl⟩
  | some w =>
    obtain ⟨noted, hans⟩ := s.partnerNoted_wrote l own w
    obtain ⟨answered, hclean⟩ := answerSide_wrote l w (s.partnerNoted l own w)
    exact ⟨(noted.mono fun _ h => .inr (.inl h)).trans answered, hclean.trans (answerOf hans).1⟩

theorem State.partnerNoted_coefs (s : State) (l own : Nat) (w : Word) : (s.partnerNoted l own w).coefs l = s.coefs l :=
  have noted := (s.partnerNoted_wrote l own w).1
  State.coefs_of_rd (noted.rd (lnA_ne_off (by omega) l)) (noted.rd (lnA_ne_off (by omega) l))

/-- A request heard while no RESULT stands is answered by R88. -/
theorem State.controlHeard_request {s : State} {l : Nat} {w : Word} (own : Nat)
    (hr : isTapRequest (fld w 0 4) (fld w 4 2) (fld w 6 3) = true) (h0 : (s.lane l).result = 0) :
    ((s.controlHeard l own (some w)).1.lane l).echo = fld w 0 4 ∧
    ((s.controlHeard l own (some w)).1.lane l).result = (answerTap (s.coefs l) (fld w 0 4) (fld w 4 2) (fld w 6 3)).1 := by
  obtain ⟨-, -, hresult⟩ := answerOf (s.partnerNoted_wrote l own w).2
  rw [State.controlHeard, answerSide_request hr (hresult.trans h0), State.lane_tapAnswered, State.partnerNoted_coefs]
  exact ⟨rfl, rfl⟩

theorem State.controlHeard_coefsOk {s : State} {l : Nat} (own : Nat) (o : Option Word) (h : coefsOk (s.coefs l) = true) :
    coefsOk ((s.controlHeard l own o).1.coefs l) = true := by
  cases o with
  | none => exact h
  | some w => exact answerSide_coefsOk l w (by rw [State.partnerNoted_coefs]; exact h)

/-- A lane's half of the handshake writes no register; what has left the part is the frame. -/
theorem State.handshaken_after (s : State) (l recv snr : Nat) :
    (s.handshaken l recv snr).regs = s.regs ∧ ((s.handshaken l recv snr).lane l).answer = (s.lane l).answer ∧
    (∀ pgs, s.onlyPages (s.handshaken l recv snr) pgs) ∧
    (s.genOn l = false → ∃ c d, (s.handshaken l recv snr).out = s.out ++ [.trainFrame l (s.lnStep l) c d] ∧
      (fieldWord c).isSome = true ∧ (fieldWord d).isSome = true) := by
  have answer (u : State) (hu : u.lanes = (s.setLane l ((s.lane l).shaken (s.lnStep l) recv snr)).lanes) :
      (u.lane l).answer = (s.lane l).answer := by
    rw [State.lane_of_lanes hu, State.lane_setLane_same, LaneRec.shaken_answer]
  unfold State.handshaken
  rcases (s.setLane l ((s.lane l).shaken (s.lnStep l) recv snr)).sendTraining_cases l with ⟨hg, e⟩ | ⟨c, d, e, hc, hd⟩ <;> rw [e]
  · exact ⟨rfl, answer _ rfl, fun _ => ⟨fun _ _ => rfl, rfl, fun _ => rfl⟩, fun h => absurd (hg.symm.trans h) (by decide)⟩
  · exact ⟨rfl, answer _ rfl, fun _ => ⟨fun _ _ => rfl, rfl, fun _ => rfl⟩, fun _ => ⟨c, d, rfl, hc, hd⟩⟩

theorem State.onlyPages_trans {s t u : State} {pgs : List Nat} (h : s.onlyPages t pgs) (g : t.onlyPages u pgs) : s.onlyPages u pgs :=
  ⟨fun k hk => (g.1 k hk).trans (h.1 k hk), g.2.1.trans h.2.1, fun a => (g.2.2 a).trans (h.2.2 a)⟩

theorem State.coefs_of_regs {s u : State} (h : u.regs = s.regs) (l : Nat) : u.coefs l = s.coefs l :=
  State.coefs_of_rd (State.rd_of_regs h _ _) (State.rd_of_regs h _ _)

/-- The registers that hearing a frame writes. -/
def HeardKey (l k : Nat) : Prop := AnswerKey l k ∨ k = regKey 0 (lnA l 0x10)

theorem heardKey_work {l k : Nat} (h : HeardKey l k) : LaneWork (l / 8) k := by
  rcases h with h | rfl
  · exact answerKey_work h
  · exact laneWork_ln rfl (by decide)

theorem not_heardKey {l off : Nat} (h : off ∉ [0x08, 0x0C, 0x50, 0x54, 0x10]) : ¬HeardKey l (regKey 0 (lnA l off)) := by
  simp only [List.mem_cons, List.not_mem_nil, or_false, not_or] at h
  exact not_or.mpr ⟨not_answerKey (by simp [h]), lnA_ne_off h.2.2.2.2 l⟩

theorem State.frameHeard_wrote (s : State) (l : Nat) (ctl sts : BitVec 48) (clean : Bool) (snr : Nat) :
    s.Wrote (s.frameHeard l ctl sts clean snr).1 (HeardKey l) :=
  (((s.frameNoted_wrote l clean snr).mono fun _ => .inr).trans ((State.controlHeard_wrote _ l _ _).1.mono fun _ => .inl)).trans
    ((State.statusHeard_asks _ l snr _).wrote.mono fun _ h => .inl (.inr (.inr h)))

/-- LN_RX_STAT holds the SNR reported: answers and requests do not write it. -/
theorem State.frameHeard_snr (s : State) (l : Nat) (ctl sts : BitVec 48) (clean : Bool) (snr : BitVec 16) :
    (s.frameHeard l ctl sts clean snr.toNat).1.rdF 0 (lnA l 0x10) 0 16 = snr.toNat := by
  rw [State.rdF, State.frameHeard, (State.statusHeard_asks _ l _ _).wrote.rd (lnA_ne_off (by omega) l),
    (State.controlHeard_wrote _ l _ _).1.rd (not_answerKey (by decide))]
  exact s.noteSnr_rd l snr

theorem State.frameNoted_coefs (s : State) (l : Nat) (clean : Bool) (snr : Nat) : (s.frameNoted l clean snr).coefs l = s.coefs l :=
  have noted := s.frameNoted_wrote l clean snr
  State.coefs_of_rd (noted.rd (lnA_ne_off (by omega) l)) (noted.rd (lnA_ne_off (by omega) l))

theorem State.frameHeard_clean (s : State) (l : Nat) (ctl sts : BitVec 48) (clean : Bool) (snr : Nat) :
    ((s.frameHeard l ctl sts clean snr).1.lane l).clean = if clean then (s.lane l).clean + 1 else 0 :=
  ((answerOf (State.statusHeard_asks _ l snr _).answer).1.trans (State.controlHeard_wrote _ l _ _).2).trans
    (congrArg Prod.fst (s.frameNoted_answer l clean snr))

theorem State.frameHeard_request {s : State} {l : Nat} {ctl : BitVec 48} {w : Word} (hw : fieldWord ctl = some w)
    (hr : isTapRequest (fld w 0 4) (fld w 4 2) (fld w 6 3) = true) (h0 : (s.lane l).result = 0) (sts : BitVec 48) (clean : Bool)
    (snr : Nat) : ((s.frameHeard l ctl sts clean snr).1.lane l).echo = fld w 0 4 ∧
    ((s.frameHeard l ctl sts clean snr).1.lane l).result = (answerTap (s.coefs l) (fld w 0 4) (fld w 4 2) (fld w 6 3)).1 := by
  have standing : ((s.frameNoted l clean snr).lane l).result = 0 :=
    (congrArg (fun a => a.2.2) (s.frameNoted_answer l clean snr)).trans h0
  have answered := State.controlHeard_request (s.maxStep (l / 8)) hr standing
  rw [State.frameNoted_coefs] at answered
  obtain ⟨-, hecho, hresult⟩ := answerOf (State.statusHeard_asks
    ((s.frameNoted l clean snr).controlHeard l (s.maxStep (l / 8)) (fieldWord ctl)).1 l snr (fieldWord sts)).answer
  rw [State.frameHeard, hecho, hresult, hw]
  exact answered

/-- A control word whose CRC fails changes no coefficient and brings no STEPCMD. -/
theorem State.frameHeard_none {s : State} {l : Nat} {ctl : BitVec 48} (hw : fieldWord ctl = none) (sts : BitVec 48) (clean : Bool)
    (snr : Nat) : (s.frameHeard l ctl sts clean snr).2 = 0 ∧ (s.frameHeard l ctl sts clean snr).1.coefs l = s.coefs l := by
  rw [State.frameHeard, hw]
  exact ⟨rfl, ((State.statusHeard_asks _ l snr _).coefs).trans (s.frameNoted_coefs l clean snr)⟩

theorem State.frameHeard_coefsOk {s : State} {l : Nat} (h : coefsOk (s.coefs l) = true) (ctl sts : BitVec 48) (clean : Bool)
    (snr : Nat) : coefsOk ((s.frameHeard l ctl sts clean snr).1.coefs l) = true := by
  rw [State.frameHeard, (State.statusHeard_asks _ l snr _).coefs]
  exact State.controlHeard_coefsOk _ _ (by rw [State.frameNoted_coefs]; exact h)

/-- Settles O24: the frame is noted and its words heard, the lane's own frame is sent, and the step goes on or not. -/
theorem trainingFrameAnswers : Obligations.TrainingFrameAnswers := by
  intro s l ctl sts clean snr
  refine ⟨fun h => execTrainingFrame_idle h ctl sts clean snr, fun h hm ht => ⟨_,
    execTrainingFrame_training h hm ht ctl sts clean snr, ?_⟩⟩
  have hl := l.isLt
  have heard := s.frameHeard_wrote l ctl sts clean snr.toNat
  have hsnr := s.frameHeard_snr l ctl sts clean snr
  have hclean := s.frameHeard_clean l ctl sts clean snr.toNat
  have hreq (w : Word) (hw : fieldWord ctl = some w) (hr : isTapRequest (fld w 0 4) (fld w 4 2) (fld w 6 3) = true)
      (h0 : (s.lane l).result = 0) := State.frameHeard_request hw hr h0 sts clean snr.toNat
  have hnone (hw : fieldWord ctl = none) := State.frameHeard_none (s := s) (l := l) hw sts clean snr.toNat
  have hok (h : coefsOk (s.coefs l) = true) := State.frameHeard_coefsOk h ctl sts clean snr.toNat
  generalize s.frameHeard l ctl sts clean snr.toNat = p at *
  obtain ⟨u, recv⟩ := p
  obtain ⟨vregs, vans, vpages, vout⟩ := u.handshaken_after l recv snr.toNat
  obtain ⟨zwrote, zlane, zrx, znone, zok⟩ := stepSide_after l recv snr.toNat u
  rw [State.coefs_of_regs vregs] at znone zok
  obtain ⟨zclean, zecho, zresult⟩ := answerOf ((congrArg LaneRec.answer zlane).trans vans)
  refine ⟨?_, zclean.trans hclean, fun w hw hr h0 => ?_, fun hw => ?_, fun h => zok (hok h), fun hg => ?_, ?_⟩
  · rw [State.rdF, zrx, State.rd_of_regs vregs]
    exact hsnr
  · rw [zecho, zresult]
    exact hreq w hw hr h0
  · obtain ⟨h0, hc⟩ := hnone hw
    exact (znone h0).trans hc
  · have hgen : u.genOn l = false := (congrArg (bitOf · 0) (heard.rd (not_heardKey (by decide)))).trans hg
    have hstep : u.lnStep l = s.lnStep l := congrArg (fld · 4 2) (heard.rd (not_heardKey (by decide)))
    obtain ⟨c, d, hout, hc, hd⟩ := vout hgen
    exact ⟨c, d, by rw [zwrote.out, hout, heard.out, hstep], hc, hd⟩
  · have page {t z : State} (h : t.Wrote z (LaneWork (l / 8))) := h.onlyPages (laneWork_page (by omega))
    exact State.onlyPages_trans (State.onlyPages_trans (page (heard.mono fun _ => heardKey_work)) (vpages _)) (page zwrote)

end Sys2Proof.Machine
end

section
/-!
PROOFS. Scope: host writes of the registers of lanes and ports. What the bus matrix's counts leave of them, and block control (R91, R96,
R98, R100).
-/
namespace Sys2Proof.Machine

/-! ### Admitted writes -/

/-- The counts of an admitted access leave the pages of lanes and ports but for their PAGE_SEQ. -/
theorem State.admitted_rd_page (s : State) (x : Access) {a : Nat} (hpg : 256 ≤ a / 65536) (h : a % 65536 ≠ 0x020) :
    (s.admitted x).rd 0 a = s.rd 0 a := by
  refine State.regsKept_rd (s.admitted_regs x) fun hk => ?_
  simp only [noteKeys, List.mem_cons, List.not_mem_nil, or_false, regKey, regA, pKey, pBmx] at hk
  omega

theorem State.admitted_ln (s : State) (x : Access) {l off : Nat} (hl : l < 384) (ho : off < 0x80) :
    (s.admitted x).rd 0 (lnA l off) = s.rd 0 (lnA l off) := by
  refine s.admitted_rd_page x ?_ ?_ <;>
  · unfold lnA regA pLane
    omega

theorem State.admitted_blk (s : State) (x : Access) {b off : Nat} (hb : b < 48) (ho : off < 65536) (h : off ≠ 0x020) :
    (s.admitted x).rd 0 (laneA b off) = s.rd 0 (laneA b off) := by
  refine s.admitted_rd_page x ?_ ?_ <;>
  · unfold laneA regA pLane
    omega

theorem State.admitted_port (s : State) (x : Access) {b off : Nat} (hb : b < 48) (ho : off < 65536) (h : off ≠ 0x020) :
    (s.admitted x).rd 0 (portA b off) = s.rd 0 (portA b off) := by
  refine s.admitted_rd_page x ?_ ?_ <;>
  · unfold portA regA pPort
    omega

theorem State.admitted_lanes (s : State) (x : Access) : (s.admitted x).lanes = s.lanes := by
  have h := congrArg State.lanes (s.admitted_frame x)
  exact h
theorem State.admitted_out (s : State) (x : Access) : (s.admitted x).out = s.out := by
  have h := congrArg State.out (s.admitted_frame x)
  exact h
theorem State.admitted_beat (s : State) (x : Access) : (s.admitted x).beat = s.beat := by
  have h := congrArg State.beat (s.admitted_frame x)
  exact h

section
variable (s : State) (x : Access)

theorem State.admitted_lnState {m : Nat} (hm : m < 384) : (s.admitted x).lnState m = s.lnState m :=
  congrArg (fld · 0 4) (s.admitted_ln x hm (by omega))
theorem State.admitted_mission {m : Nat} (hm : m < 384) : (s.admitted x).mission m = s.mission m :=
  congrArg (bitOf · 11) (s.admitted_ln x hm (by omega))
theorem State.admitted_lnEn {m : Nat} (hm : m < 384) : (s.admitted x).lnEn m = s.lnEn m :=
  congrArg (bitOf · 0) (s.admitted_ln x hm (by omega))
theorem State.admitted_blkMode {b : Nat} (hb : b < 48) : (s.admitted x).blkMode b = s.blkMode b :=
  congrArg (fld · 0 3) (s.admitted_blk x hb (by omega) (by omega))
theorem State.admitted_autoRetrain {b : Nat} (hb : b < 48) : (s.admitted x).autoRetrain b = s.autoRetrain b :=
  congrArg (bitOf · 8) (s.admitted_blk x hb (by omega) (by omega))
theorem State.admitted_seqState {b : Nat} (hb : b < 48) : (s.admitted x).seqState b = s.seqState b :=
  congrArg (fld · 0 4) (s.admitted_blk x hb (by omega) (by omega))
theorem State.admitted_portType {b : Nat} (hb : b < 48) : (s.admitted x).portType b = s.portType b :=
  congrArg (fld · 0 2) (s.admitted_port x hb (by omega) (by omega))

end

/-- The bits of a mask written at bit k. -/
theorem bitOf_wd_shift (m k : Nat) {j : Nat} (h : j < 32) : bitOf (wd (m * 2 ^ k)) j = (decide (k ≤ j) && m.testBit (j - k)) := by
  rw [bitOf_eq_getLsbD, wd, BitVec.getLsbD_ofNat, Nat.testBit_mul_two_pow]
  simp [h]

/-! ### Operations on one lane -/

theorem State.Wrote.laneCfg {s u : State} {K : Nat → Prop} (h : s.Wrote u K) {b : Nat} (hk : K (regKey 0 (laneA b 0x018))) :
    s.Wrote (u.laneCfg b) K := h.faultAt hk _ _ _

theorem State.lnState_laneCfg (s : State) (b m : Nat) : (s.laneCfg b).lnState m = s.lnState m :=
  State.lnState_of_rd (State.faultAt_rd _ (lnA_ne_laneA (by omega) (by omega) _ _) _ _ _)

theorem State.laneOff_wrote (s : State) {l : Nat} (hl : l < 384) : s.Wrote (s.laneOff l) (LaneWork (l / 8)) := by
  have status : LaneWork (l / 8) (regKey 0 (lnA l 0x04)) := .inl (laneMoves_ln rfl (by decide))
  have framed : s.Wrote (if s.mission l then s.framingLost l else s) (LaneWork (l / 8)) :=
    (s.framingLost_wrote hl).work.ite (.refl s _) _
  have logged := (framed.logAttempt (laneWork_ln rfl (by decide)) 6).ite framed (decide (1 ≤ s.lnState l ∧ s.lnState l ≤ 4) = true)
  exact (((logged.wrF status 4 2 0).wrF status 8 2 0).setLane l _).setLnState status (.inl (laneMoves_blkStatus _)) 0

theorem State.lnState_laneOff (s : State) {l m : Nat} (hl : l < 384) (hm : m < 384) :
    (s.laneOff l).lnState m = if m = l then 0 else s.lnState m := by
  have framed : (if s.mission l = true then s.framingLost l else s).lnState m = s.lnState m := by
    split
    · exact s.lnState_framingLost hl hm
    · rfl
  have logged (u : State) (c : Prop) [Decidable c] : (if c then u.logAttempt l 6 else u).lnState m = u.lnState m := by
    split
    · exact u.lnState_logAttempt l 6 m
    · rfl
  unfold State.laneOff
  simp only [State.lnState_setLnState, State.lnState_setLane]
  rw [State.lnState_wrF _ _ _ _ (by omega) (by omega), State.lnState_wrF _ _ _ _ (by omega) (by omega), logged, framed]

theorem State.startLane_wrote (s : State) (l : Nat) : s.Wrote (s.startLane l) (LaneWork (l / 8)) :=
  (s.beginAttempt_wrote l 1 true).work.ite (.refl s _) _

theorem State.lnState_startLane (s : State) (l m : Nat) : (s.startLane l).lnState m =
    if m = l then (if s.blkMode (l / 8) ≠ 0 ∧ s.lnEn l = true ∧ (s.lnState l = 0 ∨ s.lnState l = 7) then 1 else s.lnState l)
    else s.lnState m := by
  unfold State.startLane
  by_cases h : s.blkMode (l / 8) ≠ 0 ∧ s.lnEn l = true ∧ (s.lnState l = 0 ∨ s.lnState l = 7)
  · rw [if_pos ⟨h.2.1, h.2.2, h.1⟩, if_pos h, State.lnState_beginAttempt]
  · rw [if_neg fun g => h ⟨g.2.2, g.1, g.2.1⟩, if_neg h]
    split
    next e => rw [e]
    next => rfl

theorem State.shedLane_wrote (s : State) {l : Nat} (hl : l < 384) : s.Wrote (s.shedLane l) (LaneWork (l / 8)) :=
  (((State.Wrote.refl s _).setLane l _).trans (State.laneLost_wrote _ hl).work).ite (.refl s _) _

theorem State.lnState_shedLane {s : State} {l m : Nat} (hl : l < 384) (hm : m < 384) (hmode : s.blkMode (l / 8) = 1)
    (halone : s.portType (l / 8) ≠ 2 ∨ s.autoRetrain (l / 8) = false) : (s.shedLane l).lnState m =
    if m = l then (if s.lnState l = 5 then (if s.autoRetrain (l / 8) then 1 else 6) else s.lnState l) else s.lnState m := by
  have alone (h : s.portType (l / 8) ≠ 2) (r : LaneRec) : m ∈ (s.setLane l r).trainsWith l ↔ m = l := by
    rw [show (s.setLane l r).trainsWith l = [l] from if_neg h, List.mem_singleton]
  unfold State.shedLane
  by_cases h5 : s.lnState l = 5
  · have lost := State.lnState_laneLost (s := s.setLane l { s.lane l with shedAt := some s.beat }) hl
      (by rw [State.lnState_setLane, h5]; omega) hm
    rw [if_pos ⟨hmode, h5⟩, lost, if_pos h5, State.lnState_setLane]
    change (if s.autoRetrain (l / 8) = true ∧ _ then _ else _) = _
    rcases halone with h | h
    · simp only [alone h]
      by_cases e : m = l <;> simp [e]
    · simp [h]
  · rw [if_neg fun h => h5 h.2, if_neg h5]
    split
    next e => rw [e]
    next => rfl

theorem State.retrainLane_idle {s : State} {l : Nat} (h : s.mission l = false) :
    s.retrainLane l = if s.lnState l = 5 ∨ s.lnState l = 7 then s.beginAttempt l 1 false else s := by
  unfold State.retrainLane
  rw [h]
  rfl

theorem State.retrainLane_wrote (s : State) {l : Nat} (hl : l < 384) : s.Wrote (s.retrainLane l) (LaneWork (l / 8)) := by
  have framed := s.framingLost_wrote hl
  have dropped := framed.setLnState (laneMoves_ln rfl (by decide)) (laneMoves_blkStatus _) 6
  have shed := (framed.ite dropped (s.portType (l / 8) = 2)).trans (State.beginRetrain_wrote _ l)
  exact ((shed.ite (s.beginAttempt_wrote l 1 false) _).ite (.refl s _) _).work

theorem State.lnState_retrainLane {s : State} {l : Nat} (h : s.mission l = false) (m : Nat) : (s.retrainLane l).lnState m =
    if m = l then (if s.lnState l = 5 ∨ s.lnState l = 7 then 1 else s.lnState l) else s.lnState m := by
  rw [State.retrainLane_idle h]
  split
  · exact s.lnState_beginAttempt l 1 false m
  · split
    next e => rw [e]
    next => rfl

theorem State.mission_retrainLane {s : State} {l m : Nat} (h : s.mission l = false) (hm : s.mission m = false) :
    (s.retrainLane l).mission m = false := by
  rw [State.retrainLane_idle h]
  split
  · exact State.mission_beginAttempt 1 false hm
  · exact hm

/-! ### LANE.BLK_CTRL -/

/-- The lanes of a mask. -/
def namedLanes (b : Nat) (mask : BitVec 8) : List Nat := (blockLanes b).filter fun l => mask.getLsbD (l % 8)

theorem mem_namedLanes {b : Nat} {mask : BitVec 8} {l : Nat} : l ∈ namedLanes b mask ↔ l / 8 = b ∧ mask.getLsbD (l % 8) = true := by
  rw [namedLanes, List.mem_filter, mem_blockLanes]

theorem namedLanes_nodup (b : Nat) (mask : BitVec 8) : (namedLanes b mask).Nodup := (blockLanes_nodup b).filter _

theorem testBit_one_of_pos {j : Nat} (h : 0 < j) : Nat.testBit 1 j = false :=
  Nat.testBit_lt_two_pow (Nat.one_lt_two_pow (by omega))

theorem writeBlkCtrl_start (b : Nat) (s : State) : writeBlkCtrl b 1 s =
    if s.seqState b = 0 then s.laneCfg b else forEach (blockLanes b) (fun l s => s.startLane l) s := by
  have bit {j : Nat} (h : j < 32) : bitOf 1 j = (decide (0 ≤ j) && Nat.testBit 1 (j - 0)) := bitOf_wd_shift 1 0 h
  have hs (l : Nat) : bitOf 1 (16 + l % 8) = false := by rw [bit (by omega), testBit_one_of_pos (by omega), Bool.and_false]
  have hr (l : Nat) : bitOf 1 (8 + l % 8) = false := by rw [bit (by omega), testBit_one_of_pos (by omega), Bool.and_false]
  simp only [writeBlkCtrl, hs, hr, List.filter_false]
  rfl

theorem writeBlkCtrl_stop (b : Nat) (s : State) : writeBlkCtrl b 2 s = forEach (blockLanes b) (fun l s => s.laneOff l) s := by
  have bit {j : Nat} (h : j < 32) : bitOf 2 j = (decide (1 ≤ j) && Nat.testBit 1 (j - 1)) := bitOf_wd_shift 1 1 h
  have hs (l : Nat) : bitOf 2 (16 + l % 8) = false := by rw [bit (by omega), testBit_one_of_pos (by omega), Bool.and_false]
  have hr (l : Nat) : bitOf 2 (8 + l % 8) = false := by rw [bit (by omega), testBit_one_of_pos (by omega), Bool.and_false]
  simp only [writeBlkCtrl, hs, hr, List.filter_false]
  rfl

theorem writeBlkCtrl_retrain (b : Nat) (mask : BitVec 8) (s : State) :
    writeBlkCtrl b (wd (mask.toNat * 256)) s = forEach (namedLanes b mask) (fun l s => s.retrainLane l) s := by
  have bit {j : Nat} (h : j < 32) : bitOf (wd (mask.toNat * 256)) j = (decide (8 ≤ j) && mask.getLsbD (j - 8)) :=
    bitOf_wd_shift mask.toNat 8 h
  have hs (l : Nat) : bitOf (wd (mask.toNat * 256)) (16 + l % 8) = false := by
    rw [bit (by omega), BitVec.getLsbD_of_ge _ _ (by omega), Bool.and_false]
  have hr (l : Nat) : bitOf (wd (mask.toNat * 256)) (8 + l % 8) = mask.getLsbD (l % 8) := by
    rw [bit (by omega), Nat.add_sub_cancel_left]
    simp
  have h1 : bitOf (wd (mask.toNat * 256)) 1 = false := by rw [bit (by omega)]; rfl
  have h0 : bitOf (wd (mask.toNat * 256)) 0 = false := by rw [bit (by omega)]; rfl
  simp only [writeBlkCtrl, hs, hr, h1, h0, List.filter_false]
  rfl

theorem writeBlkCtrl_shed (b : Nat) (mask : BitVec 8) (s : State) :
    writeBlkCtrl b (wd (mask.toNat * 65536)) s = forEach (namedLanes b mask) (fun l s => s.shedLane l) s := by
  have bit {j : Nat} (h : j < 32) : bitOf (wd (mask.toNat * 65536)) j = (decide (16 ≤ j) && mask.getLsbD (j - 16)) :=
    bitOf_wd_shift mask.toNat 16 h
  have hs (l : Nat) : bitOf (wd (mask.toNat * 65536)) (16 + l % 8) = mask.getLsbD (l % 8) := by
    rw [bit (by omega), Nat.add_sub_cancel_left]
    simp
  have hr (l : Nat) : bitOf (wd (mask.toNat * 65536)) (8 + l % 8) = false := by
    rw [bit (by omega), decide_eq_false (by omega), Bool.false_and]
  have h1 : bitOf (wd (mask.toNat * 65536)) 1 = false := by rw [bit (by omega)]; rfl
  have h0 : bitOf (wd (mask.toNat * 65536)) 0 = false := by rw [bit (by omega)]; rfl
  simp only [writeBlkCtrl, hs, hr, h1, h0, List.filter_false]
  rfl

/-- A loop over lanes of a block that keeps to the block's registers, each round by a rule for its own lane. -/
theorem laneLoop {b : Nat} (hb : b < 48) {ls : List Nat} (hls : ∀ l ∈ ls, l / 8 = b) {f : Nat → State → State}
    (hf : ∀ l < 384, ∀ u : State, u.Wrote (f l u) (LaneWork (l / 8))) (s : State) : s.Wrote (forEach ls f s) (LaneWork b) :=
  (State.Wrote.refl s _).forEach fun l hl u hu => by
    have h := hls l hl
    exact hu.trans (h ▸ hf l (by omega) u)

/-! ### Lanes after block control -/

theorem lnState_startLanes {s : State} {b : Nat} (hb : b < 48) {m : Nat} (hm : m / 8 = b) :
    (forEach (blockLanes b) (fun l s => s.startLane l) s).lnState m =
      if s.blkMode b ≠ 0 ∧ s.lnEn m = true ∧ (s.lnState m = 0 ∨ s.lnState m = 7) then 1 else s.lnState m := by
  rw [forEach_lnState (I := fun u => s.Wrote u (LaneWork b)) (blockLanes_nodup b)
    (g := fun x st => if s.blkMode b ≠ 0 ∧ s.lnEn x = true ∧ (st = 0 ∨ st = 7) then 1 else st) ?_ ?_ (.refl s _) (by omega),
    if_pos (mem_blockLanes.mpr hm)]
  · intro x hx u hu
    exact hu.trans (mem_blockLanes.mp hx ▸ u.startLane_wrote x)
  · intro x hx u hu n _
    have hxb := mem_blockLanes.mp hx
    rw [u.lnState_startLane, hxb, hu.blkMode hb, hu.lnEn (by omega)]

theorem lnState_stopLanes (s : State) {b : Nat} (hb : b < 48) {m : Nat} (hm : m / 8 = b) :
    (forEach (blockLanes b) (fun l s => s.laneOff l) s).lnState m = 0 := by
  rw [forEach_lnState (I := fun _ => True) (blockLanes_nodup b) (g := fun _ _ => 0) (fun _ _ _ _ => trivial) ?_ trivial (by omega),
    if_pos (mem_blockLanes.mpr hm)]
  intro x hx u _ n hn
  have hxb := mem_blockLanes.mp hx
  exact u.lnState_laneOff (by omega) hn

theorem lnState_retrainLanes {s : State} {b : Nat} (hb : b < 48) {mask : BitVec 8}
    (hidle : ∀ l ∈ namedLanes b mask, s.mission l = false) {m : Nat} (hm : m / 8 = b) :
    (forEach (namedLanes b mask) (fun l s => s.retrainLane l) s).lnState m =
      if mask.getLsbD (m % 8) = true ∧ (s.lnState m = 5 ∨ s.lnState m = 7) then 1 else s.lnState m := by
  rw [forEach_lnState (I := fun u => ∀ l ∈ namedLanes b mask, u.mission l = false) (namedLanes_nodup b mask)
    (g := fun _ st => if st = 5 ∨ st = 7 then 1 else st) (fun x hx u hu l hl => State.mission_retrainLane (hu x hx) (hu l hl))
    (fun x hx u hu n _ => State.lnState_retrainLane (hu x hx) n) hidle (by omega)]
  simp only [mem_namedLanes, hm, true_and]
  rw [ite_and]

theorem lnState_shedLanes {s : State} {b : Nat} (hb : b < 48) {mask : BitVec 8} (hmode : s.blkMode b = 1)
    (halone : s.portType b ≠ 2 ∨ s.autoRetrain b = false) {m : Nat} (hm : m / 8 = b) :
    (forEach (namedLanes b mask) (fun l s => s.shedLane l) s).lnState m =
      if mask.getLsbD (m % 8) = true ∧ s.lnState m = 5 then (if s.autoRetrain b then 1 else 6) else s.lnState m := by
  rw [forEach_lnState (I := fun u => s.Wrote u (LaneWork b)) (namedLanes_nodup b mask)
    (g := fun _ st => if st = 5 then (if s.autoRetrain b then 1 else 6) else st) ?_ ?_ (.refl s _) (by omega)]
  · simp only [mem_namedLanes, hm, true_and]
    rw [ite_and]
  · intro x hx u hu
    obtain ⟨hxb, -⟩ := mem_namedLanes.mp hx
    exact hu.trans (hxb ▸ u.shedLane_wrote (by omega))
  · intro x hx u hu n hn
    obtain ⟨hxb, -⟩ := mem_namedLanes.mp hx
    rw [State.lnState_shedLane (by omega) hn (by rw [hxb, hu.blkMode hb, hmode])
      (by rw [hxb, hu.portType hb, hu.autoRetrain hb]; exact halone), hxb, hu.autoRetrain hb]

/-! ### Block control -/

theorem State.Wrote.kept_of_admitted {s z : State} {x : Access} {K : Nat → Prop} (h : (s.admitted x).Wrote z K) :
    z.tbl = s.tbl ∧ s.memKept z :=
  ⟨h.tbl.trans (s.admitted_tbl x), fun a => (h.memKept a).trans (s.admitted_memKept x a)⟩

/-- Settles O25: each command is one loop over the lanes that it names. -/
theorem laneBlockControl : Obligations.LaneBlockControl := by
  intro s t b
  have hb := b.isLt
  have blk {i : Nat} (hi : i < 8) : (b * 8 + i) / 8 = b.val := by omega
  refine ⟨fun ha => State.completes_of_admitted ha rfl fun r => ?_, fun ha => State.completes_of_admitted ha rfl fun r => ?_,
    fun mask ha hidle => State.completes_of_admitted ha rfl fun r => ?_,
    fun mask ha hmode halone => State.completes_of_admitted ha rfl fun r => ?_⟩
  · rw [writeBlkCtrl_start, s.admitted_seqState _ hb]
    split
    next h0 =>
      refine ⟨fun i hi => ?_, ((State.Wrote.refl _ _).laneCfg (K := LaneWork b) (laneWork_blk b (by decide))).kept_of_admitted⟩
      exact (State.lnState_laneCfg _ _ _).trans ((s.admitted_lnState _ (by omega)).trans (if_neg fun g => g.1 h0).symm)
    next h0 =>
      refine ⟨fun i hi => (lnState_startLanes hb (blk hi)).trans ?_,
        (laneLoop hb (fun _ => mem_blockLanes.mp) (fun l _ u => u.startLane_wrote l) _).kept_of_admitted⟩
      rw [s.admitted_blkMode _ hb, s.admitted_lnEn _ (by omega), s.admitted_lnState _ (by omega)]
      simp only [ne_eq, h0, not_false_eq_true, true_and]
  · rw [writeBlkCtrl_stop]
    exact ⟨fun i hi => lnState_stopLanes _ hb (blk hi),
      (laneLoop hb (fun _ => mem_blockLanes.mp) (fun l hl u => u.laneOff_wrote hl) _).kept_of_admitted⟩
  · rw [writeBlkCtrl_retrain]
    refine ⟨fun i hi => (lnState_retrainLanes hb ?_ (blk hi)).trans ?_,
      (laneLoop hb (fun _ h => (mem_namedLanes.mp h).1) (fun l hl u => u.retrainLane_wrote hl) _).kept_of_admitted⟩
    · intro l hl
      obtain ⟨hlb, hmask⟩ := mem_namedLanes.mp hl
      have := hidle (l % 8) (by omega) hmask
      rw [s.admitted_mission _ (by omega), ← this]
      congr 1
      omega
    · rw [s.admitted_lnState _ (by omega)]
  · rw [writeBlkCtrl_shed]
    refine ⟨fun i hi => (lnState_shedLanes hb ?_ ?_ (blk hi)).trans ?_,
      (laneLoop hb (fun _ h => (mem_namedLanes.mp h).1) (fun l hl u => u.shedLane_wrote hl) _).kept_of_admitted⟩
    · rw [s.admitted_blkMode _ hb, hmode]
    · rw [s.admitted_portType _ hb, s.admitted_autoRetrain _ hb]
      exact halone
    · rw [s.admitted_lnState _ (by omega), s.admitted_autoRetrain _ hb]

end Sys2Proof.Machine
end

section
/-!
PROOFS. Scope: the registers of lanes that a host writes: configuration, patterns, injection and coefficients (R101 to R110).
-/
namespace Sys2Proof.Machine

/-! ### Words written through a mask -/

theorem bitOf_wd_land (d : Word) (m : Nat) {j : Nat} (h : j < 32) :
    bitOf (wd (Nat.land d.toNat m)) j = (bitOf d j && decide (m / 2 ^ j % 2 = 1)) := by
  have split : (Nat.land d.toNat m).testBit j = (d.toNat.testBit j && m.testBit j) := Nat.testBit_and d.toNat m j
  rw [bitOf_wd _ h, ← Nat.testBit_eq_decide_div_mod_eq, split, bitOf_eq_getLsbD, BitVec.getLsbD,
    Nat.testBit_eq_decide_div_mod_eq (x := m)]

theorem fld_setBit_below (w : Word) (i : Nat) (b : Bool) {lo n : Nat} (h : lo + n ≤ i) (hi : i < 32) :
    fld (setBit w i b) lo n = fld w lo n := fld_setFld_below _ _ _ _ _ _ (by omega) h

theorem bitOf_setBit_below (w : Word) (i : Nat) (b : Bool) {j : Nat} (h : j < i) (hi : i < 32) : bitOf (setBit w i b) j = bitOf w j :=
  bitOf_setFld_other _ _ _ _ _ (by omega) (.inl h)

/-- One bit as a field of one bit. -/
theorem fld_one_inj {v w : Word} {i j : Nat} : fld v i 1 = fld w j 1 ↔ bitOf v i = bitOf w j := by
  have hv := fld_lt v i 1
  have hw := fld_lt w j 1
  rw [bitOf_eq_fld, bitOf_eq_fld]
  generalize fld v i 1 = x at *
  generalize fld w j 1 = y at *
  interval_cases x <;> interval_cases y <;> decide

/-! ### What the counts leave -/

section
variable (s : State) (x : Access)

theorem State.admitted_trainMan {b : Nat} (hb : b < 48) : (s.admitted x).trainMan b = s.trainMan b :=
  congrArg (bitOf · 9) (s.admitted_blk x hb (by omega) (by omega))
theorem State.admitted_injArm {b : Nat} (hb : b < 48) : (s.admitted x).injArm b = s.injArm b :=
  congrArg (bitOf · 11) (s.admitted_blk x hb (by omega) (by omega))
theorem State.admitted_farrierHeld {m : Nat} (hm : m < 384) : (s.admitted x).farrierHeld m = s.farrierHeld m :=
  congrArg (bitOf · 14) (s.admitted_ln x hm (by omega))
theorem State.admitted_laneLocked {b : Nat} (hb : b < 48) : (s.admitted x).pageLocked (pLane b) = s.pageLocked (pLane b) :=
  congrArg (bitOf · 0) (s.admitted_blk x (off := 0x010) hb (by omega) (by omega))
theorem State.admitted_portLocked {b : Nat} (hb : b < 48) : (s.admitted x).pageLocked (pPort b) = s.pageLocked (pPort b) :=
  congrArg (bitOf · 0) (s.admitted_port x (off := 0x010) hb (by omega) (by omega))

end

/-! ### Refused configuration -/

theorem State.laneCfg_wrote (s : State) (b : Nat) : s.Wrote (s.laneCfg b) fun k => k = regKey 0 (laneA b 0x018) :=
  (State.Wrote.refl s fun k => k = regKey 0 (laneA b 0x018)).laneCfg rfl

theorem State.laneCfg_rd_ln (s : State) (b l : Nat) {off : Nat} (ho : off < 0x80) :
    (s.laneCfg b).rd 0 (lnA l off) = s.rd 0 (lnA l off) := (s.laneCfg_wrote b).rd (lnA_ne_laneA ho (by omega) _ _)

theorem State.laneCfg_rd_blk (s : State) (b : Nat) {off : Nat} (h : off ≠ 0x018) :
    (s.laneCfg b).rd 0 (laneA b off) = s.rd 0 (laneA b off) := (s.laneCfg_wrote b).rd (laneA_ne_off h b)

/-- A refused write sets PAGE_FAULT.CFG. -/
theorem State.laneCfg_rd_fault (s : State) (b : Nat) : bitOf ((s.laneCfg b).rd 0 (regA (pLane b) 0x018)) 4 = true :=
  State.faultAt_rd_fault _ _ (by omega) _ _

theorem State.laneCfg_lanes (s : State) (b : Nat) : (s.laneCfg b).lanes = s.lanes := State.faultAt_lanes _ _ _ _ _

/-! ### LANE.BLK_CFG -/

theorem State.checkAgree_wrote (s : State) {b : Nat} (hb : b < 48) : s.Wrote (s.checkAgree b) (LaneMoves b) :=
  (State.Wrote.refl s _).ite ((State.Wrote.refl s _).raisePort hb 8) _

theorem State.lnState_checkAgree (s : State) {b : Nat} (hb : b < 48) (m : Nat) : (s.checkAgree b).lnState m = s.lnState m := by
  unfold State.checkAgree
  split
  · rfl
  · exact State.lnState_raiseOwned hb s 8 m

/-- The agreement of the two pages is told in the PORT page. -/
theorem State.checkAgree_rd_blk (s : State) {b : Nat} (hb : b < 48) {off : Nat} (ho : off < 0x100) (h : off ≠ 0x048) :
    (s.checkAgree b).rd 0 (laneA b off) = s.rd 0 (laneA b off) := (s.checkAgree_wrote hb).rd (not_laneMoves_blk hb ho h)

/-- The guarded fields of R107 are those of the register. -/
def State.guardedSame (s : State) (b : Nat) (d : Word) : Prop :=
  fld d 0 3 = s.blkMode b ∧ fld d 4 2 = s.maxStep b ∧ bitOf d 9 = s.trainMan b ∧ bitOf d 10 = s.shedEn b

theorem State.guardedSame_iff (s : State) (b : Nat) (d : Word) : s.guardedSame b d ↔
    (fld d 0 3, fld d 4 2, fld d 9 1, fld d 10 1) = (fld (s.rd 0 (laneA b 0x040)) 0 3, fld (s.rd 0 (laneA b 0x040)) 4 2,
      fld (s.rd 0 (laneA b 0x040)) 9 1, fld (s.rd 0 (laneA b 0x040)) 10 1) := by
  simp only [Prod.mk.injEq, fld_one_inj]
  rfl

/-- LANE.BLK_CFG stored: a new MODE takes every lane to OFF, AUTO_RETRAIN = 1 retrains the lost ones. -/
def State.blkCfgStored (s : State) (b : Nat) (d : Word) : State :=
  let s1 := s.wr 0 (laneA b 0x040) (wd (Nat.land d.toNat 0xF37))
  if fld d 0 3 ≠ s.blkMode b then forEach (blockLanes b) (fun l s => s.laneOff l) s1
  else if bitOf d 8 then forEach (blockLanes b) (fun l s => if s.lnState l = 6 then s.beginRetrain l else s) s1
  else s1

/-- A legal write is stored while the guarded fields may change, or where they do not. -/
theorem writeBlkCfg_legal {s : State} {b : Nat} {d : Word} (hlock : s.pageLocked (pLane b) = false) (hmode : fld d 0 3 < 5)
    (hstep : 2 ≤ fld d 4 2) :
    (s.seqState b = 0 ∨ s.seqState b = 1 ∨ s.guardedSame b d → writeBlkCfg b d s = s.blkCfgStored b d) ∧
    (¬(s.seqState b = 0 ∨ s.seqState b = 1 ∨ s.guardedSame b d) → writeBlkCfg b d s = s.laneCfg b) := by
  have legal : ¬(5 ≤ fld d 0 3 ∨ fld d 4 2 < 2) := by omega
  unfold writeBlkCfg
  rw [hlock, State.guardedSame_iff]
  exact ⟨fun h => (if_neg legal).trans (if_neg (by tauto)), fun h => (if_neg legal).trans (if_pos (by tauto))⟩

theorem State.blkCfgStored_rd (s : State) {b : Nat} (hb : b < 48) (d : Word) :
    (s.blkCfgStored b d).rd 0 (laneA b 0x040) = wd (Nat.land d.toNat 0xF37) := by
  have keeps {u z : State} (h : u.Wrote z (LaneWork b)) : z.rd 0 (laneA b 0x040) = u.rd 0 (laneA b 0x040) :=
    h.blkReg hb (by omega) (by decide)
  have stored (v : Word) : (s.wr 0 (laneA b 0x040) v).rd 0 (laneA b 0x040) = v := State.rd_wr_same _ _ _ _
  unfold State.blkCfgStored
  dsimp only
  split
  · rw [keeps (laneLoop hb (fun _ => mem_blockLanes.mp) (fun l hl u => u.laneOff_wrote hl) _), stored]
  · split
    · rw [keeps (laneLoop hb (fun _ => mem_blockLanes.mp)
        (fun l _ u => (u.beginRetrain_wrote l).work.ite (.refl u _) _) _), stored]
    · exact stored _

/-- LANE_BLK_CFG_WRITE with a legal word. -/
theorem laneBlkCfgWrite {s : State} {t : Tag} {b : Fin 48} {d : Word} (ha : s.admits (.w32 t (laneA b 0x040) d) = true)
    (hlock : s.pageLocked (pLane b) = false) (hmode : fld d 0 3 < 5) (hstep : 2 ≤ fld d 4 2) :
    (s.seqState b = 0 ∨ s.seqState b = 1 ∨ s.guardedSame b d → s.completes (.laneBlkCfgWrite t b d) fun z =>
      z.rd 0 (laneA b 0x040) = wd (Nat.land d.toNat 0xF37) ∧ (fld d 0 3 ≠ s.blkMode b → ∀ i, i < 8 → z.lnState (b * 8 + i) = 0)) ∧
    (¬(s.seqState b = 0 ∨ s.seqState b = 1 ∨ s.guardedSame b d) → s.completes (.laneBlkCfgWrite t b d) fun z =>
      z.rd 0 (laneA b 0x040) = s.rd 0 (laneA b 0x040) ∧ bitOf (z.rd 0 (regA (pLane b) 0x018)) 4 = true) := by
  have hb := b.isLt
  have counted (x : Access) : (s.admitted x).rd 0 (laneA b 0x040) = s.rd 0 (laneA b 0x040) := s.admitted_blk x hb (by omega) (by omega)
  have same (x : Access) : (s.admitted x).guardedSame b d ↔ s.guardedSame b d := by
    rw [State.guardedSame_iff, State.guardedSame_iff, counted]
  have legal (x : Access) := writeBlkCfg_legal (d := d) ((s.admitted_laneLocked x hb).trans hlock) hmode hstep
  simp only [same, s.admitted_seqState _ hb] at legal
  refine ⟨fun h => State.completes_of_admitted ha rfl fun r => ?_, fun h => State.completes_of_admitted ha rfl fun r => ?_⟩
  · rw [(legal _).1 h]
    refine ⟨(State.checkAgree_rd_blk _ hb (by omega) (by omega)).trans (State.blkCfgStored_rd _ hb d), fun hne i hi => ?_⟩
    refine (State.lnState_checkAgree _ hb _).trans ?_
    unfold State.blkCfgStored
    rw [s.admitted_blkMode _ hb, if_pos hne]
    exact lnState_stopLanes _ hb (by omega)
  · rw [(legal _).2 h]
    refine ⟨(State.checkAgree_rd_blk _ hb (by omega) (by omega)).trans ((State.laneCfg_rd_blk _ b (by omega)).trans (counted _)), ?_⟩
    refine (congrArg (bitOf · 4) (State.checkAgree_rd_blk _ hb (by omega) (by omega))).trans (State.laneCfg_rd_fault _ b)

/-! ### LN_CFG -/

/-- LN_CFG written with EN cleared and the other fields as they read. -/
def State.lnCfgCleared (s : State) (l : Nat) : State := s.wr 0 (lnA l 0x00)
  (wd (Nat.land (setBit (s.rd 0 (lnA l 0x00)) 0 false).toNat 0x37))

theorem writeLnCfg_disable {s : State} {l : Nat} {cur : Word} (hcur : s.rd 0 (lnA l 0x00) = cur)
    (hlock : s.pageLocked (pLane (l / 8)) = false) (hloop : fld cur 4 2 ≠ 3) :
    writeLnCfg l (setBit cur 0 false) s = if s.lnEn l then (s.lnCfgCleared l).laneOff l else s.lnCfgCleared l := by
  subst hcur
  have kept {lo n : Nat} (h : 0 < lo) : fld (setBit (s.rd 0 (lnA l 0x00)) 0 false) lo n = fld (s.rd 0 (lnA l 0x00)) lo n :=
    fld_setBit_above _ _ _ h (by omega)
  simp only [writeLnCfg, hlock, kept (lo := 4) (by omega), kept (lo := 1) (by omega), hloop, bitOf_setBit_same _ 0 false (by omega),
    ne_eq,
    not_true_eq_false, or_false, and_false, Bool.false_eq_true, if_false, Bool.not_false, Bool.and_true]
  rfl

theorem State.lnCfgCleared_lnEn (s : State) (l : Nat) : (s.lnCfgCleared l).lnEn l = false := by
  rw [State.lnEn, State.lnCfgCleared, State.rd_wr_same, bitOf_wd_land _ _ (by omega), bitOf_setBit_same _ 0 false (by omega),
    Bool.false_and]

theorem writeLnCfg_off {s : State} {l : Nat} (hl : l < 384) {cur : Word} (hcur : s.rd 0 (lnA l 0x00) = cur)
    (hlock : s.pageLocked (pLane (l / 8)) = false) (hloop : fld cur 4 2 ≠ 3) :
    s.Wrote (writeLnCfg l (setBit cur 0 false) s) (fun _ => True) ∧ (writeLnCfg l (setBit cur 0 false) s).lnEn l = false ∧
    (s.lnEn l = true → (writeLnCfg l (setBit cur 0 false) s).lnState l = 0) := by
  have cleared : s.Wrote (s.lnCfgCleared l) fun _ => True := (State.Wrote.refl s _).wr trivial _
  rw [writeLnCfg_disable hcur hlock hloop]
  split
  · have off := State.laneOff_wrote (s.lnCfgCleared l) hl
    exact ⟨cleared.trans (off.mono fun _ _ => trivial), (off.lnEn hl).trans (s.lnCfgCleared_lnEn l),
      fun _ => (State.lnState_laneOff _ hl hl).trans (if_pos rfl)⟩
  next hen => exact ⟨cleared, s.lnCfgCleared_lnEn l, fun h => absurd h hen⟩

/-- LANE_DISABLE. -/
theorem laneDisable {s : State} {t : Tag} {l : Fin 384} (ha : s.admits (.w32 t (lnA l 0x00)
    (setBit (s.rd 0 (lnA l 0x00)) 0 false)) = true)
    (hlock : s.pageLocked (pLane (l / 8)) = false) (hloop : s.rdF 0 (lnA l 0x00) 4 2 ≠ 3) : s.completes (.laneDisable t l) fun z =>
      z.lnEn l = false ∧ (s.lnEn l = true → z.lnState l = 0) ∧ z.tbl = s.tbl ∧ s.memKept z := by
  have hl := l.isLt
  refine State.completes_of_admitted ha rfl fun r => ?_
  obtain ⟨hwrote, hen, hst⟩ := writeLnCfg_off hl
    (s.admitted_ln (.w32 t (lnA l 0x00) (setBit (s.rd 0 (lnA l 0x00)) 0 false)) hl (by omega))
    ((s.admitted_laneLocked _ (by omega)).trans hlock) hloop
  rw [s.admitted_lnEn _ hl] at hst
  have same := hwrote.kept_of_admitted
  generalize writeLnCfg l _ _ = z at *
  exact ⟨hen, hst, same⟩

/-! ### Patterns -/

/-- A write of LN_PRBS_GEN that R102, R103 and R110 accept. -/
def State.patternAccepted (s : State) (l : Nat) (d : Word) : Prop :=
  s.farrierHeld l = false ∧ (bitOf d 0 = false ∨ s.mission l = false) ∧ patternOk (s.blkMode (l / 8)) (fld d 4 4) = true

/-- LN_PRBS_GEN stored; with EN the pattern leaves the lane. -/
def State.patternStored (s : State) (l : Nat) (d : Word) : State :=
  let s1 := s.wr 0 (lnA l 0x14) (wd (Nat.land d.toNat 0x1F1))
  if bitOf d 0 then s1.emit (.pattern l (fld d 4 4) (s1.genLevels l)) else s1

theorem writePrbsGen_cases (l : Nat) (d : Word) (s : State) :
    (s.patternAccepted l d → writePrbsGen l d s = s.patternStored l d) ∧
    (¬s.patternAccepted l d → writePrbsGen l d s = s.laneCfg (l / 8)) := by
  have cond : (s.farrierHeld l || (bitOf d 0 && s.mission l) || !patternOk (s.blkMode (l / 8)) (fld d 4 4)) = true ↔
      ¬s.patternAccepted l d := by
    unfold State.patternAccepted
    cases s.farrierHeld l <;> cases bitOf d 0 <;> cases s.mission l <;> simp
  exact ⟨fun h => if_neg (by rw [cond]; exact not_not_intro h), fun h => if_pos (cond.mpr h)⟩

theorem State.patternStored_rd (s : State) (l : Nat) (d : Word) :
    (s.patternStored l d).rd 0 (lnA l 0x14) = wd (Nat.land d.toNat 0x1F1) := by
  have stored := State.rd_wr_same s 0 (lnA l 0x14) (wd (Nat.land d.toNat 0x1F1))
  unfold State.patternStored
  dsimp only
  split
  · exact stored
  · exact stored

theorem State.patternStored_out (s : State) (l : Nat) (d : Word) : (s.patternStored l d).out =
    s.out ++ if bitOf d 0 then [.pattern l (fld d 4 4) ((s.patternStored l d).genLevels l)] else [] := by
  unfold State.patternStored
  dsimp only
  split
  · rfl
  · exact (List.append_nil _).symm

/-- The pattern that leaves beside the register changes no table word and no byte. -/
theorem State.patternStored_kept (s : State) (l : Nat) (d : Word) : (s.patternStored l d).tbl = s.tbl ∧
    s.memKept (s.patternStored l d) := by
  unfold State.patternStored
  dsimp only
  split
  · exact ⟨rfl, fun _ => rfl⟩
  · exact ⟨rfl, fun _ => rfl⟩

/-- PRBS_GEN_WRITE. -/
theorem prbsGenWrite {s : State} {t : Tag} {l : Fin 384} {d : Word} (ha : s.admits (.w32 t (lnA l 0x14) d) = true) :
    s.completes (.prbsGenWrite t l d) fun z =>
      (s.patternAccepted l d → z.rd 0 (lnA l 0x14) = wd (Nat.land d.toNat 0x1F1) ∧
        z.out = s.out ++ if bitOf d 0 then [.pattern l (fld d 4 4) (z.genLevels l)] else []) ∧
      (¬s.patternAccepted l d → z.rd 0 (lnA l 0x14) = s.rd 0 (lnA l 0x14) ∧ z.out = s.out) ∧ z.tbl = s.tbl ∧ s.memKept z := by
  have hl := l.isLt
  refine State.completes_of_admitted ha rfl fun r => ?_
  have accepted : (s.admitted (.w32 t (lnA l 0x14) d)).patternAccepted l d ↔ s.patternAccepted l d := by
    rw [State.patternAccepted, s.admitted_farrierHeld _ hl, s.admitted_mission _ hl, s.admitted_blkMode _ (by omega)]
    rfl
  have hout := s.admitted_out (.w32 t (lnA l 0x14) d)
  have hrd := s.admitted_ln (.w32 t (lnA l 0x14) d) (off := 0x14) hl (by omega)
  have htbl := s.admitted_tbl (.w32 t (lnA l 0x14) d)
  have hmem := s.admitted_memKept (.w32 t (lnA l 0x14) d)
  obtain ⟨hstored, hrefused⟩ := writePrbsGen_cases l d (s.admitted (.w32 t (lnA l 0x14) d))
  rw [accepted] at hstored hrefused
  generalize s.admitted (.w32 t (lnA l 0x14) d) = u at *
  by_cases h : s.patternAccepted l d
  · rw [hstored h]
    obtain ⟨ktbl, kmem⟩ := u.patternStored_kept l d
    exact ⟨fun _ => ⟨u.patternStored_rd l d, hout ▸ u.patternStored_out l d⟩, fun g => absurd h g, ktbl.trans htbl,
      fun a => (kmem a).trans (hmem a)⟩
  · rw [hrefused h]
    have cfg := u.laneCfg_wrote (l / 8)
    exact ⟨fun g => absurd g h, fun _ => ⟨(u.laneCfg_rd_ln _ l (by omega)).trans hrd, cfg.out.trans hout⟩, cfg.tbl.trans htbl,
      fun a => (cfg.memKept a).trans (hmem a)⟩

/-! ### Injection -/

/-- What an accepted GO leaves, by MODE. -/
def State.injected (s : State) (l : Nat) (d : Word) : State :=
  let s1 := s.wr 0 (lnA l 0x1C) (wd (Nat.land (setBit d 31 true).toNat 0x00FF3F07))
  match fld d 0 2 with
  | 0 => s1.setLane l { s.lane l with rateInj := false }
  | 1 => s1.inject l (fld d 2 1) 1
  | 2 => s1.setLane l { s.lane l with rateInj := true }
  | _ => if fld d 16 8 = 0 then s1 else s1.inject l (fld d 2 1) (fld d 16 8)

/-- A write of LN_INJ with GO, where the lane is not held and mission data may be changed. -/
theorem writeInj_go {s : State} {l : Nat} {d : Word} (hheld : s.farrierHeld l = false)
    (harm : bitOf d 2 = false ∨ s.injArm (l / 8) = true) :
    (10 ≤ fld d 8 6 ∧ fld d 8 6 ≤ 40 ∧ (s.lane l).injUntil ≤ s.beat → writeInj l (setBit d 31 true) s = s.injected l d) ∧
    (¬(10 ≤ fld d 8 6 ∧ fld d 8 6 ≤ 40 ∧ (s.lane l).injUntil ≤ s.beat) →
      writeInj l (setBit d 31 true) s = s.laneCfg (l / 8) ∨ writeInj l (setBit d 31 true) s = s) := by
  have below {lo n : Nat} (h : lo + n ≤ 31) : fld (setBit d 31 true) lo n = fld d lo n := fld_setBit_below d 31 true h (by omega)
  have armed : (bitOf d 2 && !s.injArm (l / 8)) = false := by
    rcases harm with h | h <;> simp [h]
  have hmode := fld_lt d 0 2
  unfold writeInj State.injected
  simp only [below (lo := 0) (n := 2) (by omega), below (lo := 2) (n := 1) (by omega), below (lo := 8) (n := 6) (by omega),
    below (lo := 16) (n := 8) (by omega), bitOf_setBit_below d 31 true (j := 2) (by omega) (by omega),
    bitOf_setBit_same d 31 true (by omega), hheld, armed, Bool.false_or, Bool.true_and, Bool.not_true, Bool.false_eq_true, if_false,
    Bool.not_eq_true', decide_eq_false_iff_not, decide_eq_true_eq]
  constructor
  · rintro ⟨hmin, hmax, hidle⟩
    rw [if_neg (by omega), if_neg (by omega)]
    generalize fld d 0 2 = mode at *
    interval_cases mode <;> rfl
  · intro h
    by_cases hrate : 10 ≤ fld d 8 6 ∧ fld d 8 6 ≤ 40
    · exact .inr ((if_neg (not_not_intro hrate)).trans (if_pos (by omega)))
    · exact .inl (if_pos hrate)

/-- INJECT_GO. -/
theorem injectGo {s : State} {t : Tag} {l : Fin 384} {d : Word} (ha : s.admits (.w32 t (lnA l 0x1C) (setBit d 31 true)) = true)
    (hheld : s.farrierHeld l = false) (harm : bitOf d 2 = false ∨ s.injArm (l / 8) = true) : s.completes (.injectGo t l d) fun z =>
      let ok := 10 ≤ fld d 8 6 ∧ fld d 8 6 ≤ 40 ∧ (s.lane l).injUntil ≤ s.beat
      (ok → fld d 0 2 = 1 → z.out = s.out ++ [.errors l (fld d 2 1) 1]) ∧
      (ok → fld d 0 2 = 2 → (z.lane l).rateInj = true ∧ z.out = s.out) ∧
      (ok → fld d 0 2 = 3 → z.out = if fld d 16 8 = 0 then s.out else s.out ++ [.errors l (fld d 2 1) (fld d 16 8)]) ∧
      (ok → fld d 0 2 = 0 → (z.lane l).rateInj = false ∧ z.out = s.out) ∧
      (¬ok → z.out = s.out ∧ z.lanes = s.lanes ∧ z.rd 0 (lnA l 0x1C) = s.rd 0 (lnA l 0x1C)) := by
  have hl := l.isLt
  refine State.completes_of_admitted ha rfl fun r => ?_
  rw [← s.admitted_farrierHeld (.w32 t (lnA l 0x1C) (setBit d 31 true)) hl] at hheld
  rw [← s.admitted_injArm (.w32 t (lnA l 0x1C) (setBit d 31 true)) (by omega)] at harm
  obtain ⟨hgo, hno⟩ := writeInj_go hheld harm
  rw [State.lane_of_lanes (s.admitted_lanes _), s.admitted_beat] at hgo hno
  have hout := s.admitted_out (.w32 t (lnA l 0x1C) (setBit d 31 true))
  have hlanes := s.admitted_lanes (.w32 t (lnA l 0x1C) (setBit d 31 true))
  have hrd := s.admitted_ln (.w32 t (lnA l 0x1C) (setBit d 31 true)) (off := 0x1C) hl (by omega)
  generalize s.admitted (.w32 t (lnA l 0x1C) (setBit d 31 true)) = u at *
  rw [← hout]
  refine ⟨fun ok hm => ?_, fun ok hm => ?_, fun ok hm => ?_, fun ok hm => ?_, fun ok => ?_⟩
  · rw [hgo ok, State.injected, hm]
    rfl
  · rw [hgo ok, State.injected, hm]
    exact ⟨congrArg LaneRec.rateInj (State.lane_setLane_same _ _ _), rfl⟩
  · rw [hgo ok, State.injected, hm]
    exact apply_ite State.out (fld d 16 8 = 0) _ _
  · rw [hgo ok, State.injected, hm]
    exact ⟨congrArg LaneRec.rateInj (State.lane_setLane_same _ _ _), rfl⟩
  · rcases hno ok with e | e <;> rw [e]
    · exact ⟨(u.laneCfg_wrote (l / 8)).out, (u.laneCfg_lanes _).trans hlanes, (u.laneCfg_rd_ln _ l (by omega)).trans hrd⟩
    · exact ⟨rfl, hlanes, hrd⟩

/-! ### Coefficients -/

/-- TX_COEF_WRITE. -/
theorem txCoefWrite {s : State} {t : Tag} {l : Fin 384} {d : BitVec 64}
    (ha : s.admits ⟨t, tagNum t, lnA l 0x08, 3, false, true, d.toNat⟩ = true) : s.completes (.txCoefWrite t l d) fun z =>
      (z.lane l).pendCoef = (if s.trainMan (l / 8) = true ∧ coefsFit (s.blkMode (l / 8)) d.toNat = true then
        some (BitVec.ofNat 64 (d.toNat % 2 ^ 48)) else (s.lane l).pendCoef) ∧
      z.rd64 0 (lnA l 0x08) = s.rd64 0 (lnA l 0x08) := by
  have hl := l.isLt
  refine State.completes_of_admitted ha rfl fun r => ?_
  have hlane := State.lane_of_lanes (s.admitted_lanes ⟨t, tagNum t, lnA l 0x08, 3, false, true, d.toNat⟩) l
  have hlo := s.admitted_ln ⟨t, tagNum t, lnA l 0x08, 3, false, true, d.toNat⟩ (off := 0x08) hl (by omega)
  have hhi := s.admitted_ln ⟨t, tagNum t, lnA l 0x08, 3, false, true, d.toNat⟩ (off := 0x0C) hl (by omega)
  have hman := s.admitted_trainMan ⟨t, tagNum t, lnA l 0x08, 3, false, true, d.toNat⟩ (b := l / 8) (by omega)
  have hmode := s.admitted_blkMode ⟨t, tagNum t, lnA l 0x08, 3, false, true, d.toNat⟩ (b := l / 8) (by omega)
  generalize s.admitted ⟨t, tagNum t, lnA l 0x08, 3, false, true, d.toNat⟩ = u at *
  simp only [writeTxCoef, Bool.and_eq_true, hman, hmode, hlane]
  split
  · exact ⟨congrArg LaneRec.pendCoef (State.lane_setLane_same _ _ _), congrArg₂ pairOf hlo hhi⟩
  · exact ⟨congrArg LaneRec.pendCoef ((State.lane_of_lanes (u.laneCfg_lanes _) l).trans hlane),
      congrArg₂ pairOf ((u.laneCfg_rd_ln _ l (by omega)).trans hlo) ((u.laneCfg_rd_ln _ l (by omega)).trans hhi)⟩

/-- Settles O26: one lemma for each of the five writes. -/
theorem laneRegisterWrites : Obligations.LaneRegisterWrites :=
  ⟨fun _ _ _ _ ha hlock hmode hstep => laneBlkCfgWrite ha hlock hmode hstep, fun _ _ _ =>
    ⟨laneDisable, fun _ => prbsGenWrite, fun _ => injectGo, fun _ => txCoefWrite⟩⟩

end Sys2Proof.Machine
end

section
/-!
PROOFS. Scope: the micro-sequencer of a block, and the events of a lane's checker, injection and coefficients (R82, R96, R104, R105,
  R109).
-/
namespace Sys2Proof.Machine

/-! ### The micro-sequencer -/

/-- SEQ_STATE after it has followed the lanes. -/
theorem State.syncBlk_seqState (s : State) (b : Nat) : (s.syncBlk b).seqState b =
    if s.seqState b = 0 ∨ s.seqState b = 4 then s.seqState b
    else if (blockLanes b).all (fun l => s.lnState l == 0) = true then 1
    else if (blockLanes b).any (fun l => decide (1 ≤ s.lnState l ∧ s.lnState l ≤ 4)) = true then 2 else 3 := by
  have hlt : s.seqState b < 16 := fld_lt _ _ _
  rw [State.seqState, State.rdF, State.syncBlk, State.rd_wr_same, fld_setFld_below _ _ _ _ _ _ (by omega) (by omega),
    fld_setFld_below _ _ _ _ _ _ (by omega) (by omega), fld_setFld_below _ _ _ _ _ _ (by omega) (by omega),
    fld_setFld_same _ _ _ _ (by omega)]
  refine Nat.mod_eq_of_lt ?_
  change (if s.seqState b = 0 ∨ s.seqState b = 4 then s.seqState b else _) < 16
  split
  · exact hlt
  · split
    · omega
    · split <;> omega

/-- A lane that moves leaves a block that is in FAULT in it. -/
theorem State.seqState_setLnState {s : State} {b l : Nat} (hl : l / 8 = b) (st : Nat) (h : s.seqState b = 4) :
    (s.setLnState l st).seqState b = 4 := by
  have moved : (s.wr 0 (lnA l 0x04) (movedTo (s.rd 0 (lnA l 0x04)) st)).seqState b = 4 :=
    (congrArg (fld · 0 4) (State.rd_wr_other _ _ _ _ _ _ (lnA_ne_laneA (by omega) (by omega) _ _).symm)).trans h
  rw [State.setLnState_eq, hl, State.syncBlk_seqState, if_pos (.inr moved)]
  exact moved

/-- SEQ_LOADED on a block that is not loaded or in FAULT. -/
theorem seqLoaded {s : State} {b : Fin 48} (h : s.seqState b = 0 ∨ s.seqState b = 4) : s.completes (.seqLoaded b) fun z =>
    z.ready (pLane b) = true ∧
    z.seqState b = (if (blockLanes b).all (fun l => s.lnState l == 0) = true then 1
      else if (blockLanes b).any (fun l => decide (1 ≤ s.lnState l ∧ s.lnState l ≤ 4)) = true then 2 else 3) ∧
    s.onlyRegs z [regKey 0 (laneA b 0x048), regKey 0 (laneA b 0x014)] := by
  refine ⟨((s.wrF 0 (laneA b 0x048) 0 4 1).wrF 0 (laneA b 0x014) 0 1 1).syncBlk b, congrArg Host.Outcome.next (if_pos h), ?_, ?_, ?_, rfl⟩
  · have ready := State.rdF_wrF_same (s.wrF 0 (laneA b 0x048) 0 4 1) 0 (laneA b 0x014) 0 1 1 (by omega)
    rw [State.ready, State.syncBlk_rd _ (show regKey 0 (regA (pLane b) 0x014) ≠ _ from laneA_ne_off (by omega) b), bitOf_eq_fld]
    exact beq_iff_eq.mpr ready
  · have loaded : ((s.wrF 0 (laneA b 0x048) 0 4 1).wrF 0 (laneA b 0x014) 0 1 1).seqState b = 1 :=
      (congrArg (fld · 0 4) (State.rd_wrF_other _ _ _ _ _ _ _ _ (laneA_ne_off (by omega) b))).trans
        (State.rdF_wrF_same s 0 (laneA b 0x048) 0 4 1 (by omega))
    have lanes (m : Nat) : ((s.wrF 0 (laneA b 0x048) 0 4 1).wrF 0 (laneA b 0x014) 0 1 1).lnState m = s.lnState m :=
      (State.lnState_wr_blk _ b _ m (by omega)).trans (State.lnState_wr_blk s b _ m (by omega))
    simp only [State.syncBlk_seqState, loaded, lanes]
    rfl
  · have status := State.regsKept_wr (s.regsKept_refl [regKey 0 (laneA b 0x048), regKey 0 (laneA b 0x014)])
      (setFld (s.rd 0 (laneA b 0x048)) 0 4 1) List.mem_cons_self
    have started := State.regsKept_wr status (setFld ((s.wrF 0 (laneA b 0x048) 0 4 1).rd 0 (laneA b 0x014)) 0 1 1)
      (List.mem_cons_of_mem _ (List.mem_singleton.mpr rfl))
    exact State.regsKept_wr started _ List.mem_cons_self

/-- A register of the block's LANE page. -/
def LanePage (b k : Nat) : Prop := k / 65536 = pLane b

theorem lanePage_blk {off : Nat} (b : Nat) (h : off < 0x100) : LanePage b (regKey 0 (laneA b off)) := by
  rw [LanePage, regKey_laneA, pLane]
  omega

theorem lanePage_ln {l b off : Nat} (hl : l / 8 = b) (h : off < 0x80) : LanePage b (regKey 0 (lnA l off)) := by
  rw [LanePage, regKey_lnA, pLane]
  omega

theorem lanePage_page {b : Nat} (hb : b < 48) (k : Nat) (h : LanePage b k) : k % 2 ^ 28 / 65536 ∈ [pLane b] := by
  rw [List.mem_singleton]
  unfold LanePage pLane at *
  omega

/-- The lanes that SEQ_FAULT fails. -/
def State.unready (s : State) (b : Nat) : List Nat := (blockLanes b).filter fun l => s.lnState l != 5

theorem State.mem_unready {s : State} {b l : Nat} : l ∈ s.unready b ↔ l / 8 = b ∧ s.lnState l ≠ 5 := by
  rw [State.unready, List.mem_filter, mem_blockLanes, bne_iff_ne]

theorem State.unready_nodup (s : State) (b : Nat) : (s.unready b).Nodup := (blockLanes_nodup b).filter _

/-- SEQ_STATE is FAULT and LANE.SEQ is set, before the lanes fail. -/
def State.faulted (s : State) (b : Nat) : State := (s.wrF 0 (laneA b 0x048) 0 4 4).laneEvent b 24 3

theorem State.faulted_wrote (s : State) (b : Nat) : s.Wrote (s.faulted b) (LanePage b) :=
  ((State.Wrote.refl s _).wrF (lanePage_blk b (by omega)) 0 4 4).laneEvent (lanePage_blk b (by omega)) (lanePage_blk b (by omega)) 24 3

theorem State.faulted_seqState (s : State) (b : Nat) : (s.faulted b).seqState b = 4 :=
  (congrArg (fld · 0 4) (State.laneEvent_rd_blk _ b b (by decide) (by omega) 24 3)).trans
    (State.rdF_wrF_same s 0 (laneA b 0x048) 0 4 4 (by omega))

theorem State.faulted_event (s : State) (b : Nat) : bitOf ((s.faulted b).rd 0 (laneA b 0x04C)) 24 = true := by
  rw [State.faulted, State.laneEvent_rd_event, bitOf_setFld_same _ _ _ (by omega)]
  rfl

theorem State.lnState_faulted (s : State) (b m : Nat) : (s.faulted b).lnState m = s.lnState m :=
  (State.lnState_laneEvent _ b 24 3 m).trans (State.lnState_wr_blk s b _ m (by omega))

/-- SEQ_FAULT. -/
theorem seqFault (s : State) (b : Fin 48) : s.completes (.seqFault b) fun z =>
    z.seqState b = 4 ∧ bitOf (z.rd 0 (laneA b 0x04C)) 24 = true ∧
    (∀ i, i < 8 → z.lnState (b * 8 + i) = if s.lnState (b * 8 + i) = 5 then 5 else 7) ∧ s.onlyPages z [pLane b] := by
  have hb := b.isLt
  have block {x : Nat} (hx : x ∈ s.unready b) : x / 8 = b := (State.mem_unready.mp hx).1
  refine ⟨forEach (s.unready b) (fun l s => s.setLnState l 7) (s.faulted b), rfl, ?_, ?_, fun i hi => ?_, ?_⟩
  · exact forEach_keeps (P := fun u => u.seqState b = 4) _ (fun x hx u hu => State.seqState_setLnState (block hx) 7 hu)
      (s.faulted_seqState b)
  · refine forEach_keeps (P := fun u => bitOf (u.rd 0 (laneA b 0x04C)) 24 = true) _ (fun x hx u hu => ?_) (s.faulted_event b)
    rw [(u.setLnState_wrote x 7).rd (not_or.mpr ⟨(lnA_ne_laneA (by omega) (by omega) _ _).symm, by
      rw [regKey_laneA, regKey_laneA]
      omega⟩)]
    exact hu
  · rw [forEach_lnState (I := fun _ => True) (g := fun _ _ => 7) (s.unready_nodup b) (fun _ _ _ _ => trivial)
      (fun x _ u _ m _ => u.lnState_setLnState x 7 m) trivial (by omega), s.lnState_faulted]
    by_cases h5 : s.lnState (b * 8 + i) = 5
    · rw [if_pos h5, if_neg fun h => (State.mem_unready.mp h).2 h5, h5]
    · rw [if_neg h5, if_pos (State.mem_unready.mpr ⟨by omega, h5⟩)]
  · have failed := (s.faulted_wrote b).forEach (l := s.unready b) (f := fun l s => s.setLnState l 7) fun x hx u hu =>
      hu.setLnState (lanePage_ln (block hx) (by omega)) (by rw [block hx]; exact lanePage_blk b (by omega)) 7
    exact failed.onlyPages (lanePage_page hb)

/-! ### Checker -/

theorem State.setChk_rd (s : State) (l : Nat) (on : Bool) : bitOf ((s.setChk l on).rd 0 (lnA l 0x04)) 10 = on := by
  have e : (s.setChk l on).rd 0 (lnA l 0x04) = setFld (s.rd 0 (lnA l 0x04)) 10 1 (if on then 1 else 0) := State.rd_wr_same _ _ _ _
  rw [e, bitOf_setFld_same _ _ _ (by omega)]
  cases on <;> rfl

theorem State.setChk_checking (s : State) (l : Nat) (on : Bool) : ((s.setChk l on).lane l).checking = on :=
  congrArg LaneRec.checking (State.lane_setLane_same _ l _)

theorem State.setChk_regs (s : State) (l : Nat) (on : Bool) {L : List Nat} (h : regKey 0 (lnA l 0x04) ∈ L) :
    s.regsKept (s.setChk l on) L := State.regsKept_wr (s.regsKept_refl L) _ h

/-- CHECKER_LOCK of an enabled checker. -/
theorem checkerLock {s : State} {l : Fin 384} (h : bitOf (s.rd 0 (lnA l 0x18)) 0 = true) : s.completes (.checkerLock l) fun z =>
    bitOf (z.rd 0 (lnA l 0x04)) 10 = true ∧ (z.lane l).checking = true ∧ s.regsKept z [regKey 0 (lnA l 0x04)] ∧
    { z with regs := s.regs, lanes := s.lanes } = s :=
  ⟨s.setChk l true, congrArg Host.Outcome.next (if_pos h), s.setChk_rd l true, s.setChk_checking l true,
    s.setChk_regs l true List.mem_cons_self, rfl⟩

/-- CHECKER_UNLOCK of a locked checker. -/
theorem checkerUnlock {s : State} {l : Fin 384} (h : bitOf (s.rd 0 (lnA l 0x04)) 10 = true) : s.completes (.checkerUnlock l) fun z =>
    bitOf (z.rd 0 (lnA l 0x04)) 10 = false ∧ z.rd64 0 (lnA l 0x30) = min (s.rd64 0 (lnA l 0x30) + 1) (2 ^ 64 - 1) ∧
    (z.lane l).checking = false ∧ s.regsKept z [regKey 0 (lnA l 0x04), regKey 0 (lnA l 0x30), regKey 0 (lnA l 0x34)] ∧
    { z with regs := s.regs, lanes := s.lanes } = s := by
  refine ⟨(s.setChk l false).wr64 0 (lnA l 0x30) (satAdd 64 (s.rd64 0 (lnA l 0x30)) 1), congrArg Host.Outcome.next (if_pos h), ?_, ?_,
    s.setChk_checking l false, ?_, rfl⟩
  · have counted : ((s.setChk l false).wr64 0 (lnA l 0x30) (satAdd 64 (s.rd64 0 (lnA l 0x30)) 1)).rd 0 (lnA l 0x04) =
        (s.setChk l false).rd 0 (lnA l 0x04) :=
      (State.rd_wr_other _ _ _ _ _ _ (lnA_ne_off (off := 0x04) (off' := 0x34) (by omega) l)).trans
        (State.rd_wr_other _ _ _ _ _ _ (lnA_ne_off (by omega) l))
    rw [counted]
    exact s.setChk_rd l false
  · rw [State.rd64_wr64, satAdd]
    omega
  · have status := s.setChk_regs l false (L := [regKey 0 (lnA l 0x04), regKey 0 (lnA l 0x30), regKey 0 (lnA l 0x34)]) List.mem_cons_self
    have low := State.regsKept_wr status (b := 0) (a := lnA l 0x30) (loHalf (satAdd 64 (s.rd64 0 (lnA l 0x30)) 1)) (by simp)
    exact State.regsKept_wr low (b := 0) (a := lnA l 0x34) (hiHalf (satAdd 64 (s.rd64 0 (lnA l 0x30)) 1)) (by simp)

/-! ### Coefficients in force -/

theorem coefBytes_heldTaps {c : Coefs} (mode : Nat) (h : CoefBytes c) : CoefBytes (heldTaps mode c) := by
  refine ⟨by simp [heldTaps], fun v hv => ?_⟩
  simp only [heldTaps, List.mem_map, List.mem_range] at hv
  obtain ⟨i, hi, rfl⟩ := hv
  split
  · rw [List.getD_eq_getElem _ _ (by rw [h.1]; exact hi)]
    exact h.2 _ (List.getElem_mem _)
  · omega

/-- The coefficients that a boundary puts in force. -/
def State.dueCoefs (s : State) (l : Nat) (v : BitVec 64) : Coefs :=
  if s.blkMode (l / 8) < 2 then coefsOf v.toNat else heldTaps (s.blkMode (l / 8)) (coefsOf v.toNat)

theorem State.coefBytes_dueCoefs (s : State) (l : Nat) (v : BitVec 64) : CoefBytes (s.dueCoefs l v) := by
  unfold State.dueCoefs
  split
  exacts [coefBytes_coefsOf _, coefBytes_heldTaps _ (coefBytes_coefsOf _)]

theorem execTxCoefApply_some {s : State} {l : Fin 384} {v : BitVec 64} (h : (s.lane l).pendCoef = some v) :
    execTxCoefApply l s = .next ((s.setCoefs l (s.dueCoefs l v)).setLane l { s.lane l with pendCoef := none }) := by
  rw [State.dueCoefs, execTxCoefApply, h]

/-- Coefficients written and the waiting ones dropped from the lane's record. -/
theorem coefs_of_applied {s u : State} {l : Nat} {c : Coefs} (hc : u.coefs l = c) (hu : s.Wrote u (CoefKey l)) {z : State}
    (hz : z = u.setLane l { s.lane l with pendCoef := none }) :
    z.coefs l = c ∧ (z.lane l).pendCoef = none ∧ s.regsKept z [regKey 0 (lnA l 0x08), regKey 0 (lnA l 0x0C)] := by
  subst hz
  refine ⟨hc, congrArg LaneRec.pendCoef (u.lane_setLane_same l _), fun k hk => ?_⟩
  simp only [List.mem_cons, List.not_mem_nil, or_false] at hk
  exact hu.regs k hk

/-- TX_COEF_APPLY while coefficients wait. -/
theorem txCoefApply {s : State} {l : Fin 384} {v : BitVec 64} (h : (s.lane l).pendCoef = some v) : s.completes (.txCoefApply l) fun z =>
    z.coefs l = s.dueCoefs l v ∧ (z.lane l).pendCoef = none ∧ s.regsKept z [regKey 0 (lnA l 0x08), regKey 0 (lnA l 0x0C)] :=
  ⟨_, execTxCoefApply_some h, coefs_of_applied (s.coefs_setCoefs l (s.coefBytes_dueCoefs l v)) (s.setCoefs_wrote l _) rfl⟩

/-- Settles O27: one lemma for each event. -/
theorem laneTestEvents : Obligations.LaneTestEvents :=
  ⟨fun s b => ⟨seqLoaded, seqFault s b⟩, fun _ _ =>
    ⟨checkerLock, checkerUnlock, fun h => ⟨_, congrArg Host.Outcome.next (if_pos h), rfl⟩, fun _ => txCoefApply⟩⟩

end Sys2Proof.Machine
end

section
/-!
PROOFS. Scope: Ethernet ports (R99, R112 to R116). The link's coming up and going down, low-power idle, and the port's configuration.
-/
namespace Sys2Proof.Machine

/-! ### The lanes of a port -/

theorem not_lanePage_port {b b' : Nat} (hb : b < 48) (off : Nat) : ¬LanePage b (regKey 0 (portA b' off)) := by
  rw [LanePage, regKey_portA, pLane]
  omega

theorem State.mission_wrF (s : State) (l v m : Nat) :
    (s.wrF 0 (lnA l 0x04) 11 1 v).mission m = if m = l then v % 2 == 1 else s.mission m := by
  unfold State.mission
  split
  next e => rw [e, State.wrF, State.rd_wr_same, bitOf_setFld_same _ _ _ (by omega)]
  next e => rw [State.rd_wrF_other _ _ _ _ _ _ _ _ (lnA_ne_lane e (by omega) (by omega))]

/-- Lanes set in MISSION, or taken out of it, one by one. -/
theorem State.mission_statusLoop (s : State) (ls : List Nat) (v m : Nat) :
    (forEach ls (fun l s => s.wrF 0 (lnA l 0x04) 11 1 v) s).mission m = if m ∈ ls then v % 2 == 1 else s.mission m := by
  unfold forEach
  induction ls generalizing s with
  | nil => simp
  | cons l r ih =>
    rw [List.foldl_cons, ih, State.mission_wrF]
    by_cases hr : m ∈ r <;> simp [hr]

/-- A loop that writes LN_STATUS of the lanes of a port. -/
theorem statusLoop_wrote (s : State) {b p : Nat} {ls : List Nat} (hls : ls = s.portLanes b p) (lo n v : Nat) (u : State) :
    u.Wrote (forEach ls (fun l s => s.wrF 0 (lnA l 0x04) lo n v) u) (LanePage b) :=
  (State.Wrote.refl u _).forEach fun l hl _ hv => hv.wrF (lanePage_ln (State.mem_portLanes (hls ▸ hl)) (by omega)) _ _ _

/-! ### ETH_STATUS -/

theorem State.ethUp_of_rd {s u : State} {b : Nat} (h : u.rd 0 (portA b 0x058) = s.rd 0 (portA b 0x058)) (q : Nat) :
    u.ethUp b q = s.ethUp b q := congrArg (bitOf · q) h

/-- What a command of one port leaves: the registers outside the block's pages, the tables, the store, and the other ports' links. -/
def State.portFrame (s z : State) (b p : Nat) : Prop :=
  s.onlyPages z [pLane b, pPort b] ∧ ∀ q, q < 8 → q ≠ p → z.ethUp b q = s.ethUp b q

/-- ETH_STATUS above its LINK bits: a bit of one port. -/
theorem State.ethStatus_wrF (s : State) {b j : Nat} (hb : b < 48) (hj : 8 ≤ j) (hj' : j < 32) (v p : Nat) :
    bitOf ((s.wrF 0 (portA b 0x058) j 1 v).rd 0 (portA b 0x058)) j = (v % 2 == 1) ∧ s.portFrame (s.wrF 0 (portA b 0x058) j 1 v) b p ∧
    (∀ q, q < 8 → (s.wrF 0 (portA b 0x058) j 1 v).ethUp b q = s.ethUp b q) ∧
    s.onlyRegs (s.wrF 0 (portA b 0x058) j 1 v) [regKey 0 (portA b 0x058)] := by
  have links (q : Nat) (hq : q < 8) : (s.wrF 0 (portA b 0x058) j 1 v).ethUp b q = s.ethUp b q := by
    rw [State.ethUp, State.wrF, State.rd_wr_same, bitOf_setFld_other _ _ _ _ _ (by omega) (by omega)]
    rfl
  have wrote := ((State.Wrote.refl s (LaneMoves b)).wrF (laneMoves_port b (off := 0x058) (by decide)) j 1 v).work
  refine ⟨?_, ⟨wrote.onlyPages (laneWork_page hb), fun q hq _ => links q hq⟩, links, State.regsKept_wrF _ _ _ _ _ _, rfl⟩
  rw [State.wrF, State.rd_wr_same, bitOf_setFld_same _ _ _ hj']

/-! ### Link down -/

section
variable {s : State} {b p : Nat} (hb : b < 48) (hp : p < 8) (h : s.ethUp b p = true)
include hb h

theorem State.ethDown_rd_status : (s.ethDown b p).rd 0 (portA b 0x058) =
    setFld (setFld (setFld (s.rd 0 (portA b 0x058)) p 1 0) (16 + p) 1 0) (24 + p) 1 0 := by
  rw [State.ethDown_up h, State.raiseOwned_rd hb _ _ (portA_ne_off (by omega) b) (portA_ne_off (by omega) b), State.incSat, portCtr,
    State.rd_wr_other _ _ _ _ _ _ (portA_ne_off (by omega) b), (statusLoop_wrote s rfl _ _ _ _).rd (not_lanePage_port hb _),
    State.rd_wr_same]

theorem State.mission_ethDown {l : Nat} (hl : l ∈ s.portLanes b p) : (s.ethDown b p).mission l = false := by
  have hlb := State.mem_portLanes hl
  have other (off : Nat) : regKey 0 (lnA l 0x04) ≠ regKey 0 (portA b off) := by
    rw [regKey_lnA, regKey_portA]
    omega
  have loop := State.mission_statusLoop (s.wr 0 (portA b 0x058)
    (setFld (setFld (setFld (s.rd 0 (portA b 0x058)) p 1 0) (16 + p) 1 0) (24 + p) 1 0)) (s.portLanes b p) 0 l
  rw [if_pos hl] at loop
  rw [State.ethDown_up h, State.mission, State.raiseOwned_rd hb _ _ (other _) (other _), State.incSat, portCtr,
    State.rd_wr_other _ _ _ _ _ _ (other _)]
  exact loop

theorem State.ethDown_rd_counter : (s.ethDown b p).rd 0 (portCtr b p 0x28) =
    wd (satAdd 32 (s.rd 0 (portCtr b p 0x28)).toNat 1) := by
  rw [State.ethDown_up h, portCtr, State.raiseOwned_rd hb _ _ (portA_ne_off (by omega) b) (portA_ne_off (by omega) b), State.incSat,
    State.rd_wr_same, (statusLoop_wrote s rfl _ _ _ _).rd (not_lanePage_port hb _),
      State.rd_wr_other _ _ _ _ _ _ (portA_ne_off (by omega) b)]

theorem State.ethDown_rd_event : bitOf ((s.ethDown b p).rd 0 (portA b 0x048)) 0 = true := by
  rw [State.ethDown_up h]
  exact State.raiseOwned_rd_event hb _ (by omega)

end

/-- A port that goes down leaves the links of the others. -/
theorem State.ethUp_ethDown (s : State) {b p q : Nat} (hb : b < 48) (hp : p < 8) (hq : q < 8) :
    (s.ethDown b p).ethUp b q = if q = p then false else s.ethUp b q := by
  cases h : s.ethUp b p with
  | false =>
    rw [State.ethDown_idle h]
    split
    next e => rw [e, h]
    next => rfl
  | true =>
    rw [State.ethUp, State.ethDown_rd_status hb h, bitOf_setFld_other _ _ _ _ _ (by omega) (by omega),
      bitOf_setFld_other _ _ _ _ _ (by omega) (by omega)]
    split
    next e => rw [e, bitOf_setFld_same _ _ _ (by omega)]; rfl
    next e => rw [bitOf_setFld_other _ _ _ _ _ (by omega) (by omega)]; rfl

/-! ### Link up -/

theorem State.trained_lanePage {s u : State} {b l : Nat} (h : s.Wrote u (LanePage b)) (hl : l / 8 = b) :
    s.Wrote (u.trained l) (LanePage b) :=
  (h.logAttempt (lanePage_ln hl (by omega)) 1).setLnState (lanePage_ln hl (by omega)) (by rw [hl]; exact lanePage_blk b (by omega)) _

theorem State.lnState_trained (s : State) (l m : Nat) : (s.trained l).lnState m =
    if m = l then (if (s.lane l).first then 5 else 4) else s.lnState m := by
  rw [State.trained, State.lnState_setLnState, State.lnState_logAttempt]
  split
  · split <;> rfl
  · rfl

/-- A lane whose training the PMD control function has completed. -/
def State.pmdTrained (s : State) (l : Nat) : State := ((s.wrF 0 (lnA l 0x04) 8 1 1).clauseCoefs l).trained l

theorem State.portTrained_eq (s : State) (b p : Nat) : s.portTrained b p =
    forEach (s.portLanes b p) (fun l s => if s.lnState l = 2 ∧ !s.trainMan b then s.pmdTrained l else s) s := rfl

theorem State.pmdTrained_wrote (s : State) {b l : Nat} (hl : l / 8 = b) : s.Wrote (s.pmdTrained l) (LanePage b) :=
  State.trained_lanePage (((State.Wrote.refl s _).wrF (lanePage_ln hl (by omega)) 8 1 1).clauseCoefs (lanePage_ln hl (by omega))
    (lanePage_ln hl (by omega))) hl

theorem State.pmdTrained_work (s : State) (l : Nat) : s.Wrote (s.pmdTrained l) (LaneWork (l / 8)) := by
  have ln {off : Nat} (ho : off ∈ [0x04, 0x08, 0x0C, 0x54]) : LaneWork (l / 8) (regKey 0 (lnA l off)) := .inl (laneMoves_ln rfl ho)
  exact (((State.Wrote.refl s _).wrF (ln (off := 0x04) (by decide)) 8 1 1).clauseCoefs (ln (off := 0x08) (by decide))
    (ln (off := 0x0C) (by decide))).trans (State.trained_wrote _ l)

theorem State.lnState_pmdTrained (s : State) (l m : Nat) : (s.pmdTrained l).lnState m =
    if m = l then (if (s.lane l).first then 5 else 4) else s.lnState m := by
  have lanes : ((s.wrF 0 (lnA l 0x04) 8 1 1).clauseCoefs l).lanes = s.lanes := rfl
  rw [State.pmdTrained, State.lnState_trained, State.lane_of_lanes lanes, State.lnState_clauseCoefs,
    State.lnState_wrF _ _ _ _ (by omega) (by omega)]

theorem State.portTrained_wrote (s : State) (b p : Nat) : s.Wrote (s.portTrained b p) (LanePage b) :=
  (State.Wrote.refl s _).forEach fun _ hl u hu => (hu.trans (u.pmdTrained_wrote (State.mem_portLanes hl))).ite hu _

/-- A port's lanes that are READY, or in TRAIN at a first bring-up, are READY when training is complete. -/
theorem State.lnState_portTrained {s : State} {b p l : Nat} (hb : b < 48) (hl : l ∈ s.portLanes b p)
    (h : s.lnState l = 5 ∨ s.lnState l = 2 ∧ s.trainMan b = false ∧ (s.lane l).first = true) : (s.portTrained b p).lnState l = 5 := by
  have hlb := State.mem_portLanes hl
  rw [State.portTrained_eq, forEach_lnState (I := fun u => s.Wrote u (LaneWork b) ∧ u.lanes = s.lanes) (s.portLanes_nodup b p)
    (g := fun x st => if st = 2 ∧ (!s.trainMan b) = true then (if (s.lane x).first then 5 else 4) else st) ?_ ?_
    ⟨.refl s _, rfl⟩ (by omega), if_pos hl]
  · rcases h with h | ⟨h, hman, hfirst⟩
    · rw [h]
      exact if_neg (by omega)
    · rw [h, hman, hfirst]
      rfl
  · rintro x hx u ⟨hu, hlanes⟩
    have hxb := State.mem_portLanes hx
    split
    · exact ⟨hu.trans (hxb ▸ u.pmdTrained_work x), hlanes⟩
    · exact ⟨hu, hlanes⟩
  · rintro x - u ⟨hu, hlanes⟩ m -
    rw [hu.trainMan hb]
    split
    · rw [State.lnState_pmdTrained, State.lane_of_lanes hlanes]
    · split
      next e => rw [e]
      next => rfl

/-- A port whose lanes are READY comes up. -/
def State.linkedUp (s : State) (b p : Nat) : State :=
  forEach (s.portLanes b p) (fun l s => s.wrF 0 (lnA l 0x04) 11 1 1)
    (({ s with remote := s.remote.filter fun r => r != b * 8 + p }.wrF 0 (portA b 0x058) p 1 1).wrF 0 (portA b 0x058) (8 + p) 1 0)

/-- ETH_LINK_UP of an Ethernet port, not sparing. -/
theorem execEthLinkUp_eq {s : State} {b : Fin 48} {p : Fin 8} (ht : s.portType b = 2) (hm : modesAgree 2 (s.econf b) (s.blkMode b) = true)
    (hp : p.val < portCount (s.econf b)) (hs : s.sparing b p = false) (ability : Bool) : exec (.ethLinkUp b p ability) s = .next (
      if s.negotiates b && !ability then s.wrF 0 (portA b 0x058) (8 + p) 1 1
      else if ((s.portTrained b p).portLanes b p).all (fun l => (s.portTrained b p).lnState l == 5) then (s.portTrained b p).linkedUp b p
      else s.portTrained b p) :=
  congrArg Host.Outcome.next (if_pos ⟨ht, hm, hp, by rw [hs]; rfl⟩)

section
variable (s : State) {b p : Nat}

theorem State.linkedUp_rd_status (hb : b < 48) : (s.linkedUp b p).rd 0 (portA b 0x058) =
    setFld (setFld (s.rd 0 (portA b 0x058)) p 1 1) (8 + p) 1 0 := by
  rw [State.linkedUp, (statusLoop_wrote s rfl _ _ _ _).rd (not_lanePage_port hb _), State.wrF, State.rd_wr_same, State.wrF,
    State.rd_wr_same]
  rfl

theorem State.linkedUp_onlyPages (hb : b < 48) : s.onlyPages (s.linkedUp b p) [pLane b, pPort b] := by
  have status := laneMoves_port b (off := 0x058) (by decide)
  have linked := ((((State.Wrote.refl { s with remote := s.remote.filter fun r => r != b * 8 + p } (LaneMoves b)).wrF status p 1 1).wrF
    status (8 + p) 1 0).statusLoop (ls := s.portLanes b p) (fun _ => State.mem_portLanes) 11 1 1).work
  exact State.onlyPages_trans ⟨fun _ _ => rfl, rfl, fun _ => rfl⟩ (linked.onlyPages (laneWork_page hb))

theorem State.linkedUp_remote : (s.linkedUp b p).remote = s.remote.filter fun r => r != b * 8 + p :=
  (statusLoop_wrote s rfl 11 1 1 _).remote

theorem State.lnState_linkedUp {m : Nat} (hm : m < 384) : (s.linkedUp b p).lnState m = s.lnState m := by
  rw [State.linkedUp, State.lnState_statusLoop _ _ _ _ (by omega) (by omega), State.wrF, State.lnState_wr_port _ _ _ hm, State.wrF,
    State.lnState_wr_port _ _ _ hm]
  rfl

theorem State.mission_linkedUp {l : Nat} (hl : l ∈ s.portLanes b p) : (s.linkedUp b p).mission l = true := by
  rw [State.linkedUp, State.mission_statusLoop, if_pos hl]
  rfl

end

/-- The links of a block's ports when one of them has come up. -/
theorem State.ethUp_linkedUp (s : State) {b p q : Nat} (hb : b < 48) (hp : p < 8) (hq : q < 8) :
    (s.linkedUp b p).ethUp b q = if q = p then true else s.ethUp b q := by
  rw [State.ethUp, s.linkedUp_rd_status hb, bitOf_setFld_other _ _ _ _ _ (by omega) (by omega)]
  split
  next e => rw [e, bitOf_setFld_same _ _ _ (by omega)]; rfl
  next e => rw [bitOf_setFld_other _ _ _ _ _ (by omega) (by omega)]; rfl

/-- ETH_LINK_UP: what it brings about where the partner has the ability. -/
theorem linkUp_of_ready {s : State} {b p : Nat} (hb : b < 48) (hp : p < 8) {u : State} (hu : s.Wrote u (LanePage b)) :
    let z := if (u.portLanes b p).all (fun l => u.lnState l == 5) then u.linkedUp b p else u
    s.portFrame z b p ∧ ((∀ l ∈ s.portLanes b p, u.lnState l = 5) → z.ethUp b p = true ∧
      bitOf (z.rd 0 (portA b 0x058)) (8 + p) = false ∧ b * 8 + p ∉ z.remote ∧ ∀ l ∈ s.portLanes b p, z.lnState l = 5 ∧
        z.mission l = true) := by
  have status : u.rd 0 (portA b 0x058) = s.rd 0 (portA b 0x058) := hu.rd (not_lanePage_port hb _)
  have lanes : u.portLanes b p = s.portLanes b p := State.portLanes_congr (congrArg (fld · 4 3) (hu.rd (not_lanePage_port hb _))) p
  have pages : s.onlyPages u [pLane b, pPort b] := hu.onlyPages fun k hk => List.mem_append_left [pPort b] (lanePage_page hb k hk)
  rw [lanes]
  dsimp only
  split
  next hready =>
    refine ⟨⟨State.onlyPages_trans pages (u.linkedUp_onlyPages hb), fun q hq hne => ?_⟩, fun _ => ⟨?_, ?_, ?_, fun l hl => ?_⟩⟩
    · rw [u.ethUp_linkedUp hb hp hq, if_neg hne, State.ethUp_of_rd status]
    · rw [u.ethUp_linkedUp hb hp hp, if_pos rfl]
    · rw [u.linkedUp_rd_status hb, bitOf_setFld_same _ _ _ (by omega)]
      rfl
    · rw [u.linkedUp_remote]
      simp
    · have hlb := State.mem_portLanes hl
      exact ⟨(u.lnState_linkedUp (by omega)).trans (beq_iff_eq.mp (List.all_eq_true.mp hready l hl)),
        u.mission_linkedUp (lanes.symm ▸ hl)⟩
  next hno =>
    exact ⟨⟨pages, fun q _ _ => State.ethUp_of_rd status q⟩, fun h =>
      absurd (List.all_eq_true.mpr fun l hl => beq_iff_eq.mpr (h l hl)) hno⟩

/-- ETH_LINK_UP. -/
theorem ethLinkUp {s : State} {b : Fin 48} {p : Fin 8} (ability : Bool) (ht : s.portType b = 2)
    (hm : modesAgree 2 (s.econf b) (s.blkMode b) = true) (hc : p.val < portCount (s.econf b)) (hs : s.sparing b p = false) :
    s.completes (.ethLinkUp b p ability) fun z => s.portFrame z b p ∧
      (s.negotiates b = true → ability = false → bitOf (z.rd 0 (portA b 0x058)) (8 + p) = true ∧ z.ethUp b p = s.ethUp b p ∧
        s.onlyRegs z [regKey 0 (portA b 0x058)]) ∧
      (s.negotiates b = false ∨ ability = true → (∀ l ∈ s.portLanes b p, s.lnState l = 5 ∨
          s.lnState l = 2 ∧ s.trainMan b = false ∧ (s.lane l).first = true) →
        z.ethUp b p = true ∧ bitOf (z.rd 0 (portA b 0x058)) (8 + p) = false ∧ b.val * 8 + p.val ∉ z.remote ∧
        ∀ l ∈ s.portLanes b p, z.lnState l = 5 ∧ z.mission l = true) := by
  have hb := b.isLt
  have hp := p.isLt
  refine ⟨_, execEthLinkUp_eq ht hm hc hs ability, ?_⟩
  by_cases h : (s.negotiates b && !ability) = true
  · obtain ⟨hneg, hab⟩ := Bool.and_eq_true_iff.mp h
    obtain ⟨hbit, hframe, hlinks, honly⟩ := s.ethStatus_wrF (b := b) (j := 8 + p) hb (by omega) (by omega) 1 p
    rw [if_pos h]
    exact ⟨hframe, fun _ _ => ⟨hbit, hlinks p hp, honly⟩, fun g => by simp_all⟩
  · obtain ⟨hframe, hup⟩ := linkUp_of_ready hb hp (s.portTrained_wrote b p)
    rw [if_neg h]
    exact ⟨hframe, fun g g' => absurd (by simp [g, g']) h, fun _ hready => hup fun l hl => State.lnState_portTrained hb hl (hready l hl)⟩

/-! ### Link down and low-power idle -/

/-- ETH_LINK_DOWN of a port that is up. -/
theorem ethLinkDown {s : State} {b : Fin 48} {p : Fin 8} (h : s.ethUp b p = true) : s.completes (.ethLinkDown b p) fun z =>
    s.portFrame z b p ∧ z.ethUp b p = false ∧ bitOf (z.rd 0 (portA b 0x058)) (16 + p) = false ∧
    bitOf (z.rd 0 (portA b 0x058)) (24 + p) = false ∧ (∀ l ∈ s.portLanes b p, z.mission l = false) ∧
    z.rd 0 (portCtr b p 0x28) = wd (satAdd 32 (s.rd 0 (portCtr b p 0x28)).toNat 1) ∧ bitOf (z.rd 0 (portA b 0x048)) 0 = true := by
  have hb := b.isLt
  have hp := p.isLt
  refine ⟨s.ethDown b p, rfl, ⟨(s.ethDown_wrote hb hp).work.onlyPages (laneWork_page hb), fun q hq hne => ?_⟩, ?_, ?_, ?_,
    fun l hl => State.mission_ethDown hb h hl, State.ethDown_rd_counter hb h, State.ethDown_rd_event hb h⟩
  · rw [s.ethUp_ethDown hb hp hq, if_neg hne]
  · rw [s.ethUp_ethDown hb hp hp, if_pos rfl]
  · rw [State.ethDown_rd_status hb h, bitOf_setFld_other _ _ _ _ _ (by omega) (by omega), bitOf_setFld_same _ _ _ (by omega)]
    rfl
  · rw [State.ethDown_rd_status hb h, bitOf_setFld_same _ _ _ (by omega)]
    rfl

theorem State.lpiAble_iff (s : State) (b p : Nat) : s.lpiAble b p = true ↔ s.portType b = 2 ∧ s.ethUp b p = true ∧ s.econf b ≤ 4 ∧
    bitOf (s.rd 0 (portA b 0x054)) (8 + p) = true ∧ s.sparing b p = false := by
  simp only [State.lpiAble, Bool.and_eq_true, beq_iff_eq, decide_eq_true_eq, Bool.not_eq_true', and_assoc]

/-- A command of one port: link up, link down, and low-power idle. -/
theorem ethPortEvents (s : State) (b : Fin 48) (p : Fin 8) :
    (s.ethUp b p = false → exec (.ethLinkDown b p) s = .next s) ∧
    (¬(s.portType b = 2 ∧ s.ethUp b p = true ∧ s.econf b ≤ 4 ∧ bitOf (s.rd 0 (portA b 0x054)) (8 + p) = true ∧ s.sparing b p = false) →
      exec (.lpiEnter b p) s = .next s) ∧
    (s.portType b = 2 → s.ethUp b p = true → s.econf b ≤ 4 → bitOf (s.rd 0 (portA b 0x054)) (8 + p) = true → s.sparing b p = false →
      s.completes (.lpiEnter b p) fun z => bitOf (z.rd 0 (portA b 0x058)) (16 + p) = true ∧ s.portFrame z b p ∧
        z.ethUp b p = true ∧ s.onlyRegs z [regKey 0 (portA b 0x058)]) ∧
    s.completes (.lpiExit b p) fun z => bitOf (z.rd 0 (portA b 0x058)) (16 + p) = false ∧ s.portFrame z b p ∧ z.ethUp b p = s.ethUp b p ∧
      s.onlyRegs z [regKey 0 (portA b 0x058)] := by
  have hp := p.isLt
  have bit (v : Nat) := s.ethStatus_wrF (b := b) (j := 16 + p) b.isLt (by omega) (by omega) v p
  refine ⟨fun h => congrArg Host.Outcome.next (State.ethDown_idle h), fun h => ?_, fun ht hup he heee hs => ?_, ?_⟩
  · exact congrArg Host.Outcome.next (if_neg fun g => h ((s.lpiAble_iff b p).mp g))
  · obtain ⟨hbit, hframe, hlinks, honly⟩ := bit 1
    exact ⟨_, congrArg Host.Outcome.next (if_pos ((s.lpiAble_iff b p).mpr ⟨ht, hup, he, heee, hs⟩)), hbit, hframe,
      (hlinks p hp).trans hup, honly⟩
  · obtain ⟨hbit, hframe, hlinks, honly⟩ := bit 0
    exact ⟨_, rfl, hbit, hframe, hlinks p hp, honly⟩

/-! ### Port configuration -/

theorem State.raisePort_wrote (s : State) {b : Nat} (hb : b < 48) (e : Nat) : s.Wrote (s.raiseOwned (pPort b) e) (LaneWork b) :=
  ((State.Wrote.refl s _).raisePort hb e).work

/-- A write of PORT.BLK_CFG, whose word is stored or refused with PORT.EVENT.CFG. -/
theorem writePortBlkCfg_effect {s : State} {b : Nat} (hb : b < 48) (hlock : s.pageLocked (pPort b) = false) (d : Word) :
    s.Wrote (writePortBlkCfg b d s) (fun _ => True) ∧
    if (s.seqState b = 0 ∨ s.seqState b = 1) ∧ fld d 0 2 ≠ 3 ∧ fld d 4 3 < 6 then
      (writePortBlkCfg b d s).rd 0 (portA b 0x040) = wd (Nat.land d.toNat 0x73)
    else (writePortBlkCfg b d s).rd 0 (portA b 0x040) = s.rd 0 (portA b 0x040) ∧
      bitOf ((writePortBlkCfg b d s).rd 0 (portA b 0x048)) 8 = true := by
  unfold writePortBlkCfg
  rw [hlock, if_neg Bool.false_ne_true]
  by_cases h : (s.seqState b = 0 ∨ s.seqState b = 1) ∧ fld d 0 2 ≠ 3 ∧ fld d 4 3 < 6
  · have agreed := ((s.wr 0 (portA b 0x040) (wd (Nat.land d.toNat 0x73))).checkAgree_wrote hb).work
    rw [if_pos h, if_neg (by omega)]
    refine ⟨((State.Wrote.refl s _).wr trivial _).trans (agreed.mono fun _ _ => trivial), ?_⟩
    rw [agreed.portReg hb (by omega) (by decide), State.rd_wr_same]
  · have raised := s.raisePort_wrote hb 8
    rw [if_neg h, if_pos (by omega)]
    exact ⟨raised.mono fun _ _ => trivial, raised.portReg hb (by omega) (by decide), s.raiseOwned_rd_event hb (by omega)⟩

/-- PORT_BLK_CFG_WRITE. -/
theorem portBlkCfgWrite {s : State} {t : Tag} {b : Fin 48} {d : Word} (hlock : s.pageLocked (pPort b) = false)
    (ha : s.admits (.w32 t (portA b 0x040) d) = true) : s.completes (.portBlkCfgWrite t b d) fun z => z.tbl = s.tbl ∧ s.memKept z ∧
      if (s.seqState b = 0 ∨ s.seqState b = 1) ∧ fld d 0 2 ≠ 3 ∧ fld d 4 3 < 6 then
        z.rd 0 (portA b 0x040) = wd (Nat.land d.toNat 0x73)
      else z.rd 0 (portA b 0x040) = s.rd 0 (portA b 0x040) ∧ bitOf (z.rd 0 (portA b 0x048)) 8 = true := by
  have hb := b.isLt
  refine State.completes_of_admitted ha rfl fun r => ?_
  obtain ⟨wrote, effect⟩ := writePortBlkCfg_effect hb ((s.admitted_portLocked (.w32 t (portA b 0x040) d) hb).trans hlock) d
  rw [s.admitted_seqState _ hb, s.admitted_port _ hb (by omega) (by omega)] at effect
  obtain ⟨htbl, hmem⟩ := wrote.kept_of_admitted
  generalize writePortBlkCfg b d _ = z at *
  exact ⟨htbl, hmem, effect⟩

/-- What a new word of PORT.ETH_CFG does to one port. -/
def spareChange (b : Nat) (d old : Word) (p : Nat) (s : State) : State :=
  if bitOf d (16 + p) && !bitOf old (16 + p) then s.ethDown b p
  else if !bitOf d (16 + p) && bitOf old (16 + p) then forEach (s.portLanes b p) (fun l s => s.wrF 0 (lnA l 0x04) 14 1 0) s
  else s

theorem spareChange_wrote {b p : Nat} (hb : b < 48) (hp : p < 8) (d old : Word) (s : State) :
    s.Wrote (spareChange b d old p s) (LaneWork b) :=
  ((s.ethDown_wrote hb hp).ite (((State.Wrote.refl s _).statusLoop (fun _ => State.mem_portLanes) 14 1 0).ite (.refl s _) _) _).work

theorem ethUp_spareChange {b p q : Nat} (hb : b < 48) (hp : p < 8) (hq : q < 8) (d old : Word) (s : State) :
    (spareChange b d old p s).ethUp b q =
      if q = p ∧ bitOf d (16 + q) = true ∧ bitOf old (16 + q) = false then false else s.ethUp b q := by
  have released := State.ethUp_of_rd (b := b) ((statusLoop_wrote s (b := b) (p := p) rfl 14 1 0 s).rd (not_lanePage_port hb _)) q
  unfold spareChange
  by_cases e : q = p
  · subst e
    cases bitOf d (16 + q) <;> cases bitOf old (16 + q) <;> simp [s.ethUp_ethDown hb hp hq, released]
  · cases bitOf d (16 + p) <;> cases bitOf old (16 + p) <;> simp [s.ethUp_ethDown hb hp hq, released, e]

/-- The links after the changes of a list of ports. -/
theorem ethUp_spareChanges {b q : Nat} (hb : b < 48) (hq : q < 8) (d old : Word) {ps : List Nat} (hps : ∀ p ∈ ps, p < 8) (s : State) :
    (forEach ps (spareChange b d old) s).ethUp b q =
      if q ∈ ps ∧ bitOf d (16 + q) = true ∧ bitOf old (16 + q) = false then false else s.ethUp b q := by
  unfold forEach
  induction ps generalizing s with
  | nil => simp
  | cons p r ih =>
    rw [List.foldl_cons, ih (fun y hy => hps y (List.mem_cons_of_mem _ hy)), ethUp_spareChange hb (hps p List.mem_cons_self) hq]
    by_cases hr : q ∈ r <;> by_cases hc : bitOf d (16 + q) = true ∧ bitOf old (16 + q) = false <;> simp [hr, hc]

theorem writeEthCfg_eq {s : State} {b : Nat} (hlock : s.pageLocked (pPort b) = false) (d : Word) : writeEthCfg b d s =
    if fld d 0 2 = 3 ∨ fld d 3 2 = 3 then s.raiseOwned (pPort b) 8
    else forEach (List.range 8) (spareChange b d (s.rd 0 (portA b 0x054))) (s.wr 0 (portA b 0x054)
      (wd (Nat.land d.toNat 0xFFFFFF1F))) := by
  unfold writeEthCfg
  rw [hlock]
  rfl

/-- A write of PORT.ETH_CFG, whose word is stored or refused with PORT.EVENT.CFG. -/
theorem writeEthCfg_effect {s : State} {b : Nat} (hb : b < 48) (hlock : s.pageLocked (pPort b) = false) (d : Word) :
    s.Wrote (writeEthCfg b d s) (fun _ => True) ∧
    if fld d 0 2 ≠ 3 ∧ fld d 3 2 ≠ 3 then (writeEthCfg b d s).rd 0 (portA b 0x054) = wd (Nat.land d.toNat 0xFFFFFF1F) ∧
      ∀ p, p < 8 → (writeEthCfg b d s).ethUp b p = if bitOf d (16 + p) = true ∧ s.sparing b p = false then false else s.ethUp b p
    else (writeEthCfg b d s).rd 0 (portA b 0x054) = s.rd 0 (portA b 0x054) ∧
      bitOf ((writeEthCfg b d s).rd 0 (portA b 0x048)) 8 = true := by
  rw [writeEthCfg_eq hlock]
  by_cases h : fld d 0 2 ≠ 3 ∧ fld d 3 2 ≠ 3
  · have changed : (s.wr 0 (portA b 0x054) (wd (Nat.land d.toNat 0xFFFFFF1F))).Wrote (forEach (List.range 8)
        (spareChange b d (s.rd 0 (portA b 0x054))) (s.wr 0 (portA b 0x054) (wd (Nat.land d.toNat 0xFFFFFF1F)))) (LaneWork b) :=
      (State.Wrote.refl _ _).forEach fun p hp u hu => hu.trans (spareChange_wrote hb (List.mem_range.mp hp) _ _ u)
    rw [if_neg (by tauto), if_pos h]
    refine ⟨((State.Wrote.refl s _).wr trivial _).trans (changed.mono fun _ _ => trivial), ?_, fun p hp => ?_⟩
    · rw [changed.portReg hb (by omega) (by decide), State.rd_wr_same]
    · have stored := State.ethUp_of_rd (State.rd_wr_other s 0 (portA b 0x054) (wd (Nat.land d.toNat 0xFFFFFF1F)) 0 (portA b 0x058)
        (portA_ne_off (by omega) b)) p
      rw [ethUp_spareChanges hb hp d _ (fun _ => List.mem_range.mp), stored]
      simp only [List.mem_range, hp, true_and]
      rfl
  · have raised := s.raisePort_wrote hb 8
    rw [if_neg h, if_pos (by tauto)]
    exact ⟨raised.mono fun _ _ => trivial, raised.portReg hb (by omega) (by decide), s.raiseOwned_rd_event hb (by omega)⟩

/-- PORT_ETH_CFG_WRITE. -/
theorem portEthCfgWrite {s : State} {t : Tag} {b : Fin 48} {d : Word} (hlock : s.pageLocked (pPort b) = false)
    (ha : s.admits (.w32 t (portA b 0x054) d) = true) : s.completes (.portEthCfgWrite t b d) fun z => z.tbl = s.tbl ∧ s.memKept z ∧
      if fld d 0 2 ≠ 3 ∧ fld d 3 2 ≠ 3 then z.rd 0 (portA b 0x054) = wd (Nat.land d.toNat 0xFFFFFF1F) ∧
        ∀ p, p < 8 → z.ethUp b p = if bitOf d (16 + p) = true ∧ s.sparing b p = false then false else s.ethUp b p
      else z.rd 0 (portA b 0x054) = s.rd 0 (portA b 0x054) ∧ bitOf (z.rd 0 (portA b 0x048)) 8 = true := by
  have hb := b.isLt
  refine State.completes_of_admitted ha rfl fun r => ?_
  have sparing (p : Nat) : (s.admitted (.w32 t (portA b 0x054) d)).sparing b p = s.sparing b p :=
    congrArg (bitOf · (16 + p)) (s.admitted_port _ hb (by omega) (by omega))
  have up (p : Nat) : (s.admitted (.w32 t (portA b 0x054) d)).ethUp b p = s.ethUp b p :=
    State.ethUp_of_rd (s.admitted_port _ hb (by omega) (by omega)) p
  obtain ⟨wrote, effect⟩ := writeEthCfg_effect hb ((s.admitted_portLocked (.w32 t (portA b 0x054) d) hb).trans hlock) d
  simp only [sparing, up, s.admitted_port (.w32 t (portA b 0x054) d) (off := 0x054) hb (by omega) (by omega)] at effect
  obtain ⟨htbl, hmem⟩ := wrote.kept_of_admitted
  generalize writeEthCfg b d _ = z at *
  exact ⟨htbl, hmem, effect⟩

/-- Settles O28: the events of one port, and the two registers of its configuration. -/
theorem ethernetPorts : Obligations.EthernetPorts :=
  ⟨fun s b p => ⟨ethLinkUp, ethLinkDown, ethPortEvents s b p⟩, fun _ _ _ _ hlock => ⟨portBlkCfgWrite hlock, portEthCfgWrite hlock⟩⟩

end Sys2Proof.Machine
end

section
/-!
PROOFS. Scope: the computed placement of streams (R129, R132). Free runs of words, the placement loop, and the order of streams.
-/
namespace Sys2Proof.Machine

/-! ### Runs of words -/

/-- Two runs of words, each a first word and a length, share no word. -/
def RunsApart (x y : Nat × Nat) : Prop := x.1 + x.2 ≤ y.1 ∨ y.1 + y.2 ≤ x.1

/-- A run lies inside another. -/
def RunWithin (x y : Nat × Nat) : Prop := y.1 ≤ x.1 ∧ x.1 + x.2 ≤ y.1 + y.2

theorem RunWithin.refl (x : Nat × Nat) : RunWithin x x := ⟨le_rfl, le_rfl⟩

theorem RunWithin.trans {x y z : Nat × Nat} (hxy : RunWithin x y) (hyz : RunWithin y z) : RunWithin x z :=
  ⟨hyz.1.trans hxy.1, hxy.2.trans hyz.2⟩

theorem RunsApart.symm {x y : Nat × Nat} (h : RunsApart x y) : RunsApart y x := Or.symm h

theorem RunsApart.within {x y z : Nat × Nat} (h : RunsApart y z) (hx : RunWithin x y) : RunsApart x z :=
  h.imp hx.2.trans fun hz => hz.trans hx.1

/-- The run that is taken and the runs that stay free lie inside the runs that were free, and no two of them share a word. -/
theorem takeRun_cuts {n a : Nat} {runs rest : List (Nat × Nat)} (h : takeRun n runs = some (a, rest)) (hr : runs.Pairwise RunsApart) :
    (∀ q ∈ (a, n) :: rest, ∃ r ∈ runs, RunWithin q r) ∧ ((a, n) :: rest).Pairwise RunsApart := by
  induction runs generalizing rest with
  | nil => simp [takeRun] at h
  | cons x r ih =>
    obtain ⟨b, len⟩ := x
    obtain ⟨hx, hr⟩ := List.pairwise_cons.mp hr
    have tail : ∀ q ∈ r, ∃ p ∈ (b, len) :: r, RunWithin q p := fun q hq => ⟨q, List.mem_cons_of_mem _ hq, .refl q⟩
    have head {q : Nat × Nat} (hq : RunWithin q (b, len)) : ∃ p ∈ (b, len) :: r, RunWithin q p := ⟨_, List.mem_cons_self, hq⟩
    rw [takeRun] at h
    by_cases hn : n ≤ len
    · rw [if_pos hn] at h
      obtain ⟨rfl, rfl⟩ := Prod.mk.inj (Option.some.inj h)
      have taken : RunWithin (b, n) (b, len) := ⟨le_rfl, by simpa using hn⟩
      have apart : ∀ q ∈ r, RunsApart (b, n) q := fun q hq => (hx q hq).within taken
      by_cases he : len = n
      · rw [if_pos he]
        exact ⟨List.forall_mem_cons.mpr ⟨head taken, tail⟩, List.pairwise_cons.mpr ⟨apart, hr⟩⟩
      · have left : RunWithin (b + n, len - n) (b, len) := ⟨Nat.le_add_right b n, by simp only; omega⟩
        rw [if_neg he]
        exact ⟨List.forall_mem_cons.mpr ⟨head taken, List.forall_mem_cons.mpr ⟨head left, tail⟩⟩, List.pairwise_cons.mpr
          ⟨List.forall_mem_cons.mpr ⟨.inl le_rfl, apart⟩, List.pairwise_cons.mpr ⟨fun q hq => (hx q hq).within left, hr⟩⟩⟩
    · rw [if_neg hn] at h
      obtain ⟨⟨a', rest'⟩, hrest, heq⟩ := Option.map_eq_some_iff.mp h
      obtain ⟨rfl, rfl⟩ := Prod.mk.inj heq
      obtain ⟨inside, apart⟩ := ih hrest hr
      obtain ⟨taken, kept⟩ := List.forall_mem_cons.mp inside
      obtain ⟨htaken, hkept⟩ := List.pairwise_cons.mp apart
      have later {q : Nat × Nat} (hq : ∃ p ∈ r, RunWithin q p) : ∃ p ∈ (b, len) :: r, RunWithin q p :=
        hq.imp fun p hp => ⟨List.mem_cons_of_mem _ hp.1, hp.2⟩
      have first {q : Nat × Nat} (hq : ∃ p ∈ r, RunWithin q p) : RunsApart q (b, len) := by
        obtain ⟨p, hp, hqp⟩ := hq
        exact (hx p hp).symm.within hqp
      exact ⟨List.forall_mem_cons.mpr ⟨later taken, List.forall_mem_cons.mpr ⟨head (.refl _), fun q hq => later (kept q hq)⟩⟩,
        List.pairwise_cons.mpr ⟨List.forall_mem_cons.mpr ⟨first taken, htaken⟩,
          List.pairwise_cons.mpr ⟨fun q hq => (first (kept q hq)).symm, hkept⟩⟩⟩

/-! ### Free words of lanes -/

/-- Each lane is listed once, and no two of its free runs share a word. -/
def FreeOk (free : List (Nat × List (Nat × Nat))) : Prop :=
  (free.map Prod.fst).Nodup ∧ ∀ e ∈ free, e.2.Pairwise RunsApart

/-- A run of words of a lane is free. -/
def FreeRun (free : List (Nat × List (Nat × Nat))) (lane : Nat) (x : Nat × Nat) : Prop :=
  ∃ runs, (lane, runs) ∈ free ∧ ∃ r ∈ runs, RunWithin x r

theorem FreeRun.lane_mem {free : List (Nat × List (Nat × Nat))} {lane : Nat} {x : Nat × Nat} (h : FreeRun free lane x) :
    lane ∈ free.map Prod.fst := by
  obtain ⟨runs, hm, -⟩ := h
  exact List.mem_map_of_mem hm

theorem freeRun_cons {e : Nat × List (Nat × Nat)} {free : List (Nat × List (Nat × Nat))} {lane : Nat} {x : Nat × Nat} :
    FreeRun (e :: free) lane x ↔ (lane = e.1 ∧ ∃ r ∈ e.2, RunWithin x r) ∨ FreeRun free lane x := by
  obtain ⟨l, runs⟩ := e
  constructor
  · rintro ⟨runs', hm, hx⟩
    rcases List.mem_cons.mp hm with heq | hm
    · obtain ⟨rfl, rfl⟩ := Prod.mk.inj heq
      exact .inl ⟨rfl, hx⟩
    · exact .inr ⟨runs', hm, hx⟩
  · rintro (⟨rfl, hx⟩ | ⟨runs', hm, hx⟩)
    · exact ⟨runs, List.mem_cons_self, hx⟩
    · exact ⟨runs', List.mem_cons_of_mem _ hm, hx⟩

/-- What placing n words at a place of a lane leaves free: the same lanes, words that were free, and none of the words placed. -/
structure Took (n : Nat) (free : List (Nat × List (Nat × Nat))) (place : Nat × Nat) (free' : List (Nat × List (Nat × Nat))) : Prop where
  lanes : free'.map Prod.fst = free.map Prod.fst
  runs : ∀ e ∈ free', e.2.Pairwise RunsApart
  placed : FreeRun free place.1 (place.2, n)
  fewer : ∀ l x, FreeRun free' l x → FreeRun free l x
  apart : ∀ x, FreeRun free' place.1 x → RunsApart (place.2, n) x

theorem Took.ok {n : Nat} {free free' : List (Nat × List (Nat × Nat))} {place : Nat × Nat} (h : Took n free place free')
    (hf : FreeOk free) : FreeOk free' := ⟨h.lanes ▸ hf.1, h.runs⟩

/-- A run taken on the first lane. -/
theorem took_head {n lane a : Nat} {runs runs' : List (Nat × Nat)} {r : List (Nat × List (Nat × Nat))}
    (h : takeRun n runs = some (a, runs')) (hf : FreeOk ((lane, runs) :: r)) :
    Took n ((lane, runs) :: r) (lane, a) ((lane, runs') :: r) := by
  obtain ⟨hlanes, hruns⟩ := hf
  obtain ⟨hhead, htail⟩ := List.forall_mem_cons.mp hruns
  obtain ⟨inside, apart⟩ := takeRun_cuts h hhead
  obtain ⟨taken, kept⟩ := List.forall_mem_cons.mp inside
  obtain ⟨htaken, hkept⟩ := List.pairwise_cons.mp apart
  have alone : lane ∉ r.map Prod.fst := (List.nodup_cons.mp hlanes).1
  refine ⟨rfl, List.forall_mem_cons.mpr ⟨hkept, htail⟩, freeRun_cons.mpr (.inl ⟨rfl, taken⟩), fun l x hx => ?_, fun x hx => ?_⟩
  · rcases freeRun_cons.mp hx with ⟨hl, q, hq, hxq⟩ | hx
    · obtain ⟨p, hp, hqp⟩ := kept q hq
      exact freeRun_cons.mpr (.inl ⟨hl, p, hp, hxq.trans hqp⟩)
    · exact freeRun_cons.mpr (.inr hx)
  · rcases freeRun_cons.mp hx with ⟨-, q, hq, hxq⟩ | hx
    · exact ((htaken q hq).symm.within hxq).symm
    · exact absurd hx.lane_mem alone

/-- A place on a later lane. -/
theorem Took.cons {n : Nat} {free free' : List (Nat × List (Nat × Nat))} {place : Nat × Nat} (h : Took n free place free')
    {e : Nat × List (Nat × Nat)} (hf : FreeOk (e :: free)) : Took n (e :: free) place (e :: free') := by
  have other : place.1 ≠ e.1 := fun heq => (List.nodup_cons.mp hf.1).1 (heq ▸ h.placed.lane_mem)
  refine ⟨congrArg (e.1 :: ·) h.lanes, List.forall_mem_cons.mpr ⟨hf.2 e List.mem_cons_self, h.runs⟩,
    freeRun_cons.mpr (.inr h.placed), fun l x hx => freeRun_cons.mpr ((freeRun_cons.mp hx).imp_right (h.fewer l x)), fun x hx => ?_⟩
  rcases freeRun_cons.mp hx with ⟨hl, -⟩ | hx
  · exact absurd hl other
  · exact h.apart x hx

theorem placeOne_took {n : Nat} {free free' : List (Nat × List (Nat × Nat))} {place : Nat × Nat}
    (h : placeOne n free = some (place, free')) (hf : FreeOk free) : Took n free place free' := by
  induction free generalizing free' with
  | nil => simp [placeOne] at h
  | cons e r ih =>
    obtain ⟨lane, runs⟩ := e
    rw [placeOne] at h
    split at h
    next a runs' hrun =>
      obtain ⟨rfl, rfl⟩ := Prod.mk.inj (Option.some.inj h)
      exact took_head hrun hf
    next =>
      obtain ⟨⟨place', rest⟩, hrest, heq⟩ := Option.map_eq_some_iff.mp h
      obtain ⟨rfl, rfl⟩ := Prod.mk.inj heq
      exact (ih hrest ⟨(List.nodup_cons.mp hf.1).2, fun e he => hf.2 e (List.mem_cons_of_mem _ he)⟩).cons hf

/-! ### The placement loop -/

/-- Two placed streams share no word of a lane. -/
def PlacedApart (p q : Placed) : Prop :=
  ∀ l a a', p.at' = some (l, a) → q.at' = some (l, a') → RunsApart (a, p.words) (a', q.words)

/-- Every placed stream stands in words that were free, and no two share a word. -/
theorem placeAll_apart (sts : List Stream) {free : List (Nat × List (Nat × Nat))} (hf : FreeOk free) :
    (∀ p ∈ placeAll sts free, ∀ l a, p.at' = some (l, a) → FreeRun free l (a, p.words)) ∧ (placeAll sts free).Pairwise PlacedApart := by
  induction sts generalizing free with
  | nil => exact ⟨fun p hp => absurd hp List.not_mem_nil, .nil⟩
  | cons st r ih =>
    rw [placeAll]
    split
    next place free' h =>
      have took := placeOne_took h hf
      obtain ⟨inside, apart⟩ := ih (took.ok hf)
      refine ⟨List.forall_mem_cons.mpr ⟨?_, fun p hp l a hat => took.fewer l _ (inside p hp l a hat)⟩,
        List.pairwise_cons.mpr ⟨?_, apart⟩⟩
      · rintro l a ⟨⟩
        exact took.placed
      · rintro q hq l a a' ⟨⟩ hat
        exact took.apart _ (inside q hq _ a' hat)
    next =>
      obtain ⟨inside, apart⟩ := ih hf
      exact ⟨List.forall_mem_cons.mpr ⟨fun l a hat => by simp at hat, inside⟩,
        List.pairwise_cons.mpr ⟨fun q _ l a a' hat => by simp at hat, apart⟩⟩

theorem placeAll_streams (sts : List Stream) (free : List (Nat × List (Nat × Nat))) :
    (placeAll sts free).map (fun p => p.stream) = sts.map fun st => st.num := by
  induction sts generalizing free with
  | nil => rfl
  | cons st r ih =>
    rw [placeAll]
    split <;> exact congrArg (st.num :: ·) (ih _)

/-- Lanes that are all free. -/
theorem freeOk_lanes {lanes : List Nat} (h : lanes.Nodup) (n : Nat) : FreeOk (lanes.map fun l => (l, [(0, n)])) := by
  refine ⟨by simpa [Function.comp_def] using h, fun e he => ?_⟩
  obtain ⟨l, -, rfl⟩ := List.mem_map.mp he
  exact List.pairwise_singleton _ _

/-! ### The order of streams -/

/-- The order of R129: PRIO descending, then stream number ascending. -/
def StreamBefore (x y : Stream) : Prop := y.prio < x.prio ∨ (x.prio = y.prio ∧ x.num ≤ y.num)

theorem mem_insertStream {x y : Stream} {l : List Stream} (h : y ∈ insertStream x l) : y = x ∨ y ∈ l := by
  induction l with
  | nil => exact .inl (List.mem_singleton.mp h)
  | cons z r ih =>
    rw [insertStream] at h
    split at h
    · exact List.mem_cons.mp h
    · rcases List.mem_cons.mp h with rfl | h
      · exact .inr List.mem_cons_self
      · exact (ih h).imp_right (List.mem_cons_of_mem _)

theorem insertStream_ordered (x : Stream) {l : List Stream} (h : l.Pairwise StreamBefore) :
    (insertStream x l).Pairwise StreamBefore := by
  induction l with
  | nil => exact List.pairwise_singleton _ _
  | cons y r ih =>
    obtain ⟨hy, hr⟩ := List.pairwise_cons.mp h
    rw [insertStream]
    split
    next hxy =>
      have first : StreamBefore x y := by
        unfold StreamBefore
        omega
      have rest : ∀ z ∈ r, StreamBefore x z := fun z hz => by
        have hyz := hy z hz
        unfold StreamBefore at *
        omega
      exact List.pairwise_cons.mpr ⟨List.forall_mem_cons.mpr ⟨first, rest⟩, h⟩
    next hxy =>
      refine List.pairwise_cons.mpr ⟨fun z hz => ?_, ih hr⟩
      rcases mem_insertStream hz with rfl | hz
      · unfold StreamBefore
        omega
      · exact hy z hz

theorem orderStreams_ordered (sts : List Stream) : (orderStreams sts).Pairwise StreamBefore := by
  induction sts with
  | nil => exact .nil
  | cons x r ih => exact insertStream_ordered x ih

/-- Settles O30: each round of the loop takes words that are free, and leaves the others free. -/
theorem placementNeverOverlaps : Obligations.PlacementNeverOverlaps := by
  intro sts lanes hlanes
  obtain ⟨inside, apart⟩ := placeAll_apart (orderStreams sts) (freeOk_lanes hlanes 4096)
  refine ⟨placeAll_streams _ _, orderStreams_ordered sts, fun p hp l a hat => ?_, apart⟩
  obtain ⟨runs, hm, r, hr, hwithin⟩ := inside p hp l a hat
  obtain ⟨l', hl', heq⟩ := List.mem_map.mp hm
  obtain ⟨rfl, rfl⟩ := Prod.mk.inj heq
  obtain rfl := List.mem_singleton.mp hr
  exact ⟨hl', by simpa using hwithin.2⟩

end Sys2Proof.Machine
end

section
/-!
PROOFS. Scope: MACsec at an Ethernet port (R115, R117 to R120). The words of a transmit SA, what the SecY's operations leave of them,
and the frame that a port sends.
-/
namespace Sys2Proof.Machine

/-! ### Words of a transmit SA -/

/-- A word of another table of the page. -/
theorem State.sa_setEnt_sel (s : State) (b : Nat) {p an sel idx w w' : Nat} (v : Word) (h : sel ≠ 0x11) (hp : p < 8) (han : an < 4)
    (hidx : idx < 2 ^ 24) (hw : w < 16) (hw' : w' < 16) : (s.setEnt (pPort b) 0 sel idx w v).sa b p an w' = s.sa b p an w' :=
  s.ent_setEnt_other _ _ _ _ _ _ _ _ _ _ _ (by unfold tblKey; omega)

/-- A word of one SA of the port. -/
theorem State.sa_setEnt (s : State) (b p : Nat) {an an' w w' : Nat} (v : Word) (hw : w < 16) (hw' : w' < 16) :
    (s.setEnt (pPort b) 0 0x11 (p * 4 + an) w v).sa b p an' w' = if an' = an ∧ w' = w then v else s.sa b p an' w' := by
  rw [State.sa, State.ent_setEnt]
  exact if_congr (by unfold tblKey; omega) rfl rfl

theorem State.setSaPn_eq (s : State) (b p an v : Nat) : s.setSaPn b p an v =
    (s.setEnt (pPort b) 0 0x11 (p * 4 + an) 1 (loHalf v)).setEnt (pPort b) 0 0x11 (p * 4 + an) 2 (hiHalf v) := rfl

theorem State.incEnt64_eq (s : State) (pg sel idx w n : Nat) : ∃ v, s.incEnt64 pg sel idx w n =
    (s.setEnt pg 0 sel idx w (loHalf v)).setEnt pg 0 sel idx (w + 1) (hiHalf v) ∧
    v = (pairOf (s.ent pg 0 sel idx w) (s.ent pg 0 sel idx (w + 1)) + n) % 2 ^ 64 := ⟨_, rfl, rfl⟩

section
variable (s : State) (b p an : Nat)

theorem State.saState_setSaState {st : Nat} (h : st < 4) : (s.setSaState b p an st).saState b p an = st := by
  rw [State.saState, State.setSaState, State.setEntF, s.sa_setEnt b p _ (by omega) (by omega), if_pos ⟨rfl, rfl⟩,
    fld_setFld_same _ _ _ _ (by omega), Nat.mod_eq_of_lt (by omega)]

theorem State.saPn_setSaState (st : Nat) : (s.setSaState b p an st).saPn b p an = s.saPn b p an := by
  have word {w : Nat} (hw : w < 16) (h : w ≠ 0) : (s.setSaState b p an st).sa b p an w = s.sa b p an w := by
    rw [State.setSaState, State.setEntF, s.sa_setEnt b p _ (by omega) hw, if_neg fun g => h g.2]
  rw [State.saPn, word (by omega) (by omega), word (by omega) (by omega)]
  rfl

theorem State.saPn_setSaPn {v : Nat} (h : v < 2 ^ 64) : (s.setSaPn b p an v).saPn b p an = v := by
  have lower : (s.setSaPn b p an v).sa b p an 1 = loHalf v := by
    rw [State.setSaPn_eq, State.sa_setEnt _ b p _ (by omega) (by omega), if_neg (by omega), s.sa_setEnt b p _ (by omega) (by omega),
      if_pos ⟨rfl, rfl⟩]
  have upper : (s.setSaPn b p an v).sa b p an 2 = hiHalf v := by
    rw [State.setSaPn_eq, State.sa_setEnt _ b p _ (by omega) (by omega), if_pos ⟨rfl, rfl⟩]
  rw [State.saPn, lower, upper, pairOf_halves, Nat.mod_eq_of_lt h]

end

/-- Another SA of the port. -/
theorem State.sa_setSaState_other (s : State) (b p st : Nat) {an an' w : Nat} (h : an' ≠ an) (hw : w < 16) :
    (s.setSaState b p an st).sa b p an' w = s.sa b p an' w := by
  rw [State.setSaState, State.setEntF, s.sa_setEnt b p _ (by omega) hw, if_neg fun g => h g.1]

theorem State.sa_setSaPn_other (s : State) (b p v : Nat) {an an' w : Nat} (h : an' ≠ an) (hw : w < 16) :
    (s.setSaPn b p an v).sa b p an' w = s.sa b p an' w := by
  rw [State.setSaPn_eq, State.sa_setEnt _ b p _ (by omega) hw, if_neg fun g => h g.1, s.sa_setEnt b p _ (by omega) hw,
    if_neg fun g => h g.1]

/-- The port's counters. -/
theorem State.sa_incEnt64 (s : State) (b n : Nat) {p an w w' : Nat} (hp : p < 8) (han : an < 4) (hw : w < 15) (hw' : w' < 16) :
    (s.incEnt64 (pPort b) 0x15 p w n).sa b p an w' = s.sa b p an w' := by
  obtain ⟨v, hv, -⟩ := s.incEnt64_eq (pPort b) 0x15 p w n
  rw [hv, State.sa_setEnt_sel _ b _ (by omega) hp han (by omega) (by omega) hw',
    s.sa_setEnt_sel b _ (by omega) hp han (by omega) (by omega) hw']

/-- An event. -/
theorem State.sa_raiseOwned {b : Nat} (hb : b < 48) (s : State) (e p an w : Nat) :
    (s.raiseOwned (pPort b) e).sa b p an w = s.sa b p an w :=
  congrArg (Tab.get tblReset · (tblKey (pPort b) 0 0x11 (p * 4 + an) w)) (s.raisePort_wrote hb e).tbl

theorem State.txAn_lt (s : State) (b p : Nat) : s.txAn b p < 4 := fld_lt _ _ _

/-! The SecY and its SAs are words of tables. -/

section
variable {s u : State} (h : u.tbl = s.tbl)
include h

theorem State.ent_of_tbl (pg bank sel idx w : Nat) : u.ent pg bank sel idx w = s.ent pg bank sel idx w :=
  congrArg (Tab.get tblReset · (tblKey pg bank sel idx w)) h

theorem State.secy_of_tbl (b p : Nat) : u.secy b p = s.secy b p := State.ent_of_tbl h _ _ _ _ _
theorem State.txAn_of_tbl (b p : Nat) : u.txAn b p = s.txAn b p := congrArg (fld · 8 2) (State.secy_of_tbl h b p)
theorem State.sa_of_tbl (b p an w : Nat) : u.sa b p an w = s.sa b p an w := State.ent_of_tbl h _ _ _ _ _
theorem State.saState_of_tbl (b p an : Nat) : u.saState b p an = s.saState b p an := congrArg (fld · 0 2) (State.sa_of_tbl h b p an 0)
theorem State.saPn_of_tbl (b p an : Nat) : u.saPn b p an = s.saPn b p an :=
  congrArg₂ pairOf (State.sa_of_tbl h b p an 1) (State.sa_of_tbl h b p an 2)

theorem State.sakAlive_of_tbl (k : Nat) : u.sakAlive k = s.sakAlive k := by
  simp only [State.sakAlive, State.nodeKind, State.nodeState, State.node, State.ent_of_tbl h]

theorem State.saUsable_of_tbl (b p an : Nat) : u.saUsable b p an = s.saUsable b p an := by
  simp only [State.saUsable, State.sa_of_tbl h, State.saState_of_tbl h, State.sakAlive_of_tbl h]

theorem State.bypassed_of_tbl (b p e : Nat) : u.bypassed b p e = s.bypassed b p e := by
  simp only [State.bypassed, State.ent_of_tbl h]

end

/-! ### What the SecY leaves -/

/-- Work at a SecY of block b: beside tables and the list of SAs that have sent, PORT.EVENT and PAGE_FAULT alone change, and no event
clears. -/
structure State.SecyWork (s z : State) (b : Nat) : Prop where
  out : z.out = s.out
  regs : ∀ off, off ∉ [0x018, 0x048] → z.rd 0 (portA b off) = s.rd 0 (portA b off)
  raised : ∀ e, bitOf (s.rd 0 (portA b 0x048)) e = true → bitOf (z.rd 0 (portA b 0x048)) e = true

namespace State.SecyWork

variable {s t u : State} {b : Nat}

theorem refl (s : State) (b : Nat) : s.SecyWork s b := ⟨rfl, fun _ _ => rfl, fun _ h => h⟩

theorem trans (h : s.SecyWork t b) (g : t.SecyWork u b) : s.SecyWork u b :=
  ⟨g.out.trans h.out, fun off ho => (g.regs off ho).trans (h.regs off ho), fun e he => g.raised e (h.raised e he)⟩

theorem setEnt (h : s.SecyWork u b) (pg bank sel idx w : Nat) (v : Word) : s.SecyWork (u.setEnt pg bank sel idx w v) b :=
  ⟨h.out, h.regs, h.raised⟩

theorem setSaState (h : s.SecyWork u b) (p an st : Nat) : s.SecyWork (u.setSaState b p an st) b := h.setEnt _ _ _ _ _ _

theorem setSaPn (h : s.SecyWork u b) (p an v : Nat) : s.SecyWork (u.setSaPn b p an v) b :=
  (h.setEnt _ _ _ _ _ _).setEnt _ _ _ _ _ _

theorem incEnt64 (h : s.SecyWork u b) (pg sel idx w n : Nat) : s.SecyWork (u.incEnt64 pg sel idx w n) b := by
  obtain ⟨v, hv, -⟩ := u.incEnt64_eq pg sel idx w n
  rw [hv]
  exact (h.setEnt _ _ _ _ _ _).setEnt _ _ _ _ _ _

theorem raiseOwned (h : s.SecyWork u b) (hb : b < 48) {e : Nat} (he : e < 32) : s.SecyWork (u.raiseOwned (pPort b) e) b := by
  refine h.trans ⟨(u.raisePort_wrote hb e).out, fun off ho => ?_, fun e' he' => ?_⟩
  · simp only [List.mem_cons, List.not_mem_nil, or_false, not_or] at ho
    exact u.raiseOwned_rd hb e (portA_ne_off ho.2 b) (portA_ne_off ho.1 b)
  · by_cases heq : e' = e
    · rw [heq]
      exact u.raiseOwned_rd_event hb he
    · rw [State.raiseOwned_port hb, State.faultAt_rd _ (show regKey 0 (portA b 0x048) ≠ regKey 0 (portA b 0x018) from
        portA_ne_off (by omega) b), State.wrF, State.rd_wr_same, bitOf_setFld_other _ _ _ _ _ (by omega) (by omega)]
      exact he'

theorem ite (h : s.SecyWork t b) (g : s.SecyWork u b) (c : Prop) [Decidable c] : s.SecyWork (if c then t else u) b := by
  split
  exacts [h, g]

theorem useSa (h : s.SecyWork u b) (p an : Nat) : s.SecyWork (u.useSa b p an) b := by
  have named := ((h.setSaState p (u.txAn b p) 0).ite h (u.txAn b p ≠ an ∧ u.saState b p (u.txAn b p) = 1)).setEnt (pPort b) 0 0x10 p 0
  exact ((named _).setSaState p an 1).ite (named _) _

theorem inLpi (h : s.SecyWork u b) (p : Nat) : u.inLpi b p = s.inLpi b p := congrArg (bitOf · (16 + p)) (h.regs 0x058 (by decide))

end State.SecyWork

/-! ### The next SA -/

theorem State.autoNext_cases (s : State) (b p : Nat) :
    s.autoNext b p = s ∨ ∃ an, an < 4 ∧ s.saState b p an ≠ 3 ∧ s.autoNext b p = s.useSa b p an := by
  unfold State.autoNext
  dsimp only
  split
  next h =>
    simp only [State.saUsable, Bool.and_eq_true, bne_iff_ne] at h
    exact .inr ⟨_, Nat.mod_lt _ (by omega), h.1.2.1.2, rfl⟩
  next => exact .inl rfl

theorem State.SecyWork.autoNext {s u : State} {b : Nat} (h : s.SecyWork u b) (p : Nat) : s.SecyWork (u.autoNext b p) b := by
  rcases u.autoNext_cases b p with he | ⟨an, -, -, he⟩ <;> rw [he]
  exacts [h, h.useSa p an]

/-- An SA that is EXHAUSTED stays as it is when another comes into use. -/
theorem State.sa_useSa {s : State} {b p an ex w : Nat} (hp : p < 8) (hex : ex < 4) (h3 : s.saState b p ex = 3) (hne : ex ≠ an)
    (hw : w < 16) : (s.useSa b p an).sa b p ex w = s.sa b p ex w := by
  have left : (if s.txAn b p ≠ an ∧ s.saState b p (s.txAn b p) = 1 then s.setSaState b p (s.txAn b p) 0 else s).sa b p ex w =
      s.sa b p ex w := by
    split
    next h => exact s.sa_setSaState_other b p 0 (fun e => by rw [← e, h3] at h; omega) hw
    next => rfl
  have named (u : State) : (u.setEntF (pPort b) 0 0x10 p 0 8 2 an).sa b p ex w = u.sa b p ex w :=
    u.sa_setEnt_sel b _ (by omega) hp hex (by omega) (by omega) hw
  unfold State.useSa
  dsimp only
  generalize (if s.txAn b p ≠ an ∧ s.saState b p (s.txAn b p) = 1 then s.setSaState b p (s.txAn b p) 0 else s) = s1 at left ⊢
  split
  · rw [State.sa_setSaState_other _ b p 1 hne hw, named, left]
  · rw [named, left]

theorem State.sa_autoNext {s : State} {b p ex w : Nat} (hp : p < 8) (hex : ex < 4) (h3 : s.saState b p ex = 3) (hw : w < 16) :
    (s.autoNext b p).sa b p ex w = s.sa b p ex w := by
  rcases s.autoNext_cases b p with h | ⟨an, -, hst, h⟩ <;> rw [h]
  exact State.sa_useSa hp hex h3 (fun e => hst (e ▸ h3)) hw

/-! ### One frame under the SA in use -/

/-- The frame is counted, and its SA has sent. -/
def State.saCounted (s : State) (b p : Nat) : State :=
  let s1 := s.incEnt64 (pPort b) 0x15 p 0 1
  { s1 with saSent := if s.saHasSent b p (s.txAn b p) then s1.saSent else s1.saSent ++ [saIx b p (s.txAn b p)] }

theorem State.SecyWork.saCounted {s u : State} {b : Nat} (h : s.SecyWork u b) (p : Nat) : s.SecyWork (u.saCounted b p) b :=
  have counted := h.incEnt64 (pPort b) 0x15 p 0 1
  ⟨counted.out, counted.regs, counted.raised⟩

theorem State.sa_saCounted (s : State) (b : Nat) {p an w : Nat} (hp : p < 8) (han : an < 4) (hw : w < 16) :
    (s.saCounted b p).sa b p an w = s.sa b p an w := s.sa_incEnt64 b 1 hp han (by omega) hw

theorem State.saSend_last {s : State} {b p : Nat} (h : s.saPn b p (s.txAn b p) = 2 ^ 64 - 1) : s.saSend b p =
    (((s.saCounted b p).setSaState b p (s.txAn b p) 3).raiseOwned (pPort b) 7).autoNext b p := if_pos h

theorem State.saSend_next {s : State} {b p : Nat} (h : s.saPn b p (s.txAn b p) ≠ 2 ^ 64 - 1) : s.saSend b p =
    if s.saPn b p (s.txAn b p) + 1 = rekeyPn then
      (((s.saCounted b p).setSaPn b p (s.txAn b p) (s.saPn b p (s.txAn b p) + 1)).setSaState b p (s.txAn b p) 2).raiseOwned (pPort b) 6
    else (s.saCounted b p).setSaPn b p (s.txAn b p) (s.saPn b p (s.txAn b p) + 1) := if_neg h

section
variable (s : State) {b p : Nat} (hb : b < 48) (hp : p < 8)
include hb

theorem State.saSend_secyWork : s.SecyWork (s.saSend b p) b := by
  have counted := (State.SecyWork.refl s b).saCounted p
  by_cases h : s.saPn b p (s.txAn b p) = 2 ^ 64 - 1
  · rw [State.saSend_last h]
    exact ((counted.setSaState _ _ _).raiseOwned hb (by omega)).autoNext p
  · rw [State.saSend_next h]
    exact (((counted.setSaPn _ _ _).setSaState _ _ _).raiseOwned hb (by omega)).ite (counted.setSaPn _ _ _) _

/-- The next packet number is one higher. -/
theorem State.saSend_pn (h : s.saPn b p (s.txAn b p) < 2 ^ 64 - 1) :
    (s.saSend b p).saPn b p (s.txAn b p) = s.saPn b p (s.txAn b p) + 1 := by
  have pn := (s.saCounted b p).saPn_setSaPn b p (s.txAn b p) (v := s.saPn b p (s.txAn b p) + 1) (by omega)
  rw [State.saSend_next (by omega)]
  split
  · rw [State.saPn, State.sa_raiseOwned hb, State.sa_raiseOwned hb]
    exact (State.saPn_setSaState _ b p _ 2).trans pn
  · exact pn

/-- The number from which R119 asks for a new key raises the warning. -/
theorem State.saSend_warns (h : s.saPn b p (s.txAn b p) + 1 = rekeyPn) : (s.saSend b p).saState b p (s.txAn b p) = 2 ∧
    bitOf ((s.saSend b p).rd 0 (portA b 0x048)) 6 = true := by
  have hne : s.saPn b p (s.txAn b p) ≠ 2 ^ 64 - 1 := by
    unfold rekeyPn at h
    omega
  rw [State.saSend_next hne, if_pos h]
  refine ⟨?_, State.raiseOwned_rd_event hb _ (by omega)⟩
  rw [State.saState, State.sa_raiseOwned hb]
  exact State.saState_setSaState _ b p _ (by omega)

include hp

/-- The last packet number exhausts the SA. -/
theorem State.saSend_exhausts (h : s.saPn b p (s.txAn b p) = 2 ^ 64 - 1) : (s.saSend b p).saState b p (s.txAn b p) = 3 ∧
    bitOf ((s.saSend b p).rd 0 (portA b 0x048)) 7 = true := by
  have spent : (((s.saCounted b p).setSaState b p (s.txAn b p) 3).raiseOwned (pPort b) 7).saState b p (s.txAn b p) = 3 :=
    (congrArg (fld · 0 2) (State.sa_raiseOwned hb _ 7 p _ 0)).trans (State.saState_setSaState _ b p _ (by omega))
  rw [State.saSend_last h]
  exact ⟨(congrArg (fld · 0 2) (State.sa_autoNext hp (s.txAn_lt b p) spent (by omega))).trans spent,
    ((State.SecyWork.refl _ b).autoNext p).raised 7 (State.raiseOwned_rd_event hb _ (by omega))⟩

/-- An SA that is EXHAUSTED and not in use stays as it is when a frame goes under another. -/
theorem State.sa_saSend {ex w : Nat} (hex : ex < 4) (h3 : s.saState b p ex = 3) (hne : ex ≠ s.txAn b p) (hw : w < 16) :
    (s.saSend b p).sa b p ex w = s.sa b p ex w := by
  by_cases h : s.saPn b p (s.txAn b p) = 2 ^ 64 - 1
  · have before {w : Nat} (hw : w < 16) : (((s.saCounted b p).setSaState b p (s.txAn b p) 3).raiseOwned (pPort b) 7).sa b p ex w =
        s.sa b p ex w := by
      rw [State.sa_raiseOwned hb, State.sa_setSaState_other _ b p 3 hne hw, s.sa_saCounted b hp hex hw]
    rw [State.saSend_last h, State.sa_autoNext hp hex ((congrArg (fld · 0 2) (before (by omega))).trans h3) hw, before hw]
  · rw [State.saSend_next h]
    split
    · rw [State.sa_raiseOwned hb, State.sa_setSaState_other _ b p 2 hne hw, State.sa_setSaPn_other _ b p _ hne hw,
        s.sa_saCounted b hp hex hw]
    · rw [State.sa_setSaPn_other _ b p _ hne hw, s.sa_saCounted b hp hex hw]

end

/-! ### The transmit half of a SecY -/

/-- The frame goes under the SA in use if that can send, and is discarded and counted otherwise. -/
def State.secyTry (s : State) (b p : Nat) : Option (Option Nat) × State :=
  if s.saUsable b p (s.txAn b p) then (some (some (s.saPn b p (s.txAn b p))), s.saSend b p)
  else (none, s.incEnt64 (pPort b) 0x15 p 2 1)

/-- The SA in use, whose key has been destroyed, is EXHAUSTED. -/
def State.saSpent (s : State) (b p : Nat) : State :=
  ((s.setSaState b p (s.txAn b p) 3).raiseOwned (pPort b) 7).autoNext b p

theorem State.secyOut_clear {s : State} {b p e : Nat} (h : bitOf (s.secy b p) 0 = false ∨ s.bypassed b p e = true) :
    s.secyOut b p e = (some none, s) := by
  unfold State.secyOut
  rw [if_pos]
  rcases h with h | h <;> simp [h]

section
variable {s : State} {b p e : Nat} (hen : bitOf (s.secy b p) 0 = true) (hby : s.bypassed b p e = false)
include hen hby

theorem State.secyOut_protected : s.secyOut b p e =
    (if bitOf (s.sa b p (s.txAn b p) 0) 31 && s.saState b p (s.txAn b p) != 3 &&
      !s.sakAlive (fld (s.sa b p (s.txAn b p) 0) 16 10) then s.saSpent b p else s).secyTry b p := by
  unfold State.secyOut
  rw [if_neg (by simp [hen, hby])]
  rfl

theorem State.secyOut_usable (hus : s.saUsable b p (s.txAn b p) = true) :
    s.secyOut b p e = (some (some (s.saPn b p (s.txAn b p))), s.saSend b p) := by
  have alive := hus
  simp only [State.saUsable, Bool.and_eq_true] at alive
  rw [State.secyOut_protected hen hby, if_neg (by simp [alive.2]), State.secyTry, if_pos hus]

theorem State.secyOut_spent (hv : bitOf (s.sa b p (s.txAn b p) 0) 31 = true) (h3 : s.saState b p (s.txAn b p) ≠ 3)
    (hdead : s.sakAlive (fld (s.sa b p (s.txAn b p) 0) 16 10) = false) : s.secyOut b p e = (s.saSpent b p).secyTry b p := by
  rw [State.secyOut_protected hen hby, if_pos (by simp [hv, h3, hdead])]

theorem State.secyOut_drop (h : bitOf (s.sa b p (s.txAn b p) 0) 31 = false ∨ s.saState b p (s.txAn b p) = 3) :
    s.secyOut b p e = (none, s.incEnt64 (pPort b) 0x15 p 2 1) := by
  rw [State.secyOut_protected hen hby, if_neg (by rcases h with h | h <;> simp [h]), State.secyTry,
    if_neg (by rcases h with h | h <;> simp [State.saUsable, h])]

end

section
variable (s : State) {b p : Nat} (hb : b < 48) (hp : p < 8)
include hb

theorem State.saSpent_event : bitOf ((s.saSpent b p).rd 0 (portA b 0x048)) 7 = true :=
  ((State.SecyWork.refl _ b).autoNext p).raised 7 (State.raiseOwned_rd_event hb _ (by omega))

include hp

/-- The SA that is EXHAUSTED for want of a key keeps its packet number. -/
theorem State.saSpent_sa : (s.saSpent b p).saState b p (s.txAn b p) = 3 ∧
    (s.saSpent b p).saPn b p (s.txAn b p) = s.saPn b p (s.txAn b p) := by
  have raised := State.sa_raiseOwned hb (s.setSaState b p (s.txAn b p) 3) 7 p (s.txAn b p)
  have state : ((s.setSaState b p (s.txAn b p) 3).raiseOwned (pPort b) 7).saState b p (s.txAn b p) = 3 :=
    (congrArg (fld · 0 2) (raised 0)).trans (s.saState_setSaState b p _ (by omega))
  have spent {w : Nat} (hw : w < 16) : (s.saSpent b p).sa b p (s.txAn b p) w = (s.setSaState b p (s.txAn b p) 3).sa b p (s.txAn b p) w :=
    (State.sa_autoNext hp (s.txAn_lt b p) state hw).trans (raised w)
  exact ⟨(congrArg (fld · 0 2) (spent (by omega))).trans (s.saState_setSaState b p _ (by omega)),
    (congrArg₂ pairOf (spent (by omega)) (spent (by omega))).trans (s.saPn_setSaState b p _ 3)⟩

/-- The SecY may go on under another SA, and the one without a key stays as it is. -/
theorem State.secyTry_spent : ((s.saSpent b p).secyTry b p).2.saState b p (s.txAn b p) = 3 ∧
    bitOf (((s.saSpent b p).secyTry b p).2.rd 0 (portA b 0x048)) 7 = true ∧
    ((s.saSpent b p).secyTry b p).2.saPn b p (s.txAn b p) = s.saPn b p (s.txAn b p) := by
  have han := s.txAn_lt b p
  have event := s.saSpent_event (p := p) hb
  obtain ⟨h3, hpn⟩ := s.saSpent_sa hb hp
  have stays {z : State} (work : (s.saSpent b p).SecyWork z b)
      (words : ∀ w, w < 16 → z.sa b p (s.txAn b p) w = (s.saSpent b p).sa b p (s.txAn b p) w) :
      z.saState b p (s.txAn b p) = 3 ∧ bitOf (z.rd 0 (portA b 0x048)) 7 = true ∧ z.saPn b p (s.txAn b p) = s.saPn b p (s.txAn b p) :=
    ⟨(congrArg (fld · 0 2) (words 0 (by omega))).trans h3, work.raised 7 event,
      (congrArg₂ pairOf (words 1 (by omega)) (words 2 (by omega))).trans hpn⟩
  unfold State.secyTry
  split
  next hus =>
    have moved : s.txAn b p ≠ (s.saSpent b p).txAn b p := fun e => by
      rw [← e] at hus
      simp [State.saUsable, h3] at hus
    exact stays (State.saSend_secyWork _ hb) fun w hw => State.sa_saSend _ hb hp han h3 moved hw
  next => exact stays ((State.SecyWork.refl _ b).incEnt64 _ _ _ _ _) fun w hw => State.sa_incEnt64 _ b 1 hp han (by omega) hw

end

/-! ### A frame at a port -/

/-- A port that has left LPI. -/
def State.awake (s : State) (b p : Nat) : State := if s.inLpi b p = true then s.lpiEnd b p else s

theorem State.awake_tbl (s : State) (b p : Nat) : (s.awake b p).tbl = s.tbl := by
  unfold State.awake
  split <;> rfl

theorem State.awake_out (s : State) (b p : Nat) : (s.awake b p).out = s.out := by
  unfold State.awake
  split <;> rfl

theorem State.awake_inLpi (s : State) (b : Nat) {p : Nat} (hp : p < 8) : (s.awake b p).inLpi b p = false := by
  unfold State.awake
  split
  · rw [State.inLpi, State.lpiEnd, State.wrF, State.rd_wr_same, bitOf_setFld_same _ _ _ (by omega)]
    rfl
  next h => exact Bool.eq_false_iff.mpr h

/-- What leaves a port, by the answer of its SecY. -/
def sentFrame (b p : Nat) (q : Option (Option Nat) × State) : State := q.1.elim q.2 fun pn => q.2.emit (.ethFrame b p pn)

/-- MACSEC_TX_FRAME at a port whose link is up. -/
theorem execMacsecTxFrame_up {s : State} {b : Fin 48} {p : Fin 8} (etype : BitVec 16) (ht : s.portType b = 2) (hup : s.ethUp b p = true) :
    exec (.macsecTxFrame b p etype) s = .next (sentFrame b p ((s.awake b p).secyOut b p etype.toNat)) := by
  refine congrArg Host.Outcome.next ((if_neg (by simp [ht, hup])).trans ?_)
  change (match (s.awake b p).secyOut b p etype.toNat with
    | (some pn, s1) => s1.emit (.ethFrame b p pn)
    | (none, s1) => s1) = _
  generalize (s.awake b p).secyOut b p etype.toNat = q
  obtain ⟨r, z⟩ := q
  cases r <;> rfl

/-- A frame that leaves changes nothing else. -/
theorem sentFrame_rest (b p : Nat) (q : Option (Option Nat) × State) : ∃ o, sentFrame b p q = { q.2 with out := o } := by
  obtain ⟨r, z⟩ := q
  cases r
  · exact ⟨z.out, rfl⟩
  · exact ⟨_, rfl⟩

/-- A counter's lower half after one more. -/
theorem loHalf_pairOf_succ (lo hi : Word) : loHalf ((pairOf lo hi + 1) % 2 ^ 64) = lo + 1 := by
  apply BitVec.eq_of_toNat_eq
  have hlo := lo.isLt
  have one : (1 : Word).toNat = 1 := rfl
  simp only [loHalf, pairOf, BitVec.toNat_ofNat, BitVec.toNat_add, one]
  omega

section
variable {s : State} {b : Fin 48} {p : Fin 8} {etype : BitVec 16} (ht : s.portType b = 2) (hup : s.ethUp b p = true)
include ht hup

theorem macsecTx_completes {P : State → Prop} {q : Option (Option Nat) × State}
    (hq : (s.awake b p).secyOut b p etype.toNat = q) (hP : P (sentFrame b p q)) : s.completes (.macsecTxFrame b p etype) P :=
  ⟨_, execMacsecTxFrame_up etype ht hup, hq ▸ hP⟩

/-- In clear. -/
theorem macsecTx_clear (h : bitOf (s.secy b p) 0 = false ∨ s.bypassed b p etype.toNat = true) :
    s.completes (.macsecTxFrame b p etype) fun z =>
      z = { s.awake b p with out := s.out ++ [.ethFrame b p none] } ∧ z.inLpi b p = false := by
  rw [← State.secy_of_tbl (s.awake_tbl b p), ← State.bypassed_of_tbl (s.awake_tbl b p)] at h
  rw [← s.awake_out b p]
  exact macsecTx_completes ht hup (State.secyOut_clear h) ⟨rfl, s.awake_inLpi b p.isLt⟩

variable (hen : bitOf (s.secy b p) 0 = true) (hby : s.bypassed b p etype.toNat = false)
include hen hby

/-- Under the SA in use. -/
theorem macsecTx_protected (hus : s.saUsable b p (s.txAn b p) = true) : s.completes (.macsecTxFrame b p etype) fun z =>
    z.out = s.out ++ [.ethFrame b p (some (s.saPn b p (s.txAn b p)))] ∧ z.inLpi b p = false ∧
    (s.saPn b p (s.txAn b p) < 2 ^ 64 - 1 → z.saPn b p (s.txAn b p) = s.saPn b p (s.txAn b p) + 1) ∧
    (s.saPn b p (s.txAn b p) = 2 ^ 64 - 1 → z.saState b p (s.txAn b p) = 3 ∧ bitOf (z.rd 0 (portA b 0x048)) 7 = true) ∧
    (s.saPn b p (s.txAn b p) + 1 = 2 ^ 64 - 2 ^ 32 → z.saState b p (s.txAn b p) = 2 ∧ bitOf (z.rd 0 (portA b 0x048)) 6 = true) := by
  have tbl := s.awake_tbl b p
  have work := (s.awake b p).saSend_secyWork (p := p) b.isLt
  rw [← State.secy_of_tbl tbl] at hen
  rw [← State.bypassed_of_tbl tbl] at hby
  rw [← State.txAn_of_tbl tbl, ← State.saUsable_of_tbl tbl] at hus
  rw [← State.txAn_of_tbl tbl, ← State.saPn_of_tbl tbl, ← s.awake_out b p]
  exact macsecTx_completes ht hup (State.secyOut_usable hen hby hus)
    ⟨congrArg (· ++ [Out.ethFrame b p (some ((s.awake b p).saPn b p ((s.awake b p).txAn b p)))]) work.out,
      (work.inLpi p).trans (s.awake_inLpi b p.isLt), (s.awake b p).saSend_pn b.isLt, (s.awake b p).saSend_exhausts b.isLt p.isLt,
      (s.awake b p).saSend_warns b.isLt⟩

/-- Under an SA whose key has been destroyed. -/
theorem macsecTx_spent (hv : bitOf (s.sa b p (s.txAn b p) 0) 31 = true) (h3 : s.saState b p (s.txAn b p) ≠ 3)
    (hdead : s.sakAlive (fld (s.sa b p (s.txAn b p) 0) 16 10) = false) : s.completes (.macsecTxFrame b p etype) fun z =>
    z.saState b p (s.txAn b p) = 3 ∧ bitOf (z.rd 0 (portA b 0x048)) 7 = true ∧
    z.saPn b p (s.txAn b p) = s.saPn b p (s.txAn b p) := by
  have tbl := s.awake_tbl b p
  rw [← State.secy_of_tbl tbl] at hen
  rw [← State.bypassed_of_tbl tbl] at hby
  rw [← State.txAn_of_tbl tbl, ← State.sa_of_tbl tbl] at hv
  rw [← State.txAn_of_tbl tbl, ← State.saState_of_tbl tbl] at h3
  rw [← State.txAn_of_tbl tbl, ← State.sa_of_tbl tbl, ← State.sakAlive_of_tbl tbl] at hdead
  rw [← State.txAn_of_tbl tbl, ← State.saPn_of_tbl tbl]
  refine macsecTx_completes ht hup (State.secyOut_spent hen hby hv h3 hdead) ?_
  obtain ⟨o, ho⟩ := sentFrame_rest b p (((s.awake b p).saSpent b p).secyTry b p)
  rw [ho]
  exact (s.awake b p).secyTry_spent b.isLt p.isLt

/-- Under no SA. -/
theorem macsecTx_dropped (h : bitOf (s.sa b p (s.txAn b p) 0) 31 = false ∨ s.saState b p (s.txAn b p) = 3) :
    s.completes (.macsecTxFrame b p etype) fun z => z.out = s.out ∧
      z.ent (pPort b) 0 0x15 p 2 = s.ent (pPort b) 0 0x15 p 2 + 1 ∧ z.regs = (s.awake b p).regs := by
  have tbl := s.awake_tbl b p
  rw [← State.secy_of_tbl tbl] at hen
  rw [← State.bypassed_of_tbl tbl] at hby
  rw [← State.txAn_of_tbl tbl, ← State.sa_of_tbl tbl, ← State.saState_of_tbl tbl] at h
  rw [← State.ent_of_tbl tbl, ← s.awake_out b p]
  obtain ⟨v, hv, hval⟩ := (s.awake b p).incEnt64_eq (pPort b) 0x15 p 2 1
  refine macsecTx_completes ht hup ((State.secyOut_drop hen hby h).trans (congrArg (none, ·) hv)) ⟨rfl, ?_, rfl⟩
  rw [← loHalf_pairOf_succ _ ((s.awake b p).ent (pPort b) 0 0x15 p 3), ← hval]
  exact (State.ent_setEnt_other _ _ _ _ _ _ _ _ _ _ _ _ (by unfold tblKey; omega)).trans (State.ent_setEnt_same _ _ _ _ _ _ _)

end

end Sys2Proof.Machine
end

section
/-!
PROOFS. Scope: PTP messages at an Ethernet port (R117, R382, R386). What the receive half of a SecY counts, and where a message goes.
-/
namespace Sys2Proof.Machine

/-! ### The receive half of a SecY -/

/-- Nothing has changed but tables of the block's PORT page. -/
def State.onlyPortTables (s u : State) (b : Nat) : Prop :=
  { u with tbl := s.tbl } = s ∧ ∀ k, k / 2 ^ 48 ≠ pPort b → Tab.get tblReset u.tbl k = Tab.get tblReset s.tbl k

theorem tblKey_page (pg : Nat) {sel idx w : Nat} (hsel : sel < 65536) (hidx : idx < 2 ^ 24) (hw : w < 16) :
    tblKey pg 0 sel idx w / 2 ^ 48 = pg := by
  unfold tblKey
  omega

theorem State.onlyPortTables.setEnt {s u : State} {b : Nat} (h : s.onlyPortTables u b) {sel idx w : Nat} (v : Word) (hsel : sel < 65536)
    (hidx : idx < 2 ^ 24) (hw : w < 16) : s.onlyPortTables (u.setEnt (pPort b) 0 sel idx w v) b :=
  ⟨h.1, fun k hk => (Tab.get_put_other _ _ _ _ _ fun e => hk (by rw [e, tblKey_page _ hsel hidx hw])).trans (h.2 k hk)⟩

theorem State.onlyPortTables.regs {s u : State} {b : Nat} (h : s.onlyPortTables u b) : u.regs = s.regs := by
  have e := congrArg State.regs h.1
  exact e
theorem State.onlyPortTables.out {s u : State} {b : Nat} (h : s.onlyPortTables u b) : u.out = s.out := by
  have e := congrArg State.out h.1
  exact e
theorem State.onlyPortTables.memKept {s u : State} {b : Nat} (h : s.onlyPortTables u b) : s.memKept u := fun a => by
  have e := congrArg (State.memByte · a) h.1
  exact e

theorem State.onlyPortTables.incEnt64 {s u : State} {b : Nat} (h : s.onlyPortTables u b) {sel idx w : Nat} (hsel : sel < 65536)
    (hidx : idx < 2 ^ 24) (hw : w < 15) (n : Nat) : s.onlyPortTables (u.incEnt64 (pPort b) sel idx w n) b := by
  obtain ⟨v, hv, -⟩ := u.incEnt64_eq (pPort b) sel idx w n
  rw [hv]
  exact (h.setEnt _ hsel hidx (by omega)).setEnt _ hsel hidx (by omega)

/-- What a SecY counts of a received frame: nothing, a bad frame, or a good one with the lowest packet number that follows. -/
theorem State.secyIn_cases (s : State) (b p e : Nat) (m : Option MacsecIn) :
    (s.secyIn b p e m).2 = s ∨ (s.secyIn b p e m).2 = s.incEnt64 (pPort b) 0x15 p 6 1 ∨
    ∃ i low, i < 64 ∧ (s.secyIn b p e m).2 =
      (s.incEnt64 (pPort b) 0x15 p 4 1).setEntWords (pPort b) 0 0x13 (p * 64 + i) 1 [loHalf low, hiHalf low] := by
  unfold State.secyIn
  split
  · cases m with
    | none => exact .inl rfl
    | some m =>
      have hsc := m.sc.isLt
      have han := m.an.isLt
      have place : (p * 16 + m.sc.val) * 4 + m.an.val = p * 64 + (m.sc.val * 4 + m.an.val) := by omega
      unfold State.macsecRx
      dsimp only
      rw [place]
      split
      · exact .inl rfl
      · split
        · exact .inr (.inr ⟨_, _, by omega, rfl⟩)
        · exact .inr (.inl rfl)
  · exact .inl rfl

theorem State.secyIn_onlyPortTables (s : State) (b : Nat) {p : Nat} (hp : p < 8) (e : Nat) (m : Option MacsecIn) :
    s.onlyPortTables (s.secyIn b p e m).2 b := by
  have same : s.onlyPortTables s b := ⟨rfl, fun _ _ => rfl⟩
  rcases s.secyIn_cases b p e m with h | h | ⟨i, low, hi, h⟩ <;> rw [h]
  · exact same
  · exact same.incEnt64 (by omega) (by omega) (by omega) 1
  · exact ((same.incEnt64 (by omega) (by omega) (by omega) 1).setEnt _ (by omega) (by omega) (by omega)).setEnt _ (by omega) (by omega)
      (by omega)

/-! ### PTP messages -/

theorem State.onlyPortTables.ent_time {s u : State} {b : Nat} (h : s.onlyPortTables u b) {sel idx w : Nat} (hsel : sel < 65536)
    (hidx : idx < 2 ^ 24) (hw : w < 16) : u.ent pTime 0 sel idx w = s.ent pTime 0 sel idx w :=
  h.2 _ (by rw [tblKey_page _ hsel hidx hw]; unfold pTime pPort; omega)

theorem ptpPort_lt (m : PtpMsg) : ptpPort m < 384 := by
  have hb := m.block.isLt
  have hp := m.port.isLt
  unfold ptpPort
  omega

/-- Steering looks at the TIME page. -/
theorem State.onlyPortTables.ptpMatch {s u : State} {b : Nat} (h : s.onlyPortTables u b) (m : PtpMsg) : u.ptpMatch m = s.ptpMatch m := by
  have hport := ptpPort_lt m
  have mask : u.ent pTime 0 4 (ptpPort m) 0 = s.ent pTime 0 4 (ptpPort m) 0 := h.ent_time (by omega) (by omega) (by omega)
  have base {tb : Nat} (htb : tb < 8) : u.ptpDomain tb m = s.ptpDomain tb m := by
    simp only [State.ptpDomain, State.entF, h.ent_time (show 3 < 65536 by omega) (show tb < 2 ^ 24 by omega) (show 0 < 16 by omega),
      h.ent_time (show 3 < 65536 by omega) (show tb < 2 ^ 24 by omega) (show 1 < 16 by omega)]
  unfold State.ptpMatch
  rw [mask, List.find?_congr fun tb htb => by rw [base (List.mem_range.mp htb)]]

theorem State.ptpMatch_lt {s : State} {m : PtpMsg} {tb : Nat} (h : s.ptpMatch m = some tb) : tb < 8 := by
  unfold State.ptpMatch at h
  split at h
  · exact List.mem_range.mp (List.mem_of_find?_eq_some h)
  · cases h

/-- A message that is not relayed. -/
theorem State.ptpSteer_direct {s : State} {m : PtpMsg} (h : bitOf (s.ent pTime 0 6 (ptpPort m) 0) 31 = false) :
    (∀ tb, s.ptpMatch m = some tb →
      s.ptpSteer m = s.emit (if bitOf (s.ent pTime 0 3 tb 0) 8 then .ptpHost tb m.block m.port else .ptpStack tb)) ∧
    (s.ptpMatch m = none → s.ptpSteer m = s.ptpUnmatched) := by
  unfold State.ptpSteer
  simp only [h, Bool.false_and, Bool.false_eq_true, if_false]
  refine ⟨fun tb htb => ?_, fun hnone => ?_⟩
  · rw [htb]
    exact (apply_ite s.emit _ _ _).symm
  · rw [hnone]

theorem State.ptpUnmatched_eq (s : State) : s.ptpUnmatched =
    ((s.inc 0 (regA pTime 0x068)).wrF 0 (regA pTime 0x044) 4 1 1).faultAt pTime 4 0 0 := rfl

/-- A message that no time base takes. -/
theorem State.ptpUnmatched_effect (s : State) : s.Wrote s.ptpUnmatched (fun _ => True) ∧
    s.ptpUnmatched.rd 0 (regA pTime 0x068) = s.rd 0 (regA pTime 0x068) + 1 ∧
    bitOf (s.ptpUnmatched.rd 0 (regA pTime 0x044)) 4 = true := by
  rw [State.ptpUnmatched_eq]
  refine ⟨(((State.Wrote.refl s _).wr trivial _).wrF trivial 4 1 1).faultAt trivial 4 0 0, ?_, ?_⟩
  · rw [State.faultAt_rd _ (by decide), State.rd_wrF_other _ _ _ _ _ _ _ _ (by decide), State.inc, State.rd_wr_same]
  · rw [State.faultAt_rd _ (by decide), State.wrF, State.rd_wr_same, bitOf_setFld_same _ _ _ (by omega)]
    rfl

/-- PTP_MESSAGE_RECEIVE at a port whose link is up, by the answer of its SecY. -/
theorem execPtpMessageReceive_up {s : State} {m : PtpMsg} (ht : s.portType m.block = 2) (hup : s.ethUp m.block m.port = true) :
    exec (.ptpMessageReceive m) s = .next (if (s.secyIn m.block m.port (ptpEtype m) m.macsec).1 then
      (s.secyIn m.block m.port (ptpEtype m) m.macsec).2.ptpSteer m else (s.secyIn m.block m.port (ptpEtype m) m.macsec).2) :=
  congrArg Host.Outcome.next (if_pos ⟨ht, hup⟩)

/-- PTP_MESSAGE_RECEIVE. -/
theorem ptpMessageReceive (s : State) (m : PtpMsg) (ht : s.portType m.block = 2) (hup : s.ethUp m.block m.port = true) :
    let q := s.secyIn m.block m.port (ptpEtype m) m.macsec
    (bitOf (s.secy m.block m.port) 0 = false → q = (true, s)) ∧
    (q.1 = false → s.completes (.ptpMessageReceive m) fun z => z = q.2 ∧ z.out = s.out ∧ z.regs = s.regs) ∧
    (q.1 = true → bitOf (s.ent pTime 0 6 (ptpPort m) 0) 31 = false →
      (∀ tb, s.ptpMatch m = some tb → s.completes (.ptpMessageReceive m) fun z =>
        z = { q.2 with out := s.out ++ [if bitOf (s.ent pTime 0 3 tb 0) 8 then .ptpHost tb m.block m.port else .ptpStack tb] }) ∧
      (s.ptpMatch m = none → s.completes (.ptpMessageReceive m) fun z => z.out = s.out ∧
        z.rd 0 (regA pTime 0x068) = s.rd 0 (regA pTime 0x068) + 1 ∧ bitOf (z.rd 0 (regA pTime 0x044)) 4 = true ∧ z.tbl = q.2.tbl ∧
        s.memKept z)) := by
  have exec_up := execPtpMessageReceive_up ht hup
  have tables := s.secyIn_onlyPortTables m.block m.port.isLt (ptpEtype m) m.macsec
  refine ⟨fun h => if_neg fun g => Bool.false_ne_true (h.symm.trans g.2), ?_⟩
  generalize s.secyIn m.block m.port (ptpEtype m) m.macsec = q at exec_up tables ⊢
  refine ⟨fun hno => ⟨q.2, by rw [exec_up, hno]; rfl, rfl, tables.out, tables.regs⟩, fun hyes hdirect => ?_⟩
  rw [hyes, if_pos rfl] at exec_up
  rw [← tables.ent_time (by omega) (by have := ptpPort_lt m; omega) (by omega)] at hdirect
  obtain ⟨hmatch, hnone⟩ := State.ptpSteer_direct hdirect
  rw [← tables.ptpMatch m]
  refine ⟨fun tb htb => ⟨_, exec_up, ?_⟩, fun h => ⟨_, exec_up, ?_⟩⟩
  · have htb8 := State.ptpMatch_lt htb
    rw [hmatch tb htb, ← tables.out, ← tables.ent_time (by omega) (show tb < 2 ^ 24 by omega) (by omega)]
    rfl
  · obtain ⟨wrote, count, event⟩ := q.2.ptpUnmatched_effect
    rw [hnone h]
    exact ⟨wrote.out.trans tables.out, count.trans (congrArg (Tab.get regReset · _ + 1) tables.regs), event, wrote.tbl,
      fun a => (wrote.memKept a).trans (tables.memKept a)⟩

/-- Settles O31: a frame at a port by the cases of its SecY, and a PTP message by its steering. -/
theorem macsecAndPtpMessages : Obligations.MacsecAndPtpMessages :=
  ⟨fun _ _ _ _ ht hup => ⟨macsecTx_clear ht hup, macsecTx_protected ht hup, macsecTx_spent ht hup, macsecTx_dropped ht hup⟩,
    ptpMessageReceive⟩

end Sys2Proof.Machine
end

section
/-!
PROOFS. Scope: the allotments of Epvozel frames (R125, R132, R277). What filling them, passing them to ingress and comparing the fill
leave of the registers, of the groups' hidden state and of what has left the part.
-/
namespace Sys2Proof.Machine

/-! ### The work of allotments -/

/-- The registers that the work of a frame's allotments may write: pages above the PORT pages, PAGE_FAULT and EVENT of the block's PORT
page, and the bit and error counters of its lanes. -/
def FeedKey (b k : Nat) : Prop :=
  0x180 ≤ k % 2 ^ 28 / 65536 ∨ k = regKey 0 (portA b 0x018) ∨ k = regKey 0 (portA b 0x048) ∨
  (k / 65536 = pLane b ∧ 0x100 ≤ k % 65536 ∧ 0x28 ≤ k % 128 ∧ k % 128 < 0x38)

/-- The work of a frame's allotments writes no other register and no group's hidden state, and takes back nothing that has left. -/
structure State.Feeds (s z : State) (b : Nat) : Prop where
  regs : ∀ k, ¬FeedKey b k → Tab.get regReset z.regs k = Tab.get regReset s.regs k
  epv : z.epv = s.epv
  out : s.out <+: z.out

namespace State.Feeds

variable {s t u : State} {b : Nat}

theorem of_regs (hr : u.regs = s.regs) (he : u.epv = s.epv) (ho : s.out <+: u.out) (b : Nat) : s.Feeds u b :=
  ⟨fun k _ => congrArg (Tab.get regReset · k) hr, he, ho⟩

theorem refl (s : State) (b : Nat) : s.Feeds s b := of_regs rfl rfl List.prefix_rfl b

theorem trans (h : s.Feeds t b) (g : t.Feeds u b) : s.Feeds u b :=
  ⟨fun k hk => (g.regs k hk).trans (h.regs k hk), g.epv.trans h.epv, h.out.trans g.out⟩

theorem wr (h : s.Feeds u b) {bank a : Nat} (hk : FeedKey b (regKey bank a)) (v : Word) : s.Feeds (u.wr bank a v) b :=
  ⟨fun k hn => (Tab.get_put_other _ _ _ _ _ fun e => hn (by rw [e]; exact hk)).trans (h.regs k hn), h.epv, h.out⟩

theorem setEnt (h : s.Feeds u b) (pg bank sel idx w : Nat) (v : Word) : s.Feeds (u.setEnt pg bank sel idx w v) b :=
  ⟨h.regs, h.epv, h.out⟩
theorem emit (h : s.Feeds u b) (o : Out) : s.Feeds (u.emit o) b := ⟨h.regs, h.epv, h.out.trans (List.prefix_append _ _)⟩
theorem setPort (h : s.Feeds u b) (k : Nat) (t : TxPort) : s.Feeds (u.setPort k t) b := ⟨h.regs, h.epv, h.out⟩
theorem setQrec (h : s.Feeds u b) (q : Nat) (rx : Bool) (r : QRec) : s.Feeds (u.setQrec q rx r) b := ⟨h.regs, h.epv, h.out⟩
theorem setEgr (h : s.Feeds u b) (eo slot : Nat) (r : EgrRec) : s.Feeds (u.setEgr eo slot r) b := ⟨h.regs, h.epv, h.out⟩

theorem setEntWords (h : s.Feeds u b) (pg bank sel idx w : Nat) (l : List Word) : s.Feeds (u.setEntWords pg bank sel idx w l) b := by
  induction l generalizing u w with
  | nil => exact h
  | cons v r ih => exact ih (h.setEnt pg bank sel idx w v) (w + 1)

theorem faultAt (h : s.Feeds u b) {pg : Nat} (hk : FeedKey b (regKey 0 (regA pg 0x018))) (e i p : Nat) :
    s.Feeds (u.faultAt pg e i p) b := by
  have bit := h.wr hk (setFld (u.rd 0 (regA pg 0x018)) e 1 1)
  unfold State.faultAt
  dsimp only
  split
  · exact bit
  · exact ⟨bit.regs, bit.epv, bit.out⟩

theorem ite (h : s.Feeds t b) (g : s.Feeds u b) (c : Prop) [Decidable c] : s.Feeds (if c then t else u) b := by
  split
  exacts [h, g]

theorem forEach {α : Type} (h : s.Feeds u b) {l : List α} {f : α → State → State} (hf : ∀ x ∈ l, ∀ v : State, v.Feeds (f x v) b) :
    s.Feeds (Machine.forEach l f u) b := forEach_keeps l (fun x hx v (hv : s.Feeds v b) => hv.trans (hf x hx v)) h

end State.Feeds

/-! ### Events -/

theorem eventOff_lt {k : PageKind} {off : Nat} (h : k.eventOff = some off) : off < 65536 := by
  cases k <;> cases h <;> decide

/-- The EVENT register of a page lies in the page. -/
theorem State.event_cases (s : State) (pg e p : Nat) :
    s.event pg e p = s ∨ ∃ bank off, off < 65536 ∧ s.event pg e p = s.wrF bank (regA pg off) e 1 1 := by
  unfold State.event
  split
  · split
    next off hoff => exact .inr ⟨_, off, eventOff_lt hoff, rfl⟩
    next => exact .inl rfl
  · exact .inl rfl

theorem feedKey_page {pg off : Nat} (hpg : 0x180 ≤ pg) (hpg' : pg < 4096) (ho : off < 65536) (b bank : Nat) :
    FeedKey b (regKey bank (regA pg off)) := by
  left
  unfold regKey regA
  omega

/-- An event of a page above the PORT pages. -/
theorem State.Feeds.raise {s u : State} {b : Nat} (h : s.Feeds u b) {pg : Nat} (hpg : 0x180 ≤ pg) (hpg' : pg < 4096) (e p : Nat) :
    s.Feeds (u.raise pg e p) b := by
  refine State.Feeds.faultAt ?_ (feedKey_page hpg hpg' (by omega) b 0) e _ p
  rcases u.event_cases pg e p with he | ⟨bank, off, ho, he⟩ <;> rw [he]
  · exact h
  · exact h.wr (feedKey_page hpg hpg' ho b bank) _

/-- An event of the block's PORT page. -/
theorem State.Feeds.raiseOwned {s u : State} {b : Nat} (h : s.Feeds u b) (hb : b < 48) (e : Nat) :
    s.Feeds (u.raiseOwned (pPort b) e) b := by
  rw [State.raiseOwned_port hb]
  exact (h.wr (.inr (.inr (.inl rfl))) _).faultAt (.inr (.inl rfl)) _ _ _

/-! ### What stays -/

namespace State.Feeds

variable {s z : State} {b : Nat} (h : s.Feeds z b)
include h

theorem rd {bank a : Nat} (hk : ¬FeedKey b (regKey bank a)) : z.rd bank a = s.rd bank a := h.regs _ hk

theorem port {b' off : Nat} (hb : b < 48) (hb' : b' < 48) (ho : off < 65536) (hn : off ∉ [0x018, 0x048]) :
    z.rd 0 (portA b' off) = s.rd 0 (portA b' off) := by
  simp only [List.mem_cons, List.not_mem_nil, or_false, not_or] at hn
  refine h.rd ?_
  rw [FeedKey, regKey_portA, regKey_portA, regKey_portA, pLane]
  omega

theorem blk {b' off : Nat} (hb' : b' < 48) (ho : off < 0x100) : z.rd 0 (laneA b' off) = s.rd 0 (laneA b' off) := by
  refine h.rd ?_
  rw [FeedKey, regKey_laneA, regKey_portA, regKey_portA, pLane]
  omega

theorem ln {l off : Nat} (hl : l < 384) (ho : off < 0x28) : z.rd 0 (lnA l off) = s.rd 0 (lnA l off) := by
  refine h.rd ?_
  have hq : l / 8 < 48 := by omega
  have hr : l % 8 < 8 := by omega
  rw [FeedKey, regKey_lnA, regKey_portA, regKey_portA, pLane]
  generalize l / 8 = q at hq ⊢
  generalize l % 8 = r at hr ⊢
  omega

theorem lnState {l : Nat} (hl : l < 384) : z.lnState l = s.lnState l := State.lnState_of_rd (h.ln hl (by omega))
theorem mission {l : Nat} (hl : l < 384) : z.mission l = s.mission l := congrArg (bitOf · 11) (h.ln hl (by omega))
theorem genOn {l : Nat} (hl : l < 384) : z.genOn l = s.genOn l := congrArg (bitOf · 0) (h.ln hl (by omega))
theorem epvRec (k : Nat) : z.epvRec k = s.epvRec k := congrArg (Tab.get (fun _ => EpvRec.idle) · k) h.epv

end State.Feeds

/-! ### Filling allotments -/

theorem State.incEnt64_feeds (s : State) (b pg sel idx w n : Nat) : s.Feeds (s.incEnt64 pg sel idx w n) b :=
  (State.Feeds.refl s b).setEntWords _ _ _ _ _ _

theorem State.endHost_feeds (s : State) (b q : Nat) (tags : List Word) (st : Nat) (stamp : Option (BitVec 96)) :
    s.Feeds (s.endHost q tags st stamp) b := (State.Feeds.refl s b).setQrec _ _ _

theorem State.txGo_feeds (s : State) (b' b p : Nat) (stamp : Option (BitVec 96)) (f : TxFrame) : s.Feeds (s.txGo b p stamp f) b' := by
  unfold State.txGo
  split
  · exact (State.Feeds.refl s b').emit _
  · exact (s.endHost_feeds b' _ _ _ _).emit _
  · exact ((State.Feeds.refl s b').emit _).trans ((State.incEnt64_feeds _ b' _ _ _ _ _).trans (State.incEnt64_feeds _ b' _ _ _ _ _))
  · exact (State.Feeds.refl s b').emit _

theorem State.fillAllot_feeds (s : State) (b' b stream fuel n : Nat) (acc : List Nat) : s.Feeds (s.fillAllot b stream fuel n acc).2 b' := by
  induction fuel generalizing s n acc with
  | zero =>
    unfold State.fillAllot
    exact .refl s b'
  | succ fuel ih =>
    cases n with
    | zero =>
      unfold State.fillAllot
      exact .refl s b'
    | succ n =>
      have stored (k : Nat) (t : TxPort) : s.Feeds (s.setPort k t) b' := (State.Feeds.refl s b').setPort k t
      unfold State.fillAllot
      dsimp only
      split
      · exact (stored _ _).trans (ih _ _ _)
      · split
        · exact .refl s b'
        · split
          · exact (stored _ _).trans (ih _ _ _)
          · exact ((stored _ _).trans (State.txGo_feeds _ b' _ _ _ _)).trans (ih _ _ _)

theorem State.packetAllot_feeds (s : State) (b' b : Nat) (st : Stream) : s.Feeds (s.packetAllot b st).2 b' :=
  (s.fillAllot_feeds b' b st.num _ _ []).setPort _ _

theorem State.sdiAllot_feeds (s : State) (b' b : Nat) {st : Stream} (h : st.ep < 4096) : s.Feeds (s.sdiAllot b st).2 b' := by
  have page : 0x180 ≤ egrPg st.ep ∧ egrPg st.ep < 4096 := by
    unfold egrPg pEgr
    omega
  have stored (r : EgrRec) : s.Feeds (s.setEgr st.ep 0 r) b' := (State.Feeds.refl s b').setEgr _ _ _
  unfold State.sdiAllot
  dsimp only
  split
  · exact stored _
  · exact (stored _).raise page.1 page.2 _ _

theorem State.allotments_feeds (s : State) (b' b : Nat) {sts : List Stream} (h : ∀ st ∈ sts, st.packet = true ∨ st.ep < 4096) :
    s.Feeds (s.allotments b sts).2 b' := by
  induction sts generalizing s with
  | nil => exact .refl s b'
  | cons st r ih =>
    obtain ⟨hst, hr⟩ := List.forall_mem_cons.mp h
    unfold State.allotments
    split
    · exact ((State.Feeds.refl s b').ite ((State.Feeds.refl s b').setEgr _ _ _) (st.packet = true)).trans (ih _ hr)
    · dsimp only
      split
      next => exact (s.packetAllot_feeds b' b st).trans (ih _ hr)
      next hp => exact (s.sdiAllot_feeds b' b (hst.resolve_left hp)).trans (ih _ hr)

/-! ### Passing allotments to ingress -/

theorem State.errData_feeds (s : State) (b : Nat) {ei : Nat} (h : ei < 65536) (ws : List Dword) : s.Feeds (s.errData ei ws) b :=
  ((State.Feeds.refl s b).setEnt _ _ _ _ _ _).raise (by unfold pIng; omega) (by unfold pIng; omega) _ _

theorem State.passAllotment_feeds (s : State) {b : Nat} (hb : b < 48) (lane : Nat) (errored : Bool) (a : Nat × List Dword) :
    s.Feeds (s.passAllotment b lane errored a) b := by
  have passed (o : Out) : s.Feeds (s.emit o) b := (State.Feeds.refl s b).emit o
  unfold State.passAllotment
  dsimp only
  split
  · exact .refl s b
  · split
    · exact (State.Feeds.refl s b).raiseOwned hb 4
    · split
      · exact (passed _).trans (State.errData_feeds _ b (fld_lt _ _ _) _)
      · exact passed _

theorem State.checkBits_feeds (s : State) (l n : Nat) : s.Feeds (s.checkBits l n) (l / 8) := by
  have counter {off : Nat} (h : 0x28 ≤ off ∧ off < 0x38) : FeedKey (l / 8) (regKey 0 (lnA l off)) := by
    rw [FeedKey, regKey_lnA, pLane]
    omega
  have pair {u : State} (h : s.Feeds u (l / 8)) {off : Nat} (ho : 0x28 ≤ off ∧ off + 4 < 0x38) (v : Nat) :
      s.Feeds (u.wr64 0 (lnA l off) v) (l / 8) := (h.wr (counter (by omega)) _).wr (counter (off := off + 4) (by omega)) _
  unfold State.checkBits
  split
  · exact pair (pair (.refl s _) (by omega) _) (by omega) _
  · exact .refl s _

theorem State.passFrame_feeds (s : State) {l : Nat} (hl : l < 384) (lane : Nat) (errored : Bool) (f : EpvFrame) :
    s.Feeds (s.passFrame l lane errored f) (l / 8) := by
  have compared := (s.checkBits_feeds l (s.fillBits (l / 8) f.payload)).ite (.refl s _)
    ((bitOf (s.rd 0 (lnA l 0x18)) 9 && !errored) = true)
  exact (compared.forEach fun a _ v => v.passAllotment_feeds (by omega) lane errored a).ite compared _

/-- A placement is written to tables. -/
theorem State.writePlacement_feeds (s : State) (b' b sel : Nat) (sts : List Stream) (ps : List Placed) :
    s.Feeds (s.writePlacement b sel sts ps) b' := by
  unfold State.writePlacement
  refine State.Feeds.forEach (State.Feeds.forEach (.refl s b') fun i _ v => (State.Feeds.refl v b').setEntWords _ _ _ _ _ _) fun st _ v => ?_
  split
  · exact (State.Feeds.refl v b').setEntWords _ _ _ _ _ _
  · exact (State.Feeds.refl v b').setEntWords _ _ _ _ _ _

end Sys2Proof.Machine
end

section
/-!
PROOFS. Scope: Epvozel frames sent (R121 to R134). The header of a frame, the frame boundary with TX_LANES, bank, link state and EPOCH,
and the frames that leave.
-/
namespace Sys2Proof.Machine

/-! ### Headers -/

theorem crc32cByte_lt {crc b : Nat} (hc : crc < 2 ^ 32) (hb : b < 2 ^ 32) : crc32cByte crc b < 2 ^ 32 := by
  have bits (l : List Nat) {c : Nat} (h : c < 2 ^ 32) :
      l.foldl (fun c _ => if c % 2 = 1 then Nat.xor (c / 2) 0x82F63B78 else c / 2) c < 2 ^ 32 := by
    induction l generalizing c with
    | nil => exact h
    | cons _ r ih =>
      refine ih ?_
      dsimp only
      split
      · exact Nat.xor_lt_two_pow (by omega) (by omega)
      · omega
  exact bits _ (Nat.xor_lt_two_pow hc hb)

theorem crc32c_lt (ws : List Dword) : crc32c ws < 2 ^ 32 := by
  have bytes (l : List Nat) (hl : ∀ b ∈ l, b < 2 ^ 32) {c : Nat} (h : c < 2 ^ 32) : l.foldl crc32cByte c < 2 ^ 32 := by
    induction l generalizing c with
    | nil => exact h
    | cons b r ih =>
      obtain ⟨hb, hr⟩ := List.forall_mem_cons.mp hl
      exact ih hr (crc32cByte_lt h hb)
  refine Nat.xor_lt_two_pow (bytes _ (fun b hb => ?_) (by omega)) (by omega)
  simp only [List.mem_flatMap, List.mem_map] at hb
  obtain ⟨w, -, i, -, rfl⟩ := hb
  omega

/-- The words of a header, R122. -/
theorem State.epvHeader_fields (z : State) {b lane : Nat} (hb : b < 48) (hl : lane < 8) :
    (z.epvHeader b lane).length = 16 ∧ (z.epvHeader b lane).head? = some epvMarker ∧ hcrcOk (z.epvHeader b lane) = true ∧
    hword (z.epvHeader b lane) 1 % 2 ^ 32 = (z.epvRec b).frame.toNat ∧ hword (z.epvHeader b lane) 1 / 2 ^ 41 % 8 = lane ∧
    hword (z.epvHeader b lane) 1 / 2 ^ 44 % 64 = b := by
  have hframe := (z.epvRec b).frame.isLt
  have hepoch : fld (z.rd 0 (portA b 0x064)) 24 8 < 2 ^ 8 := fld_lt _ _ _
  have hbank : fld (z.rd 0 (portA b 0x064)) 16 1 < 2 ^ 1 := fld_lt _ _ _
  have h1 : hword (z.epvHeader b lane) 1 = (z.epvRec b).frame.toNat + fld (z.rd 0 (portA b 0x064)) 24 8 * 2 ^ 32 +
      fld (z.rd 0 (portA b 0x064)) 16 1 * 2 ^ 40 + lane * 2 ^ 41 + b % 64 * 2 ^ 44 :=
    (BitVec.toNat_ofNat _ 64).trans (Nat.mod_eq_of_lt (by omega))
  have crc (mid : List Dword) : (BitVec.ofNat 64 (crc32c mid)).toNat % 2 ^ 32 = crc32c mid := by
    have := crc32c_lt mid
    rw [BitVec.toNat_ofNat]
    omega
  rw [h1]
  refine ⟨rfl, rfl, beq_iff_eq.mpr (crc _), ?_, ?_, ?_⟩ <;> omega

/-! ### The frame boundary -/

theorem lanesMask_eq (l : List Nat) : lanesMask l = (l.map fun i => 2 ^ i).sum := by
  have add (l : List Nat) (m : Nat) : l.foldl (fun m i => m + 2 ^ i) m = m + (l.map fun i => 2 ^ i).sum := by
    induction l generalizing m with
    | nil => simp
    | cons x r ih => rw [List.foldl_cons, ih, List.map_cons, List.sum_cons, Nat.add_assoc]
  rw [lanesMask, add, Nat.zero_add]

theorem lanesMask_lt {l : List Nat} (h : l.Sublist (List.range 8)) : lanesMask l < 256 := by
  have le := (h.map fun i => 2 ^ i).sum_le_sum fun _ _ => Nat.zero_le _
  have all : ((List.range 8).map fun i => 2 ^ i).sum = 255 := rfl
  rw [lanesMask_eq]
  omega

/-- The group at the boundary: a new frame number, rejoining lanes no longer shed, and nothing that waits. -/
def State.epvNext (s : State) (b : Nat) : EpvRec :=
  { s.epvRec b with
    shed := (s.epvRec b).shed &&& ~~~(BitVec.ofNat 8 (s.rejoining b)), rejoin := false, swap := false
    frame := (s.epvRec b).frame + 1, down := false }

def State.epvBegun (s : State) (b : Nat) : State := s.setEpv b (s.epvNext b)

/-- The bank of the frame, the lanes that carry payload, and whether the placement changes. -/
def State.epvBank (s : State) (b : Nat) : Nat :=
  if (s.epvRec b).swap then 1 - fld (s.rd 0 (portA b 0x064)) 16 1 else fld (s.rd 0 (portA b 0x064)) 16 1

def State.epvSent (s : State) (b : Nat) : List Nat := if (s.epvBegun b).epvUp b then (s.epvBegun b).txInService b else []

def State.epvMoves (s : State) (b : Nat) : Bool :=
  (s.epvRec b).swap || (s.epvRec b).down || fld (s.rd 0 (portA b 0x064)) 0 8 != lanesMask (s.epvSent b) ||
    bitOf (s.rd 0 (portA b 0x064)) 17 != (s.epvBegun b).epvUp b

/-- EPV_LINK of a new placement: its lanes, bank, link state and EPOCH. -/
def State.epvMoved (s : State) (b : Nat) : Word :=
  setFld (setFld (setFld (setFld (s.rd 0 (portA b 0x064)) 0 8 (lanesMask (s.epvSent b))) 16 1 (s.epvBank b)) 17 1
    (if (s.epvBegun b).epvUp b then 1 else 0)) 24 8 (fld (s.rd 0 (portA b 0x064)) 24 8 + 1)

/-- EPV_LINK after the boundary. -/
def State.epvLink (s : State) (b : Nat) : Word := if s.epvMoves b then s.epvMoved b else s.rd 0 (portA b 0x064)

/-- The streams of the frame's bank, and their placement on the lanes in service. -/
def State.epvStreams (s : State) (b : Nat) : List Stream := (s.epvBegun b).streams b (1 + s.epvBank b)

def State.epvPlaces (s : State) (b : Nat) : List Placed :=
  placement (s.epvStreams b) ((s.epvBegun b).txInService b) ((s.epvBegun b).epvUp b)

/-- EPV_LINK and the count of dropped streams are written. -/
def State.epvWritten (s : State) (b : Nat) : State :=
  ((s.epvBegun b).wr 0 (portA b 0x064) (s.epvMoved b)).wr 0 (portA b 0x06C)
    (wd (if (s.epvBegun b).epvUp b && ownPlacement (s.epvStreams b) ((s.epvBegun b).txInService b) then 0
      else ((s.epvPlaces b).filter fun p => p.at'.isNone).length))

/-- The new placement comes into force, with the link's event and that of dropped streams. -/
def State.epvPlaced (s : State) (b : Nat) : State :=
  let s2 := (s.epvWritten b).writePlacement b 5 (s.epvStreams b) (s.epvPlaces b)
  let s3 := if (s.epvBegun b).epvUp b || !bitOf (s.rd 0 (portA b 0x064)) 17 then s2 else s2.raiseOwned (pPort b) 0
  if ((s.epvPlaces b).filter fun p => p.at'.isNone).length ≠ 0 then s3.raiseOwned (pPort b) 2 else s3

theorem State.epvSend_eq (s : State) (b : Nat) : s.epvSend b = if s.epvMoves b then s.epvPlaced b else s.epvBegun b := rfl

theorem State.epvPlaced_feeds (s : State) {b : Nat} (hb : b < 48) : (s.epvWritten b).Feeds (s.epvPlaced b) b := by
  have placed := (s.epvWritten b).writePlacement_feeds b b 5 (s.epvStreams b) (s.epvPlaces b)
  have linked := placed.ite (placed.raiseOwned hb 0) (((s.epvBegun b).epvUp b || !bitOf (s.rd 0 (portA b 0x064)) 17) = true)
  exact (linked.raiseOwned hb 2).ite linked _

theorem State.epvRec_setEpv_same (s : State) (b : Nat) (r : EpvRec) : (s.setEpv b r).epvRec b = r := Tab.get_put_same _ _ _ _

/-- What the boundary leaves: the group's next state, EPV_LINK, and the lanes as they were. -/
structure State.AtBoundary (s z : State) (b : Nat) : Prop where
  record : z.epvRec b = s.epvNext b
  link : z.rd 0 (portA b 0x064) = s.epvLink b
  lane : ∀ l off, l < 384 → off < 0x28 → z.rd 0 (lnA l off) = s.rd 0 (lnA l off)
  out : s.out <+: z.out

theorem State.epvSend_boundary (s : State) {b : Nat} (hb : b < 48) : s.AtBoundary (s.epvSend b) b := by
  rw [State.epvSend_eq]
  split
  next h =>
    have feeds := s.epvPlaced_feeds hb
    have apart (l off off' : Nat) (hl : l < 384) (ho : off < 0x28) : regKey 0 (lnA l off) ≠ regKey 0 (portA b off') := by
      rw [regKey_lnA, regKey_portA]
      omega
    refine ⟨(feeds.epvRec b).trans (State.epvRec_setEpv_same s b _), ?_, fun l off hl ho => ?_, feeds.out⟩
    · rw [feeds.port hb hb (by omega) (by decide), State.epvWritten, State.rd_wr_other _ _ _ _ _ _ (portA_ne_off (by omega) b),
        State.rd_wr_same, State.epvLink, if_pos h]
    · rw [feeds.ln hl ho, State.epvWritten, State.rd_wr_other _ _ _ _ _ _ (apart l off _ hl ho),
        State.rd_wr_other _ _ _ _ _ _ (apart l off _ hl ho)]
      rfl
  next h => exact ⟨State.epvRec_setEpv_same _ _ _, (if_neg h).symm, fun _ _ _ _ => rfl, List.prefix_rfl⟩

theorem State.AtBoundary.feeds {s u z : State} {b : Nat} (h : s.AtBoundary u b) (g : u.Feeds z b) (hb : b < 48) : s.AtBoundary z b :=
  ⟨(g.epvRec b).trans h.record, (g.port hb hb (by omega) (by decide)).trans h.link,
    fun l off hl ho => (g.ln hl ho).trans (h.lane l off hl ho), h.out.trans g.out⟩

theorem State.AtBoundary.frameLanes {s z : State} {b : Nat} (h : s.AtBoundary z b) (hb : b < 48) : z.frameLanes b = s.frameLanes b := by
  refine List.filter_congr fun i hi => ?_
  have hi := List.mem_range.mp hi
  rw [State.lnState_of_rd (h.lane (b * 8 + i) 0x04 (by omega) (by omega)),
    show z.genOn (b * 8 + i) = s.genOn (b * 8 + i) from congrArg (bitOf · 0) (h.lane (b * 8 + i) 0x14 (by omega) (by omega))]

/-! ### EPV_LINK -/

theorem State.epvLink_fields (s : State) (b : Nat) :
    fld (s.epvLink b) 0 8 = lanesMask (s.epvSent b) ∧ bitOf (s.epvLink b) 17 = (s.epvBegun b).epvUp b ∧
    fld (s.epvLink b) 16 1 = s.epvBank b ∧
    fld (s.epvLink b) 24 8 = if s.epvMoves b then (fld (s.rd 0 (portA b 0x064)) 24 8 + 1) % 256
      else fld (s.rd 0 (portA b 0x064)) 24 8 := by
  have hbank : s.epvBank b < 2 := by
    have : fld (s.rd 0 (portA b 0x064)) 16 1 < 2 ^ 1 := fld_lt _ _ _
    unfold State.epvBank
    split <;> omega
  have hsent : lanesMask (s.epvSent b) < 256 := by
    unfold State.epvSent
    split
    · exact lanesMask_lt List.filter_sublist
    · exact lanesMask_lt (List.nil_sublist _)
  unfold State.epvLink State.epvMoved
  cases h : s.epvMoves b with
  | false =>
    simp only [State.epvMoves, Bool.or_eq_false_iff, bne_eq_false_iff_eq] at h
    obtain ⟨⟨⟨hswap, -⟩, hlanes⟩, hup⟩ := h
    exact ⟨hlanes, hup, (if_neg (ne_true_of_eq_false hswap)).symm, rfl⟩
  | true =>
    refine ⟨?_, ?_, ?_, ?_⟩
    · rw [if_pos rfl, fld_setFld_below _ _ _ _ _ _ (by omega) (by omega), fld_setFld_below _ _ _ _ _ _ (by omega) (by omega),
        fld_setFld_below _ _ _ _ _ _ (by omega) (by omega), fld_setFld_same _ _ _ _ (by omega), Nat.mod_eq_of_lt (by omega)]
    · rw [if_pos rfl, bitOf_setFld_other _ _ _ _ _ (by omega) (by omega), bitOf_setFld_same _ _ _ (by omega)]
      cases (s.epvBegun b).epvUp b <;> rfl
    · rw [if_pos rfl, fld_setFld_below _ _ _ _ _ _ (by omega) (by omega), fld_setFld_below _ _ _ _ _ _ (by omega) (by omega),
        fld_setFld_same _ _ _ _ (by omega), Nat.mod_eq_of_lt (by omega)]
    · rw [if_pos rfl, if_pos rfl, fld_setFld_same _ _ _ _ (by omega)]
      rfl

/-- With no rejoin due the lanes shed stay shed, and so the lanes in service and the link's state are those before the boundary. -/
theorem State.epvBegun_service {s : State} {b : Nat} (hauto : bitOf (s.rd 0 (portA b 0x05C)) 9 = false)
    (hr : (s.epvRec b).rejoin = false) : (s.epvBegun b).txInService b = s.txInService b ∧
    (s.epvBegun b).epvUp b = (decide (s.minLanes b ≤ (s.txInService b).length) && (s.shedEn b || (s.epvRec b).shed == 0)) := by
  have none_rejoins : s.rejoining b = 0 := by
    unfold State.rejoining
    dsimp only
    rw [hauto, hr]
    rfl
  have record : (s.epvBegun b).epvRec b = { s.epvRec b with
      rejoin := false, swap := false, frame := (s.epvRec b).frame + 1, down := false } := by
    have shed : (s.epvRec b).shed &&& ~~~(BitVec.ofNat 8 0) = (s.epvRec b).shed := BitVec.and_allOnes
    rw [State.epvBegun, State.epvRec_setEpv_same, State.epvNext, none_rejoins, shed]
  have service : (s.epvBegun b).txInService b = s.txInService b := by
    unfold State.txInService
    rw [record]
    rfl
  refine ⟨service, ?_⟩
  unfold State.epvUp
  rw [service, record]
  rfl

/-! ### EPV_FRAME_SEND -/

theorem forEach_emit {α : Type} (l : List α) (f : α → Out) (s : State) :
    forEach l (fun x z => z.emit (f x)) s = { s with out := s.out ++ l.map f } := by
  unfold forEach
  induction l generalizing s with
  | nil => simp
  | cons x r ih =>
    rw [List.foldl_cons, ih, List.map_cons]
    simp [State.emit]

theorem State.epvEmit_eq (s : State) (b : Nat) (allots : List (Nat × List Dword)) : ∃ runs : Nat → List (Nat × List Dword),
    s.epvEmit b allots = { s with out := s.out ++ (s.frameLanes b).map fun lane => .epvFrame b lane (s.epvHeader b lane) (runs lane) } :=
  ⟨_, forEach_emit _ _ _⟩

/-- EPV_FRAME_SEND of a running block: the frame boundary, and then the frames. -/
theorem epvFrameSend_boundary {s : State} {b : Fin 48} (h : s.epvRuns b = true) : s.completes (.epvFrameSend b) fun z =>
    s.AtBoundary z b ∧ ∃ (more : List Out) (runs : Nat → List (Nat × List Dword)), z.out = s.out ++ more ++
      (s.frameLanes b).map fun lane => .epvFrame b lane (z.epvHeader b lane) (runs lane) := by
  have hb := b.isLt
  refine ⟨_, congrArg Host.Outcome.next (if_neg (by simp [h])), ?_⟩
  dsimp only
  have streams : ∀ st ∈ ((s.epvSend b).streams b (1 + (s.epvSend b).rdF 0 (portA b 0x064) 16 1)).filter
      (fun st => st.packet || decide (st.ep < 4096)), st.packet = true ∨ st.ep < 4096 := fun st hst => by
    simpa using (List.mem_filter.mp hst).2
  have filled := (s.epvSend_boundary hb).feeds (State.allotments_feeds _ b b streams) hb
  generalize (s.epvSend b).allotments b _ = q at filled ⊢
  obtain ⟨allots, u⟩ := q
  obtain ⟨runs, hruns⟩ := u.epvEmit_eq b allots
  obtain ⟨more, hmore⟩ := filled.out
  dsimp only at filled hmore ⊢
  rw [hruns]
  refine ⟨⟨filled.record, filled.link, filled.lane, filled.out.trans (List.prefix_append _ _)⟩, more, runs, ?_⟩
  rw [hmore, filled.frameLanes hb]
  rfl

/-- EPV_FRAME_SEND. -/
theorem epvFrameSend (s : State) (b : Fin 48) : (s.epvRuns b = false → exec (.epvFrameSend b) s = .next s) ∧ (s.epvRuns b = true →
    s.completes (.epvFrameSend b) (fun z => (z.epvRec b).frame = (s.epvRec b).frame + 1 ∧
      (∃ (more : List Out) (runs : Nat → List (Nat × List Dword)), z.out = s.out ++ more ++
        (s.frameLanes b).map fun lane => .epvFrame b lane (z.epvHeader b lane) (runs lane)) ∧
      ∀ lane, lane < 8 → let h := z.epvHeader b lane
        h.length = 16 ∧ h.head? = some epvMarker ∧ hcrcOk h = true ∧ hword h 1 % 2 ^ 32 = ((s.epvRec b).frame + 1).toNat ∧
        hword h 1 / 2 ^ 41 % 8 = lane ∧ hword h 1 / 2 ^ 44 % 64 = b) ∧
    (bitOf (s.rd 0 (portA b 0x05C)) 9 = false → (s.epvRec b).rejoin = false → s.completes (.epvFrameSend b) fun z =>
      let lanes := s.txInService b
      let up := decide (s.minLanes b ≤ lanes.length) && (s.shedEn b || (s.epvRec b).shed == 0)
      let sent := if up then lanesMask lanes else 0
      let st := s.rd 0 (portA b 0x064)
      (z.epvRec b).swap = false ∧ (z.epvRec b).rejoin = false ∧ (z.epvRec b).down = false ∧
      z.rdF 0 (portA b 0x064) 0 8 = sent ∧ bitOf (z.rd 0 (portA b 0x064)) 17 = up ∧
      z.rdF 0 (portA b 0x064) 16 1 = (if (s.epvRec b).swap then 1 - fld st 16 1 else fld st 16 1) ∧
      z.rdF 0 (portA b 0x064) 24 8 = (if (s.epvRec b).swap = true ∨ (s.epvRec b).down = true ∨ fld st 0 8 ≠ sent ∨ bitOf st 17 ≠ up
        then (fld st 24 8 + 1) % 256 else fld st 24 8))) := by
  refine ⟨fun h => congrArg Host.Outcome.next (if_pos (by simp [h])), fun h => ?_⟩
  obtain ⟨z, hz, boundary, frames⟩ := epvFrameSend_boundary h
  refine ⟨⟨z, hz, congrArg EpvRec.frame boundary.record, frames, fun lane hl => ?_⟩, fun hauto hr => ⟨z, hz, ?_⟩⟩
  · have header := z.epvHeader_fields b.isLt hl
    rw [boundary.record] at header
    exact header
  · obtain ⟨service, up⟩ := State.epvBegun_service hauto hr
    obtain ⟨hlanes, hup, hbank, hepoch⟩ := s.epvLink_fields b
    have sent : lanesMask (s.epvSent b) = if (s.epvBegun b).epvUp b then lanesMask (s.txInService b) else 0 := by
      rw [State.epvSent, service]
      exact apply_ite lanesMask _ _ _
    rw [sent] at hlanes
    simp only [State.epvMoves, sent, Bool.or_eq_true, bne_iff_ne, or_assoc] at hepoch
    rw [up] at hlanes hup hepoch
    dsimp only
    rw [State.rdF, State.rdF, State.rdF, boundary.record, boundary.link]
    exact ⟨rfl, rfl, rfl, hlanes, hup, hbank, hepoch⟩

end Sys2Proof.Machine
end

section
/-!
PROOFS. Scope: Epvozel frames received, MAP_SWAP and REJOIN (R122 to R124, R128, R133). A bad frame and the loss of lock after sixteen,
a frame of another cable group, and a good one.
-/
namespace Sys2Proof.Machine

/-! ### Requests that wait for the frame boundary -/

theorem State.admitted_epvRec (s : State) (x : Access) (b : Nat) : (s.admitted x).epvRec b = s.epvRec b := by
  have h := congrArg (fun u : State => u.epvRec b) (s.admitted_frame x)
  exact h

/-- A write of PORT.EPV_CTRL. -/
theorem writeEpvCtrl_waits (s : State) (x : Access) (b : Nat) (d : Word) :
    (writeEpvCtrl b d (s.admitted x)).epvRec b =
      { s.epvRec b with swap := (s.epvRec b).swap || bitOf d 0, rejoin := (s.epvRec b).rejoin || bitOf d 1 } ∧
    (writeEpvCtrl b d (s.admitted x)).tbl = s.tbl ∧ s.memKept (writeEpvCtrl b d (s.admitted x)) := by
  refine ⟨?_, s.admitted_tbl x, s.admitted_memKept x⟩
  rw [writeEpvCtrl, State.epvRec_setEpv_same, s.admitted_epvRec x b]

theorem mapSwap_waits {s : State} {t : Tag} {b : Fin 48} (ha : s.admits (.w32 t (portA b 0x060) 1) = true) :
    s.completes (.mapSwap t b) fun z =>
    z.epvRec b = { s.epvRec b with swap := true } ∧ z.tbl = s.tbl ∧ s.memKept z := by
  refine State.completes_of_admitted ha rfl fun r => ?_
  obtain ⟨hrec, htbl, hmem⟩ := writeEpvCtrl_waits s (.w32 t (portA b 0x060) 1) b 1
  rw [show bitOf 1 0 = true from rfl, show bitOf 1 1 = false from rfl, Bool.or_true, Bool.or_false] at hrec
  generalize writeEpvCtrl b 1 _ = z at *
  exact ⟨hrec, htbl, hmem⟩

theorem rejoin_waits {s : State} {t : Tag} {b : Fin 48} (ha : s.admits (.w32 t (portA b 0x060) 2) = true) :
    s.completes (.rejoin t b) fun z =>
    z.epvRec b = { s.epvRec b with rejoin := true } ∧ z.tbl = s.tbl ∧ s.memKept z := by
  refine State.completes_of_admitted ha rfl fun r => ?_
  obtain ⟨hrec, htbl, hmem⟩ := writeEpvCtrl_waits s (.w32 t (portA b 0x060) 2) b 2
  rw [show bitOf 2 0 = false from rfl, show bitOf 2 1 = true from rfl, Bool.or_true, Bool.or_false] at hrec
  generalize writeEpvCtrl b 2 _ = z at *
  exact ⟨hrec, htbl, hmem⟩

/-! ### A lane lost by its frames -/

/-- What the loss of an Epvozel lane writes: its block's LANE page, EPV_LINK, the PORT page's events and its own count of losses. -/
def LossKey (l k : Nat) : Prop :=
  LanePage (l / 8) k ∨ k = regKey 0 (portA (l / 8) 0x018) ∨ k = regKey 0 (portA (l / 8) 0x048) ∨ k = regKey 0 (portA (l / 8) 0x064) ∨
  k = regKey 0 (portCtr (l / 8) (l % 8) 0x28)

theorem lossKey_ln {l m off : Nat} (hm : m / 8 = l / 8) (ho : off < 0x80) : LossKey l (regKey 0 (lnA m off)) := .inl (lanePage_ln hm ho)

theorem lossKey_blk (l : Nat) {off : Nat} (ho : off < 0x100) : LossKey l (regKey 0 (laneA (l / 8) off)) := .inl (lanePage_blk _ ho)

theorem lossKey_port (b : Nat) {i off : Nat} (hi : i < 8) (ho : off ∈ [0x018, 0x048, 0x064]) :
    LossKey (b * 8 + i) (regKey 0 (portA b off)) := by
  simp only [List.mem_cons, List.not_mem_nil, or_false] at ho
  rw [LossKey, show (b * 8 + i) / 8 = b by omega]
  rcases ho with rfl | rfl | rfl
  exacts [.inr (.inl rfl), .inr (.inr (.inl rfl)), .inr (.inr (.inr (.inl rfl)))]

theorem not_lossKey_portCtr (b : Nat) {i off : Nat} (hi : i < 8) (ho : off < 0x28) :
    ¬LossKey (b * 8 + i) (regKey 0 (portCtr b i off)) := by
  rw [LossKey, LanePage, pLane, portCtr, portCtr, regKey_portA, regKey_portA, regKey_portA, regKey_portA, regKey_portA]
  omega

theorem State.Wrote.raiseLoss {s u : State} {l : Nat} (h : s.Wrote u (LossKey l)) (hl : l < 384) (e : Nat) :
    s.Wrote (u.raiseOwned (pPort (l / 8)) e) (LossKey l) := h.raiseOwned (by omega) (.inr (.inr (.inl rfl))) (.inr (.inl rfl)) e

theorem State.epvShed_loss (s : State) {l : Nat} (hl : l < 384) : s.Wrote (s.epvShed l) (LossKey l) :=
  ((((((State.Wrote.refl s _).wrF (.inr (.inr (.inr (.inl rfl)))) _ _ _).wrF (lossKey_blk l (by omega)) _ _ _).wrF
    (lossKey_ln rfl (by omega)) _ _ _).setEpv _ _).incSat (.inr (.inr (.inr (.inr rfl)))) _).raiseLoss hl _

theorem State.epvLinkDown_loss (s : State) {l : Nat} (hl : l < 384) : s.Wrote (s.epvLinkDown (l / 8)) (LossKey l) :=
  have loop := (((State.Wrote.refl s (LossKey l)).wr (.inr (.inr (.inr (.inl rfl)))) _).setEpv _ _).forEach (l := blockLanes (l / 8))
    (f := fun m s => s.wrF 0 (lnA m 0x04) 11 1 0) fun m hm _ hv => hv.wrF (lossKey_ln (mem_blockLanes.mp hm) (by omega)) _ _ _
  (loop.raiseLoss hl _).ite loop _

theorem State.framingLost_loss {s : State} {l : Nat} (hl : l < 384) (ht : s.portType (l / 8) = 1) :
    s.Wrote (s.framingLost l) (LossKey l) := by
  unfold State.framingLost
  dsimp only
  rw [if_pos ht]
  exact (s.epvShed_loss hl).ite ((s.epvShed_loss hl).trans (State.epvLinkDown_loss _ hl)) _

theorem State.beginAttempt_loss (s : State) {l m : Nat} (hm : m / 8 = l / 8) (n : Nat) (first : Bool) :
    s.Wrote (s.beginAttempt m n first) (LossKey l) := by
  have ln {off : Nat} (ho : off < 0x80) : LossKey l (regKey 0 (lnA m off)) := lossKey_ln hm ho
  rw [State.beginAttempt_eq]
  exact (((((((State.Wrote.refl s _).wr (ln (by omega)) _).wrF (ln (by omega)) _ _ _).wrF (ln (by omega)) _ _ _).wrF (ln (by omega)) _ _
    _).setLane _ _).startCoefs (ln (by omega)) (ln (by omega))).setLnState (ln (by omega)) (by rw [hm]; exact lossKey_blk l (by omega)) _

theorem State.lossOfLock_loss {s : State} {l : Nat} (hl : l < 384) (h5 : s.lnState l = 5) (ht : s.portType (l / 8) = 1) :
    s.Wrote (s.lossOfLock l) (LossKey l) := by
  have report : s.Wrote (s.reportLol l) (LossKey l) := ((State.Wrote.refl s _).incSat (lossKey_ln (off := 0x48) rfl (by omega)) _).laneEvent
    (lossKey_blk l (by omega)) (lossKey_blk l (by omega)) _ _
  have type : (s.reportLol l).portType (l / 8) = 1 := ((s.reportLol_wrote l).portType (by omega)).trans ht
  have dropped := ((report.trans (State.framingLost_loss hl type)).setLnState (lossKey_ln rfl (by omega)) (lossKey_blk l (by omega)) 6).wrF
    (lossKey_ln (off := 0x04) rfl (by omega)) 8 1 0
  have retrains (u : State) : u.Wrote (u.beginRetrain l) (LossKey l) :=
    (State.Wrote.refl u _).forEach fun m hm v hv => hv.trans (v.beginAttempt_loss (State.mem_trainsWith hm) 1 false)
  rw [show s.lossOfLock l = (s.reportLol l).laneLost l from if_pos h5, State.laneLost_eq]
  exact (dropped.trans (retrains _)).ite dropped _

/-- An Epvozel lane that loses lock is LOST, or retrains alone. -/
theorem State.lnState_lossOfLock_epv {s : State} {l : Nat} (hl : l < 384) (h5 : s.lnState l = 5) (ht : s.portType (l / 8) = 1) :
    (s.lossOfLock l).lnState l = if s.autoRetrain (l / 8) then 1 else 6 := by
  have alone : l ∈ s.trainsWith l := by
    rw [show s.trainsWith l = [l] from if_neg (by omega)]
    exact List.mem_singleton_self l
  obtain ⟨-, -, states⟩ := lossOfLock_ready hl h5
  rw [states l hl, if_pos rfl]
  simp only [alone, and_true]

/-! ### Counters of a lane's frames -/

theorem State.rd64_of_rd {s u : State} {b a : Nat} (h0 : u.rd b a = s.rd b a) (h4 : u.rd b (a + 4) = s.rd b (a + 4)) :
    u.rd64 b a = s.rd64 b a := congrArg₂ pairOf h0 h4

theorem State.Feeds.portCtr64 {s z : State} {b : Nat} (h : s.Feeds z b) (hb : b < 48) {i off : Nat} (hi : i < 8) (ho : off < 0x3C) :
    z.rd64 0 (portCtr b i off) = s.rd64 0 (portCtr b i off) := by
  have word {o : Nat} (ho : 0x100 ≤ o ∧ o < 65536) : z.rd 0 (portA b o) = s.rd 0 (portA b o) := by
    refine h.port hb hb (by omega) ?_
    simp only [List.mem_cons, List.not_mem_nil, or_false, not_or]
    omega
  exact State.rd64_of_rd (word (o := 0x100 + i * 0x40 + off) (by omega)) (word (o := 0x100 + i * 0x40 + off + 4) (by omega))

theorem State.Wrote.portCtr64 {s z : State} {b i off : Nat} (hi : i < 8) (h : s.Wrote z (LossKey (b * 8 + i))) (ho : off < 0x24) :
    z.rd64 0 (portCtr b i off) = s.rd64 0 (portCtr b i off) :=
  State.rd64_of_rd (h.rd (not_lossKey_portCtr b hi (by omega))) (h.rd (not_lossKey_portCtr b hi (off := off + 4) (by omega)))

theorem epvRuns_iff {s : State} {b : Nat} : s.epvRuns b = true ↔ s.portType b = 1 ∧ s.blkMode b = 1 := by
  simp only [State.epvRuns, Bool.and_eq_true, beq_iff_eq]

/-! ### Bad frames -/

/-- Bad frames in a row with the one that arrives. -/
def State.badFrames (s : State) (b i : Nat) : Nat := (s.epvRec b).bad.getD i 0 + 1

/-- A bad frame is counted. -/
def State.badCounted (s : State) (b i : Nat) : State :=
  (s.wr64 0 (portCtr b i 0x08) ((s.rd64 0 (portCtr b i 0x08) + 1) % 2 ^ 64)).setEpv b
    { s.epvRec b with bad := (s.epvRec b).bad.set i (if s.badFrames b i = 16 then 0 else s.badFrames b i) }

/-- What of it is passed on. -/
def State.badPassed (s : State) (b i : Nat) (f : EpvFrame) : State :=
  (s.badCounted b i).passFrame (b * 8 + i) ((s.epvRec b).filed.getD i 0) true f

theorem execEpvFrameReceive_bad {s : State} {b : Fin 48} {i : Fin 8} {f : EpvFrame} (hrun : s.epvRuns b = true)
    (h5 : s.lnState (b * 8 + i) = 5) (hbad : f.fecOk = false ∨ hcrcOk f.hdr = false) : exec (.epvFrameReceive b i f) s = .next (
      if s.badFrames b i = 16 then ((s.badPassed b i f).lossOfLock (b * 8 + i)).raiseOwned (pPort b) 3 else s.badPassed b i f) := by
  obtain ⟨ht, hmode⟩ := epvRuns_iff.mp hrun
  refine congrArg Host.Outcome.next ((if_neg (by simp [ht, hmode, h5])).trans (if_pos ?_))
  rcases hbad with h | h <;> simp [h]

theorem State.passFrame_feeds_lane (s : State) {b i : Nat} (hb : b < 48) (hi : i < 8) (lane : Nat) (errored : Bool) (f : EpvFrame) :
    s.Feeds (s.passFrame (b * 8 + i) lane errored f) b := by
  have feeds := s.passFrame_feeds (l := b * 8 + i) (by omega) lane errored f
  rwa [show (b * 8 + i) / 8 = b by omega] at feeds

theorem State.badCounted_wrote (s : State) (b : Nat) {i : Nat} (hi : i < 8) : s.Wrote (s.badCounted b i) (LaneWork b) :=
  (((State.Wrote.refl s _).wr64 (a := portCtr b i 0x08) (laneMoves_portCtr b hi (by omega))
    (laneMoves_portCtr b hi (off := 0x0C) (by omega)) _).setEpv _ _).work

section
variable (s : State) {b i : Nat} (hb : b < 48) (hi : i < 8)
include hb hi

theorem State.badPassed_feeds (f : EpvFrame) : (s.badCounted b i).Feeds (s.badPassed b i f) b :=
  State.passFrame_feeds_lane _ hb hi _ true f

theorem State.badPassed_lnState (f : EpvFrame) : (s.badPassed b i f).lnState (b * 8 + i) = s.lnState (b * 8 + i) := by
  rw [(s.badPassed_feeds hb hi f).lnState (by omega), State.badCounted, State.lnState_setEpv, State.wr64, portCtr,
    State.lnState_of_rd (State.rd_wr_other _ _ _ _ _ _ ?_), State.lnState_wr_port s b _ (by omega)]
  unfold regKey lnA portA regA pLane pPort
  omega

theorem State.badPassed_type (f : EpvFrame) : (s.badPassed b i f).portType b = s.portType b :=
  (congrArg (fld · 0 2) ((s.badPassed_feeds hb hi f).port hb hb (by omega) (by decide))).trans ((s.badCounted_wrote b hi).portType hb)

theorem State.badPassed_autoRetrain (f : EpvFrame) : (s.badPassed b i f).autoRetrain b = s.autoRetrain b :=
  (congrArg (bitOf · 8) ((s.badPassed_feeds hb hi f).blk hb (by omega))).trans ((s.badCounted_wrote b hi).autoRetrain hb)

theorem State.badPassed_count (f : EpvFrame) :
    (s.badPassed b i f).rd64 0 (portCtr b i 0x08) = (s.rd64 0 (portCtr b i 0x08) + 1) % 2 ^ 64 := by
  rw [(s.badPassed_feeds hb hi f).portCtr64 hb hi (by omega)]
  exact (State.rd64_wr64 s _ _ _).trans (Nat.mod_mod _ _)

/-- The sixteenth bad frame in a row is a loss of lock. -/
theorem State.badFrame_loses (f : EpvFrame) (h5 : s.lnState (b * 8 + i) = 5) (ht : s.portType b = 1) :
    let z := ((s.badPassed b i f).lossOfLock (b * 8 + i)).raiseOwned (pPort b) 3
    z.rd64 0 (portCtr b i 0x08) = (s.rd64 0 (portCtr b i 0x08) + 1) % 2 ^ 64 ∧
    z.lnState (b * 8 + i) = (if s.autoRetrain b then 1 else 6) ∧ bitOf (z.rd 0 (portA b 0x048)) 3 = true := by
  have hdiv : (b * 8 + i) / 8 = b := by omega
  have ready := (s.badPassed_lnState hb hi f).trans h5
  have type : (s.badPassed b i f).portType ((b * 8 + i) / 8) = 1 := by rw [hdiv, s.badPassed_type hb hi f, ht]
  have lost := (State.lossOfLock_loss (by omega) ready type).raiseOwned hb (lossKey_port b hi (by decide)) (lossKey_port b hi (by decide)) 3
  have state := State.lnState_lossOfLock_epv (by omega) ready type
  rw [hdiv, s.badPassed_autoRetrain hb hi f] at state
  exact ⟨(lost.portCtr64 hi (by omega)).trans (s.badPassed_count hb hi f), (State.lnState_raiseOwned hb _ 3 _).trans state,
    State.raiseOwned_rd_event hb _ (by omega)⟩

end

/-- EPV_FRAME_RECEIVE of a bad frame. -/
theorem epvFrameReceive_bad {s : State} {b : Fin 48} {i : Fin 8} {f : EpvFrame} (hrun : s.epvRuns b = true)
    (h5 : s.lnState (b * 8 + i) = 5) (hbad : f.fecOk = false ∨ hcrcOk f.hdr = false) : s.completes (.epvFrameReceive b i f) fun z =>
      z.rd64 0 (portCtr b i 0x08) = (s.rd64 0 (portCtr b i 0x08) + 1) % 2 ^ 64 ∧
      if ((s.epvRec b).bad.getD i 0) = 15 then
        z.lnState (b * 8 + i) = (if s.autoRetrain b then 1 else 6) ∧ bitOf (z.rd 0 (portA b 0x048)) 3 = true
      else z.lnState (b * 8 + i) = 5 ∧ (z.epvRec b).bad = (s.epvRec b).bad.set i ((s.epvRec b).bad.getD i 0 + 1) := by
  refine ⟨_, execEpvFrameReceive_bad hrun h5 hbad, ?_⟩
  dsimp only
  by_cases h : (s.epvRec b).bad.getD i 0 = 15
  · rw [if_pos h, if_pos (show s.badFrames b i = 16 from congrArg (· + 1) h)]
    exact s.badFrame_loses b.isLt i.isLt f h5 (epvRuns_iff.mp hrun).1
  · have more : s.badFrames b i ≠ 16 := fun e => h (Nat.succ.inj e)
    rw [if_neg h, if_neg more]
    refine ⟨s.badPassed_count b.isLt i.isLt f, (s.badPassed_lnState b.isLt i.isLt f).trans h5, ?_⟩
    rw [(s.badPassed_feeds b.isLt i.isLt f).epvRec, State.badCounted, State.epvRec_setEpv_same, if_neg more]
    rfl

/-! ### Good frames -/

/-- The codewords and symbols of a good frame are counted. -/
def State.goodCounted (s : State) (b i : Nat) (f : EpvFrame) : State :=
  (s.wr64 0 (portCtr b i 0x00) ((s.rd64 0 (portCtr b i 0x00) + f.codewords) % 2 ^ 64)).incSat 0 (portCtr b i 0x20) f.symbols

/-- The lane's receive service begins or ends. -/
def State.setService (s : State) (b i v : Nat) : State := (s.wrF 0 (portA b 0x064) (8 + i) 1 v).wrF 0 (lnA (b * 8 + i) 0x04) 11 1 v

/-- A frame of another cable group takes the lane out of receive service. -/
def State.foreignFrame (s : State) (b i : Nat) : State :=
  ((s.setEpv b { s.epvRec b with bad := (s.epvRec b).bad.set i 0 }).setService b i 0).raiseOwned (pPort b) 5

/-- A frame of the block's own group, its header taken and its allotments passed on. -/
def State.ownFrame (s : State) (b i : Nat) (f : EpvFrame) : State :=
  ((s.goodCounted b i f).takeHeader b (b * 8 + i) f.hdr).passFrame (b * 8 + i) (hword f.hdr 1 / 2 ^ 41 % 8) false f

theorem execEpvFrameReceive_good {s : State} {b : Fin 48} {i : Fin 8} {f : EpvFrame} (hrun : s.epvRuns b = true)
    (h5 : s.lnState (b * 8 + i) = 5) (hfec : f.fecOk = true) (hcrc : hcrcOk f.hdr = true) : exec (.epvFrameReceive b i f) s = .next (
      if bitOf (s.rd 0 (portA b 0x05C)) 8 = true ∧ hword f.hdr 1 / 2 ^ 44 % 64 ≠ s.rdF 0 (portA b 0x05C) 10 6 then
        (s.goodCounted b i f).foreignFrame b i
      else s.ownFrame b i f) := by
  obtain ⟨ht, hmode⟩ := epvRuns_iff.mp hrun
  refine congrArg Host.Outcome.next ((if_neg (by simp [ht, hmode, h5])).trans ((if_neg (by simp [hfec, hcrc])).trans ?_))
  exact if_congr (by rw [Bool.and_eq_true, decide_eq_true_iff]; rfl) rfl rfl

/-- What a good frame leaves in any case: the lane READY, no bad frame in a row, and its codewords counted. -/
def State.tookFrame (s z : State) (b i : Nat) (f : EpvFrame) : Prop :=
  z.lnState (b * 8 + i) = 5 ∧ (z.epvRec b).bad = (s.epvRec b).bad.set i 0 ∧
  z.rd64 0 (portCtr b i 0x00) = (s.rd64 0 (portCtr b i 0x00) + f.codewords) % 2 ^ 64

theorem State.rxLane_wrF (s : State) {b i : Nat} (hi : i < 8) (v : Nat) :
    (s.wrF 0 (portA b 0x064) (8 + i) 1 v).rxLane (b * 8 + i) = (v % 2 == 1) := by
  rw [State.rxLane, show (b * 8 + i) / 8 = b by omega, show (b * 8 + i) % 8 = i by omega, State.wrF, State.rd_wr_same,
    bitOf_setFld_same _ _ _ (by omega)]

theorem State.rxLane_of_rd {s z : State} {b i : Nat} (hi : i < 8) (h : z.rd 0 (portA b 0x064) = s.rd 0 (portA b 0x064)) :
    z.rxLane (b * 8 + i) = s.rxLane (b * 8 + i) := by
  rw [State.rxLane, State.rxLane, show (b * 8 + i) / 8 = b by omega, h]

theorem State.setService_mission (s : State) (b i v : Nat) : (s.setService b i v).mission (b * 8 + i) = (v % 2 == 1) :=
  (State.mission_wrF _ _ _ _).trans (if_pos rfl)

theorem State.goodCounted_count (s : State) (b i : Nat) (f : EpvFrame) :
    (s.goodCounted b i f).rd64 0 (portCtr b i 0x00) = (s.rd64 0 (portCtr b i 0x00) + f.codewords) % 2 ^ 64 := by
  have other {off : Nat} (ho : off < 8) : regKey 0 (portCtr b i off) ≠ regKey 0 (portCtr b i 0x20) := by
    rw [portCtr, portCtr, regKey_portA, regKey_portA]
    omega
  rw [State.goodCounted, State.incSat, State.rd64_of_rd (a := portCtr b i 0x00) (State.rd_wr_other _ _ _ _ _ _ (other (by omega)))
    (State.rd_wr_other _ _ _ _ _ _ (other (off := 0x04) (by omega))), State.rd64_wr64, Nat.mod_mod]

section
variable (s : State) {b i : Nat} (hb : b < 48) (hi : i < 8)
include hi

theorem State.setService_rxLane (v : Nat) : (s.setService b i v).rxLane (b * 8 + i) = (v % 2 == 1) := by
  refine (State.rxLane_of_rd hi (State.rd_wrF_other _ _ _ _ _ _ _ _ ?_)).trans (s.rxLane_wrF hi v)
  rw [regKey_portA, regKey_lnA]
  omega

theorem State.setService_wrote (v : Nat) : s.Wrote (s.setService b i v) (LossKey (b * 8 + i)) :=
  ((State.Wrote.refl s _).wrF (lossKey_port b hi (by decide)) _ _ _).wrF (lossKey_ln rfl (by omega)) _ _ _

include hb

theorem State.setService_lnState (v : Nat) : (s.setService b i v).lnState (b * 8 + i) = s.lnState (b * 8 + i) :=
  (State.lnState_wrF _ _ _ _ (by omega) (by omega)).trans (State.lnState_wr_port s b _ (by omega))

theorem State.goodCounted_lnState (f : EpvFrame) : (s.goodCounted b i f).lnState (b * 8 + i) = s.lnState (b * 8 + i) := by
  rw [State.goodCounted, State.incSat, State.wr64, portCtr, portCtr, State.lnState_wr_port _ _ _ (by omega),
    State.lnState_of_rd (State.rd_wr_other _ _ _ _ _ _ ?_), State.lnState_wr_port s b _ (by omega)]
  unfold regKey lnA portA regA pLane pPort
  omega

/-- A state whose registers are apart from the lane's counters those of the counted frame. -/
theorem State.tookFrame_of {z : State} {f : EpvFrame} (h5 : s.lnState (b * 8 + i) = 5)
    (hst : z.lnState (b * 8 + i) = (s.goodCounted b i f).lnState (b * 8 + i)) (hbad : (z.epvRec b).bad = (s.epvRec b).bad.set i 0)
    (hctr : z.rd64 0 (portCtr b i 0x00) = (s.goodCounted b i f).rd64 0 (portCtr b i 0x00)) : s.tookFrame z b i f :=
  ⟨hst.trans ((s.goodCounted_lnState hb hi f).trans h5), hbad, hctr.trans (s.goodCounted_count b i f)⟩

end

/-! ### A frame of another cable group -/

section
variable {s : State} {b i : Nat} {f : EpvFrame} (hb : b < 48) (hi : i < 8)
include hb hi

theorem State.foreignFrame_wrote (u : State) : u.Wrote (u.foreignFrame b i) (LossKey (b * 8 + i)) :=
  (((State.Wrote.refl u _).setEpv b _).trans (State.setService_wrote _ hi 0)).raiseOwned hb (lossKey_port b hi (by decide))
    (lossKey_port b hi (by decide)) 5

omit hi in
theorem State.foreignFrame_epvRec (u : State) : (u.foreignFrame b i).epvRec b = { u.epvRec b with bad := (u.epvRec b).bad.set i 0 } :=
  (((State.Feeds.refl _ b).raiseOwned hb 5).epvRec b).trans (State.epvRec_setEpv_same _ _ _)

omit hi in
theorem State.foreignFrame_out (u : State) : (u.foreignFrame b i).out = u.out := by
  rw [State.foreignFrame, State.raiseOwned_port hb]
  unfold State.faultAt
  dsimp only
  split <;> rfl

/-- A frame of another cable group. -/
theorem State.foreignFrame_took (h5 : s.lnState (b * 8 + i) = 5) : s.tookFrame ((s.goodCounted b i f).foreignFrame b i) b i f :=
  State.tookFrame_of s hb hi h5 ((State.lnState_raiseOwned hb _ 5 _).trans (State.setService_lnState _ hb hi 0))
    (congrArg EpvRec.bad (State.foreignFrame_epvRec hb _)) ((State.foreignFrame_wrote hb hi _).portCtr64 hi (by omega))

/-- It takes the lane out of receive service. -/
theorem State.foreignFrame_service (u : State) : (u.foreignFrame b i).mission (b * 8 + i) = false ∧
    (u.foreignFrame b i).rxLane (b * 8 + i) = false ∧ bitOf ((u.foreignFrame b i).rd 0 (portA b 0x048)) 5 = true := by
  have raised (v : State) := (State.Feeds.refl v b).raiseOwned hb 5
  exact ⟨((raised _).mission (by omega)).trans (State.setService_mission _ _ _ _),
    (State.rxLane_of_rd hi ((raised _).port hb hb (by omega) (by decide))).trans (State.setService_rxLane _ hi _),
    State.raiseOwned_rd_event hb _ (by omega)⟩

end

/-! ### A frame of the block's own group -/

/-- The group's state that a good header gives. -/
def State.headerRec (s : State) (b i : Nat) (hdr : List Dword) : EpvRec :=
  { s.epvRec b with
    peerOk := BitVec.ofNat 8 (hword hdr 2 / 2 ^ 8), peerReady := BitVec.ofNat 8 (hword hdr 2 / 2 ^ 16)
    rxBank := hword hdr 1 / 2 ^ 40 % 2, peerEpoch := hword hdr 1 / 2 ^ 32 % 256, peerLanes := BitVec.ofNat 8 (hword hdr 2 % 256)
    filed := (s.epvRec b).filed.set i (hword hdr 1 / 2 ^ 41 % 8), bad := (s.epvRec b).bad.set i 0 }

/-- Whether a lane is kept from receive service: it is shed, or SHED_EN = 0 holds the link down. -/
def State.heldOff (s : State) (b i : Nat) : Bool :=
  (s.epvRec b).shed.getLsbD i || (!s.shedEn b && (s.epvRec b).shed != 0)

/-- A good header before its placement: the group's state, and the lane in receive service. -/
def State.headed (s : State) (b i : Nat) (hdr : List Dword) : State :=
  if s.heldOff b i then s.setEpv b (s.headerRec b i hdr) else (s.setEpv b (s.headerRec b i hdr)).setService b i 1

section
variable (s : State) {b i : Nat} (hb : b < 48) (hi : i < 8) (hdr : List Dword)

theorem State.takeHeader_feeds (hi : i < 8) : (s.headed b i hdr).Feeds (s.takeHeader b (b * 8 + i) hdr) b := by
  unfold State.takeHeader
  rw [show (b * 8 + i) % 8 = i by omega]
  exact (State.writePlacement_feeds _ b b 6 _ _).ite (.refl _ b) _

theorem State.headed_epvRec : (s.headed b i hdr).epvRec b = s.headerRec b i hdr := by
  unfold State.headed
  split <;> exact State.epvRec_setEpv_same _ _ _

theorem State.headed_wrote (hi : i < 8) : s.Wrote (s.headed b i hdr) (LossKey (b * 8 + i)) :=
  have taken := (State.Wrote.refl s (LossKey (b * 8 + i))).setEpv b (s.headerRec b i hdr)
  taken.ite (taken.trans (State.setService_wrote _ hi 1)) _

include hb hi

theorem State.headed_lnState : (s.headed b i hdr).lnState (b * 8 + i) = s.lnState (b * 8 + i) := by
  unfold State.headed
  split
  exacts [rfl, State.setService_lnState _ hb hi 1]

omit hb in
/-- With no lane shed the lane is in service. -/
theorem State.headed_service (h : (s.epvRec b).shed = 0) :
    (s.headed b i hdr).mission (b * 8 + i) = true ∧ (s.headed b i hdr).rxLane (b * 8 + i) = true := by
  have serves : s.heldOff b i = false := by simp [State.heldOff, h]
  rw [State.headed, serves]
  exact ⟨State.setService_mission _ _ _ _, State.setService_rxLane _ hi _⟩

theorem State.ownFrame_feeds (f : EpvFrame) : ((s.goodCounted b i f).headed b i f.hdr).Feeds (s.ownFrame b i f) b :=
  (State.takeHeader_feeds _ f.hdr hi).trans (State.passFrame_feeds_lane _ hb hi _ false f)

theorem State.ownFrame_epvRec (f : EpvFrame) : (s.ownFrame b i f).epvRec b = s.headerRec b i f.hdr :=
  ((s.ownFrame_feeds hb hi f).epvRec b).trans (State.headed_epvRec _ f.hdr)

theorem State.ownFrame_took {f : EpvFrame} (h5 : s.lnState (b * 8 + i) = 5) : s.tookFrame (s.ownFrame b i f) b i f :=
  have feeds := s.ownFrame_feeds hb hi f
  State.tookFrame_of s hb hi h5 ((feeds.lnState (by omega)).trans (State.headed_lnState _ hb hi f.hdr))
    (congrArg EpvRec.bad (s.ownFrame_epvRec hb hi f))
    ((feeds.portCtr64 hb hi (by omega)).trans ((State.headed_wrote _ f.hdr hi).portCtr64 hi (by omega)))

theorem State.ownFrame_service (f : EpvFrame) (h : (s.epvRec b).shed = 0) :
    (s.ownFrame b i f).mission (b * 8 + i) = true ∧ (s.ownFrame b i f).rxLane (b * 8 + i) = true := by
  have feeds := s.ownFrame_feeds hb hi f
  obtain ⟨mission, service⟩ := State.headed_service (s.goodCounted b i f) hi f.hdr h
  exact ⟨(feeds.mission (by omega)).trans mission, (State.rxLane_of_rd hi (feeds.port hb hb (by omega) (by decide))).trans service⟩

end

/-- EPV_FRAME_RECEIVE of a good frame. -/
theorem epvFrameReceive_good {s : State} {b : Fin 48} {i : Fin 8} {f : EpvFrame} (hrun : s.epvRuns b = true)
    (h5 : s.lnState (b * 8 + i) = 5) (hfec : f.fecOk = true) (hcrc : hcrcOk f.hdr = true) : s.completes (.epvFrameReceive b i f) fun z =>
      let h1 := hword f.hdr 1
      let h2 := hword f.hdr 2
      z.lnState (b * 8 + i) = 5 ∧ (z.epvRec b).bad = (s.epvRec b).bad.set i 0 ∧
      z.rd64 0 (portCtr b i 0x00) = (s.rd64 0 (portCtr b i 0x00) + f.codewords) % 2 ^ 64 ∧
      if bitOf (s.rd 0 (portA b 0x05C)) 8 = true ∧ h1 / 2 ^ 44 % 64 ≠ s.rdF 0 (portA b 0x05C) 10 6 then
        z.out = s.out ∧ z.mission (b * 8 + i) = false ∧ z.rxLane (b * 8 + i) = false ∧ bitOf (z.rd 0 (portA b 0x048)) 5 = true ∧
        z.epvRec b = { s.epvRec b with bad := (s.epvRec b).bad.set i 0 }
      else (z.epvRec b).peerEpoch = h1 / 2 ^ 32 % 256 ∧ (z.epvRec b).rxBank = h1 / 2 ^ 40 % 2 ∧
        (z.epvRec b).peerLanes = BitVec.ofNat 8 (h2 % 256) ∧ (z.epvRec b).peerOk = BitVec.ofNat 8 (h2 / 2 ^ 8) ∧
        (z.epvRec b).peerReady = BitVec.ofNat 8 (h2 / 2 ^ 16) ∧
        ((s.epvRec b).shed = 0 → z.mission (b * 8 + i) = true ∧ z.rxLane (b * 8 + i) = true) := by
  have hb := b.isLt
  have hi := i.isLt
  refine ⟨_, execEpvFrameReceive_good hrun h5 hfec hcrc, ?_⟩
  dsimp only
  split
  next =>
    obtain ⟨state, bad, count⟩ := State.foreignFrame_took hb hi (f := f) h5
    obtain ⟨mission, service, event⟩ := State.foreignFrame_service hb hi (s.goodCounted b i f)
    exact ⟨state, bad, count, State.foreignFrame_out hb _, mission, service, event, State.foreignFrame_epvRec hb _⟩
  next =>
    obtain ⟨state, bad, count⟩ := s.ownFrame_took hb hi (f := f) h5
    refine ⟨state, bad, count, ?_⟩
    rw [s.ownFrame_epvRec hb hi f]
    exact ⟨rfl, rfl, rfl, rfl, rfl, s.ownFrame_service hb hi f⟩

/-- Settles O29: the boundary of a frame sent changes only the group's state, EPV_LINK and the placement; of a frame received, the
counters, the lane's service and the group's state come from its health and header, and passing its allotments on leaves them. -/
theorem epvozelFrames : Obligations.EpvozelFrames := by
  unfold Obligations.EpvozelFrames
  refine ⟨fun s b => ?_, fun s b i f hrun h5 => ⟨epvFrameReceive_bad hrun h5, epvFrameReceive_good hrun h5⟩⟩
  obtain ⟨idle, runs⟩ := epvFrameSend s b
  refine ⟨idle, fun hrun => ?_⟩
  obtain ⟨sends, boundary⟩ := runs hrun
  exact ⟨sends, boundary, fun t => ⟨mapSwap_waits, rejoin_waits⟩⟩

end Sys2Proof.Machine
end

section
/-!
PROOFS. Scope: the words in flight (R177, R180). What a beat of the fabric leaves while no block is in reset and no move goes on, and
where a word stands at each age.
-/
namespace Sys2Proof.Machine

/-! ### What a beat of the fabric leaves -/

/-- Clearing the bits of stalls that have run out writes registers and the list of stalls alone. -/
theorem State.ageStalls_frame (s : State) :
    { s.ageStalls with regs := s.regs, fab := { s.ageStalls.fab with stall := s.fab.stall } } = s := by
  refine forEach_keeps (P := fun u : State => { u with regs := s.regs, fab := { u.fab with stall := s.fab.stall } } = s) _
    (fun e _ u hu => ?_) rfl
  dsimp only
  split <;> exact hu

/-- No move is connected or has its compare made. -/
def FabSt.noMoves (f : FabSt) : Prop := ∀ m ∈ f.moves, m.joined = false ∧ m.compared = none

/-- A beat of the fabric is then the advance of its words. -/
theorem State.fabricBeat_advances {s : State} (hr : s.flt.resetting = []) (hm : s.fab.noMoves) :
    s.fabricBeat.flt = s.flt ∧ { s.fabricBeat.fab with due := s.fab.due, stall := s.fab.stall } =
      s.fab.advance (s.beat - 1) s.entering := by
  let u : State := { s with fab := s.resetWords { s.fab.advance (s.beat - 1) s.entering with due := s.waiting } }
  have frame := u.ageStalls_frame
  have words : u.fab = { s.fab.advance (s.beat - 1) s.entering with due := s.waiting } := if_pos (by rw [hr]; rfl)
  have fab : { u.ageStalls.fab with stall := s.fab.stall } = { s.fab.advance (s.beat - 1) s.entering with due := s.waiting } := by
    rw [show s.fab.stall = u.fab.stall by rw [words]; rfl, ← words]
    have e := congrArg State.fab frame
    exact e
  have moves : u.ageStalls.fab.moves = s.fab.moves := by
    have e := congrArg FabSt.moves fab
    exact e
  have idle : (u.ageStalls.fab.moves.filter fun m => m.compared.isSome) = [] := by
    rw [moves, List.filter_eq_nil_iff]
    intro m hin
    rw [(hm m hin).2]
    exact Bool.false_ne_true
  have beat : s.fabricBeat = u.ageStalls := by
    change forEach (u.ageStalls.fab.moves.filter fun m => m.compared.isSome) _ u.ageStalls = _
    rw [idle]
    rfl
  rw [beat]
  refine ⟨?_, congrArg (fun f : FabSt => { f with due := s.fab.due }) fab⟩
  have e := congrArg State.flt frame
  exact e

/-- Two states with the same paths, moves and blocks in reset. -/
def State.sameRoutes (s z : State) : Prop :=
  z.flt = s.flt ∧ z.fab.moves = s.fab.moves ∧ z.fab.ing = s.fab.ing ∧ z.fab.mid = s.fab.mid ∧ z.fab.egr = s.fab.egr

section
variable {s : State} (hr : s.flt.resetting = []) (hm : s.fab.noMoves)
include hr hm

theorem State.fabricBeat_sameRoutes : s.sameRoutes s.fabricBeat := by
  obtain ⟨flt, fab⟩ := State.fabricBeat_advances hr hm
  have moves := congrArg FabSt.moves fab
  have ing := congrArg FabSt.ing fab
  have mid := congrArg FabSt.mid fab
  have egr := congrArg FabSt.egr fab
  exact ⟨flt, moves, ing, mid, egr⟩

theorem State.fabricBeats_sameRoutes (n : Nat) : s.sameRoutes (Nat.repeat State.fabricBeat n s) := by
  induction n with
  | zero => exact ⟨rfl, rfl, rfl, rfl, rfl⟩
  | succ n ih =>
    obtain ⟨flt, moves, ing, mid, egr⟩ := ih
    obtain ⟨flt', moves', ing', mid', egr'⟩ := State.fabricBeat_sameRoutes (s := Nat.repeat State.fabricBeat n s)
      (by rw [flt, hr]) (by rw [FabSt.noMoves, moves]; exact hm)
    exact ⟨flt'.trans flt, moves'.trans moves, ing'.trans ing, mid'.trans mid, egr'.trans egr⟩

theorem State.aged_fabricBeat (a : Nat) : s.fabricBeat.fab.aged a = (s.fab.advance (s.beat - 1) s.entering).aged a := by
  have e := congrArg (FabSt.aged · a) (State.fabricBeat_advances hr hm).2
  exact e

end

/-! ### Words on their way -/

theorem FabSt.aged_advance (f : FabSt) (b : Nat) (ws : List (Nat × FWord)) {a : Nat} (h : a < 25) : (f.advance b ws).aged a =
    if a = 0 then ws else if a = 1 then onIngress f b (f.aged 0) else if a = 11 then onEgress f b (f.aged 10)
    else if a = 21 then onOutputs f (f.aged 20) else f.aged (a - 1) := by
  simp [FabSt.aged, FabSt.advance, List.headD_eq_head?_getD, List.head?_drop, List.getElem?_range h]

theorem heldPaths_free (t : Tab (Option Path)) : heldPaths t [] [] = pathsOf t := by simp [heldPaths, busyPaths]

section
variable {f : FabSt} (hm : f.noMoves)
include hm

/-- With no move connected, none holds a target and none gives up a path. -/
theorem FabSt.noMoves_targets (b : Nat) : f.targets = [] ∧ f.targetsMid b = [] ∧ f.freed b = [] := by
  have none (c : MoveRec → Bool) : f.moves.filter (fun m => m.joined && c m) = [] := by
    rw [List.filter_eq_nil_iff]
    intro m hin
    simp [(hm m hin).1]
  refine ⟨?_, ?_, ?_⟩
  · have all := none fun _ => true
    simp only [Bool.and_true] at all
    rw [FabSt.targets, all]
    rfl
  · rw [FabSt.targetsMid, none]
    rfl
  · simp only [FabSt.freed, Bool.and_assoc, none]
    rfl

theorem FabSt.noMoves_holds (b : Nat) : f.holdIng b = pathsOf f.ing ∧ f.holdMid b = pathsOf f.mid := by
  have held (b : Nat) := FabSt.noMoves_targets hm b
  rw [FabSt.holdIng, FabSt.holdMid, (held b).1, (held b).2.1, (held b).2.2, (held (b - 10)).2.2]
  exact ⟨heldPaths_free _, heldPaths_free _⟩

end

section
variable {f : FabSt} {b k : Nat} {w : FWord} {ws : List (Nat × FWord)} {y : Nat} {p : Path}

theorem mem_onIngress (hp : (y, p) ∈ f.holdIng b) (hw : (p.src, w) ∈ ws) : (pathIng p, w) ∈ onIngress f b ws := by
  refine List.mem_flatMap.mpr ⟨_, hw, List.mem_map.mpr ⟨_, List.mem_eraseDups.mpr (List.mem_map.mpr ⟨(y, p), ?_, rfl⟩), rfl⟩⟩
  simp [hp]

theorem mem_onEgress (hp : (y, p) ∈ f.holdMid b) (hw : (pathIng p, w) ∈ ws) : (pathEgr p y, w) ∈ onEgress f b ws := by
  refine List.mem_flatMap.mpr ⟨_, hw, List.mem_map.mpr ⟨_, List.mem_eraseDups.mpr (List.mem_map.mpr ⟨(y, p), ?_, rfl⟩), rfl⟩⟩
  simp [hp]

theorem mem_onOutputs (hp : (y, p) ∈ pathsOf f.egr) (hw : (pathEgr p y, w) ∈ ws) : (y, w) ∈ onOutputs f ws := by
  refine List.mem_flatMap.mpr ⟨_, hw, List.mem_map.mpr ⟨(y, p), ?_, rfl⟩⟩
  simp [hp]

end

/-- Where a word on a path to output y stands at an age: at its input, on its ingress channel, on its egress channel, at the output. -/
def pathKeyAt (p : Path) (y a : Nat) : Nat :=
  if a = 0 then p.src else if a ≤ 10 then pathIng p else if a ≤ 20 then pathEgr p y else y

/-- Output y is routed on one path in every stage. -/
def FabSt.routes (f : FabSt) (y : Nat) (p : Path) : Prop :=
  (y, p) ∈ pathsOf f.ing ∧ (y, p) ∈ pathsOf f.mid ∧ (y, p) ∈ pathsOf f.egr

theorem FabSt.advance_carries {f : FabSt} {y : Nat} {p : Path} (hm : f.noMoves) (hp : f.routes y p) (b : Nat)
    (ws : List (Nat × FWord)) {w : FWord} {a : Nat} (ha : a < 24) (h : (pathKeyAt p y a, w) ∈ f.aged a) :
    (pathKeyAt p y (a + 1), w) ∈ (f.advance b ws).aged (a + 1) := by
  obtain ⟨ing, mid, egr⟩ := hp
  obtain ⟨holdIng, holdMid⟩ := FabSt.noMoves_holds hm b
  rw [FabSt.aged_advance f b ws (by omega), if_neg (by omega)]
  by_cases h0 : a = 0
  · subst h0
    exact mem_onIngress (holdIng ▸ ing) h
  by_cases h10 : a = 10
  · subst h10
    exact mem_onEgress (holdMid ▸ mid) h
  by_cases h20 : a = 20
  · subst h20
    exact mem_onOutputs egr h
  rw [if_neg (by omega), if_neg (by omega), if_neg (by omega)]
  have same : pathKeyAt p y (a + 1) = pathKeyAt p y a := by
    unfold pathKeyAt
    grind
  rwa [same]

/-- A word that enters is at each age where its path takes it. -/
theorem State.carries {s : State} {y : Nat} {p : Path} {w : FWord} (hr : s.flt.resetting = []) (hm : s.fab.noMoves)
    (hp : s.fab.routes y p) (hw : (p.src, w) ∈ s.entering) (a : Nat) (ha : a < 25) :
    (pathKeyAt p y a, w) ∈ (Nat.repeat State.fabricBeat (a + 1) s).fab.aged a := by
  induction a with
  | zero =>
    change _ ∈ s.fabricBeat.fab.aged 0
    rw [State.aged_fabricBeat hr hm, FabSt.aged_advance _ _ _ (by omega)]
    exact hw
  | succ a ih =>
    obtain ⟨flt, moves, ing, mid, egr⟩ := State.fabricBeats_sameRoutes hr hm (a + 1)
    change _ ∈ (Nat.repeat State.fabricBeat (a + 1) s).fabricBeat.fab.aged (a + 1)
    have quiet : (Nat.repeat State.fabricBeat (a + 1) s).fab.noMoves := by
      rw [FabSt.noMoves, moves]
      exact hm
    rw [State.aged_fabricBeat (by rw [flt, hr]) quiet]
    exact FabSt.advance_carries quiet (by rw [FabSt.routes, ing, mid, egr]; exact hp) _ _ (by omega) (ih (by omega))

/-- Settles O39: of the 25 beats the first takes the word in, and each other moves it on by one age along its path. -/
theorem fabricLatency : Obligations.FabricLatency := by
  unfold Obligations.FabricLatency
  intro s y p w hr hm hw ing mid egr
  obtain ⟨-, -, ing', -, egr'⟩ := State.fabricBeats_sameRoutes hr hm 25
  exact ⟨State.carries hr hm ⟨ing, mid, egr⟩ hw 24 (by omega), ing', egr'⟩

end Sys2Proof.Machine
end

section
/-!
PROOFS. Scope: the swaps of the fabric (R181, R182, R214). What putting a swap off leaves of the fabric, the stages that follow the
ingress stage, and FABRIC_SWAP.
-/
namespace Sys2Proof.Machine

/-! ### What the take engine's settling of swaps leaves -/

theorem regKey_page (b : Nat) {pg off : Nat} (hpg : pg < 4096) (ho : off < 65536) : regKey b (regA pg off) % 2 ^ 28 / 65536 = pg := by
  rw [regKey_addr b hpg ho, regA]
  omega

theorem ne_regKey_of_page (b : Nat) {pg off k : Nat} (hpg : pg < 4096) (ho : off < 65536) (hk : k % 2 ^ 28 / 65536 ≠ pg) :
    k ≠ regKey b (regA pg off) := by
  rintro rfl
  exact hk (regKey_page b hpg ho)

/-- Deciding between swaps and putting them off writes no register of another page than TAKE, and of the fabric only the loaded swaps and
the moves that have not started. -/
structure State.TakeWork (s z : State) : Prop where
  regs : ∀ k, k % 2 ^ 28 / 65536 ≠ pTake → Tab.get regReset z.regs k = Tab.get regReset s.regs k
  fab : { z.fab with swaps := s.fab.swaps, moves := s.fab.moves } = s.fab
  beat : z.beat = s.beat

namespace State.TakeWork

variable {s t u : State}

theorem refl (s : State) : s.TakeWork s := ⟨fun _ _ => rfl, rfl, rfl⟩

theorem trans (h : s.TakeWork t) (g : t.TakeWork u) : s.TakeWork u where
  regs k hk := (g.regs k hk).trans (h.regs k hk)
  fab := (congrArg (fun f : FabSt => { f with swaps := s.fab.swaps, moves := s.fab.moves }) g.fab).trans h.fab
  beat := g.beat.trans h.beat

theorem of_same (hr : u.regs = s.regs) (hf : u.fab = s.fab) (hb : u.beat = s.beat) : s.TakeWork u :=
  ⟨fun k _ => congrArg (Tab.get regReset · k) hr, by rw [hf], hb⟩

theorem wr (h : s.TakeWork u) {off : Nat} (ho : off < 65536) (b : Nat) (v : Word) : s.TakeWork (u.wr b (regA pTake off) v) :=
  ⟨fun k hk => (Tab.get_put_other _ _ _ _ _ (ne_regKey_of_page b (by decide) ho hk)).trans (h.regs k hk), h.fab, h.beat⟩

theorem ite (h : s.TakeWork t) (g : s.TakeWork u) (c : Prop) [Decidable c] : s.TakeWork (if c then t else u) := by
  split
  exacts [h, g]

/-- Transactions and loaded swaps are the take engine's own. -/
theorem loads (h : s.TakeWork u) (t : Tx) (l : List Swap) :
    s.TakeWork { u.setTx t with fab := { u.fab with swaps := l } } := ⟨h.regs, h.fab, h.beat⟩

theorem tryAgain (h : s.TakeWork u) : s.TakeWork u.tryAgain := ⟨h.regs, h.fab, h.beat⟩

theorem setEnt (h : s.TakeWork u) (pg b sel idx w : Nat) (v : Word) : s.TakeWork (u.setEnt pg b sel idx w v) := ⟨h.regs, h.fab, h.beat⟩

theorem setEntWords (h : s.TakeWork u) (pg b sel idx w : Nat) (l : List Word) : s.TakeWork (u.setEntWords pg b sel idx w l) := by
  induction l generalizing u w with
  | nil => exact h
  | cons v r ih => exact ih (h.setEnt pg b sel idx w v) (w + 1)

theorem cause (h : s.TakeWork u) (p k : Nat) : s.TakeWork (u.cause p k) :=
  have frame := u.cause_frame p k
  have fab := congrArg State.fab frame
  have beat := congrArg State.beat frame
  h.trans (of_same (u.cause_regs p k) fab beat)

theorem faultAt (h : s.TakeWork u) (b i p : Nat) : s.TakeWork (u.faultAt pTake b i p) := by
  have bit : s.TakeWork (u.wrF 0 (regA pTake 0x018) b 1 1) := h.wr (by omega) 0 _
  unfold State.faultAt
  dsimp only
  split
  · exact bit
  · exact ⟨bit.regs, bit.fab, bit.beat⟩

theorem takeEvent (h : s.TakeWork u) (b p : Nat) : s.TakeWork (u.takeEvent b p) := by
  have event : s.TakeWork (u.event pTake b p) := by
    rcases u.event_cases pTake b p with he | ⟨bank, off, ho, he⟩ <;> rw [he]
    · exact h
    · exact h.wr ho _ _
  exact event.faultAt b (pageInst pTake) p

theorem notice (h : s.TakeWork u) (p code count : Nat) (tag : Word) (mark : Dword) (dest byPart : Nat) (byTag : Word) :
    s.TakeWork (u.notice p code count tag mark dest byPart byTag) :=
  ((((h.takeEvent 5 p).ite h _).setEntWords _ _ _ _ _ _).wr (off := 0x078) (by omega) _ _).cause _ _

theorem outcome (h : s.TakeWork u) (p : Nat) {i : Nat} (hi : i < 6) : s.TakeWork (u.outcome p i) := h.wr (by omega) _ _

theorem memberMark (h : s.TakeWork u) (m : Member) : s.TakeWork (u.memberMark m).2 := by
  unfold State.memberMark
  split
  · exact h
  · exact ⟨h.regs, h.fab, h.beat⟩

theorem finish (h : s.TakeWork u) (t : Tx) (st : Nat) : s.TakeWork (u.finish t st) := by
  have withdrawn (e : List TxEnd) (l : List Swap) (ms : List MoveRec) (ts : List Tx) : s.TakeWork { u with
      take := { u.take with txs := ts, ends := e }, fab := { u.fab with swaps := l, moves := ms } } := ⟨h.regs, h.fab, h.beat⟩
  unfold State.finish
  dsimp only
  split
  · exact (((withdrawn _ _ _ _).setEnt _ _ _ _ _ _).wr (off := 0x07C) (by omega) _ _).tryAgain
  · exact (withdrawn _ _ _ _).tryAgain

theorem endRemoval (h : s.TakeWork u) (t : Tx) : s.TakeWork (u.endRemoval t) := by
  unfold State.endRemoval
  split
  · exact h
  · exact ⟨h.regs, h.fab, h.beat⟩

theorem checkDone (h : s.TakeWork u) (x : TxId) : s.TakeWork (u.checkDone x) := by
  unfold State.checkDone
  split
  next t _ =>
    have ended := (h.finish t 3).endRemoval t
    exact (((ended.outcome _ (i := 0) (by omega)).notice _ _ _ _ _ _ _ _).ite ended _).ite h _
  next => exact h

theorem supersede (h : s.TakeWork u) (loser : TxId) (i : Nat) (winner : Tx) : s.TakeWork (u.supersede loser i winner) := by
  unfold State.supersede
  split
  · exact h
  split
  · exact h
  next m _ =>
    exact (((((h.loads _ _).memberMark m).takeEvent 6 _).outcome _ (i := 5) (by omega)).notice _ _ _ _ _ _ _ _).checkDone _

theorem settle (h : s.TakeWork u) (v w : Swap) : s.TakeWork (u.settle v w) := by
  unfold State.settle
  split
  · exact (h.supersede _ _ _).ite (h.supersede _ _ _) _
  · exact h

theorem forEach {α : Type} (h : s.TakeWork u) {l : List α} {f : α → State → State}
    (hf : ∀ x ∈ l, ∀ v, s.TakeWork v → s.TakeWork (f x v)) : s.TakeWork (Machine.forEach l f u) := forEach_keeps l hf h

theorem nextMark (h : s.TakeWork u) (w : Swap) : s.TakeWork (u.nextMark w) := by
  unfold State.nextMark
  split
  · exact h
  split
  · exact h
  next m _ =>
    exact ((((h.memberMark _).loads _ _).takeEvent 4 _).notice _ _ _ _ _ _ _ _).forEach fun v _ z hz => hz.settle _ _

theorem ing (h : s.TakeWork u) : u.fab.ing = s.fab.ing := by
  have e := congrArg FabSt.ing h.fab
  exact e

theorem clash (h : s.TakeWork u) : u.fab.clash = s.fab.clash := by
  have e := congrArg FabSt.clash h.fab
  exact e

theorem rd (h : s.TakeWork u) (b : Nat) {pg off : Nat} (hpg : pg < 4096) (ho : off < 65536) (hne : pg ≠ pTake) :
    u.rd b (regA pg off) = s.rd b (regA pg off) := h.regs _ (by rw [regKey_page b hpg ho]; exact hne)

end State.TakeWork

/-! ### Events of the XPT page -/

/-- An event of a slice is a bit of XPT.EVENT, which has one copy, and of PAGE_FAULT. -/
theorem State.xptEvent_eq (s : State) (b fs : Nat) :
    s.xptEvent b fs = (s.wrF 0 (regA pXpt 0x04C) b 1 1).faultAt pXpt b fs 0 := rfl

theorem State.xptEvent_rd (s : State) (b fs : Nat) : (s.xptEvent b fs).rd 0 (regA pXpt 0x04C) =
    setFld (s.rd 0 (regA pXpt 0x04C)) b 1 1 := by
  rw [State.xptEvent_eq, State.faultAt_rd _ (by decide), State.wrF, State.rd_wr_same]

theorem State.xptEvent_sets (s : State) {b : Nat} (hb : b < 32) (fs : Nat) :
    bitOf ((s.xptEvent b fs).rd 0 (regA pXpt 0x04C)) b = true := by
  rw [State.xptEvent_rd, bitOf_setFld_same _ _ _ hb]
  rfl

/-- The registers that an event of a slice may write. -/
theorem State.xptEvent_wrote (s : State) (b fs : Nat) :
    s.Wrote (s.xptEvent b fs) fun k => k = regKey 0 (regA pXpt 0x04C) ∨ k = regKey 0 (regA pXpt 0x018) :=
  ((State.Wrote.refl s _).wrF (.inl rfl) b 1 1).faultAt (.inr rfl) b fs 0

theorem State.Wrote.fab {s u : State} {K : Nat → Prop} (h : s.Wrote u K) : u.fab = s.fab := by
  have e := congrArg State.fab h.rest
  exact e

/-! ### Paths of a stage after a swap -/

theorem pathAt_setPath (t : Tab (Option Path)) (y : Nat) (p : Option Path) (y' : Nat) :
    pathAt (setPath t y p) y' = if y' = y then p else pathAt t y' := Tab.get_put _ _ _ _ _

theorem pathAt_applyPaths_other {ps : List (Nat × Option Path)} {y : Nat} (h : y ∉ ps.map fun e => e.1) (t : Tab (Option Path)) :
    pathAt (applyPaths ps t) y = pathAt t y := by
  unfold applyPaths
  induction ps generalizing t with
  | nil => rfl
  | cons e r ih =>
    simp only [List.map_cons, List.mem_cons, not_or] at h
    exact (ih h.2 _).trans ((pathAt_setPath _ _ _ _).trans (if_neg h.1))

theorem pathAt_applyPaths_mem {ps : List (Nat × Option Path)} (hn : (ps.map fun e => e.1).Nodup) {e : Nat × Option Path} (he : e ∈ ps)
    (t : Tab (Option Path)) : pathAt (applyPaths ps t) e.1 = e.2 := by
  induction ps generalizing t with
  | nil => cases he
  | cons a r ih =>
    obtain ⟨ha, hr⟩ := List.nodup_cons.mp hn
    rcases List.mem_cons.mp he with rfl | he
    · exact (pathAt_applyPaths_other ha _).trans ((pathAt_setPath _ _ _ _).trans (if_pos rfl))
    · exact ih hr he _

/-! ### The middle and egress stages -/

/-- The swaps that the middle stage makes in a beat, and those that the egress stage makes. -/
def FabSt.midDue (f : FabSt) (b : Nat) : List Swap := f.swaps.filter fun w => w.stage == 1 && decide (w.beat + 10 ≤ b)
def FabSt.egrDue (f : FabSt) (b : Nat) : List Swap := f.swaps.filter fun w => w.stage == 2 && decide (w.beat + 20 ≤ b)

/-- A swap after the middle stage's work in a beat, and after the egress stage's. -/
def Swap.pastMid (b : Nat) (w : Swap) : Swap := if w.stage = 1 ∧ w.beat + 10 ≤ b then { w with stage := 2 } else w
def Swap.pastEgr (b : Nat) (w : Swap) : Swap := if w.stage = 2 ∧ w.beat + 20 ≤ b then { w with stage := 3 } else w

/-- Swaps applied to a stage, one after the other. -/
def applySwaps (l : List Swap) (t : Tab (Option Path)) : Tab (Option Path) := l.foldl (fun t w => applyPaths w.paths t) t

theorem applySwaps_mid (l : List Swap) (f : FabSt) : l.foldl (fun (f : FabSt) (w : Swap) => { f with mid := applyPaths w.paths f.mid }) f =
    { f with mid := applySwaps l f.mid } := by
  induction l generalizing f with
  | nil => rfl
  | cons w r ih => exact ih _

theorem applySwaps_egr (l : List Swap) (f : FabSt) : l.foldl (fun (f : FabSt) (w : Swap) => { f with egr := applyPaths w.paths f.egr }) f =
    { f with egr := applySwaps l f.egr } := by
  induction l generalizing f with
  | nil => rfl
  | cons w r ih => exact ih _

/-- The fabric after the middle stage's swaps of a beat. -/
def FabSt.midSwapped (f : FabSt) (b : Nat) : FabSt := { f with mid := applySwaps (f.midDue b) f.mid, swaps := f.swaps.map (Swap.pastMid b) }

theorem State.swapStages_eq (s : State) : s.swapStages = { s with fab := { s.fab with
    mid := applySwaps (s.fab.midDue s.beat) s.fab.mid
    egr := applySwaps ((s.fab.midSwapped s.beat).egrDue s.beat) s.fab.egr
    swaps := (s.fab.swaps.map (Swap.pastMid s.beat)).map (Swap.pastEgr s.beat) } } := by
  unfold State.swapStages
  dsimp only
  rw [applySwaps_mid, applySwaps_egr]
  rfl

/-- The egress stage's swaps of a beat are those past the ingress stage for 20 beats. -/
theorem FabSt.egrDue_midSwapped (f : FabSt) (b : Nat) : (f.midSwapped b).egrDue b =
    (f.swaps.filter fun w => (w.stage == 1 || w.stage == 2) && decide (w.beat + 20 ≤ b)).map (Swap.pastMid b) := by
  change ((f.swaps.map (Swap.pastMid b)).filter _) = _
  rw [List.filter_map]
  refine congrArg _ (List.filter_congr fun w _ => ?_)
  change ((w.pastMid b).stage == 2 && decide ((w.pastMid b).beat + 20 ≤ b)) = _
  unfold Swap.pastMid
  split
  next h => simp [h.1]
  next h =>
    by_cases h1 : w.stage = 1
    · have late : ¬w.beat + 20 ≤ b := by omega
      simp [h1, late]
    · rw [beq_eq_false_iff_ne.mpr h1, Bool.false_or]

theorem Swap.pastMid_paths (b : Nat) (w : Swap) : (w.pastMid b).paths = w.paths := by
  unfold Swap.pastMid
  split <;> rfl

/-- One swap at a stage puts its paths there and leaves every other output's. -/
theorem applySwaps_one {w : Swap} (hn : (w.paths.map fun e => e.1).Nodup) (t : Tab (Option Path)) :
    (∀ e ∈ w.paths, pathAt (applySwaps [w] t) e.1 = e.2) ∧
      ∀ y, y ∉ w.paths.map (fun e => e.1) → pathAt (applySwaps [w] t) y = pathAt t y :=
  ⟨fun _ he => pathAt_applyPaths_mem hn he t, fun _ hy => pathAt_applyPaths_other hy t⟩

/-! ### FABRIC_SWAP -/

/-- The swaps due in a beat. -/
abbrev State.swapsDue (s : State) : List Swap := s.fab.swaps.filter s.swapDue

theorem execFabricSwap_due {s : State} (h : s.swapsDue ≠ []) : exec .fabricSwap s = .next (s.swapBeat s.swapsDue).swapStages :=
  congrArg Host.Outcome.next (if_neg (mt List.isEmpty_iff.mp h))

theorem execFabricSwap_idle {s : State} (h : s.swapsDue = []) : exec .fabricSwap s = .next s.swapStages :=
  congrArg Host.Outcome.next (if_pos (List.isEmpty_iff.mpr h))

/-- A swap made in this beat is at no later stage before the next. -/
theorem Swap.pastMid_made {b : Nat} {w : Swap} (hb : w.beat = b) : w.pastMid b = w := if_neg (by omega)
theorem Swap.pastEgr_made {b : Nat} {w : Swap} (hb : w.beat = b) : w.pastEgr b = w := if_neg (by omega)

section
variable {s : State}

/-- The swaps of the beat make no conflict: the ingress stage takes them. -/
theorem State.swapBeat_makes {due : List Swap} (hr : swapRivals (s.swapsMade ++ due) = []) (hc : s.fab.clash ≠ some s.beat)
    (hok : s.swapConflict s.swapBase (s.stillLoaded (s.swapsMade ++ due)) = false) :
    s.swapBeat due = { s with fab := { s.fab with
      ing := applyPaths ((s.stillLoaded (s.swapsMade ++ due)).flatMap fun w => w.paths) s.swapBase
      base := s.swapBase
      swaps := s.fab.swaps.map fun (w : Swap) =>
        if (s.stillLoaded (s.swapsMade ++ due)).contains w && w.stage == 0 then s.stampSwap w else w } } := by
  have settled : forEach (swapRivals (s.swapsMade ++ due)) (fun e s => s.settle e.1 e.2) s = s := by
    rw [hr]
    rfl
  rw [State.swapBeat, settled]
  exact (if_neg hc).trans (if_neg (by rw [hok]; exact Bool.false_ne_true))

/-- The swaps of the beat conflict: the paths before them stand, and the event is set. -/
theorem State.swapBeat_conflicts {due : List Swap} (hr : swapRivals (s.swapsMade ++ due) = []) (hc : s.fab.clash ≠ some s.beat)
    (hok : s.swapConflict s.swapBase (s.stillLoaded (s.swapsMade ++ due)) = true) :
    (s.swapBeat due).fab.ing = s.swapBase ∧ bitOf ((s.swapBeat due).rd 0 (regA pXpt 0x04C)) 5 = true := by
  let u : State := { s with fab := { s.fab with ing := s.swapBase, clash := some s.beat } }
  have settled : forEach (swapRivals (s.swapsMade ++ due)) (fun e s => s.settle e.1 e.2) s = s := by
    rw [hr]
    rfl
  have beat : s.swapBeat due =
      forEach (s.stillLoaded (s.swapsMade ++ due)) (fun w s => s.nextMark w) (u.xptEvent 5 0) := by
    rw [State.swapBeat, settled]
    exact (if_neg hc).trans (if_pos hok)
  have putOff : (u.xptEvent 5 0).TakeWork (s.swapBeat due) := by
    rw [beat]
    exact (State.TakeWork.refl _).forEach fun w _ v hv => hv.nextMark w
  refine ⟨putOff.ing.trans (congrArg FabSt.ing (u.xptEvent_wrote 5 0).fab), ?_⟩
  rw [putOff.rd 0 (by decide) (by omega) (by decide)]
  exact u.xptEvent_sets (by omega) 0

/-- Swaps that come after a conflict in the beat change no path. -/
theorem State.swapBeat_late {due : List Swap} (hc : s.fab.clash = some s.beat) : (s.swapBeat due).fab.ing = s.fab.ing := by
  let u := forEach (swapRivals (s.swapsMade ++ due)) (fun e s => s.settle e.1 e.2) s
  have settled : s.TakeWork u := (State.TakeWork.refl s).forEach fun e _ v hv => hv.settle _ _
  have beat : s.swapBeat due = forEach (u.stillLoaded due) (fun w s => s.nextMark w) u := if_pos (settled.clash.trans hc)
  rw [beat]
  exact (settled.forEach fun w _ v hv => hv.nextMark w).ing

theorem State.swapStages_ing (s : State) : s.swapStages.fab.ing = s.fab.ing := by rw [State.swapStages_eq]

theorem State.swapStages_rd (s : State) (b a : Nat) : s.swapStages.rd b a = s.rd b a := by
  rw [State.swapStages_eq]
  rfl

/-- A swap that is due and is made stands in the list as made in this beat. -/
theorem State.swapBeat_stamps {w : Swap} (hw : w ∈ s.swapsDue) (hr : swapRivals (s.swapsMade ++ s.swapsDue) = [])
    (hc : s.fab.clash ≠ some s.beat) (hok : s.swapConflict s.swapBase (s.stillLoaded (s.swapsMade ++ s.swapsDue)) = false) :
    s.stampSwap w ∈ (s.swapBeat s.swapsDue).swapStages.fab.swaps := by
  obtain ⟨hin, hdue⟩ := List.mem_filter.mp hw
  have stage : (w.stage == 0) = true := (Bool.and_eq_true_iff.mp hdue).1
  have loaded : (s.stillLoaded (s.swapsMade ++ s.swapsDue)).contains w = true := by
    refine List.contains_iff_mem.mpr (List.mem_filter.mpr ⟨hin, List.any_eq_true.mpr ⟨w, List.mem_append_right _ hw, ?_⟩⟩)
    simp
  rw [State.swapBeat_makes hr hc hok, State.swapStages_eq]
  refine List.mem_map.mpr ⟨s.stampSwap w, List.mem_map.mpr ⟨s.stampSwap w, List.mem_map.mpr ⟨w, hin, ?_⟩, ?_⟩, ?_⟩
  · rw [loaded, stage]
    rfl
  · exact Swap.pastMid_made rfl
  · exact Swap.pastEgr_made rfl

end

/-- Settles O40: what FABRIC_SWAP does to the ingress stage comes from the judgement of the beat's swaps, and to the later stages from
the swaps that have been made 10 and 20 beats before. -/
theorem fabricSwaps : Obligations.FabricSwaps := by
  unfold Obligations.FabricSwaps
  intro s due all
  refine ⟨fun hdue hr hc => ⟨fun hok => ?_, fun hok => ?_⟩, fun hdue hc => ?_, fun hdue => ?_⟩
  · refine ⟨_, execFabricSwap_due hdue, ?_, fun w hw =>
      ⟨s.stampSwap w, State.swapBeat_stamps hw hr hc hok, rfl, rfl, rfl, rfl, rfl⟩⟩
    rw [State.swapStages_ing, State.swapBeat_makes hr hc hok]
  · obtain ⟨ing, event⟩ := State.swapBeat_conflicts hr hc hok
    refine ⟨_, execFabricSwap_due hdue, (State.swapStages_ing _).trans ing, ?_⟩
    rw [State.swapStages_rd]
    exact event
  · exact ⟨_, execFabricSwap_due hdue, (State.swapStages_ing _).trans (State.swapBeat_late hc)⟩
  · refine ⟨_, execFabricSwap_idle hdue, ?_⟩
    rw [State.swapStages_eq]
    refine ⟨rfl, rfl, fun w hw hn => ?_, fun w hw hn => ?_⟩
    · dsimp only
      rw [FabSt.midDue, hw]
      exact applySwaps_one hn _
    · dsimp only
      rw [FabSt.egrDue_midSwapped, hw]
      have one := applySwaps_one (w := w.pastMid s.beat) (by rw [Swap.pastMid_paths]; exact hn) s.fab.egr
      rw [Swap.pastMid_paths] at one
      exact one

end Sys2Proof.Machine
end

section
/-!
PROOFS. Scope: the moves of the fabric (R184 to R187). What an evacuation leaves, the start and the compare of a move, what the beats
after it do, and a move that starts in the beat of a swap.
-/
namespace Sys2Proof.Machine

/-! ### What an evacuation leaves -/

/-- Setting a bit that a word does not have leaves the word. -/
theorem setFld_beyond (w : Word) {lo n : Nat} (v : Nat) (h : 32 ≤ lo) : setFld w lo n v = w := by
  have small : w.toNat < 2 ^ lo := lt_of_lt_of_le w.isLt (Nat.pow_le_pow_right (by omega) h)
  have none : w.toNat / 2 ^ (lo + n) = 0 :=
    Nat.div_eq_of_lt (lt_of_lt_of_le small (Nat.pow_le_pow_right (by omega) (by omega)))
  apply BitVec.eq_of_toNat_eq
  obtain ⟨d, rfl⟩ := Nat.exists_eq_add_of_le h
  rw [setFld, BitVec.toNat_ofNat, none, Nat.mod_eq_of_lt small, zero_mul, add_zero, pow_add, ← mul_assoc, mul_comm _ (2 ^ 32),
    mul_assoc, Nat.add_mul_mod_self_left, Nat.mod_eq_of_lt w.isLt]

/-- Setting a bit clears none. -/
theorem bitOf_setFld_one {w : Word} {i : Nat} (h : bitOf w i = true) (j : Nat) : bitOf (setFld w j 1 1) i = true := by
  by_cases hj : j < 32
  · by_cases e : i = j
    · rw [e, bitOf_setFld_same _ _ _ hj]
      rfl
    · rwa [bitOf_setFld_other _ _ _ _ _ (by omega) (by omega)]
  · rwa [setFld_beyond _ _ (by omega)]

/-- The registers of the XPT page that an evacuation writes: PAGE_FAULT, EVENT and MID_OUT. -/
def EvacKey (k : Nat) : Prop := k = regKey 0 (regA pXpt 0x018) ∨ k = regKey 0 (regA pXpt 0x04C) ∨ k = regKey 0 (regA pXpt 0x054)

/-- An evacuation writes PAGE_FAULT, EVENT and MID_OUT of the XPT page, clearing no bit of the latter two, EVAC_FAIL of slice status
entries, and the list of slices under evacuation, which keeps those that carry routes. -/
structure State.Evacuates (s z : State) : Prop where
  regs : ∀ k, ¬EvacKey k → Tab.get regReset z.regs k = Tab.get regReset s.regs k
  events : ∀ i, bitOf (s.rd 0 (regA pXpt 0x04C)) i = true → bitOf (z.rd 0 (regA pXpt 0x04C)) i = true
  outs : ∀ m, s.midOut m = true → z.midOut m = true
  tbl : ∀ k, k % 16 ≠ 3 → Tab.get tblReset z.tbl k = Tab.get tblReset s.tbl k
  evac : ∀ m ∈ s.fab.evac, s.midRoutes m ≠ [] → m ∈ z.fab.evac
  rest : { z with regs := s.regs, tbl := s.tbl, occ := s.occ, fab := { z.fab with evac := s.fab.evac } } = s

namespace State.Evacuates

variable {s t u : State}

theorem refl (s : State) : s.Evacuates s := ⟨fun _ _ => rfl, fun _ h => h, fun _ h => h, fun _ _ => rfl, fun _ h _ => h, rfl⟩

theorem fab (h : s.Evacuates u) : { u.fab with evac := s.fab.evac } = s.fab := by
  have e := congrArg State.fab h.rest
  exact e

theorem midRoutes (h : s.Evacuates u) (m : Nat) : u.midRoutes m = s.midRoutes m := by
  have e := congrArg (fun f : FabSt => (pathsOf f.egr).filter fun e => pathMid e.2 e.1 == m) h.fab
  exact e

theorem trans (h : s.Evacuates t) (g : t.Evacuates u) : s.Evacuates u where
  regs k hk := (g.regs k hk).trans (h.regs k hk)
  events i hi := g.events i (h.events i hi)
  outs m hm := g.outs m (h.outs m hm)
  tbl k hk := (g.tbl k hk).trans (h.tbl k hk)
  evac m hm hr := g.evac m (h.evac m hm hr) (by rwa [h.midRoutes])
  rest := (congrArg (fun v : State =>
    { v with regs := s.regs, tbl := s.tbl, occ := s.occ, fab := { v.fab with evac := s.fab.evac } }) g.rest).trans h.rest

theorem ite (h : s.Evacuates t) (g : s.Evacuates u) (c : Prop) [Decidable c] : s.Evacuates (if c then t else u) := by
  split
  exacts [h, g]

theorem forEach {α : Type} {l : List α} {f : α → State → State} (hf : ∀ x ∈ l, ∀ v : State, v.Evacuates (f x v)) :
    s.Evacuates (Machine.forEach l f s) :=
  forEach_keeps l (fun x hx v (hv : s.Evacuates v) => hv.trans (hf x hx v)) (refl s)

theorem rd (h : s.Evacuates u) (b : Nat) {a : Nat} (ha : ¬EvacKey (regKey b a)) : u.rd b a = s.rd b a := h.regs _ ha

theorem ent (h : s.Evacuates u) (pg b sel idx : Nat) {w : Nat} (hw : w % 16 ≠ 3) : u.ent pg b sel idx w = s.ent pg b sel idx w :=
  h.tbl _ (by unfold tblKey; omega)

theorem memKept (h : s.Evacuates u) : s.memKept u := fun a => by
  have e := congrArg (State.memByte · a) h.rest
  exact e

/-- A bit of MID_OUT is set, and slices without routes leave the list. -/
theorem leaves (s : State) {m : Nat} {l : List Nat} (hl : ∀ k ∈ s.fab.evac, s.midRoutes k ≠ [] → k ∈ l) :
    s.Evacuates { s.wrF 0 (regA pXpt 0x054) m 1 1 with fab := { s.fab with evac := l } } where
  regs k hk := Tab.get_put_other _ _ _ _ _ fun e => hk (.inr (.inr e))
  events i hi := by
    change bitOf ((s.wrF 0 (regA pXpt 0x054) m 1 1).rd 0 (regA pXpt 0x04C)) i = true
    rwa [State.rd_wrF_other _ _ _ _ _ _ _ _ (by decide)]
  outs k hk := by
    change bitOf ((s.wrF 0 (regA pXpt 0x054) m 1 1).rd 0 (regA pXpt 0x054)) k = true
    rw [State.wrF, State.rd_wr_same]
    exact bitOf_setFld_one hk m
  tbl _ _ := rfl
  evac := hl
  rest := rfl

theorem xptEvent (s : State) (b fs : Nat) : s.Evacuates (s.xptEvent b fs) where
  regs k hk := (s.xptEvent_wrote b fs).regs k fun h => hk (h.elim (fun e => .inr (.inl e)) .inl)
  events i hi := by
    rw [State.xptEvent_rd]
    exact bitOf_setFld_one hi b
  outs m hm := by
    rw [State.midOut, (s.xptEvent_wrote b fs).rd (by decide)]
    exact hm
  tbl k _ := by rw [(s.xptEvent_wrote b fs).tbl]
  evac m hm _ := by rwa [(s.xptEvent_wrote b fs).fab]
  rest := by
    obtain ⟨o, ho⟩ := (s.wrF 0 (regA pXpt 0x04C) b 1 1).faultAt_eq pXpt b fs 0
    rw [State.xptEvent_eq, ho]
    rfl

theorem evacDone (s : State) : s.Evacuates s.evacDone := by
  refine forEach_keeps (P := fun v => s.Evacuates v) _ (fun m hm v hv => hv.trans (leaves v fun k hk hr => ?_)) (refl s)
  have carries : k ≠ m := by
    rintro rfl
    rw [hv.midRoutes] at hr
    exact hr (List.isEmpty_iff.mp (List.mem_filter.mp hm).2)
  exact List.mem_filter.mpr ⟨hk, bne_iff_ne.mpr carries⟩

/-- EVAC_FAIL of a slice status entry. -/
theorem setFail (s : State) (idx lo n v : Nat) : s.Evacuates (s.setEntF pXpt 0 6 idx 3 lo n v) where
  regs _ _ := rfl
  events _ h := h
  outs _ h := h
  tbl k hk := Tab.get_put_other _ _ _ _ _ fun e => hk (by rw [e]; unfold tblKey; omega)
  evac _ h _ := h
  rest := rfl

theorem evacuate (s : State) (m : Nat) : s.Evacuates (s.evacuate m) := by
  have joins : s.Evacuates { s with fab := { s.fab with evac := s.fab.evac ++ [m] } } :=
    ⟨fun _ _ => rfl, fun _ h => h, fun _ h => h, fun _ _ => rfl, fun _ h _ => List.mem_append_left _ h, rfl⟩
  unfold State.evacuate
  dsimp only
  exact (refl s).ite ((joins.ite (joins.trans ((setFail _ _ _ _ _).trans (xptEvent _ _ _))) _).trans (evacDone _)) _

theorem autoEvac (s : State) (fs : Nat) : s.Evacuates (s.autoEvac fs) := (evacuate s _).ite (refl s) _

end State.Evacuates

/-! ### The start of a move -/

theorem execMoveStart_full {s : State} (m : MoveReq) (h : 512 ≤ s.fab.moving ∨ 64 ≤ s.fab.startingIn s.beat) :
    exec (.moveStart m) s = .next s := congrArg Host.Outcome.next (if_pos h)

theorem execMoveStart_scheduled {s : State} {id : Nat} {r : MoveRec} (hm : s.fab.moving < 512) (hb : s.fab.startingIn s.beat < 64)
    (hf : (s.fab.moves.find? fun r => r.id == id && !r.started && decide (r.b0 ≤ s.beat)) = some r) :
    exec (.moveStart (.scheduled id)) s = .next { s with fab := { s.fab with
      moves := s.fab.moves.map fun q => if q.id = id then s.startMove r else q } } := by
  refine congrArg Host.Outcome.next ((if_neg (by omega)).trans ?_)
  dsimp only
  rw [hf]

/-! ### The compare of a move -/

/-- Whether the words that the compare looks at agree on the old and the target channel of every output. -/
def State.movesAgree (s : State) (m : MoveRec) : Bool :=
  let word (k : Nat) : List FWord := ((s.fab.aged 20).filter fun e => e.1 == k).map fun e => e.2
  m.parts.all fun q => q.outs.all fun y => word (pathEgr q.old y) == word (pathEgr q.new y)

/-- The state with what the compare of a move finds. -/
def State.compareNoted (s : State) (id : Nat) (ok : Bool) : State :=
  { s with fab := { s.fab with moves := s.fab.moves.map fun r =>
    if r.id = id then { r with compared := some s.beat, matched := ok } else r } }

/-- The compare is noted; one that fails is counted, and its transaction may be rehearsed again. -/
theorem execMoveCompare_cases {s : State} {id : Nat} {m : MoveRec} (same : Bool)
    (hf : (s.fab.moves.find? fun m => m.id == id && m.started && m.compared.isNone) = some m) (hb : m.b0 + 20 ≤ s.beat) :
    let ok := m.joined && s.movesAgree m && same
    let z := s.compareNoted id ok
    if ok = true then exec (.moveCompare id same) s = .next z
    else exec (.moveCompare id same) s = .next (z.moveFail m) ∨
      ∃ t, exec (.moveCompare id same) s = .next ((z.moveFail m).rehearseAgain t) := by
  dsimp only
  have go : exec (.moveCompare id same) s = .next (
      if (m.joined && s.movesAgree m && same) = true then s.compareNoted id (m.joined && s.movesAgree m && same)
      else match (match m.tx with
        | some x => s.tx x
        | none => none) with
      | some t =>
        if m.tries = 0 ∧ t.state ≤ 1 then
          ((s.compareNoted id (m.joined && s.movesAgree m && same)).moveFail m).rehearseAgain t
        else (s.compareNoted id (m.joined && s.movesAgree m && same)).moveFail m
      | none => (s.compareNoted id (m.joined && s.movesAgree m && same)).moveFail m) := by
    change execMoveCompare id same s = _
    rw [execMoveCompare, hf]
    exact congrArg Host.Outcome.next (if_neg (by omega))
  rw [go]
  generalize s.compareNoted id _ = z
  split
  · rfl
  · split
    · split
      · exact .inr ⟨_, rfl⟩
      · exact .inl rfl
    · exact .inl rfl

theorem compared_mem {s : State} {id : Nat} {m : MoveRec}
    (hf : (s.fab.moves.find? fun m => m.id == id && m.started && m.compared.isNone) = some m) (ok : Bool) :
    m.started = true ∧ { m with compared := some s.beat, matched := ok } ∈ (s.compareNoted id ok).fab.moves := by
  have found := List.find?_some hf
  simp only [Bool.and_eq_true, beq_iff_eq] at found
  obtain ⟨⟨hid, hst⟩, -⟩ := found
  exact ⟨hst, List.mem_map.mpr ⟨m, List.mem_of_find?_eq_some hf, if_pos hid⟩⟩

/-- A failed compare writes MOVE_FAILS, EVENT and PAGE_FAULT of the XPT page. -/
theorem State.moveFail_wrote (s : State) (m : MoveRec) : s.Wrote (s.moveFail m) fun k =>
    k = regKey 0 (regA pXpt 0x068) ∨ k = regKey 0 (regA pXpt 0x04C) ∨ k = regKey 0 (regA pXpt 0x018) :=
  ((State.Wrote.refl s _).wr (.inl rfl) _).trans ((State.xptEvent_wrote _ 3 _).mono fun _ => .inr)

theorem State.moveFail_counts (s : State) (m : MoveRec) :
    (s.moveFail m).rd 0 (regA pXpt 0x068) = s.rd 0 (regA pXpt 0x068) + 1 ∧
      bitOf ((s.moveFail m).rd 0 (regA pXpt 0x04C)) 3 = true :=
  ⟨((State.xptEvent_wrote _ 3 _).rd (by decide)).trans (State.rd_wr_same _ _ _ _), State.xptEvent_sets _ (by omega) _⟩

/-! ### The beats after the compare -/

/-- The paths of a stage once the outputs of a list have left one path for another. -/
def ShiftsTo (p : MovePart) (t t' : Tab (Option Path)) : Prop := ∀ y, pathAt t' y =
  if y ∈ p.outs ∧ pathAt t y = some p.old then some p.new else pathAt t y

theorem pathAt_shiftOne (t : Tab (Option Path)) (x : Nat) (old new : Path) (y : Nat) :
    pathAt (if pathAt t x = some old then setPath t x (some new) else t) y =
      if y = x ∧ pathAt t y = some old then some new else pathAt t y := by
  by_cases h : pathAt t x = some old
  · rw [if_pos h, pathAt_setPath]
    by_cases e : y = x
    · rw [if_pos e, if_pos ⟨e, e ▸ h⟩]
    · rw [if_neg e, if_neg fun both => e both.1]
  · rw [if_neg h, if_neg]
    rintro ⟨rfl, same⟩
    exact h same

theorem shiftPath_shifts (p : MovePart) (t : Tab (Option Path)) : ShiftsTo p t (shiftPath p t) := by
  intro y
  unfold shiftPath
  generalize p.outs = l
  induction l generalizing t with
  | nil => simp
  | cons x r ih =>
    refine (ih _).trans ?_
    simp only [pathAt_shiftOne]
    by_cases e : y = x
    · subst e
      by_cases h : pathAt t y = some p.old <;> simp [h]
    · simp [e]

theorem noteMoved_frame (s : State) (p : MovePart) : { s.noteMoved p with tbl := s.tbl } = s :=
  forEach_keeps (P := fun u : State => { u with tbl := s.tbl } = s) _ (fun y _ u hu => by dsimp only; split <;> exact hu) rfl

theorem moveNext_of_compared {s : State} {m : MoveRec} {c : Nat} (hc : m.compared = some c) : s.moveNext m =
    if s.beat = c + 1 then (if m.matched then s.moveSwitch m else s)
    else if c + 2 ≤ s.beat then (if m.matched then s.moveDone m else s.moveUndone m) else s := by
  rw [State.moveNext, hc]

/-- What the end of a move that matched leaves, for a move of one part. -/
theorem State.moveDone_one (s : State) {m : MoveRec} {p : MovePart} (hp : m.parts = [p]) :
    (s.moveDone m).fab.ing = shiftPath p s.fab.ing ∧ (s.moveDone m).fab.mid = shiftPath p s.fab.mid ∧
      (s.moveDone m).fab.egr = s.fab.egr ∧ (s.moveDone m).fab.moves = s.fab.moves.filter (fun r => r.id != m.id) ∧
      (s.moveDone m).rd 0 (regA pXpt 0x064) = s.rd 0 (regA pXpt 0x064) + 1 := by
  let u : State := ({ s with fab := { s.fab with ing := shiftPath p s.fab.ing, mid := shiftPath p s.fab.mid } } : State).moveOver m
  let v : State := (u.noteMoved p).inc 0 (regA pXpt 0x064)
  have done : s.moveDone m = v.evacDone := by
    rw [State.moveDone, hp]
    rfl
  have noted := noteMoved_frame u p
  have notedFab : (u.noteMoved p).fab = u.fab := by
    have e := congrArg State.fab noted
    exact e
  have notedRegs : (u.noteMoved p).regs = u.regs := by
    have e := congrArg State.regs noted
    exact e
  have fab := (State.Evacuates.evacDone v).fab
  rw [← done] at fab
  have ing := congrArg FabSt.ing fab
  have mid := congrArg FabSt.mid fab
  have egr := congrArg FabSt.egr fab
  have moves := congrArg FabSt.moves fab
  have egr' := congrArg FabSt.egr notedFab
  refine ⟨ing.trans (congrArg FabSt.ing notedFab), mid.trans (congrArg FabSt.mid notedFab), egr.trans egr',
    moves.trans (congrArg FabSt.moves notedFab), ?_⟩
  rw [done, (State.Evacuates.evacDone v).rd 0 (by unfold EvacKey; decide)]
  refine (State.rd_wr_same _ _ _ _).trans (congrArg (· + 1) ?_)
  exact congrArg (Tab.get regReset · _) notedRegs

theorem State.moveUndone_leaves (s : State) (m : MoveRec) : (s.moveUndone m).fab.ing = s.fab.ing ∧
    (s.moveUndone m).fab.mid = s.fab.mid ∧ (s.moveUndone m).fab.egr = s.fab.egr ∧ (s.moveUndone m).regs = s.regs := by
  unfold State.moveUndone
  dsimp only
  split <;> exact ⟨rfl, rfl, rfl, rfl⟩

theorem State.compareFail_leaves (s : State) (id : Nat) (ok : Bool) (m : MoveRec) :
    s.memKept ((s.compareNoted id ok).moveFail m) ∧
      ((s.compareNoted id ok).moveFail m).fab = { s.fab with moves := (s.compareNoted id ok).fab.moves } ∧
      ((s.compareNoted id ok).moveFail m).rd 0 (regA pXpt 0x068) = s.rd 0 (regA pXpt 0x068) + 1 ∧
      bitOf (((s.compareNoted id ok).moveFail m).rd 0 (regA pXpt 0x04C)) 3 = true := by
  obtain ⟨count, event⟩ := (s.compareNoted id ok).moveFail_counts m
  have fails := (s.compareNoted id ok).moveFail_wrote m
  exact ⟨fails.memKept, fails.fab, count, event⟩

/-- A transaction that is rehearsed again gives up the moves that have not started. -/
theorem State.rehearseAgain_leaves (s : State) (t : Tx) : s.memKept (s.rehearseAgain t) ∧ (s.rehearseAgain t).regs = s.regs ∧
    (s.rehearseAgain t).fab = { s.fab with moves := s.fab.moves.filter fun m => m.started || m.tx != some t.id } :=
  ⟨fun _ => rfl, rfl, rfl⟩

/-- MOVE_COMPARE of a move whose beats have passed. -/
theorem moveCompare_noted {s : State} {id : Nat} {m : MoveRec} (same : Bool)
    (hf : (s.fab.moves.find? fun m => m.id == id && m.started && m.compared.isNone) = some m) (hb : m.b0 + 20 ≤ s.beat) :
    s.completes (.moveCompare id same) fun z =>
      s.memKept z ∧ z.fab.ing = s.fab.ing ∧ z.fab.mid = s.fab.mid ∧ z.fab.egr = s.fab.egr ∧
      { m with compared := some s.beat, matched := m.joined && s.movesAgree m && same } ∈ z.fab.moves ∧
      if m.joined = true ∧ s.movesAgree m = true ∧ same = true then z.regs = s.regs
      else z.rd 0 (regA pXpt 0x068) = s.rd 0 (regA pXpt 0x068) + 1 ∧ bitOf (z.rd 0 (regA pXpt 0x04C)) 3 = true := by
  have cases := execMoveCompare_cases same hf hb
  have matches_iff : (m.joined && s.movesAgree m && same) = true ↔ m.joined = true ∧ s.movesAgree m = true ∧ same = true := by
    rw [Bool.and_eq_true, Bool.and_eq_true, and_assoc]
  dsimp only at cases
  simp only [← matches_iff]
  generalize (m.joined && s.movesAgree m && same) = ok at cases ⊢
  obtain ⟨started, noted⟩ := compared_mem hf ok
  split_ifs at cases ⊢
  · exact ⟨_, cases, fun _ => rfl, rfl, rfl, rfl, noted, rfl⟩
  · obtain ⟨mem, fab, counts⟩ := s.compareFail_leaves id ok m
    generalize (s.compareNoted id ok).moveFail m = v at *
    rcases cases with hz | ⟨t, hz⟩
    · refine ⟨_, hz, mem, ?_⟩
      rw [fab]
      exact ⟨rfl, rfl, rfl, noted, counts⟩
    · obtain ⟨mem', regs', fab'⟩ := v.rehearseAgain_leaves t
      refine ⟨_, hz, fun a => (mem' a).trans (mem a), ?_⟩
      rw [fab', fab, State.rd, State.rd, regs']
      exact ⟨rfl, rfl, rfl, List.mem_filter.mpr ⟨noted, by simp [started]⟩, counts⟩

/-- Settles O42: the start, the compare and the beats after it, each from what its command writes. -/
theorem fabricMoves : Obligations.FabricMoves := by
  unfold Obligations.FabricMoves
  intro s
  refine ⟨fun m h => execMoveStart_full m h, fun id r hm hb hf => ?_, fun id m same hf => ⟨fun hb => ?_, moveCompare_noted same hf⟩,
    fun m p c hc hp => ?_⟩
  · have found := List.find?_some hf
    simp only [Bool.and_eq_true, beq_iff_eq] at found
    exact ⟨_, execMoveStart_scheduled hm hb hf, rfl, List.mem_map.mpr ⟨r, List.mem_of_find?_eq_some hf, if_pos found.1.1⟩⟩
  · change execMoveCompare id same s = _
    rw [execMoveCompare, hf]
    exact congrArg Host.Outcome.next (if_pos hb)
  · dsimp only
    rw [moveNext_of_compared hc]
    refine ⟨fun hb => ?_, fun hb hok => ?_, fun hb hok => ?_, fun hok => ?_⟩
    · rw [if_neg (by omega), if_neg (by omega)]
    · rw [if_pos hb, if_pos hok, State.moveSwitch, hp]
      exact ⟨shiftPath_shifts p _, rfl, rfl, rfl, rfl⟩
    · rw [if_neg (by omega), if_pos hb, if_pos hok]
      obtain ⟨ing, mid, egr, moves, count⟩ := s.moveDone_one hp
      rw [ing, mid, moves]
      exact ⟨shiftPath_shifts p _, shiftPath_shifts p _, egr, count, fun q hq => bne_iff_ne.mp (List.mem_filter.mp hq).2⟩
    · rw [hok]
      simp only [Bool.false_eq_true, if_false]
      split_ifs
      exacts [⟨rfl, rfl, rfl, rfl⟩, s.moveUndone_leaves m, ⟨rfl, rfl, rfl, rfl⟩]

/-! ### A move that starts in the beat of a swap -/

/-- A move of output 7 to another layer, scheduled for beat 10. -/
def toLayer0 : MoveRec := ⟨0, [⟨⟨5, 1, 0⟩, ⟨5, 0, 0⟩, [7]⟩], 10, none, 0, false, false, none, false⟩

/-- Beat 10: input 4 had entered the ingress stage for output 8 in beat 5, and a silence has just taken it off again. The middle stage
has seen neither yet. The scheduled move asks for the ingress channel that input 4 held. -/
def justSwapped : State :=
  let stage : Tab (Option Path) := [(7, some ⟨5, 1, 0⟩)]
  { State.reset with beat := 10, fab := { State.reset.fab with
      ing := stage, mid := stage, egr := stage, base := [(7, some ⟨5, 1, 0⟩), (8, some ⟨4, 0, 1⟩)]
      swaps := [⟨.cmd 0 1, 0, [(8, some ⟨4, 0, 1⟩)], .beat 5, 1, 5, 0⟩, ⟨.cmd 0 2, 0, [(8, none)], .beat 10, 1, 10, 0⟩]
      moves := [toLayer0], moveId := 1 } }

/-- No channel carries two inputs, by the paths that stand and by those before the beat's swap. -/
theorem justSwapped_channels (t : Tab (Option Path)) (ht : t = justSwapped.fab.ing ∨ t = justSwapped.swapBase) :
    ∀ e ∈ busyPaths t (justSwapped.fab.freed 10) justSwapped.fab.targets,
      ∀ e' ∈ busyPaths t (justSwapped.fab.freed 10) justSwapped.fab.targets, pathClash e.1 e.2 e'.1 e'.2 = false := by
  rcases ht with rfl | rfl <;> decide +kernel

/-- Its one move has a number of its own and has not started. -/
theorem justSwapped_moves : (justSwapped.fab.moves.map fun m => m.id).Nodup ∧
    ∀ m ∈ justSwapped.fab.moves, m.id < justSwapped.fab.moveId ∧ (m.started = false → m.joined = false) := by decide +kernel

/-- The move starts. -/
theorem justSwapped_starts : exec (.moveStart (.scheduled 0)) justSwapped = .next { justSwapped with fab := { justSwapped.fab with
    moves := [justSwapped.startMove toLayer0] } } :=
  execMoveStart_scheduled (r := toLayer0) (by decide +kernel) (by decide +kernel) rfl

/-- Refutes O41: a move is judged by the paths after the beat's swaps alone, so its target may take a channel that a path from before
them still holds, and to which a conflict later in the beat would return. -/
theorem not_channelsCarryOneInput : ¬ Obligations.ChannelsCarryOneInput := by
  unfold Obligations.ChannelsCarryOneInput
  intro h
  obtain ⟨-, -, -, start, -⟩ := h justSwapped ⟨justSwapped_channels, justSwapped_moves⟩
  obtain ⟨z, hz, paths, -⟩ := start (.scheduled 0)
  cases justSwapped_starts.symm.trans hz
  have apart := paths _ (.inr rfl) (8, ⟨4, 0, 1⟩) (by decide +kernel) (7, ⟨5, 0, 0⟩) (by decide +kernel)
  exact absurd apart (by decide +kernel)

end Sys2Proof.Machine
end

section
/-!
PROOFS. Scope: the slices of the fabric (R188 to R194, R198). Credit misses and SLOW, stalls, degraded flags and the worst pair, and middle
slices out of and back into service.
-/
namespace Sys2Proof.Machine

/-! ### Frames -/

/-- No register outside the XPT page and no byte of memory has changed. -/
def State.xptAlone (s z : State) : Prop :=
  (∀ j, j % 2 ^ 28 / 65536 ≠ pXpt → Tab.get regReset z.regs j = Tab.get regReset s.regs j) ∧ s.memKept z

section
variable {s t u : State}

theorem State.xptAlone.trans (h : s.xptAlone t) (g : t.xptAlone u) : s.xptAlone u :=
  ⟨fun j hj => (g.1 j hj).trans (h.1 j hj), fun a => (g.2 a).trans (h.2 a)⟩

theorem State.xptAlone_of_regs (hr : u.regs = s.regs) (hm : s.memKept u) : s.xptAlone u :=
  ⟨fun j _ => congrArg (Tab.get regReset · j) hr, hm⟩

theorem State.xptAlone_wrF (s : State) {off : Nat} (ho : off < 65536) (lo n v : Nat) : s.xptAlone (s.wrF 0 (regA pXpt off) lo n v) :=
  ⟨fun _ hj => Tab.get_put_other _ _ _ _ _ (ne_regKey_of_page 0 (by decide) ho hj), fun _ => rfl⟩

theorem State.Evacuates.xptAlone (h : s.Evacuates u) : s.xptAlone u := by
  refine ⟨fun j hj => h.regs j ?_, h.memKept⟩
  rintro (rfl | rfl | rfl) <;> exact hj (regKey_page 0 (by decide) (by omega))

/-- What an evacuation leaves of the fabric. -/
theorem State.Evacuates.slow (h : s.Evacuates u) : u.fab.slow = s.fab.slow := by
  have e := congrArg FabSt.slow h.fab
  exact e

theorem State.Evacuates.degraded (h : s.Evacuates u) : u.fab.degraded = s.fab.degraded := by
  have e := congrArg FabSt.degraded h.fab
  exact e

theorem State.Evacuates.xing (h : s.Evacuates u) : u.fab.xing = s.fab.xing := by
  have e := congrArg FabSt.xing h.fab
  exact e

theorem State.Evacuates.aged (h : s.Evacuates u) (a : Nat) : u.fab.aged a = s.fab.aged a := by
  have e := congrArg (FabSt.aged · a) h.fab
  exact e

theorem State.Evacuates.pwr (h : s.Evacuates u) : u.pwr = s.pwr := by
  have e := congrArg State.pwr h.rest
  exact e

end

/-- An event of a slice, and the evacuation that may follow it. -/
def State.reportSlice (s : State) (b fs : Nat) : State := (s.xptEvent b fs).autoEvac fs

theorem State.reportSlice_evacuates (s : State) (b fs : Nat) : s.Evacuates (s.reportSlice b fs) :=
  (State.Evacuates.xptEvent s b fs).trans (State.Evacuates.autoEvac _ fs)

theorem State.reportSlice_event (s : State) {b : Nat} (hb : b < 32) (fs : Nat) :
    bitOf ((s.reportSlice b fs).rd 0 (regA pXpt 0x04C)) b = true :=
  (State.Evacuates.autoEvac _ fs).events b (s.xptEvent_sets hb fs)

theorem tblKey_word_ne (pg b sel idx : Nat) {w w' : Nat} (h : w ≠ w') : tblKey pg b sel idx w ≠ tblKey pg b sel idx w' := by
  unfold tblKey
  omega

/-! ### Credit misses -/

/-- The credit misses of a slice in the last 256 beats, with one that comes now. -/
def State.recentMisses (s : State) (fs : Nat) : List Nat :=
  (s.beat :: Tab.get (fun _ => []) s.fab.misses fs).filter fun b => decide (s.beat < b + 256)

/-- A credit miss is counted in the slice's entry, with its lag. -/
def State.lagNoted (s : State) (fs lag : Nat) : State :=
  let u := s.setEnt pXpt 0 6 fs 1 (s.ent pXpt 0 6 fs 1 + 1)
  u.setEntF pXpt 0 6 fs 0 8 8 (max (u.entF pXpt 0 6 fs 0 8 8) lag)

/-- With it the beats of the slice's recent misses. -/
def State.missCounted (s : State) (fs lag : Nat) : State :=
  { s.lagNoted fs lag with fab := { s.fab with misses := Tab.put (fun _ => []) s.fab.misses fs (s.recentMisses fs) } }

theorem execCreditMiss_eq (fs : Fin 56) (lag : BitVec 8) (s : State) : exec (.creditMiss fs lag) s = .next (
    if s.slowN < (s.recentMisses fs).length ∧ !s.fab.slow.contains fs.val then
      ((s.missCounted fs lag.toNat).setSlow fs true).reportSlice 0 fs
    else s.missCounted fs lag.toNat) := rfl

theorem State.ent_withFab (s : State) (f : FabSt) (pg b sel idx w : Nat) :
    ({ s with fab := f } : State).ent pg b sel idx w = s.ent pg b sel idx w := rfl

theorem State.missCounted_ent (s : State) (fs lag w : Nat) :
    (s.missCounted fs lag).ent pXpt 0 6 fs w = (s.lagNoted fs lag).ent pXpt 0 6 fs w := State.ent_withFab _ _ _ _ _ _ _

theorem State.missCounted_count (s : State) (fs lag : Nat) :
    (s.missCounted fs lag).ent pXpt 0 6 fs 1 = s.ent pXpt 0 6 fs 1 + 1 := by
  have other : tblKey pXpt 0 6 fs 1 ≠ tblKey pXpt 0 6 fs 0 := tblKey_word_ne _ _ _ _ (by omega)
  rw [State.missCounted_ent, State.lagNoted, State.setEntF, State.ent_setEnt_other _ _ _ _ _ _ _ _ _ _ _ _ other,
    State.ent_setEnt_same]

theorem State.missCounted_lag (s : State) (fs : Nat) {lag : Nat} (h : lag < 256) :
    (s.missCounted fs lag).entF pXpt 0 6 fs 0 8 8 = max (s.entF pXpt 0 6 fs 0 8 8) lag := by
  have other : tblKey pXpt 0 6 fs 0 ≠ tblKey pXpt 0 6 fs 1 := tblKey_word_ne _ _ _ _ (by omega)
  have small : s.entF pXpt 0 6 fs 0 8 8 < 256 := fld_lt _ 8 8
  rw [State.entF, State.missCounted_ent, State.lagNoted]
  rw [State.ent_setEntF_same, fld_setFld_same _ _ _ _ (by omega), State.entF, State.ent_setEnt_other _ _ _ _ _ _ _ _ _ _ _ _ other]
  change max (s.entF pXpt 0 6 fs 0 8 8) lag % 2 ^ 8 = _
  omega

theorem State.missCounted_xptAlone (s : State) (fs lag : Nat) : s.xptAlone (s.missCounted fs lag) :=
  State.xptAlone_of_regs rfl fun _ => rfl

/-! ### SLOW -/

theorem State.setSlow_eq (s : State) (fs : Nat) (v : Bool) : ∃ off lo, off < 65536 ∧ s.setSlow fs v =
    { s.wrF 0 (regA pXpt off) lo 1 (if v then 1 else 0) with
      fab := { s.fab with slow := (s.fab.slow.filter fun k => k != fs) ++ (if v then [fs] else []) } } := by
  unfold State.setSlow
  dsimp only
  split
  · exact ⟨0x044, fs - 16, by omega, rfl⟩
  · exact ⟨0x05C, edgeBit fs, by omega, rfl⟩

theorem State.setSlow_leaves (s : State) (fs : Nat) (v : Bool) : s.xptAlone (s.setSlow fs v) ∧ (s.setSlow fs v).tbl = s.tbl ∧
    (s.setSlow fs v).fab.slow = (s.fab.slow.filter fun k => k != fs) ++ (if v then [fs] else []) := by
  obtain ⟨off, lo, ho, h⟩ := s.setSlow_eq fs v
  rw [h]
  exact ⟨(s.xptAlone_wrF ho lo 1 (if v then 1 else 0)).trans (State.xptAlone_of_regs rfl fun _ => rfl), rfl, rfl⟩

/-- CREDIT_MISS. -/
theorem creditMiss_counts (s : State) (fs : Fin 56) (lag : BitVec 8) : ∃ z, exec (.creditMiss fs lag) s = .next z ∧ s.xptAlone z ∧
    z.ent pXpt 0 6 fs 1 = s.ent pXpt 0 6 fs 1 + 1 ∧ z.entF pXpt 0 6 fs 0 8 8 = max (s.entF pXpt 0 6 fs 0 8 8) lag.toNat ∧
    ((s.recentMisses fs).length ≤ s.slowN → z.fab.slow = s.fab.slow ∧ z.regs = s.regs) ∧
    (s.slowN < (s.recentMisses fs).length → fs.val ∈ z.fab.slow ∧
      (fs.val ∉ s.fab.slow → bitOf (z.rd 0 (regA pXpt 0x04C)) 0 = true)) := by
  have count := s.missCounted_count fs lag.toNat
  have top := s.missCounted_lag fs lag.isLt
  have alone := s.missCounted_xptAlone fs lag.toNat
  refine ⟨_, execCreditMiss_eq fs lag s, ?_⟩
  split
  next slows =>
    obtain ⟨many, -⟩ := slows
    obtain ⟨set, tbl, slow⟩ := (s.missCounted fs lag.toNat).setSlow_leaves fs true
    let u := (s.missCounted fs lag.toNat).setSlow fs true
    have report := u.reportSlice_evacuates 0 fs
    have word {w : Nat} (hw : w % 16 ≠ 3) :
        (u.reportSlice 0 fs).ent pXpt 0 6 fs w = (s.missCounted fs lag.toNat).ent pXpt 0 6 fs w :=
      (report.ent _ _ _ _ hw).trans (congrArg (Tab.get tblReset · _) tbl)
    refine ⟨(alone.trans set).trans report.xptAlone, (word (by omega)).trans count, (congrArg (fld · 8 8) (word (by omega))).trans top,
      fun few => absurd few (by omega), fun _ => ⟨?_, fun _ => u.reportSlice_event (by omega) fs⟩⟩
    rw [report.slow, slow]
    exact List.mem_append_right _ (List.mem_singleton_self _)
  next keeps =>
    refine ⟨alone, count, top, fun _ => ⟨rfl, rfl⟩, fun many => ?_⟩
    have slow : fs.val ∈ s.fab.slow := by simpa [many] using keeps
    exact ⟨slow, fun h => absurd slow h⟩

/-- SLOW_CLEAR. -/
theorem slowClear_ends (s : State) (fs : Fin 56) :
    let last := (Tab.get (fun _ => []) s.fab.misses fs.val).head?.getD 0
    ∃ z, exec (.slowClear fs) s = .next z ∧
      (fs.val ∉ s.fab.slow ∨ s.beat < last + s.clearMs * 345600 → z = s) ∧
      (fs.val ∈ s.fab.slow → last + s.clearMs * 345600 ≤ s.beat → s.xptAlone z ∧ fs.val ∉ z.fab.slow ∧ z.tbl = s.tbl ∧
        ∀ k, k ≠ fs.val → (k ∈ z.fab.slow ↔ k ∈ s.fab.slow)) := by
  intro last
  have due : s.fab.slow.contains fs.val = true ∧ last + s.clearMs * 345600 ≤ s.beat ↔
      fs.val ∈ s.fab.slow ∧ last + s.clearMs * 345600 ≤ s.beat := by rw [List.contains_iff_mem]
  refine ⟨if s.fab.slow.contains fs.val ∧ last + s.clearMs * 345600 ≤ s.beat then s.setSlow fs false else s, rfl,
    fun early => if_neg fun h => ?_, fun slow quiet => ?_⟩
  · obtain ⟨slow, quiet⟩ := due.mp h
    exact early.elim (fun e => e slow) (by omega)
  · rw [if_pos (due.mpr ⟨slow, quiet⟩)]
    obtain ⟨alone, tbl, left⟩ := s.setSlow_leaves fs false
    rw [left]
    refine ⟨alone, by simp, tbl, fun k hk => by simp [hk]⟩

/-! ### Stalls -/

/-- A stall is counted, the words on the slice's channels are gone, and its bit is set. -/
def State.stallTaken (s : State) (fs : Nat) : State :=
  let fl := (s.fab.flight.zipIdx).map fun (ws, age) => ws.filter fun e => !stalledKey age e.1 fs
  let s1 := { s.setEnt pXpt 0 6 fs 2 (s.ent pXpt 0 6 fs 2 + 1) with
    fab := { s.fab with flight := fl, stall := Tab.ins s.fab.stall fs s.beat } }
  if isMid fs then s1.wrF 0 (regA pXpt 0x050) (fs - 16) 1 1 else s1.wrF 0 (regA pXpt 0x060) (edgeBit fs) 1 1

theorem execSliceStall_eq (fs : Fin 56) (s : State) : exec (.sliceStall fs) s = .next (
    if s.fab.stall.any fun e => e.1 == fs.val && s.beat ≤ e.2 + 1 then s.stallTaken fs else (s.stallTaken fs).reportSlice 1 fs) := rfl

theorem State.stallTaken_eq (s : State) (fs : Nat) : ∃ off lo, off < 65536 ∧ s.stallTaken fs =
    { (s.setEnt pXpt 0 6 fs 2 (s.ent pXpt 0 6 fs 2 + 1)).wrF 0 (regA pXpt off) lo 1 1 with
      fab := { s.fab with
        flight := (s.fab.flight.zipIdx).map fun (ws, age) => ws.filter fun e => !stalledKey age e.1 fs
        stall := Tab.ins s.fab.stall fs s.beat } } := by
  unfold State.stallTaken
  dsimp only
  split
  · exact ⟨0x050, fs - 16, by omega, rfl⟩
  · exact ⟨0x060, edgeBit fs, by omega, rfl⟩

/-- The words of an age, once those that fail a test of age and word are gone. -/
theorem FabSt.aged_filtered (f : FabSt) (c : Nat → Nat × FWord → Bool) (st : Tab Nat) (a : Nat) :
    ({ f with flight := f.flight.zipIdx.map fun (ws, age) => ws.filter (c age), stall := st } : FabSt).aged a =
      (f.aged a).filter (c a) := by
  simp only [FabSt.aged, List.headD_eq_head?_getD, List.head?_drop, List.getElem?_map, List.getElem?_zipIdx]
  cases f.flight[a]? <;> simp

theorem State.stallTaken_leaves (s : State) (fs : Nat) : s.xptAlone (s.stallTaken fs) ∧
    (s.stallTaken fs).ent pXpt 0 6 fs 2 = s.ent pXpt 0 6 fs 2 + 1 ∧
    ∀ a e, e ∈ (s.stallTaken fs).fab.aged a ↔ e ∈ s.fab.aged a ∧ stalledKey a e.1 fs = false := by
  obtain ⟨off, lo, ho, h⟩ := s.stallTaken_eq fs
  rw [h]
  let u := s.setEnt pXpt 0 6 fs 2 (s.ent pXpt 0 6 fs 2 + 1)
  refine ⟨State.xptAlone.trans (t := u) (State.xptAlone_of_regs rfl fun _ => rfl)
    ((u.xptAlone_wrF ho lo 1 1).trans (State.xptAlone_of_regs rfl fun _ => rfl)), State.ent_setEnt_same _ _ _ _ _ _ _, fun a e => ?_⟩
  rw [FabSt.aged_filtered s.fab (fun age e => !stalledKey age e.1 fs)]
  simp

/-- SLICE_STALL. -/
theorem sliceStall_takes (s : State) (fs : Fin 56) : ∃ z, exec (.sliceStall fs) s = .next z ∧ s.xptAlone z ∧
    z.ent pXpt 0 6 fs 2 = s.ent pXpt 0 6 fs 2 + 1 ∧
    (∀ a e, e ∈ z.fab.aged a ↔ e ∈ s.fab.aged a ∧ stalledKey a e.1 fs = false) ∧
    ((∀ e ∈ s.fab.stall, e.1 = fs.val → e.2 + 1 < s.beat) → bitOf (z.rd 0 (regA pXpt 0x04C)) 1 = true) := by
  obtain ⟨alone, count, words⟩ := s.stallTaken_leaves fs
  refine ⟨_, execSliceStall_eq fs s, ?_⟩
  split
  next goesOn =>
    refine ⟨alone, count, words, fun first => ?_⟩
    obtain ⟨e, hin, he⟩ := List.any_eq_true.mp goesOn
    simp only [Bool.and_eq_true, beq_iff_eq, decide_eq_true_eq] at he
    exact absurd (first e hin he.1) (by omega)
  next =>
    have report := (s.stallTaken fs).reportSlice_evacuates 1 fs
    refine ⟨alone.trans report.xptAlone, (report.ent _ _ _ _ (by omega)).trans count, fun a e => ?_,
      fun _ => State.reportSlice_event _ (by omega) fs⟩
    rw [report.aged]
    exact words a e

/-! ### The worst pair -/

/-- One pair is reported before another: never both ways, and what is before a pair is before all that the pair is not after. -/
theorem XingPair.before_asymm {p q : XingPair} (h : q.before p = true) : p.before q = false := by
  simp only [XingPair.before, decide_eq_true_eq, decide_eq_false_iff_not] at *
  omega

theorem XingPair.not_before_trans {p q w : XingPair} (h : q.before p = false) (g : p.before w = false) : q.before w = false := by
  simp only [XingPair.before, decide_eq_false_iff_not] at *
  omega

theorem XingPair.not_before_self (p : XingPair) : p.before p = false := by
  simp only [XingPair.before, decide_eq_false_iff_not]
  omega

/-- The pair that a run through a list keeps is one of the list, and none is before it. -/
theorem worst_of_foldl (l : List XingPair) (p : XingPair) :
    let w := l.foldl (fun w q => if q.before w then q else w) p
    w ∈ p :: l ∧ ∀ q ∈ p :: l, q.before w = false := by
  induction l generalizing p with
  | nil => exact ⟨List.mem_singleton_self p, fun q hq => by rw [List.mem_singleton.mp hq]; exact p.not_before_self⟩
  | cons x r ih =>
    rw [List.foldl_cons]
    by_cases hx : x.before p = true
    · rw [if_pos hx]
      obtain ⟨hin, best⟩ := ih x
      have passed := XingPair.not_before_trans (XingPair.before_asymm hx) (best x List.mem_cons_self)
      exact ⟨List.mem_cons_of_mem _ hin, List.forall_mem_cons.mpr ⟨passed, best⟩⟩
    · rw [if_neg hx]
      obtain ⟨hin, best⟩ := ih p
      obtain ⟨first, later⟩ := List.forall_mem_cons.mp best
      have passed := XingPair.not_before_trans (Bool.not_eq_true _ ▸ hx) first
      exact ⟨List.cons_subset_cons _ (List.subset_cons_self _ _) hin,
        List.forall_mem_cons.mpr ⟨first, List.forall_mem_cons.mpr ⟨passed, later⟩⟩⟩

theorem State.xingWorst_worst {s : State} {p : XingPair} (h : p ∈ s.xingPairs) : ∃ w ∈ s.xingPairs,
    (∀ q ∈ s.xingPairs, q.before w = false) ∧ s.xingWorst = wd (w.dv % 256 + w.dt % 256 * 256 + w.a * 65536 + w.b * 2 ^ 24) := by
  unfold State.xingWorst
  rcases hl : s.xingPairs with _ | ⟨x, r⟩
  · rw [hl] at h
    cases h
  · obtain ⟨hin, best⟩ := worst_of_foldl r x
    exact ⟨_, hin, best, rfl⟩

/-! ### Degraded islands -/

theorem Tab.mem_ins {α : Type} (t : Tab α) (k : Nat) (v : α) : (k, v) ∈ Tab.ins t k v := by
  induction t with
  | nil => exact List.mem_singleton_self _
  | cons e r ih =>
    unfold Tab.ins
    split_ifs
    exacts [List.mem_cons_self, List.mem_cons_self, List.mem_cons_of_mem _ ih]

theorem Tab.mem_keep {α : Type} {f : Nat → Bool} {t : Tab α} {e : Nat × α} (h : e ∈ Tab.keep f t) : f e.1 = true := by
  induction t with
  | nil => cases h
  | cons x r ih =>
    unfold Tab.keep at h
    split at h
    next hx =>
      rcases List.mem_cons.mp h with rfl | h
      exacts [hx, ih h]
    next => exact ih h

/-- The differences of a flagged slice and its neighbour are noted. -/
def State.pairNoted (s : State) (fs dv dt nb : Nat) : State :=
  { s with fab := { s.fab with xing := Tab.ins s.fab.xing (fs * 256 + nb) (dv, dt) } }

theorem State.fabDegraded_eq (s : State) (fs dv dt nb : Nat) : s.fabDegraded fs dv dt nb =
    if s.fab.degraded.contains fs then s.pairNoted fs dv dt nb
    else ({ s.pairNoted fs dv dt nb with
      fab := { (s.pairNoted fs dv dt nb).fab with degraded := s.fab.degraded ++ [fs] } } : State).reportSlice 2 fs := rfl

/-- A fabric slice is flagged. -/
theorem State.fabDegraded_flags (s : State) (fs dv dt : Nat) {nb : Nat} (hn : nb < 256) : s.xptAlone (s.fabDegraded fs dv dt nb) ∧
    (s.fabDegraded fs dv dt nb).pwr = s.pwr ∧ fs ∈ (s.fabDegraded fs dv dt nb).fab.degraded ∧
    (fs ∉ s.fab.degraded → bitOf ((s.fabDegraded fs dv dt nb).rd 0 (regA pXpt 0x04C)) 2 = true) ∧
    (⟨min fs nb, max fs nb, dv, dt⟩ : XingPair) ∈ (s.fabDegraded fs dv dt nb).xingPairs := by
  have noted : (⟨min fs nb, max fs nb, dv, dt⟩ : XingPair) ∈ (s.pairNoted fs dv dt nb).xingPairs := by
    refine List.mem_map.mpr ⟨_, Tab.mem_ins _ _ _, ?_⟩
    rw [show (fs * 256 + nb) / 256 = fs by omega, show (fs * 256 + nb) % 256 = nb by omega]
  rw [State.fabDegraded_eq]
  split
  next flagged =>
    have hin : fs ∈ s.fab.degraded := List.contains_iff_mem.mp flagged
    exact ⟨State.xptAlone_of_regs rfl fun _ => rfl, rfl, hin, fun h => absurd hin h, noted⟩
  next =>
    let u : State := { s.pairNoted fs dv dt nb with fab := { (s.pairNoted fs dv dt nb).fab with degraded := s.fab.degraded ++ [fs] } }
    have report := u.reportSlice_evacuates 2 fs
    refine ⟨State.xptAlone.trans (t := u) (State.xptAlone_of_regs rfl fun _ => rfl) report.xptAlone, report.pwr, ?_,
      fun _ => u.reportSlice_event (by omega) fs, ?_⟩
    · rw [report.degraded]
      exact List.mem_append_right _ (List.mem_singleton_self _)
    · rw [State.xingPairs, report.xing]
      exact noted

/-- The number of an island among the flagged ones. -/
def islandKey (i : Island) : Nat := i.group.val * 256 + i.number.val

/-- The flag of an island and the condition of its group. -/
def State.islandFlagged (s : State) (i : Island) : State :=
  let g := i.group.val
  let s1 := if s.groupDegraded g then s else (s.setActive 0 (544 + g) true).occur (544 + g) g 0
  if s.pwr.degraded.contains (islandKey i) then s1 else s1.setPwr { s1.pwr with degraded := s1.pwr.degraded ++ [islandKey i] }

theorem execIslandDegraded_eq (i : Island) (dv dt nb : BitVec 8) (s : State) : exec (.islandDegraded i dv dt nb) s = .next (
    match islandSlice i.group.val i.number.val with
    | some fs => (s.islandFlagged i).fabDegraded fs dv.toNat dt.toNat nb.toNat
    | none =>
      if (i.group.val = 27 ∨ i.group.val = 28) ∧ i.number.val < 32 ∧ !s.pwr.degraded.contains (islandKey i) then
        (s.islandFlagged i).folDegraded (32 * (i.group.val - 27) + i.number.val)
      else s.islandFlagged i) := rfl

theorem State.islandFlagged_leaves (s : State) (i : Island) : s.xptAlone (s.islandFlagged i) ∧ (s.islandFlagged i).fab = s.fab ∧
    islandKey i ∈ (s.islandFlagged i).pwr.degraded := by
  let u := if s.groupDegraded i.group.val then s
    else (s.setActive 0 (544 + i.group.val) true).occur (544 + i.group.val) i.group.val 0
  obtain ⟨alone, fab, pwr⟩ : s.xptAlone u ∧ u.fab = s.fab ∧ u.pwr = s.pwr := by
    unfold u
    split <;> exact ⟨State.xptAlone_of_regs rfl fun _ => rfl, rfl, rfl⟩
  change s.xptAlone (if s.pwr.degraded.contains (islandKey i) then u else _) ∧
    (if s.pwr.degraded.contains (islandKey i) then u else _).fab = _ ∧
    islandKey i ∈ (if s.pwr.degraded.contains (islandKey i) then u else _).pwr.degraded
  split
  next flagged =>
    rw [pwr]
    exact ⟨alone, fab, List.contains_iff_mem.mp flagged⟩
  next =>
    exact ⟨alone.trans (State.xptAlone_of_regs rfl fun _ => rfl), fab, List.mem_append_right _ (List.mem_singleton_self _)⟩

/-! The power manager's flags are no concern of a core that moves. -/

theorem State.event_pwr (s : State) (pg b p : Nat) : (s.event pg b p).pwr = s.pwr := by
  rcases s.event_cases pg b p with h | ⟨bank, off, -, h⟩ <;> rw [h]
  rfl

theorem State.raise_pwr (s : State) (pg b p : Nat) : (s.raise pg b p).pwr = s.pwr := by
  obtain ⟨o, h⟩ := (s.event pg b p).faultAt_eq pg b (pageInst pg) p
  rw [State.raise, State.raiseAt, h]
  exact s.event_pwr pg b p

theorem State.folDegraded_pwr (s : State) (c : Nat) : (s.folDegraded c).pwr = s.pwr := by
  unfold State.folDegraded State.folTrigger
  dsimp only
  split_ifs
  exacts [rfl, rfl, s.raise_pwr _ _ _, rfl]

/-- ISLAND_DEGRADED. -/
theorem islandDegraded_flags (s : State) (i : Island) (dv dt nb : BitVec 8) : ∃ z, exec (.islandDegraded i dv dt nb) s = .next z ∧
    islandKey i ∈ z.pwr.degraded ∧
    ∀ fs, islandSlice i.group i.number = some fs → s.xptAlone z ∧ fs ∈ z.fab.degraded ∧
      (fs ∉ s.fab.degraded → bitOf (z.rd 0 (regA pXpt 0x04C)) 2 = true) ∧
      (⟨min fs nb.toNat, max fs nb.toNat, dv.toNat, dt.toNat⟩ : XingPair) ∈ z.xingPairs ∧
      ∃ w ∈ z.xingPairs, (∀ q ∈ z.xingPairs, q.before w = false) ∧
        z.xingWorst = wd (w.dv % 256 + w.dt % 256 * 256 + w.a * 65536 + w.b * 2 ^ 24) := by
  obtain ⟨alone, fab, flag⟩ := s.islandFlagged_leaves i
  have go := execIslandDegraded_eq i dv dt nb s
  rcases h : islandSlice i.group.val i.number.val with _ | fs
  · rw [h] at go
    refine ⟨_, go, ?_, fun fs hfs => nomatch hfs⟩
    dsimp only
    split
    · rwa [State.folDegraded_pwr]
    · exact flag
  · rw [h] at go
    obtain ⟨alone', pwr, flagged, event, pair⟩ := (s.islandFlagged i).fabDegraded_flags fs dv.toNat dt.toNat nb.isLt
    rw [fab] at event
    refine ⟨_, go, by rwa [pwr], ?_⟩
    rintro _ ⟨⟩
    exact ⟨alone.trans alone', flagged, event, pair, State.xingWorst_worst pair⟩

/-- DEGRADED_CLEAR. -/
theorem degradedClear_ends (s : State) (i : Island) : ∃ z, exec (.degradedClear i) s = .next z ∧
    islandKey i ∉ z.pwr.degraded ∧ z.regs = s.regs ∧ s.memKept z ∧
    ∀ fs, islandSlice i.group i.number = some fs → fs ∉ z.fab.degraded ∧ ∀ e ∈ z.fab.xing, e.1 / 256 ≠ fs := by
  let u := s.setPwr { s.pwr with degraded := s.pwr.degraded.filter fun j => j != islandKey i }
  let v := if u.groupDegraded i.group then u else u.setActive 0 (544 + i.group.val) false
  obtain ⟨flag, regs, mem⟩ : islandKey i ∉ v.pwr.degraded ∧ v.regs = s.regs ∧ s.memKept v := by
    have gone : islandKey i ∉ u.pwr.degraded := by simp [u, State.setPwr]
    unfold v
    split <;> exact ⟨gone, rfl, fun _ => rfl⟩
  have go : exec (.degradedClear i) s = .next (match islandSlice i.group.val i.number.val with
    | some fs => v.fabDegradedClear fs
    | none => v) := rfl
  rcases h : islandSlice i.group.val i.number.val with _ | fs
  · rw [h] at go
    exact ⟨v, go, flag, regs, mem, fun fs hfs => nomatch hfs⟩
  · rw [h] at go
    refine ⟨_, go, flag, regs, mem, ?_⟩
    rintro _ ⟨⟩
    refine ⟨fun hin => ?_, fun e he => bne_iff_ne.mp (Tab.mem_keep he)⟩
    simpa using (List.mem_filter.mp hin).2

/-! ### Middle slices out of service -/

theorem State.admitted_fab (s : State) (x : Access) : (s.admitted x).fab = s.fab := by
  have h := congrArg State.fab (s.admitted_frame x)
  exact h

theorem State.admitted_midOut (s : State) (x : Access) (m : Nat) : (s.admitted x).midOut m = s.midOut m := by
  refine congrArg (bitOf · m) (State.regsKept_rd (s.admitted_regs x) ?_)
  refine fun hin => (List.mem_cons.mp hin).elim (fun h => ?_) (by decide)
  have off := congrArg (· % 65536) h
  simp only [regKey, regA] at off
  omega

theorem State.midRoutes_of_fab {s u : State} (h : u.fab = s.fab) (m : Nat) : u.midRoutes m = s.midRoutes m := by
  rw [State.midRoutes, State.midRoutes, h]

/-- A slice that is told to evacuate and carries routes is under evacuation. -/
theorem State.mem_evac_evacuate {s : State} {m : Nat} (hr : s.midRoutes m ≠ []) : m ∈ (s.evacuate m).fab.evac := by
  unfold State.evacuate
  split
  next h => exact List.contains_iff_mem.mp h
  next =>
    let u : State := { s with fab := { s.fab with evac := s.fab.evac ++ [m] } }
    have joined : m ∈ u.fab.evac := List.mem_append_right _ (List.mem_singleton_self m)
    dsimp only
    refine (State.Evacuates.trans ?_ (State.Evacuates.evacDone _)).evac m joined hr
    exact (State.Evacuates.refl u).ite ((State.Evacuates.setFail _ _ _ _ _).trans (State.Evacuates.xptEvent _ _ _)) _

/-- One bit of a write of MID_OUT. -/
def State.takeOut (s : State) (m : Nat) : State := (s.wrF 0 (regA pXpt 0x054) m 1 1).evacuate m

theorem State.takeOut_evacuates (s : State) (m : Nat) : s.Evacuates (s.takeOut m) :=
  (State.Evacuates.leaves s (m := m) fun _ h _ => h).trans (State.Evacuates.evacuate _ m)

theorem State.midOut_wrF (s : State) {k : Nat} (hk : k < 32) (v m : Nat) :
    (s.wrF 0 (regA pXpt 0x054) k 1 v).midOut m = if m = k then v % 2 == 1 else s.midOut m := by
  rw [State.midOut, State.wrF, State.rd_wr_same]
  split
  next e => rw [e, bitOf_setFld_same _ _ _ hk]
  next e => exact bitOf_setFld_other _ _ _ _ _ (by omega) (by omega)

theorem State.takeOut_out (s : State) {m : Nat} (hm : m < 32) : (s.takeOut m).midOut m = true ∧
    (s.midRoutes m ≠ [] → m ∈ (s.takeOut m).fab.evac) :=
  ⟨(State.Evacuates.evacuate _ m).outs m (by rw [State.midOut_wrF _ hm, if_pos rfl]; rfl), fun hr => State.mem_evac_evacuate hr⟩

/-- A write of MID_OUT. -/
theorem writeMidOut_evacuates (d : Word) (s : State) : s.Evacuates (writeMidOut d s) :=
  State.Evacuates.forEach fun m _ v => v.takeOut_evacuates m

theorem writeMidOut_out {d : Word} {m : Nat} (hm : m < 24) (hd : bitOf d m = true) (s : State) :
    (writeMidOut d s).midOut m = true ∧ (s.midRoutes m ≠ [] → m ∈ (writeMidOut d s).fab.evac) := by
  have named : m ∈ idxs 24 fun m => bitOf d m := List.mem_filter.mpr ⟨List.mem_range.mpr hm, hd⟩
  refine (forEach_reaches (P := fun u => s.Evacuates u)
    (Q := fun u => s.Evacuates u ∧ u.midOut m = true ∧ (s.midRoutes m ≠ [] → m ∈ u.fab.evac)) _ named
    (fun k _ u hu => hu.trans (u.takeOut_evacuates k)) (fun u hu => ?_) (fun k _ u hu => ?_) (.refl s)).2
  · obtain ⟨out, evac⟩ := u.takeOut_out (m := m) (by omega)
    exact ⟨hu.trans (u.takeOut_evacuates m), out, fun hr => evac (by rwa [hu.midRoutes])⟩
  · obtain ⟨evacuates, out, evac⟩ := hu
    have next := u.takeOut_evacuates k
    exact ⟨evacuates.trans next, next.outs m out, fun hr => next.evac m (evac hr) (by rwa [evacuates.midRoutes])⟩

theorem midOutWrite_takes {s : State} {t : Tag} {d : Word} (ha : s.admits (.w32 t (regA pXpt 0x054) d) = true) :
    s.completes (.midOutWrite t d) fun z => s.memKept z ∧ ∀ m, m < 24 → (s.midOut m = true → z.midOut m = true) ∧
      (bitOf d m = true → z.midOut m = true ∧ (s.midRoutes m ≠ [] → m ∈ z.fab.evac)) := by
  refine State.completes_of_admitted ha rfl fun r => ?_
  have mem : s.memKept _ := s.admitted_memKept (.w32 t (regA pXpt 0x054) d)
  have outs (m : Nat) := s.admitted_midOut (.w32 t (regA pXpt 0x054) d) m
  have routes (m : Nat) := State.midRoutes_of_fab (s.admitted_fab (.w32 t (regA pXpt 0x054) d)) m
  generalize s.admitted _ = u at *
  have write := writeMidOut_evacuates d u
  refine ⟨fun a => (write.memKept a).trans (mem a), fun m hm => ⟨fun h => write.outs m ((outs m).trans h), fun hd => ?_⟩⟩
  obtain ⟨out, evac⟩ := writeMidOut_out hm hd u
  exact ⟨out, fun hr => evac (by rwa [routes])⟩

/-! ### Middle slices back into service -/

/-- A middle slice that is SLOW or flagged degraded. -/
def State.unfit (s : State) (m : Nat) : Bool := s.fab.slow.contains (16 + m) || s.fab.degraded.contains (16 + m)

/-- The named slices that are out of service: those that stay out, and those that come back. -/
def State.staysOut (s : State) (d : Word) : List Nat := (idxs 24 fun m => bitOf d m && s.midOut m).filter s.unfit
def State.comesBack (s : State) (d : Word) : List Nat :=
  (idxs 24 fun m => bitOf d m && s.midOut m).filter fun m => !(s.staysOut d).contains m

/-- A slice comes back. -/
def State.bringBack (s : State) (m : Nat) : State :=
  { s.wrF 0 (regA pXpt 0x054) m 1 0 with fab := { s.fab with evac := s.fab.evac.filter fun k => k != m } }

/-- The named slices that are fit are back, and the solver tries again. -/
def State.broughtBack (s : State) (d : Word) : State :=
  let u := forEach (s.comesBack d) (fun m s => s.bringBack m) s
  if (s.comesBack d).isEmpty then u else u.tryAgain

theorem writeMidReturn_eq (d : Word) (s : State) : writeMidReturn d s =
    match s.staysOut d with
    | [] => s.broughtBack d
    | m :: _ => (s.broughtBack d).xptEvent 6 (16 + m) := rfl

theorem State.mem_staysOut {s : State} {d : Word} {m : Nat} :
    m ∈ s.staysOut d ↔ m < 24 ∧ (bitOf d m = true ∧ s.midOut m = true) ∧ s.unfit m = true := by
  rw [State.staysOut, List.mem_filter, idxs, List.mem_filter, List.mem_range, Bool.and_eq_true, and_assoc]

theorem State.mem_comesBack {s : State} {d : Word} {m : Nat} :
    m ∈ s.comesBack d ↔ m < 24 ∧ (bitOf d m = true ∧ s.midOut m = true) ∧ s.unfit m = false := by
  rw [State.comesBack, List.mem_filter, idxs, List.mem_filter, List.mem_range, Bool.and_eq_true, Bool.not_eq_true', ← Bool.not_eq_true,
    List.contains_iff_mem, State.mem_staysOut, ← Bool.not_eq_true]
  tauto

theorem State.midOut_bringBacks {l : List Nat} (hl : ∀ k ∈ l, k < 24) (s : State) (m : Nat) :
    (forEach l (fun m s => s.bringBack m) s).midOut m = (s.midOut m && !l.contains m) := by
  unfold forEach
  induction l generalizing s with
  | nil => simp
  | cons k r ih =>
    have hk := hl k List.mem_cons_self
    have one : (s.bringBack k).midOut m = if m = k then false else s.midOut m := s.midOut_wrF (by omega) 0 m
    rw [List.foldl_cons, ih (fun j hj => hl j (List.mem_cons_of_mem _ hj)), one]
    by_cases e : m = k <;> simp [e]

theorem State.broughtBack_leaves (s : State) (d : Word) : s.memKept (s.broughtBack d) ∧ (s.broughtBack d).tbl = s.tbl ∧
    (s.broughtBack d).midOut = (forEach (s.comesBack d) (fun m s => s.bringBack m) s).midOut := by
  have frame : s.memKept (forEach (s.comesBack d) (fun m s => s.bringBack m) s) ∧
      (forEach (s.comesBack d) (fun m s => s.bringBack m) s).tbl = s.tbl :=
    forEach_keeps (P := fun u : State => s.memKept u ∧ u.tbl = s.tbl) (f := fun m s => s.bringBack m) _ (fun _ _ _ hu => hu)
      ⟨fun _ => rfl, rfl⟩
  unfold State.broughtBack
  dsimp only
  split
  exacts [⟨frame.1, frame.2, rfl⟩, ⟨frame.1, frame.2, rfl⟩]

theorem State.midOut_broughtBack (s : State) (d : Word) {m : Nat} (hm : m < 24) :
    (s.broughtBack d).midOut m = (s.midOut m && (!bitOf d m || s.unfit m)) := by
  have listed : (s.comesBack d).contains m = (bitOf d m && s.midOut m && !s.unfit m) := by
    rw [Bool.eq_iff_iff, List.contains_iff_mem, State.mem_comesBack]
    simp [hm]
  obtain ⟨-, -, same⟩ := s.broughtBack_leaves d
  rw [same, State.midOut_bringBacks (fun k hk => (State.mem_comesBack.mp hk).1), listed]
  cases s.midOut m <;> cases bitOf d m <;> simp

/-- A write of MID_RETURN. -/
theorem writeMidReturn_returns (d : Word) (s : State) : s.memKept (writeMidReturn d s) ∧ (writeMidReturn d s).tbl = s.tbl ∧
    ∀ m, m < 24 → (writeMidReturn d s).midOut m = (s.midOut m && (!bitOf d m || s.unfit m)) ∧
      (bitOf d m = true → s.midOut m = true → s.unfit m = true →
        bitOf ((writeMidReturn d s).rd 0 (regA pXpt 0x04C)) 6 = true) := by
  obtain ⟨mem, tbl, -⟩ := s.broughtBack_leaves d
  have outs {m : Nat} (hm : m < 24) := s.midOut_broughtBack d hm
  rw [writeMidReturn_eq]
  rcases stays : s.staysOut d with _ | ⟨k, r⟩
  · refine ⟨mem, tbl, fun m hm => ⟨outs hm, fun hd ho hu => ?_⟩⟩
    have listed := State.mem_staysOut.mpr ⟨hm, ⟨hd, ho⟩, hu⟩
    rw [stays] at listed
    cases listed
  · have wrote := (s.broughtBack d).xptEvent_wrote 6 (16 + k)
    refine ⟨fun a => (wrote.memKept a).trans (mem a), wrote.tbl.trans tbl,
      fun m hm => ⟨?_, fun _ _ _ => State.xptEvent_sets _ (by omega) _⟩⟩
    rw [State.midOut, wrote.rd (by decide)]
    exact outs hm

theorem midReturn_returns {s : State} {t : Tag} {d : Word} (ha : s.admits (.w32 t (regA pXpt 0x058) d) = true) :
    s.completes (.midReturn t d) fun z => s.memKept z ∧ z.tbl = s.tbl ∧ ∀ m, m < 24 →
      z.midOut m = (s.midOut m && (!bitOf d m || s.unfit m)) ∧
      (bitOf d m = true → s.midOut m = true → s.unfit m = true → bitOf (z.rd 0 (regA pXpt 0x04C)) 6 = true) := by
  refine State.completes_of_admitted ha rfl fun r => ?_
  have mem : s.memKept _ := s.admitted_memKept (.w32 t (regA pXpt 0x058) d)
  have tbl := s.admitted_tbl (.w32 t (regA pXpt 0x058) d)
  have outs (m : Nat) := s.admitted_midOut (.w32 t (regA pXpt 0x058) d) m
  have unfit (m : Nat) : (s.admitted (.w32 t (regA pXpt 0x058) d)).unfit m = s.unfit m := by
    rw [State.unfit, State.unfit, s.admitted_fab]
  generalize s.admitted _ = u at *
  obtain ⟨mem', tbl', returns⟩ := writeMidReturn_returns d u
  simp only [outs, unfit] at returns
  exact ⟨fun a => (mem' a).trans (mem a), tbl'.trans tbl, returns⟩

/-- Settles O43: each command from what its count, its bit or its flag writes and what the event and the evacuation after it leave. -/
theorem sliceService : Obligations.SliceService := by
  unfold Obligations.SliceService
  intro s ev frame
  exact ⟨creditMiss_counts s, slowClear_ends s, sliceStall_takes s, islandDegraded_flags s, degradedClear_ends s,
    fun t d => ⟨midOutWrite_takes, midReturn_returns⟩⟩

end Sys2Proof.Machine
end
